-- ==== Sys2Proof/Word.lean ====
section
/-! DEFINITION. The plain types of the model: bytes, floating-point words, sparse maps. -/

namespace Sys2Proof

/-- One byte. -/
abbrev Byte := BitVec 8

/-- A binary32 word (02_number_formats R51). -/
abbrev F32 := BitVec 32

/-- A BF16 word (02_number_formats R52). -/
abbrev BF16 := BitVec 16

/-- A sparse map from numbers: keys strictly rising, no entry equal to what an unlisted key reads as. -/
abbrev SMap (α : Type) := List (Nat × α)

/-- Bytes by address, the same form. -/
abbrev Mem := SMap (BitVec 8)

end Sys2Proof
end

