-- ==== Sys2Proof/Syntax.lean ====
section
/-! DEFINITION. The commands the block takes, one constructor of `Instr` per row of spec/opcode_table.json,
and the types of their operands. An operand says what the outside supplies: which register, which ring, which
unit, and, for an event whose cause is physical (a conversion, a sensor, a rail), what that cause was. -/

namespace Sys2Proof

/-- The two PLLs the clock monitor judges (17_clocks R407 to R409). -/
inductive PllId where
  | root
  | pilot
  deriving DecidableEq, Repr

/-- The three kinds of flue job (06_flue_path, the table of jobs). -/
inductive FlueKind where
  | recompute
  | outlier
  | delta
  deriving DecidableEq, Repr

/-- Where a register write goes (21_host_interface R469, R472; 11_graec_rings R253). -/
inductive RegTarget where
  /-- A 4-byte write to BAR0 of a function. -/
  | bar0 (fn offset : Nat)
  /-- A 4-byte write to the doorbell page of a function. -/
  | bar2 (fn offset : Nat)
  /-- An SMBus write of a command code. -/
  | smbus (command : Nat)
  deriving DecidableEq, Repr

/-- A conversion that differs from the nominal one (log entry 8): converter `conv` of array `arr` of the tile
latched the 7-bit `code`, or was late (03_arrays R65, R66). -/
structure ConvDev where
  arr : Nat
  conv : Nat
  code : BitVec 7
  lateSettle : Bool
  lateTrial : Bool
  deriving DecidableEq, Repr

/-- A read of a row through the digital port that returned something else than the cells hold (log entry 8):
`nth` says which read of the command it was. -/
structure RowRead where
  nth : Nat
  row : Nat
  bits : Nat
  deriving DecidableEq, Repr

/-- The conversions of one level in a measurement (04_calibration R93, R96): the sum of their codes, and how many read code 0
or code 127. -/
structure LevelMeas where
  sum : Nat
  clipped : Nat
  deriving DecidableEq, Repr

/-- What the fit of one measurement gives (04_calibration R93): the line, the levels left out, and whether an included level
decodes more than 16/64 of a level from its centre. -/
structure Fit where
  a : Rat
  b : Rat
  leftOut : Nat
  nonlinear : Bool
  deriving DecidableEq, Repr

/-- The measurements of one converter, level 0 first: 0 to 607, 608 the spare on column pair 0, 609 the spare on the replica
bank (04_calibration R96). `m2` is the repeat measurement of an attempt. -/
structure ConvMeas where
  array : Nat
  conv : Nat
  m1 : List LevelMeas
  m2 : List LevelMeas
  deriving DecidableEq, Repr

/-- What a SELF_TEST phase found in a unit (16_faults R396). -/
inductive TestFinding where
  | clean
  /-- A march error, or a sweep mismatch that did not rerun clean. -/
  | fault
  /-- Phase 1: this row, read with these cells, differs from the golden copy. -/
  | rowDiffers (row bits : Nat)
  /-- Phase 2: levels that one converter decoded wrongly. -/
  | wrongLevels (conv count : Nat)
  deriving DecidableEq, Repr

/-- A direction of the tile mesh: a higher or lower column, a higher or lower row (01_machine R17, R18). -/
inductive MeshDir where
  | east | west | south | north
  deriving DecidableEq, Repr

/-- A mesh link: from the router of a tile in a direction. -/
structure MeshLink where
  tile : Nat
  dir : MeshDir
  deriving DecidableEq, Repr

/-- A mesh flit (01_machine R19): 32 bytes of data, the 8-byte header, and the parity sideband. -/
structure MeshFlit where
  data : BitVec 256
  header : BitVec 64
  parity : BitVec 40
  deriving DecidableEq, Repr

/-- A line of tile memory as it was read back (16_faults R385). -/
structure LineRead where
  tile : Nat
  line : Nat
  bytes : List Byte
  deriving DecidableEq, Repr

/-- The sector an uncorrectable HBM error lies in, by region (16_faults R386). -/
inductive HbmSite where
  | sys (addr : Nat)
  | ring (addr : Nat)
  | gold (addr array row : Nat) (isRow : Bool)
  | reqRecord (addr slot : Nat)
  | prefixTable (addr : Nat)
  | hob (addr slot : Nat)
  | delta (addr ctx variant : Nat)
  | cache (addr row : Nat)
  | table (addr ctx : Nat)
  | mirror (addr key : Nat)
  | pool (addr page : Nat)
  deriving DecidableEq, Repr

/-- A device read of host memory that failed (16_faults R389). -/
inductive HostRead where
  | slot (ring : Nat)
  | payload (ring seq : Nat)
  | row (reqSlot : Nat)
  deriving DecidableEq, Repr

/-- What the handler of an error does (16_faults R382). -/
inductive ErrAct where
  /-- The action is FAILED. -/
  | fatal
  /-- Context halt (R384): context, cause, context tile, program index. -/
  | halt (ctx cause ctile instr : Nat)
  /-- Uncorrectable HBM error (R386). -/
  | hbm (site : HbmSite)
  /-- V12_IN low (18_power R433), in 10 mV. -/
  | inputLow (tenMv : Nat)
  /-- One more read of the same data (R389). -/
  | hostRetry (read : HostRead)
  /-- The action goes on in commands of its own (a repair, a recalibration, a rerun, a takeover). -/
  | elsewhere
  deriving DecidableEq, Repr

/-- An error raised in a domain (16_faults R382): its event code, unit and detail for DEV_FAILED (R400), and its
handler's action. -/
structure ErrIn where
  domain : Nat
  code : Nat
  unit : Nat
  detail : Nat
  act : ErrAct
  deriving DecidableEq, Repr

/-- The boundary sensors and rail-group monitors (19_thermal R438, R439). -/
inductive Sensor where
  | ta
  | tc
  | flow
  | monitor (group : Nat)
  deriving DecidableEq, Repr

/-- What a thermal update evaluates (19_thermal R437 to R443, log entry 9): the node temperatures in 1/128 °C, the
interval in microseconds, the modelled powers in W, and the sensor readings (temperatures in 1/128 °C, flow in
0.01 L/min). -/
structure ThmIn where
  temps : List Int
  interval : Nat
  pFix : Nat
  pPace : Nat
  ta : Option Int
  tc : Option Int
  flow : Option Nat
  deriving DecidableEq, Repr

/-- The parameters a TRAIN frame carries (14_chimney R338). -/
structure TrainIn where
  chimneyId : Nat
  n : Nat
  topo : Nat
  role : Nat
  port : Nat
  minVer : Nat
  maxVer : Nat
  deriving DecidableEq, Repr

/-- What a Configuration Request asks (21_host_interface R462 to R464): the identity, or a write of one of the two
controls another rule reads: VF Enable with NumVFs of SR-IOV, and ASPM L1 of Link Control. -/
inductive CfgOp where
  | readId
  | numVfs (n : Nat)
  | aspmL1 (on : Bool)
  deriving DecidableEq, Repr

/-- A link: an own port and, in switched mode, the peer role (14_chimney R333). -/
structure LinkId where
  port : Nat
  peer : Nat
  deriving DecidableEq, Repr

/-- The commands, one constructor per row of spec/opcode_table.json. -/
inductive Instr where
  /-- PACKET_CONSUME (R258). -/
  | packetConsume (ring : Nat)
  /-- FENCE_START (R264). -/
  | fenceStart (ring seq : Nat)
  /-- IN_PROGRESS_POST (R277). -/
  | inProgressPost (ring seq progress position : Nat)
  /-- MSIX_COALESCE (R267). -/
  | msixCoalesce (ring : Nat)
  /-- CONSUMPTION_RESUME (R272). -/
  | consumptionResume
  /-- OUTSTANDING_DRAINED (R302). -/
  | outstandingDrained (ring seq : Nat)
  /-- DOORBELL_TAIL (R259). -/
  | doorbellTail (fn ring index resv : Nat) (wr : List (Nat × List Byte))
  /-- DOORBELL_HEAD (R260). -/
  | doorbellHead (fn ring index resv : Nat)
  /-- ADMIN_ENABLE (R254). -/
  | adminEnable (fn value : Nat)
  /-- ADMIN_DISABLE (R254). -/
  | adminDisable (fn value : Nat)
  /-- REGISTER_WRITE (R469). -/
  | registerWrite (t : RegTarget) (value : Nat)
  /-- LOW_HALF_READ (R470). -/
  | lowHalfRead (fn offset : Nat)
  /-- HIGH_HALF_READ (R470). -/
  | highHalfRead (fn offset : Nat)
  /-- CONFIG_REQUEST (R464). -/
  | configRequest (fn : Nat) (op : CfgOp)
  /-- FLR (R468). -/
  | flr (vf : Nat)
  /-- SSC_CFG_WRITE (R474). -/
  | sscCfgWrite (value : Nat)
  /-- LOG_DATA_READ (R472). -/
  | logDataRead
  /-- CLEAR_CODE_WRITE (R475). -/
  | clearCodeWrite (code : Nat)
  /-- HELLO (R268). -/
  | hello (ring seq : Nat)
  /-- GOODBYE (R286). -/
  | goodbye (ring seq : Nat)
  /-- RING_CREATE (R255). -/
  | ringCreate (ring seq : Nat)
  /-- RING_DESTROY (R256). -/
  | ringDestroy (ring seq : Nat)
  /-- RING_BIND (R252). -/
  | ringBind (ring seq : Nat)
  /-- CTX_CREATE (R287). -/
  | ctxCreate (ring seq : Nat)
  /-- CTX_DESTROY (R288). -/
  | ctxDestroy (ring seq : Nat)
  /-- CTX_LOAD (R208). -/
  | ctxLoad (ring seq : Nat) (reads : List LineRead)
  /-- VARIANT_LOAD (R146). -/
  | variantLoad (ring seq : Nat)
  /-- VARIANT_DROP (R147). -/
  | variantDrop (ring seq : Nat)
  /-- TABLE_LOAD (R191). -/
  | tableLoad (ring seq : Nat)
  /-- TABLE_UPDATE (R291). -/
  | tableUpdate (ring seq : Nat)
  /-- REQ_OPEN (R292). -/
  | reqOpen (ring seq : Nat)
  /-- REQ_APPEND (R293). -/
  | reqAppend (ring seq : Nat)
  /-- REQ_STEP (R294). -/
  | reqStep (ring seq : Nat)
  /-- REQ_VERIFY (R295). -/
  | reqVerify (ring seq : Nat)
  /-- REQ_CLOSE (R296). -/
  | reqClose (ring seq : Nat)
  /-- REQ_CANCEL (R296). -/
  | reqCancel (ring seq : Nat)
  /-- REQ_QUERY (R298). -/
  | reqQuery (ring seq : Nat)
  /-- PREFIX_PIN (R174). -/
  | prefixPin (ring seq : Nat)
  /-- PREFIX_RELEASE (R174). -/
  | prefixRelease (ring seq : Nat)
  /-- PANEL_READ (R117). -/
  | panelRead (ring seq : Nat)
  /-- PANEL_WRITE (R117). -/
  | panelWrite (ring seq : Nat)
  /-- CAL_RUN (R97). -/
  | calRun (ring seq : Nat)
  /-- CAL_STATUS (R300). -/
  | calStatus (ring seq : Nat)
  /-- CAL_COMMIT (R108). -/
  | calCommit (ring seq : Nat)
  /-- SELF_TEST (R396). -/
  | selfTest (ring seq : Nat)
  /-- SWEEP_CONFIG (R300). -/
  | sweepConfig (ring seq : Nat)
  /-- CASCADE_JOIN (R332). -/
  | cascadeJoin (ring seq : Nat)
  /-- CASCADE_LEAVE (R306). -/
  | cascadeLeave (ring seq : Nat)
  /-- CROWN_ASSIGN (R346). -/
  | crownAssign (ring seq : Nat)
  /-- MIRROR_CONFIG (R359). -/
  | mirrorConfig (ring seq : Nat)
  /-- FAILOVER_ADOPT (R364). -/
  | failoverAdopt (ring seq : Nat)
  /-- LOG_FREEZE (R455). -/
  | logFreeze (ring seq : Nat)
  /-- LOG_READ (R456). -/
  | logRead (ring seq : Nat)
  /-- LOG_THAW (R455). -/
  | logThaw (ring seq : Nat)
  /-- LOG_CLEAR (R459). -/
  | logClear (ring seq : Nat)
  /-- POWER_LIMIT (R444). -/
  | powerLimit (ring seq : Nat)
  /-- STATE_SET (R427). -/
  | stateSet (ring seq : Nat)
  /-- POWER_DOWN (R302). -/
  | powerDown (ring seq : Nat)
  /-- TRACE_START (R303). -/
  | traceStart (ring seq : Nat)
  /-- TRACE_STOP (R303). -/
  | traceStop (ring seq : Nat)
  /-- RECORD_START (R375). -/
  | recordStart (ring seq : Nat)
  /-- RECORD_STOP (R304). -/
  | recordStop (ring seq : Nat)
  /-- REPLAY (R378). -/
  | replay (ring seq : Nat)
  /-- OP_PROGRESS (R278). -/
  | opProgress (ring seq : Nat)
  /-- OP_ABORT (R308). -/
  | opAbort (ring seq : Nat)
  /-- FW_STAGE (R477). -/
  | fwStage (ring seq : Nat)
  /-- FW_ACTIVATE (R479). -/
  | fwActivate (ring seq : Nat)
  /-- DISPATCH_BOUNDARY (R316). -/
  | dispatchBoundary (ctx : Nat)
  /-- SPILL_RETURN (R171). -/
  | spillReturn
  /-- APPEND_CHUNK_RETRY (R170). -/
  | appendChunkRetry (ring seq : Nat)
  /-- APPEND_CHUNK_TIMEOUT (R293). -/
  | appendChunkTimeout (ring seq : Nat)
  /-- EXECUTION_START (R211). -/
  | executionStart (tile : Nat)
  /-- EXECUTION_END (R210). -/
  | executionEnd (tile : Nat)
  /-- INSTRUCTION_COMPLETE (R212). -/
  | instructionComplete (tile issue : Nat)
  /-- EXEC_LIMIT_EXPIRE (R214). -/
  | execLimitExpire (tile : Nat)
  /-- FIRE (R223). -/
  | fire (tile : Nat)
  /-- FIREV (R225). -/
  | firev (tile : Nat)
  /-- FIRE_SLOT (R62). -/
  | fireSlot (tile bank : Nat) (devs : List ConvDev)
  /-- PRELOAD (R127). -/
  | preload (tile : Nat)
  /-- PROMOTE (R227). -/
  | promote (tile : Nat)
  /-- MOVE (R228). -/
  | move (tile : Nat)
  /-- QUANT (R229). -/
  | quant (tile : Nat)
  /-- DEQ (R230). -/
  | deq (tile : Nat)
  /-- SEND (R231). -/
  | send (tile : Nat)
  /-- RECV (R231). -/
  | recv (tile : Nat)
  /-- REDUCE (R232). -/
  | reduce (tile : Nat)
  /-- KVAPP (R233). -/
  | kvapp (tile : Nat)
  /-- HOB_FLUSH (R158). -/
  | hobFlush (slot layer head : Nat)
  /-- KVIDX (R235). -/
  | kvidx (tile : Nat)
  /-- KVGATH (R236). -/
  | kvgath (tile : Nat)
  /-- ATTN (R237). -/
  | attn (tile : Nat)
  /-- KVEVICT (R239). -/
  | kvevict (tile : Nat)
  /-- NORM (R241). -/
  | norm (tile : Nat)
  /-- ACT (R242). -/
  | act (tile : Nat)
  /-- ROPE (R243). -/
  | rope (tile : Nat)
  /-- EMBG (R244). -/
  | embg (tile : Nat)
  /-- SAMPLE (R246). -/
  | sample (tile : Nat)
  /-- VERIFY (R247). -/
  | verify (tile : Nat)
  /-- WAIT (R213). -/
  | waitCtr (tile : Nat)
  /-- SIGNAL (R248). -/
  | signal (tile : Nat)
  /-- SIGNAL_ARRIVAL (R213). -/
  | signalArrival (tile : Nat)
  /-- LOOP (R249). -/
  | loopBody (tile : Nat)
  /-- BR (R249). -/
  | br (tile : Nat)
  /-- END (R250). -/
  | endExec (tile : Nat)
  /-- NOP (R250). -/
  | nopInstr (tile : Nat)
  /-- TIMEREAD (R250). -/
  | timeread (tile : Nat)
  /-- RECOMPUTE (R73). -/
  | recompute (engine : Nat) (reads : List RowRead)
  /-- OUTLIER (R138). -/
  | outlier (engine : Nat)
  /-- DELTA (R138). -/
  | delta (engine : Nat) (parity : Bool)
  /-- FLUE_RESULT_ARRIVAL (R72). -/
  | flueResultArrival (tile : Nat)
  /-- FREE (R143). -/
  | freeFlue (engine : Nat) (kind : FlueKind)
  /-- STORAGE_REPORT (R77). -/
  | storageReport (tile : Nat)
  /-- STORAGE_REPAIR (R76). -/
  | storageRepair (array : Nat) (reads : List RowRead)
  /-- SCRUB_ROW (R81). -/
  | scrubRow (array : Nat) (reads : List RowRead)
  /-- WINDOW_CLOSE (R84). -/
  | windowClose (array : Nat)
  /-- BG_CAL_DWELL (R103). -/
  | bgCalDwell (fits : List ConvMeas)
  /-- RECAL_DWELL (R105). -/
  | recalDwell (array : Nat) (fits : List ConvMeas)
  /-- CAL_REFERENCE_CHECK (R91). -/
  | calReferenceCheck (ppm : List Int)
  /-- CAL_ATTEMPT_END (R98). -/
  | calAttemptEnd (fits : List ConvMeas)
  /-- CAL_TRIM_LOAD (R97). -/
  | calTrimLoad
  /-- SELF_TEST_PHASE_END (R396). -/
  | selfTestPhaseEnd (phase unit : Nat) (found : TestFinding)
  /-- SWEEP_ROUND (R392). -/
  | sweepRound (kind unit slots : Nat) (devs : List (Nat × ConvDev)) (digest : Nat)
  /-- SWEEP_DIGEST (R393). -/
  | sweepDigest (kind unit : Nat) (rerunsAgree : Bool)
  /-- SWEEP_SUBINTERVAL (R395). -/
  | sweepSubinterval
  /-- HBM_PATROL (R187). -/
  | hbmPatrol (addr : Nat) (corrected : Bool)
  /-- HBM_UNCORRECTABLE (R386). -/
  | hbmUncorrectable (site : HbmSite)
  /-- HBM_STACK_FAIL (R387). -/
  | hbmStackFail (stack : Nat)
  /-- TILE_PARITY_ERROR (R388). -/
  | tileParityError (tile line : Nat)
  /-- MESH_PARITY_ERROR (R388). -/
  | meshParityError (sent : MeshFlit) (link : MeshLink) (got : MeshFlit)
  /-- HOST_READ_FAIL (R389). -/
  | hostReadFail (read : HostRead)
  /-- HOST_READ_RETRY_RESULT (R389). -/
  | hostReadRetryResult (ok : Bool)
  /-- ERROR_RAISE (R383). -/
  | errorRaise (e : ErrIn)
  /-- HANDLER_END (R383). -/
  | handlerEnd
  /-- HANDLER_TIMEOUT (R382). -/
  | handlerTimeout
  /-- ROOT_ATTEMPT_START (R408). -/
  | rootAttemptStart
  /-- ROOT_ATTEMPT_TIMEOUT (R408). -/
  | rootAttemptTimeout
  /-- ROOT_SERIES_RETRY (R408). -/
  | rootSeriesRetry
  /-- MONITOR_WINDOW (R407). -/
  | monitorWindow (pll : PllId) (count : Nat)
  /-- MISSING_EDGE_TRIP (R410). -/
  | missingEdgeTrip
  /-- LOCK_LOST_TRIP (R410). -/
  | lockLostTrip (pll : PllId)
  /-- LANE0_ENTER_L0 (R409). -/
  | lane0EnterL0
  /-- LANE0_LEAVE_L0 (R410). -/
  | lane0LeaveL0
  /-- DIVIDER_STEP (R418). -/
  | dividerStep
  /-- HBM_RECOVERY (R415). -/
  | hbmRecovery (badRow : Option Nat)
  /-- V12_RISE (R423). -/
  | v12Rise (tenMv : Nat)
  /-- RAIL_POWER_GOOD (R423). -/
  | railPowerGood (rail : Nat)
  /-- RAIL_ENABLE_TIMEOUT (R424). -/
  | railEnableTimeout (rail : Nat)
  /-- RAIL_REENABLE (R423). -/
  | railReenable (rail : Nat)
  /-- PERST_ASSERT (R429). -/
  | perstAssert
  /-- PERST_DEASSERT (R425). -/
  | perstDeassert
  /-- HOT_RESET (R465). -/
  | hotReset
  /-- BOOT_COMPLETE (R426). -/
  | bootComplete (ms : Nat) (failed : Option Nat)
  /-- RAIL_FAIL_RUN (R432). -/
  | railFailRun (rail tenMv : Nat)
  /-- PWR_INPUT_LOW (R433). -/
  | pwrInputLow (tenMv : Nat)
  /-- INPUT_RECOVERED (R433). -/
  | inputRecovered
  /-- INPUT_LOSS (R433). -/
  | inputLoss (tenMv : Nat)
  /-- SENSE_CHANGE (R485). -/
  | senseChange (ok : Bool)
  /-- RAIL_FALLEN (R430). -/
  | railFallen (rail : Nat)
  /-- RAIL_FALL_TIMEOUT (R431). -/
  | railFallTimeout (rail : Nat)
  /-- WAKE (R428). -/
  | wake
  /-- HOST_LINK_RETRAIN (R466). -/
  | hostLinkRetrain (rate width cause : Nat)
  /-- MODULE_PRESENT (R483). -/
  | modulePresent (cage : Nat)
  /-- MODULE_REMOVED (R483). -/
  | moduleRemoved (cage : Nat)
  /-- CAGE_OVERCURRENT (R483). -/
  | cageOvercurrent (cage : Nat)
  /-- THM_UPDATE (R441). -/
  | thmUpdate (t : ThmIn)
  /-- COEFFICIENT_ADJUST (R438). -/
  | coefficientAdjust (measured : List (Option Nat)) (modelled : List Nat)
  /-- SENSOR_INVALID (R439). -/
  | sensorInvalid (s : Sensor)
  /-- FLUE_LOAD_WINDOW (R321). -/
  | flueLoadWindow
  /-- TABLE_UPDATE_APPLY (R196). -/
  | tableUpdateApply (ctx : Nat)
  /-- LOG_EVENT (R452). -/
  | logEvent (code domain data : Nat)
  /-- LOG_RECORD_TIMEOUT (R452). -/
  | logRecordTimeout
  /-- LOG_FLASH_WRITE (R453). -/
  | logFlashWrite
  /-- LOG_RECORDS_LOST (R453). -/
  | logRecordsLost
  /-- LOG_FREEZE_TIMEOUT (R455). -/
  | logFreezeTimeout
  /-- PORT_TRAINED (R338). -/
  | portTrained (port : Nat)
  /-- TRAIN (R338). -/
  | trainFrame (port : Nat) (p : TrainIn)
  /-- PORT_RETRAIN (R338). -/
  | portRetrain (port : Nat)
  /-- JOIN_TIMEOUT (R339). -/
  | joinTimeout (ring seq : Nat)
  /-- ANNOUNCE_SEND (R333). -/
  | announceSend (port : Nat)
  /-- ANNOUNCE (R333). -/
  | announceFrame (port chimneyId role peerPort mac : Nat)
  /-- LINK (R342). -/
  | linkFrame (l : LinkId) (flags lack : Nat)
  /-- LACK_REPORT (R342). -/
  | lackReport (l : LinkId)
  /-- FRAME_RECEIVE (R343). -/
  | frameReceive (l : LinkId) (bytes : List Byte) (room : Bool)
  /-- FRAME_FORWARD (R337). -/
  | frameForward (port : Nat) (bytes : List Byte)
  /-- RETRANSMIT_TIMEOUT (R343). -/
  | retransmitTimeout (l : LinkId)
  /-- FULL_RESEND (R344). -/
  | fullResend (l : LinkId)
  /-- LNK_RETRY_EXHAUSTED (R345). -/
  | lnkRetryExhausted (l : LinkId)
  /-- START (R352). -/
  | startFrame
  /-- DONE (R354). -/
  | doneFrame
  /-- COMMIT (R353). -/
  | commitFrame
  /-- ABORT (R356). -/
  | abortFrame
  /-- ABORT_ACK (R357). -/
  | abortAck
  /-- STEP_TIMEOUT (R356). -/
  | stepTimeout (step : Nat)
  /-- HEARTBEAT_SEND (R362). -/
  | heartbeatSend
  /-- HEARTBEAT (R362). -/
  | heartbeatFrame
  /-- HEARTBEAT_SILENCE (R362). -/
  | heartbeatSilence (role : Nat)
  /-- FENCE (R362). -/
  | fenceFrame
  /-- DATA (R350). -/
  | dataFrame
  /-- CREDIT (R350). -/
  | creditFrame
  /-- GATHER_REQ (R194). -/
  | gatherReq
  /-- GATHER_RSP (R194). -/
  | gatherRsp
  /-- TUPDATE (R196). -/
  | tupdateFrame
  /-- MIRROR (R360). -/
  | mirrorFrame
  /-- MIRROR_ACK (R360). -/
  | mirrorAck
  /-- MIRROR_FREE (R360). -/
  | mirrorFree
  /-- XFER (R364). -/
  | xferFrame
  /-- REGULATOR_FAULT_DOWN (R431). -/
  | regulatorFaultDown (rail : Nat)
  /-- V3P3_AUX_CHANGE (R434). -/
  | v3p3AuxChange (present : Bool)
  /-- LOSS_OF_SIGNAL (R370). -/
  | lossOfSignal (port : Nat)
  /-- SMBUS_REFRESH (R473). -/
  | smbusRefresh
  /-- CHIMNEY_CONTEXT_READY (R347). -/
  | chimneyContextReady (stepNs caps : List Nat)
  deriving DecidableEq, Repr

end Sys2Proof
end

