-- ==== Sys2Proof/Config.lean ====
section
/-! DEFINITION. What an implementation fixes and the manual leaves open: opaque constants, so that no statement can rest
on a value of theirs (log entry 2). -/

namespace Sys2Proof.Config

/-- DESIGN CHOICE, log entry 2: a fresh 24-bit draw of the hardware entropy source (10_instructions R246). -/
opaque entropy : Nat → BitVec 24

/-- DESIGN CHOICE, log entry 17: the sweep seed derived from PKG_UID at BOOT (16_faults R391); the manual does not state
the derivation. -/
opaque sweepSeed : Nat → Nat

/-- DESIGN CHOICE, log entry 17: the data cells of a sweep row generated from the sweep seed and the lower tile number of
the pair (16_faults R391): seed, lower tile, array within the tile, row within group 16. -/
opaque sweepBits : Nat → Nat → Nat → Nat → Nat

/-- DESIGN CHOICE, log entry 19: STEP_NS of an image (13_serving R319) in terms of its total length and its digest. -/
opaque stepNs : Nat → Nat → Nat

/-- DESIGN CHOICE, log entry 20: whether the signature of a firmware image verifies against the fused key
(21_host_interface R476). -/
opaque sigOk : List Byte → Bool

/-- DESIGN CHOICE, log entry 13: the retry-after in ns of a BUSY for which the manual states none (11_graec_rings R273),
by opcode and free index. -/
opaque retryNs : Nat → Nat → Nat

/-- DESIGN CHOICE, log entry 17: the 64 activation bits of a bit-plane of a sweep round (16_faults R392), from the sweep seed, the
lower tile of the pair, the array within the tile, the round number and the plane. -/
opaque sweepActs : Nat → Nat → Nat → Nat → Nat → Nat

/-- DESIGN CHOICE, log entry 21: fields of a log record or completion whose value the manual does not state, by an index
given where each is used. -/
opaque openField : Nat → Nat

/-- DESIGN CHOICE, log entry 24: the payload bytes of a Skavel frame, or of a part of one, whose layout the manual does not
state, by frame type and the fields it carries (14_chimney R341). -/
opaque layoutOf : Nat → List Nat → List Byte

/-- DESIGN CHOICE, log entry 24: the fields such payload bytes carry. -/
opaque fieldsOf : Nat → List Byte → List Nat

/-- DESIGN CHOICE, log entry 123: what an ACC64 element holds after a sum that does not fit 64 bits (05_accumulation R123). -/
opaque accBeyond : Int → BitVec 64

/-- DESIGN CHOICE, log entry 125: the 16-bit field of a calibration record that stands for a replica delta outside its range
(04_calibration R107). -/
opaque replicaBeyond : Int → BitVec 16

/-- DESIGN CHOICE, log entry 25: the bytes of REQ that the prefix handle table takes (08_tables_tiers R189). -/
opaque handleTable : Nat

end Sys2Proof.Config
end

