-- ==== Sys2Proof/Machine/Sparse.lean ====
section
/-! DEFINITION. Sparse maps in canonical form, and little-endian fields of byte lists. -/

namespace Sys2Proof.Machine

/-- What key `k` reads as. -/
def get {α : Type} (dflt : α) : SMap α → Nat → α
  | [], _ => dflt
  | (j, v) :: m, k => if j = k then v else get dflt m k

/-- `m` without an entry for `k`. -/
def erase {α : Type} : SMap α → Nat → SMap α
  | [], _ => []
  | (j, v) :: m, k => if j = k then erase m k else (j, v) :: erase m k

/-- `m` with `k ↦ v` inserted in key order; `m` holds no entry for `k`. -/
def insert {α : Type} (k : Nat) (v : α) : SMap α → SMap α
  | [] => [(k, v)]
  | (j, w) :: m => if k < j then (k, v) :: (j, w) :: m else (j, w) :: insert k v m

/-- Write: an entry equal to the default is not listed. -/
def put {α : Type} [DecidableEq α] (dflt : α) (m : SMap α) (k : Nat) (v : α) : SMap α :=
  if v = dflt then erase m k else insert k v (erase m k)

/-- Read an optional entry. -/
abbrev look {α : Type} (m : SMap (Option α)) (k : Nat) : Option α := get none m k

/-- Write an optional entry. -/
abbrev store {α : Type} [DecidableEq α] (m : SMap (Option α)) (k : Nat) (v : Option α) : SMap (Option α) :=
  put none m k v

/-- Read a counter or a byte count, 0 when unlisted. -/
abbrev nat (m : SMap Nat) (k : Nat) : Nat := get 0 m k

/-- The canonical form: keys strictly rising and no entry equal to the default. -/
def wf {α : Type} [DecidableEq α] (dflt : α) : SMap α → Bool
  | [] => true
  | (_, v) :: [] => decide (v ≠ dflt)
  | (j, v) :: (k, w) :: m => decide (j < k) && decide (v ≠ dflt) && wf dflt ((k, w) :: m)

/-! ## Bytes -/

/-- The number a little-endian byte list spells (00_scope R6). -/
def leNat : List Byte → Nat
  | [] => 0
  | b :: bs => b.toNat + 256 * leNat bs

/-- `n` little-endian bytes of `v`. -/
def natLe : Nat → Nat → List Byte
  | 0, _ => []
  | n + 1, v => BitVec.ofNat 8 v :: natLe n (v / 256)

/-- A little-endian field of `len` bytes at `off` of a byte list; bytes beyond the end are 0. -/
def field (bs : List Byte) (off len : Nat) : Nat := leNat ((bs.drop off).take len)

/-- Bits `[hi:lo]` of a number. -/
def bits (v hi lo : Nat) : Nat := v / 2 ^ lo % 2 ^ (hi + 1 - lo)

/-- Bit `i` of a number. -/
def bit (v i : Nat) : Bool := v / 2 ^ i % 2 == 1

/-- A flag as a bit. -/
def b2n (b : Bool) : Nat := if b then 1 else 0

/-- A counter that saturates at all ones of `w` bits. -/
def sat (w v : Nat) : Nat := min v (2 ^ w - 1)

namespace Mem

/-- What an unlisted byte of host memory or tile memory reads as (log entries 5 and 6). -/
def dflt : BitVec 8 := 0#8

/-- One byte. -/
def byte (m : Mem) (a : Nat) : Byte := get dflt m a

/-- `n` bytes from address `a` upward. -/
def read (m : Mem) (a : Nat) : Nat → List Byte
  | 0 => []
  | n + 1 => byte m a :: read m (a + 1) n

/-- Write bytes from address `a` upward. -/
def write (m : Mem) (a : Nat) : List Byte → Mem
  | [] => m
  | b :: bs => write (put dflt m a b) (a + 1) bs

/-- The canonical form. -/
def wf (m : Mem) : Bool := Machine.wf dflt m

end Mem

/-! ## CRC-32 -/

/-- One byte into a reflected CRC of polynomial `poly` (bit-reversed). -/
def crcByte (poly : Nat) (crc : Nat) (b : Byte) : Nat :=
  (List.range 8).foldl (fun c _ => if c % 2 = 1 then (c / 2) ^^^ poly else c / 2) (crc ^^^ b.toNat)

/-- CRC-32C: polynomial 0x1EDC_6F41 reflected, initial value all ones, final complement (14_chimney R340). -/
def crc32c (bs : List Byte) : Nat := (bs.foldl (crcByte 0x82F63B78) 0xFFFFFFFF) ^^^ 0xFFFFFFFF

/-- CRC-32: polynomial 0x04C1_1DB7 reflected, initial value all ones, final complement (04_calibration R107). -/
def crc32 (bs : List Byte) : Nat := (bs.foldl (crcByte 0xEDB88320) 0xFFFFFFFF) ^^^ 0xFFFFFFFF

end Sys2Proof.Machine
end

