-- ==== Sys2Proof/Machine/Float.lean ====
section
/-! DEFINITION. Binary32 and BF16 arithmetic (02_number_formats R50 to R52), the elementary functions of
10_instructions R240 and the declared sum shapes of 05_accumulation R132 to R134. -/

namespace Sys2Proof.Machine

/-! ## Exact values and one rounding -/

/-- The quotient `n / d` rounded to nearest, ties to even. -/
def rneDiv (n d : Nat) : Nat :=
  if 2 * (n % d) < d then n / d else if d < 2 * (n % d) then n / d + 1 else n / d + n / d % 2

/-- A rational rounded to the nearest integer, ties to even. -/
def rne (q : Rat) : Int :=
  if q < 0 then -(rneDiv q.num.natAbs q.den : Int) else (rneDiv q.num.natAbs q.den : Int)

/-- Two to an integer power. -/
def pow2 (e : Int) : Rat := if e < 0 then 1 / (2 ^ e.natAbs : Nat) else ((2 ^ e.natAbs : Nat) : Rat)

/-- `n / d` scaled by `2^(-e)`, as numerator and denominator. -/
def scale (n d : Nat) (e : Int) : Nat × Nat := if e < 0 then (n * 2 ^ e.natAbs, d) else (n, d * 2 ^ e.natAbs)

/-- The exponent of the leading bit of `n / d`, for `n > 0`. -/
def floorLog2 (n d : Nat) : Int :=
  let l : Int := (n.log2 : Int) - d.log2
  let s := scale n d l
  if s.1 < s.2 then l - 1 else l

/-- Magnitude `n / d` packed into a binary format with the exponent range of binary32 and `frac` fraction bits, rounded to
nearest with ties to even; subnormals kept, too large gives infinity (R50). -/
def packMag (frac n d : Nat) : Nat :=
  if n = 0 then 0
  else
    let e := max (floorLog2 n d) (-126)
    let s := scale n d (e - frac)
    let q := rneDiv s.1 s.2
    let w := if q < 2 ^ frac then q else (e + 126).toNat * 2 ^ frac + q
    min w (255 * 2 ^ frac)

/-- A rational packed into binary32; `neg` gives the sign of an exact zero. -/
def pack32 (neg : Bool) (q : Rat) : F32 :=
  BitVec.ofNat 32 ((if q < 0 ∨ (q = 0 ∧ neg = true) then 2 ^ 31 else 0) + packMag 23 q.num.natAbs q.den)

/-- A rational packed into BF16 with one rounding. -/
def pack16 (neg : Bool) (q : Rat) : BF16 :=
  BitVec.ofNat 16 ((if q < 0 ∨ (q = 0 ∧ neg = true) then 2 ^ 15 else 0) + packMag 7 q.num.natAbs q.den)

/-- The quiet NaN of R51. -/
def qnan : F32 := 0x7FC00000#32

def fSign (w : F32) : Bool := w.getLsbD 31
def fExp (w : F32) : Nat := bits w.toNat 30 23
def fFrac (w : F32) : Nat := bits w.toNat 22 0
def isNan (w : F32) : Bool := fExp w == 255 && fFrac w != 0
def isInf (w : F32) : Bool := fExp w == 255 && fFrac w == 0
def isFin (w : F32) : Bool := fExp w != 255
def isZero (w : F32) : Bool := fExp w == 0 && fFrac w == 0
def infty (neg : Bool) : F32 := if neg then 0xFF800000#32 else 0x7F800000#32
def fzero (neg : Bool) : F32 := if neg then 0x80000000#32 else 0#32
def fone : F32 := 0x3F800000#32

/-- The exact value of a finite binary32 word. -/
def toRat (w : F32) : Rat :=
  let m : Rat := if fExp w = 0 then fFrac w * pow2 (-149) else (2 ^ 23 + fFrac w : Nat) * pow2 ((fExp w : Int) - 150)
  if fSign w then -m else m

/-- The magnitude of a word, sign cleared. -/
def fabs (w : F32) : F32 := w &&& 0x7FFFFFFF#32

/-- The negation of a word. -/
def fneg (w : F32) : F32 := w ^^^ 0x80000000#32

/-- BF16 widened, exact (R52). -/
def ofBf (b : BF16) : F32 := BitVec.ofNat 32 (b.toNat * 65536)

/-- Conversion to BF16 (R52): ties to even on bit 16, a NaN becomes 0x7FC0 with its sign. -/
def toBf (w : F32) : BF16 :=
  if isNan w then (if fSign w then 0xFFC0#16 else 0x7FC0#16)
  else if isInf w then BitVec.ofNat 16 (w.toNat / 65536)
  else pack16 (fSign w) (toRat w)

/-! ## The operations of R51 -/

def fadd (a b : F32) : F32 :=
  if isNan a || isNan b then qnan
  else if isInf a then (if isInf b && fSign a != fSign b then qnan else a)
  else if isInf b then b
  else pack32 (fSign a && fSign b) (toRat a + toRat b)

def fsub (a b : F32) : F32 := if isNan b then qnan else fadd a (fneg b)

def fmul (a b : F32) : F32 :=
  if isNan a || isNan b then qnan
  else if isInf a || isInf b then (if isZero a || isZero b then qnan else infty (fSign a != fSign b))
  else pack32 (fSign a != fSign b) (toRat a * toRat b)

def fdiv (a b : F32) : F32 :=
  if isNan a || isNan b then qnan
  else if isInf a then (if isInf b then qnan else infty (fSign a != fSign b))
  else if isInf b then fzero (fSign a != fSign b)
  else if isZero b then (if isZero a then qnan else infty (fSign a != fSign b))
  else pack32 (fSign a != fSign b) (toRat a / toRat b)

/-- The exact square root rounded once (R240). -/
def fsqrt (a : F32) : F32 :=
  if isNan a then qnan
  else if isZero a then a
  else if fSign a then qnan
  else if isInf a then a
  else
    let q := toRat a
    -- a = n / d with d a power of two; scale so that the root has more than 60 bits and a sticky bit
    let n := q.num.natAbs * q.den * 2 ^ 400
    let r := Nat.sqrt n
    let s := 2 * r + (if r * r = n then 0 else 1)
    pack32 false ((s : Rat) / ((q.den * 2 ^ 201 : Nat) : Rat))

/-- Order of finite and infinite words: `a < b`, false when either is NaN. -/
def flt (a b : F32) : Bool :=
  if isNan a || isNan b then false
  else if isInf a then fSign a && !(isInf b && fSign b)
  else if isInf b then !fSign b
  else decide (toRat a < toRat b)

def fle (a b : F32) : Bool := !isNan a && !isNan b && !flt b a

/-- The maximum with -0.0 below +0.0 and the quiet NaN when an operand is NaN (R195, R232). -/
def fmax (a b : F32) : F32 :=
  if isNan a || isNan b then qnan
  else if isZero a && isZero b then fzero (fSign a && fSign b)
  else if flt a b then b else a

/-- A natural number as binary32. -/
def fofNat (n : Nat) : F32 := pack32 false n

/-! ## Elementary functions (R240): the exact function rounded once

Evaluated in fixed point with 384 fraction bits, far below the distance of any such result from a rounding boundary
(DEDUCED, log entry 18). -/

/-- Fraction bits. -/
def fixBits : Nat := 384

/-- `1 / n` summed as the arctangent series of `1 / n` in fixed point. -/
def fixAtanInv (n : Nat) (one : Nat) : Int :=
  ((List.range 700).foldl
    (fun (st : Int × Nat) i =>
      (st.1 + (if i % 2 = 0 then (1 : Int) else -1) * (st.2 / (2 * i + 1) : Nat), st.2 / (n * n)))
    ((0 : Int), one / n)).1

/-- π in fixed point with `k` fraction bits (Machin). -/
def fixPi (k : Nat) : Int := 4 * (4 * fixAtanInv 5 (2 ^ k) - fixAtanInv 239 (2 ^ k))

/-- ln 2 in fixed point with `k` fraction bits. -/
def fixLn2 (k : Nat) : Int :=
  ((List.range (k + 8)).foldl (fun (st : Int × Nat) i => (st.1 + (st.2 / (i + 1) : Nat), st.2 / 2))
    ((0 : Int), 2 ^ k / 2)).1

/-- A rational in fixed point, rounded down. -/
def toFix (k : Nat) (q : Rat) : Int := (q * (2 ^ k : Nat)).floor

/-- The Taylor series of exp for a fixed-point argument in [0, 1). -/
def fixExp (k : Nat) (r : Int) : Int :=
  ((List.range 120).foldl (fun (st : Int × Int) i => (st.1 + st.2, st.2 * r / (2 ^ k : Int) / ((i + 1 : Nat) : Int)))
    ((0 : Int), (2 ^ k : Int))).1

/-- exp of a rational of magnitude below 1,024, as a rational near the exact value. -/
def ratExp (x : Rat) : Rat :=
  let k := fixBits
  let ln2 := fixLn2 k
  let f := toFix k x
  let n := f / ln2
  ((fixExp k (f - n * ln2) : Int) : Rat) / ((2 ^ k : Nat) : Rat) * pow2 n

/-- exp (R240). -/
def fexp (a : F32) : F32 :=
  if isNan a then qnan
  else if isInf a then (if fSign a then fzero false else a)
  else if isZero a then fone
  else if toRat a > 200 then infty false
  else if toRat a < -200 then fzero false
  else pack32 false (ratExp (toRat a))

/-- Sigmoid (R240): 1 / (1 + exp(-a)). -/
def fsigmoid (a : F32) : F32 :=
  if isNan a then qnan
  else if isInf a then (if fSign a then fzero false else fone)
  else if toRat a > 200 then fone
  else if toRat a < -200 then fzero false
  else
    let t := ratExp (-(toRat (fabs a)))
    if fSign a then pack32 false (t / (1 + t)) else pack32 false (1 / (1 + t))

/-- tanh (R240). -/
def ftanh (a : F32) : F32 :=
  if isNan a then qnan
  else if isZero a then a
  else
    let m : Rat := if isInf a || toRat (fabs a) > 100 then 1
      else let t := ratExp (-2 * toRat (fabs a)); (1 - t) / (1 + t)
    if fSign a then pack32 false (-m) else pack32 false m

/-- The Taylor series of sin (`odd`) or cos for a fixed-point angle in [-4, 4]. -/
def fixTrig (k : Nat) (odd : Bool) (r : Int) : Int :=
  ((List.range 120).foldl
    (fun (st : Int × Int) i =>
      let j : Nat := 2 * i + (if odd then 1 else 0)
      ((st.1 + st.2, -(st.2 * r / (2 ^ k : Int) * r / (2 ^ k : Int) / (((j + 1) * (j + 2) : Nat) : Int))) : Int × Int))
    ((0 : Int), if odd then r else (2 ^ k : Int))).1

/-- sin or cos of a binary32 angle (R240). -/
def ftrig (odd : Bool) (a : F32) : F32 :=
  if !isFin a then qnan
  else if isZero a then (if odd then a else fone)
  else
    let k := fixBits + 160
    let twoPi := 2 * fixPi k
    let f := toFix k (toRat a)
    let r := f - (f + twoPi / 2) / twoPi * twoPi
    pack32 false (((fixTrig k odd r : Int) : Rat) / ((2 ^ k : Nat) : Rat))

/-- The reciprocal (R240). -/
def frecip (a : F32) : F32 := fdiv fone a

/-! ## Declared sum shapes (R132 to R134) -/

/-- One level of the tree: neighbours added. -/
def pairs : List F32 → List F32
  | a :: b :: t => fadd a b :: pairs t
  | l => l

/-- `n` levels of the tree. -/
def levels : Nat → List F32 → List F32
  | 0, l => l
  | n + 1, l => levels n (pairs l)

/-- Every 64th element. -/
def stride64 (xs : List F32) (j : Nat) : List F32 :=
  (List.range ((xs.length + 63) / 64)).filterMap fun m => xs[j + 64 * m]?

/-- The sum of one leaf: 64 lanes from -0.0, then six levels (R132). -/
def leafSum (xs : List F32) : F32 :=
  (levels 6 ((List.range 64).map fun j => (stride64 xs j).foldl fadd 0x80000000#32)).headD 0x80000000#32

/-- The leaf size of a sum of `n` elements in `k` leaves (R132). -/
def leafSize (k n : Nat) : Nat := if n = 0 then 64 else 64 * ((n + 64 * k - 1) / (64 * k))

/-- The root of one part of a sum of `n` elements split in `m` parts of shape `Ck`, from the part's elements (R134). -/
def partRoot (k m n : Nat) (xs : List F32) : F32 :=
  let c := leafSize k n
  (levels (k / m).log2 ((List.range (k / m)).map fun l => leafSum ((xs.drop (l * c)).take c))).headD 0x80000000#32

/-- The sum of a list under shape `Ck`. -/
def sumC (k : Nat) (xs : List F32) : F32 := partRoot k 1 xs.length xs

/-- The join of `m` roots: the upper levels of the tree (R134). -/
def joinRoots (roots : List F32) : F32 := (levels roots.length.log2 roots).headD 0x80000000#32

/-- The number of leaves a SHAPE code selects under an image default (R133, R221). -/
def shapeK (code deflt : Nat) : Nat := if code = 1 then 64 else if code = 2 ∧ deflt = 2 then 64 else 8

/-- A dot product formed under C8. -/
def dot (xs ys : List F32) : F32 := sumC 8 (List.zipWith fmul xs ys)

end Sys2Proof.Machine
end

