-- ==== Sys2Proof/Machine/State.lean ====
section
/-! DEFINITION. The state of the block as plain data: everything the manual gives the machine, in one structure of
structures, the faults and refusals, and the state after reset. -/

namespace Sys2Proof.Machine

/-- Why the machine stops with a fault. No command of the model stops on every path. -/
inductive Fault where
  /-- Raised by no meaning of this model: kept so that the type of faults is not empty. Safe. -/
  | none
  deriving DecidableEq, Repr

/-- Why a step gives no meaning. -/
inductive Refusal where
  /-- A command the model gives no meaning (raised only by an arm of exec that is not written yet). Safe. -/
  | notModelled (mnemonic : String)
  deriving DecidableEq, Repr

/-! ## Device, clocks, power, thermal -/

/-- The states of 01_machine R26. -/
inductive DevSt where
  | cold | hold | boot | maintenance | service | sleep | deepSleep | failed
  deriving DecidableEq, Repr

/-- A firmware slot of the flash (21_host_interface R476 to R479). -/
structure FwSlot where
  valid : Bool
  major : Nat
  minor : Nat
  deriving DecidableEq, Repr

/-- Identity, state and time of the device (00_scope R4; 21_host_interface DEV_STATE, DEV_TIME). -/
structure Dev where
  st : DevSt
  prev : DevSt
  bootStep : Nat
  stateSec : Nat
  /-- Device time in SCLK cycles of 10 ns (17_clocks R404). -/
  now : Nat
  opSec : Nat
  opFrac : Nat
  pwrCycles : Nat
  configReady : Bool
  /-- BOOT found both firmware slots invalid (R464, R478). -/
  romOnly : Bool
  stepping : Nat
  boardRev : Nat
  pkgUid : Nat
  fwMajor : Nat
  fwMinor : Nat
  /-- The safe states of 17_clocks R413 are forced. -/
  safe : Bool
  fwSlot0 : FwSlot
  fwSlot1 : FwSlot
  /-- The slot the slot-select record names, the running slot, and a staged slot verified since. -/
  fwSelect : Nat
  fwRunning : Nat
  fwStaged : Option Nat
  /-- FW_ACTIVATE restarted the firmware: the version before it (R479). -/
  fwActivating : Option (Nat × Nat × Nat)
  /-- A wake is under way (18_power R427, R428). -/
  wake : Bool
  deriving DecidableEq, Repr

/-- The state of a PLL as ROOT_STATE and PILOT_STATE code it (17_clocks R419). -/
inductive PllSt where
  | off | locking | windows | accepted | seriesFailed
  deriving DecidableEq, Repr

structure Pll where
  st : PllSt
  /-- Consecutive passing windows (17_clocks R407). -/
  good : Nat
  /-- Consecutive failing windows after acceptance (R410). -/
  bad : Nat
  deriving DecidableEq, Repr

/-- A clock divider in force and its target (17_clocks R418). -/
structure Divider where
  on : Bool
  div : Nat
  target : Nat
  deriving DecidableEq, Repr

structure Clk where
  /-- SOURCE: 0 none, 1 root on REFCLK, 2 pilot. -/
  source : Nat
  root : Pll
  pilot : Pll
  attempt : Nat
  attemptsUsed : Nat
  refclk : Bool
  lane0 : Bool
  rootCount : Nat
  pilotCount : Nat
  windowFails : Nat
  takeovers : Nat
  holds : Nat
  hbmLost : Bool
  sscDepth : Nat
  sscRate : Nat
  sscErr : Bool
  cclk : Divider
  aclkOn : Bool
  lclk : Divider
  phy : Divider
  mclk : Divider
  /-- The state at entry to HOLD, the running source then and the cause of the trip (17_clocks R414, R420). -/
  holdFrom : Option DevSt
  holdSource : Nat
  holdCause : Nat
  /-- The root was accepted in HOLD and the recovery of R415 is under way. -/
  recovering : Bool
  deriving DecidableEq, Repr

/-- One rail of 18_power R421. -/
structure Rail where
  enabled : Bool
  good : Bool
  enables : Nat
  deriving DecidableEq, Repr

/-- The sequencer (18_power R423, R430): idle, bringing up step n, running, taking down step n. -/
inductive Seq where
  | idle
  | up (step : Nat)
  | run
  | down (step : Nat)
  deriving DecidableEq, Repr

/-- PWR_FAULT_LATCH (18_power R434). -/
structure Latch where
  fault : Bool
  recovered : Bool
  phase : Nat
  rail : Nat
  enables : Nat
  v12 : Nat
  /-- The fault's record is already in the log (the model's own; R426 logs the others at BOOT). -/
  logged : Bool
  deriving DecidableEq, Repr

structure Cage where
  module : Bool
  closed : Bool
  /-- Opened at its current limit; stays open until the module is removed and inserted (22_card R483). -/
  tripped : Bool
  deriving DecidableEq, Repr

structure Pwr where
  v12 : Nat
  aux : Bool
  senseOk : Bool
  perst : Bool
  rails : List Rail
  seq : Seq
  /-- A power-up waits for V12_IN to fall below 10.0 V and rise, or for PERST# (18_power R424). -/
  blocked : Bool
  /-- A new power-up starts once the rails have fallen (18_power R429; 21_host_interface R465). -/
  restart : Bool
  latch : Latch
  vcoreRaised : Bool
  cages : List Cage
  deriving DecidableEq, Repr

structure Thm where
  nodes : List Int
  /-- 0 AIR, 1 COOLANT. -/
  mode : Nat
  fast : Bool
  warn : Bool
  warns : Nat
  hot : Nat
  step : Nat
  stepsDown : Nat
  lastStep : Option Nat
  limitW : Nat
  /-- A POWER_LIMIT that takes effect at the next update (19_thermal R444). -/
  limitNext : Nat
  ceilInput : Bool
  /-- The 300 W ceiling of 18_power R433 has been set, and takes effect at the next update. -/
  ceilNext : Bool
  phi : Rat
  ta : Int
  tc : Int
  flow : Nat
  taBad : Bool
  tcBad : Bool
  flowBad : Bool
  /-- Rail groups VCORE_D0 to VCORE_D3, VARR with VANA, VHBM: no valid monitor reading; coefficient over its fused default. -/
  monBad : List Bool
  coef : List Rat
  deriving DecidableEq, Repr

/-! ## The mantel log and the error handlers -/

/-- A mantel log record (20_mantel_log R449). -/
structure LogRec where
  opSec : Nat
  pwrCycle : Nat
  domain : Nat
  code : Nat
  count : Nat
  seq : Nat
  data : Nat
  lastSec : Nat
  deferred : Bool
  valid : Bool
  deriving DecidableEq, Repr

structure Mantel where
  /-- Closed records in the RAM buffer, oldest first. -/
  ram : List LogRec
  openRec : Option LogRec
  openedAt : Nat
  lost : Nat
  lostSec : Nat
  lostFrozen : Nat
  frozen : Bool
  frozenAt : Nat
  flash : SMap LogRec
  newestSeq : Nat
  nextSeq : Nat
  clearCode : Option Nat
  wrong : Nat
  /-- Events held without a running clock: code, domain, data (17_clocks R408; 18_power R426). -/
  held : List (Nat × Nat × Nat)
  deriving DecidableEq, Repr

structure Handler where
  err : ErrIn
  started : Nat
  deriving DecidableEq, Repr

structure Err where
  fifo : List ErrIn
  active : Option Handler
  arrq : List ErrIn
  failedDomain : Nat
  seen : Nat
  hwm : Nat
  /-- Mesh links and the device time of their last flit parity error (16_faults R388). -/
  meshErrs : SMap Nat
  /-- Uncorrectable errors of the last second: stack and device time (16_faults R387). -/
  stackErrs : List (Nat × Nat)
  hostRead : Option HostRead
  deriving DecidableEq, Repr

/-! ## Host interface, rings and commands -/

structure Fn where
  sq : Nat
  cq : Nat
  sqLog2 : Nat
  cqLog2 : Nat
  vector : Nat
  enable : Bool
  cfgErr : Bool
  session : Nat
  dbIgnored : Nat
  /-- The function's ring range (11_graec_rings R251, R252). -/
  first : Nat
  count : Nat
  vfEnabled : Bool
  /-- The latched-read shadow: register offset and high half (21_host_interface R470). -/
  shadow : Option (Nat × Nat)
  /-- MSI-X table words of 32 bits that have been written, by word index, and the vectors pending behind a mask. -/
  msix : SMap (Option Nat)
  pba : SMap Nat
  /-- Open traces: id and start (12_graec_commands R303). -/
  traces : SMap Nat
  deriving DecidableEq, Repr

structure HostIf where
  rate : Nat
  width : Nat
  trained : Bool
  retrains : Nat
  aerCorr : Nat
  aerUncorr : Nat
  aspmL1 : Bool
  /-- SMBus copies refreshed by firmware, by command code (21_host_interface R473). -/
  smbus : SMap Nat
  logIndex : Nat
  sscDepth : Nat
  sscRate : Nat
  sscDirty : Bool
  /-- The codes as they stand in flash (17_clocks R406; 21_host_interface R474). -/
  sscFlashDepth : Nat
  sscFlashRate : Nat
  /-- MSI-X messages sent: function and vector. -/
  irqs : List (Nat × Nat)
  deriving DecidableEq, Repr

/-- A completion record (11_graec_rings R265), less RING and its flags. -/
structure Rec where
  seq : Nat
  status : Nat
  progress : Nat
  tag : Nat
  result0 : Nat
  result1 : Nat
  deriving DecidableEq, Repr

structure Ring where
  fn : Nat
  sq : Nat
  slots : Nat
  cq : Nat
  entries : Nat
  headAddr : Nat
  isAdmin : Bool
  vector : Nat
  head : Nat
  tail : Nat
  chead : Nat
  /-- Index and PHASE of the next completion entry the device writes (R266). -/
  cidx : Nat
  phase : Bool
  /-- Entries written and not returned (R266). -/
  unret : Nat
  next : Nat
  stopped : Bool
  /-- RING_DESTROY or the clearing of ENABLE is waiting for the outstanding commands (R256). -/
  destroying : Bool
  /-- The final records of the last 256 new packets, newest first (R275). -/
  window : List Rec
  irqPending : Bool
  /-- Device time of the last interrupt (R267). -/
  lastIrq : Option Nat
  deriving DecidableEq, Repr

/-- The packet header and parameters (11_graec_rings R261). -/
structure Packet where
  opc : Nat
  flags : Nat
  seq : Nat
  tag : Nat
  ctx : Nat
  len : Nat
  req : Nat
  ver : Nat
  prio : Nat
  /-- The reserved bytes 26 to 31. -/
  resv : Nat
  params : List Byte
  deriving DecidableEq, Repr

inductive Phase where
  /-- Behind an earlier command of its ring: FENCE (R264). -/
  | fenced
  /-- Evaluated and ready to execute. -/
  | ready
  /-- Waits for the wake of 18_power R428. -/
  | waking
  /-- Executing: its vectors are queued or in flight, or its schedule runs. -/
  | running
  /-- Waits at a chunk boundary for pages (07_attention R170); since this device time. -/
  | chunkWait (since : Nat)
  /-- Waits for other commands to post their final records (R286, R302). -/
  | draining
  /-- Waits for vectors of its request or context to leave (09 R218). -/
  | leaving
  /-- Waits for the copy of the final record of the command of this ring and SEQ (R275). -/
  | dupOf (ring seq : Nat)
  deriving DecidableEq, Repr

/-- A candidate of a verification tree (07_attention R177). -/
structure Cand where
  token : Nat
  qprob : F32
  parent : Nat
  deriving DecidableEq, Repr

/-- A page bound to a vector by pressure eviction (10_instructions R239): request slot, pair, page number. -/
structure Bound where
  slot : Nat
  pair : Nat
  page : Nat
  deriving DecidableEq, Repr

/-- An outstanding command. -/
structure Cmd where
  ring : Nat
  pkt : Packet
  fn : Nat
  order : Nat
  consumedAt : Nat
  phase : Phase
  progress : Nat
  position : Nat
  lastInProg : Nat
  lastProg : Nat
  /-- Vectors of the command: in all, dispatched, ended (13_serving R313). -/
  total : Nat
  dispatched : Nat
  ended : Nat
  /-- Positions whose pages have been taken (R169). -/
  admitted : Nat
  /-- Pages that pressure eviction has bound for the command's next vector (10_instructions R239). -/
  bound : List Bound
  cands : List Cand
  token : Nat
  zeroBlock : Bool
  cancelled : Bool
  replay : Bool
  /-- Draft vectors of mode 1 still to run, by depth (07_attention R183). -/
  draftDepth : Nat
  /-- Times the step was aborted (14_chimney R357). -/
  aborts : Nat
  deriving DecidableEq, Repr

/-! ## Images, contexts and tiles -/

/-- A panel descriptor (05_accumulation R113). -/
structure Panel where
  base : Nat
  lines : Nat
  kind : Nat
  hostRw : Bool
  deriving DecidableEq, Repr

/-- What CTX_LOAD leaves of a context tile (09_step_programs R200 to R203). -/
structure CTile where
  tile : Nat
  arrays : Nat
  entry : Bool
  panels : List Panel
  code : List (BitVec 64)
  entryStep : Nat
  entryAppend : Nat
  entryVerify : Nat
  deriving DecidableEq, Repr

/-- A used array of the image: context array index, format, column scales (BF16 patterns), and its delta engine. -/
structure CArray where
  carray : Nat
  format : Nat
  scales : List BF16
  engine : Nat
  deriving DecidableEq, Repr

structure Image where
  defShape : Nat
  layers : Nat
  kvHeads : Nat
  gqa : Nat
  vocab : Nat
  execLimit : Nat
  chimneyN : Nat
  chimneyRole : Nat
  varies : Bool
  tiles : List CTile
  arrays : List CArray
  /-- CRC-32C of the PROGRAM and CODE sections (15_determinism R376). -/
  digest : Nat
  deriving DecidableEq, Repr

/-- A delta entry (06_flue_path R145): row, column, delta. -/
structure Delta where
  row : Nat
  col : Nat
  d : Int
  deriving DecidableEq, Repr

/-- A loaded variant: delta entries by context array index. -/
structure Variant where
  nent : Nat
  /-- Bytes of its delta list, the space it takes of the DELTA region (R146). -/
  bytes : Nat
  segs : SMap (List Delta)
  deriving DecidableEq, Repr

/-- An embedding table (08_tables_tiers R191). -/
structure Table where
  fmt : Nat
  tier : Nat
  d : Nat
  rows : Nat
  shards : Nat
  shard : Nat
  srcAddr : Nat
  /-- Rows held by the device, by row id (tiers 1 and 3). -/
  data : SMap (List Byte)
  deriving DecidableEq, Repr

/-- A buffered table update (R196): ring, SEQ, table, row, bytes. -/
structure TUpd where
  ring : Nat
  seq : Nat
  table : Nat
  row : Nat
  bytes : List Byte
  deriving DecidableEq, Repr

/-- A bag of row ids of an event (12_graec_commands R292): table and ids. -/
structure Bag where
  table : Nat
  ids : List Nat
  deriving DecidableEq, Repr

/-- The execution record of 09_step_programs R211. -/
structure ExecRec where
  req : Nat
  variant : Nat
  cls : Nat
  phase : Nat
  pos : Nat
  step : Nat
  token : Nat
  cand : Nat
  first : Bool
  last : Bool
  deriving DecidableEq, Repr

/-- A dispatched vector. -/
structure Vec where
  /-- Place in the dispatch sequence of its context, from 0. -/
  disp : Nat
  xr : ExecRec
  ring : Nat
  seq : Nat
  bags : List Bag
  bound : List Bound
  /-- Tiles whose execution of this vector has ended. -/
  endedTiles : Nat
  token : Option Nat
  kept : List (Nat × F32)
  discarded : Bool
  draft : Bool
  /-- Chimney step number, 0 for a local vector. -/
  chimStep : Nat
  /-- Outliers extracted and blocks quantised, by die (13_serving R321). -/
  outliers : List Nat
  blocks : List Nat
  path : List Nat
  /-- C8 leaf sums of softmax weights by pair, page, block and head (10_instructions R238). -/
  mass : List (Nat × Nat × Nat × Nat × F32)
  /-- The pages of the read sets its selections have formed (07_attention R161, R171). -/
  reads : List Nat
  deriving DecidableEq, Repr

/-- A capture (15_determinism R375, R376). -/
structure Capture where
  buf : Nat
  len : Nat
  bytes : Nat
  records : Nat
  unmarked : Nat
  truncated : Bool
  /-- Request handles in order of their recorded REQ_OPEN. -/
  ords : List Nat
  deriving DecidableEq, Repr

/-- A record read back for REPLAY. -/
structure RepRec where
  kind : Nat
  phase : Nat
  ctile : Nat
  disp : Nat
  reqOrd : Nat
  pos : Nat
  body : List Byte
  deriving DecidableEq, Repr

/-- An execution of a replay that has ended: its dispatch position, context tile, execution record, digest, and the program
index and digest of each issued instruction. -/
structure RepEnd where
  disp : Nat
  ctile : Nat
  xr : ExecRec
  digest : Nat
  instrs : List (Nat × Nat)
  deriving DecidableEq, Repr

/-- A replay in progress (15_determinism R378, R379). -/
structure Replay where
  ring : Nat
  seq : Nat
  buf : Nat
  /-- Vectors the context had dispatched when the replay began, and the DISPATCH of the first record. -/
  base : Nat
  first : Nat
  /-- Every record with the host address of its body. -/
  recs : List (Nat × RepRec)
  /-- COMMAND and UPDATE records not reissued yet, in order. -/
  todo : List (Nat × RepRec)
  /-- EXEC records not compared yet, in DISPATCH order and ascending CTILE. -/
  execs : List RepRec
  /-- Handles by request ordinal. -/
  ords : List Nat
  nextSeq : Nat
  ended : List RepEnd
  /-- V-marked instructions whose VOUT record was missing or did not fit: dispatch, context tile, issue count, program index. -/
  missing : List (Nat × Nat × Nat × Nat)
  /-- Dispatch has stopped: the report and RESULT0 are fixed, and the vectors in flight end. -/
  over_ : Option (List Byte × Nat)
  deriving DecidableEq, Repr

structure Ctx where
  fn : Nat
  hdim : Nat
  spillAddr : Nat
  spillSlots : Nat
  spillUsed : Nat
  image : Option Image
  stepNs : Nat
  halted : Bool
  destroying : Bool
  variants : SMap Variant
  tables : SMap Table
  updates : List TUpd
  /-- What rows held before a boundary's updates, for the steps in flight then, oldest first: the first step that sees the update (its
  dispatch position, or its chimney step), table, row and bytes (08_tables_tiers R196). -/
  older : List (Nat × Nat × Nat × List Byte)
  dispatched : Nat
  inflight : List Vec
  capture : Option Capture
  replay : Option Replay
  chimney : Bool
  /-- The crown has declared the chimney context ready (14_chimney R347). -/
  ready : Bool
  deriving DecidableEq, Repr

/-- A FIRE in progress on a bank (03_arrays R62, R72; 05 R118; 10 R223). -/
structure Fire where
  /-- The execution it belongs to and its issue number there. -/
  disp : Nat
  issue : Nat
  v : Bool
  arrays : List Nat
  join : Nat
  blk : Nat
  g0 : Nat
  gn : Nat
  qv : Nat
  /-- Next slot index 32g + 2p + h (R62). -/
  slot : Nat
  /-- Failed sets withheld and not resolved (R72). -/
  withheld : Nat
  /-- OUTLIER and DELTA jobs not resolved. -/
  jobs : Nat
  /-- The run adders of the bank, by output (05_accumulation R118). -/
  adders : SMap Int
  fmt : Nat
  /-- Executions of this FIRE begun again after a storage repair (03_arrays R77). -/
  pass : Nat
  discarded : Bool
  /-- The handle of the request it works for (06_flue_path R141). -/
  req : Nat
  deriving DecidableEq, Repr

/-- A tile memory or stream hazard of an issued instruction (09 R212). -/
structure Issued where
  n : Nat
  pc : Nat
  opc : Nat
  reads : List Nat
  writes : List Nat
  done : Bool
  bytes : List Byte
  /-- PCI Express reads outstanding until it completes (13_serving R323). -/
  pcie : Nat
  deriving DecidableEq, Repr

/-- An execution of a tile (09_step_programs R210). -/
structure Exec where
  xr : ExecRec
  disp : Nat
  pc : Nat
  issueCtr : Nat
  started : Nat
  /-- Time spent waiting in link RECVs, and the device time plus one at which the present wait began (14_chimney R350). -/
  linkWait : Nat
  linkFrom : Nat
  /-- Open loops: first and last index of the body, iterations left. -/
  loops : List (Nat × Nat × Nat)
  issued : List Issued
  ended : Bool
  discarded : Bool
  chimStep : Nat
  deriving DecidableEq, Repr

/-- An open stream (10_instructions R236): the positions it carries and its shape. -/
structure Stream where
  pair : Nat
  shape : Nat
  log2m : Nat
  part : Nat
  n : Nat
  /-- The pages its positions come from. -/
  pages : List Nat
  /-- Page number (or 0xFFFF_FFFF for scratch), position within it, key and value bits in FP32. -/
  elems : List (Nat × Nat × List F32 × List F32)
  deriving DecidableEq, Repr

/-- A RECV waiting for its lines, or a credit granted (10_instructions R231). -/
structure Recv where
  src : Nat
  chan : Nat
  panel : Nat
  line : Nat
  nl : Nat
  got : Nat
  issue : Nat
  /-- The matching SEND has been taken. -/
  paired : Bool
  role : Nat
  step : Nat
  deriving DecidableEq, Repr

/-- A SEND waiting for its credit. -/
structure SendW where
  dst : Nat
  chan : Nat
  lines : List (List Byte)
  issue : Nat
  role : Nat
  step : Nat
  deriving DecidableEq, Repr

/-- A flue job (06_flue_path, the table of jobs). -/
structure Job where
  kind : FlueKind
  tile : Nat
  bank : Nat
  /-- The tag of its FIRE: issue and pass. -/
  issue : Nat
  cls : Nat
  arrived : Nat
  /-- The array within the tile. -/
  arr : Nat
  fmt : Nat
  /-- RECOMPUTE: slot index, set and activation bits; OUTLIER: the cells of its row in `acts`. -/
  slot : Nat
  set : Nat
  acts : Nat
  levels : List Int
  dataBad : Bool
  row : Nat
  p : Int
  ctx : Nat
  variant : Nat
  g0 : Nat
  gn : Nat
  /-- DELTA: activation of each row in units of 2^(15 - o), outliers of each row. -/
  q : SMap Int
  outl : SMap Int
  plane : Nat
  off : Nat
  half : Nat
  deriving DecidableEq, Repr

/-- A storage repair under way: the array within the tile, the FIRE's bank and tag, and the faulted rows with the cells read (03_arrays R76). -/
structure Repair where
  arr : Nat
  bank : Nat
  issue : Nat
  rows : List (Nat × Nat)
  deriving DecidableEq, Repr

structure Tile where
  ctx : Option (Nat × Nat)
  mem : Mem
  counters : SMap Nat
  exec : Option Exec
  /-- Executions begun, in the dispatch order of the context. -/
  nextDisp : Nat
  stopped : Bool
  fires : SMap (Option Fire)
  streams : SMap (Option Stream)
  recvs : List Recv
  sends : List SendW
  /-- Credits granted over links whose SENDs have not come yet: channel, role, chimney step, lines (14_chimney R350). -/
  credits : List (Nat × Nat × Nat × Nat)
  /-- Link table of 14_chimney R349: channel to role and context tile. -/
  portMap : SMap (Nat × Nat)
  /-- The storage repairs that are pending, oldest first (03_arrays R77). -/
  repairs : List Repair
  /-- Flue jobs of started FIREs that wait for room among the tile's outstanding ones (06_flue_path R144). -/
  backlog : List Job
  outRecompute : Nat
  outOutlier : Nat
  outDelta : Nat
  held : Nat
  execs : Nat
  gateStalls : Nat
  preloadClamps : Nat
  quantClamps : Nat
  deriving DecidableEq, Repr

/-- An array's counters, window, trims and repairs (03_arrays R83 to R89; 04_calibration). -/
structure Arr where
  checks : Nat
  mmData : Nat
  mmTally : Nat
  lateSettle : Nat
  lateTrial : Nat
  range : Nat
  gateRepairs : Nat
  scrubRepairs : Nat
  storage : Nat
  hist : SMap Nat
  /-- The open window: set checks, failures, CONV_TALLY failures, margins. -/
  wChecks : Nat
  wFails : Nat
  wTally : Nat
  wHist : SMap Nat
  lastFails : Nat
  windows : Nat
  sigma : Nat
  undet : Nat
  hard : Bool
  judging : Bool
  judgeNext : Bool
  recal : Bool
  recalPos : Nat
  drift : Bool
  overLimit : Bool
  /-- Trims that are not nominal, by converter (608 the spare): offset and gain. -/
  trims : SMap (Int × Nat)
  replicaOff : Int
  replicaGain : Int
  scrubRow : Nat
  /-- Row and device time of repairs (03_arrays R78). -/
  repairs : SMap (Option Nat)
  /-- A sweep round in progress: round number, digests held for the partner. -/
  round : Nat
  subRounds : Nat
  digests : SMap Nat
  deriving DecidableEq, Repr

structure Flue where
  qRec : List Job
  qOut : List Job
  qDel : List Job
  waitRec : List Nat
  waitOut : List Nat
  waitDel : List Nat
  /-- Jobs refused under HOLD_OFF, kept by their tiles. -/
  refused : List Job
  lastFreed : Nat
  cache : List (Nat × Nat × Nat)
  busy : Nat
  entries : Nat
  nRec : Nat
  nOut : Nat
  nDel : Nat
  misses : Nat
  hwmRec : Nat
  hwmOut : Nat
  hwmDel : Nat
  waited : Nat
  holdOffs : Nat
  round : Nat
  subRounds : Nat
  digests : SMap Nat
  /-- Sweep rounds it claims ahead of service in this sub-interval (16_faults R395), and whether one has run since the last job. -/
  owed : Nat
  claimed : Bool
  deriving DecidableEq, Repr

/-- What travels on the mesh to a tile, on the service class but for the digests of the sweep (01_machine R20). -/
inductive Flit where
  | signal (src pc dst ctr add : Nat)
  /-- A flue result for a bank: adder values, and what it resolves. -/
  | result (tile bank issue : Nat) (kind : FlueKind) (vals : List (Nat × Int))
  /-- A STORAGE report: array of the tile, rows that differ and the cells read. -/
  | storage (tile arr bank issue : Nat) (rows : List (Nat × Nat))
  /-- The digest of a sweep round on its way to the partner, which is `unit` (16_faults R392). -/
  | digest (kind unit round digest : Nat)
  deriving DecidableEq, Repr

/-! ## KV cache, requests, prefixes -/

/-- A KV page (07_attention R153), in the HBM pool or in the host tier. -/
structure Page where
  ctx : Nat
  fill : Nat
  full : Bool
  summary : Bool
  mirrored : Bool
  refcnt : Nat
  layer : Nat
  head : Nat
  page : Nat
  radius : F32
  kcarry : List BF16
  vcarry : List BF16
  mean : List BF16
  kexp : SMap Nat
  vexp : SMap Nat
  kelem : SMap Int
  velem : SMap Int
  spilled : Bool
  /-- Its slot of the host spill buffer while it is spilled (08_tables_tiers R197). -/
  spillSlot : Nat
  lastRead : Nat
  /-- Bound to a vector by pressure eviction (10_instructions R239). -/
  bound : Bool
  deriving DecidableEq, Repr

/-- A page table entry (07_attention R154). `count` is the number of positions the holder owns. -/
structure Entry where
  slot : Nat
  ash : Bool
  shared : Bool
  full : Bool
  radius : F32
  mean : List BF16
  score : Nat
  epoch : Nat
  count : Nat
  /-- The carries a prefix handle recorded, until the first append copies the page (R175). -/
  kcarry : List BF16
  vcarry : List BF16
  deriving DecidableEq, Repr

/-- A hob staging page (07_attention R156): BF16 keys and values of positions from `first`. -/
structure Staging where
  page : Nat
  fill : Nat
  keys : List (List BF16)
  vals : List (List BF16)
  flushDue : Bool
  /-- The vector that wrote its 256th position: its dispatch position plus 1, and 0 while no vector has (R158). -/
  filler : Nat
  deriving DecidableEq, Repr

/-- The verification scratch of a pair: candidate index, key, value. -/
structure Scratch where
  cand : Nat
  key : List BF16
  val : List BF16
  deriving DecidableEq, Repr

structure Req where
  open_ : Bool
  gen : Nat
  ctx : Nat
  fn : Nat
  ring : Nat
  cls : Nat
  variant : Nat
  evict : Bool
  verify : Bool
  topK : Nat
  temp : F32
  topP : F32
  budget : Nat
  quota : Nat
  ttftUs : Nat
  tbtUs : Nat
  seed : BitVec 64
  /-- The bound draft (slot), or the holder of this draft. -/
  draft : Option Nat
  boundBy : Option Nat
  length : Nat
  nextStep : Nat
  pending : Option Nat
  /-- The final records of the last eight executed steps, newest first (11_graec_rings R276). -/
  kept : List (Nat × Rec)
  tables : SMap (SMap Entry)
  /-- Pool pages taken at admission and not opened yet, by pair (R169). -/
  taken : SMap (List Nat)
  /-- Page-table chunks taken: pair and page number div 64 (08_tables_tiers R189). -/
  chunks : List (Nat × Nat)
  staging : SMap (Option Staging)
  scratch : SMap (List Scratch)
  dists : SMap (List (Nat × F32))
  nonfinite : Bool
  dataLost : Bool
  /-- Named by a consumed REQ_CLOSE or REQ_CANCEL (12_graec_commands R296). -/
  closing : Bool
  /-- Cancelled: freed once its last dispatched vector has left (09_step_programs R218). -/
  cancelled : Bool
  /-- The first position the request stages itself (07_attention R176). -/
  stageFrom : Nat
  openTime : Nat
  firstCmd : Option Nat
  lastToken : Option Nat
  ttft : Nat
  tbtLast : Nat
  tbtMax : Nat
  tbtMisses : Nat
  quotaEvicts : Nat
  pressureEvicts : Nat
  spillReads : Nat
  accepted : Nat
  verifies : Nat
  /-- Dies whose flue weight the last ended vector set (13_serving R321). -/
  flueDies : List Nat
  deriving DecidableEq, Repr

/-- A prefix handle (07_attention R174). -/
structure Prefix where
  ctx : Nat
  variant : Nat
  n : Nat
  /-- By pair: page number to page id. -/
  pages : SMap (SMap Nat)
  carries : SMap (List BF16 × List BF16)
  /-- The token ids of its last positions that a chimney's crown keeps (14_chimney R361). -/
  history : List Nat
  deriving DecidableEq, Repr

structure Kv where
  pages : SMap (Option Page)
  nextPage : Nat
  hobFree : Nat
  hobHwm : Nat
  poolMib : Nat
  quotaEvicts : Nat
  pressureEvicts : Nat
  /-- Settings kept for the next layout (R190) and the layout in force. -/
  tableGibSet : Nat
  mirrorPmSet : Nat
  tableGib : Nat
  mirrorPm : Nat
  mirrorMib : Nat
  hotHits : Nat
  hotMisses : Nat
  /-- Cached tier-2 rows: context, table, row; most recently read first (08 R193). -/
  hot : List (Nat × Nat × Nat)
  prefixes : SMap (Option Prefix)
  nextHandle : Nat
  deriving DecidableEq, Repr

structure Serve where
  hwm : Nat
  flueDefers : Nat
  hbmDefers : Nat
  pcieDefers : Nat
  misses : Nat
  tokens : Nat
  /-- Admitted KV charges: device time and bytes (13_serving R322). -/
  charges : List (Nat × Nat)
  /-- FLUE_LOAD by die and the pacing gate of R321. -/
  flueLoad : List Nat
  flueGate : List Bool
  /-- The FLUE_BUSY sums by die when the last 1 ms window closed (06_flue_path R151). -/
  flueMark : List Nat
  deriving DecidableEq, Repr

/-! ## Calibration, sweep, self-test -/

/-- Trims that are not nominal, by array and converter (offset, gain), and replica deltas by array in 1/1,024 code and ppm
(04_calibration R92, R96, R107). -/
structure TrimSet where
  conv : List (Nat × Nat × Int × Nat)
  replica : List (Nat × Int × Int)
  deriving DecidableEq, Repr

/-- A schedule whose phases stretch with the power cap (04_calibration R97, 16_faults R396): `pos` of `total` ns at 900 W were
over at device time `since`; `cap` has been in force since then; the first `fixed` ns do not stretch. -/
structure Sched where
  started : Nat
  since : Nat
  cap : Nat
  pos : Rat
  fixed : Nat
  total : Nat
  deriving DecidableEq, Repr

structure CalRun where
  ring : Nat
  seq : Nat
  sched : Sched
  /-- Reference check 0, attempts 1 to 3, load 4. -/
  stage : Nat
  /-- Converters that have not passed: array, converter, reason of the last attempt. -/
  failed : List (Nat × Nat × Nat)
  retried : Nat
  passed : Nat
  /-- Trims of the converters that have passed, and the largest |a1 - a2|. -/
  trims : TrimSet
  maxDa : Rat
  deriving DecidableEq, Repr

/-- A calibration record area of the flash (04_calibration R107). -/
structure CalRec where
  magic : Nat
  seq : Nat
  pkgUid : Nat
  calCount : Nat
  calSec : Nat
  stepping : Nat
  trims : TrimSet
  /-- CHECK. -/
  check : Nat
  deriving DecidableEq, Repr

structure Cal where
  count : Nat
  lastSec : Nat
  source : Nat
  commitNeeded : Bool
  refErr : List Int
  bgRotations : Nat
  bgRejects : Nat
  recals : Nat
  run : Option CalRun
  areaA : Option CalRec
  areaB : Option CalRec
  /-- Trims of the most recent OK CAL_RUN since BOOT. -/
  lastRun : Option TrimSet
  bgPos : Nat
  /-- CAL_RUN holds group 16 (R95). -/
  group16 : Bool
  /-- The row offset of the calibration sequencer (R95). -/
  seqRow : Nat
  /-- A CAL_COMMIT has written all but SEQ: whether into area B, and the SEQ still to be written (R108). -/
  commit : Option (Bool × Nat)
  deriving DecidableEq, Repr

structure SelfTest where
  ring : Nat
  seq : Nat
  sched : Sched
  /-- Units that have ended each phase, in ascending order (16_faults R396): arrays, arrays, arrays with tiles and engines,
  tiles, the mesh, HBM. -/
  done1 : Nat
  done2 : Nat
  done3 : Nat
  done4 : Nat
  done5 : Nat
  done6 : Nat
  deriving DecidableEq, Repr

structure Sweep where
  seed : Nat
  duty : Nat
  cycles : Nat
  subs : Nat
  forced : Nat
  transients : Nat
  lastUnit : Nat
  lastKind : Nat
  /-- Rounds of the tile-logic units. -/
  logicRound : SMap Nat
  logicSub : SMap Nat
  logicDigests : SMap Nat
  deriving DecidableEq, Repr

/-! ## Chimneys -/

structure Frame where
  ftype : Nat
  flags : Nat
  dst : Nat
  src : Nat
  lseq : Nat
  lack : Nat
  step : Nat
  payload : List Byte
  deriving DecidableEq, Repr

/-- LNK_STATE STATE (14_chimney R369). -/
inductive PortSt where
  | off | training | up | down | miscabled | version
  deriving DecidableEq, Repr

structure Port where
  st : PortSt
  mode : Nat
  ver : Nat
  peer : Nat
  downs : Nat
  retransmits : Nat
  crcErrors : Nat
  rx : Nat
  tx : Nat
  deriving DecidableEq, Repr

/-- The link layer of one link (14_chimney R342 to R345). -/
structure Lnk where
  nextSeq : Nat
  /-- Unacknowledged frames, oldest first: frame, retransmissions, first transmission. -/
  replay : List (Frame × Nat × Nat)
  /-- New frames that wait behind 256 unacknowledged ones. -/
  waiting : List Frame
  expect : Nat
  lastLack : Nat
  /-- The version of a switched link, which its TRAIN frames settled; 0 where the port's own holds (R338). -/
  ver : Nat
  /-- A switched link that is DOWN while its port is up (R333, R345). -/
  down : Bool
  deriving DecidableEq, Repr

/-- What a pair of a request held before a chimney step changed it (14_chimney R353): its page table, its staging page, its
scratch, the pages taken for it, and the pages its table names. -/
structure PairSave where
  slot : Nat
  pair : Nat
  table : SMap Entry
  staging : Option Staging
  scratch : List Scratch
  taken : List Nat
  pages : List (Nat × Page)
  deriving DecidableEq, Repr

/-- A chimney step at the crown or at a member (14_chimney R351 to R357). -/
structure CStep where
  step : Nat
  ctx : Nat
  ring : Nat
  seq : Nat
  xr : ExecRec
  bags : List Bag
  bound : List Bound
  /-- A draft vector of a REQ_VERIFY (R183). -/
  draft : Bool
  started : Nat
  dispatched : Bool
  /-- The executions of this device have ended. -/
  ended : Bool
  /-- Child roles from which DONE or ABORT_ACK has arrived. -/
  done : List Nat
  acks : List Nat
  aborting : Bool
  committed : Bool
  refused : Bool
  /-- The abort ends the step's command with this status and RESULT0 instead of a new dispatch. -/
  failWith : Option (Nat × Nat)
  /-- Results of SAMPLE or VERIFY. -/
  token : Option Nat
  path : List Nat
  /-- The warnings that this device and those under it have met (02_number_formats R44). -/
  nonfinite : Bool
  zeroBlock : Bool
  aborts : Nat
  saved : List PairSave
  /-- Pages to free at COMMIT (quota eviction). -/
  freed : List Nat
  /-- The requests its evictions have counted against: slot, and whether the quota evicted. -/
  evicts : List (Nat × Bool)
  /-- Entries that became FULL: mirrored at COMMIT. -/
  filled : List (Nat × Nat × Nat)
  deriving DecidableEq, Repr

/-- A mirror copy or an ash record held for another role (14_chimney R360). -/
structure MirrorCopy where
  role : Nat
  ctx : Nat
  req : Nat
  layer : Nat
  head : Nat
  page : Nat
  ash : Bool
  bytes : List Byte
  deriving DecidableEq, Repr

structure Adopt where
  ring : Nat
  seq : Nat
  role : Nat
  received : Nat
  /-- Mirror copies and ash records received. -/
  copies : List MirrorCopy
  deriving DecidableEq, Repr

/-- The pieces of a long payload that have arrived: frame type, sender, heading, and offset and bytes of each. -/
structure Parts where
  ty : Nat
  src : Nat
  head : List Nat
  got : List (Nat × List Byte)
  deriving DecidableEq, Repr

structure Chim where
  id : Nat
  n : Nat
  role : Nat
  topo : Nat
  dx : Nat
  dy : Nat
  dz : Nat
  portMask : Nat
  mac : Nat
  crown : Nat
  buddy : Nat
  ports : List Port
  links : List (LinkId × Lnk)
  /-- Learned MACs: own port, role, peer port. -/
  macs : List ((Nat × Nat × Nat) × Nat)
  join : Option (Nat × Nat × Nat)
  steps : List CStep
  /-- Aborted steps to dispatch again, in their original order (R357). -/
  redo : List CStep
  lastStep : Nat
  timeoutUs : Nat
  /-- T_static of R355 in ns; STEP_NS and POWER_CAP_W of every role, from which it comes. -/
  staticNs : Nat
  roleNs : List Nat
  roleCaps : List Nat
  stepTimeouts : Nat
  fences : Nat
  aborts : Nat
  /-- Fenced roles and the device time of the fence. -/
  fenced : SMap (Option Nat)
  fenceGen : Nat
  /-- Adopted roles, reached over AUX (R365). -/
  viaAux : List Nat
  /-- Last HEARTBEAT heard, by role. -/
  beats : SMap (Option Nat)
  abortedSteps : List Nat
  mirror : List MirrorCopy
  refused : Nat
  /-- Copies this device has refused as a buddy (R360). -/
  refusals : Nat
  /-- Token history of chimney requests by request slot (R361), oldest first. -/
  history : SMap (List Nat)
  /-- Frames delivered in order, each with the link it came by. -/
  inbox : List (LinkId × Frame)
  /-- What has gone out: the port, and the bytes on its wire (R332). -/
  out : List (Nat × List Byte)
  adopt : Option Adopt
  /-- Tier-3 rows returned for gathers in progress: step, table, row, bytes. -/
  gathered : List (Nat × Nat × Nat × List Byte)
  /-- Long payloads of which pieces have arrived. -/
  parts : List Parts
  /-- The roles from which acknowledgements of forwarded table rows are still to come (08_tables_tiers R196). -/
  tupWait : List Nat
  /-- Mirror copies that an HBM error has lost, whose owners have yet to be told (16_faults R386). -/
  lost : List MirrorCopy
  /-- Halted chimney contexts, of which the chimney has yet to be told (16_faults R384). -/
  halts : List Nat
  deriving DecidableEq, Repr

/-! ## The state -/

structure State where
  /-- The commands waiting, first in, first out. -/
  pending : List Instr
  /-- Index of the next free value: the model's own field. -/
  freeCtr : Nat
  /-- Values the device has returned to register and SMBus reads, newest first: the model's own field. -/
  replies : List Nat
  hostMem : Mem
  dev : Dev
  clk : Clk
  pwr : Pwr
  thm : Thm
  log : Mantel
  err : Err
  host : HostIf
  fns : SMap (Option Fn)
  rings : SMap (Option Ring)
  cmds : List Cmd
  orderCtr : Nat
  lastServed : Nat
  paused : Bool
  ctxs : SMap (Option Ctx)
  tiles : SMap (Option Tile)
  cells : SMap Nat
  gold : SMap Nat
  arrs : SMap (Option Arr)
  flues : SMap (Option Flue)
  flits : List Flit
  kv : Kv
  reqs : SMap (Option Req)
  serve : Serve
  cal : Cal
  sweep : Sweep
  test : Option SelfTest
  chim : Chim
  deriving DecidableEq, Repr

/-! ## Reset -/

/-- A rail that is enabled and good. -/
def Rail.up : Rail := { enabled := true, good := true, enables := 1 }

/-- A cage with no module. -/
def Cage.empty : Cage := { module := false, closed := false, tripped := false }

/-- The function state of 11_graec_rings R253 with every Reset column at its value. -/
def Fn.reset (first count : Nat) (vf : Bool) : Fn :=
  { sq := 0, cq := 0, sqLog2 := 0, cqLog2 := 0, vector := 0, enable := false, cfgErr := false, session := 0,
    dbIgnored := 0, first := first, count := count, vfEnabled := vf, shadow := none, msix := [], pba := [], traces := [] }

/-- A Skavel port with every Reset column of 14_chimney R369 at its value. -/
def Port.reset : Port :=
  { st := .off, mode := 0, ver := 0, peer := 0xFFFF, downs := 0, retransmits := 0, crcErrors := 0, rx := 0, tx := 0 }

/-- The chimney state of a device that is no member (14_chimney R369). -/
def Chim.reset : Chim :=
  { id := 0, n := 0, role := 0xFFFF, topo := 0, dx := 0, dy := 0, dz := 0, portMask := 0, mac := 0, crown := 0xFFFF,
    buddy := 0xFFFF, ports := List.replicate 8 Port.reset, links := [], macs := [], join := none, steps := [], redo := [],
    lastStep := 0, timeoutUs := 0, staticNs := 0, roleNs := [], roleCaps := [], stepTimeouts := 0, fences := 0, aborts := 0, fenced := [], fenceGen := 0, viaAux := [], beats := [],
    abortedSteps := [], mirror := [], refused := 0, refusals := 0, history := [], inbox := [], out := [], adopt := none, gathered := [], parts := [], tupWait := [], lost := [], halts := [] }

/-- Error state with the Reset columns of 16_faults R399. -/
def Err.reset : Err :=
  { fifo := [], active := none, arrq := [], failedDomain := 0xF, seen := 0, hwm := 0, meshErrs := [], stackErrs := [],
    hostRead := none }

/-- KV and tier registers at entry to BOOT (07_attention R184; 08_tables_tiers R190, R199). -/
def Kv.reset : Kv :=
  { pages := [], nextPage := 1, hobFree := 0x2000, hobHwm := 0, poolMib := 0, quotaEvicts := 0, pressureEvicts := 0,
    tableGibSet := 32, mirrorPmSet := 250, tableGib := 0, mirrorPm := 0, mirrorMib := 0, hotHits := 0, hotMisses := 0,
    hot := [], prefixes := [], nextHandle := 1 }

/-- Serving registers at entry to BOOT (13_serving R330). -/
def Serve.reset : Serve :=
  { hwm := 0, flueDefers := 0, hbmDefers := 0, pcieDefers := 0, misses := 0, tokens := 0, charges := [],
    flueLoad := [0, 0, 0, 0], flueGate := [false, false, false, false], flueMark := [0, 0, 0, 0] }

/-- An array with nothing counted and the nominal trims (03_arrays R67, R89). -/
def Arr.reset : Arr :=
  { checks := 0, mmData := 0, mmTally := 0, lateSettle := 0, lateTrial := 0, range := 0, gateRepairs := 0,
    scrubRepairs := 0, storage := 0, hist := [], wChecks := 0, wFails := 0, wTally := 0, wHist := [], lastFails := 0,
    windows := 0, sigma := 0, undet := 0, hard := false, judging := false, judgeNext := false, recal := false,
    recalPos := 0, drift := false, overLimit := false, trims := [], replicaOff := 0, replicaGain := 0, scrubRow := 0,
    repairs := [], round := 0, subRounds := 0, digests := [] }

/-- A flue engine with nothing queued or counted (06_flue_path R151). -/
def Flue.reset : Flue :=
  { qRec := [], qOut := [], qDel := [], waitRec := [], waitOut := [], waitDel := [], refused := [], lastFreed := 0,
    cache := [], busy := 0, entries := 0, nRec := 0, nOut := 0, nDel := 0, misses := 0, hwmRec := 0, hwmOut := 0,
    hwmDel := 0, waited := 0, holdOffs := 0, round := 0, subRounds := 0, digests := [], owed := 0, claimed := false }

/-- A free tile (05_accumulation R112; 09_step_programs R205). -/
def Tile.reset : Tile :=
  { ctx := none, mem := [], counters := [], exec := none, nextDisp := 0, stopped := false, fires := [], streams := [],
    recvs := [], sends := [], credits := [], portMap := [], repairs := [], backlog := [], outRecompute := 0, outOutlier := 0, outDelta := 0,
    held := 0, execs := 0, gateStalls := 0, preloadClamps := 0, quantClamps := 0 }

/-- Thermal state at entry to BOOT in AIR mode (19_thermal R437, R444, R445). -/
def Thm.reset : Thm :=
  { nodes := List.replicate 265 0, mode := 0, fast := false, warn := false, warns := 0, hot := 0, step := 12,
    stepsDown := 0, lastStep := none, limitW := 900, limitNext := 900, ceilInput := false, ceilNext := false, phi := 1, ta := 0, tc := 0, flow := 0,
    taBad := false, tcBad := false, flowBad := false, monBad := List.replicate 6 false, coef := List.replicate 6 1 }

/-- Clocks at entry to BOOT: the root accepted and running (17_clocks R416, R419). -/
def Clk.reset : Clk :=
  { source := 1, root := { st := .accepted, good := 8, bad := 0 }, pilot := { st := .off, good := 0, bad := 0 },
    attempt := 0, attemptsUsed := 1, refclk := true, lane0 := false, rootCount := 0, pilotCount := 0, windowFails := 0,
    takeovers := 0, holds := 0, hbmLost := false, sscDepth := 0, sscRate := 0, sscErr := false,
    cclk := { on := true, div := 8, target := 8 }, aclkOn := false, lclk := { on := false, div := 96, target := 6 },
    phy := { on := true, div := 3, target := 3 }, mclk := { on := true, div := 12, target := 12 },
    holdFrom := none, holdSource := 0, holdCause := 0, recovering := false }

/-- Calibration registers at entry to BOOT with no record (04_calibration R109, R110). -/
def Cal.reset : Cal :=
  { count := 0, lastSec := 0, source := 0, commitNeeded := false, refErr := [0, 0, 0, 0], bgRotations := 0,
    bgRejects := 0, recals := 0, run := none, areaA := none, areaB := none, lastRun := none, bgPos := 0,
    group16 := false, seqRow := 0, commit := none }

/-- The machine right after reset: entry to BOOT after the rails came up and REFCLK was accepted, every register at
its Reset column (log entry 3), fused, strapped and flash-held values as log entry 4 names them, nothing pending. -/
def State.reset : State :=
  { pending := [], freeCtr := 0, replies := [], hostMem := [],
    dev := { st := .boot, prev := .cold, bootStep := 0, stateSec := 0, now := 0, opSec := 0, opFrac := 0, pwrCycles := 1,
             configReady := false, romOnly := false, stepping := 0xB0, boardRev := 1, pkgUid := 0, fwMajor := 0,
             fwMinor := 0, safe := false, fwSlot0 := { valid := true, major := 1, minor := 6 },
             fwSlot1 := { valid := false, major := 0, minor := 0 }, fwSelect := 0, fwRunning := 0, fwStaged := none,
             fwActivating := none, wake := false },
    clk := Clk.reset,
    pwr := { v12 := 1200, aux := true, senseOk := true, perst := false, rails := List.replicate 13 Rail.up, seq := .run,
             blocked := false, restart := false,
             latch := { fault := false, recovered := false, phase := 0, rail := 0, enables := 0, v12 := 0, logged := false },
             vcoreRaised := false, cages := List.replicate 4 Cage.empty },
    thm := Thm.reset,
    log := { ram := [], openRec := none, openedAt := 0, lost := 0, lostSec := 0, lostFrozen := 0, frozen := false,
             frozenAt := 0, flash := [], newestSeq := 0, nextSeq := 0, clearCode := none, wrong := 0, held := [] },
    err := Err.reset,
    host := { rate := 6, width := 16, trained := false, retrains := 0, aerCorr := 0, aerUncorr := 0, aspmL1 := false,
              smbus := [], logIndex := 0, sscDepth := 0, sscRate := 0, sscDirty := false, sscFlashDepth := 0, sscFlashRate := 0, irqs := [] },
    fns := [(0, some (Fn.reset 0 1048576 true))], rings := [], cmds := [], orderCtr := 0, lastServed := 0,
    paused := false, ctxs := [], tiles := [], cells := [], gold := [], arrs := [], flues := [], flits := [],
    kv := Kv.reset, reqs := [], serve := Serve.reset, cal := Cal.reset,
    sweep := { seed := Config.sweepSeed 0, duty := 1000, cycles := 0, subs := 0, forced := 0, transients := 0,
               lastUnit := 0, lastKind := 0, logicRound := [], logicSub := [], logicDigests := [] },
    test := none, chim := Chim.reset }

end Sys2Proof.Machine
end

