-- ==== Sys2Proof/Machine/Ops.lean ====
section
/-! DEFINITION. The operations the commands share: field access, device time, the mantel log, completion records. -/

namespace Sys2Proof.Machine

/-! ## Codes -/

/-- STATE of 01_machine R26. -/
def DevSt.code : DevSt → Nat
  | .cold => 0 | .hold => 1 | .boot => 2 | .maintenance => 3 | .service => 4 | .sleep => 5 | .deepSleep => 6
  | .failed => 0xF

/-- Status codes (12_graec_commands R309). -/
def stOk : Nat := 0x0000
def stDuplicate : Nat := 0x0001
def stWarn : Nat := 0x0002
def stInProgress : Nat := 0x0003
def stBusy : Nat := 0x0100
def stBusyTesting : Nat := 0x0101
def stBadOpcode : Nat := 0x0200
def stBadParam : Nat := 0x0201
def stBadVersion : Nat := 0x0202
def stBadHandle : Nat := 0x0203
def stStaleSeq : Nat := 0x0204
def stNotPermitted : Nat := 0x0205
def stNotInService : Nat := 0x0206
def stNoResource : Nat := 0x0207
def stRejected : Nat := 0x0208
def stCancelled : Nat := 0x0300
def stAborted : Nat := 0x0301
def stPeerLost : Nat := 0x0302
def stTimeout : Nat := 0x0303
def stDevFailed : Nat := 0x0400
def stDataLost : Nat := 0x0401

/-- The handle value that names nothing (11_graec_rings R261). -/
def noReq : Nat := 0xFFFFFFFF
def noCtx : Nat := 0xFFFF

/-! ## Access -/

namespace State

def updDev (s : State) (f : Dev → Dev) : State := { s with dev := f s.dev }
def updClk (s : State) (f : Clk → Clk) : State := { s with clk := f s.clk }
def updPwr (s : State) (f : Pwr → Pwr) : State := { s with pwr := f s.pwr }
def updThm (s : State) (f : Thm → Thm) : State := { s with thm := f s.thm }
def updLog (s : State) (f : Mantel → Mantel) : State := { s with log := f s.log }
def updErr (s : State) (f : Err → Err) : State := { s with err := f s.err }
def updHost (s : State) (f : HostIf → HostIf) : State := { s with host := f s.host }
def updKv (s : State) (f : Kv → Kv) : State := { s with kv := f s.kv }
def updServe (s : State) (f : Serve → Serve) : State := { s with serve := f s.serve }
def updCal (s : State) (f : Cal → Cal) : State := { s with cal := f s.cal }
def updSweep (s : State) (f : Sweep → Sweep) : State := { s with sweep := f s.sweep }
def updChim (s : State) (f : Chim → Chim) : State := { s with chim := f s.chim }

def fn (s : State) (i : Nat) : Fn := (look s.fns i).getD (Fn.reset 0 0 false)
def setFn (s : State) (i : Nat) (f : Fn) : State := { s with fns := store s.fns i (some f) }
def updFn (s : State) (i : Nat) (f : Fn → Fn) : State := s.setFn i (f (s.fn i))

def setRing (s : State) (i : Nat) (r : Option Ring) : State := { s with rings := store s.rings i r }
def updRing (s : State) (i : Nat) (f : Ring → Ring) : State :=
  match look s.rings i with | none => s | some r => s.setRing i (some (f r))

def setCtx (s : State) (i : Nat) (c : Option Ctx) : State := { s with ctxs := store s.ctxs i c }
def updCtx (s : State) (i : Nat) (f : Ctx → Ctx) : State :=
  match look s.ctxs i with | none => s | some c => s.setCtx i (some (f c))

def tile (s : State) (i : Nat) : Tile := (look s.tiles i).getD Tile.reset
def setTile (s : State) (i : Nat) (t : Tile) : State :=
  { s with tiles := store s.tiles i (if t = Tile.reset then none else some t) }
def updTile (s : State) (i : Nat) (f : Tile → Tile) : State := s.setTile i (f (s.tile i))

def arr (s : State) (i : Nat) : Arr := (look s.arrs i).getD Arr.reset
def setArr (s : State) (i : Nat) (a : Arr) : State :=
  { s with arrs := store s.arrs i (if a = Arr.reset then none else some a) }
def updArr (s : State) (i : Nat) (f : Arr → Arr) : State := s.setArr i (f (s.arr i))

def flue (s : State) (i : Nat) : Flue := (look s.flues i).getD Flue.reset
def setFlue (s : State) (i : Nat) (a : Flue) : State :=
  { s with flues := store s.flues i (if a = Flue.reset then none else some a) }
def updFlue (s : State) (i : Nat) (f : Flue → Flue) : State := s.setFlue i (f (s.flue i))

def setReq (s : State) (i : Nat) (r : Option Req) : State := { s with reqs := store s.reqs i r }
def updReq (s : State) (i : Nat) (f : Req → Req) : State :=
  match look s.reqs i with | none => s | some r => s.setReq i (some (f r))

def page (s : State) (i : Nat) : Option Page := look s.kv.pages i
def setPage (s : State) (i : Nat) (p : Option Page) : State := s.updKv fun k => { k with pages := store k.pages i p }
def updPage (s : State) (i : Nat) (f : Page → Page) : State :=
  match s.page i with | none => s | some p => s.setPage i (some (f p))

/-- Write host memory. -/
def hostWrite (s : State) (a : Nat) (bs : List Byte) : State := { s with hostMem := Mem.write s.hostMem a bs }
def hostRead (s : State) (a n : Nat) : List Byte := Mem.read s.hostMem a n

/-- A value returned to a register or SMBus read (log entry 16). -/
def reply (s : State) (v : Nat) : State := { s with replies := v :: s.replies }

/-- Take the next free index (log entry 2). -/
def draw (s : State) : Nat × State := (s.freeCtr, { s with freeCtr := s.freeCtr + 1 })

/-- A fresh free value (log entry 2). -/
def fresh (s : State) : Nat × State := (Config.openField (4 * s.freeCtr), { s with freeCtr := s.freeCtr + 1 })

/-- A free value of this moment of device time, by the field it stands in (log entry 21). -/
def openAt (s : State) (i : Nat) : Nat := Config.openField (4 * (2 ^ 64 * i + s.dev.now) + 1)

end State

/-- Replace the `i`-th element. -/
def setAt {α : Type} (l : List α) (i : Nat) (v : α) : List α := l.set i v

/-- Change the `i`-th element. -/
def modAt {α : Type} (l : List α) (i : Nat) (f : α → α) : List α :=
  match l[i]? with | none => l | some v => l.set i (f v)

/-- Fold an operation over a list of indices. -/
def forAll {α σ : Type} (l : List α) (f : σ → α → σ) (s : σ) : σ := l.foldl f s

/-! ## Device time and states -/

/-- The device clocks run (17_clocks R404, 18_power R430): not in COLD, in HOLD only once the root is accepted again, not
while the rails go down. -/
def clocked (s : State) : Bool :=
  s.dev.st != .cold && (s.dev.st != .hold || s.clk.recovering) && (match s.pwr.seq with | .down _ => false | _ => true)

/-- One SCLK cycle (R404, R450): device time counts, and OP_SECONDS each 100,000,000 cycles (log entry 1). -/
def tick (s : State) : State :=
  if clocked s then
    s.updDev fun d =>
      if d.opFrac + 1 = 100000000 then
        { d with now := (d.now + 1) % 2 ^ 64, opFrac := 0, opSec := (d.opSec + 1) % 2 ^ 32 }
      else { d with now := (d.now + 1) % 2 ^ 64, opFrac := d.opFrac + 1 }
  else s

/-- A branch that starts does so at ÷96 and ramps to its target (17_clocks R418). -/
def startAt (target : Nat) : Divider := { on := true, div := 96, target := target }

/-- A branch that is off. -/
def offDiv (target : Nat) : Divider := { on := false, div := 96, target := target }

/-- A branch runs towards a target. -/
def Divider.toward (d : Divider) (target : Nat) : Divider := if d.on then { d with target := target } else startAt target

/-- The branches by state (17_clocks R403, R416): ACLK runs only while CCLK is at ÷8. -/
def clocksFor (st : DevSt) (c : Clk) : Clk :=
  match st with
  | .boot => { c with cclk := c.cclk.toward 8, aclkOn := false, lclk := offDiv 6, phy := c.phy.toward 3, mclk := c.mclk.toward 12 }
  | .maintenance | .service =>
    let cclk := c.cclk.toward 8
    { c with cclk := cclk, aclkOn := cclk.div == 8, lclk := c.lclk.toward 6, phy := c.phy.toward 3, mclk := c.mclk.toward 12 }
  | .sleep => { c with cclk := c.cclk.toward 64, aclkOn := false, lclk := c.lclk.toward 6 }
  | .deepSleep => { c with cclk := offDiv 8, aclkOn := false, lclk := c.lclk.toward 6, phy := offDiv 3, mclk := offDiv 12 }
  | .failed => { c with cclk := c.cclk.toward 64, aclkOn := false, lclk := offDiv 6 }
  | .cold | .hold =>
    { c with cclk := offDiv 8, aclkOn := false, lclk := offDiv 6, phy := offDiv 3, mclk := offDiv 12 }

/-- Enter a device state: PREV_STATE and STATE_SEC follow (21_host_interface DEV_STATE), the clock branches follow R416,
VCORE R422. -/
def goState (s : State) (st : DevSt) : State :=
  let s := s.updDev fun d => { d with st := st, prev := d.st, stateSec := d.opSec, bootStep := if st = .boot then 1 else 0 }
  let s := s.updClk (clocksFor st)
  s.updPwr fun p => { p with
    vcoreRaised := match st with
      | .maintenance | .service | .sleep => true
      | .deepSleep | .cold => false
      | _ => p.vcoreRaised }

/-- The safe states of 17_clocks R413. -/
def forceSafe (s : State) : State := s.updDev fun d => { d with safe := true }

/-! ## The mantel log (20_mantel_log) -/

/-- Records in the RAM buffer, the open one included. -/
def ramCount (l : Mantel) : Nat := l.ram.length + (if l.openRec.isSome then 1 else 0)

/-- Close the open record (R452). -/
def closeRec (l : Mantel) : Mantel :=
  match l.openRec with | none => l | some r => { l with ram := l.ram ++ [r], openRec := none }

/-- An event with its stamps joins the open record, opens a new one, or is lost (R452, R453). -/
def logStamp (d : Dev) (code domain data : Nat) (deferred : Bool) (l : Mantel) : Mantel :=
  let fresh : LogRec :=
    { opSec := d.opSec, pwrCycle := d.pwrCycles, domain := domain, code := code, count := 1, seq := l.nextSeq,
      data := data, lastSec := d.opSec, deferred := deferred, valid := true }
  let opened : Mantel :=
    if ramCount l ≥ 256 then
      { l with lost := l.lost + 1, lostSec := if l.lost = 0 then d.opSec else l.lostSec,
               lostFrozen := if l.frozen then l.lostFrozen + 1 else l.lostFrozen }
    else
      let l' := closeRec l
      { l' with openRec := some fresh, openedAt := d.opSec, nextSeq := (l.nextSeq + 1) % 2 ^ 32 }
  match l.openRec with
  | none => opened
  | some r =>
    if r.code = code ∧ r.domain = domain ∧ r.data = data then
      let r' := { r with count := r.count + 1, lastSec := d.opSec }
      if r.count + 1 ≥ 65535 then { l with ram := l.ram ++ [r'], openRec := none } else { l with openRec := some r' }
    else opened

/-- Log an event (R452); without a running clock it is held (17_clocks R408; 18_power R426). -/
def logEvent (s : State) (code domain data : Nat) : State :=
  if clocked s then s.updLog (logStamp s.dev code domain data false)
  else s.updLog fun l => { l with held := l.held ++ [(code, domain, data)] }

/-- Write every held event to the log, stamped now, DEFERRED set (R450). -/
def logHeld (s : State) : State :=
  s.updLog fun l =>
    { (l.held.foldl (fun l' e => logStamp s.dev e.1 e.2.1 e.2.2 true l') l) with held := [] }

/-- Write one record to flash at its index (R449, R453): the first record of a 4 KiB sector erases the sector. -/
def flashRec (l : Mantel) (r : LogRec) : Mantel :=
  let i := r.seq % 8192
  let f := if i % 128 = 0 then l.flash.filter fun e => !(i ≤ e.1 && e.1 < i + 128) else l.flash
  { l with flash := insert i r (erase f i), newestSeq := r.seq }

/-- Write every closed record of the RAM buffer. -/
def flashAll (l : Mantel) : Mantel := { (l.ram.foldl flashRec l) with ram := [] }

/-- A flush (R454): close the open record and write the whole RAM buffer, frozen or not; the freeze ends (R455). -/
def flushLog (s : State) : State := s.updLog fun l => { flashAll (closeRec l) with frozen := false, lostFrozen := 0 }

/-- Little-endian fields of an event's 8 data bytes: value and size in bytes, from offset 0. -/
def evData : List (Nat × Nat) → Nat
  | [] => 0
  | (v, n) :: t => v % 256 ^ n + 256 ^ n * evData t

/-! ## Completion records (11_graec_rings R265 to R267, R275) -/

/-- A record as bytes, with the ring number, PHASE and FINAL. -/
def recBytes (ring : Nat) (phase final : Bool) (r : Rec) : List Byte :=
  natLe 4 r.seq ++ natLe 2 r.status ++ natLe 2 r.progress ++ natLe 8 r.tag ++ natLe 8 r.result0 ++ natLe 4 r.result1 ++
    natLe 4 (ring + b2n phase * 2 ^ 20 + b2n final * 2 ^ 21)

/-- Write the next entry of a completion ring (R266), and note the interrupt it asks for (R267). -/
def postRec (s : State) (ring : Nat) (final notify : Bool) (r : Rec) : State :=
  match look s.rings ring with
  | none => s
  | some q =>
    let s := s.hostWrite (q.cq + 32 * q.cidx) (recBytes ring q.phase final r)
    let wrap := q.cidx + 1 = q.entries
    s.setRing ring (some { q with
      cidx := if wrap then 0 else q.cidx + 1, phase := if wrap then !q.phase else q.phase, unret := q.unret + 1,
      irqPending := q.irqPending || notify })

/-- Long operations (R277). -/
def isLong (p : Packet) : Bool :=
  p.opc == 0x22 || p.opc == 0x30 || p.opc == 0x70 || p.opc == 0x80 || p.opc == 0xF0 || p.opc == 0x94 ||
    (p.opc == 0x41 && field p.params 0 4 > 4096)

/-- NOTIFY, RECORDABLE and FENCE of a packet (R261). -/
def Packet.notify (p : Packet) : Bool := bit p.flags 0
def Packet.recordable (p : Packet) : Bool := bit p.flags 1
def Packet.fence (p : Packet) : Bool := bit p.flags 2

/-- Request slot and generation of a handle (R261). -/
def reqSlot (h : Nat) : Nat := bits h 19 0
def reqGen (h : Nat) : Nat := bits h 31 20

/-- The request a handle names: an open request of that generation. -/
def findReq (s : State) (h : Nat) : Option Req :=
  match look s.reqs (reqSlot h) with
  | none => none
  | some r => if r.open_ && r.gen == reqGen h then some r else none

/-- The handle of a request slot. -/
def handleOf (slot gen : Nat) : Nat := slot + gen * 2 ^ 20

/-- The copy of a final record that a duplicate receives (R275): its own SEQ and TAG, the original status in ORIG_STATUS
from session 1.2 on. -/
def dupRec (session : Nat) (p : Packet) (r : Rec) : Rec :=
  { r with seq := p.seq, tag := p.tag, status := stDuplicate,
           result1 := r.result1 % 2 ^ 16 + (if session ≥ 0x12 then r.status * 2 ^ 16 else 0) }

/-- Post the copies that wait for the final record of a command (R275), and take those duplicates off the outstanding
list. -/
def postDups (s : State) (ring seq : Nat) (r : Rec) : State :=
  let dups := s.cmds.filter fun c => decide (c.phase = .dupOf ring seq)
  let s := { s with cmds := s.cmds.filter fun c => !decide (c.phase = .dupOf ring seq) }
  dups.foldl (fun s c => postRec s c.ring true c.pkt.notify (dupRec (s.fn c.fn).session c.pkt r)) s

/-- Remove a command from the outstanding list. -/
def dropCmd (s : State) (c : Cmd) : State :=
  { s with cmds := s.cmds.filter fun d => !(d.ring == c.ring && d.pkt.seq == c.pkt.seq && d.order == c.order) }

/-- Replace a command of the outstanding list. -/
def putCmd (s : State) (c : Cmd) : State :=
  { s with cmds := s.cmds.map fun d => if d.ring = c.ring ∧ d.order = c.order then c else d }

/-- The warning bits of a request (R265 RESULT1). -/
def warnBits (s : State) (c : Cmd) : Nat :=
  match findReq s c.pkt.req with
  | none => b2n c.zeroBlock * 2
  | some r => b2n r.nonfinite + b2n c.zeroBlock * 2

/-- Commands outstanding on a ring. -/
def outOn (s : State) (ring : Nat) : Nat := (s.cmds.filter fun c => c.ring == ring).length

/-- A ring just created (R254, R255): head, tail and completion head 0, NEXT 1, PHASE 1. -/
def newRing (fn sq slots cq entries headAddr vector : Nat) (isAdmin : Bool) : Ring :=
  { fn := fn, sq := sq, slots := slots, cq := cq, entries := entries, headAddr := headAddr, isAdmin := isAdmin, vector := vector,
    head := 0, tail := 0, chead := 0, cidx := 0, phase := true, unret := 0, next := 1, stopped := false, destroying := false,
    window := [], irqPending := false, lastIrq := none }

/-- The admin ring of a function that is enabled and has none starts with the values of its page (R253, R254). -/
def startAdmin (s : State) (fn : Nat) : State :=
  let f := s.fn fn
  if f.enable && (look s.rings f.first).isNone then
    s.setRing f.first (some (newRing fn f.sq (2 ^ f.sqLog2) f.cq (2 ^ f.cqLog2) 0 f.vector true))
  else s

/-- A word of the MSI-X table: a vector that has not been written is masked (PRESUMED, log entry 23). -/
def msixWord (f : Fn) (i : Nat) : Nat := (look f.msix i).getD (if i % 4 = 3 then 1 else 0)

/-- Send an MSI-X message, or hold it pending behind its mask (log entry 23). -/
def sendIrq (s : State) (fn vector : Nat) : State :=
  let f := s.fn fn
  if bit (msixWord f (4 * vector + 3)) 0 then s.updFn fn fun f => { f with pba := put 0 f.pba vector 1 }
  else s.updHost fun h => { h with irqs := h.irqs ++ [(fn, vector)] }

/-- The interrupt a ring owes is raised (R267). -/
def raiseIrq (s : State) (ring : Nat) : State :=
  match look s.rings ring with
  | none => s
  | some q =>
    if q.irqPending then sendIrq (s.setRing ring (some { q with irqPending := false, lastIrq := some s.dev.now })) q.fn q.vector else s

/-- Every ring raises the interrupt it owes: the rings are about to go (DESIGN CHOICE, log entry 145). -/
def raiseAll (s : State) : State := s.rings.foldl (fun s e => raiseIrq s e.1) s

/-- A ring that is to be destroyed goes once nothing is outstanding on it and the interrupt it owes
has been raised (R267; DESIGN CHOICE, log entry 145); an admin ring goes last (R254, R256). -/
def dropRing (s : State) (ring : Nat) : State :=
  match look s.rings ring with
  | none => s
  | some r =>
    if r.destroying && outOn s ring == 0 && !r.irqPending &&
        (!r.isAdmin || s.rings.all fun e => e.1 == ring || e.2.elim true fun q => q.fn != r.fn) then s.setRing ring none
    else s

/-- What the end of a command does to a ring that is to be destroyed. -/
def reap (s : State) (ring : Nat) : State :=
  match look s.rings ring with
  | none => s
  | some r => if r.destroying then startAdmin (dropRing (dropRing s ring) (s.fn r.fn).first) r.fn else s

/-- The ring keeps a final record (R275): of those of its last 256 new packets, which NEXT counts. -/
def Ring.stored (q : Ring) (r : Rec) : Ring :=
  { q with window := (r :: q.window).filter fun e => decide ((q.next + 2 ^ 32 - e.seq) % 2 ^ 32 ≤ 256) }

/-- Post a command's final record (R265, R282): OK with a warning bit set becomes OK_WARN; a long operation carries
PROGRESS 1,000 on OK and the last value reached otherwise (R277); the ring keeps the record of a new packet (R275). -/
def finishW (s : State) (c : Cmd) (status result0 warn : Nat) : State :=
  let st := if status = stOk ∧ warn % 32 ≠ 0 then stWarn else status
  let r : Rec :=
    { seq := c.pkt.seq, status := st, tag := c.pkt.tag, result0 := result0 % 2 ^ 64, result1 := warn,
      progress := if isLong c.pkt then (if status = stOk then 1000 else c.progress)
                  else if c.pkt.opc = 0xE0 ∧ status = stOk then c.progress else 0xFFFF }
  let s := dropCmd s c
  if c.replay then s
  else
    let s := postRec s c.ring true c.pkt.notify r
    let s := s.updRing c.ring fun q => q.stored r
    let s :=
      if c.pkt.opc = 0x42 ∨ c.pkt.opc = 0x43 then
        s.updReq (reqSlot c.pkt.req) fun q =>
          if status = stOk then { q with kept := ((field c.pkt.params 0 4, r) :: q.kept).take 8 } else q
      else s
    reap (postDups s c.ring c.pkt.seq r) c.ring

/-- Post a command's final record with the warnings of its request. -/
def finish (s : State) (c : Cmd) (status result0 : Nat) : State := finishW s c status result0 (warnBits s c)

/-- BAD_PARAM naming a packet offset (R282). -/
def badParam (s : State) (c : Cmd) (off : Nat) : State := finish s c stBadParam off

/-- The payload form of R282: the packet offset of the address parameter and the offset within the payload. -/
def payloadOff (addrOff off : Nat) : Nat := 2 ^ 63 + addrOff % 256 * 2 ^ 48 + off % 2 ^ 40

/-- Post an IN_PROGRESS record when the reservation of R266 leaves room for it (R277). -/
def postProgress (s : State) (c : Cmd) : State :=
  match look s.rings c.ring with
  | none => s
  | some q =>
    if c.replay ∨ q.unret + (s.cmds.filter fun d => d.ring == c.ring).length ≥ q.entries then s
    else postRec s c.ring false c.pkt.notify
      { seq := c.pkt.seq, status := stInProgress, progress := c.progress, tag := c.pkt.tag, result0 := c.position,
        result1 := 0 }

/-- The first IN_PROGRESS record of a long operation, when it is accepted (R277). -/
def acceptLong (s : State) (c : Cmd) : State :=
  let c := { c with progress := 0, position := 0, lastInProg := s.dev.now, lastProg := 0 }
  postProgress (putCmd s c) c

/-- The outstanding command of a ring and SEQ that is not a waiting duplicate. -/
def findCmd (s : State) (ring seq : Nat) : Option Cmd :=
  s.cmds.find? fun c => c.ring == ring && c.pkt.seq == seq &&
    (match c.phase with | .dupOf _ _ => false | _ => true)

/-- The control core that serves a ring (01_machine R24): core `k` of die `d` is `4d + k`. -/
def coreOf (ring : Nat) : Nat := ring % 16

/-- The class of a command (R263): of the request it names, else PRIO. -/
def classOf (s : State) (c : Cmd) : Nat := (findReq s c.pkt.req).elim c.pkt.prio (·.cls)

/-- No earlier command naming the request is outstanding (13_serving R313); REQ_CLOSE, REQ_CANCEL and REQ_QUERY do not count. -/
def reqTurn (s : State) (c : Cmd) : Bool :=
  s.cmds.all fun d =>
    !(d.pkt.req == c.pkt.req && decide (d.order < c.order) && !(decide (0x44 ≤ d.pkt.opc ∧ d.pkt.opc ≤ 0x46)) &&
      (match d.phase with | .dupOf _ _ => false | _ => true))

/-- A decoded command that nothing but its place in its core's order holds back: an earlier command of its request, a join or a tile may
hold others (log entry 14). -/
def mayStart (s : State) (c : Cmd) : Bool :=
  decide (c.phase = .ready) && !c.replay &&
    (match c.pkt.opc with
     | 0x41 | 0x42 | 0x43 | 0x50 => reqTurn s c
     | 0x60 | 0x61 | 0x91 => false
     | _ => true)

/-- No decoded command that could start comes before a command in its control core's order (R263): by class, then in the order of
decoding. -/
def inTurn (s : State) (c : Cmd) : Bool :=
  c.replay || s.cmds.all fun d =>
    !(coreOf d.ring == coreOf c.ring && mayStart s d &&
      decide (classOf s d < classOf s c ∨ (classOf s d = classOf s c ∧ d.order < c.order)))

/-- Run the effect of an opcode's row: the command of that ring and SEQ, with that opcode, ready to execute and next in its control
core's order (R263; log entry 14). -/
def onReady (opc : Nat) (ring seq : Nat) (f : Cmd → State → State) (s : State) : State :=
  match findCmd s ring seq with
  | none => s
  | some c => if clocked s ∧ c.pkt.opc = opc ∧ c.phase = .ready ∧ inTurn s c = true then f c s else s

/-- A parameter of a command: `n` bytes at parameter offset `o` (12_graec_commands R281). -/
def Cmd.p (c : Cmd) (o n : Nat) : Nat := field c.pkt.params o n

/-- Commands of a function outstanding other than one. -/
def othersOfFn (s : State) (c : Cmd) : Nat := (s.cmds.filter fun d => d.fn == c.fn && d.order != c.order).length

/-- Every status a state-changing event gives to the commands still outstanding (R279). -/
def failAll (s : State) (status : Nat) : State :=
  s.cmds.foldl (fun s c =>
    match findCmd s c.ring c.pkt.seq with | none => s | some d => finish s d status 0) s

end Sys2Proof.Machine
end

