-- ==== Sys2Proof/Machine/Geometry.lean ====
section
/-! DEFINITION. The geometry of tiles, dies and arrays (01_machine R17, R21; 03_arrays R58, R59), tally digits, and the
weight formats (02_number_formats). -/

namespace Sys2Proof.Machine

/-- The die of a tile (R17). -/
def dieOf (tile : Nat) : Nat := (if tile / 80 ≥ 32 then 2 else 0) + (if tile % 80 ≥ 40 then 1 else 0)

/-- The home flue engine of a tile (06_flue_path R137). -/
def homeEngine (tile : Nat) : Nat :=
  32 * dieOf tile + 4 * (tile / 80 % 32 / 4) + tile % 80 % 40 / 10

/-- Ones among bits `lo` to `lo + n - 1` of a number. -/
def popBits (v lo n : Nat) : Nat := ((List.range n).filter fun i => v.testBit (lo + i)).length

/-- The count that the tally digits of set `s` in half `h` of a row should spell (R58). -/
def setCount (row h s : Nat) : Nat := popBits row (608 * h + 32 * s) 32

/-- The stored tally digits of set `s` in half `h` of a row, weighted 1 to 32. -/
def setDigits (row h s : Nat) : Nat := bits row (608 * h + 512 + 6 * s + 5) (608 * h + 512 + 6 * s)

/-- The number of tally sets of a row whose digits disagree. -/
def badSets (row : Nat) : Nat :=
  ((List.range 32).filter fun k => setCount row (k / 16) (k % 16) != setDigits row (k / 16) (k % 16)).length

/-- The 1,024 data bits of a row: bit `512 h + j` is data column `j` of half `h`. -/
def dataBits (row : Nat) : Nat := row % 2 ^ 512 + row / 2 ^ 608 % 2 ^ 512 * 2 ^ 512

/-- A row of 1,216 cells from its data bits, tally digits recomputed (R58). -/
def mkRow (data : Nat) : Nat :=
  let r := data % 2 ^ 512 + data / 2 ^ 512 % 2 ^ 512 * 2 ^ 608
  (List.range 32).foldl
    (fun acc k => acc + setCount r (k / 16) (k % 16) * 2 ^ (608 * (k / 16) + 512 + 6 * (k % 16))) r

/-- Row key of the cell store, for the data rows. -/
def cellKey (array row : Nat) : Nat := array * 1024 + row

/-- The partner tile of the sweep (16_faults R391). -/
def partnerTile (tile : Nat) : Nat := (63 - tile / 80) * 80 + (79 - tile % 80)

/-- The cells of a row of group 16 generated from the sweep seed (R391): both arrays of a pair hold the same. -/
def sweepRow (s : State) (array row : Nat) : Nat :=
  let t := array / 4
  mkRow (Config.sweepBits s.sweep.seed (min t (partnerTile t)) (array % 4) (row - 1024) % 2 ^ 1024)

/-- The converter calibration pattern stands in group 16 of an array: a CAL_RUN holds it (04_calibration R95), or phase 2 of
SELF_TEST is in the array (16_faults R396). -/
def calHolds (s : State) (array : Nat) : Bool :=
  s.cal.group16 || s.test.elim false fun t => array == t.done2 && decide (t.done2 < t.done1)

/-- A row of an array. Group 16 always holds the weights of the sweep seed, or, while a calibration holds it, ones in every
cell (R61; 04_calibration R95), so it is computed and not stored. -/
def rowOf (s : State) (array row : Nat) : Nat :=
  if row ≥ 1024 then (if calHolds s array then 2 ^ 1216 - 1 else sweepRow s array row)
  else nat s.cells (cellKey array row)

/-- Write a row of an array; the rows of group 16 are written by the seed alone. -/
def setRow (s : State) (array row v : Nat) : State :=
  if row ≥ 1024 then s else { s with cells := put 0 s.cells (cellKey array row) v }

/-- The golden data bits of a data row (08_tables_tiers R188). -/
def goldOf (s : State) (array row : Nat) : Nat := nat s.gold (array * 1024 + row)

def setGold (s : State) (array row v : Nat) : State := { s with gold := put 0 s.gold (array * 1024 + row) v }

/-- The weight of an output of a row: formats 0 W1, 1 W2, 2 T (02 R29, R30; 05 R118). -/
def weightAt (fmt row c : Nat) : Int :=
  let b (h j : Nat) : Int := if row.testBit (608 * h + j) then 1 else 0
  if fmt = 0 then 2 * b (c / 512) (c % 512) - 1
  else if fmt = 1 then -2 * b 0 c + b 1 c
  else b 0 c - b 1 c

/-- Outputs of an array by format (09 R204). -/
def outputsOf (fmt : Nat) : Nat := if fmt = 0 then 1024 else 512

/-- A weight lies in its format's value set (02 R32). -/
def weightOk (fmt : Nat) (w : Int) : Bool :=
  if fmt = 0 then w == -1 || w == 1 else if fmt = 1 then -2 ≤ w && w ≤ 1 else -1 ≤ w && w ≤ 1

end Sys2Proof.Machine
end

