-- ==== Sys2Proof/Machine/Mesh.lean ====
section
/-! DEFINITION. The tile mesh (01_machine R17 to R20): routes, flits with their parity sideband, the two traffic classes, and which
flits may arrive. -/

namespace Sys2Proof.Machine

/-! ## Routes (R18) -/

/-- The links along row `y` from column `x` to column `x'`. -/
def rowLinks (y x x' : Nat) : List MeshLink :=
  if x ≤ x' then (List.range (x' - x)).map fun i => { tile := 80 * y + x + i, dir := .east }
  else (List.range (x - x')).map fun i => { tile := 80 * y + x - i, dir := .west }

/-- The links along column `x` from row `y` to row `y'`. -/
def columnLinks (x y y' : Nat) : List MeshLink :=
  if y ≤ y' then (List.range (y' - y)).map fun i => { tile := 80 * (y + i) + x, dir := .south }
  else (List.range (y - y')).map fun i => { tile := 80 * (y - i) + x, dir := .north }

/-- The route between two tiles: along the row first, then along the column. -/
def meshRoute (src dst : Nat) : List MeshLink :=
  rowLinks (src / 80) (src % 80) (dst % 80) ++ columnLinks (dst % 80) (src / 80) (dst / 80)

/-- A link as one number, for the errors noted of it. -/
def linkIndex (l : MeshLink) : Nat :=
  4 * l.tile + match l.dir with | .east => 0 | .west => 1 | .south => 2 | .north => 3

/-! ## Flits (R19) -/

end Sys2Proof.Machine

namespace Sys2Proof.MeshFlit

/-- The destination tile, header bits [12:0]. -/
def dst (f : MeshFlit) : Nat := (f.header.extractLsb' 0 13).toNat

/-- The source tile, header bits [25:13]. -/
def src (f : MeshFlit) : Nat := (f.header.extractLsb' 13 13).toNat

/-- The traffic class, header bit [26]: background when set. -/
def background (f : MeshFlit) : Bool := f.header.getLsbD 26

/-- The transfer fields, header bits [63:27]. -/
def xfer (f : MeshFlit) : Nat := (f.header.extractLsb' 27 37).toNat

/-- The 40 bytes that the sideband covers: the data, then the header (the order is the model's, log entry 122). -/
def covered (f : MeshFlit) : BitVec 320 := f.header ++ f.data

/-- Even parity of byte `i`: the bit that makes the number of ones even. -/
def parityBit (f : MeshFlit) (i : Nat) : Bool := Machine.popBits f.covered.toNat (8 * i) 8 % 2 == 1

/-- Every router and the receiving interface check the sideband. -/
def good (f : MeshFlit) : Bool := (List.range 40).all fun i => f.parity.getLsbD i == f.parityBit i

end Sys2Proof.MeshFlit

namespace Sys2Proof.Machine

/-! ## Classes (R20) -/

/-- The tile a sweep unit stands in; a flue engine stands at an edge port, in none. -/
def unitTile (kind unit : Nat) : Option Nat := match kind with | 0 => some (unit / 4) | 1 => some unit | _ => none

/-- The background class: the digests of the sweep (16_faults R392). -/
def Flit.background : Flit → Bool
  | .digest _ _ _ _ => true
  | .signal _ _ _ _ _ | .result _ _ _ _ _ | .storage _ _ _ _ _ => false

/-- The links a transfer crosses between tiles; what comes from a flue engine's edge port crosses links the manual does not name. -/
def Flit.route : Flit → List MeshLink
  | .signal src _ dst _ _ => meshRoute src dst
  | .digest kind unit _ _ => (unitTile kind unit).elim [] fun t => meshRoute (partnerTile t) t
  | .result _ _ _ _ _ | .storage _ _ _ _ _ => []

/-- A service flit wins every router over a background flit: one on the background class arrives only when no service flit under way
contends with it for a link. -/
def mayArrive (s : State) (f : Flit) : Bool :=
  !f.background || s.flits.all fun g => g.background || !(g.route.any f.route.contains)

/-! ## Units of the sweep (16_faults R391, R392) -/

/-- The partner of a unit of a kind (R391): arrays, tiles, flue engines. -/
def partnerOf (kind unit : Nat) : Nat :=
  match kind with
  | 0 => 4 * partnerTile (unit / 4) + unit % 4
  | 1 => partnerTile unit
  | _ => 32 * (unit / 32 ^^^ 3) + unit % 32

/-- Units of a kind. -/
def unitCount (kind : Nat) : Nat := match kind with | 0 => 20480 | 1 => 5120 | 2 => 128 | _ => 0

/-- Rounds a unit has completed. -/
def roundsOf (s : State) (kind unit : Nat) : Nat :=
  match kind with
  | 0 => (s.arr unit).round
  | 1 => nat s.sweep.logicRound unit
  | _ => (s.flue unit).round

/-- A digest a unit holds, plus 1; 0 for none. -/
def digestOf (s : State) (kind unit round : Nat) : Nat :=
  match kind with
  | 0 => nat (s.arr unit).digests round
  | 1 => nat s.sweep.logicDigests (unit * 2 ^ 64 + round)
  | _ => nat (s.flue unit).digests round

/-- Hold a digest, or drop it (0). -/
def setDigest (s : State) (kind unit round v : Nat) : State :=
  match kind with
  | 0 => s.updArr unit fun a => { a with digests := put 0 a.digests round v }
  | 1 => s.updSweep fun w => { w with logicDigests := put 0 w.logicDigests (unit * 2 ^ 64 + round) v }
  | _ => s.updFlue unit fun f => { f with digests := put 0 f.digests round v }

/-- A unit has completed one more round. -/
def countRound (s : State) (kind unit : Nat) : State :=
  match kind with
  | 0 => s.updArr unit fun a => { a with round := a.round + 1, subRounds := a.subRounds + 1 }
  | 1 => s.updSweep fun w => { w with
      logicRound := put 0 w.logicRound unit (nat w.logicRound unit + 1),
      logicSub := put 0 w.logicSub unit (nat w.logicSub unit + 1) }
  | _ => s.updFlue unit fun f => { f with round := f.round + 1, subRounds := f.subRounds + 1 }

/-- The digests of a unit's rounds that are on their way to its partner. -/
def digestsFrom (s : State) (kind unit : Nat) : List Flit :=
  s.flits.filter fun f => match f with | .digest k u _ _ => k == kind && u == partnerOf kind unit | _ => false

/-- The round whose digest a unit's flit carried is voided and restarts (16_faults R388), and with it the rounds after it, whose
digests follow the lost one on the same route. -/
def restartRound (s : State) (kind unit round : Nat) : State :=
  let gone := roundsOf s kind unit - round
  let keep (m : SMap Nat) : SMap Nat := m.filter fun e => decide (e.1 < round)
  let s := { s with flits := s.flits.filter fun f =>
    match f with | .digest k u r _ => !(k == kind && u == partnerOf kind unit && decide (round ≤ r)) | _ => true }
  match kind with
  | 0 => s.updArr unit fun a => { a with round := a.round - gone, subRounds := a.subRounds - gone, digests := keep a.digests }
  | 1 => s.updSweep fun w => { w with
      logicRound := put 0 w.logicRound unit (nat w.logicRound unit - gone),
      logicSub := put 0 w.logicSub unit (nat w.logicSub unit - gone),
      logicDigests := w.logicDigests.filter fun e => !(decide (unit * 2 ^ 64 + round ≤ e.1) && decide (e.1 < (unit + 1) * 2 ^ 64)) }
  | _ => s.updFlue unit fun f => { f with round := f.round - gone, subRounds := f.subRounds - gone, digests := keep f.digests }

/-- The sweep round a lost background flit carried the digest of: the oldest one between its tiles, by kind, sending unit and round. -/
def roundOf (s : State) (src dst : Nat) : Option (Nat × Nat × Nat) :=
  s.flits.findSome? fun f =>
    match f with
    | .digest k u r _ => if unitTile k u = some dst ∧ partnerTile dst = src then some (k, partnerOf k u, r) else none
    | _ => none

end Sys2Proof.Machine
end

