-- ==== Sys2Proof/Machine/Faults.lean ====
section
/-! DEFINITION. Faults (16_faults): entering FAILED, raising an error, the handlers and their actions, halting a
context, and the commands of that chapter. -/

namespace Sys2Proof.Machine

/-! ## Entering FAILED (R390) -/

/-- Entry to FAILED: DEV_FAILED is logged, the domain counts as seen (R382, R399), the error FIFO is discarded, the row drivers forced off,
dispatch and the sweep stopped, every outstanding command completed with DEVICE_FAILED (R279), the log flushed (R454), CCLK dropped to 150
MHz with ACLK off. -/
def enterFailed (s : State) (domain cause unit detail : Nat) : State :=
  if s.dev.st = .failed ∨ s.dev.st = .cold then s
  else
    let s := logEvent s 0xA001 domain (evData [(domain, 1), (0, 1), (cause, 2), (unit, 2), (detail, 2)])
    let s := s.updErr fun e =>
      { e with fifo := [], active := none, arrq := [], failedDomain := domain, hostRead := none, seen := e.seen ||| 2 ^ domain }
    let s := forceSafe s
    let s := s.updCal fun c => { c with run := none }
    let s := { s with test := none }
    let s := failAll s stDevFailed
    let s := flushLog s
    goState s .failed

/-! ## Requests and contexts that lose data -/

/-- A request takes DATA_LOST (R297): a command of it under way completes with DATA_LOST, and so does a REQ_VERIFY that runs a
draft tree on it (DEDUCED, log entry 32). -/
def loseReq (s : State) (slot : Nat) : State :=
  match look s.reqs slot with
  | none => s
  | some r =>
    if !r.open_ then s
    else
      let s := s.updReq slot fun q => { q with dataLost := true }
      let holder := r.boundBy.bind fun h => (look s.reqs h).map fun q => handleOf h q.gen
      let named := s.cmds.filter fun c =>
        (c.pkt.req == handleOf slot r.gen && c.pkt.opc != 0x44 && c.pkt.opc != 0x45 && c.pkt.opc != 0x46) ||
          (c.pkt.opc == 0x43 && field c.pkt.params 4 1 == 1 && holder == some c.pkt.req)
      named.foldl (fun s c =>
        match findCmd s c.ring c.pkt.seq with
        | none => s
        | some d => if d.phase = .leaving then s else finish s d stDataLost 0) s

/-- Every open request that satisfies a test takes DATA_LOST. -/
def loseReqs (s : State) (p : Nat → Req → Bool) : State :=
  s.reqs.foldl (fun s e =>
    match e.2 with | none => s | some r => if r.open_ && p e.1 r then loseReq s e.1 else s) s

/-! ## Pages in open streams (10_instructions R236) -/

/-- The pages in open streams. -/
def openPages (s : State) : List Nat :=
  (s.tiles.map fun e => e.2.elim [] fun t => (t.streams.map fun v => v.2.elim [] (·.pages)).flatten).flatten

/-- Free a page and its spill slot; the slot of a page in an open stream is freed when the stream closes: until then nothing refers
to the page (10_instructions R236). -/
def freePage (s : State) (id : Nat) : State :=
  match look s.kv.pages id with
  | none => s
  | some p =>
    if (openPages s).contains id then s.setPage id (some { p with refcnt := 0, bound := false })
    else
      let s := s.setPage id none
      if p.spilled then s.updCtx p.ctx fun c => { c with spillUsed := c.spillUsed - 1 } else s

/-- Streams have closed: the pages that nothing refers to are freed. -/
def reapPages (s : State) : State :=
  s.kv.pages.foldl (fun s e => if e.2.elim false fun p => p.refcnt == 0 then freePage s e.1 else s) s

/-- A tile stops: nothing of its execution remains. -/
def stopTile (t : Tile) : Tile :=
  { t with exec := none, stopped := true, fires := [], streams := [], recvs := [], sends := [], credits := [], repairs := [],
           backlog := [], held := 0, outRecompute := 0, outOutlier := 0, outDelta := 0 }

/-- The physical tiles of a context. -/
def ctxTiles (s : State) (ctx : Nat) : List Nat :=
  match look s.ctxs ctx with
  | none => []
  | some c => match c.image with | none => [] | some i => i.tiles.map (·.tile)

/-- Halting a context (R384): its tiles stop, its vectors are discarded, CTX_HALTED is logged, its open requests take
DATA_LOST, and its other commands under way complete with DEVICE_FAILED. The halt of a chimney context is yet to be told. -/
def haltCtx (s : State) (ctx cause ctile instr : Nat) : State :=
  match look s.ctxs ctx with
  | none => s
  | some c =>
    if c.halted then s
    else
      let s := (ctxTiles s ctx).foldl (fun s t => s.updTile t stopTile) s
      let s := { s with
        flits := s.flits.filter fun f =>
          match f with
          | .signal _ _ dst _ _ => !(ctxTiles s ctx).contains dst
          | .result t _ _ _ _ => !(ctxTiles s ctx).contains t
          | .storage t _ _ _ _ => !(ctxTiles s ctx).contains t
          | .digest _ _ _ _ => true }
      let s := logEvent s 0x8006 8 (evData [(ctx, 1), (cause, 1), (ctile, 2), (instr, 2)])
      let s := reapPages (s.updCtx ctx fun c => { c with halted := true, inflight := [] })
      let s := if c.chimney then s.updChim fun k => { k with halts := k.halts ++ [ctx] } else s
      let s := loseReqs s fun _ r => r.ctx == ctx
      let others := s.cmds.filter fun d => d.pkt.ctx == ctx && d.pkt.req == noReq && d.pkt.opc != 0x21
      others.foldl (fun s d =>
        match findCmd s d.ring d.pkt.seq with
        | none => s
        | some e => if e.phase = .running ∨ e.phase = .leaving then finish s e stDevFailed 0 else s) s

/-- The segments of a context that the engines' delta caches hold go with what they are copies of (06_flue_path R148). -/
def uncache (s : State) (p : Nat × Nat × Nat → Bool) : State :=
  s.flues.foldl (fun s e => s.updFlue e.1 fun f => { f with cache := f.cache.filter fun k => !p k }) s

/-- A variant is dropped from a context (06_flue_path R147). -/
def dropVariant (s : State) (ctx v : Nat) : State :=
  uncache (s.updCtx ctx fun c => { c with variants := erase c.variants v }) fun k => k.1 == ctx && k.2.1 == v

/-! ## Uncorrectable HBM errors (R386, R387) -/

/-- Address and region index of a site (R400). -/
def siteInfo : HbmSite → Nat × Nat
  | .sys a => (a, 0) | .gold a _ _ _ => (a, 1) | .ring a => (a, 2) | .reqRecord a _ => (a, 3) | .prefixTable a => (a, 3)
  | .hob a _ => (a, 4) | .delta a _ _ => (a, 5) | .cache a _ => (a, 6) | .table a _ => (a, 7) | .mirror a _ => (a, 8)
  | .pool a _ => (a, 9)

/-- The outcome of an uncorrectable HBM error by region (R386). -/
def hbmAction (s : State) : HbmSite → State
  | .sys a => enterFailed s 5 0x5002 (a / 256 % 8) 0
  | .ring a => enterFailed s 5 0x5002 (a / 256 % 8) 0
  | .gold _ array row true =>
    if badSets (rowOf s array row) = 0 then setGold s array row (dataBits (rowOf s array row))
    else enterFailed s 5 0x5002 array row
  | .gold _ _ _ false => s
  | .reqRecord _ slot => loseReq s slot
  | .prefixTable a => enterFailed s 5 0x5002 (a / 256 % 8) 0
  | .hob _ slot => loseReq s slot
  | .delta _ ctx v => loseReqs (dropVariant s ctx v) fun _ r => r.ctx == ctx && r.variant == v
  | .cache _ row => s.updKv fun k => { k with hot := k.hot.filter fun e => e.2.2 != row }
  | .table _ ctx => haltCtx s ctx 7 0xFFFF 0xFFFF
  | .mirror _ key => s.updChim fun c => { c with mirror := c.mirror.eraseIdx key, lost := c.lost ++ (c.mirror[key]?).toList }
  | .pool _ page =>
    loseReqs s fun _ r => r.tables.any fun t => t.2.any fun e => e.2.slot == page && !e.2.ash

/-! ## Errors and handlers (R382, R383) -/

/-- An error whose action is FAILED: so marked, or of the FLUE or the LINK domain, whose row has no other (R382; 01_machine R27). -/
def isFatal (e : ErrIn) : Bool := e.act == .fatal || e.domain == 4 || e.domain == 6

/-- What a handler does when it starts (R382). -/
def runAct (s : State) (e : ErrIn) : State :=
  match e.act with
  | .fatal => enterFailed s e.domain e.code e.unit e.detail
  | .halt ctx cause ctile instr => haltCtx s ctx cause ctile instr
  | .hbm site => hbmAction s site
  | .inputLow v =>
    let s := logEvent s 0x2004 1
      (evData [(15, 1), (1, 1), (0, 1), (s.openAt 1, 1), (v, 2), (0, 2)])
    s.updThm fun t => { t with ceilNext := true }
  | .hostRetry r => s.updErr fun x => { x with hostRead := some r }
  | .elsewhere => s

/-- A handler starts. -/
def startHandler (s : State) (e : ErrIn) : State :=
  runAct (s.updErr fun x => { x with active := some { err := e, started := s.dev.now } }) e

/-- A nested error (R383): ERR_NESTED_FATAL, then FAILED. -/
def nestedErr (s : State) (h : Handler) (e : ErrIn) : State :=
  let s := logEvent s 0x8004 8
    (evData [(h.err.domain, 1), (0, 1), (h.err.code, 2), (e.code, 2), (s.err.fifo.length, 2)])
  enterFailed s e.domain 0x8004 e.unit e.detail

/-- An error is raised (R383): its domain is seen; a fatal action is taken at once; otherwise its handler starts, or it
joins the FIFO or the ARRAY queue, or it is nested or overflows. -/
def raiseErr (s : State) (e : ErrIn) : State :=
  if !clocked s || s.dev.st == .failed then s
  else
    let s := s.updErr fun x => { x with seen := x.seen ||| 2 ^ e.domain }
    if isFatal e then enterFailed s e.domain e.code e.unit e.detail
    else
      match s.err.active with
      | none => startHandler s e
      | some h =>
        if h.err.domain = e.domain then
          if e.domain = 3 ∧ s.err.arrq.length < 64 then s.updErr fun x => { x with arrq := x.arrq ++ [e] }
          else nestedErr s h e
        else if s.err.fifo.length ≥ 32 then
          let s := logEvent s 0x8005 8 (evData [(h.err.domain, 1), (0, 1), (e.code, 2)])
          enterFailed s e.domain 0x8005 e.unit e.detail
        else
          s.updErr fun x => { x with fifo := x.fifo ++ [e], hwm := max x.hwm (x.fifo.length + 1) }

/-- The active handler ends (R383): the ARRAY handler serves its own queue first, then the oldest FIFO entry starts. -/
def endHandler (s : State) : State :=
  match s.err.active with
  | none => s
  | some h =>
    match h.err.domain == 3, s.err.arrq with
    | true, e :: q => runAct (s.updErr fun x => { x with arrq := q, active := some { h with err := e } }) e
    | _, _ =>
      match s.err.fifo with
      | [] => s.updErr fun x => { x with active := none }
      | e :: q => startHandler (s.updErr fun x => { x with fifo := q, active := none }) e

/-- ERROR_RAISE (R383). -/
def execErrorRaise (e : ErrIn) (s : State) : Host.Outcome State Fault Refusal := .next (raiseErr s e)

/-- HANDLER_TIMEOUT (R382): a handler active for more than 10 ms is a control-core fault. -/
def execHandlerTimeout (s : State) : Host.Outcome State Fault Refusal :=
  .next (match s.err.active with
    | none => s
    | some h => if s.dev.now - h.started ≥ 1000000 then enterFailed s 8 h.err.code 0xFFFF 0 else s)

/-! ## Memory errors (R386 to R388) -/

/-- The region an HBM address lies in under the layout in force (08 R188): SYS 0 to POOL 9. -/
def regionOf (s : State) (addr : Nat) : Nat :=
  let g := addr / 2 ^ 30
  let t := 64 + s.kv.tableGib
  if g < 1 then 0 else if g < 5 then 1 else if g < 14 then 2 else if g < 38 then 3 else if g < 40 then 4
  else if g < 56 then 5 else if g < 64 then 6 else if g < t then 7
  else if addr / 2 ^ 20 < t * 1024 + s.kv.mirrorMib then 8 else 9

/-- HBM_PATROL (08 R187): a single-symbol error is corrected in place and logged. -/
def execHbmPatrol (addr : Nat) (corrected : Bool) (s : State) : Host.Outcome State Fault Refusal :=
  .next (if corrected && clocked s then
      logEvent s 0x5001 5 (evData [(0, 1), (regionOf s addr, 1), (0, 2), (addr / 256, 4)])
    else s)

/-- HBM_UNCORRECTABLE (R386, R387): 16 in one stack within 1 s are a stack failure. -/
def execHbmUncorrectable (site : HbmSite) (s : State) : Host.Outcome State Fault Refusal :=
  .next (if !clocked s || s.dev.st == .failed then s
    else
      let (addr, region) := siteInfo site
      let stack := addr / 256 % 8
      let s := logEvent s 0x5002 5 (evData [(0, 1), (region, 1), (0, 2), (addr / 256, 4)])
      let recent := (stack, s.dev.now) :: s.err.stackErrs.filter fun e => s.dev.now - e.2 < 100000000
      let s := s.updErr fun x => { x with stackErrs := recent }
      if (recent.filter fun e => e.1 == stack).length ≥ 16 then
        raiseErr s { domain := 5, code := 0x5002, unit := stack, detail := 16, act := .fatal }
      else raiseErr s { domain := 5, code := 0x5002, unit := stack, detail := 0, act := .hbm site })

/-- HBM_STACK_FAIL (R387). -/
def execHbmStackFail (stack : Nat) (s : State) : Host.Outcome State Fault Refusal :=
  .next (raiseErr s { domain := 5, code := 0x5002, unit := stack, detail := 0, act := .fatal })

/-- The panel of a tile that owns a line. -/
def panelOfLine (ps : List Panel) (line : Nat) : Option Panel :=
  ps.find? fun p => p.lines != 0 && p.base ≤ line && line < p.base + p.lines

/-- The context tile record of a physical tile. -/
def ctileOf (s : State) (tile : Nat) : Option (Nat × Nat × Ctx × Image × CTile) :=
  match (s.tile tile).ctx with
  | none => none
  | some (cx, ct) =>
    match look s.ctxs cx with
    | none => none
    | some c => match c.image with
      | none => none
      | some i => match i.tiles[ct]? with | none => none | some k => some (cx, ct, c, i, k)

/-- TILE_PARITY_ERROR (R388): an error in a panel halts the owning context; outside every panel it is logged only. -/
def execTileParityError (tile line : Nat) (s : State) : Host.Outcome State Fault Refusal :=
  .next (if !clocked s || s.dev.st == .failed then s
    else
      let s := logEvent s 0x5002 5 (evData [(1, 1), (0xFF, 1), (0, 2), (line % 4096 + tile * 65536, 4)])
      match ctileOf s tile with
      | none => s
      | some (cx, ct, _, _, k) =>
        match panelOfLine k.panels line with
        | none => s
        | some _ => raiseErr s { domain := 5, code := 0x5002, unit := tile, detail := 0, act := .halt cx 6 ct 0xFFFF })

/-- The tile context a flit of a link belongs to: that of its destination, or else of its source. -/
def flitCtx (s : State) (f : MeshFlit) : Option (Nat × Nat) := (s.tile f.dst).ctx.orElse fun _ => (s.tile f.src).ctx

/-- MESH_PARITY_ERROR (01_machine R19; R388): the flit `sent`, which crosses `link` on its route (R18), leaves it with bytes that the
sideband does not match, and the error names the link. A second error on one link within 1 s is a hard fault; one on background
traffic voids the work that carried the flit, which then restarts; one on service traffic halts the context. -/
def execMeshParityError (sent : MeshFlit) (link : MeshLink) (got : MeshFlit) (s : State) : Host.Outcome State Fault Refusal :=
  .next (if !clocked s || s.dev.st == .failed || !(meshRoute sent.src sent.dst).contains link || got.good then s
    else
      let s := logEvent s 0x5002 5 (evData [(2, 1), (0xFF, 1), (0, 2), (link.tile, 4)])
      let before := nat s.err.meshErrs (linkIndex link)
      let s := s.updErr fun x => { x with meshErrs := put 0 x.meshErrs (linkIndex link) (s.dev.now + 1) }
      let err : ErrIn := { domain := 5, code := 0x5002, unit := link.tile, detail := 0, act := .elsewhere }
      if before ≠ 0 ∧ s.dev.now + 1 - before < 100000000 then raiseErr s { err with act := .fatal }
      else if sent.background then
        let s := match roundOf s sent.src sent.dst with | none => s | some (k, u, r) => restartRound s k u r
        raiseErr s err
      else match flitCtx s sent with
        | none => raiseErr s err
        | some (cx, ct) => raiseErr s { err with act := .halt cx 6 ct 0xFFFF })

/-! ## Host-side errors (R389) -/

/-- The function a failed read belongs to. -/
def readFn (s : State) : HostRead → Nat
  | .slot r => match look s.rings r with | none => 0 | some q => q.fn
  | .payload r _ => match look s.rings r with | none => 0 | some q => q.fn
  | .row slot => match look s.reqs slot with | none => 0 | some q => q.fn

/-- HOST_AER for a failed read: SEVERITY 3 (21_host_interface). It counts among the uncorrectable errors reported (DEDUCED, log entry
140). -/
def logAer (s : State) (fn : Nat) : State :=
  (logEvent s 0x7002 7 (evData [(fn, 1), (3, 1), (s.openAt 3, 1), (0, 1), (s.openAt 4, 4)])).updHost fun h =>
    { h with aerUncorr := sat 16 (h.aerUncorr + 1) }

/-- HOST_READ_FAIL (R389): HOST_AER is logged and the HOST handler issues one retry read. -/
def execHostReadFail (read : HostRead) (s : State) : Host.Outcome State Fault Refusal :=
  .next (if !clocked s || s.dev.st == .failed then s
    else raiseErr (logAer s (readFn s read)) { domain := 7, code := 0x7002, unit := 0xFFFF, detail := 0, act := .hostRetry read })

/-- HOST_READ_RETRY_RESULT (R389): on failure a second HOST_AER is logged, and the ring stops, the command times out, or
the request takes DATA_LOST. -/
def execHostReadRetryResult (ok : Bool) (s : State) : Host.Outcome State Fault Refusal :=
  .next (match s.err.hostRead with
    | none => s
    | some r =>
      let fn := readFn s r
      let s := s.updErr fun x => { x with hostRead := none }
      if ok then s
      else
        let s := logAer s fn
        match r with
        | .slot ring => s.updRing ring fun q => { q with stopped := true }
        | .payload ring seq =>
          match findCmd s ring seq with | none => s | some c => finish s c stTimeout c.position
        | .row slot => loseReq s slot)

end Sys2Proof.Machine
end

