-- ==== Sys2Proof/Machine/Power.lean ====
section
/-! DEFINITION. Rails, power-up, BOOT, power-down and the fault latch (18_power), the cages (22_card), and what a power
cycle keeps. -/

namespace Sys2Proof.Machine

/-! ## What survives -/

/-- Every rail dropped, every cage switch open. -/
def railsOff (p : Pwr) : Pwr :=
  { p with rails := p.rails.map fun r => { r with enabled := false, good := false }, seq := .idle,
           cages := p.cages.map fun c => { c with closed := false }, vcoreRaised := false }

/-- COLD: everything but the flash contents, the fused and strapped values and what V3P3_AUX powers is lost (R429); the
queue, host memory and the model's own fields stay. -/
def goCold (s : State) : State :=
  let r := State.reset
  { r with
    pending := s.pending, freeCtr := s.freeCtr, replies := s.replies, hostMem := s.hostMem,
    dev := { r.dev with
      st := .cold, prev := if s.dev.st = .cold then s.dev.prev else s.dev.st, bootStep := 0, stateSec := s.dev.opSec,
      opSec := s.dev.opSec, pwrCycles := s.dev.pwrCycles, stepping := s.dev.stepping, boardRev := s.dev.boardRev,
      pkgUid := s.dev.pkgUid, fwSlot0 := s.dev.fwSlot0, fwSlot1 := s.dev.fwSlot1, fwSelect := s.dev.fwSelect },
    clk := { r.clk with
      source := 0, root := { st := .off, good := 0, bad := 0 }, attemptsUsed := 0, refclk := s.clk.refclk,
      cclk := { on := false, div := 96, target := 8 }, lclk := { on := false, div := 96, target := 6 },
      phy := { on := false, div := 96, target := 3 }, mclk := { on := false, div := 96, target := 12 } },
    pwr := railsOff s.pwr,
    thm := { r.thm with ta := s.thm.ta, tc := s.thm.tc, flow := s.thm.flow, taBad := s.thm.taBad, tcBad := s.thm.tcBad,
                        flowBad := s.thm.flowBad },
    log := { r.log with flash := s.log.flash, newestSeq := s.log.newestSeq, clearCode := s.log.clearCode,
                        nextSeq := if s.log.flash = [] then s.log.nextSeq else (s.log.newestSeq + 1) % 2 ^ 32 },
    host := { r.host with
      rate := s.host.rate, width := s.host.width, logIndex := s.host.logIndex, sscDepth := s.host.sscDepth,
      sscRate := s.host.sscRate, sscDirty := s.host.sscDirty, sscFlashDepth := s.host.sscFlashDepth,
      sscFlashRate := s.host.sscFlashRate },
    cal := { r.cal with areaA := s.cal.areaA, areaB := s.cal.areaB } }

/-- COOLANT mode is selected (19_thermal R439): a flow of 0.2 L/min and a valid coolant temperature. -/
def coolant (t : Thm) : Bool := decide (t.flow ≥ 20) && !t.tcBad && !t.flowBad

/-- The inlet air temperature in use (R439): 55 °C without a valid reading. -/
def airTemp (t : Thm) : Int := if t.taBad then 7040 else t.ta

/-- The boundary temperature (R439). -/
def boundary (t : Thm) : Int := if coolant t then t.tc else airTemp t

/-- SSC codes in force from the codes in flash (17_clocks R406): a code above 8 applies DEPTH 0 and sets SSC_CFG_ERR. -/
def applySsc (s : State) : State :=
  let d := s.host.sscFlashDepth
  let r := s.host.sscFlashRate
  s.updClk fun c =>
    if d > 8 ∨ r > 8 then { c with sscDepth := 0, sscRate := r, sscErr := true }
    else { c with sscDepth := d, sscRate := r, sscErr := false }

/-- The latch with nothing in it. -/
def Latch.clear : Latch :=
  { fault := false, recovered := false, phase := 0, rail := 0, enables := 0, v12 := 0, logged := false }

/-- The data field of the power events (R435). -/
def pwrData (rail phase enables outcome v12 : Nat) : Nat :=
  evData [(rail, 1), (phase, 1), (enables, 1), (outcome, 1), (v12, 2), (0, 2)]

/-- The event the latch stands for is logged at the start of BOOT, and the latch cleared (R426). -/
def logLatch (s : State) : State :=
  let l := s.pwr.latch
  let s :=
    if (l.fault ∨ l.recovered) ∧ l.logged = false then
      let code := if l.phase = 0 then 0x2001 else if l.phase = 1 then 0x2002 else 0x2003
      s.updLog (logStamp s.dev code 1 (pwrData l.rail l.phase l.enables (b2n (!l.fault)) l.v12) true)
    else s
  s.updPwr fun p => { p with latch := Latch.clear }

/-- What an entry to BOOT leaves (R426; 11_graec_rings R251; 16_faults R399): counters and registers at their Reset
columns, function 0 owning every ring, array cells, tile memory and converter trims as they are, the flash contents
kept. -/
def bootState (s : State) : State :=
  let r := State.reset
  let mode := if coolant s.thm then 1 else 0
  { r with
    pending := s.pending, freeCtr := s.freeCtr, replies := s.replies, hostMem := s.hostMem,
    dev := { s.dev with now := 0, romOnly := false, fwMajor := 0, fwMinor := 0, safe := false, wake := false },
    clk := { s.clk with
      attempt := 0, takeovers := 0, holds := 0, windowFails := 0, cclk := startAt 8, aclkOn := false, lclk := offDiv 6,
      phy := startAt 3, mclk := startAt 12, holdFrom := none, recovering := false },
    pwr := s.pwr,
    thm := { r.thm with
      nodes := List.replicate 265 (boundary s.thm), mode := mode, step := if mode = 1 then 0 else 12, ta := airTemp s.thm,
      tc := s.thm.tc, flow := s.thm.flow, taBad := s.thm.taBad, tcBad := s.thm.tcBad, flowBad := s.thm.flowBad },
    log := { s.log with wrong := 0 },
    host := { s.host with retrains := 0, aerCorr := 0, aerUncorr := 0 },
    fns := s.fns.map fun e =>
      (e.1, e.2.map fun f =>
        { (Fn.reset 0 (if e.1 = 0 then 1048576 else 0) f.vfEnabled) with
          sq := f.sq, cq := f.cq, sqLog2 := f.sqLog2, cqLog2 := f.cqLog2, vector := f.vector, msix := f.msix, pba := f.pba }),
    cells := s.cells,
    tiles := (s.tiles.map fun e => (e.1, e.2.map fun t => { Tile.reset with mem := t.mem })).filter fun e =>
      decide (e.2 ≠ some Tile.reset),
    arrs := (s.arrs.map fun e => (e.1, e.2.map fun a =>
        { Arr.reset with trims := a.trims, replicaOff := a.replicaOff, replicaGain := a.replicaGain })).filter fun e =>
      decide (e.2 ≠ some Arr.reset),
    cal := { r.cal with areaA := s.cal.areaA, areaB := s.cal.areaB, source := s.cal.source, count := s.cal.count,
                        lastSec := s.cal.lastSec },
    sweep := { r.sweep with seed := Config.sweepSeed s.dev.pkgUid } }

/-- Entry to BOOT from COLD or, after HOLD, again from its beginning (R425, R426; 17_clocks R414; 20_mantel_log R450). -/
def enterBoot (s : State) : State :=
  let cold := s.dev.st = .cold
  let s := bootState s
  let s := goState s .boot
  let s := s.updDev fun d =>
    { d with configReady := false, pwrCycles := if cold then min (d.pwrCycles + 1) 0xFFFFFF else d.pwrCycles }
  let s := s.updClk fun c => { c with source := 1 }
  logHeld (logLatch (applySsc s))

/-- The root is accepted. -/
def rootAccepted (s : State) : Bool := s.clk.root.st == .accepted

/-- The device enters BOOT at the later of the root's acceptance and the deassertion of PERST# (R425). -/
def tryBoot (s : State) : State :=
  if s.dev.st = .cold ∧ s.pwr.seq = .run ∧ rootAccepted s ∧ s.pwr.perst = false then enterBoot s else s

/-! ## Power-up (R421 to R424) -/

/-- The rails of a step (R421). -/
def stepRails : Nat → List Nat
  | 1 => [0, 12] | 2 => [1] | 3 => [2] | 4 => [3] | 5 => [4, 5] | 6 => [6] | 7 => [7, 8, 9, 10] | 8 => [11] | _ => []

/-- Change one rail. -/
def onRail (p : Pwr) (i : Nat) (f : Rail → Rail) : Pwr := { p with rails := modAt p.rails i f }

/-- A rail, off and never enabled when there is no such rail. -/
def railOf (p : Pwr) (i : Nat) : Rail := (p.rails[i]?).getD { enabled := false, good := false, enables := 0 }

/-- Enable the rails of a step. -/
def enableStep (p : Pwr) (n : Nat) : Pwr :=
  { ((stepRails n).foldl
      (fun p i => onRail p i fun r => { enabled := true, good := false, enables := r.enables + 1 }) p) with seq := .up n }

/-- Power-up starts in COLD with V12_IN above 11.0 V, V3P3_AUX present and the 600 W code on both connectors (R423; 22_card
R485). -/
def startUp (s : State) : State :=
  if s.dev.st = .cold ∧ s.pwr.seq = .idle ∧ s.pwr.v12 > 1100 ∧ s.pwr.aux ∧ s.pwr.senseOk then
    s.updPwr fun p =>
      enableStep { p with blocked := false, restart := false, rails := List.replicate 13 { enabled := false, good := false, enables := 0 } } 1
  else s

/-- V12_RISE (R423, R424). -/
def execV12Rise (tenMv : Nat) (s : State) : Host.Outcome State Fault Refusal :=
  .next (
    let before := s.pwr.v12
    let s := s.updPwr fun p => { p with v12 := tenMv }
    if before ≤ 1100 ∧ (s.pwr.blocked = false ∨ before < 1000) then startUp s else s)

/-- The cage switches that VMOD good closes (22_card R483). -/
def closeCages (p : Pwr) : Pwr :=
  { p with cages := p.cages.map fun c => { c with closed := c.module && !c.tripped } }

/-- A held SSC_CFG goes to flash once VIO is good (21_host_interface R474). -/
def flushSsc (h : HostIf) : HostIf :=
  if h.sscDirty then { h with sscFlashDepth := h.sscDepth, sscFlashRate := h.sscRate, sscDirty := false } else h

/-- RAIL_POWER_GOOD (R423): once every rail of the step is good, the next step is enabled; after step 8 the rails are up. -/
def execRailPowerGood (rail : Nat) (s : State) : Host.Outcome State Fault Refusal :=
  .next (match s.pwr.seq with
    | .up n =>
      let r := railOf s.pwr rail
      if (stepRails n).contains rail ∧ r.enabled ∧ r.good = false then
        let s := s.updPwr fun p => onRail p rail fun r => { r with good := true }
        let s := if r.enables ≥ 2 then
            s.updPwr fun p => { p with latch :=
              { p.latch with recovered := true, phase := 0, rail := rail, enables := r.enables, v12 := p.v12 } }
          else s
        let s := if rail = 12 then s.updPwr closeCages else s
        let s := if rail = 0 then s.updHost flushSsc else s
        if (stepRails n).all fun i => (railOf s.pwr i).good then
          s.updPwr fun p => if n = 8 then { p with seq := .run } else enableStep p (n + 1)
        else s
      else s
    | _ => s)

/-- RAIL_ENABLE_TIMEOUT (R423, R424): the rail is disabled; after the third enable every rail drops and the fault is
latched. -/
def execRailEnableTimeout (rail : Nat) (s : State) : Host.Outcome State Fault Refusal :=
  .next (match s.pwr.seq with
    | .up n =>
      let r := railOf s.pwr rail
      if (stepRails n).contains rail ∧ r.enabled ∧ r.good = false then
        if r.enables ≥ 3 then
          s.updPwr fun p => { railsOff p with
            blocked := true,
            latch := { p.latch with fault := true, phase := 0, rail := rail, enables := 3, v12 := p.v12, logged := false } }
        else s.updPwr fun p => onRail p rail fun r => { r with enabled := false }
      else s
    | _ => s)

/-- RAIL_REENABLE (R423): at most three enables in all. -/
def execRailReenable (rail : Nat) (s : State) : Host.Outcome State Fault Refusal :=
  .next (match s.pwr.seq with
    | .up n =>
      let r := railOf s.pwr rail
      if (stepRails n).contains rail ∧ r.enabled = false ∧ 1 ≤ r.enables ∧ r.enables < 3 then
        s.updPwr fun p => onRail p rail fun r => { r with enabled := true, enables := r.enables + 1 }
      else s
    | _ => s)

/-! ## Power-down (R429 to R431) -/

/-- Disable the rails of a step. -/
def disableStep (p : Pwr) (n : Nat) : Pwr :=
  { ((stepRails n).foldl (fun p i => onRail p i fun r => { r with enabled := false }) p) with seq := .down n }

/-- Every clock stops and the rails go down from step 8 (R430). -/
def beginDown (s : State) : State :=
  let s := forceSafe s
  let off (d : Divider) : Divider := { d with on := false }
  let s := s.updClk fun c =>
    { c with source := 0, root := { st := .off, good := 0, bad := 0 }, pilot := { st := .off, good := 0, bad := 0 },
             aclkOn := false, cclk := off c.cclk, lclk := off c.lclk, phy := off c.phy, mclk := off c.mclk }
  { (s.updPwr fun p => disableStep p 8) with rings := [], cmds := [] }

/-- A conventional reset (R429): the safe states, the log's RAM buffer to flash, then the rails down; commands outstanding
get no record (11_graec_rings R265). -/
def convReset (s : State) : State :=
  if s.dev.st = .cold then s
  else match s.pwr.seq with
    | .down _ => s
    | _ => beginDown (if s.pwr.v12 ≥ 1000 then flushLog s else s)

/-- PERST_ASSERT (R429). -/
def execPerstAssert (s : State) : Host.Outcome State Fault Refusal :=
  .next (convReset (s.updPwr fun p => { p with perst := true }))

/-- PERST_DEASSERT (R424, R425, R429): a new power-up, or BOOT when rails and root are ready. -/
def execPerstDeassert (s : State) : Host.Outcome State Fault Refusal :=
  .next (if s.pwr.perst = false then s
    else
      let s := s.updPwr fun p => { p with perst := false }
      match s.pwr.seq with
      | .idle => startUp s
      | .down _ => s.updPwr fun p => { p with restart := true }
      | .run => tryBoot s
      | .up _ => s)

/-- HOT_RESET (21_host_interface R465): as PERST#, and the new power-up starts at once. -/
def execHotReset (s : State) : Host.Outcome State Fault Refusal :=
  .next (if s.dev.st = .cold ∨ s.dev.st = .hold then s else (convReset s).updPwr fun p => { p with restart := true })

/-- The last rail has fallen: COLD, and a new power-up when one is due. -/
def endDown (s : State) : State :=
  let again := s.pwr.restart
  let s := (goCold s).updPwr fun p => { p with restart := false }
  if again then startUp s else s

/-- RAIL_FALLEN (R430): each step goes only after every rail of the step before has fallen below 10%. -/
def execRailFallen (rail : Nat) (s : State) : Host.Outcome State Fault Refusal :=
  .next (match s.pwr.seq with
    | .down n =>
      let r := railOf s.pwr rail
      if (stepRails n).contains rail ∧ r.enabled = false ∧ r.good then
        let s := s.updPwr fun p => onRail p rail fun r => { r with good := false }
        if (stepRails n).all fun i => !(railOf s.pwr i).good then
          if n ≤ 1 then endDown s else s.updPwr fun p => disableStep p (n - 1)
        else s
      else s
    | _ => s)

/-- The power-down sequence fails (R431): the remaining rails drop at once and phase down is latched. -/
def failDown (s : State) (rail : Nat) : State :=
  let r := railOf s.pwr rail
  endDown (s.updPwr fun p => { p with
    latch := { p.latch with fault := true, phase := 2, rail := rail, enables := r.enables, v12 := p.v12, logged := false } })

/-- RAIL_FALL_TIMEOUT (R431). -/
def execRailFallTimeout (rail : Nat) (s : State) : Host.Outcome State Fault Refusal :=
  .next (match s.pwr.seq with
    | .down n =>
      let r := railOf s.pwr rail
      if (stepRails n).contains rail ∧ r.enabled = false ∧ r.good then failDown s rail else s
    | _ => s)

/-- REGULATOR_FAULT_DOWN (R431). -/
def execRegulatorFaultDown (rail : Nat) (s : State) : Host.Outcome State Fault Refusal :=
  .next (match s.pwr.seq with
    | .down _ => if (railOf s.pwr rail).good ∨ (railOf s.pwr rail).enabled then failDown s rail else s
    | _ => s)

/-! ## Faults while running (R432, R433) -/

/-- Every rail drops at once and the fault is latched in phase run; unwritten records are lost (R432). -/
def dropAtOnce (s : State) (rail : Nat) : State :=
  goCold (s.updPwr fun p => { p with
    restart := false,
    latch := { p.latch with fault := true, phase := 1, rail := rail, enables := (railOf p rail).enables % 4, v12 := p.v12,
                            logged := false } })

/-- RAIL_FAIL_RUN (R432). -/
def execRailFailRun (rail tenMv : Nat) (s : State) : Host.Outcome State Fault Refusal :=
  .next (if s.dev.st = .cold ∨ s.pwr.seq ≠ .run ∨ rail > 12 then s
    else
      let s := s.updPwr fun p => { p with v12 := tenMv }
      if rail = 0 ∨ rail = 7 ∨ !clocked s then dropAtOnce s rail
      else
        let n := (railOf s.pwr rail).enables % 4
        let s := forceSafe s
        let s := s.updErr fun e => { e with seen := e.seen ||| 2 }
        let s := logEvent s 0x2002 1 (pwrData rail 1 n 0 tenMv)
        let s := flushLog (enterFailed s 1 0x2002 0xFFFF 0)
        (dropAtOnce s rail).updPwr fun p => { p with latch := { p.latch with logged := true } })

/-- An input loss (R433): as a failure of VIO with index 15. -/
def inputLoss (s : State) : State :=
  match s.pwr.seq with
  | .idle => s
  | _ => if s.dev.st = .cold then s.updPwr railsOff else dropAtOnce s 15

/-- INPUT_LOSS (R433): V12_IN below 10.0 V. -/
def execInputLoss (tenMv : Nat) (s : State) : Host.Outcome State Fault Refusal :=
  .next (if tenMv ≥ 1000 then s
    else inputLoss (s.updPwr fun p => { p with v12 := tenMv, blocked := false }))

/-- SENSE_CHANGE (22_card R485): a code that changes while rails are up is an input loss. -/
def execSenseChange (ok : Bool) (s : State) : Host.Outcome State Fault Refusal :=
  .next (if ok = s.pwr.senseOk then s else inputLoss (s.updPwr fun p => { p with senseOk := ok }))

/-- PWR_INPUT_LOW (R433): a POWER error, whose handler logs PWR_INPUT_LOW and sets the 300 W ceiling. -/
def execPwrInputLow (tenMv : Nat) (s : State) : Host.Outcome State Fault Refusal :=
  .next (if tenMv < 1104 ∧ tenMv ≥ 1000 ∧ clocked s then
      raiseErr (s.updPwr fun p => { p with v12 := tenMv })
        { domain := 1, code := 0x2004, unit := 0xFFFF, detail := 0, act := .inputLow tenMv }
    else s)

/-- INPUT_RECOVERED (R433): as POWER_LIMIT, the ceiling changes at the next update (DEDUCED, log entry 147). -/
def execInputRecovered (s : State) : Host.Outcome State Fault Refusal :=
  .next (s.updThm fun t => { t with ceilNext := false })

/-- V3P3_AUX_CHANGE (R434): the latch survives while V3P3_AUX is present, and so do the sequencer's own copies. -/
def execV3p3AuxChange (present : Bool) (s : State) : Host.Outcome State Fault Refusal :=
  .next (
    let s := s.updPwr fun p =>
      { p with aux := present, latch := if present then p.latch else Latch.clear }
    if present then s
    else s.updHost fun h =>
      { h with logIndex := 0, sscDepth := h.sscFlashDepth, sscRate := h.sscFlashRate, sscDirty := false })

/-! ## The cages (22_card R483) -/

def onCage (s : State) (i : Nat) (f : Cage → Cage) : State := s.updPwr fun p => { p with cages := modAt p.cages i f }

/-- VMOD is good. -/
def vmodGood (s : State) : Bool := (railOf s.pwr 12).good && (railOf s.pwr 12).enabled

/-- MODULE_PRESENT: the switch closes once VMOD is good. -/
def execModulePresent (cage : Nat) (s : State) : Host.Outcome State Fault Refusal :=
  .next (onCage s cage fun c => { c with module := true, closed := vmodGood s && !c.tripped })

/-- A Skavel port goes DOWN for a reason (14_chimney R345, R370): its links discard their replay buffers and LNK_DOWN is
logged. -/
def portDown (s : State) (port reason retx : Nat) : State :=
  match s.chim.ports[port]? with
  | none => s
  | some p =>
    if p.st = .off ∨ p.st = .down ∨ p.st = .version then s
    else
      let s := s.updChim fun c => { c with
        ports := modAt c.ports port fun q => { q with st := .down, downs := sat 8 (q.downs + 1) },
        links := c.links.filter fun e => e.1.port != port }
      logEvent s 0x6002 6 (evData [(port, 1), (reason, 1), (p.peer, 2), (p.ver, 1), (0, 1), (retx, 2)])

/-- MODULE_REMOVED. -/
def execModuleRemoved (cage : Nat) (s : State) : Host.Outcome State Fault Refusal :=
  .next (onCage s cage fun _ => Cage.empty)

/-- CAGE_OVERCURRENT: the switch opens and stays open until the module is removed and inserted; the cage's two ports lose
signal. -/
def execCageOvercurrent (cage : Nat) (s : State) : Host.Outcome State Fault Refusal :=
  .next (match s.pwr.cages[cage]? with
    | none => s
    | some c =>
      if c.closed then
        let s := onCage s cage fun c => { c with closed := false, tripped := true }
        portDown (portDown s (2 * cage) 1 0) (2 * cage + 1) 1 0
      else s)

end Sys2Proof.Machine
end

