-- ==== Sys2Proof/Machine/Clocks.lean ====
section
/-! DEFINITION. Clocks (17_clocks): acceptance and trips of the two sources, takeover, HOLD and the recovery from it, the
dividers; and the end of BOOT. -/

namespace Sys2Proof.Machine

/-! ## Layout and MAINTENANCE -/

/-- The HBM layout, computed on entry to MAINTENANCE (08_tables_tiers R188, R190). -/
def applyLayout (s : State) : State :=
  s.updKv fun k =>
    let area := (320 - k.tableGibSet) * 1024
    let mirror := area * k.mirrorPmSet / 1000 / 2 * 2
    { k with tableGib := k.tableGibSet, mirrorPm := k.mirrorPmSet, mirrorMib := mirror, poolMib := area - mirror }

/-- Entry to MAINTENANCE. -/
def toMaintenance (s : State) : State := applyLayout (goState s .maintenance)

/-! ## Vectors and commands discarded -/

/-- Every vector in flight is discarded (R413): executions, fires, flue jobs, streams and messages end where they stand. -/
def quiesce (s : State) : State :=
  reapPages { s with
    tiles := s.tiles.map fun e => (e.1, e.2.map fun t =>
      let d := match t.ctx with
        | none => t.nextDisp
        | some (c, _) => match look s.ctxs c with | none => t.nextDisp | some x => x.dispatched
      { stopTile t with stopped := t.stopped, counters := [], nextDisp := d }),
    ctxs := s.ctxs.map fun e => (e.1, e.2.map fun c => { c with inflight := [], updates := [], older := [], replay := none }),
    flues := s.flues.map fun e => (e.1, e.2.map fun f =>
      { f with qRec := [], qOut := [], qDel := [], waitRec := [], waitOut := [], waitDel := [], refused := [] }),
    flits := [],
    serve := { s.serve with charges := [] } }

/-! ## Trips (R410, R411) -/

/-- The data field of the clock events (R420). -/
def clkData (src dst cause st attempts flags lost : Nat) : Nat :=
  evData [(src, 1), (dst, 1), (cause, 1), (st, 1), (attempts, 1), (flags, 1), (sat 16 lost, 2)]

/-- A PLL that is off. -/
def Pll.offSt : Pll := { st := .off, good := 0, bad := 0 }

/-- Entry to HOLD (R413): the safe states; vectors and commands in execution are discarded; HBM is lost unless its stacks
were in self-refresh; a CAL_RUN ends with its former trims (04_calibration R101). -/
def enterHold (s : State) (cause : Nat) : State :=
  let deep := s.dev.st = .deepSleep
  let s := quiesce (forceSafe s)
  let s := { s with cmds := if deep then s.cmds else [], test := none }
  let s := s.updCal fun c => { c with run := none, group16 := false }
  let s := s.updClk fun c => { c with
    holds := sat 8 (c.holds + 1), holdFrom := some s.dev.st, holdSource := c.source, holdCause := cause, source := 0,
    hbmLost := !deep, recovering := false, root := Pll.offSt, pilot := Pll.offSt, lane0 := false, attempt := 0 }
  let s := s.updHost fun h => { h with trained := false }
  goState s .hold

/-- The pilot takes over (R411). -/
def takeOver (s : State) (cause : Nat) : State :=
  let d := clkData 1 2 cause s.dev.st.code s.clk.attemptsUsed 0 0
  let s := s.updClk fun c => { c with source := 2, takeovers := sat 8 (c.takeovers + 1), root := Pll.offSt, attempt := 0 }
  let s := if cause = 0 then logEvent s 0x1002 0 d else s
  let s := logEvent s 0x1003 0 d
  let s := raiseErr s { domain := 0, code := 0x1003, unit := 0xFFFF, detail := 0, act := .elsewhere }
  s.updClk fun c => { c with attemptsUsed := 0 }

/-- The root's acceptance is withdrawn (R410, R411). -/
def tripRoot (s : State) (cause : Nat) : State :=
  if s.clk.source = 1 ∧ clocked s then
    if s.clk.pilot.st = .accepted then takeOver s cause else enterHold s cause
  else s.updClk fun c => { c with root := Pll.offSt, attempt := 0, attemptsUsed := 0 }

/-- The pilot's acceptance is withdrawn: HOLD when it runs, since the root is not accepted then (R411). -/
def tripPilot (s : State) (cause : Nat) : State :=
  if s.clk.source = 2 ∧ clocked s then enterHold s cause
  else s.updClk fun c => { c with pilot := Pll.offSt }

/-- MISSING_EDGE_TRIP (R410): no REFCLK edge for 40 ns trips the root. -/
def execMissingEdgeTrip (s : State) : Host.Outcome State Fault Refusal :=
  .next (
    let s := s.updClk fun c => { c with refclk := false }
    if s.clk.root.st = .accepted then tripRoot s 0
    else s.updClk fun c => { c with root := { c.root with good := 0 } })

/-- LOCK_LOST_TRIP (R410): an accepted source loses its acceptance; a locked one its windows. -/
def execLockLostTrip (pll : PllId) (s : State) : Host.Outcome State Fault Refusal :=
  .next (match pll with
    | .root =>
      if s.clk.root.st = .accepted then tripRoot s 1
      else if s.clk.root.st = .windows then s.updClk fun c => { c with root := { st := .locking, good := 0, bad := 0 } }
      else s
    | .pilot => if s.clk.pilot.st = .accepted ∨ s.clk.pilot.st = .windows then tripPilot s 1 else s)

/-- LANE0_ENTER_L0 (R409): the pilot makes one lock attempt. -/
def execLane0EnterL0 (s : State) : Host.Outcome State Fault Refusal :=
  .next (if clocked s ∧ s.clk.lane0 = false then
      s.updClk fun c => { c with lane0 := true, pilot := { st := .locking, good := 0, bad := 0 } }
    else s)

/-- Lane 0 leaves L0 (R409, R410): the pilot loses acceptance at once. -/
def leaveL0 (s : State) : State :=
  if s.clk.lane0 then tripPilot (s.updClk fun c => { c with lane0 := false }) 3 else s

/-- LANE0_LEAVE_L0 (R409, R410). -/
def execLane0LeaveL0 (s : State) : Host.Outcome State Fault Refusal := .next (leaveL0 s)

/-! ## Root attempts (R408) -/

/-- The rails are up, so that the root PLL is supplied. -/
def railsUp (s : State) : Bool := s.pwr.seq == .run

/-- ROOT_ATTEMPT_START: attempts 1 to 3 of a series. -/
def execRootAttemptStart (s : State) : Host.Outcome State Fault Refusal :=
  .next (if railsUp s ∧ s.clk.root.st = .off ∧ s.clk.attemptsUsed < 3 then
      s.updClk fun c => { c with
        refclk := true, attempt := c.attemptsUsed + 1, attemptsUsed := c.attemptsUsed + 1,
        root := { st := .locking, good := 0, bad := 0 } }
    else s)

/-- ROOT_ATTEMPT_TIMEOUT: the attempt fails after 10 ms; after the third, CLK_ROOT_NO_LOCK. -/
def execRootAttemptTimeout (s : State) : Host.Outcome State Fault Refusal :=
  .next (if s.clk.root.st = .locking ∨ s.clk.root.st = .windows then
      if s.clk.attempt ≥ 3 then
        let s := s.updClk fun c => { c with root := { st := .seriesFailed, good := 0, bad := 0 }, attempt := 0 }
        let s := logEvent s 0x1001 0
          (clkData s.clk.source s.clk.source (s.openAt 6) s.dev.st.code s.clk.attemptsUsed 0 0)
        raiseErr s { domain := 0, code := 0x1001, unit := 0xFFFF, detail := 0, act := .elsewhere }
      else s.updClk fun c => { c with root := Pll.offSt, attempt := 0 }
    else s)

/-- ROOT_SERIES_RETRY: a new series starts 100 ms after a failed one. -/
def execRootSeriesRetry (s : State) : Host.Outcome State Fault Refusal :=
  .next (if railsUp s ∧ s.clk.root.st = .seriesFailed then
      s.updClk fun c => { c with attempt := 1, attemptsUsed := 1, root := { st := .locking, good := 0, bad := 0 } }
    else s)

/-! ## Acceptance (R407, R412, R414) -/

/-- Open requests of the device. -/
def openReqs (s : State) : Nat :=
  (s.reqs.filter fun e => match e.2 with | none => false | some r => r.open_).length

/-- HOLD ends (R414): firmware resumes, the held records are written, CLK_NO_SOURCE_HOLD and CLK_RESTORED are logged, and
the device enters the state R414 gives, or begins the recovery of R415. -/
def endHold (s : State) : State :=
  let src := s.clk.holdFrom.getD .maintenance
  let reach : DevSt := match src with | .deepSleep => .deepSleep | .failed => .failed | .boot => .boot | _ => .maintenance
  let s := s.updClk fun c => { c with source := 1, recovering := true, attempt := 0 }
  let s := s.updDev fun d => { d with safe := decide (src = .failed) }
  let s := applySsc s
  let s := logHeld s
  let fl := b2n s.clk.hbmLost
  let s := logEvent s 0x1004 0 (clkData s.clk.holdSource 0 s.clk.holdCause src.code s.clk.attemptsUsed fl 0)
  let s := logEvent s 0x1005 0
    (clkData 0 1 4 reach.code s.clk.attemptsUsed fl (if reach = .maintenance then openReqs s else 0))
  let fin (s : State) : State := s.updClk fun c => { c with recovering := false, holdFrom := none }
  match src with
  | .boot => enterBoot (fin s)
  | .failed => fin (goState s .failed)
  | .deepSleep => fin (goState s .deepSleep)
  | _ => s.updClk fun c => { c with cclk := startAt 8, phy := startAt 3, mclk := startAt 12, lclk := startAt 6 }

/-- The root is accepted. -/
def acceptRoot (s : State) : State :=
  let s := s.updClk fun c => { c with root := { st := .accepted, good := 8, bad := 0 }, attempt := 0 }
  if s.dev.st = .cold then tryBoot s
  else if s.dev.st = .hold then endHold s
  else if s.clk.source = 2 then
    let s := s.updClk fun c => { c with source := 1 }
    logEvent s 0x1005 0 (clkData 2 1 4 s.dev.st.code s.clk.attemptsUsed 0 0)
  else s

/-- A window passes (R407). -/
def windowPass (count : Nat) : Bool := decide (49103 ≤ count) && decide (count ≤ 49201)

/-- MONITOR_WINDOW (R407, R410): eight consecutive passing windows accept, two consecutive failing ones withdraw. -/
def execMonitorWindow (pll : PllId) (count : Nat) (s : State) : Host.Outcome State Fault Refusal :=
  .next (
    let p := match pll with | .root => s.clk.root | .pilot => s.clk.pilot
    let set (s : State) (q : Pll) : State :=
      match pll with
      | .root => s.updClk fun c => { c with root := q }
      | .pilot => s.updClk fun c => { c with pilot := q }
    if p.st = .off ∨ p.st = .seriesFailed then s
    else
      let ok := windowPass count
      let s := s.updClk fun c => { c with windowFails := if ok then c.windowFails else sat 16 (c.windowFails + 1) }
      let s := match pll with
        | .root => s.updClk fun c => { c with rootCount := count % 65536 }
        | .pilot => s.updClk fun c => { c with pilotCount := count % 65536 }
      if p.st = .accepted then
        if ok then set s { p with bad := 0 }
        else if p.bad + 1 ≥ 2 then (match pll with | .root => tripRoot s 2 | .pilot => tripPilot s 2)
        else set s { p with bad := p.bad + 1 }
      else if !ok then set s { st := .windows, good := 0, bad := 0 }
      else if p.good + 1 ≥ 8 then
        (match pll with | .root => acceptRoot s | .pilot => set s { st := .accepted, good := 8, bad := 0 })
      else set s { st := .windows, good := p.good + 1, bad := 0 })

/-! ## Dividers (R418) -/

/-- One integer step towards the target. -/
def Divider.move (d : Divider) : Divider :=
  if !d.on then d
  else if d.div < d.target then { d with div := d.div + 1 }
  else if d.div > d.target then { d with div := d.div - 1 }
  else d

/-- DIVIDER_STEP: every running branch moves by one; ACLK runs while CCLK is at ÷8 in MAINTENANCE and SERVICE. -/
def execDividerStep (s : State) : Host.Outcome State Fault Refusal :=
  .next (if !clocked s then s
    else
      s.updClk fun c =>
        let cclk := c.cclk.move
        { c with cclk := cclk, lclk := c.lclk.move, phy := c.phy.move, mclk := c.mclk.move,
                 aclkOn := cclk.on && cclk.div == 8 && (s.dev.st == .maintenance || s.dev.st == .service) })

/-! ## Recovery after the loss of HBM (R415) -/

/-- The physical array of a context array index. -/
def physArray (i : Image) (carray : Nat) : Nat :=
  match i.tiles[carray / 4]? with | none => 0 | some t => 4 * t.tile + carray % 4

/-- The physical arrays a context uses. -/
def ctxArrays (c : Ctx) : List Nat :=
  match c.image with | none => [] | some i => i.arrays.map fun a => physArray i a.carray

/-- Every array that holds a context's weights. -/
def loadedArrays (s : State) : List Nat :=
  s.ctxs.flatMap fun e => match e.2 with | none => [] | some c => ctxArrays c

/-- GOLD rebuilt from the arrays (step 2): the data rows of every loaded array. -/
def rebuildGold (s : State) : State :=
  let l := loadedArrays s
  { s with gold := (s.cells.filter fun e => l.contains (e.1 / 1024)).filterMap fun e =>
      if dataBits e.2 = 0 then none else some (e.1, dataBits e.2) }

/-- A loaded row fails its tally check. -/
def goldBad (s : State) : Option Nat :=
  let l := loadedArrays s
  (s.cells.find? fun e => l.contains (e.1 / 1024) && badSets e.2 != 0).map (·.1)

/-- Free a tile: nothing of a context remains (09_step_programs R205, R218); telemetry counters stay. -/
def freeTile (t : Tile) : Tile :=
  { Tile.reset with held := 0, execs := t.execs, gateStalls := t.gateStalls, preloadClamps := t.preloadClamps,
                    quantClamps := t.quantClamps }

/-- Free a context's tiles, weights, cached variants and number. -/
def freeCtx (s : State) (ctx : Nat) : State :=
  let ts := ctxTiles s ctx
  let as := match look s.ctxs ctx with | none => [] | some c => ctxArrays c
  let s := ts.foldl (fun s t => s.updTile t freeTile) s
  let s := { s with gold := s.gold.filter fun e => !as.contains (e.1 / 1024) }
  (uncache s fun k => k.1 == ctx).setCtx ctx none

/-- A chimney member leaves its chimney: its chimney contexts are freed. -/
def leaveChimney (s : State) : State :=
  let s := s.ctxs.foldl (fun s e => match e.2 with | none => s | some c => if c.chimney then freeCtx s e.1 else s) s
  let keep (p : Port) : Port :=
    { Port.reset with downs := p.downs, retransmits := p.retransmits, crcErrors := p.crcErrors, rx := p.rx, tx := p.tx }
  { s with chim := { Chim.reset with
      stepTimeouts := s.chim.stepTimeouts, fences := s.chim.fences, aborts := s.chim.aborts, refused := s.chim.refused,
      refusals := s.chim.refusals, ports := s.chim.ports.map keep, out := s.chim.out } }

/-- Every function loses its session and its rings, without records (R415 step 3; 21_host_interface R479). -/
def dropSessions (s : State) : State :=
  { s with fns := s.fns.map (fun e => (e.1, e.2.map fun f => { f with enable := false, session := 0, traces := [] })),
           rings := [], cmds := [], paused := false }

/-- A request slot freed: its generation advances (12_graec_commands R296). -/
def Req.free (slot : Nat) (r : Req) : Req :=
  { r with open_ := false,
           gen := if r.open_ then (r.gen + 1) % (if slot = 1048575 then 4095 else 4096) else r.gen, tables := [], staging := [], scratch := [],
           dists := [], kept := [], taken := [], chunks := [], cancelled := false, nonfinite := false, draft := none, boundBy := none, pending := none, dataLost := false, closing := false }

/-- A context without its HBM contents. -/
def Ctx.drained (c : Ctx) : Ctx :=
  { c with variants := [], tables := [], updates := [], older := [], spillUsed := 0, capture := none }

/-- A context holds a tier-1 table or a tier-3 shard. -/
def Ctx.inTable (c : Ctx) : Bool := c.tables.any fun t => t.2.tier == 1 || t.2.tier == 3

/-- Every request, page, prefix handle, variant and table is freed (R415 step 4); a context that held a tier-1 table or a
tier-3 shard halts with CAUSE 7. -/
def dropHbm (s : State) : State :=
  let halts : List Nat :=
    (s.ctxs.filter fun e => match e.2 with | none => false | some c => c.inTable).map (·.1)
  let s : State := { s with
    reqs := s.reqs.map fun e => (e.1, e.2.map (Req.free e.1)), ctxs := s.ctxs.map fun e => (e.1, e.2.map Ctx.drained) }
  let s := s.updKv fun k => { k with pages := [], hot := [], prefixes := [], hobFree := 0x2000 }
  halts.foldl (fun s c => haltCtx s c 7 0xFFFF 0xFFFF) s

/-- HBM_RECOVERY (R414, R415): the recovery completes in MAINTENANCE, or a row that fails its check takes the device to
FAILED. -/
def execHbmRecovery (badRow : Option Nat) (s : State) : Host.Outcome State Fault Refusal :=
  .next (if s.dev.st ≠ .hold ∨ s.clk.recovering = false then s
    else
      match badRow.or (goldBad s) with
      | some k =>
        let s := enterFailed s 5 (s.openAt 7 % 65536) (k / 1024) (k % 1024)
        s.updClk fun c => { c with recovering := false, holdFrom := none }
      | none =>
        let s := dropHbm (dropSessions (rebuildGold s))
        let s := if s.chim.role != 0xFFFF || s.chim.n != 0 then leaveChimney s else s
        let s := s.updClk fun c => { c with recovering := false, holdFrom := none }
        toMaintenance s)

/-! ## The end of BOOT (18_power R426; 04_calibration R109; 21_host_interface R478) -/

/-- Trims in force from a set: every other converter nominal. -/
def loadTrims (s : State) (t : TrimSet) : State :=
  let blank := s.arrs.map fun (e : Nat × Option Arr) =>
    (e.1, e.2.map fun a => { a with trims := [], replicaOff := 0, replicaGain := 0 })
  let s := { s with arrs := blank.filter fun e => decide (e.2 ≠ some Arr.reset) }
  let s := t.conv.foldl (fun s e => s.updArr e.1 fun a => { a with trims := put (64, 16644) a.trims e.2.1 (e.2.2.1, e.2.2.2) }) s
  t.replica.foldl (fun s e => s.updArr e.1 fun a => { a with replicaOff := e.2.1, replicaGain := e.2.2 }) s

/-- MAGIC of a calibration record: ASCII "VCAL". -/
def calMagic : Nat := 0x4C414356

/-- The low 16 bits of a signed number. -/
def low16 (v : Int) : Nat := (v % (65536 : Int)).toNat

/-- Bytes 0 to 49,971,263 of a calibration record (R107): the header, the replica deltas of the arrays, and 609 trims of each. -/
def recordBody (r : CalRec) : List Byte :=
  natLe 4 r.magic ++ natLe 4 r.seq ++ natLe 8 r.pkgUid ++ natLe 4 r.calCount ++ natLe 4 r.calSec ++ natLe 1 r.stepping ++
    natLe 39 0 ++
    ((List.range 20480).flatMap fun a =>
      let d := (r.trims.replica.find? fun e => e.1 == a).elim (0, 0) (·.2)
      natLe 2 (low16 d.1) ++ natLe 2 (low16 d.2)) ++
    ((List.range 20480).flatMap fun a => (List.range 609).flatMap fun c =>
      let t := (r.trims.conv.find? fun e => e.1 == a && e.2.1 == c).elim ((64, 16644) : Int × Nat) fun e => (e.2.2.1, e.2.2.2)
      natLe 2 (low16 t.1) ++ natLe 2 t.2)

/-- MAGIC, PKG_UID and CHECK match (R109). -/
def recordValid (s : State) (r : CalRec) : Bool :=
  r.magic == calMagic && r.pkgUid == s.dev.pkgUid && r.check == crc32 (recordBody r)

/-- The valid record of an area. -/
def validRec (s : State) (r : Option CalRec) : Option CalRec := r.filter (recordValid s)

/-- The valid record with the higher SEQ (R109). -/
def bestRecord (s : State) : Option CalRec :=
  match validRec s s.cal.areaA, validRec s s.cal.areaB with
  | none, b => b
  | a, none => a
  | some a, some b => if a.seq ≥ b.seq then some a else some b

/-- The calibration record is loaded, or the nominal trims. -/
def loadRecord (s : State) : State :=
  match bestRecord s with
  | none => (loadTrims s { conv := [], replica := [] }).updCal fun c => { c with source := 0, count := 0, lastSec := 0 }
  | some r => (loadTrims s r.trims).updCal fun c => { c with source := 1, count := r.calCount, lastSec := r.calSec }

/-- The domain of an event code (20_mantel_log R460). -/
def domainOf (code : Nat) : Nat := let d := code / 4096; if d < 5 then d - 1 else d

/-- A firmware slot. -/
def slotOf (d : Dev) (i : Nat) : FwSlot := if i = 0 then d.fwSlot0 else d.fwSlot1

/-- FW_SIG_FAIL for a slot: SOURCE 0 BOOT, 1 FW_STAGE. -/
def logSigFail (s : State) (slot source : Nat) : State := logEvent s 0x8002 8 (evData [(slot, 1), (source, 1)])

/-- BOOT ends in MAINTENANCE with the firmware of a slot. After FW_ACTIVATE the trims stay and no record is loaded, and CAL_SOURCE,
CAL_COUNT and LAST_CAL_SEC stay with them (DESIGN CHOICE, log entry 129). -/
def bootWith (s : State) (slot ms : Nat) (fallback : Bool) : State :=
  let f := slotOf s.dev slot
  let act := s.dev.fwActivating
  let s := s.updDev fun d => { d with fwRunning := slot, fwMajor := f.major, fwMinor := f.minor, configReady := true, fwActivating := none }
  let s := logEvent s 0x8001 8 (evData [(slot, 1), (f.major, 1), (f.minor, 1), (b2n fallback, 1), (ms, 2)])
  match act with
  | none => toMaintenance (loadRecord s)
  | some (os, oM, om) =>
    toMaintenance (logEvent s 0x8003 8 (evData [(os, 1), (oM, 1), (om, 1), (slot, 1), (f.major, 1), (f.minor, 1)]))

/-- BOOT_COMPLETE (R426, R478): BOOT lasts at most 800 ms; a step that fails takes the device to FAILED, as do two invalid
firmware slots, which leave the boot ROM's configuration space (R464). -/
def execBootComplete (ms : Nat) (failed : Option Nat) (s : State) : Host.Outcome State Fault Refusal :=
  .next (if s.dev.st ≠ .boot ∨ !clocked s ∨ ms > 800 then s
    else
      let a := s.dev.fwSelect % 2
      let b := 1 - a
      let okA := (slotOf s.dev a).valid
      let okB := (slotOf s.dev b).valid
      let s := if okA then s else logSigFail s a 0
      if !okA && !okB then
        let s := logSigFail s b 0
        let s := s.updDev fun d => { d with configReady := true, romOnly := true }
        let s := { s with fns := s.fns.map fun e => (e.1, e.2.map fun f => { f with vfEnabled := e.1 == 0 }) }
        enterFailed s 8 0x8002 0xFFFF 0
      else
        match failed with
        | some code => enterFailed (s.updDev fun d => { d with configReady := true }) (domainOf code) code 0xFFFF 0
        | none => bootWith s (if okA then a else b) ms (!okA))

end Sys2Proof.Machine
end

