-- ==== Sys2Proof/Machine/Thermal.lean ====
section
/-! DEFINITION. The thermal model's updates, the damper and the power cap (19_thermal). -/

namespace Sys2Proof.Machine

/-- The ceiling in force (R442). -/
def ceilingW (t : Thm) : Nat := if t.ceilInput then min t.limitW 300 else t.limitW

/-- POWER_CAP_W (R442). -/
def capW (t : Thm) : Nat := min (900 - 25 * t.step) (ceilingW t)

/-- Where a schedule stands, in ns at 900 W (04_calibration R97, 16_faults R396). -/
def Sched.at_ (r : Sched) (now : Nat) : Rat :=
  let dt : Rat := (10 * (now - r.since) : Nat)
  let fix : Rat := max 0 ((r.fixed : Rat) - r.pos)
  let q : Rat := if dt ≤ fix then r.pos + dt else r.pos + fix + (dt - fix) * (r.cap : Rat) / 900
  min q (r.total : Rat)

/-- The ns a schedule still takes at its present cap. -/
def Sched.remain (r : Sched) (now : Nat) : Nat :=
  let q := r.at_ now
  let fix : Rat := max 0 ((r.fixed : Rat) - q)
  (fix + ((r.total : Rat) - q - fix) * 900 / (r.cap : Rat)).floor.toNat

/-- The elapsed fraction of a schedule in per mille (04_calibration R100). -/
def Sched.perMille (r : Sched) (now : Nat) : Nat :=
  let el := 10 * (now - r.started)
  1000 * el / max 1 (el + r.remain now)

/-- A schedule begins. -/
def Sched.start (now cap fixed total : Nat) : Sched :=
  { started := now, since := now, cap := cap, pos := 0, fixed := fixed, total := total }

/-- The part still to run is rescaled when the cap changes (04_calibration R97). -/
def Sched.rescale (r : Sched) (now cap : Nat) : Sched :=
  if cap = r.cap then r else { r with pos := r.at_ now, since := now, cap := cap }

/-- The hop diameter (14_chimney R337). -/
def hopDiameter (c : Chim) : Nat := if c.topo = 3 then 1 else c.dx / 2 + c.dy / 2 + c.dz / 2

/-- T_static and the step timeout from the roles' step times and caps (14_chimney R355). -/
def Chim.retime (c : Chim) : Chim :=
  if c.roleNs = [] then c
  else
    let t : Rat := ((c.roleNs.zip c.roleCaps).map fun e => (e.1 : Rat) * 900 / (e.2 : Rat)).sum + (12000 * hopDiameter c : Nat)
    { c with staticNs := t.floor.toNat, timeoutUs := max 200 (4 * t / 1000).floor.toNat }

/-- The schedules of a CAL_RUN and of a SELF_TEST, and a crown's step timeout, follow the cap an update has set. -/
def rescaleAll (s : State) : State :=
  let cap := capW s.thm
  let s := s.updCal fun c => { c with run := c.run.map fun r => { r with sched := r.sched.rescale s.dev.now cap } }
  let s := s.updChim fun c => { c with roleCaps := c.roleCaps.set c.role cap }.retime
  { s with test := s.test.map fun r => { r with sched := r.sched.rescale s.dev.now cap } }

/-- The data field of the thermal events (R448). -/
def thmData (node step mode : Nat) (temp rate : Int) : Nat :=
  evData [(node, 2), (step, 1), (mode, 1), ((temp % 65536).toNat, 2), ((rate % 65536).toNat, 2)]

/-- The nodes that satisfy a test. -/
def nodesWith (t : List Int) (p : Nat → Int → Bool) : List Nat :=
  (List.range t.length).filter fun i => p i (t[i]?.getD 0)

/-- The hottest node. -/
def hottest (t : List Int) : Nat :=
  ((List.range t.length).foldl (fun b i => if t[i]?.getD 0 > t[b]?.getD 0 then i else b) 0)

/-- One of several nodes that met a condition: which one the event names is free (log entry 21). -/
def pickNode (s : State) (l : List Nat) : Nat × State :=
  match l with
  | [n] => (n, s)
  | _ => let (k, s) := s.fresh; ((l[k % (max 1 l.length)]?).getD 0, s)

/-- The pace factor for the next interval (R443). -/
def paceOf (phi : Rat) (cap pFix pPace : Nat) : Rat :=
  if pPace = 0 then 1
  else max (1 / 64) (min 1 (phi * ((cap : Rat) - (pFix : Rat)) / (pPace : Rat)))

/-- The THM_CRITICAL path (R446): the safe states, THM_CRITICAL and DEV_FAILED logged, FAILED, then the rails down; a new
power-up only under R424. -/
def thmCritical (s : State) (node : Nat) (temp rate : Int) : State :=
  let s := s.updErr fun e => { e with seen := e.seen ||| 4 }
  let s := forceSafe s
  let s := logEvent s 0x3003 2 (thmData node s.thm.step s.thm.mode temp rate)
  let s := flushLog (enterFailed s 2 0x3003 0xFFFF 0)
  (beginDown s).updPwr fun p => { p with blocked := true }

/-- A step down (R441): not taken and not logged at step 24. -/
def stepDown (s : State) (code : Nat) (l : List Nat) (rate : Nat → Int) : State :=
  if s.thm.step ≥ 24 then s
  else
    let (n, s) := pickNode s l
    let s := s.updThm fun t =>
      { t with step := t.step + 1, stepsDown := sat 16 (t.stepsDown + 1), lastStep := some s.dev.now }
    logEvent s code 2 (thmData n s.thm.step s.thm.mode (s.thm.nodes[n]?.getD 0) (rate n))

/-- At least 500 ms have passed since the last change of step (R441). -/
def settled (s : State) : Bool :=
  match s.thm.lastStep with | none => true | some t => decide (s.dev.now - t ≥ 50000000)

/-- A coefficient after one comparison (R438), as a ratio to its fused default. -/
def adjustCoef (c : Rat) (measured : Option Nat) (modelled : Nat) : Rat :=
  match measured with
  | none => c
  | some m =>
    if modelled = 0 then c
    else max (3 / 4) (min (5 / 4) (c + c * (((m : Rat) - (modelled : Rat)) / (modelled : Rat)) / 8))

/-- One evaluation of the model (R439 to R443). -/
def thmUpdate (s : State) (u : ThmIn) : State :=
  let old := s.thm.nodes
  let rise (i : Nat) : Int := u.temps[i]?.getD 0 - old[i]?.getD 0
  let perMs (i : Nat) : Int := rise i * 1000 / u.interval
  let atRate (x : Int) (i : Nat) : Bool := decide (rise i * 1000 ≥ x * u.interval)
  let s := s.updThm fun t =>
    let t := { t with
      ta := u.ta.getD t.ta, taBad := t.taBad && u.ta.isNone, tc := u.tc.getD t.tc, tcBad := t.tcBad && u.tc.isNone,
      flow := u.flow.getD t.flow, flowBad := t.flowBad && u.flow.isNone, limitW := t.limitNext, ceilInput := t.ceilNext }
    let warn := !(nodesWith u.temps fun i _ => atRate 192 i).isEmpty
    { t with
      nodes := u.temps, mode := if coolant t then 1 else 0, warn := warn, warns := sat 16 (t.warns + b2n warn),
      hot := hottest u.temps,
      fast := !(nodesWith u.temps fun i x => decide (x ≥ 11776) || decide (rise i * 1000 > 192 * u.interval)).isEmpty }
  let crit := nodesWith u.temps fun _ x => decide (x ≥ 14080)
  let lim := nodesWith u.temps fun _ x => decide (x ≥ 12800)
  let rate := nodesWith u.temps fun i _ => atRate 384 i
  let calm := (nodesWith u.temps fun i x => decide (x > 11520) || atRate 64 i).isEmpty
  if !crit.isEmpty then
    let (n, s) := pickNode s crit
    thmCritical s n (u.temps[n]?.getD 0) (perMs n)
  else
    let s :=
      if !lim.isEmpty then stepDown s 0x3002 lim perMs
      else if !rate.isEmpty then stepDown s 0x3001 rate perMs
      else if s.thm.step > 0 ∧ settled s = true ∧ calm then
        let s := s.updThm fun t => { t with step := t.step - 1, lastStep := some s.dev.now }
        let n := s.thm.hot
        logEvent s 0x3004 2 (thmData n s.thm.step s.thm.mode (u.temps[n]?.getD 0) (perMs n))
      else s
    s.updThm fun t => { t with phi := paceOf t.phi (capW t) u.pFix u.pPace }

/-- THM_UPDATE (R440, R441): in every state from BOOT onward, 1 ms after the last update or 125 µs in the fast period. -/
def execThmUpdate (u : ThmIn) (s : State) : Host.Outcome State Fault Refusal :=
  .next (if !clocked s ∨ s.dev.st = .hold ∨ u.temps.length ≠ 265 ∨ u.interval ≠ (if s.thm.fast then 125 else 1000) then s
    else rescaleAll (thmUpdate s u))

/-- COEFFICIENT_ADJUST (R438): each group's coefficient moves by 1/8 of the relative difference, within ±25% of its fused
default; a group without a valid reading is frozen. -/
def execCoefficientAdjust (measured : List (Option Nat)) (modelled : List Nat) (s : State) :
    Host.Outcome State Fault Refusal :=
  .next (if !clocked s ∨ s.dev.st = .hold then s
    else s.updThm fun t =>
      { t with
        monBad := (List.range 6).map fun i =>
          t.monBad[i]?.getD false && ((measured[i]?).getD none).isNone
        coef := (List.range 6).map fun i =>
          adjustCoef (t.coef[i]?.getD 1) ((measured[i]?).getD none) ((modelled[i]?).getD 0) })

/-- SENSOR_INVALID (R438, R439): no valid reading for 10 ms. -/
def execSensorInvalid (x : Sensor) (s : State) : Host.Outcome State Fault Refusal :=
  .next (if !clocked s ∨ s.dev.st = .hold then s
    else s.updThm fun t =>
      match x with
      | .ta => { t with taBad := true, ta := 7040 }
      | .tc => { t with tcBad := true }
      | .flow => { t with flowBad := true, flow := 0 }
      | .monitor g => { t with monBad := t.monBad.set g true })

/-- POWER_LIMIT (R444): the ceiling of the next update; RESULT0 is POWER_CAP_W with it applied. -/
def execPowerLimit (ring seq : Nat) (s : State) : Host.Outcome State Fault Refusal :=
  .next (onReady 0xB0 ring seq (fun c s =>
    let w := c.p 0 2
    let s := s.updThm fun t => { t with limitNext := w }
    finish s c stOk (capW { s.thm with limitW := w })) s)

end Sys2Proof.Machine
end

