-- ==== Sys2Proof/Machine/Flags.lean ====
section
/-! DEFINITION. The status and telemetry registers: what each register of the window, of the doorbell page and of the SMBus
map reads (00_scope R4, R5; 21_host_interface R467 to R473 and the register tables of the other chapters). -/

namespace Sys2Proof.Machine

/-- Fields packed from bit 0 upward: value and width; a value too large saturates at all ones. -/
def packF : List (Nat × Nat) → Nat
  | [] => 0
  | (v, w) :: t => sat w v + 2 ^ w * packF t

/-- A signed field of `w` bits. -/
def sfield (w : Nat) (v : Int) : Nat := (v % (2 ^ w : Nat)).toNat

/-! ## Device -/

/-- DEV_ID (R4). -/
def regDevId (s : State) : Nat :=
  packF [(0x10, 8), (s.dev.boardRev, 8), (s.dev.fwMinor, 8), (s.dev.fwMajor, 8), (s.dev.stepping, 8), (1, 8), (0x5120, 16)]

/-- GRAEC_VER_RANGE (R5). -/
def regVer : Nat := packF [(0x10, 8), (0x13, 8)]

/-- DEV_STATE. -/
def regState (s : State) : Nat :=
  packF [(s.dev.st.code, 4), (s.dev.prev.code, 4), (s.dev.bootStep, 4), (0, 20), (s.dev.stateSec, 32)]

/-- ERR_SUMMARY (16_faults R399). -/
def regErr (s : State) : Nat :=
  packF [(s.err.seen % 512, 9), (0, 15), ((s.err.active.map fun h => h.err.domain).getD 0xF, 4),
    (if s.dev.st = .failed then s.err.failedDomain else 0xF, 4), (s.err.fifo.length, 8), (s.err.hwm, 8)]

/-- DAMPER_STEP and POWER_CAP_W (19_thermal R447). -/
def regDamper (s : State) : Nat :=
  packF [(s.thm.step, 5), (0, 11), (s.thm.stepsDown, 16), (capW s.thm, 16), (ceilingW s.thm, 16)]

/-- HOST_LINK. -/
def regLink (s : State) : Nat :=
  packF [(s.host.rate, 4), (0, 4), (s.host.width, 8), (s.host.retrains, 16), (s.host.aerCorr, 16), (s.host.aerUncorr, 16)]

/-- The code of a PLL's state (17_clocks R419). -/
def PllSt.code : PllSt → Nat
  | .off => 0 | .locking => 1 | .windows => 2 | .accepted => 3 | .seriesFailed => 4

/-- CLK_STATUS (R419). -/
def regClk (s : State) : Nat :=
  let c := s.clk
  packF [(b2n c.sscErr, 1), (b2n c.hbmLost, 1), (c.pilot.st.code, 3), (c.root.st.code, 3), (c.source, 2), (c.attempt, 2),
    (0, 4), (c.sscDepth, 4), (c.sscRate, 4), (c.cclk.div, 7), (0, 1), (c.holds, 8), (c.takeovers, 8)]

/-- CLK_MEAS (R419). -/
def regMeas (s : State) : Nat :=
  packF [(0, 16), (s.clk.rootCount, 16), (s.clk.pilotCount, 16), (s.clk.windowFails, 16)]

/-! ## Calibration (04_calibration R110) -/

def regCalInfo (s : State) : Nat := packF [(s.cal.count, 32), (s.cal.lastSec, 32)]
def regCalBg (s : State) : Nat := packF [(s.cal.bgRotations, 32), (s.cal.bgRejects, 32)]
def regCalState (s : State) : Nat :=
  packF [(s.cal.source, 2), (0, 2), (b2n s.cal.run.isSome, 1), (b2n s.cal.commitNeeded, 1), (0, 10), (s.cal.recals, 16)]
def regRefErr (s : State) : Nat :=
  let e (i : Nat) : Nat × Nat := (sfield 16 (s.cal.refErr[i]?.getD 0), 16)
  packF [e 0, e 1, e 2, e 3]

/-! ## Arrays, flue engines, tiles -/

/-- An array's telemetry register `r` of 0 to 15 (03_arrays R89). -/
def regArr (a : Arr) (r : Nat) : Nat :=
  match r with
  | 0 => sat 64 a.checks
  | 1 => packF [(a.mmData, 32), (a.mmTally, 32)]
  | 2 => packF [(a.lateSettle, 32), (a.lateTrial, 32)]
  | 3 => packF [(a.gateRepairs, 16), (a.scrubRepairs, 16), (a.range, 32)]
  | 4 => packF [(a.windows, 32), (a.lastFails, 32)]
  | 5 => packF [(0, 16), (a.undet, 16), (a.sigma, 16)]
  | 6 => packF [(b2n a.overLimit, 1), (b2n a.drift, 1), (b2n a.recal, 1), (b2n a.judging, 1), (b2n a.hard, 1)]
  | 7 => 0
  | _ => packF [(nat a.hist (2 * (r - 8)), 32), (nat a.hist (2 * (r - 8) + 1), 32)]

/-- A flue engine's telemetry register `r` of 0 to 7 (06_flue_path R151). -/
def regFlue (f : Flue) (r : Nat) : Nat :=
  match r with
  | 0 => sat 64 f.busy
  | 1 => sat 64 f.entries
  | 2 => packF [(f.nRec, 32), (f.nOut, 32)]
  | 3 => packF [(f.nDel, 32), (f.misses, 32)]
  | 4 => packF [(0, 16), (f.hwmOut, 16), (f.hwmRec, 8), (f.hwmDel, 8)]
  | 5 => packF [(f.holdOffs, 32), (f.waited, 32)]
  | _ => 0

/-- FLUE_LOAD (R151). -/
def regFlueLoad (s : State) : Nat :=
  let d (i : Nat) : Nat × Nat := (s.serve.flueLoad[i]?.getD 0, 16)
  packF [d 0, d 1, d 2, d 3]

/-- A tile's telemetry register `r` of 0 to 3 (21_host_interface R471). -/
def regTile (t : Tile) (r : Nat) : Nat :=
  match r with
  | 0 => sat 64 t.execs
  | 1 => sat 64 t.gateStalls
  | 2 => packF [(t.quantClamps, 32), (t.preloadClamps, 32)]
  | _ => 0

/-! ## KV, tables, serving -/

/-- Bytes of a pool page slot of a context (07_attention R153; 12_graec_commands R287). -/
def pageBytes (hdim : Nat) : Nat := 32 + 278 * 32 * hdim

/-- Bytes a page takes of the pool. -/
def pageSize (s : State) (p : Page) : Nat := pageBytes ((look s.ctxs p.ctx).elim 0 (·.hdim))

/-- Pool bytes in use. -/
def poolUsed (s : State) : Nat :=
  (s.kv.pages.map fun e => match e.2 with | none => 0 | some p => if p.spilled || p.bound then 0 else pageSize s p).sum

/-- Pages of the pool, or of the host tier. -/
def pageCount (s : State) (spilled : Bool) : Nat :=
  (s.kv.pages.filter fun e => match e.2 with | none => false | some p => p.spilled == spilled).length

/-- Bytes of a table row: its R56 layout rounded up to 32 bytes (08_tables_tiers R191; 02_number_formats R56). -/
def rowBytes (fmt d : Nat) : Nat :=
  let n := if fmt = 0 then 2 * d else if fmt = 1 then d + 4 else (d + 1) / 2 + 4
  (n + 31) / 32 * 32

/-- The smallest k with 4 × 2^k ≥ 2 n (R194). -/
def indexLog2 (n : Nat) : Nat := if n ≤ 2 then 0 else Nat.clog 2 ((2 * n + 3) / 4)

/-- Bytes a table takes of the TABLE region (R188, R194). -/
def tableBytes (t : Table) : Nat :=
  if t.tier = 1 then t.rows * rowBytes t.fmt t.d
  else if t.tier = 3 then t.data.length * rowBytes t.fmt t.d + 64 * 2 ^ indexLog2 t.data.length
  else 0

/-- TABLE bytes in use. -/
def tableUsed (s : State) : Nat :=
  (s.ctxs.map fun e => match e.2 with | none => 0 | some c => (c.tables.map fun t => tableBytes t.2).sum).sum

/-- Whole MiB that a number of bytes takes. -/
def mibUp (n : Nat) : Nat := (n + 2 ^ 20 - 1) / 2 ^ 20

/-- Registers of 0x0068_3000 to 0x0068_311F (07 R184; 08 R199). -/
def regKv (s : State) (r : Nat) : Nat :=
  match r with
  | 0 => packF [(s.kv.poolMib - mibUp (poolUsed s), 32), (s.kv.poolMib, 32)]
  | 1 => packF [(pageCount s false, 32), (pageCount s true, 32)]
  | 2 => packF [(s.kv.quotaEvicts, 32), (s.kv.pressureEvicts, 32)]
  | 3 => packF [(s.kv.hobFree, 16), (0, 16), (s.kv.hobHwm, 16)]
  | 32 => packF [(s.kv.tableGib, 16), (s.kv.mirrorPm, 16), (s.kv.mirrorMib, 32)]
  | 33 => packF [(mibUp (tableUsed s), 32), (s.kv.tableGib * 1024 - mibUp (tableUsed s), 32)]
  | 34 => packF [(s.kv.hotHits, 32), (s.kv.hotMisses, 32)]
  | _ => 0

/-- Vectors in flight of a context. -/
def ctxFlight (s : State) (c : Nat) : Nat := (look s.ctxs c).elim 0 fun x => x.inflight.length

/-- Vectors in flight that satisfy a test. -/
def flight (s : State) (p : Vec → Bool) : Nat :=
  (s.ctxs.map fun e => match e.2 with | none => 0 | some c => (c.inflight.filter p).length).sum

/-- Registers of 13_serving R330 from 0x0068_3200. -/
def regServe (s : State) (r : Nat) : Nat :=
  match r with
  | 0 => packF [(flight s fun _ => true, 16), (flight s fun v => decide (v.xr.cls ≥ 2), 16), (s.serve.hwm, 16)]
  | 1 => packF [(s.serve.flueDefers, 11), (s.serve.hbmDefers, 11), (s.serve.pcieDefers, 21)]
  | 2 => packF [(s.serve.tokens, 32), (s.serve.misses, 32)]
  | _ => 0

/-- CTX_SERVE. -/
def regCtxServe (s : State) (c : Nat) : Nat :=
  packF [(ctxFlight s c, 16), (0, 16), ((look s.ctxs c).elim 0 fun x => if x.image.isSome then x.stepNs else 0, 32)]

/-! ## Chimney (14_chimney R369) -/

def PortSt.code : PortSt → Nat
  | .off => 0 | .training => 1 | .up => 2 | .down => 3 | .miscabled => 4 | .version => 5

/-- Roles fenced among 64i to 64i + 63, as a mask. -/
def fenceMask (s : State) (i : Nat) : Nat :=
  (s.chim.fenced.filter fun e => e.2.isSome && e.1 / 64 == i).foldl (fun a e => a + 2 ^ (e.1 % 64)) 0

/-- Registers from 0x0068_3600. -/
def regChim (s : State) (r : Nat) : Nat :=
  let c := s.chim
  match r with
  | 0 => c.id % 2 ^ 64
  | 1 => packF [(c.role, 16), (c.crown, 16), (c.n, 16), (c.topo, 2)]
  | 2 => packF [(c.lastStep, 32), (c.timeoutUs, 32)]
  | 3 => packF [(c.aborts, 16), (c.fences, 16), (c.stepTimeouts, 32)]
  | 12 => packF [(c.buddy, 16), (c.refused, 16), ((c.mirror.filter fun m => !m.ash).length, 32)]
  | r => if 4 ≤ r ∧ r < 12 then fenceMask s (r - 4) else 0

/-- Registers of a port. -/
def regPort (p : Port) (r : Nat) : Nat :=
  match r with
  | 0 => packF [(p.st.code, 4), (p.mode, 4), (if p.mode = 0 then 0 else if p.st = .up then 8 + p.ver % 16 else 1, 4), (0, 4), (p.downs, 8), (0, 8), (p.peer, 16)]
  | 1 => packF [(p.crcErrors, 32), (p.retransmits, 32)]
  | 2 => packF [(p.tx, 32), (p.rx, 32)]
  | _ => 0

/-! ## Faults, thermal, log -/

/-- Registers from 0x0068_3800 (16_faults R399). -/
def regFault (s : State) (r : Nat) : Nat :=
  match r with
  | 0 => (s.ctxs.filter fun e => match e.2 with | none => false | some c => c.halted).foldl (fun a e => a + 2 ^ e.1) 0
  | 1 => packF [(s.sweep.forced, 32), (s.sweep.cycles, 32)]
  | 2 => packF [(0, 12), (s.sweep.lastKind, 4), (s.sweep.lastUnit, 16), (s.sweep.transients, 16)]
  | _ => 0

/-- A thermal sensor or monitor has no valid reading (19_thermal R438, R439). -/
def sensorFault (t : Thm) : Bool := t.taBad || t.tcBad || t.flowBad || t.monBad.any id

/-- Registers from 0x0068_3900 (R447). -/
def regThm (s : State) (r : Nat) : Nat :=
  let t := s.thm
  let n (i : Nat) : Nat × Nat := (sfield 16 (t.nodes[i]?.getD 0), 16)
  if r ≤ 66 then packF [n (4 * r), n (4 * r + 1), n (4 * r + 2), n (4 * r + 3)]
  else if r = 80 then
    packF [(t.mode, 1), (0, 3), (b2n t.fast, 1), (b2n t.warn, 1), (b2n t.ceilInput, 1), (b2n (sensorFault t), 1), (0, 15),
      (t.hot, 9), (t.warns, 16)]
  else if r = 81 then packF [(sfield 16 t.ta, 16), (sfield 16 t.tc, 16), (t.flow, 16)]
  else 0

/-- LOG_STATUS (20_mantel_log R461). -/
def regLog (s : State) : Nat :=
  let l := s.log
  packF [(b2n l.frozen, 1), (b2n l.clearCode.isSome, 1), (b2n (decide (l.wrong ≥ 8)), 1), (0, 5), (l.ram.length, 8),
    (l.lost, 16), (l.newestSeq, 32)]

/-! ## The register window -/

/-- 64 bits of the pending array. -/
def pbaWord (f : Fn) (i : Nat) : Nat := (List.range 64).foldl (fun a j => a + (nat f.pba (64 * i + j)) * 2 ^ j) 0

/-- The device registers of offsets 0x00 to 0x37. -/
def regDev (s : State) (r : Nat) : Nat :=
  match r with
  | 0 => regDevId s
  | 1 => regVer
  | 2 => regState s
  | 3 => regErr s
  | 4 => s.dev.now
  | 5 => s.dev.opSec
  | 6 => s.dev.pwrCycles
  | _ => 0

/-- The 64-bit register at an offset that is a multiple of 8 in BAR0 of the physical function; offsets outside the map read
0 (R469). -/
def bar0Pf (s : State) (o : Nat) : Nat :=
  if o < 0x38 then regDev s (o / 8)
  else if o = 0x40 then regDamper s
  else if o = 0x100 then regLink s
  else if o = 0x200 then regClk s
  else if o = 0x208 then regMeas s
  else if o = 0x300 then regCalInfo s
  else if o = 0x308 then regCalBg s
  else if o = 0x310 then regCalState s
  else if o = 0x318 then regRefErr s
  else if 0x400000 ≤ o ∧ o < 0x680000 then regArr (s.arr ((o - 0x400000) / 128)) (o % 128 / 8)
  else if 0x680000 ≤ o ∧ o < 0x682000 then regFlue (s.flue ((o - 0x680000) / 64)) (o % 64 / 8)
  else if o = 0x682000 then regFlueLoad s
  else if 0x683000 ≤ o ∧ o < 0x683200 then regKv s ((o - 0x683000) / 8)
  else if 0x683200 ≤ o ∧ o < 0x683400 then regServe s ((o - 0x683200) / 8)
  else if 0x683400 ≤ o ∧ o < 0x683600 then regCtxServe s ((o - 0x683400) / 8)
  else if 0x683600 ≤ o ∧ o < 0x683700 then regChim s ((o - 0x683600) / 8)
  else if 0x683700 ≤ o ∧ o < 0x683800 then
    match s.chim.ports[(o - 0x683700) / 32]? with | none => 0 | some p => regPort p (o % 32 / 8)
  else if 0x683800 ≤ o ∧ o < 0x683900 then regFault s ((o - 0x683800) / 8)
  else if 0x683900 ≤ o ∧ o < 0x683C00 then regThm s ((o - 0x683900) / 8)
  else if o = 0x683C00 then regLog s
  else if 0x700000 ≤ o ∧ o < 0x728000 then regTile (s.tile ((o - 0x700000) / 32)) (o % 32 / 8)
  else if 0x800000 ≤ o ∧ o < 0x808000 then
    msixWord (s.fn 0) ((o - 0x800000) / 4) + 2 ^ 32 * msixWord (s.fn 0) ((o - 0x800000) / 4 + 1)
  else if 0x810000 ≤ o ∧ o < 0x810100 then pbaWord (s.fn 0) ((o - 0x810000) / 8)
  else 0

/-- The 64-bit register of a virtual function's BAR0 (R467). -/
def bar0Vf (s : State) (fn o : Nat) : Nat :=
  if o < 0x38 then regDev s (o / 8)
  else if 0x8000 ≤ o ∧ o < 0x9000 then
    msixWord (s.fn fn) ((o - 0x8000) / 4) + 2 ^ 32 * msixWord (s.fn fn) ((o - 0x8000) / 4 + 1)
  else if 0x9000 ≤ o ∧ o < 0x9020 then pbaWord (s.fn fn) ((o - 0x9000) / 8)
  else 0

/-- BAR0 of a function. -/
def bar0 (s : State) (fn o : Nat) : Nat := if fn = 0 then bar0Pf s o else bar0Vf s fn o

/-! ## The doorbell page (11_graec_rings R253) -/

/-- ADMIN_CFG. -/
def regAdminCfg (f : Fn) : Nat :=
  packF [(f.vector, 11), (0, 9), (f.cqLog2, 4), (f.sqLog2, 4), (0, 3), (b2n f.enable, 1)]

/-- FN_STATUS. -/
def regFnStatus (s : State) (i : Nat) : Nat :=
  let f := s.fn i
  let head := match look s.rings f.first with | none => 0 | some r => if f.enable then r.head else 0
  packF [(head, 12), (f.dbIgnored, 8), (f.session, 8), (0, 2), (b2n f.cfgErr, 1),
    (b2n (f.enable && decide (s.dev.st.code ≥ 3)), 1)]

/-- A 32-bit register of the doorbell page; DOORBELL is write only. -/
def bar2 (s : State) (fn o : Nat) : Nat :=
  let f := s.fn fn
  match o with
  | 0x008 => f.sq % 2 ^ 32
  | 0x00C => f.sq / 2 ^ 32
  | 0x010 => f.cq % 2 ^ 32
  | 0x014 => f.cq / 2 ^ 32
  | 0x018 => regAdminCfg f
  | 0x01C => regFnStatus s fn
  | _ => 0

/-! ## SMBus (21_host_interface R472, R473; 18_power R434) -/

/-- PWR_FAULT_LATCH (R434). -/
def regLatch (l : Latch) : Nat :=
  packF [(l.v12, 16), (0, 4), (l.enables, 2), (0, 2), (l.rail, 4), (l.phase, 2), (b2n l.recovered, 1), (b2n l.fault, 1)]

/-- SSC_CFG. -/
def regSsc (s : State) : Nat := packF [(s.host.sscDepth, 4), (s.host.sscRate, 4), (b2n s.clk.sscErr, 1)]

/-- A firmware-refreshed register as it stands. -/
def smbusLive (s : State) (cmd : Nat) : Nat :=
  match cmd with
  | 0x00 => regDevId s % 2 ^ 32
  | 0x02 => regVer % 2 ^ 32
  | 0x06 => regErr s % 2 ^ 32
  | 0x07 => s.dev.opSec
  | 0x08 => s.dev.pwrCycles
  | 0x09 => regClk s % 2 ^ 32
  | _ => 0

/-- An SMBus register of 4 bytes: the sequencer's own copies, and the copies firmware refreshed last. ID_LO has its FW fields
0 in COLD. -/
def smbusReg (s : State) (cmd : Nat) : Nat :=
  match cmd with
  | 0x00 => if s.dev.st = .cold then packF [(0x10, 8), (s.dev.boardRev, 8)] else nat s.host.smbus 0
  | 0x01 => regDevId s / 2 ^ 32
  | 0x03 => regState s % 2 ^ 32
  | 0x04 => regLatch s.pwr.latch
  | 0x05 => regSsc s
  | 0x10 => s.host.logIndex
  | 0x12 => if (s.pwr.rails[0]?).elim false (·.good) then s.log.newestSeq else 0
  | 0x18 => 0
  | c => if s.dev.st = .cold then 0 else nat s.host.smbus c

end Sys2Proof.Machine
end

