-- ==== Sys2Proof/Machine/Operands.lean ====
section
/-! DEFINITION. Operand forms: the header and parameters of every Graec packet (11_graec_rings R261, R262;
12_graec_commands R280 to R284) and the fields of every step instruction word (10_instructions R219 to R250). -/

namespace Sys2Proof.Machine

/-! ## Packets -/

/-- A packet from its 256-byte slot (R261). -/
def packetOf (b : List Byte) : Packet :=
  { opc := field b 0 2, flags := field b 2 2, seq := field b 4 4, tag := field b 8 8, ctx := field b 16 2,
    len := field b 18 2, req := field b 20 4, ver := field b 24 1, prio := field b 25 1,
    resv := field b 26 6,
    params := (b.drop 32).take (min (field b 18 2) 224) }

/-- The opcodes of R280. -/
def assigned (opc : Nat) : Bool :=
  [0x01, 0x02, 0x10, 0x11, 0x12, 0x20, 0x21, 0x22, 0x24, 0x25, 0x30, 0x31, 0x40, 0x41, 0x42, 0x43, 0x44, 0x45, 0x46, 0x50,
   0x51, 0x60, 0x61, 0x70, 0x71, 0x72, 0x80, 0x81, 0x90, 0x91, 0x92, 0x93, 0x94, 0xA0, 0xA1, 0xA2, 0xA3, 0xB0, 0xB1, 0xB2,
   0xC0, 0xC1, 0xD0, 0xD1, 0xD2, 0xE0, 0xE1, 0xF0, 0xF1].contains opc

/-- Absent in a session of that version (R270): RECORD_START, RECORD_STOP and REPLAY before 1.3. -/
def absentIn (session opc : Nat) : Bool := opc / 16 == 0xD && session < 0x13

/-- Opcodes whose header names a context. -/
def namesCtx (opc : Nat) : Bool :=
  [0x21, 0x22, 0x24, 0x25, 0x30, 0x31, 0x40, 0x51, 0x60, 0x61, 0x94, 0xD0, 0xD1, 0xD2].contains opc

/-- Opcodes whose header names a request. -/
def namesReq (opc : Nat) : Bool := (0x41 ≤ opc && opc ≤ 0x46) || opc == 0x50

/-- The ring an opcode is accepted on (R284). -/
inductive RingRule where
  | any
  | admin
  | zero
  deriving DecidableEq, Repr

/-- The rows of the acceptance table (R284). -/
inductive AcceptRow where
  | session | bind | ctxRow | reqOpen | reqClose | query | calRun | calStatus | calCommit | record | replay
  deriving DecidableEq, Repr

/-- The row of an opcode (R284). -/
def rowOfOpc (opc : Nat) : AcceptRow :=
  if opc = 0x01 ∨ opc = 0x02 ∨ opc = 0x10 ∨ opc = 0x11 then .session
  else if opc = 0x12 then .bind
  else if opc / 16 = 2 ∨ opc / 16 = 3 ∨ opc / 16 = 6 then .ctxRow
  else if (0x40 ≤ opc ∧ opc ≤ 0x43) ∨ opc = 0x50 then .reqOpen
  else if opc = 0x44 ∨ opc = 0x45 ∨ opc = 0x51 then .reqClose
  else if opc = 0x46 ∨ opc / 16 = 0xE ∨ opc / 16 = 0xC then .query
  else if opc = 0x70 ∨ opc = 0x80 ∨ opc = 0xB2 ∨ opc = 0xF1 then .calRun
  else if opc = 0x71 ∨ opc / 16 = 0xA ∨ opc / 16 = 0xB then .calStatus
  else if opc = 0xD0 ∨ opc = 0xD1 then .record
  else if opc = 0xD2 then .replay
  else .calCommit

/-- The ring column of R284. -/
def ringRule (opc : Nat) : RingRule :=
  match rowOfOpc opc with
  | .session | .record | .replay => .admin
  | .bind | .calRun | .calStatus | .calCommit => .zero
  | .ctxRow | .reqOpen | .reqClose | .query => .any

/-- What a state does with a command (R284). -/
inductive Accept where
  | yes
  | no (status : Nat)
  | wake
  deriving DecidableEq, Repr

/-- The state columns of R284. -/
def acceptIn (st : DevSt) (opc : Nat) : Accept :=
  let asleep := decide (st = .sleep ∨ st = .deepSleep)
  match rowOfOpc opc with
  | .session | .bind | .query | .calStatus => .yes
  | .ctxRow | .reqClose | .calCommit | .record => if asleep then .wake else .yes
  | .reqOpen | .replay => if asleep then .wake else if st = .maintenance then .no stNotInService else .yes
  | .calRun => if st = .maintenance then .yes else .no stNotPermitted

/-- The parameter length of an opcode (R281); variable parts follow it. -/
def paramLen (opc : Nat) : Nat :=
  match opc with
  | 0x01 => 2 | 0x10 => 40 | 0x11 => 4 | 0x12 => 12 | 0x20 => 24 | 0x22 => 24 | 0x24 => 16 | 0x25 => 8 | 0x30 => 40
  | 0x31 => 16 | 0x40 => 48 | 0x41 => 24 | 0x42 => 8 | 0x43 => 24 | 0x46 => 8 | 0x50 => 8 | 0x51 => 8 | 0x60 => 24
  | 0x61 => 24 | 0x81 => 16 | 0x90 => 32 | 0x92 => 8 | 0x93 => 8 | 0x94 => 24 | 0xA1 => 16 | 0xA3 => 8 | 0xB0 => 8
  | 0xB1 => 4 | 0xC0 => 8 | 0xC1 => 8 | 0xD0 => 16 | 0xD2 => 16 | 0xE0 => 16 | 0xE1 => 16 | 0xF0 => 16
  | _ => 0

/-- Bytes of the variable part: inline tokens of REQ_APPEND, inline candidates of REQ_VERIFY; a number of them outside its
range is itself the fault and gives no length. -/
def varLen (p : Packet) : Nat :=
  if p.opc = 0x41 ∧ field p.params 4 1 = 0 ∧ field p.params 0 4 ≤ 50 then 4 * field p.params 0 4
  else if p.opc = 0x43 ∧ field p.params 4 1 = 0 ∧ field p.params 5 1 ≤ 16 then 12 * field p.params 5 1
  else 0

/-- Reserved fields among the parameters: offset and size. -/
def reservedParams (opc : Nat) : List (Nat × Nat) :=
  match opc with
  | 0x10 => [(34, 6)] | 0x12 => [(1, 3)] | 0x20 => [(1, 7), (20, 4)] | 0x22 => [(19, 5)] | 0x25 => [(2, 6)]
  | 0x30 => [(3, 1), (10, 6)] | 0x31 => [(1, 3)] | 0x41 => [(5, 3)] | 0x42 => [(4, 4)] | 0x43 => [(6, 2)]
  | 0x50 => [(4, 4)] | 0x60 => [(3, 1), (12, 4)] | 0x61 => [(3, 1), (12, 4)] | 0x81 => [(10, 6)]
  | 0x90 => [(14, 2), (22, 2), (30, 2)] | 0x92 => [(2, 6)] | 0x93 => [(4, 4)] | 0x94 => [(2, 6)] | 0xB0 => [(2, 6)]
  | 0xB1 => [(1, 1)] | 0xC0 => [(2, 6)] | 0xC1 => [(2, 6)] | 0xE0 => [(8, 8)] | 0xE1 => [(8, 8)]
  | _ => []

/-- A power of two from 16 to 4,096 (R255). -/
def ringSizeOk (n : Nat) : Bool := [16, 32, 64, 128, 256, 512, 1024, 2048, 4096].contains n

/-- TEMP: finite and at least 0 (R292). -/
def tempOk (w : Nat) : Bool := let t := BitVec.ofNat 32 w; isFin t && (!fSign t || isZero t)

/-- TOP_P or QPROB: above 0, at most 1. -/
def probOk (w : Nat) : Bool := let t := BitVec.ofNat 32 w; isFin t && !fSign t && !isZero t && fle t fone

/-- Fan-outs of a draft tree (R183): each at least 1 and at most 16 nodes in all. -/
def fanOut (params : List Byte) (d : Nat) : List Nat := (List.range d).map fun k => field params (16 + k) 1

/-- Nodes of each depth 1 to D. -/
def fanNodes (bs : List Nat) : List Nat := (bs.foldl (fun (st : List Nat × Nat) b => (st.1 ++ [st.2 * b], st.2 * b)) ([], 1)).1

/-- A ring lies in a function's range: a bound virtual function's own, function 0's every other ring (11_graec_rings R251, R252). -/
def ownsRing (s : State) (fn ring : Nat) : Bool :=
  let holds (f : Fn) : Bool := decide (f.first ≤ ring ∧ ring < f.first + f.count)
  holds (s.fn fn) && decide (ring < 2 ^ 20) && (fn != 0 || s.fns.all fun e => e.1 == 0 || e.2.elim true fun f => !holds f)

/-- Parameter ranges by opcode (R281, R283 step 6): parameter offset and whether the field is in range. -/
def rangeChecks (s : State) (fn session : Nat) (p : Packet) : List (Nat × Bool) :=
  let f (o n : Nat) : Nat := field p.params o n
  let a64 (o : Nat) : Nat × Bool := (o, f o 8 % 64 == 0)
  match p.opc with
  | 0x10 =>
    [(0, ownsRing s fn (f 0 4)), (4, ringSizeOk (f 4 2) && decide (f 4 2 ≤ f 6 2)),
     (6, ringSizeOk (f 6 2)), (8, f 8 8 % 4096 == 0), (16, f 16 8 % 4096 == 0), (24, f 24 8 % 4 == 0),
     (32, decide (f 32 2 < if fn = 0 then 2048 else 256))]
  | 0x12 =>
    [(0, decide (1 ≤ f 0 1 ∧ f 0 1 ≤ 63) && (s.fn (f 0 1)).vfEnabled),
     (4, f 8 4 == 0 || (f 4 4 % 64 == 0 && decide (f 8 4 > 262144 ∨ f 4 4 + f 8 4 ≤ 2 ^ 20))),
     (8, f 8 4 == 0 || decide (64 ≤ f 8 4 ∧ f 8 4 ≤ 262144))]
  | 0x20 => [(0, decide (1 ≤ f 0 1 ∧ f 0 1 ≤ 8)), (8, f 8 8 % 64 == 0 && (f 8 8 != 0 || f 16 4 == 0))]
  | 0x22 => [a64 0, (16, decide (f 16 1 ≤ 1))]
  | 0x24 => [a64 0]
  | 0x30 =>
    [(1, decide (f 1 1 ≤ 2)), (2, decide (1 ≤ f 2 1 ∧ f 2 1 ≤ 3) || (f 2 1 == 4 && decide (session ≥ 0x12))),
     (4, decide (1 ≤ f 4 2 ∧ f 4 2 ≤ 4096)),
     (6, if f 2 1 = 3 then decide (2 ≤ f 6 2 ∧ f 6 2 ≤ 512) else f 6 2 == 0),
     (8, if f 2 1 = 3 then decide (f 8 2 < f 6 2) else f 8 2 == 0),
     (16, decide (1 ≤ f 16 8 ∧ f 16 8 ≤ 2 ^ 40)), a64 24]
  | 0x31 => [(4, decide (1 ≤ f 4 4 ∧ f 4 4 ≤ 65536)), a64 8]
  | 0x40 =>
    [(2, decide (f 2 1 < 4)), (3, decide (1 ≤ f 3 1 ∧ f 3 1 ≤ 64)), (4, tempOk (f 4 4)), (8, probOk (f 8 4)),
     (12, decide (8 ≤ f 12 4 ∧ f 12 4 ≤ 1024)), (16, f 16 4 == 0 || decide (3 ≤ f 16 4 ∧ f 16 4 ≤ 16384)),
     (28, decide (session ≥ 0x11) || f 28 4 == noReq)]
  | 0x41 =>
    [(0, decide (1 ≤ f 0 4 ∧ f 0 4 ≤ if f 4 1 = 0 then 50 else 4194304)), (4, decide (f 4 1 ≤ 2)),
     (8, if f 4 1 = 0 then f 8 8 == 0 else f 8 8 % 64 == 0), (16, f 4 1 == 2 || f 16 8 == 0)]
  | 0x43 =>
    let mode := f 4 1
    let n := f 5 1
    let bs := fanOut p.params n
    [(4, mode == 0 || (mode == 1 && decide (session ≥ 0x11))),
     (5, decide (1 ≤ n ∧ n ≤ if mode = 0 then 16 else 8)), a64 8,
     (16, if mode = 0 then f 16 8 == 0
          else bs.all (fun b => decide (1 ≤ b)) && decide ((fanNodes bs).sum ≤ 16) && f (16 + n) (8 - n) == 0)] ++
    (if mode = 0 then
      ((List.range n).map fun i =>
        [(24 + 12 * i + 4, probOk (f (24 + 12 * i + 4) 4)),
         (24 + 12 * i + 8, f (24 + 12 * i + 8) 1 == 0xFF || decide (f (24 + 12 * i + 8) 1 < i)),
         (24 + 12 * i + 9, f (24 + 12 * i + 9) 3 == 0)]).flatten
     else [])
  | 0x46 => [a64 0]
  | 0x60 | 0x61 => [(2, decide (f 2 1 < 64)), (8, decide (1 ≤ f 8 4 ∧ f 8 4 ≤ 131072)), a64 16]
  | 0x81 => [(8, decide (1 ≤ f 8 2 ∧ f 8 2 ≤ 1000))]
  | 0x90 =>
    [(0, f 0 8 != 0), (8, decide (2 ≤ f 8 2 ∧ f 8 2 ≤ 512)), (10, f 10 2 == 0xFFFF || decide (f 10 2 < f 8 2)),
     (12, decide (f 12 1 ≤ 3))]
  | 0x93 => [(2, decide (f 2 2 ≤ 500))]
  | 0x94 => [a64 8]
  | 0xA1 => [(0, decide (f 0 4 < 8192)), (4, decide (1 ≤ f 4 4 ∧ f 4 4 ≤ 8192)), a64 8]
  | 0xB0 => [(0, decide (300 ≤ f 0 2 ∧ f 0 2 ≤ 900 ∧ f 0 2 % 25 = 0))]
  | 0xB1 => [(0, decide (3 ≤ f 0 1 ∧ f 0 1 ≤ 6)), (2, f 2 2 == 0xFFFF || decide (f 2 2 ≤ 256))]
  | 0xC0 | 0xC1 => [(0, decide (f 0 2 < 4096))]
  | 0xD0 => [a64 0, (8, f 8 8 % 4096 == 0 && decide (f 8 8 ≥ 1048576))]
  | 0xD2 => [a64 0]
  | 0xE0 | 0xE1 => [(0, decide (f 0 4 < 2 ^ 20))]
  | 0xF0 => [a64 0, (8, decide (1 ≤ f 8 8 ∧ f 8 8 ≤ 16777216))]
  | _ => []

/-- The lowest of a list of offsets whose check fails. -/
def firstBad (l : List (Nat × Bool)) : Option Nat :=
  l.foldl (fun a e => if e.2 then a else match a with | none => some e.1 | some b => some (min b e.1)) none

/-- The header checks of R262: packet offsets. A command that names a request may carry its context in CTX (DEDUCED, log
entry 26). -/
def headerChecks (p : Packet) : List (Nat × Bool) :=
  [(2, decide (p.flags < 8)),
   (16, if namesReq p.opc then true else if namesCtx p.opc then p.ctx != noCtx else p.ctx == noCtx),
   (18, decide (p.len ≤ 224 ∧ paramLen p.opc + varLen p ≤ p.len)),
   (20, if namesReq p.opc then p.req != noReq else p.req == noReq),
   (25, decide (p.prio < 8)), (26, p.resv == 0)]

/-- The first nonzero byte past the parameters (R281), as a packet offset. -/
def tailCheck (p : Packet) : List (Nat × Bool) :=
  let n := paramLen p.opc + varLen p
  match (p.params.drop n).findIdx? (fun b => b != 0) with | none => [] | some i => [(32 + n + i, false)]

/-- Step 6 of R283: the packet offset of the first offending field of header and parameters. -/
def packetBad (s : State) (fn session : Nat) (p : Packet) : Option Nat :=
  firstBad (headerChecks p ++
    (if paramLen p.opc + varLen p ≤ p.len then
      (reservedParams p.opc).map (fun e => (32 + e.1, field p.params e.1 e.2 == 0)) ++
        (rangeChecks s fn session p).map (fun e => (32 + e.1, e.2)) ++ tailCheck p
     else []))

/-! ## Step instruction words (R219) -/

def iOpc (w : Nat) : Nat := bits w 63 56
def iV (w : Nat) : Bool := w.testBit 55
def iS (w : Nat) : Bool := w.testBit 54

/-- NQ: 0 encodes 256 (R220). -/
def nqOf (v : Nat) : Nat := if v = 0 then 256 else v

/-- Assigned opcodes with the width of their reserved low operand bits. -/
def iReserved (opc : Nat) : Option Nat :=
  match opc with
  | 0x01 => some 16 | 0x02 => some 16 | 0x08 => some 0 | 0x09 => some 26 | 0x0A => some 5 | 0x10 => some 8
  | 0x11 => some 2 | 0x18 => some 5 | 0x19 => some 5 | 0x1A => some 7 | 0x20 => some 12 | 0x21 => some 22
  | 0x22 => some 15 | 0x23 => some 32 | 0x24 => some 54 | 0x28 => some 0 | 0x29 => some 16 | 0x2A => some 28
  | 0x30 => some 9 | 0x31 => some 8 | 0x32 => some 48 | 0x38 => some 33 | 0x39 => some 20 | 0x3A => some 27
  | 0x3B => some 32 | 0x3C => some 54 | 0x3D => some 54 | 0x3E => some 36
  | _ => none

/-- Field values marked reserved (R219 to R249): false when the word carries one. -/
def iFieldsOk (w : Nat) : Bool :=
  match iOpc w with
  | 0x01 | 0x02 => bits w 21 20 != 3
  | 0x08 => bits w 41 40 != 3
  | 0x1A => bits w 41 40 != 3 && bits w 32 31 != 3 && (bits w 41 40 == 1 || bits w 32 31 == 0)
  | 0x22 => bits w 25 24 != 3
  | 0x28 => bits w 28 27 != 3 && bits w 26 25 != 3
  | 0x29 => decide (bits w 35 32 < 8)
  | 0x30 => bits w 39 38 != 3 && decide (bits w 37 36 < 2) && bits w 35 34 != 3
  | 0x31 => decide (bits w 41 40 < 2) && bits w 39 38 != 3 && (bits w 39 38 != 2 || bits w 37 14 == 0) &&
      (bits w 39 38 == 2 || bits w 13 8 == 0)
  | 0x3B => bits w 42 40 != 7
  | _ => true

/-- Reason 0x06: an assigned opcode, reserved bits and fields 0 (R11, R219). -/
def iEncodingOk (w : Nat) : Bool :=
  match iReserved (iOpc w) with | none => false | some n => w % 2 ^ n == 0 && iFieldsOk w

/-- Reason 0x08: the V bit exactly where R215 wants it. -/
def iVOk (w : Nat) : Bool :=
  iV w == (iOpc w == 0x24 || iOpc w == 0x3E || (iOpc w == 0x31 && bits w 41 40 == 1))

/-- The panel operands of an instruction and the KINDs each accepts (R220). -/
def iPanels (w : Nat) : List (Nat × List Nat) :=
  let p5 := bits w 53 48
  let p4 := bits w 47 42
  let p3 := bits w 41 36
  let any := [0, 1, 2, 3, 4, 5]
  match iOpc w with
  | 0x01 | 0x02 => [(p5, [1])]
  | 0x08 => [(p5, [4, 5]), (p4, [1])] ++ (if bits w 41 40 = 0 then [] else [(bits w 39 34, [2, 3])])
  | 0x09 => [(p5, [4, 5])]
  | 0x0A => [(p5, any), (p4, any)]
  | 0x10 => [(p5, [1]), (p4, [2, 3])]
  | 0x11 => [(p5, [2, 3]), (p4, [4, 5]), (p3, [1])]
  | 0x18 | 0x19 => [(p5, any)]
  | 0x1A => if bits w 41 40 = 0 then [(p5, [5]), (p4, [5])] else [(p5, [3]), (p4, [3])]
  | 0x20 => [(p5, [2]), (p4, [2])]
  | 0x21 => [(p5, [3]), (p4, [0])]
  | 0x22 => [(p5, [0])]
  | 0x23 => [(p5, [3]), (p4, [3]), (bits w 37 32, [3])]
  | 0x28 => [(p5, [2, 3]), (p4, [2, 3]), (p3, [0]), (bits w 35 30, [3])]
  | 0x29 => [(p5, [2, 3]), (p4, [2, 3])] ++ (if bits w 35 32 = 6 ∨ bits w 35 32 = 7 then [(p3, [2, 3])] else [])
  | 0x2A => [(p5, [3]), (p4, [3]), (p3, [3])]
  | 0x30 => [(p5, [2, 3])]
  | 0x31 => [(p5, if bits w 39 38 = 2 then [0] else [3]), (p4, [0])]
  | 0x32 => [(p5, [0])]
  | 0x3E => [(p5, [0, 5])]
  | _ => []

/-- The line fields of an instruction, each with the panel it counts in (R220). -/
def iLines (w : Nat) : List (Nat × Nat) :=
  let p5 := bits w 53 48
  let p4 := bits w 47 42
  match iOpc w with
  | 0x08 => (p5, bits w 23 12) :: (if bits w 41 40 = 0 then [] else [(bits w 39 34, bits w 11 0)])
  | 0x09 => [(p5, bits w 37 26)]
  | 0x0A => [(p5, bits w 41 30), (p4, bits w 29 18)]
  | 0x11 => [(p4, bits w 25 14), (p5, bits w 13 2)]
  | 0x18 | 0x19 => [(p5, bits w 47 36)]
  | 0x1A => [(p5, bits w 18 7)]
  | 0x3E => [(p5, bits w 47 36)]
  | _ => []

/-- Stated operand ranges that the word alone decides (R220, R223, R232, R241, R242 and the encoding tables). -/
def iRangesOk (w : Nat) : Bool :=
  let between (v lo hi : Nat) : Bool := decide (lo ≤ v ∧ v ≤ hi)
  match iOpc w with
  | 0x01 | 0x02 =>
    let m := bits w 19 16
    decide (bits w 29 26 + bits w 25 22 ≤ 15) && m != 0 &&
      (if bits w 21 20 = 0 then true else if bits w 21 20 = 1 then m == 3 || m == 0xC || m == 0xF else m == 0xF)
  | 0x08 => bits w 41 40 != 0 || (bits w 39 34 == 0 && bits w 11 0 == 0)
  | 0x0A => between (bits w 17 5) 1 4096
  | 0x18 | 0x19 => between (bits w 22 10) 1 4096
  | 0x1A => between (bits w 39 33) 1 64 && between (bits w 30 19) 1 4095
  | 0x28 => between (bits w 15 0) 1 65535 && (bits w 28 27 != 0 || bits w 24 22 == 0)
  | 0x29 => between (bits w 31 16) 1 65535 && (bits w 35 32 == 6 || bits w 35 32 == 7 || bits w 41 36 == 0)
  | 0x2A => between (bits w 35 29) 1 127
  | 0x30 => between (bits w 21 9) 1 4096
  | 0x38 => between (bits w 48 33) 1 65535
  | 0x39 => between (bits w 35 20) 1 65535
  | 0x3A => between (bits w 42 27) 1 65535
  | _ => true

/-- Reason 0x0C for one instruction (R135, R221, R232, R241): a split that does not divide k of its shape. -/
def iSplitOk (deflt w : Nat) : Bool :=
  let ok (shape log2m part : Nat) : Bool :=
    decide (part < 2 ^ log2m) && shapeK shape deflt % 2 ^ log2m == 0
  match iOpc w with
  | 0x1A =>
    let m := bits w 39 33
    bits w 41 40 != 1 || (2 ^ m.log2 == m && shapeK (bits w 32 31) deflt % m == 0)
  | 0x22 => ok (bits w 25 24) (bits w 23 21) (bits w 20 15)
  | 0x28 => ok (bits w 26 25) (bits w 24 22) (bits w 21 16)
  | _ => true

/-- The row group range, join factor and mask of a FIRE. -/
structure FireOps where
  qv : Nat
  blk : Nat
  g0 : Nat
  gn : Nat
  join : Nat
  mask : Nat
  deriving DecidableEq, Repr

/-- FIRE and FIREV operands (R223). -/
def fireOps (w : Nat) : FireOps :=
  { qv := bits w 53 48, blk := bits w 47 30, g0 := bits w 29 26, gn := bits w 25 22, join := 2 ^ bits w 21 20,
    mask := bits w 19 16 }

/-- The arrays a mask names. -/
def maskArrays (m : Nat) : List Nat := (List.range 4).filter fun a => m.testBit a

/-- The bank an array feeds (R118). -/
def bankOf (join a : Nat) : Nat := a / join * join

/-- The banks a FIRE feeds. -/
def fireBanks (f : FireOps) : List Nat := ((maskArrays f.mask).map (bankOf f.join)).dedup

end Sys2Proof.Machine
end

