-- ==== Sys2Proof/Machine/Loader.lean ====
section
/-! DEFINITION. The model image and the checks of the loader (09_step_programs R200 to R209, R215; 05_accumulation R115, R125,
R131, R135; 02_number_formats R31, R33, R49; 14_chimney R347, R349), and the placement of a context. -/

namespace Sys2Proof.Machine

/-! ## Reading the image -/

/-- Byte offset and count of a section (R200, R201); the first directory entry of that type. -/
def secOf (b : List Byte) (ty : Nat) : Option (Nat × Nat) :=
  ((List.range (field b 32 4)).find? fun i => field b (64 + 16 * i) 2 == ty).map fun i =>
    (field b (64 + 16 * i + 8) 8, field b (64 + 16 * i + 4) 4)

/-- Byte offset of a section, 0 when absent. -/
def secOff (b : List Byte) (ty : Nat) : Nat := (secOf b ty).elim 0 (·.1)

/-- Count of a section, 0 when absent. -/
def secCnt (b : List Byte) (ty : Nat) : Nat := (secOf b ty).elim 0 (·.2)

/-- Context tiles T. -/
def imgT (b : List Byte) : Nat := field b 6 2

/-- Entry size of a section type (R201). -/
def entrySize (ty : Nat) : Option Nat :=
  match ty with
  | 1 => some 4 | 2 => some 512 | 3 => some 16 | 4 => some 8 | 5 => some 32 | 6 => some 16 | 7 => some 1 | 8 => some 1
  | _ => none

/-- A panel descriptor of a tile (R113). -/
def panelAt (b : List Byte) (t p : Nat) : Panel :=
  let e := secOff b 2 + 512 * t + 8 * p
  { base := field b e 2, lines := field b (e + 2) 2, kind := field b (e + 4) 1, hostRw := bit (field b (e + 5) 1) 0 }

/-- Byte offset of instruction `i` of a tile's program. -/
def wordOff (b : List Byte) (t i : Nat) : Nat := secOff b 4 + 8 * (field b (secOff b 3 + 16 * t) 4 + i)

/-- Length of a tile's program. -/
def progLen (b : List Byte) (t : Nat) : Nat := field b (secOff b 3 + 16 * t + 4) 2

/-- A tile's instruction words. -/
def progOf (b : List Byte) (t : Nat) : List Nat := (List.range (progLen b t)).map fun i => field b (wordOff b t i) 8

/-- A tile's phase entries: STEP, APPEND, VERIFY; 0xFFFF for none. -/
def entriesOf (b : List Byte) (t : Nat) : List Nat := (List.range 3).map fun k => field b (secOff b 3 + 16 * t + 6 + 2 * k) 2

/-- The ARRAYS mask of a tile. -/
def tileMask (b : List Byte) (t : Nat) : Nat := field b (secOff b 1 + 4 * t + 2) 1

/-- Every tile with every program index and word. -/
def allWords (b : List Byte) : List (Nat × Nat × Nat) :=
  ((List.range (imgT b)).map fun t => (progOf b t).zipIdx.map fun e => (t, e.2, e.1)).flatten

/-- Byte offset and word of every instruction of CODE, whether or not a program names it. -/
def codeWords (b : List Byte) : List (Nat × Nat) :=
  (List.range (secCnt b 4)).map fun i => (secOff b 4 + 8 * i, field b (secOff b 4 + 8 * i) 8)

/-! ## Reasons 0x01 to 0x05 -/

/-- The header (R200, R287, R347); `len` is IMAGE_LEN, `member` the N and role a chimney image must match. -/
def headerBad (b : List Byte) (len : Nat) (member : Option (Nat × Nat)) : Option Nat :=
  let f (o n : Nat) : Nat := field b o n
  let rng (v lo hi : Nat) : Bool := decide (lo ≤ v ∧ v ≤ hi)
  firstBad
    [(0, f 0 4 == 0x474D4956), (4, f 4 1 == 0x10), (5, rng (f 5 1) 0 2), (6, rng (f 6 2) 1 5120), (8, rng (f 8 1) 1 64),
     (9, rng (f 9 1) 1 80), (10, f 10 1 == 0xFF || rng (f 10 1) 1 63), (11, f 11 1 == 0xFF || rng (f 11 1) 1 79),
     (12, rng (f 12 2) 1 1024), (14, rng (f 14 2) 1 1024), (16, rng (f 16 1) 1 8), (17, rng (f 17 1) 1 64),
     (18, f 18 2 == 0), (20, rng (f 20 4) 1 16777216), (24, rng (f 24 4) 0 100000), (28, rng (f 28 2) 1 512),
     (30, decide (f 30 2 < f 28 2)), (32, rng (f 32 4) 7 8), (36, f 36 4 == 0),
     (40, rng (f 40 8) 0 (2 ^ 40) && f 40 8 == len), (48, f 48 16 == 0),
     (28, decide (f 28 2 ≤ 1) || decide (member.map (·.1) = some (f 28 2))),
     (30, decide (f 28 2 ≤ 1) || decide (member.map (·.1) ≠ some (f 28 2)) || decide (member.map (·.2) = some (f 30 2)))]

/-- The directory (R201). -/
def dirBad (b : List Byte) : Option Nat :=
  let n := field b 32 4
  let total := field b 40 8
  let ent (i : Nat) : Nat × Nat × Nat := (field b (64 + 16 * i) 2, field b (64 + 16 * i + 4) 4, field b (64 + 16 * i + 8) 8)
  let span (i : Nat) : Nat × Nat := ((ent i).2.2, (ent i).2.2 + (ent i).2.1 * (entrySize (ent i).1).getD 0)
  let meets (x y : Nat × Nat) : Bool := decide (x.1 < x.2 ∧ y.1 < y.2 ∧ x.1 < y.2 ∧ y.1 < x.2)
  let checks (i : Nat) : List (Nat × Bool) :=
    let e := 64 + 16 * i
    let ty := (ent i).1
    [(e, (entrySize ty).isSome && (List.range i).all fun j => (ent j).1 != ty), (e + 2, field b (e + 2) 2 == 0),
     (e + 4, if ty ≤ 3 then (ent i).2.1 == imgT b else if ty = 4 then decide (1 ≤ (ent i).2.1 ∧ (ent i).2.1 ≤ 2 ^ 24) else true),
     (e + 8, (ent i).2.2 % 64 == 0 && decide ((span i).2 ≤ total) && !meets (span i) (0, 64 + 16 * n) &&
       (List.range i).all fun j => !meets (span i) (span j))]
  firstBad (((List.range n).map checks).flatten ++
    [(64, [1, 2, 3, 4, 5, 6, 7].all fun ty => (List.range n).any fun i => (ent i).1 == ty)])

/-- TILEMAP (R201). -/
def tilemapBad (b : List Byte) : Option Nat :=
  let base := secOff b 1
  let pos (i : Nat) : Nat × Nat := (field b (base + 4 * i) 1, field b (base + 4 * i + 1) 1)
  let checks (i : Nat) : List (Nat × Bool) :=
    let e := base + 4 * i
    [(e, decide ((pos i).1 < field b 8 1) && (List.range i).all fun j => decide (pos j ≠ pos i)),
     (e + 1, decide ((pos i).2 < field b 9 1)), (e + 2, decide (field b (e + 2) 1 < 16)), (e + 3, decide (field b (e + 3) 1 < 2))]
  let l := ((List.range (imgT b)).map checks).flatten
  (firstBad l).or
    (if (List.range (imgT b)).any fun i => bit (field b (base + 4 * i + 3) 1) 0 then none else some base)

/-- A PANEL_INIT record: its offset, tile, panel, start, length. -/
structure InitRec where
  off : Nat
  ctile : Nat
  panel : Nat
  start : Nat
  len : Nat
  deriving DecidableEq, Repr

/-- The PANEL_INIT records from an offset to the section's end (R205). -/
def initRecs (b : List Byte) (fin : Nat) : Nat → Nat → List InitRec
  | 0, _ => []
  | n + 1, r =>
    if r ≥ fin then []
    else
      let x : InitRec := { off := r, ctile := field b r 2, panel := field b (r + 2) 1, start := field b (r + 4) 4, len := field b (r + 8) 4 }
      x :: initRecs b fin n (r + 16 + (x.len + 15) / 16 * 16)

/-- The PANEL_INIT records of an image. -/
def allInits (b : List Byte) : List InitRec :=
  initRecs b (secOff b 8 + secCnt b 8) (secCnt b 8 / 16 + 1) (secOff b 8)

/-- Panels and PANEL_INIT (R115, R205). -/
def panelsBad (b : List Byte) : Option Nat :=
  let checks (t p : Nat) : List (Nat × Bool) :=
    let e := secOff b 2 + 512 * t + 8 * p
    let d := panelAt b t p
    let clash (q : Nat) : Bool :=
      let x := panelAt b t q
      decide (x.lines ≠ 0 ∧ d.base < x.base + x.lines ∧ x.base < d.base + d.lines)
    [(e, decide (d.base + d.lines ≤ 4096) && (d.lines == 0 || !(List.range p).any clash)), (e + 4, decide (d.kind ≤ 5)),
     (e + 5, decide (field b (e + 5) 1 < 2)), (e + 6, field b (e + 6) 2 == 0)]
  let inits (x : InitRec) : List (Nat × Bool) :=
    let d := panelAt b x.ctile x.panel
    [(x.off, decide (x.ctile < imgT b)), (x.off + 2, decide (x.panel < 64)), (x.off + 3, field b (x.off + 3) 1 == 0),
     (x.off + 4, decide (x.ctile < imgT b ∧ x.panel < 64 ∧ d.lines ≠ 0 ∧ x.start + x.len ≤ 32 * d.lines)),
     (x.off + 8, decide (1 ≤ x.len ∧ x.off + 16 + (x.len + 15) / 16 * 16 ≤ secOff b 8 + secCnt b 8)),
     (x.off + 12, field b (x.off + 12) 4 == 0)]
  firstBad (((List.range (imgT b)).map fun t => ((List.range 64).map (checks t)).flatten).flatten ++
    ((allInits b).map inits).flatten)

/-- PROGRAM (R202). -/
def programBad (b : List Byte) : Option Nat :=
  let checks (t : Nat) : List (Nat × Bool) :=
    let e := secOff b 3 + 16 * t
    let n := progLen b t
    [(e, decide (field b e 4 + n ≤ secCnt b 4)), (e + 4, decide (1 ≤ n ∧ n ≤ 2048)), (e + 12, field b (e + 12) 4 == 0)] ++
      (entriesOf b t).zipIdx.map fun x => (e + 6 + 2 * x.2, x.1 == 0xFFFF || decide (x.1 < n))
  (firstBad ((List.range (imgT b)).map checks).flatten).or
    (if (List.range (imgT b)).any fun t => (entriesOf b t).any (· != 0xFFFF) then none else some (secOff b 3))

/-! ## Reasons 0x06 to 0x08 -/

/-- A check of every instruction word of the image. -/
def wordsBad (b : List Byte) (ok : Nat → Bool) : Option Nat := firstBad ((codeWords b).map fun e => (e.1, ok e.2))

/-- The loops that enclose an index, innermost last: (LOOP index, LAST). -/
def enclosing (ws : List Nat) (i : Nat) : List (Nat × Nat) :=
  ws.zipIdx.filterMap fun e =>
    if iOpc e.1 = 0x3A ∧ e.2 < i ∧ i ≤ bits e.1 53 43 then some (e.2, bits e.1 53 43) else none

/-- Branches and loops of a program (R249): offending indices. -/
def controlBad (ws : List Nat) : List Nat :=
  let n := ws.length
  let loops := ws.zipIdx.filterMap fun e =>
    if iOpc e.1 = 0x3A then
      let last := bits e.1 53 43
      let encl := enclosing ws e.2
      if e.2 < last ∧ last < n ∧ encl.length < 4 ∧ encl.all (fun o => decide (last ≤ o.2)) = true then none else some e.2
    else none
  let brs := ws.zipIdx.filterMap fun e =>
    if iOpc e.1 = 0x3B then
      let t := bits e.1 53 43
      if t < n ∧ enclosing ws t = enclosing ws e.2 then none else some e.2
    else none
  let last := ws.getLastD 0
  let fin := if enclosing ws (n - 1) = [] ∧ (iOpc last = 0x3C ∨ (iOpc last = 0x3B ∧ bits last 42 40 = 0)) then [] else [n - 1]
  loops ++ brs ++ fin

/-- Reason 0x07. -/
def branchBad (b : List Byte) : Option Nat :=
  firstBad ((List.range (imgT b)).map fun t => (controlBad (progOf b t)).map fun i => (wordOff b t i, false)).flatten

/-! ## Paths through a program (R125) -/

/-- The program counter after an instruction, and the open loops: at the last instruction of a body the next iteration begins,
or the loop ends, and with it any that ends at the same place (10_instructions R248). -/
def nextPc (pc : Nat) : List (Nat × Nat × Nat) → Nat × List (Nat × Nat × Nat)
  | [] => (pc + 1, [])
  | (first, last, left) :: l =>
    if pc ≠ last then (pc + 1, (first, last, left) :: l)
    else if left > 1 then (first, (first, last, left - 1) :: l)
    else nextPc pc l

/-- A place on a path: a program index and the open loops. -/
abbrev Spot := Nat × List (Nat × Nat × Nat)

/-- The places control can reach from a place: both outcomes of a BR, every iteration of a LOOP as its COUNT gives, and from END the
entries `next`. A COUNT above `cap` counts as `cap`. -/
def spotNext (ws : List Nat) (next : List Nat) (cap : Nat) (p : Spot) : List Spot :=
  let w := ws[p.1]?.getD 0
  let out := if iOpc w = 0x3C then next.map fun e => (e, [])
    else if iOpc w = 0x3A then [(p.1 + 1, (p.1 + 1, bits w 53 43, min cap (bits w 42 27)) :: p.2)]
    else if iOpc w = 0x3B then (bits w 53 43, p.2) :: (if bits w 42 40 = 0 then [] else [nextPc p.1 p.2])
    else [nextPc p.1 p.2]
  out.filter fun q => decide (q.1 < ws.length)

/-- What may hold on arrival at each place, as two bit sets. -/
abbrev FlowMap := List (Spot × Nat × Nat)

/-- What may hold on arrival at a place joins what may hold there already; a place that has changed is walked again. -/
def flowJoin (v : Nat × Nat) (st : List Spot × FlowMap) (q : Spot) : List Spot × FlowMap :=
  match st.2.find? fun e => e.1 == q with
  | none => (q :: st.1, (q, v) :: st.2)
  | some e =>
    let y := (e.2.1 ||| v.1, e.2.2 ||| v.2)
    if y = e.2 then st else (q :: st.1, st.2.map fun x => if x.1 = q then (q, y) else x)

/-- Walk the places that have changed until none has. -/
def flowGo (ws next : List Nat) (cap : Nat) (step : Nat → Nat → Nat × Nat → Nat × Nat) : Nat → List Spot → FlowMap → FlowMap
  | 0, _, m => m
  | _ + 1, [], m => m
  | n + 1, p :: l, m =>
    let v := ((m.find? fun e => e.1 == p).map (·.2)).getD (0, 0)
    let st := (spotNext ws next cap p).foldl (flowJoin (step p.1 (ws[p.1]?.getD 0) v)) (l, m)
    flowGo ws next cap step n st.1 st.2

/-- What may hold on arrival, over every path from some entries (R125). Places change at most once for each bit of a set. -/
def flow (ws entries next : List Nat) (cap : Nat) (init : Nat × Nat) (step : Nat → Nat → Nat × Nat → Nat × Nat) : FlowMap :=
  let st := (entries.map fun e => ((e, []) : Spot)).foldl (flowJoin init) ([], [])
  flowGo ws next cap step ((ws.length + 1) * 2 ^ 64) st.1 st.2

/-- The indices at which a test fails on some path. Loops of more than four iterations are walked as four: the sets that R125 and R237
ask for do not change after a third. -/
def flowBad (ws : List Nat) (entries : List Nat) (init : Nat × Nat) (step : Nat → Nat → Nat × Nat → Nat × Nat)
    (bad : Nat → Nat × Nat → Bool) : List Nat :=
  ((flow ws entries entries 4 init step).filterMap fun e => if bad (ws[e.1.1]?.getD 0) e.2 then some e.1.1 else none).dedup

/-- A bit set minus another. -/
def bitDiff (a b : Nat) : Nat := a ^^^ (a &&& b)

/-- The entries of a tile that exist. -/
def liveEntries (b : List Byte) (t : Nat) : List Nat := (entriesOf b t).filter (· != 0xFFFF)

/-! ## Reason 0x09: operands -/

/-- The matrix of a context array (R204), by index in MATRIX. -/
def matrixOf (b : List Byte) (ca : Nat) : Option Nat :=
  (List.range (secCnt b 6)).find? fun i =>
    let e := secOff b 6 + 16 * i
    decide (field b (e + 8) 4 ≤ ca ∧ ca < field b (e + 8) 4 + field b (e + 12) 2)

/-- The initial bytes of a panel: 0, then the PANEL_INIT records in order (R205). -/
def initBytes (b : List Byte) (t p : Nat) : List Byte :=
  let d := panelAt b t p
  (allInits b).foldl (fun m x =>
    if x.ctile = t ∧ x.panel = p then m.take x.start ++ (b.drop (x.off + 16)).take x.len ++ m.drop (x.start + x.len) else m)
    (List.replicate (32 * d.lines) 0)

/-- The link table's bytes of a tile: panel 63 is RAW with at least 9 lines and starts "XLNK". -/
def linkTable (b : List Byte) (t : Nat) : Option (List Byte) :=
  let d := panelAt b t 63
  if d.kind = 0 ∧ d.lines ≥ 9 then
    let m := (initBytes b t 63).take 288
    if field m 0 4 = 0x4B4E4C58 then some m else none
  else none

/-- The link table of a tile of a chimney image; a local image has none (14_chimney R349, R350). -/
def chimTable (b : List Byte) (t : Nat) : Option (List Byte) := if field b 28 2 > 1 then linkTable b t else none

/-- The role and context tile a channel names in a link table. -/
def linkEntry (m : List Byte) (chan : Nat) : Nat × Nat := (field m (16 + 16 * (chan - 16)) 2, field m (18 + 16 * (chan - 16)) 2)

/-- The pairs a KVAPP names. -/
def kvappPairs (w : Nat) : List (Nat × Nat) := (List.range (bits w 21 12 + 1)).map fun k => (bits w 41 32, bits w 31 22 + k)

/-- The tile whose program holds the KVAPP of a pair (R234). -/
def pairOwner (b : List Byte) (layer head : Nat) : Option Nat :=
  ((allWords b).find? fun e => iOpc e.2.2 == 0x20 && (kvappPairs e.2.2).contains (layer, head)).map (·.1)

/-- One instruction's operands in its tile (R220, R223, R234, R350). -/
def operandOk (b : List Byte) (t i w : Nat) : Bool :=
  let panelOk (e : Nat × List Nat) : Bool :=
    let d := panelAt b t e.1
    d.lines != 0 && (e.2.contains d.kind || (iOpc w == 0x1A && d.kind == 4))
  let lineOk (e : Nat × Nat) : Bool := decide (e.2 < (panelAt b t e.1).lines)
  let ws := progOf b t
  (iPanels w).all panelOk && (iLines w).all lineOk &&
  (match iOpc w with
   | 0x01 | 0x02 =>
     let f := fireOps w
     (maskArrays f.mask).all (fun a => (tileMask b t).testBit a) &&
       (maskArrays f.mask).all (fun a => matrixOf b (4 * t + a) == matrixOf b (4 * t + bankOf f.join a))
   | 0x08 => (tileMask b t).testBit (bits w 33 32)
   | 0x09 => ws.any fun v => (iOpc v == 1 || iOpc v == 2) && (fireBanks (fireOps v)).contains (bits w 47 46)
   | 0x11 => (tileMask b t).testBit (bits w 35 34)
   | 0x18 | 0x19 =>
       (bits w 35 23 != t || decide (bits w 9 5 < 16) ||
         (match chimTable b t with | none => false | some m => (linkEntry m (bits w 9 5)).1 != 0xFFFF))
   | 0x20 =>
       -- no pair in two KVAPPs
       (kvappPairs w).all fun p =>
         ((allWords b).filter fun e => iOpc e.2.2 == 0x20 && (kvappPairs e.2.2).contains p &&
            decide (wordOff b e.1 e.2.1 < wordOff b t i ∨ (wordOff b e.1 e.2.1 = wordOff b t i ∧ e.1 < t))).isEmpty
   | 0x21 => pairOwner b (bits w 41 32) (bits w 31 22) == some t
   | _ => true)

/-- The entries of a tile's link table (R349). -/
def linkChecks (b : List Byte) (t : Nat) : List (Nat × Bool) :=
  match chimTable b t with
  | none => []
  | some m =>
    let role := field b 30 2
    let n := field b 28 2
    let base := secOff b 2 + 512 * t + 8 * 63
    (List.range 16).map fun k =>
      let r := field m (16 + 16 * k) 2
      -- the failing entry is reported at the panel's first PANEL_INIT byte that holds it, else at its descriptor
      let at0 := ((allInits b).reverse.find? fun x =>
        x.ctile == t && x.panel == 63 && decide (x.start ≤ 16 + 16 * k ∧ 16 + 16 * k < x.start + x.len)).elim base
          fun x => x.off + 16 + (16 + 16 * k - x.start)
      (at0, field m (20 + 16 * k) 12 == 0 && (r == 0xFFFF || (r != role && decide (r < n))))

/-- The operands that the header and the word alone decide, of an instruction of CODE (R220). -/
def freeOperandOk (b : List Byte) (w : Nat) : Bool :=
  let layers := field b 12 2
  let heads := field b 14 2
  iRangesOk w &&
  (match iOpc w with
   | 0x18 | 0x19 => decide (bits w 35 23 < imgT b)
   | 0x20 => decide (bits w 41 32 < layers ∧ bits w 31 22 + bits w 21 12 < heads)
   | 0x21 => decide (bits w 41 32 < layers ∧ bits w 31 22 < heads)
   | 0x22 => decide (bits w 47 38 < layers ∧ bits w 37 28 < heads)
   | 0x39 => decide (bits w 48 36 < imgT b)
   | _ => true)

/-- Reason 0x09. -/
def operandsBad (b : List Byte) : Option Nat :=
  firstBad ((codeWords b).map (fun e => (e.1, freeOperandOk b e.2)) ++
    (allWords b).map (fun e => (wordOff b e.1 e.2.1, operandOk b e.1 e.2.1 e.2.2)) ++ ((List.range (imgT b)).map (linkChecks b)).flatten)

/-! ## Reasons 0x0A to 0x0C -/

/-- The line bits of an accumulator operand. -/
def lineSet (panel line n : Nat) : Nat := (2 ^ n - 1) * 2 ^ (8192 * panel + line)

/-- ACC48 use over every path (R125): open windows, and windows that hold a PROMOTE. -/
def acc48Bad (b : List Byte) (t : Nat) : List Nat :=
  let ws := progOf b t
  let is48 (w : Nat) : Bool :=
    (iOpc w == 0x08 || iOpc w == 0x09) && (panelAt b t (bits w 53 48)).kind == 4 ||
      iOpc w == 0x11 && (panelAt b t (bits w 47 42)).kind == 4
  let set (w : Nat) : Nat :=
    match iOpc w with
    | 0x08 => lineSet (bits w 53 48) (bits w 23 12) (nqOf (bits w 31 24))
    | 0x09 => lineSet (bits w 53 48) (bits w 37 26) (nqOf (bits w 45 38))
    | _ => lineSet (bits w 47 42) (bits w 25 14) (nqOf (bits w 33 26))
  let step (_ w : Nat) (v : Nat × Nat) : Nat × Nat :=
    if !is48 w then v
    else match iOpc w with
      | 0x08 => (v.1 ||| set w, bitDiff v.2 (set w))
      | 0x09 => (v.1, v.2 ||| (v.1 &&& set w))
      | _ => (bitDiff v.1 (set w), bitDiff v.2 (set w))
  let reduces := ws.zipIdx.filterMap fun e =>
    if iOpc e.1 = 0x1A ∧ ((panelAt b t (bits e.1 53 48)).kind = 4 ∨ (panelAt b t (bits e.1 47 42)).kind = 4) then some e.2 else none
  reduces ++ flowBad ws (liveEntries b t) (2 ^ (8192 * 64) - 1, 0) step
    fun w v => is48 w && iOpc w == 0x09 && (v.2 &&& set w) != 0

/-- Reason 0x0A. -/
def acc48AllBad (b : List Byte) : Option Nat :=
  firstBad ((List.range (imgT b)).map fun t => (acc48Bad b t).map fun i => (wordOff b t i, false)).flatten

/-- A line of a panel of a context tile. -/
structure LineRef where
  tile : Nat
  panel : Nat
  line : Nat
  deriving DecidableEq, Repr

/-- What an instruction does to a line of a panel of its own tile: it writes it anew, adds to it, or leaves it. -/
inductive LineUse where
  | sets | adds | leaves
  deriving DecidableEq, Repr

/-- A line lies in a range of a panel. -/
def LineRef.within (r : LineRef) (panel first n : Nat) : Bool := r.panel == panel && decide (first ≤ r.line ∧ r.line < first + n)

/-- PRELOAD, RECV and MOVE write accumulator lines anew; REDUCE INT adds partials to them (R131). -/
def lineUse (r : LineRef) (w : Nat) : LineUse :=
  let sets : Bool := match iOpc w with
    | 0x08 => r.within (bits w 53 48) (bits w 23 12) (nqOf (bits w 31 24))
    | 0x19 => r.within (bits w 53 48) (bits w 47 36) (bits w 22 10)
    | 0x0A => r.within (bits w 53 48) (bits w 41 30) (bits w 17 5)
    | _ => false
  if sets then .sets
  else if iOpc w = 0x1A ∧ bits w 41 40 = 0 ∧ r.within (bits w 53 48) (bits w 18 7) (bits w 30 19) = true then .adds
  else .leaves

/-- The instructions whose effect on a line can stand when control reaches an index, over every path; bit `ws.length` says that it can be
as CTX_LOAD left it. -/
def reaching (b : List Byte) (r : LineRef) (at_ : Nat) : Nat :=
  let ws := progOf b r.tile
  let entries := liveEntries b r.tile
  let step (pc w : Nat) (v : Nat × Nat) : Nat × Nat :=
    match lineUse r w with | .sets => (2 ^ pc, 0) | .adds => (v.1 ||| 2 ^ pc, 0) | .leaves => v
  (flow ws entries entries 4 (2 ^ ws.length, 0) step).foldl (fun a e => if e.1.1 = at_ then a ||| e.2.1 else a) 0

/-- The places in issue order, from 0, that an instruction of a tile can have among those of a kind in an execution of a phase. -/
def ordinals (b : List Byte) (t phase at_ : Nat) (kind : Nat → Bool) : Nat :=
  match (entriesOf b t)[phase]? with
  | none => 0
  | some 0xFFFF => 0
  | some e =>
    let step (_ w : Nat) (v : Nat × Nat) : Nat × Nat := if kind w then (v.1 * 2 % 2 ^ 65536, 0) else v
    (flow (progOf b t) [e] [] 65536 (1, 0) step).foldl (fun a x => if x.1.1 = at_ then a ||| x.2.1 else a) 0

/-- The SENDs that a RECV of a tile can pair with, in issue order (R231): indices in the sending tile's program. -/
def matchingSends (b : List Byte) (t at_ : Nat) : List Nat :=
  let w := (progOf b t)[at_]?.getD 0
  let src := bits w 35 23
  let chan := bits w 9 5
  let recv (v : Nat) : Bool := iOpc v == 0x19 && bits v 35 23 == src && bits v 9 5 == chan
  let send (v : Nat) : Bool := iOpc v == 0x18 && bits v 35 23 == t && bits v 9 5 == chan
  ((progOf b src).zipIdx.filter fun v => send v.1 && (List.range 3).any fun ph =>
    (ordinals b t ph at_ recv &&& ordinals b src ph v.2 send) != 0).map (·.2)

/-- A partial of an output: its line, whether some path preloads it in BIAS or RESIDUAL mode, and whether every path preloads it. -/
structure Partial where
  ref : LineRef
  biased : Bool
  loaded : Bool
  deriving DecidableEq, Repr

/-- The partials of an output that a line holds when control reaches an index of its tile (R131 steps 1 to 3), to a depth; `self` is the
REDUCE that is about to add to it. -/
def partialsAt (b : List Byte) : Nat → LineRef → Nat → List Partial
  | 0, _, _ => []
  | n + 1, r, at_ =>
    let ws := progOf b r.tile
    let reach := reaching b r at_
    let evs := ws.zipIdx.filter fun e => reach.testBit e.2
    let loads := evs.filter fun e => iOpc e.1 == 0x08
    let recvs := evs.filter fun e => iOpc e.1 == 0x19
    let other := reach.testBit ws.length || evs.any fun e => iOpc e.1 == 0x0A
    let own : List Partial :=
      if loads = [] ∧ other = false then []
      else [{ ref := r, biased := loads.any fun e => bits e.1 41 40 != 0, loaded := !other }]
    let sent := recvs.flatMap fun e =>
      let src := bits e.1 35 23
      (matchingSends b r.tile e.2).flatMap fun k =>
        let v := (progOf b src)[k]?.getD 0
        partialsAt b n { tile := src, panel := bits v 53 48, line := bits v 47 36 + (r.line - bits e.1 47 36) } k
    let added := (evs.filter fun e => iOpc e.1 == 0x1A && e.2 != at_).flatMap fun e =>
      (List.range (bits e.1 39 33)).flatMap fun p =>
        partialsAt b n { tile := r.tile, panel := bits e.1 47 42, line := p * bits e.1 30 19 + (r.line - bits e.1 18 7) } e.2
    (own ++ sent ++ added).dedup

/-- The partials that a REDUCE INT joins in a line of its destination. -/
def reducePartials (b : List Byte) (t at_ w j : Nat) : List Partial :=
  let depth := 2 * imgT b + 2
  (partialsAt b depth { tile := t, panel := bits w 53 48, line := bits w 18 7 + j } at_ ++
    (List.range (bits w 39 33)).flatMap fun p =>
      partialsAt b depth { tile := t, panel := bits w 47 42, line := p * bits w 30 19 + j } at_).dedup

/-- Reason 0x0B (R131): of the partials of an output at most one can be preloaded in BIAS or RESIDUAL mode, and every other is preloaded
in ZERO mode; the paths of different tiles, and of different partials, are taken apart (DEDUCED, log entry 141). -/
def preloadBad (b : List Byte) : Option Nat :=
  firstBad ((allWords b).map fun e =>
    let w := e.2.2
    (wordOff b e.1 e.2.1, !(iOpc w == 0x1A && bits w 41 40 == 0) ||
      (List.range (bits w 30 19)).all fun j =>
        let ps := reducePartials b e.1 e.2.1 w j
        decide ((ps.filter (·.biased)).length ≤ 1) && ps.all fun p => p.loaded || p.biased))

/-- ATTN FULL on a stream that may be split (R237): offending indices. -/
def attnBad (b : List Byte) (t : Nat) : List Nat :=
  let ws := progOf b t
  let step (_ w : Nat) (v : Nat × Nat) : Nat × Nat :=
    match iOpc w with
    | 0x3C => (0, 0)
    | 0x22 =>
      let s := 2 ^ bits w 27 26
      (if bits w 23 21 = 0 then bitDiff v.1 s else v.1 ||| s, 0)
    | _ => v
  flowBad ws (liveEntries b t) (0, 0) step fun w v => iOpc w == 0x23 && bits w 39 38 == 0 && v.1.testBit (bits w 41 40)

/-- Reason 0x0C. -/
def splitsBad (b : List Byte) : Option Nat :=
  firstBad ((codeWords b).map (fun e => (e.1, iSplitOk (field b 5 1) e.2)) ++
    ((List.range (imgT b)).map fun t => (attnBad b t).map fun i => (wordOff b t i, false)).flatten)

/-! ## Reason 0x0D and the weight checks -/

/-- An ARRAYS entry: its offset, context array, format, offsets of bits and scales. -/
structure ArrayEnt where
  off : Nat
  carray : Nat
  format : Nat
  bits : Nat
  scales : Nat
  deriving DecidableEq, Repr

/-- The ARRAYS entries. -/
def arrayEnts (b : List Byte) : List ArrayEnt :=
  (List.range (secCnt b 5)).map fun i =>
    let e := secOff b 5 + 32 * i
    { off := e, carray := field b e 4, format := field b (e + 4) 1, bits := field b (e + 8) 8, scales := field b (e + 16) 8 }

/-- The 1,024 data bits of a row of an array (R203). -/
def imgRow (b : List Byte) (x : ArrayEnt) (r : Nat) : Nat := field b (secOff b 7 + x.bits + 128 * r) 128

/-- Byte offsets of an array's nonzero bits in rows beyond N or outputs beyond OUT (R204, R37). -/
def beyondBytes (b : List Byte) (x : ArrayEnt) (nrow nout : Nat) : List Nat :=
  let lim (h : Nat) : Nat := if x.format = 0 then min 512 (nout - 512 * h) else min 512 nout
  ((List.range 1024).map fun r =>
    let row := imgRow b x r
    (List.range 128).filterMap fun k =>
      let byte := bits row (8 * k + 7) (8 * k)
      let bad := (List.range 8).any fun j => byte.testBit j && (decide (nrow ≤ r) || decide (lim (k / 64) ≤ 8 * (k % 64) + j))
      if bad then some (secOff b 7 + x.bits + 128 * r + k) else none).flatten

/-- Reason 0x0D (R203, R204, R49). -/
def arraysBad (b : List Byte) : Option Nat :=
  let ents := arrayEnts b
  let wl := secCnt b 7
  let ent (ca : Nat) : Option ArrayEnt := ents.find? fun x => x.carray == ca
  let aChecks (e : ArrayEnt × Nat) : List (Nat × Bool) :=
    let x := e.1
    [(x.off, decide (x.carray < 4 * imgT b) && (ents.take e.2).all fun y => decide (y.carray < x.carray)),
     (x.off + 4, decide (x.format ≤ 2)), (x.off + 5, field b (x.off + 5) 3 == 0), (x.off + 8, decide (x.bits + 131072 ≤ wl)),
     (x.off + 16, decide (x.scales + (if x.format = 0 then 2048 else 1024) ≤ wl)), (x.off + 24, field b (x.off + 24) 8 == 0),
     (x.off, (matrixOf b x.carray).isSome)]
  let tChecks (t : Nat) : List (Nat × Bool) :=
    [(secOff b 1 + 4 * t + 2, (List.range 4).all fun a => (tileMask b t).testBit a == (ent (4 * t + a)).isSome)]
  let mChecks (i : Nat) : List (Nat × Bool) :=
    let e := secOff b 6 + 16 * i
    let n := field b e 4
    let out := field b (e + 4) 4
    let first := field b (e + 8) 4
    let cnt := field b (e + 12) 2
    let fmt := field b (e + 14) 1
    let w := if fmt = 0 then 1024 else 512
    let r := (n + 1023) / 1024
    let owned (ca : Nat) : Bool := (ent ca).elim false fun x => x.format == fmt && matrixOf b ca == some i
    [(e, decide (1 ≤ n ∧ n ≤ 2 ^ 24)), (e + 4, decide (1 ≤ out)),
     (e + 8, (List.range cnt).all fun k => owned (first + k)), (e + 12, cnt == r * ((out + w - 1) / w)),
     (e + 14, decide (fmt ≤ 2)), (e + 15, field b (e + 15) 1 == 0)] ++
    ((List.range cnt).map fun k =>
      match ent (first + k) with
      | none => []
      | some x => (beyondBytes b x (n - 1024 * (k % max r 1)) (out - w * (k / max r 1))).map fun o => (o, false)).flatten
  firstBad ((ents.zipIdx.map aChecks).flatten ++ ((List.range (imgT b)).map tChecks).flatten ++
    ((List.range (secCnt b 6)).map mChecks).flatten)

/-- R31: a T weight with both cells set; the lowest byte offset. -/
def illegalT (b : List Byte) : Option Nat :=
  firstBad ((arrayEnts b).map fun x =>
    if x.format != 2 then []
    else ((List.range 1024).map fun r =>
      let row := imgRow b x r
      (List.range 64).filterMap fun k =>
        if bits row (8 * k + 7) (8 * k) &&& bits row (512 + 8 * k + 7) (512 + 8 * k) = 0 then none
        else some (secOff b 7 + x.bits + 128 * r + k, false)).flatten).flatten

/-- The column scales of an array. -/
def imgScales (b : List Byte) (x : ArrayEnt) : List BF16 :=
  (List.range (outputsOf x.format)).map fun c => BitVec.ofNat 16 (field b (secOff b 7 + x.scales + 2 * c) 2)

/-- R33: a column scale that is an infinity or a NaN. -/
def badScale (b : List Byte) : Option Nat :=
  firstBad ((arrayEnts b).map fun x =>
    (imgScales b x).zipIdx.map fun e => (secOff b 7 + x.scales + 2 * e.2, isFin (ofBf e.1))).flatten

/-! ## The whole check (R208) -/

/-- PROGRAM_REJECTED with its reason and byte offset (R208). -/
def rejected (reason : Nat) (o : Option Nat) : Option (Nat × Nat) :=
  match o with | none => none | some off => some (stRejected, off % 2 ^ 40 + reason * 2 ^ 40)

/-- BAD_PARAM in the payload form of IMAGE_ADDR, at packet offset `addr` (12_graec_commands R282). -/
def badPayload (addr : Nat) (o : Option Nat) : Option (Nat × Nat) :=
  match o with | none => none | some off => some (stBadParam, payloadOff addr off)

/-- The first outcome of a list of checks in order. -/
def firstSome {α : Type} : List (Option α) → Option α
  | [] => none
  | some x :: _ => some x
  | none :: t => firstSome t

/-- The outcome of CTX_LOAD's checks: a status with RESULT0, or none; `addr` is the packet offset of IMAGE_ADDR. -/
def imageCheck (b : List Byte) (len hdim : Nat) (member : Option (Nat × Nat)) (hasChimney : Bool) (addr : Nat) : Option (Nat × Nat) :=
  firstSome
    [rejected 0x01 (headerBad b len member),
     if field b 28 2 > 1 ∧ hasChimney = true then some (stNotPermitted, 0) else none,
     if field b 16 1 = hdim then none else badPayload addr (some 16),
     rejected 0x02 (dirBad b), rejected 0x03 (tilemapBad b), rejected 0x04 (panelsBad b), rejected 0x05 (programBad b),
     rejected 0x06 (wordsBad b iEncodingOk), rejected 0x07 (branchBad b), rejected 0x08 (wordsBad b iVOk),
     rejected 0x09 (operandsBad b), rejected 0x0A (acc48AllBad b), rejected 0x0B (preloadBad b),
     rejected 0x0C (splitsBad b), rejected 0x0D (arraysBad b), badPayload addr (illegalT b), badPayload addr (badScale b)]

/-! ## Placement (R206, R207) -/

/-- An origin at which every placed tile is free and the seams fall where the image wants them. -/
def originOk (s : State) (b : List Byte) (y0 x0 : Nat) : Bool :=
  let h := field b 8 1
  let w := field b 9 1
  let sy := field b 10 1
  let sx := field b 11 1
  let seam (mark start size line : Nat) : Bool :=
    if mark = 0xFF then decide (start + size ≤ line ∨ line ≤ start) else start + mark == line
  decide (y0 + h ≤ 64 ∧ x0 + w ≤ 80) && seam sx x0 w 40 && seam sy y0 h 32 &&
    (List.range (imgT b)).all fun t =>
      (s.tile ((y0 + field b (secOff b 1 + 4 * t) 1) * 80 + x0 + field b (secOff b 1 + 4 * t + 1) 1)).ctx.isNone

/-- The valid origin with the lowest tile number. -/
def autoOrigin (s : State) (b : List Byte) : Option Nat := (List.range 5120).find? fun n => originOk s b (n / 80) (n % 80)

/-! ## Loading (R203, R205, R209) -/

/-- A context tile of an image placed at an origin. -/
def ctileOfImg (b : List Byte) (origin t : Nat) : CTile :=
  { tile := origin + field b (secOff b 1 + 4 * t) 1 * 80 + field b (secOff b 1 + 4 * t + 1) 1, arrays := tileMask b t,
    entry := bit (field b (secOff b 1 + 4 * t + 3) 1) 0, panels := (List.range 64).map (panelAt b t),
    code := (progOf b t).map (BitVec.ofNat 64), entryStep := (entriesOf b t)[0]?.getD 0xFFFF,
    entryAppend := (entriesOf b t)[1]?.getD 0xFFFF, entryVerify := (entriesOf b t)[2]?.getD 0xFFFF }

/-- Delta engines (06_flue_path R138): the arrays of each die in ascending array number, dealt in turn. -/
def engineOf (arrays : List Nat) (a : Nat) : Nat :=
  let d := dieOf (a / 4)
  32 * d + (arrays.filter fun x => decide (dieOf (x / 4) = d ∧ x < a)).length % 32

/-- PROG_DIGEST (15_determinism R376). -/
def imgDigest (b : List Byte) : Nat :=
  crc32c ((b.drop (secOff b 3)).take (16 * secCnt b 3)) * 2 ^ 32 + crc32c ((b.drop (secOff b 4)).take (8 * secCnt b 4))

/-- The image as the device holds it. -/
def imageOf (b : List Byte) (origin : Nat) : Image :=
  let tiles := (List.range (imgT b)).map (ctileOfImg b origin)
  let phys (ca : Nat) : Nat := 4 * ((tiles[ca / 4]?).elim 0 (·.tile)) + ca % 4
  let used := (arrayEnts b).map fun x => phys x.carray
  { defShape := field b 5 1, layers := field b 12 2, kvHeads := field b 14 2, gqa := field b 17 1, vocab := field b 20 4,
    execLimit := if field b 24 4 = 0 then 1000 else field b 24 4, chimneyN := field b 28 2, chimneyRole := field b 30 2,
    varies := (codeWords b).any fun e => iV e.2, tiles := tiles,
    arrays := (arrayEnts b).map fun x =>
      { carray := x.carray, format := x.format, scales := imgScales b x, engine := engineOf used (phys x.carray) },
    digest := imgDigest b }

/-- The cells of every array of the placed tiles: used arrays hold their weights, the others 0 (R203). -/
def loadCells (s : State) (b : List Byte) (i : Image) : State :=
  let placed := i.tiles.map (·.tile)
  let s := { s with
    cells := s.cells.filter fun e => !placed.contains (e.1 / 1024 / 4),
    gold := s.gold.filter fun e => !placed.contains (e.1 / 1024 / 4) }
  (arrayEnts b).foldl (fun s x =>
    (List.range 1024).foldl (fun s r =>
      setGold (setRow s (physArray i x.carray) r (mkRow (imgRow b x r))) (physArray i x.carray) r (imgRow b x r)) s) s

/-- Tile memory after CTX_LOAD: every panel byte 0, then PANEL_INIT (R205). The bytes of an ACC48 panel stand as they come, bits [63:48] of
an element too where they differ from bit 47, of which 05_accumulation R124 says nothing (DESIGN CHOICE, log entry 130). -/
def initMem (b : List Byte) (t : Nat) (m : Mem) : Mem :=
  let clear := (List.range 64).foldl (fun m p =>
    let d := panelAt b t p
    m.filter fun (e : Nat × Byte) => !(decide (32 * d.base ≤ e.1 ∧ e.1 < 32 * (d.base + d.lines)))) m
  (allInits b).foldl (fun m x =>
    if x.ctile = t then Mem.write m (32 * (panelAt b t x.panel).base + x.start) ((b.drop (x.off + 16)).take x.len) else m) clear

/-- The port map of a tile (14_chimney R349). -/
def portMapOf (b : List Byte) (t : Nat) : SMap (Nat × Nat) :=
  match chimTable b t with
  | none => []
  | some m => (List.range 16).filterMap fun k =>
      let e := linkEntry m (16 + k)
      if e.1 = 0xFFFF then none else some (16 + k, e)

/-- A context loaded at an origin: tiles, panels, weights and golden copy (R203, R205, R319). -/
def loadImage (s : State) (ctx : Nat) (b : List Byte) (origin : Nat) : State :=
  let i := imageOf b origin
  let s := loadCells s b i
  let s := i.tiles.zipIdx.foldl (fun s e =>
    s.updTile e.1.tile fun t =>
      { Tile.reset with
        ctx := some (ctx, e.2), mem := initMem b e.2 t.mem, portMap := portMapOf b e.2, execs := t.execs,
        gateStalls := t.gateStalls, preloadClamps := t.preloadClamps, quantClamps := t.quantClamps }) s
  s.updCtx ctx fun c => { c with
    image := some i, stepNs := Config.stepNs b.length i.digest, dispatched := 0, inflight := [],
    chimney := decide (i.chimneyN > 1), ready := false }

end Sys2Proof.Machine
end

