-- ==== Sys2Proof/Machine/Link.lean ====
section
/-! DEFINITION. Skavel frames and how a device sends one (14_chimney R333, R334, R337, R340, R342, R365). -/

namespace Sys2Proof.Machine

/-! ## Frames (R340) -/

/-- A frame's bytes with its CRC. -/
def Frame.bytes (f : Frame) : List Byte :=
  let b := natLe 1 f.ftype ++ natLe 1 f.flags ++ natLe 2 f.payload.length ++ natLe 2 f.dst ++ natLe 2 f.src ++
    natLe 2 f.lseq ++ natLe 2 f.lack ++ natLe 4 f.step ++ f.payload
  b ++ natLe 4 (crc32c b)

/-- A frame from its header and payload bytes. -/
def frameOf (b : List Byte) : Frame :=
  { ftype := field b 0 1, flags := field b 1 1, dst := field b 4 2, src := field b 6 2, lseq := field b 8 2,
    lack := field b 10 2, step := field b 12 4, payload := (b.drop 16).take (field b 2 2) }

/-- A received byte string is a whole frame with a good CRC. -/
def frameCrcOk (b : List Byte) : Bool :=
  decide (b.length = 20 + field b 2 2 ∧ field b 2 2 ≤ 1024) && field b (b.length - 4) 4 == crc32c (b.take (b.length - 4))

/-- The frame types of R341. -/
def frameTypeOk (ty : Nat) : Bool :=
  [0x01, 0x02, 0x03, 0x10, 0x11, 0x12, 0x13, 0x14, 0x15, 0x16, 0x20, 0x21, 0x30, 0x31, 0x32, 0x40, 0x41, 0x42, 0x50].contains ty

/-- The reserved bytes of a payload are 0 (R341): of START with its execution record (09_step_programs R211), of DONE, of DATA. -/
def payloadOk (ty : Nat) (b : List Byte) : Bool :=
  match ty with
  | 0x10 => field b 2 6 == 0 && decide (field b 29 1 < 4) && field b 30 10 == 0
  | 0x11 => field b 2 2 == 0
  | 0x20 => field b 3 1 == 0
  | _ => true

/-- A received byte string is a frame that R340 and R341 allow. -/
def frameOk (b : List Byte) : Bool :=
  frameCrcOk b && frameTypeOk (field b 0 1) && decide (field b 1 1 < 16) && payloadOk (field b 0 1) (frameOf b).payload

/-! ## Ethernet frames of switched mode (R332, R333) -/

/-- The bytes of a MAC address in the order of the wire (DEDUCED, log entry 143). -/
def macBytes (m : Nat) : List Byte := (natLe 6 m).reverse

/-- An untagged Ethernet frame around a Skavel frame: MACs, EtherType 0x88B5, padding to 46 bytes, FCS. -/
def etherOf (dst src : Nat) (b : List Byte) : List Byte :=
  let x := macBytes dst ++ macBytes src ++ [0x88#8, 0xB5#8] ++ b ++ natLe (46 - b.length) 0
  x ++ natLe 4 (crc32 x)

/-- The Skavel frame in an Ethernet frame; another EtherType, a VLAN tag or a bad FCS leaves none. -/
def etherIn (b : List Byte) : Option (List Byte) :=
  let x := b.take (b.length - 4)
  if b.length < 64 ∨ (x.drop 12).take 2 ≠ [0x88#8, 0xB5#8] ∨ field b (b.length - 4) 4 ≠ crc32 x then none
  else some ((x.drop 14).take (20 + field (x.drop 14) 2 2))

/-- The Skavel frame that a port has received: in direct mode the bytes themselves. -/
def frameIn (p : Port) (b : List Byte) : Option (List Byte) := if p.mode = 1 then some b else etherIn b

/-- The MAC a switched port sends from (R333). -/
def ownMac (s : State) (p : Nat) : Nat := s.chim.mac / 8 * 8 + p

/-- The MAC a frame of a link goes to: broadcast for an ANNOUNCE, else what the port has learned of the same port of the peer; of a peer
that has not announced itself nothing is stated (free; log entry 143). -/
def peerMac (s : State) (l : LinkId) (ty : Nat) : Nat :=
  if ty = 0x03 then 2 ^ 48 - 1
  else match s.chim.macs.find? fun e => e.1 == (l.port, l.peer, l.port) with
    | some e => e.2
    | none => s.openAt (2 ^ 50 + 2 ^ 16 * l.port + l.peer) % 2 ^ 48

/-- What a frame is on the wire of its port (R332). -/
def wireOf (s : State) (l : LinkId) (f : Frame) : List Byte :=
  if (s.chim.ports[l.port]?).elim true fun p => p.mode == 1 then f.bytes else etherOf (peerMac s l f.ftype) (ownMac s l.port) f.bytes

/-! ## Ports and routes -/

/-- The device is a member of a chimney or a spare. -/
def inChimney (s : State) : Bool := s.chim.id != 0

/-- A member with a role. -/
def isMember (s : State) : Bool := inChimney s && s.chim.role != 0xFFFF

/-- This device is the crown. -/
def isCrown (s : State) : Bool := isMember s && s.chim.crown == s.chim.role

/-- The ports in switched mode, AUX among them, in ascending order (R333, R336). -/
def switchedPorts (s : State) : List Nat :=
  (List.range 8).filter fun p => (s.chim.ports[p]?).elim false fun x => x.mode == 2 || x.mode == 3

/-- A port is up. -/
def portUp (s : State) (p : Nat) : Bool := (s.chim.ports[p]?).elim false fun x => decide (x.st = .up)

/-- The link a frame for a role leaves by in switched mode (R333). -/
def switchedLink (s : State) (role : Nat) : Option LinkId :=
  let ps := switchedPorts s
  (ps[role % max 1 ps.length]?).map fun p => { port := p, peer := role }

/-- The dimensions in use with the ports that face + and − (R334). -/
def dims (s : State) : List (Nat × List Nat × List Nat) :=
  match s.chim.topo with
  | 0 => [(s.chim.dx, [0, 1], [2, 3])]
  | 1 => [(s.chim.dx, [0, 1], [2, 3]), (s.chim.dy, [4], [5])]
  | 2 => [(s.chim.dx, [0], [1]), (s.chim.dy, [2], [3]), (s.chim.dz, [4], [5])]
  | _ => []

/-- The coordinates of a role (R334). -/
def coords (s : State) (role : Nat) : List Nat :=
  [role % max 1 s.chim.dx, role / max 1 s.chim.dx % max 1 s.chim.dy, role / max 1 (s.chim.dx * s.chim.dy)]

/-- The role at coordinates. -/
def roleAt (s : State) (xs : List Nat) : Nat :=
  xs[0]?.getD 0 + s.chim.dx * (xs[1]?.getD 0 + s.chim.dy * xs[2]?.getD 0)

/-- The neighbour one step along a dimension. -/
def neighbour (s : State) (role k : Nat) (plus : Bool) : Nat :=
  let d := ((dims s)[k]?).elim 1 (·.1)
  roleAt s (modAt (coords s role) k fun x => if plus then (x + 1) % d else (x + d - 1) % d)

/-- The ports that face one way along a dimension. -/
def facing (s : State) (k : Nat) (plus : Bool) : List Nat :=
  match (dims s)[k]? with | none => [] | some d => if plus then d.2.1 else d.2.2

/-- The dimension and direction a port faces. -/
def portFaces (s : State) (p : Nat) : Option (Nat × Bool) :=
  (List.range 3).findSome? fun k =>
    if (facing s k true).contains p then some (k, true) else if (facing s k false).contains p then some (k, false) else none

/-- The first dimension in which two roles differ, with the shorter way round (a tie goes +) (R337). -/
def firstDim (s : State) (here dst : Nat) : Option (Nat × Bool) :=
  (List.range 3).findSome? fun k =>
    let a := (coords s here)[k]?.getD 0
    let b := (coords s dst)[k]?.getD 0
    let d : Nat := ((dims s)[k]?).elim 1 (·.1)
    if a = b then none else some (k, decide (2 * ((b + d - a) % d) ≤ d))

/-- One of the ports that face a way and are up; when two are, the manual does not say which (log entry 21). -/
def pickPort (s : State) (k : Nat) (plus : Bool) : Option Nat × State :=
  match (facing s k plus).filter (portUp s) with
  | [] => (none, s)
  | [p] => (some p, s)
  | l => let (n, s) := s.fresh; (l[n % l.length]?, s)

/-- The way out towards a neighbour: its port, or AUX when the neighbour's role is adopted or this device is (R365). -/
def wayOut (s : State) (k : Nat) (plus : Bool) : Option LinkId × State :=
  let nb := neighbour s s.chim.role k plus
  if s.chim.viaAux.contains nb || s.chim.viaAux.contains s.chim.role then (switchedLink s nb, s)
  else match pickPort s k plus with
    | (none, s) => (none, s)
    | (some p, s) => (some { port := p, peer := 0xFFFF }, s)

/-- The link a frame leaves by and its flags (R337): dimension order, the shorter way, the other way round with DETOUR set when
the port is down; `came` is the direction a detouring frame is travelling in. -/
def route (s : State) (dst flags : Nat) (came : Option (Nat × Bool)) : Option LinkId × Nat × State :=
  if s.chim.topo = 3 ∨ s.chim.role = 0xFFFF then (switchedLink s dst, flags, s)
  else match firstDim s s.chim.role dst with
    | none => (none, flags, s)
    | some (k, short) =>
      let det := bit flags 2
      let keep := det && (came.elim false fun c => c.1 == k)
      let dir := if keep then came.elim short (·.2) else short
      let clean := if det && !keep then flags - 4 else flags
      match wayOut s k dir with
      | (some l, s) => (some l, clean, s)
      | (none, s) =>
        if keep then (none, clean, s)
        else match wayOut s k (!dir) with
          | (none, s) => (none, clean, s)
          | (some l, s) => (some l, if bit clean 2 then clean else clean + 4, s)

/-- The direction a frame travels in that has come by a link: away from the port it came by, or, over AUX, from the neighbour that stands
for that port (R337, R365). -/
def cameBy (s : State) (l : LinkId) : Option (Nat × Bool) :=
  match portFaces s l.port with
  | some k => some (k.1, !k.2)
  | none => (((List.range (dims s).length).flatMap fun k => [(k, true), (k, false)]).find? fun d => neighbour s l.peer d.1 d.2 == s.chim.role)

/-! ## The link layer's sending side (R342) -/

/-- A link that has just come up. -/
def Lnk.reset : Lnk := { nextSeq := 0, replay := [], waiting := [], expect := 0, lastLack := 0xFFFF, ver := 0, down := false }

/-- The state of a link. -/
def lnkOf (s : State) (l : LinkId) : Lnk := ((s.chim.links.find? fun e => e.1 == l).map (·.2)).getD Lnk.reset

def setLnk (s : State) (l : LinkId) (x : Lnk) : State :=
  s.updChim fun c => { c with
    links := if c.links.any fun e => e.1 == l then c.links.map fun e => if e.1 = l then (l, x) else e else c.links ++ [(l, x)] }

def updPort (s : State) (p : Nat) (f : Port → Port) : State := s.updChim fun c => { c with ports := modAt c.ports p f }

/-- Put a frame on the wire. -/
def emit (s : State) (l : LinkId) (f : Frame) : State :=
  (updPort s l.port fun p => { p with tx := sat 32 (p.tx + 1) }).updChim fun c => { c with out := c.out ++ [(l.port, wireOf s l f)] }

/-- Send a new frame on a link: numbered, with the LACK in force, and kept until covered; behind 256 unacknowledged frames it
waits. A frame for a port or a link that is not up is lost (R358). -/
def sendOn (s : State) (l : LinkId) (f : Frame) : State :=
  let x := lnkOf s l
  if !portUp s l.port || x.down then s
  else if x.replay.length ≥ 256 ∨ x.waiting ≠ [] then setLnk s l { x with waiting := x.waiting ++ [f] }
  else
    let g := { f with lseq := x.nextSeq, lack := (x.expect + 65535) % 65536 }
    emit (setLnk s l { x with nextSeq := (x.nextSeq + 1) % 65536, replay := x.replay ++ [(g, 0, s.dev.now)] }) l g

/-- Frames that waited go out as room appears. -/
def sendWaiting (s : State) (l : LinkId) : State :=
  let x := lnkOf s l
  let n := 256 - x.replay.length
  let s := (x.waiting.take n).foldl (fun s f => sendOn s l f) (setLnk s l { x with waiting := [] })
  setLnk s l { lnkOf s l with waiting := x.waiting.drop n }

/-- Mirror traffic and failover transfers go over AUX where it is listed, and whatever a spare without a role sends (R336). Frames for an
adopted role keep the direct route as far as a port that faces it (R365). -/
def overAux (s : State) (ty : Nat) : Bool :=
  s.chim.topo != 3 && !(switchedPorts s).isEmpty && ((0x40 ≤ ty && ty ≤ 0x42) || ty == 0x50 || s.chim.role == 0xFFFF)

/-- Send a frame to a role. -/
def sendFrame (s : State) (ty dst step : Nat) (payload : List Byte) : State :=
  if !inChimney s || s.dev.st == .failed then s
  else
    let f : Frame := { ftype := ty, flags := 0, dst := dst, src := s.chim.role, lseq := 0, lack := 0, step := step, payload := payload }
    if overAux s ty then
      match switchedLink s dst with | none => s | some l => sendOn s l f
    else
      match route s dst 0 none with
      | (none, _, s) => s
      | (some l, fl, s) => sendOn s l { f with flags := fl }

/-- The pieces of a long payload: offset and bytes, at most 512 of them in a frame of LEN 1,024 (R340). -/
def piecesOf (n : Nat) : Nat → List Byte → List (Nat × List Byte)
  | 0, _ => []
  | k + 1, l => (n, l.take 512) :: (if l.length ≤ 512 then [] else piecesOf (n + 512) k (l.drop 512))

/-- Send bytes under a heading in as many frames as they take: heading, length of the heading, offset, length in all, bytes
(DESIGN CHOICE, log entry 24). -/
def sendLong (s : State) (ty dst step : Nat) (head : List Nat) (bytes : List Byte) : State :=
  (piecesOf 0 (bytes.length + 1) bytes).foldl (fun s p =>
    sendFrame s ty dst step (Config.layoutOf ty (head.length :: head ++ [p.1, bytes.length] ++ p.2.map (·.toNat)))) s

/-- A piece of a long payload has arrived: once all of them have, the heading and the bytes. -/
def takePiece (s : State) (f : Frame) : Option (List Nat × List Byte) × State :=
  let v := Config.fieldsOf f.ftype f.payload
  let k := v.headD 0
  let head := (v.drop 1).take k
  let total := v[k + 2]?.getD 0
  let mine (e : Parts) : Bool := e.ty == f.ftype && e.src == f.src && e.head == head
  let had := ((s.chim.parts.find? mine).map (·.got)).getD []
  let now := (v[k + 1]?.getD 0, (v.drop (k + 3)).map (BitVec.ofNat 8)) :: had.filter fun e => e.1 != v[k + 1]?.getD 0
  let rest (l : List (Nat × List Byte)) : State :=
    s.updChim fun c => { c with parts := (if l = [] then [] else [{ ty := f.ftype, src := f.src, head := head, got := l }]) ++ c.parts.filter fun e => !mine e }
  let all := now.mergeSort fun a b => decide (a.1 ≤ b.1)
  if (all.map (·.2.length)).sum < total then (none, rest now) else (some (head, (all.map (·.2)).flatten), rest [])

/-- Every role of the chimney but this one. -/
def otherRoles (s : State) : List Nat := (List.range s.chim.n).filter fun r => r != s.chim.role

/-! ## The control tree (R352) -/

/-- The rank of a role. -/
def rankOf (s : State) (role : Nat) : Nat := (role + s.chim.n - s.chim.crown) % max 1 s.chim.n

/-- The role of a rank. -/
def roleOfRank (s : State) (k : Nat) : Nat := (k + s.chim.crown) % max 1 s.chim.n

/-- A role is fenced (R362). -/
def fencedRole (s : State) (role : Nat) : Bool := (look s.chim.fenced role).isSome

/-- The roles under a rank; a fenced role's place is taken by those under it (R363; DEDUCED, log entry 41). -/
def kidsOf (s : State) : Nat → Nat → List Nat
  | 0, _ => []
  | n + 1, k =>
    ((List.range 8).map fun i => 8 * k + 1 + i).flatMap fun j =>
      if j < s.chim.n then (if fencedRole s (roleOfRank s j) then kidsOf s n j else [roleOfRank s j]) else []

/-- The children of this device in the control tree. -/
def treeChildren (s : State) : List Nat := kidsOf s 5 (rankOf s s.chim.role)

/-- The role above a rank. -/
def upOf (s : State) : Nat → Nat → Nat
  | 0, k => roleOfRank s ((k - 1) / 8)
  | n + 1, k =>
    let p := (k - 1) / 8
    if p ≠ 0 ∧ fencedRole s (roleOfRank s p) = true then upOf s n p else roleOfRank s p

/-- The parent of this device. -/
def treeParent (s : State) : Nat := upOf s 5 (rankOf s s.chim.role)

/-- The roles of the subtree under a role, itself included. -/
def subtree (s : State) (role : Nat) : List Nat :=
  let k := rankOf s role
  ((List.range s.chim.n).filter fun j =>
    (List.range 5).any fun d => (List.range d).foldl (fun a _ => (a - 1) / 8) j == k && decide (k ≤ j)).map (roleOfRank s)

/-- Send a frame to every child. -/
def sendDown (s : State) (ty step : Nat) (payload : List Byte) : State :=
  (treeChildren s).foldl (fun s r => sendFrame s ty r step payload) s

/-! ## Execution records as bytes (09_step_programs R211) -/

def ExecRec.bytes (x : ExecRec) : List Byte :=
  natLe 4 x.req ++ natLe 2 x.variant ++ natLe 1 x.cls ++ natLe 1 x.phase ++ natLe 4 x.pos ++ natLe 4 x.step ++
    natLe 4 x.token ++ natLe 1 x.cand ++ natLe 1 (b2n x.first + 2 * b2n x.last) ++ natLe 10 0

def execRecOf (b : List Byte) : ExecRec :=
  { req := field b 0 4, variant := field b 4 2, cls := field b 6 1, phase := field b 7 1, pos := field b 8 4,
    step := field b 12 4, token := field b 16 4, cand := field b 20 1, first := bit (field b 21 1) 0,
    last := bit (field b 21 1) 1 }

end Sys2Proof.Machine
end

