-- ==== Sys2Proof/Machine/Kv.lean ====
section
/-! DEFINITION. KV pages, page tables, staging and scratch: the write path, quota and pressure eviction, spill, the pool and
page-table chunks (07_attention R152 to R176; 02_number_formats R53 to R55; 08_tables_tiers R189, R197). -/

namespace Sys2Proof.Machine

/-! ## Contexts and requests -/

/-- The head dimension d_h of a context. -/
def dhOf (s : State) (ctx : Nat) : Nat := 32 * (look s.ctxs ctx).elim 0 (·.hdim)

/-- Layers and KV heads of a context's image. -/
def ctxShape (s : State) (ctx : Nat) : Nat × Nat :=
  match look s.ctxs ctx with
  | none => (0, 0)
  | some c => c.image.elim (0, 0) fun i => (i.layers, i.kvHeads)

/-- The number of pairs of layer and KV head. -/
def pairCount (s : State) (ctx : Nat) : Nat := (ctxShape s ctx).1 * (ctxShape s ctx).2

/-- The pair of a layer and KV head. -/
def pairOf (s : State) (ctx layer head : Nat) : Nat := layer * (ctxShape s ctx).2 + head

/-- A request slot's record. -/
def reqAt (s : State) (slot : Nat) : Option Req := look s.reqs slot

/-- A page table of a request. -/
def tableOf (r : Req) (pair : Nat) : SMap Entry := get [] r.tables pair

/-- The entry of a page. -/
def entryOf (r : Req) (pair p : Nat) : Option Entry := ((tableOf r pair).find? fun e => e.1 == p).map (·.2)

/-- Write an entry. -/
def putEntry (r : Req) (pair p : Nat) (e : Entry) : Req :=
  { r with tables := put [] r.tables pair (insert p e (erase (tableOf r pair) p)) }

/-- Change an entry of a request. -/
def updEntry (s : State) (slot pair p : Nat) (f : Entry → Entry) : State :=
  s.updReq slot fun r => match entryOf r pair p with | none => r | some e => putEntry r pair p (f e)

/-- Every request entry that points to a page: slot, pair, page number. -/
def holders (s : State) (id : Nat) : List (Nat × Nat × Nat) :=
  (s.reqs.map fun e =>
    match e.2 with
    | none => []
    | some r => (r.tables.map fun t =>
        t.2.filterMap fun x => if x.2.slot = id ∧ x.2.ash = false then some (e.1, t.1, x.1) else none).flatten).flatten

/-- The decay epoch of a request's current step (R166). -/
def epochOf (r : Req) : Nat := r.nextStep / 64

/-- A score after decay to the current epoch. -/
def decayed (r : Req) (e : Entry) : Nat := e.score / 2 ^ min 32 (epochOf r - e.epoch)

/-! ## The pool (R169 to R172, R189) -/

/-- The pool has room for a page of a context. -/
def poolFits (s : State) (ctx : Nat) : Bool :=
  decide (poolUsed s + pageBytes ((look s.ctxs ctx).elim 0 (·.hdim)) ≤ s.kv.poolMib * 2 ^ 20)

/-- An empty page taken from the pool. -/
def blankPage (ctx layer head p now : Nat) : Page :=
  { ctx := ctx, fill := 0, full := false, summary := false, mirrored := false, refcnt := 1, layer := layer, head := head,
    page := p, radius := 0#32, kcarry := [], vcarry := [], mean := [], kexp := [], vexp := [], kelem := [], velem := [],
    spilled := false, spillSlot := 0, lastRead := now, bound := false }

/-- Take a page of the pool; its identifier stands for its address (log entry 7). -/
def takePage (s : State) (ctx pair p : Nat) : Nat × State :=
  let h := max 1 (ctxShape s ctx).2
  (s.kv.nextPage, (s.setPage s.kv.nextPage (some (blankPage ctx (pair / h) (pair % h) p s.dev.now))).updKv fun k =>
    { k with nextPage := k.nextPage + 1 })

/-- The handle by which a chimney knows the request of a slot: the crown's, whichever device holds the record (log entry 28). -/
def chimHandle (slot gen : Nat) : Nat := handleOf (slot % 2 ^ 20) gen

/-- MIRROR_FREE for a page of a chimney request (14_chimney R360): its copy becomes ash, or, at the end of the request, is freed
with its ash record. -/
def sendMirrorFree (s : State) (handle layer head p ctx : Nat) (gone : Bool) : State :=
  sendFrame s 0x42 s.chim.buddy 0 (Config.layoutOf 0x42 [s.chim.role, ctx, handle, layer, head, p, b2n gone])

/-- One reference fewer: the page is freed at 0; at 1, SHARED clears in the entry of a request that still holds it (R174). -/
def dropRef (s : State) (id : Nat) : State :=
  match s.page id with
  | none => s
  | some p =>
    if p.refcnt ≤ 1 then freePage s id
    else
      let s := s.updPage id fun p => { p with refcnt := p.refcnt - 1 }
      if p.refcnt = 2 then (holders s id).foldl (fun s h => updEntry s h.1 h.2.1 h.2.2 fun e => { e with shared := false }) s
      else s

/-- Pages in the read sets in flight: those the vectors in flight have selected, and those in open streams (R171). -/
def streamPages (s : State) : List Nat :=
  (s.ctxs.map fun e => e.2.elim [] fun c => c.inflight.flatMap (·.reads)).flatten ++ openPages s

/-- A page may be spilled (R171). -/
def spillable (s : State) (inStream : List Nat) (id : Nat) (p : Page) : Bool :=
  p.full && !p.spilled && !p.bound && p.refcnt != 0 && !inStream.contains id &&
    ((look s.ctxs p.ctx).elim false fun c => decide (c.spillUsed < c.spillSlots)) &&
    (holders s id).all fun h => (reqAt s h.1).elim true fun r => decide (h.2.2 + 1 < (r.length - 1) / 256)

/-- A slot of the context's spill buffer that no page holds; the manual does not say which is taken (log entry 21). -/
def freeSpillSlot (s : State) (ctx : Nat) : Nat × State :=
  let used := s.kv.pages.filterMap fun e => e.2.bind fun p => if p.spilled ∧ p.ctx = ctx then some p.spillSlot else none
  let n := (look s.ctxs ctx).elim 0 (·.spillSlots)
  let l := (List.range n).filter fun i => !used.contains i
  let (x, s) := s.fresh
  (l[x % max 1 l.length]?.getD 0, s)

/-- A page's bytes (R153). -/
def Page.bytes (p : Page) (dh : Nat) : List Byte :=
  let nb := dh / 32
  let bfs (l : List BF16) : List Byte := ((List.range dh).map fun j => natLe 2 ((l[j]?).elim 0 (·.toNat))).flatten
  let exps (m : SMap Nat) : List Byte := (List.range (256 * nb)).map fun i => BitVec.ofNat 8 (nat m i)
  let nib (q : Int) : Nat := (q % 16).toNat
  let els (m : SMap Int) : List Byte :=
    (List.range (128 * dh)).map fun i => BitVec.ofNat 8 (nib (get 0 m (2 * i)) + 16 * nib (get 0 m (2 * i + 1)))
  natLe 2 p.fill ++ natLe 1 nb ++ natLe 1 (b2n p.full + 2 * b2n p.summary + 4 * b2n p.mirrored) ++ natLe 2 p.refcnt ++
    natLe 2 p.layer ++ natLe 2 p.head ++ natLe 2 0 ++ natLe 4 p.page ++ natLe 4 p.radius.toNat ++ natLe 12 0 ++
    bfs p.kcarry ++ bfs p.vcarry ++ bfs p.mean ++ exps p.kexp ++ exps p.vexp ++ els p.kelem ++ els p.velem

/-- A page from its bytes. -/
def pageOfBytes (ctx dh now : Nat) (b : List Byte) : Page :=
  let nb := dh / 32
  let h := 32 + 6 * dh
  let bfs (o : Nat) : List BF16 := (List.range dh).map fun j => BitVec.ofNat 16 (field b (o + 2 * j) 2)
  let exps (o : Nat) : SMap Nat := (List.range (256 * nb)).foldl (fun m i => put 0 m i (field b (o + i) 1)) []
  let sgn (v : Nat) : Int := if v ≥ 8 then (v : Int) - 16 else v
  let els (o : Nat) : SMap Int := (List.range (256 * dh)).foldl (fun m i =>
    put 0 m i (sgn (if i % 2 = 0 then field b (o + i / 2) 1 % 16 else field b (o + i / 2) 1 / 16))) []
  { ctx := ctx, fill := field b 0 2, full := bit (field b 3 1) 0, summary := bit (field b 3 1) 1, mirrored := bit (field b 3 1) 2,
    refcnt := 1, layer := field b 6 2, head := field b 8 2, page := field b 12 4, radius := BitVec.ofNat 32 (field b 16 4),
    kcarry := bfs 32, vcarry := bfs (32 + 2 * dh), mean := bfs (32 + 4 * dh), kexp := exps h, vexp := exps (h + 8 * dh),
    kelem := els (h + 16 * dh), velem := els (h + 144 * dh), spilled := false, spillSlot := 0, lastRead := now, bound := false }

/-- Spill one victim (R171): the oldest-read page that qualifies; ties are open (log entry 21). The page is copied to its
slot of the host buffer. -/
def spillOne (s : State) : Option State :=
  let inS := streamPages s
  let c := s.kv.pages.filterMap fun e => e.2.bind fun p => if spillable s inS e.1 p then some (e.1, p) else none
  match c.map (fun e => e.2.lastRead) with
  | [] => none
  | a :: l =>
    let oldest := l.foldl min a
    let c := c.filter fun e => e.2.lastRead == oldest
    let (n, s) := if c.length ≤ 1 then (0, s) else s.fresh
    match (c.drop (n % max 1 c.length)).head? with
    | none => none
    | some (id, p) =>
      let (slot, s) := freeSpillSlot s p.ctx
      let s := match look s.ctxs p.ctx with
        | none => s
        | some x => s.hostWrite (x.spillAddr + slot * pageBytes x.hdim) (p.bytes (32 * x.hdim))
      let s := s.updPage id fun p => { p with spilled := true, spillSlot := slot }
      some (s.updCtx p.ctx fun c => { c with spillUsed := c.spillUsed + 1 })

/-! ## Eviction (R168, R172, R239) -/

/-- The entries of a pair that eviction may choose (R168): FULL, not ASH, not SHARED, not page 0, not recent; `cur` is the
current page. -/
def evictable (r : Req) (pair cur : Nat) : List (Nat × Entry) :=
  (tableOf r pair).filter fun e => e.2.full && !e.2.ash && !e.2.shared && e.1 != 0 && decide (e.1 + 1 < cur)

/-- The lowest decayed score, a tie taking the lower page number. -/
def lowestScore (r : Req) (l : List (Nat × Entry)) : Option (Nat × Entry) :=
  l.foldl (fun (a : Option (Nat × Entry)) e =>
    match a with
    | none => some e
    | some b => if decayed r e.2 < decayed r b.2 then some e else some b) none

/-- The current page of a request. -/
def curPage (r : Req) : Nat := (r.length - 1) / 256

/-- An entry as ash. -/
def Entry.toAsh (e : Entry) : Entry := { e with ash := true, slot := 0, shared := false }

/-- Bindings that meet a test leave the vectors and commands they were made for. -/
def unbindIf (s : State) (p : Bound → Bool) : State :=
  let keep (l : List Bound) : List Bound := l.filter fun b => !p b
  let step (x : CStep) : CStep := { x with bound := keep x.bound }
  { s with
    ctxs := s.ctxs.map fun e => (e.1, e.2.map fun c => { c with inflight := c.inflight.map fun v => { v with bound := keep v.bound } }),
    cmds := s.cmds.map fun c => { c with bound := keep c.bound },
    chim := { s.chim with steps := s.chim.steps.map step, redo := s.chim.redo.map step } }

/-- A bound page is spent: its binding leaves the vector it was chosen for (10_instructions R239). -/
def unbind (s : State) (slot pair p : Nat) : State := unbindIf s fun b => b.slot == slot && b.pair == pair && b.page == p

/-- A page of a request becomes ash: its page is freed, or kept for the commit of a chimney step (14_chimney R353). -/
def toAsh (s : State) (slot pair p step : Nat) : State :=
  match (reqAt s slot).bind fun r => entryOf r pair p with
  | none => s
  | some e =>
    let s := if (s.page e.slot).elim false (·.bound) then unbind s slot pair p else s
    let s := updEntry s slot pair p Entry.toAsh
    let s := match s.page e.slot, reqAt s slot with
      | some x, some r => if step = 0 ∧ x.mirrored then sendMirrorFree s (chimHandle slot r.gen) x.layer x.head p x.ctx false else s
      | _, _ => s
    if step = 0 then dropRef s e.slot
    else s.updChim fun c => { c with steps := c.steps.map fun x => if x.step = step then { x with freed := x.freed ++ [e.slot] } else x }

/-- An eviction counts for its request and the device (R168, R172), and for its chimney step while that is not committed. -/
def countEvict (s : State) (slot step : Nat) (quota : Bool) : State :=
  let s := s.updReq slot fun r =>
    if quota then { r with quotaEvicts := r.quotaEvicts + 1 } else { r with pressureEvicts := r.pressureEvicts + 1 }
  let s := s.updKv fun k =>
    if quota then { k with quotaEvicts := k.quotaEvicts + 1 } else { k with pressureEvicts := k.pressureEvicts + 1 }
  if step = 0 then s
  else s.updChim fun c => { c with steps := c.steps.map fun x => if x.step = step then { x with evicts := x.evicts ++ [(slot, quota)] } else x }

/-- Quota eviction on opening page `cur` of a pair (R168). -/
def quotaEvict (s : State) (slot pair cur step : Nat) : State :=
  match reqAt s slot with
  | none => s
  | some r =>
    let kept := ((tableOf r pair).filter fun e => !e.2.ash).length + (if (tableOf r pair).any fun e => e.1 == cur then 0 else 1)
    if r.quota = 0 ∨ kept ≤ r.quota then s
    else match lowestScore r (evictable r pair cur) with
      | none => s
      | some (p, _) =>
        countEvict (toAsh s slot pair p step) slot step true

/-- The pages of a request that pressure eviction may take: pair, page number, entry. -/
def pressurePages (s : State) (r : Req) : List (Nat × Nat × Entry) :=
  (r.tables.map fun t =>
    (evictable r t.1 (curPage r)).filterMap fun e =>
      if (s.page e.2.slot).elim false (fun p => !p.spilled && !p.bound) then some (t.1, e.1, e.2) else none).flatten

/-- The victim of pressure eviction (R172): highest class, lowest slot, lowest score; a tie between pairs is open (log
entry 21). -/
def pressureVictim (s : State) : Option Bound × State :=
  let l := s.reqs.filterMap fun e => e.2.bind fun r =>
    if r.open_ ∧ r.evict ∧ pressurePages s r ≠ [] then some (e.1, r) else none
  match l.foldl (fun (a : Option (Nat × Req)) e =>
      match a with | none => some e | some b => if e.2.cls > b.2.cls then some e else some b) none with
  | none => (none, s)
  | some (slot, r) =>
    let ps := pressurePages s r
    let low := (ps.map fun x => decayed r x.2.2).foldl min (2 ^ 40)
    let ps := ps.filter fun x => decayed r x.2.2 == low
    let first := (ps.map (·.2.1)).foldl min (2 ^ 40)
    let ps := ps.filter fun x => x.2.1 == first
    let (n, s) := if ps.length ≤ 1 then (0, s) else s.fresh
    ((ps[n % max 1 ps.length]?).map fun x => { slot := slot, pair := x.1, page := x.2.1 }, s)

/-- Bind a victim. -/
def bindPage (s : State) (b : Bound) : State :=
  match (reqAt s b.slot).bind fun r => entryOf r b.pair b.page with
  | none => s
  | some e => s.updPage e.slot fun p => { p with bound := true }

/-- Make room for one page of a context (R170): victims one at a time, until it fits or none is left. -/
def makeRoom (evict : Bool) (ctx : Nat) : Nat → State → List Bound → Bool × State × List Bound
  | 0, s, bs => (poolFits s ctx, s, bs)
  | n + 1, s, bs =>
    if poolFits s ctx then (true, s, bs)
    else
      match if evict then pressureVictim s else (none, s) with
      | (some b, s) => makeRoom evict ctx n (bindPage s b) (bs ++ [b])
      | (none, s) =>
        match spillOne s with
        | none => (false, s, bs)
        | some s => makeRoom evict ctx n s bs

/-- Spilled pages return to HBM, most recently read first, while free pool space exceeds 1/16 of the pool (R171); a tie is
open (log entry 21). -/
def spillReturn (s : State) : State :=
  if (s.kv.poolMib * 2 ^ 20 - poolUsed s) * 16 ≤ s.kv.poolMib * 2 ^ 20 then s
  else
    let c := s.kv.pages.filterMap fun e => e.2.bind fun p => if p.spilled then some (e.1, p) else none
    let last := (c.map fun e => e.2.lastRead).foldl max 0
    let c := c.filter fun e => e.2.lastRead == last
    let (n, s) := if c.length ≤ 1 then (0, s) else s.fresh
    match (c.drop (n % max 1 c.length)).head? with
    | none => s
    | some (id, p) =>
      if !poolFits s p.ctx then s
      else
        let s := s.updPage id fun p => { p with spilled := false, spillSlot := 0 }
        s.updCtx p.ctx fun c => { c with spillUsed := c.spillUsed - 1 }

/-! ## The REQ region (08_tables_tiers R189) -/

/-- Bytes of a request's verification scratch. -/
def scratchBytes (s : State) (ctx : Nat) : Nat := 64 * dhOf s ctx * pairCount s ctx

/-- Bytes of a page-table chunk of a context. -/
def chunkBytes (s : State) (ctx : Nat) : Nat := 64 * (32 + 2 * dhOf s ctx)

/-- Bytes of REQ in use; the prefix handle table takes a fixed part of less than 16 GiB (log entry 25). -/
def reqUsed (s : State) : Nat :=
  Config.handleTable % 2 ^ 34 + (s.reqs.map fun e =>
    match e.2 with
    | none => 0
    | some r => if r.open_ then 1024 + (if r.verify then scratchBytes s r.ctx else 0) + r.chunks.length * chunkBytes s r.ctx else 0).sum

/-- REQ has room. -/
def reqFits (s : State) (n : Nat) : Bool := decide (reqUsed s + n ≤ 24 * 2 ^ 30)

/-- Take the chunk of a page of a pair when it is not taken yet. -/
def takeChunk (s : State) (slot pair p : Nat) : Bool × State :=
  match reqAt s slot with
  | none => (false, s)
  | some r =>
    if r.chunks.contains (pair, p / 64) then (true, s)
    else if !reqFits s (chunkBytes s r.ctx) then (false, s)
    else (true, s.updReq slot fun r => { r with chunks := r.chunks ++ [(pair, p / 64)] })

/-! ## What a position needs (R169) -/

/-- A request writes a position directly into its pool page (R155, R176), not into staging. -/
def direct (r : Req) (pos : Nat) : Bool := decide (2 ≤ r.cls ∨ pos < r.stageFrom)

/-- The holder of an entry copies its page before it appends to it (R175): the page has other holders, or the entry is the partial one of
a request opened from a handle, whose carries the entry keeps until then. -/
def mustCopy (s : State) (e : Entry) : Bool :=
  e.kcarry != [] || e.vcarry != [] || (s.page e.slot).elim false fun p => decide (p.refcnt > 1)

/-- The page a position of a pair needs taken at admission: its number. -/
def needOf (s : State) (r : Req) (pair pos : Nat) : Option Nat :=
  if direct r pos then
    if pos % 256 = 0 then some (pos / 256)
    else match entryOf r pair (pos / 256) with
      | none => none
      | some e => if mustCopy s e then some (pos / 256) else none
  else if pos % 256 = 255 then some (pos / 256)
  else none

/-- The needs of `n` positions from `pos` on, for every pair; a page is named once. -/
def needsOf (s : State) (slot pos n : Nat) : List (Nat × Nat) :=
  match reqAt s slot with
  | none => []
  | some r =>
    ((List.range (pairCount s r.ctx)).map fun pair =>
      (((List.range n).filterMap fun i => needOf s r pair (pos + i)).dedup).map fun p => (pair, p)).flatten

/-- Take the pages and chunks of some positions for a request: whether all were taken, and the pages bound for them. What has
been taken stays taken. -/
def takeAll (evict : Bool) (slot : Nat) : List (Nat × Nat) → State → List Bound → Bool × State × List Bound
  | [], s, bs => (true, s, bs)
  | (pair, p) :: l, s, bs =>
    match reqAt s slot with
    | none => (false, s, bs)
    | some r =>
      if (get [] r.taken pair).any fun id => (s.page id).elim false fun x => x.page == p then takeAll evict slot l s bs
      else
        match takeChunk s slot pair p with
        | (false, s) => (false, s, bs)
        | (true, s) =>
          match makeRoom evict r.ctx (s.kv.pages.length + 1) s bs with
          | (false, s, bs) => (false, s, bs)
          | (true, s, bs) =>
            let (id, s) := takePage s r.ctx pair p
            takeAll evict slot l
              (s.updReq slot fun r => { r with taken := put [] r.taken pair (get [] r.taken pair ++ [id]) }) bs

/-- Pages taken and not opened are given back. -/
def giveBack (s : State) (slot : Nat) : State :=
  match reqAt s slot with
  | none => s
  | some r =>
    let s := (r.taken.map (·.2)).flatten.foldl freePage s
    s.updReq slot fun r => { r with taken := [] }

/-- An admission that fails has taken nothing (R170; 08_tables_tiers R189): pages and chunks of a request are as they were before it. -/
def untake (before : State) (s : State) (slot : Nat) : State :=
  match reqAt before slot, reqAt s slot with
  | some r0, some r =>
    let old := (r0.taken.map (·.2)).flatten
    let s := (((r.taken.map (·.2)).flatten).filter fun id => !old.contains id).foldl freePage s
    s.updReq slot fun r => { r with taken := r0.taken, chunks := r0.chunks }
  | _, _ => s

/-- Pages taken and not opened are given back at a command's end (R169), but for the page a full staging page is still to be
flushed into (R158). -/
def giveBackUnused (s : State) (slot : Nat) : State :=
  match reqAt s slot with
  | none => s
  | some r =>
    let waits (pair id : Nat) : Bool :=
      match look r.staging pair with
      | none => false
      | some g => g.fill == 256 && (s.page id).elim false fun x => x.page == g.page
    let s := (r.taken.map fun e => e.2.filter fun id => !waits e.1 id).flatten.foldl freePage s
    s.updReq slot fun r => { r with taken := (r.taken.map fun e => (e.1, e.2.filter (waits e.1))).filter fun e => e.2 != [] }

/-- The taken page of a pair and page number. -/
def popTaken (s : State) (slot pair p : Nat) : Option Nat × State :=
  match reqAt s slot with
  | none => (none, s)
  | some r =>
    match (get [] r.taken pair).find? fun id => (s.page id).elim false fun x => x.page == p with
    | none => (none, s)
    | some id =>
      (some id, s.updReq slot fun r => { r with taken := put [] r.taken pair ((get [] r.taken pair).filter (· != id)) })

/-! ## The K4 and V4 formats (02_number_formats R53 to R55) -/

/-- The block exponent: the smallest e that leaves every finite element within ±7; none when all finite elements are 0. -/
def kvExp (ys : List F32) : Option Int :=
  let top := (ys.map fun y => if isFin y then toRat (fabs y) else 0).foldl max 0
  if top = 0 then none
  else some (((List.range 254).map fun i => (i : Int) - 126).find? (fun e => decide (rne (top / pow2 e) ≤ 7)) |>.getD 127)

/-- What an element leaves to the carry: y − q × 2^e, which FP32 holds exactly, as BF16. -/
def kvRest (y : F32) (q e : Int) : BF16 := if q = 0 then toBf y else toBf (pack32 false (toRat y - (q : Rat) * pow2 e))

/-- One block: exponent byte, elements, new carry, and whether a non-finite element was met. Where every finite y is 0 and another
element is not finite, the steps of R54 give both q = 0 and q = ±7 for that element: it is ±7, under the exponent byte 0
(DESIGN CHOICE, log entry 135). -/
def kvBlock (xs carry : List BF16) : Nat × List Int × List BF16 × Bool :=
  let ys := xs.zipIdx.map fun e => fadd (ofBf e.1) (ofBf (carry[e.2]?.getD 0#16))
  let e := kvExp ys
  let q (y : F32) : Int :=
    if !isFin y then (if fSign y then -7 else 7) else e.elim 0 fun e => rne (toRat y / pow2 e)
  let r (y : F32) : BF16 := if !isFin y then 0#16 else kvRest y (q y) (e.getD 0)
  (e.elim 0 fun e => (e + 127).toNat, ys.map q, ys.map r, ys.any fun y => !isFin y)

/-- A key or value as blocks of 32 (R54): exponents, elements, carry, non-finite. -/
def kvVector (xs carry : List BF16) : List Nat × List Int × List BF16 × Bool :=
  (List.range (xs.length / 32)).foldl (fun st b =>
    let x := kvBlock ((xs.drop (32 * b)).take 32) ((carry.drop (32 * b)).take 32)
    (st.1 ++ [x.1], st.2.1 ++ x.2.1, st.2.2.1 ++ x.2.2.1, st.2.2.2 || x.2.2.2)) ([], [], [], false)

/-- A stored element's value: q × 2^(KEXP − 127), 0 when KEXP = 0. -/
def kvElem (exps : SMap Nat) (els : SMap Int) (dh t j : Nat) : F32 :=
  let e := nat exps (t * (dh / 32) + j / 32)
  if e = 0 then fzero false else pack32 false ((get 0 els (t * dh + j) : Int) * pow2 ((e : Int) - 127))

/-- The dequantised key or value of a position. -/
def kvRow (exps : SMap Nat) (els : SMap Int) (dh t : Nat) : List F32 := (List.range dh).map (kvElem exps els dh t)

/-- Put a quantised vector at position `t` of a page. -/
def putRow (exps : SMap Nat) (els : SMap Int) (dh t : Nat) (es : List Nat) (qs : List Int) : SMap Nat × SMap Int :=
  (es.zipIdx.foldl (fun m e => put 0 m (t * (dh / 32) + e.2) e.1) exps, qs.zipIdx.foldl (fun m e => put 0 m (t * dh + e.2) e.1) els)

/-- The summary of a full page (R159): mean key and radius. -/
def summary (p : Page) (dh : Nat) : List BF16 × F32 :=
  let rows := (List.range 256).map (kvRow p.kexp p.kelem dh)
  let mean := (List.range dh).map fun j =>
    toBf (fmul (sumC 8 (rows.map fun r => r[j]?.getD (fzero false))) (pack32 false (1 / 256)))
  let rad := rows.map fun r =>
    fsqrt (sumC 8 ((List.zipWith (fun k m => let d := fsub k (ofBf m); fmul d d) r mean)))
  (mean, rad.foldl fmax (fzero false))

/-! ## Appending a position (R155, R159, R168, R175) -/

/-- The carries that continue into page `p` of a pair (R55): zero at position 0, else the header of the page before. -/
def carryInto (s : State) (r : Req) (pair p : Nat) : List BF16 × List BF16 :=
  if p = 0 then ([], [])
  else match entryOf r pair (p - 1) with
    | none => ([], [])
    | some e => (s.page e.slot).elim ([], []) fun x => (x.kcarry, x.vcarry)

/-- The entry of a page just opened, with no slot yet (R154). -/
def blankEntry (r : Req) : Entry :=
  { slot := 0, ash := false, shared := false, full := false, radius := 0#32, mean := [], score := 0, epoch := epochOf r,
    count := 0, kcarry := [], vcarry := [] }

/-- Open page `p` of a pair: a taken page becomes its page (R155, R168); a staged page keeps the score it has earned. -/
def openPage (s : State) (slot pair p step : Nat) : State :=
  match popTaken s slot pair p with
  | (none, s) => s
  | (some id, s) =>
    match reqAt s slot with
    | none => s
    | some r =>
      let (kc, vc) := carryInto s r pair p
      let s := s.updPage id fun x => { x with kcarry := kc, vcarry := vc, lastRead := s.dev.now }
      let old := entryOf r pair p
      let e : Entry := { blankEntry r with
        slot := id, score := old.elim 0 (·.score), epoch := old.elim (epochOf r) (·.epoch) }
      let s := s.updReq slot fun r => putEntry r pair p e
      if direct r (256 * p) then quotaEvict s slot pair p step else s

/-- The partial page is copied into a page of the holder's own before it is appended to (R175): the positions the holder owns,
from the holder's own carries. -/
def copyPage (s : State) (slot pair p dh : Nat) : State :=
  match (reqAt s slot).bind fun r => entryOf r pair p with
  | none => s
  | some e =>
    match s.page e.slot with
    | none => s
    | some old =>
      match popTaken s slot pair p with
      | (none, s) => s
      | (some id, s) =>
        let keepE (m : SMap Nat) : SMap Nat := m.filter fun x => decide (x.1 < e.count * (dh / 32))
        let keepQ (m : SMap Int) : SMap Int := m.filter fun x => decide (x.1 < e.count * dh)
        let own : Bool := decide (e.kcarry = [] ∧ e.vcarry = [])
        let s := s.updPage id fun x => { x with
          fill := e.count, kexp := keepE old.kexp, vexp := keepE old.vexp, kelem := keepQ old.kelem, velem := keepQ old.velem,
          kcarry := if own then old.kcarry else e.kcarry, vcarry := if own then old.vcarry else e.vcarry }
        let s := updEntry s slot pair p fun e => { e with slot := id, shared := false, kcarry := [], vcarry := [] }
        dropRef s e.slot

/-- Write a key and a value at a position of a page the request holds alone (R54, R55, R159). -/
def writeKv (s : State) (slot pair pos dh step : Nat) (key val : List BF16) : State :=
  let p := pos / 256
  let t := pos % 256
  match (reqAt s slot).bind fun r => entryOf r pair p with
  | none => s
  | some e =>
    match s.page e.slot with
    | none => s
    | some x =>
      let k := kvVector key x.kcarry
      let v := kvVector val x.vcarry
      let (ke, kq) := putRow x.kexp x.kelem dh t k.1 k.2.1
      let (ve, vq) := putRow x.vexp x.velem dh t v.1 v.2.1
      let x := { x with fill := t + 1, kexp := ke, kelem := kq, vexp := ve, velem := vq, kcarry := k.2.2.1, vcarry := v.2.2.1 }
      let (mean, radius) := if t = 255 then summary x dh else ([], 0#32)
      let x := if t = 255 then { x with full := true, summary := true, mean := mean, radius := radius } else x
      let s := s.setPage e.slot (some x)
      let s := updEntry s slot pair p fun e =>
        if t = 255 then { e with count := 256, full := true, mean := mean, radius := radius } else { e with count := t + 1 }
      let s := if k.2.2.2 || v.2.2.2 then s.updReq slot fun r => { r with nonfinite := true } else s
      if t = 255 ∧ step ≠ 0 then
        s.updChim fun c => { c with steps := c.steps.map fun y => if y.step = step then { y with filled := y.filled ++ [(slot, pair, p)] } else y }
      else s

/-- Append a position directly (R155): open or copy the page where the position needs it. -/
def appendKv (s : State) (slot pair pos dh step : Nat) (key val : List BF16) : State :=
  let p := pos / 256
  let s := match (reqAt s slot).bind fun r => entryOf r pair p with
    | none => openPage s slot pair p step
    | some e => if mustCopy s e then copyPage s slot pair p dh else s
  writeKv s slot pair pos dh step key val

/-- Stage a position in BF16 (R156); opening the page makes its entry, without a slot, and applies the quota (R168). `who` is the
dispatch position of the vector plus 1, or 0. -/
def stageKv (s : State) (slot pair pos step who : Nat) (key val : List BF16) : State :=
  let p := pos / 256
  let s := if pos % 256 = 0 then quotaEvict s slot pair p step else s
  s.updReq slot fun r =>
    let r := if (entryOf r pair p).isNone then putEntry r pair p (blankEntry r) else r
    let g := (look r.staging pair).getD { page := p, fill := 0, keys := [], vals := [], flushDue := false, filler := 0 }
    let g : Staging := { g with page := p, fill := pos % 256 + 1, keys := g.keys.take (pos % 256) ++ [key], vals := g.vals.take (pos % 256) ++ [val],
                                 filler := if pos % 256 = 255 then who else 0 }
    { r with staging := store r.staging pair (some g) }

/-- Flush a full staging page into the request's pool page and empty it (R158). -/
def flushStaging (s : State) (slot pair dh step : Nat) : State :=
  match (reqAt s slot).bind fun r => look r.staging pair with
  | none => s
  | some g =>
    if g.fill < 256 then s
    else
      let s := openPage s slot pair g.page step
      let s := (List.range 256).foldl (fun s t =>
        writeKv s slot pair (256 * g.page + t) dh step (g.keys[t]?.getD []) (g.vals[t]?.getD [])) s
      s.updReq slot fun r => { r with staging := store r.staging pair none }

/-- Append one position of a pair in the way its class has it (R155, R156, R176). -/
def putKv (s : State) (slot pair pos dh step who : Nat) (key val : List BF16) : State :=
  match reqAt s slot with
  | none => s
  | some r => if direct r pos then appendKv s slot pair pos dh step key val else stageKv s slot pair pos step who key val

/-- A position is already in the cache: a member that holds it skips its write (14_chimney R366). -/
def heldAlready (r : Req) (pair pos : Nat) : Bool :=
  ((entryOf r pair (pos / 256)).elim false fun e => decide (pos % 256 < e.count)) ||
    ((look r.staging pair).elim false fun g => g.page == pos / 256 && decide (pos % 256 < g.fill))

/-- A key or value of no stated content: of a path node of the last depth of a draft tree, which the draft has run no step for (R183;
DESIGN CHOICE, log entry 139). -/
def openRow (s : State) (dh pair pos which : Nat) : List BF16 :=
  (List.range dh).map fun j => BitVec.ofNat 16 (s.openAt (2 ^ 17 + which + 2 * (j + 256 * (pos + 2 ^ 24 * pair))))

/-- What a pair holds before a chimney step changes it is kept for an abort (14_chimney R353). -/
def savePair (s : State) (slot pair step : Nat) : State :=
  if step = 0 then s
  else match reqAt s slot with
    | none => s
    | some r =>
      let ids := (tableOf r pair).map (·.2.slot) ++ get [] r.taken pair
      let sv : PairSave :=
        { slot := slot, pair := pair, table := tableOf r pair, staging := look r.staging pair, scratch := get [] r.scratch pair,
          taken := get [] r.taken pair, pages := ids.filterMap fun id => (s.page id).map fun p => (id, p) }
      s.updChim fun c => { c with steps := c.steps.map fun x =>
        if x.step = step ∧ (x.saved.all fun y => !(y.slot == slot && y.pair == pair)) = true then { x with saved := x.saved ++ [sv] } else x }

/-- A page as it was, but for what is no part of a step: where it is held, who holds it, its mirror, and its reads. -/
def Page.asWas (old : Page) (now : Option Page) : Page :=
  match now with
  | none => old
  | some p => { old with mirrored := p.mirrored && p.full, refcnt := p.refcnt, spilled := p.spilled, spillSlot := p.spillSlot,
                         lastRead := p.lastRead, bound := p.bound }

/-- A page table as it was, but for SHARED, which follows the other holders of a page. -/
def tableAsWas (old now : SMap Entry) : SMap Entry :=
  old.map fun e => (e.1, match now.find? fun x => x.1 == e.1 with
    | none => e.2
    | some x => if x.2.slot = e.2.slot then { e.2 with shared := x.2.shared } else e.2)

/-- A pair is put back as it was (14_chimney R353). -/
def restorePair (s : State) (v : PairSave) : State :=
  let s := v.pages.foldl (fun s e => s.setPage e.1 (some (e.2.asWas (s.page e.1)))) s
  s.updReq v.slot fun r => { r with
    tables := put [] r.tables v.pair (tableAsWas v.table (tableOf r v.pair)), staging := store r.staging v.pair v.staging,
    scratch := put [] r.scratch v.pair v.scratch, taken := put [] r.taken v.pair v.taken }

/-! ## Releasing a request (R157, R173, R182, 12_graec_commands R296) -/

/-- Free everything a request holds and advance its slot's generation. -/
def releaseReq (s : State) (slot : Nat) : State :=
  match reqAt s slot with
  | none => s
  | some r =>
    if !r.open_ then s
    else
      let chim := (look s.ctxs r.ctx).elim false (·.chimney)
      let h := max 1 (ctxShape s r.ctx).2
      let keys := (r.tables.map fun t => t.2.map fun e => (t.1, e.1, e.2)).flatten
      let s := if chim then
          keys.foldl (fun s k =>
            if k.2.2.ash || (s.page k.2.2.slot).elim false (·.mirrored) then
              sendMirrorFree s (chimHandle slot r.gen) (k.1 / h) (k.1 % h) k.2.1 r.ctx true
            else s) s
        else s
      let s := unbindIf (giveBack s slot) fun b => b.slot == slot
      let s := (keys.filter fun k => !k.2.2.ash).foldl (fun s k => dropRef s k.2.2.slot) s
      let s := if r.cls < 2 then s.updKv fun k => { k with hobFree := k.hobFree + pairCount s r.ctx } else s
      let s := match r.draft with | none => s | some d => s.updReq d fun q => { q with boundBy := none }
      let s := match r.boundBy with | none => s | some d => s.updReq d fun q => { q with draft := none }
      let s := s.updChim fun c => { c with history := erase c.history slot }
      s.setReq slot (some (r.free slot))

end Sys2Proof.Machine
end

