-- ==== Sys2Proof/Machine/Capture.lean ====
section
/-! DEFINITION. Capture (15_determinism R375 to R377): the records a recording context appends to its host buffer. -/

namespace Sys2Proof.Machine

/-- A packet's header and parameters as bytes (11_graec_rings R261). -/
def Packet.bytes (p : Packet) : List Byte :=
  natLe 2 p.opc ++ natLe 2 p.flags ++ natLe 4 p.seq ++ natLe 8 p.tag ++ natLe 2 p.ctx ++ natLe 2 p.len ++ natLe 4 p.req ++
    natLe 1 p.ver ++ natLe 1 p.prio ++ natLe 6 p.resv ++ p.params

/-- Bytes of a TABLE_UPDATE record of a table: the row id and the row (12_graec_commands R291). -/
def updRecBytes (t : Table) : Nat := 8 + rowBytes t.fmt t.d

/-- The payloads a command passes by address, in parameter order: host address and length. -/
def payloads (s : State) (ctx : Nat) (p : Packet) : List (Nat × Nat) :=
  let f (o n : Nat) : Nat := field p.params o n
  match p.opc with
  | 0x22 | 0x24 => [(f 0 8, f 8 8)]
  | 0x30 => [(f 24 8, f 32 8)]
  | 0x31 =>
    match (look s.ctxs ctx).bind fun c => look (c.tables.map fun e => (e.1, some e.2)) (f 0 1) with
    | none => []
    | some t => [(f 8 8, f 4 4 * updRecBytes t)]
  | 0x41 => if f 4 1 = 1 then [(f 8 8, 4 * f 0 4)] else if f 4 1 = 2 then [(f 8 8, f 16 8)] else []
  | 0x61 => [(f 16 8, f 8 4)]
  | _ => []

/-- The context a command acts on: the one its header names, or its request's. -/
def cmdCtx (s : State) (p : Packet) : Option Nat :=
  if p.ctx < 64 then some p.ctx else (reqAt s (reqSlot p.req)).bind fun r => if r.gen = reqGen p.req then some r.ctx else none

/-- The ordinal of a request handle in a capture. -/
def reqOrd (c : Capture) (h : Nat) : Nat := (c.ords.findIdx? (· == h)).getD 0xFFFFFFFF

/-- The capture buffer's header (R376). -/
def captureHead (s : State) (ctx start : Nat) (c : Capture) : List Byte :=
  let i := (look s.ctxs ctx).bind (·.image)
  natLe 4 0x43455256 ++ natLe 1 0x10 ++ natLe 1 (b2n c.truncated + 2 * b2n (i.elim false (·.varies))) ++ natLe 2 ctx ++
    natLe 8 (i.elim 0 (·.digest)) ++ natLe 8 c.bytes ++ natLe 4 c.records ++ natLe 4 c.unmarked ++ natLe 8 start ++
    natLe 24 0

/-- Append one record when it fits; otherwise capture stops, TRUNCATED (R376). -/
def appendRec (s : State) (ctx kind phase ctile disp ord pos : Nat) (body : List Byte) : State :=
  match (look s.ctxs ctx).bind (·.capture) with
  | none => s
  | some c =>
    let pad := (8 - body.length % 8) % 8
    let n := 24 + body.length + pad
    if c.truncated then s
    else if c.bytes + n > c.len then s.updCtx ctx fun x => { x with capture := some { c with truncated := true } }
    else
      let head := natLe 1 kind ++ natLe 1 phase ++ natLe 2 ctile ++ natLe 4 body.length ++ natLe 8 disp ++ natLe 4 ord ++ natLe 4 pos
      let s := s.hostWrite (c.buf + c.bytes) (head ++ body ++ natLe pad 0)
      s.updCtx ctx fun x => { x with capture := some { c with bytes := c.bytes + n, records := c.records + 1 } }

/-- A command takes effect (R375): it is recorded when RECORDABLE, else counted in UNMARKED. -/
def captureCmd (s : State) (c : Cmd) : State :=
  if c.replay then s
  else match cmdCtx s c.pkt with
    | none => s
    | some ctx =>
      match look s.ctxs ctx with
      | none => s
      | some x =>
        match x.capture with
        | none => s
        | some cap =>
          if cap.truncated then s
          else if !c.pkt.recordable then
            s.updCtx ctx fun x => { x with capture := some { cap with unmarked := sat 32 (cap.unmarked + 1) } }
          else
            let body := c.pkt.bytes ++ ((payloads s ctx c.pkt).map fun a => s.hostRead a.1 a.2).flatten
            appendRec s ctx 1 0xFF 0xFFFF x.dispatched (reqOrd cap c.pkt.req) 0 body

/-- A recorded REQ_OPEN takes the next ordinal (R376). -/
def captureOpen (s : State) (c : Cmd) (ctx handle : Nat) : State :=
  let s := if c.pkt.recordable && !c.replay then
      s.updCtx ctx fun x => { x with capture := x.capture.map fun k => if k.truncated then k else { k with ords := k.ords ++ [handle] } }
    else s
  match (look s.ctxs ctx).bind (·.capture) with
  | none => s
  | some cap =>
    if c.replay || cap.truncated then s
    else if !c.pkt.recordable then
      s.updCtx ctx fun x => { x with capture := some { cap with unmarked := sat 32 (cap.unmarked + 1) } }
    else appendRec s ctx 1 0xFF 0xFFFF ((look s.ctxs ctx).elim 0 (·.dispatched)) (reqOrd cap handle) 0 c.pkt.bytes

/-- A command completes OK having taken effect. -/
def done (s : State) (c : Cmd) (result0 : Nat) : State := finish (captureCmd s c) c stOk result0

/-! ## Execution digests (R377) -/

/-- An instruction digest: the low 16 bits of the CRC-32C of its output bytes. -/
def instrDigest (i : Issued) : Nat := crc32c i.bytes % 2 ^ 16

/-- An execution digest: CRC-32C of all output bytes in issue order, and their count. -/
def execDigest (x : Exec) : Nat :=
  let b := (x.issued.map (·.bytes)).flatten
  crc32c b * 2 ^ 32 + b.length % 2 ^ 32

/-- The EXEC record's body. -/
def execBody (x : Exec) : List Byte :=
  natLe 8 (execDigest x) ++ natLe 4 x.issued.length ++ natLe 4 0 ++ (x.issued.map fun i => natLe 2 (instrDigest i)).flatten

/-- A dispatch position of a replay in terms of the recording (DEDUCED, log entry 43). -/
def Replay.recDisp (r : Replay) (disp : Nat) : Nat := disp + r.first - r.base

/-- An execution of a context in a replay ends: what it gave waits for its EXEC record (R379). -/
def replayExec (s : State) (ctx ctile : Nat) (x : Exec) : State :=
  s.updCtx ctx fun c => { c with replay := c.replay.map fun r =>
    { r with ended := r.ended ++ [{ disp := r.recDisp x.disp, ctile := ctile, xr := x.xr, digest := execDigest x,
                                    instrs := x.issued.map fun i => (i.pc, instrDigest i) }] } }

/-- An execution of a recording context ends. -/
def captureExec (s : State) (ctx ctile : Nat) (x : Exec) : State :=
  match (look s.ctxs ctx).bind (·.capture) with
  | none => s
  | some cap => appendRec s ctx 3 x.xr.phase ctile x.disp (reqOrd cap x.xr.req) x.xr.pos (execBody x)

/-- A V-marked instruction of a recording context: its values. -/
def captureVout (s : State) (ctx ctile : Nat) (x : Exec) (pc count : Nat) (vals : List Byte) : State :=
  match (look s.ctxs ctx).bind (·.capture) with
  | none => s
  | some cap =>
    appendRec s ctx 4 x.xr.phase ctile x.disp (reqOrd cap x.xr.req) x.xr.pos (natLe 2 pc ++ natLe 2 0 ++ natLe 4 count ++ vals)

end Sys2Proof.Machine
end

