-- ==== Sys2Proof/Machine/Serving.lean ====
section
/-! DEFINITION. Serving (13_serving): dispatch boundaries, ranking, pacing gates, admission, the progress of a command with its
vectors, the measures, and the release of requests (09_step_programs R216 to R218). -/

namespace Sys2Proof.Machine

/-! ## Vectors -/

/-- The record of a handle's request on this device: on a chimney member other than the crown, the crown's requests are held
beside the device's own slots (log entry 28). -/
def slotFor (s : State) (ctx handle : Nat) : Nat :=
  if (look s.ctxs ctx).elim false (·.chimney) && !isCrown s then 2 ^ 20 + reqSlot handle else reqSlot handle

/-- A test on the vectors in flight of every context. -/
def anyVec (s : State) (p : Vec → Bool) : Bool :=
  s.ctxs.any fun e => match e.2 with | none => false | some c => c.inflight.any p

/-- A vector of a handle is in flight, or a chimney step of it is not committed (14_chimney R354). -/
def vecsOf (s : State) (handle : Nat) : Bool :=
  anyVec s (fun v => v.xr.req == handle) || s.chim.steps.any (fun x => x.xr.req == handle) || s.chim.redo.any fun x => x.xr.req == handle

/-- Change a vector in flight. -/
def updVec (s : State) (ctx disp : Nat) (f : Vec → Vec) : State :=
  s.updCtx ctx fun c => { c with inflight := c.inflight.map fun v => if v.disp = disp then f v else v }

/-- A vector in flight. -/
def findVec (s : State) (ctx disp : Nat) : Option Vec :=
  (look s.ctxs ctx).bind fun c => c.inflight.find? fun v => v.disp == disp

/-! ## Ending commands of a request -/

/-- The committed length of a handle's request. -/
def lengthOf (s : State) (handle : Nat) : Nat := (findReq s handle).elim 0 (·.length)

/-- Other commands outstanding that name a handle. -/
def othersNaming (s : State) (c : Cmd) : List Cmd := s.cmds.filter fun d => d.pkt.req == c.pkt.req && d.order != c.order

/-- A request whose end has been commanded is released once its last vector has left, and its REQ_CLOSE or REQ_CANCEL completes
(R218, 12_graec_commands R296). Commands consumed after the REQ_CLOSE are not waited for: the handle is closed to them. The warnings
of the records are the request's as it was released (02_number_formats R44). -/
def settle (s : State) (handle : Nat) : State :=
  match findReq s handle with
  | none => s
  | some r =>
    if vecsOf s handle then s
    else
      let ends := s.cmds.filter fun c =>
        c.pkt.req == handle && (c.pkt.opc == 0x44 || c.pkt.opc == 0x45) && (c.phase == .leaving || c.phase == .draining)
      let busy := s.cmds.any fun c =>
        c.pkt.req == handle && c.pkt.opc != 0x44 && c.pkt.opc != 0x45 && ends.all fun e => decide (c.order < e.order)
      let held := r.boundBy.elim false fun h => (reqAt s h).elim false fun q =>
        s.cmds.any fun c => c.pkt.opc == 0x43 && c.pkt.req == handleOf h q.gen
      if r.cancelled ∨ (ends ≠ [] ∧ busy = false ∧ held = false) then
        let s := ends.foldl captureCmd s
        ends.foldl (fun t c => match findCmd t c.ring c.pkt.seq with | none => t | some d => finishW t d stOk 0 (warnBits s c))
          (releaseReq s (reqSlot handle))
      else s

/-- Pages bound for a step that is not admitted are victims already taken: they become ash (R170). -/
def spendBound (s : State) (bs : List Bound) : State :=
  bs.foldl (fun s b => countEvict (toAsh s b.slot b.pair b.page 0) b.slot 0 false) s

/-- A command of a request ends: pages taken and not opened go back (R169), and what waited for it proceeds. -/
def endReqCmd (s : State) (c : Cmd) (status result0 warn : Nat) : State :=
  let s := spendBound (giveBackUnused s (reqSlot c.pkt.req)) c.bound
  let s := finishW s c status result0 warn
  let s := settle s c.pkt.req
  match (reqAt s (reqSlot c.pkt.req)).bind (·.draft) with
  | none => s
  | some d => (reqAt s d).elim s fun q => settle s (handleOf d q.gen)

/-- A command of a request ends without effect: the first command's time is not counted (R326). -/
def endReqBusy (s : State) (c : Cmd) (status result0 : Nat) : State :=
  let s := s.updReq (reqSlot c.pkt.req) fun r => if r.firstCmd = some c.consumedAt then { r with firstCmd := none } else r
  endReqCmd s c status result0 (warnBits s c)

/-- A token-returning command completes: TTFT, TBT and the miss they may carry (R325 to R327). -/
def endToken (s : State) (c : Cmd) (result0 : Nat) : State :=
  match findReq s c.pkt.req with
  | none => s
  | some r =>
    let now := s.dev.now
    let first := r.lastToken.isNone
    let span := match r.lastToken with
      | none => now - r.firstCmd.getD now
      | some t => now - max c.consumedAt t
    let target := if first then r.ttftUs else r.tbtUs
    let miss := decide (target ≠ 0 ∧ span > 100 * target) && !c.replay
    let s := s.updReq (reqSlot c.pkt.req) fun r =>
      let r := if first then { r with ttft := sat 32 span }
               else { r with tbtLast := sat 32 span, tbtMax := max r.tbtMax (sat 32 span) }
      { r with lastToken := some now, tbtMisses := r.tbtMisses + b2n miss }
    let s := s.updServe fun v => { v with tokens := v.tokens + 1, misses := v.misses + b2n miss }
    endReqCmd s c stOk result0 (warnBits s c + 4 * b2n miss)

/-! ## Candidate trees (07_attention R177 to R183) -/

/-- The depth of a candidate: 1 for a child of the root. -/
def candDepth (cs : List Cand) : Nat → Nat → Nat
  | 0, _ => 1
  | n + 1, i =>
    match cs[i]? with | none => 1 | some x => if x.parent = 0xFF then 1 else 1 + candDepth cs n x.parent

def depthOf (cs : List Cand) (i : Nat) : Nat := candDepth cs cs.length i

/-- The inline candidates of a REQ_VERIFY. -/
def packetCands (c : Cmd) : List Cand :=
  (List.range (c.p 5 1)).map fun i =>
    { token := c.p (24 + 12 * i) 4, qprob := BitVec.ofNat 32 (c.p (28 + 12 * i) 4), parent := c.p (32 + 12 * i) 1 }

/-- The most probable tokens of a distribution, a tie taking the lower id; tokens it does not list have probability 0. -/
def topTokens (dist : List (Nat × F32)) (b : Nat) : List (Nat × F32) :=
  let ranked := dist.mergeSort fun x y => flt y.2 x.2 || (!flt x.2 y.2 && decide (x.1 ≤ y.1))
  let absent := ((List.range (b + dist.length)).filter fun t => !(dist.any fun e => e.1 == t)).map fun t => (t, fzero false)
  (ranked ++ absent).take b

/-- The nodes of a depth of a candidate list: indices, the root (0xFF) at depth 0. -/
def nodesAt (cs : List Cand) (d : Nat) : List Nat :=
  if d = 0 then [0xFF] else (List.range cs.length).filter fun i => depthOf cs i == d

/-- A draft tree grows by one depth from the draft's distributions (R183). -/
def growTree (cs : List Cand) (dists : SMap (List (Nat × F32))) (d b : Nat) : List Cand :=
  cs ++ ((nodesAt cs d).map fun i =>
    (topTokens (get [] dists (if i = 0xFF then 0 else i + 1)) b).map fun e => ({ token := e.1, qprob := e.2, parent := i } : Cand)).flatten

/-! ## Progress of a command with its vectors -/

/-- The path record of REQ_VERIFY (12_graec_commands R295). -/
def pathRecord (cs : List Cand) (path : List Nat) (next : Nat) : List Byte :=
  ((List.range 8).map fun i => natLe 4 ((path[i]?.bind fun k => cs[k]?).elim 0xFFFFFFFF (·.token))).flatten ++
    (List.range 8).map (fun i => BitVec.ofNat 8 (path[i]?.getD 0xFF)) ++ natLe 1 path.length ++ natLe 3 0 ++ natLe 4 next

/-- A request's pending token after a sample: 0xFFFF_FFFF leaves none (R246). -/
def pendOf (t : Nat) : Option Nat := if t = 0xFFFFFFFF then none else some t

/-- Per mille of a long append, at chunk boundaries (R170, R277). -/
def appendMark (c : Cmd) : Cmd :=
  if c.ended % 256 = 0 ∨ c.ended = c.total then { c with position := c.ended, progress := 1000 * c.ended / max 1 c.total } else c

/-- RESULT0 of a cancelled command of a request: the position reached and the committed length (R308, R309). -/
def cancelResult (s : State) (c : Cmd) : Nat := (if c.pkt.opc = 0x41 then c.position else 0) + lengthOf s c.pkt.req * 2 ^ 32

/-- A REQ_APPEND that OP_ABORT has stopped ends (R308, R326): the request has no pending token. -/
def withdrawn (s : State) (c : Cmd) : State :=
  endReqBusy (s.updReq (reqSlot c.pkt.req) fun r => { r with pending := none }) c stCancelled (cancelResult s c)

/-- What a vector that has completed does to its command (R313, 12_graec_commands R293 to R295). -/
def advance (s : State) (v : Vec) : State :=
  let slot := reqSlot v.xr.req
  if v.discarded then settle s v.xr.req
  else match findCmd s v.ring v.seq with
    | none =>
      let s := if v.xr.phase = 1 then s.updReq slot fun r => { r with length := max r.length (v.xr.pos + 1) } else s
      settle s v.xr.req
    | some c =>
      if v.draft then
        let c := { c with ended := c.ended + 1 }
        let width := (nodesAt c.cands c.draftDepth).length
        if c.ended < width then putCmd s c
        else
          let dists := ((findReq s v.xr.req).elim [] (·.dists))
          let bs := fanOut c.pkt.params (c.p 5 1)
          let cs := growTree c.cands dists c.draftDepth (bs[c.draftDepth]?.getD 0)
          let depth := c.draftDepth + 1
          putCmd s { c with cands := cs, draftDepth := depth, dispatched := 0, ended := 0,
                            total := if depth = c.p 5 1 then 1 + cs.length else 0 }
      else
        let c := { c with ended := c.ended + 1 }
        match c.pkt.opc with
        | 0x42 =>
          let t := v.token.getD 0xFFFFFFFF
          let s := s.updReq slot fun r => { r with length := v.xr.pos + 1, pending := pendOf t, nextStep := (r.nextStep + 1) % 2 ^ 32 }
          endToken s c t
        | 0x41 =>
          let s := s.updReq slot fun r => { r with length := v.xr.pos + 1 }
          let c := appendMark c
          if c.phase = .leaving then
            if c.ended < c.dispatched then putCmd s c
            else
              withdrawn s c
          else if c.ended < c.total then putCmd s c
          else
            let t := v.token.getD 0xFFFFFFFF
            let s := s.updReq slot fun r => { r with pending := pendOf t }
            let res := t + (v.xr.pos + 1) * 2 ^ 32
            if t = 0xFFFFFFFF then endReqCmd s c stOk res (warnBits s c) else endToken s c res
        | 0x43 =>
          if c.ended < c.total then putCmd s c
          else
            let n := (findReq s v.xr.req).elim 0 (·.length)
            let next := v.token.getD 0xFFFFFFFF
            let l := v.path.length
            let s := s.hostWrite (c.p 8 8) (pathRecord c.cands v.path next)
            let s := s.updReq slot fun r => { r with
              length := n + 1 + l, pending := pendOf next, nextStep := (r.nextStep + 1) % 2 ^ 32, scratch := [], dists := [],
              accepted := r.accepted + l, verifies := r.verifies + 1 }
            let s := match (findReq s v.xr.req).bind (·.draft) with
              | none => s
              | some d =>
                if c.p 4 1 = 1 then s.updReq d fun q => { q with length := q.length + 1 + l, pending := pendOf next, scratch := [], dists := [] }
                else s
            endToken s c (next + l * 2 ^ 32)
        | _ => s

/-- Cancel a request (R296): its commands consumed before the one of this order complete with CANCELLED, its vectors are discarded,
its aborted chimney steps are not dispatched again (R315), and it is released when its vectors have left. -/
def cancelReq (s : State) (handle before : Nat) : State :=
  match findReq s handle with
  | none => s
  | some _ =>
    let slot := reqSlot handle
    let named := s.cmds.filter fun c => c.pkt.req == handle && c.pkt.opc != 0x45 && c.pkt.opc != 0x44 && decide (c.order < before)
    let s := { s with
      ctxs := s.ctxs.map fun e => (e.1, e.2.map fun c =>
        { c with inflight := c.inflight.map fun v => if v.xr.req = handle then { v with discarded := true } else v }),
      tiles := s.tiles.map fun e => (e.1, e.2.map fun t =>
        { t with exec := t.exec.map fun x => if x.xr.req = handle then { x with discarded := true } else x,
                 fires := t.fires.map fun f => (f.1, f.2.map fun y => if y.req = handle then { y with discarded := true } else y) }),
      chim := { s.chim with redo := s.chim.redo.filter fun x => x.xr.req != handle } }
    let s := named.foldl (fun s c =>
      match findCmd s c.ring c.pkt.seq with | none => s | some d => finish (spendBound s d.bound) d stCancelled (cancelResult s d)) s
    let s := s.updReq slot fun r => { r with cancelled := true, closing := true }
    settle s handle

/-! ## Events of an append (12_graec_commands, event record) -/

/-- An event at a byte offset: its token, its bags, and the offset of the next. -/
def eventAt (s : State) (addr off : Nat) : Nat × List Bag × Nat :=
  let u (o n : Nat) : Nat := leNat (s.hostRead (addr + o) n)
  let nb := u (off + 4) 1
  let r := (List.range nb).foldl (fun (st : List Bag × Nat) _ =>
    let n := u (st.2 + 2) 2
    (st.1 ++ [{ table := u st.2 1, ids := (List.range n).map fun i => u (st.2 + 8 + 8 * i) 8 }], st.2 + 8 + 8 * n)) ([], off + 8)
  (u off 4, r.1, r.2)

/-- The offset of event `i`. -/
def eventOff (s : State) (addr : Nat) : Nat → Nat
  | 0 => 0
  | n + 1 => (eventAt s addr (eventOff s addr n)).2.2

/-- Token and bags of position `i` of a REQ_APPEND. -/
def appendItem (s : State) (c : Cmd) (i : Nat) : Nat × List Bag :=
  match c.p 4 1 with
  | 0 => (c.p (24 + 4 * i) 4, [])
  | 1 => (leNat (s.hostRead (c.p 8 8 + 4 * i) 4), [])
  | _ => let e := eventAt s (c.p 8 8) (eventOff s (c.p 8 8) i); (e.1, e.2.1)

/-! ## The next vector of a command -/

/-- The request slot a command's next vector runs for: the bound draft while a draft tree grows (R183). -/
def nextSlot (s : State) (c : Cmd) : Nat :=
  if c.pkt.opc = 0x43 ∧ c.p 4 1 = 1 ∧ c.draftDepth < c.p 5 1 then
    ((findReq s c.pkt.req).bind (·.draft)).getD (reqSlot c.pkt.req)
  else reqSlot c.pkt.req

/-- A command's next vectors are draft vectors. -/
def drafting (c : Cmd) : Bool := decide (c.pkt.opc = 0x43 ∧ c.p 4 1 = 1 ∧ c.draftDepth < c.p 5 1)

/-- Vectors of the group under way: the target vectors, or one depth of the draft. -/
def groupSize (c : Cmd) : Nat := if drafting c then (nodesAt c.cands c.draftDepth).length else c.total

/-- The execution record and bags of a command's next vector. -/
def nextVec (s : State) (c : Cmd) : ExecRec × List Bag :=
  let slot := nextSlot s c
  match reqAt s slot with
  | none => ({ req := 0, variant := 0, cls := 0, phase := 0, pos := 0, step := 0, token := 0, cand := 0xFF, first := false, last := false }, [])
  | some r =>
    let base : ExecRec :=
      { req := handleOf slot r.gen, variant := r.variant, cls := r.cls, phase := 0, pos := r.length, step := r.nextStep,
        token := r.pending.getD 0xFFFFFFFF, cand := 0xFF, first := true, last := true }
    match c.pkt.opc with
    | 0x41 =>
      let it := appendItem s c c.dispatched
      ({ base with phase := 1, pos := r.length + (c.dispatched - c.ended), token := it.1, first := decide (c.dispatched = 0),
                   last := decide (c.dispatched + 1 = c.total) }, it.2)
    | 0x43 =>
      if drafting c then
        let node := (nodesAt c.cands c.draftDepth)[c.dispatched]?.getD 0xFF
        let k := c.cands[node]?
        -- the draft root is the command's first vector (R211, R313)
        ({ base with phase := 2, pos := r.length + c.draftDepth, cand := node, last := false,
                     token := if node = 0xFF then ((findReq s c.pkt.req).bind (·.pending)).getD 0xFFFFFFFF else k.elim 0 (·.token), first := decide (node = 0xFF) }, [])
      else if c.dispatched = 0 then ({ base with phase := 2, first := decide (c.p 4 1 = 0), last := false }, [])
      else
        let i := c.dispatched - 1
        ({ base with phase := 2, pos := r.length + depthOf c.cands i, cand := i, first := false,
                     last := decide (c.dispatched + 1 = c.total), token := c.cands[i]?.elim 0 (·.token) }, [])
    | _ => (base, [])

/-! ## Ranking (R318 to R320) -/

/-- A candidate for a boundary. -/
structure Pick where
  cmd : Cmd
  slot : Nat
  cls : Nat
  slack : Option Rat
  deriving DecidableEq, Repr

/-- The expected step time in ns (R319, 14_chimney R355). -/
def tExp (s : State) (c : Ctx) : Rat :=
  if c.chimney then s.chim.staticNs else (c.stepNs : Rat) * 900 / (capW s.thm : Rat)

/-- The slack of a command's vectors in ns (R320); none is +∞. -/
def slackOf (s : State) (x : Ctx) (r : Req) (c : Cmd) : Option Rat :=
  let d : Option Nat :=
    match r.lastToken with
    | none => if r.ttftUs > 0 then some (10 * r.firstCmd.getD c.consumedAt + 1000 * r.ttftUs) else none
    | some t => if r.tbtUs > 0 then some (10 * max c.consumedAt t + 1000 * r.tbtUs) else none
  d.map fun d => (d : Rat) - 10 * s.dev.now - tExp s x

/-- The order of R318. -/
def Pick.before (a b : Pick) : Bool :=
  if a.cls ≠ b.cls then decide (a.cls < b.cls)
  else
    let less : Bool := match a.slack, b.slack with
      | some x, some y => decide (x < y) | some _, none => true | none, _ => false
    let same : Bool := decide (a.slack = b.slack)
    if !same then less
    else if a.cmd.consumedAt ≠ b.cmd.consumedAt then decide (a.cmd.consumedAt < b.cmd.consumedAt)
    else decide (a.slot ≤ b.slot)

/-- A chimney step of a command is being aborted, or waits to be dispatched again: nothing of the command goes ahead of it (14_chimney
R357). -/
def abortPending (s : State) (c : Cmd) : Bool :=
  let mine (x : CStep) : Bool := x.ring == c.ring && x.seq == c.pkt.seq
  s.chim.steps.any (fun x => x.aborting && mine x) || s.chim.redo.any mine

/-- The commands with a vector to dispatch on a context, in rank order. -/
def picks (s : State) (ctx : Nat) (x : Ctx) : List Pick :=
  (s.cmds.filterMap fun c =>
    if c.phase = .running ∧ c.dispatched < groupSize c ∧ abortPending s c = false then
      match reqAt s (nextSlot s c), findReq s c.pkt.req with
      | some q, some r =>
        if q.open_ ∧ q.ctx = ctx then some { cmd := c, slot := nextSlot s c, cls := q.cls, slack := slackOf s x r c } else none
      | _, _ => none
    else none).mergeSort Pick.before

/-! ## Limits and gates (R314, R317, R321 to R323) -/

/-- A group of vectors under way: of a REQ_VERIFY's target vectors or of one depth of its draft (R314). -/
def groupOpen (c : Cmd) : Bool := c.pkt.opc == 0x43 && decide (c.phase = .running ∧ c.dispatched ≠ 0 ∧ c.dispatched < groupSize c)

/-- Places that groups under way have yet to take (R314). -/
def reserved (s : State) : Nat := (s.cmds.map fun c => if groupOpen c then groupSize c - c.dispatched else 0).sum

/-- The in-flight limits leave room for `n` vectors of a class (R317), beside the places of groups under way. -/
def flightRoom (s : State) (cls n : Nat) : Bool :=
  decide (flight s (fun _ => true) + reserved s + n ≤ if cls ≥ 2 then 7680 else 8192)

/-- The dies for which a request carries a flue weight (R321). -/
def flueWeights (x : Ctx) (r : Req) : List Nat :=
  let segs := match look (x.variants.map fun e => (e.1, some e.2)) r.variant with
    | none => []
    | some v => match x.image with
      | none => []
      | some i => v.segs.map fun e => dieOf (physArray i e.1 / 4)
  (segs ++ r.flueDies).dedup

/-- The flue gate defers a vector. -/
def flueDefers (s : State) (x : Ctx) (r : Req) : Bool :=
  (flueWeights x r).any fun d => s.serve.flueGate[d]?.getD false

/-- The bytes of KV pages a vector's read sets can reach (R322). -/
def kvCharge (s : State) (ctx : Nat) (r : Req) : Nat :=
  pairCount s ctx * (r.budget + 3) * pageBytes ((look s.ctxs ctx).elim 0 (·.hdim))

/-- The charges of the last 100 µs. -/
def recentCharges (s : State) : List (Nat × Nat) := s.serve.charges.filter fun e => s.dev.now < e.1 + 10000

/-- The HBM gate defers a vector. -/
def hbmDefers (s : State) (charge : Nat) : Bool :=
  decide (((recentCharges s).map (·.2)).sum + charge > 1150000000 * capW s.thm / 900)

/-- PCI Express reads of tier-2 rows and spilled pages outstanding: those of instructions that have not completed. -/
def pcieReads (s : State) : Nat :=
  (s.tiles.map fun e => (e.2.bind (·.exec)).elim 0 fun x => (x.issued.map fun i => if i.done then 0 else i.pcie).sum).sum

/-- The PCI Express gate defers a vector. -/
def pcieDefers (s : State) (x : Ctx) (r : Req) (bags : List Bag) : Bool :=
  decide (pcieReads s > 4096) &&
    ((r.tables.any fun t => t.2.any fun e => !e.2.ash && (s.page e.2.slot).elim false (·.spilled)) ||
      bags.any fun b => (look (x.tables.map fun e => (e.1, some e.2)) b.table).elim false fun t => t.tier == 2)

/-! ## Admission and dispatch (R169, R170, R216, R316) -/

/-- Positions a command needs pages for before its next vector: request slot, first position and count. -/
def pageNeeds (s : State) (c : Cmd) : List (Nat × Nat × Nat) :=
  match c.pkt.opc with
  | 0x42 => [(reqSlot c.pkt.req, lengthOf s c.pkt.req, 1)]
  | 0x41 =>
    if c.dispatched < c.admitted then []
    else [(reqSlot c.pkt.req, lengthOf s c.pkt.req + (c.dispatched - c.ended), min 256 (c.total - c.dispatched))]
  | 0x43 =>
    if c.dispatched ≠ 0 ∨ c.admitted ≠ 0 then []
    else
      let deep := if c.p 4 1 = 1 then c.p 5 1 else ((List.range c.cands.length).map (depthOf c.cands)).foldl max 0
      (reqSlot c.pkt.req, lengthOf s c.pkt.req, deep + 1) ::
        (if c.p 4 1 = 1 then
          match (findReq s c.pkt.req).bind (·.draft) with
          | none => []
          | some d => [(d, (reqAt s d).elim 0 (·.length), deep + 1)]
         else [])
  | _ => []

/-- Take the pages and chunks of a command (R169, R189): whether all were taken, and the pages bound. A step or verification that is
refused has taken none (R273). -/
def admitChunk (s : State) (c : Cmd) : Bool × State × List Bound :=
  let needs := pageNeeds s c
  let got := needs.foldl (fun (st : Bool × State × List Bound) n =>
    if !st.1 then st
    else
      let evict := (reqAt st.2.1 n.1).elim false (·.evict)
      takeAll evict n.1 (needsOf st.2.1 n.1 n.2.1 n.2.2) st.2.1 st.2.2) (true, s, [])
  if got.1 || c.pkt.opc == 0x41 then got else (false, (needs.map (·.1)).foldl (untake s) got.2.1, got.2.2)

/-- After an admission the command counts what it has been given. -/
def admitted (c : Cmd) : Nat :=
  if c.pkt.opc = 0x41 then (if c.dispatched < c.admitted then c.admitted else c.dispatched + min 256 (c.total - c.dispatched)) else 1

/-- A blank vector. -/
def mkVec (disp : Nat) (xr : ExecRec) (bags : List Bag) (ring seq : Nat) (bound : List Bound) (draft : Bool) (chim : Nat) : Vec :=
  { disp := disp, xr := xr, ring := ring, seq := seq, bags := bags, bound := bound, endedTiles := 0, token := none, kept := [],
    discarded := false, draft := draft, chimStep := chim, outliers := [0, 0, 0, 0], blocks := [0, 0, 0, 0], path := [],
    mass := [], reads := [] }

/-- A chimney step record. -/
def mkStep (step ctx ring seq : Nat) (xr : ExecRec) (bags : List Bag) (bound : List Bound) (draft : Bool) (now aborts : Nat) : CStep :=
  { step := step, ctx := ctx, ring := ring, seq := seq, xr := xr, bags := bags, bound := bound, draft := draft, started := now, dispatched := true,
    ended := false, done := [], acks := [], aborting := false, committed := false, refused := false, failWith := none,
    token := none, path := [], nonfinite := false, zeroBlock := false, aborts := aborts, saved := [], freed := [], evicts := [], filled := [] }

/-- Put a vector into a context's pipeline (R216): at the crown it is one chimney step, and START goes down the tree
(14_chimney R351, R352). -/
def enter (s : State) (ctx : Nat) (x : Ctx) (xr : ExecRec) (bags : List Bag) (ring seq : Nat) (bound : List Bound)
    (draft : Bool) (aborts : Nat) : State :=
  let crown := x.chimney && isCrown s
  let step := if crown then s.chim.lastStep + 1 else 0
  let v := mkVec x.dispatched xr bags ring seq bound draft step
  let charge := (reqAt s (slotFor s ctx xr.req)).elim 0 (kvCharge s ctx)
  let s := s.updCtx ctx fun c => { c with dispatched := c.dispatched + 1, inflight := c.inflight ++ [v] }
  let s := s.updServe fun e => { e with charges := recentCharges s ++ [(s.dev.now, charge)], hwm := max e.hwm (flight s fun _ => true) }
  if crown then
    let s := s.updChim fun c => { c with
      lastStep := step, steps := c.steps ++ [mkStep step ctx ring seq xr bags bound draft s.dev.now aborts] }
    sendDown s 0x10 step (natLe 2 ctx ++ natLe 6 0 ++ xr.bytes)
  else s

/-- Dispatch a command's next vector. -/
def dispatchCmd (s : State) (ctx : Nat) (x : Ctx) (c : Cmd) (bound : List Bound) : State :=
  let s := if c.dispatched = 0 ∧ (c.pkt.opc ≠ 0x43 ∨ c.draftDepth = 0 ∨ (c.p 4 1 = 0)) then captureCmd s c else s
  let (xr, bags) := nextVec s c
  let s := putCmd s { c with dispatched := c.dispatched + 1, admitted := admitted c, bound := [] }
  enter s ctx x xr bags c.ring c.pkt.seq (c.bound ++ bound) (drafting c) 0

/-- Every ENTRY tile of a context has ended its current execution (R316). -/
def atBoundary (s : State) (x : Ctx) : Bool :=
  match x.image with
  | none => false
  | some i => i.tiles.all fun t =>
      !t.entry || ((s.tile t.tile).exec.isNone && (s.tile t.tile).nextDisp == x.dispatched && !(s.tile t.tile).stopped)

/-- The gates that defer a vector of class 2 to 7 of a request (R321 to R323): flue, HBM, PCI Express. -/
def gatesOf (s : State) (ctx : Nat) (x : Ctx) (r : Req) (bags : List Bag) : Bool × Bool × Bool :=
  (flueDefers s x r, hbmDefers s (kvCharge s ctx r), pcieDefers s x r bags)

/-- Some gate defers. -/
def anyGate (g : Bool × Bool × Bool) : Bool := g.1 || g.2.1 || g.2.2

/-- What the gates have deferred at a boundary. -/
def orGates (g h : Bool × Bool × Bool) : Bool × Bool × Bool := (g.1 || h.1, g.2.1 || h.2.1, g.2.2 || h.2.2)

/-- Try the ranked candidates in turn (R324): gates defer, a full pool turns a step away or makes an append wait (R170). The gates
look at the request whose vector it is, the bound draft for a draft vector; a group has its places from its first vector on. -/
def tryPicks (ctx : Nat) (x : Ctx) : List Pick → State → Bool × Bool × Bool → State × (Bool × Bool × Bool)
  | [], s, g => (s, g)
  | p :: l, s, g =>
    match reqAt s p.slot, findReq s p.cmd.pkt.req with
    | some q, some _ =>
      let inside := groupOpen p.cmd
      let need := if p.cmd.pkt.opc = 0x43 then groupSize p.cmd else 1
      let h := if decide (p.cls ≥ 2) && !inside then gatesOf s ctx x q (nextVec s p.cmd).2 else (false, false, false)
      if !inside && !flightRoom s p.cls need then tryPicks ctx x l s g
      else if anyGate h then tryPicks ctx x l s (orGates g h)
      else
        match admitChunk s p.cmd with
        | (true, s, bound) => (dispatchCmd s ctx x p.cmd bound, g)
        | (false, s, bound) =>
          let s := if p.cmd.pkt.opc = 0x41 then
                     putCmd s { p.cmd with phase := .chunkWait s.dev.now, bound := p.cmd.bound ++ bound }
                   else endReqBusy (spendBound s bound) p.cmd stBusy 1000000
          tryPicks ctx x l s g
    | _, _ => tryPicks ctx x l s g

/-- The command whose group is under way on a context (R314). -/
def groupOn (s : State) (ctx : Nat) : Option Cmd :=
  s.cmds.find? fun c => groupOpen c && (reqAt s (nextSlot s c)).elim false fun q => q.ctx == ctx

/-- A group under way takes the boundary (R314). -/
def openGroup (s : State) (ctx : Nat) (ps : List Pick) : List Pick :=
  match groupOn s ctx with
  | none => ps
  | some c => ps.filter fun p => p.cmd.ring == c.ring && p.cmd.order == c.order

/-- The aborted step a crown dispatches next on a context (14_chimney R357): the first, which a group of another command keeps
waiting. -/
def redoNext (s : State) (ctx : Nat) : Option CStep :=
  (s.chim.redo.find? fun e => e.ctx == ctx).filter fun e =>
    (groupOn s ctx).elim true fun c => c.ring == e.ring && c.pkt.seq == e.seq

/-- The gates that defer an aborted step: those of its vector, unless it belongs to a group. -/
def redoGates (s : State) (x : Ctx) (e : CStep) : Bool × Bool × Bool :=
  if e.xr.cls < 2 ∨ e.xr.phase = 2 then (false, false, false)
  else (reqAt s (slotFor s e.ctx e.xr.req)).elim (false, false, false) fun r => gatesOf s e.ctx x r e.bags

/-- An aborted step is dispatched again with its record as it stands, under a new number (14_chimney R357). -/
def redoStep (s : State) (x : Ctx) (e : CStep) : State :=
  enter (s.updChim fun c => { c with redo := c.redo.filter fun y => y.step != e.step }) e.ctx x e.xr e.bags e.ring e.seq e.bound
    e.draft e.aborts

/-- The scheduler's choice at a boundary: ahead of new vectors the crown's aborted step, under the limits and gates of R316 to R323;
the deferrals it has counted. -/
def chooseVec (s : State) (ctx : Nat) (x : Ctx) : State × (Bool × Bool × Bool) :=
  let rest (g : Bool × Bool × Bool) := tryPicks ctx x (openGroup s ctx (picks s ctx x)) s g
  match if x.chimney then redoNext s ctx else none with
  | none => rest (false, false, false)
  | some e =>
    let g := redoGates s x e
    if !flightRoom s e.xr.cls 1 || anyGate g then rest g else (redoStep s x e, (false, false, false))

/-- The deferral counters of R330. -/
def countDefers (s : State) (g : Bool × Bool × Bool) : State :=
  s.updServe fun v => { v with
    flueDefers := v.flueDefers + b2n g.1, hbmDefers := v.hbmDefers + b2n g.2.1, pcieDefers := v.pcieDefers + b2n g.2.2 }

/-- A dispatch boundary of a context this device schedules (R316). -/
def boundaryLocal (s : State) (ctx : Nat) (x : Ctx) : State :=
  if x.chimney && decide (s.chim.steps.length ≥ 4096) then s
  else
    let (s, g) := chooseVec s ctx x
    countDefers s g

/-! ## Chunks of an append (R170, R293) -/

/-- A waiting append tries its chunk again. -/
def chunkRetry (s : State) (c : Cmd) : State :=
  match admitChunk s c with
  | (true, s, bound) => putCmd s { c with phase := .running, admitted := c.dispatched + min 256 (c.total - c.dispatched), bound := c.bound ++ bound }
  | (false, s, bound) => putCmd s { c with bound := c.bound ++ bound }

end Sys2Proof.Machine
end

