-- ==== Sys2Proof/Machine/Requests.lean ====
section
/-! DEFINITION. The commands of requests and prefixes (12_graec_commands R292 to R299; 07_attention R167 to R183;
11_graec_rings R276), and the serving events that are not dispatch (07_attention R170, R171; 13_serving R321). -/

namespace Sys2Proof.Machine

/-! ## What every command of a request checks -/

/-- The checks that come before those of the opcode: the handle (R262), DATA_LOST (R297), the ring (R263), a bound draft
(R182). -/
def onReq (s : State) (c : Cmd) (lostOk draftOk : Bool) (f : Req → State) : State :=
  match findReq s c.pkt.req with
  | none => finish s c stBadHandle 0
  | some r =>
    if r.dataLost && !lostOk then finish s c stDataLost 0
    else if r.ring ≠ c.ring then finish s c stNotPermitted 0
    else if r.boundBy.isSome && !draftOk then finish s c stNotPermitted 0
    else f r

/-- A copy of a stored record as a command's own final record (11_graec_rings R275, R276). -/
def finishCopy (s : State) (c : Cmd) (r : Rec) : State :=
  let s := dropCmd s c
  if c.replay then s
  else
    let r := dupRec (s.fn c.fn).session c.pkt r
    let s := postRec s c.ring true c.pkt.notify r
    let s := s.updRing c.ring fun q => q.stored r
    reap (postDups s c.ring c.pkt.seq r) c.ring

/-- The step index of a command (R276): the next one goes on; an earlier one gets its kept record or STALE_SEQ. -/
def onStep (s : State) (c : Cmd) (r : Req) (f : State) : State :=
  let step := c.p 0 4
  if step = r.nextStep then f
  else match r.kept.find? fun e => e.1 == step with
    | some e => finishCopy s c e.2
    | none => if (step + 2 ^ 32 - r.nextStep) % 2 ^ 32 < 2 ^ 31 then badParam s c 32 else finish s c stStaleSeq 0

/-- A command of a request begins (R313, R325). -/
def beginReq (s : State) (c : Cmd) : State :=
  let s := putCmd s { c with phase := .running, dispatched := 0, ended := 0, admitted := 0 }
  if c.pkt.opc = 0x43 then s
  else s.updReq (reqSlot c.pkt.req) fun r => { r with firstCmd := some (r.firstCmd.getD c.consumedAt) }

/-- The BAD_PARAM of a sequence that grows too long, where no one field is at fault: the offset is free (log entry 21). -/
def tooLong (s : State) (c : Cmd) : State := let (x, s) := s.fresh; badParam s c (x % 256)

/-! ## REQ_OPEN (R292) -/

/-- The lowest free request slot (13_serving R312). -/
def freeSlot (s : State) : Nat :=
  ((List.range (s.reqs.length + 1)).find? fun i => (reqAt s i).elim true fun r => !r.open_).getD 0

/-- A program holds a KVEVICT marked V (R172). -/
def hasEvict (i : Image) : Bool := i.tiles.any fun t => t.code.any fun w => iOpc w.toNat == 0x24 && iV w.toNat

/-- The request REQ_OPEN makes. -/
def newReq (s : State) (c : Cmd) (slot : Nat) (draft : Option Nat) (px : Option Prefix) : Req :=
  { open_ := true, gen := (reqAt s slot).elim 0 (·.gen), ctx := c.pkt.ctx, fn := c.fn, ring := c.ring, cls := c.pkt.prio,
    variant := c.p 0 2, evict := bit (c.p 2 1) 0, verify := bit (c.p 2 1) 1, topK := c.p 3 1,
    temp := BitVec.ofNat 32 (c.p 4 4), topP := BitVec.ofNat 32 (c.p 8 4), budget := c.p 12 4, quota := c.p 16 4,
    ttftUs := c.p 20 4, tbtUs := c.p 24 4, seed := BitVec.ofNat 64 (c.p 32 8), draft := draft, boundBy := none,
    length := px.elim 0 (·.n), nextStep := 0, pending := none, kept := [], tables := [], taken := [], chunks := [],
    staging := [], scratch := [], dists := [], nonfinite := false, dataLost := false, closing := false, cancelled := false,
    stageFrom := px.elim 0 fun p => (p.n + 255) / 256 * 256, openTime := s.dev.now, firstCmd := none, lastToken := none,
    ttft := 0, tbtLast := 0, tbtMax := 0, tbtMisses := 0, quotaEvicts := 0, pressureEvicts := 0, spillReads := 0,
    accepted := 0, verifies := 0, flueDies := [] }

/-- The page table of a pair of a request opened from a handle (R175). -/
def prefixTable (s : State) (p : Prefix) (pair : Nat) : SMap Entry :=
  (get [] p.pages pair).map fun e =>
    let last := decide (e.1 = (p.n - 1) / 256) && p.n % 256 != 0
    let x := s.page e.2
    let cs := ((p.carries.find? fun k => k.1 == pair).map (·.2)).getD ([], [])
    (e.1, { slot := e.2, ash := false, shared := true, full := !last, radius := if last then 0#32 else x.elim 0#32 (·.radius),
            mean := if last then [] else x.elim [] (·.mean), score := 0, epoch := 0,
            count := if last then p.n % 256 else 256, kcarry := if last then cs.1 else [], vcarry := if last then cs.2 else [] })

/-- The pages a prefix handle references. -/
def Prefix.ids (p : Prefix) : List Nat := (p.pages.map fun e => e.2.map (·.2)).flatten

/-- The page-table chunks of a prefix's entries. -/
def Prefix.chunks (p : Prefix) : List (Nat × Nat) :=
  (p.pages.map fun e => (e.2.map fun x => (e.1, x.1 / 64)).dedup).flatten

/-- REQ_OPEN makes the request (R292, R157, R175, R182); a chimney request starts with the token ids of its prefix (14_chimney R361). -/
def openReq (s : State) (c : Cmd) (draft : Option Nat) (px : Option Prefix) : State :=
  let slot := freeSlot s
  let r := newReq s c slot draft px
  let pairs := pairCount s c.pkt.ctx
  let r : Req := match px with
    | none => r
    | some p => { r with tables := p.pages.map (fun e => (e.1, prefixTable s p e.1)), chunks := p.chunks }
  let s := (px.elim [] (·.ids)).foldl (fun s id => s.updPage id fun x => { x with refcnt := x.refcnt + 1 }) s
  let s := if c.pkt.prio < 2 then
      s.updKv fun k => { k with hobFree := k.hobFree - pairs, hobHwm := max k.hobHwm (0x2000 - (k.hobFree - pairs)) }
    else s
  let s := match draft with | none => s | some d => s.updReq d fun q => { q with boundBy := some slot }
  let s := s.setReq slot (some r)
  let s := match px with
    | none => s
    | some p => if p.history = [] then s else s.updChim fun x => { x with history := put [] x.history slot p.history }
  finish (captureOpen s c c.pkt.ctx (handleOf slot r.gen)) c stOk (handleOf slot r.gen)

/-- REQ needs of a new request (08_tables_tiers R189): record, scratch, and the chunks of its prefix (DEDUCED, log entry 31). -/
def openBytes (s : State) (c : Cmd) (px : Option Prefix) : Nat :=
  1024 + (if bit (c.p 2 1) 1 then scratchBytes s c.pkt.ctx else 0) + (px.elim 0 fun p => p.chunks.length * chunkBytes s c.pkt.ctx)

/-- REQ_OPEN (R292): its statuses in the order of R292's list (DEDUCED, log entry 30). -/
def execReqOpen (ring seq : Nat) (s : State) : Host.Outcome State Fault Refusal :=
  .next (onReady 0x40 ring seq (fun c s =>
    match look s.ctxs c.pkt.ctx with
    | none => finish s c stBadHandle 0
    | some x =>
      let px := look s.kv.prefixes (c.p 40 8)
      let pages := px.elim 0 fun p => (p.n + 255) / 256
      let own := px.filter fun p => p.ctx == c.pkt.ctx
      let draft := if c.p 28 4 = noReq then none else findReq s (c.p 28 4)
      let bad := firstBad [
        (32, c.p 0 2 == 0 || x.variants.any fun e => e.1 == c.p 0 2),
        (32, own.elim true fun p => p.variant == c.p 0 2),
        (48, own.isNone || c.p 16 4 == 0 || decide (pages + 3 ≤ c.p 16 4))]
      match bad with
      | some o => badParam s c o
      | none =>
        if c.p 40 8 ≠ 0 ∧ own.isNone then finish s c stBadHandle 0
        else if c.p 28 4 ≠ noReq ∧ (draft.elim true fun d => d.fn != c.fn || d.closing) = true then finish s c stBadHandle 0
        else match x.image with
          | none => finish s c stNotPermitted 0
          | some i =>
            let vocab (k : Nat) : Nat := (look s.ctxs k).elim 0 fun y => y.image.elim 0 (·.vocab)
            if x.halted then finish s c stDevFailed 0
            else if x.chimney && !(isCrown s && x.ready) then finish s c stNotPermitted 0
            else if bit (c.p 2 1) 0 && !hasEvict i then finish s c stNotPermitted 0
            else if draft.elim false (fun d => d.ctx == c.pkt.ctx || vocab d.ctx != i.vocab || d.draft.isSome || d.boundBy.isSome) then
              finish s c stNotPermitted 0
            else if freeSlot s ≥ 2 ^ 20 || !reqFits s (openBytes s c px) ||
                (decide (c.pkt.prio < 2) && decide (s.kv.hobFree < pairCount s c.pkt.ctx)) ||
                (px.elim false fun p => p.ids.any fun id => (s.page id).elim false fun y => decide (y.refcnt ≥ 65535)) then
              finish s c stNoResource 0
            else openReq s c (draft.map fun _ => reqSlot (c.p 28 4)) px) s)

/-! ## REQ_APPEND (R293) -/

/-- The first zero-or-more reserved bytes that are not 0, as an offset. -/
def resvAt (s : State) (addr off n : Nat) : Option Nat :=
  (List.range n).findSome? fun k => if Mem.byte s.hostMem (addr + off + k) = 0#8 then none else some (off + k)

/-- One bag of an event at `off` (R195, R293): an offending offset, or the offset past it with its table. -/
def bagCheck (s : State) (x : Ctx) (addr len off : Nat) (seen : List Nat) : Except (Option Nat) (Nat × Nat) :=
  let u (o n : Nat) : Nat := leNat (s.hostRead (addr + o) n)
  if off + 8 > len then .error none
  else
    let tab := u off 1
    let n := u (off + 2) 2
    if seen.contains tab then .error (some off)
    else if (resvAt s addr (off + 1) 1).isSome then .error (some (off + 1))
    else if n > 1024 then .error (some (off + 2))
    else match resvAt s addr (off + 4) 4 with
      | some o => .error (some o)
      | none =>
        if off + 8 + 8 * n > len then .error none
        else
          let rows := ((x.tables.find? fun e => e.1 == tab).map (·.2.rows)).getD (2 ^ 40)
          match (List.range n).findSome? fun k =>
              if u (off + 8 + 8 * k) 8 % 2 ^ 40 ≥ rows then some (off + 8 + 8 * k)
              else resvAt s addr (off + 8 + 8 * k + 5) 3 with
          | some o => .error (some o)
          | none => .ok (off + 8 + 8 * n, tab)

/-- One event at `off`: an offending offset (`none` when SRC_LEN is at fault), or the offset of the next event. -/
def eventCheck (s : State) (x : Ctx) (vocab addr len off : Nat) : Except (Option Nat) Nat :=
  let u (o n : Nat) : Nat := leNat (s.hostRead (addr + o) n)
  if off + 8 > len then .error none
  else if u off 4 ≥ vocab then .error (some off)
  else if u (off + 4) 1 > 8 then .error (some (off + 4))
  else match resvAt s addr (off + 5) 3 with
    | some o => .error (some o)
    | none =>
      ((List.range (u (off + 4) 1)).foldlM (fun (st : Nat × List Nat) _ =>
        (bagCheck s x addr len st.1 st.2).map fun r => (r.1, r.2 :: st.2)) (off + 8, [])).map (·.1)

/-- The payload of a REQ_APPEND: the RESULT0 of its BAD_PARAM. -/
def appendBad (s : State) (c : Cmd) (x : Ctx) (vocab : Nat) : Option Nat :=
  let n := c.p 0 4
  match c.p 4 1 with
  | 0 => ((List.range n).find? fun i => decide (c.p (24 + 4 * i) 4 ≥ vocab)).map fun i => 56 + 4 * i
  | 1 => ((List.range n).find? fun i => decide (leNat (s.hostRead (c.p 8 8 + 4 * i) 4) ≥ vocab)).map fun i => payloadOff 40 (4 * i)
  | _ =>
    match (List.range n).foldlM (fun off _ => eventCheck s x vocab (c.p 8 8) (c.p 16 8) off) 0 with
    | .error none => some 48
    | .error (some o) => some (payloadOff 40 o)
    | .ok o => if o = c.p 16 8 then none else some 48

/-- REQ_APPEND (R293, R173): the whole payload is checked before a position is dispatched; the pending token is discarded. -/
def execReqAppend (ring seq : Nat) (s : State) : Host.Outcome State Fault Refusal :=
  .next (onReady 0x41 ring seq (fun c s =>
    if !reqTurn s c then s
    else onReq s c false false fun r =>
      match look s.ctxs r.ctx with
      | none => finish s c stBadHandle 0
      | some x =>
        if r.length + c.p 0 4 > 4194304 then badParam s c 32
        else match appendBad s c x (x.image.elim 0 (·.vocab)) with
          | some o => badParam s c o
          | none =>
            let c := { c with total := c.p 0 4 }
            let s := beginReq s c
            let s := s.updReq (reqSlot c.pkt.req) fun r => { r with pending := none }
            if isLong c.pkt then (findCmd s ring seq).elim s (acceptLong s) else s) s)

/-! ## REQ_STEP and REQ_VERIFY (R294, R295) -/

/-- REQ_STEP (R294). -/
def execReqStep (ring seq : Nat) (s : State) : Host.Outcome State Fault Refusal :=
  .next (onReady 0x42 ring seq (fun c s =>
    if !reqTurn s c then s
    else onReq s c false false fun r =>
      onStep s c r
        (if r.pending.isNone then finish s c stNotPermitted 0
         else if r.length + 1 > 4194304 then tooLong s c
         else beginReq s { c with total := 1 })) s)

/-- A client tree breaks R177 or R178: the offset of the offending field. -/
def treeBad (cs : List Cand) (vocab : Nat) : Option Nat :=
  firstBad (((List.range cs.length).map fun i =>
    let k := cs[i]?.getD { token := 0, qprob := 0#32, parent := 0xFF }
    [(56 + 12 * i, decide (k.token < vocab) &&
        (cs.zipIdx.all fun e => !(decide (i < e.2) && e.1.parent == k.parent && e.1.token == k.token))),
     (64 + 12 * i, decide (depthOf cs i ≤ 8))]).flatten)

/-- REQ_VERIFY (R295, R178, R179, R182, R183). -/
def execReqVerify (ring seq : Nat) (s : State) : Host.Outcome State Fault Refusal :=
  .next (onReady 0x43 ring seq (fun c s =>
    if !reqTurn s c then s
    else onReq s c false false fun r =>
      onStep s c r
        (let mode := c.p 4 1
         let draft := r.draft.bind (reqAt s)
         let cs := if mode = 0 then packetCands c else []
         let deep := if mode = 1 then c.p 5 1 else ((List.range cs.length).map (depthOf cs)).foldl max 0
         if r.pending.isNone || !r.verify then finish s c stNotPermitted 0
         else if mode = 1 && (draft.elim true fun d => !d.verify) then finish s c stNotPermitted 0
         else if mode = 1 && (draft.elim false (·.dataLost)) then finish s c stDataLost 0
         else match treeBad cs ((look s.ctxs r.ctx).elim 0 fun x => x.image.elim 0 (·.vocab)) with
           | some o => badParam s c o
           | none =>
             if r.length + 1 + deep > 4194304 ∨ (mode = 1 ∧ draft.elim 0 (·.length) + 1 + deep > 4194304) then tooLong s c
             else
               let s := s.updReq (reqSlot c.pkt.req) fun r => { r with scratch := [], dists := [] }
               let s := match r.draft with
                 | none => s
                 | some d => if mode = 1 then s.updReq d fun q => { q with scratch := [], dists := [] } else s
               beginReq s { c with cands := cs, draftDepth := 0, total := if mode = 0 then 1 + cs.length else 0 })) s)

/-! ## REQ_CLOSE, REQ_CANCEL, REQ_QUERY (R296, R298) -/

/-- REQ_CLOSE (R296): the request's outstanding commands complete first; a bound draft waits for its holder's REQ_VERIFY. -/
def execReqClose (ring seq : Nat) (s : State) : Host.Outcome State Fault Refusal :=
  .next (onReady 0x44 ring seq (fun c s =>
    onReq s c true true fun _ =>
      settle ((putCmd s { c with phase := .draining }).updReq (reqSlot c.pkt.req) fun r => { r with closing := true }) c.pkt.req) s)

/-- REQ_CANCEL (R296, R182). -/
def execReqCancel (ring seq : Nat) (s : State) : Host.Outcome State Fault Refusal :=
  .next (onReady 0x45 ring seq (fun c s =>
    onReq s c true false fun _ => cancelReq (putCmd s { c with phase := .leaving }) c.pkt.req c.order) s)

/-- The request query record (R298). -/
def queryRec (r : Req) : List Byte :=
  natLe 4 r.length ++ natLe 4 r.nextStep ++ natLe 4 (r.pending.getD 0xFFFFFFFF) ++ natLe 1 r.cls ++
    natLe 1 (b2n r.nonfinite + 2 * b2n r.draft.isSome + 4 * b2n r.boundBy.isSome) ++ natLe 2 r.variant ++ natLe 8 r.openTime ++
    natLe 4 r.ttft ++ natLe 4 r.tbtLast ++ natLe 4 r.tbtMax ++ natLe 4 r.tbtMisses ++ natLe 4 r.quotaEvicts ++
    natLe 4 r.pressureEvicts ++ natLe 4 r.spillReads ++ natLe 4 r.accepted ++ natLe 4 r.verifies ++ natLe 4 0

/-- REQ_QUERY (R298). -/
def execReqQuery (ring seq : Nat) (s : State) : Host.Outcome State Fault Refusal :=
  .next (onReady 0x46 ring seq (fun c s =>
    onReq s c true true fun r => done (s.hostWrite (c.p 0 8) (queryRec r)) c 0) s)

/-! ## Prefixes (R174, R175) -/

/-- The entries a pin of `n` positions covers: pair, page number, entry. -/
def pinned (r : Req) (n : Nat) : List (Nat × Nat × Entry) :=
  (r.tables.map fun t => (t.2.filter fun e => decide (e.1 ≤ (n - 1) / 256)).map fun e => (t.1, e.1, e.2)).flatten

/-- The carries of a pair at pin time (R174): those in the header of its last page. -/
def pinCarries (s : State) (r : Req) (pair n : Nat) : List BF16 × List BF16 :=
  match entryOf r pair ((n - 1) / 256) with
  | none => ([], [])
  | some e => if e.kcarry ≠ [] ∨ e.vcarry ≠ [] then (e.kcarry, e.vcarry) else (s.page e.slot).elim ([], []) fun x => (x.kcarry, x.vcarry)

/-- PREFIX_PIN makes the handle. -/
def pinPrefix (s : State) (c : Cmd) (r : Req) (n : Nat) : State :=
  let slot := reqSlot c.pkt.req
  let l := pinned r n
  let s := l.foldl (fun s e => updEntry (s.updPage e.2.2.slot fun x => { x with refcnt := x.refcnt + 1 }) slot e.1 e.2.1
    fun y => { y with shared := true }) s
  let p : Prefix :=
    { ctx := r.ctx, variant := r.variant, n := n,
      pages := r.tables.map fun t => (t.1, (t.2.filter fun e => decide (e.1 ≤ (n - 1) / 256)).map fun e => (e.1, e.2.slot)),
      carries := r.tables.map fun t => (t.1, pinCarries s r t.1 n),
      history := let h := get [] s.chim.history slot; h.take (n - (r.length - h.length)) }
  let h := s.kv.nextHandle
  done (s.updKv fun k => { k with prefixes := store k.prefixes h (some p), nextHandle := h + 1 }) c h

/-- PREFIX_PIN (R174, R239). -/
def execPrefixPin (ring seq : Nat) (s : State) : Host.Outcome State Fault Refusal :=
  .next (onReady 0x50 ring seq (fun c s =>
    if !reqTurn s c then s
    else onReq s c false false fun r =>
      let n := c.p 0 4
      let l := pinned r n
      if n = 0 ∨ n > r.length then badParam s c 32
      else if l.any fun e => e.2.2.ash || (s.page e.2.2.slot).elim false (·.bound) then finish s c stNotPermitted 0
      else if decide (r.cls < 2) && (n % 256 != 0 || r.staging.any fun e => e.2.elim false fun g => decide (n > 256 * g.page)) then
        badParam s c 32
      else if s.kv.prefixes.length ≥ 65536 ∨ (l.any fun e => (s.page e.2.2.slot).elim false fun x => decide (x.refcnt ≥ 65535)) = true then
        finish s c stNoResource 0
      else pinPrefix s c r n) s)

/-- PREFIX_RELEASE (R174, R299). -/
def execPrefixRelease (ring seq : Nat) (s : State) : Host.Outcome State Fault Refusal :=
  .next (onReady 0x51 ring seq (fun c s =>
    match (look s.kv.prefixes (c.p 0 8)).filter fun p => p.ctx == c.pkt.ctx with
    | none => finish s c stBadHandle 0
    | some p =>
      let s := p.ids.foldl dropRef s
      done (s.updKv fun k => { k with prefixes := store k.prefixes (c.p 0 8) none }) c 0) s)

/-! ## Events -/

/-- SPILL_RETURN (R171). -/
def execSpillReturn (s : State) : Host.Outcome State Fault Refusal :=
  .next (if !clocked s || s.dev.st == .failed then s else spillReturn s)

/-- APPEND_CHUNK_RETRY (R170): each 1 ms. -/
def execAppendChunkRetry (ring seq : Nat) (s : State) : Host.Outcome State Fault Refusal :=
  .next (match findCmd s ring seq with
    | none => s
    | some c =>
      match c.phase with
      | .chunkWait t => if clocked s && decide (s.dev.st = .service) && decide (s.dev.now ≥ t + 100000) then chunkRetry s c else s
      | _ => s)

/-- APPEND_CHUNK_TIMEOUT (R293): a chunk that has waited more than 10 s. -/
def execAppendChunkTimeout (ring seq : Nat) (s : State) : Host.Outcome State Fault Refusal :=
  .next (match findCmd s ring seq with
    | none => s
    | some c =>
      match c.phase with
      | .chunkWait t =>
        if clocked s && decide (s.dev.now > t + 1000000000) && decide (c.ended = c.dispatched) then
          endReqCmd s c stTimeout (lengthOf s c.pkt.req * 2 ^ 32) (warnBits s c)
        else s
      | _ => s)

/-- The cycles the flue engines of a die have been busy (06_flue_path R151). -/
def dieBusy (s : State) (d : Nat) : Nat :=
  (s.flues.map fun e => if e.1 / 32 = d then e.2.elim 0 (·.busy) else 0).sum

/-- FLUE_LOAD_WINDOW (06_flue_path R151; 13_serving R321): a window of 1 ms closes; the load of a die is the busy part of the CCLK
cycles of its 32 engines, per mille, rounded down (DESIGN CHOICE, log entry 133). -/
def execFlueLoadWindow (s : State) : Host.Outcome State Fault Refusal :=
  .next (if !clocked s then s
    else
      let now := (List.range 4).map (dieBusy s)
      let cycles := 32 * (9600000 / max 1 s.clk.cclk.div)
      let l := (List.range 4).map fun d => min 1000 (1000 * (now[d]?.getD 0 - s.serve.flueMark[d]?.getD 0) / max 1 cycles)
      s.updServe fun v => { v with flueLoad := l, flueGate := l.map fun x => decide (x > 900), flueMark := now })

end Sys2Proof.Machine
end

