-- ==== Sys2Proof/Machine/Contexts.lean ====
section
/-! DEFINITION. The commands of contexts, variants, tables and panels (12_graec_commands R287 to R291, R299; 05_accumulation
R117, R124; 06_flue_path R145 to R147; 08_tables_tiers R191 to R196; 09_step_programs R205 to R209). -/

namespace Sys2Proof.Machine

/-- A command's context: unknown, or being destroyed (R288), gives BAD_HANDLE, halted DEVICE_FAILED (16_faults R384). -/
def onCtx (s : State) (c : Cmd) (f : Ctx → State) : State :=
  match look s.ctxs c.pkt.ctx with
  | none => finish s c stBadHandle 0
  | some x => if x.fn ≠ c.fn ∨ x.destroying then finish s c stBadHandle 0 else if x.halted then finish s c stDevFailed 0 else f x

/-- A long operation of one ring and SEQ (11_graec_rings R277): its first row accepts it or ends it at once, a later row, while
it runs, completes it. -/
def onLong (opc ring seq : Nat) (start : Cmd → State → Option State) (fin : Cmd → State → State) (s : State) : State :=
  match findCmd s ring seq with
  | none => s
  | some c =>
    if !clocked s || c.pkt.opc != opc then s
    else if c.phase = .ready then
      if !inTurn s c then s
      else match start c s with | some s => s | none => acceptLong s { c with phase := .running }
    else if c.phase = .running then fin c s
    else s

/-! ## CTX_CREATE and CTX_DESTROY (R287, R288) -/

/-- The lowest free context number (13_serving R310). -/
def freeCtxNo (s : State) : Option Nat := (List.range 64).find? fun i => (look s.ctxs i).isNone

/-- CTX_CREATE (R287). -/
def execCtxCreate (ring seq : Nat) (s : State) : Host.Outcome State Fault Refusal :=
  .next (onReady 0x20 ring seq (fun c s =>
    match freeCtxNo s with
    | none => finish s c stNoResource 0
    | some n =>
      let x : Ctx :=
        { fn := c.fn, hdim := c.p 0 1, spillAddr := c.p 8 8, spillSlots := c.p 16 4, spillUsed := 0, image := none, stepNs := 0,
          halted := false, destroying := false, variants := [], tables := [], updates := [], older := [], dispatched := 0, inflight := [],
          capture := none, replay := none, chimney := false, ready := false }
      done (s.setCtx n (some x)) c n) s)

/-- The request slots whose open request belongs to a context. -/
def reqsOfCtx (s : State) (ctx : Nat) : List Nat :=
  s.reqs.filterMap fun e => e.2.bind fun r => if r.open_ ∧ r.ctx = ctx then some e.1 else none

/-- A context goes once its vectors have left (R288): its requests, prefix handles, variants, tables, tiles and golden copy. -/
def settleCtx (s : State) (ctx : Nat) : State :=
  match look s.ctxs ctx with
  | none => s
  | some x =>
    if !x.destroying || x.inflight ≠ [] then s
    else
      let s := (reqsOfCtx s ctx).foldl releaseReq s
      let s := (s.kv.prefixes.filter fun e => e.2.elim false fun p => p.ctx == ctx).foldl (fun s e =>
        ((e.2.elim [] (·.ids)).foldl dropRef s).updKv fun k => { k with prefixes := store k.prefixes e.1 none }) s
      let s := s.updKv fun k => { k with hot := k.hot.filter fun e => e.1 != ctx }
      let s := freeCtx s ctx
      (s.cmds.filter fun d => d.pkt.opc == 0x21 && d.pkt.ctx == ctx && d.phase == .leaving).foldl (fun s d =>
        match findCmd s d.ring d.pkt.seq with | none => s | some e => done s e 0) s

/-- CTX_DESTROY (R288, 16_faults R384): a running CTX_LOAD of the context is cancelled; a halted context's requests close. -/
def execCtxDestroy (ring seq : Nat) (s : State) : Host.Outcome State Fault Refusal :=
  .next (onReady 0x21 ring seq (fun c s =>
    match look s.ctxs c.pkt.ctx with
    | none => finish s c stBadHandle 0
    | some x =>
      if x.fn ≠ c.fn then finish s c stBadHandle 0
      else if !x.halted && (reqsOfCtx s c.pkt.ctx).any (fun i => decide (i < 2 ^ 20)) then finish s c stNotPermitted 0
      else
        let s := (s.cmds.filter fun d => d.pkt.opc == 0x22 && d.pkt.ctx == c.pkt.ctx && d.phase == .running).foldl (fun s d =>
          match findCmd s d.ring d.pkt.seq with | none => s | some e => finish s e stCancelled e.position) s
        let s := s.updCtx c.pkt.ctx fun x => { x with destroying := true }
        settleCtx (putCmd s { c with phase := .leaving }) c.pkt.ctx) s)

/-! ## CTX_LOAD (R208, R209) -/

/-- The chimney position an image must match (14_chimney R347). -/
def memberOf (s : State) : Option (Nat × Nat) := if isMember s then some (s.chim.n, s.chim.role) else none

/-- A line that CTX_LOAD has written to a tile of a context reads back differently (16_faults R385). -/
def badLine (s : State) (i : Image) (reads : List LineRead) : Option LineRead :=
  reads.find? fun r => i.tiles.any fun t => t.tile == r.tile && (panelOfLine t.panels r.line).isSome &&
    Mem.read (s.tile r.tile).mem (32 * r.line) 32 != r.bytes

/-- CTX_LOAD (R207 to R209, R287): the image is read and checked before any tile is written; `reads` are the lines as they are read
back, those not named reading back as they were written, and one that differs is a hard fault of tile memory (16_faults R385). -/
def execCtxLoad (ring seq : Nat) (reads : List LineRead) (s : State) : Host.Outcome State Fault Refusal :=
  .next (onLong 0x22 ring seq
    (fun c s =>
      match look s.ctxs c.pkt.ctx with
      | none => some (finish s c stBadHandle 0)
      | some x =>
        if x.fn ≠ c.fn ∨ x.destroying then some (finish s c stBadHandle 0)
        else if x.halted then some (finish s c stDevFailed 0)
        else if x.image.isSome then some (finish s c stNotPermitted 0)
        else none)
    (fun c s => onCtx s c fun x =>
      if x.image.isSome then finish s c stNotPermitted 0
      else
        let b := s.hostRead (c.p 0 8) (c.p 8 8)
        match imageCheck b (c.p 8 8) x.hdim (memberOf s) (s.ctxs.any fun e => e.2.elim false (·.chimney)) 32 with
        | some e => finish s c e.1 e.2
        | none =>
          let named := decide (c.p 16 1 = 1)
          let origin := if named then (if originOk s b (c.p 17 1) (c.p 18 1) then some (80 * c.p 17 1 + c.p 18 1) else none)
                        else autoOrigin s b
          match origin with
          | none => if named then badParam s c 49 else finish s c stNoResource 0
          | some o =>
            let s := loadImage s c.pkt.ctx b o
            let i := imageOf b o
            match badLine s i reads with
            | some r =>
              let s := logEvent s 0x5002 5 (evData [(1, 1), (0xFF, 1), (0, 2), (r.line % 4096 + r.tile * 65536, 4)])
              raiseErr s { domain := 5, code := 0x5002, unit := r.tile, detail := 0, act := .fatal }
            | none =>
              let s := putCmd s { c with position := b.length }
              done s { c with position := b.length } (b2n i.varies + 2 ^ 16 * (i.tiles.head?.elim 0 (·.tile)))) s)

/-! ## Variants (06_flue_path R145 to R147) -/

/-- A segment of a delta list: its directory offset, array, count and offset. -/
structure Seg where
  dir : Nat
  arr : Nat
  cnt : Nat
  off : Nat
  deriving DecidableEq, Repr

/-- The segments of a delta list. -/
def segsOf (b : List Byte) : List Seg :=
  (List.range (field b 8 4)).map fun i =>
    { dir := 32 + 16 * i, arr := field b (32 + 16 * i) 4, cnt := field b (36 + 16 * i) 4, off := field b (40 + 16 * i) 8 }

/-- The context arrays that some FIREV of an image fires (10_instructions R225). -/
def firevArrays (i : Image) : List Nat :=
  (i.tiles.zipIdx.map fun t => (t.1.code.map fun w =>
    if iOpc w.toNat = 0x02 then (maskArrays (fireOps w.toNat).mask).map (fun a => 4 * t.2 + a) else []).flatten).flatten

/-- The row, column and delta of an entry word. -/
def deltaOf (w : Nat) : Delta :=
  { row := bits w 31 22, col := bits w 21 12, d := if bits w 11 9 ≥ 4 then (bits w 11 9 : Int) - 8 else bits w 11 9 }

/-- The entries of a segment. -/
def deltasOf (b : List Byte) (g : Seg) : List Delta := (List.range g.cnt).map fun k => deltaOf (field b (g.off + 4 * k) 4)

/-- The checks of R146 on the entries of a segment. -/
def entryChecks (s : State) (i : Image) (b : List Byte) (g : Seg) : List (Nat × Bool) :=
  let fmt := (i.arrays.find? fun a => a.carray == g.arr).elim 0 (·.format)
  (List.range g.cnt).map fun k =>
    let w := field b (g.off + 4 * k) 4
    let e := deltaOf w
    let prev := field b (g.off + 4 * (k - 1)) 4
    (g.off + 4 * k,
      w % 512 == 0 && bits w 11 9 != 0 && bits w 11 9 != 4 && (k == 0 || decide (prev / 4096 < w / 4096)) &&
        decide (e.col < outputsOf fmt) && weightOk fmt (weightAt fmt (rowOf s (physArray i g.arr) e.row) e.col + e.d))

/-- The first field of a delta list that breaks R145, R146, R32 or R225. -/
def variantBad (s : State) (i : Image) (b : List Byte) : Option Nat :=
  let n := field b 8 4
  let head : List (Nat × Bool) :=
    [(0, field b 0 4 == 0x544C4456), (4, field b 4 1 == 0x10), (5, field b 5 1 == 0),
     (6, decide (1 ≤ field b 6 2 ∧ field b 6 2 ≤ 4095)), (8, decide (1 ≤ n ∧ n ≤ i.arrays.length)), (12, field b 12 4 == 0),
     (24, field b 24 8 == 0)]
  match firstBad head with
  | some o => some o
  | none =>
    let gs := segsOf b
    let dir (e : Seg × Nat) : List (Nat × Bool) :=
      let g := e.1
      [(g.dir, decide (g.arr < 2 ^ 15) && (gs.take e.2).all (fun h => decide (h.arr < g.arr)) && (firevArrays i).contains g.arr &&
          i.arrays.any (fun a => a.carray == g.arr)),
       (g.dir + 4, decide (1 ≤ g.cnt ∧ g.cnt ≤ 65536)),
       (g.dir + 8, g.off % 32 == 0 && decide (32 + 16 * n ≤ g.off ∧ g.off + 4 * g.cnt ≤ b.length) &&
          (gs.drop (e.2 + 1)).all fun h => decide (h.off + 4 * h.cnt ≤ g.off ∨ g.off + 4 * g.cnt ≤ h.off))]
    -- NENT is held to the sum only of COUNTs that are themselves in range
    let counts := gs.all fun g => decide (1 ≤ g.cnt ∧ g.cnt ≤ 65536)
    match firstBad ((16, !counts || field b 16 8 == (gs.map (·.cnt)).sum) :: (gs.zipIdx.map dir).flatten) with
    | some o => some o
    | none => firstBad (gs.map (entryChecks s i b)).flatten

/-- Bytes of the DELTA region in use. -/
def deltaUsed (s : State) : Nat :=
  (s.ctxs.map fun e => e.2.elim 0 fun x => (x.variants.map fun v => v.2.bytes).sum).sum

/-- VARIANT_LOAD (R146, R289). -/
def execVariantLoad (ring seq : Nat) (s : State) : Host.Outcome State Fault Refusal :=
  .next (onReady 0x24 ring seq (fun c s => onCtx s c fun x =>
    match x.image with
    | none => finish s c stNotPermitted 0
    | some i =>
      let len := c.p 8 8
      if len < 32 then badParam s c 40
      else
        let b := s.hostRead (c.p 0 8) len
        match variantBad s i b with
        | some o => badParam s c (payloadOff 32 o)
        | none =>
          let v := field b 6 2
          if x.variants.any fun e => e.1 == v then finish s c stNotPermitted 0
          else if deltaUsed s + len > 16 * 2 ^ 30 then finish s c stNoResource 0
          else
            let y : Variant :=
              { nent := field b 16 8, bytes := len, segs := (segsOf b).map fun g => (g.arr, deltasOf b g) }
            done (s.updCtx c.pkt.ctx fun x => { x with variants := insert v y (erase x.variants v) }) c (v + 2 ^ 16 * y.nent)) s)

/-- VARIANT_DROP (R147, R289). -/
def execVariantDrop (ring seq : Nat) (s : State) : Host.Outcome State Fault Refusal :=
  .next (onReady 0x25 ring seq (fun c s => onCtx s c fun x =>
    let v := c.p 0 2
    if !(x.variants.any fun e => e.1 == v) then badParam s c 32
    else if s.reqs.any fun e => e.2.elim false fun r => r.open_ && r.ctx == c.pkt.ctx && r.variant == v then
      finish s c stNotPermitted 0
    else done (dropVariant s c.pkt.ctx v) c 0) s)

/-! ## Tables (08_tables_tiers R191 to R196; 12_graec_commands R290, R291) -/

/-- The shard of a row (R194). -/
def shardOf (m row : Nat) : Nat := ((row % 2 ^ 32) * 0x9E3779B9 + row / 2 ^ 32) % 2 ^ 32 * m / 2 ^ 32

/-- A row scale of R57 that is an infinity or a NaN. -/
def scaleBad (fmt : Nat) (row : List Byte) : Bool := fmt != 0 && !isFin (ofBf (BitVec.ofNat 16 (field row 0 2)))

/-- The bytes a TABLE_LOAD places, row by row: row id and bytes. -/
def srcRows (s : State) (addr tier n rb : Nat) : List (Nat × List Byte) :=
  (List.range n).map fun k =>
    if tier = 3 then (leNat (s.hostRead (addr + (8 + rb) * k) 8), s.hostRead (addr + (8 + rb) * k + 8) rb)
    else (k, s.hostRead (addr + rb * k) rb)

/-- The offending payload offset of a TABLE_LOAD (R57, R290). -/
def rowsBad (rows : List (Nat × List Byte)) (tier fmt total m shard rb : Nat) : Option Nat :=
  firstBad (rows.zipIdx.map fun e =>
    let id := e.1.1
    let prev := (rows.drop (e.2 - 1)).head?.elim 0 (·.1)
    let base := e.2 * (if tier = 3 then 8 + rb else rb)
    [(base, tier != 3 || (decide (id < total) && shardOf m id == shard && (e.2 == 0 || decide (prev < id)))),
     (base + (if tier = 3 then 8 else 0), !scaleBad fmt e.1.2)]).flatten

/-- TABLE_LOAD (R191, R192, R290). -/
def execTableLoad (ring seq : Nat) (s : State) : Host.Outcome State Fault Refusal :=
  .next (onLong 0x30 ring seq
    (fun c s =>
      match look s.ctxs c.pkt.ctx with
      | none => some (finish s c stBadHandle 0)
      | some x =>
        if x.fn ≠ c.fn ∨ x.destroying then some (finish s c stBadHandle 0)
        else if x.halted then some (finish s c stDevFailed 0)
        else if x.image.isNone || (x.tables.any fun e => e.1 == c.p 0 1) || (c.p 2 1 == 3 && !isMember s) then
          some (finish s c stNotPermitted 0)
        else none)
    (fun c s => onCtx s c fun x =>
      if x.image.isNone || x.tables.any fun e => e.1 == c.p 0 1 then finish s c stNotPermitted 0
      else
        let fmt := c.p 1 1
        let rb := rowBytes fmt (c.p 4 2)
        let unit := if c.p 2 1 = 3 then 8 + rb else rb
        let n := if c.p 2 1 = 3 then c.p 32 8 / unit else c.p 16 8
        let blank : Table :=
          { fmt := fmt, tier := 1, d := c.p 4 2, rows := c.p 16 8, shards := c.p 6 2, shard := c.p 8 2, srcAddr := c.p 24 8, data := [] }
        let need := if c.p 2 1 = 3 then n * rb + 64 * 2 ^ indexLog2 n else n * rb
        let fits := decide (tableUsed s + need ≤ s.kv.tableGib * 2 ^ 30)
        let tier := if c.p 2 1 = 4 then (if fits then 1 else 2) else c.p 2 1
        if (tier = 1 ∨ tier = 3) ∧ !fits then finish s c stNoResource 0
        else if fmt = 2 ∧ c.p 4 2 % 2 = 1 then badParam s c 33
        else if c.p 32 8 ≠ n * unit then badParam s c 64
        else
          let rows := srcRows s (c.p 24 8) tier n rb
          match rowsBad rows tier fmt (c.p 16 8) (c.p 6 2) (c.p 8 2) rb with
          | some o => badParam s c (payloadOff 56 o)
          | none =>
            let t : Table := { blank with tier := tier, data := if tier = 2 then [] else rows }
            let s := s.updCtx c.pkt.ctx fun x => { x with tables := insert (c.p 0 1) t (erase x.tables (c.p 0 1)) }
            done s { c with position := n * rb } tier) s)

/-- The first step of a context that sees what takes effect now: a dispatch position, or a chimney step (R196). -/
def stampOf (s : State) (x : Ctx) : Nat := if x.chimney then s.chim.lastStep + 1 else x.dispatched

/-- What a row held is kept for the steps before `stamp`. -/
def keepRow (s : State) (ctx stamp table row : Nat) (bytes : List Byte) : State :=
  s.updCtx ctx fun x => { x with older := x.older ++ [(stamp, table, row, bytes)] }

/-- A row of a table as a step sees it: what it held before the first later boundary that changed it, else `now` (R196). -/
def rowSeen (x : Ctx) (ver table row : Nat) (now : List Byte) : List Byte :=
  ((x.older.find? fun e => decide (e.1 > ver) && e.2.1 == table && e.2.2.1 == row).map (·.2.2.2)).getD now

/-- Rows that no step in flight can see any more are forgotten. -/
def pruneOlder (s : State) (ctx : Nat) : State :=
  s.updCtx ctx fun x => { x with older := x.older.filter fun e =>
    if x.chimney then (s.chim.steps.any fun y => y.ctx == ctx && decide (y.step < e.1))
    else (x.inflight.any fun v => decide (v.disp < e.1)) }

/-- One write of a table update takes effect (R196) for steps from `stamp` on. A row of another shard is forwarded to it, and its
acknowledgement awaited. -/
def applyUpd (s : State) (ctx stamp : Nat) (u : TUpd) : State :=
  match (look s.ctxs ctx).bind fun x => (x.tables.find? fun e => e.1 == u.table).map (·.2) with
  | none => s
  | some t =>
    if t.tier = 2 then
      let at_ := t.srcAddr + rowBytes t.fmt t.d * u.row
      (keepRow s ctx stamp u.table u.row (s.hostRead at_ (rowBytes t.fmt t.d))).hostWrite at_ u.bytes
    else if t.tier = 3 ∧ shardOf t.shards u.row ≠ t.shard then
      (sendLong s 0x32 (shardOf t.shards u.row) (stamp - 1) [0, ctx, u.table, u.row] u.bytes).updChim fun c => { c with tupWait := c.tupWait ++ [shardOf t.shards u.row] }
    else (keepRow s ctx stamp u.table u.row (get [] t.data u.row)).updCtx ctx fun x => { x with
      tables := insert u.table { t with data := insert u.row u.bytes (erase t.data u.row) } (erase x.tables u.table) }

/-- The body of an UPDATE record (15_determinism R376): table by table, the records in the order applied. -/
def updateBody (l : List TUpd) : List Byte :=
  ((l.map (·.table)).dedup.mergeSort (fun a b => decide (a ≤ b))).flatMap fun t =>
    let us := l.filter fun u => u.table == t
    natLe 1 t ++ natLe 3 0 ++ natLe 4 us.length ++ us.flatMap fun u => natLe 8 u.row ++ u.bytes

/-- The order in which updates take effect: ring by ring in ascending number, in SEQ order within a ring (R196). -/
def TUpd.before (a b : TUpd) : Bool :=
  if a.ring = b.ring then decide ((b.seq + 2 ^ 32 - a.seq) % 2 ^ 32 < 2 ^ 31) else decide (a.ring < b.ring)

/-- The buffered updates of a context take effect at a boundary (R196): every step dispatched before it sees none of them. -/
def applyUpdates (s : State) (ctx : Nat) : State :=
  match look s.ctxs ctx with
  | none => s
  | some x =>
    let l := x.updates.mergeSort TUpd.before
    let s := if l = [] then s else appendRec s ctx 2 0xFF 0xFFFF x.dispatched 0xFFFFFFFF 0 (updateBody l)
    l.foldl (fun s u => applyUpd s ctx (stampOf s x) u) (pruneOlder (s.updCtx ctx fun x => { x with updates := [] }) ctx)

/-- TABLE_UPDATE (R291, R196). -/
def execTableUpdate (ring seq : Nat) (s : State) : Host.Outcome State Fault Refusal :=
  .next (onReady 0x31 ring seq (fun c s => onCtx s c fun x =>
    match (x.tables.find? fun e => e.1 == c.p 0 1).map (·.2) with
    | none => badParam s c 32
    | some t =>
      let rb := rowBytes t.fmt t.d
      let n := c.p 4 4
      let rec1 (k : Nat) : Nat × List Byte :=
        (leNat (s.hostRead (c.p 8 8 + (8 + rb) * k) 8), s.hostRead (c.p 8 8 + (8 + rb) * k + 8) rb)
      match firstBad ((List.range n).map fun k =>
          [((8 + rb) * k, decide ((rec1 k).1 < t.rows)), ((8 + rb) * k + 8, !scaleBad t.fmt (rec1 k).2)]).flatten with
      | some o => badParam s c (payloadOff 40 o)
      | none =>
        if x.updates.length + n > 2 ^ 20 then
          let (k, s) := s.draw
          finish s c stBusy (Config.retryNs 0x31 k)
        else
          let us : List TUpd := (List.range n).map fun k =>
            { ring := ring, seq := seq, table := c.p 0 1, row := (rec1 k).1, bytes := (rec1 k).2 }
          let s := s.updCtx c.pkt.ctx fun x => { x with updates := x.updates ++ us }
          let s := if s.dev.st = .maintenance then applyUpdates s c.pkt.ctx else s
          done s c 0) s)

/-- TABLE_UPDATE_APPLY (R196): a step boundary of the context. -/
def execTableUpdateApply (ctx : Nat) (s : State) : Host.Outcome State Fault Refusal :=
  .next (match look s.ctxs ctx with
    | none => s
    | some x => if clocked s && x.replay.isNone && atBoundary s x then applyUpdates s ctx else s)

/-! ## Panels (05_accumulation R117, R124; 12_graec_commands R299) -/

/-- The checks both panel commands share: the panel's byte address in its tile and the tile, or the final state. -/
def onPanel (s : State) (c : Cmd) (f : Panel → Nat → State) : State :=
  onCtx s c fun x =>
    match x.image with
    | none => finish s c stNotPermitted 0
    | some i =>
      match i.tiles[c.p 0 2]? with
      | none => badParam s c 32
      | some t =>
        let p := t.panels[c.p 2 1]?.getD { base := 0, lines := 0, kind := 0, hostRw := false }
        if c.p 4 4 + c.p 8 4 > 32 * p.lines then badParam s c 36
        else if (s.tile t.tile).exec.isSome then s
        else f p t.tile

/-- PANEL_READ: between two executions of the tile. -/
def execPanelRead (ring seq : Nat) (s : State) : Host.Outcome State Fault Refusal :=
  .next (onReady 0x60 ring seq (fun c s => onPanel s c fun p t =>
    if !p.hostRw then finish s c stNotPermitted 0
    else done (s.hostWrite (c.p 16 8) (Mem.read (s.tile t).mem (32 * p.base + c.p 4 4) (c.p 8 4))) c (c.p 8 4)) s)

/-- The first ACC48 element of a written panel whose bits [63:48] differ from its bit 47 (R124). -/
def acc48Off (m : Mem) (p : Panel) (start len : Nat) : Option Nat :=
  if p.kind ≠ 4 then none
  else (List.range (start / 8 + len + 1)).findSome? fun k =>
    if decide (start < 8 * k + 8 ∧ 8 * k < start + len) then
      let v := leNat (Mem.read m (32 * p.base + 8 * k) 8)
      if bits v 63 48 = (if v.testBit 47 then 0xFFFF else 0) then none else some (8 * k - start)
    else none

/-- PANEL_WRITE. -/
def execPanelWrite (ring seq : Nat) (s : State) : Host.Outcome State Fault Refusal :=
  .next (onReady 0x61 ring seq (fun c s => onPanel s c fun p t =>
    let m := Mem.write (s.tile t).mem (32 * p.base + c.p 4 4) (s.hostRead (c.p 16 8) (c.p 8 4))
    match acc48Off m p (c.p 4 4) (c.p 8 4) with
    | some o => badParam s c (payloadOff 48 o)
    | none =>
      if !p.hostRw then finish s c stNotPermitted 0
      else done (s.updTile t fun x => { x with mem := m }) c (c.p 8 4)) s)

end Sys2Proof.Machine
end

