-- ==== Sys2Proof/Machine/ChimStep.lean ====
section
/-! DEFINITION. What the end of an execution does to a chimney step (14_chimney R353, R354, R360, R361), the commit of an
accepted path (07_attention R181), and the departure of a vector from the pipeline (09_step_programs R217, R218). -/

namespace Sys2Proof.Machine

/-- Append the accepted path's keys and values from the scratch, in path order (07_attention R181); full staging pages are
flushed at once, one that the root filled first. A node with no key and value in the scratch, of the last depth of a draft tree, has
open ones (log entry 139), for every pair that holds the position before it. -/
def commitPath (s : State) (slot root step : Nat) (path : List Nat) : State :=
  match reqAt s slot with
  | none => s
  | some r =>
    let dh := dhOf s r.ctx
    let s := (List.range (pairCount s r.ctx)).foldl (fun s pair =>
      let s := if path = [] then s else flushStaging (savePair s slot pair step) slot pair dh step
      path.zipIdx.foldl (fun s e =>
        let pos := root + 1 + e.2
        let put (key val : List BF16) : State := flushStaging (putKv s slot pair pos dh step 0 key val) slot pair dh step
        match (get [] r.scratch pair).find? fun x => x.cand == e.1 with
        | some x => put x.key x.val
        | none =>
          if (reqAt s slot).elim false fun q => heldAlready q pair (pos - 1) then put (openRow s dh pair pos 0) (openRow s dh pair pos 1)
          else s) s) s
    s.updReq slot fun r => { r with scratch := [] }

/-! ## Chimney steps -/

/-- A chimney step by its number. -/
def stepAt (s : State) (n : Nat) : Option CStep := s.chim.steps.find? fun x => x.step == n

def updStep (s : State) (n : Nat) (f : CStep → CStep) : State :=
  s.updChim fun c => { c with steps := c.steps.map fun x => if x.step = n then f x else x }

def dropStep (s : State) (n : Nat) : State := s.updChim fun c => { c with steps := c.steps.filter fun x => x.step != n }

/-- A full page goes to the buddy in MIRROR frames (R360). -/
def sendMirror (s : State) (handle slot pair p : Nat) : State :=
  match reqAt s slot with
  | none => s
  | some r =>
    match (entryOf r pair p).bind fun e => s.page e.slot with
    | none => s
    | some x => sendLong s 0x40 s.chim.buddy 0 [s.chim.role, r.ctx, handle, x.layer, x.head, p] (x.bytes (dhOf s r.ctx))

/-- The pending effects of a step take effect on this device (R353): evicted pages are freed, filled pages mirrored, the path
appended; the crown's history grows (R361) by positions that were not committed before (R366), those of a
verification with its last vector. -/
def commitLocal (s : State) (x : CStep) : State :=
  let slot := slotFor s x.ctx x.xr.req
  let root := (reqAt s slot).elim 0 (·.length)
  let isLast := decide (x.xr.phase = 2) && x.xr.last
  let draft := (findCmd s x.ring x.seq).elim none fun c => if isCrown s && c.p 4 1 == 1 then (reqAt s slot).bind (·.draft) else none
  let s := if isLast then commitPath s slot root 0 x.path else s
  let s := if isLast then draft.elim s fun d => commitPath s d ((reqAt s d).elim 0 (·.length)) 0 x.path else s
  let s := x.freed.foldl (fun s id =>
    let s := match s.page id with
      | none => s
      | some y => if y.mirrored then sendMirrorFree s x.xr.req y.layer y.head y.page x.ctx false else s
    dropRef s id) s
  let s := x.filled.foldl (fun s e => sendMirror s x.xr.req e.1 e.2.1 e.2.2) s
  let mark (t : Nat) : Nat := if x.bags = [] then t else t + 2 ^ 32
  let cands := ((findCmd s x.ring x.seq).map (·.cands)).getD []
  let rootToken := if x.xr.cand = 0xFF then x.xr.token else (((reqAt s slot).bind (·.pending)).getD 0xFFFFFFFF)
  let grow (l : List Nat) : List Nat :=
    let more :=
      if x.xr.phase ≠ 2 then [mark x.xr.token]
      else if isLast then rootToken :: x.path.filterMap (fun k => cands[k]?.map (·.token))
      else []
    let m := l ++ more
    m.drop (m.length - 4096)
  let s := if isCrown s && decide (root ≤ x.xr.pos) then s.updChim fun c => { c with history := put [] c.history slot (grow (get [] c.history slot)) } else s
  let s := if isCrown s then s
    else s.updReq slot fun r => { r with
      length := if x.xr.phase = 2 then (if x.xr.last then r.length + 1 + x.path.length else r.length) else max r.length (x.xr.pos + 1) }
  dropStep s x.step

/-- A committed step as the vector whose command it advances. -/
def vecOfStep (x : CStep) : Vec :=
  { mkVec 0 x.xr x.bags x.ring x.seq [] x.draft x.step with token := x.token, path := x.path }

/-- A step may commit at the crown: its DONEs are complete and no earlier step of its request is uncommitted (R354). -/
def mayCommit (s : State) (x : CStep) : Bool :=
  x.ended && !x.aborting && !x.refused && (treeChildren s).all (fun r => x.done.contains r) &&
    s.chim.steps.all fun y => !(y.xr.req == x.xr.req && decide (y.step < x.step))

/-- The crown commits every step that may commit, in step-number order, and completes their vectors' commands. -/
def commitReady : Nat → State → State
  | 0, s => s
  | n + 1, s =>
    match s.chim.steps.find? (mayCommit s) with
    | none => s
    | some x => commitReady n (advance (commitLocal (sendDown s 0x12 x.step []) x) (vecOfStep x))

def tryCommit (s : State) : State := if isCrown s then commitReady s.chim.steps.length s else s

/-- What a DONE carries after its first 4 bytes (log entry 24): the results of SAMPLE or VERIFY, with the warnings met (02_number_formats
R44; log entry 82). -/
def doneResults (x : CStep) : List Nat :=
  [b2n x.refused, b2n x.token.isSome, x.token.getD 0, b2n x.nonfinite, b2n x.zeroBlock, x.path.length] ++ x.path

/-- A member's DONE goes to its parent once its own executions have ended and every child's DONE is in (R354). -/
def trySendDone (s : State) (n : Nat) : State :=
  match stepAt s n with
  | none => s
  | some x =>
    if x.aborting || !(x.ended && (treeChildren s).all fun r => x.done.contains r) then s
    else sendFrame s 0x11 (treeParent s) n
      (natLe 2 (subtree s s.chim.role).length ++ natLe 2 0 ++ Config.layoutOf 0x11 (doneResults x))

/-- The executions of a step have ended on this device. -/
def stepEnded (s : State) (v : Vec) : State :=
  let s := updStep s v.chimStep fun x => { x with
    ended := true, token := if v.token.isSome then v.token else x.token, path := if v.path = [] then x.path else v.path,
    nonfinite := x.nonfinite || (reqAt s (slotFor s x.ctx x.xr.req)).elim false (·.nonfinite) }
  if isCrown s then tryCommit s else trySendDone s v.chimStep

/-! ## A vector leaves (R217) -/

/-- The dies on which a vector extracted more than 0.2 outliers per block (13_serving R321). -/
def heavyDies (v : Vec) : List Nat :=
  (List.range 4).filter fun d => decide (5 * v.outliers[d]?.getD 0 > v.blocks[d]?.getD 0)

/-- Every tile of the context has ended a vector's execution: it leaves the pipeline. -/
def vecLeave (s : State) (ctx : Nat) (v : Vec) : State :=
  let s := s.updCtx ctx fun c => { c with inflight := c.inflight.filter fun w => w.disp != v.disp }
  let s := s.updReq (slotFor s ctx v.xr.req) fun r =>
    if r.open_ ∧ r.gen = reqGen v.xr.req then { r with flueDies := heavyDies v } else r
  let s := if v.chimStep ≠ 0 then (if (stepAt s v.chimStep).isSome then stepEnded s v else settle s v.xr.req) else advance s v
  settleCtx s ctx

end Sys2Proof.Machine
end

