-- ==== Sys2Proof/Machine/Execution.lean ====
section
/-! DEFINITION. Executions of tiles (09_step_programs R210 to R214): their start and end, the issue of instructions with its
hazards, panel access, program stops, and the control instructions (10_instructions R248 to R250). -/

namespace Sys2Proof.Machine

/-! ## Where an instruction stands -/

/-- An instruction about to issue: its tile, context, context tile, image, execution and word. -/
structure At where
  t : Nat
  cx : Nat
  ct : Nat
  c : Ctx
  i : Image
  k : CTile
  x : Exec
  w : Nat
  deriving DecidableEq, Repr

/-- What an instruction does when it is about to issue: it waits, stops the program with a cause of CTX_HALTED, or issues with a
new state, its output bytes (15_determinism R377), whether it is complete at once, and the PCI Express
reads it has outstanding until then. -/
inductive Eff where
  | wait
  /-- It waits, having asked for something. -/
  | hold (s : State)
  | stop (cause : Nat)
  | ok (s : State) (out : List Byte) (fin : Bool) (pcie : Nat := 0)
  deriving DecidableEq, Repr

/-- A program stop (05_accumulation R116, R222): the tile stops its step program at once, and a FIRMWARE-domain error, when its handler
runs, halts the context. -/
def stopProg (s : State) (a : At) (cause : Nat) : State :=
  raiseErr (s.updTile a.t fun y => { y with stopped := true })
    { domain := 8, code := 0x8006, unit := a.t, detail := 0, act := .halt a.cx cause a.ct a.x.pc }

/-! ## Panels -/

/-- A panel of the instruction's tile. -/
def At.panel (a : At) (p : Nat) : Panel := a.k.panels[p]?.getD { base := 0, lines := 0, kind := 0, hostRw := false }

/-- Read `n` bytes at a byte offset of a panel; beyond its lines the program stops. -/
def rdP (s : State) (a : At) (p off n : Nat) (f : List Byte → Eff) : Eff :=
  if off + n > 32 * (a.panel p).lines then .stop 0
  else f (Mem.read (s.tile a.t).mem (32 * (a.panel p).base + off) n)

/-- Write bytes at a byte offset of a panel; beyond its lines the program stops. -/
def wrP (s : State) (a : At) (p off : Nat) (bs : List Byte) (f : State → Eff) : Eff :=
  if off + bs.length > 32 * (a.panel p).lines then .stop 0
  else f (s.updTile a.t fun t => { t with mem := Mem.write t.mem (32 * (a.panel p).base + off) bs })

/-- Bytes of an element of a BF16 or FP32 panel. -/
def At.esize (a : At) (p : Nat) : Nat := if (a.panel p).kind = 2 then 2 else 4

/-- Elements of a BF16 or FP32 panel as FP32 (02_number_formats R52). -/
def rdF (s : State) (a : At) (p e n : Nat) (f : List F32 → Eff) : Eff :=
  let z := a.esize p
  rdP s a p (z * e) (z * n) fun bs => f ((List.range n).map fun i =>
    if z = 2 then ofBf (BitVec.ofNat 16 (field bs (2 * i) 2)) else BitVec.ofNat 32 (field bs (4 * i) 4))

/-- The bytes of FP32 values in the KIND of a panel, rounded once where it is BF16. -/
def At.fbytes (a : At) (p : Nat) (vs : List F32) : List Byte :=
  (vs.map fun v => if a.esize p = 2 then natLe 2 (toBf v).toNat else natLe 4 v.toNat).flatten

/-- Write FP32 values at an element of a BF16 or FP32 panel. -/
def wrF (s : State) (a : At) (p e : Nat) (vs : List F32) (f : State → Eff) : Eff := wrP s a p (a.esize p * e) (a.fbytes p vs) f

/-- Accumulator elements as integers. -/
def rdA (s : State) (a : At) (p e n : Nat) (f : List Int → Eff) : Eff :=
  rdP s a p (8 * e) (8 * n) fun bs => f ((List.range n).map fun i => (BitVec.ofNat 64 (field bs (8 * i) 8)).toInt)

/-- An ACC64 element: the sum itself. It never wraps (05_accumulation R123); what an element holds after a sum outside 64 bits, which
only values written by the host can reach, is free (DESIGN CHOICE, log entry 123). -/
def acc64 (v : Int) : BitVec 64 := if -(2 ^ 63 : Int) ≤ v ∧ v < 2 ^ 63 then BitVec.ofInt 64 v else Config.accBeyond v

/-- The bytes of accumulator elements: an ACC48 element keeps bits [47:0], sign-extended (05_accumulation R124). -/
def At.abytes (a : At) (p : Nat) (vs : List Int) : List Byte :=
  (vs.map fun v => natLe 8 (if (a.panel p).kind = 4 then (BitVec.ofInt 48 v).signExtend 64 else acc64 v).toNat).flatten

def wrA (s : State) (a : At) (p e : Nat) (vs : List Int) (f : State → Eff) : Eff := wrP s a p (8 * e) (a.abytes p vs) f

/-! ## Hazards (R212) -/

/-- The panels an instruction reads. -/
def iReads (w : Nat) : List Nat :=
  let p5 := bits w 53 48
  let p4 := bits w 47 42
  let p3 := bits w 41 36
  match iOpc w with
  | 0x01 | 0x02 => [p5]
  | 0x08 => if bits w 41 40 = 0 then [] else [p4, bits w 39 34]
  | 0x09 => [p5]
  | 0x0A => [p4]
  | 0x10 => [p4]
  | 0x11 => [p4, p3]
  | 0x18 => [p5]
  | 0x1A => if bits w 41 40 = 0 then [p5, p4] else [p4]
  | 0x20 => [p5, p4]
  | 0x21 => [p5]
  | 0x22 => [p5]
  | 0x23 =>
    match bits w 39 38 with
    | 2 => [p5, bits w 37 32]
    | 3 => [p4, bits w 37 32]
    | _ => [p5]
  | 0x28 => if bits w 28 27 = 1 then [p4] else if bits w 28 27 = 0 then [p4, p3] else [p4, p3, bits w 35 30]
  | 0x29 => if bits w 35 32 = 6 ∨ bits w 35 32 = 7 then [p4, p3] else [p4]
  | 0x2A => [p4, p3]
  | 0x31 => [p5]
  | 0x32 => [p5]
  | _ => []

/-- The panels an instruction writes. -/
def iWrites (w : Nat) : List Nat :=
  let p5 := bits w 53 48
  let p4 := bits w 47 42
  match iOpc w with
  | 0x08 | 0x09 | 0x0A | 0x10 | 0x11 | 0x19 | 0x1A | 0x29 | 0x2A | 0x30 | 0x3E => [p5]
  | 0x21 => [p4]
  | 0x23 => if bits w 39 38 = 1 then [bits w 37 32] else if bits w 39 38 = 2 then [p4, bits w 37 32] else [p4]
  | 0x28 => if bits w 28 27 = 1 then [bits w 35 30] else if bits w 28 27 = 0 then [p5, bits w 35 30] else [p5]
  | 0x31 => [p4]
  | _ => []

/-- Nothing issued earlier keeps an instruction from issuing; with S set, every effect of it in the flue path is in as well. -/
def hazardFree (y : Tile) (x : Exec) (w : Nat) : Bool :=
  (!iS w || y.fires.all fun f => f.2.elim true fun g => g.withheld == 0 && g.jobs == 0) &&
  x.issued.all fun e =>
    e.done || (!iS w && !(e.writes.any fun p => (iReads w).contains p || (iWrites w).contains p) &&
      !(e.reads.any fun p => (iWrites w).contains p))

/-! ## Issue -/

/-- Change the execution of a tile. -/
def updExec (s : State) (t : Nat) (f : Exec → Exec) : State := s.updTile t fun y => { y with exec := y.exec.map f }

/-- An instruction has issued: it is listed, and control goes on. -/
def issued (s : State) (a : At) (out : List Byte) (fin : Bool) (pcie : Nat := 0) : State :=
  updExec s a.t fun x =>
    let (pc, loops) := nextPc x.pc x.loops
    { x with
      pc := pc, loops := loops, issueCtr := x.issueCtr + 1,
      issued := x.issued ++ [{ n := x.issueCtr, pc := a.x.pc, opc := iOpc a.w, reads := iReads a.w, writes := iWrites a.w,
                               done := fin, bytes := out, pcie := pcie }] }

/-- The instruction a tile is about to issue, when it may (R212). -/
def about (s : State) (t : Nat) : Option At :=
  match ctileOf s t, (s.tile t).exec with
  | some (cx, ct, c, i, k), some x =>
    match k.code[x.pc]? with
    | none => none
    | some w =>
      if !clocked s || (s.tile t).stopped || c.halted || x.ended || !hazardFree (s.tile t) x w.toNat then none
      else some { t := t, cx := cx, ct := ct, c := c, i := i, k := k, x := x, w := w.toNat }
  | _, _ => none

/-- Issue the next instruction of a tile when it has this opcode. -/
def onIssue (opc t : Nat) (f : State → At → Eff) (s : State) : State :=
  match about s t with
  | none => s
  | some a =>
    if iOpc a.w ≠ opc then s
    else match f s a with
      | .wait => s
      | .hold s => s
      | .stop cause => stopProg s a cause
      | .ok s out fin pcie => issued s a out fin pcie

/-- Mark an issued instruction complete. -/
def markDone (s : State) (t n : Nat) : State :=
  updExec s t fun x => { x with issued := x.issued.map fun e => if e.n = n then { e with done := true } else e }

/-! ## Starting and ending an execution (R210, R211, R216) -/

/-- The entry of a tile for a phase. -/
def entryFor (k : CTile) (phase : Nat) : Nat := if phase = 0 then k.entryStep else if phase = 1 then k.entryAppend else k.entryVerify

/-- The staging pages of some pairs of a request that a vector has filled become due for their flush (07_attention R158). -/
def duePairs (s : State) (slot disp : Nat) (pairs : List Nat) : State :=
  s.updReq slot fun r => { r with staging := r.staging.map fun e =>
    (e.1, e.2.map fun g => if pairs.contains e.1 ∧ g.fill = 256 ∧ g.filler = disp + 1 then { g with flushDue := true } else g) }

/-- A tile has ended its execution of a vector; with the last of them no ATTN of it can read a staging page any more. -/
def tileEnded (s : State) (ctx disp tiles : Nat) : State :=
  match findVec s ctx disp with
  | none => s
  | some v =>
    let v := { v with endedTiles := v.endedTiles + 1 }
    if v.endedTiles < tiles then updVec s ctx disp fun _ => v
    else vecLeave (duePairs s (slotFor s ctx v.xr.req) disp (List.range (pairCount s ctx))) ctx v

/-- EXECUTION_START: a tile begins the next vector of its context's dispatch sequence; with no entry for its phase it ends that
execution at once. -/
def execExecutionStart (tile : Nat) (s : State) : Host.Outcome State Fault Refusal :=
  .next (match ctileOf s tile with
    | none => s
    | some (cx, _, c, i, k) =>
      let y := s.tile tile
      match c.inflight.find? fun v => v.disp == y.nextDisp with
      | none => s
      | some v =>
        if !clocked s || s.dev.st == .failed || y.stopped || c.halted || y.exec.isSome then s
        else if entryFor k v.xr.phase = 0xFFFF then
          tileEnded (s.updTile tile fun y => { y with nextDisp := y.nextDisp + 1, execs := y.execs + 1 }) cx v.disp i.tiles.length
        else
          let x : Exec :=
            { xr := v.xr, disp := v.disp, pc := entryFor k v.xr.phase, issueCtr := 0, started := s.dev.now, linkWait := 0,
              linkFrom := 0, loops := [], issued := [], ended := false, discarded := v.discarded, chimStep := v.chimStep }
          s.updTile tile fun y => { y with exec := some x })

/-- The pairs that instructions of a context tile name: KVAPP (the pairs it owns, 10_instructions R234), or KVGATH. -/
def ownedPairs (s : State) (ctx : Nat) (k : CTile) : List Nat :=
  (k.code.map fun w =>
    if iOpc w.toNat = 0x20 then (kvappPairs w.toNat).map (fun p => pairOf s ctx p.1 p.2) else []).flatten.dedup

/-- The condition of a BR on the execution record (R249). -/
def brTaken (w : Nat) (x : ExecRec) : Bool :=
  match bits w 42 40 with
  | 0 => true
  | 1 => x.first
  | 2 => x.last
  | 3 => x.phase == bits w 39 32
  | 4 => decide (x.cls ≤ bits w 39 32)
  | 5 => x.cand == 0xFF
  | 6 => !x.first
  | _ => false

/-- The program indices a vector's execution of a tile goes through, in order, with every loop of more than two iterations cut to two:
its control flow depends on the execution record alone (R248 to R250). -/
def walk (code : List (BitVec 64)) (x : ExecRec) : Nat → Nat → List (Nat × Nat × Nat) → List Nat
  | 0, _, _ => []
  | n + 1, pc, loops =>
    match code[pc]? with
    | none => []
    | some w =>
      let w := w.toNat
      let next := nextPc pc loops
      let go := if iOpc w = 0x3B ∧ brTaken w x = true then (bits w 53 43, loops)
        else if iOpc w = 0x3A then (pc + 1, (pc + 1, bits w 53 43, min 2 (bits w 42 27)) :: loops)
        else next
      pc :: (if iOpc w = 0x3C then [] else walk code x n go.1 go.2)

/-- The pairs whose streams the ATTNs of a vector read on a tile: the KVGATH before each on its stream names the pair. -/
def attnPairs (s : State) (ctx : Nat) (x : ExecRec) (k : CTile) : List Nat :=
  if entryFor k x.phase = 0xFFFF then []
  else
    let words := (walk k.code x (64 * k.code.length + 64) (entryFor k x.phase) []).filterMap fun pc => k.code[pc]?
    (words.foldl (fun (st : SMap (Option Nat) × List Nat) w =>
      let w := w.toNat
      if iOpc w = 0x22 then (store st.1 (bits w 27 26) (some (pairOf s ctx (bits w 47 38) (bits w 37 28))), st.2)
      else if iOpc w = 0x23 ∧ bits w 39 38 ≠ 3 then
        (st.1, (look st.1 (bits w 41 40)).elim st.2 fun p => p :: st.2)
      else st) (([] : SMap (Option Nat)), [])).2

/-- The pairs whose streams some ATTN of a vector reads, on any tile (07_attention R158). -/
def streamedPairs (s : State) (ctx : Nat) (i : Image) (x : ExecRec) : List Nat := (i.tiles.flatMap (attnPairs s ctx x)).dedup

/-- EXECUTION_END: END has been reached and every instruction issued has completed. -/
def execExecutionEnd (tile : Nat) (s : State) : Host.Outcome State Fault Refusal :=
  .next (match ctileOf s tile, (s.tile tile).exec with
    | some (cx, ct, _, i, k), some x =>
      if !clocked s || !x.ended || !(x.issued.all (·.done)) then s
      else
        let s := replayExec (captureExec s cx ct x) cx ct x
        let read := streamedPairs s cx i x.xr
        let s := duePairs s (slotFor s cx x.xr.req) x.disp ((ownedPairs s cx k).filter fun p => !read.contains p)
        let s := reapPages (s.updTile tile fun y =>
          { y with exec := none, streams := [], nextDisp := y.nextDisp + 1, execs := y.execs + 1 })
        tileEnded s cx x.disp i.tiles.length
    | _, _ => s)

/-- Whether nothing but time stands between an issued instruction and its completion: a FIRE has fired its slots and cannot be
executed again, a transfer's lines have moved, a signal has arrived. -/
def mayComplete (y : Tile) (s : State) (t disp : Nat) (e : Issued) : Bool :=
  match e.opc with
  | 0x01 | 0x02 => y.fires.all fun f => f.2.elim true fun g =>
      g.issue != e.n || g.disp != disp || (decide (g.slot ≥ 32 * (g.g0 + g.gn + 1)) && g.withheld == 0)
  | 0x18 => y.sends.all fun d => d.issue != e.n
  | 0x19 => y.recvs.all fun d => d.issue != e.n
  | 0x39 => !(s.flits.any fun f => match f with | .signal src pc _ _ _ => src == t && pc == e.pc | _ => false)
  | _ => true

/-- INSTRUCTION_COMPLETE (R212). -/
def execInstructionComplete (tile issue : Nat) (s : State) : Host.Outcome State Fault Refusal :=
  .next (if !clocked s then s
    else match (s.tile tile).exec with
      | none => s
      | some x =>
        match x.issued.find? fun e => e.n == issue with
        | none => s
        | some e => if mayComplete (s.tile tile) s tile x.disp e then markDone s tile issue else s)

/-- EXEC_LIMIT_EXPIRE (R214): time in link RECVs does not count (14_chimney R350); a KVAPP still waiting for its binding names
that cause (R222). -/
def execExecLimitExpire (tile : Nat) (s : State) : Host.Outcome State Fault Refusal :=
  .next (match ctileOf s tile, (s.tile tile).exec with
    | some (cx, ct, c, i, k), some x =>
      let link := x.linkWait + (if x.linkFrom = 0 then 0 else s.dev.now + 1 - x.linkFrom)
      let ran := s.dev.now - x.started - link
      if !clocked s || c.halted || decide (ran * capW s.thm < i.execLimit * 100 * 900) then s
      else
        let w := (k.code[x.pc]?).elim 0 (·.toNat)
        let bound := (findVec s cx x.disp).elim false fun v => decide (v.bound ≠ [])
        let a : At := { t := tile, cx := cx, ct := ct, c := c, i := i, k := k, x := x, w := w }
        stopProg s a (if iOpc w = 0x20 ∧ bound = true then 5 else 2)
    | _, _ => s)

/-! ## Control (R248 to R250) -/

/-- WAIT: the counter reaches COUNT, which is subtracted. -/
def execWaitCtr (tile : Nat) (s : State) : Host.Outcome State Fault Refusal :=
  .next (onIssue 0x38 tile (fun s a =>
    let c := bits a.w 53 49
    let n := bits a.w 48 33
    let v := nat (s.tile a.t).counters c
    if v < n then .wait else .ok (s.updTile a.t fun y => { y with counters := put 0 y.counters c (v - n) }) [] true) s)

/-- SIGNAL: leaves after every earlier SEND of the execution to the same tile has been accepted. -/
def execSignal (tile : Nat) (s : State) : Host.Outcome State Fault Refusal :=
  .next (onIssue 0x39 tile (fun s a =>
    let dst := (a.i.tiles[bits a.w 48 36]?).elim 0 (·.tile)
    if (s.tile a.t).sends.any fun d => d.dst == dst then .wait
    else .ok { s with flits := s.flits ++ [.signal a.t a.x.pc dst (bits a.w 53 49) (bits a.w 35 20)] } [] false) s)

/-- The first signal under way to a tile, and the flits without it. -/
def takeSignal (tile : Nat) : List Flit → Option ((Nat × Nat × Nat × Nat) × List Flit)
  | [] => none
  | f :: l =>
    match f with
    | .signal src pc dst ctr add =>
      if dst = tile then some ((src, pc, ctr, add), l) else (takeSignal tile l).map fun r => (r.1, f :: r.2)
    | _ => (takeSignal tile l).map fun r => (r.1, f :: r.2)

/-- SIGNAL_ARRIVAL (R213): an increment that would pass 65,535 is discarded and halts the context, naming the signalling tile and
its SIGNAL. -/
def execSignalArrival (tile : Nat) (s : State) : Host.Outcome State Fault Refusal :=
  .next (if !clocked s then s
    else match takeSignal tile s.flits with
      | none => s
      | some ((src, pc, ctr, add), l) =>
        let s : State := { s with flits := l }
        let s := match (s.tile src).exec with
          | none => s
          | some x =>
            match x.issued.find? fun (e : Issued) => e.opc == 0x39 && e.pc == pc && !e.done with
            | none => s
            | some e => markDone s src e.n
        let v := nat (s.tile tile).counters ctr
        if v + add ≤ 65535 then s.updTile tile fun y => { y with counters := put 0 y.counters ctr (v + add) }
        else match (s.tile tile).ctx with
          | none => s
          | some (cx, _) =>
            let from_ := ((s.tile src).ctx).elim 0xFFFF (·.2)
            raiseErr s { domain := 8, code := 0x8006, unit := tile, detail := 0, act := .halt cx 1 from_ pc })

/-- LOOP: its byte tells whether control will come back (DEDUCED, log entry 35). -/
def execLoopBody (tile : Nat) (s : State) : Host.Outcome State Fault Refusal :=
  .next (onIssue 0x3A tile (fun s a =>
    let n := bits a.w 42 27
    .ok (updExec s a.t fun x => { x with loops := (x.pc + 1, bits a.w 53 43, n) :: x.loops }) (natLe 1 (b2n (decide (n > 1)))) true) s)

/-- BR. -/
def execBr (tile : Nat) (s : State) : Host.Outcome State Fault Refusal :=
  .next (match about s tile with
    | none => s
    | some a =>
      if iOpc a.w ≠ 0x3B then s
      else if brTaken a.w a.x.xr then
        updExec (issued s a (natLe 1 1) true) a.t fun x => { x with pc := bits a.w 53 43, loops := a.x.loops }
      else issued s a (natLe 1 0) true)

/-- END: the execution ends once everything issued has completed. -/
def execEndExec (tile : Nat) (s : State) : Host.Outcome State Fault Refusal :=
  .next (onIssue 0x3C tile (fun s a => .ok (updExec s a.t fun x => { x with ended := true }) [] true) s)

/-- NOP. -/
def execNopInstr (tile : Nat) (s : State) : Host.Outcome State Fault Refusal :=
  .next (onIssue 0x3D tile (fun s _ => .ok s [] true) s)

/-! ## V-marked values (15_determinism R376, R378) -/

/-- The recorded values of the V-marked instruction an execution is issuing in a replay: of the same dispatch, tile and program
index, those not used yet; `none` outside a replay. -/
def replayVals (a : At) (count : Nat) : Option (Option (List Byte)) :=
  a.c.replay.map fun r =>
    let mine := (r.recs.map (·.2)).filter fun e =>
      e.kind == 4 && e.ctile == a.ct && e.disp == r.recDisp a.x.disp && field e.body 0 2 == a.x.pc
    let used := (a.x.issued.filter fun e => e.pc == a.x.pc).length
    match mine.drop used with
    | [] => none
    | e :: _ => if count = field e.body 4 4 ∨ count = 0 then some (e.body.drop 8) else none

/-- A VOUT record that is missing or does not fit counts as a divergence (R379). -/
def noVout (s : State) (a : At) : State :=
  s.updCtx a.cx fun c => { c with replay := c.replay.map fun r =>
    { r with missing := r.missing ++ [(r.recDisp a.x.disp, a.ct, a.x.issueCtr, a.x.pc)] } }

/-- TIMEREAD: the device time of its issue, as the first eight bytes of line DLINE. -/
def execTimeread (tile : Nat) (s : State) : Host.Outcome State Fault Refusal :=
  .next (onIssue 0x3E tile (fun s a =>
    let go (s : State) (v : Nat) : Eff :=
      wrP s a (bits a.w 53 48) (32 * bits a.w 47 36) (natLe 8 v) fun s' =>
        .ok (captureVout s' a.cx a.ct a.x a.x.pc 1 (natLe 8 v)) (natLe 8 v) false
    match replayVals a 1 with
    | none => go s s.dev.now
    | some none => go (noVout s a) s.dev.now
    | some (some bs) => go s (field bs 0 8)) s)

end Sys2Proof.Machine
end

