-- ==== Sys2Proof/Machine/Flue.lean ====
section
/-! DEFINITION. The flue path (06_flue_path; 03_arrays R72 to R80): jobs, queues, what each job computes, and the return of its
result to the run adders. -/

namespace Sys2Proof.Machine

/-- The tag that tells the jobs and results of one pass of one FIRE from every other's. -/
def Fire.tag (f : Fire) : Nat := f.issue + 2 ^ 64 * (f.pass + 2 ^ 64 * f.disp)

/-! ## Contributions in units of u (02_number_formats R29, R30, R45) -/

/-- The multiplier of a level of plane `p` of a block with offset `o` (R45). -/
def planeMul (p o : Nat) : Int := (if p = 7 then -((2 ^ 7 : Nat) : Int) else ((2 ^ p : Nat) : Int)) * ((2 ^ (15 - o) : Nat) : Int)

/-- What a released data level of half `h` adds to its output: R29 for W1, R30 for W2 and T. -/
def levelPart (fmt h : Nat) (level ones : Int) : Int :=
  if fmt = 0 then 2 * level - ones else if fmt = 1 then (if h = 0 then -2 * level else level) else if h = 0 then level else -level

/-- The output of column `j` of half `h` (05_accumulation R118). -/
def outputOf (fmt h j : Nat) : Nat := if fmt = 0 then 512 * h + j else j

/-- Add values to adders. -/
def addVals (m : SMap Int) (vs : List (Nat × Int)) : SMap Int := vs.foldl (fun m e => put 0 m e.1 (get 0 m e.1 + e.2)) m

/-! ## Queues (R142 to R144) -/

def Flue.queue (f : Flue) : FlueKind → List Job
  | .recompute => f.qRec | .outlier => f.qOut | .delta => f.qDel

def Flue.setQueue (f : Flue) (k : FlueKind) (l : List Job) : Flue :=
  match k with
  | .recompute => { f with qRec := l, hwmRec := max f.hwmRec l.length }
  | .outlier => { f with qOut := l, hwmOut := max f.hwmOut l.length }
  | .delta => { f with qDel := l, hwmDel := max f.hwmDel l.length }

def Flue.waiting (f : Flue) : FlueKind → List Nat
  | .recompute => f.waitRec | .outlier => f.waitOut | .delta => f.waitDel

def Flue.setWaiting (f : Flue) (k : FlueKind) (l : List Nat) : Flue :=
  match k with
  | .recompute => { f with waitRec := l } | .outlier => { f with waitOut := l } | .delta => { f with waitDel := l }

/-- Entries of each queue. -/
def queueSize : FlueKind → Nat
  | .recompute => 64 | .outlier => 256 | .delta => 64

/-- The most jobs of a kind a tile may have outstanding. -/
def outLimit : FlueKind → Nat
  | .recompute => 32 | .outlier => 64 | .delta => 8

/-- Jobs of a kind a tile has outstanding. -/
def Tile.outOf (t : Tile) : FlueKind → Nat
  | .recompute => t.outRecompute | .outlier => t.outOutlier | .delta => t.outDelta

def Tile.setOut (t : Tile) (k : FlueKind) (n : Nat) : Tile :=
  match k with
  | .recompute => { t with outRecompute := n } | .outlier => { t with outOutlier := n } | .delta => { t with outDelta := n }

/-- The engine of a job: the tile's home engine, or the array's delta engine (R137, R138). -/
def engineFor (s : State) (j : Job) : Nat :=
  match j.kind with
  | .delta =>
    match ctileOf s j.tile with
    | none => homeEngine j.tile
    | some (_, ct, _, i, _) => (i.arrays.find? fun a => a.carray == 4 * ct + j.arr).elim (homeEngine j.tile) (·.engine)
  | _ => homeEngine j.tile

/-- A job reaches its engine: it is queued, or HOLD_OFF leaves it with its tile (R143). -/
def offerJob (s : State) (j : Job) : State :=
  let e := engineFor s j
  let f := s.flue e
  let q := f.queue j.kind
  if q.length < queueSize j.kind then s.setFlue e (f.setQueue j.kind (q ++ [{ j with arrived := s.dev.now }]))
  else
    let f := { f with refused := f.refused ++ [j], holdOffs := f.holdOffs + 1 }
    let w := f.waiting j.kind
    (s.setFlue e (f.setWaiting j.kind (if w.contains j.tile then w else w ++ [j.tile]))).updTile j.tile fun t => { t with held := t.held + 1 }

/-- A tile sends the jobs of its backlog while its outstanding counts have room (R144). -/
def pumpJobs (tile : Nat) : Nat → State → State
  | 0, s => s
  | n + 1, s =>
    let t := s.tile tile
    match t.backlog.find? fun j => decide (t.outOf j.kind < outLimit j.kind) with
    | none => s
    | some j =>
      let s := s.updTile tile fun t => { (t.setOut j.kind (t.outOf j.kind + 1)) with backlog := t.backlog.erase j }
      pumpJobs tile n (offerJob s j)

/-- Jobs of a FIRE are issued. -/
def sendJobs (s : State) (tile : Nat) (js : List Job) : State :=
  let s := s.updTile tile fun t => { t with backlog := t.backlog ++ js }
  pumpJobs tile (s.tile tile).backlog.length s

/-! ## The engine's choice (R142) -/

/-- The head of a queue: lowest class, then arrival. -/
def headOf (q : List Job) : Option Job :=
  q.foldl (fun (a : Option Job) j => match a with | none => some j | some b => if j.cls < b.cls then some j else some b) none

/-- A head has waited 2,048 CCLK cycles. -/
def overdue (s : State) (j : Job) : Bool := decide ((s.dev.now - j.arrived) * 96 ≥ 2048 * s.clk.cclk.div)

/-- The engine's next job, and whether the waiting rule chose it. -/
def nextJob (s : State) (f : Flue) : Option (Job × Bool) :=
  let heads := [f.qRec, f.qOut, f.qDel].filterMap headOf
  let late := heads.filter (overdue s)
  match late.foldl (fun (a : Option Job) j =>
      match a with | none => some j | some b => if j.arrived < b.arrived then some j else some b) none with
  | some j => some (j, true)
  | none => heads.head?.map fun j => (j, false)

/-- Run the next job of an engine when it is of this kind. -/
def runJob (s : State) (engine : Nat) (k : FlueKind) (f : State → Job → State) : State :=
  if !clocked s || s.dev.st == .failed then s
  else match nextJob s (s.flue engine) with
    | none => s
    | some (j, late) =>
      if j.kind ≠ k then s
      else
        let s := s.updFlue engine fun x =>
          { (x.setQueue k ((x.queue k).erase j)) with waited := x.waited + b2n late, claimed := false }
        f s j

/-- A flit to a tile. -/
def sendFlit (s : State) (f : Flit) : State := { s with flits := s.flits ++ [f] }

/-! ## RECOMPUTE (03_arrays R73, R76, R80) -/

/-- A row as one of the engine's reads returned it. -/
def readRow (s : State) (reads : List RowRead) (nth array row : Nat) : Nat :=
  ((reads.find? fun r => r.nth == nth && r.row == row).map (·.bits)).getD (rowOf s array row)

/-- The rows of a job's set, as one read returned them: row number and cells. -/
def setRows (s : State) (reads : List RowRead) (nth array slot : Nat) : List (Nat × Nat) :=
  (List.range 64).map fun i => (64 * (slot / 32) + i, readRow s reads nth array (64 * (slot / 32) + i))

/-- The data levels of a set from stored bits. -/
def trueLevels (rows : List (Nat × Nat)) (acts h set : Nat) : List Int :=
  (List.range 32).map fun j =>
    ((rows.zipIdx.filter fun r => acts.testBit r.2 && r.1.2.testBit (608 * h + 32 * set + j)).length : Int)

/-- The tally sum of a set from stored bits. -/
def trueTally (rows : List (Nat × Nat)) (acts h set : Nat) : Int :=
  (((rows.zipIdx.filter fun r => acts.testBit r.2).map fun r => setDigits r.1.2 h set).sum : Nat)

/-- The rows of a read whose data cells and tally digits disagree in the set, with the cells read. -/
def faultRows (rows : List (Nat × Nat)) (h set : Nat) : List (Nat × Nat) :=
  rows.filter fun r => setCount r.2 h set != setDigits r.2 h set

/-- The levels of a set as adder values. -/
def setVals (j : Job) (levels : List Int) : List (Nat × Int) :=
  let ones : Int := popBits j.acts 0 64
  levels.zipIdx.map fun l =>
    (outputOf j.fmt j.half (32 * j.set + l.2), levelPart j.fmt j.half l.1 ones * planeMul j.plane j.off)

/-- A set is classified CONV_DATA or CONV_TALLY by a read and released (R73, R83). -/
def releaseSet (s : State) (j : Job) (rows : List (Nat × Nat)) : State :=
  let l := trueLevels rows j.acts j.half j.set
  let data := j.dataBad || l != j.levels
  let s := s.updArr (4 * j.tile + j.arr) fun a =>
    { a with mmData := a.mmData + b2n data, mmTally := a.mmTally + b2n (!data), wFails := a.wFails + 1, wTally := a.wTally + b2n (!data) }
  sendFlit s (.result j.tile j.bank j.issue .recompute (setVals j (if data then l else j.levels)))

/-- Data of an array event (R88). -/
def arrData (array row source sets count : Nat) : Nat :=
  evData [(array, 2), (row, 2), (source, 1), (sets, 1), (min count 0xFFFF, 2)]

/-- A hard fault of an array (R78): ARR_HARD_FAULT, then FAILED. -/
def hardFault (s : State) (array row source sets : Nat) : State :=
  let s := s.updArr array fun a => { a with hard := true }
  let s := logEvent s 0x4003 3 (arrData array row source sets 0)
  raiseErr s { domain := 3, code := 0x4003, unit := array, detail := row, act := .fatal }

/-- RECOMPUTE: the classification of R73, with the second and third reads of R76 and R80; a STORAGE failure is an error of the ARRAY
domain (16_faults R382). -/
def execRecompute (engine : Nat) (reads : List RowRead) (s : State) : Host.Outcome State Fault Refusal :=
  .next (runJob s engine .recompute fun s j =>
    let array := 4 * j.tile + j.arr
    let s := s.updFlue engine fun f => { f with nRec := f.nRec + 1, busy := f.busy + 24 }
    let r0 := setRows s reads 0 array j.slot
    let sum (l : List Int) : Int := l.sum
    if sum (trueLevels r0 j.acts j.half j.set) = trueTally r0 j.acts j.half j.set then releaseSet s j r0
    else
      let bad := faultRows (setRows s reads 1 array j.slot) j.half j.set
      if bad ≠ [] then
        let s := sendFlit (s.updArr array fun a => { a with storage := a.storage + 1 }) (.storage j.tile j.arr j.bank j.issue bad)
        raiseErr s { domain := 3, code := 0x4002, unit := array, detail := bad.length, act := .elsewhere }
      else
        let r2 := setRows s reads 2 array j.slot
        match faultRows r2 j.half j.set with
        | [] => releaseSet s j r2
        | r :: _ => hardFault s array r.1 0 (badSets r.2))

/-! ## OUTLIER and DELTA -/

/-- OUTLIER: P × w × 2^11 for each output of the row. -/
def execOutlier (engine : Nat) (s : State) : Host.Outcome State Fault Refusal :=
  .next (runJob s engine .outlier fun s j =>
    let n := outputsOf j.fmt
    let s := s.updFlue engine fun f => { f with nOut := f.nOut + 1, busy := f.busy + 4 + (n + 255) / 256 }
    sendFlit s (.result j.tile j.bank j.issue .outlier ((List.range n).map fun c => (c, j.p * weightAt j.fmt j.acts c * 2048))))

/-- The entries of a job's segment, and whether the variant has one. -/
def jobSeg (s : State) (j : Job) : Option (List Delta) :=
  match ctileOf s j.tile with
  | none => none
  | some (_, ct, c, _, _) =>
    match c.variants.find? fun v => v.1 == j.variant with
    | none => none
    | some v => (v.2.segs.find? fun g => g.1 == 4 * ct + j.arr).map (·.2)

/-- Bytes of a cached segment. -/
def segBytes (s : State) (k : Nat × Nat × Nat) : Nat :=
  match (look s.ctxs k.1).bind fun c => (c.variants.find? fun v => v.1 == k.2.1).map (·.2) with
  | none => 0
  | some v => 4 * ((v.segs.find? fun g => g.1 == k.2.2).elim 0 (·.2.length))

/-- The delta cache after a use (R148): least recently used segments leave until 2 MiB hold the rest. -/
def cacheKeep (s : State) : List (Nat × Nat × Nat) → Nat → List (Nat × Nat × Nat)
  | [], _ => []
  | k :: l, used => if used + segBytes s k > 2 ^ 21 ∧ used ≠ 0 then [] else k :: cacheKeep s l (used + segBytes s k)

/-- CCLK cycles of the fetch of a segment, at 32 bytes a cycle (R148). -/
def fetchCycles (n : Nat) : Nat := (4 * n + 31) / 32

/-- DELTA: every entry of the array in the FIRE's row groups, in base and outlier elements (R45). A segment that the cache does not
hold, or in which it finds a parity error, is fetched first (R148). -/
def execDelta (engine : Nat) (parity : Bool) (s : State) : Host.Outcome State Fault Refusal :=
  .next (runJob s engine .delta fun s j =>
    let ct := ((s.tile j.tile).ctx).elim 0 (·.2)
    let key := (j.ctx, j.variant, 4 * ct + j.arr)
    let seg := jobSeg s j
    let es := (seg.getD []).filter fun e => decide (j.g0 ≤ e.row / 64 ∧ e.row / 64 ≤ j.g0 + j.gn)
    let fetch := seg.isSome && (parity || !(s.flue engine).cache.contains key)
    let s := s.updFlue engine fun f => { f with
      nDel := f.nDel + 1, entries := f.entries + es.length,
      busy := f.busy + 8 + (es.length + 255) / 256 + (if fetch then fetchCycles (seg.getD []).length else 0),
      misses := f.misses + b2n fetch,
      cache := if seg.isSome then cacheKeep s (key :: f.cache.filter (· != key)) 0 else f.cache }
    let vals := es.foldl (fun m e => put 0 m e.col (get 0 m e.col + e.d * (get 0 j.q e.row + get 0 j.outl e.row))) ([] : SMap Int)
    sendFlit s (.result j.tile j.bank j.issue .delta vals))

/-! ## Results and room -/

/-- The first flue result under way to a tile, and the flits without it. -/
def takeResult (tile : Nat) : List Flit → Option ((Nat × Nat × FlueKind × List (Nat × Int)) × List Flit)
  | [] => none
  | f :: l =>
    match f with
    | .result t bank issue kind vals =>
      if t = tile then some ((bank, issue, kind, vals), l) else (takeResult tile l).map fun r => (r.1, f :: r.2)
    | _ => (takeResult tile l).map fun r => (r.1, f :: r.2)

/-- FLUE_RESULT_ARRIVAL (R72, R140, R141): the values enter the bank's run adders; those of a discarded pass are dropped. -/
def execFlueResultArrival (tile : Nat) (s : State) : Host.Outcome State Fault Refusal :=
  .next (if !clocked s then s
    else match takeResult tile s.flits with
      | none => s
      | some ((bank, tag, kind, vals), l) =>
        let s : State := { s with flits := l }
        let s := s.updTile tile fun t =>
          let t := t.setOut kind (t.outOf kind - 1)
          match look t.fires bank with
          | none => t
          | some f =>
            if f.tag ≠ tag then t
            else
              let f := { f with adders := addVals f.adders vals,
                                withheld := if kind = .recompute then f.withheld - 1 else f.withheld,
                                jobs := if kind = .recompute then f.jobs else f.jobs - 1 }
              { t with fires := store t.fires bank (some f) }
        pumpJobs tile (s.tile tile).backlog.length s)

/-- The waiting tile that follows the last one freed, in tile-number order. -/
def nextWaiting (l : List Nat) (last : Nat) : Option Nat :=
  let above := l.filter fun t => decide (last < t)
  match (if above = [] then l else above) with
  | [] => none
  | t :: r => some (r.foldl min t)

/-- FREE (R143): with room in the queue, the next waiting tile sends its refused jobs again. -/
def execFreeFlue (engine : Nat) (kind : FlueKind) (s : State) : Host.Outcome State Fault Refusal :=
  .next (
    let f := s.flue engine
    if !clocked s || s.dev.st == .failed || decide ((f.queue kind).length ≥ queueSize kind) then s
    else match nextWaiting (f.waiting kind) f.lastFreed with
      | none => s
      | some t =>
        let mine (j : Job) : Bool := j.tile == t && j.kind == kind
        let js := f.refused.filter mine
        let f := { (f.setWaiting kind ((f.waiting kind).filter (· != t))) with
          refused := f.refused.filter fun j => !mine j, lastFreed := t }
        let s := (s.setFlue engine f).updTile t fun y => { y with held := y.held - js.length }
        js.foldl offerJob s)

end Sys2Proof.Machine
end

