-- ==== Sys2Proof/Machine/Arrays.lean ====
section
/-! DEFINITION. The compute arrays (03_arrays): FIRE and FIREV (10_instructions R223 to R225), the fire slot with its conversions,
set checks and release, storage repair, the weight scrub, and the windows of the mismatch rate. -/

namespace Sys2Proof.Machine

/-! ## The quantised vector of a FIRE (02_number_formats R34 to R38) -/

/-- Blocks of the record at byte `b`. -/
def qvBlocks (m : Mem) (b : Nat) : Nat := leNat (Mem.read m (b + 4) 4)

/-- Byte offset of the A8 elements of a record of `n` blocks. -/
def qvElems (n : Nat) : Nat := (16 + n + 31) / 32 * 32

/-- The offset of block `k`. -/
def qvOff (m : Mem) (b k : Nat) : Nat := bits (Mem.byte m (b + 16 + k)).toNat 3 0

/-- Z of block `k`: every plane of it is skipped (03_arrays R63). -/
def qvZ (m : Mem) (b k : Nat) : Bool := (Mem.byte m (b + 16 + k)).getLsbD 4

/-- The 64 elements of block `k`. -/
def qvBlock (m : Mem) (b k : Nat) : List Byte := Mem.read m (b + qvElems (qvBlocks m b) + 64 * k) 64

/-- The outlier entries: element index and P. -/
def qvOuts (m : Mem) (b : Nat) : List (Nat × Int) :=
  let n := qvBlocks m b
  let o := b + qvElems n + 64 * n
  (List.range (leNat (Mem.read m (b + 8) 4))).map fun i =>
    (leNat (Mem.read m (o + 8 * i + 4) 4), (BitVec.ofNat 16 (leNat (Mem.read m (o + 8 * i) 2))).toInt)

/-- The bits of plane `p` of a block, element 0 in bit 0. -/
def planeBits (es : List Byte) (p : Nat) : Nat :=
  (es.zipIdx.map fun e => if e.1.toNat.testBit p then 2 ^ e.2 else 0).sum

/-- The activation bits of plane `p` of block `k`, none for a block whose descriptor has Z set. -/
def qvActs (m : Mem) (b k p : Nat) : Nat := if qvZ m b k then 0 else planeBits (qvBlock m b k) p

/-! ## FIRE and FIREV -/

/-- The first byte of a FIRE's vector. -/
def fireBase (s : State) (t : Nat) (f : Fire) : Nat :=
  match ctileOf s t with
  | none => 0
  | some (_, _, _, _, k) => 32 * (k.panels[f.qv]?.elim 0 (·.base))

/-- The block that array `a` of a FIRE takes for row group `g` (R223). -/
def Fire.block (f : Fire) (a g : Nat) : Nat := f.blk + 16 * (a % f.join) + g

/-- Slots are issued up to this index (03_arrays R62). -/
def Fire.last (f : Fire) : Nat := 32 * (f.g0 + f.gn + 1)

/-- Whether two FIREs of a tile's banks are the same one. -/
def Fire.same (f g : Fire) : Bool := f.disp == g.disp && f.issue == g.issue

/-- A FIRE has slots still to fire. -/
def Fire.running (f : Fire) : Bool := decide (f.slot < f.last)

/-- Whether a FIRE issued before another one. -/
def Fire.before (f g : Fire) : Bool := decide (f.disp < g.disp) || (f.disp == g.disp && decide (f.issue < g.issue))

/-- Two FIREs fire an array in common. -/
def Fire.overlaps (f g : Fire) : Bool := f.arrays.any g.arrays.contains

/-- The row groups of a FIRE. -/
def Fire.groups (f : Fire) : List Nat := (List.range (f.gn + 1)).map (f.g0 + ·)

/-- The outliers of an array's rows in a FIRE's row groups: row and P. -/
def rowOuts (m : Mem) (b : Nat) (f : Fire) (a : Nat) : List (Nat × Int) :=
  (qvOuts m b).filterMap fun e =>
    let k := e.1 / 64
    if f.block a f.g0 ≤ k ∧ k ≤ f.block a (f.g0 + f.gn) then some (64 * (k - f.block a 0) + e.1 % 64, e.2) else none

/-- The jobs a FIRE issues for one of its banks (06_flue_path, the table of jobs; R225). -/
def fireJobs (s : State) (t bank cls variant : Nat) (f : Fire) : List Job :=
  let m := (s.tile t).mem
  let b := fireBase s t f
  let cx := ((s.tile t).ctx).elim 0 (·.1)
  let blank : Job :=
    { kind := .outlier, tile := t, bank := bank, issue := f.tag, cls := cls, arrived := 0, arr := 0, fmt := f.fmt, slot := 0,
      set := 0, acts := 0, levels := [], dataBad := false, row := 0, p := 0, ctx := cx, variant := variant, g0 := f.g0,
      gn := f.gn, q := [], outl := [], plane := 0, off := 0, half := 0 }
  let outs := f.arrays.flatMap fun a => (rowOuts m b f a).map fun o =>
    { blank with arr := a, row := o.1, p := o.2, acts := rowOf s (4 * t + a) o.1 }
  let deltas := if !f.v || variant == 0 then [] else f.arrays.map fun a =>
    let els : List (Nat × Int) := f.groups.flatMap fun g =>
      (qvBlock m b (f.block a g)).zipIdx.map fun e =>
        (64 * g + e.2, e.1.toInt * ((2 ^ (15 - qvOff m b (f.block a g)) : Nat) : Int))
    { blank with
      kind := .delta, arr := a, q := els.foldl (fun q e => put 0 q e.1 e.2) [],
      outl := (rowOuts m b f a).foldl (fun q e => put 0 q e.1 (e.2 * 2048)) [] }
  outs ++ deltas

/-- Begin (or begin again) the passes of one FIRE and issue their jobs. -/
def startFires (s : State) (t cls variant : Nat) (fs : List (Nat × Fire)) : State :=
  fs.foldl (fun s e =>
    let js := fireJobs s t e.1 cls variant e.2
    let f := { e.2 with slot := 32 * e.2.g0, withheld := 0, jobs := js.length, adders := [] }
    sendJobs (s.updTile t fun y => { y with fires := store y.fires e.1 (some f) }) t js) s

/-- A PROMOTE of one of these banks has issued and not completed. -/
def promoting (a : At) (banks : List Nat) : Bool :=
  a.x.issued.any fun e => e.opc == 0x09 && !e.done && (a.k.code[e.pc]?).elim false fun w => banks.contains (bits w.toNat 47 46)

/-- A FIRE waits for a bank whose result is not promoted until that PROMOTE completes (05_accumulation R119), and for a running FIRE
whose mask overlaps its own (R224). -/
def fireWaits (y : Tile) (a : At) (banks mask : List Nat) : Bool :=
  promoting a banks || y.fires.any fun e => e.2.elim false fun g => banks.contains e.1 || (g.running && g.arrays.any mask.contains)

/-- FIRE and FIREV (R223 to R225); a block index beyond NBLK is a program stop. The record of QV counts as accessed whole, to the end
of its outlier entries (DESIGN CHOICE, log entry 131). -/
def fireEff (v : Bool) (s : State) (a : At) : Eff :=
  let o := fireOps a.w
  let mask := maskArrays o.mask
  let banks := fireBanks o
  if fireWaits (s.tile a.t) a banks mask then .wait
  else
    rdP s a o.qv 0 16 fun h =>
      let n := field h 4 4
      if mask.any fun x => decide (o.blk + 16 * (x % o.join) + o.g0 + o.gn ≥ n) then .stop 8
      else if qvElems n + 64 * n + 8 * field h 8 4 > 32 * (a.panel o.qv).lines then .stop 0
      else
        let fs := banks.map fun k =>
          let arrays := mask.filter fun x => bankOf o.join x == k
          (k, ({ disp := a.x.disp, issue := a.x.issueCtr, v := v, arrays := arrays, join := o.join, blk := o.blk, g0 := o.g0,
                 gn := o.gn, qv := o.qv, slot := 32 * o.g0, withheld := 0, jobs := 0, adders := [],
                 fmt := (a.i.arrays.find? fun r => r.carray == 4 * a.ct + arrays.headD 0).elim 0 (·.format),
                 pass := 0, discarded := a.x.discarded, req := a.x.xr.req } : Fire))
        .ok (startFires s a.t a.x.xr.cls a.x.xr.variant fs) [] false

/-- FIRE. -/
def execFire (tile : Nat) (s : State) : Host.Outcome State Fault Refusal := .next (onIssue 0x01 tile (fireEff false) s)

/-- FIREV. -/
def execFirev (tile : Nat) (s : State) : Host.Outcome State Fault Refusal := .next (onIssue 0x02 tile (fireEff true) s)

/-! ## From code to level (R65 to R69) -/

/-- The code on which a level is centred, with the nominal trims. -/
def nominalCode (level : Nat) : Nat := rneDiv (64 + 126 * level) 64

/-- The corrected value of a code in 1/64 of a level (R67). -/
def decodeCode (offset : Int) (gain code : Nat) : Int := (((code * 64 : Nat) : Int) - offset) * (gain : Int) + 16384

/-- R67: v64. -/
def v64Of (offset : Int) (gain code : Nat) : Int := decodeCode offset gain code / 32768

/-- The level and margin of a corrected value; `none` marks RANGE (R67, R68). -/
def levelOf (v : Int) : Option (Int × Int) := if v < -32 ∨ v > 4127 then none else some ((v + 32) / 64, v - 64 * ((v + 32) / 64))

/-- The histogram bin of a margin (R69). -/
def marginBin (m : Int) : Nat := min 15 (m.natAbs / 2)

/-- The bin of a nominal conversion. -/
def nominalBin (level : Nat) : Nat := (levelOf (v64Of 64 16644 (nominalCode level))).elim 0 fun r => marginBin r.2

/-- The outcome of one conversion: its level, whether it fails its set, and what it counts. -/
structure Conv where
  level : Int
  bad : Bool
  settle : Bool
  trial : Bool
  range : Bool
  bin : Option Nat
  deriving DecidableEq, Repr

/-- The position the spare stands in for in an array: in SERVICE the spare takes over the data converter of the array's dwell, that of
the common rotation or of its own recalibration (04_calibration R102, R103, R105); at a tally position none (R104). -/
def takeover (s : State) (array : Nat) : Option Nat :=
  let a := s.arr array
  let j := if a.recal then a.recalPos else if a.recalPos = 0 then s.cal.bgPos else 608
  if s.dev.st = .service ∧ j < 512 then some j else none

/-- The converter that converts column `c`: its own, or the spare, 608. -/
def standIn (over_ : Option Nat) (c : Nat) : Nat := if over_ = some c then 608 else c

/-- Converter `c` of an array, with its own trims, converts a column whose level is `l`: nominally, or as a listed deviation says. -/
def convert (a : Arr) (devs : List ConvDev) (c l : Nat) : Conv :=
  match devs.find? fun d => d.conv == c with
  | none => { level := l, bad := false, settle := false, trial := false, range := false, bin := some (nominalBin l) }
  | some d =>
    let t := get ((64, 16644) : Int × Nat) a.trims c
    let late := d.lateSettle || d.lateTrial
    match levelOf (v64Of t.1 t.2 d.code.toNat) with
    | none => { level := 0, bad := true, settle := d.lateSettle, trial := d.lateTrial, range := true, bin := none }
    | some r => { level := r.1, bad := late, settle := d.lateSettle, trial := d.lateTrial, range := false,
                  bin := if late then none else some (marginBin r.2) }

/-! ## Windows (R83 to R87) -/

/-- Twice the Gaussian series of R86 in fixed point: the upper tail at the root of `x2`, for `x2` below 60. -/
def gaussTail (x2 : Rat) : Rat :=
  let k := fixBits
  let y := toFix k (x2 / 2)
  let sum := ((List.range 400).foldl (fun (st : Int × Int) i =>
    (st.1 + st.2 / ((2 * i + 1 : Nat) : Int), -(st.2 * y / (2 ^ k : Int) / ((i + 1 : Nat) : Int)))) ((0 : Int), (2 ^ k : Int))).1
  -- sqrt(x2 / (2 pi)) in fixed point
  let r := Nat.sqrt ((toFix (2 * k) x2 * (2 ^ k : Int) / (2 * fixPi k)).toNat)
  1 / 2 - (((r : Int) * sum / (2 ^ k : Int) : Int) : Rat) / ((2 ^ k : Nat) : Rat)

/-- The sum of squares of R86 in units of 1/4,096 level², and the count, of a window's histogram. -/
def histMoments (h : SMap Nat) : Nat × Nat :=
  (((h.map fun e => e.2 * (2 * e.1 + 1) ^ 2).sum), (h.map (·.2)).sum)

/-- SIGMA of R87. -/
def sigmaOf (h : SMap Nat) : Nat :=
  let (n, d) := histMoments h
  if d = 0 then 0 else sat 16 ((Nat.sqrt (4 * n * 2 ^ 20 / (4096 * d)) + 1) / 2)

/-- U of R86. -/
def undetectedRate (fails : Nat) (h : SMap Nat) : Rat :=
  let q : Rat := (fails + 1 : Nat) / ((2 ^ 36 * 76 : Nat) : Rat)
  let emp := 1056 * q * q / 38
  let (n, d) := histMoments h
  if d = 0 ∨ n = 0 then emp
  else
    let x2 : Rat := (1024 * d : Nat) / (n : Rat)
    if x2 ≥ 60 then emp
    else
      let g := gaussTail x2
      max emp (1056 * g * g / 38)

/-- UNDET_NLOG2 of R87: −log₂ U in Q8.8, rounded to nearest. -/
def nlog2Of (u : Rat) : Nat :=
  if u ≤ 0 then 0xFFFF
  else sat 16 ((floorLog2 (2 * u.den ^ 512) (u.num.natAbs ^ 512)) / 2).toNat

/-- The data of ARR_MISMATCH_RATE (R88). -/
def rateEvent (s : State) (array fails : Nat) : State := logEvent s 0x4001 3 (arrData array 0xFFFF 2 0 fails)

/-- A window closes (R84 to R87). -/
def closeWindow (s : State) (array : Nat) : State :=
  let a := s.arr array
  let over_ := decide (a.wFails > 1024)
  let b : Arr := { a with
    lastFails := a.wFails, windows := a.windows + 1, sigma := sigmaOf a.wHist, undet := nlog2Of (undetectedRate a.wFails a.wHist),
    drift := a.drift || decide (a.wTally > 256), overLimit := over_, judging := a.judgeNext, judgeNext := false,
    wChecks := 0, wFails := 0, wTally := 0, wHist := [] }
  if !over_ then s.setArr array b
  else
    let s := rateEvent s array a.wFails
    if a.judging then
      raiseErr (s.setArr array b) { domain := 3, code := 0x4001, unit := array, detail := min a.wFails 0xFFFF, act := .fatal }
    else if a.recal || a.judgeNext then s.setArr array b
    else
      raiseErr (s.setArr array { b with recal := true, recalPos := 0 })
        { domain := 3, code := 0x4001, unit := array, detail := min a.wFails 0xFFFF, act := .elsewhere }

/-- A window closes after its 2^36th check, before any further check counts. -/
def closeIfFull (s : State) (array : Nat) : State := if (s.arr array).wChecks ≥ 2 ^ 36 then closeWindow s array else s

/-- WINDOW_CLOSE (R84). -/
def execWindowClose (array : Nat) (s : State) : Host.Outcome State Fault Refusal :=
  .next (if !clocked s || s.dev.st == .failed then s else closeIfFull s array)

/-! ## The fire slot (R62 to R74) -/

/-- One set of a slot: its index, its data conversions and its tally conversions. -/
def setFails (data tally : List Conv) : Bool :=
  (data.any (·.bad)) || (tally.any (·.bad)) ||
    ((data.map (·.level)).sum != (tally.zipIdx.map fun c => c.1.level * ((2 ^ c.2 : Nat) : Int)).sum)

/-- What an array converts in a slot of half `h`: data columns first, then tally columns. -/
def slotConvs (a : Arr) (over_ : Option Nat) (devs : List ConvDev) (rows : List (Nat × Nat)) (acts h : Nat) : List Conv :=
  let on := (rows.zipIdx.filter fun r => acts.testBit r.2).map fun r => r.1.2
  (List.range 608).map fun c => convert a devs (standIn over_ c) (on.filter fun r => r.testBit (608 * h + c)).length

/-- The conversions of set `i` of a slot: 32 data columns and 6 tally columns. -/
def setData (cs : List Conv) (i : Nat) : List Conv := (cs.drop (32 * i)).take 32

def setTally (cs : List Conv) (i : Nat) : List Conv := (cs.drop (512 + 6 * i)).take 6

/-- The sets of a slot that fail their check. -/
def failedSets (cs : List Conv) : List Nat := (List.range 16).filter fun i => setFails (setData cs i) (setTally cs i)

/-- The histogram with the margins of a slot counted. -/
def countBins (cs : List Conv) (h : SMap Nat) : SMap Nat :=
  let n := cs.foldl (fun (n : List Nat) c => match c.bin with | none => n | some b => modAt n b (· + 1)) (List.replicate 16 0)
  n.zipIdx.foldl (fun h e => if e.1 = 0 then h else put 0 h e.2 (nat h e.2 + e.1)) h

/-- The counters of an array after a slot of 16 set checks (R69, R83, R89). -/
def countSlot (a : Arr) (cs : List Conv) : Arr :=
  { a with
    checks := a.checks + 16, wChecks := a.wChecks + 16, hist := countBins cs a.hist, wHist := countBins cs a.wHist,
    lateSettle := a.lateSettle + (cs.filter (·.settle)).length, lateTrial := a.lateTrial + (cs.filter (·.trial)).length,
    range := a.range + (cs.filter (·.range)).length }

/-- One array of a FIRE in a slot: the passing sets enter the run adders, the failing ones are withheld and become RECOMPUTE jobs.
The job carries everything of `blank` but its place. -/
def slotArray (st : State × SMap Int × List Job) (t : Nat) (f : Fire) (blank : Job) (a : Nat) (devs : List ConvDev) :
    State × SMap Int × List Job :=
  let (s, adders, jobs) := st
  let g := f.slot / 32
  let p := f.slot % 32 / 2
  let h := f.slot % 2
  let m := (s.tile t).mem
  let b := fireBase s t f
  let k := f.block a g
  let acts := qvActs m b k p
  if acts = 0 then st
  else
    let array := 4 * t + a
    let s := closeIfFull s array
    let rows := (List.range 64).map fun i => (64 * g + i, rowOf s array (64 * g + i))
    let cs := slotConvs (s.arr array) (takeover s array) (devs.filter fun d => d.arr == a) rows acts h
    let s := s.updArr array fun x => countSlot x cs
    let job (set : Nat) : Job := { blank with
      arr := a, slot := f.slot, set := set, acts := acts, plane := p, half := h, off := qvOff m b k,
      levels := (setData cs set).map (·.level), dataBad := (setData cs set).any (·.bad) }
    let fails := failedSets cs
    let good := (List.range 16).filter fun i => !fails.contains i
    let vals := good.flatMap fun i => setVals (job i) (job i).levels
    (s, addVals adders vals, jobs ++ fails.map job)

/-- The next slot index: planes 0 to 7 and both halves of a row group, then the next group (R62). -/
def nextSlotIdx (i : Nat) : Nat := if i % 32 = 15 then 32 * (i / 32 + 1) else i + 1

/-- A tile holds its fire slots (R74, R77, R144). -/
def heldBack (y : Tile) : Bool :=
  !y.repairs.isEmpty || !y.backlog.isEmpty || decide (y.held > 0) || decide (y.outRecompute ≥ 32) || decide (y.outOutlier ≥ 64) ||
    decide (y.outDelta ≥ 8)

/-- FIRE_SLOT: the FIRE that feeds a bank fires its next slot in every array of its mask; a held slot costs four CCLK cycles of
GATE_STALLS (log entry 37). A FIRE waits for an earlier one that overlaps it and runs again after a repair (R224). -/
def execFireSlot (tile bank : Nat) (devs : List ConvDev) (s : State) : Host.Outcome State Fault Refusal :=
  .next (
    let y := s.tile tile
    match look y.fires bank with
    | none => s
    | some f =>
      if !clocked s || !s.clk.aclkOn || s.dev.st == .failed || y.stopped || !f.running then s
      else if y.fires.any fun e => e.2.elim false fun g => g.running && g.before f && g.overlaps f then s
      else if heldBack y then s.updTile tile fun y => { y with gateStalls := y.gateStalls + 4 }
      else
        let mine := y.fires.filterMap fun e => match e.2 with | none => none | some g => if g.same f then some (e.1, g) else none
        let cls := y.exec.elim 7 fun x => x.xr.cls
        mine.foldl (fun s e =>
          let blank : Job :=
            { kind := .recompute, tile := tile, bank := e.1, issue := e.2.tag, cls := cls, arrived := 0, arr := 0, fmt := e.2.fmt,
              slot := 0, set := 0, acts := 0, levels := [], dataBad := false, row := 0, p := 0, ctx := 0, variant := 0,
              g0 := e.2.g0, gn := e.2.gn, q := [], outl := [], plane := 0, off := 0, half := 0 }
          let (s, adders, jobs) :=
            e.2.arrays.foldl (fun st a => slotArray st tile e.2 blank a devs) (s, e.2.adders, ([] : List Job))
          let g := { e.2 with adders := adders, slot := nextSlotIdx e.2.slot, withheld := e.2.withheld + jobs.length }
          if (s.tile tile).stopped then s
          else sendJobs (s.updTile tile fun y => { y with fires := store y.fires e.1 (some g) }) tile jobs) s)

/-! ## Storage repair (R76 to R79) and the scrub (R81, R82) -/

/-- The first storage report under way to a tile, and the flits without it. -/
def takeStorage (tile : Nat) : List Flit → Option (Repair × List Flit)
  | [] => none
  | f :: l =>
    match f with
    | .storage t a bank issue rows =>
      if t = tile then some ({ arr := a, bank := bank, issue := issue, rows := rows }, l)
      else (takeStorage tile l).map fun r => (r.1, f :: r.2)
    | _ => (takeStorage tile l).map fun r => (r.1, f :: r.2)

/-- STORAGE_REPORT: a repair becomes pending and the tile holds its fire slots (R77). -/
def execStorageReport (tile : Nat) (s : State) : Host.Outcome State Fault Refusal :=
  .next (if !clocked s then s
    else match takeStorage tile s.flits with
      | none => s
      | some (r, l) =>
        let s : State := { s with flits := l }
        let s := s.updTile tile fun y => { y with outRecompute := y.outRecompute - 1, repairs := y.repairs ++ [r] }
        pumpJobs tile (s.tile tile).backlog.length s)

/-- Repair one row of an array as read: a second repair within 60 s, or a read-back that differs, is a hard fault (R78); the repair whose
read-back differs is logged and counted before it (DESIGN CHOICE, log entry 124). The Bool tells whether the device still works. -/
def repairRow (s : State) (array row source was : Nat) (back : Option Nat) : State × Bool :=
  let a := s.arr array
  let again := match look a.repairs row with | none => false | some t => decide (s.dev.now < t + 6000000000)
  if again then (hardFault s array row source (badSets was), false)
  else
    let good := if row ≥ 1024 then sweepRow s array row else mkRow (goldOf s array row)
    let s := setRow s array row good
    let s := s.updArr array fun a => { a with
      repairs := store a.repairs row (some s.dev.now),
      gateRepairs := a.gateRepairs + b2n (source == 0), scrubRepairs := a.scrubRepairs + b2n (source == 1 || source == 4) }
    let s := logEvent s 0x4002 3 (arrData array row source (badSets was) 0)
    if back.getD good ≠ good then (hardFault s array row 3 (badSets was), false) else (s, true)

/-- A read of a command, by its place among the reads and its row. -/
def readOf (reads : List RowRead) (nth row : Nat) : Option Nat := (reads.find? fun r => r.nth == nth && r.row == row).map (·.bits)

/-- Rows of an array have been rewritten: reports that were formed before do not ask for them any more. -/
def rewritten (s : State) (t arr : Nat) (rows : List Nat) : State :=
  let rest (l : List (Nat × Nat)) : List (Nat × Nat) := l.filter fun r => !rows.contains r.1
  let s := s.updTile t fun y => { y with repairs := y.repairs.map fun r => if r.arr = arr then { r with rows := rest r.rows } else r }
  { s with flits := s.flits.map fun f =>
      match f with
      | .storage u a bank issue l => if u = t ∧ a = arr then .storage u a bank issue (rest l) else f
      | .signal _ _ _ _ _ | .result _ _ _ _ _ | .digest _ _ _ _ => f }

/-- The FIRE of a repair, when it is still there: unless a pass begun since has left nothing to repair, it begins again with empty run
adders and issues its jobs again. -/
def refire (s : State) (t : Nat) (r : Repair) : State :=
  match look (s.tile t).fires r.bank with
  | none => s
  | some f =>
    if f.disp = r.issue / 2 ^ 128 ∧ f.issue = r.issue % 2 ^ 64 ∧ (f.tag = r.issue ∨ r.rows ≠ []) then
      let mine := (s.tile t).fires.filterMap fun e =>
        match e.2 with | none => none | some g => if g.same f then some (e.1, { g with pass := g.pass + 1 }) else none
      let x := ((s.tile t).exec).map fun x => x.xr
      startFires s t (x.elim 7 (·.cls)) (x.elim 0 (·.variant)) mine
    else s

/-- STORAGE_REPAIR: the first repair pending in the array is carried out: its rows are rewritten from the golden copy and read back;
then the FIRE that failed begins again (R76, R77). -/
def execStorageRepair (array : Nat) (reads : List RowRead) (s : State) : Host.Outcome State Fault Refusal :=
  .next (
    let t := array / 4
    match (s.tile t).repairs.find? fun r => r.arr == array % 4 with
    | none => s
    | some r =>
      if !clocked s || s.dev.st == .failed then s
      else
        let (s, ok) := r.rows.foldl (fun (st : State × Bool) row =>
          if st.2 then repairRow st.1 array row.1 0 row.2 (readOf reads 0 row.1) else st) (s, true)
        if !ok then s
        else
          let s := s.updTile t fun y => { y with repairs := y.repairs.erase r }
          refire (rewritten s t r.arr (r.rows.map (·.1))) t r)

/-- SCRUB_ROW: the next row of the array is read, and repaired when a tally set disagrees. Group 16 is passed over while a
calibration holds it (04_calibration R95). -/
def execScrubRow (array : Nat) (reads : List RowRead) (s : State) : Host.Outcome State Fault Refusal :=
  .next (if !clocked s || !(s.dev.st == .maintenance || s.dev.st == .service || s.dev.st == .sleep) then s
    else
      let row := (s.arr array).scrubRow
      let s := s.updArr array fun a => { a with scrubRow := (row + 1) % 1088 }
      if row ≥ 1024 ∧ calHolds s array = true then s
      else
        let was := (readOf reads 0 row).getD (rowOf s array row)
        if badSets was = 0 then s else (repairRow s array row 1 was (readOf reads 1 row)).1)

end Sys2Proof.Machine
end

