-- ==== Sys2Proof/Machine/Calib.lean ====
section
/-! DEFINITION. Converter calibration (04_calibration): CAL_RUN and its schedule, background calibration, recalibration, the
calibration record, and the commands of 12_graec_commands R300. -/

namespace Sys2Proof.Machine

/-! ## Fits and trims (R92, R93) -/

/-- The nominal trims (03_arrays R67). -/
def nomTrim : Int × Nat := (64, 16644)

/-- The nominal line. -/
def nomFit : Fit := { a := 1, b := 126 / 64, leftOut := 0, nonlinear := false }

/-- R92: the trims of a line; `none` outside their ranges. -/
def trimsOf (a b : Rat) : Option (Int × Nat) :=
  if b ≤ 0 then none
  else
    let o := rne (64 * a)
    let g := (rne (32768 / b)).toNat
    if -64 ≤ o ∧ o ≤ 192 ∧ 15600 ≤ g ∧ g ≤ 17800 then some (o, g) else none

/-- One measured level of a fit: the level and its mean code. -/
abbrev Point := Nat × Rat

/-- The levels a fit of `n` conversions a level includes, with their mean codes: at most 1% of the samples read code 0 or 127 (R93). -/
def fitPoints (n : Nat) (ms : List LevelMeas) : List Point :=
  (List.range 65).filterMap fun l =>
    let m := ms[l]?.getD { sum := 0, clipped := n }
    if 100 * m.clipped ≤ n then some (l, (m.sum : Rat) / (n : Rat)) else none

/-- The least-squares line through mean codes, each weighted equally: a and b of k = a + b L. -/
def leastSquares (ps : List Point) : Rat × Rat :=
  let n : Rat := (ps.length : Nat)
  let sl : Rat := (ps.map fun p => (p.1 : Rat)).sum
  let sk : Rat := (ps.map (·.2)).sum
  let sll : Rat := (ps.map fun p => (p.1 : Rat) * p.1).sum
  let slk : Rat := (ps.map fun p => (p.1 : Rat) * p.2).sum
  let b := (n * slk - sl * sk) / (n * sll - sl * sl)
  ((sk - b * sl) / n, b)

/-- R67 on a mean code, not rounded: 1/64 of a level (DEDUCED, log entry 138). -/
def decodeMean (t : Int × Nat) (k : Rat) : Rat := (64 * k - t.1) * t.2 / 32768

/-- The fit of one measurement of `n` conversions a level (R93): the line, how many levels are left out, and whether an included level
decodes more than 16/64 of a level from its centre with the fit's trims. -/
def fitOf (n : Nat) (ms : List LevelMeas) : Fit :=
  let ps := fitPoints n ms
  let l := leastSquares ps
  { a := l.1, b := l.2, leftOut := 65 - ps.length,
    nonlinear := (trimsOf l.1 l.2).elim false fun t => ps.any fun p => decide (|decodeMean t p.2 - 64 * p.1| > 16) }

/-- Why a fit fails, in the order of R99: REASON 3, 2, 4. -/
def fitReason (f : Fit) : Option Nat :=
  if f.leftOut > 4 then some 3 else if (trimsOf f.a f.b).isNone then some 2 else if f.nonlinear then some 4 else none

/-- Why an attempt fails (R98, R99). -/
def attemptReason (f g : Fit) : Option Nat :=
  match fitReason f with
  | some r => some r
  | none => match fitReason g with
    | some r => some r
    | none =>
      if |f.a - g.a| > 1 / 20 then some 0 else if |f.b - g.b| > f.b / 1000 then some 1 else none

/-- A fit on the replica bank corrected by the array's replica delta (R96, R103). -/
def correct (a : Arr) (f : Fit) : Fit :=
  { f with a := f.a - (a.replicaOff : Rat) / 1024, b := f.b / (1 + (a.replicaGain : Rat) / 1000000) }

/-! ## CAL_RUN (R94 to R101) -/

/-- Every data, tally and spare converter. -/
def allConverters : Nat := 12472320

/-- The command of the CAL_RUN under way shows where it stands (R100). -/
def refreshCal (s : State) : State :=
  match s.cal.run with
  | none => s
  | some r =>
    match findCmd s r.ring r.seq with
    | none => s
    | some c => putCmd s { c with progress := r.sched.perMille s.dev.now, position := r.passed }

/-- What a CAL_RUN holds at a stage. -/
def withRun (s : State) (f : CalRun → CalRun) : State := s.updCal fun c => { c with run := c.run.map f }

/-- CAL_RUN (R94, R97). -/
def execCalRun (ring seq : Nat) (s : State) : Host.Outcome State Fault Refusal :=
  .next (onReady 0x70 ring seq (fun c s =>
    match s.test, s.cal.run with
    | some t, _ => finish s c stBusyTesting (t.sched.remain s.dev.now)
    | none, some r => finish s c stBusy (r.sched.remain s.dev.now)
    | none, none =>
      if s.dev.st ≠ .maintenance then finish s c stNotPermitted 0
      else
        let r : CalRun :=
          { ring := ring, seq := seq, sched := Sched.start s.dev.now (capW s.thm) 40000000 240000000, stage := 0, failed := [],
            retried := 0, passed := 0, trims := { conv := [], replica := [] }, maxDa := 0 }
        acceptLong (s.updCal fun k => { k with run := some r }) { c with phase := .running }) s)

/-- The CAL_RUN fails: CAL_REPEAT_FAIL, DEVICE_FAILED, FAILED (R91, R99, R111). -/
def calFail (s : State) (array conv reason die detail unit : Nat) : State :=
  let s := refreshCal s
  let s := logEvent s 0x4004 3 (evData [(array, 2), (conv, 2), (reason, 1), (die, 1), (detail, 2)])
  raiseErr s { domain := 3, code := 0x4004, unit := unit, detail := conv, act := .fatal }

/-- CAL_REFERENCE_CHECK (R91): an error beyond 200 ppm ends the CAL_RUN, and the event names the lowest-numbered such die (DESIGN CHOICE,
log entry 126); otherwise group 16 takes the calibration pattern, and the warm-up leaves the sequencer at a row that is free (log
entry 21). -/
def execCalReferenceCheck (ppm : List Int) (s : State) : Host.Outcome State Fault Refusal :=
  .next (match s.cal.run with
    | none => s
    | some r =>
      if !clocked s || r.stage ≠ 0 then s
      else
        let e := (List.range 4).map fun i => ppm[i]?.getD 0
        let s := s.updCal fun c => { c with refErr := e }
        match (List.range 4).find? fun i => decide (|e[i]?.getD 0| > 200) with
        | some d => calFail s 0 0xFFFF 5 d (sfield 16 (e[d]?.getD 0)) 0xFFFF
        | none => (withRun s fun r => { r with stage := 1 }).updCal fun c => { c with group16 := true, seqRow := s.openAt 11 % 64 })

/-- Conversions of one level in a measurement, both halves together (R96): in the main pass, and of the spare on column pair 0 in the
spare pass. -/
def perLevel (conv : Nat) : Nat := if conv = 608 then 32768 else 65536

/-- The fits of a converter in an attempt: nominal where no measurement is listed (log entry 8). -/
def fitsOf (fits : List ConvMeas) (array conv : Nat) : Fit × Fit :=
  match fits.find? fun f => f.array == array && f.conv == conv with
  | none => (nomFit, nomFit)
  | some f => (fitOf (perLevel conv) f.m1, fitOf (perLevel conv) f.m2)

/-- The converters an attempt may newly decide: the listed ones at first, then those that have not passed. -/
def attemptSet (r : CalRun) (fits : List ConvMeas) : List (Nat × Nat) :=
  if r.stage = 1 then
    ((fits.filter fun f => decide (f.array < 20480 ∧ f.conv ≤ 608)).map fun f => (f.array, f.conv)).dedup.mergeSort
      fun x y => decide (x.1 < y.1 ∨ (x.1 = y.1 ∧ x.2 ≤ y.2))
  else r.failed.map fun e => (e.1, e.2.1)

/-- A delta as the 16-bit field of a record holds it; beyond the field's range it is free (DESIGN CHOICE, log entry 125). -/
def deltaField (v : Int) : Int := if -32768 ≤ v ∧ v ≤ 32767 then v else (Config.replicaBeyond v).toInt

/-- The replica delta of an array whose spare has passed (R96): from the means of the spare's fits of the replica bank and of the
array's cells, rounded to the nearest 1/1,024 code and ppm, ties to even (DESIGN CHOICE, log entry 125). -/
def replicaOf (fits : List ConvMeas) (array : Nat) : Int × Int :=
  let c := fitsOf fits array 608
  let p := fitsOf fits array 609
  (deltaField (rne (512 * (p.1.a + p.2.a - c.1.a - c.2.a))),
   deltaField (rne (1000000 * ((p.1.b + p.2.b) / (c.1.b + c.2.b) - 1))))

/-! ## The calibration sequencer (R95, R96) -/

/-- Slots of the main pass and of the spare pass: levels 0 to 64, each conversion in both halves. -/
def mainSlots : Nat := 65 * 65536
def spareSlots : Nat := 65 * 32768

/-- The activation bits that produce level `l` at row offset `o`: rows (o + i) mod 64 for i below `l`. -/
def calActs (o l : Nat) : Nat := ((List.range l).map fun i => 2 ^ ((o + i) % 64)).sum

/-- The sequencer advances its row offset by one at every conversion. -/
def advanceSeq (s : State) (slots : Nat) : State := s.updCal fun c => { c with seqRow := (c.seqRow + slots) % 64 }

/-- One measurement: the main pass, then the spare pass. -/
def measurePasses (s : State) : State := advanceSeq (advanceSeq s mainSlots) spareSlots

/-- What an attempt leaves of a CAL_RUN (R98). A spare is judged by its fits of the array's cells (DESIGN CHOICE, log entry 127); the
largest |a1 - a2| is that of the passing attempts (DESIGN CHOICE, log entry 128). -/
def afterAttempt (r : CalRun) (fits : List ConvMeas) : CalRun :=
  let judged := (attemptSet r fits).map fun k =>
    let f := fitsOf fits k.1 k.2
    (k, f, attemptReason f.1 f.2)
  let bad : List (Nat × Nat × Nat) := judged.filterMap fun e => e.2.2.map fun x => (e.1.1, e.1.2, x)
  let good := judged.filter fun e => e.2.2.isNone
  let conv : List (Nat × Nat × Int × Nat) := good.filterMap fun e =>
    (trimsOf ((e.2.1.1.a + e.2.1.2.a) / 2) ((e.2.1.1.b + e.2.1.2.b) / 2)).bind fun t =>
      if t = nomTrim then none else some (e.1.1, e.1.2, t.1, t.2)
  let spares : List Nat := ((fits.filter fun f => decide (f.array < 20480 ∧ f.conv = 609)).map (·.array)).dedup.filter fun a =>
    if r.stage = 1 then !(bad.any fun e => e.1 == a && e.2.1 == 608)
    else (r.failed.any fun e => e.1 == a && e.2.1 == 608) && !(bad.any fun e => e.1 == a && e.2.1 == 608)
  { r with
    stage := r.stage + 1, failed := bad, passed := allConverters - bad.length,
    retried := if r.stage = 1 then bad.length else r.retried,
    trims := { conv := r.trims.conv ++ conv,
               replica := r.trims.replica ++ (spares.map fun a => (a, replicaOf fits a)).filter fun e => decide (e.2 ≠ (0, 0)) },
    maxDa := good.foldl (fun m e => max m |e.2.1.1.a - e.2.1.2.a|) r.maxDa }

/-- CAL_ATTEMPT_END (R98, R99): two measurements of every converter (R96) have been made. -/
def execCalAttemptEnd (fits : List ConvMeas) (s : State) : Host.Outcome State Fault Refusal :=
  .next (match s.cal.run with
    | none => s
    | some r =>
      if !clocked s || r.stage < 1 || r.stage > 3 then s
      else
        let r := afterAttempt r fits
        let s := refreshCal (withRun (measurePasses (measurePasses s)) fun _ => r)
        if r.stage < 4 then s
        else match r.failed with
          | [] => s
          | e :: _ => calFail s e.1 e.2.1 e.2.2 (dieOf (e.1 / 4)) (sat 16 r.failed.length) e.1)

/-- The largest change of an OFFSET_TRIM when a set of trims is loaded (R111). -/
def shiftOf (s : State) (t : TrimSet) : Nat :=
  let now (a c : Nat) : Int := (get nomTrim (s.arr a).trims c).1
  let then_ (a c : Nat) : Int := (t.conv.find? fun e => e.1 == a && e.2.1 == c).elim 64 fun e => e.2.2.1
  let keys : List (Nat × Nat) :=
    (t.conv.map fun e => (e.1, e.2.1)) ++ s.arrs.flatMap fun e => e.2.elim [] fun a => a.trims.map fun k => (e.1, k.1)
  (keys.map fun k => (then_ k.1 k.2 - now k.1 k.2).natAbs).foldl max 0

/-- CAL_TRIM_LOAD (R97, R100, R106): the trims take force, group 16 is rewritten, CAL_DONE is logged, CAL_RUN completes. DURATION is in
whole ms, rounded down, and the largest |a1 - a2| rounds to the nearest 1/1,024 code (DESIGN CHOICE, log entry 128). -/
def execCalTrimLoad (s : State) : Host.Outcome State Fault Refusal :=
  .next (match s.cal.run with
    | none => s
    | some r =>
      if !clocked s || r.stage ≠ 4 then s
      else
        let shift := shiftOf s r.trims
        let ms := (10 * (s.dev.now - r.sched.started) + r.sched.remain s.dev.now) / 1000000
        let s := refreshCal s
        let s : State := { s with arrs := s.arrs.map fun e => (e.1, e.2.map fun a => { a with drift := false }) }
        let s := loadTrims s r.trims
        let s := s.updCal fun c => { c with
          count := (c.count + 1) % 2 ^ 32, lastSec := s.dev.opSec, source := 2, commitNeeded := true, lastRun := some r.trims,
          run := none, group16 := false }
        let s := logEvent s 0x4005 3 (evData [(r.retried, 4), (sat 16 ms, 2), (sat 16 shift, 2)])
        match findCmd s r.ring r.seq with
        | none => s
        | some c => finish s c stOk (r.retried % 2 ^ 32 + 2 ^ 32 * sat 16 (rne (1024 * r.maxDa)).toNat))

/-- An aborted CAL_RUN leaves the former trims in force (R101). -/
def abortCal (s : State) : State := (refreshCal s).updCal fun c => { c with run := none, group16 := false }

/-! ## CAL_STATUS and CAL_COMMIT (R108, R300) -/

/-- CAL_STATUS. -/
def execCalStatus (ring seq : Nat) (s : State) : Host.Outcome State Fault Refusal :=
  .next (onReady 0x71 ring seq (fun c s =>
    finish s c stOk (packF [(regCalState s % 2 ^ 16, 16), (sat 16 s.cal.count, 16), (s.cal.lastSec, 32)])) s)

/-- SEQ of a record area while CAL_COMMIT has written all of it but SEQ: erased flash (log entry 22). -/
def blankSeq : Nat := 2 ^ 32 - 1

/-- Where the next record goes and its SEQ (R107, R108): the area of the older or invalid record, into B when true; the SEQ of a first
record is free (log entry 21). -/
def commitPlace (s : State) : Bool × Nat :=
  match (validRec s s.cal.areaA).map (·.seq), (validRec s s.cal.areaB).map (·.seq) with
  | none, none => (false, s.openAt 8 % 2 ^ 32)
  | some a, none => (true, (a + 1) % 2 ^ 32)
  | none, some b => (false, (b + 1) % 2 ^ 32)
  | some a, some b => (decide (b < a), (max a b + 1) % 2 ^ 32)

/-- The record of the trims that the last OK CAL_RUN loaded (R107). -/
def newRecord (s : State) (t : TrimSet) (n : Nat) : CalRec :=
  let r : CalRec := { magic := calMagic, seq := n, pkgUid := s.dev.pkgUid, calCount := s.cal.count, calSec := s.cal.lastSec,
                      stepping := s.dev.stepping, trims := t, check := 0 }
  { r with check := crc32 (recordBody r) }

/-- An area as CAL_COMMIT leaves it. -/
def setArea (s : State) (toB : Bool) (r : CalRec) : State :=
  s.updCal fun k => { k with areaA := if toB then k.areaA else some r, areaB := if toB then some r else k.areaB }

/-- CAL_COMMIT begins: every byte of the record but SEQ is written; until SEQ follows, the area holds no valid record. -/
def commitWrite (s : State) (c : Cmd) : State :=
  match s.cal.run, s.cal.lastRun, s.cal.commit with
  | some r, _, _ => finish s c stBusy (r.sched.remain s.dev.now)
  | none, none, _ => finish s c stNotPermitted 0
  | none, some _, some _ => s
  | none, some t, none =>
    let (toB, n) := commitPlace s
    let s := setArea s toB { newRecord s t n with seq := blankSeq }
    putCmd (s.updCal fun k => { k with commit := some (toB, n) }) { c with phase := .running }

/-- CAL_COMMIT ends: SEQ is written last, and the area is read back and its CHECK tested. The status of a record whose CHECK does not
match is not stated and free (log entry 21). -/
def commitSeal (s : State) (c : Cmd) : State :=
  match s.cal.commit with
  | none => s
  | some (toB, n) =>
    let s := s.updCal fun k => { k with commit := none }
    match if toB then s.cal.areaB else s.cal.areaA with
    | none => s
    | some r =>
      let s := setArea s toB { r with seq := n }
      if (validRec s (some { r with seq := n })).isSome then finish (s.updCal fun k => { k with commitNeeded := false }) c stOk n
      else finish s c (s.openAt 12 % 2 ^ 16) 0

/-- CAL_COMMIT (R107, R108): the first row of a command writes the record, the second its SEQ. -/
def execCalCommit (ring seq : Nat) (s : State) : Host.Outcome State Fault Refusal :=
  .next (match findCmd s ring seq with
    | none => s
    | some c =>
      if !clocked s || c.pkt.opc ≠ 0x72 then s
      else if c.phase = .ready then (if inTurn s c then commitWrite s c else s)
      else if c.phase = .running then commitSeal s c
      else s)

/-! ## Background calibration (R102 to R105) -/

/-- The converter a rotation's position updates: a data converter, or at a tally position the spare (R103, R104). -/
def posConv (j : Nat) : Nat := if j < 512 then j else 608

/-- The trims a background fit asks for, when it succeeds under R92 and R93. -/
def bgTrims (a : Arr) (f : Fit) : Option (Int × Nat) :=
  let g := correct a f
  if (fitReason g).isSome then none else trimsOf g.a g.b

/-- The trims after a background update, or `none` when it is discarded (R103). -/
def bgMove (a : Arr) (conv : Nat) (f : Fit) : Option (Int × Nat) :=
  let cur := get nomTrim a.trims conv
  match bgTrims a f with
  | none => none
  | some n =>
    let dg : Int := (n.2 : Int) - (cur.2 : Int)
    if (n.1 - cur.1).natAbs > 16 ∨ 100 * dg.natAbs > cur.2 then none
    else some (cur.1 + rne ((n.1 - cur.1 : Int) / (8 : Rat)), (cur.2 + rne ((dg : Rat) / 8)).toNat)

/-- One fit of a dwell takes effect or is discarded and counted. -/
def dwellFit (s : State) (array conv : Nat) (t : Option (Int × Nat)) : State :=
  match t with
  | none => s.updCal fun c => { c with bgRejects := c.bgRejects + 1 }
  | some t => s.updArr array fun a => { a with trims := put nomTrim a.trims conv t }

/-- BG_CAL_DWELL (R102 to R104): the dwell of the rotation's position ends in every array that is in the rotation; a converter that
is not listed measures what its trims stand for (log entry 8). -/
def execBgCalDwell (fits : List ConvMeas) (s : State) : Host.Outcome State Fault Refusal :=
  .next (if !clocked s || s.dev.st ≠ .service then s
    else
      let conv := posConv s.cal.bgPos
      let mine := fits.filter fun f => decide (f.array < 20480) && f.conv == conv && !(s.arr f.array).recal && (s.arr f.array).recalPos == 0
      let s := mine.foldl (fun s f => dwellFit s f.array conv (bgMove (s.arr f.array) conv (fitOf 64 f.m1))) s
      if s.cal.bgPos + 1 < 608 then s.updCal fun c => { c with bgPos := c.bgPos + 1 }
      else
        let s := s.updCal fun c => { c with bgPos := 0, bgRotations := c.bgRotations + 1 }
        s.arrs.foldl (fun s e => s.updArr e.1 fun a => if a.recal then a else { a with recalPos := 0 }) s)

/-- RECAL_DWELL (R105): a dwell of an array's recalibration ends; after the last, the array waits for the next common rotation and
its next window is the judging window (03_arrays R84). -/
def execRecalDwell (array : Nat) (fits : List ConvMeas) (s : State) : Host.Outcome State Fault Refusal :=
  .next (
    let a := s.arr array
    if !clocked s || s.dev.st ≠ .service || !a.recal then s
    else
      let conv := posConv a.recalPos
      let s := match fits.find? fun f => f.array == array && f.conv == conv with
        | none => s
        | some f => dwellFit s array conv (bgTrims a (fitOf 1024 f.m1))
      let s := s.updArr array fun a => { a with recalPos := a.recalPos + 1 }
      if a.recalPos + 1 < 608 then s
      else
        let s := s.updArr array fun a => { a with recal := false, judgeNext := true }
        s.updCal fun c => { c with recals := sat 16 (c.recals + 1) })

end Sys2Proof.Machine
end

