-- ==== Sys2Proof/Machine/StepInstr.lean ====
section
/-! DEFINITION. The accumulation, quantisation, transfer and reduction instructions (10_instructions R226 to R232; 02_number_formats
R39 to R50; 05_accumulation R124 to R134). -/

namespace Sys2Proof.Machine

/-! ## Shared pieces -/

/-- NONFINITE of an execution's request (02_number_formats R44). -/
def setNonfinite (s : State) (a : At) (bad : Bool) : State :=
  if bad then
    s.updReq (slotFor s a.cx a.x.xr.req) fun r => if r.open_ ∧ r.gen = reqGen a.x.xr.req then { r with nonfinite := true } else r
  else s

/-- ZERO_BLOCK of the command an execution works for (R44); on a chimney member, of its step. -/
def setZeroBlock (s : State) (a : At) (z : Bool) : State :=
  if z then
    let s := if a.x.chimStep = 0 then s else updStep s a.x.chimStep fun x => { x with zeroBlock := true }
    match (findVec s a.cx a.x.disp).bind fun v => findCmd s v.ring v.seq with
    | none => s
    | some c => putCmd s { c with zeroBlock := true }
  else s

/-- The scale of output `i` of an array of the tile; beyond the array's outputs it is +0.0 (R226, R230). -/
def At.scale (a : At) (arr i : Nat) : BF16 :=
  ((a.i.arrays.find? fun r => r.carray == 4 * a.ct + arr).bind fun r => r.scales[i]?).getD 0#16

/-- The exponent E of a VEXP byte; −126 when VEXP = 0 (02_number_formats R34, R50). -/
def expOf (vexp : Nat) : Int := if vexp = 0 then -126 else (vexp : Int) - 127

/-- Bytes of a tile write to an ACC48 panel: every element keeps bits [47:0], sign-extended (05_accumulation R124). -/
def fit48 (bs : List Byte) : List Byte :=
  ((List.range (bs.length / 8)).map fun i => natLe 8 ((BitVec.ofNat 48 (field bs (8 * i) 8)).signExtend 64).toNat).flatten

/-- Whole lines as a panel's KIND keeps them. -/
def fitKind (kind : Nat) (bs : List Byte) : List Byte := if kind = 4 then fit48 bs else bs

/-! ## PRELOAD, PROMOTE, MOVE -/

/-- The limit of a preload. -/
def preMax : Int := ((2 ^ 46 : Nat) : Int)

/-- One preload element (R127): its value, whether the source was not finite, and whether it was clamped. -/
def preloadOne (sc : BF16) (e : Int) (y : F32) : Int × Bool × Bool :=
  if isZero (ofBf sc) then (0, false, false)
  else if !isFin y then (if fSign y then -preMax else preMax, true, false)
  else
    let p := rne (toRat y / (toRat (ofBf sc) * pow2 (e - 15)))
    if p > preMax then (preMax, false, true) else if p < -preMax then (-preMax, false, true) else (p, false, false)

/-- PRELOAD (R226). -/
def execPreload (tile : Nat) (s : State) : Host.Outcome State Fault Refusal :=
  .next (onIssue 0x08 tile (fun s a =>
    let acc := bits a.w 53 48
    let n := 4 * nqOf (bits a.w 31 24)
    let put (s : State) (vs : List Int) : Eff :=
      wrA s a acc (4 * bits a.w 23 12) vs fun s => .ok s (a.abytes acc vs) false
    if bits a.w 41 40 = 0 then put s (List.replicate n 0)
    else
      rdP s a (bits a.w 47 42) 0 1 fun h =>
        let src := bits a.w 39 34
        rdF s a src (32 * bits a.w 11 0 / a.esize src) n fun ys =>
          let rs := ys.zipIdx.map fun y => preloadOne (a.scale (bits a.w 33 32) y.2) (expOf (field h 0 1)) y.1
          let clamps := (rs.filter fun r => r.2.2).length
          let s := setNonfinite s a (rs.any fun r => r.2.1)
          put (s.updTile a.t fun y => { y with preloadClamps := y.preloadClamps + clamps }) (rs.map (·.1))) s)

/-- A FIRE's bank has every contribution in. -/
def Fire.ready (f : Fire) : Bool := decide (f.slot ≥ f.last) && f.withheld == 0 && f.jobs == 0

/-- PROMOTE (R227): it waits for the FIRE of its bank and every withheld set and job of it; nothing of a discarded FIRE is added
(05_accumulation R121, R122, R140). -/
def execPromote (tile : Nat) (s : State) : Host.Outcome State Fault Refusal :=
  .next (onIssue 0x09 tile (fun s a =>
    let acc := bits a.w 53 48
    let bank := bits a.w 47 46
    let y := s.tile a.t
    match look y.fires bank with
    | none => .wait
    | some f =>
      if y.fires.any fun e => e.2.elim false fun g => g.same f && !g.ready then .wait
      else
        let n := 4 * nqOf (bits a.w 45 38)
        let e := 4 * bits a.w 37 26
        rdA s a acc e n fun vs =>
          let out := vs.zipIdx.map fun v => v.1 + (if f.discarded then 0 else get 0 f.adders v.2)
          wrA s a acc e out fun s =>
            .ok (s.updTile a.t fun y => { y with fires := store y.fires bank none }) (a.abytes acc out) false) s)

/-- MOVE (R228): the source is read whole before any line is written. -/
def execMove (tile : Nat) (s : State) : Host.Outcome State Fault Refusal :=
  .next (onIssue 0x0A tile (fun s a =>
    let dst := bits a.w 53 48
    let n := 32 * bits a.w 17 5
    rdP s a (bits a.w 47 42) (32 * bits a.w 29 18) n fun bs =>
      let out := fitKind (a.panel dst).kind bs
      wrP s a dst (32 * bits a.w 41 30) out fun s => .ok s out false) s)

/-! ## QUANT (R39 to R44) -/

/-- The smallest e with rne(m / 2^e) ≤ 127, for m > 0. -/
def stepExp (m : Rat) : Int :=
  let l := floorLog2 m.num.natAbs m.den
  if rne (m / pow2 (l - 6)) ≤ 127 then l - 6 else l - 5

/-- A value between two bounds. -/
def clampI (lo hi v : Int) : Int := max lo (min hi v)

/-- The index of the finite element of largest magnitude, the lower index on a tie, `skip` left out. -/
def largest (xs : List F32) (skip : Option Nat) : Option Nat :=
  (xs.zipIdx.foldl (fun (b : Option (Nat × Nat)) x =>
    if !isFin x.1 ∨ skip = some x.2 then b
    else match b with
      | none => some ((fabs x.1).toNat, x.2)
      | some c => if (fabs x.1).toNat > c.1 then some ((fabs x.1).toNat, x.2) else b) none).map (·.2)

/-- What the first pass finds in a block: extracted indices, and the largest remaining magnitude. -/
structure QBlock where
  xs : List F32
  out : List Nat
  top : Rat
  deriving DecidableEq, Repr

/-- The first pass over a block. -/
def scanBlock (xs : List F32) : QBlock :=
  let c1 := largest xs none
  let c2 := c1.bind fun i => largest xs (some i)
  let cs := [c1, c2].filterMap id
  let rest := xs.zipIdx.foldl (fun r x => if isFin x.1 ∧ cs.contains x.2 = false then fadd r (fmul x.1 x.1) else r) (fzero false)
  let four : F32 := 0x40800000#32
  let out := cs.filter fun i => let x := xs[i]?.getD 0#32; flt (fmul four rest) (fmul x x)
  let top := (xs.zipIdx.map fun x => if isFin x.1 ∧ out.contains x.2 = false then toRat (fabs x.1) else 0).foldl max 0
  { xs := xs, out := out, top := top }

/-- The vector's exponent; `none` when nothing gives one (R39, R41, R42). -/
def vecExp (bs : List QBlock) : Option Int :=
  let es := bs.filterMap fun b => if b.top = 0 then none else some (stepExp b.top)
  match es with
  | e :: l => some (clampI (-126) 121 (l.foldl max e))
  | [] =>
    let mx := (bs.flatMap fun b => b.out.map fun i => toRat (fabs (b.xs[i]?.getD 0#32))).foldl max 0
    if mx ≠ 0 then some (clampI (-126) 121 (stepExp mx))
    else if bs.any fun b => b.xs.any fun x => !isFin x then some 0 else none

/-- A block as written: descriptor, elements, outlier P by index, whether it was flushed, and the clamps counted. -/
structure QOut where
  desc : Nat
  els : List Int
  outl : List (Nat × Int)
  zero : Bool
  clamps : Nat
  deriving DecidableEq, Repr

/-- The second pass over a block. -/
def quantBlock (e : Int) (b : QBlock) : QOut :=
  let eb := stepExp b.top
  let flush := decide (b.top ≠ 0 ∧ e - eb > 15)
  let low := decide (b.top ≠ 0 ∧ e < eb)
  let off : Nat := if b.top = 0 then 0 else if flush then 15 else if low then 0 else (e - eb).toNat
  let raw (x : F32) : Int := if b.top = 0 ∨ flush then 0 else rne (toRat x / pow2 (e - off))
  let els := b.xs.zipIdx.map fun x =>
    if !isFin x.1 then (if fSign x.1 then (-127 : Int) else 127)
    else if b.out.contains x.2 then 0 else clampI (-127) 127 (raw x.1)
  let cut := (b.xs.zipIdx.filter fun x => isFin x.1 && !b.out.contains x.2 && low && decide ((raw x.1).natAbs > 127)).length
  let ps := (b.out.mergeSort fun i j => decide (i ≤ j)).map fun i => (i, rne (toRat (b.xs[i]?.getD 0#32) / pow2 (e - 4)))
  let z := els.all (· == 0)
  { desc := if z then 16 else off, els := els, outl := ps.map fun p => (p.1, clampI (-32767) 32767 p.2), zero := flush,
    clamps := cut + (ps.filter fun p => decide (p.2.natAbs > 32767)).length }

/-- QUANT (R229); bytes that R36 gives no field are written 0. -/
def execQuant (tile : Nat) (s : State) : Host.Outcome State Fault Refusal :=
  .next (onIssue 0x10 tile (fun s a =>
    let qv := bits a.w 53 48
    let n := bits a.w 41 24 + 1
    rdF s a (bits a.w 47 42) (bits a.w 23 8) (64 * n) fun xs =>
      let bs := (List.range n).map fun b => scanBlock ((xs.drop (64 * b)).take 64)
      let e := vecExp bs
      let qs := bs.map (quantBlock (e.getD (-126)))
      let nonf := xs.any fun x => !isFin x
      let zero := qs.any (·.zero)
      let outl := (qs.zipIdx.map fun q => q.1.outl.map fun p => (64 * q.2 + p.1, p.2)).flatten
      let body := natLe 1 (e.elim 0 fun e => (e + 127).toNat) ++ natLe 1 (b2n nonf + 2 * b2n zero) ++ natLe 2 0 ++ natLe 4 n ++
        natLe 4 outl.length ++ natLe 4 0 ++ (qs.map fun q => natLe 1 q.desc).flatten ++ natLe (qvElems n - (16 + n)) 0 ++
        (qs.map fun q => (q.els.map fun v => natLe 1 (v % 256).toNat).flatten).flatten ++
        (outl.map fun p => natLe 4 ((p.2 % 65536).toNat) ++ natLe 4 p.1).flatten
      wrP s a qv 0 body fun s =>
        let die := dieOf a.t
        let s := setZeroBlock (setNonfinite s a nonf) a zero
        let s := s.updTile a.t fun y => { y with quantClamps := y.quantClamps + (qs.map (·.clamps)).sum }
        let s := updVec s a.cx a.x.disp fun v => { v with
          outliers := modAt v.outliers die (· + outl.length), blocks := modAt v.blocks die (· + n) }
        .ok s body false) s)

/-! ## DEQ (R50, R230) -/

/-- The exact product of an element, its scale and its unit, rounded once to a KIND (2 BF16, 3 FP32), as a word of that KIND. -/
def deqOne (kind : Nat) (acc : Int) (sc : BF16) (e : Int) : Nat :=
  let neg := decide (acc < 0) != fSign (ofBf sc)
  let q : Rat := (acc : Rat) * toRat (ofBf sc) * pow2 (e - 15)
  if kind = 2 then (pack16 neg q).toNat else (pack32 neg q).toNat

/-- DEQ. -/
def execDeq (tile : Nat) (s : State) : Host.Outcome State Fault Refusal :=
  .next (onIssue 0x11 tile (fun s a =>
    let dst := bits a.w 53 48
    let kind := (a.panel dst).kind
    let z := a.esize dst
    let n := 4 * nqOf (bits a.w 33 26)
    rdP s a (bits a.w 41 36) 0 1 fun h =>
      rdA s a (bits a.w 47 42) (4 * bits a.w 25 14) n fun vs =>
        let ws := vs.zipIdx.map fun v => deqOne kind v.1 (a.scale (bits a.w 35 34) v.2) (expOf (field h 0 1))
        let inf := ws.any fun w => if z = 2 then w % 2 ^ 15 == 0x7F80 else w % 2 ^ 31 == 0x7F800000
        let out := (ws.map (natLe z)).flatten
        wrP s a dst (32 * bits a.w 13 2) out fun s => .ok (setNonfinite s a inf) out false) s)

/-! ## SEND and RECV (R231; 14_chimney R350) -/

/-- The fields SEND and RECV share. -/
structure XferOps where
  panel : Nat
  line : Nat
  ctile : Nat
  nl : Nat
  chan : Nat
  deriving DecidableEq, Repr

def xferOps (w : Nat) : XferOps :=
  { panel := bits w 53 48, line := bits w 47 36, ctile := bits w 35 23, nl := bits w 22 10, chan := bits w 9 5 }

/-- The role and context tile of a link transfer's channel; `none` for a transfer within the device. -/
def linkOf (y : Tile) (ct : Nat) (o : XferOps) : Option (Nat × Nat) :=
  if o.ctile = ct ∧ o.chan ≥ 16 then some (get (0xFFFF, 0) y.portMap o.chan) else none

/-- Lines arrive for a RECV: written into its panel, or, when they are more than it names, `none` (R222). -/
def deliver (s : State) (tile : Nat) (r : Recv) (line : Nat) (ls : List (List Byte)) : Option State :=
  if line + ls.length > r.nl then none
  else match ctileOf s tile with
    | none => some s
    | some (_, _, _, _, k) =>
      let p := k.panels[r.panel]?.getD { base := 0, lines := 0, kind := 0, hostRw := false }
      let bs := fitKind p.kind ls.flatten
      let s := s.updTile tile fun y => { y with mem := Mem.write y.mem (32 * (p.base + r.line + line)) bs }
      let s := updExec s tile fun x => { x with
        issued := x.issued.map fun e => if e.n = r.issue then { e with bytes := e.bytes ++ bs } else e }
      let r' := { r with got := r.got + ls.length, paired := true }
      some (s.updTile tile fun y => { y with
        recvs := if r'.got ≥ r.nl then y.recvs.erase r else y.recvs.map fun q => if q = r then r' else q })

/-- More lines arrive than a RECV names: the program stops at that RECV's tile (R222). -/
def recvExcess (s : State) (tile : Nat) (r : Recv) : State :=
  match ctileOf s tile, (s.tile tile).exec with
  | some (cx, ct, c, i, k), some x =>
    let pc := ((x.issued.find? fun e => e.n == r.issue).map (·.pc)).getD x.pc
    stopProg s { t := tile, cx := cx, ct := ct, c := c, i := i, k := k, x := { x with pc := pc }, w := 0 } 3
  | _, _ => s

/-- Lines arrive whole, within the device. -/
def deliverAll (s : State) (tile : Nat) (r : Recv) (ls : List (List Byte)) : State :=
  match deliver s tile r 0 ls with
  | none => recvExcess s tile r
  | some s => s

/-- DATA frames of a link transfer, 31 lines each (14_chimney R341). -/
def sendData (s : State) (role ctile chan step : Nat) (ls : List (List Byte)) : State :=
  (List.range ((ls.length + 30) / 31)).foldl (fun s i =>
    let part := (ls.drop (31 * i)).take 31
    sendFrame s 0x20 role step
      (natLe 2 ctile ++ natLe 1 chan ++ natLe 1 0 ++ natLe 2 (31 * i) ++ natLe 2 part.length ++ part.flatten)) s

/-- The lines of a byte string. -/
def linesOf (bs : List Byte) : List (List Byte) := (List.range (bs.length / 32)).map fun i => (bs.drop (32 * i)).take 32

/-- The physical tile of a context tile. -/
def At.phys (a : At) (ctile : Nat) : Nat := (a.i.tiles[ctile]?).elim 0 (·.tile)

/-- An execution of a step that has been aborted: its link transfers end without lines (14_chimney R356). -/
def At.cut (s : State) (a : At) : Bool := a.x.chimStep != 0 && s.chim.abortedSteps.contains a.x.chimStep

/-- SEND. -/
def execSend (tile : Nat) (s : State) : Host.Outcome State Fault Refusal :=
  .next (onIssue 0x18 tile (fun s a =>
    let o := xferOps a.w
    rdP s a o.panel (32 * o.line) (32 * o.nl) fun bs =>
      let ls := linesOf bs
      match linkOf (s.tile a.t) a.ct o with
      | some (role, ct) =>
        if a.cut s then .ok s bs false
        else
        let grant := (s.tile a.t).credits.find? fun c => c.1 == o.chan && c.2.1 == role && c.2.2.1 == a.x.chimStep
        match grant with
        | some c => .ok (sendData (s.updTile a.t fun y => { y with credits := y.credits.erase c }) role ct o.chan a.x.chimStep ls) bs false
        | none => .ok (s.updTile a.t fun y => { y with sends := y.sends ++
            [{ dst := 2 ^ 16 + role, chan := o.chan, lines := ls, issue := a.x.issueCtr, role := role, step := a.x.chimStep }] }) bs false
      | none =>
        let dst := a.phys o.ctile
        match (s.tile dst).recvs.find? fun r => r.src == a.t && r.chan == o.chan && !r.paired && r.role == 0xFFFF with
        | some r => .ok (deliverAll s dst r ls) bs false
        | none => .ok (s.updTile a.t fun y => { y with sends := y.sends ++
            [{ dst := dst, chan := o.chan, lines := ls, issue := a.x.issueCtr, role := 0xFFFF, step := 0 }] }) bs false) s)

/-- RECV: its credit goes to the sender; a link RECV's in a CREDIT frame, and its wait starts. One of an aborted step completes with zero
lines (14_chimney R356). -/
def execRecv (tile : Nat) (s : State) : Host.Outcome State Fault Refusal :=
  .next (onIssue 0x19 tile (fun s a =>
    let o := xferOps a.w
    if 32 * (o.line + o.nl) > 32 * (a.panel o.panel).lines then .stop 0
    else
      let base : Recv := { src := 0, chan := o.chan, panel := o.panel, line := o.line, nl := o.nl, got := 0,
                           issue := a.x.issueCtr, paired := false, role := 0xFFFF, step := 0 }
      match linkOf (s.tile a.t) a.ct o with
      | some (role, ct) =>
        let r := { base with src := ct, role := role, step := a.x.chimStep }
        let s := s.updTile a.t fun y => { y with recvs := y.recvs ++ [r] }
        if a.cut s then .ok (deliverAll s a.t r (List.replicate o.nl (List.replicate 32 0#8))) [] false
        else
        let s := updExec s a.t fun x => if x.linkFrom = 0 then { x with linkFrom := s.dev.now + 1 } else x
        .ok (sendFrame s 0x21 role a.x.chimStep (Config.layoutOf 0x21 [o.chan, ct, o.nl])) [] false
      | none =>
        let src := a.phys o.ctile
        let r := { base with src := src }
        let s := s.updTile a.t fun y => { y with recvs := y.recvs ++ [r] }
        match (s.tile src).sends.find? fun d => d.dst == a.t && d.chan == o.chan && d.role == 0xFFFF with
        | none => .ok s [] false
        | some d =>
          .ok (deliverAll (s.updTile src fun y => { y with sends := y.sends.erase d }) a.t r d.lines)
            (fitKind (a.panel o.panel).kind d.lines.flatten) false) s)

/-! ## REDUCE (R232) -/

/-- Element `e` of every list. -/
def column {α : Type} (d : α) (ps : List (List α)) (e : Nat) : List α := ps.map fun p => p[e]?.getD d

/-- REDUCE. -/
def execReduce (tile : Nat) (s : State) : Host.Outcome State Fault Refusal :=
  .next (onIssue 0x1A tile (fun s a =>
    let dst := bits a.w 53 48
    let src := bits a.w 47 42
    let m := bits a.w 39 33
    let nl := bits a.w 30 19
    let line := bits a.w 18 7
    if bits a.w 41 40 = 0 then
      let n := 4 * nl
      rdA s a dst (4 * line) n fun own =>
        rdA s a src 0 (m * n) fun ps =>
          let parts := (List.range m).map fun p => (ps.drop (p * n)).take n
          let out := own.zipIdx.map fun v => v.1 + (column 0 parts v.2).sum
          wrA s a dst (4 * line) out fun s => .ok s (a.abytes dst out) false
    else
      let n := 8 * nl
      rdF s a src 0 (m * n) fun ps =>
        let parts := (List.range m).map fun p => (ps.drop (p * n)).take n
        let out := (List.range n).map fun e =>
          let c := column 0#32 parts e
          if bits a.w 41 40 = 1 then joinRoots c else c.foldl fmax (infty true)
        wrF s a dst (8 * line) out fun s => .ok s (a.fbytes dst out) false) s)

end Sys2Proof.Machine
end

