-- ==== Sys2Proof/Machine/VectorFn.lean ====
section
/-! DEFINITION. The vector functions, table gathers and sampling (10_instructions R240 to R246; 08_tables_tiers R193 to R195;
02_number_formats R56, R57). -/

namespace Sys2Proof.Machine

/-! ## NORM (R241) -/

/-- The first element of a part, and how many it has, of a sum of `n` elements in `2^log2m` parts of shape `k` (R134). -/
def partRange (k log2m part n : Nat) : Nat × Nat :=
  let w := k / 2 ^ log2m * leafSize k n
  (min n (part * w), min n ((part + 1) * w) - min n (part * w))

/-- A radicand that is NaN or negative. -/
def badRadicand (r : F32) : Bool := isNan r || (fSign r && !isZero r)

/-- The elements NORM writes from the statistics, and its radicand. -/
def normOut (layer : Bool) (n : Nat) (s1 s2 eps : F32) (xs gamma beta : List F32) : List F32 × F32 :=
  let nf := fofNat n
  if layer then
    let mu := fdiv s1 nf
    let rad := fadd (fsub (fdiv s2 nf) (fmul mu mu)) eps
    let r := frecip (fsqrt rad)
    (xs.zipIdx.map fun x =>
      fadd (fmul (fmul (fsub x.1 mu) r) (gamma[x.2]?.getD 0#32)) (beta[x.2]?.getD 0#32), rad)
  else
    let rad := fadd (fdiv s2 nf) eps
    let r := frecip (fsqrt rad)
    (xs.zipIdx.map fun x => fmul (fmul x.1 r) (gamma[x.2]?.getD 0#32), rad)

/-- BF16 elements of a RAW panel from a byte offset, widened. -/
def rdB (s : State) (a : At) (p off n : Nat) (f : List F32 → Eff) : Eff :=
  rdP s a p off (2 * n) fun bs => f ((List.range n).map fun i => ofBf (BitVec.ofNat 16 (field bs (2 * i) 2)))

/-- NORM: STAT writes the part's roots, APPLY uses the joined ones, FULL does both. -/
def execNorm (tile : Nat) (s : State) : Host.Outcome State Fault Refusal :=
  .next (onIssue 0x28 tile (fun s a =>
    let dst := bits a.w 53 48
    let w := bits a.w 41 36
    let st := bits a.w 35 30
    let layer := a.w.testBit 29
    let pass := bits a.w 28 27
    let n := bits a.w 15 0
    let k := shapeK (bits a.w 26 25) a.i.defShape
    let m := 2 ^ bits a.w 24 22
    let cnt := (partRange k (bits a.w 24 22) (bits a.w 21 16) n).2
    rdF s a (bits a.w 47 42) 0 cnt fun xs =>
      let s1 := partRoot k m n xs
      let s2 := partRoot k m n (xs.map fun x => fmul x x)
      let apply (s : State) (s1 s2 : F32) (rest : List Byte) : Eff :=
        rdP s a w 0 4 fun eps =>
          rdB s a w 32 cnt fun gamma =>
            rdB s a w (32 + 2 * cnt) (if layer then cnt else 0) fun beta =>
              let r := normOut layer n s1 s2 (BitVec.ofNat 32 (field eps 0 4)) xs gamma beta
              wrF s a dst 0 r.1 fun s => .ok (setNonfinite s a (badRadicand r.2)) (a.fbytes dst r.1 ++ rest) false
      if pass = 2 then rdF s a st 0 2 fun v => apply s (v[0]?.getD 0#32) (v[1]?.getD 0#32) []
      else
        wrF s a st 0 [s1, s2] fun s =>
          if pass = 1 then .ok s (a.fbytes st [s1, s2]) false else apply s s1 s2 (a.fbytes st [s1, s2])) s)

/-! ## ACT (R242) -/

/-- The FP32 values nearest 0.044715 and √(2/π), and 0.5. -/
def geluCubic : F32 := 0x3D372713#32
def geluScale : F32 := 0x3F4C422A#32
def fhalf : F32 := 0x3F000000#32

/-- The tanh form of GELU, rounded in the order written. -/
def gelu (a : F32) : F32 :=
  fmul (fmul fhalf a) (fadd fone (ftanh (fmul geluScale (fadd a (fmul geluCubic (fmul (fmul a a) a))))))

/-- FUNC of ACT. -/
def actOf (func : Nat) (a b : F32) : F32 :=
  match func with
  | 0 => a
  | 1 => fmax a (fzero false)
  | 2 => fmul a (fsigmoid a)
  | 3 => gelu a
  | 4 => fsigmoid a
  | 5 => fexp a
  | 6 => fmul (fmul a (fsigmoid a)) b
  | _ => fmul (gelu a) b

/-- ACT. -/
def execAct (tile : Nat) (s : State) : Host.Outcome State Fault Refusal :=
  .next (onIssue 0x29 tile (fun s a =>
    let dst := bits a.w 53 48
    let func := bits a.w 35 32
    let n := bits a.w 31 16
    rdF s a (bits a.w 47 42) 0 n fun xs =>
      let go (ys : List F32) : Eff :=
        let out := xs.zipIdx.map fun x => actOf func x.1 (ys[x.2]?.getD 0#32)
        wrF s a dst 0 out fun s => .ok s (a.fbytes dst out) false
      if func = 6 ∨ func = 7 then rdF s a (bits a.w 41 36) 0 n go else go []) s)

/-! ## ROPE (R243) -/

/-- One head rotated: `tr` gives the cosine and sine of each pair. -/
def ropeHead (half : Bool) (xs : List F32) (tr : List (F32 × F32)) : List F32 :=
  let n := tr.length
  let x (i : Nat) : F32 := xs[i]?.getD 0#32
  (List.range (2 * n)).map fun j =>
    let i := if half then j % n else j / 2
    let first := if half then decide (j < n) else decide (j % 2 = 0)
    let lo := if half then i else 2 * i
    let hi := if half then i + n else 2 * i + 1
    let c := (tr[i]?.getD (0#32, 0#32)).1
    let d := (tr[i]?.getD (0#32, 0#32)).2
    if first then fsub (fmul (x lo) c) (fmul (x hi) d) else fadd (fmul (x lo) d) (fmul (x hi) c)

/-- ROPE. -/
def execRope (tile : Nat) (s : State) : Host.Outcome State Fault Refusal :=
  .next (onIssue 0x2A tile (fun s a =>
    let dst := bits a.w 53 48
    let dh := dhOf s a.cx
    let nh := bits a.w 35 29
    rdF s a (bits a.w 47 42) 0 (nh * dh) fun xs =>
      rdF s a (bits a.w 41 36) 0 (dh / 2) fun fs =>
        let tr := fs.map fun f => let th := fmul (fofNat a.x.xr.pos) f; (ftrig false th, ftrig true th)
        let out := (List.range nh).flatMap fun h => ropeHead (a.w.testBit 28) ((xs.drop (h * dh)).take dh) tr
        wrF s a dst 0 out fun s => .ok s (a.fbytes dst out) false) s)

/-! ## EMBG (R193 to R195, R244) -/

/-- The elements of a row (R56, R57): bytes beyond those given are 0. -/
def rowVals (fmt d : Nat) (b : List Byte) : List F32 :=
  let sc := ofBf (BitVec.ofNat 16 (field b 0 2))
  let int (v : Int) : F32 := fmul (pack32 false v) sc
  (List.range d).map fun i =>
    if fmt = 0 then ofBf (BitVec.ofNat 16 (field b (2 * i) 2))
    else if fmt = 1 then int (BitVec.ofNat 8 (field b (4 + i) 1)).toInt
    else
      let v := field b (4 + i / 2) 1
      int (BitVec.ofNat 4 (if i % 2 = 0 then v % 16 else v / 16)).toInt

/-- Bytes the hot-row cache holds. -/
def hotKeep (s : State) : List (Nat × Nat × Nat) → Nat → List (Nat × Nat × Nat)
  | [], _ => []
  | k :: l, used =>
    let n := ((look s.ctxs k.1).bind fun c => (c.tables.find? fun t => t.1 == k.2.1).map (·.2)).elim 0 fun t => rowBytes t.fmt t.d
    if used + n > 2 ^ 33 then [] else k :: hotKeep s l (used + n)

/-- A tier-2 row is read through CACHE (R193): whether it missed. -/
def hotRead (s : State) (k : Nat × Nat × Nat) (bytes : Nat) : State × Nat :=
  if s.kv.hot.contains k then
    (s.updKv fun v => { v with hotHits := v.hotHits + 1, hot := k :: v.hot.filter (· != k) }, 0)
  else
    let s := s.updKv fun v => { v with hotMisses := v.hotMisses + 1, hot := if bytes ≤ 4096 then k :: v.hot else v.hot }
    (s.updKv fun v => { v with hot := hotKeep s v.hot 0 }, 1)

/-- The remote rows of a tier-3 bag, those of other shards. -/
def remoteRows (t : Table) (ids : List Nat) : List Nat := if t.tier = 3 then (ids.filter fun r => shardOf t.shards r != t.shard).dedup else []

/-- A row that other shards have returned to a step. -/
def gatheredRow (s : State) (step table row : Nat) : Option (List Byte) :=
  (s.chim.gathered.find? fun g => g.1 == step && g.2.1 == table && g.2.2.1 == row).map (·.2.2.2)

/-- The row ids one GATHER_REQ carries: 127 at link version 1.2, 16 below (14_chimney R338). A frame crosses several links, and the manual
does not say which of them counts when ports are up at different versions: the lowest version of all ports that are up does
(DESIGN CHOICE, log entry 136). -/
def gatherMax (s : State) : Nat := if s.chim.ports.all fun p => p.st != .up || p.ver ≥ 0x12 then 127 else 16

/-- Lists of at most `n` elements. -/
def chunksOf {α : Type} (n : Nat) (l : List α) : List (List α) :=
  (List.range ((l.length + n - 1) / n)).map fun i => (l.drop (n * i)).take n

/-- Ask the owning shards for rows not asked for yet; an asked row is marked by an empty answer. -/
def askRows (s : State) (ctx table : Nat) (t : Table) (step : Nat) (rows : List Nat) : State :=
  let new := rows.filter fun r => (gatheredRow s step table r).isNone
  let s := s.updChim fun c => { c with gathered := c.gathered ++ new.map fun r => (step, table, r, []) }
  ((new.map (shardOf t.shards)).dedup).foldl (fun s role =>
    (chunksOf (gatherMax s) (new.filter fun r => shardOf t.shards r == role)).foldl (fun s l =>
      sendFrame s 0x30 role step (Config.layoutOf 0x30 (ctx :: table :: l))) s) s

/-- The bytes of a row as the gather of a step gets them, and the reads over PCI Express it takes. -/
def tableRow (s : State) (x : Ctx) (ver ctx table : Nat) (t : Table) (row : Nat) : List Byte × State × Nat :=
  let rb := rowBytes t.fmt t.d
  if t.tier = 2 then
    let (s, n) := hotRead s (ctx, table, row) rb
    (rowSeen x ver table row (s.hostRead (t.srcAddr + row * rb) rb), s, n)
  else if t.tier = 3 ∧ shardOf t.shards row ≠ t.shard then ((gatheredRow s ver table row).getD [], s, 0)
  else (rowSeen x ver table row (get [] t.data row), s, 0)

/-- The step that an execution is of, as boundaries count them (08_tables_tiers R196). -/
def At.ver (a : At) : Nat := if a.c.chimney then a.x.chimStep else a.x.disp

/-- Pool rows element by element (R195): 0 sum, 1 mean, 2 max; an empty bag gives +0.0. -/
def poolRows (pool k ne : Nat) (rows : List (List F32)) : List F32 :=
  (List.range ne).map fun e =>
    let c := column (fzero false) rows e
    if rows = [] then fzero false
    else if pool = 2 then c.foldl fmax (infty true)
    else if pool = 1 then fdiv (sumC k c) (fofNat rows.length)
    else sumC k c

/-- A gather needs a row of a fenced role (14_chimney R363): the vector's command ends with PEER_LOST. -/
def gatherLost (s : State) (a : At) (role : Nat) : State :=
  let s := updVec (updExec s a.t fun x => { x with discarded := true }) a.cx a.x.disp fun v => { v with discarded := true }
  match findVec s a.cx a.x.disp with
  | none => s
  | some v => match findCmd s v.ring v.seq with | none => s | some c => endReqCmd s c stPeerLost role (warnBits s c)

/-- EMBG. -/
def execEmbg (tile : Nat) (s : State) : Host.Outcome State Fault Refusal :=
  .next (onIssue 0x30 tile (fun s a =>
    let dst := bits a.w 53 48
    let num := bits a.w 47 40
    let e0 := bits a.w 33 22
    let ne := bits a.w 21 9
    let k := shapeK (bits a.w 35 34) a.i.defShape
    let go (s : State) (rows : List (List F32)) (pcie : Nat) : Eff :=
      let out := poolRows (bits a.w 39 38) k ne rows
      wrF s a dst 0 out fun s => .ok s (a.fbytes dst out) false pcie
    match (a.c.tables.find? fun t => t.1 == num).map (·.2) with
    | none => go s [] 0
    | some t =>
      let ids :=
        if bits a.w 37 36 = 0 then (if a.x.xr.token < t.rows then [a.x.xr.token] else [])
        else (((findVec s a.cx a.x.disp).bind fun v => v.bags.find? fun b => b.table == num).map (·.ids)).getD []
      let far := remoteRows t ids
      if !a.x.discarded && far.any fun r => (gatheredRow s a.ver num r).getD [] == [] then
        match (far.map (shardOf t.shards)).find? (fencedRole s) with
        | some role => .hold (if a.x.chimStep = 0 then gatherLost s a role else s)
        | none => .hold (askRows s a.cx num t a.ver far)
      else
        let (rows, s, pcie) := ids.foldl (fun (st : List (List F32) × State × Nat) id =>
          let (b, s, n) := tableRow st.2.1 a.c a.ver a.cx num t id
          (st.1 ++ [rowVals t.fmt t.d b], s, st.2.2 + n)) (([] : List (List F32)), s, 0)
        let cut (r : List F32) : List F32 := (List.range ne).map fun i => r[e0 + i]?.getD (fzero false)
        let parts := rows.map cut
        let s := setNonfinite s a (t.fmt != 0 && parts.any fun r => r.any fun x => !isFin x)
        let s := s.updChim fun c => { c with gathered := c.gathered.filter fun g => !(g.1 == a.ver && g.2.1 == num && far.contains g.2.2.1) }
        go s parts pcie) s)

/-! ## SAMPLE (R245, R246) -/

/-- draw(i) of a request's seeded stream: the 24 bits over 2^24 (R245). -/
def drawBits (seed : BitVec 64) (step i : Nat) : Nat :=
  let x := seed ^^^ (BitVec.ofNat 64 step * 0x9E3779B97F4A7C15#64) ^^^ (BitVec.ofNat 64 i * 0xD1B54A32D192ED03#64)
  let x := (x ^^^ (x >>> 30)) * 0xBF58476D1CE4E5B9#64
  let x := (x ^^^ (x >>> 27)) * 0x94D049BB133111EB#64
  let x := x ^^^ (x >>> 31)
  (x >>> 40).toNat

/-- A draw as FP32, exact. -/
def drawF (b : Nat) : F32 := pack32 false ((b : Rat) / ((2 ^ 24 : Nat) : Rat))

/-- The order of R246 on real entries: token id and l. -/
def ranksBefore (x y : Nat × F32) : Bool :=
  if isNan x.2 then isNan y.2 && decide (x.1 ≤ y.1)
  else if isNan y.2 then true
  else if flt y.2 x.2 then true
  else if flt x.2 y.2 then false
  else decide (x.1 ≤ y.1)

/-- The first 64 real entries in rank order. -/
def topList (es : List (Nat × F32)) : List (Nat × F32) := (es.mergeSort ranksBefore).take 64

/-- Entries of 8 bytes padded to 64. -/
def entryBytes (pad : F32) (es : List (Nat × F32)) : List Byte :=
  ((es.take 64).map fun e => natLe 4 e.1 ++ natLe 4 e.2.toNat).flatten ++
    (List.replicate (64 - es.length) (natLe 4 0xFFFFFFFF ++ natLe 4 pad.toNat)).flatten

/-- Running FP32 sums. -/
def runningSums (l : List F32) : List F32 := (l.foldl (fun (st : List F32 × F32) x => let y := fadd st.2 x; (st.1 ++ [y], y)) ([], fzero false)).1

/-- The kept entries with their probabilities. -/
def keptOf (topK : Nat) (topP : F32) (ranked : List (Nat × F32)) : List (Nat × F32) :=
  let ks := (ranked.take topK).filter fun e => !isNan e.2
  let mx := (ks.map (·.2)).headD (infty true)
  let es := ks.map fun e => fexp (fsub e.2 mx)
  let sum := sumC 8 es
  let ps := es.map fun e => fdiv e sum
  let n := if flt topP fone then
      match (runningSums ps).findIdx? fun r => fle topP r with | none => ps.length | some i => i + 1
    else ps.length
  let kept := ps.take n
  let ps := if flt topP fone then let t := sumC 8 kept; kept.map fun p => fdiv p t else kept
  (ks.map (·.1)).zip ps

/-- A draw is used: a temperature above 0, a kept entry, and not every kept l at −infinity. -/
def usesDraw (temp : F32) (topK : Nat) (ranked : List (Nat × F32)) : Bool :=
  let ks := (ranked.take topK).filter fun e => !isNan e.2
  !isZero temp && !ks.isEmpty && ks.any fun e => e.2 != infty true

/-- The token that a draw takes from kept entries: the first whose running sum exceeds it, else the last. -/
def pickToken (kept : List (Nat × F32)) (u : F32) : Nat :=
  match (runningSums (kept.map (·.2))).findIdx? fun r => flt u r with
  | some i => (kept[i]?).elim 0xFFFFFFFF (·.1)
  | none => (kept.getLast?).elim 0xFFFFFFFF (·.1)

/-- FULL and FINAL from the ranked list on. -/
def sampleEnd (s : State) (a : At) (r : Req) (ranked : List (Nat × F32)) : Eff :=
  let out := bits a.w 47 42
  let kept := keptOf r.topK r.topP ranked
  let use := usesDraw r.temp r.topK ranked
  let go (s : State) (token : Nat) : Eff :=
    let s := setNonfinite s a ((ranked.take r.topK).any fun e => isNan e.2)
    let s := if a.x.xr.phase = 0 ∨ (a.x.xr.phase = 1 ∧ a.x.xr.last = true) then
        updVec s a.cx a.x.disp fun v => { v with token := some token }
      else s
    let bs := natLe 4 token ++ entryBytes (fzero false) kept
    wrP s a out 0 bs fun s => .ok s bs false
  let take (b : Nat) : Nat := pickToken kept (drawF b)
  let first := (kept.head?).elim 0xFFFFFFFF (·.1)
  if bits a.w 41 40 = 0 then go s (if use then take (drawBits r.seed a.x.xr.step 16) else first)
  else
    let emit (s : State) (ds : List Nat) : State := captureVout s a.cx a.ct a.x a.x.pc ds.length ((ds.map (natLe 4)).flatten)
    let fresh (s : State) : Nat × State := let (i, s) := s.draw; ((Config.entropy i).toNat, s)
    let ran (s : State) : Eff :=
      if use then let (b, s) := fresh s; go (emit s [b]) (take b) else go (emit s []) first
    match replayVals a (b2n use) with
    | none => ran s
    | some none => ran (noVout s a)
    | some (some bs) => go s (if use then take (field bs 0 4) else first)

/-- SAMPLE. -/
def execSample (tile : Nat) (s : State) : Host.Outcome State Fault Refusal :=
  .next (onIssue 0x31 tile (fun s a =>
    match reqAt s (slotFor s a.cx a.x.xr.req) with
    | none => .ok s [] false
    | some r =>
      let lg := bits a.w 53 48
      let real : Nat × F32 → Bool := fun e => e.1 != 0xFFFFFFFF
      if bits a.w 39 38 = 2 then
        let n := bits a.w 13 8 + 1
        rdP s a lg 0 (512 * n) fun bs =>
          let es := (List.range (64 * n)).map fun i => (field bs (8 * i) 4, (BitVec.ofNat 32 (field bs (8 * i + 4) 4) : F32))
          sampleEnd s a r ((es.filter real).mergeSort ranksBefore)
      else
        let n := 8 * (a.panel lg).lines
        rdF s a lg 0 n fun xs =>
          let es := xs.zipIdx.map fun x => (bits a.w 37 14 + x.2, if isZero r.temp then x.1 else fdiv x.1 r.temp)
          if bits a.w 39 38 = 1 then
            let bs := entryBytes (infty true) (topList es)
            wrP s a (bits a.w 47 42) 0 bs fun s => .ok s bs false
          else sampleEnd s a r (es.mergeSort ranksBefore)) s)

end Sys2Proof.Machine
end

