-- ==== Sys2Proof/Machine/KvInstr.lean ====
section
/-! DEFINITION. The KV and attention instructions and VERIFY (10_instructions R233 to R239, R247; 07_attention R155 to R166, R179 to
R183). -/

namespace Sys2Proof.Machine

/-- The request slot of an execution. -/
def At.slot (s : State) (a : At) : Nat := slotFor s a.cx a.x.xr.req

/-- BF16 elements of a panel, as they stand. -/
def rdH (s : State) (a : At) (p e n : Nat) (f : List BF16 → Eff) : Eff :=
  rdP s a p (2 * e) (2 * n) fun bs => f ((List.range n).map fun i => BitVec.ofNat 16 (field bs (2 * i) 2))

/-- The candidates of the command an execution works for; `none` on a device that does not hold the command. -/
def treeOf (s : State) (a : At) : Option (List Cand) :=
  (findVec s a.cx a.x.disp).bind fun v => (findCmd s v.ring v.seq).map (·.cands)

/-! ## KVAPP (R233) -/


/-- One head's key and value: to the scratch for a candidate, else appended or staged. -/
def kvappHead (s : State) (a : At) (slot pair dh : Nat) (key val : List BF16) : State :=
  match reqAt s slot with
  | none => s
  | some r =>
    let s := savePair s slot pair a.x.chimStep
    if a.x.xr.cand ≠ 0xFF then
      let mine : Scratch := { cand := a.x.xr.cand, key := key, val := val }
      s.updReq slot fun r =>
        let l := (get [] r.scratch pair).filter fun x => x.cand != a.x.xr.cand
        { r with scratch := put [] r.scratch pair (l ++ [mine]) }
    else if heldAlready r pair a.x.xr.pos then s
    else putKv s slot pair a.x.xr.pos dh a.x.chimStep (a.x.disp + 1) key val

/-- KVAPP: it waits for a staging page that is full, and for KVEVICT when it needs a bound slot; a discarded execution appends
nothing (09_step_programs R218). -/
def execKvapp (tile : Nat) (s : State) : Host.Outcome State Fault Refusal :=
  .next (onIssue 0x20 tile (fun s a =>
    let slot := a.slot s
    let dh := dhOf s a.cx
    let n := bits a.w 21 12 + 1
    let prs := (kvappPairs a.w).map fun p => pairOf s a.cx p.1 p.2
    let pos := a.x.xr.pos
    let bound := ((findVec s a.cx a.x.disp).elim false fun v => decide (v.bound ≠ []))
    let blocked := a.x.xr.cand == 0xFF && ((reqAt s slot).elim false fun r => prs.any fun p =>
      (!direct r pos && (look r.staging p).elim false fun g => decide (g.fill ≥ 256)) || (bound && (needOf s r p pos).isSome))
    if blocked then .wait
    else
      rdH s a (bits a.w 53 48) 0 (n * dh) fun ks =>
        rdH s a (bits a.w 47 42) 0 (n * dh) fun vs =>
          let part (l : List BF16) (i : Nat) : List BF16 := (l.drop (i * dh)).take dh
          let s := if a.x.discarded then s
            else prs.zipIdx.foldl (fun s p => kvappHead s a slot p.1 dh (part ks p.2) (part vs p.2)) s
          let bytes (l : List BF16) : List Byte := (l.map fun b => natLe 2 b.toNat).flatten
          .ok s ((List.range n).flatMap fun i => bytes (part ks i) ++ bytes (part vs i)) false) s)

/-- The chimney step on whose behalf a request's staging page is flushed: its lowest that has not committed, else none. -/
def flushStep (s : State) (slot : Nat) : Nat :=
  ((s.chim.steps.find? fun x => x.dispatched && slotFor s x.ctx x.xr.req == slot).map (·.step)).getD 0

/-- HOB_FLUSH (07_attention R158). -/
def execHobFlush (slot layer head : Nat) (s : State) : Host.Outcome State Fault Refusal :=
  .next (match reqAt s slot with
    | none => s
    | some r =>
      let pair := pairOf s r.ctx layer head
      if !clocked s || s.dev.st == .failed || !((look r.staging pair).elim false (·.flushDue)) then s
      else
        let step := flushStep s slot
        flushStaging (savePair s slot pair step) slot pair (dhOf s r.ctx) step)

/-! ## KVIDX (R235; 07_attention R161 to R164) -/

/-- The positions committed after the step's append. -/
def readLen (r : Req) (x : ExecRec) : Nat := if x.phase = 2 then r.length + 1 else x.pos + 1

/-- The positions of a page that the request can read. -/
def pageFill (r : Req) (pair p : Nat) : Nat :=
  match look r.staging pair with
  | some g => if g.page = p then g.fill else (entryOf r pair p).elim 0 (·.count)
  | none => (entryOf r pair p).elim 0 (·.count)

/-- The score of a candidate page (R163): the maximum over the heads whose value is not NaN. -/
def pageScore (qs : List (List F32)) (mean : List BF16) (radius : F32) : F32 :=
  let vals := qs.map fun q => fadd (dot q (mean.map ofBf)) (fmul (fsqrt (sumC 8 (q.map fun x => fmul x x))) radius)
  match vals.filter fun v => !isNan v with
  | [] => qnan
  | v :: l => l.foldl (fun m x => if flt m x then x else m) v

/-- The order of R164. -/
def scoreBefore (x y : Nat × F32) : Bool := ranksBefore x y

/-- The read set in ascending page number (R161). -/
def readSet (r : Req) (pair n : Nat) (qs : List (List F32)) : List Nat :=
  let c := (n - 1) / 256
  let cands := (tableOf r pair).filter fun e => decide (1 ≤ e.1 ∧ e.1 + 2 ≤ c) && e.2.full && !e.2.ash
  let ranked := (cands.map fun e => (e.1, pageScore qs e.2.mean e.2.radius)).mergeSort scoreBefore
  let all := [0, c - 1, c] ++ (ranked.take r.budget).map (·.1)
  (all.dedup.mergeSort fun a b => decide (a ≤ b)).filter fun p => decide (pageFill r pair p > 0)

/-- Lists of `n` consecutive elements each. -/
def splitEvery {α : Type} (n : Nat) (l : List α) (count : Nat) : List (List α) := (List.range count).map fun i => (l.drop (n * i)).take n

/-- A KVAPP of this vector on the pair has issued and not completed. -/
def kvappRunning (s : State) (a : At) (pair : Nat) : Bool :=
  a.x.issued.any fun e => !e.done && e.opc == 0x20 &&
    (a.k.code[e.pc]?).elim false fun w => (kvappPairs w.toNat).any fun p => pairOf s a.cx p.1 p.2 == pair

/-- The page that a selection of a request reads, unless it is read from staging. -/
def pageIdOf (s : State) (r : Req) (pair p : Nat) : Option Nat :=
  if (look r.staging pair).elim false fun g => g.page == p then none
  else (entryOf r pair p).bind fun e => if e.ash || (s.page e.slot).isNone then none else some e.slot

/-- The pages of a read set join those of the vector (07_attention R171). -/
def noteReads (s : State) (a : At) (ids : List Nat) : State :=
  updVec s a.cx a.x.disp fun v => { v with reads := (v.reads ++ ids).dedup }

/-- KVIDX: the selection list. -/
def execKvidx (tile : Nat) (s : State) : Host.Outcome State Fault Refusal :=
  .next (onIssue 0x21 tile (fun s a =>
    let sel := bits a.w 47 42
    let pair := pairOf s a.cx (bits a.w 41 32) (bits a.w 31 22)
    let dh := dhOf s a.cx
    let g := a.i.gqa
    if kvappRunning s a pair then .wait
    else
      rdF s a (bits a.w 53 48) 0 (g * dh) fun q =>
        match reqAt s (a.slot s) with
        | none => .ok s [] false
        | some r =>
          let set := readSet r pair (readLen r a.x.xr) (splitEvery dh q g)
          let scr := if a.x.xr.cand = 0xFF then 0 else a.x.xr.pos - r.length
          let s := noteReads s a (set.filterMap fun p => pageIdOf s r pair p)
          let bs := natLe 4 (set.length % 2048 + scr * 2 ^ 16) ++
            (set.map fun p => natLe 4 (p + pageFill r pair p * 2 ^ 14)).flatten
          wrP s a sel 0 bs fun s => .ok s bs false) s)

/-! ## KVGATH (R236) -/

/-- The scratch positions of a candidate, in order of depth: its ancestors and itself (R179). A member does not hold the tree, and
START does not carry it, so there the ancestors are open (log entry 24). -/
def scratchPath (s : State) (a : At) (n : Nat) : List Nat :=
  if a.x.xr.cand = 0xFF then []
  else match treeOf s a with
    | some cs =>
      ((List.range n).foldl (fun (l : List Nat × Nat) _ =>
        if l.2 = 0xFF then l else (l.2 :: l.1, (cs[l.2]?).elim 0xFF (·.parent))) ([], a.x.xr.cand)).1
    | none => ((Config.fieldsOf 0x10 a.x.xr.bytes).take (n - 1)) ++ [a.x.xr.cand]

/-- The keys and values of the positions of a page, `cnt` of them; of a page that is no longer there they are open (log entry 39). -/
def pageRows (s : State) (r : Req) (pair p cnt dh : Nat) : List (List F32 × List F32) :=
  let staged := (look r.staging pair).bind fun g => if g.page = p then some g else none
  (List.range cnt).map fun t =>
    match staged with
    | some g => ((g.keys[t]?.getD []).map ofBf, (g.vals[t]?.getD []).map ofBf)
    | none =>
      match (entryOf r pair p).bind fun e => s.page e.slot with
      | some x => (kvRow x.kexp x.kelem dh t, kvRow x.vexp x.velem dh t)
      | none =>
        let free (i : Nat) : List F32 := (List.range dh).map fun j => BitVec.ofNat 32 (s.openAt (2 ^ 16 + i + 2 * (j + 256 * (t + 256 * (p + 2 ^ 24 * pair)))))
        (free 0, free 1)

/-- Another KVGATH of the same stream waits for any ATTN that reads it. -/
def attnRunning (a : At) (stream : Nat) : Bool :=
  a.x.issued.any fun e => !e.done && e.opc == 0x23 && (a.k.code[e.pc]?).elim false fun w => bits w.toNat 41 40 == stream

/-- KVGATH: open a stream of the positions of a selection list. -/
def execKvgath (tile : Nat) (s : State) : Host.Outcome State Fault Refusal :=
  .next (onIssue 0x22 tile (fun s a =>
    let sel := bits a.w 53 48
    let slot := a.slot s
    let pair := pairOf s a.cx (bits a.w 47 38) (bits a.w 37 28)
    let stream := bits a.w 27 26
    let dh := dhOf s a.cx
    if attnRunning a stream then .wait
    else
      rdP s a sel 0 4 fun h =>
        let count := bits (field h 0 4) 10 0
        let nscr := bits (field h 0 4) 20 16
        rdP s a sel 4 (4 * count) fun l =>
          match reqAt s slot with
          | none => .ok s [] false
          | some r =>
            let pages := (List.range count).map fun i => let w := field l (4 * i) 4; (bits w 13 0, bits w 22 14)
            let n := (pages.map (·.2)).sum + nscr
            let k := shapeK (bits a.w 25 24) a.i.defShape
            let (start, len) := partRange k (bits a.w 23 21) (bits a.w 20 15) n
            -- the pages that hold positions of this part, with the index of their first position
            let firsts := (pages.foldl (fun (st : List (Nat × Nat × Nat) × Nat) p => (st.1 ++ [(p.1, p.2, st.2)], st.2 + p.2)) ([], 0)).1
            let mine := firsts.filter fun p => decide (p.2.2 < start + len ∧ start < p.2.2 + p.2.1)
            let spilled := mine.filter fun p => ((entryOf r pair p.1).bind fun e => s.page e.slot).elim false (·.spilled)
            let base := (mine.map (·.2.2)).headD (n - nscr)
            let body := mine.flatMap fun p => (pageRows s r pair p.1 p.2.1 dh).zipIdx.map fun e => (p.1, e.2, e.1.1, e.1.2)
            let scr := (scratchPath s a nscr).zipIdx.map fun c =>
              match (get [] r.scratch pair).find? fun x => x.cand == c.1 with
              | none => (0xFFFFFFFF, c.2, List.replicate dh (fzero false), List.replicate dh (fzero false))
              | some x => (0xFFFFFFFF, c.2, x.key.map ofBf, x.val.map ofBf)
            let els := ((body ++ scr).drop (start - base)).take len
            let s := mine.foldl (fun s p => match entryOf r pair p.1 with
              | none => s | some e => s.updPage e.slot fun x => { x with lastRead := s.dev.now }) s
            let s := s.updReq slot fun r => { r with spillReads := r.spillReads + spilled.length }
            let ids := mine.filterMap fun p => pageIdOf s r pair p.1
            let st : Stream :=
              { pair := pair, shape := k, log2m := bits a.w 23 21, part := bits a.w 20 15, n := n, pages := ids, elems := els }
            let s := reapPages ((noteReads s a ids).updTile a.t fun y => { y with streams := store y.streams stream (some st) })
            let bytes (l : List F32) : List Byte := (l.map fun v => natLe 4 v.toNat).flatten
            .ok s (els.flatMap fun e => bytes e.2.2.1 ++ bytes e.2.2.2) false spilled.length) s)

/-! ## ATTN (R237, R238) -/

/-- 1/√d rounded once to FP32. -/
def invSqrt (d : Nat) : F32 :=
  let n := d * 2 ^ 400
  let r := Nat.sqrt n
  pack32 false (((2 * r + (if r * r = n then 0 else 1) : Nat) : Rat) / ((d * 2 ^ 201 : Nat) : Rat))

/-- The scores of a head over a stream. -/
def scoresOf (st : Stream) (sigma : F32) (q : List F32) : List F32 := st.elems.map fun e => fmul (dot q e.2.2.1) sigma

/-- The part's maximum: −∞ of no positions. -/
def maxOf (l : List F32) : F32 := l.foldl fmax (infty true)

/-- The roots of one head: the denominator, then the values. -/
def headRoots (st : Stream) (dh : Nat) (ws : List F32) : F32 × List F32 :=
  let m := 2 ^ st.log2m
  (partRoot st.shape m st.n ws,
   (List.range dh).map fun j => partRoot st.shape m st.n (st.elems.zipIdx.map fun e => fmul (ws[e.2]?.getD 0#32) (e.1.2.2.2[j]?.getD 0#32)))

/-- The C8 leaf sums of one head's weights over the 64-position blocks of each page. -/
def leafMass (st : Stream) (h : Nat) (ws : List F32) : List (Nat × Nat × Nat × Nat × F32) :=
  let tagged := st.elems.zipIdx.filterMap fun e => if e.1.1 = 0xFFFFFFFF then none else some (e.1.1, e.1.2.1 / 64, ws[e.2]?.getD 0#32)
  ((tagged.map fun x => (x.1, x.2.1)).dedup).map fun k =>
    (st.pair, k.1, k.2, h, leafSum ((tagged.filter fun x => x.1 == k.1 && x.2.1 == k.2).map (·.2.2)))

/-- The credit of a mass (R166). -/
def creditOf (m : F32) : Nat :=
  if isNan m || fSign m then 0 else if isInf m then 65536 else min 65536 (rne (toRat m * 65536)).toNat

/-- The mass of a page from its leaf sums and the denominators: heads in order, then divided by their number. -/
def massOf (ms : List (Nat × Nat × Nat × Nat × F32)) (pair p : Nat) (dens : List F32) : F32 :=
  let g := dens.length
  let leaf (h b : Nat) : F32 :=
    ((ms.find? fun x => x.1 == pair && x.2.1 == p && x.2.2.1 == b && x.2.2.2.1 == h).map (·.2.2.2.2)).getD 0x80000000#32
  let page (h : Nat) : F32 := (levels 3 ((List.range 8).map fun b => if b < 4 then leaf h b else 0x80000000#32)).headD 0x80000000#32
  fdiv (dens.zipIdx.foldl (fun t d => fadd t (fdiv (page d.2) d.1)) (fzero false)) (fofNat g)

/-- The FULL or FINISH that completes a layer and head credits the pages its vector read (R238), and its pair's full staging page
becomes due (07_attention R158). -/
def creditPages (s : State) (a : At) (pair : Nat) (dens : List F32) : State :=
  let slot := a.slot s
  let s := duePairs s slot a.x.disp [pair]
  if a.x.xr.phase = 1 ∨ a.x.xr.cand ≠ 0xFF then s
  else
    let ms := (findVec s a.cx a.x.disp).elim [] (·.mass)
    let pages := ((ms.filter fun x => x.1 == pair).map (·.2.1)).dedup
    let epoch := a.x.xr.step / 64
    let s := if pages = [] then s else savePair s slot pair a.x.chimStep
    pages.foldl (fun s p => updEntry s slot pair p fun e => { e with
      score := e.score / 2 ^ min 32 (epoch - e.epoch) + creditOf (massOf ms pair p dens), epoch := epoch }) s

/-- A vector whose ATTN stores masses: phase STEP, or the root of VERIFY. -/
def storesMass (x : ExecRec) : Bool := x.phase == 0 || (x.phase == 2 && x.cand == 0xFF)

/-- ATTN. -/
def execAttn (tile : Nat) (s : State) : Host.Outcome State Fault Refusal :=
  .next (onIssue 0x23 tile (fun s a =>
    let o := bits a.w 47 42
    let mp := bits a.w 37 32
    let pass := bits a.w 39 38
    let dh := dhOf s a.cx
    let g := a.i.gqa
    let st := look (s.tile a.t).streams (bits a.w 41 40)
    if pass = 3 then
      rdF s a o 0 (g * dh) fun vs =>
        rdF s a mp 64 g fun dens =>
          let out := vs.zipIdx.map fun v => fdiv v.1 (dens[v.2 / max 1 dh]?.getD 0#32)
          wrF s a o 0 out fun s =>
            .ok (match st with | none => s | some st => creditPages s a st.pair dens) (a.fbytes o out) false
    else match st with
      | none => .stop 4
      | some st =>
        let sigma := invSqrt dh
        rdF s a (bits a.w 53 48) 0 (g * dh) fun q =>
          let scores := (splitEvery dh q g).map (scoresOf st sigma)
          if pass = 1 then
            let ms := scores.map maxOf
            wrF s a mp 0 ms fun s => .ok s (a.fbytes mp ms) false
          else
            let go (s : State) (mxs : List F32) (f : State → List (F32 × List F32) → Eff) : Eff :=
              let ws := scores.zipIdx.map fun l => l.1.map fun v => fexp (fsub v (mxs[l.2]?.getD 0#32))
              let s := if storesMass a.x.xr then
                  updVec s a.cx a.x.disp fun v => { v with mass := v.mass ++ ws.zipIdx.flatMap fun w => leafMass st w.2 w.1 }
                else s
              f s (ws.map (headRoots st dh))
            if pass = 0 then
              go s (scores.map maxOf) fun s rs =>
                let out := rs.flatMap fun r => r.2.map fun v => fdiv v r.1
                wrF s a o 0 out fun s => .ok (creditPages s a st.pair (rs.map (·.1))) (a.fbytes o out) false
            else
              rdF s a mp 0 g fun mxs =>
                go s mxs fun s rs =>
                  let dens := rs.map (·.1)
                  let out := rs.flatMap (·.2)
                  wrF s a o 0 out fun s => wrF s a mp 64 dens fun s => .ok s (a.fbytes o out ++ a.fbytes mp dens) false) s)

/-! ## KVEVICT (R239) -/

/-- A bound page becomes ash, and its request and the device count it. -/
def evictBound (s : State) (step : Nat) (b : Bound) : State :=
  countEvict (toAsh (savePair s b.slot b.pair step) b.slot b.pair b.page step) b.slot step false

/-- The page a recorded KVEVICT value names, in a replay: of the context's open requests that may be evicted from, the lowest slot
that holds it (DEDUCED, log entry 40: the record does not name the request). -/
def namedBound (s : State) (ctx : Nat) (b : List Byte) : Option Bound :=
  let pair := pairOf s ctx (field b 0 2) (field b 2 2)
  let p := field b 4 4
  (s.reqs.find? fun e => e.2.elim false fun r =>
    r.open_ && r.ctx == ctx && r.evict && (entryOf r pair p).elim false fun x => x.full && !x.ash).map fun e =>
      { slot := e.1, pair := pair, page := p }

/-- A bound page as layer, KV head and page number. -/
def boundBytes (s : State) (ctx : Nat) (b : Bound) : List Byte :=
  let h := max 1 (ctxShape s ctx).2
  natLe 2 (b.pair / h) ++ natLe 2 (b.pair % h) ++ natLe 4 b.page

/-- KVEVICT. -/
def execKvevict (tile : Nat) (s : State) : Host.Outcome State Fault Refusal :=
  .next (onIssue 0x24 tile (fun s a =>
    let bound := (findVec s a.cx a.x.disp).elim [] (·.bound)
    let run (s : State) (bs : List Bound) : State :=
      updVec (bs.foldl (fun s b => evictBound s a.x.chimStep b) s) a.cx a.x.disp fun v => { v with bound := [] }
    let ran (s : State) : Eff :=
      let vals := bound.flatMap fun b => boundBytes s ((reqAt s b.slot).elim 0 (·.ctx)) b
      .ok (captureVout (run s bound) a.cx a.ct a.x a.x.pc bound.length vals) [] false
    match replayVals a 0 with
    | none => ran s
    | some none => ran (noVout s a)
    | some (some bs) =>
      .ok (run s ((List.range (bs.length / 8)).filterMap fun i => namedBound s a.cx (bs.drop (8 * i)))) [] false) s)

/-! ## VERIFY (R247; 07_attention R180, R181) -/

/-- The most probable token of a distribution, the lower id on a tie. -/
def argmaxOf (d : List (Nat × F32)) : Nat :=
  (d.foldl (fun (b : Option (Nat × F32)) e =>
    match b with
    | none => some e
    | some m => if flt m.2 e.2 ∨ (flt e.2 m.2 = false ∧ e.1 < m.1) then some e else some m) none).elim 0xFFFFFFFF (·.1)

/-- A token's probability; 0 when absent. -/
def probOf (d : List (Nat × F32)) (t : Nat) : F32 := ((d.find? fun e => e.1 == t).map (·.2)).getD (fzero false)

/-- A rejected candidate leaves the distribution. -/
def rejectFrom (d : List (Nat × F32)) (t : Nat) (q : F32) : List (Nat × F32) :=
  let d := d.map fun e => if e.1 = t then (e.1, fmax (fzero false) (fsub e.2 q)) else e
  let sum := sumC 8 (d.map (·.2))
  d.map fun e => (e.1, fdiv e.2 sum)

/-- The children of a node (0xFF the root), in ascending index. -/
def childrenOf (cs : List Cand) (node : Nat) : List Nat := (List.range cs.length).filter fun i => (cs[i]?).elim false fun c => c.parent == node

/-- The children of a node tested in turn: the one accepted, the distribution left, and the draws used. -/
def tryChildren (cs : List Cand) (greedy : Bool) (drawOf : Nat → F32) :
    List Nat → List (Nat × F32) → Nat → Option Nat × List (Nat × F32) × Nat
  | [], d, k => (none, d, k)
  | i :: l, d, k =>
    match cs[i]? with
    | none => tryChildren cs greedy drawOf l d k
    | some c =>
      if d = [] then (none, d, k)
      else if greedy then (if c.token = argmaxOf d then (some i, d, k) else tryChildren cs greedy drawOf l d k)
      else if flt (fmul (drawOf k) c.qprob) (probOf d c.token) then (some i, d, k + 1)
      else tryChildren cs greedy drawOf l (rejectFrom d c.token c.qprob) (k + 1)

/-- Acceptance (R180): the path and the distribution it ends in; at most 8 nodes deep. -/
def acceptPath (cs : List Cand) (greedy : Bool) (drawOf : Nat → F32) (dists : SMap (List (Nat × F32))) :
    Nat → Nat → List (Nat × F32) → Nat → List Nat → List Nat × List (Nat × F32)
  | 0, _, d, _, path => (path, d)
  | n + 1, node, d, k, path =>
    match tryChildren cs greedy drawOf (childrenOf cs node) d k with
    | (none, d, _) => (path, d)
    | (some c, _, k) => acceptPath cs greedy drawOf dists n c (get [] dists (c + 1)) k (path ++ [c])

/-- The next token of R180. -/
def nextToken (greedy : Bool) (d : List (Nat × F32)) (u : F32) : Nat :=
  if greedy then argmaxOf d
  else if d.all fun e => isNan e.2 then (d.head?).elim 0xFFFFFFFF (·.1)
  else pickToken d u

/-- The kept entries of a result panel. -/
def keptEntries (bs : List Byte) : List (Nat × F32) :=
  ((List.range 64).map fun i => (field bs (4 + 8 * i) 4, (BitVec.ofNat 32 (field bs (8 + 8 * i) 4) : F32))).takeWhile fun e => e.1 != 0xFFFFFFFF

/-- A staging page of a request is full and its flush has not emptied it: what would stage more waits (07_attention R158). -/
def flushPending (s : State) (slot : Nat) : Bool :=
  (reqAt s slot).elim false fun r => r.staging.any fun e => e.2.elim false fun g => decide (g.fill ≥ 256)

/-- The slot of the draft whose path a REQ_VERIFY commits with its own: that of a draft tree (07_attention R183). -/
def draftSlot (s : State) (a : At) (r : Req) : Option Nat :=
  if (findVec s a.cx a.x.disp).elim false fun v => (findCmd s v.ring v.seq).elim false fun c => c.p 4 1 == 1 then r.draft else none

/-- VERIFY: it stores its node's distribution, and on the last vector runs the acceptance and appends the path (at COMMIT, for a
chimney step). On a device that does not hold the command the path and the next token are open (log entry 24). -/
def execVerify (tile : Nat) (s : State) : Host.Outcome State Fault Refusal :=
  .next (onIssue 0x32 tile (fun s a =>
    let xr := a.x.xr
    let slot := a.slot s
    if xr.phase ≠ 2 then .ok s [] true
    else
      rdP s a (bits a.w 53 48) 0 516 fun bs =>
        let node := if xr.cand = 0xFF then 0 else xr.cand + 1
        let s := s.updReq slot fun r => { r with dists := insert node (keptEntries bs) (erase r.dists node) }
        if !xr.last then .ok s [] false
        else match reqAt s slot with
          | none => .ok s [] false
          | some r =>
            match treeOf s a with
            | none =>
              let (t, s) := s.fresh
              let path := ((Config.fieldsOf 0x10 xr.bytes).filter fun i => decide (i < 16)).take 8
              .ok (updVec s a.cx a.x.disp fun v => { v with path := path, token := some (t % 2 ^ 32) }) [] false
            | some cs =>
              if (List.range (cs.length + 1)).any fun i => !(r.dists.any fun e => e.1 == i) then .wait
              else
                let greedy := isZero r.temp
                let drawOf (i : Nat) : F32 := drawF (drawBits r.seed xr.step i)
                let (path, d) := acceptPath cs greedy drawOf r.dists 8 0xFF (get [] r.dists 0) 0 []
                let next := nextToken greedy d (drawOf 16)
                let local_ := decide (a.x.chimStep = 0) && !a.x.discarded
                if local_ && path != [] && (flushPending s slot || (draftSlot s a r).elim false (flushPending s)) then .wait
                else
                let s := updVec s a.cx a.x.disp fun v => { v with path := path, token := some next }
                let dr := draftSlot s a r
                let s := if !local_ then s
                  else
                    let s := commitPath s slot r.length 0 path
                    dr.elim s fun d => commitPath s d ((reqAt s d).elim 0 (·.length)) 0 path
                .ok s [] false) s)

end Sys2Proof.Machine
end

