-- ==== Sys2Proof/Machine/Chimney.lean ====
section
/-! DEFINITION. Chimneys (14_chimney): joining and leaving, ports and the link layer, the step protocol, the ember mirror,
fencing and failover; and the chimney commands of 12_graec_commands R306. -/

namespace Sys2Proof.Machine

/-! ## Membership (R332 to R336, R346, R359) -/

/-- The ports a PORTS mask lists. -/
def maskPorts (m : Nat) : List Nat := (List.range 8).filter fun p => m.testBit p

/-- The ports a topology uses, and the ports it may list as AUX (R334). -/
def topoPorts (topo : Nat) : List Nat × List Nat :=
  match topo with
  | 0 => ([0, 1, 2, 3], [6, 7])
  | 1 => ([0, 1, 2, 3, 4, 5], [6, 7])
  | 2 => ([0, 1, 2, 3, 4, 5], [6, 7])
  | _ => ([], [])

/-- MODE of a listed port (R369): direct, switched, AUX. -/
def portMode (topo p : Nat) : Nat := if topo = 3 then 2 else if p ≥ 6 then 3 else 1

/-- The dimension, port and MAC checks of CASCADE_JOIN (R306, R333, R334): packet offsets. A check that rests on several fields
names the lowest of them (12_graec_commands R282). -/
def joinChecks (c : Cmd) : List (Nat × Bool) :=
  let n := c.p 8 2
  let topo := c.p 12 1
  let dx := c.p 16 2
  let dy := c.p 18 2
  let dz := c.p 20 2
  let ports := maskPorts (c.p 13 1)
  let within (d lo hi : Nat) : Bool := decide (lo ≤ d ∧ d ≤ hi)
  let dimsOk := match topo with
    | 0 => within dx 2 16 && dy == 1 && dz == 1
    | 1 => within dx 2 32 && within dy 2 32 && dz == 1
    | 2 => within dx 2 8 && within dy 2 8 && within dz 2 8
    | _ => dx == 0 && dy == 0 && dz == 0
  let fits := match topo with | 0 => dx == n | 1 => dx * dy == n | 2 => dx * dy * dz == n | _ => true
  let (use, aux) := topoPorts topo
  let portsOk := topo == 3 || (use.all ports.contains && ports.all fun p => use.contains p || aux.contains p)
  let mac := c.p 24 6
  [(40, fits), (44, dimsOk), (44, portsOk),
   (56, !(ports.any fun p => portMode topo p != 1) || (mac % 8 == 0 && !mac.testBit 40))]

/-- A context exists. -/
def anyCtx (s : State) : Bool := s.ctxs.any fun e => e.2.isSome

/-- The chimney context of the device. -/
def chimCtx (s : State) : Option (Nat × Ctx) :=
  s.ctxs.findSome? fun e => match e.2 with | none => none | some c => if c.chimney then some (e.1, c) else none

/-- The outcome of a join: 4 bits per port (R339). -/
def joinResult (s : State) : Nat :=
  (s.chim.ports.zipIdx.map fun e =>
    16 ^ e.2 * (if e.1.mode = 0 then 0 else if e.1.st = .up then 8 + e.1.ver % 16 else 1)).sum

/-- A pending CASCADE_JOIN completes. -/
def endJoin (s : State) : State :=
  match s.chim.join with
  | none => s
  | some (ring, seq, _) =>
    let s := s.updChim fun c => { c with join := none }
    match findCmd s ring seq with | none => s | some c => finish s c stOk (joinResult s)

/-- CASCADE_JOIN completes once every listed port is up. -/
def checkJoin (s : State) : State :=
  if s.chim.join.isSome && s.chim.ports.all fun p => p.mode == 0 || decide (p.st = .up) then endJoin s else s

/-- CASCADE_JOIN (R306, R332 to R339). -/
def execCascadeJoin (ring seq : Nat) (s : State) : Host.Outcome State Fault Refusal :=
  .next (onReady 0x90 ring seq (fun c s =>
    if inChimney s || anyCtx s then finish s c stNotPermitted 0
    else match firstBad (joinChecks c) with
      | some o => badParam s c o
      | none =>
        let topo := c.p 12 1
        let role := c.p 10 2
        let listed := maskPorts (c.p 13 1)
        let ports := s.chim.ports.zipIdx.map fun e =>
          if listed.contains e.2 then { e.1 with st := .training, mode := portMode topo e.2, ver := 0, peer := 0xFFFF } else e.1
        let s := s.updChim fun x => { x with
          id := c.p 0 8, n := c.p 8 2, role := role, topo := topo, dx := c.p 16 2, dy := c.p 18 2, dz := c.p 20 2,
          portMask := c.p 13 1, mac := c.p 24 6, ports := ports, links := [], macs := [], join := some (ring, seq, s.dev.now),
          buddy := if role = 0xFFFF then 0xFFFF else (role + 1) % c.p 8 2 }
        checkJoin (putCmd s { c with phase := .running })) s)

/-- JOIN_TIMEOUT (R339). -/
def execJoinTimeout (ring seq : Nat) (s : State) : Host.Outcome State Fault Refusal :=
  .next (match s.chim.join with
    | none => s
    | some (r, q, t) => if clocked s && r == ring && q == seq && decide (s.dev.now ≥ t + 100000000) then endJoin s else s)

/-- CASCADE_LEAVE (R306): behind a join that has not completed (DEDUCED, log entry 42). -/
def execCascadeLeave (ring seq : Nat) (s : State) : Host.Outcome State Fault Refusal :=
  .next (onReady 0x91 ring seq (fun c s =>
    if s.chim.join.isSome then s
    else if (chimCtx s).isSome then finish s c stNotPermitted 0
    else finish (leaveChimney s) c stOk 0) s)

/-- CROWN_ASSIGN (R346). -/
def execCrownAssign (ring seq : Nat) (s : State) : Host.Outcome State Fault Refusal :=
  .next (onReady 0x92 ring seq (fun c s =>
    if (chimCtx s).isSome || !inChimney s then finish s c stNotPermitted 0
    else if c.p 0 2 ≥ s.chim.n then badParam s c 32
    else finish (s.updChim fun x => { x with crown := c.p 0 2 }) c stOk 0) s)

/-- MIRROR_CONFIG (R359, 08_tables_tiers R190). -/
def execMirrorConfig (ring seq : Nat) (s : State) : Host.Outcome State Fault Refusal :=
  .next (onReady 0x93 ring seq (fun c s =>
    if c.p 0 2 ≥ s.chim.n ∨ c.p 0 2 = s.chim.role then badParam s c 32
    else
      let s := s.updChim fun x => { x with buddy := c.p 0 2 }
      finish (s.updKv fun k => { k with mirrorPmSet := c.p 2 2 }) c stOk 0) s)

/-! ## Ports (R337 to R339) -/

/-- Ports and links work. -/
def linksRun (s : State) : Bool := clocked s && s.dev.st != .failed && inChimney s

/-- A frame outside the numbering of a link: LINK, TRAIN, ANNOUNCE. -/
def bareFrame (s : State) (ty flags lack : Nat) (payload : List Byte) : Frame :=
  { ftype := ty, flags := flags, dst := 0xFFFF, src := s.chim.role, lseq := 0, lack := lack, step := 0, payload := payload }

/-- The parameters of R338 go out in a TRAIN frame. -/
def sendTrain (s : State) (l : LinkId) : State :=
  emit s l (bareFrame s 0x02 0 0 (Config.layoutOf 0x02 [s.chim.id, s.chim.n, s.chim.topo, s.chim.role, l.port, 0x10, 0x12]))

/-- PORT_TRAINED: the lanes are up and TRAIN goes out. -/
def execPortTrained (port : Nat) (s : State) : Host.Outcome State Fault Refusal :=
  .next (match s.chim.ports[port]? with
    | none => s
    | some p =>
      if !linksRun s || p.st ≠ .training then s else sendTrain s { port := port, peer := 0xFFFF })

/-- The role and port R335 places at the far end of a direct port. -/
def placed (s : State) (port : Nat) : Option (Nat × Nat) :=
  match portFaces s port with
  | none => none
  | some (k, plus) =>
    let i := (facing s k plus).findIdx fun p => p == port
    ((facing s k (!plus))[i]?).map fun q => (neighbour s s.chim.role k plus, q)

/-- LNK_VERSION or LNK_DOWN of a port (R370). -/
def logPort (s : State) (code port reason peer ver retx : Nat) : State :=
  logEvent s code 6 (evData [(port, 1), (reason, 1), (peer, 2), (ver, 1), (0, 1), (retx, 2)])

/-- A link comes up at a version: its numbering starts afresh (R342). -/
def linkUp (s : State) (l : LinkId) (v : Nat) : State := setLnk s l { Lnk.reset with ver := v }

/-- TRAIN: the port comes up, is MISCABLED, or stays in VERSION. On a switched port that is up, the link with a further peer comes up, or
one that was DOWN comes back (R333, R345). -/
def execTrainFrame (port : Nat) (t : TrainIn) (s : State) : Host.Outcome State Fault Refusal :=
  .next (match s.chim.ports[port]? with
    | none => s
    | some p =>
      let fits := t.chimneyId == s.chim.id && t.n == s.chim.n && (p.mode != 1 || placed s port == some (t.role, t.port))
      let v := min t.maxVer 0x12
      let common := decide (max t.minVer 0x10 ≤ v)
      let l : LinkId := { port := port, peer := t.role }
      if !linksRun s then s
      else if p.st = .up ∧ p.mode ≥ 2 then
        let s := updPort s port fun p => { p with rx := sat 32 (p.rx + 1) }
        if !fits || !common || s.chim.links.any fun e => e.1 == l && !e.2.down then s else linkUp s l v
      else if p.st ≠ .training then s
      else
        let s := updPort s port fun p => { p with rx := sat 32 (p.rx + 1), peer := t.role }
        if !fits then logPort (updPort s port fun p => { p with st := .miscabled }) 0x6002 port 2 t.role p.ver 0
        else if !common then logPort (updPort s port fun p => { p with st := .version }) 0x6003 port 3 t.role t.maxVer 0
        else
          let s := updPort s port fun p => { p with st := .up, ver := v }
          let s := s.updChim fun c => { c with links := c.links.filter fun e => e.1.port != port }
          let s := if p.mode ≥ 2 then linkUp s l v else s
          let s := if v < 0x12 then logPort s 0x6003 port 3 t.role v 0 else s
          checkJoin s)

/-- PORT_RETRAIN: a port that is DOWN or MISCABLED trains again, and so does each link of a switched port that is DOWN (R338, R345). -/
def execPortRetrain (port : Nat) (s : State) : Host.Outcome State Fault Refusal :=
  .next (match s.chim.ports[port]? with
    | none => s
    | some p =>
      if !linksRun s then s
      else if p.st == .down || p.st == .miscabled then updPort s port fun p => { p with st := .training }
      else if p.st == .up then (s.chim.links.filter fun e => e.1.port == port && e.2.down).foldl (fun s e => sendTrain s e.1) s
      else s)

/-- LOSS_OF_SIGNAL (R370): the port goes DOWN, REASON 1. -/
def execLossOfSignal (port : Nat) (s : State) : Host.Outcome State Fault Refusal :=
  .next (if linksRun s then portDown s port 1 0 else s)

/-! ## The link layer (R340 to R345) -/

/-- Frames up to a LACK are covered. -/
def ackTo (s : State) (l : LinkId) (lack : Nat) : State :=
  let x := lnkOf s l
  let rest := x.replay.filter fun e => decide ((lack + 65536 - e.1.lseq) % 65536 ≥ 32768)
  if rest.length = x.replay.length then s else sendWaiting (setLnk s l { x with replay := rest, lastLack := lack }) l

/-- Every unacknowledged frame goes out again with RETX set; `counted` resends count towards the limits of R345. -/
def resend (s : State) (l : LinkId) (counted : Bool) : State :=
  let x := lnkOf s l
  let mark (f : Frame) : Frame :=
    { f with flags := if f.flags.testBit 3 then f.flags else f.flags + 8, lack := (x.expect + 65535) % 65536 }
  let s := setLnk s l { x with
    replay := x.replay.map fun e => (mark e.1, if counted then e.2.1 + 1 else e.2.1, if counted then e.2.2 else s.dev.now) }
  let s := (x.replay.map fun e => mark e.1).foldl (fun s f => emit s l f) s
  if counted then updPort s l.port fun p => { p with retransmits := sat 32 (p.retransmits + x.replay.length) } else s

/-- A LINK frame with the LACK in force. -/
def sendLink (s : State) (l : LinkId) (flags : Nat) : State :=
  emit s l (bareFrame s 0x01 flags (((lnkOf s l).expect + 65535) % 65536) [])

/-- The version of a link (R338). -/
def linkVer (s : State) (l : LinkId) (p : Port) : Nat := if (lnkOf s l).ver = 0 then p.ver else (lnkOf s l).ver

/-- A discarded frame (R343): counted; answered with NAK from version 1.1 on. -/
def rejectFrame (s : State) (l : LinkId) (p : Port) (flags : Nat) : State :=
  let s := updPort s l.port fun p => { p with crcErrors := sat 32 (p.crcErrors + 1) }
  if linkVer s l p ≥ 0x11 then sendLink s l flags else s

/-- The port of a link, when the link works. -/
def upPort (s : State) (l : LinkId) : Option Port :=
  (s.chim.ports[l.port]?).filter fun p => linksRun s && p.st == .up && !(lnkOf s l).down

/-- LINK (R341 to R344). -/
def execLinkFrame (l : LinkId) (flags lack : Nat) (s : State) : Host.Outcome State Fault Refusal :=
  .next (match upPort s l with
    | none => s
    | some p =>
      let s := updPort s l.port fun p => { p with rx := sat 32 (p.rx + 1) }
      if flags ≥ 16 then rejectFrame s l p 1
      else
        let s := ackTo s l lack
        if flags.testBit 0 && !flags.testBit 1 then resend s l true else s)

/-- LACK_REPORT (R342). -/
def execLackReport (l : LinkId) (s : State) : Host.Outcome State Fault Refusal :=
  .next (match upPort s l with | none => s | some _ => sendLink s l 0)

/-- RETRANSMIT_TIMEOUT (R343): on version 1.0. -/
def execRetransmitTimeout (l : LinkId) (s : State) : Host.Outcome State Fault Refusal :=
  .next (match upPort s l with | none => s | some p => if linkVer s l p = 0x10 then resend s l true else s)

/-- FULL_RESEND (R344). -/
def execFullResend (l : LinkId) (s : State) : Host.Outcome State Fault Refusal :=
  .next (match upPort s l with | none => s | some _ => resend s l false)

/-- A link goes DOWN that no longer delivers (R345): in direct mode with its port; in switched mode by itself, its replay buffer and what
waits discarded. -/
def linkDown (s : State) (l : LinkId) (p : Port) (retx : Nat) : State :=
  if p.mode < 2 then portDown s l.port 0 retx
  else
    let s := setLnk s l { Lnk.reset with down := true, ver := (lnkOf s l).ver }
    logPort (updPort s l.port fun q => { q with downs := sat 8 (q.downs + 1) }) 0x6002 l.port 0 l.peer (linkVer s l p) retx

/-- LNK_RETRY_EXHAUSTED (R345): 8 retransmissions of a frame, or 20 µs without acknowledgement, take the link down. -/
def execLnkRetryExhausted (l : LinkId) (s : State) : Host.Outcome State Fault Refusal :=
  .next (match upPort s l, (lnkOf s l).replay with
    | some p, e :: _ =>
      if e.2.1 ≥ 8 ∨ s.dev.now ≥ e.2.2 + 2000 then
        linkDown (logPort s 0x6001 l.port 0 (if p.mode < 2 then p.peer else l.peer) (linkVer s l p) e.2.1) l p e.2.1
      else s
    | _, _ => s)

/-- A step has been aborted on this device: its port block drops the step's later shards, those in transit too (R356). -/
def lateShard (s : State) (f : Frame) : Bool := (f.ftype == 0x20 || f.ftype == 0x21) && s.chim.abortedSteps.contains f.step

/-- FRAME_RECEIVE (R332, R340 to R344, R356): an Ethernet frame of a switched port is unwrapped or discarded; a good frame in order is
delivered to the inbox; `room` says whether the input buffer has room for it. -/
def execFrameReceive (l : LinkId) (bytes : List Byte) (room : Bool) (s : State) : Host.Outcome State Fault Refusal :=
  .next (match upPort s l with
    | none => s
    | some p =>
      match frameIn p bytes with
      | none => s
      | some b =>
        let s := updPort s l.port fun p => { p with rx := sat 32 (p.rx + 1) }
        let f := frameOf b
        if !frameOk b then rejectFrame s l p 1
        else if f.ftype ≤ 3 then s
        else
          let s := ackTo s l f.lack
          let x := lnkOf s l
          if f.lseq ≠ x.expect then rejectFrame s l p 1
          else if !room then (if linkVer s l p ≥ 0x11 then sendLink s l 3 else s)
          else
            let s := setLnk s l { x with expect := (x.expect + 1) % 65536 }
            if lateShard s f then s else s.updChim fun c => { c with inbox := c.inbox ++ [(l, f)] })

/-- A frame is for another role; a spare that adopts a role takes that role's frames. -/
def transit (s : State) (f : Frame) : Bool :=
  f.dst != 0xFFFF && f.dst != s.chim.role && (s.chim.adopt.elim true fun a => a.role != f.dst)

/-- FRAME_FORWARD (R337, R365): a delivered frame for another role goes on along its route; a detouring one keeps the direction
it arrived in. -/
def execFrameForward (port : Nat) (bytes : List Byte) (s : State) : Host.Outcome State Fault Refusal :=
  .next (
    let f := frameOf bytes
    match s.chim.inbox.find? fun e => e.1.port == port && e.2 == f with
    | none => s
    | some e =>
      if !linksRun s || !transit s f then s
      else
        let s := s.updChim fun c => { c with inbox := c.inbox.erase e }
        if overAux s f.ftype then
          match switchedLink s f.dst with | none => s | some l => sendOn s l f
        else
          match route s f.dst f.flags (cameBy s e.1) with
          | (none, _, s) => s
          | (some l, fl, s) => sendOn s l { f with flags := if fl.testBit 3 then fl - 8 else fl })

/-! ## Taking frames -/

/-- The first delivered frame of a type for this device. -/
def onFrame (ty : Nat) (f : Frame → State → State) (s : State) : State :=
  if !linksRun s then s
  else match s.chim.inbox.find? fun x => x.2.ftype == ty && !transit s x.2 with
    | none => s
    | some x => f x.2 (s.updChim fun c => { c with inbox := c.inbox.eraseP fun y => y.2 == x.2 })

/-! ## Requests of the crown on another device (log entry 28) -/

/-- The record of the crown's request: parameters that no frame carries are free. -/
def memberReq (s : State) (ctx gen variant cls len : Nat) : Req × State :=
  let (k, s) := s.fresh
  let o (i : Nat) : Nat := Config.openField (4 * (16 * k + i) + 2)
  ({ open_ := true, gen := gen, ctx := ctx, fn := 0, ring := 2 ^ 20, cls := cls, variant := variant, evict := o 0 % 2 == 1,
     verify := true, topK := o 1 % 64 + 1, temp := BitVec.ofNat 32 (o 2), topP := BitVec.ofNat 32 (o 3), budget := 8 + o 4 % 1017,
     quota := if o 5 % 2 = 0 then 0 else 3 + o 6 % 16382, ttftUs := 0, tbtUs := 0, seed := BitVec.ofNat 64 (o 7), draft := none,
     boundBy := none, length := len, nextStep := 0, pending := none, kept := [], tables := [], taken := [], chunks := [],
     staging := [], scratch := [], dists := [], nonfinite := false, dataLost := false, closing := false, cancelled := false,
     stageFrom := (len + 255) / 256 * 256, openTime := s.dev.now, firstCmd := none, lastToken := none, ttft := 0, tbtLast := 0, tbtMax := 0,
     tbtMisses := 0, quotaEvicts := 0, pressureEvicts := 0, spillReads := 0, accepted := 0, verifies := 0, flueDies := [] }, s)

/-- A page of positions that the crown's request has from a prefix (R348): no frame says which pages of this device they are, so it is a
page of the pair and page number that the device holds, or one of open contents (free; log entry 28). -/
def prefixPage (s : State) (ctx slot len pair p : Nat) : State :=
  let (k, s) := s.fresh
  let held := (s.kv.pages.filter fun e =>
    e.2.elim false fun x => x.ctx == ctx && pairOf s ctx x.layer x.head == pair && x.page == p).map (·.1)
  let (id, s) : Nat × State := match held[k % (held.length + 1)]? with
    | some id => (id, s.updPage id fun x => { x with refcnt := x.refcnt + 1 })
    | none =>
      let (id, s) := takePage s ctx pair p
      let b := natLe (pageBytes ((look s.ctxs ctx).elim 0 (·.hdim))) (Config.openField (4 * (16 * k + 8) + 2))
      (id, s.updPage id fun x => { pageOfBytes ctx (dhOf s ctx) s.dev.now b with layer := x.layer, head := x.head, page := p })
  let x := s.page id
  let last := decide (256 * (p + 1) > len)
  s.updReq slot fun r => putEntry r pair p { blankEntry r with
    slot := id, shared := true, full := !last, radius := if last then 0#32 else x.elim 0#32 (·.radius),
    mean := if last then [] else x.elim [] (·.mean), count := if last then len - 256 * p else 256,
    kcarry := if last then x.elim [] (·.kcarry) else [], vcarry := if last then x.elim [] (·.vcarry) else [] }

/-- The pages of a new request's positions before its first step: those of its prefix. -/
def prefixPages (s : State) (ctx slot len : Nat) : State :=
  (List.range (pairCount s ctx)).foldl (fun s pair =>
    (List.range ((len + 255) / 256)).foldl (fun s p => prefixPage s ctx slot len pair p) s) s

/-- A new record for a handle's request, with its prefix. -/
def makeReq (s : State) (ctx slot handle variant cls len : Nat) : State :=
  let (q, s) := memberReq s ctx (reqGen handle) variant cls len
  prefixPages (s.setReq slot (some q)) ctx slot len

/-- The slot that stands for a handle's request, made ready: an older generation's record is released. -/
def ensureReq (s : State) (ctx handle variant cls len : Nat) : State :=
  let slot := 2 ^ 20 + reqSlot handle
  match reqAt s slot with
  | some r =>
    if r.open_ ∧ r.gen = reqGen handle then s.updReq slot fun r => { r with variant := variant, cls := cls }
    else makeReq (if r.open_ then releaseReq s slot else s) ctx slot handle variant cls len
  | none => makeReq s ctx slot handle variant cls len

/-! ## Aborts (R353, R356, R357) -/

/-- A tile's wait in link RECVs ends when the last of them has its lines (R350). -/
def linkDone (s : State) (tile : Nat) : State :=
  if (s.tile tile).recvs.any fun r => r.role != 0xFFFF then s
  else updExec s tile fun x =>
    if x.linkFrom = 0 then x else { x with linkWait := x.linkWait + (s.dev.now + 1 - x.linkFrom), linkFrom := 0 }

/-- The waiting link RECVs of a step in a tile complete with zero lines; its credits and waiting SENDs are dropped. -/
def endShards (s : State) (tile step : Nat) : State :=
  let s := ((s.tile tile).recvs.filter fun r => r.role != 0xFFFF && r.step == step).foldl (fun s r =>
    match deliver s tile r r.got (List.replicate (r.nl - r.got) (List.replicate 32 0#8)) with | none => s | some s => s) s
  let s := s.updTile tile fun y => { y with
    sends := y.sends.filter fun d => !(d.role != 0xFFFF && d.step == step),
    credits := y.credits.filter fun c => c.2.2.1 != step }
  linkDone s tile

/-- Executions and vectors of a step are discarded (09_step_programs R218). -/
def discardStep (s : State) (ctx step : Nat) : State :=
  let s := s.updCtx ctx fun c => { c with inflight := c.inflight.map fun v => if v.chimStep = step then { v with discarded := true } else v }
  (ctxTiles s ctx).foldl (fun s t =>
    let mine := (s.tile t).exec.elim false fun x => x.chimStep == step
    let s := if mine then s.updTile t fun y => { y with
        exec := y.exec.map fun x => { x with discarded := true },
        fires := y.fires.map fun f => (f.1, f.2.map fun g => { g with discarded := true }) } else s
    endShards s t step) s

/-- An eviction of an aborted step is not counted (R353). -/
def uncountEvict (s : State) (e : Nat × Bool) : State :=
  let s := s.updReq e.1 fun r => if e.2 then { r with quotaEvicts := r.quotaEvicts - 1 } else { r with pressureEvicts := r.pressureEvicts - 1 }
  s.updKv fun k => if e.2 then { k with quotaEvicts := k.quotaEvicts - 1 } else { k with pressureEvicts := k.pressureEvicts - 1 }

/-- A step's pending effects are discarded on this device and its work ends without effect. -/
def abortLocal (s : State) (x : CStep) : State :=
  let s := x.evicts.foldl uncountEvict (x.saved.foldl restorePair s)
  let s := discardStep s x.ctx x.step
  let s := s.updChim fun c => { c with
    abortedSteps := x.step :: c.abortedSteps, aborts := sat 16 (c.aborts + 1), gathered := c.gathered.filter fun g => g.1 != x.step }
  updStep s x.step fun y => { y with aborting := true, saved := [], evicts := [], freed := [], filled := [], acks := [] }

/-- The steps an abort of step `n` covers: it and every later step of its request in flight. -/
def abortSet (s : State) (n : Nat) : List CStep :=
  match stepAt s n with
  | none => []
  | some x => s.chim.steps.filter fun y => y.xr.req == x.xr.req && decide (n ≤ y.step)

/-- Abort step `n` and its followers on this device, the latest first. -/
def abortHere (s : State) (n : Nat) : State :=
  ((abortSet s n).filter fun x => !x.aborting).reverse.foldl abortLocal s

/-- The first of the aborting steps of a request. -/
def firstAborting (s : State) (x : CStep) : Bool :=
  x.aborting && s.chim.steps.all fun y => !(y.aborting && y.xr.req == x.xr.req && decide (y.step < x.step))

/-- The command of an aborted step ends, and with it the steps of it that wait to be dispatched again. -/
def endAborted (s : State) (x : CStep) (c : Cmd) (status result0 : Nat) : State :=
  let s := spendBound (s.updChim fun k => { k with redo := k.redo.filter fun y => !(y.ring == x.ring && y.seq == x.seq) }) x.bound
  if status = stBusy then endReqBusy s c status result0 else endReqCmd s c status result0 (warnBits s c)

/-- The command of an aborted step ends, or the step is kept to be dispatched again (R357, R363, R170). -/
def settleStep (s : State) (x : CStep) : State :=
  let s := dropStep s x.step
  let again (s : State) : State := s.updChim fun k => { k with redo := k.redo ++ [{ x with aborts := x.aborts + 1 }] }
  match x.failWith, findCmd s x.ring x.seq with
  | some (st, r0), some c => endAborted s x c st r0
  | some _, none => settle s x.xr.req
  | none, some c => if x.aborts + 1 ≥ 3 then endAborted s x c stAborted 0 else again s
  | none, none => if x.ring = 2 ^ 20 ∧ x.aborts + 1 < 3 ∧ (findReq s x.xr.req).isSome = true then again s else settle s x.xr.req

/-- An abort is over at this device once every child has acknowledged it: the crown ends or re-dispatches the steps, a member
acknowledges to its parent and forgets them. -/
def abortOver (s : State) (x : CStep) : State :=
  if !(treeChildren s).all fun r => x.acks.contains r then s
  else
    let l := (abortSet s x.step).filter (·.aborting)
    if isCrown s then l.foldl settleStep s
    else
      let s := sendFrame s 0x14 (treeParent s) x.step (natLe 2 (subtree s s.chim.role).length)
      l.foldl (fun s y => dropStep s y.step) s

/-- Every abort that is over now. -/
def sweepAborts (s : State) : State := (s.chim.steps.filter (firstAborting s)).foldl abortOver s

/-- The crown aborts step `n` and its followers (R356). -/
def crownAbort (s : State) (n : Nat) (why : Option (Nat × Nat)) : State :=
  let set := (abortSet s n).map (·.step)
  let s := sendDown s 0x13 n []
  let s := abortHere s n
  set.foldl (fun s k => updStep s k fun y => { y with failWith := if why.isSome then why else y.failWith }) s

/-- ABORT (R356): forwarded, obeyed and acknowledged. -/
def execAbortFrame (s : State) : Host.Outcome State Fault Refusal :=
  .next (onFrame 0x13 (fun f s =>
    let s := sendDown s 0x13 f.step []
    let s := match stepAt s f.step with
      | some _ => s
      | none =>
        let blank : ExecRec := { req := 2 ^ 32 + f.step, variant := 0, cls := 0, phase := 0, pos := 0, step := 0, token := 0, cand := 0xFF, first := false, last := false }
        s.updChim fun c => { c with steps := c.steps ++ [{ mkStep f.step 0xFFFF 0 0 blank [] [] false s.dev.now 0 with dispatched := true }] }
    sweepAborts (abortHere s f.step)) s)

/-- ABORT_ACK (R357). -/
def execAbortAck (s : State) : Host.Outcome State Fault Refusal :=
  .next (onFrame 0x14 (fun f s => sweepAborts (updStep s f.step fun x => { x with acks := f.src :: x.acks })) s)

/-- Roles whose DONE for a step has not come (R370). -/
def missingDone (s : State) (x : CStep) : List Nat :=
  (if x.ended then [] else [s.chim.role]) ++ ((treeChildren s).filter fun r => !x.done.contains r).flatMap (subtree s)

/-- STEP_TIMEOUT (R356). -/
def execStepTimeout (step : Nat) (s : State) : Host.Outcome State Fault Refusal :=
  .next (match stepAt s step with
    | none => s
    | some x =>
      let miss := missingDone s x
      if !linksRun s || !isCrown s || x.aborting || miss.isEmpty || decide (s.dev.now < x.started + 100 * s.chim.timeoutUs) then s
      else
        let s := logEvent s 0x6004 6 (evData [(step, 4), (miss.foldl min 0xFFFF, 2), (miss.length, 2)])
        let s := s.updChim fun c => { c with stepTimeouts := sat 32 (c.stepTimeouts + 1) }
        sweepAborts (crownAbort s step none))

/-! ## The step protocol (R351 to R354) -/

/-- The halts of chimney contexts are told (16_faults R384): by a member to the crown, by the crown to every other role, in a START of
step 0, which is no step (DESIGN CHOICE, log entry 146). -/
def tellHalts (s : State) : State :=
  s.chim.halts.foldl (fun s ctx =>
      (if isCrown s then otherRoles s else [s.chim.crown]).foldl (fun s r => sendFrame s 0x10 r 0 (natLe 2 ctx ++ natLe 38 0)) s)
    (s.updChim fun c => { c with halts := [] })

/-- The halt of a chimney context is told here (16_faults R384): the context halts, and the crown passes it on; the manual gives no
CAUSE, CTILE or INSTR for it, which are free (log entry 146). -/
def haltTold (s : State) (ctx : Nat) : State :=
  if (look s.ctxs ctx).elim true fun x => !x.chimney || x.halted then s
  else
    let (k, s) := s.fresh
    let s := haltCtx s ctx (k % 256) (k / 256 % 65536) (k / 2 ^ 24 % 65536)
    if isCrown s then tellHalts s else s.updChim fun c => { c with halts := c.halts.erase ctx }

/-- START (R352): forwarded; the step waits to be dispatched in step-number order. Step 0 tells of a halt. -/
def execStartFrame (s : State) : Host.Outcome State Fault Refusal :=
  .next (onFrame 0x10 (fun f s =>
    let ctx := field f.payload 0 2
    if f.step = 0 then haltTold s ctx else
    let xr := execRecOf (f.payload.drop 8)
    let s := sendDown s 0x10 f.step f.payload
    let s := s.updChim fun c => { c with lastStep := f.step }
    let s := ensureReq s ctx xr.req xr.variant xr.cls xr.pos
    s.updChim fun c => { c with
      steps := c.steps ++ [{ mkStep f.step ctx (2 ^ 20) 0 xr [] [] false s.dev.now 0 with dispatched := false }] }) s)

/-- What a DONE says of a step on the devices under it. -/
def doneIn (x : CStep) (src : Nat) (v : List Nat) : CStep :=
  let g (i : Nat) : Nat := v[i]?.getD 0
  { x with
    done := src :: x.done, refused := x.refused || decide (g 0 % 2 = 1),
    token := if g 1 % 2 = 1 then some (g 2) else x.token,
    nonfinite := x.nonfinite || decide (g 3 % 2 = 1), zeroBlock := x.zeroBlock || decide (g 4 % 2 = 1),
    path := if g 5 = 0 then x.path else (v.drop 6).take (g 5) }

/-- The warnings that members have met count at the crown (02_number_formats R44). -/
def warnStep (s : State) (x : CStep) : State :=
  let s := if x.nonfinite then s.updReq (slotFor s x.ctx x.xr.req) fun r =>
      if r.open_ ∧ r.gen = reqGen x.xr.req then { r with nonfinite := true } else r else s
  if x.zeroBlock then (findCmd s x.ring x.seq).elim s fun c => putCmd s { c with zeroBlock := true } else s

/-- DONE (R352, R354). -/
def execDoneFrame (s : State) : Host.Outcome State Fault Refusal :=
  .next (onFrame 0x11 (fun f s =>
    let v := Config.fieldsOf 0x11 (f.payload.drop 4)
    let s := updStep s f.step fun x => doneIn x f.src v
    if isCrown s then
      match stepAt s f.step with
      | none => s
      | some x =>
        let s := warnStep s x
        if v[0]?.getD 0 % 2 = 1 && !x.aborting then sweepAborts (crownAbort s f.step (some (stBusy, 1000000)))
        else tryCommit s
    else trySendDone s f.step) s)

/-- The path a member commits: its own VERIFY's, or, where another role ran it, one the manual gives no frame for (log entry 24). -/
def memberPath (s : State) (x : CStep) : CStep × State :=
  if x.xr.phase ≠ 2 ∨ !x.xr.last ∨ x.path ≠ [] ∨ x.token.isSome then (x, s)
  else
    let (k, s) := s.fresh
    ({ x with path := (Config.fieldsOf 0x12 (natLe 4 x.step ++ natLe 8 k)).take 8 }, s)

/-- COMMIT (R353). -/
def execCommitFrame (s : State) : Host.Outcome State Fault Refusal :=
  .next (onFrame 0x12 (fun f s =>
    let s := sendDown s 0x12 f.step []
    match stepAt s f.step with
    | none => s
    | some x => let (x, s) := memberPath s x; commitLocal s x) s)

/-- CHIMNEY_CONTEXT_READY (R347, R355): every role has reported its loaded image. -/
def execChimneyContextReady (stepNs caps : List Nat) (s : State) : Host.Outcome State Fault Refusal :=
  .next (match chimCtx s with
    | none => s
    | some (n, x) =>
      if !linksRun s || !isCrown s || x.image.isNone || stepNs.length ≠ s.chim.n || caps.length ≠ s.chim.n then s
      else
        let s := s.updCtx n fun x => { x with ready := true }
        s.updChim fun c => { c with roleNs := stepNs, roleCaps := caps }.retime)

/-! ## Shards (R350) -/

/-- The physical tile of a context tile of the chimney context. -/
def chimTile (s : State) (ctile : Nat) : Option Nat :=
  (chimCtx s).bind fun c => c.2.image.bind fun i => (i.tiles[ctile]?).map (·.tile)

/-- The RECV a DATA frame is for, of those of its channel in issue order (10_instructions R231): line 0 begins the next transfer, which
pairs with the first RECV not yet paired; later lines belong to the transfer begun last. -/
def pairedRecv (l : List Recv) (line : Nat) : Option Recv :=
  match (if line = 0 then none else (l.filter (·.paired)).getLast?) with
  | some r => some r
  | none => l.find? fun r => !r.paired

/-- DATA: lines for a link RECV of the same step. -/
def execDataFrame (s : State) : Host.Outcome State Fault Refusal :=
  .next (onFrame 0x20 (fun f s =>
    match chimTile s (field f.payload 0 2) with
    | none => s
    | some t =>
      let ls := linesOf ((f.payload.drop 8).take (32 * field f.payload 6 2))
      match pairedRecv ((s.tile t).recvs.filter fun r => r.role == f.src && r.chan == field f.payload 2 1 && r.step == f.step)
          (field f.payload 4 2) with
      | none => s
      | some r =>
        match deliver s t r (field f.payload 4 2) ls with
        | none => recvExcess s t r
        | some s => linkDone s t) s)

/-- CREDIT: a waiting link SEND goes, or the credit waits for it. -/
def execCreditFrame (s : State) : Host.Outcome State Fault Refusal :=
  .next (onFrame 0x21 (fun f s =>
    let v := Config.fieldsOf 0x21 f.payload
    let chan := v[0]?.getD 0
    match chimTile s (v[1]?.getD 0) with
    | none => s
    | some t =>
      match (s.tile t).sends.find? fun d => d.role == f.src && d.chan == chan && d.step == f.step with
      | some d =>
        let ct := (get ((0xFFFF, 0) : Nat × Nat) (s.tile t).portMap chan).2
        sendData (s.updTile t fun y => { y with sends := y.sends.erase d }) d.role ct chan d.step d.lines
      | none => s.updTile t fun y => { y with credits := y.credits ++ [(chan, f.src, f.step, v[2]?.getD 0)] }) s)

/-! ## Tables across devices (08_tables_tiers R194, R196) -/

/-- GATHER_REQ: the rows asked for go back in GATHER_RSP, each as the asking step sees it (08_tables_tiers R196). -/
def execGatherReq (s : State) : Host.Outcome State Fault Refusal :=
  .next (onFrame 0x30 (fun f s =>
    let v := Config.fieldsOf 0x30 f.payload
    let table := v[1]?.getD 0
    match look s.ctxs (v[0]?.getD 0) with
    | none => s
    | some x =>
      match (x.tables.find? fun e => e.1 == table).map (·.2) with
      | none => s
      | some t => (v.drop 2).foldl (fun s r =>
          sendLong s 0x31 f.src f.step [table, r] (rowSeen x f.step table r (get [] t.data r))) s) s)

/-- GATHER_RSP: a row for the step that asked for it. -/
def execGatherRsp (s : State) : Host.Outcome State Fault Refusal :=
  .next (onFrame 0x31 (fun f s =>
    match takePiece s f with
    | (none, s) => s
    | (some (v, b), s) => s.updChim fun c => { c with
        gathered := c.gathered.map fun g =>
          if g.1 = f.step ∧ g.2.1 = v[0]?.getD 0 ∧ g.2.2.1 = v[1]?.getD 0 then (g.1, g.2.1, g.2.2.1, b) else g }) s)

/-- TUPDATE (08_tables_tiers R196): a forwarded row takes effect on its shard for the chimney steps after the one named, and is
acknowledged; an acknowledgement is counted (DESIGN CHOICE, log entry 142). -/
def execTupdateFrame (s : State) : Host.Outcome State Fault Refusal :=
  .next (onFrame 0x32 (fun f s =>
    match takePiece s f with
    | (none, s) => s
    | (some (v, b), s) =>
      let g (i : Nat) : Nat := v[i]?.getD 0
      if g 0 % 2 = 1 then s.updChim fun c => { c with tupWait := c.tupWait.erase f.src }
      else
        let s := s.updCtx (g 1) fun x => match (x.tables.find? fun e => e.1 == g 2).map (·.2) with
          | none => x
          | some t => { x with
              older := x.older ++ [(f.step + 1, g 2, g 3, get [] t.data (g 3))],
              tables := insert (g 2) { t with data := insert (g 3) b (erase t.data (g 3)) } (erase x.tables (g 2)) }
        sendLong s 0x32 f.src 0 [1, g 1, g 2, g 3] []) s)

/-! ## The ember mirror (R359, R360, R368) -/

/-- The key of a copy. -/
def MirrorCopy.same (a b : MirrorCopy) : Bool :=
  a.role == b.role && a.ctx == b.ctx && a.req == b.req && a.layer == b.layer && a.head == b.head && a.page == b.page

/-- Bytes of the MIRROR region in use. -/
def mirrorUsed (s : State) : Nat := (s.chim.mirror.map fun m => if m.ash then 16 else m.bytes.length).sum

/-- A copy from the fields of a mirror frame. -/
def copyOf (v : List Nat) (ash : Bool) (bytes : List Byte) : MirrorCopy :=
  { role := v[0]?.getD 0, ctx := v[1]?.getD 0, req := v[2]?.getD 0, layer := v[3]?.getD 0, head := v[4]?.getD 0,
    page := v[5]?.getD 0, ash := ash, bytes := bytes }

/-- The buddy's answer: taken or refused. -/
def mirrorReply (s : State) (dst : Nat) (m : MirrorCopy) (taken : Bool) : State :=
  sendFrame s 0x41 dst 0 (Config.layoutOf 0x41 [b2n taken, m.ctx, m.req, m.layer, m.head, m.page])

/-- MIRROR: once all its pieces are in, the copy is stored, or refused when the region is full. -/
def execMirrorFrame (s : State) : Host.Outcome State Fault Refusal :=
  .next (onFrame 0x40 (fun f s =>
    match takePiece s f with
    | (none, s) => s
    | (some (v, b), s) =>
      let m := copyOf v false b
      let rest := s.chim.mirror.filter fun k => !k.same m
      if mirrorUsed (s.updChim fun c => { c with mirror := rest }) + m.bytes.length > s.kv.mirrorMib * 2 ^ 20 then
        mirrorReply (s.updChim fun c => { c with refusals := c.refusals + 1 }) f.src m false
      else mirrorReply (s.updChim fun c => { c with mirror := rest ++ [m] }) f.src m true) s)

/-- The owners of the mirror copies that HBM errors have lost are told, when the handler of the error ends (16_faults R386), in a
MIRROR_ACK that is neither taken nor refused (DESIGN CHOICE, log entry 24). -/
def tellOwners (s : State) : State :=
  s.chim.lost.foldl (fun s m => sendFrame s 0x41 m.role 0 (Config.layoutOf 0x41 [2, m.ctx, m.req, m.layer, m.head, m.page]))
    (s.updChim fun c => { c with lost := [] })

/-- HANDLER_END (16_faults R383, R384, R386). -/
def execHandlerEnd (s : State) : Host.Outcome State Fault Refusal := .next (tellHalts (tellOwners (endHandler s)))

/-- MIRROR_ACK: MIRRORED is set in the page header, or the refusal is counted; of a copy that its buddy has lost MIRRORED is cleared, and
the page goes to the buddy again (16_faults R386). -/
def execMirrorAck (s : State) : Host.Outcome State Fault Refusal :=
  .next (onFrame 0x41 (fun f s =>
    let v := Config.fieldsOf 0x41 f.payload
    let g (i : Nat) : Nat := v[i]?.getD 0
    let slot := slotFor s (g 1) (g 2)
    let pair := pairOf s (g 1) (g 3) (g 4)
    let held := (reqAt s slot).bind fun r => entryOf r pair (g 5)
    if g 0 % 4 = 2 then
      match held with
      | none => s
      | some e => if e.ash then s else sendMirror (s.updPage e.slot fun p => { p with mirrored := false }) (g 2) slot pair (g 5)
    else if g 0 % 2 = 0 then s.updChim fun c => { c with refused := sat 16 (c.refused + 1) }
    else match held with
      | none => s
      | some e => s.updPage e.slot fun p => { p with mirrored := true }) s)

/-- MIRROR_FREE: the copy becomes an ash record, or both are freed when the request has ended. -/
def execMirrorFree (s : State) : Host.Outcome State Fault Refusal :=
  .next (onFrame 0x42 (fun f s =>
    let v := Config.fieldsOf 0x42 f.payload
    let m := copyOf v true []
    let rest := s.chim.mirror.filter fun k => !k.same m
    if s.chim.mirror.any (fun k => k.same m) then
      s.updChim fun c => { c with mirror := if v[6]?.getD 0 % 2 = 1 then rest else rest ++ [m] }
    else s) s)

/-- Every FULL page of the chimney's requests goes to the buddy again (R368). -/
def remirror (s : State) : State :=
  s.reqs.foldl (fun s e =>
    match e.2 with
    | none => s
    | some r =>
      if !r.open_ || !((look s.ctxs r.ctx).elim false (·.chimney)) then s
      else r.tables.foldl (fun s t => t.2.foldl (fun s k =>
        if k.2.full && !k.2.ash then
          sendMirror (s.updPage k.2.slot fun p => { p with mirrored := false }) (handleOf (e.1 % 2 ^ 20) r.gen) e.1 t.1 k.1
        else s) s) s) s

/-! ## Fencing (R362, R363) -/

/-- HEARTBEAT_SEND. -/
def execHeartbeatSend (s : State) : Host.Outcome State Fault Refusal :=
  .next (if !linksRun s || s.chim.crown == 0xFFFF then s
    else if isCrown s then (otherRoles s).foldl (fun s r => sendFrame s 0x15 r 0 (natLe 4 s.chim.fenceGen)) s
    else sendFrame s 0x15 s.chim.crown 0 (natLe 4 s.chim.fenceGen))

/-- HEARTBEAT. -/
def execHeartbeatFrame (s : State) : Host.Outcome State Fault Refusal :=
  .next (onFrame 0x15 (fun f s => s.updChim fun c => { c with beats := store c.beats f.src (some s.dev.now) }) s)

/-- Microseconds since a role was last heard; free when it never was (log entry 21). -/
def silentUs (s : State) (role : Nat) : Nat :=
  match look s.chim.beats role with
  | some t => sat 32 ((s.dev.now - t) / 100)
  | none => s.openAt (16 + role) % 2 ^ 32

/-- A role is fenced here: counted and logged. -/
def fenceHere (s : State) (role by_ : Nat) : State :=
  let s := logEvent s 0x6006 6 (evData [(role, 2), (by_, 2), (silentUs s role, 4)])
  s.updChim fun c => { c with
    fenced := store c.fenced role (some s.dev.now), tupWait := c.tupWait.filter fun r => r != role, fences := sat 16 (c.fences + 1), fenceGen := (c.fenceGen + 1) % 2 ^ 32 }

/-- Every step in flight at the crown is aborted, and its command ends with PEER_LOST (R363). -/
def fenceAborts (s : State) (role : Nat) : State :=
  let firsts := s.chim.steps.filter fun x =>
    s.chim.steps.all fun y => !(y.xr.req == x.xr.req && decide (y.step < x.step))
  sweepAborts (firsts.foldl (fun s x => crownAbort s x.step (some (stPeerLost, role))) s)

/-- Steps that wait to be dispatched again end with PEER_LOST too. -/
def fenceRedo (s : State) (role : Nat) : State :=
  let l := s.chim.redo
  let s := s.updChim fun c => { c with redo := [] }
  l.foldl (fun s x => settleStep s { x with failWith := some (stPeerLost, role) }) s

/-- HEARTBEAT_SILENCE (R362, R363). -/
def execHeartbeatSilence (role : Nat) (s : State) : Host.Outcome State Fault Refusal :=
  .next (
    let watched := if isCrown s then decide (role < s.chim.n) && role != s.chim.role
                   else s.chim.crown != 0xFFFF && role == s.chim.crown
    if !linksRun s || !watched || fencedRole s role || decide (s.dev.now < (look s.chim.beats role).getD 0 + 500000) then s
    else
      let s := fenceHere s role s.chim.role
      if !isCrown s then s
      else
        let s := (otherRoles s).foldl (fun s r => sendFrame s 0x16 r 0 (natLe 2 role)) s
        fenceAborts (fenceRedo s role) role)

/-- FENCE (R362). -/
def execFenceFrame (s : State) : Host.Outcome State Fault Refusal :=
  .next (onFrame 0x16 (fun f s =>
    let role := field f.payload 0 2
    if fencedRole s role then s else sweepAborts (fenceHere s role f.src)) s)

/-! ## Failover (R364 to R368) -/

/-- A request's positions after the last page mirrored for an adopted role are dispatched again, or the request is lost (R366).
Where that page lies, and whether a needed page was refused, no frame tells the crown: free (log entry 24). -/
def recoverReq (s : State) (ctx slot : Nat) (r : Req) : State :=
  let (k, s) := s.fresh
  let start := 256 * (k % (r.length / 256 + 1))
  let hist := get [] s.chim.history slot
  let first := r.length - hist.length
  let need := hist.drop (start - first)
  if start = r.length then s
  else if k / 2 ^ 32 % 2 = 1 ∨ start < first ∨ need.any (fun t => decide (t ≥ 2 ^ 32)) = true then loseReq s slot
  else
    let redo : List CStep := need.zipIdx.map fun e =>
      let xr : ExecRec :=
        { req := handleOf slot r.gen, variant := r.variant, cls := r.cls, phase := 1, pos := start + e.2, step := r.nextStep, token := e.1,
          cand := 0xFF, first := decide (e.2 = 0), last := decide (e.2 + 1 = need.length) }
      mkStep (2 ^ 40 + slot * 2 ^ 23 + start + e.2) ctx (2 ^ 20) 0 xr [] [] false s.dev.now 0
    s.updChim fun c => { c with redo := c.redo ++ redo }

/-- Every chimney request at the crown is recovered. -/
def recoverAll (s : State) : State :=
  match chimCtx s with
  | none => s
  | some (n, _) => (reqsOfCtx s n).foldl (fun s slot =>
      match reqAt s slot with | none => s | some r => if r.dataLost then s else recoverReq s n slot r) s

/-- The crown role has been adopted: the chimney's requests are lost with the crown, and every device drops their KV (R367), the mirror
copies it holds among it. -/
def dropCrownReqs (s : State) : State :=
  match chimCtx s with
  | none => s
  | some (n, _) =>
    let s := s.chim.steps.foldl (fun s x => dropStep (abortLocal s x) x.step) s
    ((reqsOfCtx s n).foldl releaseReq s).updChim fun c => { c with mirror := [] }

/-- A fenced role has been adopted (R364 to R368; log entry 27). -/
def adopted (s : State) (role : Nat) : State :=
  let s := s.updChim fun c => { c with
    fenced := store c.fenced role none, fenceGen := (c.fenceGen + 1) % 2 ^ 32, beats := store c.beats role (some s.dev.now),
    viaAux := if c.topo = 3 ∨ c.viaAux.contains role then c.viaAux else role :: c.viaAux }
  let s := if role = s.chim.crown ∧ s.chim.role ≠ role then dropCrownReqs s else s
  let s := if s.chim.buddy = role then remirror s else s
  if isCrown s then recoverAll s else s

/-- ANNOUNCE_SEND (R333). -/
def execAnnounceSend (port : Nat) (s : State) : Host.Outcome State Fault Refusal :=
  .next (match upPort s { port := port, peer := 0xFFFF } with
    | none => s
    | some p =>
      if p.mode < 2 then s
      else emit s { port := port, peer := 0xFFFF } (bareFrame s 0x03 0 0 (Config.layoutOf 0x03 [s.chim.id, s.chim.role, port])))

/-- ANNOUNCE (R333): the port learns the MAC of a role's port; a fenced role that announces itself from another MAC has been
adopted (log entry 27). -/
def execAnnounceFrame (port chimneyId role peerPort mac : Nat) (s : State) : Host.Outcome State Fault Refusal :=
  .next (match upPort s { port := port, peer := 0xFFFF } with
    | none => s
    | some p =>
      let s := updPort s port fun p => { p with rx := sat 32 (p.rx + 1) }
      if p.mode < 2 || chimneyId ≠ s.chim.id then s
      else
        let key := (port, role, peerPort)
        let was := (s.chim.macs.find? fun e => e.1 == key).map (·.2)
        let s := s.updChim fun c => { c with macs := (c.macs.filter fun e => e.1 != key) ++ [(key, mac)] }
        if fencedRole s role && was != some mac then adopted s role else s)

/-- The device may adopt (R336, R364): it is a spare on AUX, and in a direct topology every member has AUX, as its ANNOUNCE has shown
(DEDUCED, log entry 144). -/
def mayAdopt (s : State) (role : Nat) : Bool :=
  inChimney s && s.chim.role == 0xFFFF && s.chim.adopt.isNone && !(switchedPorts s).isEmpty && fencedRole s role &&
    (s.chim.topo == 3 || (List.range s.chim.n).all fun r => s.chim.macs.any fun e => e.1.2.1 == r)

/-- The page tables of an adopted role, rebuilt from its mirror copies (R364); recovered pages start with SCORE 0 (R366). -/
def rebuild (s : State) (ctx : Nat) (cs : List MirrorCopy) : State :=
  cs.foldl (fun s m =>
    let slot := 2 ^ 20 + reqSlot m.req
    let s := ensureReq s ctx m.req (s.openAt (2 ^ 48 + slot) % 4096) (s.openAt (2 ^ 49 + slot) % 8) 0
    let pair := pairOf s ctx m.layer m.head
    let (e, s) : Entry × State := match reqAt s slot with
      | none => ({ slot := 0, ash := true, shared := false, full := true, radius := 0#32, mean := [], score := 0, epoch := 0, count := 256, kcarry := [], vcarry := [] }, s)
      | some r =>
        if m.ash then ({ blankEntry r with ash := true, full := true, count := 256 }, s)
        else
          let (id, s) := takePage s ctx pair m.page
          let p := pageOfBytes ctx (dhOf s ctx) s.dev.now m.bytes
          ({ blankEntry r with slot := id, full := true, radius := p.radius, mean := p.mean, score := 0, count := 256 },
           s.setPage id (some p))
    s.updReq slot fun r => { (putEntry r pair m.page e) with length := max r.length (256 * (m.page + 1)) }) s

/-- The adoption completes (R364): the buddy is the adopted role's, unless a MIRROR_CONFIG has named one (R359). -/
def finishAdopt (s : State) (c : Cmd) (a : Adopt) : State :=
  let drop (s : State) : State := s.updChim fun x => { x with adopt := none }
  match look s.ctxs c.pkt.ctx with
  | none => finish (drop s) c stBadHandle 0
  | some x =>
    let b := s.hostRead (c.p 8 8) (c.p 16 8)
    match imageCheck b (c.p 16 8) x.hdim (some (s.chim.n, a.role)) false 40 with
    | some e => finish (drop s) c e.1 e.2
    | none => match autoOrigin s b with
      | none => finish (drop s) c stNoResource 0
      | some o =>
        let since := (look s.chim.fenced a.role).getD s.dev.now
        let s := loadImage s c.pkt.ctx b o
        -- with the crown its requests are lost (R367)
        let s := if a.role = s.chim.crown then s else rebuild s c.pkt.ctx a.copies
        let n := b.length + a.received
        let s := s.updChim fun x => { x with
          adopt := none, role := a.role, buddy := if x.buddy = 0xFFFF then (a.role + 1) % max 1 x.n else x.buddy, fenced := store x.fenced a.role none,
          viaAux := if x.topo = 3 then x.viaAux else a.role :: x.viaAux }
        let s := logEvent s 0x6005 6 (evData [(a.role, 2), (0, 2), (sat 32 ((s.dev.now - since) / 100000), 4)])
        let c := { c with position := n }
        finish (putCmd s c) c stOk n

/-- FAILOVER_ADOPT (R306, R336, R364): its first row accepts it and asks every member for the mirror copies of the failed role, its
second completes it. -/
def execFailoverAdopt (ring seq : Nat) (s : State) : Host.Outcome State Fault Refusal :=
  .next (onLong 0x94 ring seq
    (fun c s =>
      match look s.ctxs c.pkt.ctx with
      | none => some (finish s c stBadHandle 0)
      | some x =>
        if x.fn ≠ c.fn then some (finish s c stBadHandle 0)
        else if x.image.isSome || !mayAdopt s (c.p 0 2) then some (finish s c stNotPermitted 0)
        else
          let s := s.updChim fun k => { k with adopt := some { ring := ring, seq := seq, role := c.p 0 2, received := 0, copies := [] } }
          let s := ((List.range s.chim.n).filter fun r => !fencedRole s r).foldl (fun s r =>
            sendLong s 0x50 r 0 [0, c.p 0 2] []) s
          some (acceptLong s { c with phase := .running }))
    (fun c s => match s.chim.adopt with | none => finish s c stNotPermitted 0 | some a => finishAdopt s c a) s)

/-- XFER (R364): a member answers the request of a spare with the copies and ash records it holds of the role; the spare takes
them in. -/
def execXferFrame (s : State) : Host.Outcome State Fault Refusal :=
  .next (onFrame 0x50 (fun f s =>
    match takePiece s f with
    | (none, s) => s
    | (some (v, b), s) =>
      let g (i : Nat) : Nat := v[i]?.getD 0
      if g 0 % 2 = 0 then
        (s.chim.mirror.filter fun m => m.role == g 1).foldl (fun s m =>
          sendLong s 0x50 (g 1) 0 [1, m.role, m.ctx, m.req, m.layer, m.head, m.page, b2n m.ash] m.bytes) s
      else
        match s.chim.adopt with
        | none => s
        | some a =>
          let m := copyOf (v.drop 1) (decide (g 7 % 2 = 1)) b
          let a' : Adopt := { a with
            received := a.received + (if m.ash then 16 else m.bytes.length), copies := a.copies ++ [m] }
          let s := s.updChim fun c => { c with adopt := some a' }
          match findCmd s a.ring a.seq with
          | none => s
          | some c => putCmd s { c with position := c.p 16 8 + a'.received }) s)

/-- An aborted FAILOVER_ADOPT discards what it has received (12_graec_commands R308). -/
def abortAdopt (s : State) : State := s.updChim fun c => { c with adopt := none }

end Sys2Proof.Machine
end

