-- ==== Sys2Proof/Machine/Log.lean ====
section
/-! DEFINITION. The mantel log's commands (20_mantel_log) and its reads over SMBus (21_host_interface R472). -/

namespace Sys2Proof.Machine

/-- A record as it stands in flash (R449). -/
def LogRec.bytes (r : LogRec) : List Byte :=
  natLe 4 r.opSec ++ natLe 3 r.pwrCycle ++ natLe 1 r.domain ++ natLe 2 r.code ++ natLe 2 r.count ++ natLe 4 r.seq ++
    natLe 8 r.data ++ natLe 4 r.lastSec ++ natLe 1 (b2n r.deferred) ++ natLe 2 0 ++
    natLe 1 (if r.valid then 0x5A else 0xFF)

/-- A slot of the flash log; an erased slot reads all ones (PRESUMED of NOR flash, log entry 22). -/
def slotBytes (l : Mantel) (i : Nat) : List Byte :=
  match l.flash.find? fun e => e.1 == i with
  | none => List.replicate 32 0xFF#8
  | some e => e.2.bytes

/-- LOG_EVENT (R452). -/
def execLogEvent (code domain data : Nat) (s : State) : Host.Outcome State Fault Refusal :=
  .next (logEvent s code domain (data % 2 ^ 64))

/-- LOG_RECORD_TIMEOUT (R452): an open record 60 s old closes. -/
def execLogRecordTimeout (s : State) : Host.Outcome State Fault Refusal :=
  .next (if s.log.openRec.isSome ∧ s.log.openedAt + 60 ≤ s.dev.opSec then s.updLog closeRec else s)

/-- LOG_FLASH_WRITE (R453): closed records go to flash in SEQ order, unless the log is frozen. -/
def execLogFlashWrite (s : State) : Host.Outcome State Fault Refusal :=
  .next (if clocked s ∧ s.log.frozen = false then s.updLog flashAll else s)

/-- LOG_RECORDS_LOST (R453): once there is room and the log is not frozen, the lost count is logged and reset. -/
def execLogRecordsLost (s : State) : Host.Outcome State Fault Refusal :=
  .next (if clocked s ∧ s.log.frozen = false ∧ s.log.lost ≠ 0 ∧ ramCount s.log < 256 then
      let n := sat 32 s.log.lost
      let first := s.log.lostSec
      (logEvent s 0x9002 0xF (evData [(n, 4), (first, 4)])).updLog fun l => { l with lost := 0, lostSec := 0 }
    else s)

/-- LOG_FREEZE_TIMEOUT (R455): a freeze ends by itself after 600 s. -/
def execLogFreezeTimeout (s : State) : Host.Outcome State Fault Refusal :=
  .next (if s.log.frozen ∧ s.log.frozenAt + 600 ≤ s.dev.opSec then
      s.updLog fun l => { l with frozen := false, lostFrozen := 0 }
    else s)

/-- LOG_FREEZE (R455, 12 R301). -/
def execLogFreeze (ring seq : Nat) (s : State) : Host.Outcome State Fault Refusal :=
  .next (onReady 0xA0 ring seq (fun c s =>
    let s := if s.log.frozen then s
      else s.updLog fun l => { flashAll (closeRec l) with frozen := true, frozenAt := s.dev.opSec, lostFrozen := 0 }
    finish s c stOk (s.log.newestSeq % 8192)) s)

/-- LOG_READ (R456, 12 R301): slots in ascending index from FIRST, wrapping. -/
def execLogRead (ring seq : Nat) (s : State) : Host.Outcome State Fault Refusal :=
  .next (onReady 0xA1 ring seq (fun c s =>
    let first := c.p 0 4
    let count := c.p 4 4
    if first ≥ 8192 then badParam s c 32
    else
      let bytes := (List.range count).flatMap fun i => slotBytes s.log ((first + i) % 8192)
      finish (s.hostWrite (c.p 8 8) bytes) c stOk count) s)

/-- LOG_THAW (R455, 12 R301). -/
def execLogThaw (ring seq : Nat) (s : State) : Host.Outcome State Fault Refusal :=
  .next (onReady 0xA2 ring seq (fun c s =>
    if s.log.frozen then
      let n := s.log.lostFrozen
      finish (s.updLog fun l => { l with frozen := false, lostFrozen := 0 }) c stOk n
    else finish s c stOk 0) s)

/-- The erasure of R459 and the LOG_CLEARED record. -/
def clearLog (d : Dev) (l : Mantel) : Mantel :=
  let l := closeRec l
  let n := (l.flash.filter fun e => e.2.valid).length + l.ram.length
  let newest := match l.ram.getLast? with
    | some r => r.seq
    | none => if n = 0 then (l.nextSeq + 2 ^ 32 - 1) % 2 ^ 32 else l.newestSeq
  let r : LogRec :=
    { opSec := d.opSec, pwrCycle := d.pwrCycles, domain := 0xF, code := 0x9001, count := 1, seq := l.nextSeq,
      data := evData [(n, 4), (newest, 4)], lastSec := d.opSec, deferred := false, valid := true }
  flashRec { l with flash := [], ram := [], openRec := none, nextSeq := (l.nextSeq + 1) % 2 ^ 32 } r

/-- LOG_CLEAR (R458, R459, 12 R301). -/
def execLogClear (ring seq : Nat) (s : State) : Host.Outcome State Fault Refusal :=
  .next (onReady 0xA3 ring seq (fun c s =>
    if s.log.frozen ∨ s.log.wrong ≥ 8 then finish s c stNotPermitted 0
    else
      match s.log.clearCode with
      | none => finish s c stNotPermitted 0
      | some code =>
        if c.p 0 8 = code then finish (s.updLog (clearLog s.dev)) c stOk 0
        else finish (s.updLog fun l => { l with wrong := l.wrong + 1 }) c stNotPermitted 0) s)

/-- VIO is good (18_power R421). -/
def vioGood (s : State) : Bool := match s.pwr.rails[0]? with | none => false | some r => r.good

/-- LOG_DATA_READ (21 R472, R473): an SMBus block (byte count, then data): the slot at LOG_INDEX, which advances; a byte
count of 0 when VIO is not good. -/
def execLogDataRead (s : State) : Host.Outcome State Fault Refusal :=
  .next (if !s.pwr.aux then s
    else if vioGood s then
      let b := leNat (natLe 1 32 ++ slotBytes s.log s.host.logIndex)
      (s.reply b).updHost fun h => { h with logIndex := (h.logIndex + 1) % 8192 }
    else s.reply 0)

end Sys2Proof.Machine
end

