-- ==== Sys2Proof/Machine/Test.lean ====
section
/-! DEFINITION. The sweep and SELF_TEST (16_faults R391 to R397; 12_graec_commands R300). -/

namespace Sys2Proof.Machine

/-! ## The sweep (R391 to R395) -/

/-- The sweep may run (R394). -/
def sweepRuns (s : State) : Bool :=
  clocked s && (s.dev.st == .maintenance || s.dev.st == .service) && s.cal.run.isNone && s.test.isNone

/-- Rows of group 16. -/
def group16 (s : State) (array : Nat) : List (Nat × Nat) := (List.range 64).map fun r => (1024 + r, rowOf s array (1024 + r))

/-- The activation bits of slot `i` of an array round: bit-plane `i / 2`, half `i % 2` of group 16. -/
def sweepBitsOf (s : State) (array round i : Nat) : Nat :=
  let t := array / 4
  Config.sweepActs s.sweep.seed (min t (partnerTile t)) (array % 4) round (i / 2) % 2 ^ 64

/-- A failed set of a sweep slot is of the data class when a converted data level is not the true one or a data conversion was late or
out of range, and else of the tally class (03_arrays R73, R83). -/
def sweepFailData (s : State) (array acts h set : Nat) (cs : List Conv) : Bool :=
  (setData cs set).any (·.bad) || (setData cs set).map (·.level) != trueLevels (group16 s array) acts h set

/-- Slot `i` of an array round: 16 set checks that count like any others (03_arrays R69, R83, R89). The Bool tells whether every set
passes. -/
def sweepSlot (s : State) (array round i : Nat) (devs : List ConvDev) : State × Bool :=
  let s := closeIfFull s array
  let acts := sweepBitsOf s array round i
  let cs := slotConvs (s.arr array) (takeover s array) devs (group16 s array) acts (i % 2)
  let fails := failedSets cs
  let data := fails.filter fun k => sweepFailData s array acts (i % 2) k cs
  let tally := fails.length - data.length
  (s.updArr array fun a =>
    { countSlot a cs with
      wFails := a.wFails + fails.length, wTally := a.wTally + tally, mmData := a.mmData + data.length, mmTally := a.mmTally + tally },
    fails.isEmpty)

/-- The slots of an array round, up to the one in which a set fails (log entry 132) or the one service takes; the Bool tells whether the
round is complete. -/
def sweepSlots (s : State) (array round slots : Nat) (devs : List (Nat × ConvDev)) : State × Bool :=
  (List.range (min slots 16)).foldl (fun (st : State × Bool) i =>
    if st.2 then sweepSlot st.1 array round i ((devs.filter fun d => d.1 == i).map (·.2)) else st) (s, decide (16 ≤ slots))

/-- The resources of a unit are idle (R394; 06_flue_path R142): the array fires nothing, the tile is between executions, the engine's
queues are empty; an engine may run one claimed round between two jobs (R395). -/
def unitIdle (s : State) (kind unit : Nat) : Bool :=
  match kind with
  | 0 => heldBack (s.tile (unit / 4)) ||
      (s.tile (unit / 4)).fires.all fun e => e.2.elim true fun f => !(f.running && f.arrays.contains (unit % 4))
  | 1 => (s.tile unit).exec.isNone
  | _ =>
    let f := s.flue unit
    (f.qRec.isEmpty && f.qOut.isEmpty && f.qDel.isEmpty) || (decide (0 < f.owed) && !f.claimed)

/-- A round is complete: the unit holds its digest and sends it to the partner as background traffic (R392). -/
def endRound (s : State) (kind unit digest : Nat) : State :=
  let r := roundsOf s kind unit
  let s := countRound (setDigest s kind unit r (digest % 2 ^ 32 + 1)) kind unit
  let s := if kind = 2 then s.updFlue unit fun f => { f with owed := f.owed - 1, claimed := decide (0 < f.owed) } else s
  sendFlit s (.digest kind (partnerOf kind unit) r (digest % 2 ^ 32))

/-- SWEEP_ROUND (R392, R394): a round uses idle resources only, and a unit that is four rounds ahead of its partner pauses. An array
round that a failed set voids, or that service interrupts after `slots` slots, restarts from its beginning. -/
def execSweepRound (kind unit slots : Nat) (devs : List (Nat × ConvDev)) (digest : Nat) (s : State) :
    Host.Outcome State Fault Refusal :=
  .next (if !sweepRuns s || decide (unit ≥ unitCount kind) || !unitIdle s kind unit ||
      decide (roundsOf s kind unit ≥ roundsOf s kind (partnerOf kind unit) + 4) then s
    else if kind = 0 then
      let (s, ok) := sweepSlots s unit (roundsOf s kind unit) slots devs
      if ok && s.dev.st != .failed then endRound s kind unit digest else s
    else if slots < 16 then s
    else endRound s kind unit digest)

/-- A confirmed mismatch (R393): SWEEP_FAIL with both units, then FAILED. -/
def sweepFail (s : State) (kind unit round : Nat) : State :=
  let p := partnerOf kind unit
  let s := logEvent s 0x4006 3 (evData [(kind, 1), (0, 1), (min unit p, 2), (max unit p, 2), (round, 2)])
  enterFailed s 3 0x4006 unit 0

/-- The first digest under way to a unit: its round, its value and its flit. -/
def nextDigest (s : State) (kind unit : Nat) : Option (Nat × Nat × Flit) :=
  s.flits.findSome? fun f =>
    match f with
    | .digest k u r d => if k = kind ∧ u = unit then some (r, d, f) else none
    | _ => none

/-- The pair's digests of a round are dropped. -/
def dropDigests (s : State) (kind unit round : Nat) : State :=
  setDigest (setDigest s kind unit round 0) kind (partnerOf kind unit) round 0

/-- The digests of a round differ (R393): both partners run it twice again; reruns that agree are a transient. -/
def digestsDiffer (s : State) (kind unit round : Nat) (rerunsAgree : Bool) : State :=
  let s := s.updSweep fun w => { w with lastUnit := unit, lastKind := kind }
  let s := raiseErr s { domain := 3, code := 0x4006, unit := unit, detail := 0, act := .elsewhere }
  if s.dev.st = .failed then s
  else if rerunsAgree then s.updSweep fun w => { w with transients := w.transients + 1 }
  else sweepFail s kind unit round

/-- SWEEP_DIGEST (R392, R393; 01_machine R20): the next digest under way to a unit that has run its round arrives, when no service flit
contends with it; the pair's digests of the round are compared and dropped. -/
def execSweepDigest (kind unit : Nat) (rerunsAgree : Bool) (s : State) : Host.Outcome State Fault Refusal :=
  .next (match nextDigest s kind unit with
    | none => s
    | some (r, d, f) =>
      if !sweepRuns s || !mayArrive s f || decide (roundsOf s kind unit ≤ r) then s
      else
        let held := digestOf s kind unit r
        let s := dropDigests { s with flits := s.flits.erase f } kind unit r
        if held = 0 ∨ held = d + 1 then s else digestsDiffer s kind unit r rerunsAgree)

/-- The rounds all units lack of 64 in the sub-interval that ends. -/
def lacking (s : State) : Nat :=
  let held : Nat :=
    ((s.arrs.map fun e => e.2.elim 0 fun a => min 64 a.subRounds).sum) + ((s.sweep.logicSub.map fun e => min 64 e.2).sum) +
      ((s.flues.map fun e => e.2.elim 0 fun f => min 64 f.subRounds).sum)
  64 * (20480 + 5120 + 128) - held

/-- SWEEP_SUBINTERVAL (R395): the missing rounds are claimed and counted; 64 sub-intervals make a cycle. -/
def execSweepSubinterval (s : State) : Host.Outcome State Fault Refusal :=
  .next (if !sweepRuns s then s
    else
      let n := lacking s
      let s := s.arrs.foldl (fun s e => s.updArr e.1 fun a => { a with subRounds := 0 }) s
      let s := (List.range 128).foldl (fun s e => s.updFlue e fun f => { f with owed := 64 - min 64 f.subRounds, subRounds := 0 }) s
      s.updSweep fun w => { w with
        forced := sat 32 (w.forced + n), logicSub := [], subs := (w.subs + 1) % 64,
        cycles := if w.subs + 1 ≥ 64 then sat 32 (w.cycles + 1) else w.cycles })

/-- SWEEP_CONFIG (R300): a new seed rewrites group 16 of every array, unless a CAL_RUN holds it. -/
def execSweepConfig (ring seq : Nat) (s : State) : Host.Outcome State Fault Refusal :=
  .next (onReady 0x81 ring seq (fun c s =>
    match s.test, if s.cal.group16 then s.cal.run else none with
    | some t, _ => finish s c stBusyTesting (t.sched.remain s.dev.now)
    | none, some r => finish s c stBusy (r.sched.remain s.dev.now)
    | none, none => finish (s.updSweep fun w => { w with seed := c.p 0 8, duty := c.p 8 2 }) c stOk 0) s)

/-! ## SELF_TEST (R396, R397) -/

/-- SELF_TEST (R396). -/
def execSelfTest (ring seq : Nat) (s : State) : Host.Outcome State Fault Refusal :=
  .next (onReady 0x80 ring seq (fun c s =>
    match s.test, s.cal.run with
    | some t, _ => finish s c stBusyTesting (t.sched.remain s.dev.now)
    | none, some r => finish s c stBusy (r.sched.remain s.dev.now)
    | none, none =>
      if s.dev.st ≠ .maintenance then finish s c stNotPermitted 0
      else
        let t : SelfTest :=
          { ring := ring, seq := seq, sched := Sched.start s.dev.now (capW s.thm) 0 32000000000, done1 := 0, done2 := 0, done3 := 0,
            done4 := 0, done5 := 0, done6 := 0 }
        acceptLong { s with test := some t } { c with phase := .running }) s)

/-- Arrays whose phases 1 to 3 have ended (R397). -/
def SelfTest.arrays (t : SelfTest) : Nat := min (min t.done1 t.done2) (min t.done3 20480)

/-- The units of a phase: the third covers the arrays, the tiles and the flue engines in turn. -/
def phaseUnits (p : Nat) : Nat :=
  match p with | 1 => 20480 | 2 => 20480 | 3 => 25728 | 4 => 5120 | 5 => 1 | 6 => 1 | _ => 0

/-- Units that have ended a phase. -/
def SelfTest.doneOf (t : SelfTest) (p : Nat) : Nat :=
  match p with | 1 => t.done1 | 2 => t.done2 | 3 => t.done3 | 4 => t.done4 | 5 => t.done5 | _ => t.done6

/-- One more unit ends a phase. -/
def SelfTest.bump (t : SelfTest) (p : Nat) : SelfTest :=
  match p with
  | 1 => { t with done1 := t.done1 + 1 }
  | 2 => { t with done2 := t.done2 + 1 }
  | 3 => { t with done3 := t.done3 + 1 }
  | 4 => { t with done4 := t.done4 + 1 }
  | 5 => { t with done5 := t.done5 + 1 }
  | _ => { t with done6 := t.done6 + 1 }

/-- Every phase has ended in every unit. -/
def SelfTest.over_ (t : SelfTest) : Bool := [1, 2, 3, 4, 5, 6].all fun p => decide (t.doneOf p ≥ phaseUnits p)

/-- An array holds weights of a context. -/
def loadedArray (s : State) (array : Nat) : Bool := (s.tile (array / 4)).ctx.isSome

/-- Phase 1 leaves the rows of every array that holds no context at 0; an abort leaves them as before the test
(12_graec_commands R308), so they change when the test completes. -/
def marchArrays (s : State) : State :=
  { s with cells := s.cells.filter fun e => loadedArray s (e.1 / 1024) }

/-- The data rows of a loaded array that differ from the golden copy, with the cells read: those that are stored so, and the one the
read reports. -/
def differing (s : State) (array : Nat) (found : TestFinding) : List (Nat × Nat) :=
  let held := ((List.range 1024).filter fun r => decide (dataBits (rowOf s array r) ≠ goldOf s array r)).map fun r => (r, rowOf s array r)
  match found with
  | .rowDiffers r cells =>
    if r < 1024 ∧ dataBits cells ≠ goldOf s array r then (r, cells) :: held.filter fun e => e.1 != r else held
  | _ => held

/-- Phase 1 on a loaded array: rows that differ from the golden copy are repaired, SOURCE 4. -/
def goldCompare (s : State) (array : Nat) (found : TestFinding) : State :=
  ((differing s array found).foldl (fun (st : State × Bool) r =>
    if st.2 then repairRow st.1 array r.1 4 r.2 none else st) (s, true)).1

/-- A test finds a fault that fails the device; the manual names no event as its cause (log entry 21). -/
def testFault (s : State) (domain unit : Nat) : State :=
  raiseErr s { domain := domain, code := s.openAt 9 % 2 ^ 16, unit := unit, detail := s.openAt 10 % 2 ^ 16, act := .fatal }

/-- What a phase does in a unit (R396). -/
def phaseEffect (s : State) (phase unit : Nat) (found : TestFinding) : State :=
  let bad := decide (found = .fault)
  match phase with
  | 1 => if loadedArray s unit then goldCompare s unit found else if bad then testFault s 3 unit else s
  | 2 =>
    let s := advanceSeq s (65 * 2048)
    match found with
    | .wrongLevels _ n => if 8 ≤ n then testFault s 3 unit else s
    | .fault => testFault s 3 unit
    | _ => s
  | 3 =>
    if !bad then s
    else if unit < 20480 then sweepFail s 0 unit (s.arr unit).round
    else if unit < 25600 then sweepFail s 1 (unit - 20480) (nat s.sweep.logicRound (unit - 20480))
    else sweepFail s 2 (unit - 25600) (s.flue (unit - 25600)).round
  | 4 => if bad then testFault s 5 unit else s
  | _ => s

/-- SELF_TEST_PHASE_END (R396, R397): the phases run unit by unit in ascending order, the second and the third of a unit behind the
one before it; after the last of all the test completes. -/
def execSelfTestPhaseEnd (phase unit : Nat) (found : TestFinding) (s : State) : Host.Outcome State Fault Refusal :=
  .next (match s.test with
    | none => s
    | some t =>
      let behind := decide ((phase = 2 ∧ t.done1 ≤ unit) ∨ (phase = 3 ∧ t.done2 ≤ min unit 20479))
      if !clocked s || decide (phase = 0 ∨ phase > 6) || decide (unit ≠ t.doneOf phase ∨ unit ≥ phaseUnits phase) || behind then s
      else
        let t := t.bump phase
        let s : State := { s with test := some t }
        let s := match findCmd s t.ring t.seq with
          | none => s
          | some c => putCmd s { c with position := t.arrays, progress := 1000 * t.arrays / 20480 }
        let s := phaseEffect s phase unit found
        if s.dev.st = .failed || !t.over_ then s
        else
          let s := marchArrays { s with test := none }
          match findCmd s t.ring t.seq with | none => s | some c => finish s c stOk 20480)

/-- An aborted SELF_TEST ends where it stands; repairs made stay (R397). -/
def abortTest (s : State) : State := { s with test := none }

end Sys2Proof.Machine
end

