-- ==== Sys2Proof/Machine/Rings.lean ====
section
/-! DEFINITION. Submission rings (11_graec_rings R251 to R279): consumption of packets and the order of checks of
12_graec_commands R283, fences, IN_PROGRESS records, interrupts, and the commands of sessions and rings. -/

namespace Sys2Proof.Machine

/-! ## Interrupts (R267) -/

/-- MSIX_COALESCE (R267): the records posted within a ring's microsecond share one interrupt; a ring that is to be destroyed may go then. -/
def execMsixCoalesce (ring : Nat) (s : State) : Host.Outcome State Fault Refusal :=
  .next (match look s.rings ring with
    | none => s
    | some q =>
      if clocked s && (q.lastIrq.elim true fun t => decide (s.dev.now ≥ t + 100)) then reap (raiseIrq s ring) ring else s)

/-! ## The order of checks (12_graec_commands R283) -/

/-- What the checks leave of a command. -/
inductive Gate where
  | stop (status result0 : Nat)
  | ready
  | wake
  deriving DecidableEq, Repr

/-- STATE_SET is taking the device from SERVICE to MAINTENANCE (R302). -/
def leavingService (s : State) : Bool := s.cmds.any fun c => c.pkt.opc == 0xB1 && decide (c.phase = .draining)

/-- A command of the REQ_OPEN row or REPLAY. -/
def isService (opc : Nat) : Bool := decide (rowOfOpc opc = .reqOpen ∨ rowOfOpc opc = .replay)

/-- While SELF_TEST runs (R285). -/
def testGate (s : State) (opc : Nat) : Option (Nat × Nat) :=
  match s.test with
  | none => none
  | some t =>
    match rowOfOpc opc with
    | .reqOpen => some (stNotInService, 0)
    | .ctxRow | .calRun | .calCommit => some (stBusyTesting, t.sched.remain s.dev.now)
    | _ => none

/-- The context a packet acts on through its CTX or its request. -/
def gateCtx (s : State) (p : Packet) : Option Nat :=
  if namesReq p.opc then (findReq s p.req).map (·.ctx) else if namesCtx p.opc then some p.ctx else none

/-- The lowest role that is fenced and not adopted. -/
def firstFenced (s : State) : Option Nat := (s.chim.fenced.find? fun e => e.2.isSome).map (·.1)

/-- Steps 2 and 3 of R283. -/
def gateEarly (s : State) (c : Cmd) : Option (Nat × Nat) :=
  let session := (s.fn c.fn).session
  if s.dev.st = .failed then some (stDevFailed, 0)
  else if c.pkt.opc ≠ 0x01 ∧ (session = 0 ∨ c.pkt.ver ≠ session) then some (stBadVersion, 256 * (regVer % 65536))
  else none

/-- Step 7: CTX must be a context of the function, REQ an open request that no consumed REQ_CLOSE or REQ_CANCEL names, in the
context CTX names if it names one (log entry 26). -/
def handlesOk (s : State) (c : Cmd) : Bool :=
  let p := c.pkt
  if namesReq p.opc then
    (findReq s p.req).elim false fun r => !r.closing && (p.ctx == noCtx || p.ctx == r.ctx)
  else if namesCtx p.opc then (look s.ctxs p.ctx).elim false fun x => x.fn == c.fn
  else true

/-- Steps 4 to 8 of R283, and what R302, R285, 14_chimney R363 and 15_determinism R378 add. -/
def gateLate (s : State) (c : Cmd) : Gate :=
  let p := c.pkt
  let session := (s.fn c.fn).session
  let ringOk : Bool := match ringRule p.opc with
    | .any => true
    | .admin => (look s.rings c.ring).elim false (·.isAdmin)
    | .zero => c.ring == 0
  if !assigned p.opc || (p.opc != 0x01 && absentIn session p.opc) then .stop stBadOpcode 0
  else if !ringOk then .stop stNotPermitted 0
  else match packetBad s c.fn session p with
    | some o => .stop stBadParam o
    | none =>
      if !handlesOk s c then .stop stBadHandle 0
      else match acceptIn s.dev.st p.opc with
        | .no st => .stop st 0
        | .wake => .wake
        | .yes =>
          match testGate s p.opc with
          | some e => .stop e.1 e.2
          | none =>
            if isService p.opc && leavingService s then .stop stNotInService 0
            else match (gateCtx s p).bind fun k => look s.ctxs k with
              | none => .ready
              | some x =>
                if x.replay.isSome then .stop stNotPermitted 0
                else match firstFenced s with
                  | none => .ready
                  | some role =>
                    if x.chimney && isCrown s && !(decide (0x44 ≤ p.opc ∧ p.opc ≤ 0x46)) then .stop stPeerLost role else .ready

/-- From its consumption a REQ_CLOSE or REQ_CANCEL closes its request to later commands (R296), where it can act on it (R263,
07_attention R182). -/
def markClosing (s : State) (c : Cmd) : State :=
  if c.pkt.opc = 0x44 ∨ c.pkt.opc = 0x45 then
    s.updReq (reqSlot c.pkt.req) fun r =>
      if r.ring = c.ring ∧ (c.pkt.opc = 0x44 ∨ r.boundBy.isNone) then { r with closing := true } else r
  else s

/-- Evaluate an outstanding command: it ends with the status of the first step that gives one, or goes on. -/
def evaluate (s : State) (c : Cmd) : State :=
  match gateLate s c with
  | .stop st r => finish s c st r
  | .ready => markClosing (putCmd s { c with phase := .ready }) c
  | .wake => (markClosing (putCmd s { c with phase := .waking }) c).updDev fun d => { d with wake := true }

/-! ## Consumption (R258, R266, R271, R272, R274) -/

/-- Commands outstanding on rings other than admin rings (R272). -/
def outOrdinary (s : State) : Nat :=
  (s.cmds.filter fun c => !c.replay && (look s.rings c.ring).elim false fun q => !q.isAdmin).length

/-- The control cores consume packets in this state of the device. -/
def consuming (s : State) : Bool :=
  clocked s && (match s.dev.st with | .cold | .hold | .boot => false | _ => true)

/-- A ring has a packet waiting that R266 and R271 let the device consume. -/
def mayConsume (s : State) (ring : Nat) (q : Ring) : Bool :=
  !q.stopped && !q.destroying && q.head != q.tail && decide (q.unret + outOn s ring < q.entries) && decide (outOn s ring < 256)

/-- A packet as a new outstanding command. -/
def newCmd (s : State) (ring fn : Nat) (p : Packet) (phase : Phase) : Cmd :=
  { ring := ring, pkt := p, fn := fn, order := s.orderCtr, consumedAt := s.dev.now, phase := phase, progress := 0, position := 0,
    lastInProg := 0, lastProg := 0, total := 0, dispatched := 0, ended := 0, admitted := 0, bound := [], cands := [], token := 0,
    zeroBlock := false, cancelled := false, replay := false, draftDepth := 0, aborts := 0 }

/-- A command joins the outstanding ones. -/
def addCmd (s : State) (c : Cmd) : State := { s with cmds := s.cmds ++ [c], orderCtr := s.orderCtr + 1 }

/-- A final record that no window keeps: of a packet that is not new. -/
def rejectSeq (s : State) (ring : Nat) (p : Packet) (status result0 : Nat) : State :=
  postRec s ring true p.notify
    { seq := p.seq, status := status, progress := if isLong p then 0 else 0xFFFF, tag := p.tag, result0 := result0, result1 := 0 }

/-- A new packet (R274): it waits behind a fence, or is evaluated. -/
def consumeNew (s : State) (ring : Nat) (q : Ring) (p : Packet) : State :=
  let s := s.updRing ring fun r => { r with next := (r.next + 1) % 2 ^ 32 }
  let earlier := s.cmds.filter fun d => d.ring == ring
  let c := newCmd s ring q.fn p .fenced
  let s := addCmd s c
  match gateEarly s c with
  | some e => finish s c e.1 e.2
  | none =>
    if (p.fence && !earlier.isEmpty) || earlier.any (fun d => decide (d.phase = .fenced)) then s
    else evaluate s c

/-- A duplicate (R275): a copy of the stored record, at once or after the original's. -/
def consumeDup (s : State) (ring : Nat) (q : Ring) (p : Packet) : State :=
  match findCmd s ring p.seq with
  | some _ => addCmd s (newCmd s ring q.fn p (.dupOf ring p.seq))
  | none =>
    match q.window.find? fun r => r.seq == p.seq with
    | some r => postRec s ring true p.notify (dupRec (s.fn q.fn).session p r)
    | none => rejectSeq s ring p stStaleSeq 0

/-- Consume the packet at the head of a ring: the head is written back before any record of the packet (R258), then its SEQ is
classed (R274). -/
def consume (s : State) (ring : Nat) (q : Ring) : State :=
  let p := packetOf (s.hostRead (q.sq + 256 * q.head) 256)
  let head := (q.head + 1) % q.slots
  let s := s.setRing ring (some { q with head := head })
  let s : State := if q.isAdmin then s else { s.hostWrite q.headAddr (natLe 4 head) with lastServed := ring }
  let d := (p.seq + 2 ^ 32 - q.next) % 2 ^ 32
  if d = 0 then consumeNew s ring q p
  else if d ≥ 2 ^ 32 - 256 then consumeDup s ring q p
  else if d ≥ 2 ^ 31 then rejectSeq s ring p stStaleSeq 0
  else rejectSeq s ring p stBadParam 4

/-- At the device limit the device stops consuming from every ring but the admin rings (R272). -/
def atLimit (s : State) : State := if outOrdinary s ≥ 65536 then { s with paused := true } else s

/-- PACKET_CONSUME (R258). -/
def execPacketConsume (ring : Nat) (s : State) : Host.Outcome State Fault Refusal :=
  .next (match look s.rings ring with
    | none => s
    | some q =>
      if consuming s && mayConsume s ring q && (q.isAdmin || !s.paused) then atLimit (consume s ring q) else s)

/-- The ordinary rings with a packet to consume, in ascending order. -/
def resumable (s : State) : List Nat :=
  s.rings.filterMap fun e => e.2.bind fun q => if !q.isAdmin && mayConsume s e.1 q then some e.1 else none

/-- CONSUMPTION_RESUME (R272): below the limit the next ring in ascending number after the last one served is consumed from; when
none has a packet waiting the pause is over. -/
def execConsumptionResume (s : State) : Host.Outcome State Fault Refusal :=
  .next (if !consuming s || !s.paused || decide (outOrdinary s ≥ 65536) then s
    else
      let l := resumable s
      match ((l.filter fun r => decide (r > s.lastServed)) ++ l).head? with
      | none => { s with paused := false }
      | some r => match look s.rings r with | none => s | some q => consume s r q)

/-! ## Fences (R264) -/

/-- Later commands of a ring that waited behind a fence start, up to the next fence. -/
def releaseBehind (ring : Nat) : List Cmd → State → State
  | [], s => s
  | c :: l, s => if c.pkt.fence then s else releaseBehind ring l (evaluate s c)

/-- FENCE_START (R264): every earlier command of the ring has posted its final record. -/
def execFenceStart (ring seq : Nat) (s : State) : Host.Outcome State Fault Refusal :=
  .next (match findCmd s ring seq with
    | none => s
    | some c =>
      if !consuming s || c.phase ≠ .fenced || s.cmds.any fun d => d.ring == ring && decide (d.order < c.order) then s
      else
        let later := s.cmds.filter fun d => d.ring == ring && decide (d.order > c.order) && decide (d.phase = .fenced)
        releaseBehind ring later (evaluate s c))

/-! ## IN_PROGRESS (R277) -/

/-- A long operation has reached a progress and a position: CAL_RUN and SELF_TEST know theirs, of the others the outside tells. -/
def reached (s : State) (c : Cmd) (progress position : Nat) : State :=
  match c.pkt.opc with
  | 0x70 => refreshCal s
  | 0x80 => s
  | 0x41 => s
  | _ => if c.progress ≤ progress ∧ progress ≤ 1000 then putCmd s { c with progress := progress, position := position } else s

/-- IN_PROGRESS_POST (R277): PROGRESS has risen by 50 or more and 100 ms have passed since the last record. -/
def execInProgressPost (ring seq progress position : Nat) (s : State) : Host.Outcome State Fault Refusal :=
  .next (match findCmd s ring seq with
    | none => s
    | some c =>
      if !clocked s || !isLong c.pkt || !(match c.phase with | .running | .leaving | .chunkWait _ => true | _ => false) then s
      else
        let s := reached s c progress position
        match findCmd s ring seq with
        | none => s
        | some c =>
          if c.progress < c.lastProg + 50 ∨ s.dev.now < c.lastInProg + 10000000 then s
          else
            let c := { c with lastProg := c.progress, lastInProg := s.dev.now }
            postProgress (putCmd s c) c)

/-! ## Sessions (R268, R286) -/

/-- HELLO (R268): the highest version of both ranges; a HELLO that fails leaves no session (DEDUCED, log entry 44). -/
def execHello (ring seq : Nat) (s : State) : Host.Outcome State Fault Refusal :=
  .next (onReady 0x01 ring seq (fun c s =>
    let range := regVer % 65536
    let v := min (c.p 1 1) 0x13
    if othersOfFn s c ≠ 0 then
      let (k, s) := s.draw
      finish s c stBusy (Config.retryNs 0x01 k)
    else if v < max (c.p 0 1) 0x10 then
      finish (s.updFn c.fn fun f => { f with session := 0 }) c stBadVersion (256 * range)
    else finish (s.updFn c.fn fun f => { f with session := v }) c stOk (v + 256 * range)) s)

/-- GOODBYE completes once no other command of the function is outstanding, and ends the session (R286). -/
def endGoodbye (s : State) (c : Cmd) : State :=
  if othersOfFn s c ≠ 0 then s else (finish s c stOk 0).updFn c.fn fun f => { f with session := 0 }

/-- GOODBYE (R286). -/
def execGoodbye (ring seq : Nat) (s : State) : Host.Outcome State Fault Refusal :=
  .next (onReady 0x02 ring seq (fun c s => endGoodbye (putCmd s { c with phase := .draining }) c) s)

/-! ## Rings (R252, R254 to R256) -/

/-- RING_CREATE (R255). -/
def execRingCreate (ring seq : Nat) (s : State) : Host.Outcome State Fault Refusal :=
  .next (onReady 0x10 ring seq (fun c s =>
    let r := c.p 0 4
    if !ownsRing s c.fn r then badParam s c 32
    else if (look s.rings r).isSome then finish s c stNoResource 0
    else
      finish (s.setRing r (some (newRing c.fn (c.p 8 8) (c.p 4 2) (c.p 16 8) (c.p 6 2) (c.p 24 8) (c.p 32 2) false))) c stOk 0) s)

/-- Destroy a ring (R256): consumption stops, requests opened on it are cancelled, and it goes once nothing is outstanding on
it. -/
def destroyRing (s : State) (ring : Nat) : State :=
  let s := s.updRing ring fun q => { q with destroying := true }
  let mine := s.reqs.filterMap fun e => e.2.bind fun r => if r.open_ && r.ring == ring then some (handleOf e.1 r.gen) else none
  reap (mine.foldl (fun s h => cancelReq s h s.orderCtr) s) ring

/-- RING_DESTROY completes once its ring is gone (R256). -/
def endDestroy (s : State) (c : Cmd) : State :=
  match look s.rings (c.p 0 4) with
  | none => finish s c stOk 0
  | some q => if q.destroying then s else finish s c stOk 0

/-- RING_DESTROY (R256); a ring that is not the function's or not created gives BAD_PARAM (DESIGN CHOICE, log entry 45). -/
def execRingDestroy (ring seq : Nat) (s : State) : Host.Outcome State Fault Refusal :=
  .next (onReady 0x11 ring seq (fun c s =>
    match look s.rings (c.p 0 4) with
    | none => badParam s c 32
    | some q =>
      if q.isAdmin then finish s c stNotPermitted 0
      else if q.fn ≠ c.fn then badParam s c 32
      else
        let c := { c with phase := .draining }
        endDestroy (destroyRing (putCmd s c) (c.p 0 4)) c) s)

/-- A range of ring numbers meets a range of another function, or a ring that exists (R252). -/
def rangeTaken (s : State) (first count : Nat) : Bool :=
  (s.fns.any fun e => e.1 != 0 && e.2.elim false fun f => decide (f.first < first + count ∧ first < f.first + f.count)) ||
    s.rings.any fun e => e.2.isSome && decide (first ≤ e.1 ∧ e.1 < first + count)

/-- RING_BIND (R252). -/
def execRingBind (ring seq : Nat) (s : State) : Host.Outcome State Fault Refusal :=
  .next (onReady 0x12 ring seq (fun c s =>
    let vf := c.p 0 1
    let first := c.p 4 4
    let count := c.p 8 4
    let f := s.fn vf
    if count = 0 then
      if f.enable || s.rings.any fun e => e.2.elim false fun q => q.fn == vf then finish s c stNotPermitted 0
      else finish (s.updFn vf fun f => { f with first := 0, count := 0 }) c stOk 0
    else if first = 0 ∨ f.count ≠ 0 ∨ rangeTaken s first count = true then finish s c stNotPermitted 0
    else finish (s.updFn vf fun f => { f with first := first, count := count }) c stOk 0) s)

end Sys2Proof.Machine
end

