-- ==== Sys2Proof/Machine/HostIf.lean ====
section
/-! DEFINITION. The host interface (21_host_interface): doorbells and the doorbell page, register reads and writes, configuration
requests, function resets, the SMBus registers and the link. -/

namespace Sys2Proof.Machine

/-! ## Reaching the device -/

/-- Configuration space is ready (R464): at the latest 300 ms after the start of BOOT (log entry 46). -/
def cfgReady (s : State) : Bool :=
  s.dev.configReady || (s.dev.st == .boot && clocked s && decide (s.dev.now ≥ 30000000))

/-- The host's accesses reach the registers. -/
def reachable (s : State) : Bool := clocked s && s.dev.st != .hold && cfgReady s

/-- A function the host can address: the physical function, or a virtual function that is enabled. -/
def fnUp (s : State) (fn : Nat) : Bool := fn == 0 || (decide (fn ≤ 63) && (s.fn fn).vfEnabled && !s.dev.romOnly)

/-! ## Doorbells (11_graec_rings R259, R260) -/

/-- An ignored doorbell (R260). -/
def ignoreDb (s : State) (fn : Nat) : State := s.updFn fn fun f => { f with dbIgnored := sat 8 (f.dbIgnored + 1) }

/-- A doorbell names a ring of the function with an index below a size and no reserved bits. -/
def dbRing (s : State) (fn ring : Nat) : Option Ring := (look s.rings ring).filter fun q => q.fn == fn

/-- The new submission tail. -/
def ringTail (s : State) (fn ring index resv : Nat) : State :=
  match dbRing s fn ring with
  | none => ignoreDb s fn
  | some q =>
    if resv ≠ 0 ∨ index ≥ q.slots then ignoreDb s fn else s.setRing ring (some { q with tail := index })

/-- The new completion head; returning all entries of a full ring is the forward range of its whole length (log entry 47). -/
def ringHead (s : State) (fn ring index resv : Nat) : State :=
  match dbRing s fn ring with
  | none => ignoreDb s fn
  | some q =>
    let d := (index + q.entries - q.chead) % q.entries
    let n := if d = 0 ∧ q.unret = q.entries then q.entries else d
    if resv ≠ 0 ∨ index ≥ q.entries ∨ n > q.unret then ignoreDb s fn
    else s.setRing ring (some { q with chead := index, unret := q.unret - n })

/-- Host memory as the host leaves it before a doorbell. -/
def hostWrites (s : State) (wr : List (Nat × List Byte)) : State := wr.foldl (fun s e => s.hostWrite e.1 e.2) s

/-- DOORBELL_TAIL (R259, R260), with what the host has made visible in its memory before it. -/
def execDoorbellTail (fn ring index resv : Nat) (wr : List (Nat × List Byte)) (s : State) : Host.Outcome State Fault Refusal :=
  .next (
    let s := hostWrites s wr
    if !reachable s || !fnUp s fn || s.dev.romOnly then s else ringTail s fn ring index resv)

/-- DOORBELL_HEAD (R260). -/
def execDoorbellHead (fn ring index resv : Nat) (s : State) : Host.Outcome State Fault Refusal :=
  .next (if !reachable s || !fnUp s fn || s.dev.romOnly then s else ringHead s fn ring index resv)

/-! ## The admin ring (R253, R254) -/

/-- The fields of a write to ADMIN_CFG. -/
def cfgFields (f : Fn) (v : Nat) : Fn := { f with sqLog2 := bits v 27 24, cqLog2 := bits v 23 20, vector := bits v 10 0 }

/-- ENABLE = 1 (R254): refused for a size outside 4 to 12, a function without rings, or too small a completion ring; a write while
the ring is enabled leaves the ring as it is (DESIGN CHOICE, log entry 48). -/
def adminEnable (s : State) (fn v : Nat) : State :=
  let f := cfgFields (s.fn fn) v
  let ok := decide (4 ≤ f.sqLog2 ∧ f.sqLog2 ≤ 12 ∧ 4 ≤ f.cqLog2 ∧ f.cqLog2 ≤ 12 ∧ f.sqLog2 ≤ f.cqLog2 ∧ f.count ≠ 0)
  if f.enable then s.setFn fn f
  else if ok then startAdmin (s.setFn fn { f with enable := true, cfgErr := false }) fn
  else s.setFn fn { f with cfgErr := true }

/-- Clearing ENABLE (R254): the session ends, and every ring of the function is destroyed, the admin ring last. -/
def clearEnable (s : State) (fn : Nat) : State :=
  let f := s.fn fn
  let s := s.setFn fn { f with enable := false, session := 0 }
  let mine := s.rings.filterMap fun e => e.2.bind fun q => if q.fn = fn then some e.1 else none
  let s : State := mine.foldl (fun s r => s.updRing r fun q => { q with destroying := true }) s
  reap ((mine.filter fun r => r != f.first).foldl destroyRing s |> fun s => if mine.contains f.first then destroyRing s f.first else s)
    f.first

/-- ADMIN_ENABLE (R254): a write of ADMIN_CFG with ENABLE set. -/
def execAdminEnable (fn value : Nat) (s : State) : Host.Outcome State Fault Refusal :=
  .next (if !reachable s || !fnUp s fn || !bit value 31 then s else adminEnable s fn value)

/-- A write of ADMIN_CFG with ENABLE clear. -/
def adminDisable (s : State) (fn v : Nat) : State :=
  let s := s.updFn fn fun f => cfgFields f v
  if (s.fn fn).enable then clearEnable s fn else s

/-- ADMIN_DISABLE (R254). -/
def execAdminDisable (fn value : Nat) (s : State) : Host.Outcome State Fault Refusal :=
  .next (if !reachable s || !fnUp s fn || bit value 31 then s else adminDisable s fn value)

/-! ## Register writes (R467, R469, R472; 11_graec_rings R253, R259) -/

/-- A write of a word of the MSI-X table (R467): bits [31:2] of the fourth word of an entry and bits [1:0] of its first read 0; a
vector unmasked while pending sends its message (PRESUMED, log entry 23). -/
def writeMsix (s : State) (fn word v : Nat) : State :=
  let v := if word % 4 = 3 then v % 2 else if word % 4 = 0 then v % 2 ^ 32 / 4 * 4 else v % 2 ^ 32
  let dflt := if word % 4 = 3 then 1 else 0
  let s := s.updFn fn fun f => { f with msix := put none f.msix word (if v = dflt then none else some v) }
  let vec := word / 4
  if word % 4 = 3 ∧ v = 0 ∧ nat (s.fn fn).pba vec ≠ 0 then
    sendIrq (s.updFn fn fun f => { f with pba := put 0 f.pba vec 0 }) fn vec
  else s

/-- A 4-byte write to BAR0: the W1C bits of ERR_SUMMARY and the MSI-X table are all that can be written. -/
def writeBar0 (s : State) (fn o v : Nat) : State :=
  if o % 4 ≠ 0 then s
  else if fn = 0 then
    if o = 0x18 then s.updErr fun e => { e with seen := e.seen &&& (0x1FF ^^^ v % 512) }
    else if 0x800000 ≤ o ∧ o < 0x808000 then writeMsix s 0 ((o - 0x800000) / 4) v
    else s
  else if 0x8000 ≤ o ∧ o < 0x9000 then writeMsix s fn ((o - 0x8000) / 4) v
  else s

/-- A 4-byte write to a doorbell page; to DOORBELL it is a full write with bits [63:32] zero, to offset 4 it is ignored. -/
def writeBar2 (s : State) (fn o v : Nat) : State :=
  match o with
  | 0x000 => if s.dev.romOnly then s else ringTail s fn (bits v 19 0) (bits v 31 20) 0
  | 0x008 => s.updFn fn fun f => { f with sq := f.sq / 2 ^ 32 * 2 ^ 32 + v % 2 ^ 32 / 4096 * 4096 }
  | 0x00C => s.updFn fn fun f => { f with sq := f.sq % 2 ^ 32 + v % 2 ^ 32 * 2 ^ 32 }
  | 0x010 => s.updFn fn fun f => { f with cq := f.cq / 2 ^ 32 * 2 ^ 32 + v % 2 ^ 32 / 4096 * 4096 }
  | 0x014 => s.updFn fn fun f => { f with cq := f.cq % 2 ^ 32 + v % 2 ^ 32 * 2 ^ 32 }
  | 0x018 => if bit v 31 then adminEnable s fn v else adminDisable s fn v
  | _ => s

/-- The sequencer takes SSC_CFG (R474) and writes it to flash once VIO is good; it takes effect under 17_clocks R406. -/
def writeSsc (s : State) (v : Nat) : State :=
  s.updHost fun h =>
    let h := { h with sscDepth := bits v 3 0, sscRate := bits v 7 4, sscDirty := true }
    if vioGood s then flushSsc h else h

/-- The clear code is stored once, and never read (R475). -/
def writeClearCode (s : State) (code : Nat) : State :=
  if vioGood s && s.log.clearCode.isNone then s.updLog fun l => { l with clearCode := some (code % 2 ^ 64) } else s

/-- An SMBus write of a command code. -/
def writeSmbus (s : State) (cmd v : Nat) : State :=
  match cmd with
  | 0x04 => s.updPwr fun p => { p with latch :=
      { p.latch with fault := p.latch.fault && !bit v 31, recovered := p.latch.recovered && !bit v 30 } }
  | 0x05 => writeSsc s v
  | 0x10 => s.updHost fun h => { h with logIndex := v % 8192 }
  | 0x18 => writeClearCode s v
  | _ => s

/-- REGISTER_WRITE (R469). -/
def execRegisterWrite (t : RegTarget) (value : Nat) (s : State) : Host.Outcome State Fault Refusal :=
  .next (match t with
    | .bar0 fn o => if reachable s && fnUp s fn then writeBar0 s fn o value else s
    | .bar2 fn o => if reachable s && fnUp s fn then writeBar2 s fn o value else s
    | .smbus cmd => if s.pwr.aux then writeSmbus s cmd value else s)

/-- SSC_CFG_WRITE (R474). -/
def execSscCfgWrite (value : Nat) (s : State) : Host.Outcome State Fault Refusal :=
  .next (if s.pwr.aux then writeSsc s value else s)

/-- CLEAR_CODE_WRITE (R475). -/
def execClearCodeWrite (code : Nat) (s : State) : Host.Outcome State Fault Refusal :=
  .next (if s.pwr.aux then writeClearCode s code else s)

/-! ## Register reads (R470) -/

/-- The offset names a register of 32 bits, which has no halves: DAMPER_STEP and POWER_CAP_W (19_thermal R447), and the words of the
MSI-X table. -/
def words32 (fn o : Nat) : Bool :=
  if fn = 0 then decide (o / 8 = 8 ∨ (0x800000 ≤ o ∧ o < 0x808000)) else decide (0x8000 ≤ o ∧ o < 0x9000)

/-- LOW_HALF_READ (R470): the high half is latched in the function's shadow, tagged with the register. -/
def execLowHalfRead (fn offset : Nat) (s : State) : Host.Outcome State Fault Refusal :=
  .next (if !reachable s || !fnUp s fn || decide (offset % 8 ≠ 0) then s
    else
      let v := bar0 s fn offset
      let s := s.reply (v % 2 ^ 32)
      if words32 fn offset then s else s.updFn fn fun f => { f with shadow := some (offset, v / 2 ^ 32) })

/-- HIGH_HALF_READ (R470): the shadow when its tag matches, otherwise the current high half. -/
def execHighHalfRead (fn offset : Nat) (s : State) : Host.Outcome State Fault Refusal :=
  .next (if !reachable s || !fnUp s fn || decide (offset % 8 ≠ 4) then s
    else
      let cur := bar0 s fn (offset - 4) / 2 ^ 32
      match (s.fn fn).shadow with
      | none => s.reply cur
      | some (tag, hi) => s.reply (if tag = offset - 4 ∧ words32 fn offset = false then hi else cur))

/-! ## Configuration space and functions (R462 to R468) -/

/-- An FLR (R468): as clearing ENABLE, and the MSI-X table is reset. -/
def resetFn (s : State) (vf : Nat) : State :=
  let s := if (s.fn vf).enable then clearEnable s vf else s
  s.updFn vf fun f => { f with msix := [], pba := [] }

/-- FLR (R468): on virtual functions only. -/
def execFlr (vf : Nat) (s : State) : Host.Outcome State Fault Refusal :=
  .next (if reachable s && vf != 0 && fnUp s vf then resetFn s vf else s)

/-- VF Enable and NumVFs: a virtual function that goes is reset as by FLR (DESIGN CHOICE, log entry 49). -/
def setVfs (s : State) (n : Nat) : State :=
  (List.range 63).foldl (fun s i =>
    let vf := i + 1
    if vf ≤ n then s.updFn vf fun f => { f with vfEnabled := true }
    else if (s.fn vf).vfEnabled then (resetFn s vf).updFn vf fun f => { f with vfEnabled := false }
    else s) s

/-- CONFIG_REQUEST (R463, R464): Retry Status (2^32) until configuration space is ready; the identity of a function; SR-IOV and
ASPM L1 of the physical function. -/
def execConfigRequest (fn : Nat) (op : CfgOp) (s : State) : Host.Outcome State Fault Refusal :=
  .next (if !clocked s || s.dev.st == .hold then s
    else if !cfgReady s then s.reply (2 ^ 32)
    else if !fnUp s fn then s
    else match op with
      | .readId => s.reply (0x1FD2 + 2 ^ 16 * (if fn = 0 then 0x5120 else 0x5121))
      | .numVfs n => if fn = 0 ∧ n ≤ 63 ∧ s.dev.romOnly = false then setVfs s n else s
      | .aspmL1 on => if fn = 0 then s.updHost fun h => { h with aspmL1 := on } else s)

/-- SMBUS_REFRESH (R473): firmware refreshes the registers the sequencer does not hold itself. -/
def execSmbusRefresh (s : State) : Host.Outcome State Fault Refusal :=
  .next (if clocked s && s.dev.st != .hold && cfgReady s && !s.dev.romOnly then
      s.updHost fun h => { h with
        smbus := [0x00, 0x02, 0x06, 0x07, 0x08, 0x09].foldl (fun m c => put 0 m c (smbusLive s c)) h.smbus }
    else s)

/-- HOST_LINK_RETRAIN (R466): a change of rate or width after the first training is counted and logged. -/
def execHostLinkRetrain (rate width cause : Nat) (s : State) : Host.Outcome State Fault Refusal :=
  .next (
    let h := s.host
    if !clocked s || s.dev.st == .hold || decide (rate < 3 ∨ rate > 6) || !([4, 8, 16].contains width) then s
    else if !h.trained then s.updHost fun h => { h with rate := rate, width := width, trained := true }
    else if rate = h.rate ∧ width = h.width then s
    else
      let s := s.updHost fun h => { h with rate := rate, width := width, retrains := sat 16 (h.retrains + 1) }
      logEvent s 0x7001 7 (evData [(h.rate, 1), (h.width, 1), (rate, 1), (width, 1), (cause % 2, 1)]))

end Sys2Proof.Machine
end

