-- ==== Sys2Proof/Machine/Device.lean ====
section
/-! DEFINITION. The commands that act on the whole device or on other commands (12_graec_commands R302 to R308; 18_power R427 to
R430; 21_host_interface R476 to R479; 15_determinism R375): states, power-down, traces, captures, long operations, firmware. -/

namespace Sys2Proof.Machine

/-! ## States (18_power R427, R428) -/

/-- Outstanding service commands (R302); those that wait behind a fence after the STATE_SET have not started. -/
def serviceLeft (s : State) (c : Cmd) : Bool :=
  s.cmds.any fun d => isService d.pkt.opc && d.order != c.order && !(decide (d.phase = .fenced) && decide (d.order > c.order))

/-- A new TABLE_GIB is kept for the next layout (08_tables_tiers R190). -/
def keepGib (s : State) (gib : Nat) : State := if gib = 0xFFFF then s else s.updKv fun k => { k with tableGibSet := gib }

/-- STATE_SET to MAINTENANCE completes once no service command is outstanding (R302). -/
def endLeave (s : State) (c : Cmd) : State :=
  if serviceLeft s c then s else finish (toMaintenance (keepGib s (c.p 2 2))) c stOk 3

/-- A chimney context is loaded. -/
def anyChimney (s : State) : Bool := s.ctxs.any fun e => e.2.elim false (·.chimney)

/-- The transitions of R427; a new TABLE_GIB with a target other than MAINTENANCE is not listed (DEDUCED, log entry 50). In
DEEP_SLEEP the link is in L1, so that the pilot is not accepted (17_clocks R417). -/
def stateSet (s : State) (c : Cmd) : State :=
  let target := c.p 0 1
  let gib := c.p 2 2
  let fresh := decide (gib ≠ 0xFFFF)
  if s.dev.st.code = target then
    if s.dev.st = .maintenance ∧ fresh = true then
      if anyCtx s then finish s c stNotPermitted 0 else finish (applyLayout (keepGib s gib)) c stOk 3
    else finish s c stOk target
  else if fresh && (target != 3 || anyCtx s) then finish s c stNotPermitted 0
  else match s.dev.st, target with
    | .maintenance, 4 =>
      if s.cal.source = 0 then finish s c stNotPermitted 0
      else match s.cal.run, s.test with
        | some r, _ => finish s c stBusy (r.sched.remain s.dev.now)
        | none, some t => finish s c stBusy (t.sched.remain s.dev.now)
        | none, none => finish (goState s .service) c stOk 4
    | .service, 3 => let c := { c with phase := .draining }; endLeave (putCmd s c) c
    | .service, 5 | .service, 6 =>
      if anyChimney s || (target == 6 && !s.host.aspmL1) then finish s c stNotPermitted 0
      else if s.cmds.any fun d => d.order != c.order then finish s c stBusy 100000
      else if target = 5 then finish (goState s .sleep) c stOk target
      else leaveL0 (finish (goState s .deepSleep) c stOk target)
    | .sleep, 3 | .sleep, 4 | .deepSleep, 3 | .deepSleep, 4 =>
      (putCmd s { c with phase := .waking }).updDev fun d => { d with wake := true }
    | _, _ => finish s c stNotPermitted 0

/-- STATE_SET (R427). -/
def execStateSet (ring seq : Nat) (s : State) : Host.Outcome State Fault Refusal :=
  .next (onReady 0xB1 ring seq (fun c s => stateSet s c) s)

/-- WAKE (R428): SERVICE is reached, and every command that waited for it is ready to execute. -/
def execWake (s : State) : Host.Outcome State Fault Refusal :=
  .next (if clocked s && s.dev.wake && (s.dev.st == .sleep || s.dev.st == .deepSleep) then
      let s := goState s .service
      let s := s.updDev fun d => { d with wake := false }
      { s with cmds := s.cmds.map fun c => if c.phase = .waking then { c with phase := .ready } else c }
    else s)

/-! ## POWER_DOWN (R302; 18_power R430) -/

/-- POWER_DOWN posts its record once no other command is outstanding; the log goes to flash, the clocks stop, the rails go down. -/
def endPower (s : State) (c : Cmd) : State :=
  if s.cmds.any fun d => d.order != c.order then s
  else (beginDown (flushLog (raiseAll (finish s c stOk 0)))).updPwr fun p => { p with blocked := true }

/-- POWER_DOWN (R302): consumption stops on every ring. -/
def execPowerDown (ring seq : Nat) (s : State) : Host.Outcome State Fault Refusal :=
  .next (onReady 0xB2 ring seq (fun c s =>
    if s.dev.st ≠ .maintenance then finish s c stNotPermitted 0
    else
      let s : State := { s with rings := s.rings.map fun e => (e.1, e.2.map fun q => { q with stopped := true }) }
      let c := { c with phase := .draining }
      endPower (putCmd s c) c) s)

/-! ## Long operations (R278, R307, R308) -/

/-- The target of OP_PROGRESS or OP_ABORT, or a status. -/
def opTarget (s : State) (c : Cmd) : Except Nat Cmd :=
  let ring := c.p 0 4
  if !ownsRing s c.fn ring || (look s.rings ring).isNone then .error stBadHandle
  else match findCmd s ring (c.p 4 4) with
    | none => .error stBadHandle
    | some t => if isLong t.pkt then .ok t else .error stNotPermitted

/-- The target as it stands: a CAL_RUN's progress follows its schedule. -/
def refreshed (s : State) (t : Cmd) : State × Cmd :=
  let s := if t.pkt.opc = 0x70 then refreshCal s else s
  (s, (findCmd s t.ring t.pkt.seq).getD t)

/-- OP_PROGRESS (R278). -/
def execOpProgress (ring seq : Nat) (s : State) : Host.Outcome State Fault Refusal :=
  .next (onReady 0xE0 ring seq (fun c s =>
    match opTarget s c with
    | .error st => finish s c st 0
    | .ok t =>
      let (s, t) := refreshed s t
      let c := { c with progress := t.progress }
      finish (putCmd s c) c stOk t.position) s)

/-- Stop a target (R308): it completes with CANCELLED at once, but for a REQ_APPEND with vectors in flight, which run to their
end (09_step_programs R218). -/
def abortOp (s : State) (t : Cmd) : State :=
  let mine (ring seq : Nat) : Bool := ring == t.ring && seq == t.pkt.seq
  match t.pkt.opc with
  | 0x41 =>
    match t.phase with
    | .running | .chunkWait _ =>
      if t.ended < t.dispatched then putCmd s { t with phase := .leaving }
      else
        withdrawn s t
    | .leaving => s
    | _ => if (findReq s t.pkt.req).isSome && reqTurn s t then withdrawn s t else finish s t stCancelled (cancelResult s t)
  | 0x70 =>
    let s := if s.cal.run.elim false fun r => mine r.ring r.seq then abortCal s else s
    finish s t stCancelled t.position
  | 0x80 =>
    let s := if s.test.elim false fun r => mine r.ring r.seq then abortTest s else s
    finish s t stCancelled t.position
  | 0x94 =>
    let s := if s.chim.adopt.elim false fun a => mine a.ring a.seq then abortAdopt s else s
    finish s t stCancelled t.position
  | _ => finish s t stCancelled t.position

/-- The position a target that has ended reached, from its final record. -/
def endedAt (s : State) (c : Cmd) : Nat :=
  ((look s.rings (c.p 0 4)).bind fun q => q.window.find? fun r => r.seq == c.p 4 4).elim 0 fun r => r.result0 % 2 ^ 32

/-- OP_ABORT completes after its target's record. -/
def endAbort (s : State) (c : Cmd) : State :=
  if (findCmd s (c.p 0 4) (c.p 4 4)).isSome then s else finish s c stOk c.position

/-- OP_ABORT (R278, R308). -/
def execOpAbort (ring seq : Nat) (s : State) : Host.Outcome State Fault Refusal :=
  .next (onReady 0xE1 ring seq (fun c s =>
    match opTarget s c with
    | .error st => finish s c st 0
    | .ok t =>
      let (s, t) := refreshed s t
      let c := { c with phase := .draining, position := t.position }
      endAbort (abortOp (putCmd s c) t) c) s)

/-! ## Commands that wait for others (R302) -/

/-- OUTSTANDING_DRAINED: what a waiting command waited for has posted its final record. -/
def execOutstandingDrained (ring seq : Nat) (s : State) : Host.Outcome State Fault Refusal :=
  .next (match findCmd s ring seq with
    | none => s
    | some c =>
      if !clocked s || c.phase ≠ .draining then s
      else match c.pkt.opc with
        | 0x02 => endGoodbye s c
        | 0x11 => endDestroy s c
        | 0x44 => settle s c.pkt.req
        | 0xB1 => endLeave s c
        | 0xB2 => endPower s c
        | 0xE1 => endAbort s { c with position := endedAt s c }
        | _ => s)

/-! ## Traces (R303) -/

/-- TRACE_START: the start is held plus 1, 0 being no open interval. -/
def execTraceStart (ring seq : Nat) (s : State) : Host.Outcome State Fault Refusal :=
  .next (onReady 0xC0 ring seq (fun c s =>
    if nat (s.fn c.fn).traces (c.p 0 2) ≠ 0 then finish s c stNotPermitted 0
    else finish (s.updFn c.fn fun f => { f with traces := put 0 f.traces (c.p 0 2) (s.dev.now + 1) }) c stOk s.dev.now) s)

/-- TRACE_STOP: ORDER without a start, BELOW_RES within one tick. -/
def execTraceStop (ring seq : Nat) (s : State) : Host.Outcome State Fault Refusal :=
  .next (onReady 0xC1 ring seq (fun c s =>
    match nat (s.fn c.fn).traces (c.p 0 2) with
    | 0 => finishW s c stOk 0 8
    | t + 1 =>
      let s := s.updFn c.fn fun f => { f with traces := put 0 f.traces (c.p 0 2) 0 }
      if s.dev.now = t then finishW s c stOk 0 16 else finish s c stOk (s.dev.now - t)) s)

/-! ## Capture (R304; 15_determinism R375, R376) -/

/-- RECORD_START. -/
def execRecordStart (ring seq : Nat) (s : State) : Host.Outcome State Fault Refusal :=
  .next (onReady 0xD0 ring seq (fun c s => onCtx s c fun x =>
    if x.chimney || x.capture.isSome then finish s c stNotPermitted 0
    else
      let k : Capture :=
        { buf := c.p 0 8, len := c.p 8 8, bytes := 128, records := 0, unmarked := 0, truncated := false, ords := [] }
      let s := s.hostWrite k.buf (captureHead s c.pkt.ctx s.dev.now k ++ natLe 64 0)
      finish (s.updCtx c.pkt.ctx fun x => { x with capture := some k }) c stOk 0) s)

/-- RECORD_STOP: the header is brought up to date; on a context that is not recording NOT_PERMITTED (DESIGN CHOICE, log
entry 51). -/
def execRecordStop (ring seq : Nat) (s : State) : Host.Outcome State Fault Refusal :=
  .next (onReady 0xD1 ring seq (fun c s => onCtx s c fun x =>
    match x.capture with
    | none => finish s c stNotPermitted 0
    | some k =>
      let s := s.hostWrite k.buf ((captureHead s c.pkt.ctx 0 k).take 32)
      finish (s.updCtx c.pkt.ctx fun x => { x with capture := none }) c stOk (k.bytes % 2 ^ 40 + 2 ^ 63 * b2n k.truncated)) s)

/-! ## Firmware (R305; 21_host_interface R476 to R479) -/

/-- Set a firmware slot. -/
def setSlot (s : State) (i : Nat) (f : FwSlot) : State :=
  s.updDev fun d => if i = 0 then { d with fwSlot0 := f } else { d with fwSlot1 := f }

/-- The first offending offset of a firmware image (R476, R477). -/
def fwBad (stepping : Nat) (b : List Byte) : Option Nat :=
  let body := field b 8 4
  match firstBad [
      (0, field b 0 4 == 0x49574656), (4, field b 4 1 == 1), (5, decide (field b 5 1 ≤ 6)),
      (6, bit (field b 6 1) (stepping - 0xB0) && decide (field b 6 1 < 4)), (7, field b 7 1 == 0), (8, b.length == 112 + body),
      (12, field b 12 4 == 0)] with
  | some o => some o
  | none => if Config.sigOk b then none else some (16 + body)

/-- FW_STAGE (R305, R477): the slot that does not run is marked invalid, written, and verified. -/
def execFwStage (ring seq : Nat) (s : State) : Host.Outcome State Fault Refusal :=
  .next (onLong 0xF0 ring seq
    (fun c s =>
      if s.cmds.any fun d => d.pkt.opc == 0xF0 && decide (d.phase = .running) then
        let (k, s) := s.draw
        some (finish s c stBusy (Config.retryNs 0xF0 k))
      else
        let s := setSlot s (1 - s.dev.fwRunning) { valid := false, major := 0, minor := 0 }
        let s := s.updDev fun d => { d with fwStaged := none }
        some (acceptLong s { c with phase := .running }))
    (fun c s =>
      let slot := 1 - s.dev.fwRunning
      let b := s.hostRead (c.p 0 8) (c.p 8 8)
      let c := { c with position := b.length }
      match fwBad s.dev.stepping b with
      | some o => badParam (logSigFail s slot 1) c (payloadOff 32 o)
      | none =>
        let s := setSlot s slot { valid := true, major := field b 4 1, minor := field b 5 1 }
        finish (s.updDev fun d => { d with fwStaged := some slot }) c stOk slot) s)

/-- The control cores restart into BOOT (R479): the clocks, the link and the trims stay; the rest is as an entry to BOOT leaves
it. -/
def restartFw (s : State) : State :=
  let r := bootState s
  let r : State := { r with clk := { s.clk with attempt := 0, takeovers := 0, holds := 0, windowFails := 0 } }
  applySsc (goState r .boot)

/-- FW_ACTIVATE (R305, R479). -/
def execFwActivate (ring seq : Nat) (s : State) : Host.Outcome State Fault Refusal :=
  .next (onReady 0xF1 ring seq (fun c s =>
    match s.dev.fwStaged with
    | none => finish s c stNotPermitted 0
    | some slot =>
      if anyCtx s then finish s c stNotPermitted 0
      else
        let s := s.updDev fun d => { d with
          fwSelect := slot, fwActivating := some (d.fwRunning, d.fwMajor, d.fwMinor), fwStaged := none }
        restartFw (raiseAll (finish s c stOk slot))) s)

end Sys2Proof.Machine
end

