-- ==== Sys2Proof/Machine/Replay.lean ====
section
/-! DEFINITION. REPLAY (15_determinism R378, R379; 12_graec_commands R304) and the dispatch boundaries of every kind of context
(13_serving R316; 14_chimney R352, R363). -/

namespace Sys2Proof.Machine

/-! ## Reading a capture (R376) -/

/-- The records from one host address up to another, each with the address of its body. -/
def parseRecs (s : State) (limit : Nat) : Nat → Nat → List (Nat × RepRec)
  | 0, _ => []
  | n + 1, a =>
    let h := s.hostRead a 24
    let len := field h 4 4
    if a + 24 > limit ∨ a + 24 + len > limit then []
    else
      (a + 24, { kind := field h 0 1, phase := field h 1 1, ctile := field h 2 2, disp := field h 8 8, reqOrd := field h 16 4,
                 pos := field h 20 4, body := s.hostRead (a + 24) len }) :: parseRecs s limit n (a + 24 + (len + 7) / 8 * 8)

/-- EXEC records in the order in which they are compared (R379). -/
def execsOf (l : List (Nat × RepRec)) : List RepRec :=
  ((l.map (·.2)).filter fun e => e.kind == 3).mergeSort fun a b => decide (a.disp < b.disp ∨ (a.disp = b.disp ∧ a.ctile ≤ b.ctile))

/-- REPLAY (R378): the buffer header first, then NOT_PERMITTED with an open request, while recording, or on a chimney context
(R304, R376). -/
def execReplay (ring seq : Nat) (s : State) : Host.Outcome State Fault Refusal :=
  .next (onReady 0xD2 ring seq (fun c s => onCtx s c fun x =>
    let buf := c.p 0 8
    let h := s.hostRead buf 128
    match x.image with
    | none => finish s c stNotPermitted 0
    | some i =>
      match firstBad [(0, field h 0 4 == 0x43455256), (4, field h 4 1 == 0x10), (6, field h 6 2 == c.pkt.ctx), (8, field h 8 8 == i.digest)] with
      | some o => badParam s c (payloadOff 32 o)
      | none =>
        if x.chimney || x.capture.isSome || !(reqsOfCtx s c.pkt.ctx).isEmpty then finish s c stNotPermitted 0
        else
          let len := min (field h 16 8) (c.p 8 8)
          let l := parseRecs s (buf + len) (len / 24) (buf + 128)
          let r : Replay :=
            { ring := ring, seq := seq, buf := buf, base := x.dispatched, first := (l.head?.map (·.2.disp)).getD 0, recs := l,
              todo := l.filter fun e => e.2.kind == 1 || e.2.kind == 2, execs := execsOf l, ords := [], nextSeq := 0, ended := [],
              missing := [], over_ := none }
          putCmd (s.updCtx c.pkt.ctx fun x => { x with replay := some r }) { c with phase := .running }) s)

/-! ## Comparison and report (R379) -/

/-- The report, and RESULT0 (R304). -/
def reportOf (phase ctile instr ord step pos issued disp rec_ rep : Nat) : List Byte × Nat :=
  (natLe 1 1 ++ natLe 1 phase ++ natLe 2 ctile ++ natLe 2 instr ++ natLe 2 0 ++ natLe 4 ord ++ natLe 4 step ++ natLe 4 pos ++
     natLe 4 issued ++ natLe 8 disp ++ natLe 8 rec_ ++ natLe 8 rep ++ natLe 16 0,
   step % 2 ^ 32 + 2 ^ 32 * (ctile % 2 ^ 13) + 2 ^ 45 * (instr % 2 ^ 11))

/-- The report and RESULT0 of a replay with no difference. -/
def noReport : List Byte × Nat := (natLe 64 0, 0xFFFFFFFF)

/-- Where an execution differs from its record: the issue count and program index of the instruction, END when every instruction
digest matches. -/
def differsAt (r : Replay) (e : RepRec) (d : RepEnd) : Option (Nat × Nat) :=
  match r.missing.find? fun m => m.1 == e.disp && m.2.1 == e.ctile with
  | some m => some (m.2.2.1, m.2.2.2)
  | none =>
    if field e.body 0 8 = d.digest then none
    else
      let n := field e.body 8 4
      match (d.instrs.zipIdx.find? fun k => decide (k.2 ≥ n) || field e.body (16 + 2 * k.2) 2 != k.1.2) with
      | some k => some (k.2, k.1.1)
      | none => some (d.instrs.length - 1, (d.instrs.getLast?.map (·.1)).getD 0)

/-- Compare executions in order until one has not ended yet: what is left, and a divergence. -/
def compareExecs (r : Replay) : List RepRec → List RepRec × Option (List Byte × Nat)
  | [] => ([], none)
  | e :: l =>
    match r.ended.find? fun d => d.disp == e.disp && d.ctile == e.ctile with
    | none => (e :: l, none)
    | some d =>
      match differsAt r e d with
      | none => compareExecs r l
      | some (issued, instr) =>
        (e :: l, some (reportOf d.xr.phase e.ctile instr e.reqOrd d.xr.step d.xr.pos issued e.disp (field e.body 0 8) d.digest))

/-- Change a context's replay. -/
def updReplay (s : State) (ctx : Nat) (f : Replay → Replay) : State :=
  s.updCtx ctx fun x => { x with replay := x.replay.map f }

/-- REPLAY ends: the requests it opened close, the report is written, and it completes (R379). -/
def endReplay (s : State) (ctx : Nat) (r : Replay) (o : List Byte × Nat) : State :=
  let s := r.ords.foldl (fun s h => cancelReq s h s.orderCtr) s
  let s : State := { s with cmds := s.cmds.filter fun c => !(c.replay && c.ring == 2 ^ 20 + ctx) }
  let s := s.hostWrite (r.buf + 64) o.1
  let s := s.updCtx ctx fun x => { x with replay := none }
  match findCmd s r.ring r.seq with | none => s | some c => finish s c stOk o.2

/-! ## Reissuing records (R378) -/

/-- What a step that answers a next state leaves. -/
def after (s : State) (o : Host.Outcome State Fault Refusal) : State := match o with | .next t => t | _ => s

/-- The row of an opcode that names a context or a request of it. -/
def runOpc (opc ring seq : Nat) (s : State) : State :=
  match opc with
  | 0x22 => after s (execCtxLoad ring seq [] s)
  | 0x24 => after s (execVariantLoad ring seq s)
  | 0x25 => after s (execVariantDrop ring seq s)
  | 0x30 => after s (execTableLoad ring seq s)
  | 0x31 => after s (execTableUpdate ring seq s)
  | 0x40 => after s (execReqOpen ring seq s)
  | 0x41 => after s (execReqAppend ring seq s)
  | 0x42 => after s (execReqStep ring seq s)
  | 0x43 => after s (execReqVerify ring seq s)
  | 0x44 => after s (execReqClose ring seq s)
  | 0x45 => after s (execReqCancel ring seq s)
  | 0x46 => after s (execReqQuery ring seq s)
  | 0x50 => after s (execPrefixPin ring seq s)
  | 0x51 => after s (execPrefixRelease ring seq s)
  | 0x60 => after s (execPanelRead ring seq s)
  | 0x61 => after s (execPanelWrite ring seq s)
  | _ => s

/-- The parameter offset of the address of an opcode's payload. -/
def payloadAt (p : Packet) : Option Nat :=
  match p.opc with
  | 0x22 | 0x24 => some 0
  | 0x30 => some 24
  | 0x31 => some 8
  | 0x41 => if field p.params 4 1 = 0 then none else some 8
  | 0x61 => some 16
  | _ => none

/-- Replace a little-endian field of a byte list. -/
def setField (b : List Byte) (off n v : Nat) : List Byte := b.take off ++ natLe n v ++ b.drop (off + n)

/-- The ordinal of a handle of the recorded run: that of a record whose command names it. -/
def ordOf (r : Replay) (handle : Nat) : Option Nat :=
  (r.recs.find? fun e => e.2.kind == 1 && field e.2.body 0 2 != 0x40 && field e.2.body 20 4 == handle && e.2.reqOrd != 0xFFFFFFFF).map
    fun e => e.2.reqOrd

/-- A recorded packet for reissue: request handles by ordinal, payloads from the capture buffer. -/
def replayPacket (r : Replay) (addr : Nat) (e : RepRec) : Packet :=
  let p := { packetOf e.body with seq := r.nextSeq }
  let p := match payloadAt p with
    | none => p
    | some o => { p with params := setField p.params o 8 (addr + 32 + p.len) }
  if p.opc = 0x40 then
    match ordOf r (field p.params 28 4) with
    | none => p
    | some k => { p with params := setField p.params 28 4 (r.ords[k]?.getD noReq) }
  else if namesReq p.opc then { p with req := r.ords[e.reqOrd]?.getD noReq }
  else p

/-- The rows of an UPDATE record: table, row, bytes (R376). -/
def updateRows (x : Ctx) (b : List Byte) : Nat → Nat → List TUpd
  | 0, _ => []
  | n + 1, off =>
    if off + 8 > b.length then []
    else
      let t := field b off 1
      let cnt := field b (off + 4) 4
      let rb := ((x.tables.find? fun e => e.1 == t).map fun e => rowBytes e.2.fmt e.2.d).getD 0
      (List.range cnt).map (fun k =>
        ({ ring := 0, seq := 0, table := t, row := field b (off + 8 + (8 + rb) * k) 8,
           bytes := (b.drop (off + 16 + (8 + rb) * k)).take rb } : TUpd)) ++ updateRows x b n (off + 8 + (8 + rb) * cnt)

/-- Reissue one record. -/
def reissue (s : State) (ctx : Nat) (x : Ctx) (r : Replay) (e : Nat × RepRec) : State :=
  let s := updReplay s ctx fun r => { r with todo := r.todo.drop 1, nextSeq := r.nextSeq + 1 }
  if e.2.kind = 2 then
    (updateRows x e.2.body (e.2.body.length / 8) 0).foldl (fun s u => applyUpd s ctx (stampOf s x) u) (s.updCtx ctx fun x => { x with updates := [] })
  else
    let p := replayPacket r e.1 e.2
    let ring := 2 ^ 20 + ctx
    let slot := freeSlot s
    let s := addCmd s { newCmd s ring x.fn p .ready with replay := true }
    let s := runOpc p.opc ring p.seq s
    let s := if p.opc = 0x22 ∨ p.opc = 0x30 then runOpc p.opc ring p.seq s else s
    if p.opc = 0x40 then
      let h := (reqAt s slot).elim noReq fun q => if q.open_ then handleOf slot q.gen else noReq
      updReplay s ctx fun r => { r with ords := r.ords ++ [h] }
    else s

/-- A reissued command waits for its turn or for its tile. -/
def replayWaits (s : State) (ctx : Nat) : Option Cmd :=
  s.cmds.find? fun c => c.replay && c.ring == 2 ^ 20 + ctx && decide (c.phase = .ready)

/-- Reissue every record that is due at the context's dispatch position. -/
def reissueDue (ctx : Nat) : Nat → State → State
  | 0, s => s
  | n + 1, s =>
    match replayWaits s ctx with
    | some c =>
      let t := runOpc c.pkt.opc c.ring c.pkt.seq s
      if (replayWaits t ctx).isSome then t else reissueDue ctx n t
    | none =>
      match look s.ctxs ctx with
      | none => s
      | some x =>
        match x.replay with
        | none => s
        | some r =>
          match r.todo with
          | [] => s
          | e :: _ => if e.2.disp ≤ r.recDisp x.dispatched then reissueDue ctx n (reissue s ctx x r e) else s

/-! ## Boundaries -/

/-- A boundary of a context in a replay: vectors are dispatched in recorded order; one that cannot come is a divergence (DESIGN
CHOICE, log entry 43). -/
def replayDispatch (s : State) (ctx : Nat) : State :=
  match look s.ctxs ctx with
  | none => s
  | some x =>
    match x.replay with
    | none => s
    | some r =>
      let d := r.recDisp x.dispatched
      let ps := picks s ctx x
      let go (l : List Pick) : State := let t := tryPicks ctx x l s (false, false, false); countDefers t.1 t.2
      match (r.recs.map (·.2)).find? fun e => e.kind == 3 && e.disp == d with
      | none => if r.todo = [] then s else go (openGroup s ctx ps)
      | some e =>
        let h := r.ords[e.reqOrd]?.getD noReq
        let mine := ps.filter fun p => (reqAt s p.slot).elim false fun q => handleOf p.slot q.gen == h
        if mine = [] ∧ x.inflight = [] then
          let (k, s) := s.fresh
          updReplay s ctx fun r => { r with
            over_ := some (reportOf e.phase e.ctile (k % 2048) e.reqOrd (k / 2048 % 2 ^ 32) e.pos 0 e.disp (field e.body 0 8) 0) }
        else go mine

/-- A replay goes on at a boundary: it compares, reissues, dispatches, and ends once dispatch has stopped and the vectors in flight
have ended. -/
def replayBoundary (s : State) (ctx : Nat) (x : Ctx) (r : Replay) : State :=
  match r.over_ with
  | some o => if x.inflight = [] then endReplay s ctx r o else s
  | none =>
    let (l, found) := compareExecs r r.execs
    let s := updReplay s ctx fun r => { r with execs := l, over_ := found }
    if found.isSome then s
    else if l = [] ∧ r.todo = [] ∧ (replayWaits s ctx).isNone = true then updReplay s ctx fun r => { r with over_ := some noReport }
    else
      let s := reissueDue ctx (r.todo.length + 1) s
      if (replayWaits s ctx).isSome then s else replayDispatch s ctx

/-- The positions a chimney vector's pages are taken for on a member: its own, or the longest path a verification can append
(DEDUCED, log entry 52). -/
def memberNeeds (xr : ExecRec) : Nat := if xr.phase = 2 then (if xr.cand = 0xFF then 9 else 0) else 1

/-- A member puts the next chimney step into its pipeline, in step-number order, counted as class 0; without pages it answers with
a DONE marked refused (14_chimney R352). -/
def memberBoundary (s : State) (ctx : Nat) (x : Ctx) : State :=
  match (s.chim.steps.filter fun y => y.ctx == ctx && !y.dispatched && !y.aborting).mergeSort (fun a b => decide (a.step ≤ b.step)) with
  | [] => s
  | y :: _ =>
    if !flightRoom s 0 1 then s
    else
      let slot := slotFor s ctx y.xr.req
      let evict := (reqAt s slot).elim false (·.evict)
      match takeAll evict slot (needsOf s slot y.xr.pos (memberNeeds y.xr)) s [] with
      | (false, s, bs) =>
        let s := giveBack (spendBound s bs) slot
        trySendDone (updStep s y.step fun z => { z with dispatched := true, ended := true, refused := true }) y.step
      | (true, s, bs) =>
        let v := mkVec x.dispatched y.xr y.bags y.ring y.seq bs false y.step
        let charge := (reqAt s slot).elim 0 (kvCharge s ctx)
        let s := s.updCtx ctx fun c => { c with dispatched := c.dispatched + 1, inflight := c.inflight ++ [v] }
        let s := s.updServe fun e => { e with
          charges := recentCharges s ++ [(s.dev.now, charge)], hwm := max e.hwm (flight s fun _ => true) }
        updStep s y.step fun z => { z with dispatched := true, bound := bs }

/-- A local vector waits for a chimney step that this member can dispatch (14_chimney R352). -/
def chimneyFirst (s : State) (x : Ctx) : Bool :=
  !x.chimney && s.chim.steps.any fun y => !y.dispatched && !y.aborting && (look s.ctxs y.ctx).elim false (atBoundary s)

/-- A boundary of a context, which every ENTRY tile has reached (R316): the updates of its tables take effect (08_tables_tiers R196),
then one vector may be dispatched. At the crown chimney vectors wait while a role is fenced (14_chimney R363) and until every shard has
acknowledged the rows forwarded to it. -/
def ctxBoundary (s : State) (ctx : Nat) : State :=
  match look s.ctxs ctx with
  | none => s
  | some x =>
    match x.halted, x.replay with
    | true, some r =>
      let s := s.updCtx ctx fun x => { x with replay := none }
      let s : State := { s with cmds := s.cmds.filter fun c => !(c.replay && c.ring == 2 ^ 20 + ctx) }
      match findCmd s r.ring r.seq with | none => s | some c => finish s c stDevFailed 0
    | true, none => s
    | false, some r => if x.destroying || !atBoundary s x then s else replayBoundary s ctx x r
    | false, none =>
      if x.destroying || !atBoundary s x then s
      else
        let s := applyUpdates s ctx
        if !x.chimney then (if chimneyFirst s x then s else boundaryLocal s ctx x)
        else if isCrown s then (if (firstFenced s).isSome || s.chim.tupWait != [] then s else boundaryLocal s ctx x)
        else memberBoundary s ctx x

/-- DISPATCH_BOUNDARY (R316, R318): contexts that are at a boundary with this one are served in ascending number, those below it
first. -/
def execDispatchBoundary (ctx : Nat) (s : State) : Host.Outcome State Fault Refusal :=
  .next (if !clocked s || s.dev.st != .service then s
    else ((s.ctxs.map (·.1)).filter fun k => decide (k ≤ ctx)).foldl ctxBoundary s)

end Sys2Proof.Machine
end

