-- ==== Sys2Proof/Machine/Dispatch.lean ====
section
/-! DEFINITION. The one dispatch: each command goes to its meaning, by one direct call. -/

namespace Sys2Proof.Machine

def exec (i : Instr) (s : State) : Host.Outcome State Fault Refusal :=
  match i with
  | .packetConsume ring => Sys2Proof.Machine.execPacketConsume ring s
  | .fenceStart ring seq => Sys2Proof.Machine.execFenceStart ring seq s
  | .inProgressPost ring seq progress position => Sys2Proof.Machine.execInProgressPost ring seq progress position s
  | .msixCoalesce ring => Sys2Proof.Machine.execMsixCoalesce ring s
  | .consumptionResume => Sys2Proof.Machine.execConsumptionResume s
  | .outstandingDrained ring seq => Sys2Proof.Machine.execOutstandingDrained ring seq s
  | .doorbellTail fn ring index resv wr => Sys2Proof.Machine.execDoorbellTail fn ring index resv wr s
  | .doorbellHead fn ring index resv => Sys2Proof.Machine.execDoorbellHead fn ring index resv s
  | .adminEnable fn value => Sys2Proof.Machine.execAdminEnable fn value s
  | .adminDisable fn value => Sys2Proof.Machine.execAdminDisable fn value s
  | .registerWrite t value => Sys2Proof.Machine.execRegisterWrite t value s
  | .lowHalfRead fn offset => Sys2Proof.Machine.execLowHalfRead fn offset s
  | .highHalfRead fn offset => Sys2Proof.Machine.execHighHalfRead fn offset s
  | .configRequest fn op => Sys2Proof.Machine.execConfigRequest fn op s
  | .flr vf => Sys2Proof.Machine.execFlr vf s
  | .sscCfgWrite value => Sys2Proof.Machine.execSscCfgWrite value s
  | .logDataRead => Sys2Proof.Machine.execLogDataRead s
  | .clearCodeWrite code => Sys2Proof.Machine.execClearCodeWrite code s
  | .hello ring seq => Sys2Proof.Machine.execHello ring seq s
  | .goodbye ring seq => Sys2Proof.Machine.execGoodbye ring seq s
  | .ringCreate ring seq => Sys2Proof.Machine.execRingCreate ring seq s
  | .ringDestroy ring seq => Sys2Proof.Machine.execRingDestroy ring seq s
  | .ringBind ring seq => Sys2Proof.Machine.execRingBind ring seq s
  | .ctxCreate ring seq => Sys2Proof.Machine.execCtxCreate ring seq s
  | .ctxDestroy ring seq => Sys2Proof.Machine.execCtxDestroy ring seq s
  | .ctxLoad ring seq reads => Sys2Proof.Machine.execCtxLoad ring seq reads s
  | .variantLoad ring seq => Sys2Proof.Machine.execVariantLoad ring seq s
  | .variantDrop ring seq => Sys2Proof.Machine.execVariantDrop ring seq s
  | .tableLoad ring seq => Sys2Proof.Machine.execTableLoad ring seq s
  | .tableUpdate ring seq => Sys2Proof.Machine.execTableUpdate ring seq s
  | .reqOpen ring seq => Sys2Proof.Machine.execReqOpen ring seq s
  | .reqAppend ring seq => Sys2Proof.Machine.execReqAppend ring seq s
  | .reqStep ring seq => Sys2Proof.Machine.execReqStep ring seq s
  | .reqVerify ring seq => Sys2Proof.Machine.execReqVerify ring seq s
  | .reqClose ring seq => Sys2Proof.Machine.execReqClose ring seq s
  | .reqCancel ring seq => Sys2Proof.Machine.execReqCancel ring seq s
  | .reqQuery ring seq => Sys2Proof.Machine.execReqQuery ring seq s
  | .prefixPin ring seq => Sys2Proof.Machine.execPrefixPin ring seq s
  | .prefixRelease ring seq => Sys2Proof.Machine.execPrefixRelease ring seq s
  | .panelRead ring seq => Sys2Proof.Machine.execPanelRead ring seq s
  | .panelWrite ring seq => Sys2Proof.Machine.execPanelWrite ring seq s
  | .calRun ring seq => Sys2Proof.Machine.execCalRun ring seq s
  | .calStatus ring seq => Sys2Proof.Machine.execCalStatus ring seq s
  | .calCommit ring seq => Sys2Proof.Machine.execCalCommit ring seq s
  | .selfTest ring seq => Sys2Proof.Machine.execSelfTest ring seq s
  | .sweepConfig ring seq => Sys2Proof.Machine.execSweepConfig ring seq s
  | .cascadeJoin ring seq => Sys2Proof.Machine.execCascadeJoin ring seq s
  | .cascadeLeave ring seq => Sys2Proof.Machine.execCascadeLeave ring seq s
  | .crownAssign ring seq => Sys2Proof.Machine.execCrownAssign ring seq s
  | .mirrorConfig ring seq => Sys2Proof.Machine.execMirrorConfig ring seq s
  | .failoverAdopt ring seq => Sys2Proof.Machine.execFailoverAdopt ring seq s
  | .logFreeze ring seq => Sys2Proof.Machine.execLogFreeze ring seq s
  | .logRead ring seq => Sys2Proof.Machine.execLogRead ring seq s
  | .logThaw ring seq => Sys2Proof.Machine.execLogThaw ring seq s
  | .logClear ring seq => Sys2Proof.Machine.execLogClear ring seq s
  | .powerLimit ring seq => Sys2Proof.Machine.execPowerLimit ring seq s
  | .stateSet ring seq => Sys2Proof.Machine.execStateSet ring seq s
  | .powerDown ring seq => Sys2Proof.Machine.execPowerDown ring seq s
  | .traceStart ring seq => Sys2Proof.Machine.execTraceStart ring seq s
  | .traceStop ring seq => Sys2Proof.Machine.execTraceStop ring seq s
  | .recordStart ring seq => Sys2Proof.Machine.execRecordStart ring seq s
  | .recordStop ring seq => Sys2Proof.Machine.execRecordStop ring seq s
  | .replay ring seq => Sys2Proof.Machine.execReplay ring seq s
  | .opProgress ring seq => Sys2Proof.Machine.execOpProgress ring seq s
  | .opAbort ring seq => Sys2Proof.Machine.execOpAbort ring seq s
  | .fwStage ring seq => Sys2Proof.Machine.execFwStage ring seq s
  | .fwActivate ring seq => Sys2Proof.Machine.execFwActivate ring seq s
  | .dispatchBoundary ctx => Sys2Proof.Machine.execDispatchBoundary ctx s
  | .spillReturn => Sys2Proof.Machine.execSpillReturn s
  | .appendChunkRetry ring seq => Sys2Proof.Machine.execAppendChunkRetry ring seq s
  | .appendChunkTimeout ring seq => Sys2Proof.Machine.execAppendChunkTimeout ring seq s
  | .executionStart tile => Sys2Proof.Machine.execExecutionStart tile s
  | .executionEnd tile => Sys2Proof.Machine.execExecutionEnd tile s
  | .instructionComplete tile issue => Sys2Proof.Machine.execInstructionComplete tile issue s
  | .execLimitExpire tile => Sys2Proof.Machine.execExecLimitExpire tile s
  | .fire tile => Sys2Proof.Machine.execFire tile s
  | .firev tile => Sys2Proof.Machine.execFirev tile s
  | .fireSlot tile bank devs => Sys2Proof.Machine.execFireSlot tile bank devs s
  | .preload tile => Sys2Proof.Machine.execPreload tile s
  | .promote tile => Sys2Proof.Machine.execPromote tile s
  | .move tile => Sys2Proof.Machine.execMove tile s
  | .quant tile => Sys2Proof.Machine.execQuant tile s
  | .deq tile => Sys2Proof.Machine.execDeq tile s
  | .send tile => Sys2Proof.Machine.execSend tile s
  | .recv tile => Sys2Proof.Machine.execRecv tile s
  | .reduce tile => Sys2Proof.Machine.execReduce tile s
  | .kvapp tile => Sys2Proof.Machine.execKvapp tile s
  | .hobFlush slot layer head => Sys2Proof.Machine.execHobFlush slot layer head s
  | .kvidx tile => Sys2Proof.Machine.execKvidx tile s
  | .kvgath tile => Sys2Proof.Machine.execKvgath tile s
  | .attn tile => Sys2Proof.Machine.execAttn tile s
  | .kvevict tile => Sys2Proof.Machine.execKvevict tile s
  | .norm tile => Sys2Proof.Machine.execNorm tile s
  | .act tile => Sys2Proof.Machine.execAct tile s
  | .rope tile => Sys2Proof.Machine.execRope tile s
  | .embg tile => Sys2Proof.Machine.execEmbg tile s
  | .sample tile => Sys2Proof.Machine.execSample tile s
  | .verify tile => Sys2Proof.Machine.execVerify tile s
  | .waitCtr tile => Sys2Proof.Machine.execWaitCtr tile s
  | .signal tile => Sys2Proof.Machine.execSignal tile s
  | .signalArrival tile => Sys2Proof.Machine.execSignalArrival tile s
  | .loopBody tile => Sys2Proof.Machine.execLoopBody tile s
  | .br tile => Sys2Proof.Machine.execBr tile s
  | .endExec tile => Sys2Proof.Machine.execEndExec tile s
  | .nopInstr tile => Sys2Proof.Machine.execNopInstr tile s
  | .timeread tile => Sys2Proof.Machine.execTimeread tile s
  | .recompute engine reads => Sys2Proof.Machine.execRecompute engine reads s
  | .outlier engine => Sys2Proof.Machine.execOutlier engine s
  | .delta engine parity => Sys2Proof.Machine.execDelta engine parity s
  | .flueResultArrival tile => Sys2Proof.Machine.execFlueResultArrival tile s
  | .freeFlue engine kind => Sys2Proof.Machine.execFreeFlue engine kind s
  | .storageReport tile => Sys2Proof.Machine.execStorageReport tile s
  | .storageRepair array reads => Sys2Proof.Machine.execStorageRepair array reads s
  | .scrubRow array reads => Sys2Proof.Machine.execScrubRow array reads s
  | .windowClose array => Sys2Proof.Machine.execWindowClose array s
  | .bgCalDwell fits => Sys2Proof.Machine.execBgCalDwell fits s
  | .recalDwell array fits => Sys2Proof.Machine.execRecalDwell array fits s
  | .calReferenceCheck ppm => Sys2Proof.Machine.execCalReferenceCheck ppm s
  | .calAttemptEnd fits => Sys2Proof.Machine.execCalAttemptEnd fits s
  | .calTrimLoad => Sys2Proof.Machine.execCalTrimLoad s
  | .selfTestPhaseEnd phase unit found => Sys2Proof.Machine.execSelfTestPhaseEnd phase unit found s
  | .sweepRound kind unit slots devs digest => Sys2Proof.Machine.execSweepRound kind unit slots devs digest s
  | .sweepDigest kind unit rerunsAgree => Sys2Proof.Machine.execSweepDigest kind unit rerunsAgree s
  | .sweepSubinterval => Sys2Proof.Machine.execSweepSubinterval s
  | .hbmPatrol addr corrected => Sys2Proof.Machine.execHbmPatrol addr corrected s
  | .hbmUncorrectable site => Sys2Proof.Machine.execHbmUncorrectable site s
  | .hbmStackFail stack => Sys2Proof.Machine.execHbmStackFail stack s
  | .tileParityError tile line => Sys2Proof.Machine.execTileParityError tile line s
  | .meshParityError sent link got => Sys2Proof.Machine.execMeshParityError sent link got s
  | .hostReadFail read => Sys2Proof.Machine.execHostReadFail read s
  | .hostReadRetryResult ok => Sys2Proof.Machine.execHostReadRetryResult ok s
  | .errorRaise e => Sys2Proof.Machine.execErrorRaise e s
  | .handlerEnd => Sys2Proof.Machine.execHandlerEnd s
  | .handlerTimeout => Sys2Proof.Machine.execHandlerTimeout s
  | .rootAttemptStart => Sys2Proof.Machine.execRootAttemptStart s
  | .rootAttemptTimeout => Sys2Proof.Machine.execRootAttemptTimeout s
  | .rootSeriesRetry => Sys2Proof.Machine.execRootSeriesRetry s
  | .monitorWindow pll count => Sys2Proof.Machine.execMonitorWindow pll count s
  | .missingEdgeTrip => Sys2Proof.Machine.execMissingEdgeTrip s
  | .lockLostTrip pll => Sys2Proof.Machine.execLockLostTrip pll s
  | .lane0EnterL0 => Sys2Proof.Machine.execLane0EnterL0 s
  | .lane0LeaveL0 => Sys2Proof.Machine.execLane0LeaveL0 s
  | .dividerStep => Sys2Proof.Machine.execDividerStep s
  | .hbmRecovery badRow => Sys2Proof.Machine.execHbmRecovery badRow s
  | .v12Rise tenMv => Sys2Proof.Machine.execV12Rise tenMv s
  | .railPowerGood rail => Sys2Proof.Machine.execRailPowerGood rail s
  | .railEnableTimeout rail => Sys2Proof.Machine.execRailEnableTimeout rail s
  | .railReenable rail => Sys2Proof.Machine.execRailReenable rail s
  | .perstAssert => Sys2Proof.Machine.execPerstAssert s
  | .perstDeassert => Sys2Proof.Machine.execPerstDeassert s
  | .hotReset => Sys2Proof.Machine.execHotReset s
  | .bootComplete ms failed => Sys2Proof.Machine.execBootComplete ms failed s
  | .railFailRun rail tenMv => Sys2Proof.Machine.execRailFailRun rail tenMv s
  | .pwrInputLow tenMv => Sys2Proof.Machine.execPwrInputLow tenMv s
  | .inputRecovered => Sys2Proof.Machine.execInputRecovered s
  | .inputLoss tenMv => Sys2Proof.Machine.execInputLoss tenMv s
  | .senseChange ok => Sys2Proof.Machine.execSenseChange ok s
  | .railFallen rail => Sys2Proof.Machine.execRailFallen rail s
  | .railFallTimeout rail => Sys2Proof.Machine.execRailFallTimeout rail s
  | .wake => Sys2Proof.Machine.execWake s
  | .hostLinkRetrain rate width cause => Sys2Proof.Machine.execHostLinkRetrain rate width cause s
  | .modulePresent cage => Sys2Proof.Machine.execModulePresent cage s
  | .moduleRemoved cage => Sys2Proof.Machine.execModuleRemoved cage s
  | .cageOvercurrent cage => Sys2Proof.Machine.execCageOvercurrent cage s
  | .thmUpdate t => Sys2Proof.Machine.execThmUpdate t s
  | .coefficientAdjust measured modelled => Sys2Proof.Machine.execCoefficientAdjust measured modelled s
  | .sensorInvalid x => Sys2Proof.Machine.execSensorInvalid x s
  | .flueLoadWindow => Sys2Proof.Machine.execFlueLoadWindow s
  | .tableUpdateApply ctx => Sys2Proof.Machine.execTableUpdateApply ctx s
  | .logEvent code domain data => Sys2Proof.Machine.execLogEvent code domain data s
  | .logRecordTimeout => Sys2Proof.Machine.execLogRecordTimeout s
  | .logFlashWrite => Sys2Proof.Machine.execLogFlashWrite s
  | .logRecordsLost => Sys2Proof.Machine.execLogRecordsLost s
  | .logFreezeTimeout => Sys2Proof.Machine.execLogFreezeTimeout s
  | .portTrained port => Sys2Proof.Machine.execPortTrained port s
  | .trainFrame port p => Sys2Proof.Machine.execTrainFrame port p s
  | .portRetrain port => Sys2Proof.Machine.execPortRetrain port s
  | .joinTimeout ring seq => Sys2Proof.Machine.execJoinTimeout ring seq s
  | .announceSend port => Sys2Proof.Machine.execAnnounceSend port s
  | .announceFrame port chimneyId role peerPort mac => Sys2Proof.Machine.execAnnounceFrame port chimneyId role peerPort mac s
  | .linkFrame l flags lack => Sys2Proof.Machine.execLinkFrame l flags lack s
  | .lackReport l => Sys2Proof.Machine.execLackReport l s
  | .frameReceive l bytes room => Sys2Proof.Machine.execFrameReceive l bytes room s
  | .frameForward port bytes => Sys2Proof.Machine.execFrameForward port bytes s
  | .retransmitTimeout l => Sys2Proof.Machine.execRetransmitTimeout l s
  | .fullResend l => Sys2Proof.Machine.execFullResend l s
  | .lnkRetryExhausted l => Sys2Proof.Machine.execLnkRetryExhausted l s
  | .startFrame => Sys2Proof.Machine.execStartFrame s
  | .doneFrame => Sys2Proof.Machine.execDoneFrame s
  | .commitFrame => Sys2Proof.Machine.execCommitFrame s
  | .abortFrame => Sys2Proof.Machine.execAbortFrame s
  | .abortAck => Sys2Proof.Machine.execAbortAck s
  | .stepTimeout step => Sys2Proof.Machine.execStepTimeout step s
  | .heartbeatSend => Sys2Proof.Machine.execHeartbeatSend s
  | .heartbeatFrame => Sys2Proof.Machine.execHeartbeatFrame s
  | .heartbeatSilence role => Sys2Proof.Machine.execHeartbeatSilence role s
  | .fenceFrame => Sys2Proof.Machine.execFenceFrame s
  | .dataFrame => Sys2Proof.Machine.execDataFrame s
  | .creditFrame => Sys2Proof.Machine.execCreditFrame s
  | .gatherReq => Sys2Proof.Machine.execGatherReq s
  | .gatherRsp => Sys2Proof.Machine.execGatherRsp s
  | .tupdateFrame => Sys2Proof.Machine.execTupdateFrame s
  | .mirrorFrame => Sys2Proof.Machine.execMirrorFrame s
  | .mirrorAck => Sys2Proof.Machine.execMirrorAck s
  | .mirrorFree => Sys2Proof.Machine.execMirrorFree s
  | .xferFrame => Sys2Proof.Machine.execXferFrame s
  | .regulatorFaultDown rail => Sys2Proof.Machine.execRegulatorFaultDown rail s
  | .v3p3AuxChange present => Sys2Proof.Machine.execV3p3AuxChange present s
  | .lossOfSignal port => Sys2Proof.Machine.execLossOfSignal port s
  | .smbusRefresh => Sys2Proof.Machine.execSmbusRefresh s
  | .chimneyContextReady stepNs caps => Sys2Proof.Machine.execChimneyContextReady stepNs caps s

end Sys2Proof.Machine
end

