-- ==== Sys2Proof/Machine/Step.lean ====
section
/-! DEFINITION. One step of the block: the command at the front of the queue, or a device-time tick. -/

namespace Sys2Proof.Machine

/-- Take the command at the front of the queue and give its outcome on the queue's rest; an empty queue lets one SCLK
cycle pass (17_clocks R404; DESIGN CHOICE, log entry 1). -/
def step (s : State) : Host.Outcome State Fault Refusal :=
  match s.pending with
  | [] => .next (tick s)
  | c :: cs => exec c { s with pending := cs }

/-- `s` with the command that a word spells at the front of its queue; no row of the table gives bits, so no word
spells a command and `s` stays as it is (log entry 1). -/
def State.withFetchWord (s : State) (nbits w : Nat) : State :=
  match Sys2Proof.decodeTableWord nbits w with
  | none => s
  | some c => { s with pending := c :: s.pending }

end Sys2Proof.Machine
end

