-- ==== Sys2Proof/Safety.lean ====
section
/-! DEFINITION. What a state that a run can reach keeps to, the canonical form of its memories and keyed stores; and the words
statements use: a command that is ready to execute, an instruction that is about to issue, a frame that has arrived, a record that is
posted. -/

namespace Sys2Proof.Machine

/-- Every tile of a store of tiles has its memory in canonical form. -/
def tilesOk (m : SMap (Option Tile)) : Prop := ∀ e ∈ m, ∀ t, e.2 = some t → Mem.wf t.mem = true

/-- The canonical form of a state: host memory, tile memories, weight cells and golden copy list rising addresses and nothing that
an unlisted address reads as, and so does every store of units by number. Two canonical states that read the same are equal. -/
structure State.Canon (s : State) : Prop where
  hostMem : Mem.wf s.hostMem = true
  cells : wf 0 s.cells = true
  gold : wf 0 s.gold = true
  fns : wf none s.fns = true
  rings : wf none s.rings = true
  ctxs : wf none s.ctxs = true
  tiles : wf none s.tiles = true
  arrs : wf none s.arrs = true
  flues : wf none s.flues = true
  reqs : wf none s.reqs = true
  pages : wf none s.kv.pages = true
  tileMem : tilesOk s.tiles

/-! ## Words for statements -/

/-- The outstanding command `c` of a ring and SEQ has this opcode, has passed every check of R283, is next in its control core's order
(11_graec_rings R263), and the clocks run. -/
def Ready (s : State) (opc ring seq : Nat) (c : Cmd) : Prop :=
  findCmd s ring seq = some c ∧ clocked s = true ∧ c.pkt.opc = opc ∧ c.phase = .ready ∧ inTurn s c = true

/-- The same of a long operation that has been accepted and is running. -/
def Running (s : State) (opc ring seq : Nat) (c : Cmd) : Prop :=
  findCmd s ring seq = some c ∧ clocked s = true ∧ c.pkt.opc = opc ∧ c.phase = .running

/-- The command acts on a context `x` that is its function's, is not halted and is not being destroyed. -/
def OnCtx (s : State) (c : Cmd) (x : Ctx) : Prop :=
  look s.ctxs c.pkt.ctx = some x ∧ x.fn = c.fn ∧ x.halted = false ∧ x.destroying = false

/-- The command names an open request `r` of its ring that is neither lost nor a bound draft. -/
def OnReq (s : State) (c : Cmd) (r : Req) : Prop :=
  findReq s c.pkt.req = some r ∧ r.dataLost = false ∧ r.ring = c.ring ∧ r.boundBy = none

/-- A tile is about to issue an instruction of this opcode (09_step_programs R212). -/
def Issues (s : State) (tile opc : Nat) (a : At) : Prop := about s tile = some a ∧ iOpc a.w = opc

/-- A panel of the instruction's tile has these bytes (10_instructions R222). -/
def At.has (a : At) (p off n : Nat) : Prop := off + n ≤ 32 * (a.panel p).lines

/-- Bytes of a panel of the instruction's tile. -/
def At.bytesAt (s : State) (a : At) (p off n : Nat) : List Byte := Mem.read (s.tile a.t).mem (32 * (a.panel p).base + off) n

/-- Elements of a BF16 or FP32 panel as FP32. -/
def At.floatsAt (s : State) (a : At) (p e n : Nat) : List F32 :=
  let bs := a.bytesAt s p (a.esize p * e) (a.esize p * n)
  (List.range n).map fun i =>
    if a.esize p = 2 then ofBf (BitVec.ofNat 16 (field bs (2 * i) 2)) else BitVec.ofNat 32 (field bs (4 * i) 4)

/-- Elements of an accumulator panel as integers. -/
def At.accsAt (s : State) (a : At) (p e n : Nat) : List Int :=
  let bs := a.bytesAt s p (8 * e) (8 * n)
  (List.range n).map fun i => (BitVec.ofNat 64 (field bs (8 * i) 8)).toInt

/-- Bytes written into a panel of the instruction's tile: that tile's memory alone changes. -/
def At.wrote (s : State) (a : At) (p off : Nat) (bs : List Byte) : State :=
  s.updTile a.t fun t => { t with mem := Mem.write t.mem (32 * (a.panel p).base + off) bs }

/-- The oldest received frame of this type that is for this device is `f`. -/
def Arrived (s : State) (ty : Nat) (f : Frame) : Prop :=
  linksRun s = true ∧ (s.chim.inbox.find? fun x => x.2.ftype == ty && !transit s x.2).map (·.2) = some f

/-- The frame leaves the queue of received frames. -/
def taken (s : State) (f : Frame) : State := s.updChim fun c => { c with inbox := c.inbox.eraseP fun y => y.2 == f }

/-- A record of one event that happens now, with its SEQ (20_mantel_log R449). -/
def freshRec (d : Dev) (code domain data seq : Nat) : LogRec :=
  { opSec := d.opSec, pwrCycle := d.pwrCycles, domain := domain, code := code, count := 1, seq := seq, data := data, lastSec := d.opSec,
    deferred := false, valid := true }

/-- The submission head of a ring has moved past one packet and been reported (11_graec_rings R258): a ring that is no admin ring
has its head written back to host memory. -/
def headed (s : State) (ring : Nat) (q : Ring) : State :=
  let head := (q.head + 1) % q.slots
  let s := s.setRing ring (some { q with head := head })
  if q.isAdmin then s else { s.hostWrite q.headAddr (natLe 4 head) with lastServed := ring }

/-- The packet at the head of a ring. -/
def headPacket (s : State) (q : Ring) : Packet := packetOf (s.hostRead (q.sq + 256 * q.head) 256)

/-- The device may consume from ring `ring`, which is `q`. -/
def Consumable (s : State) (ring : Nat) (q : Ring) : Prop :=
  look s.rings ring = some q ∧ consuming s = true ∧ mayConsume s ring q = true ∧ (q.isAdmin = true ∨ s.paused = false)

/-- The host reaches the registers of a function (21_host_interface R464). -/
def HostReach (s : State) (fn : Nat) : Prop := reachable s = true ∧ fnUp s fn = true

end Sys2Proof.Machine
end

