-- ==== Sys2Proof/Certificates/Slice0/Obligations.lean ====
section
/-! DEFINITION. The statements for the provers, by chapter of the manual. A statement about a command says, for every state that meets
its conditions, which next state the command answers; what that next state does not name is as it was. -/

open Sys2Proof Sys2Proof.Machine

/-! ## The machine -/

/-- A step takes the command at the front of the queue and gives its outcome on the queue's rest. -/
def Obligations.StepRunsFront : Prop :=
  ∀ (c : Instr) (cs : List Instr) (s : State), s.pending = c :: cs → step s = exec c { s with pending := cs }

/-- An empty queue lets one SCLK cycle pass (the model's choice, log entry 1): while the clocks run device time counts modulo 2^64
(R404) and every 100,000,000th cycle OP_SECONDS counts (R450); without clocks nothing changes, and nothing but device time ever does. -/
def Obligations.IdleStepIsOneCycle : Prop :=
  ∀ s : State, s.pending = [] →
    (clocked s = false → step s = .next s) ∧
    (clocked s = true → s.dev.opFrac + 1 ≠ 100000000 →
      step s = .next { s with dev := { s.dev with now := (s.dev.now + 1) % 2 ^ 64, opFrac := s.dev.opFrac + 1 } }) ∧
    (clocked s = true → s.dev.opFrac + 1 = 100000000 →
      step s = .next { s with dev := { s.dev with now := (s.dev.now + 1) % 2 ^ 64, opFrac := 0, opSec := (s.dev.opSec + 1) % 2 ^ 32 } })

/-- Every command answers a next state, in every state.
No command touches the queue of the commands that wait behind it. -/
def Obligations.CommandsAnswerAndLeaveTheQueue : Prop :=
  (∀ (c : Instr) (s : State), ∃ t, exec c s = .next t) ∧
  (∀ (c : Instr) (s t : State), exec c s = .next t → t.pending = s.pending)

/-- The state after reset is in canonical form.
Values that the manual gives for reset (R110, R184, R190, R330, R369, R399, R419, R437, R449): the error, calibration, chimney, KV, serving and
clock registers, the log, the contexts, the requests and the queue. -/
def Obligations.ResetState : Prop :=
  (State.reset.Canon) ∧
  (State.reset.dev.st = .boot ∧ State.reset.dev.prev = .cold ∧ State.reset.pending = [] ∧ State.reset.cmds = [] ∧ State.reset.rings = [] ∧
    State.reset.ctxs = [] ∧ State.reset.reqs = [] ∧ State.reset.err.failedDomain = 0xF ∧ State.reset.err.seen = 0 ∧ State.reset.err.fifo = [] ∧
    State.reset.err.active = none ∧ State.reset.cal.count = 0 ∧ State.reset.cal.source = 0 ∧ State.reset.cal.run = none ∧
    State.reset.chim.id = 0 ∧ State.reset.chim.role = 0xFFFF ∧ State.reset.chim.crown = 0xFFFF ∧ State.reset.kv.quotaEvicts = 0 ∧
    State.reset.kv.pressureEvicts = 0 ∧ State.reset.serve.tokens = 0 ∧ State.reset.serve.misses = 0 ∧ State.reset.clk.takeovers = 0 ∧
    State.reset.clk.holds = 0 ∧ State.reset.log.ram = [] ∧ State.reset.log.openRec = none ∧ State.reset.log.lost = 0 ∧
    (∀ a, (State.reset.arr a).checks = 0 ∧ get nomTrim (State.reset.arr a).trims 0 = (64, 16644)) ∧
    (∀ t, (State.reset.tile t).exec = none ∧ (State.reset.tile t).ctx = none) ∧ ∀ e, (State.reset.flue e).qRec = [])

/-- Every step keeps the canonical form of host memory, of every tile memory, of the weight cells and the golden copy, and of every
store of units by number: two states that read the same stay equal data. -/
def Obligations.StepKeepsCanonicalForm : Prop := ∀ s t : State, s.Canon → step s = .next t → t.Canon

/-! ## Rings (11_graec_rings) -/

/-- R274: a packet is classed by d = (SEQ - NEXT) mod 2^32. A new packet is executed and NEXT advances by 1; a duplicate goes the way
of R275; a stale packet completes with STALE_SEQ and executes nothing; past a gap the packet completes with BAD_PARAM, NEXT stays and
no record is stored. The records of the last two are posted outright: no command joins the outstanding ones. -/
def Obligations.SequenceNumbersClassPackets : Prop :=
  ∀ (s : State) (ring : Nat) (q : Ring), Consumable s ring q →
    let p := headPacket s q
    let d := (p.seq + 2 ^ 32 - q.next) % 2 ^ 32
    (d = 0 → exec (.packetConsume ring) s = .next (atLimit (consumeNew (headed s ring q) ring q p)) ∧
      ∃ q', look (consumeNew (headed s ring q) ring q p).rings ring = some q' ∧ q'.next = (q.next + 1) % 2 ^ 32) ∧
    (2 ^ 32 - 256 ≤ d → exec (.packetConsume ring) s = .next (atLimit (consumeDup (headed s ring q) ring q p))) ∧
    (2 ^ 31 ≤ d → d < 2 ^ 32 - 256 → ∃ r : Rec, r.status = stStaleSeq ∧ r.seq = p.seq ∧ r.tag = p.tag ∧
      exec (.packetConsume ring) s = .next (atLimit (postRec (headed s ring q) ring true p.notify r))) ∧
    (0 < d → d < 2 ^ 31 → ∃ (r : Rec) (q' : Ring), r.status = stBadParam ∧ r.seq = p.seq ∧ r.tag = p.tag ∧
      exec (.packetConsume ring) s = .next (atLimit (postRec (headed s ring q) ring true p.notify r)) ∧
      look (postRec (headed s ring q) ring true p.notify r).rings ring = some q' ∧ q'.next = q.next ∧ q'.window = q.window)

/-- R275: each ring keeps the final records of those of its last 256 new packets that have one. A duplicate is not executed: it gets a copy
of the stored record with STATUS OK_DUPLICATE, the original status in ORIG_STATUS (reads 0 in a session below 1.2, R270) and its own SEQ
and TAG; while the original is outstanding the duplicate is outstanding too, gets no IN_PROGRESS record, and the final record of the
original is followed by the copy. -/
def Obligations.DuplicatesAreCopied : Prop :=
  (∀ (s : State) (c : Cmd) (st r0 w : Nat) (q : Ring), c.replay = false → look s.rings c.ring = some q → q.destroying = false →
    ∃ (q' : Ring) (r : Rec), look (finishW s c st r0 w).rings c.ring = some q' ∧ q'.window = (r :: q.window).filter (fun e => decide ((q.next + 2 ^ 32 - e.seq) % 2 ^ 32 ≤ 256)) ∧
      r.seq = c.pkt.seq ∧ r.tag = c.pkt.tag ∧ r.status = (if st = stOk ∧ w % 32 ≠ 0 then stWarn else st)) ∧
  (∀ (s : State) (ring : Nat) (q : Ring) (p : Packet) (r : Rec), findCmd s ring p.seq = none →
    (q.window.find? fun x => x.seq == p.seq) = some r →
    consumeDup s ring q p = postRec s ring true p.notify
      { seq := p.seq, tag := p.tag, status := stDuplicate, progress := r.progress, result0 := r.result0,
        result1 := r.result1 % 2 ^ 16 + (if (s.fn q.fn).session ≥ 0x12 then r.status * 2 ^ 16 else 0) }) ∧
  (∀ (s : State) (ring : Nat) (q : Ring) (p : Packet) (c : Cmd), findCmd s ring p.seq = some c →
    consumeDup s ring q p = addCmd s (newCmd s ring q.fn p (.dupOf ring p.seq))) ∧
  (∀ (s : State) (ring seq : Nat) (r : Rec) (d : Cmd), (s.cmds.filter fun c => decide (c.phase = .dupOf ring seq)) = [d] →
    postDups s ring seq r = postRec { s with cmds := s.cmds.filter fun c => !decide (c.phase = .dupOf ring seq) } d.ring true
      d.pkt.notify (dupRec (s.fn d.fn).session d.pkt r)) ∧
  (∀ (s : State) (ring seq progress position : Nat), (∀ c ∈ s.cmds, c.ring = ring → c.pkt.seq = seq → ∃ a b, c.phase = .dupOf a b) →
    exec (.inProgressPost ring seq progress position) s = .next s)

/-- R266: entries are written in index order, PHASE 1 on the first pass and inverted on each wrap; FINAL is set in final records only;
a KIND = 1 doorbell returns entries; a packet is consumed only while unreturned entries plus outstanding commands are fewer than the
entries; an IN_PROGRESS record that would take that space is not posted. -/
def Obligations.CompletionEntriesAndSpace : Prop :=
  (∀ fn sq slots cq entries head vector admin, (newRing fn sq slots cq entries head vector admin).phase = true ∧
    (newRing fn sq slots cq entries head vector admin).cidx = 0) ∧
  (∀ (s : State) (ring : Nat) (q : Ring) (final notify : Bool) (r : Rec), look s.rings ring = some q →
    (postRec s ring final notify r).hostMem = Mem.write s.hostMem (q.cq + 32 * q.cidx) (recBytes ring q.phase final r) ∧
    ∃ q', look (postRec s ring final notify r).rings ring = some q' ∧ q'.unret = q.unret + 1 ∧
      (q.cidx + 1 = q.entries → q'.cidx = 0 ∧ q'.phase = !q.phase) ∧
      (q.cidx + 1 ≠ q.entries → q'.cidx = q.cidx + 1 ∧ q'.phase = q.phase)) ∧
  (∀ (ring : Nat) (phase final : Bool) (r : Rec), ring < 2 ^ 20 →
    field (recBytes ring phase final r) 28 4 = ring + b2n phase * 2 ^ 20 + b2n final * 2 ^ 21) ∧
  (∀ (s : State) (c : Cmd) (st r0 w : Nat), c.replay = false → (∀ d ∈ s.cmds, d.phase ≠ .dupOf c.ring c.pkt.seq) →
    ∃ r : Rec, (finishW s c st r0 w).hostMem = (postRec s c.ring true c.pkt.notify r).hostMem) ∧
  (∀ (s : State) (c : Cmd) (q : Ring), look s.rings c.ring = some q → c.replay = false → q.unret + outOn s c.ring < q.entries →
    ∃ r : Rec, r.status = stInProgress ∧ postProgress s c = postRec s c.ring false c.pkt.notify r) ∧
  (∀ (s : State) (c : Cmd) (q : Ring), look s.rings c.ring = some q → q.unret + outOn s c.ring ≥ q.entries → postProgress s c = s) ∧
  (∀ (s : State) (ring : Nat) (q : Ring), look s.rings ring = some q → q.unret + outOn s ring ≥ q.entries →
    exec (.packetConsume ring) s = .next s) ∧
  (∀ (s : State) (fn ring index : Nat) (q : Ring), HostReach s fn → s.dev.romOnly = false → look s.rings ring = some q → q.fn = fn →
    index < q.entries → index ≠ q.chead → (index + q.entries - q.chead) % q.entries ≤ q.unret → q.chead < q.entries →
    exec (.doorbellHead fn ring index 0) s = .next (s.setRing ring (some { q with
      chead := index, unret := q.unret - (index + q.entries - q.chead) % q.entries })))

/-- A new packet that no check of R283 stops, on a ring with nothing outstanding, becomes an outstanding command that is ready to
execute; the head has been reported before (R258), and NEXT has advanced (R274).
FENCE_START (R264): once every earlier command of its ring has posted its final record, a packet with FENCE set starts, and the
packets that waited behind it start with it up to the next fence; before that nothing happens. -/
def Obligations.PacketsStart : Prop :=
  (∀ (s : State) (ring : Nat) (q : Ring) (c : Cmd) (t : State), Consumable s ring q → (headPacket s q).seq = q.next → q.next < 2 ^ 32 →
      (∀ d ∈ s.cmds, d.ring ≠ ring) →
      c = newCmd s ring q.fn (headPacket s q) .fenced →
      t = addCmd ((headed s ring q).updRing ring fun r => { r with next := (r.next + 1) % 2 ^ 32 }) c →
      gateEarly t c = none → gateLate t c = .ready →
      exec (.packetConsume ring) s = .next (atLimit (markClosing (putCmd t { c with phase := .ready }) c))) ∧
  ((∀ (s : State) (ring seq : Nat) (c : Cmd), findCmd s ring seq = some c → consuming s = true → c.phase = .fenced →
      (∀ d ∈ s.cmds, d.ring = ring → c.order ≤ d.order) → gateLate s c = .ready →
      exec (.fenceStart ring seq) s = .next (releaseBehind ring
        (s.cmds.filter fun d => d.ring == ring && decide (d.order > c.order) && decide (d.phase = .fenced))
        (markClosing (putCmd s { c with phase := .ready }) c))) ∧
    (∀ (s : State) (ring seq : Nat) (c d : Cmd), findCmd s ring seq = some c → d ∈ s.cmds → d.ring = ring → d.order < c.order →
      exec (.fenceStart ring seq) s = .next s))

/-- Doorbells (R259, R260): a tail that names a ring of the function and a slot of it becomes the ring's tail, with what the host wrote
before it; a head moves forward over written entries; any other doorbell changes nothing but DB_IGNORED, which saturates at 0xFF. -/
def Obligations.DoorbellsMoveOrAreIgnored : Prop :=
  (∀ (s : State) (fn ring index : Nat) (wr : List (Nat × List Byte)) (q : Ring), HostReach s fn → s.dev.romOnly = false →
    look s.rings ring = some q → q.fn = fn → index < q.slots →
    exec (.doorbellTail fn ring index 0 wr) s = .next ((hostWrites s wr).setRing ring (some { q with tail := index }))) ∧
  (∀ (s : State) (fn ring index : Nat) (q : Ring), HostReach s fn → s.dev.romOnly = false → look s.rings ring = some q → q.fn = fn →
    q.chead < index → index < q.entries → index - q.chead ≤ q.unret →
    exec (.doorbellHead fn ring index 0) s =
      .next (s.setRing ring (some { q with chead := index, unret := q.unret - (index - q.chead) }))) ∧
  (∀ (s : State) (fn ring index resv : Nat) (wr : List (Nat × List Byte)), HostReach s fn → s.dev.romOnly = false →
    (∀ q, look s.rings ring = some q → q.fn = fn → resv ≠ 0 ∨ index ≥ q.slots) →
    exec (.doorbellTail fn ring index resv wr) s =
      .next ((hostWrites s wr).updFn fn fun f => { f with dbIgnored := min (f.dbIgnored + 1) 255 })) ∧
  (∀ (s : State) (fn ring index resv : Nat), HostReach s fn → s.dev.romOnly = false →
    (∀ q, look s.rings ring = some q → q.fn = fn →
      resv ≠ 0 ∨ index ≥ q.entries ∨ (index ≠ q.chead ∧ (index + q.entries - q.chead) % q.entries > q.unret)) →
    exec (.doorbellHead fn ring index resv) s =
      .next (s.updFn fn fun f => { f with dbIgnored := min (f.dbIgnored + 1) 255 }))

/-- IN_PROGRESS_POST, MSIX_COALESCE, CONSUMPTION_RESUME and OUTSTANDING_DRAINED complete: an IN_PROGRESS record follows once PROGRESS
has risen by 50 and 100 ms have passed (R277); one message goes out for the records of a ring's microsecond, not sooner than 1 µs after
the one before, or is held behind its mask (R267; the mask is log entry 23); a ring that is to be destroyed
goes after it (the model's choice, log entry 145); below the device limit the next ring after the last one served is consumed from (R272); GOODBYE,
RING_DESTROY, OP_ABORT and POWER_DOWN end once what they waited for has drained (R286, R256, R278, R302). -/
def Obligations.RingEventsComplete : Prop :=
  (∀ (s : State) (ring seq progress position : Nat) (c c1 c2 : Cmd), findCmd s ring seq = some c → clocked s = true →
    isLong c.pkt = true → c.phase = .running → c.pkt.opc ≠ 0x70 → c.pkt.opc ≠ 0x80 → c.pkt.opc ≠ 0x41 →
    c.progress ≤ progress → progress ≤ 1000 → c.lastProg + 50 ≤ progress → c.lastInProg + 10000000 ≤ s.dev.now →
    c1 = { c with progress := progress, position := position } →
    c2 = { c1 with lastProg := progress, lastInProg := s.dev.now } →
    exec (.inProgressPost ring seq progress position) s = .next (postProgress (putCmd (putCmd s c1) c2) c2)) ∧
  (∀ (s : State) (ring seq progress position : Nat) (c : Cmd), findCmd s ring seq = some c → clocked s = true →
    isLong c.pkt = true → (c.phase = .running ∧ (c.pkt.opc = 0x80 ∨ c.pkt.opc = 0x41) ∨ (c.pkt.opc = 0x41 ∧ ∃ t, c.phase = .chunkWait t)) →
    c.lastProg + 50 ≤ c.progress → c.lastInProg + 10000000 ≤ s.dev.now →
    exec (.inProgressPost ring seq progress position) s = .next (postProgress
      (putCmd s { c with lastProg := c.progress, lastInProg := s.dev.now }) { c with lastProg := c.progress, lastInProg := s.dev.now })) ∧
  (∀ (s t : State) (ring : Nat) (q : Ring), look s.rings ring = some q → clocked s = true → q.irqPending = true →
    t = s.setRing ring (some { q with irqPending := false, lastIrq := some s.dev.now }) →
    ((∀ n, q.lastIrq = some n → n + 100 ≤ s.dev.now) →
      (q.destroying = false → bit (msixWord (s.fn q.fn) (4 * q.vector + 3)) 0 = false → exec (.msixCoalesce ring) s =
        .next (t.updHost fun h => { h with irqs := h.irqs ++ [(q.fn, q.vector)] })) ∧
      (q.destroying = false → bit (msixWord (s.fn q.fn) (4 * q.vector + 3)) 0 = true → exec (.msixCoalesce ring) s =
        .next (t.updFn q.fn fun f => { f with pba := put 0 f.pba q.vector 1 })) ∧
      (q.destroying = true → exec (.msixCoalesce ring) s = .next (reap (sendIrq t q.fn q.vector) ring))) ∧
    (∀ n, q.lastIrq = some n → s.dev.now < n + 100 → exec (.msixCoalesce ring) s = .next s)) ∧
  (∀ (s : State) (r : Nat) (q : Ring), consuming s = true → s.paused = true → outOrdinary s < 65536 → look s.rings r = some q →
    ((resumable s).find? fun k => decide (k > s.lastServed)) = some r ∨
      (((resumable s).find? fun k => decide (k > s.lastServed)) = none ∧ (resumable s).head? = some r) →
    exec .consumptionResume s = .next (consume s r q)) ∧
  (∀ (s : State), consuming s = true → s.paused = true → outOrdinary s < 65536 → resumable s = [] →
    exec .consumptionResume s = .next { s with paused := false }) ∧
  (∀ (s : State) (ring seq : Nat) (c : Cmd), findCmd s ring seq = some c → clocked s = true → c.phase = .draining →
    (c.pkt.opc = 0x02 → othersOfFn s c = 0 → exec (.outstandingDrained ring seq) s =
      .next ((finish s c stOk 0).updFn c.fn fun f => { f with session := 0 })) ∧
    (c.pkt.opc = 0x11 → look s.rings (c.p 0 4) = none → exec (.outstandingDrained ring seq) s = .next (finish s c stOk 0)) ∧
    (c.pkt.opc = 0xE1 → findCmd s (c.p 0 4) (c.p 4 4) = none → ∃ pos, exec (.outstandingDrained ring seq) s =
      .next (finish s { c with position := pos } stOk pos)) ∧
    (c.pkt.opc = 0xB1 → serviceLeft s c = false → exec (.outstandingDrained ring seq) s =
      .next (finish (toMaintenance (keepGib s (c.p 2 2))) c stOk 3)) ∧
    (c.pkt.opc = 0xB2 → (∀ d ∈ s.cmds, d.order = c.order) → exec (.outstandingDrained ring seq) s =
      .next ((beginDown (flushLog (raiseAll (finish s c stOk 0)))).updPwr fun p => { p with blocked := true })))

/-- HELLO, GOODBYE, RING_CREATE, RING_DESTROY and RING_BIND (R268, R286, R255, R256, R252): HELLO takes the highest version of both ranges
and answers it with the device range; GOODBYE ends the session; RING_CREATE makes the ring with head, tail and completion head 0 and NEXT
1; a ring number that is created gives NO_RESOURCE; RING_DESTROY of an idle ring ends at once, or, where the ring owes an
interrupt (log entry 145), waits for it; RING_BIND gives a function its range, and
NOT_PERMITTED where the range is taken, holds ring 0, or the function has one. -/
def Obligations.SessionAndRingCommands : Prop :=
  (∀ (s : State) (ring seq : Nat) (c : Cmd), Ready s 0x01 ring seq c → othersOfFn s c = 0 →
    (max (c.p 0 1) 0x10 ≤ min (c.p 1 1) 0x13 → exec (.hello ring seq) s = .next (finish
      (s.updFn c.fn fun f => { f with session := min (c.p 1 1) 0x13 }) c stOk (min (c.p 1 1) 0x13 + 256 * 0x1310))) ∧
    (min (c.p 1 1) 0x13 < max (c.p 0 1) 0x10 → exec (.hello ring seq) s = .next (finish
      (s.updFn c.fn fun f => { f with session := 0 }) c stBadVersion (256 * 0x1310)))) ∧
  (∀ (s : State) (ring seq : Nat) (c : Cmd), Ready s 0x01 ring seq c → othersOfFn s c ≠ 0 → ∃ ns : Nat,
    exec (.hello ring seq) s = .next (finish { s with freeCtr := s.freeCtr + 1 } c stBusy ns)) ∧
  (∀ (s : State) (ring seq : Nat) (c c' : Cmd), Ready s 0x02 ring seq c → othersOfFn s c = 0 → c' = { c with phase := .draining } →
    exec (.goodbye ring seq) s = .next ((finish (putCmd s c') c' stOk 0).updFn c.fn fun f => { f with session := 0 })) ∧
  (∀ (s : State) (ring seq : Nat) (c : Cmd), Ready s 0x10 ring seq c → ownsRing s c.fn (c.p 0 4) = true →
    (look s.rings (c.p 0 4) = none → exec (.ringCreate ring seq) s = .next (finish (s.setRing (c.p 0 4) (some
      { fn := c.fn, sq := c.p 8 8, slots := c.p 4 2, cq := c.p 16 8, entries := c.p 6 2, headAddr := c.p 24 8, isAdmin := false,
        vector := c.p 32 2, head := 0, tail := 0, chead := 0, cidx := 0, phase := true, unret := 0, next := 1, stopped := false,
        destroying := false, window := [], irqPending := false, lastIrq := none })) c stOk 0)) ∧
    ((look s.rings (c.p 0 4)).isSome = true → exec (.ringCreate ring seq) s = .next (finish s c stNoResource 0))) ∧
  (∀ (s : State) (ring seq : Nat) (c : Cmd) (q : Ring), Ready s 0x11 ring seq c → look s.rings (c.p 0 4) = some q → q.fn = c.fn →
    (q.isAdmin = true → exec (.ringDestroy ring seq) s = .next (finish s c stNotPermitted 0)) ∧
    (q.isAdmin = false → outOn s (c.p 0 4) = 0 → (∀ e ∈ s.reqs, ∀ r, e.2 = some r → r.open_ = true → r.ring ≠ c.p 0 4) →
      (s.fn c.fn).first ≠ c.p 0 4 → (look s.rings (s.fn c.fn).first).isSome = true →
      (∀ a, look s.rings (s.fn c.fn).first = some a → a.destroying = false) →
      (q.irqPending = false → ∃ t, exec (.ringDestroy ring seq) s = .next (finish t { c with phase := .draining } stOk 0) ∧
        t.rings = store s.rings (c.p 0 4) none) ∧
      (q.irqPending = true → q.destroying = false → exec (.ringDestroy ring seq) s = .next ((putCmd s { c with phase := .draining }).setRing
        (c.p 0 4) (some { q with destroying := true }))))) ∧
  (∀ (s : State) (ring seq : Nat) (c : Cmd), Ready s 0x12 ring seq c → c.p 8 4 ≠ 0 →
    (c.p 4 4 ≠ 0 → (s.fn (c.p 0 1)).count = 0 → rangeTaken s (c.p 4 4) (c.p 8 4) = false →
      exec (.ringBind ring seq) s = .next (finish
        (s.updFn (c.p 0 1) fun f => { f with first := c.p 4 4, count := c.p 8 4 }) c stOk 0)) ∧
    (c.p 4 4 = 0 ∨ (s.fn (c.p 0 1)).count ≠ 0 ∨ rangeTaken s (c.p 4 4) (c.p 8 4) = true →
      exec (.ringBind ring seq) s = .next (finish s c stNotPermitted 0))) ∧
  (∀ (s : State) (ring seq : Nat) (c : Cmd), Ready s 0x12 ring seq c → c.p 8 4 = 0 → (s.fn (c.p 0 1)).enable = false →
    (∀ e ∈ s.rings, ∀ q, e.2 = some q → q.fn ≠ c.p 0 1) →
    exec (.ringBind ring seq) s = .next (finish (s.updFn (c.p 0 1) fun f => { f with first := 0, count := 0 }) c stOk 0))

/-! ## Host interface (21_host_interface, 11_graec_rings R254) -/

/-- ADMIN_ENABLE and ADMIN_DISABLE (R254): with sizes of 4 to 12, a ring range and no fewer completion entries than slots the admin ring
starts with the values of its page; otherwise CFG_ERR is set and ENABLE stays 0; clearing ENABLE ends the session and destroys the
function's rings; a write with ENABLE clear to a disabled page only writes the other fields.
Register writes (R469, R472, R474, R475): in BAR0 only the W1C bits of ERR_SUMMARY and the MSI-X table can be written; the doorbell
page holds the admin ring addresses; over SMBus LOG_INDEX, SSC_CFG, the clear code and the two W1C bits of PWR_FAULT_LATCH. A write to
anything else changes nothing.
The latched-read shadow (R470): a 4-byte read of a low half answers the low half, copies the high half into the function's shadow and
tags it; a read of a high half answers the shadow when its tag matches and the current high half otherwise, and leaves the shadow. -/
def Obligations.RegistersWriteAndLatch : Prop :=
  ((∀ (s : State) (fn v : Nat) (f : Fn), HostReach s fn → bit v 31 = true → f = cfgFields (s.fn fn) v → f.enable = false →
      (4 ≤ f.sqLog2 ∧ f.sqLog2 ≤ 12 ∧ 4 ≤ f.cqLog2 ∧ f.cqLog2 ≤ 12 ∧ f.sqLog2 ≤ f.cqLog2 ∧ f.count ≠ 0 → look s.rings f.first = none →
        exec (.adminEnable fn v) s = .next ((s.setFn fn { f with enable := true, cfgErr := false }).setRing f.first
          (some (newRing fn f.sq (2 ^ f.sqLog2) f.cq (2 ^ f.cqLog2) 0 f.vector true)))) ∧
      (¬(4 ≤ f.sqLog2 ∧ f.sqLog2 ≤ 12 ∧ 4 ≤ f.cqLog2 ∧ f.cqLog2 ≤ 12 ∧ f.sqLog2 ≤ f.cqLog2 ∧ f.count ≠ 0) →
        exec (.adminEnable fn v) s = .next (s.setFn fn { f with cfgErr := true }))) ∧
    (∀ (s : State) (fn v : Nat), HostReach s fn → bit v 31 = false →
      ((s.fn fn).enable = false → exec (.adminDisable fn v) s = .next (s.updFn fn fun f => cfgFields f v)) ∧
      ((s.fn fn).enable = true → exec (.adminDisable fn v) s = .next (clearEnable (s.updFn fn fun f => cfgFields f v) fn)) ∧
      ((s.fn fn).enable = true → (∀ e ∈ s.rings, ∀ q, e.2 = some q → q.fn ≠ fn) → look s.rings (s.fn fn).first = none →
        exec (.adminDisable fn v) s = .next (s.setFn fn { cfgFields (s.fn fn) v with enable := false, session := 0 })))) ∧
  ((∀ (s : State) (v : Nat), HostReach s 0 → exec (.registerWrite (.bar0 0 0x18) v) s =
      .next (s.updErr fun e => { e with seen := e.seen &&& (0x1FF ^^^ v % 512) })) ∧
    (∀ (s : State) (fn o v : Nat), HostReach s fn → (fn = 0 → o ≠ 0x18 ∧ (o < 0x800000 ∨ 0x808000 ≤ o)) →
      (fn ≠ 0 → o < 0x8000 ∨ 0x9000 ≤ o) → exec (.registerWrite (.bar0 fn o) v) s = .next s) ∧
    (∀ (s : State) (w v : Nat), HostReach s 0 → w < 0x2000 → w % 4 = 1 ∨ w % 4 = 2 → v < 2 ^ 32 →
      exec (.registerWrite (.bar0 0 (0x800000 + 4 * w)) v) s =
        .next (s.updFn 0 fun f => { f with msix := put none f.msix w (if v = 0 then none else some v) })) ∧
    (∀ (s : State) (fn v : Nat), HostReach s fn → v < 2 ^ 32 →
      exec (.registerWrite (.bar2 fn 0x008) v) s = .next (s.updFn fn fun f => { f with sq := f.sq / 2 ^ 32 * 2 ^ 32 + v / 4096 * 4096 }) ∧
      exec (.registerWrite (.bar2 fn 0x00C) v) s = .next (s.updFn fn fun f => { f with sq := f.sq % 2 ^ 32 + v * 2 ^ 32 }) ∧
      exec (.registerWrite (.bar2 fn 0x010) v) s = .next (s.updFn fn fun f => { f with cq := f.cq / 2 ^ 32 * 2 ^ 32 + v / 4096 * 4096 }) ∧
      exec (.registerWrite (.bar2 fn 0x014) v) s = .next (s.updFn fn fun f => { f with cq := f.cq % 2 ^ 32 + v * 2 ^ 32 }) ∧
      exec (.registerWrite (.bar2 fn 0x004) v) s = .next s ∧ exec (.registerWrite (.bar2 fn 0x01C) v) s = .next s) ∧
    (∀ (s : State) (v : Nat), s.pwr.aux = true →
      exec (.registerWrite (.smbus 0x10) v) s = .next (s.updHost fun h => { h with logIndex := v % 8192 }) ∧
      exec (.registerWrite (.smbus 0x04) v) s = .next (s.updPwr fun p => { p with latch := { p.latch with
        fault := p.latch.fault && !bit v 31, recovered := p.latch.recovered && !bit v 30 } }) ∧
      exec (.registerWrite (.smbus 0x05) v) s = exec (.sscCfgWrite v) s ∧
      exec (.registerWrite (.smbus 0x18) v) s = exec (.clearCodeWrite v) s) ∧
    (∀ (s : State) (t : RegTarget) (v : Nat), s.pwr.aux = false → (∃ k, t = .smbus k) → exec (.registerWrite t v) s = .next s)) ∧
  ((∀ (s : State) (fn o : Nat), HostReach s fn → o % 8 = 0 → words32 fn o = false →
      exec (.lowHalfRead fn o) s = .next ((s.reply (bar0 s fn o % 2 ^ 32)).updFn fn fun f =>
        { f with shadow := some (o, bar0 s fn o / 2 ^ 32) })) ∧
    (∀ (s : State) (fn o hi : Nat), HostReach s fn → o % 8 = 4 → words32 fn o = false → (s.fn fn).shadow = some (o - 4, hi) →
      exec (.highHalfRead fn o) s = .next (s.reply hi)) ∧
    (∀ (s : State) (fn o : Nat), HostReach s fn → o % 8 = 4 → (∀ hi, (s.fn fn).shadow ≠ some (o - 4, hi)) →
      exec (.highHalfRead fn o) s = .next (s.reply (bar0 s fn (o - 4) / 2 ^ 32))))

/-- CONFIG_REQUEST, FLR, SSC_CFG_WRITE, CLEAR_CODE_WRITE, LOG_DATA_READ, SMBUS_REFRESH and HOST_LINK_RETRAIN complete (R463, R464, R468,
R472 to R475, R466): identities of the functions, Retry Status before configuration space is ready, an FLR as a clearing of ENABLE with
the MSI-X table reset, SSC_CFG held and in flash once VIO is good, the clear code stored once, a log slot by SMBus with LOG_INDEX
advancing modulo 8,192, and a change of rate or width counted and logged. -/
def Obligations.HostInterfaceCompletes : Prop :=
  (∀ s : State, HostReach s 0 → clocked s = true → s.dev.st ≠ .hold → cfgReady s = true →
    exec (.configRequest 0 .readId) s = .next (s.reply 0x51201FD2) ∧
    (∀ on, exec (.configRequest 0 (.aspmL1 on)) s = .next (s.updHost fun h => { h with aspmL1 := on })) ∧
    (∀ n, n ≤ 63 → s.dev.romOnly = false → exec (.configRequest 0 (.numVfs n)) s = .next (setVfs s n))) ∧
  (∀ (s : State) (fn : Nat), HostReach s fn → fn ≠ 0 → exec (.configRequest fn .readId) s = .next (s.reply 0x51211FD2)) ∧
  (∀ (s : State) (fn : Nat) (op : CfgOp), clocked s = true → s.dev.st ≠ .hold → cfgReady s = false →
    exec (.configRequest fn op) s = .next (s.reply (2 ^ 32))) ∧
  (∀ (s : State) (vf : Nat), HostReach s vf → vf ≠ 0 →
    ((s.fn vf).enable = false → exec (.flr vf) s = .next (s.updFn vf fun f => { f with msix := [], pba := [] })) ∧
    ((s.fn vf).enable = true → exec (.flr vf) s = .next ((clearEnable s vf).updFn vf fun f => { f with msix := [], pba := [] }))) ∧
  (∀ (s : State) (v : Nat), s.pwr.aux = true →
    (vioGood s = true → exec (.sscCfgWrite v) s = .next (s.updHost fun h => { h with
      sscDepth := bits v 3 0, sscRate := bits v 7 4, sscFlashDepth := bits v 3 0, sscFlashRate := bits v 7 4, sscDirty := false })) ∧
    (vioGood s = false → exec (.sscCfgWrite v) s = .next (s.updHost fun h => { h with
      sscDepth := bits v 3 0, sscRate := bits v 7 4, sscDirty := true }))) ∧
  (∀ (s : State) (code : Nat), s.pwr.aux = true → code < 2 ^ 64 →
    (vioGood s = true → s.log.clearCode = none → exec (.clearCodeWrite code) s =
      .next (s.updLog fun l => { l with clearCode := some code })) ∧
    (vioGood s = false ∨ s.log.clearCode ≠ none → exec (.clearCodeWrite code) s = .next s)) ∧
  (∀ s : State, s.pwr.aux = true →
    (vioGood s = true → exec .logDataRead s =
      .next ((s.reply (leNat (32#8 :: slotBytes s.log s.host.logIndex))).updHost fun h => { h with logIndex := (h.logIndex + 1) % 8192 })) ∧
    (vioGood s = false → exec .logDataRead s = .next (s.reply 0))) ∧
  (∀ s : State, clocked s = true → s.dev.st ≠ .hold → cfgReady s = true → s.dev.romOnly = false →
    ∃ h, exec .smbusRefresh s = .next { s with host := h } ∧ h = { s.host with smbus := h.smbus } ∧
      ∀ k ∈ [0x00, 0x02, 0x06, 0x07, 0x08, 0x09], nat h.smbus k = smbusLive s k) ∧
  (∀ (s : State) (rate width cause : Nat), clocked s = true → s.dev.st ≠ .hold → 3 ≤ rate → rate ≤ 6 → width = 4 ∨ width = 8 ∨ width = 16 →
    (s.host.trained = false → exec (.hostLinkRetrain rate width cause) s =
      .next (s.updHost fun h => { h with rate := rate, width := width, trained := true })) ∧
    (s.host.trained = true → rate ≠ s.host.rate ∨ width ≠ s.host.width → exec (.hostLinkRetrain rate width cause) s =
      .next (logEvent (s.updHost fun h => { h with rate := rate, width := width, retrains := min (h.retrains + 1) 65535 }) 0x7001 7
        (evData [(s.host.rate, 1), (s.host.width, 1), (rate, 1), (width, 1), (cause % 2, 1)]))))

/-! ## The mantel log (20_mantel_log) -/

/-- R452: the newest record is open; an event equal to it increments REPEAT and sets LAST_SEC and makes no new record; a different event
closes it and opens another; it closes when REPEAT reaches 65,535, 60 s after it opened, at a flush, a LOG_FREEZE or a successful
LOG_CLEAR; after a close a matching event starts a new record. -/
def Obligations.OpenRecordRepeats : Prop :=
  (∀ (s : State) (code domain data : Nat) (r : LogRec), clocked s = true → data < 2 ^ 64 → s.log.openRec = some r →
    (r.code = code → r.domain = domain → r.data = data →
      (r.count + 1 < 65535 → exec (.logEvent code domain data) s =
        .next { s with log := { s.log with openRec := some { r with count := r.count + 1, lastSec := s.dev.opSec } } }) ∧
      (r.count + 1 ≥ 65535 → exec (.logEvent code domain data) s =
        .next { s with log := { s.log with
          ram := s.log.ram ++ [{ r with count := r.count + 1, lastSec := s.dev.opSec }], openRec := none } })) ∧
    (r.code ≠ code ∨ r.domain ≠ domain ∨ r.data ≠ data → s.log.ram.length < 255 → exec (.logEvent code domain data) s =
      .next { s with log := { s.log with
        ram := s.log.ram ++ [r], openedAt := s.dev.opSec, nextSeq := (s.log.nextSeq + 1) % 2 ^ 32,
        openRec := some (freshRec s.dev code domain data s.log.nextSeq) } })) ∧
  (∀ (s : State) (code domain data : Nat), clocked s = true → data < 2 ^ 64 → s.log.openRec = none → s.log.ram.length < 256 →
    exec (.logEvent code domain data) s = .next { s with log := { s.log with
      openedAt := s.dev.opSec, nextSeq := (s.log.nextSeq + 1) % 2 ^ 32,
      openRec := some (freshRec s.dev code domain data s.log.nextSeq) } }) ∧
  (∀ (s : State) (r : LogRec), s.log.openRec = some r → s.log.openedAt + 60 ≤ s.dev.opSec →
    exec .logRecordTimeout s = .next { s with log := { s.log with ram := s.log.ram ++ [r], openRec := none } }) ∧
  (∀ s : State, (flushLog s).log.openRec = none ∧ (clearLog s.dev s.log).openRec = none) ∧
  (∀ (s : State) (ring seq : Nat) (c : Cmd) (t : State), Ready s 0xA0 ring seq c → s.log.frozen = false →
    exec (.logFreeze ring seq) s = .next t → t.log.openRec = none)

/-- R455: LOG_FREEZE closes the open record, writes every buffered record and stops flash writing, and answers the index of the newest
record in flash; new events wait in the buffer; the freeze ends at LOG_THAW, at a flush, or after 600 s; LOG_THAW answers the lost count
gathered meanwhile, and writing resumes. -/
def Obligations.LogFreezes : Prop :=
  (∀ (s : State) (ring seq : Nat) (c : Cmd), Ready s 0xA0 ring seq c → s.log.frozen = false →
    exec (.logFreeze ring seq) s = .next (finish
      { s with log := { flashAll (closeRec s.log) with frozen := true, frozenAt := s.dev.opSec, lostFrozen := 0 } } c stOk
      ((flashAll (closeRec s.log)).newestSeq % 8192))) ∧
  (∀ l : Mantel, (flashAll (closeRec l)).ram = [] ∧ (closeRec l).openRec = none ∧
    (closeRec l).ram = l.ram ++ l.openRec.toList ∧ (flashAll l).flash = (l.ram.foldl flashRec l).flash) ∧
  (∀ s : State, s.log.frozen = true → exec .logFlashWrite s = .next s) ∧
  (∀ (s t : State) (code domain data : Nat), s.log.frozen = true → exec (.logEvent code domain data) s = .next t →
    t.log.flash = s.log.flash ∧ t.log.frozen = true) ∧
  (∀ (s : State) (ring seq : Nat) (c : Cmd), Ready s 0xA2 ring seq c → s.log.frozen = true →
    exec (.logThaw ring seq) s = .next (finish { s with log := { s.log with frozen := false, lostFrozen := 0 } } c stOk s.log.lostFrozen)) ∧
  (∀ s : State, (flushLog s).log.frozen = false) ∧
  (∀ s : State, s.log.frozen = true → s.log.frozenAt + 600 ≤ s.dev.opSec →
    exec .logFreezeTimeout s = .next { s with log := { s.log with frozen := false, lostFrozen := 0 } }) ∧
  (∀ s : State, clocked s = true → s.log.frozen = false → exec .logFlashWrite s = .next { s with log := flashAll s.log })

/-- R458: LOG_CLEAR succeeds only with the provisioned clear code; a card without one refuses it, as does a frozen log and, after eight
wrong codes since BOOT, every LOG_CLEAR until the next BOOT.
R459: a successful clear closes the open record, erases every record of flash and buffer, and writes LOG_CLEARED with the number of
valid records erased and the SEQ of the newest one, or 0 and the SEQ before LOG_CLEARED's own; SEQ continues; the times of the card and a
pending lost count stay. -/
def Obligations.LogClears : Prop :=
  (∀ (s : State) (ring seq : Nat) (c : Cmd), Ready s 0xA3 ring seq c →
      (s.log.frozen = false → s.log.wrong < 8 → s.log.clearCode = some (c.p 0 8) →
        exec (.logClear ring seq) s = .next (finish { s with log := clearLog s.dev s.log } c stOk 0)) ∧
      (∀ code, s.log.frozen = false → s.log.wrong < 8 → s.log.clearCode = some code → c.p 0 8 ≠ code →
        exec (.logClear ring seq) s = .next (finish { s with log := { s.log with wrong := s.log.wrong + 1 } } c stNotPermitted 0)) ∧
      (s.log.clearCode = none ∨ s.log.wrong ≥ 8 ∨ s.log.frozen = true →
        exec (.logClear ring seq) s = .next (finish s c stNotPermitted 0)) ∧
      (bootState s).log.wrong = 0) ∧
  (∀ (d : Dev) (l : Mantel),
      let m := closeRec l
      let n := (m.flash.filter fun e => e.2.valid).length + m.ram.length
      ∃ newest r, clearLog d l = { l with
          flash := [(l.nextSeq % 8192, r)], ram := [], openRec := none, nextSeq := (l.nextSeq + 1) % 2 ^ 32, newestSeq := l.nextSeq } ∧
        r = freshRec d 0x9001 0xF (evData [(n, 4), (newest, 4)]) l.nextSeq ∧
        (∀ x, m.ram.getLast? = some x → newest = x.seq) ∧
        (m.ram = [] → n ≠ 0 → newest = l.newestSeq) ∧
        (n = 0 → newest = (l.nextSeq + 2 ^ 32 - 1) % 2 ^ 32))

/-- LOG_READ and LOG_RECORDS_LOST, and LOG_FREEZE and LOG_THAW where there is nothing to do (R301, R453, R456): COUNT slots go to host
memory in ascending index from FIRST, wrapping at 8,192, and no byte outside them changes but the record's; the lost count is logged with
the time of the first loss and starts again. -/
def Obligations.LogReadsAndLosses : Prop :=
  (∀ (s : State) (ring seq : Nat) (c : Cmd), Ready s 0xA1 ring seq c →
    (c.p 0 4 < 8192 → exec (.logRead ring seq) s = .next (finish (s.hostWrite (c.p 8 8)
      ((List.range (c.p 4 4)).flatMap fun i => slotBytes s.log ((c.p 0 4 + i) % 8192))) c stOk (c.p 4 4))) ∧
    (c.p 0 4 ≥ 8192 → exec (.logRead ring seq) s = .next (finish s c stBadParam 32))) ∧
  (∀ (s : State) (ring seq : Nat) (c : Cmd), Ready s 0xA0 ring seq c → s.log.frozen = true →
    exec (.logFreeze ring seq) s = .next (finish s c stOk (s.log.newestSeq % 8192))) ∧
  (∀ (s : State) (ring seq : Nat) (c : Cmd), Ready s 0xA2 ring seq c → s.log.frozen = false →
    exec (.logThaw ring seq) s = .next (finish s c stOk 0)) ∧
  (∀ s : State, clocked s = true → s.log.frozen = false → s.log.lost ≠ 0 → ramCount s.log < 256 →
    exec .logRecordsLost s = .next ((logEvent s 0x9002 0xF (evData [(min s.log.lost (2 ^ 32 - 1), 4), (s.log.lostSec, 4)])).updLog
      fun l => { l with lost := 0, lostSec := 0 }))

/-- Traces (R303): the interval belongs to the function; a start of an open ID gives NOT_PERMITTED and leaves it; a stop without a start
gives OK_WARN with ORDER and RESULT0 0; a stop within the tick of its start OK_WARN with BELOW_RES and RESULT0 0; a stop closes the
interval and answers its length in 10 ns units. -/
def Obligations.TracesMeasureIntervals : Prop :=
  (∀ (s : State) (ring seq : Nat) (c : Cmd), Ready s 0xC0 ring seq c →
    (nat (s.fn c.fn).traces (c.p 0 2) = 0 → exec (.traceStart ring seq) s = .next (finish
      (s.updFn c.fn fun f => { f with traces := put 0 f.traces (c.p 0 2) (s.dev.now + 1) }) c stOk s.dev.now)) ∧
    (nat (s.fn c.fn).traces (c.p 0 2) ≠ 0 → exec (.traceStart ring seq) s = .next (finish s c stNotPermitted 0))) ∧
  (∀ (s : State) (ring seq : Nat) (c : Cmd), Ready s 0xC1 ring seq c →
    (nat (s.fn c.fn).traces (c.p 0 2) = 0 → exec (.traceStop ring seq) s = .next (finishW s c stOk 0 8)) ∧
    (∀ t, nat (s.fn c.fn).traces (c.p 0 2) = t + 1 → ∃ s', s' = (s.updFn c.fn fun f => { f with traces := put 0 f.traces (c.p 0 2) 0 }) ∧
      (s.dev.now ≠ t → exec (.traceStop ring seq) s = .next (finish s' c stOk (s.dev.now - t))) ∧
      (s.dev.now = t → exec (.traceStop ring seq) s = .next (finishW s' c stOk 0 16))))

/-! ## Contexts, variants, tables, panels (12_graec_commands R287 to R291, R299) -/

/-- CTX_CREATE, CTX_LOAD and CTX_DESTROY (R287, R288, R208): the lowest free context number with nothing loaded, NO_RESOURCE when 64 exist;
a load is accepted, and once its image passes every check of R208 and finds its tiles it is loaded and answers whether results may vary
and the first tile; a line that reads back otherwise is a tile-memory fault (R385); a rejected image leaves the context unloaded; a context
with an open request is not destroyed, and one with nothing in flight goes at once. -/
def Obligations.ContextCommands : Prop :=
  (∀ (s : State) (ring seq : Nat) (c : Cmd), Ready s 0x20 ring seq c →
    (∀ n, (∀ k < n, (look s.ctxs k).isSome = true) → n < 64 → look s.ctxs n = none → ∃ x : Ctx,
      x.fn = c.fn ∧ x.hdim = c.p 0 1 ∧ x.spillAddr = c.p 8 8 ∧ x.spillSlots = c.p 16 4 ∧ x.image = none ∧ x.inflight = [] ∧
      x.variants = [] ∧ x.tables = [] ∧ x.halted = false ∧ exec (.ctxCreate ring seq) s = .next (done (s.setCtx n (some x)) c n)) ∧
    ((∀ k < 64, (look s.ctxs k).isSome = true) → exec (.ctxCreate ring seq) s = .next (finish s c stNoResource 0))) ∧
  (∀ (s : State) (ring seq : Nat) (reads : List LineRead) (c : Cmd) (x : Ctx), Ready s 0x22 ring seq c → OnCtx s c x →
    (x.image = none → exec (.ctxLoad ring seq reads) s = .next (acceptLong s { c with phase := .running })) ∧
    (x.image ≠ none → exec (.ctxLoad ring seq reads) s = .next (finish s c stNotPermitted 0))) ∧
  (∀ (s : State) (ring seq : Nat) (reads : List LineRead) (c : Cmd) (x : Ctx) (b : List Byte) (e : Option (Nat × Nat)),
    Running s 0x22 ring seq c → OnCtx s c x → x.image = none → b = s.hostRead (c.p 0 8) (c.p 8 8) →
    e = imageCheck b (c.p 8 8) x.hdim (memberOf s) (s.ctxs.any fun e => e.2.elim false (·.chimney)) 32 →
    (∀ st r, e = some (st, r) → exec (.ctxLoad ring seq reads) s = .next (finish s c st r)) ∧
    (∀ o, e = none → (c.p 16 1 ≠ 1 ∧ autoOrigin s b = some o ∨
        c.p 16 1 = 1 ∧ originOk s b (c.p 17 1) (c.p 18 1) = true ∧ o = 80 * c.p 17 1 + c.p 18 1) →
      (badLine (loadImage s c.pkt.ctx b o) (imageOf b o) reads = none → ∃ c', c' = { c with position := b.length } ∧
        exec (.ctxLoad ring seq reads) s = .next (done (putCmd (loadImage s c.pkt.ctx b o) c') c'
          (b2n (imageOf b o).varies + 2 ^ 16 * ((imageOf b o).tiles.head?.elim 0 (·.tile))))) ∧
      (∀ r, badLine (loadImage s c.pkt.ctx b o) (imageOf b o) reads = some r → exec (.ctxLoad ring seq reads) s = .next (raiseErr
        (logEvent (loadImage s c.pkt.ctx b o) 0x5002 5 (evData [(1, 1), (0xFF, 1), (0, 2), (r.line % 4096 + r.tile * 65536, 4)]))
        { domain := 5, code := 0x5002, unit := r.tile, detail := 0, act := .fatal }))) ∧
    (e = none → c.p 16 1 ≠ 1 → autoOrigin s b = none → exec (.ctxLoad ring seq reads) s = .next (finish s c stNoResource 0)) ∧
    (e = none → c.p 16 1 = 1 → originOk s b (c.p 17 1) (c.p 18 1) = false →
      exec (.ctxLoad ring seq reads) s = .next (finish s c stBadParam 49))) ∧
  (∀ (s : State) (ring seq : Nat) (c : Cmd) (x : Ctx), Ready s 0x21 ring seq c → look s.ctxs c.pkt.ctx = some x → x.fn = c.fn →
    (x.halted = false → (∃ i < 2 ^ 20, i ∈ reqsOfCtx s c.pkt.ctx) →
      exec (.ctxDestroy ring seq) s = .next (finish s c stNotPermitted 0)) ∧
    (reqsOfCtx s c.pkt.ctx = [] → x.inflight ≠ [] → (∀ d ∈ s.cmds, d.pkt.opc ≠ 0x22) → exec (.ctxDestroy ring seq) s =
      .next (putCmd (s.updCtx c.pkt.ctx fun x => { x with destroying := true }) { c with phase := .leaving })) ∧
    (reqsOfCtx s c.pkt.ctx = [] → x.inflight = [] → s.cmds = [c] → (∀ e ∈ s.kv.prefixes, ∀ p, e.2 = some p → p.ctx ≠ c.pkt.ctx) →
      exec (.ctxDestroy ring seq) s = .next (done (freeCtx (({ s with cmds := [{ c with phase := .leaving }] }.updCtx c.pkt.ctx fun x =>
        { x with destroying := true }).updKv fun k => { k with hot := k.hot.filter fun e => e.1 != c.pkt.ctx }) c.pkt.ctx)
        { c with phase := .leaving } 0)))

/-- VARIANT_LOAD, VARIANT_DROP, TABLE_LOAD, TABLE_UPDATE, TABLE_UPDATE_APPLY, PANEL_READ and PANEL_WRITE (R289, R290, R291, R299): each
takes effect on its context alone; a variant or table already loaded, or a context without an image, gives NOT_PERMITTED; an update
waits for a step boundary except in MAINTENANCE; panel bytes go to and from host memory, the rest of the tile memory as it was. -/
def Obligations.ContextContents : Prop :=
  (∀ (s : State) (ring seq : Nat) (c : Cmd) (x : Ctx) (i : Image) (b : List Byte), Ready s 0x24 ring seq c → OnCtx s c x →
    x.image = some i → 32 ≤ c.p 8 8 → b = s.hostRead (c.p 0 8) (c.p 8 8) → variantBad s i b = none →
    ((∃ v, (field b 6 2, v) ∈ x.variants) → exec (.variantLoad ring seq) s = .next (finish s c stNotPermitted 0)) ∧
    ((∀ v, (field b 6 2, v) ∉ x.variants) → deltaUsed s + c.p 8 8 ≤ 16 * 2 ^ 30 → ∃ y : Variant, y.nent = field b 16 8 ∧
      y.bytes = c.p 8 8 ∧ y.segs = (segsOf b).map (fun g => (g.arr, deltasOf b g)) ∧ exec (.variantLoad ring seq) s =
        .next (done (s.updCtx c.pkt.ctx fun x => { x with variants := insert (field b 6 2) y (erase x.variants (field b 6 2)) }) c
          (field b 6 2 + 2 ^ 16 * field b 16 8)))) ∧
  (∀ (s : State) (ring seq : Nat) (c : Cmd) (x : Ctx), Ready s 0x25 ring seq c → OnCtx s c x →
    ((∀ v, (c.p 0 2, v) ∉ x.variants) → exec (.variantDrop ring seq) s = .next (finish s c stBadParam 32)) ∧
    ((∃ v, (c.p 0 2, v) ∈ x.variants) →
      (∀ e ∈ s.reqs, ∀ r, e.2 = some r → r.open_ = true → r.ctx = c.pkt.ctx → r.variant ≠ c.p 0 2) →
      exec (.variantDrop ring seq) s = .next (done (dropVariant s c.pkt.ctx (c.p 0 2)) c 0))) ∧
  (∀ (s : State) (ring seq : Nat) (c : Cmd) (x : Ctx), Ready s 0x30 ring seq c → OnCtx s c x →
    (x.image ≠ none → (∀ t, (c.p 0 1, t) ∉ x.tables) → c.p 2 1 ≠ 3 →
      exec (.tableLoad ring seq) s = .next (acceptLong s { c with phase := .running })) ∧
    (x.image = none → exec (.tableLoad ring seq) s = .next (finish s c stNotPermitted 0))) ∧
  (∀ (s : State) (ring seq : Nat) (c : Cmd) (x : Ctx) (rb : Nat) (t : Table), Running s 0x30 ring seq c → OnCtx s c x → x.image ≠ none →
    (∀ t, (c.p 0 1, t) ∉ x.tables) → c.p 2 1 = 1 → rb = rowBytes (c.p 1 1) (c.p 4 2) → tableUsed s + c.p 16 8 * rb ≤ s.kv.tableGib * 2 ^ 30 →
    ¬(c.p 1 1 = 2 ∧ c.p 4 2 % 2 = 1) → c.p 32 8 = c.p 16 8 * rb →
    rowsBad (srcRows s (c.p 24 8) 1 (c.p 16 8) rb) 1 (c.p 1 1) (c.p 16 8) (c.p 6 2) (c.p 8 2) rb = none →
    t.fmt = c.p 1 1 → t.tier = 1 → t.d = c.p 4 2 → t.rows = c.p 16 8 → t.shards = c.p 6 2 → t.shard = c.p 8 2 → t.srcAddr = c.p 24 8 →
    t.data = srcRows s (c.p 24 8) 1 (c.p 16 8) rb →
    exec (.tableLoad ring seq) s = .next (done (s.updCtx c.pkt.ctx fun x => { x with
      tables := insert (c.p 0 1) t (erase x.tables (c.p 0 1)) }) { c with position := c.p 16 8 * rb } 1)) ∧
  (∀ (s : State) (ring seq : Nat) (c : Cmd) (x : Ctx) (t : Table) (us : List TUpd), Ready s 0x31 ring seq c → OnCtx s c x →
    (x.tables.find? fun e => e.1 == c.p 0 1) = some (c.p 0 1, t) → c.p 4 4 = 1 →
    leNat (s.hostRead (c.p 8 8) 8) < t.rows → scaleBad t.fmt (s.hostRead (c.p 8 8 + 8) (rowBytes t.fmt t.d)) = false →
    x.updates.length < 2 ^ 20 →
    us = [{ ring := ring, seq := seq, table := c.p 0 1, row := leNat (s.hostRead (c.p 8 8) 8),
            bytes := s.hostRead (c.p 8 8 + 8) (rowBytes t.fmt t.d) }] →
    (s.dev.st ≠ .maintenance → exec (.tableUpdate ring seq) s =
      .next (done (s.updCtx c.pkt.ctx fun x => { x with updates := x.updates ++ us }) c 0)) ∧
    (s.dev.st = .maintenance → exec (.tableUpdate ring seq) s =
      .next (done (applyUpdates (s.updCtx c.pkt.ctx fun x => { x with updates := x.updates ++ us }) c.pkt.ctx) c 0))) ∧
  (∀ (s : State) (ctx : Nat) (x : Ctx), look s.ctxs ctx = some x → clocked s = true → x.replay = none →
    (atBoundary s x = true → exec (.tableUpdateApply ctx) s = .next (applyUpdates s ctx)) ∧
    (atBoundary s x = false → exec (.tableUpdateApply ctx) s = .next s)) ∧
  (∀ (s : State) (ring seq : Nat) (c : Cmd) (x : Ctx) (i : Image) (k : CTile) (p : Panel), OnCtx s c x → x.image = some i →
    i.tiles[c.p 0 2]? = some k → k.panels[c.p 2 1]? = some p → c.p 4 4 + c.p 8 4 ≤ 32 * p.lines → (s.tile k.tile).exec = none →
    (Ready s 0x60 ring seq c → p.hostRw = true → exec (.panelRead ring seq) s = .next (done
      (s.hostWrite (c.p 16 8) (Mem.read (s.tile k.tile).mem (32 * p.base + c.p 4 4) (c.p 8 4))) c (c.p 8 4))) ∧
    (Ready s 0x60 ring seq c → p.hostRw = false → exec (.panelRead ring seq) s = .next (finish s c stNotPermitted 0)) ∧
    (Ready s 0x61 ring seq c → p.hostRw = true → p.kind ≠ 4 → exec (.panelWrite ring seq) s = .next (done
      (s.updTile k.tile fun y => { y with
        mem := Mem.write (s.tile k.tile).mem (32 * p.base + c.p 4 4) (s.hostRead (c.p 16 8) (c.p 8 4)) }) c (c.p 8 4))) ∧
    (Ready s 0x61 ring seq c → p.hostRw = false → p.kind ≠ 4 → exec (.panelWrite ring seq) s = .next (finish s c stNotPermitted 0)))

/-! ## Requests and prefixes (12_graec_commands R292 to R299, 07_attention R174) -/

/-- REQ_OPEN without a prefix or a draft (R292): the lowest free slot becomes an open request with the packet's fields, no pending token and
next step index 0, a class 0 or 1 request takes its staging pages, and the handle is the result.
REQ_APPEND, REQ_STEP and REQ_VERIFY begin (R293 to R295, R276): with the request's turn come, a payload without error and the next step
index, the command runs with its count of vectors; a kept earlier step index gets the kept record, one beyond the next BAD_PARAM, one
older STALE_SEQ; a request without a pending token takes no step. -/
def Obligations.RequestsOpenAndRun : Prop :=
  (∀ (s : State) (ring seq : Nat) (c : Cmd) (x : Ctx) (i : Image) (r : Req), Ready s 0x40 ring seq c → look s.ctxs c.pkt.ctx = some x →
      x.image = some i → x.halted = false → x.chimney = false → c.p 0 2 = 0 → c.p 40 8 = 0 → look s.kv.prefixes 0 = none →
      c.p 28 4 = noReq → bit (c.p 2 1) 0 = false → freeSlot s < 2 ^ 20 → reqFits s (openBytes s c none) = true →
      (c.pkt.prio < 2 → pairCount s c.pkt.ctx ≤ s.kv.hobFree) → r = newReq s c (freeSlot s) none none →
      r.open_ = true ∧ r.pending = none ∧ r.nextStep = 0 ∧ r.length = 0 ∧ r.cls = c.pkt.prio ∧ r.ring = c.ring ∧ r.fn = c.fn ∧
      ∃ s1, s1 = (if c.pkt.prio < 2 then s.updKv fun k => { k with
          hobFree := k.hobFree - pairCount s c.pkt.ctx, hobHwm := max k.hobHwm (0x2000 - (k.hobFree - pairCount s c.pkt.ctx)) } else s) ∧
        exec (.reqOpen ring seq) s = .next (finish
          (captureOpen (s1.setReq (freeSlot s) (some r)) c c.pkt.ctx (freeSlot s + r.gen * 2 ^ 20)) c stOk (freeSlot s + r.gen * 2 ^ 20))) ∧
  ((∀ (s : State) (ring seq : Nat) (c : Cmd) (r : Req) (x : Ctx) (c' : Cmd), Ready s 0x41 ring seq c → reqTurn s c = true → OnReq s c r →
      look s.ctxs r.ctx = some x → r.length + c.p 0 4 ≤ 4194304 → appendBad s c x (x.image.elim 0 (·.vocab)) = none → c.p 0 4 ≤ 4096 →
      c' = { c with total := c.p 0 4, phase := .running, dispatched := 0, ended := 0, admitted := 0 } →
      exec (.reqAppend ring seq) s = .next (((putCmd s c').updReq (reqSlot c.pkt.req) fun r =>
        { r with firstCmd := some (r.firstCmd.getD c.consumedAt) }).updReq (reqSlot c.pkt.req) fun r => { r with pending := none })) ∧
    (∀ (s : State) (ring seq : Nat) (c : Cmd) (r : Req), Ready s 0x42 ring seq c → reqTurn s c = true → OnReq s c r →
      (∀ c', c.p 0 4 = r.nextStep → r.pending.isSome = true → r.length < 4194304 →
        c' = { c with total := 1, phase := .running, dispatched := 0, ended := 0, admitted := 0 } →
        exec (.reqStep ring seq) s = .next ((putCmd s c').updReq (reqSlot c.pkt.req) fun r =>
          { r with firstCmd := some (r.firstCmd.getD c.consumedAt) })) ∧
      (c.p 0 4 = r.nextStep → r.pending = none → exec (.reqStep ring seq) s = .next (finish s c stNotPermitted 0)) ∧
      (∀ k, c.p 0 4 ≠ r.nextStep → (r.kept.find? fun e => e.1 == c.p 0 4) = some k →
        exec (.reqStep ring seq) s = .next (finishCopy s c k.2)) ∧
      (c.p 0 4 ≠ r.nextStep → (r.kept.find? fun e => e.1 == c.p 0 4) = none →
        exec (.reqStep ring seq) s = .next (if (c.p 0 4 + 2 ^ 32 - r.nextStep) % 2 ^ 32 < 2 ^ 31 then finish s c stBadParam 32
          else finish s c stStaleSeq 0))) ∧
    (∀ (s : State) (ring seq : Nat) (c : Cmd) (r : Req) (c' : Cmd), Ready s 0x43 ring seq c → reqTurn s c = true → OnReq s c r →
      c.p 0 4 = r.nextStep → c.p 4 1 = 0 → r.pending.isSome = true → r.verify = true →
      treeBad (packetCands c) ((look s.ctxs r.ctx).elim 0 fun x => x.image.elim 0 (·.vocab)) = none →
      r.length + 1 + ((List.range (packetCands c).length).map (depthOf (packetCands c))).foldl max 0 ≤ 4194304 → r.draft = none →
      c' = { c with cands := packetCands c, draftDepth := 0, total := 1 + (packetCands c).length, phase := .running, dispatched := 0,
                    ended := 0, admitted := 0 } →
      exec (.reqVerify ring seq) s =
        .next (putCmd (s.updReq (reqSlot c.pkt.req) fun r => { r with scratch := [], dists := [] }) c')))

/-- R297: once a request has met DATA_LOST, every command that names it completes with DATA_LOST, except REQ_CLOSE, REQ_CANCEL and
REQ_QUERY. -/
def Obligations.LostRequestsEndWithDataLost : Prop :=
  ∀ (s : State) (ring seq : Nat) (c : Cmd) (r : Req), findReq s c.pkt.req = some r → r.dataLost = true → reqTurn s c = true →
    (Ready s 0x41 ring seq c → exec (.reqAppend ring seq) s = .next (finish s c stDataLost 0)) ∧
    (Ready s 0x42 ring seq c → exec (.reqStep ring seq) s = .next (finish s c stDataLost 0)) ∧
    (Ready s 0x43 ring seq c → exec (.reqVerify ring seq) s = .next (finish s c stDataLost 0)) ∧
    (Ready s 0x50 ring seq c → exec (.prefixPin ring seq) s = .next (finish s c stDataLost 0)) ∧
    (r.ring = c.ring → Ready s 0x46 ring seq c →
      exec (.reqQuery ring seq) s = .next (done (s.hostWrite (c.p 0 8) (queryRec r)) c 0)) ∧
    (r.ring = c.ring → r.boundBy = none → Ready s 0x45 ring seq c →
      exec (.reqCancel ring seq) s = .next (cancelReq (putCmd s { c with phase := .leaving }) c.pkt.req c.order)) ∧
    (r.ring = c.ring → Ready s 0x44 ring seq c → exec (.reqClose ring seq) s = .next (settle
      ((putCmd s { c with phase := .draining }).updReq (reqSlot c.pkt.req) fun r => { r with closing := true }) c.pkt.req))

/-- REQ_CLOSE, REQ_CANCEL and REQ_QUERY of a request with nothing else going on, PREFIX_PIN and PREFIX_RELEASE (R296, R298, R299, R174): a
close or a cancel releases the request and ends OK; a query writes its 64-byte record to host memory; a pin makes a handle that
references every page it covers; a release gives the references back. -/
def Obligations.RequestsEnd : Prop :=
  (∀ (s : State) (ring seq : Nat) (c c' : Cmd) (r : Req), (Ready s 0x44 ring seq c ∨ Ready s 0x45 ring seq c) → OnReq s c r → s.cmds = [c] →
    vecsOf s c.pkt.req = false → r.cancelled = false → c' = { c with phase := if c.pkt.opc = 0x44 then .draining else .leaving } →
    let ended (t : State) := finishW (releaseReq (captureCmd t c') (reqSlot c.pkt.req)) c' stOk 0 (warnBits t c')
    (c.pkt.opc = 0x44 → exec (.reqClose ring seq) s = .next (ended ({ s with cmds := [c'] }.updReq (reqSlot c.pkt.req) fun r =>
      { r with closing := true }))) ∧
    (c.pkt.opc = 0x45 → ∃ t, exec (.reqCancel ring seq) s = .next (ended t) ∧
      findReq t c.pkt.req = some { r with cancelled := true, closing := true } ∧ t.hostMem = s.hostMem ∧ t.kv = s.kv)) ∧
  (∀ (s : State) (ring seq : Nat) (c : Cmd) (r : Req), Ready s 0x46 ring seq c → OnReq s c r →
    exec (.reqQuery ring seq) s = .next (done (s.hostWrite (c.p 0 8) (queryRec r)) c 0) ∧ (queryRec r).length = 64) ∧
  (∀ (s : State) (ring seq : Nat) (c : Cmd) (r : Req), Ready s 0x50 ring seq c → reqTurn s c = true → OnReq s c r →
    (0 < c.p 0 4 → c.p 0 4 ≤ r.length → 2 ≤ r.cls → s.kv.prefixes.length < 65536 →
      (∀ e ∈ pinned r (c.p 0 4), e.2.2.ash = false ∧ ∀ x, s.page e.2.2.slot = some x → x.bound = false ∧ x.refcnt < 65535) →
      exec (.prefixPin ring seq) s = .next (pinPrefix s c r (c.p 0 4))) ∧
    (c.p 0 4 = 0 ∨ r.length < c.p 0 4 → exec (.prefixPin ring seq) s = .next (finish s c stBadParam 32)) ∧
    (r.tables = [] → 0 < c.p 0 4 → c.p 0 4 ≤ r.length → 2 ≤ r.cls → s.kv.prefixes.length < 65536 → ∃ h : List Nat,
      exec (.prefixPin ring seq) s = .next (done (s.updKv fun k => { k with
        prefixes := store k.prefixes k.nextHandle (some { ctx := r.ctx, variant := r.variant, n := c.p 0 4, pages := [], carries := [], history := h }),
        nextHandle := k.nextHandle + 1 }) c s.kv.nextHandle))) ∧
  (∀ (s : State) (ring seq : Nat) (c : Cmd) (p : Prefix), Ready s 0x51 ring seq c → look s.kv.prefixes (c.p 0 8) = some p →
    (p.ctx = c.pkt.ctx → exec (.prefixRelease ring seq) s = .next (done ((p.ids.foldl dropRef s).updKv fun k =>
      { k with prefixes := store k.prefixes (c.p 0 8) none }) c 0)) ∧
    (p.ctx ≠ c.pkt.ctx → exec (.prefixRelease ring seq) s = .next (finish s c stBadHandle 0)))

/-! ## Serving (13_serving, 07_attention R170, R171) -/

/-- DISPATCH_BOUNDARY (R216, R316, R318, R324): the contexts up to the one at a boundary are served in ascending number. Of a local
context that is at a boundary with no other, the updates of its tables take effect, then the first-ranked candidate, of class 0 or 1,
for which the flight limits leave room and that gets its pages is dispatched as the context's next vector; without a candidate, or
away from a boundary, nothing is dispatched.
A dispatched vector joins the end of its context's dispatch sequence with the next number, as the vector of its command; of a
REQ_STEP its execution record is the pending token's; no tile changes (R216, R210). -/
def Obligations.VectorsDispatch : Prop :=
  (∀ (s : State) (ctx : Nat), clocked s = true → s.dev.st = .service →
      exec (.dispatchBoundary ctx) s = .next (((s.ctxs.map (·.1)).filter fun k => decide (k ≤ ctx)).foldl ctxBoundary s)) ∧
  (∀ (s t : State) (ctx : Nat) (x : Ctx), look s.ctxs ctx = some x → clocked s = true → s.dev.st = .service → x.halted = false →
      x.replay = none → x.destroying = false → x.chimney = false → ((s.ctxs.map (·.1)).filter fun k => decide (k ≤ ctx)) = [ctx] →
      t = applyUpdates s ctx → chimneyFirst t x = false →
      (∀ (p : Pick) (q r : Req) (l : List Pick), atBoundary s x = true → openGroup t ctx (picks t ctx x) = p :: l →
        reqAt t p.slot = some q → findReq t p.cmd.pkt.req = some r → p.cmd.pkt.opc = 0x42 → p.cls < 2 → flightRoom t p.cls 1 = true →
        (admitChunk t p.cmd).1 = true → exec (.dispatchBoundary ctx) s =
          .next (dispatchCmd (admitChunk t p.cmd).2.1 ctx x p.cmd (admitChunk t p.cmd).2.2)) ∧
      (atBoundary s x = true → picks t ctx x = [] → exec (.dispatchBoundary ctx) s = .next t) ∧
      (atBoundary s x = false → exec (.dispatchBoundary ctx) s = .next s)) ∧
  (∀ (s : State) (ctx : Nat) (x : Ctx) (c : Cmd) (bs : List Bound), look s.ctxs ctx = some x → x.chimney = false →
      ∃ (v : Vec) (y : Ctx), look (dispatchCmd s ctx x c bs).ctxs ctx = some y ∧ y.inflight = x.inflight ++ [v] ∧
        y.dispatched = x.dispatched + 1 ∧ v.disp = x.dispatched ∧ v.ring = c.ring ∧ v.seq = c.pkt.seq ∧
        v.endedTiles = 0 ∧ v.discarded = false ∧ v.chimStep = 0 ∧ (dispatchCmd s ctx x c bs).tiles = s.tiles ∧
        (∀ r, c.pkt.opc = 0x42 → reqAt s (nextSlot s c) = some r → v.xr =
          { req := handleOf (nextSlot s c) r.gen, variant := r.variant, cls := r.cls, phase := 0, pos := r.length, step := r.nextStep,
            token := r.pending.getD 0xFFFFFFFF, cand := 0xFF, first := true, last := true }))

/-- SPILL_RETURN, APPEND_CHUNK_RETRY, APPEND_CHUNK_TIMEOUT and FLUE_LOAD_WINDOW (R171, R170, R293, R321): the spilled page read last comes
back once more than 1/16 of the pool is free; a chunk that gets its pages after 1 ms lets its append run on; one that has waited
more than 10 s ends it with TIMEOUT and the committed length; the busy part of a die's 32 flue engines over the CCLK cycles of a
window of 1 ms, per mille (rounded down: the model's choice, log entry 133), is its load, and its gate is set above 900. -/
def Obligations.ServingEvents : Prop :=
  (∀ (s : State) (id : Nat) (p : Page), clocked s = true → s.dev.st ≠ .failed →
    s.kv.poolMib * 2 ^ 20 < (s.kv.poolMib * 2 ^ 20 - poolUsed s) * 16 → s.kv.pages = [(id, some p)] → p.spilled = true → poolFits s p.ctx = true →
    exec .spillReturn s = .next ((s.updPage id fun p => { p with spilled := false, spillSlot := 0 }).updCtx p.ctx fun c =>
      { c with spillUsed := c.spillUsed - 1 })) ∧
  (∀ s : State, (s.kv.poolMib * 2 ^ 20 - poolUsed s) * 16 ≤ s.kv.poolMib * 2 ^ 20 → exec .spillReturn s = .next s) ∧
  (∀ (s s1 : State) (ring seq t : Nat) (c : Cmd) (bs : List Bound), findCmd s ring seq = some c → c.phase = .chunkWait t → clocked s = true →
    s.dev.st = .service → t + 100000 ≤ s.dev.now →
    (admitChunk s c = (true, s1, bs) → exec (.appendChunkRetry ring seq) s = .next (putCmd s1 { c with
      phase := .running, admitted := c.dispatched + min 256 (c.total - c.dispatched), bound := c.bound ++ bs })) ∧
    (admitChunk s c = (false, s1, bs) → exec (.appendChunkRetry ring seq) s = .next (putCmd s1 { c with bound := c.bound ++ bs }))) ∧
  (∀ (s : State) (ring seq t : Nat) (c : Cmd), findCmd s ring seq = some c → c.phase = .chunkWait t → clocked s = true →
    t + 1000000000 < s.dev.now → c.ended = c.dispatched → exec (.appendChunkTimeout ring seq) s =
      .next (endReqCmd s c stTimeout (lengthOf s c.pkt.req * 2 ^ 32) (warnBits s c))) ∧
  (∀ (s : State), clocked s = true → ∃ t : State, exec .flueLoadWindow s = .next t ∧ t.serve.flueLoad.length = 4 ∧
    t.serve.flueGate = t.serve.flueLoad.map (fun x => decide (900 < x)) ∧
    (∀ d, d < 4 → t.serve.flueMark[d]? = some (dieBusy s d) ∧ t.serve.flueLoad[d]? = some (min 1000
      (1000 * (dieBusy s d - s.serve.flueMark[d]?.getD 0) / max 1 (32 * (9600000 / max 1 s.clk.cclk.div))))) ∧
    t = s.updServe fun v => { v with flueLoad := t.serve.flueLoad, flueGate := t.serve.flueGate, flueMark := t.serve.flueMark })

/-! ## Executions of tiles (09_step_programs R210 to R214) -/

/-- An execution starts at the entry of its phase with the vector's record, ends once END is reached and everything issued has completed,
and is stopped at its limit (R210, R211, R212, R214). -/
def Obligations.ExecutionsStartAndEnd : Prop :=
  (∀ (s : State) (tile cx ct : Nat) (c : Ctx) (i : Image) (k : CTile) (v : Vec), ctileOf s tile = some (cx, ct, c, i, k) →
    (c.inflight.find? fun v => v.disp == (s.tile tile).nextDisp) = some v → clocked s = true → s.dev.st ≠ .failed →
    (s.tile tile).stopped = false → c.halted = false → (s.tile tile).exec = none →
    (entryFor k v.xr.phase ≠ 0xFFFF → ∃ x : Exec, x.xr = v.xr ∧ x.disp = v.disp ∧ x.pc = entryFor k v.xr.phase ∧ x.issueCtr = 0 ∧
      x.issued = [] ∧ x.loops = [] ∧ x.ended = false ∧ x.started = s.dev.now ∧ x.discarded = v.discarded ∧
      exec (.executionStart tile) s = .next (s.updTile tile fun y => { y with exec := some x })) ∧
    (entryFor k v.xr.phase = 0xFFFF → exec (.executionStart tile) s = .next (tileEnded
      (s.updTile tile fun y => { y with nextDisp := y.nextDisp + 1, execs := y.execs + 1 }) cx v.disp i.tiles.length))) ∧
  (∀ (s : State) (tile cx ct : Nat) (c : Ctx) (i : Image) (k : CTile) (x : Exec), ctileOf s tile = some (cx, ct, c, i, k) →
    (s.tile tile).exec = some x → clocked s = true → x.ended = true → (∀ e ∈ x.issued, e.done = true) →
    ∃ t u : State, t = replayExec (captureExec s cx ct x) cx ct x ∧
      u = duePairs t (slotFor t cx x.xr.req) x.disp ((ownedPairs t cx k).filter fun p => !(streamedPairs t cx i x.xr).contains p) ∧
      exec (.executionEnd tile) s = .next (tileEnded (reapPages (u.updTile tile fun y =>
        { y with exec := none, streams := [], nextDisp := y.nextDisp + 1, execs := y.execs + 1 })) cx x.disp i.tiles.length)) ∧
  (∀ (s : State) (tile n : Nat) (x : Exec) (e : Issued), clocked s = true → (s.tile tile).exec = some x →
    (x.issued.find? fun e => e.n == n) = some e →
    (mayComplete (s.tile tile) s tile x.disp e = true → exec (.instructionComplete tile n) s = .next (updExec s tile fun x =>
      { x with issued := x.issued.map fun e => if e.n = n then { e with done := true } else e })) ∧
    (mayComplete (s.tile tile) s tile x.disp e = false → exec (.instructionComplete tile n) s = .next s)) ∧
  (∀ (s : State) (tile cx ct : Nat) (c : Ctx) (i : Image) (k : CTile) (x : Exec), ctileOf s tile = some (cx, ct, c, i, k) →
    (s.tile tile).exec = some x → clocked s = true → c.halted = false → x.linkFrom = 0 → (∀ w, k.code[x.pc]? = some w → iOpc w.toNat ≠ 0x20) →
    ((s.dev.now - x.started - x.linkWait) * capW s.thm ≥ i.execLimit * 100 * 900 → exec (.execLimitExpire tile) s =
      .next (raiseErr (s.updTile tile fun y => { y with stopped := true })
        { domain := 8, code := 0x8006, unit := tile, detail := 0, act := .halt cx 2 ct x.pc })) ∧
    ((s.dev.now - x.started - x.linkWait) * capW s.thm < i.execLimit * 100 * 900 → exec (.execLimitExpire tile) s = .next s))

/-- WAIT, SIGNAL, SIGNAL_ARRIVAL, LOOP, BR, END, NOP and TIMEREAD (R213, R248 to R250): WAIT blocks until its counter reaches COUNT and
subtracts it; SIGNAL leaves after the SENDs to its tile, and its increment arrives unless the counter would exceed 65,535, when it is
discarded and the context halts naming the signalling tile and SIGNAL; LOOP opens its body; BR jumps when its condition on the
execution record holds; END ends the execution; NOP does nothing; TIMEREAD writes device time into the first eight bytes of its line. -/
def Obligations.ControlInstructions : Prop :=
  (∀ (s : State) (tile : Nat) (a : At), Issues s tile 0x38 a →
    (bits a.w 48 33 ≤ nat (s.tile a.t).counters (bits a.w 53 49) → exec (.waitCtr tile) s = .next (issued (s.updTile a.t fun y =>
      { y with counters := put 0 y.counters (bits a.w 53 49) (nat (s.tile a.t).counters (bits a.w 53 49) - bits a.w 48 33) }) a [] true)) ∧
    (nat (s.tile a.t).counters (bits a.w 53 49) < bits a.w 48 33 → exec (.waitCtr tile) s = .next s)) ∧
  (∀ (s : State) (tile : Nat) (a : At) (k : CTile), Issues s tile 0x39 a → a.i.tiles[bits a.w 48 36]? = some k →
    ((∀ d ∈ (s.tile a.t).sends, d.dst ≠ k.tile) → exec (.signal tile) s = .next (issued { s with
      flits := s.flits ++ [.signal a.t a.x.pc k.tile (bits a.w 53 49) (bits a.w 35 20)] } a [] false)) ∧
    ((∃ d ∈ (s.tile a.t).sends, d.dst = k.tile) → exec (.signal tile) s = .next s)) ∧
  (∀ (s s1 : State) (tile src pc ctr add : Nat) (l : List Flit), clocked s = true →
    takeSignal tile s.flits = some ((src, pc, ctr, add), l) → (s.tile src).exec = none → s1 = { s with flits := l } →
    (nat (s.tile tile).counters ctr + add ≤ 65535 → exec (.signalArrival tile) s = .next (s1.updTile tile fun y =>
      { y with counters := put 0 y.counters ctr (nat (s.tile tile).counters ctr + add) })) ∧
    (∀ cx ct ct', 65535 < nat (s.tile tile).counters ctr + add → (s.tile tile).ctx = some (cx, ct') → (s.tile src).ctx = some (cx, ct) →
      exec (.signalArrival tile) s = .next (raiseErr s1
        { domain := 8, code := 0x8006, unit := tile, detail := 0, act := .halt cx 1 ct pc }))) ∧
  (∀ (s : State) (tile : Nat) (a : At), Issues s tile 0x3A a → exec (.loopBody tile) s = .next (issued (updExec s a.t fun x =>
    { x with loops := (x.pc + 1, bits a.w 53 43, bits a.w 42 27) :: x.loops }) a [if 1 < bits a.w 42 27 then 1#8 else 0#8] true)) ∧
  (∀ (s : State) (tile : Nat) (a : At), Issues s tile 0x3B a →
    (brTaken a.w a.x.xr = true → exec (.br tile) s = .next (updExec (issued s a [1#8] true) a.t fun x =>
      { x with pc := bits a.w 53 43, loops := a.x.loops })) ∧
    (brTaken a.w a.x.xr = false → exec (.br tile) s = .next (issued s a [0#8] true))) ∧
  (∀ (w : Nat) (x : ExecRec), brTaken w x = match bits w 42 40 with
    | 0 => true | 1 => x.first | 2 => x.last | 3 => decide (x.phase = bits w 39 32) | 4 => decide (x.cls ≤ bits w 39 32)
    | 5 => decide (x.cand = 0xFF) | 6 => !x.first | _ => false) ∧
  (∀ (s : State) (tile : Nat) (a : At), Issues s tile 0x3C a →
    exec (.endExec tile) s = .next (issued (updExec s a.t fun x => { x with ended := true }) a [] true)) ∧
  (∀ (s : State) (tile : Nat) (a : At), Issues s tile 0x3D a → exec (.nopInstr tile) s = .next (issued s a [] true)) ∧
  (∀ (s : State) (tile : Nat) (a : At), Issues s tile 0x3E a → a.c.replay = none → a.has (bits a.w 53 48) (32 * bits a.w 47 36) 8 →
    exec (.timeread tile) s = .next (issued (captureVout (a.wrote s (bits a.w 53 48) (32 * bits a.w 47 36) (natLe 8 s.dev.now))
      a.cx a.ct a.x a.x.pc 1 (natLe 8 s.dev.now)) a (natLe 8 s.dev.now) false))

/-- What the issue of an instruction leaves (R212): the execution goes on after it, or at the first instruction of an open loop whose
last it is, and lists it; nothing of the machine but that tile changes, and of the tile nothing but its execution.
A panel access beyond the lines of its panel stops the tile's program with a FIRMWARE-domain error that halts the context, and writes
nothing (R116, R222): shown for MOVE, QUANT, DEQ, ACT, ROPE and SEND at their source.
Bytes that an instruction writes into a panel (R222): they read back, every other byte of that tile's memory reads as before, and
nothing else of the machine changes. -/
def Obligations.IssueFrames : Prop :=
  (∀ (s : State) (a : At) (out : List Byte) (fin : Bool) (pcie : Nat) (x : Exec), (s.tile a.t).exec = some x →
      ∃ y : Exec, ((issued s a out fin pcie).tile a.t).exec = some y ∧ y.issueCtr = x.issueCtr + 1 ∧
        (x.loops = [] → y.pc = x.pc + 1 ∧ y.loops = []) ∧
        (∀ f l n r, x.loops = (f, l, n) :: r → (x.pc ≠ l → y.pc = x.pc + 1 ∧ y.loops = x.loops) ∧
          (x.pc = l → 1 < n → y.pc = f ∧ y.loops = (f, l, n - 1) :: r)) ∧
        (∃ e : Issued, y.issued = x.issued ++ [e] ∧ e.n = x.issueCtr ∧ e.pc = a.x.pc ∧ e.opc = iOpc a.w ∧ e.done = fin ∧ e.bytes = out) ∧
        issued s a out fin pcie = s.setTile a.t { s.tile a.t with exec := some y }) ∧
  (∀ (s : State) (tile : Nat) (a : At),
      let stop := Host.Outcome.next (φ := Fault) (ρ := Refusal)
        (raiseErr (s.updTile a.t fun y => { y with stopped := true })
          { domain := 8, code := 0x8006, unit := a.t, detail := 0, act := .halt a.cx 0 a.ct a.x.pc })
      (Issues s tile 0x0A a → ¬a.has (bits a.w 47 42) (32 * bits a.w 29 18) (32 * bits a.w 17 5) → exec (.move tile) s = stop) ∧
      (Issues s tile 0x10 a → ¬a.has (bits a.w 47 42) (a.esize (bits a.w 47 42) * bits a.w 23 8)
        (a.esize (bits a.w 47 42) * (64 * (bits a.w 41 24 + 1))) → exec (.quant tile) s = stop) ∧
      (Issues s tile 0x11 a → ¬a.has (bits a.w 41 36) 0 1 → exec (.deq tile) s = stop) ∧
      (Issues s tile 0x29 a → ¬a.has (bits a.w 47 42) 0 (a.esize (bits a.w 47 42) * bits a.w 31 16) → exec (.act tile) s = stop) ∧
      (Issues s tile 0x2A a → ¬a.has (bits a.w 47 42) 0 (a.esize (bits a.w 47 42) * (bits a.w 35 29 * dhOf s a.cx)) →
        exec (.rope tile) s = stop) ∧
      (Issues s tile 0x18 a → ¬a.has (bits a.w 53 48) (32 * bits a.w 47 36) (32 * bits a.w 22 10) → exec (.send tile) s = stop)) ∧
  (∀ (s : State) (a : At) (p off : Nat) (bs : List Byte),
      Mem.read ((a.wrote s p off bs).tile a.t).mem (32 * (a.panel p).base + off) bs.length = bs ∧
      (∀ i, i < 32 * (a.panel p).base + off ∨ 32 * (a.panel p).base + off + bs.length ≤ i →
        Mem.byte ((a.wrote s p off bs).tile a.t).mem i = Mem.byte (s.tile a.t).mem i) ∧
      (∃ m, (a.wrote s p off bs).tile a.t = { s.tile a.t with mem := m }) ∧ (∀ u, u ≠ a.t → (a.wrote s p off bs).tile u = s.tile u) ∧
      ∃ m, a.wrote s p off bs = { s with tiles := m })

/-! ## Moves, accumulation and quantisation (10_instructions R226 to R232) -/

/-- MOVE, PRELOAD, PROMOTE and REDUCE (R226 to R228, R232): MOVE copies its lines, whatever they are, but an ACC48 destination keeps bits
[47:0] of each element; PRELOAD in mode ZERO writes zeros; PROMOTE adds the run adders of its bank and frees the bank; REDUCE adds
partials to the destination, or joins or takes the maximum of roots. Only the named lines of the tile's memory change, and PROMOTE's
bank.
QUANT and DEQ (R229, R230, R39 to R50): QUANT writes the QVEC record of its blocks at byte 0 of its panel, sets NONFINITE and
ZERO_BLOCK, and counts clamps and outliers; DEQ writes each product of element, column scale and unit, rounded once to the KIND of its
destination.
An ACC64 element holds an open value after a sum outside 64 bits (log entry 123). -/
def Obligations.MovesSumsAndQuantisation : Prop :=
  ((∀ (s : State) (tile : Nat) (a : At) (src dst n : Nat) (out : List Byte), Issues s tile 0x0A a → dst = bits a.w 53 48 →
      src = bits a.w 47 42 → n = 32 * bits a.w 17 5 → a.has src (32 * bits a.w 29 18) n →
      out = (if (a.panel dst).kind = 4 then fit48 (a.bytesAt s src (32 * bits a.w 29 18) n) else a.bytesAt s src (32 * bits a.w 29 18) n) →
      a.has dst (32 * bits a.w 41 30) out.length →
      exec (.move tile) s = .next (issued (a.wrote s dst (32 * bits a.w 41 30) out) a out false)) ∧
    (∀ (s : State) (tile : Nat) (a : At) (out : List Byte), Issues s tile 0x08 a → bits a.w 41 40 = 0 →
      out = a.abytes (bits a.w 53 48) (List.replicate (4 * nqOf (bits a.w 31 24)) 0) →
      a.has (bits a.w 53 48) (8 * (4 * bits a.w 23 12)) out.length →
      exec (.preload tile) s = .next (issued (a.wrote s (bits a.w 53 48) (8 * (4 * bits a.w 23 12)) out) a out false)) ∧
    (∀ (s : State) (tile : Nat) (a : At) (acc qv src n : Nat) (ys : List F32) (rs : List (Int × Bool × Bool)) (t : State),
      Issues s tile 0x08 a → bits a.w 41 40 ≠ 0 → acc = bits a.w 53 48 → qv = bits a.w 47 42 → src = bits a.w 39 34 →
      n = 4 * nqOf (bits a.w 31 24) → a.has qv 0 1 →
      a.has src (a.esize src * (32 * bits a.w 11 0 / a.esize src)) (a.esize src * n) →
      ys = a.floatsAt s src (32 * bits a.w 11 0 / a.esize src) n →
      rs = ys.zipIdx.map (fun y => preloadOne (a.scale (bits a.w 33 32) y.2) (expOf (field (a.bytesAt s qv 0 1) 0 1)) y.1) →
      a.has acc (8 * (4 * bits a.w 23 12)) (a.abytes acc (rs.map (·.1))).length →
      t = (setNonfinite s a (rs.any fun r => r.2.1)).updTile a.t (fun y =>
        { y with preloadClamps := y.preloadClamps + (rs.filter fun r => r.2.2).length }) →
      exec (.preload tile) s = .next (issued (a.wrote t acc (8 * (4 * bits a.w 23 12)) (a.abytes acc (rs.map (·.1)))) a
        (a.abytes acc (rs.map (·.1))) false)) ∧
    (∀ (s : State) (tile : Nat) (a : At) (acc bank n e : Nat) (f : Fire) (out : List Int), Issues s tile 0x09 a → acc = bits a.w 53 48 →
      bank = bits a.w 47 46 → n = 4 * nqOf (bits a.w 45 38) → e = 4 * bits a.w 37 26 → look (s.tile a.t).fires bank = some f →
      ((∀ g ∈ (s.tile a.t).fires, ∀ h, g.2 = some h → h.same f = true → h.ready = true) →
        a.has acc (8 * e) (8 * n) → out = (a.accsAt s acc e n).zipIdx.map (fun v => v.1 + if f.discarded then 0 else get 0 f.adders v.2) →
        a.has acc (8 * e) (a.abytes acc out).length →
        exec (.promote tile) s = .next (issued ((a.wrote s acc (8 * e) (a.abytes acc out)).updTile a.t fun y =>
          { y with fires := store y.fires bank none }) a (a.abytes acc out) false)) ∧
      ((∃ g ∈ (s.tile a.t).fires, ∃ h, g.2 = some h ∧ h.same f = true ∧ h.ready = false) → exec (.promote tile) s = .next s)) ∧
    (∀ (s : State) (tile : Nat) (a : At) (dst src m n e : Nat) (out : List Int), Issues s tile 0x1A a → bits a.w 41 40 = 0 →
      dst = bits a.w 53 48 → src = bits a.w 47 42 → m = bits a.w 39 33 → n = 4 * bits a.w 30 19 → e = 4 * bits a.w 18 7 →
      a.has dst (8 * e) (8 * n) → a.has src 0 (8 * (m * n)) →
      out = (a.accsAt s dst e n).zipIdx.map (fun v => v.1 +
        (column 0 ((List.range m).map fun p => ((a.accsAt s src 0 (m * n)).drop (p * n)).take n) v.2).sum) →
      a.has dst (8 * e) (a.abytes dst out).length →
      exec (.reduce tile) s = .next (issued (a.wrote s dst (8 * e) (a.abytes dst out)) a (a.abytes dst out) false)) ∧
    (∀ (s : State) (tile : Nat) (a : At) (dst src m n e : Nat) (out : List F32), Issues s tile 0x1A a → bits a.w 41 40 ≠ 0 →
      dst = bits a.w 53 48 → src = bits a.w 47 42 → m = bits a.w 39 33 → n = 8 * bits a.w 30 19 → e = 8 * bits a.w 18 7 →
      a.has src 0 (a.esize src * (m * n)) →
      out = (List.range n).map (fun k =>
        let c := column 0#32 ((List.range m).map fun p => ((a.floatsAt s src 0 (m * n)).drop (p * n)).take n) k
        if bits a.w 41 40 = 1 then joinRoots c else c.foldl fmax (infty true)) →
      a.has dst (a.esize dst * e) (a.fbytes dst out).length →
      exec (.reduce tile) s = .next (issued (a.wrote s dst (a.esize dst * e) (a.fbytes dst out)) a (a.fbytes dst out) false))) ∧
  ((∀ (s : State) (tile : Nat) (a : At) (qv src n : Nat) (bs : List QBlock) (qs : List QOut), Issues s tile 0x10 a → qv = bits a.w 53 48 →
      src = bits a.w 47 42 → n = bits a.w 41 24 + 1 → a.has src (a.esize src * bits a.w 23 8) (a.esize src * (64 * n)) →
      bs = (List.range n).map (fun b => scanBlock (((a.floatsAt s src (bits a.w 23 8) (64 * n)).drop (64 * b)).take 64)) →
      qs = bs.map (quantBlock ((vecExp bs).getD (-126))) →
      ∃ (body : List Byte) (outl : List (Nat × Int)) (t : State),
        outl = (qs.zipIdx.map fun q => q.1.outl.map fun p => (64 * q.2 + p.1, p.2)).flatten ∧
        body = natLe 1 ((vecExp bs).elim 0 fun e => (e + 127).toNat) ++
          natLe 1 (b2n ((a.floatsAt s src (bits a.w 23 8) (64 * n)).any fun x => !isFin x) + 2 * b2n (qs.any (·.zero))) ++ natLe 2 0 ++
          natLe 4 n ++ natLe 4 outl.length ++ natLe 4 0 ++ (qs.map fun q => natLe 1 q.desc).flatten ++ natLe (qvElems n - (16 + n)) 0 ++
          (qs.map fun q => (q.els.map fun v => natLe 1 (v % 256).toNat).flatten).flatten ++
          (outl.map fun p => natLe 4 ((p.2 % 65536).toNat) ++ natLe 4 p.1).flatten ∧
        (a.has qv 0 body.length → exec (.quant tile) s = .next (issued t a body false) ∧
          t.hostMem = s.hostMem ∧ t.rings = s.rings ∧ t.dev = s.dev ∧
          (t.tile a.t).mem = Mem.write (s.tile a.t).mem (32 * (a.panel qv).base) body ∧
          (t.tile a.t).quantClamps = (s.tile a.t).quantClamps + (qs.map (·.clamps)).sum ∧ ∀ u, u ≠ a.t → t.tile u = s.tile u)) ∧
    (∀ (s : State) (tile : Nat) (a : At) (dst acc qv n : Nat) (ws : List Nat) (out : List Byte), Issues s tile 0x11 a → dst = bits a.w 53 48 →
      acc = bits a.w 47 42 → qv = bits a.w 41 36 → n = 4 * nqOf (bits a.w 33 26) → a.has qv 0 1 →
      a.has acc (8 * (4 * bits a.w 25 14)) (8 * n) →
      ws = (a.accsAt s acc (4 * bits a.w 25 14) n).zipIdx.map (fun v =>
        deqOne (a.panel dst).kind v.1 (a.scale (bits a.w 35 34) v.2) (expOf (field (a.bytesAt s qv 0 1) 0 1))) →
      out = (ws.map (natLe (a.esize dst))).flatten → a.has dst (32 * bits a.w 13 2) out.length →
      ∃ bad : Bool, bad = (ws.any fun w => if a.esize dst = 2 then w % 2 ^ 15 == 0x7F80 else w % 2 ^ 31 == 0x7F800000) ∧
        exec (.deq tile) s = .next (issued (setNonfinite (a.wrote s dst (32 * bits a.w 13 2) out) a bad) a out false)))

/-- SEND and RECV (R231; 14_chimney R350, R356): within the device a SEND with a RECV waiting for it writes its lines straight into the
panel and lines the RECV names, otherwise it waits for its credit; a RECV waits for its lines, or takes those of the SEND that waits for
it. Over a link a SEND with a credit goes in DATA frames and otherwise waits, a RECV sends its credit and waits; of an aborted step the
SEND sends nothing and the RECV completes with zero lines. -/
def Obligations.TransfersBetweenTiles : Prop :=
  (∀ (s : State) (tile : Nat) (a : At) (o : XferOps), Issues s tile 0x18 a → o = xferOps a.w → a.has o.panel (32 * o.line) (32 * o.nl) →
    linkOf (s.tile a.t) a.ct o = none →
    (∀ r, ((s.tile (a.phys o.ctile)).recvs.find? fun r => r.src == a.t && r.chan == o.chan && !r.paired && r.role == 0xFFFF) = some r →
      exec (.send tile) s = .next (issued (deliverAll s (a.phys o.ctile) r (linesOf (a.bytesAt s o.panel (32 * o.line) (32 * o.nl)))) a
        (a.bytesAt s o.panel (32 * o.line) (32 * o.nl)) false)) ∧
    (((s.tile (a.phys o.ctile)).recvs.find? fun r => r.src == a.t && r.chan == o.chan && !r.paired && r.role == 0xFFFF) = none →
      exec (.send tile) s = .next (issued (s.updTile a.t fun y => { y with sends := y.sends ++
        [{ dst := a.phys o.ctile, chan := o.chan, lines := linesOf (a.bytesAt s o.panel (32 * o.line) (32 * o.nl)),
           issue := a.x.issueCtr, role := 0xFFFF, step := 0 }] }) a (a.bytesAt s o.panel (32 * o.line) (32 * o.nl)) false))) ∧
  (∀ (s s1 : State) (tile : Nat) (a : At) (o : XferOps) (r : Recv), Issues s tile 0x19 a → o = xferOps a.w →
    o.line + o.nl ≤ (a.panel o.panel).lines → linkOf (s.tile a.t) a.ct o = none →
    r = { src := a.phys o.ctile, chan := o.chan, panel := o.panel, line := o.line, nl := o.nl, got := 0, issue := a.x.issueCtr,
          paired := false, role := 0xFFFF, step := 0 } →
    s1 = (s.updTile a.t fun y => { y with recvs := y.recvs ++ [r] }) →
    (((s1.tile (a.phys o.ctile)).sends.find? fun d => d.dst == a.t && d.chan == o.chan && d.role == 0xFFFF) = none →
      exec (.recv tile) s = .next (issued s1 a [] false)) ∧
    (∀ d, ((s1.tile (a.phys o.ctile)).sends.find? fun d => d.dst == a.t && d.chan == o.chan && d.role == 0xFFFF) = some d →
      exec (.recv tile) s = .next (issued (deliverAll (s1.updTile (a.phys o.ctile) fun y => { y with sends := y.sends.erase d }) a.t r d.lines)
        a (fitKind (a.panel o.panel).kind d.lines.flatten) false))) ∧
  (∀ (s : State) (tile role ct : Nat) (a : At) (o : XferOps) (bs : List Byte), Issues s tile 0x18 a → o = xferOps a.w →
    a.has o.panel (32 * o.line) (32 * o.nl) → linkOf (s.tile a.t) a.ct o = some (role, ct) → bs = a.bytesAt s o.panel (32 * o.line) (32 * o.nl) →
    (a.cut s = true → exec (.send tile) s = .next (issued s a bs false)) ∧
    (∀ g, a.cut s = false → ((s.tile a.t).credits.find? fun c => c.1 == o.chan && c.2.1 == role && c.2.2.1 == a.x.chimStep) = some g →
      exec (.send tile) s = .next (issued (sendData (s.updTile a.t fun y => { y with credits := y.credits.erase g }) role ct o.chan
        a.x.chimStep (linesOf bs)) a bs false)) ∧
    (a.cut s = false → ((s.tile a.t).credits.find? fun c => c.1 == o.chan && c.2.1 == role && c.2.2.1 == a.x.chimStep) = none →
      exec (.send tile) s = .next (issued (s.updTile a.t fun y => { y with sends := y.sends ++
        [{ dst := 2 ^ 16 + role, chan := o.chan, lines := linesOf bs, issue := a.x.issueCtr, role := role, step := a.x.chimStep }] })
        a bs false))) ∧
  (∀ (s s1 : State) (tile role ct : Nat) (a : At) (o : XferOps) (r : Recv), Issues s tile 0x19 a → o = xferOps a.w →
    o.line + o.nl ≤ (a.panel o.panel).lines → linkOf (s.tile a.t) a.ct o = some (role, ct) →
    r = { src := ct, chan := o.chan, panel := o.panel, line := o.line, nl := o.nl, got := 0, issue := a.x.issueCtr, paired := false,
          role := role, step := a.x.chimStep } →
    s1 = (s.updTile a.t fun y => { y with recvs := y.recvs ++ [r] }) →
    (a.cut s = true → exec (.recv tile) s =
      .next (issued (deliverAll s1 a.t r (List.replicate o.nl (List.replicate 32 0#8))) a [] false)) ∧
    (a.cut s = false → exec (.recv tile) s = .next (issued (sendFrame
      (updExec s1 a.t fun x => if x.linkFrom = 0 then { x with linkFrom := s.dev.now + 1 } else x) 0x21 role a.x.chimStep
      (Config.layoutOf 0x21 [o.chan, ct, o.nl])) a [] false))) ∧
  (∀ (s : State) (tile : Nat) (r : Recv) (ls : List (List Byte)) (cx ct : Nat) (c : Ctx) (i : Image) (k : CTile) (p : Panel),
    ctileOf s tile = some (cx, ct, c, i, k) → k.panels[r.panel]? = some p → p.kind ≠ 4 → ls.length ≤ r.nl →
    ((deliverAll s tile r ls).tile tile).mem = Mem.write (s.tile tile).mem (32 * (p.base + r.line)) ls.flatten)

/-! ## Vector functions, tables and sampling (10_instructions R240 to R246) -/

/-- NORM, ACT and ROPE (R241 to R243): NORM in pass STAT writes the roots of its part's sum and sum of squares, in APPLY the normalised
elements from the joined roots, in FULL both; ACT applies its function element by element, with its second source for the gated ones;
ROPE rotates each head by the angles position times frequency. Each writes one destination panel from element 0. -/
def Obligations.VectorFunctions : Prop :=
  (∀ (s : State) (tile : Nat) (a : At) (src st n cnt : Nat) (xs out : List F32), Issues s tile 0x28 a → bits a.w 28 27 = 1 →
    src = bits a.w 47 42 → st = bits a.w 35 30 → n = bits a.w 15 0 →
    cnt = (partRange (shapeK (bits a.w 26 25) a.i.defShape) (bits a.w 24 22) (bits a.w 21 16) n).2 →
    a.has src 0 (a.esize src * cnt) → xs = a.floatsAt s src 0 cnt →
    out = [partRoot (shapeK (bits a.w 26 25) a.i.defShape) (2 ^ bits a.w 24 22) n xs,
           partRoot (shapeK (bits a.w 26 25) a.i.defShape) (2 ^ bits a.w 24 22) n (xs.map fun x => fmul x x)] →
    a.has st 0 (a.fbytes st out).length →
    exec (.norm tile) s = .next (issued (a.wrote s st 0 (a.fbytes st out)) a (a.fbytes st out) false)) ∧
  (∀ (s t : State) (tile : Nat) (a : At) (dst w src st n cnt : Nat) (s1 s2 eps : F32) (xs gamma beta : List F32) (r : List F32 × F32)
      (rest : List Byte), Issues s tile 0x28 a → dst = bits a.w 53 48 → w = bits a.w 41 36 → src = bits a.w 47 42 → st = bits a.w 35 30 →
    n = bits a.w 15 0 → cnt = (partRange (shapeK (bits a.w 26 25) a.i.defShape) (bits a.w 24 22) (bits a.w 21 16) n).2 →
    a.has src 0 (a.esize src * cnt) → a.has w 0 (32 + 2 * cnt) → (a.w.testBit 29 = true → a.has w 0 (32 + 4 * cnt)) →
    xs = a.floatsAt s src 0 cnt →
    (bits a.w 28 27 = 2 ∧ a.has st 0 (a.esize st * 2) ∧ [s1, s2] = a.floatsAt s st 0 2 ∧ rest = [] ∧ t = s ∨
     bits a.w 28 27 = 0 ∧ s1 = partRoot (shapeK (bits a.w 26 25) a.i.defShape) (2 ^ bits a.w 24 22) n xs ∧
       s2 = partRoot (shapeK (bits a.w 26 25) a.i.defShape) (2 ^ bits a.w 24 22) n (xs.map fun x => fmul x x) ∧
       rest = a.fbytes st [s1, s2] ∧ a.has st 0 rest.length ∧ t = a.wrote s st 0 rest) →
    eps = BitVec.ofNat 32 (field (a.bytesAt t w 0 4) 0 4) →
    gamma = (List.range cnt).map (fun i => ofBf (BitVec.ofNat 16 (field (a.bytesAt t w 32 (2 * cnt)) (2 * i) 2))) →
    beta = (if a.w.testBit 29 then
      (List.range cnt).map fun i => ofBf (BitVec.ofNat 16 (field (a.bytesAt t w (32 + 2 * cnt) (2 * cnt)) (2 * i) 2)) else []) →
    r = normOut (a.w.testBit 29) n s1 s2 eps xs gamma beta → a.has dst 0 (a.fbytes dst r.1).length →
    exec (.norm tile) s = .next (issued (setNonfinite (a.wrote t dst 0 (a.fbytes dst r.1)) a (badRadicand r.2)) a
      (a.fbytes dst r.1 ++ rest) false)) ∧
  (∀ (n : Nat) (s1 s2 eps : F32) (xs gamma beta : List F32) (i : Nat) (x : F32), xs[i]? = some x →
    (normOut false n s1 s2 eps xs gamma beta).1[i]? =
      some (fmul (fmul x (frecip (fsqrt (fadd (fdiv s2 (fofNat n)) eps)))) (gamma[i]?.getD 0#32)) ∧
    (normOut true n s1 s2 eps xs gamma beta).1[i]? =
      some (fadd (fmul (fmul (fsub x (fdiv s1 (fofNat n)))
        (frecip (fsqrt (fadd (fsub (fdiv s2 (fofNat n)) (fmul (fdiv s1 (fofNat n)) (fdiv s1 (fofNat n)))) eps)))) (gamma[i]?.getD 0#32))
        (beta[i]?.getD 0#32))) ∧
  (∀ (s : State) (tile : Nat) (a : At) (dst src src2 func n : Nat) (ys out : List F32), Issues s tile 0x29 a → dst = bits a.w 53 48 →
    src = bits a.w 47 42 → src2 = bits a.w 41 36 → func = bits a.w 35 32 → n = bits a.w 31 16 → a.has src 0 (a.esize src * n) →
    (func = 6 ∨ func = 7 → a.has src2 0 (a.esize src2 * n)) →
    ys = (if func = 6 ∨ func = 7 then a.floatsAt s src2 0 n else []) →
    out = (a.floatsAt s src 0 n).zipIdx.map (fun x => actOf func x.1 (ys[x.2]?.getD 0#32)) →
    a.has dst 0 (a.fbytes dst out).length →
    exec (.act tile) s = .next (issued (a.wrote s dst 0 (a.fbytes dst out)) a (a.fbytes dst out) false)) ∧
  (∀ (s : State) (tile : Nat) (a : At) (dst src fr dh nh : Nat) (out : List F32), Issues s tile 0x2A a → dst = bits a.w 53 48 →
    src = bits a.w 47 42 → fr = bits a.w 41 36 → dh = dhOf s a.cx → nh = bits a.w 35 29 → a.has src 0 (a.esize src * (nh * dh)) →
    a.has fr 0 (a.esize fr * (dh / 2)) →
    out = (List.range nh).flatMap (fun h => ropeHead (a.w.testBit 28) (((a.floatsAt s src 0 (nh * dh)).drop (h * dh)).take dh)
      ((a.floatsAt s fr 0 (dh / 2)).map fun f =>
        (ftrig false (fmul (fofNat a.x.xr.pos) f), ftrig true (fmul (fofNat a.x.xr.pos) f)))) →
    a.has dst 0 (a.fbytes dst out).length →
    exec (.rope tile) s = .next (issued (a.wrote s dst 0 (a.fbytes dst out)) a (a.fbytes dst out) false))

/-- EMBG (R193 to R196, R244): the rows a bag names, or the row of the token, as the step sees them, cut to the named elements and pooled,
are written to the destination; a tile asks the owning shards for the rows of a tier-3 table that it lacks, and waits; a row id at or
beyond ROWS as a token gives the empty bag, which pools to +0.0; a non-finite dequantised element sets NONFINITE; reading a tier-2 row
through CACHE costs a host read only when it is not there.
SAMPLE (R245, R246): PARTIAL writes the 64 best entries of its logits; FULL and FINAL keep the entries TOP_K, TOP_P and the
temperature leave, take the token a draw picks, or the best one when none is used, and write it before the kept entries; in phase STEP
or on the last vector of PREFILL it is the vector's token. Seeded draws come from the request's SEED and step, entropy draws from a
free value.
A bag is summed by the SHAPE of EMBG (a reading, log entry 59); how many row ids one request for rows carries follows the ports that are up
(the model's choice, log entry 136). -/
def Obligations.TablesAndSampling : Prop :=
  ((∀ (s : State) (tile : Nat) (a : At) (t : Table) (dst num e0 ne : Nat) (ids : List Nat) (rows : List (List F32)) (out : List F32),
      Issues s tile 0x30 a → dst = bits a.w 53 48 → num = bits a.w 47 40 → e0 = bits a.w 33 22 → ne = bits a.w 21 9 →
      (a.c.tables.find? fun t => t.1 == num) = some (num, t) → t.tier ≠ 2 → t.tier ≠ 3 →
      ids = (if bits a.w 37 36 = 0 then (if a.x.xr.token < t.rows then [a.x.xr.token] else [])
        else (((findVec s a.cx a.x.disp).bind fun v => v.bags.find? fun b => b.table == num).map (·.ids)).getD []) →
      rows = ids.map (fun id => (List.range ne).map fun i =>
        (rowVals t.fmt t.d (rowSeen a.c a.ver num id (get [] t.data id)))[e0 + i]?.getD (fzero false)) →
      out = poolRows (bits a.w 39 38) (shapeK (bits a.w 35 34) a.i.defShape) ne rows → a.has dst 0 (a.fbytes dst out).length →
      exec (.embg tile) s = .next (issued (a.wrote (setNonfinite s a (t.fmt != 0 && rows.any fun r => r.any fun x => !isFin x))
        dst 0 (a.fbytes dst out)) a (a.fbytes dst out) false)) ∧
    (∀ (s : State) (tile : Nat) (a : At) (t : Table) (dst num e0 ne rb : Nat) (ids : List Nat) (rows : List (List F32)) (out : List F32),
      Issues s tile 0x30 a → dst = bits a.w 53 48 → num = bits a.w 47 40 → e0 = bits a.w 33 22 → ne = bits a.w 21 9 →
      (a.c.tables.find? fun t => t.1 == num) = some (num, t) → t.tier = 2 → rb = rowBytes t.fmt t.d →
      ids = (if bits a.w 37 36 = 0 then (if a.x.xr.token < t.rows then [a.x.xr.token] else [])
        else (((findVec s a.cx a.x.disp).bind fun v => v.bags.find? fun b => b.table == num).map (·.ids)).getD []) →
      rows = ids.map (fun id => (List.range ne).map fun i =>
        (rowVals t.fmt t.d (rowSeen a.c a.ver num id (s.hostRead (t.srcAddr + id * rb) rb)))[e0 + i]?.getD (fzero false)) →
      out = poolRows (bits a.w 39 38) (shapeK (bits a.w 35 34) a.i.defShape) ne rows → a.has dst 0 (a.fbytes dst out).length →
      ∃ (u : State) (reads : Nat), reads ≤ ids.length ∧ u.tiles = s.tiles ∧ u.hostMem = s.hostMem ∧ u.reqs = s.reqs ∧ u.chim = s.chim ∧
        exec (.embg tile) s = .next (issued (a.wrote (setNonfinite u a (t.fmt != 0 && rows.any fun r => r.any fun x => !isFin x))
          dst 0 (a.fbytes dst out)) a (a.fbytes dst out) false reads)) ∧
    (∀ (s : State) (tile : Nat) (a : At) (t : Table) (num : Nat) (ids far : List Nat), Issues s tile 0x30 a → num = bits a.w 47 40 →
      (a.c.tables.find? fun t => t.1 == num) = some (num, t) → t.tier = 3 → a.x.discarded = false →
      ids = (if bits a.w 37 36 = 0 then (if a.x.xr.token < t.rows then [a.x.xr.token] else [])
        else (((findVec s a.cx a.x.disp).bind fun v => v.bags.find? fun b => b.table == num).map (·.ids)).getD []) →
      far = (ids.filter fun r => shardOf t.shards r != t.shard).dedup → (∃ r ∈ far, (gatheredRow s a.ver num r).getD [] = []) →
      (∀ r ∈ far, fencedRole s (shardOf t.shards r) = false) → exec (.embg tile) s = .next (askRows s a.cx num t a.ver far)) ∧
    (∀ (pool k ne : Nat) (rows : List (List F32)), (poolRows pool k ne rows).length = ne ∧
      ∀ e, e < ne → (rows = [] → (poolRows pool k ne rows)[e]? = some (fzero false)) ∧
        (rows ≠ [] → pool = 0 → (poolRows pool k ne rows)[e]? = some (sumC k (column (fzero false) rows e))) ∧
        (rows ≠ [] → pool = 1 → (poolRows pool k ne rows)[e]? = some (fdiv (sumC k (column (fzero false) rows e)) (fofNat rows.length))) ∧
        (rows ≠ [] → pool = 2 → (poolRows pool k ne rows)[e]? = some ((column (fzero false) rows e).foldl fmax (infty true)))) ∧
    (∀ (s : State) (k : Nat × Nat × Nat) (n : Nat), (s.kv.hot.contains k = true → (hotRead s k n).2 = 0 ∧
        (hotRead s k n).1.kv.hotHits = s.kv.hotHits + 1 ∧ (hotRead s k n).1.kv.hotMisses = s.kv.hotMisses) ∧
      (s.kv.hot.contains k = false → (hotRead s k n).2 = 1 ∧ (hotRead s k n).1.kv.hotMisses = s.kv.hotMisses + 1))) ∧
  ((∀ (s : State) (tile : Nat) (a : At) (r : Req) (lg n : Nat) (bs : List Byte), Issues s tile 0x31 a →
      reqAt s (slotFor s a.cx a.x.xr.req) = some r → bits a.w 39 38 = 1 → lg = bits a.w 53 48 → n = 8 * (a.panel lg).lines →
      a.has lg 0 (a.esize lg * n) →
      bs = entryBytes (infty true) (topList ((a.floatsAt s lg 0 n).zipIdx.map fun x =>
        (bits a.w 37 14 + x.2, if isZero r.temp then x.1 else fdiv x.1 r.temp))) →
      a.has (bits a.w 47 42) 0 bs.length →
      exec (.sample tile) s = .next (issued (a.wrote s (bits a.w 47 42) 0 bs) a bs false)) ∧
    (∀ (s : State) (tile : Nat) (a : At) (r : Req) (lg n : Nat) (ranked kept : List (Nat × F32)) (token : Nat) (bs : List Byte) (t : State),
      Issues s tile 0x31 a → reqAt s (slotFor s a.cx a.x.xr.req) = some r → lg = bits a.w 53 48 → bits a.w 39 38 = 0 ∨ bits a.w 39 38 = 2 →
      (bits a.w 39 38 = 0 → n = 8 * (a.panel lg).lines ∧ a.has lg 0 (a.esize lg * n) ∧
        ranked = ((a.floatsAt s lg 0 n).zipIdx.map fun x =>
          (bits a.w 37 14 + x.2, if isZero r.temp then x.1 else fdiv x.1 r.temp)).mergeSort ranksBefore) →
      (bits a.w 39 38 = 2 → n = 64 * (bits a.w 13 8 + 1) ∧ a.has lg 0 (8 * n) ∧
        ranked = (((List.range n).map fun i => (field (a.bytesAt s lg 0 (8 * n)) (8 * i) 4,
          (BitVec.ofNat 32 (field (a.bytesAt s lg 0 (8 * n)) (8 * i + 4) 4) : F32))).filter
            (fun e => e.1 != 0xFFFFFFFF)).mergeSort ranksBefore) →
      kept = keptOf r.topK r.topP ranked →
      (bits a.w 41 40 = 0 ∧ t = s ∧
          token = (if usesDraw r.temp r.topK ranked then pickToken kept (drawF (drawBits r.seed a.x.xr.step 16))
            else (kept.head?).elim 0xFFFFFFFF (·.1)) ∨
        bits a.w 41 40 = 1 ∧ a.c.replay = none ∧ usesDraw r.temp r.topK ranked = true ∧
          (∃ d, d = (Config.entropy s.draw.1).toNat ∧ token = pickToken kept (drawF d) ∧
            t = captureVout s.draw.2 a.cx a.ct a.x a.x.pc 1 (natLe 4 d)) ∨
        bits a.w 41 40 = 1 ∧ a.c.replay = none ∧ usesDraw r.temp r.topK ranked = false ∧
          token = (kept.head?).elim 0xFFFFFFFF (·.1) ∧ t = captureVout s a.cx a.ct a.x a.x.pc 0 []) →
      bs = natLe 4 token ++ entryBytes (fzero false) kept → a.has (bits a.w 47 42) 0 bs.length →
      let u := setNonfinite t a ((ranked.take r.topK).any fun e => isNan e.2)
      exec (.sample tile) s = .next (issued (a.wrote
        (if a.x.xr.phase = 0 ∨ (a.x.xr.phase = 1 ∧ a.x.xr.last = true) then updVec u a.cx a.x.disp fun v => { v with token := some token } else u)
        (bits a.w 47 42) 0 bs) a bs false)) ∧
    (∀ (temp : F32) (topK : Nat) (ranked : List (Nat × F32)), isZero temp = true → usesDraw temp topK ranked = false) ∧
    (∀ (kept : List (Nat × F32)) (u : F32) (i : Nat), (runningSums (kept.map (·.2))).findIdx? (fun r => flt u r) = some i →
      ∃ e, kept[i]? = some e ∧ pickToken kept u = e.1))

/-! ## KV cache and attention (07_attention, 10_instructions R233 to R239, R247) -/

/-- KVAPP and HOB_FLUSH (R155, R156, R158, R179, R233): KVAPP waits while a staging page it would fill further is full, or while it needs a
slot that KVEVICT has yet to free; else it completes, and every pair it names takes its key and value: a candidate's in the scratch, a
staged position's in the staging page in BF16, a direct position's in the request's page in the K4 format of R54; a discarded execution
appends nothing. HOB_FLUSH writes a due staging page into a page of the request's own and empties it; of a page that is not due it does
nothing.
KVIDX and KVGATH (R161 to R164, R179, R235, R236): KVIDX waits for a KVAPP of its pair, then writes the selection list of its layer and
head: pages 0, the last but one and the current one and the best of the rest, in ascending order, each with its fill; KVGATH waits for
an ATTN of its stream, then opens the stream of its pair and part, of as many positions as the list and the scratch name; of a list of
one whole page the stream holds that page's keys and values as the page's format gives them, the page is stamped, and the read of a
spilled one is counted. -/
def Obligations.KvAppendAndSelection : Prop :=
  ((∀ (s : State) (tile : Nat) (a : At) (dh n : Nat) (prs : List Nat) (ks vs : List BF16) (part : List BF16 → Nat → List BF16)
        (wr : List BF16 → List Byte), Issues s tile 0x20 a → dh = dhOf s a.cx → n = bits a.w 21 12 + 1 →
      prs = (kvappPairs a.w).map (fun p => pairOf s a.cx p.1 p.2) →
      ks = (List.range (n * dh)).map (fun i => BitVec.ofNat 16 (field (a.bytesAt s (bits a.w 53 48) 0 (2 * (n * dh))) (2 * i) 2)) →
      vs = (List.range (n * dh)).map (fun i => BitVec.ofNat 16 (field (a.bytesAt s (bits a.w 47 42) 0 (2 * (n * dh))) (2 * i) 2)) →
      part = (fun l i => (l.drop (i * dh)).take dh) → wr = (fun l => (l.map fun b => natLe 2 b.toNat).flatten) →
      a.has (bits a.w 53 48) 0 (2 * (n * dh)) → a.has (bits a.w 47 42) 0 (2 * (n * dh)) →
      (a.x.xr.cand ≠ 0xFF ∨ reqAt s (a.slot s) = none ∨ ∃ r, reqAt s (a.slot s) = some r ∧
        ∀ p ∈ prs, (direct r a.x.xr.pos = true ∨ ∀ g, look r.staging p = some g → g.fill < 256) ∧
          ((findVec s a.cx a.x.disp).elim false (fun v => decide (v.bound ≠ [])) = false ∨ needOf s r p a.x.xr.pos = none)) →
      exec (.kvapp tile) s = .next (issued
        (if a.x.discarded then s else prs.zipIdx.foldl (fun t p => kvappHead t a (a.slot s) p.1 dh (part ks p.2) (part vs p.2)) s) a
        ((List.range n).flatMap fun i => wr (part ks i) ++ wr (part vs i)) false)) ∧
    (∀ (s : State) (tile p : Nat) (a : At) (r : Req), Issues s tile 0x20 a → a.x.xr.cand = 0xFF →
      reqAt s (a.slot s) = some r → p ∈ (kvappPairs a.w).map (fun p => pairOf s a.cx p.1 p.2) →
      (direct r a.x.xr.pos = false ∧ (∃ g, look r.staging p = some g ∧ 256 ≤ g.fill) ∨
        (∃ v, findVec s a.cx a.x.disp = some v ∧ v.bound ≠ []) ∧ (needOf s r p a.x.xr.pos).isSome = true) →
      exec (.kvapp tile) s = .next s) ∧
    (∀ (s : State) (a : At) (slot pair dh : Nat) (key val : List BF16) (r : Req), reqAt s slot = some r → a.x.chimStep = 0 →
      (a.x.xr.cand ≠ 0xFF → kvappHead s a slot pair dh key val = s.updReq slot (fun r =>
        { r with scratch := put [] r.scratch pair (((get [] r.scratch pair).filter fun x => x.cand != a.x.xr.cand) ++
          [{ cand := a.x.xr.cand, key := key, val := val }]) })) ∧
      (a.x.xr.cand = 0xFF → heldAlready r pair a.x.xr.pos = true → kvappHead s a slot pair dh key val = s) ∧
      (∀ g e, a.x.xr.cand = 0xFF → heldAlready r pair a.x.xr.pos = false → direct r a.x.xr.pos = false → a.x.xr.pos % 256 ≠ 0 →
        look r.staging pair = some g → entryOf r pair (a.x.xr.pos / 256) = some e → kvappHead s a slot pair dh key val = s.updReq slot (fun r =>
          { r with staging := store r.staging pair (some
            { g with
              page := a.x.xr.pos / 256, fill := a.x.xr.pos % 256 + 1, keys := g.keys.take (a.x.xr.pos % 256) ++ [key],
              vals := g.vals.take (a.x.xr.pos % 256) ++ [val], filler := if a.x.xr.pos % 256 = 255 then a.x.disp + 1 else 0 }) })) ∧
      (∀ e x, a.x.xr.cand = 0xFF → heldAlready r pair a.x.xr.pos = false → direct r a.x.xr.pos = true → a.x.xr.pos % 256 ≠ 255 →
        entryOf r pair (a.x.xr.pos / 256) = some e → mustCopy s e = false → s.page e.slot = some x → ∃ y : Page,
        (kvappHead s a slot pair dh key val).page e.slot = some y ∧ y.fill = a.x.xr.pos % 256 + 1 ∧ y.full = x.full ∧
        (y.kexp, y.kelem) = putRow x.kexp x.kelem dh (a.x.xr.pos % 256) (kvVector key x.kcarry).1 (kvVector key x.kcarry).2.1 ∧
        (y.vexp, y.velem) = putRow x.vexp x.velem dh (a.x.xr.pos % 256) (kvVector val x.vcarry).1 (kvVector val x.vcarry).2.1 ∧
        y.kcarry = (kvVector key x.kcarry).2.2.1 ∧ y.vcarry = (kvVector val x.vcarry).2.2.1 ∧
        (kvappHead s a slot pair dh key val).tiles = s.tiles ∧ (kvappHead s a slot pair dh key val).hostMem = s.hostMem ∧
        ∀ id, id ≠ e.slot → (kvappHead s a slot pair dh key val).page id = s.page id)) ∧
    (∀ (s : State) (slot layer head : Nat) (r : Req) (g : Staging), clocked s = true → s.dev.st ≠ .failed → reqAt s slot = some r →
      look r.staging (pairOf s r.ctx layer head) = some g → g.flushDue = true → 256 ≤ g.fill →
      ∃ (t : State) (q : Req), exec (.hobFlush slot layer head) s = .next t ∧ reqAt t slot = some q ∧
        look q.staging (pairOf s r.ctx layer head) = none ∧
        t = flushStaging (savePair s slot (pairOf s r.ctx layer head) (flushStep s slot)) slot (pairOf s r.ctx layer head) (dhOf s r.ctx)
          (flushStep s slot)) ∧
    (∀ (s : State) (slot layer head : Nat) (r : Req), reqAt s slot = some r →
      (look r.staging (pairOf s r.ctx layer head)).elim false (·.flushDue) = false → exec (.hobFlush slot layer head) s = .next s)) ∧
  ((∀ (s : State) (tile : Nat) (a : At) (r : Req) (dh g pair : Nat) (set : List Nat) (bs : List Byte), Issues s tile 0x21 a →
      dh = dhOf s a.cx → g = a.i.gqa → pair = pairOf s a.cx (bits a.w 41 32) (bits a.w 31 22) → kvappRunning s a pair = false →
      a.has (bits a.w 53 48) 0 (a.esize (bits a.w 53 48) * (g * dh)) → reqAt s (a.slot s) = some r →
      set = readSet r pair (readLen r a.x.xr) (splitEvery dh (a.floatsAt s (bits a.w 53 48) 0 (g * dh)) g) →
      bs = natLe 4 (set.length % 2048 + (if a.x.xr.cand = 0xFF then 0 else a.x.xr.pos - r.length) * 2 ^ 16) ++
        (set.map fun p => natLe 4 (p + pageFill r pair p * 2 ^ 14)).flatten →
      a.has (bits a.w 47 42) 0 bs.length →
      exec (.kvidx tile) s = .next (issued (a.wrote (noteReads s a (set.filterMap fun p => pageIdOf s r pair p)) (bits a.w 47 42) 0 bs)
        a bs false)) ∧
    (∀ (s : State) (tile : Nat) (a : At), Issues s tile 0x21 a →
      kvappRunning s a (pairOf s a.cx (bits a.w 41 32) (bits a.w 31 22)) = true → exec (.kvidx tile) s = .next s) ∧
    (∀ (r : Req) (pair n : Nat) (qs : List (List F32)), (readSet r pair n qs).Pairwise (· < ·) ∧
      (∀ p ∈ readSet r pair n qs, 0 < pageFill r pair p) ∧
      (∀ p, 0 < pageFill r pair p → p = 0 ∨ p = (n - 1) / 256 ∨ p = (n - 1) / 256 - 1 → p ∈ readSet r pair n qs) ∧
      (readSet r pair n qs).length ≤ r.budget + 3) ∧
    (∀ (s : State) (tile : Nat) (a : At), Issues s tile 0x22 a → attnRunning a (bits a.w 27 26) = true → exec (.kvgath tile) s = .next s) ∧
    (∀ (s : State) (tile : Nat) (a : At) (r : Req) (sel pair count nscr : Nat), Issues s tile 0x22 a → sel = bits a.w 53 48 →
      pair = pairOf s a.cx (bits a.w 47 38) (bits a.w 37 28) → attnRunning a (bits a.w 27 26) = false → a.has sel 0 4 →
      count = bits (field (a.bytesAt s sel 0 4) 0 4) 10 0 → nscr = bits (field (a.bytesAt s sel 0 4) 0 4) 20 16 →
      a.has sel 4 (4 * count) → reqAt s (a.slot s) = some r →
      ∃ (t : State) (out : List Byte) (pcie : Nat) (st : Stream), exec (.kvgath tile) s = .next (issued t a out false pcie) ∧
        look (t.tile a.t).streams (bits a.w 27 26) = some st ∧ st.pair = pair ∧ st.part = bits a.w 20 15 ∧ st.log2m = bits a.w 23 21 ∧
        st.n = ((List.range count).map fun i => bits (field (a.bytesAt s sel 4 (4 * count)) (4 * i) 4) 22 14).sum + nscr ∧
        st.shape = shapeK (bits a.w 25 24) a.i.defShape ∧ (t.tile a.t).mem = (s.tile a.t).mem ∧ t.hostMem = s.hostMem ∧
        (∀ u, u ≠ a.t → t.tile u = s.tile u) ∧ t.dev = s.dev ∧
        (∀ f p e x, count = 1 → nscr = 0 → a.x.xr.cand = 0xFF → bits a.w 23 21 = 0 → bits a.w 20 15 = 0 → f = bits (field (a.bytesAt s sel 4 4) 0 4) 22 14 →
          p = bits (field (a.bytesAt s sel 4 4) 0 4) 13 0 → 0 < f → look r.staging pair = none → entryOf r pair p = some e → e.ash = false →
          s.page e.slot = some x → st.elems = (List.range f).map (fun i =>
              (p, i, kvRow x.kexp x.kelem (dhOf s a.cx) i, kvRow x.vexp x.velem (dhOf s a.cx) i)) ∧ pcie = b2n x.spilled ∧
            (t.page e.slot).map (·.lastRead) = some s.dev.now ∧
            (reqAt t (a.slot s)).map (·.spillReads) = some (r.spillReads + b2n x.spilled))))

/-- ATTN (R237, R238): pass MAX writes each head's greatest score; PART the roots of its weights and values over its part, FULL the
values divided by the weights' sum, FINISH the joined values divided by the joined sums; without an open stream a pass other than FINISH
stops the program, and its error halts the context.
KVEVICT and VERIFY (R180, R181, R239, R247): KVEVICT completes, and every page bound to its vector becomes ash and is counted in the
request and the device; VERIFY outside phase VERIFY completes at once; in it it stores the node's distribution, and on the last vector,
once every node has one, accepts a path of the tree of at most 8 nodes and its next token; a path that is no chimney step's is then
appended, after the flush of a full staging page that is still to come. -/
def Obligations.AttentionAndEviction : Prop :=
  ((∀ (s : State) (tile : Nat) (a : At) (st : Stream) (o mp dh g : Nat) (scores : List (List F32)), Issues s tile 0x23 a →
      o = bits a.w 47 42 → mp = bits a.w 37 32 → dh = dhOf s a.cx → g = a.i.gqa → look (s.tile a.t).streams (bits a.w 41 40) = some st →
      a.has (bits a.w 53 48) 0 (a.esize (bits a.w 53 48) * (g * dh)) →
      scores = (splitEvery dh (a.floatsAt s (bits a.w 53 48) 0 (g * dh)) g).map
        (fun q => st.elems.map fun e => fmul (dot q e.2.2.1) (invSqrt dh)) →
      (∀ ms, bits a.w 39 38 = 1 → ms = scores.map (fun l => l.foldl fmax (infty true)) → a.has mp 0 (a.fbytes mp ms).length →
        exec (.attn tile) s = .next (issued (a.wrote s mp 0 (a.fbytes mp ms)) a (a.fbytes mp ms) false)) ∧
      (∀ (mxs : List F32) (ws : List (List F32)) (rs : List (F32 × List F32)) (t : State),
        mxs = (if bits a.w 39 38 = 0 then scores.map (fun l => l.foldl fmax (infty true)) else a.floatsAt s mp 0 g) →
        ws = scores.zipIdx.map (fun l => l.1.map fun v => fexp (fsub v (mxs[l.2]?.getD 0#32))) → rs = ws.map (headRoots st dh) →
        t = (if storesMass a.x.xr then
          updVec s a.cx a.x.disp fun v => { v with mass := v.mass ++ ws.zipIdx.flatMap fun w => leafMass st w.2 w.1 } else s) →
        (∀ out, bits a.w 39 38 = 0 → out = rs.flatMap (fun r => r.2.map fun v => fdiv v r.1) → a.has o 0 (a.fbytes o out).length →
          exec (.attn tile) s = .next (issued (creditPages (a.wrote t o 0 (a.fbytes o out)) a st.pair (rs.map (·.1))) a (a.fbytes o out) false)) ∧
        (∀ out, bits a.w 39 38 = 2 → a.has mp 0 (a.esize mp * g) → out = rs.flatMap (·.2) → a.has o 0 (a.fbytes o out).length →
          a.has mp (a.esize mp * 64) (a.fbytes mp (rs.map (·.1))).length →
          exec (.attn tile) s = .next (issued (a.wrote (a.wrote t o 0 (a.fbytes o out)) mp (a.esize mp * 64) (a.fbytes mp (rs.map (·.1)))) a
            (a.fbytes o out ++ a.fbytes mp (rs.map (·.1))) false)))) ∧
    (∀ (s : State) (tile : Nat) (a : At) (o mp dh g : Nat) (out dens : List F32), Issues s tile 0x23 a → bits a.w 39 38 = 3 →
      o = bits a.w 47 42 → mp = bits a.w 37 32 → dh = dhOf s a.cx → g = a.i.gqa →
      a.has o 0 (a.esize o * (g * dh)) → a.has mp (a.esize mp * 64) (a.esize mp * g) → dens = a.floatsAt s mp 64 g →
      out = (a.floatsAt s o 0 (g * dh)).zipIdx.map (fun v => fdiv v.1 (dens[v.2 / max 1 dh]?.getD 0#32)) → a.has o 0 (a.fbytes o out).length →
      (∀ st, look (s.tile a.t).streams (bits a.w 41 40) = some st → exec (.attn tile) s =
        .next (issued (creditPages (a.wrote s o 0 (a.fbytes o out)) a st.pair dens) a (a.fbytes o out) false)) ∧
      (look (s.tile a.t).streams (bits a.w 41 40) = none →
        exec (.attn tile) s = .next (issued (a.wrote s o 0 (a.fbytes o out)) a (a.fbytes o out) false))) ∧
    (∀ (s : State) (tile : Nat) (a : At), Issues s tile 0x23 a → bits a.w 39 38 ≠ 3 → look (s.tile a.t).streams (bits a.w 41 40) = none →
      exec (.attn tile) s = .next (raiseErr (s.updTile a.t fun y => { y with stopped := true })
        { domain := 8, code := 0x8006, unit := a.t, detail := 0, act := .halt a.cx 4 a.ct a.x.pc }))) ∧
  ((∀ (s : State) (tile : Nat) (a : At) (bs : List Bound) (t : State), Issues s tile 0x24 a → a.c.replay = none →
      bs = (findVec s a.cx a.x.disp).elim [] (·.bound) →
      t = updVec (bs.foldl (fun s b => evictBound s a.x.chimStep b) s) a.cx a.x.disp (fun v => { v with bound := [] }) →
      exec (.kvevict tile) s = .next (issued (captureVout t a.cx a.ct a.x a.x.pc bs.length
        (bs.flatMap fun b => boundBytes s ((reqAt s b.slot).elim 0 (·.ctx)) b)) a [] false)) ∧
    (∀ (s : State) (step : Nat) (b : Bound), (evictBound s step b).kv.pressureEvicts = s.kv.pressureEvicts + 1 ∧
      (evictBound s step b).tiles = s.tiles ∧ (evictBound s step b).hostMem = s.hostMem ∧
      ∀ r e, reqAt s b.slot = some r → entryOf r b.pair b.page = some e → ∃ q f, reqAt (evictBound s step b) b.slot = some q ∧
        entryOf q b.pair b.page = some f ∧ f.ash = true ∧ q.pressureEvicts = r.pressureEvicts + 1) ∧
    (∀ (s : State) (tile : Nat) (a : At), Issues s tile 0x32 a → a.x.xr.phase ≠ 2 → exec (.verify tile) s = .next (issued s a [] true)) ∧
    (∀ (s : State) (tile node : Nat) (a : At) (t : State), Issues s tile 0x32 a → a.x.xr.phase = 2 → a.x.xr.last = false →
      a.has (bits a.w 53 48) 0 516 → node = (if a.x.xr.cand = 0xFF then 0 else a.x.xr.cand + 1) →
      t = s.updReq (a.slot s) (fun r => { r with dists := insert node (keptEntries (a.bytesAt s (bits a.w 53 48) 0 516)) (erase r.dists node) }) →
      exec (.verify tile) s = .next (issued t a [] false)) ∧
    (∀ (s : State) (tile node next : Nat) (a : At) (t : State) (r : Req) (cs : List Cand) (path : List Nat) (d : List (Nat × F32)),
      Issues s tile 0x32 a → a.x.xr.phase = 2 → a.x.xr.last = true → a.has (bits a.w 53 48) 0 516 →
      node = (if a.x.xr.cand = 0xFF then 0 else a.x.xr.cand + 1) →
      t = s.updReq (a.slot s) (fun r => { r with dists := insert node (keptEntries (a.bytesAt s (bits a.w 53 48) 0 516)) (erase r.dists node) }) →
      reqAt t (a.slot s) = some r → treeOf t a = some cs → (∀ i, i ≤ cs.length → ∃ e ∈ r.dists, e.1 = i) → r.draft = none →
      (path, d) = acceptPath cs (isZero r.temp) (fun i => drawF (drawBits r.seed a.x.xr.step i)) r.dists 8 0xFF (get [] r.dists 0) 0 [] →
      next = nextToken (isZero r.temp) d (drawF (drawBits r.seed a.x.xr.step 16)) →
      ∃ u : State, u = updVec t a.cx a.x.disp (fun v => { v with path := path, token := some next }) ∧
        (a.x.chimStep = 0 → a.x.discarded = false →
          (path = [] ∨ (∀ e ∈ r.staging, ∀ g, e.2 = some g → g.fill < 256) →
            exec (.verify tile) s = .next (issued (commitPath u (a.slot s) r.length 0 path) a [] false)) ∧
          (path ≠ [] → (∃ e ∈ r.staging, ∃ g, e.2 = some g ∧ 256 ≤ g.fill) → exec (.verify tile) s = .next s)) ∧
        (a.x.chimStep ≠ 0 ∨ a.x.discarded = true → exec (.verify tile) s = .next (issued u a [] false))) ∧
    (∀ (s : State) (tile node : Nat) (a : At) (t : State) (r : Req) (cs : List Cand), Issues s tile 0x32 a → a.x.xr.phase = 2 →
      a.x.xr.last = true → a.has (bits a.w 53 48) 0 516 → node = (if a.x.xr.cand = 0xFF then 0 else a.x.xr.cand + 1) →
      t = s.updReq (a.slot s) (fun r => { r with dists := insert node (keptEntries (a.bytesAt s (bits a.w 53 48) 0 516)) (erase r.dists node) }) →
      reqAt t (a.slot s) = some r → treeOf t a = some cs → (∃ i, i ≤ cs.length ∧ ∀ e ∈ r.dists, e.1 ≠ i) →
      exec (.verify tile) s = .next s) ∧
    (∀ (cs : List Cand) (greedy : Bool) (drawOf : Nat → F32) (dists : SMap (List (Nat × F32))) (d : List (Nat × F32)),
      (acceptPath cs greedy drawOf dists 8 0xFF d 0 []).1.length ≤ 8))

/-! ## The arrays and the flue path (03_arrays, 06_flue_path) -/

/-- FIRE and FIREV (R119, R223 to R225): one waits while one of its banks holds a FIRE or a PROMOTE of one has not completed, and while a
running FIRE uses an array of its own; a block index beyond the vector's count stops the program; else it completes its issue: each of
its banks starts from zero at the first slot of its row groups, as one FIRE of its execution, and its OUTLIER jobs, and for FIREV its
DELTA jobs, are issued.
FIRE_SLOT (R62, R63, R72, R74, R83): while an earlier FIRE that uses one of its arrays runs, nothing is fired; a held tile fires nothing
and counts the stall; else each bank of the FIRE converts every array of its mask and goes on to the next slot of the plane order. An
array whose block is a zero block or has no bit in the plane is skipped; a set whose tally agrees with its data enters the run adders,
one that does not is withheld and becomes a RECOMPUTE job, and the 16 sets of the slot are counted as checked.
A FIRE is taken to access its QVEC record whole (the model's choice, log entry 131). -/
def Obligations.FireSetsRun : Prop :=
  ((∀ (s : State) (tile : Nat) (a : At) (o : FireOps) (n : Nat) (fs : Bool → List (Nat × Fire)), o = fireOps a.w →
      promoting a (fireBanks o) = false →
      (∀ e ∈ (s.tile a.t).fires, ∀ g, e.2 = some g → e.1 ∉ fireBanks o ∧ (g.running = true → ∀ x ∈ g.arrays, x ∉ maskArrays o.mask)) →
      a.has o.qv 0 16 → n = field (a.bytesAt s o.qv 0 16) 4 4 →
      fs = (fun v => (fireBanks o).map fun k => (k,
        { disp := a.x.disp, issue := a.x.issueCtr, v := v, arrays := (maskArrays o.mask).filter fun x => bankOf o.join x == k, join := o.join,
          blk := o.blk, g0 := o.g0, gn := o.gn, qv := o.qv, slot := 32 * o.g0, withheld := 0, jobs := 0, adders := [],
          fmt := (a.i.arrays.find? fun r => r.carray == 4 * a.ct + ((maskArrays o.mask).filter fun x => bankOf o.join x == k).headD 0).elim 0
            (·.format), pass := 0, discarded := a.x.discarded, req := a.x.xr.req })) →
      ((∀ x ∈ maskArrays o.mask, o.blk + 16 * (x % o.join) + o.g0 + o.gn < n) →
        a.has o.qv 0 (qvElems n + 64 * n + 8 * field (a.bytesAt s o.qv 0 16) 8 4) →
        (Issues s tile 0x01 a →
          exec (.fire tile) s = .next (issued (startFires s a.t a.x.xr.cls a.x.xr.variant (fs false)) a [] false)) ∧
        (Issues s tile 0x02 a →
          exec (.firev tile) s = .next (issued (startFires s a.t a.x.xr.cls a.x.xr.variant (fs true)) a [] false))) ∧
      ((∃ x ∈ maskArrays o.mask, n ≤ o.blk + 16 * (x % o.join) + o.g0 + o.gn) → ∃ t : State,
        t = raiseErr (s.updTile a.t fun y => { y with stopped := true })
          { domain := 8, code := 0x8006, unit := a.t, detail := 0, act := .halt a.cx 8 a.ct a.x.pc } ∧
        (Issues s tile 0x01 a → exec (.fire tile) s = .next t) ∧ (Issues s tile 0x02 a → exec (.firev tile) s = .next t))) ∧
    (∀ (s : State) (tile : Nat) (a : At),
      (promoting a (fireBanks (fireOps a.w)) = true ∨ (∃ e ∈ (s.tile a.t).fires, ∃ g, e.2 = some g ∧ (e.1 ∈ fireBanks (fireOps a.w) ∨
        g.running = true ∧ ∃ x ∈ g.arrays, x ∈ maskArrays (fireOps a.w).mask))) →
      (Issues s tile 0x01 a → exec (.fire tile) s = .next s) ∧ (Issues s tile 0x02 a → exec (.firev tile) s = .next s)) ∧
    (∀ (s : State) (t cls variant bank : Nat) (f : Fire),
      look ((startFires s t cls variant [(bank, f)]).tile t).fires bank =
        some { f with slot := 32 * f.g0, withheld := 0, jobs := (fireJobs s t bank cls variant f).length, adders := [] } ∧
      ((startFires s t cls variant [(bank, f)]).tile t).mem = (s.tile t).mem ∧
      (startFires s t cls variant [(bank, f)]).arrs = s.arrs ∧ (startFires s t cls variant [(bank, f)]).hostMem = s.hostMem)) ∧
  ((∀ (s : State) (tile bank : Nat) (devs : List ConvDev) (f : Fire), look (s.tile tile).fires bank = some f → clocked s = true →
      s.clk.aclkOn = true → s.dev.st ≠ .failed → (s.tile tile).stopped = false → f.running = true →
      ((∃ e ∈ (s.tile tile).fires, ∃ g, e.2 = some g ∧ g.running = true ∧ g.before f = true ∧ g.overlaps f = true) →
        exec (.fireSlot tile bank devs) s = .next s) ∧
      ((∀ e ∈ (s.tile tile).fires, ∀ g, e.2 = some g → g.running = true → g.before f = true → g.overlaps f = false) →
        (heldBack (s.tile tile) = true →
          exec (.fireSlot tile bank devs) s = .next (s.updTile tile fun y => { y with gateStalls := y.gateStalls + 4 })) ∧
        (heldBack (s.tile tile) = false → ∃ step : State → Nat × Fire → State,
          exec (.fireSlot tile bank devs) s = .next (((s.tile tile).fires.filterMap fun e => match e.2 with
            | none => none
            | some g => if g.same f then some (e.1, g) else none).foldl step s) ∧
          ∀ (t : State) (b : Nat) (g : Fire), (t.tile tile).stopped = false →
            (∀ a ∈ g.arrays, (t.arr (4 * tile + a)).wChecks + 16 * g.arrays.length ≤ 2 ^ 36) →
            ∃ blank : Job, blank.kind = .recompute ∧ blank.tile = tile ∧ blank.bank = b ∧ blank.issue = g.tag ∧
              let r := g.arrays.foldl (fun st a => slotArray st tile g blank a devs) (t, g.adders, [])
              step t (b, g) = sendJobs (r.1.updTile tile fun y => { y with fires := store y.fires b (some
                { g with adders := r.2.1, slot := nextSlotIdx g.slot, withheld := g.withheld + r.2.2.length }) }) tile r.2.2))) ∧
    (∀ (st : State × SMap Int × List Job) (t a array : Nat) (f : Fire) (blank : Job) (devs : List ConvDev) (acts : Nat) (cs : List Conv),
      array = 4 * t + a →
      acts = qvActs (st.1.tile t).mem (fireBase st.1 t f) (f.block a (f.slot / 32)) (f.slot % 32 / 2) →
      cs = slotConvs (st.1.arr array) (takeover st.1 array) (devs.filter fun d => d.arr == a)
        ((List.range 64).map fun i => (64 * (f.slot / 32) + i, rowOf st.1 array (64 * (f.slot / 32) + i))) acts (f.slot % 2) →
      (acts = 0 → slotArray st t f blank a devs = st) ∧
      (acts ≠ 0 → (st.1.arr array).wChecks < 2 ^ 36 → ∃ (vals : List (Nat × Int)) (l : List Job),
        slotArray st t f blank a devs = (st.1.updArr array (fun x => countSlot x cs), addVals st.2.1 vals, st.2.2 ++ l) ∧
        l.map (·.set) = ((List.range 16).filter fun i => setFails ((cs.drop (32 * i)).take 32) ((cs.drop (512 + 6 * i)).take 6)) ∧
        (∀ j ∈ l, j.kind = blank.kind ∧ j.arr = a ∧ j.acts = acts ∧ j.slot = f.slot) ∧
        vals.length = 32 * (16 - l.length))) ∧
    (∀ (m : Mem) (b k p : Nat), qvZ m b k = true → qvActs m b k p = 0) ∧
    (∀ (a : Arr) (cs : List Conv), (countSlot a cs).checks = a.checks + 16 ∧ (countSlot a cs).wChecks = a.wChecks + 16) ∧
    (∀ i, i % 2 = 0 → nextSlotIdx i = i + 1) ∧ (∀ g, nextSlotIdx (32 * g + 15) = 32 * (g + 1)))

/-- An engine's next job (R142): of the queues' heads that have waited 2,048 CCLK cycles the one that waited longest, and else the head of the
first queue that is not empty, in the order RECOMPUTE, OUTLIER, DELTA; within a queue class 0 first, then by arrival; sweep work, but for the
rounds a sub-interval has claimed (16_faults R395), only when all three queues are empty. -/
def Obligations.FlueChoosesQueues : Prop :=
  ∀ (s : State) (f : Flue),
    (∀ j, nextJob s f = some (j, true) → overdue s j = true ∧
      ∀ q ∈ [f.qRec, f.qOut, f.qDel], ∀ k, headOf q = some k → overdue s k = true → j.arrived ≤ k.arrived) ∧
    ((∀ q ∈ [f.qRec, f.qOut, f.qDel], ∀ k, headOf q = some k → overdue s k = false) →
      (f.qRec ≠ [] → nextJob s f = (headOf f.qRec).map fun j => (j, false)) ∧
      (f.qRec = [] → f.qOut ≠ [] → nextJob s f = (headOf f.qOut).map fun j => (j, false)) ∧
      (f.qRec = [] → f.qOut = [] → nextJob s f = (headOf f.qDel).map fun j => (j, false))) ∧
    (∀ (q : List Job) (j : Job), headOf q = some j → ∃ a b, q = a ++ j :: b ∧ (∀ k ∈ a, j.cls < k.cls) ∧ ∀ k ∈ b, j.cls ≤ k.cls) ∧
    (∀ j, overdue s j = true ↔ 2048 * s.clk.cclk.div ≤ (s.dev.now - j.arrived) * 96) ∧
    queueSize .recompute = 64 ∧ queueSize .outlier = 256 ∧ queueSize .delta = 64 ∧
    (∀ (unit slots digest : Nat) (devs : List (Nat × ConvDev)), (s.flue unit).owed = 0 →
      (s.flue unit).qRec ≠ [] ∨ (s.flue unit).qOut ≠ [] ∨ (s.flue unit).qDel ≠ [] → exec (.sweepRound 2 unit slots devs digest) s = .next s)

/-- RECOMPUTE, OUTLIER and DELTA (R73, R76, R80, R138, R145 to R148): an engine takes its next job when it is of the kind; RECOMPUTE
releases the set from its stored cells, or reports the faulted rows of a second read with an ARRAY-domain error, or after a third clean
read releases it, or finds a hard fault; OUTLIER returns P times each weight of the row; DELTA adds each entry of the segment times its
element, and counts the fetch of a segment that the cache does not hold or holds with a parity error.
FLUE_RESULT_ARRIVAL, FREE and the refusal of a full queue (R72, R140, R141, R143, R144): a result enters its bank's run adders and
counts down what the bank waits for, one of a discarded pass is dropped; a full queue refuses a job and holds its tile; the next waiting
tile in number order sends its refused jobs again once there is room. -/
def Obligations.FlueJobsAndReturns : Prop :=
  ((∀ (s : State) (engine : Nat) (reads : List RowRead) (j : Job) (late : Bool), clocked s = true → s.dev.st ≠ .failed →
      nextJob s (s.flue engine) = some (j, late) → j.kind = .recompute →
      ∃ t : State, t = ((s.updFlue engine fun x => { (x.setQueue .recompute ((x.queue .recompute).erase j)) with
            waited := x.waited + b2n late, claimed := false }).updFlue engine fun f => { f with nRec := f.nRec + 1, busy := f.busy + 24 }) ∧
        let array := 4 * j.tile + j.arr
        let agree (nth : Nat) := (trueLevels (setRows t reads nth array j.slot) j.acts j.half j.set).sum =
          trueTally (setRows t reads nth array j.slot) j.acts j.half j.set
        let faults (nth : Nat) := faultRows (setRows t reads nth array j.slot) j.half j.set
        (agree 0 → exec (.recompute engine reads) s = .next (releaseSet t j (setRows t reads 0 array j.slot))) ∧
        (¬agree 0 → faults 1 ≠ [] → exec (.recompute engine reads) s = .next (raiseErr
          (sendFlit (t.updArr array fun a => { a with storage := a.storage + 1 }) (.storage j.tile j.arr j.bank j.issue (faults 1)))
          { domain := 3, code := 0x4002, unit := array, detail := (faults 1).length, act := .elsewhere })) ∧
        (¬agree 0 → faults 1 = [] → faults 2 = [] →
          exec (.recompute engine reads) s = .next (releaseSet t j (setRows t reads 2 array j.slot))) ∧
        (∀ row l, ¬agree 0 → faults 1 = [] → faults 2 = row :: l →
          exec (.recompute engine reads) s = .next (hardFault t array row.1 0 (badSets row.2)))) ∧
    (∀ (rows : List (Nat × Nat)) (h set : Nat) (r : Nat × Nat), r ∈ faultRows rows h set ↔ r ∈ rows ∧ setCount r.2 h set ≠ setDigits r.2 h set) ∧
    (∀ (s : State) (j : Job) (rows : List (Nat × Nat)) (data : Bool) (l : List Int), l = trueLevels rows j.acts j.half j.set →
      data = (j.dataBad || l != j.levels) → releaseSet s j rows = sendFlit (s.updArr (4 * j.tile + j.arr) fun a =>
        { a with
          mmData := a.mmData + b2n data, mmTally := a.mmTally + b2n (!data), wFails := a.wFails + 1, wTally := a.wTally + b2n (!data) })
        (.result j.tile j.bank j.issue .recompute (setVals j (if data then l else j.levels)))) ∧
    (∀ (s : State) (engine : Nat) (j : Job) (late : Bool), clocked s = true → s.dev.st ≠ .failed →
      nextJob s (s.flue engine) = some (j, late) → j.kind = .outlier →
      ∃ t : State, exec (.outlier engine) s = .next t ∧ t.flits = s.flits ++
          [.result j.tile j.bank j.issue .outlier ((List.range (outputsOf j.fmt)).map fun c => (c, j.p * weightAt j.fmt j.acts c * 2048))] ∧
        (t.flue engine).nOut = (s.flue engine).nOut + 1 ∧ (t.flue engine).qOut = (s.flue engine).qOut.erase j ∧ t.tiles = s.tiles ∧
        t.arrs = s.arrs ∧ t.hostMem = s.hostMem) ∧
    (∀ (s : State) (engine : Nat) (parity : Bool) (j : Job) (late : Bool), clocked s = true → s.dev.st ≠ .failed →
      nextJob s (s.flue engine) = some (j, late) → j.kind = .delta →
      ∃ (t : State) (vals : List (Nat × Int)), exec (.delta engine parity) s = .next t ∧
        t.flits = s.flits ++ [.result j.tile j.bank j.issue .delta vals] ∧ (t.flue engine).nDel = (s.flue engine).nDel + 1 ∧
        (∀ ct, ((s.tile j.tile).ctx).elim 0 (·.2) = ct → (t.flue engine).misses = (s.flue engine).misses + b2n ((jobSeg s j).isSome &&
          (parity || !(s.flue engine).cache.contains (j.ctx, j.variant, 4 * ct + j.arr)))) ∧
        (∀ c, get 0 vals c = (((jobSeg s j).getD []).filter fun e => decide (j.g0 ≤ e.row / 64 ∧ e.row / 64 ≤ j.g0 + j.gn) && e.col == c).foldl
          (fun n e => n + e.d * (get 0 j.q e.row + get 0 j.outl e.row)) 0) ∧
        t.tiles = s.tiles ∧ t.arrs = s.arrs ∧ t.hostMem = s.hostMem)) ∧
  ((∀ (s : State) (tile bank tag : Nat) (kind : FlueKind) (vals : List (Nat × Int)) (l : List Flit) (f : Fire), clocked s = true →
      takeResult tile s.flits = some ((bank, tag, kind, vals), l) → look (s.tile tile).fires bank = some f → (s.tile tile).backlog = [] →
      (f.tag = tag → exec (.flueResultArrival tile) s = .next (({ s with flits := l } : State).updTile tile fun t =>
        let g := { f with
          adders := addVals f.adders vals, withheld := if kind = .recompute then f.withheld - 1 else f.withheld,
          jobs := if kind = .recompute then f.jobs else f.jobs - 1 }
        { (t.setOut kind (t.outOf kind - 1)) with fires := store t.fires bank (some g) })) ∧
      (f.tag ≠ tag → exec (.flueResultArrival tile) s = .next (({ s with flits := l } : State).updTile tile fun t =>
        t.setOut kind (t.outOf kind - 1)))) ∧
    (∀ (s : State) (j : Job) (e : Nat), e = engineFor s j →
      (((s.flue e).queue j.kind).length < queueSize j.kind → ((offerJob s j).flue e).queue j.kind =
        (s.flue e).queue j.kind ++ [{ j with arrived := s.dev.now }] ∧ (offerJob s j).tiles = s.tiles) ∧
      (queueSize j.kind ≤ ((s.flue e).queue j.kind).length → ((offerJob s j).flue e).refused = (s.flue e).refused ++ [j] ∧
        ((offerJob s j).flue e).holdOffs = (s.flue e).holdOffs + 1 ∧ j.tile ∈ ((offerJob s j).flue e).waiting j.kind ∧
        ((offerJob s j).tile j.tile).held = (s.tile j.tile).held + 1 ∧ heldBack ((offerJob s j).tile j.tile) = true)) ∧
    (∀ (s : State) (engine t : Nat) (kind : FlueKind), clocked s = true → s.dev.st ≠ .failed →
      ((s.flue engine).queue kind).length < queueSize kind → nextWaiting ((s.flue engine).waiting kind) (s.flue engine).lastFreed = some t →
      ∃ u : State, u = ((s.setFlue engine { ((s.flue engine).setWaiting kind (((s.flue engine).waiting kind).filter (· != t))) with
            refused := (s.flue engine).refused.filter (fun j => !(j.tile == t && j.kind == kind)), lastFreed := t }).updTile t fun y =>
            { y with held := y.held - ((s.flue engine).refused.filter fun j => j.tile == t && j.kind == kind).length }) ∧
        exec (.freeFlue engine kind) s = .next (((s.flue engine).refused.filter fun j => j.tile == t && j.kind == kind).foldl offerJob u)) ∧
    (∀ (s : State) (engine : Nat) (kind : FlueKind), queueSize kind ≤ ((s.flue engine).queue kind).length →
      exec (.freeFlue engine kind) s = .next s) ∧
    (∀ (l : List Nat) (last t : Nat), nextWaiting l last = some t → t ∈ l ∧ (last < t → ∀ u ∈ l, last < u → t ≤ u) ∧
      (t ≤ last → ∀ u ∈ l, u ≤ last ∧ t ≤ u)))

/-- STORAGE_REPORT, STORAGE_REPAIR, SCRUB_ROW and WINDOW_CLOSE (R76 to R79, R81 to R87): the report makes a repair pending; the first
repair pending in an array rewrites each of its rows from the golden copy, counts them, and its FIRE begins again; a row that was
repaired within 60 s or reads back otherwise is a hard fault; the scrub goes on to the next row and repairs one whose digits disagree;
a window that closes counts as closed, starts again from nothing, and sets OVER_LIMIT exactly above 1,024 failures.
A row that needs a second repair is not rewritten (a reading, log entry 63). -/
def Obligations.RepairAndWindows : Prop :=
  (∀ (s : State) (tile : Nat) (r : Repair) (l : List Flit), clocked s = true → takeStorage tile s.flits = some (r, l) →
    (s.tile tile).backlog = [] → exec (.storageReport tile) s = .next (({ s with flits := l } : State).updTile tile fun y =>
      { y with outRecompute := y.outRecompute - 1, repairs := y.repairs ++ [r] })) ∧
  (∀ (s : State) (array : Nat) (reads : List RowRead) (r : Repair), clocked s = true → s.dev.st ≠ .failed →
    ((s.tile (array / 4)).repairs.find? fun r => r.arr == array % 4) = some r →
    (r.rows.map (·.1)).Nodup → (∀ e ∈ r.rows, e.1 < 1024 ∧ (∀ t, look (s.arr array).repairs e.1 = some t → t + 6000000000 ≤ s.dev.now) ∧
      ∀ back, readOf reads 0 e.1 = some back → back = mkRow (goldOf s array e.1)) →
    ∃ t : State, exec (.storageRepair array reads) s = .next (refire (rewritten (t.updTile (array / 4) fun y =>
        { y with repairs := y.repairs.erase r }) (array / 4) r.arr (r.rows.map (·.1))) (array / 4) r) ∧
      t.tiles = s.tiles ∧ t.flits = s.flits ∧ t.hostMem = s.hostMem ∧ t.dev = s.dev ∧
      (t.arr array).gateRepairs = (s.arr array).gateRepairs + r.rows.length ∧
      (∀ e ∈ r.rows, rowOf t array e.1 = mkRow (goldOf s array e.1) ∧ look (t.arr array).repairs e.1 = some s.dev.now) ∧
      ∀ a row, row < 1024 → (a ≠ array ∨ row ∉ r.rows.map (·.1)) → a < 20480 → array < 20480 → rowOf t a row = rowOf s a row) ∧
  (∀ (s : State) (array row was : Nat) (reads : List RowRead) (r : Repair) (l : List (Nat × Nat)) (t : Nat), clocked s = true →
    s.dev.st ≠ .failed → ((s.tile (array / 4)).repairs.find? fun r => r.arr == array % 4) = some r → r.rows = (row, was) :: l →
    look (s.arr array).repairs row = some t → s.dev.now < t + 6000000000 →
    exec (.storageRepair array reads) s = .next (hardFault s array row 0 (badSets was))) ∧
  (∀ (s : State) (t : Nat) (r : Repair) (f : Fire), look (s.tile t).fires r.bank = some f → f.disp = r.issue / 2 ^ 128 →
    f.issue = r.issue % 2 ^ 64 → f.tag = r.issue ∨ r.rows ≠ [] → refire s t r = startFires s t
      ((s.tile t).exec.elim 7 fun x => x.xr.cls) ((s.tile t).exec.elim 0 fun x => x.xr.variant)
      ((s.tile t).fires.filterMap fun e => match e.2 with
        | none => none
        | some g => if g.same f then some (e.1, { g with pass := g.pass + 1 }) else none)) ∧
  (∀ (s : State) (t : Nat) (r : Repair), look (s.tile t).fires r.bank = none → refire s t r = s) ∧
  (∀ (s : State) (array row source was : Nat) (good : Nat), good = (if row ≥ 1024 then sweepRow s array row else mkRow (goldOf s array row)) →
    ((∀ t, look (s.arr array).repairs row = some t → t + 6000000000 ≤ s.dev.now) →
      (repairRow s array row source was none).2 = true ∧
      (row < 1024 ∨ calHolds s array = false → rowOf (repairRow s array row source was none).1 array row = good) ∧
      ((repairRow s array row source was none).1.arr array).gateRepairs = (s.arr array).gateRepairs + b2n (source == 0) ∧
      look ((repairRow s array row source was none).1.arr array).repairs row = some s.dev.now ∧
      ∀ back, back ≠ good → (repairRow s array row source was (some back)).2 = false) ∧
    (∀ t back, look (s.arr array).repairs row = some t → s.dev.now < t + 6000000000 →
      repairRow s array row source was back = (hardFault s array row source (badSets was), false))) ∧
  (∀ (s : State) (array row was : Nat) (reads : List RowRead) (t : State), clocked s = true →
    s.dev.st = .maintenance ∨ s.dev.st = .service ∨ s.dev.st = .sleep → row = (s.arr array).scrubRow →
    t = (s.updArr array fun a => { a with scrubRow := (row + 1) % 1088 }) → was = (readOf reads 0 row).getD (rowOf t array row) →
    (1024 ≤ row → calHolds s array = true → exec (.scrubRow array reads) s = .next t) ∧
    (row < 1024 ∨ calHolds s array = false →
      (badSets was = 0 → exec (.scrubRow array reads) s = .next t) ∧
      (badSets was ≠ 0 → exec (.scrubRow array reads) s = .next (repairRow t array row 1 was (readOf reads 1 row)).1))) ∧
  (∀ (s : State) (array : Nat), clocked s = true → s.dev.st ≠ .failed →
    (2 ^ 36 ≤ (s.arr array).wChecks → exec (.windowClose array) s = .next (closeWindow s array)) ∧
    ((s.arr array).wChecks < 2 ^ 36 → exec (.windowClose array) s = .next s)) ∧
  (∀ (s : State) (array : Nat), (s.arr array).wFails ≤ 1024 →
    ∃ b : Arr, closeWindow s array = s.setArr array b ∧ b.windows = (s.arr array).windows + 1 ∧ b.lastFails = (s.arr array).wFails ∧
      b.overLimit = false ∧ b.wChecks = 0 ∧ b.wFails = 0 ∧ b.wTally = 0 ∧ b.wHist = [] ∧ b.judging = (s.arr array).judgeNext ∧
      b.sigma = sigmaOf (s.arr array).wHist ∧ b.undet = nlog2Of (undetectedRate (s.arr array).wFails (s.arr array).wHist) ∧
      b.drift = ((s.arr array).drift || decide (256 < (s.arr array).wTally))) ∧
  (∀ (s : State) (array : Nat), 1024 < (s.arr array).wFails → ((closeWindow s array).arr array).overLimit = true ∧
    ((s.arr array).judging = false → (s.arr array).recal = false → (s.arr array).judgeNext = false →
      ((closeWindow s array).arr array).recal = true))

/-! ## Calibration (04_calibration) -/

/-- A fit's trims (R92): the offset is rne(64 a), the gain rne(32,768 / b), and a fit whose trims lie outside -64 to +192 and 15,600 to 17,800
has none. -/
def Obligations.FitsBecomeTrims : Prop :=
  ∀ (a b : Rat) (o : Int) (g : Nat), trimsOf a b = some (o, g) ↔
    0 < b ∧ o = rne (64 * a) ∧ (g : Int) = rne (32768 / b) ∧ -64 ≤ o ∧ o ≤ 192 ∧ 15600 ≤ g ∧ g ≤ 17800

/-- CAL_RUN and its schedule (R91 to R96, R98 to R100): in MAINTENANCE it starts its schedule, in another state it is not permitted;
while a SELF_TEST or another CAL_RUN runs it completes with BUSY_TESTING or BUSY and the remaining time; the reference check within
200 ppm goes on to the attempts and holds group 16, beyond it fails with REASON 5 and the lowest such die (the model's choice, log entry
126); an attempt, of two measurements, keeps the converters that have not passed, and one left after attempt 3 fails the CAL_RUN;
without one the trims take force and it completes with OK and the number of converters that were measured again.
A fit (R93) leaves out the levels of which more than 1% of the samples are clipped, and its line is the least-squares line of the others'
mean codes; the sequencer gives level L to the L rows from its offset on.
The rounding of the largest difference of offsets that CAL_RUN returns is the model's choice (log entry 128). -/
def Obligations.CalibrationRuns : Prop :=
  (∀ (s : State) (ring seq : Nat) (c : Cmd), Ready s 0x70 ring seq c →
    (∀ t, s.test = some t → exec (.calRun ring seq) s = .next (finish s c stBusyTesting (t.sched.remain s.dev.now))) ∧
    (∀ r, s.test = none → s.cal.run = some r → exec (.calRun ring seq) s = .next (finish s c stBusy (r.sched.remain s.dev.now))) ∧
    (s.test = none → s.cal.run = none → s.dev.st ≠ .maintenance → exec (.calRun ring seq) s = .next (finish s c stNotPermitted 0)) ∧
    (s.test = none → s.cal.run = none → s.dev.st = .maintenance → exec (.calRun ring seq) s = .next (acceptLong (s.updCal fun k =>
      { k with run := some { ring := ring, seq := seq, sched := Sched.start s.dev.now (capW s.thm) 40000000 240000000, stage := 0, failed := [],
                             retried := 0, passed := 0, trims := { conv := [], replica := [] }, maxDa := 0 } })
      { c with phase := .running }))) ∧
  (∀ (s : State) (r : CalRun) (ppm e : List Int), s.cal.run = some r → clocked s = true → r.stage = 0 →
    e = (List.range 4).map (fun i => ppm[i]?.getD 0) →
    ((∀ x ∈ e, |x| ≤ 200) → ∃ row, row < 64 ∧ exec (.calReferenceCheck ppm) s =
      .next (s.updCal fun c => { c with refErr := e, run := some { r with stage := 1 }, group16 := true, seqRow := row })) ∧
    (∀ d x, e[d]? = some x → 200 < |x| → (∀ i y, i < d → e[i]? = some y → |y| ≤ 200) → exec (.calReferenceCheck ppm) s =
      .next (calFail (s.updCal fun c => { c with refErr := e }) 0 0xFFFF 5 d (sfield 16 x) 0xFFFF))) ∧
  (∀ (s : State) (r q : CalRun) (fits : List ConvMeas) (t : State), s.cal.run = some r → clocked s = true → 1 ≤ r.stage → r.stage ≤ 3 →
    q = afterAttempt r fits → t = refreshCal (s.updCal fun c => { c with run := some q, seqRow := c.seqRow % 64 }) →
    (q.stage < 4 ∨ q.failed = [] → exec (.calAttemptEnd fits) s = .next t) ∧
    (∀ a c x l, q.stage = 4 → q.failed = (a, c, x) :: l → exec (.calAttemptEnd fits) s =
      .next (calFail t a c x (dieOf (a / 4)) (sat 16 q.failed.length) a))) ∧
  (∀ (r : CalRun) (fits : List ConvMeas), (afterAttempt r fits).stage = r.stage + 1 ∧
    (afterAttempt r fits).passed = 12472320 - (afterAttempt r fits).failed.length ∧
    (r.stage = 1 → (afterAttempt r fits).retried = (afterAttempt r fits).failed.length) ∧
    (r.stage ≠ 1 → (afterAttempt r fits).retried = r.retried) ∧
    ∀ a c x, (a, c, x) ∈ (afterAttempt r fits).failed → attemptReason (fitsOf fits a c).1 (fitsOf fits a c).2 = some x) ∧
  (∀ (f g : Fit), attemptReason f g = none ↔
    fitReason f = none ∧ fitReason g = none ∧ |f.a - g.a| ≤ 1 / 20 ∧ |f.b - g.b| ≤ f.b / 1000) ∧
  (∀ f : Fit, fitReason f = none ↔ f.leftOut ≤ 4 ∧ (trimsOf f.a f.b).isSome = true ∧ f.nonlinear = false) ∧
  (∀ (n : Nat) (ms : List LevelMeas) (l : Nat) (k : Rat), (l, k) ∈ fitPoints n ms ↔ l < 65 ∧ ∃ m, m = ms[l]?.getD { sum := 0, clipped := n } ∧
    100 * m.clipped ≤ n ∧ k = (m.sum : Rat) / (n : Rat)) ∧
  (∀ (ps : List Point) (a b : Rat), leastSquares ps = (a, b) →
    (ps.length : Rat) * (ps.map fun p => (p.1 : Rat) * p.1).sum ≠ (ps.map fun p => (p.1 : Rat)).sum * (ps.map fun p => (p.1 : Rat)).sum →
    (ps.map fun p => p.2 - (a + b * p.1)).sum = 0 ∧ (ps.map fun p => (p.1 : Rat) * (p.2 - (a + b * p.1))).sum = 0) ∧
  (∀ o l i, o < 64 → l ≤ 64 → i < 64 → ((calActs o l).testBit ((o + i) % 64) = true ↔ i < l)) ∧
  (∀ (s : State) (r : CalRun) (c : Cmd), s.cal.run = some r → clocked s = true → r.stage = 4 → findCmd s r.ring r.seq = some c →
    ∃ (t : State) (d : Cmd), exec .calTrimLoad s = .next (finish t d stOk (r.retried % 2 ^ 32 + 2 ^ 32 * sat 16 (rne (1024 * r.maxDa)).toNat)) ∧
      findCmd t r.ring r.seq = some d ∧ d.pkt = c.pkt ∧ t.cal.run = none ∧ t.cal.group16 = false ∧ t.cal.source = 2 ∧
      t.cal.count = (s.cal.count + 1) % 2 ^ 32 ∧ t.cal.lastSec = s.dev.opSec ∧ t.cal.commitNeeded = true ∧ t.cal.lastRun = some r.trims ∧
      (∀ a, (t.arr a).drift = false) ∧
      ∀ a v, (∀ e ∈ r.trims.conv, (e.1, e.2.1) = (a, v) → False) → get nomTrim (t.arr a).trims v = nomTrim)

/-- CAL_STATUS and CAL_COMMIT (R107, R108, R300): the first packs the calibration state; the second answers BUSY during a CAL_RUN and
NOT_PERMITTED without one, and else writes a record of the last trims, all but its SEQ, into the older or invalid area and leaves the
other as it was; SEQ is written last, and the area whose CHECK then matches ends it with OK and the SEQ.
Background calibration and recalibration (R102 to R105): in SERVICE the spare converts the column whose converter the dwell measures; the
dwell of the rotation's position moves each fitted converter's trims by an eighth of the difference, or discards and counts the update
when the fit fails or differs too far; the rotation goes on, counted at its end; a recalibration's fit replaces the trims outright, and
after its last dwell the array waits for its judging window.
The first SEQ, the SEQ of an area that is being written, and the status of a record whose CHECK does not match, are open or presumed (log
entries 21 and 22). -/
def Obligations.CalibrationRecordsAndBackground : Prop :=
  ((∀ (s : State) (ring seq : Nat) (c : Cmd), Ready s 0x71 ring seq c → exec (.calStatus ring seq) s =
      .next (finish s c stOk (packF [(regCalState s % 2 ^ 16, 16), (sat 16 s.cal.count, 16), (s.cal.lastSec, 32)]))) ∧
    (∀ (s : State) (ring seq : Nat) (c : Cmd), Ready s 0x72 ring seq c →
      (∀ r, s.cal.run = some r → exec (.calCommit ring seq) s = .next (finish s c stBusy (r.sched.remain s.dev.now))) ∧
      (s.cal.run = none → s.cal.lastRun = none → exec (.calCommit ring seq) s = .next (finish s c stNotPermitted 0)) ∧
      (∀ t, s.cal.run = none → s.cal.lastRun = some t → s.cal.commit = none → ∃ (x : CalRec) (toB : Bool) (n : Nat), (toB, n) = commitPlace s ∧
        x.trims = t ∧ x.magic = calMagic ∧ x.pkgUid = s.dev.pkgUid ∧ x.calCount = s.cal.count ∧ x.calSec = s.cal.lastSec ∧
        x.stepping = s.dev.stepping ∧ x.check = crc32 (recordBody { x with seq := n, check := 0 }) ∧
        exec (.calCommit ring seq) s = .next (putCmd (s.updCal fun k => { k with
          areaA := if toB then k.areaA else some x, areaB := if toB then some x else k.areaB, commit := some (toB, n) })
          { c with phase := .running }))) ∧
    (∀ s : State, (∀ a b, validRec s s.cal.areaA = some a → validRec s s.cal.areaB = some b →
        commitPlace s = (decide (b.seq < a.seq), (max a.seq b.seq + 1) % 2 ^ 32)) ∧
      (∀ a, validRec s s.cal.areaA = some a → validRec s s.cal.areaB = none → commitPlace s = (true, (a.seq + 1) % 2 ^ 32)) ∧
      (∀ b, validRec s s.cal.areaA = none → validRec s s.cal.areaB = some b → commitPlace s = (false, (b.seq + 1) % 2 ^ 32)) ∧
      (validRec s s.cal.areaA = none → validRec s s.cal.areaB = none → (commitPlace s).1 = false)) ∧
    (∀ (s : State) (r : CalRec), recordValid s r = true ↔ r.magic = calMagic ∧ r.pkgUid = s.dev.pkgUid ∧ r.check = crc32 (recordBody r)) ∧
    (∀ (s : State) (ring seq : Nat) (c : Cmd) (toB : Bool) (n : Nat) (x y : CalRec), Running s 0x72 ring seq c → s.cal.commit = some (toB, n) →
      (if toB then s.cal.areaB else s.cal.areaA) = some x → y = { x with seq := n } → recordValid s y = true →
      exec (.calCommit ring seq) s = .next (finish (s.updCal fun k => { k with
        areaA := if toB then k.areaA else some y, areaB := if toB then some y else k.areaB, commit := none, commitNeeded := false }) c stOk n))) ∧
  ((∀ (s : State) (array : Nat), s.dev.st = .service → (s.arr array).recal = false → (s.arr array).recalPos = 0 → s.cal.bgPos < 512 →
      ∀ c, standIn (takeover s array) c = if c = s.cal.bgPos then 608 else c) ∧
    (∀ (s : State) (array : Nat), s.dev.st ≠ .service → takeover s array = none) ∧
    (∀ (s : State) (f : ConvMeas) (conv : Nat) (t : State), clocked s = true → s.dev.st = .service → conv = posConv s.cal.bgPos →
      f.array < 20480 → f.conv = conv → (s.arr f.array).recal = false → (s.arr f.array).recalPos = 0 →
      t = (match bgMove (s.arr f.array) conv (fitOf 64 f.m1) with
        | none => s.updCal fun c => { c with bgRejects := c.bgRejects + 1 }
        | some n => s.updArr f.array fun a => { a with trims := put nomTrim a.trims conv n }) →
      s.cal.bgPos < 607 → exec (.bgCalDwell [f]) s = .next (t.updCal fun c => { c with bgPos := c.bgPos + 1 })) ∧
    (∀ s : State, clocked s = true → s.dev.st = .service →
      (s.cal.bgPos < 607 → exec (.bgCalDwell []) s = .next (s.updCal fun c => { c with bgPos := c.bgPos + 1 })) ∧
      (607 ≤ s.cal.bgPos → ∃ t : State, exec (.bgCalDwell []) s = .next t ∧ t.cal.bgPos = 0 ∧ t.cal.bgRotations = s.cal.bgRotations + 1)) ∧
    (∀ (s : State) (fits : List ConvMeas), s.dev.st ≠ .service → exec (.bgCalDwell fits) s = .next s) ∧
    (∀ (a : Arr) (conv : Nat) (f : Fit) (cur : Int × Nat), cur = get nomTrim a.trims conv →
      (bgTrims a f = none → bgMove a conv f = none) ∧
      (∀ o g, bgTrims a f = some (o, g) →
        ((o - cur.1).natAbs ≤ 16 ∧ 100 * ((g : Int) - cur.2).natAbs ≤ cur.2 → bgMove a conv f =
          some (cur.1 + rne ((o - cur.1 : Int) / (8 : Rat)), (cur.2 + rne ((((g : Int) - cur.2 : Int) : Rat) / 8)).toNat)) ∧
        (16 < (o - cur.1).natAbs ∨ cur.2 < 100 * ((g : Int) - cur.2).natAbs → bgMove a conv f = none))) ∧
    (∀ (s : State) (array conv : Nat) (f : ConvMeas) (t : State), clocked s = true → s.dev.st = .service → (s.arr array).recal = true →
      conv = posConv (s.arr array).recalPos → f.array = array → f.conv = conv →
      t = (match bgTrims (s.arr array) (fitOf 1024 f.m1) with
        | none => s.updCal fun c => { c with bgRejects := c.bgRejects + 1 }
        | some n => s.updArr array fun a => { a with trims := put nomTrim a.trims conv n }) →
      ((s.arr array).recalPos < 607 → exec (.recalDwell array [f]) s = .next (t.updArr array fun a => { a with recalPos := a.recalPos + 1 })) ∧
      ((s.arr array).recalPos = 607 → exec (.recalDwell array [f]) s = .next ((t.updArr array fun a =>
        { a with recalPos := a.recalPos + 1, recal := false, judgeNext := true }).updCal fun c => { c with recals := sat 16 (c.recals + 1) }))))

/-! ## The sweep and SELF_TEST (16_faults R391 to R397, 12_graec_commands R300) -/

/-- The sweep (R391 to R395): a round runs on idle resources while the unit is fewer than four rounds ahead of its partner; of an array
it runs 16 fire slots, whose 16 set checks each are counted; a complete round is counted, its digest held and sent to the partner as
background traffic; a digest that arrives at a unit that has run its round is compared: equal digests are dropped, unequal ones whose
reruns agree count as a transient, and else the device fails with SWEEP_FAIL; a sub-interval counts the rounds that are missing as
forced and claims them; SWEEP_CONFIG replaces the seed and the duty, and answers BUSY_TESTING during a SELF_TEST and BUSY while a
CAL_RUN holds group 16.
SELF_TEST (R396, R397): in MAINTENANCE it starts, in another state it is not permitted; its phases end unit by unit; a unit that finds
nothing changes how far the test has come, and in phase 2 the calibration sequencer; a fault of an array, of a tile memory or of the
sweep fails the device; with the last unit of all it completes with the number of arrays.
That a voided array round fires no further slot, and how claimed rounds of a flue engine come between its jobs, are the model's choice (log
entries 132 and 137). -/
def Obligations.SweepAndSelfTest : Prop :=
  ((∀ (s : State) (kind unit slots digest r : Nat) (devs : List (Nat × ConvDev)), sweepRuns s = true → unit < unitCount kind →
      r = roundsOf s kind unit →
      (unitIdle s kind unit = true → r < roundsOf s kind (partnerOf kind unit) + 4 →
        (kind ≠ 0 → 16 ≤ slots → exec (.sweepRound kind unit slots devs digest) s = .next (endRound s kind unit digest)) ∧
        (kind ≠ 0 → slots < 16 → exec (.sweepRound kind unit slots devs digest) s = .next s) ∧
        (kind = 0 → 16 ≤ slots → (∀ e ∈ group16 s unit, badSets e.2 = 0) → (s.arr unit).wChecks + 256 ≤ 2 ^ 36 → ∃ t : State,
          exec (.sweepRound kind unit slots [] digest) s = .next (endRound t kind unit digest) ∧
          (t.arr unit).checks = (s.arr unit).checks + 256 ∧ (t.arr unit).wFails = (s.arr unit).wFails ∧ t.tiles = s.tiles ∧ t.flits = s.flits ∧
          t.dev = s.dev ∧ ∀ a, a ≠ unit → t.arr a = s.arr a) ∧
        (kind = 0 → (sweepSlots s unit r slots devs).2 = false →
          exec (.sweepRound kind unit slots devs digest) s = .next (sweepSlots s unit r slots devs).1)) ∧
      (unitIdle s kind unit = false ∨ roundsOf s kind (partnerOf kind unit) + 4 ≤ r →
        exec (.sweepRound kind unit slots devs digest) s = .next s)) ∧
    (∀ (s : State) (kind unit digest : Nat), unit < unitCount kind →
      roundsOf (endRound s kind unit digest) kind unit = roundsOf s kind unit + 1 ∧
      digestOf (endRound s kind unit digest) kind unit (roundsOf s kind unit) = digest % 2 ^ 32 + 1 ∧
      (endRound s kind unit digest).flits = s.flits ++ [.digest kind (partnerOf kind unit) (roundsOf s kind unit) (digest % 2 ^ 32)]) ∧
    (∀ (s : State) (kind unit r d : Nat) (f : Flit) (agree : Bool) (t u : State), nextDigest s kind unit = some (r, d, f) → sweepRuns s = true →
      mayArrive s f = true → r < roundsOf s kind unit → t = dropDigests { s with flits := s.flits.erase f } kind unit r →
      u = raiseErr (t.updSweep fun w => { w with lastUnit := unit, lastKind := kind })
        { domain := 3, code := 0x4006, unit := unit, detail := 0, act := .elsewhere } →
      (digestOf s kind unit r = 0 ∨ digestOf s kind unit r = d + 1 → exec (.sweepDigest kind unit agree) s = .next t) ∧
      (digestOf s kind unit r ≠ 0 → digestOf s kind unit r ≠ d + 1 →
        (s.err.active = none → u.dev.st ≠ .failed) ∧
        (u.dev.st ≠ .failed →
          exec (.sweepDigest kind unit true) s = .next (u.updSweep fun w => { w with transients := w.transients + 1 }) ∧
          ∃ v : State, exec (.sweepDigest kind unit false) s = .next v ∧ v.dev.st = .failed))) ∧
    (∀ (s : State) (kind unit : Nat) (agree : Bool), nextDigest s kind unit = none → exec (.sweepDigest kind unit agree) s = .next s) ∧
    (∀ (s : State) (kind unit r d : Nat) (f : Flit), nextDigest s kind unit = some (r, d, f) → f = .digest kind unit r d ∧ f ∈ s.flits) ∧
    (∀ kind unit, kind ≤ 2 → unit < unitCount kind → partnerOf kind unit < unitCount kind ∧ partnerOf kind (partnerOf kind unit) = unit) ∧
    (∀ s : State, sweepRuns s = true → ∃ t : State, exec .sweepSubinterval s = .next t ∧
      t.sweep.forced = sat 32 (s.sweep.forced + lacking s) ∧ t.sweep.subs = (s.sweep.subs + 1) % 64 ∧
      t.sweep.cycles = (if 64 ≤ s.sweep.subs + 1 then sat 32 (s.sweep.cycles + 1) else s.sweep.cycles) ∧ t.sweep.seed = s.sweep.seed ∧
      (∀ a, (t.arr a).subRounds = 0) ∧ ∀ e, e < 128 → (t.flue e).owed = 64 - min 64 (s.flue e).subRounds ∧ (t.flue e).subRounds = 0) ∧
    (∀ (s : State) (ring seq : Nat) (c : Cmd), Ready s 0x81 ring seq c →
      (s.test = none → s.cal.run = none ∨ s.cal.group16 = false → exec (.sweepConfig ring seq) s =
        .next (finish (s.updSweep fun w => { w with seed := c.p 0 8, duty := c.p 8 2 }) c stOk 0)) ∧
      (∀ r, s.test = none → s.cal.run = some r → s.cal.group16 = true →
        exec (.sweepConfig ring seq) s = .next (finish s c stBusy (r.sched.remain s.dev.now))) ∧
      (∀ t, s.test = some t → exec (.sweepConfig ring seq) s = .next (finish s c stBusyTesting (t.sched.remain s.dev.now))))) ∧
  ((∀ (s : State) (ring seq : Nat) (c : Cmd), Ready s 0x80 ring seq c →
      (s.test = none → s.cal.run = none → s.dev.st = .maintenance → exec (.selfTest ring seq) s = .next (acceptLong
        { s with test := some { ring := ring, seq := seq, sched := Sched.start s.dev.now (capW s.thm) 0 32000000000, done1 := 0, done2 := 0,
                                done3 := 0, done4 := 0, done5 := 0, done6 := 0 } } { c with phase := .running })) ∧
      (s.test = none → s.cal.run = none → s.dev.st ≠ .maintenance → exec (.selfTest ring seq) s = .next (finish s c stNotPermitted 0)) ∧
      (∀ r, s.test = none → s.cal.run = some r → exec (.selfTest ring seq) s = .next (finish s c stBusy (r.sched.remain s.dev.now))) ∧
      (∀ t, s.test = some t → exec (.selfTest ring seq) s = .next (finish s c stBusyTesting (t.sched.remain s.dev.now)))) ∧
    (∀ (s : State) (t : SelfTest) (c : Cmd) (phase unit : Nat) (u w : State), s.test = some t → clocked s = true → s.dev.st ≠ .failed →
      findCmd s t.ring t.seq = some c → 1 ≤ phase → phase ≤ 6 → unit = t.doneOf phase → unit < phaseUnits phase →
      (phase = 2 → unit < t.done1) → (phase = 3 → min unit 20479 < t.done2) →
      u = putCmd { s with test := some (t.bump phase) }
        { c with position := (t.bump phase).arrays, progress := 1000 * (t.bump phase).arrays / 20480 } →
      w = (if phase = 2 then u.updCal fun k => { k with seqRow := k.seqRow % 64 } else u) →
      (phase = 1 → loadedArray u unit = true → ∀ r, r < 1024 → dataBits (rowOf u unit r) = goldOf u unit r) →
      ((t.bump phase).over_ = false → exec (.selfTestPhaseEnd phase unit .clean) s = .next w) ∧
      ((t.bump phase).over_ = true → ∃ d, findCmd (marchArrays { w with test := none }) t.ring t.seq = some d ∧
        exec (.selfTestPhaseEnd phase unit .clean) s = .next (finish (marchArrays { w with test := none }) d stOk 20480))) ∧
    (∀ (s : State) (t : SelfTest) (c : Cmd) (phase unit : Nat), s.test = some t → clocked s = true → s.dev.st ≠ .failed →
      findCmd s t.ring t.seq = some c → unit = t.doneOf phase → unit < phaseUnits phase →
      (phase = 2 → unit < t.done1) → (phase = 3 → min unit 20479 < t.done2) →
      (phase = 2 ∨ phase = 3 ∨ phase = 4 ∨ phase = 1 ∧ loadedArray s unit = false →
        ∃ v : State, exec (.selfTestPhaseEnd phase unit .fault) s = .next v ∧ v.dev.st = .failed) ∧
      (∀ n m, phase = 2 → 8 ≤ n → ∃ v : State, exec (.selfTestPhaseEnd phase unit (.wrongLevels m n)) s = .next v ∧ v.dev.st = .failed)) ∧
    (∀ (s : State) (t : SelfTest) (phase unit : Nat) (found : TestFinding), s.test = some t → unit ≠ t.doneOf phase →
      exec (.selfTestPhaseEnd phase unit found) s = .next s))

/-! ## The whole device (12_graec_commands R302 to R308, 18_power R427 to R430, 21_host_interface R476 to R479) -/

/-- STATE_SET and WAKE (R302, R427, R428): the current state answers OK without effect; MAINTENANCE goes to SERVICE with trims in force and
no calibration or test under way; SERVICE goes to MAINTENANCE once no service command is outstanding, and to SLEEP or DEEP_SLEEP without a
chimney context and without other commands, else BUSY, in DEEP_SLEEP with the link in L1, so that the pilot loses acceptance; from sleep a
command wakes the device, and what waited for that is then ready in SERVICE; every other combination is not permitted.
POWER_LIMIT and POWER_DOWN (R302, R430, R444): a limit is kept for the next update and the record gives the cap with it; POWER_DOWN
outside MAINTENANCE is not permitted, else it stops consumption on every ring, and with no other command outstanding posts its record,
writes the log to flash and begins the descent of the rails, kept down.
That POWER_DOWN raises the interrupts that are owed is the model's choice (log entry 145). -/
def Obligations.DeviceStatesAndPower : Prop :=
  ((∀ (s : State) (ring seq target gib : Nat) (c : Cmd), Ready s 0xB1 ring seq c → target = c.p 0 1 → gib = c.p 2 2 →
      (s.dev.st.code = target → s.dev.st ≠ .maintenance ∨ gib = 0xFFFF → exec (.stateSet ring seq) s = .next (finish s c stOk target)) ∧
      (s.dev.st = .maintenance → target = 3 → gib ≠ 0xFFFF → anyCtx s = false → exec (.stateSet ring seq) s =
        .next (finish (applyLayout (s.updKv fun k => { k with tableGibSet := gib })) c stOk 3)) ∧
      (s.dev.st = .maintenance → target = 4 → gib = 0xFFFF → s.cal.source ≠ 0 → s.cal.run = none → s.test = none →
        exec (.stateSet ring seq) s = .next (finish (goState s .service) c stOk 4)) ∧
      (s.dev.st = .maintenance → target = 4 → gib = 0xFFFF → s.cal.source = 0 →
        exec (.stateSet ring seq) s = .next (finish s c stNotPermitted 0)) ∧
      (s.dev.st = .service → target = 3 → gib = 0xFFFF →
        (serviceLeft (putCmd s { c with phase := .draining }) { c with phase := .draining } = true →
          exec (.stateSet ring seq) s = .next (putCmd s { c with phase := .draining })) ∧
        (serviceLeft (putCmd s { c with phase := .draining }) { c with phase := .draining } = false →
          exec (.stateSet ring seq) s = .next (finish (toMaintenance (putCmd s { c with phase := .draining })) { c with phase := .draining } stOk 3))) ∧
      (s.dev.st = .service → target = 5 ∨ target = 6 → gib = 0xFFFF → anyChimney s = false → (target = 6 → s.host.aspmL1 = true) →
        (∀ d ∈ s.cmds, d.order = c.order) →
        (target = 5 → exec (.stateSet ring seq) s = .next (finish (goState s .sleep) c stOk 5)) ∧
        (target = 6 → exec (.stateSet ring seq) s = .next (leaveL0 (finish (goState s .deepSleep) c stOk 6)))) ∧
      (s.dev.st = .service → target = 5 ∨ target = 6 → gib = 0xFFFF → anyChimney s = false → (target = 6 → s.host.aspmL1 = true) →
        (∃ d ∈ s.cmds, d.order ≠ c.order) → exec (.stateSet ring seq) s = .next (finish s c stBusy 100000)) ∧
      (s.dev.st = .maintenance → target = 4 → gib = 0xFFFF → s.cal.source ≠ 0 →
        (∀ r, s.cal.run = some r → exec (.stateSet ring seq) s = .next (finish s c stBusy (r.sched.remain s.dev.now))) ∧
        (∀ t, s.cal.run = none → s.test = some t → exec (.stateSet ring seq) s = .next (finish s c stBusy (t.sched.remain s.dev.now)))) ∧
      (s.dev.st = .sleep ∨ s.dev.st = .deepSleep → target = 3 ∨ target = 4 → gib = 0xFFFF → exec (.stateSet ring seq) s =
        .next ((putCmd s { c with phase := .waking }).updDev fun d => { d with wake := true })) ∧
      (gib = 0xFFFF → target ≠ s.dev.st.code →
        s.dev.st = .maintenance ∧ target ≠ 4 ∨ s.dev.st = .service ∧ target ≠ 3 ∧ target ≠ 5 ∧ target ≠ 6 ∨
          (s.dev.st = .sleep ∨ s.dev.st = .deepSleep) ∧ target ≠ 3 ∧ target ≠ 4 →
        exec (.stateSet ring seq) s = .next (finish s c stNotPermitted 0))) ∧
    (∀ s : State, clocked s = true → s.dev.wake = true → s.dev.st = .sleep ∨ s.dev.st = .deepSleep →
      ∃ t : State, exec .wake s = .next t ∧ t.dev.st = .service ∧ t.dev.wake = false ∧ t.reqs = s.reqs ∧ t.kv = s.kv ∧ t.ctxs = s.ctxs ∧
        t.rings = s.rings ∧ t.cmds = s.cmds.map fun c => if c.phase = .waking then { c with phase := .ready } else c) ∧
    (∀ (s : State) (st : DevSt), (goState s st).dev.st = st ∧ (goState s st).dev.prev = s.dev.st ∧ (goState s st).dev.stateSec = s.dev.opSec ∧
      (goState s st).reqs = s.reqs ∧ (goState s st).kv = s.kv ∧ (goState s st).cmds = s.cmds ∧ (goState s st).ctxs = s.ctxs)) ∧
  ((∀ (s : State) (ring seq : Nat) (c : Cmd), Ready s 0xB0 ring seq c → exec (.powerLimit ring seq) s =
      .next (finish (s.updThm fun t => { t with limitNext := c.p 0 2 }) c stOk (capW { s.thm with limitW := c.p 0 2 }))) ∧
    (∀ (s : State) (ring seq : Nat) (c d : Cmd) (t : State), Ready s 0xB2 ring seq c → d = { c with phase := .draining } →
      t = putCmd { s with rings := s.rings.map fun e => (e.1, e.2.map fun q => { q with stopped := true }) } d →
      (s.dev.st ≠ .maintenance → exec (.powerDown ring seq) s = .next (finish s c stNotPermitted 0)) ∧
      (s.dev.st = .maintenance → (∀ e ∈ t.cmds, e.order = c.order) → exec (.powerDown ring seq) s =
        .next ((beginDown (flushLog (raiseAll (finish t d stOk 0)))).updPwr fun p => { p with blocked := true })) ∧
      (s.dev.st = .maintenance → (∃ e ∈ t.cmds, e.order ≠ c.order) → exec (.powerDown ring seq) s = .next t)) ∧
    (∀ s : State, (beginDown s).rings = [] ∧ (beginDown s).cmds = [] ∧ (beginDown s).dev.safe = true ∧ (beginDown s).clk.aclkOn = false ∧
      (beginDown s).log = s.log ∧ (beginDown s).hostMem = s.hostMem))

/-- OP_PROGRESS and OP_ABORT (R278, R307, R308): a ring not the function's, or not created, or a command not outstanding is a bad handle, a
target that is no long operation is not permitted; the record of OP_PROGRESS carries the target's progress and position; an aborted
CTX_LOAD, TABLE_LOAD or FW_STAGE completes with CANCELLED and its position, then OP_ABORT with OK.
FW_STAGE and FW_ACTIVATE (R305, R477, R479): the slot that does not run is invalid from acceptance on; an image that fails the layout or
the signature leaves it so, is logged and named by its first bad offset, and a good one makes it valid and staged; FW_ACTIVATE wants a
staged image and no context, posts its record, and restarts the device into BOOT with that slot selected.
That owed interrupts are raised before the restart is the model's choice (log entry 145). -/
def Obligations.LongOperationsAndFirmware : Prop :=
  ((∀ (s : State) (ring seq : Nat) (c : Cmd), Ready s 0xE0 ring seq c →
      (ownsRing s c.fn (c.p 0 4) = false ∨ look s.rings (c.p 0 4) = none ∨ findCmd s (c.p 0 4) (c.p 4 4) = none →
        exec (.opProgress ring seq) s = .next (finish s c stBadHandle 0)) ∧
      (∀ t, ownsRing s c.fn (c.p 0 4) = true → (look s.rings (c.p 0 4)).isSome = true → findCmd s (c.p 0 4) (c.p 4 4) = some t →
        (isLong t.pkt = false → exec (.opProgress ring seq) s = .next (finish s c stNotPermitted 0)) ∧
        (isLong t.pkt = true → t.pkt.opc ≠ 0x70 → exec (.opProgress ring seq) s =
          .next (finish (putCmd s { c with progress := t.progress }) { c with progress := t.progress } stOk t.position)))) ∧
    (∀ (s : State) (ring seq : Nat) (c t d : Cmd) (u : State), Ready s 0xE1 ring seq c → ownsRing s c.fn (c.p 0 4) = true →
      (look s.rings (c.p 0 4)).isSome = true → findCmd s (c.p 0 4) (c.p 4 4) = some t →
      t.pkt.opc = 0x22 ∨ t.pkt.opc = 0x30 ∨ t.pkt.opc = 0xF0 → d = { c with phase := .draining, position := t.position } →
      u = finish (putCmd s d) t stCancelled t.position →
      (findCmd u (c.p 0 4) (c.p 4 4) = none → exec (.opAbort ring seq) s = .next (finish u d stOk t.position)) ∧
      (findCmd u (c.p 0 4) (c.p 4 4) ≠ none → exec (.opAbort ring seq) s = .next u)) ∧
    (∀ (s : State) (ring seq : Nat) (c : Cmd), Ready s 0xE1 ring seq c → look s.rings (c.p 0 4) = none →
      exec (.opAbort ring seq) s = .next (finish s c stBadHandle 0))) ∧
  ((∀ (s : State) (ring seq : Nat) (c : Cmd), Ready s 0xF0 ring seq c →
      ((∀ d ∈ s.cmds, d.pkt.opc = 0xF0 → d.phase ≠ .running) → exec (.fwStage ring seq) s = .next (acceptLong
        ((setSlot s (1 - s.dev.fwRunning) { valid := false, major := 0, minor := 0 }).updDev fun d => { d with fwStaged := none })
        { c with phase := .running })) ∧
      ((∃ d ∈ s.cmds, d.pkt.opc = 0xF0 ∧ d.phase = .running) →
        exec (.fwStage ring seq) s = .next (finish s.draw.2 c stBusy (Config.retryNs 0xF0 s.draw.1)))) ∧
    (∀ (s : State) (ring seq : Nat) (c d : Cmd) (b : List Byte), Running s 0xF0 ring seq c → b = s.hostRead (c.p 0 8) (c.p 8 8) →
      d = { c with position := b.length } →
      (∀ o, fwBad s.dev.stepping b = some o → exec (.fwStage ring seq) s =
        .next (badParam (logSigFail s (1 - s.dev.fwRunning) 1) d (payloadOff 32 o))) ∧
      (fwBad s.dev.stepping b = none → exec (.fwStage ring seq) s = .next (finish
        ((setSlot s (1 - s.dev.fwRunning) { valid := true, major := field b 4 1, minor := field b 5 1 }).updDev fun x =>
          { x with fwStaged := some (1 - s.dev.fwRunning) }) d stOk (1 - s.dev.fwRunning)))) ∧
    (∀ (stepping : Nat) (b : List Byte), fwBad stepping b = none → field b 0 4 = 0x49574656 ∧ field b 4 1 = 1 ∧ field b 5 1 ≤ 6 ∧
      b.length = 112 + field b 8 4 ∧ Config.sigOk b = true) ∧
    (∀ (s : State) (ring seq : Nat) (c : Cmd), Ready s 0xF1 ring seq c →
      (s.dev.fwStaged = none ∨ anyCtx s = true → exec (.fwActivate ring seq) s = .next (finish s c stNotPermitted 0)) ∧
      (∀ slot, s.dev.fwStaged = some slot → anyCtx s = false → ∃ t : State, t = s.updDev (fun d => { d with
          fwSelect := slot, fwActivating := some (d.fwRunning, d.fwMajor, d.fwMinor), fwStaged := none }) ∧
        exec (.fwActivate ring seq) s = .next (restartFw (raiseAll (finish t c stOk slot))))) ∧
    (∀ s : State, (restartFw s).dev.st = .boot ∧ (restartFw s).rings = [] ∧ (restartFw s).ctxs = [] ∧ (restartFw s).cmds = [] ∧
      (restartFw s).hostMem = s.hostMem ∧ (restartFw s).log.flash = s.log.flash))

/-- RECORD_START, RECORD_STOP and REPLAY (R304, R375 to R378): recording starts with the buffer's header on a context that neither records
nor is a chimney's, and stops with the bytes it wrote; a record that fits is appended whole, one that does not stops the capture with
TRUNCATED; REPLAY names the first field of the header that does not match, wants no open request, and else runs. -/
def Obligations.CapturesAndReplay : Prop :=
  (∀ (s : State) (ring seq : Nat) (c : Cmd) (x : Ctx), Ready s 0xD0 ring seq c → OnCtx s c x →
    (x.chimney = true ∨ x.capture.isSome = true → exec (.recordStart ring seq) s = .next (finish s c stNotPermitted 0)) ∧
    (x.chimney = false → x.capture = none → ∃ k : Capture, k.buf = c.p 0 8 ∧ k.len = c.p 8 8 ∧ k.bytes = 128 ∧ k.records = 0 ∧
      k.unmarked = 0 ∧ k.truncated = false ∧ k.ords = [] ∧ exec (.recordStart ring seq) s =
        .next (finish ((s.hostWrite k.buf (captureHead s c.pkt.ctx s.dev.now k ++ natLe 64 0)).updCtx c.pkt.ctx fun x =>
          { x with capture := some k }) c stOk 0))) ∧
  (∀ (s : State) (ring seq : Nat) (c : Cmd) (x : Ctx), Ready s 0xD1 ring seq c → OnCtx s c x →
    (∀ k, x.capture = some k → exec (.recordStop ring seq) s =
      .next (finish ((s.hostWrite k.buf ((captureHead s c.pkt.ctx 0 k).take 32)).updCtx c.pkt.ctx fun x => { x with capture := none }) c
        stOk (k.bytes % 2 ^ 40 + 2 ^ 63 * b2n k.truncated))) ∧
    (x.capture = none → exec (.recordStop ring seq) s = .next (finish s c stNotPermitted 0))) ∧
  (∀ (s : State) (ctx kind phase ctile disp ord pos n : Nat) (body : List Byte) (x : Ctx) (k : Capture), look s.ctxs ctx = some x →
    x.capture = some k → k.truncated = false → n = 24 + body.length + (8 - body.length % 8) % 8 →
    (k.bytes + n ≤ k.len → ∃ l : List Byte, l.length = n ∧ body <:+: l ∧ appendRec s ctx kind phase ctile disp ord pos body =
      (s.hostWrite (k.buf + k.bytes) l).updCtx ctx fun x => { x with
        capture := some { k with bytes := k.bytes + n, records := k.records + 1 } }) ∧
    (k.len < k.bytes + n → appendRec s ctx kind phase ctile disp ord pos body =
      s.updCtx ctx fun x => { x with capture := some { k with truncated := true } })) ∧
  (∀ (s : State) (ring seq : Nat) (c : Cmd) (x : Ctx) (i : Image) (h : List Byte), Ready s 0xD2 ring seq c → OnCtx s c x →
    x.image = some i → h = s.hostRead (c.p 0 8) 128 →
    (field h 0 4 ≠ 0x43455256 → exec (.replay ring seq) s = .next (badParam s c (payloadOff 32 0))) ∧
    (field h 0 4 = 0x43455256 → field h 4 1 ≠ 0x10 → exec (.replay ring seq) s = .next (badParam s c (payloadOff 32 4))) ∧
    (field h 0 4 = 0x43455256 → field h 4 1 = 0x10 → field h 6 2 ≠ c.pkt.ctx →
      exec (.replay ring seq) s = .next (badParam s c (payloadOff 32 6))) ∧
    (field h 0 4 = 0x43455256 → field h 4 1 = 0x10 → field h 6 2 = c.pkt.ctx → field h 8 8 ≠ i.digest →
      exec (.replay ring seq) s = .next (badParam s c (payloadOff 32 8))) ∧
    (field h 0 4 = 0x43455256 → field h 4 1 = 0x10 → field h 6 2 = c.pkt.ctx → field h 8 8 = i.digest →
      (x.chimney = true ∨ x.capture.isSome = true ∨ reqsOfCtx s c.pkt.ctx ≠ [] →
        exec (.replay ring seq) s = .next (finish s c stNotPermitted 0)) ∧
      (x.chimney = false → x.capture = none → reqsOfCtx s c.pkt.ctx = [] → ∃ r : Replay, r.ring = ring ∧ r.seq = seq ∧ r.buf = c.p 0 8 ∧
        r.base = x.dispatched ∧ r.ords = [] ∧ r.ended = [] ∧ r.over_ = none ∧ exec (.replay ring seq) s =
          .next (putCmd (s.updCtx c.pkt.ctx fun x => { x with replay := some r }) { c with phase := .running }))))

/-! ## Chimneys (14_chimney; 12_graec_commands R306) -/

/-- CASCADE_JOIN, CASCADE_LEAVE, CROWN_ASSIGN and MIRROR_CONFIG (R306, R332, R333, R346, R359): a join wants no membership and no context,
names the first field that does not fit, and else takes the role and trains the listed ports; leaving wants no chimney context; a crown
or a buddy role outside the chimney is a bad parameter.
Ports (R333, R335, R337 to R339, R345, R370): a trained port sends TRAIN; a TRAIN with the right chimney, size and place brings the port
up at the lower version, another marks it MISCABLED, versions that do not meet leave it in VERSION; on a switched port that is up it
brings up the link with a further peer, or one that was down; a port that is down or miscabled trains again, and so does each link of a
switched port that is down; one without signal goes down; a join that waits 1 s completes as it stands; a switched port announces
itself and learns the MAC of a role. -/
def Obligations.ChimneyMembershipAndPorts : Prop :=
  ((∀ (s : State) (ring seq : Nat) (c : Cmd), Ready s 0x90 ring seq c →
      (inChimney s = true ∨ anyCtx s = true → exec (.cascadeJoin ring seq) s = .next (finish s c stNotPermitted 0)) ∧
      (inChimney s = false → anyCtx s = false → (∀ o, firstBad (joinChecks c) = some o → exec (.cascadeJoin ring seq) s = .next (badParam s c o)) ∧
        (firstBad (joinChecks c) = none → ∃ t : State, exec (.cascadeJoin ring seq) s = .next (checkJoin (putCmd t { c with phase := .running })) ∧
          t.chim.id = c.p 0 8 ∧ t.chim.n = c.p 8 2 ∧ t.chim.role = c.p 10 2 ∧ t.chim.topo = c.p 12 1 ∧ t.chim.portMask = c.p 13 1 ∧
          t.chim.dx = c.p 16 2 ∧ t.chim.dy = c.p 18 2 ∧ t.chim.dz = c.p 20 2 ∧ t.chim.mac = c.p 24 6 ∧ t.chim.join = some (ring, seq, s.dev.now) ∧
          t.chim.buddy = (if c.p 10 2 = 0xFFFF then 0xFFFF else (c.p 10 2 + 1) % c.p 8 2) ∧
          (∀ i p, s.chim.ports[i]? = some p → ∃ q, t.chim.ports[i]? = some q ∧
            ((maskPorts (c.p 13 1)).contains i = true → q.st = .training ∧ q.mode = portMode (c.p 12 1) i) ∧
            ((maskPorts (c.p 13 1)).contains i = false → q = p)) ∧ t.reqs = s.reqs ∧ t.kv = s.kv ∧ t.cmds = s.cmds ∧ t.hostMem = s.hostMem))) ∧
    (∀ (s : State) (ring seq : Nat) (c : Cmd), Ready s 0x91 ring seq c →
      (s.chim.join.isSome = true → exec (.cascadeLeave ring seq) s = .next s) ∧
      (s.chim.join = none → (chimCtx s).isSome = true → exec (.cascadeLeave ring seq) s = .next (finish s c stNotPermitted 0)) ∧
      (s.chim.join = none → chimCtx s = none → exec (.cascadeLeave ring seq) s = .next (finish (leaveChimney s) c stOk 0))) ∧
    (∀ s : State, (leaveChimney s).chim.id = 0 ∧ (leaveChimney s).chim.links = [] ∧ (leaveChimney s).chim.inbox = [] ∧
      ∀ p ∈ (leaveChimney s).chim.ports, p.mode = 0) ∧
    (∀ (s : State) (ring seq : Nat) (c : Cmd), Ready s 0x92 ring seq c →
      ((chimCtx s).isSome = true ∨ inChimney s = false → exec (.crownAssign ring seq) s = .next (finish s c stNotPermitted 0)) ∧
      (chimCtx s = none → inChimney s = true → s.chim.n ≤ c.p 0 2 → exec (.crownAssign ring seq) s = .next (badParam s c 32)) ∧
      (chimCtx s = none → inChimney s = true → c.p 0 2 < s.chim.n →
        exec (.crownAssign ring seq) s = .next (finish (s.updChim fun x => { x with crown := c.p 0 2 }) c stOk 0))) ∧
    (∀ (s : State) (ring seq : Nat) (c : Cmd), Ready s 0x93 ring seq c →
      (s.chim.n ≤ c.p 0 2 ∨ c.p 0 2 = s.chim.role → exec (.mirrorConfig ring seq) s = .next (badParam s c 32)) ∧
      (c.p 0 2 < s.chim.n → c.p 0 2 ≠ s.chim.role → exec (.mirrorConfig ring seq) s =
        .next (finish ((s.updChim fun x => { x with buddy := c.p 0 2 }).updKv fun k => { k with mirrorPmSet := c.p 2 2 }) c stOk 0)))) ∧
  ((∀ (s : State) (port : Nat) (p : Port), s.chim.ports[port]? = some p → linksRun s = true →
      (p.st = .training → exec (.portTrained port) s = .next (emit s { port := port, peer := 0xFFFF } (bareFrame s 0x02 0 0
        (Config.layoutOf 0x02 [s.chim.id, s.chim.n, s.chim.topo, s.chim.role, port, 0x10, 0x12])))) ∧
      (p.st = .down ∨ p.st = .miscabled → exec (.portRetrain port) s = .next (updPort s port fun p => { p with st := .training })) ∧
      (p.st = .up → exec (.portRetrain port) s =
        .next ((s.chim.links.filter fun e => e.1.port == port && e.2.down).foldl (fun s e => sendTrain s e.1) s)) ∧
      (p.st = .off ∨ p.st = .version ∨ p.st = .training → exec (.portRetrain port) s = .next s) ∧
      exec (.lossOfSignal port) s = .next (portDown s port 1 0)) ∧
    (∀ (s t : State) (port v : Nat) (p : Port) (i : TrainIn), s.chim.ports[port]? = some p → linksRun s = true → p.st = .up → 2 ≤ p.mode →
      t = updPort s port (fun p => { p with rx := sat 32 (p.rx + 1) }) → v = min i.maxVer 0x12 → i.chimneyId = s.chim.id → i.n = s.chim.n →
      max i.minVer 0x10 ≤ v →
      ((∀ e ∈ s.chim.links, e.1 = { port := port, peer := i.role } → e.2.down = true) →
        exec (.trainFrame port i) s = .next (setLnk t { port := port, peer := i.role } { Lnk.reset with ver := v })) ∧
      (∀ e ∈ s.chim.links, e.1 = { port := port, peer := i.role } → e.2.down = false → exec (.trainFrame port i) s = .next t)) ∧
    (∀ (s t : State) (port v : Nat) (p : Port) (i : TrainIn), s.chim.ports[port]? = some p → linksRun s = true → p.st = .training →
      t = updPort s port (fun p => { p with rx := sat 32 (p.rx + 1), peer := i.role }) → v = min i.maxVer 0x12 →
      (i.chimneyId ≠ s.chim.id ∨ i.n ≠ s.chim.n ∨ p.mode = 1 ∧ placed t port ≠ some (i.role, i.port) → exec (.trainFrame port i) s =
        .next (logPort (updPort t port fun p => { p with st := .miscabled }) 0x6002 port 2 i.role p.ver 0)) ∧
      (i.chimneyId = s.chim.id → i.n = s.chim.n → (p.mode = 1 → placed t port = some (i.role, i.port)) →
        (v < max i.minVer 0x10 → exec (.trainFrame port i) s =
          .next (logPort (updPort t port fun p => { p with st := .version }) 0x6003 port 3 i.role i.maxVer 0)) ∧
        (max i.minVer 0x10 ≤ v → ∀ u w, u = (updPort t port fun p => { p with st := .up, ver := v }).updChim (fun c =>
            { c with links := c.links.filter fun e => e.1.port != port }) →
          w = (if 2 ≤ p.mode then setLnk u { port := port, peer := i.role } { Lnk.reset with ver := v } else u) →
          exec (.trainFrame port i) s = .next (checkJoin (if v < 0x12 then logPort w 0x6003 port 3 i.role v 0 else w))))) ∧
    (∀ (s : State) (ring seq t : Nat), s.chim.join = some (ring, seq, t) → clocked s = true →
      (t + 100000000 ≤ s.dev.now → exec (.joinTimeout ring seq) s = .next (endJoin s)) ∧
      (s.dev.now < t + 100000000 → exec (.joinTimeout ring seq) s = .next s)) ∧
    (∀ (s : State) (ring seq t : Nat) (c : Cmd), s.chim.join = some (ring, seq, t) → findCmd s ring seq = some c →
      endJoin s = finish (s.updChim fun x => { x with join := none }) c stOk (joinResult (s.updChim fun x => { x with join := none }))) ∧
    (∀ (s : State) (port : Nat) (p : Port), upPort s { port := port, peer := 0xFFFF } = some p →
      (2 ≤ p.mode → exec (.announceSend port) s = .next (emit s { port := port, peer := 0xFFFF }
        (bareFrame s 0x03 0 0 (Config.layoutOf 0x03 [s.chim.id, s.chim.role, port])))) ∧
      (∀ role peer mac, 2 ≤ p.mode → fencedRole s role = false → exec (.announceFrame port s.chim.id role peer mac) s =
        .next ((updPort s port fun p => { p with rx := sat 32 (p.rx + 1) }).updChim fun c =>
          { c with macs := (c.macs.filter fun e => e.1 != (port, role, peer)) ++ [((port, role, peer), mac)] })) ∧
      (∀ role peer mac id, p.mode < 2 ∨ id ≠ s.chim.id → exec (.announceFrame port id role peer mac) s =
        .next (updPort s port fun p => { p with rx := sat 32 (p.rx + 1) }))))

/-- The link layer (R332, R333, R337, R338, R340 to R345, R365): in switched mode frames travel in Ethernet frames with EtherType
0x88B5, and another frame is dropped; a good frame in order is delivered, another is counted and, from version 1.1 on, answered with
NAK; a LINK frame's LACK frees what it covers and a NAK resends what is left; timeouts resend; a frame retransmitted 8 times or 20 µs
without acknowledgement takes the link down, in direct mode with its port and in switched mode alone; a frame for another role goes on
along its route.
The order of the bytes of a MAC on the wire is a reading (log entry 143). -/
def Obligations.LinkLayer : Prop :=
  (∀ (s t : State) (l : LinkId) (p : Port) (wire b : List Byte) (f : Frame), upPort s l = some p → frameIn p wire = some b →
    t = updPort s l.port (fun p => { p with rx := sat 32 (p.rx + 1) }) → f = frameOf b →
    (frameCrcOk b = false ∨ frameTypeOk f.ftype = false ∨ 16 ≤ f.flags ∨ payloadOk f.ftype f.payload = false →
      ∀ room, exec (.frameReceive l wire room) s = .next (rejectFrame t l p 1)) ∧
    (frameCrcOk b = true → frameTypeOk f.ftype = true → f.flags < 16 → payloadOk f.ftype f.payload = true → 3 < f.ftype →
      (f.lseq ≠ (lnkOf (ackTo t l f.lack) l).expect → ∀ room, exec (.frameReceive l wire room) s = .next (rejectFrame (ackTo t l f.lack) l p 1)) ∧
      (f.lseq = (lnkOf (ackTo t l f.lack) l).expect → ∀ u,
        u = setLnk (ackTo t l f.lack) l { lnkOf (ackTo t l f.lack) l with expect := ((lnkOf (ackTo t l f.lack) l).expect + 1) % 65536 } →
        (lateShard u f = false → exec (.frameReceive l wire true) s = .next (u.updChim fun c => { c with inbox := c.inbox ++ [(l, f)] })) ∧
        (lateShard u f = true → exec (.frameReceive l wire true) s = .next u) ∧
        (0x11 ≤ linkVer (ackTo t l f.lack) l p → exec (.frameReceive l wire false) s = .next (sendLink (ackTo t l f.lack) l 3)) ∧
        (linkVer (ackTo t l f.lack) l p < 0x11 → exec (.frameReceive l wire false) s = .next (ackTo t l f.lack))))) ∧
  (∀ (s : State) (l : LinkId) (p : Port) (wire : List Byte) (room : Bool), upPort s l = some p →
    (p.mode = 1 → frameIn p wire = some wire) ∧
    (p.mode ≠ 1 → ∀ dst src b, b.length = 20 + field b 2 2 → frameIn p (etherOf dst src b) = some b) ∧
    (p.mode ≠ 1 → wire.length < 64 ∨ (wire.drop 12).take 2 ≠ [0x88#8, 0xB5#8] ∨
      field wire (wire.length - 4) 4 ≠ crc32 (wire.take (wire.length - 4)) → exec (.frameReceive l wire room) s = .next s)) ∧
  (∀ (s : State) (l : LinkId) (p : Port) (fl : Nat), (linkVer s l p < 0x11 → rejectFrame s l p fl =
      updPort s l.port fun p => { p with crcErrors := sat 32 (p.crcErrors + 1) }) ∧
    (0x11 ≤ linkVer s l p → rejectFrame s l p fl = sendLink (updPort s l.port fun p => { p with crcErrors := sat 32 (p.crcErrors + 1) }) l fl)) ∧
  (∀ (s : State) (l : LinkId) (p : Port) (flags lack : Nat) (t u : State), upPort s l = some p →
    t = updPort s l.port (fun p => { p with rx := sat 32 (p.rx + 1) }) → u = ackTo t l lack →
    (16 ≤ flags → exec (.linkFrame l flags lack) s = .next (rejectFrame t l p 1)) ∧
    (flags < 16 → flags.testBit 0 = true → flags.testBit 1 = false → exec (.linkFrame l flags lack) s = .next (resend u l true)) ∧
    (flags < 16 → flags.testBit 0 = false ∨ flags.testBit 1 = true → exec (.linkFrame l flags lack) s = .next u)) ∧
  (∀ (s : State) (l : LinkId) (p : Port), upPort s l = some p →
    exec (.lackReport l) s = .next (sendLink s l 0) ∧ exec (.fullResend l) s = .next (resend s l false) ∧
    (linkVer s l p = 0x10 → exec (.retransmitTimeout l) s = .next (resend s l true)) ∧
    (linkVer s l p ≠ 0x10 → exec (.retransmitTimeout l) s = .next s) ∧
    (∀ f n t r, (lnkOf s l).replay = (f, n, t) :: r →
      (8 ≤ n ∨ t + 2000 ≤ s.dev.now → ∀ u, u = logPort s 0x6001 l.port 0 (if p.mode < 2 then p.peer else l.peer) (linkVer s l p) n →
        (p.mode < 2 → exec (.lnkRetryExhausted l) s = .next (portDown u l.port 0 n)) ∧
        (2 ≤ p.mode → ∃ v : State, exec (.lnkRetryExhausted l) s = .next v ∧ (lnkOf v l).down = true ∧ (lnkOf v l).replay = [] ∧
          (lnkOf v l).waiting = [] ∧ upPort v l = none ∧ ∀ k, k ≠ l → lnkOf v k = lnkOf s k)) ∧
      (n < 8 → s.dev.now < t + 2000 → exec (.lnkRetryExhausted l) s = .next s))) ∧
  (∀ (s : State) (l : LinkId) (f g : Frame), portUp s l.port = true → (lnkOf s l).down = false → (lnkOf s l).replay.length < 256 →
    (lnkOf s l).waiting = [] → g = { f with lseq := (lnkOf s l).nextSeq, lack := ((lnkOf s l).expect + 65535) % 65536 } →
    (sendOn s l f).chim.out = s.chim.out ++ [(l.port, wireOf s l g)] ∧ (lnkOf (sendOn s l f) l).nextSeq = ((lnkOf s l).nextSeq + 1) % 65536 ∧
      (lnkOf (sendOn s l f) l).replay = (lnkOf s l).replay ++ [(g, 0, s.dev.now)] ∧
      ∀ q, s.chim.ports[l.port]? = some q → wireOf s l g =
        if q.mode = 1 then g.bytes else etherOf (peerMac s l g.ftype) (s.chim.mac / 8 * 8 + l.port) g.bytes) ∧
  (∀ (s : State) (l : LinkId) (f : Frame), portUp s l.port = true → (lnkOf s l).down = false → 256 ≤ (lnkOf s l).replay.length →
    (sendOn s l f).chim.out = s.chim.out ∧ (lnkOf (sendOn s l f) l).waiting = (lnkOf s l).waiting ++ [f]) ∧
  (∀ (s t : State) (port : Nat) (bytes : List Byte) (f : Frame) (e : LinkId × Frame), linksRun s = true → f = frameOf bytes →
    transit s f = true → (s.chim.inbox.find? fun e => e.1.port == port && e.2 == f) = some e →
    t = s.updChim (fun c => { c with inbox := c.inbox.erase e }) →
    (∀ l, overAux t f.ftype = true → switchedLink t f.dst = some l → exec (.frameForward port bytes) s = .next (sendOn t l f)) ∧
    (∀ l fl u, overAux t f.ftype = false → route t f.dst f.flags (cameBy t e.1) = (some l, fl, u) →
      exec (.frameForward port bytes) s = .next (sendOn u l { f with flags := if fl.testBit 3 then fl - 8 else fl })))

/-- Chimney steps (R347, R352 to R357): START is passed down and its step waits for dispatch; DONE is recorded and, once all are in, the
crown commits and a member answers its parent; COMMIT makes a step's effects take hold; ABORT discards them and is acknowledged; a
step without its DONEs for the time limit is aborted and counted; a START of step 0 tells of a halt, and the context halts (R384; log entry
146); the context is ready once every role has reported.
Heartbeats and fencing (R362, R363): the crown sends a heartbeat to every role and a member to the crown; one that arrives is noted with
its time; a watched role silent for 5 ms is fenced, logged and counted, and the crown tells every other member and ends every step in
flight with PEER_LOST; a FENCE names the role. What a DONE carries beside the token and the path, and the path of a COMMIT that a member
has not seen verified, are the model's choice (log entries 24 and 82). -/
def Obligations.ChimneySteps : Prop :=
  ((∀ (s : State) (f : Frame) (ctx : Nat) (xr : ExecRec) (t : State), Arrived s 0x10 f → f.step ≠ 0 → ctx = field f.payload 0 2 →
      xr = execRecOf (f.payload.drop 8) →
      t = ensureReq ((sendDown (taken s f) 0x10 f.step f.payload).updChim fun c => { c with lastStep := f.step }) ctx xr.req xr.variant xr.cls xr.pos →
      ∃ x : CStep, x.step = f.step ∧ x.ctx = ctx ∧ x.xr = xr ∧ x.dispatched = false ∧ x.ended = false ∧ x.aborting = false ∧
        exec .startFrame s = .next (t.updChim fun c => { c with steps := c.steps ++ [x] })) ∧
    (∀ (s : State) (f : Frame) (x : Ctx), Arrived s 0x10 f → f.step = 0 → look s.ctxs (field f.payload 0 2) = some x →
      (x.chimney = false ∨ x.halted = true → exec .startFrame s = .next (taken s f)) ∧
      (x.chimney = true → x.halted = false → ∃ (t : State) (y : Ctx), exec .startFrame s = .next t ∧
        look t.ctxs (field f.payload 0 2) = some y ∧ y.halted = true ∧ y.inflight = [])) ∧
    (∀ (s : State) (f : Frame) (v : List Nat) (t : State), Arrived s 0x11 f → v = Config.fieldsOf 0x11 (f.payload.drop 4) →
      t = updStep (taken s f) f.step (fun x => { x with
        done := f.src :: x.done, refused := x.refused || decide (v[0]?.getD 0 % 2 = 1),
        token := if v[1]?.getD 0 % 2 = 1 then some (v[2]?.getD 0) else x.token,
        nonfinite := x.nonfinite || decide (v[3]?.getD 0 % 2 = 1), zeroBlock := x.zeroBlock || decide (v[4]?.getD 0 % 2 = 1),
        path := if v[5]?.getD 0 = 0 then x.path else (v.drop 6).take (v[5]?.getD 0) }) →
      (isCrown s = false → exec .doneFrame s = .next (trySendDone t f.step)) ∧
      (isCrown s = true → stepAt t f.step = none → exec .doneFrame s = .next t) ∧
      (isCrown s = true → ∀ x, stepAt t f.step = some x →
        (v[0]?.getD 0 % 2 ≠ 1 ∨ x.aborting = true → exec .doneFrame s = .next (tryCommit (warnStep t x))) ∧
        (v[0]?.getD 0 % 2 = 1 → x.aborting = false →
          exec .doneFrame s = .next (sweepAborts (crownAbort (warnStep t x) f.step (some (stBusy, 1000000))))))) ∧
    (∀ (s : State) (x : CStep) (r : Req), x.nonfinite = true → reqAt s (slotFor s x.ctx x.xr.req) = some r → r.open_ = true →
      r.gen = reqGen x.xr.req → ∃ q, reqAt (warnStep s x) (slotFor s x.ctx x.xr.req) = some q ∧ q.nonfinite = true) ∧
    (∀ (s : State) (f : Frame) (t : State), Arrived s 0x12 f → t = sendDown (taken s f) 0x12 f.step [] →
      (∀ x, stepAt t f.step = some x →
        (x.xr.phase ≠ 2 ∨ x.xr.last = false ∨ x.path ≠ [] ∨ x.token.isSome = true → exec .commitFrame s = .next (commitLocal t x)) ∧
        (x.xr.phase = 2 → x.xr.last = true → x.path = [] → x.token = none → ∃ (u : State) (path : List Nat), path.length ≤ 8 ∧
          exec .commitFrame s = .next (commitLocal u { x with path := path }))) ∧
      (stepAt t f.step = none → exec .commitFrame s = .next t)) ∧
    (∀ (s : State) (x : CStep), stepAt (commitLocal s x) x.step = none) ∧
    (∀ (s : State) (f : Frame) (t : State), Arrived s 0x13 f → t = sendDown (taken s f) 0x13 f.step [] →
      ((stepAt t f.step).isSome = true → exec .abortFrame s = .next (sweepAborts (abortHere t f.step))) ∧
      (stepAt t f.step = none → ∃ x : CStep, x.step = f.step ∧ x.ended = false ∧ exec .abortFrame s =
        .next (sweepAborts (abortHere (t.updChim fun c => { c with steps := c.steps ++ [x] }) f.step)))) ∧
    (∀ (s : State) (f : Frame), Arrived s 0x14 f → exec .abortAck s =
      .next (sweepAborts (updStep (taken s f) f.step fun x => { x with acks := f.src :: x.acks }))) ∧
    (∀ (s : State) (step : Nat) (x : CStep), stepAt s step = some x → linksRun s = true → isCrown s = true → x.aborting = false →
      (missingDone s x ≠ [] → x.started + 100 * s.chim.timeoutUs ≤ s.dev.now → exec (.stepTimeout step) s =
        .next (sweepAborts (crownAbort ((logEvent s 0x6004 6 (evData [(step, 4), ((missingDone s x).foldl min 0xFFFF, 2), ((missingDone s x).length, 2)])).updChim
          fun c => { c with stepTimeouts := sat 32 (c.stepTimeouts + 1) }) step none))) ∧
      (missingDone s x = [] ∨ s.dev.now < x.started + 100 * s.chim.timeoutUs → exec (.stepTimeout step) s = .next s)) ∧
    (∀ (s : State) (n : Nat) (x : Ctx) (stepNs caps : List Nat), chimCtx s = some (n, x) → look s.ctxs n = some x → linksRun s = true →
      isCrown s = true → x.image.isSome = true → stepNs.length = s.chim.n → caps.length = s.chim.n → ∃ t : State,
        exec (.chimneyContextReady stepNs caps) s = .next t ∧ t.chim.roleNs = stepNs ∧ t.chim.roleCaps = caps ∧
        ∃ y, look t.ctxs n = some y ∧ y.ready = true ∧ y.image = x.image)) ∧
  ((∀ s : State, linksRun s = true → s.chim.crown ≠ 0xFFFF →
      (isCrown s = true → exec .heartbeatSend s = .next ((otherRoles s).foldl (fun s r => sendFrame s 0x15 r 0 (natLe 4 s.chim.fenceGen)) s)) ∧
      (isCrown s = false → exec .heartbeatSend s = .next (sendFrame s 0x15 s.chim.crown 0 (natLe 4 s.chim.fenceGen)))) ∧
    (∀ (s : State) (f : Frame), Arrived s 0x15 f →
      exec .heartbeatFrame s = .next ((taken s f).updChim fun c => { c with beats := store c.beats f.src (some s.dev.now) })) ∧
    (∀ (s : State) (role t : Nat), linksRun s = true → fencedRole s role = false → look s.chim.beats role = some t →
      (isCrown s = false → role = s.chim.crown → s.chim.crown ≠ 0xFFFF → t + 500000 ≤ s.dev.now →
        exec (.heartbeatSilence role) s = .next (fenceHere s role s.chim.role)) ∧
      (isCrown s = true → role < s.chim.n → role ≠ s.chim.role → t + 500000 ≤ s.dev.now →
        ∃ u : State, u = (otherRoles (fenceHere s role s.chim.role)).foldl
            (fun s r => sendFrame s 0x16 r 0 (natLe 2 role)) (fenceHere s role s.chim.role) ∧
          exec (.heartbeatSilence role) s = .next (fenceAborts (fenceRedo u role) role)) ∧
      (s.dev.now < t + 500000 → exec (.heartbeatSilence role) s = .next s)) ∧
    (∀ (s : State) (role b t : Nat), look s.chim.beats role = some t → clocked s = true → fenceHere s role b =
      (logEvent s 0x6006 6 (evData [(role, 2), (b, 2), (sat 32 ((s.dev.now - t) / 100), 4)])).updChim fun c =>
        { c with
          fenced := store c.fenced role (some s.dev.now), tupWait := c.tupWait.filter fun r => r != role, fences := sat 16 (c.fences + 1),
          fenceGen := (c.fenceGen + 1) % 2 ^ 32 }) ∧
    (∀ (s : State) (f : Frame), Arrived s 0x16 f →
      (fencedRole (taken s f) (field f.payload 0 2) = true → exec .fenceFrame s = .next (taken s f)) ∧
      (fencedRole (taken s f) (field f.payload 0 2) = false →
        exec .fenceFrame s = .next (sweepAborts (fenceHere (taken s f) (field f.payload 0 2) f.src)))))

/-- Data, credits, gathers and table updates between devices (08_tables_tiers R194, R196; R350): DATA goes to the RECV that its
line pairs it with, of those of its sender, channel and step, a CREDIT releases the SEND that waits for it or is kept; rows asked for
are answered as the asking step sees them and taken in by the step that asked; a forwarded row takes effect for the steps after the one
named and is acknowledged. The layouts of these payloads, the pieces long ones travel in, and the acknowledgement are the model's choice
(log entries 24 and 142).
The ember mirror and failover (R359, R360, R364, R368): a copy is kept and acknowledged when the region has room for it, and else
refused and counted; an acknowledged page is MIRRORED, and one whose copy is lost goes to the buddy again; a freed copy leaves its ash
record, or nothing; FAILOVER_ADOPT on a spare for a fenced role asks every live role for its copies, which a transfer answers, and a copy
that arrives is kept for the adoption; then it ends with the image's error, or takes the role: the image is loaded, the copies become the
role's pages unless it was the crown, the default buddy is the next role, and the failover is logged.
That a spare knows the AUX ports of the members by their ANNOUNCE is a reading (log entry 144). -/
def Obligations.ChimneyDataAndMirrors : Prop :=
  ((∀ (s u : State) (f : Frame) (t : Nat) (r : Recv), Arrived s 0x20 f → chimTile (taken s f) (field f.payload 0 2) = some t →
      pairedRecv (((taken s f).tile t).recvs.filter fun r => r.role == f.src && r.chan == field f.payload 2 1 && r.step == f.step)
          (field f.payload 4 2) = some r →
      (deliver (taken s f) t r (field f.payload 4 2) (linesOf ((f.payload.drop 8).take (32 * field f.payload 6 2))) = some u →
        exec .dataFrame s = .next (linkDone u t)) ∧
      (deliver (taken s f) t r (field f.payload 4 2) (linesOf ((f.payload.drop 8).take (32 * field f.payload 6 2))) = none →
        exec .dataFrame s = .next (recvExcess (taken s f) t r))) ∧
    (∀ (s : State) (f : Frame) (v : List Nat) (t : Nat), Arrived s 0x21 f → v = Config.fieldsOf 0x21 f.payload →
      chimTile (taken s f) (v[1]?.getD 0) = some t →
      (∀ d, (((taken s f).tile t).sends.find? fun d => d.role == f.src && d.chan == v[0]?.getD 0 && d.step == f.step) = some d →
        exec .creditFrame s = .next (sendData ((taken s f).updTile t fun y => { y with sends := y.sends.erase d }) d.role
          (get ((0xFFFF, 0) : Nat × Nat) ((taken s f).tile t).portMap (v[0]?.getD 0)).2 (v[0]?.getD 0) d.step d.lines)) ∧
      ((((taken s f).tile t).sends.find? fun d => d.role == f.src && d.chan == v[0]?.getD 0 && d.step == f.step) = none →
        exec .creditFrame s = .next ((taken s f).updTile t fun y =>
          { y with credits := y.credits ++ [(v[0]?.getD 0, f.src, f.step, v[2]?.getD 0)] }))) ∧
    (∀ (s : State) (f : Frame) (v : List Nat) (table : Nat) (x : Ctx) (t : Table), Arrived s 0x30 f → v = Config.fieldsOf 0x30 f.payload →
      table = v[1]?.getD 0 → look s.ctxs (v[0]?.getD 0) = some x → (x.tables.find? fun e => e.1 == table) = some (table, t) →
      exec .gatherReq s = .next ((v.drop 2).foldl (fun s r => sendLong s 0x31 f.src f.step [table, r]
        (rowSeen x f.step table r (get [] t.data r))) (taken s f))) ∧
    (∀ (s : State) (ty dst step : Nat) (head : List Nat) (b : List Byte), b.length ≤ 512 → sendLong s ty dst step head b =
      sendFrame s ty dst step (Config.layoutOf ty (head.length :: head ++ [0, b.length] ++ b.map (·.toNat)))) ∧
    (∀ (s : State) (f : Frame) (head : List Nat) (b : List Byte), s.chim.parts = [] →
      Config.fieldsOf f.ftype f.payload = head.length :: head ++ [0, b.length] ++ b.map (·.toNat) → takePiece s f = (some (head, b), s)) ∧
    (∀ (s u : State) (f : Frame), takePiece (taken s f) f = (none, u) →
      (Arrived s 0x31 f → exec .gatherRsp s = .next u) ∧ (Arrived s 0x32 f → exec .tupdateFrame s = .next u) ∧
      (Arrived s 0x40 f → exec .mirrorFrame s = .next u) ∧ (Arrived s 0x50 f → exec .xferFrame s = .next u)) ∧
    (∀ (s u : State) (f : Frame) (v : List Nat) (b : List Byte), Arrived s 0x31 f → takePiece (taken s f) f = (some (v, b), u) →
      exec .gatherRsp s = .next (u.updChim fun c => { c with
        gathered := c.gathered.map fun g =>
          if g.1 = f.step ∧ g.2.1 = v[0]?.getD 0 ∧ g.2.2.1 = v[1]?.getD 0 then (g.1, g.2.1, g.2.2.1, b) else g })) ∧
    (∀ (s u : State) (f : Frame) (v : List Nat) (b : List Byte) (n table row : Nat), Arrived s 0x32 f →
      takePiece (taken s f) f = (some (v, b), u) → n = v[1]?.getD 0 → table = v[2]?.getD 0 → row = v[3]?.getD 0 →
      (v[0]?.getD 0 % 2 = 1 → exec .tupdateFrame s = .next (u.updChim fun c => { c with tupWait := c.tupWait.erase f.src })) ∧
      (∀ x t, v[0]?.getD 0 % 2 = 0 → look u.ctxs n = some x → (x.tables.find? fun e => e.1 == table) = some (table, t) →
        exec .tupdateFrame s = .next (sendLong (u.updCtx n fun x => { x with
          older := x.older ++ [(f.step + 1, table, row, get [] t.data row)],
          tables := insert table { t with data := insert row b (erase t.data row) } (erase x.tables table) }) 0x32 f.src 0
          [1, n, table, row] [])))) ∧
  ((∀ (s u : State) (f : Frame) (v : List Nat) (b : List Byte) (m : MirrorCopy) (rest : List MirrorCopy), Arrived s 0x40 f →
      takePiece (taken s f) f = (some (v, b), u) → m = copyOf v false b → rest = u.chim.mirror.filter (fun k => !k.same m) →
      ((rest.map fun m => if m.ash then 16 else m.bytes.length).sum + b.length ≤ u.kv.mirrorMib * 2 ^ 20 →
        exec .mirrorFrame s = .next (mirrorReply (u.updChim fun c => { c with mirror := rest ++ [m] }) f.src m true)) ∧
      (u.kv.mirrorMib * 2 ^ 20 < (rest.map fun m => if m.ash then 16 else m.bytes.length).sum + b.length →
        exec .mirrorFrame s = .next (mirrorReply (u.updChim fun c => { c with refusals := c.refusals + 1 }) f.src m false))) ∧
    (∀ (s : State) (f : Frame) (v : List Nat), Arrived s 0x41 f → v = Config.fieldsOf 0x41 f.payload →
      (v[0]?.getD 0 % 4 = 0 → exec .mirrorAck s = .next ((taken s f).updChim fun c => { c with refused := sat 16 (c.refused + 1) })) ∧
      (∀ r e, v[0]?.getD 0 % 2 = 1 → reqAt (taken s f) (slotFor (taken s f) (v[1]?.getD 0) (v[2]?.getD 0)) = some r →
        entryOf r (pairOf (taken s f) (v[1]?.getD 0) (v[3]?.getD 0) (v[4]?.getD 0)) (v[5]?.getD 0) = some e →
        exec .mirrorAck s = .next ((taken s f).updPage e.slot fun p => { p with mirrored := true })) ∧
      (∀ slot pair r e, v[0]?.getD 0 % 4 = 2 → slot = slotFor (taken s f) (v[1]?.getD 0) (v[2]?.getD 0) →
        pair = pairOf (taken s f) (v[1]?.getD 0) (v[3]?.getD 0) (v[4]?.getD 0) → reqAt (taken s f) slot = some r →
        entryOf r pair (v[5]?.getD 0) = some e → e.ash = false → exec .mirrorAck s =
          .next (sendMirror ((taken s f).updPage e.slot fun p => { p with mirrored := false }) (v[2]?.getD 0) slot pair (v[5]?.getD 0)))) ∧
    (∀ (s : State) (f : Frame) (v : List Nat) (m : MirrorCopy) (rest : List MirrorCopy), Arrived s 0x42 f → v = Config.fieldsOf 0x42 f.payload →
      m = copyOf v true [] → rest = s.chim.mirror.filter (fun k => !k.same m) →
        (s.chim.mirror.any (fun k => k.same m) = true → exec .mirrorFree s =
          .next ((taken s f).updChim fun c => { c with mirror := if v[6]?.getD 0 % 2 = 1 then rest else rest ++ [m] })) ∧
        (s.chim.mirror.any (fun k => k.same m) = false → exec .mirrorFree s = .next (taken s f))) ∧
    (∀ (s : State) (ring seq : Nat) (c : Cmd) (x : Ctx), Ready s 0x94 ring seq c → look s.ctxs c.pkt.ctx = some x → x.fn = c.fn →
      (x.image.isSome = true ∨ mayAdopt s (c.p 0 2) = false → exec (.failoverAdopt ring seq) s = .next (finish s c stNotPermitted 0)) ∧
      (x.image = none → mayAdopt s (c.p 0 2) = true → ∃ t : State,
        t = s.updChim (fun k => { k with adopt := some { ring := ring, seq := seq, role := c.p 0 2, received := 0, copies := [] } }) ∧
        exec (.failoverAdopt ring seq) s = .next (acceptLong (((List.range t.chim.n).filter fun r => !fencedRole t r).foldl
          (fun s r => sendLong s 0x50 r 0 [0, c.p 0 2] []) t) { c with phase := .running }))) ∧
    (∀ (s u t : State) (ring seq n o : Nat) (c : Cmd) (x : Ctx) (a : Adopt) (b : List Byte), Running s 0x94 ring seq c → s.chim.adopt = some a →
      look s.ctxs c.pkt.ctx = some x → b = s.hostRead (c.p 8 8) (c.p 16 8) → n = b.length + a.received →
      (∀ e, imageCheck b (c.p 16 8) x.hdim (some (s.chim.n, a.role)) false 40 = some e →
        exec (.failoverAdopt ring seq) s = .next (finish (s.updChim fun k => { k with adopt := none }) c e.1 e.2)) ∧
      (imageCheck b (c.p 16 8) x.hdim (some (s.chim.n, a.role)) false 40 = none → autoOrigin s b = some o →
        u = (if a.role = s.chim.crown then loadImage s c.pkt.ctx b o else rebuild (loadImage s c.pkt.ctx b o) c.pkt.ctx a.copies) →
        t = u.updChim (fun k => { k with
          adopt := none, role := a.role, buddy := if k.buddy = 0xFFFF then (a.role + 1) % max 1 k.n else k.buddy,
          fenced := store k.fenced a.role none, viaAux := if k.topo = 3 then k.viaAux else a.role :: k.viaAux }) →
        exec (.failoverAdopt ring seq) s = .next (finish (putCmd (logEvent t 0x6005 6
          (evData [(a.role, 2), (0, 2), (sat 32 ((t.dev.now - (look s.chim.fenced a.role).getD s.dev.now) / 100000), 4)])) { c with position := n })
          { c with position := n } stOk n))) ∧
    (∀ (s : State) (ring seq : Nat) (c : Cmd), Ready s 0x94 ring seq c → look s.ctxs c.pkt.ctx = none →
      exec (.failoverAdopt ring seq) s = .next (finish s c stBadHandle 0)) ∧
    (∀ (s u : State) (f : Frame) (role : Nat) (v : List Nat) (b : List Byte), Arrived s 0x50 f →
      takePiece (taken s f) f = (some (v, b), u) → v[0]?.getD 0 % 2 = 0 → role = v[1]?.getD 0 →
      exec .xferFrame s = .next ((u.chim.mirror.filter fun m => m.role == role).foldl (fun s m =>
        sendLong s 0x50 role 0 [1, m.role, m.ctx, m.req, m.layer, m.head, m.page, b2n m.ash] m.bytes) u)) ∧
    (∀ (s u : State) (f : Frame) (v : List Nat) (d : List Byte) (a : Adopt), Arrived s 0x50 f →
      takePiece (taken s f) f = (some (v, d), u) → v[0]?.getD 0 % 2 = 1 → u.chim.adopt = some a →
      ∃ (b : Adopt) (t : State), exec .xferFrame s = .next t ∧ t.chim.adopt = some b ∧ b.role = a.role ∧ b.copies = a.copies ++
        [copyOf (v.drop 1) (decide (v[7]?.getD 0 % 2 = 1)) d] ∧
        b.received = a.received + if v[7]?.getD 0 % 2 = 1 then 16 else d.length))

/-! ## Faults (16_faults) -/

/-- Raising errors and ending handlers (R382, R383): an error whose action is FAILED, or of the FLUE or the LINK domain, fails the device;
with the end of a handler the owner of a mirror copy that an HBM error has lost is told (R386), and of a halted chimney context a member
tells the crown and the crown every other role (R384); the frames are the model's choice (log entries 24 and 146).
HANDLER_TIMEOUT and the entry to FAILED (R382, R390): a handler active for 10 ms is a control-core fault; the entry discards the error
queues, names the domain and marks it seen, completes what is outstanding, flushes the log, and stops ACLK. -/
def Obligations.ErrorsQueueAndFail : Prop :=
  (∀ (s : State), clocked s = true → s.dev.st ≠ .failed →
      (∀ (e : ErrIn), e.act = .fatal ∨ e.domain = 4 ∨ e.domain = 6 → ∃ t : State, exec (.errorRaise e) s = .next t ∧ t.dev.st = .failed) ∧
      (∀ (e : ErrIn), e.act ≠ .fatal → e.domain ≠ 4 → e.domain ≠ 6 → s.err.active = none → exec (.errorRaise e) s =
        .next (startHandler (s.updErr fun x => { x with seen := x.seen ||| 2 ^ e.domain }) e)) ∧
      (∀ (e : ErrIn) (h : Handler), e.act ≠ .fatal → e.domain ≠ 4 → e.domain ≠ 6 → s.err.active = some h →
        (h.err.domain ≠ e.domain → s.err.fifo.length < 32 → exec (.errorRaise e) s = .next (s.updErr fun x =>
          { x with seen := x.seen ||| 2 ^ e.domain, fifo := x.fifo ++ [e], hwm := max x.hwm (x.fifo.length + 1) })) ∧
        (h.err.domain ≠ e.domain → 32 ≤ s.err.fifo.length → ∃ t u : State, exec (.errorRaise e) s = .next t ∧ t.dev.st = .failed ∧
          u = logEvent (s.updErr fun x => { x with seen := x.seen ||| 2 ^ e.domain }) 0x8005 8 (evData [(h.err.domain, 1), (0, 1), (e.code, 2)]) ∧
          t = enterFailed u e.domain 0x8005 e.unit e.detail) ∧
        (h.err.domain = e.domain → e.domain = 3 → s.err.arrq.length < 64 → exec (.errorRaise e) s = .next (s.updErr fun x =>
          { x with seen := x.seen ||| 2 ^ e.domain, arrq := x.arrq ++ [e] })) ∧
        (h.err.domain = e.domain → e.domain ≠ 3 ∨ 64 ≤ s.err.arrq.length → ∃ t u : State, exec (.errorRaise e) s = .next t ∧ t.dev.st = .failed ∧
          u = logEvent (s.updErr fun x => { x with seen := x.seen ||| 2 ^ e.domain }) 0x8004 8
            (evData [(h.err.domain, 1), (0, 1), (h.err.code, 2), (e.code, 2), (s.err.fifo.length, 2)]) ∧
          t = enterFailed u e.domain 0x8004 e.unit e.detail)) ∧
      (∀ (h : Handler) (e : ErrIn) (q : List ErrIn), s.err.active = some h →
        (h.err.domain = 3 → s.err.arrq = e :: q →
          exec .handlerEnd s = .next (tellHalts (tellOwners (runAct (s.updErr fun x => { x with arrq := q, active := some { h with err := e } }) e)))) ∧
        (h.err.domain ≠ 3 ∨ s.err.arrq = [] → s.err.fifo = e :: q →
          exec .handlerEnd s = .next (tellHalts (tellOwners (startHandler (s.updErr fun x => { x with fifo := q, active := none }) e)))) ∧
        (h.err.domain ≠ 3 ∨ s.err.arrq = [] → s.err.fifo = [] →
          exec .handlerEnd s = .next (tellHalts (tellOwners (s.updErr fun x => { x with active := none }))))) ∧
      (s.chim.lost = [] → tellOwners s = s) ∧
      (∀ m : MirrorCopy, s.chim.lost = [m] → tellOwners s = sendFrame (s.updChim fun c => { c with lost := [] }) 0x41 m.role 0
        (Config.layoutOf 0x41 [2, m.ctx, m.req, m.layer, m.head, m.page])) ∧
      (s.chim.halts = [] → tellHalts s = s) ∧
      (∀ ctx : Nat, s.chim.halts = [ctx] → tellHalts s = (if isCrown s then otherRoles s else [s.chim.crown]).foldl
        (fun t r => sendFrame t 0x10 r 0 (natLe 2 ctx ++ natLe 38 0)) (s.updChim fun c => { c with halts := [] })) ∧
      (∀ e : ErrIn, startHandler s e = runAct (s.updErr fun x => { x with active := some { err := e, started := s.dev.now } }) e)) ∧
  ((∀ (s : State) (h : Handler), s.err.active = some h →
      (1000000 ≤ s.dev.now - h.started → exec .handlerTimeout s = .next (enterFailed s 8 h.err.code 0xFFFF 0)) ∧
      (s.dev.now - h.started < 1000000 → exec .handlerTimeout s = .next s)) ∧
    (∀ (s : State) (domain cause unit detail : Nat), s.dev.st ≠ .failed → s.dev.st ≠ .cold →
      (enterFailed s domain cause unit detail).dev.st = .failed ∧ (enterFailed s domain cause unit detail).dev.safe = true ∧
      (enterFailed s domain cause unit detail).err.failedDomain = domain ∧
      (enterFailed s domain cause unit detail).err.seen = s.err.seen ||| 2 ^ domain ∧ (enterFailed s domain cause unit detail).err.fifo = [] ∧
      (enterFailed s domain cause unit detail).err.active = none ∧ (enterFailed s domain cause unit detail).clk.aclkOn = false ∧
      (enterFailed s domain cause unit detail).clk.cclk.target = 64 ∧ (enterFailed s domain cause unit detail).cal.run = none ∧
      (enterFailed s domain cause unit detail).test = none ∧ (enterFailed s domain cause unit detail).log.ram = [] ∧
      (enterFailed s domain cause unit detail).tiles = s.tiles ∧ (enterFailed s domain cause unit detail).cells = s.cells))

/-- Memory and mesh errors (01_machine R18 to R20; 08_tables_tiers R187; R384, R386 to R388): a corrected HBM error is logged; an
uncorrectable one is logged and handled by its region (the device fails, the row comes again from the array, the request, the variant or
the page's requests are lost, the context halts, or the copy is dropped), the 16th of a stack within 1 s fails the device, as a stack
failure does; a tile parity error in a panel halts the owning context, elsewhere it is only logged; a flit goes along its row and then
along its column, and one whose parity does not match on a link of its route restarts the background work it carried or halts the context
it served, and a second error on a link within 1 s fails the device.
Failed reads of host memory (R389): the first failure is logged and raises a HOST error whose handler reads once more; a second read
that succeeds changes nothing, and one that fails is logged and stops the ring, ends the command with TIMEOUT, or loses the request.
Which bit of the sideband covers which byte, and which work a struck flit carried, are the model's choice (log entries 122 and 134). -/
def Obligations.MemoryAndHostErrors : Prop :=
  ((∀ (s : State) (addr : Nat), clocked s = true → exec (.hbmPatrol addr true) s =
      .next (logEvent s 0x5001 5 (evData [(0, 1), (regionOf s addr, 1), (0, 2), (addr / 256, 4)])) ∧
      exec (.hbmPatrol addr false) s = .next s) ∧
    (∀ (s : State) (site : HbmSite) (addr region stack : Nat) (t : State) (recent : List (Nat × Nat)), clocked s = true → s.dev.st ≠ .failed →
      siteInfo site = (addr, region) → stack = addr / 256 % 8 →
      recent = (stack, s.dev.now) :: s.err.stackErrs.filter (fun e => s.dev.now - e.2 < 100000000) →
      t = (logEvent s 0x5002 5 (evData [(0, 1), (region, 1), (0, 2), (addr / 256, 4)])).updErr (fun x => { x with stackErrs := recent }) →
      ((recent.filter fun e => e.1 == stack).length < 16 → exec (.hbmUncorrectable site) s =
        .next (raiseErr t { domain := 5, code := 0x5002, unit := stack, detail := 0, act := .hbm site })) ∧
      (16 ≤ (recent.filter fun e => e.1 == stack).length → exec (.hbmUncorrectable site) s =
        .next (raiseErr t { domain := 5, code := 0x5002, unit := stack, detail := 16, act := .fatal }))) ∧
    (∀ (s : State) (e : ErrIn) (site : HbmSite), e.act = .hbm site → runAct s e = hbmAction s site) ∧
    (∀ (s : State) (a slot ctx v row key page array : Nat),
      hbmAction s (.sys a) = enterFailed s 5 0x5002 (a / 256 % 8) 0 ∧ hbmAction s (.ring a) = enterFailed s 5 0x5002 (a / 256 % 8) 0 ∧
      hbmAction s (.prefixTable a) = enterFailed s 5 0x5002 (a / 256 % 8) 0 ∧
      (badSets (rowOf s array row) = 0 → hbmAction s (.gold a array row true) = setGold s array row (dataBits (rowOf s array row))) ∧
      (badSets (rowOf s array row) ≠ 0 → hbmAction s (.gold a array row true) = enterFailed s 5 0x5002 array row) ∧
      hbmAction s (.reqRecord a slot) = loseReq s slot ∧ hbmAction s (.hob a slot) = loseReq s slot ∧
      hbmAction s (.delta a ctx v) = loseReqs (dropVariant s ctx v) (fun _ r => r.ctx == ctx && r.variant == v) ∧
      hbmAction s (.cache a row) = s.updKv (fun k => { k with hot := k.hot.filter fun e => e.2.2 != row }) ∧
      hbmAction s (.table a ctx) = haltCtx s ctx 7 0xFFFF 0xFFFF ∧
      hbmAction s (.mirror a key) = s.updChim (fun c => { c with
        mirror := c.mirror.eraseIdx key, lost := c.lost ++ (c.mirror[key]?).toList }) ∧
      hbmAction s (.pool a page) = loseReqs s fun _ r => r.tables.any fun t => t.2.any fun e => e.2.slot == page && !e.2.ash) ∧
    (∀ (s : State) (slot : Nat) (r : Req), look s.reqs slot = some r → r.open_ = true →
      ∃ q, look (loseReq s slot).reqs slot = some q ∧ q.dataLost = true) ∧
    (∀ (s : State) (stack : Nat), exec (.hbmStackFail stack) s =
      .next (raiseErr s { domain := 5, code := 0x5002, unit := stack, detail := 0, act := .fatal })) ∧
    (∀ (s : State) (tile line cx ct : Nat) (c : Ctx) (i : Image) (k : CTile) (t : State), ctileOf s tile = some (cx, ct, c, i, k) →
      clocked s = true → s.dev.st ≠ .failed →
      t = logEvent s 0x5002 5 (evData [(1, 1), (0xFF, 1), (0, 2), (line % 4096 + tile * 65536, 4)]) →
      ((∃ p ∈ k.panels, p.lines ≠ 0 ∧ p.base ≤ line ∧ line < p.base + p.lines) → exec (.tileParityError tile line) s =
        .next (raiseErr t { domain := 5, code := 0x5002, unit := tile, detail := 0, act := .halt cx 6 ct 0xFFFF })) ∧
      ((∀ p ∈ k.panels, p.lines = 0 ∨ line < p.base ∨ p.base + p.lines ≤ line) → exec (.tileParityError tile line) s = .next t)) ∧
    (∀ (s : State) (tile line : Nat), ctileOf s tile = none → clocked s = true → s.dev.st ≠ .failed → exec (.tileParityError tile line) s =
      .next (logEvent s 0x5002 5 (evData [(1, 1), (0xFF, 1), (0, 2), (line % 4096 + tile * 65536, 4)]))) ∧
    (∀ (s : State) (sent got : MeshFlit) (link : MeshLink) (n : Nat) (t : State) (e : ErrIn), clocked s = true → s.dev.st ≠ .failed →
      n = nat s.err.meshErrs (linkIndex link) →
      t = (logEvent s 0x5002 5 (evData [(2, 1), (0xFF, 1), (0, 2), (link.tile, 4)])).updErr (fun x =>
        { x with meshErrs := put 0 x.meshErrs (linkIndex link) (s.dev.now + 1) }) →
      e = { domain := 5, code := 0x5002, unit := link.tile, detail := 0, act := .elsewhere } →
      (link ∉ meshRoute sent.src sent.dst ∨ got.good = true → exec (.meshParityError sent link got) s = .next s) ∧
      (link ∈ meshRoute sent.src sent.dst → got.good = false → n ≠ 0 → s.dev.now + 1 - n < 100000000 →
        exec (.meshParityError sent link got) s = .next (raiseErr t { e with act := .fatal })) ∧
      (link ∈ meshRoute sent.src sent.dst → got.good = false → n = 0 ∨ 100000000 ≤ s.dev.now + 1 - n →
        (sent.background = true → (roundOf t sent.src sent.dst = none → exec (.meshParityError sent link got) s = .next (raiseErr t e)) ∧
          ∀ k u r, roundOf t sent.src sent.dst = some (k, u, r) →
            exec (.meshParityError sent link got) s = .next (raiseErr (restartRound t k u r) e)) ∧
        (sent.background = false → (flitCtx t sent = none → exec (.meshParityError sent link got) s = .next (raiseErr t e)) ∧
          ∀ ctx ct, flitCtx t sent = some (ctx, ct) →
            exec (.meshParityError sent link got) s = .next (raiseErr t { e with act := .halt ctx 6 ct 0xFFFF })))) ∧
    (∀ src dst : Nat, (meshRoute src dst).length = (src % 80 - dst % 80) + (dst % 80 - src % 80) + (src / 80 - dst / 80) + (dst / 80 - src / 80) ∧
      ∀ l ∈ meshRoute src dst, (l.dir = .east ∨ l.dir = .west → l.tile / 80 = src / 80) ∧
        (l.dir = .south ∨ l.dir = .north → l.tile % 80 = dst % 80)) ∧
    (∀ (f : MeshFlit) (i : Nat), i < 40 → f.good = true → { f with parity := f.parity ^^^ BitVec.twoPow 40 i }.good = false) ∧
    (∀ (s : State) (ctx cause ctile instr : Nat) (c : Ctx), look s.ctxs ctx = some c → c.halted = false →
      ∃ d, look (haltCtx s ctx cause ctile instr).ctxs ctx = some d ∧ d.halted = true ∧ d.inflight = [] ∧
        ∀ i, c.image = some i → ∀ k ∈ i.tiles, ((haltCtx s ctx cause ctile instr).tile k.tile).stopped = true ∧
          ((haltCtx s ctx cause ctile instr).tile k.tile).exec = none)) ∧
  ((∀ (s : State) (r : HostRead), clocked s = true → s.dev.st ≠ .failed → exec (.hostReadFail r) s =
      .next (raiseErr (logAer s (readFn s r)) { domain := 7, code := 0x7002, unit := 0xFFFF, detail := 0, act := .hostRetry r })) ∧
    (∀ (s t u : State) (r : HostRead), s.err.hostRead = some r → t = s.updErr (fun x => { x with hostRead := none }) → u = logAer t (readFn s r) →
      exec (.hostReadRetryResult true) s = .next t ∧
      (∀ ring, r = .slot ring → exec (.hostReadRetryResult false) s = .next (u.updRing ring fun q => { q with stopped := true })) ∧
      (∀ ring seq c, r = .payload ring seq → findCmd u ring seq = some c →
        exec (.hostReadRetryResult false) s = .next (finish u c stTimeout c.position)) ∧
      (∀ slot, r = .row slot → exec (.hostReadRetryResult false) s = .next (loseReq u slot))))

/-! ## Clocks (17_clocks) -/

/-- The clock monitor (R407, R410, R411): eight consecutive passing windows accept a source, a failing one starts the count again; of an
accepted source the second failing window in a row withdraws it, a missing edge or a lost lock at once; when the root goes while it
runs the pilot takes over if it is accepted, and else the device goes to HOLD; a source that does not run is only off.
Attempts, lane 0, dividers and the recovery from HOLD (R408, R409, R414, R415, R418): a series has three attempts, the third failure
records CLK_ROOT_NO_LOCK and a new series follows; lane 0 entering L0 starts the pilot's attempt, leaving it ends the pilot; a divider
moves one step towards its target; the recovery from the loss of HBM leaves no ring, command, prefix, page or open request, and ends in
MAINTENANCE, or fails on a row that fails its check. -/
def Obligations.ClocksAndMonitor : Prop :=
  ((∀ (s : State) (count : Nat) (p : Pll) (t : State), p = s.clk.root → p.st ≠ .off → p.st ≠ .seriesFailed →
      t = s.updClk (fun c => { c with
        rootCount := count % 65536,
        windowFails := if 49103 ≤ count ∧ count ≤ 49201 then c.windowFails else sat 16 (c.windowFails + 1) }) →
      (49103 ≤ count → count ≤ 49201 →
        (p.st = .accepted → exec (.monitorWindow .root count) s = .next (t.updClk fun c => { c with root := { p with bad := 0 } })) ∧
        (p.st ≠ .accepted → p.good < 7 → exec (.monitorWindow .root count) s =
          .next (t.updClk fun c => { c with root := { st := .windows, good := p.good + 1, bad := 0 } })) ∧
        (p.st ≠ .accepted → 7 ≤ p.good → exec (.monitorWindow .root count) s = .next (acceptRoot t))) ∧
      (count < 49103 ∨ 49201 < count →
        (p.st = .accepted → p.bad = 0 → exec (.monitorWindow .root count) s = .next (t.updClk fun c => { c with root := { p with bad := 1 } })) ∧
        (p.st = .accepted → 1 ≤ p.bad → exec (.monitorWindow .root count) s = .next (tripRoot t 2)) ∧
        (p.st ≠ .accepted → exec (.monitorWindow .root count) s = .next (t.updClk fun c => { c with root := { st := .windows, good := 0, bad := 0 } })))) ∧
    (∀ (s t : State) (count : Nat), s.clk.pilot.st = .windows → 49103 ≤ count → count ≤ 49201 → 7 ≤ s.clk.pilot.good →
      t = s.updClk (fun c => { c with pilotCount := count % 65536, pilot := { st := .accepted, good := 8, bad := 0 } }) →
      exec (.monitorWindow .pilot count) s = .next t) ∧
    (∀ (s t : State), s.clk.root.st = .accepted → t = s.updClk (fun c => { c with refclk := false }) →
      exec .missingEdgeTrip s = .next (tripRoot t 0) ∧ exec (.lockLostTrip .root) s = .next (tripRoot s 1)) ∧
    (∀ (s : State) (cause : Nat), clocked s = true → s.clk.source = 1 →
      (s.clk.pilot.st = .accepted → tripRoot s cause = takeOver s cause) ∧ (s.clk.pilot.st ≠ .accepted → tripRoot s cause = enterHold s cause)) ∧
    (∀ (s : State) (cause : Nat), (clocked s = false ∨ s.clk.source ≠ 1) → tripRoot s cause = s.updClk fun c =>
      { c with root := { st := .off, good := 0, bad := 0 }, attempt := 0, attemptsUsed := 0 }) ∧
    (∀ (s : State) (cause : Nat), (takeOver s cause).clk.source = 2 ∧ (takeOver s cause).clk.takeovers = sat 8 (s.clk.takeovers + 1)) ∧
    (∀ (s : State) (cause : Nat), (enterHold s cause).dev.st = .hold ∧ (enterHold s cause).dev.safe = true ∧ (enterHold s cause).clk.source = 0 ∧
      (enterHold s cause).clk.holdFrom = some s.dev.st ∧ (enterHold s cause).clk.hbmLost = decide (s.dev.st ≠ .deepSleep) ∧
      (enterHold s cause).flits = [] ∧ (enterHold s cause).cal.run = none ∧ (s.dev.st ≠ .deepSleep → (enterHold s cause).cmds = []))) ∧
  ((∀ s : State, s.pwr.seq = .run →
      (s.clk.root.st = .off → s.clk.attemptsUsed < 3 → exec .rootAttemptStart s = .next (s.updClk fun c => { c with
        refclk := true, attempt := c.attemptsUsed + 1, attemptsUsed := c.attemptsUsed + 1, root := { st := .locking, good := 0, bad := 0 } })) ∧
      (s.clk.root.st = .seriesFailed → exec .rootSeriesRetry s = .next (s.updClk fun c => { c with
        attempt := 1, attemptsUsed := 1, root := { st := .locking, good := 0, bad := 0 } }))) ∧
    (∀ s : State, s.clk.root.st = .locking ∨ s.clk.root.st = .windows →
      (s.clk.attempt < 3 → exec .rootAttemptTimeout s = .next (s.updClk fun c => { c with root := { st := .off, good := 0, bad := 0 }, attempt := 0 })) ∧
      (3 ≤ s.clk.attempt → ∃ (t : State) (d : Nat), t = s.updClk (fun c => { c with root := { st := .seriesFailed, good := 0, bad := 0 }, attempt := 0 }) ∧
        exec .rootAttemptTimeout s = .next (raiseErr (logEvent t 0x1001 0 d)
          { domain := 0, code := 0x1001, unit := 0xFFFF, detail := 0, act := .elsewhere }))) ∧
    (∀ s : State, (clocked s = true → s.clk.lane0 = false → exec .lane0EnterL0 s = .next (s.updClk fun c =>
        { c with lane0 := true, pilot := { st := .locking, good := 0, bad := 0 } })) ∧
      exec .lane0LeaveL0 s = .next (leaveL0 s) ∧ (s.clk.lane0 = false → leaveL0 s = s) ∧
      (s.clk.lane0 = true → leaveL0 s = tripPilot (s.updClk fun c => { c with lane0 := false }) 3)) ∧
    (∀ (s : State) (cause : Nat), clocked s = false ∨ s.clk.source ≠ 2 → tripPilot s cause = s.updClk fun c =>
      { c with pilot := { st := .off, good := 0, bad := 0 } }) ∧
    (∀ s : State, clocked s = true → ∃ t : State, exec .dividerStep s = .next t ∧ t.clk.cclk = s.clk.cclk.move ∧ t.clk.lclk = s.clk.lclk.move ∧
      t.clk.phy = s.clk.phy.move ∧ t.clk.mclk = s.clk.mclk.move ∧
      (t.clk.aclkOn = true ↔ s.clk.cclk.on = true ∧ t.clk.cclk.div = 8 ∧ (s.dev.st = .maintenance ∨ s.dev.st = .service)) ∧
      t.dev = s.dev ∧ t.tiles = s.tiles) ∧
    (∀ d : Divider, (d.on = false → d.move = d) ∧ (d.on = true → d.move.target = d.target ∧
      (d.div < d.target → d.move.div = d.div + 1) ∧ (d.target < d.div → d.move.div = d.div - 1) ∧ (d.div = d.target → d.move = d))) ∧
    (∀ (s : State) (bad : Option Nat), s.dev.st = .hold → s.clk.recovering = true →
      (bad.or (goldBad s) = none → ∃ t : State, exec (.hbmRecovery bad) s = .next t ∧ t.dev.st = .maintenance ∧ t.rings = [] ∧ t.cmds = [] ∧
        t.kv.pages = [] ∧ t.kv.prefixes = [] ∧ t.clk.recovering = false ∧ ∀ slot r, look t.reqs slot = some r → r.open_ = false) ∧
      (∀ k, bad.or (goldBad s) = some k → ∃ t : State, exec (.hbmRecovery bad) s = .next t ∧ t.dev.st = .failed ∧ t.clk.recovering = false)))

/-! ## Power (18_power, 22_card) -/

/-- Power-up and BOOT (R421 to R426, R474, R478, R483): a rise of V12_IN above 11.0 V enables step 1; a rail that becomes good counts, and with
the last of its step the next step is enabled, after step 8 the rails are up; a rail without power-good is disabled, enabled again at
most three times in all, and then every rail drops and the fault is latched; BOOT is entered with the rails up, the root accepted and
PERST# deasserted, and ends in MAINTENANCE with the slot that verified, or in FAILED. -/
def Obligations.PowerUpAndBoot : Prop :=
  (∀ (s : State) (v : Nat), s.dev.st = .cold → s.pwr.seq = .idle → 1100 < v → s.pwr.v12 ≤ 1100 → s.pwr.blocked = false → s.pwr.aux = true →
    s.pwr.senseOk = true → ∃ t : State, exec (.v12Rise v) s = .next t ∧ t.pwr.seq = .up 1 ∧ t.pwr.v12 = v ∧ t.dev = s.dev ∧
      (∀ i r, t.pwr.rails[i]? = some r → r.enabled = decide (i = 0 ∨ i = 12) ∧ r.good = false ∧ r.enables = if i = 0 ∨ i = 12 then 1 else 0)) ∧
  (∀ (s : State) (rail n : Nat) (r : Rail), s.pwr.seq = .up n → (stepRails n).contains rail = true → r = railOf s.pwr rail → r.enabled = true →
    r.good = false →
    (r.enables < 2 → rail ≠ 0 → rail ≠ 12 → ∃ t : State, t = s.updPwr (fun p => onRail p rail fun r => { r with good := true }) ∧
      ((∀ i ∈ stepRails n, (railOf t.pwr i).good = true) → exec (.railPowerGood rail) s =
        .next (t.updPwr fun p => if n = 8 then { p with seq := .run } else enableStep p (n + 1))) ∧
      ((∃ i ∈ stepRails n, (railOf t.pwr i).good = false) → exec (.railPowerGood rail) s = .next t)) ∧
    (r.enables < 3 → exec (.railEnableTimeout rail) s = .next (s.updPwr fun p => onRail p rail fun r => { r with enabled := false })) ∧
    (3 ≤ r.enables → ∃ t : State, exec (.railEnableTimeout rail) s = .next t ∧ t.pwr.blocked = true ∧ t.pwr.seq = .idle ∧
      t.pwr.latch.fault = true ∧ t.pwr.latch.phase = 0 ∧ t.pwr.latch.rail = rail ∧ t.pwr.latch.enables = 3 ∧
      ∀ q ∈ t.pwr.rails, q.enabled = false ∧ q.good = false)) ∧
  (∀ (s : State) (rail n : Nat) (r : Rail), s.pwr.seq = .up n → (stepRails n).contains rail = true → r = railOf s.pwr rail → r.enabled = false →
    1 ≤ r.enables →
    (r.enables < 3 → exec (.railReenable rail) s =
      .next (s.updPwr fun p => onRail p rail fun r => { r with enabled := true, enables := r.enables + 1 })) ∧
    (3 ≤ r.enables → exec (.railReenable rail) s = .next s)) ∧
  (∀ s : State, (s.dev.st = .cold ∧ s.pwr.seq = .run ∧ s.clk.root.st = .accepted ∧ s.pwr.perst = false → tryBoot s = enterBoot s) ∧
    (¬(s.dev.st = .cold ∧ s.pwr.seq = .run ∧ s.clk.root.st = .accepted ∧ s.pwr.perst = false) → tryBoot s = s)) ∧
  (∀ s : State, (enterBoot s).dev.st = .boot ∧ (enterBoot s).rings = [] ∧ (enterBoot s).ctxs = [] ∧ (enterBoot s).cells = s.cells ∧
    (s.dev.st = .cold → (enterBoot s).dev.pwrCycles = min (s.dev.pwrCycles + 1) 0xFFFFFF) ∧ (enterBoot s).hostMem = s.hostMem) ∧
  (∀ (s : State) (ms a : Nat), s.dev.st = .boot → clocked s = true → ms ≤ 800 → a = s.dev.fwSelect % 2 →
    ((slotOf s.dev a).valid = true → exec (.bootComplete ms none) s = .next (bootWith s a ms false)) ∧
    ((slotOf s.dev a).valid = false → (slotOf s.dev (1 - a)).valid = true →
      exec (.bootComplete ms none) s = .next (bootWith (logSigFail s a 0) (1 - a) ms true)) ∧
    ((slotOf s.dev a).valid = false → (slotOf s.dev (1 - a)).valid = false → ∃ t : State,
      exec (.bootComplete ms none) s = .next t ∧ t.dev.st = .failed ∧ t.dev.romOnly = true)) ∧
  (∀ (s : State) (slot ms : Nat) (fb : Bool), (bootWith s slot ms fb).dev.st = .maintenance ∧ (bootWith s slot ms fb).dev.fwRunning = slot)

/-- Power-down, resets and faults (R424, R429 to R434, R465, R483, R485): PERST# and a hot reset force the safe states, write the log while
the input lasts and begin the descent; the last rail of a step that falls disables the step before it, and of step 1 ends in COLD;
a rail that does not fall, or a regulator fault, drops what is left and latches phase down; a rail that fails in a run fails the
device, writes the log and drops every rail; an input below 10.0 V drops them at once; a low input is an error; the latch goes with
V3P3_AUX; a cage follows its module, and an overcurrent opens its switch and takes its ports down. -/
def Obligations.PowerDownAndFaults : Prop :=
  (∀ s : State, s.dev.st ≠ .cold → (∀ n, s.pwr.seq ≠ .down n) → ∃ t : State, t = s.updPwr (fun p => { p with perst := true }) ∧
    exec .perstAssert s = .next (beginDown (if 1000 ≤ s.pwr.v12 then flushLog t else t)) ∧
    (s.dev.st ≠ .hold → exec .hotReset s = .next ((beginDown (if 1000 ≤ s.pwr.v12 then flushLog s else s)).updPwr fun p => { p with restart := true }))) ∧
  (∀ (s t : State), s.pwr.perst = true → t = s.updPwr (fun p => { p with perst := false }) →
    (s.pwr.seq = .idle → exec .perstDeassert s = .next (startUp t)) ∧ (s.pwr.seq = .run → exec .perstDeassert s = .next (tryBoot t)) ∧
    (∀ n, s.pwr.seq = .down n → exec .perstDeassert s = .next (t.updPwr fun p => { p with restart := true })) ∧
    (∀ n, s.pwr.seq = .up n → exec .perstDeassert s = .next t)) ∧
  (∀ (s t : State) (rail n : Nat), s.pwr.seq = .down n → (stepRails n).contains rail = true → (railOf s.pwr rail).enabled = false →
    (railOf s.pwr rail).good = true → t = s.updPwr (fun p => onRail p rail fun r => { r with good := false }) →
    ((∀ i ∈ stepRails n, (railOf t.pwr i).good = false) →
      (2 ≤ n → exec (.railFallen rail) s = .next (t.updPwr fun p => disableStep p (n - 1))) ∧
      (n ≤ 1 → exec (.railFallen rail) s = .next (endDown t))) ∧
    ((∃ i ∈ stepRails n, (railOf t.pwr i).good = true) → exec (.railFallen rail) s = .next t) ∧
    exec (.railFallTimeout rail) s = .next (failDown s rail) ∧ exec (.regulatorFaultDown rail) s = .next (failDown s rail)) ∧
  (∀ (s : State) (rail : Nat), s.pwr.restart = false → (failDown s rail).dev.st = .cold ∧ (failDown s rail).pwr.latch.fault = true ∧
    (failDown s rail).pwr.latch.phase = 2 ∧ (failDown s rail).pwr.latch.rail = rail) ∧
  (∀ (s : State) (rail v : Nat), s.dev.st ≠ .cold → s.pwr.seq = .run → rail ≤ 12 → ∃ t : State, exec (.railFailRun rail v) s = .next t ∧
    t.dev.st = .cold ∧ t.pwr.latch.fault = true ∧ t.pwr.latch.phase = 1 ∧ t.pwr.latch.rail = rail ∧ t.pwr.seq = .idle ∧
    (t.pwr.latch.logged = true ↔ rail ≠ 0 ∧ rail ≠ 7 ∧ clocked s = true)) ∧
  (∀ (s : State) (v : Nat), v < 1000 → ∃ t : State, t = s.updPwr (fun p => { p with v12 := v, blocked := false }) ∧
    (s.pwr.seq = .idle → exec (.inputLoss v) s = .next t) ∧
    (s.pwr.seq ≠ .idle → s.dev.st ≠ .cold → exec (.inputLoss v) s = .next (dropAtOnce t 15)) ∧
    (s.pwr.seq ≠ .idle → s.dev.st = .cold → exec (.inputLoss v) s = .next (t.updPwr railsOff))) ∧
  (∀ (s : State) (v : Nat), clocked s = true → 1000 ≤ v → v < 1104 → exec (.pwrInputLow v) s =
    .next (raiseErr (s.updPwr fun p => { p with v12 := v }) { domain := 1, code := 0x2004, unit := 0xFFFF, detail := 0, act := .inputLow v })) ∧
  (∀ s : State, exec .inputRecovered s = .next (s.updThm fun t => { t with ceilNext := false })) ∧
  (∀ (s : State) (ok : Bool), ok ≠ s.pwr.senseOk → exec (.senseChange ok) s = .next (inputLoss (s.updPwr fun p => { p with senseOk := ok }))) ∧
  (∀ s : State, exec (.v3p3AuxChange true) s = .next (s.updPwr fun p => { p with aux := true }) ∧
    ∃ t : State, exec (.v3p3AuxChange false) s = .next t ∧ t.pwr.aux = false ∧ t.pwr.latch = Latch.clear ∧ t.host.logIndex = 0) ∧
  (∀ (s : State) (cage : Nat) (c : Cage), s.pwr.cages[cage]? = some c →
    exec (.modulePresent cage) s = .next (onCage s cage fun c => { c with module := true, closed := vmodGood s && !c.tripped }) ∧
    exec (.moduleRemoved cage) s = .next (onCage s cage fun _ => Cage.empty) ∧
    (c.closed = true → exec (.cageOvercurrent cage) s = .next (portDown (portDown
      (onCage s cage fun c => { c with closed := false, tripped := true }) (2 * cage) 1 0) (2 * cage + 1) 1 0)))

/-! ## The thermal model (19_thermal) -/

/-- The power cap (R442): 25 W less than 900 W for each damper step, or the limit where that is lower, which the ceiling for a low input keeps at
300 W at most; an update keeps the step at 24 at most, which is where reset has it too. -/
def Obligations.PowerCap : Prop :=
  (∀ t : Thm, capW t = min (900 - 25 * t.step) (if t.ceilInput then min t.limitW 300 else t.limitW)) ∧
  (∀ (s : State) (u : ThmIn), s.thm.step ≤ 24 → (thmUpdate s u).thm.step ≤ 24) ∧ State.reset.thm.step ≤ 24

/-- THM_UPDATE, COEFFICIENT_ADJUST and SENSOR_INVALID (R438 to R443, R446): at an update the host's limit and the ceiling for a low input
(R433; its delay is read from "works as POWER_LIMIT does", log entry 147) take force, then the first
condition that holds acts: a node at 110 °C the critical path, one at 100 °C or rising 3 °C/ms a step down, all calm a step up, each
logged; the pace factor follows the new cap; a coefficient moves by an eighth of the difference within 25% of its default; a sensor
without a reading is marked, the air then counts as 55 °C. -/
def Obligations.ThermalUpdates : Prop :=
  (∀ (s : State) (u : ThmIn), clocked s = true → s.dev.st ≠ .hold → u.temps.length = 265 → u.interval = (if s.thm.fast then 125 else 1000) →
    exec (.thmUpdate u) s = .next (rescaleAll (thmUpdate s u))) ∧
  (∀ (s : State) (u : ThmIn), (∃ x ∈ u.temps, 14080 ≤ x) → s.dev.st ≠ .cold → ∃ t : State, thmUpdate s u = t ∧ t.dev.safe = true ∧ t.pwr.blocked = true ∧
    t.rings = [] ∧ t.cmds = [] ∧ t.pwr.latch = s.pwr.latch) ∧
  (∀ (s : State) (u : ThmIn), (∀ x ∈ u.temps, x < 14080) →
    ((∃ x ∈ u.temps, 12800 ≤ x) → (thmUpdate s u).thm.step = min 24 (s.thm.step + 1) ∨ 24 < s.thm.step ∧ (thmUpdate s u).thm.step = s.thm.step) ∧
    ((∀ x ∈ u.temps, x < 12800) → (∀ i : Nat, (u.temps[i]?.getD 0 - s.thm.nodes[i]?.getD 0) * 1000 < 384 * u.interval ∨ u.temps.length ≤ i) →
      (thmUpdate s u).thm.step = s.thm.step ∨ 0 < s.thm.step ∧ (thmUpdate s u).thm.step = s.thm.step - 1) ∧
    (thmUpdate s u).thm.limitW = s.thm.limitNext ∧ (thmUpdate s u).thm.ceilInput = s.thm.ceilNext ∧ (thmUpdate s u).thm.nodes = u.temps ∧
    (thmUpdate s u).thm.phi = paceOf s.thm.phi (capW (thmUpdate s u).thm) u.pFix u.pPace ∧ (thmUpdate s u).dev = s.dev ∧
    (thmUpdate s u).tiles = s.tiles ∧ (thmUpdate s u).reqs = s.reqs) ∧
  (∀ (phi : Rat) (cap pFix pPace : Nat), 1 / 64 ≤ paceOf phi cap pFix pPace ∧ paceOf phi cap pFix pPace ≤ 1 ∧ paceOf phi cap pFix 0 = 1) ∧
  (∀ (s : State) (m : List (Option Nat)) (l : List Nat), clocked s = true → s.dev.st ≠ .hold → ∃ t : State,
    exec (.coefficientAdjust m l) s = .next t ∧ t.thm.coef = (List.range 6).map (fun i =>
      adjustCoef (s.thm.coef[i]?.getD 1) ((m[i]?).getD none) ((l[i]?).getD 0)) ∧ t.thm.step = s.thm.step ∧ t.dev = s.dev) ∧
  (∀ (c : Rat) (m n : Nat), adjustCoef c none n = c ∧ (n ≠ 0 →
    adjustCoef c (some m) n = max (3 / 4) (min (5 / 4) (c + c * (((m : Rat) - (n : Rat)) / (n : Rat)) / 8)))) ∧
  (∀ s : State, clocked s = true → s.dev.st ≠ .hold →
    exec (.sensorInvalid .ta) s = .next (s.updThm fun t => { t with taBad := true, ta := 7040 }) ∧
    exec (.sensorInvalid .tc) s = .next (s.updThm fun t => { t with tcBad := true }) ∧
    exec (.sensorInvalid .flow) s = .next (s.updThm fun t => { t with flowBad := true, flow := 0 }) ∧
    ∀ g, exec (.sensorInvalid (.monitor g)) s = .next (s.updThm fun t => { t with monBad := t.monBad.set g true }))

/-! ## What is left alone, layouts, and reset -/

/-- A command's final record (R265, R266, R277, R282): it leaves the outstanding list and its record goes into the next entry of its ring's
completion ring, OK with a warning as OK_WARN, a long operation with its progress; while no duplicate waits for it no other byte of host
memory changes; and beside host memory, rings, outstanding commands and what its request keeps nothing of the machine does. -/
def Obligations.FinalRecords : Prop :=
  (∀ (s : State) (c : Cmd) (status r0 w : Nat), ∃ m rs cs qs, finishW s c status r0 w = { s with hostMem := m, rings := rs, cmds := cs, reqs := qs }) ∧
  (∀ (s : State) (c : Cmd) (status r0 w : Nat) (q : Ring), look s.rings c.ring = some q → c.replay = false →
    (∀ d ∈ s.cmds, d.phase ≠ .dupOf c.ring c.pkt.seq) → ∃ r : Rec, r.seq = c.pkt.seq ∧ r.tag = c.pkt.tag ∧ r.result0 = r0 % 2 ^ 64 ∧ r.result1 = w ∧
      r.status = (if status = stOk ∧ w % 32 ≠ 0 then stWarn else status) ∧
      (isLong c.pkt = true → r.progress = if status = stOk then 1000 else c.progress) ∧
      (isLong c.pkt = false → c.pkt.opc ≠ 0xE0 → r.progress = 0xFFFF) ∧
      Mem.read (finishW s c status r0 w).hostMem (q.cq + 32 * q.cidx) 32 = recBytes c.ring q.phase true r ∧
      (∀ a, a < q.cq + 32 * q.cidx ∨ q.cq + 32 * q.cidx + 32 ≤ a → Mem.byte (finishW s c status r0 w).hostMem a = Mem.byte s.hostMem a) ∧
      (finishW s c status r0 w).cmds = s.cmds.filter fun d => !(d.ring == c.ring && d.pkt.seq == c.pkt.seq && d.order == c.order)) ∧
  (∀ (s : State) (c : Cmd) (status r0 w : Nat), c.replay = true → finishW s c status r0 w = dropCmd s c) ∧
  (∀ (ring : Nat) (phase final : Bool) (r : Rec), (recBytes ring phase final r).length = 32)

/-- Packets, execution records and frames read back as they were laid out, and a frame with its CRC is a good one (R211, R261, R340). -/
def Obligations.LayoutsReadBack : Prop :=
  (∀ f : Frame, f.ftype < 256 → f.flags < 256 → f.dst < 65536 → f.src < 65536 → f.lseq < 65536 → f.lack < 65536 → f.step < 2 ^ 32 →
    f.payload.length ≤ 1024 → frameOf f.bytes = f ∧ frameCrcOk f.bytes = true ∧ f.bytes.length = 20 + f.payload.length) ∧
  (∀ x : ExecRec, x.req < 2 ^ 32 → x.variant < 65536 → x.cls < 256 → x.phase < 256 → x.pos < 2 ^ 32 → x.step < 2 ^ 32 → x.token < 2 ^ 32 →
    x.cand < 256 → execRecOf x.bytes = x ∧ x.bytes.length = 32) ∧
  (∀ (p : Packet) (pad : List Byte), p.opc < 65536 → p.flags < 65536 → p.seq < 2 ^ 32 → p.tag < 2 ^ 64 → p.ctx < 65536 → p.len ≤ 224 →
    p.req < 2 ^ 32 → p.ver < 256 → p.prio < 256 → p.resv < 2 ^ 48 → p.params.length = p.len → packetOf (p.bytes ++ pad) = p)

/-- A frame whose bytes differ in one byte from a good one is no good frame (R340). -/
def Obligations.CrcFindsOneByte : Prop :=
  ∀ (f : Frame) (i : Nat) (b : Byte), f.payload.length ≤ 1024 → i < 16 + f.payload.length → i ≠ 2 → i ≠ 3 → f.bytes[i]? ≠ some b →
    frameCrcOk (f.bytes.set i b) = false
end

