-- ==== Sys2Proof/Laws/Commands.lean ====
section
/-! SUPPORT. The meaning of each command, one equation a command, and the shared ways in which a command reaches its effect. -/

namespace Sys2Proof.Machine

variable {s : State}

/-! ## Reaching the effect -/

theorem onReady_of {opc ring seq : Nat} {c : Cmd} (h : Ready s opc ring seq c) (f : Cmd → State → State) : onReady opc ring seq f s = f c s := by
  obtain ⟨h1, h2, h3, h4, h5⟩ := h
  simp [onReady, h1, h2, h3, h4, h5]

theorem onLong_ready {opc ring seq : Nat} {c : Cmd} (h : Ready s opc ring seq c) (start : Cmd → State → Option State) (fin : Cmd → State → State)
    (hs : start c s = none) : onLong opc ring seq start fin s = acceptLong s { c with phase := .running } := by
  obtain ⟨h1, h2, h3, h4, h5⟩ := h
  simp [onLong, h1, h2, h3, h4, h5, hs]

theorem onLong_running {opc ring seq : Nat} {c : Cmd} (h : Running s opc ring seq c) (start : Cmd → State → Option State) (fin : Cmd → State → State) :
    onLong opc ring seq start fin s = fin c s := by
  obtain ⟨h1, h2, h3, h4⟩ := h
  simp [onLong, h1, h2, h3, h4]

theorem onCtx_of {c : Cmd} {x : Ctx} (h : OnCtx s c x) (f : Ctx → State) : onCtx s c f = f x := by
  obtain ⟨h1, h2, h3, h4⟩ := h
  simp [onCtx, h1, h2, h3, h4]

theorem onReq_of {c : Cmd} {r : Req} (h : OnReq s c r) (lostOk draftOk : Bool) (f : Req → State) : onReq s c lostOk draftOk f = f r := by
  obtain ⟨h1, h2, h3, h4⟩ := h
  simp [onReq, h1, h2, h3, h4]

theorem onIssue_ok {tile opc : Nat} {a : At} {f : State → At → Eff} {t : State} {out : List Byte} {fin : Bool} {pcie : Nat}
    (h : Issues s tile opc a) (hf : f s a = .ok t out fin pcie) : onIssue opc tile f s = issued t a out fin pcie := by
  obtain ⟨h1, h2⟩ := h
  simp [onIssue, h1, h2, hf]

theorem onIssue_stop {tile opc : Nat} {a : At} {f : State → At → Eff} {n : Nat} (h : Issues s tile opc a) (hf : f s a = .stop n) :
    onIssue opc tile f s = stopProg s a n := by
  obtain ⟨h1, h2⟩ := h
  simp [onIssue, h1, h2, hf]

/-! Panel accesses of an instruction: within its lines an access goes on, beyond them the program stops. -/

theorem rdP_ok {a : At} {p off n : Nat} (h : a.has p off n) (f : List Byte → Eff) : rdP s a p off n f = f (a.bytesAt s p off n) := by
  unfold At.has at h
  simp [rdP, At.bytesAt, Nat.not_lt.mpr h]

theorem rdP_stop {a : At} {p off n : Nat} (h : ¬a.has p off n) (f : List Byte → Eff) : rdP s a p off n f = .stop 0 := by
  unfold At.has at h
  simp [rdP, Nat.not_le.mp h]

theorem wrP_ok {a : At} {p off : Nat} {bs : List Byte} (h : a.has p off bs.length) (f : State → Eff) :
    wrP s a p off bs f = f (a.wrote s p off bs) := by
  unfold At.has at h
  simp [wrP, At.wrote, Nat.not_lt.mpr h]

theorem wrP_stop {a : At} {p off : Nat} {bs : List Byte} (h : ¬a.has p off bs.length) (f : State → Eff) : wrP s a p off bs f = .stop 0 := by
  unfold At.has at h
  simp [wrP, Nat.not_le.mp h]

theorem rdF_ok {a : At} {p e n : Nat} (h : a.has p (a.esize p * e) (a.esize p * n)) (f : List F32 → Eff) :
    rdF s a p e n f = f (a.floatsAt s p e n) := by
  unfold rdF
  exact rdP_ok h _

theorem rdA_ok {a : At} {p e n : Nat} (h : a.has p (8 * e) (8 * n)) (f : List Int → Eff) : rdA s a p e n f = f (a.accsAt s p e n) :=
  rdP_ok h _

theorem wrF_ok {a : At} {p e : Nat} {vs : List F32} (h : a.has p (a.esize p * e) (a.fbytes p vs).length) (f : State → Eff) :
    wrF s a p e vs f = f (a.wrote s p (a.esize p * e) (a.fbytes p vs)) := wrP_ok h _

theorem wrA_ok {a : At} {p e : Nat} {vs : List Int} (h : a.has p (8 * e) (a.abytes p vs).length) (f : State → Eff) :
    wrA s a p e vs f = f (a.wrote s p (8 * e) (a.abytes p vs)) := wrP_ok h _

theorem onFrame_of {ty : Nat} {f : Frame} (h : Arrived s ty f) (g : Frame → State → State) : onFrame ty g s = g f (taken s f) := by
  obtain ⟨h1, h2⟩ := h
  obtain ⟨x, hx, rfl⟩ := Option.map_eq_some_iff.mp h2
  simp [onFrame, h1, hx, taken]

/-! ## The meanings -/

theorem exec_packetConsume {ring} : exec (.packetConsume ring) s = execPacketConsume ring s := rfl
theorem exec_fenceStart {ring seq} : exec (.fenceStart ring seq) s = execFenceStart ring seq s := rfl
theorem exec_inProgressPost {ring seq progress position} : exec (.inProgressPost ring seq progress position) s = execInProgressPost ring seq progress position s := rfl
theorem exec_msixCoalesce {ring} : exec (.msixCoalesce ring) s = execMsixCoalesce ring s := rfl
theorem exec_consumptionResume : exec (.consumptionResume) s = execConsumptionResume s := rfl
theorem exec_outstandingDrained {ring seq} : exec (.outstandingDrained ring seq) s = execOutstandingDrained ring seq s := rfl
theorem exec_doorbellTail {fn ring index resv wr} : exec (.doorbellTail fn ring index resv wr) s = execDoorbellTail fn ring index resv wr s := rfl
theorem exec_doorbellHead {fn ring index resv} : exec (.doorbellHead fn ring index resv) s = execDoorbellHead fn ring index resv s := rfl
theorem exec_adminEnable {fn value} : exec (.adminEnable fn value) s = execAdminEnable fn value s := rfl
theorem exec_adminDisable {fn value} : exec (.adminDisable fn value) s = execAdminDisable fn value s := rfl
theorem exec_registerWrite {t value} : exec (.registerWrite t value) s = execRegisterWrite t value s := rfl
theorem exec_lowHalfRead {fn offset} : exec (.lowHalfRead fn offset) s = execLowHalfRead fn offset s := rfl
theorem exec_highHalfRead {fn offset} : exec (.highHalfRead fn offset) s = execHighHalfRead fn offset s := rfl
theorem exec_configRequest {fn op} : exec (.configRequest fn op) s = execConfigRequest fn op s := rfl
theorem exec_flr {vf} : exec (.flr vf) s = execFlr vf s := rfl
theorem exec_sscCfgWrite {value} : exec (.sscCfgWrite value) s = execSscCfgWrite value s := rfl
theorem exec_logDataRead : exec (.logDataRead) s = execLogDataRead s := rfl
theorem exec_clearCodeWrite {code} : exec (.clearCodeWrite code) s = execClearCodeWrite code s := rfl
theorem exec_hello {ring seq} : exec (.hello ring seq) s = execHello ring seq s := rfl
theorem exec_goodbye {ring seq} : exec (.goodbye ring seq) s = execGoodbye ring seq s := rfl
theorem exec_ringCreate {ring seq} : exec (.ringCreate ring seq) s = execRingCreate ring seq s := rfl
theorem exec_ringDestroy {ring seq} : exec (.ringDestroy ring seq) s = execRingDestroy ring seq s := rfl
theorem exec_ringBind {ring seq} : exec (.ringBind ring seq) s = execRingBind ring seq s := rfl
theorem exec_ctxCreate {ring seq} : exec (.ctxCreate ring seq) s = execCtxCreate ring seq s := rfl
theorem exec_ctxDestroy {ring seq} : exec (.ctxDestroy ring seq) s = execCtxDestroy ring seq s := rfl
theorem exec_ctxLoad {ring seq reads} : exec (.ctxLoad ring seq reads) s = execCtxLoad ring seq reads s := rfl
theorem exec_variantLoad {ring seq} : exec (.variantLoad ring seq) s = execVariantLoad ring seq s := rfl
theorem exec_variantDrop {ring seq} : exec (.variantDrop ring seq) s = execVariantDrop ring seq s := rfl
theorem exec_tableLoad {ring seq} : exec (.tableLoad ring seq) s = execTableLoad ring seq s := rfl
theorem exec_tableUpdate {ring seq} : exec (.tableUpdate ring seq) s = execTableUpdate ring seq s := rfl
theorem exec_reqOpen {ring seq} : exec (.reqOpen ring seq) s = execReqOpen ring seq s := rfl
theorem exec_reqAppend {ring seq} : exec (.reqAppend ring seq) s = execReqAppend ring seq s := rfl
theorem exec_reqStep {ring seq} : exec (.reqStep ring seq) s = execReqStep ring seq s := rfl
theorem exec_reqVerify {ring seq} : exec (.reqVerify ring seq) s = execReqVerify ring seq s := rfl
theorem exec_reqClose {ring seq} : exec (.reqClose ring seq) s = execReqClose ring seq s := rfl
theorem exec_reqCancel {ring seq} : exec (.reqCancel ring seq) s = execReqCancel ring seq s := rfl
theorem exec_reqQuery {ring seq} : exec (.reqQuery ring seq) s = execReqQuery ring seq s := rfl
theorem exec_prefixPin {ring seq} : exec (.prefixPin ring seq) s = execPrefixPin ring seq s := rfl
theorem exec_prefixRelease {ring seq} : exec (.prefixRelease ring seq) s = execPrefixRelease ring seq s := rfl
theorem exec_panelRead {ring seq} : exec (.panelRead ring seq) s = execPanelRead ring seq s := rfl
theorem exec_panelWrite {ring seq} : exec (.panelWrite ring seq) s = execPanelWrite ring seq s := rfl
theorem exec_calRun {ring seq} : exec (.calRun ring seq) s = execCalRun ring seq s := rfl
theorem exec_calStatus {ring seq} : exec (.calStatus ring seq) s = execCalStatus ring seq s := rfl
theorem exec_calCommit {ring seq} : exec (.calCommit ring seq) s = execCalCommit ring seq s := rfl
theorem exec_selfTest {ring seq} : exec (.selfTest ring seq) s = execSelfTest ring seq s := rfl
theorem exec_sweepConfig {ring seq} : exec (.sweepConfig ring seq) s = execSweepConfig ring seq s := rfl
theorem exec_cascadeJoin {ring seq} : exec (.cascadeJoin ring seq) s = execCascadeJoin ring seq s := rfl
theorem exec_cascadeLeave {ring seq} : exec (.cascadeLeave ring seq) s = execCascadeLeave ring seq s := rfl
theorem exec_crownAssign {ring seq} : exec (.crownAssign ring seq) s = execCrownAssign ring seq s := rfl
theorem exec_mirrorConfig {ring seq} : exec (.mirrorConfig ring seq) s = execMirrorConfig ring seq s := rfl
theorem exec_failoverAdopt {ring seq} : exec (.failoverAdopt ring seq) s = execFailoverAdopt ring seq s := rfl
theorem exec_logFreeze {ring seq} : exec (.logFreeze ring seq) s = execLogFreeze ring seq s := rfl
theorem exec_logRead {ring seq} : exec (.logRead ring seq) s = execLogRead ring seq s := rfl
theorem exec_logThaw {ring seq} : exec (.logThaw ring seq) s = execLogThaw ring seq s := rfl
theorem exec_logClear {ring seq} : exec (.logClear ring seq) s = execLogClear ring seq s := rfl
theorem exec_powerLimit {ring seq} : exec (.powerLimit ring seq) s = execPowerLimit ring seq s := rfl
theorem exec_stateSet {ring seq} : exec (.stateSet ring seq) s = execStateSet ring seq s := rfl
theorem exec_powerDown {ring seq} : exec (.powerDown ring seq) s = execPowerDown ring seq s := rfl
theorem exec_traceStart {ring seq} : exec (.traceStart ring seq) s = execTraceStart ring seq s := rfl
theorem exec_traceStop {ring seq} : exec (.traceStop ring seq) s = execTraceStop ring seq s := rfl
theorem exec_recordStart {ring seq} : exec (.recordStart ring seq) s = execRecordStart ring seq s := rfl
theorem exec_recordStop {ring seq} : exec (.recordStop ring seq) s = execRecordStop ring seq s := rfl
theorem exec_replay {ring seq} : exec (.replay ring seq) s = execReplay ring seq s := rfl
theorem exec_opProgress {ring seq} : exec (.opProgress ring seq) s = execOpProgress ring seq s := rfl
theorem exec_opAbort {ring seq} : exec (.opAbort ring seq) s = execOpAbort ring seq s := rfl
theorem exec_fwStage {ring seq} : exec (.fwStage ring seq) s = execFwStage ring seq s := rfl
theorem exec_fwActivate {ring seq} : exec (.fwActivate ring seq) s = execFwActivate ring seq s := rfl
theorem exec_dispatchBoundary {ctx} : exec (.dispatchBoundary ctx) s = execDispatchBoundary ctx s := rfl
theorem exec_spillReturn : exec (.spillReturn) s = execSpillReturn s := rfl
theorem exec_appendChunkRetry {ring seq} : exec (.appendChunkRetry ring seq) s = execAppendChunkRetry ring seq s := rfl
theorem exec_appendChunkTimeout {ring seq} : exec (.appendChunkTimeout ring seq) s = execAppendChunkTimeout ring seq s := rfl
theorem exec_executionStart {tile} : exec (.executionStart tile) s = execExecutionStart tile s := rfl
theorem exec_executionEnd {tile} : exec (.executionEnd tile) s = execExecutionEnd tile s := rfl
theorem exec_instructionComplete {tile issue} : exec (.instructionComplete tile issue) s = execInstructionComplete tile issue s := rfl
theorem exec_execLimitExpire {tile} : exec (.execLimitExpire tile) s = execExecLimitExpire tile s := rfl
theorem exec_fire {tile} : exec (.fire tile) s = execFire tile s := rfl
theorem exec_firev {tile} : exec (.firev tile) s = execFirev tile s := rfl
theorem exec_fireSlot {tile bank devs} : exec (.fireSlot tile bank devs) s = execFireSlot tile bank devs s := rfl
theorem exec_preload {tile} : exec (.preload tile) s = execPreload tile s := rfl
theorem exec_promote {tile} : exec (.promote tile) s = execPromote tile s := rfl
theorem exec_move {tile} : exec (.move tile) s = execMove tile s := rfl
theorem exec_quant {tile} : exec (.quant tile) s = execQuant tile s := rfl
theorem exec_deq {tile} : exec (.deq tile) s = execDeq tile s := rfl
theorem exec_send {tile} : exec (.send tile) s = execSend tile s := rfl
theorem exec_recv {tile} : exec (.recv tile) s = execRecv tile s := rfl
theorem exec_reduce {tile} : exec (.reduce tile) s = execReduce tile s := rfl
theorem exec_kvapp {tile} : exec (.kvapp tile) s = execKvapp tile s := rfl
theorem exec_hobFlush {slot layer head} : exec (.hobFlush slot layer head) s = execHobFlush slot layer head s := rfl
theorem exec_kvidx {tile} : exec (.kvidx tile) s = execKvidx tile s := rfl
theorem exec_kvgath {tile} : exec (.kvgath tile) s = execKvgath tile s := rfl
theorem exec_attn {tile} : exec (.attn tile) s = execAttn tile s := rfl
theorem exec_kvevict {tile} : exec (.kvevict tile) s = execKvevict tile s := rfl
theorem exec_norm {tile} : exec (.norm tile) s = execNorm tile s := rfl
theorem exec_act {tile} : exec (.act tile) s = execAct tile s := rfl
theorem exec_rope {tile} : exec (.rope tile) s = execRope tile s := rfl
theorem exec_embg {tile} : exec (.embg tile) s = execEmbg tile s := rfl
theorem exec_sample {tile} : exec (.sample tile) s = execSample tile s := rfl
theorem exec_verify {tile} : exec (.verify tile) s = execVerify tile s := rfl
theorem exec_waitCtr {tile} : exec (.waitCtr tile) s = execWaitCtr tile s := rfl
theorem exec_signal {tile} : exec (.signal tile) s = execSignal tile s := rfl
theorem exec_signalArrival {tile} : exec (.signalArrival tile) s = execSignalArrival tile s := rfl
theorem exec_loopBody {tile} : exec (.loopBody tile) s = execLoopBody tile s := rfl
theorem exec_br {tile} : exec (.br tile) s = execBr tile s := rfl
theorem exec_endExec {tile} : exec (.endExec tile) s = execEndExec tile s := rfl
theorem exec_nopInstr {tile} : exec (.nopInstr tile) s = execNopInstr tile s := rfl
theorem exec_timeread {tile} : exec (.timeread tile) s = execTimeread tile s := rfl
theorem exec_recompute {engine reads} : exec (.recompute engine reads) s = execRecompute engine reads s := rfl
theorem exec_outlier {engine} : exec (.outlier engine) s = execOutlier engine s := rfl
theorem exec_delta {engine parity} : exec (.delta engine parity) s = execDelta engine parity s := rfl
theorem exec_flueResultArrival {tile} : exec (.flueResultArrival tile) s = execFlueResultArrival tile s := rfl
theorem exec_freeFlue {engine kind} : exec (.freeFlue engine kind) s = execFreeFlue engine kind s := rfl
theorem exec_storageReport {tile} : exec (.storageReport tile) s = execStorageReport tile s := rfl
theorem exec_storageRepair {array reads} : exec (.storageRepair array reads) s = execStorageRepair array reads s := rfl
theorem exec_scrubRow {array reads} : exec (.scrubRow array reads) s = execScrubRow array reads s := rfl
theorem exec_windowClose {array} : exec (.windowClose array) s = execWindowClose array s := rfl
theorem exec_bgCalDwell {fits} : exec (.bgCalDwell fits) s = execBgCalDwell fits s := rfl
theorem exec_recalDwell {array fits} : exec (.recalDwell array fits) s = execRecalDwell array fits s := rfl
theorem exec_calReferenceCheck {ppm} : exec (.calReferenceCheck ppm) s = execCalReferenceCheck ppm s := rfl
theorem exec_calAttemptEnd {fits} : exec (.calAttemptEnd fits) s = execCalAttemptEnd fits s := rfl
theorem exec_calTrimLoad : exec (.calTrimLoad) s = execCalTrimLoad s := rfl
theorem exec_selfTestPhaseEnd {phase unit found} : exec (.selfTestPhaseEnd phase unit found) s = execSelfTestPhaseEnd phase unit found s := rfl
theorem exec_sweepRound {kind unit slots devs digest} : exec (.sweepRound kind unit slots devs digest) s = execSweepRound kind unit slots devs digest s := rfl
theorem exec_sweepDigest {kind unit rerunsAgree} : exec (.sweepDigest kind unit rerunsAgree) s = execSweepDigest kind unit rerunsAgree s := rfl
theorem exec_sweepSubinterval : exec (.sweepSubinterval) s = execSweepSubinterval s := rfl
theorem exec_hbmPatrol {addr corrected} : exec (.hbmPatrol addr corrected) s = execHbmPatrol addr corrected s := rfl
theorem exec_hbmUncorrectable {site} : exec (.hbmUncorrectable site) s = execHbmUncorrectable site s := rfl
theorem exec_hbmStackFail {stack} : exec (.hbmStackFail stack) s = execHbmStackFail stack s := rfl
theorem exec_tileParityError {tile line} : exec (.tileParityError tile line) s = execTileParityError tile line s := rfl
theorem exec_meshParityError {sent link got} : exec (.meshParityError sent link got) s = execMeshParityError sent link got s := rfl
theorem exec_hostReadFail {read} : exec (.hostReadFail read) s = execHostReadFail read s := rfl
theorem exec_hostReadRetryResult {ok} : exec (.hostReadRetryResult ok) s = execHostReadRetryResult ok s := rfl
theorem exec_errorRaise {e} : exec (.errorRaise e) s = execErrorRaise e s := rfl
theorem exec_handlerEnd : exec (.handlerEnd) s = execHandlerEnd s := rfl
theorem exec_handlerTimeout : exec (.handlerTimeout) s = execHandlerTimeout s := rfl
theorem exec_rootAttemptStart : exec (.rootAttemptStart) s = execRootAttemptStart s := rfl
theorem exec_rootAttemptTimeout : exec (.rootAttemptTimeout) s = execRootAttemptTimeout s := rfl
theorem exec_rootSeriesRetry : exec (.rootSeriesRetry) s = execRootSeriesRetry s := rfl
theorem exec_monitorWindow {pll count} : exec (.monitorWindow pll count) s = execMonitorWindow pll count s := rfl
theorem exec_missingEdgeTrip : exec (.missingEdgeTrip) s = execMissingEdgeTrip s := rfl
theorem exec_lockLostTrip {pll} : exec (.lockLostTrip pll) s = execLockLostTrip pll s := rfl
theorem exec_lane0EnterL0 : exec (.lane0EnterL0) s = execLane0EnterL0 s := rfl
theorem exec_lane0LeaveL0 : exec (.lane0LeaveL0) s = execLane0LeaveL0 s := rfl
theorem exec_dividerStep : exec (.dividerStep) s = execDividerStep s := rfl
theorem exec_hbmRecovery {badRow} : exec (.hbmRecovery badRow) s = execHbmRecovery badRow s := rfl
theorem exec_v12Rise {tenMv} : exec (.v12Rise tenMv) s = execV12Rise tenMv s := rfl
theorem exec_railPowerGood {rail} : exec (.railPowerGood rail) s = execRailPowerGood rail s := rfl
theorem exec_railEnableTimeout {rail} : exec (.railEnableTimeout rail) s = execRailEnableTimeout rail s := rfl
theorem exec_railReenable {rail} : exec (.railReenable rail) s = execRailReenable rail s := rfl
theorem exec_perstAssert : exec (.perstAssert) s = execPerstAssert s := rfl
theorem exec_perstDeassert : exec (.perstDeassert) s = execPerstDeassert s := rfl
theorem exec_hotReset : exec (.hotReset) s = execHotReset s := rfl
theorem exec_bootComplete {ms failed} : exec (.bootComplete ms failed) s = execBootComplete ms failed s := rfl
theorem exec_railFailRun {rail tenMv} : exec (.railFailRun rail tenMv) s = execRailFailRun rail tenMv s := rfl
theorem exec_pwrInputLow {tenMv} : exec (.pwrInputLow tenMv) s = execPwrInputLow tenMv s := rfl
theorem exec_inputRecovered : exec (.inputRecovered) s = execInputRecovered s := rfl
theorem exec_inputLoss {tenMv} : exec (.inputLoss tenMv) s = execInputLoss tenMv s := rfl
theorem exec_senseChange {ok} : exec (.senseChange ok) s = execSenseChange ok s := rfl
theorem exec_railFallen {rail} : exec (.railFallen rail) s = execRailFallen rail s := rfl
theorem exec_railFallTimeout {rail} : exec (.railFallTimeout rail) s = execRailFallTimeout rail s := rfl
theorem exec_wake : exec (.wake) s = execWake s := rfl
theorem exec_hostLinkRetrain {rate width cause} : exec (.hostLinkRetrain rate width cause) s = execHostLinkRetrain rate width cause s := rfl
theorem exec_modulePresent {cage} : exec (.modulePresent cage) s = execModulePresent cage s := rfl
theorem exec_moduleRemoved {cage} : exec (.moduleRemoved cage) s = execModuleRemoved cage s := rfl
theorem exec_cageOvercurrent {cage} : exec (.cageOvercurrent cage) s = execCageOvercurrent cage s := rfl
theorem exec_thmUpdate {t} : exec (.thmUpdate t) s = execThmUpdate t s := rfl
theorem exec_coefficientAdjust {measured modelled} : exec (.coefficientAdjust measured modelled) s = execCoefficientAdjust measured modelled s := rfl
theorem exec_sensorInvalid {x} : exec (.sensorInvalid x) s = execSensorInvalid x s := rfl
theorem exec_flueLoadWindow : exec .flueLoadWindow s = execFlueLoadWindow s := rfl
theorem exec_tableUpdateApply {ctx} : exec (.tableUpdateApply ctx) s = execTableUpdateApply ctx s := rfl
theorem exec_logEvent {code domain data} : exec (.logEvent code domain data) s = execLogEvent code domain data s := rfl
theorem exec_logRecordTimeout : exec (.logRecordTimeout) s = execLogRecordTimeout s := rfl
theorem exec_logFlashWrite : exec (.logFlashWrite) s = execLogFlashWrite s := rfl
theorem exec_logRecordsLost : exec (.logRecordsLost) s = execLogRecordsLost s := rfl
theorem exec_logFreezeTimeout : exec (.logFreezeTimeout) s = execLogFreezeTimeout s := rfl
theorem exec_portTrained {port} : exec (.portTrained port) s = execPortTrained port s := rfl
theorem exec_trainFrame {port p} : exec (.trainFrame port p) s = execTrainFrame port p s := rfl
theorem exec_portRetrain {port} : exec (.portRetrain port) s = execPortRetrain port s := rfl
theorem exec_joinTimeout {ring seq} : exec (.joinTimeout ring seq) s = execJoinTimeout ring seq s := rfl
theorem exec_announceSend {port} : exec (.announceSend port) s = execAnnounceSend port s := rfl
theorem exec_announceFrame {port chimneyId role peerPort mac} : exec (.announceFrame port chimneyId role peerPort mac) s = execAnnounceFrame port chimneyId role peerPort mac s := rfl
theorem exec_linkFrame {l flags lack} : exec (.linkFrame l flags lack) s = execLinkFrame l flags lack s := rfl
theorem exec_lackReport {l} : exec (.lackReport l) s = execLackReport l s := rfl
theorem exec_frameReceive {l bytes room} : exec (.frameReceive l bytes room) s = execFrameReceive l bytes room s := rfl
theorem exec_frameForward {port bytes} : exec (.frameForward port bytes) s = execFrameForward port bytes s := rfl
theorem exec_retransmitTimeout {l} : exec (.retransmitTimeout l) s = execRetransmitTimeout l s := rfl
theorem exec_fullResend {l} : exec (.fullResend l) s = execFullResend l s := rfl
theorem exec_lnkRetryExhausted {l} : exec (.lnkRetryExhausted l) s = execLnkRetryExhausted l s := rfl
theorem exec_startFrame : exec (.startFrame) s = execStartFrame s := rfl
theorem exec_doneFrame : exec (.doneFrame) s = execDoneFrame s := rfl
theorem exec_commitFrame : exec (.commitFrame) s = execCommitFrame s := rfl
theorem exec_abortFrame : exec (.abortFrame) s = execAbortFrame s := rfl
theorem exec_abortAck : exec (.abortAck) s = execAbortAck s := rfl
theorem exec_stepTimeout {step} : exec (.stepTimeout step) s = execStepTimeout step s := rfl
theorem exec_heartbeatSend : exec (.heartbeatSend) s = execHeartbeatSend s := rfl
theorem exec_heartbeatFrame : exec (.heartbeatFrame) s = execHeartbeatFrame s := rfl
theorem exec_heartbeatSilence {role} : exec (.heartbeatSilence role) s = execHeartbeatSilence role s := rfl
theorem exec_fenceFrame : exec (.fenceFrame) s = execFenceFrame s := rfl
theorem exec_dataFrame : exec (.dataFrame) s = execDataFrame s := rfl
theorem exec_creditFrame : exec (.creditFrame) s = execCreditFrame s := rfl
theorem exec_gatherReq : exec (.gatherReq) s = execGatherReq s := rfl
theorem exec_gatherRsp : exec (.gatherRsp) s = execGatherRsp s := rfl
theorem exec_tupdateFrame : exec (.tupdateFrame) s = execTupdateFrame s := rfl
theorem exec_mirrorFrame : exec (.mirrorFrame) s = execMirrorFrame s := rfl
theorem exec_mirrorAck : exec (.mirrorAck) s = execMirrorAck s := rfl
theorem exec_mirrorFree : exec (.mirrorFree) s = execMirrorFree s := rfl
theorem exec_xferFrame : exec (.xferFrame) s = execXferFrame s := rfl
theorem exec_regulatorFaultDown {rail} : exec (.regulatorFaultDown rail) s = execRegulatorFaultDown rail s := rfl
theorem exec_v3p3AuxChange {present} : exec (.v3p3AuxChange present) s = execV3p3AuxChange present s := rfl
theorem exec_lossOfSignal {port} : exec (.lossOfSignal port) s = execLossOfSignal port s := rfl
theorem exec_smbusRefresh : exec (.smbusRefresh) s = execSmbusRefresh s := rfl
theorem exec_chimneyContextReady {stepNs caps} : exec (.chimneyContextReady stepNs caps) s = execChimneyContextReady stepNs caps s := rfl

end Sys2Proof.Machine
end

