-- ==== Sys2Proof/Laws/Sparse.lean ====
section
/-! SUPPORT. The laws of the sparse maps and of byte memory: reading after writing, and that every operation keeps the canonical
form. -/

namespace Sys2Proof.Machine

variable {α : Type}

/-! ## Reading after writing -/

theorem get_erase_same (d : α) (m : SMap α) (k : Nat) : get d (erase m k) k = d := by
  induction m with
  | nil => rfl
  | cons e m ih =>
    obtain ⟨j, v⟩ := e
    by_cases h : j = k <;> simp [erase, get, h, ih]

theorem get_erase_other (d : α) (m : SMap α) {k j : Nat} (h : j ≠ k) : get d (erase m k) j = get d m j := by
  induction m with
  | nil => rfl
  | cons e m ih =>
    obtain ⟨i, v⟩ := e
    by_cases hk : i = k
    · simp [erase, get, hk, ih, h.symm]
    · by_cases hj : i = j
      · subst hj; simp [erase, get, hk]
      · simp [erase, get, hk, hj, ih]

theorem get_insert_same (d : α) (m : SMap α) (k : Nat) (v : α) (hk : ∀ e ∈ m, e.1 ≠ k) : get d (insert k v m) k = v := by
  induction m with
  | nil => simp [insert, get]
  | cons e m ih =>
    obtain ⟨j, w⟩ := e
    have hj : j ≠ k := hk (j, w) (by simp)
    by_cases h : k < j
    · simp [insert, get, h]
    · simp [insert, get, h, hj, ih fun e he => hk e (by simp [he])]

theorem get_insert_other (d : α) (m : SMap α) {k j : Nat} (v : α) (h : j ≠ k) : get d (insert k v m) j = get d m j := by
  induction m with
  | nil => simp [insert, get, h.symm]
  | cons e m ih =>
    obtain ⟨i, w⟩ := e
    by_cases hk : k < i
    · simp [insert, get, hk, h.symm]
    · by_cases hj : i = j
      · subst hj; simp [insert, get, hk]
      · simp [insert, get, hk, hj, ih]

theorem erase_keys (m : SMap α) (k : Nat) : ∀ e ∈ erase m k, e.1 ≠ k := by
  induction m with
  | nil => simp [erase]
  | cons e m ih =>
    obtain ⟨j, v⟩ := e
    by_cases h : j = k
    · simpa [erase, h] using ih
    · simp only [erase, h, if_false, List.mem_cons]
      rintro e (rfl | he)
      · exact h
      · exact ih e he

/-- What was written is read back. -/
@[simp] theorem get_put_same [DecidableEq α] (d : α) (m : SMap α) (k : Nat) (v : α) : get d (put d m k v) k = v := by
  by_cases h : v = d
  · simp [put, h, get_erase_same]
  · simp [put, h, get_insert_same d _ k v (erase_keys m k)]

/-- Every other key reads as before. -/
theorem get_put_other [DecidableEq α] (d : α) (m : SMap α) {k j : Nat} (v : α) (h : j ≠ k) : get d (put d m k v) j = get d m j := by
  by_cases hv : v = d
  · simp [put, hv, get_erase_other d m h]
  · simp [put, hv, get_insert_other d _ v h, get_erase_other d m h]

/-- A key after a write, in one equation. -/
theorem get_put [DecidableEq α] (d : α) (m : SMap α) (k j : Nat) (v : α) :
    get d (put d m k v) j = if j = k then v else get d m j := by
  by_cases h : j = k
  · subst h; simp
  · simp [h, get_put_other d m v h]

/-! ## The canonical form -/

/-- The canonical form in terms of the list: keys strictly rising, no default listed. -/
theorem wf_iff [DecidableEq α] (d : α) (m : SMap α) :
    wf d m = true ↔ m.Pairwise (fun a b => a.1 < b.1) ∧ ∀ e ∈ m, e.2 ≠ d := by
  induction m with
  | nil => simp [wf]
  | cons e m ih =>
    obtain ⟨j, v⟩ := e
    cases m with
    | nil => simp [wf]
    | cons f m =>
      obtain ⟨k, w⟩ := f
      simp only [wf, Bool.and_eq_true, decide_eq_true_eq, ih]
      constructor
      · rintro ⟨⟨hjk, hv⟩, hp, hd⟩
        refine ⟨List.pairwise_cons.2 ⟨?_, hp⟩, ?_⟩
        · intro e he
          rcases List.mem_cons.1 he with rfl | he
          · exact hjk
          · exact lt_trans hjk ((List.pairwise_cons.1 hp).1 e he)
        · intro e he
          rcases List.mem_cons.1 he with rfl | he
          · exact hv
          · exact hd e he
      · rintro ⟨hp, hd⟩
        have hp' := List.pairwise_cons.1 hp
        exact ⟨⟨hp'.1 (k, w) (by simp), hd (j, v) (by simp)⟩, hp'.2, fun e he => hd e (by simp [he])⟩

theorem erase_sublist (m : SMap α) (k : Nat) : (erase m k).Sublist m := by
  induction m with
  | nil => simp [erase]
  | cons e m ih =>
    obtain ⟨j, v⟩ := e
    by_cases h : j = k
    · simpa [erase, h] using ih.cons (j, v)
    · simpa [erase, h] using ih.cons_cons (j, v)

theorem mem_insert (m : SMap α) (k : Nat) (v : α) (e : Nat × α) : e ∈ insert k v m ↔ e = (k, v) ∨ e ∈ m := by
  induction m with
  | nil => simp [insert]
  | cons f m ih =>
    obtain ⟨j, w⟩ := f
    by_cases h : k < j
    · simp [insert, h]
    · simp [insert, h, ih, or_left_comm]

theorem insert_pairwise (m : SMap α) (k : Nat) (v : α) (hm : m.Pairwise (fun a b => a.1 < b.1)) (hk : ∀ e ∈ m, e.1 ≠ k) :
    (insert k v m).Pairwise (fun a b => a.1 < b.1) := by
  induction m with
  | nil => simp [insert]
  | cons e m ih =>
    obtain ⟨j, w⟩ := e
    have hp := List.pairwise_cons.1 hm
    by_cases h : k < j
    · simp only [insert, h, if_true]
      refine List.pairwise_cons.2 ⟨?_, hm⟩
      intro e he
      rcases List.mem_cons.1 he with rfl | he
      · exact h
      · exact lt_trans h (hp.1 e he)
    · simp only [insert, h, if_false]
      refine List.pairwise_cons.2 ⟨?_, ih hp.2 fun e he => hk e (by simp [he])⟩
      intro e he
      have hj : j ≠ k := hk (j, w) (by simp)
      rcases (mem_insert m k v e).1 he with rfl | he
      · show j < k
        omega
      · exact hp.1 e he

/-- Removing an entry keeps the canonical form. -/
@[simp] theorem wf_erase [DecidableEq α] {d : α} {m : SMap α} (k : Nat) (h : wf d m = true) : wf d (erase m k) = true := by
  obtain ⟨hp, hd⟩ := (wf_iff d m).1 h
  have hs := erase_sublist m k
  exact (wf_iff d _).2 ⟨hp.sublist hs, fun e he => hd e (hs.subset he)⟩

/-- Writing a key keeps the canonical form. -/
@[simp] theorem wf_put [DecidableEq α] {d : α} {m : SMap α} (k : Nat) (v : α) (h : wf d m = true) : wf d (put d m k v) = true := by
  by_cases hv : v = d
  · simpa [put, hv] using wf_erase k h
  · have he := (wf_iff d _).1 (wf_erase k h)
    have hk := erase_keys m k
    simp only [put, hv, if_false]
    refine (wf_iff d _).2 ⟨insert_pairwise _ k v he.1 hk, ?_⟩
    intro e hm
    rcases (mem_insert _ k v e).1 hm with rfl | hm
    · exact hv
    · exact he.2 e hm

/-- Dropping entries keeps the canonical form. -/
@[simp] theorem wf_filter [DecidableEq α] {d : α} {m : SMap α} (p : Nat × α → Bool) (h : wf d m = true) : wf d (m.filter p) = true := by
  obtain ⟨hp, hd⟩ := (wf_iff d m).1 h
  exact (wf_iff d _).2 ⟨hp.sublist List.filter_sublist, fun e he => hd e (List.mem_filter.1 he).1⟩

/-- Two canonical maps that read the same at every key are the same list. -/
theorem wf_ext [DecidableEq α] {d : α} {m n : SMap α} (hm : wf d m = true) (hn : wf d n = true)
    (h : ∀ k, get d m k = get d n k) : m = n := by
  have low : ∀ (l : SMap α) (j : Nat), (∀ e ∈ l, j < e.1) → get d l j = d := by
    intro l j hl
    induction l with
    | nil => rfl
    | cons e l ih =>
      obtain ⟨i, v⟩ := e
      have hi : i ≠ j := by have := hl (i, v) (by simp); simp at this; omega
      simp [get, hi, ih fun e he => hl e (by simp [he])]
  obtain ⟨pm, dm⟩ := (wf_iff d m).1 hm
  obtain ⟨pn, dn⟩ := (wf_iff d n).1 hn
  clear hm hn
  induction m generalizing n with
  | nil =>
    cases n with
    | nil => rfl
    | cons e n =>
      obtain ⟨k, v⟩ := e
      exact absurd (by simpa [get] using (h k).symm) (dn (k, v) (by simp))
  | cons e m ih =>
    obtain ⟨j, v⟩ := e
    cases n with
    | nil => exact absurd (by simpa [get] using h j) (dm (j, v) (by simp))
    | cons f n =>
      obtain ⟨k, w⟩ := f
      have pm' := List.pairwise_cons.1 pm
      have pn' := List.pairwise_cons.1 pn
      have hjk : j = k := by
        rcases lt_trichotomy j k with hl | hl | hl
        · exfalso
          refine dm (j, v) (by simp) ?_
          have := h j
          rw [low ((k, w) :: n) j (by
            intro e he
            rcases List.mem_cons.1 he with rfl | he
            · exact hl
            · exact lt_trans hl (pn'.1 e he))] at this
          simpa [get] using this
        · exact hl
        · exfalso
          refine dn (k, w) (by simp) ?_
          have := h k
          rw [low ((j, v) :: m) k (by
            intro e he
            rcases List.mem_cons.1 he with rfl | he
            · exact hl
            · exact lt_trans hl (pm'.1 e he))] at this
          simpa [get] using this.symm
      subst hjk
      have hvw : v = w := by simpa [get] using h j
      subst hvw
      congr 1
      refine ih (n := n) ?_ pm'.2 (fun e he => dm e (by simp [he])) pn'.2 (fun e he => dn e (by simp [he]))
      intro i
      by_cases hi : j = i
      · subst hi
        rw [low m j pm'.1, low n j pn'.1]
      · simpa [get, hi] using h i

/-! ## Byte memory -/

namespace Mem

/-- A byte outside the stored ones reads as before. -/
theorem byte_write_other (m : Mem) (a : Nat) (bs : List Byte) (b : Nat) (h : b < a ∨ a + bs.length ≤ b) :
    byte (write m a bs) b = byte m b := by
  induction bs generalizing m a with
  | nil => rfl
  | cons x bs ih =>
    simp only [List.length_cons] at h
    rw [write, ih _ _ (by omega)]
    exact get_put_other dflt m x (by omega)

/-- A stored byte reads back. -/
theorem byte_write_same (m : Mem) (a : Nat) (bs : List Byte) (i : Nat) (h : i < bs.length) :
    byte (write m a bs) (a + i) = bs[i] := by
  induction bs generalizing m a i with
  | nil => simp at h
  | cons x bs ih =>
    cases i with
    | zero =>
      rw [write, byte_write_other _ _ _ _ (by omega)]
      simp [byte]
    | succ i =>
      have := ih (put dflt m a x) (a + 1) i (by simpa using h)
      simpa [write, Nat.add_assoc, Nat.add_comm 1 i] using this

@[simp] theorem read_length (m : Mem) (a n : Nat) : (read m a n).length = n := by
  induction n generalizing a with
  | zero => rfl
  | succ n ih => simp [read, ih]

/-- What was written is read back. -/
theorem read_write_same (m : Mem) (a : Nat) (bs : List Byte) : read (write m a bs) a bs.length = bs := by
  have key : ∀ (k : Nat) (l : List Byte), (∀ i (hi : i < l.length), byte (write m a bs) (a + k + i) = l[i]) →
      read (write m a bs) (a + k) l.length = l := by
    intro k l
    induction l generalizing k with
    | nil => intro _; rfl
    | cons x l ih =>
      intro h
      have h0 := h 0 (by simp)
      simp only [Nat.add_zero, List.getElem_cons_zero] at h0
      simp only [List.length_cons, read, h0]
      congr 1
      have := ih (k + 1) (by
        intro i hi
        have := h (i + 1) (by simp; omega)
        simpa [Nat.add_assoc, Nat.add_comm 1 i] using this)
      simpa [Nat.add_assoc] using this
  simpa using key 0 bs (by intro i hi; simpa using byte_write_same m a bs i hi)

/-- A read that does not meet the stored bytes gives what it gave before. -/
theorem read_write_other (m : Mem) (a : Nat) (bs : List Byte) (b n : Nat) (h : b + n ≤ a ∨ a + bs.length ≤ b) :
    read (write m a bs) b n = read m b n := by
  induction n generalizing b with
  | zero => rfl
  | succ n ih => rw [read, read, byte_write_other m a bs b (by omega), ih (b + 1) (by omega)]

/-- Every memory operation keeps the canonical form. -/
@[simp] theorem wf_write (m : Mem) (a : Nat) (bs : List Byte) (h : wf m = true) : wf (write m a bs) = true := by
  induction bs generalizing m a with
  | nil => exact h
  | cons x bs ih => exact ih _ _ (wf_put a x h)

end Mem

end Sys2Proof.Machine
end

