-- ==== Sys2Proof/Laws/Keep/Base.lean ====
section
/-! SUPPORT. What every operation keeps: the queue of waiting commands, and the canonical form of the state. The base: the record
itself, its access functions, and folds. One lemma per operation follows in the files of this folder, by the model's own files. -/

namespace Sys2Proof.Machine

/-- A state whose queue is `p` and which is canonical. -/
structure Kept (p : List Instr) (s : State) : Prop where
  pend : s.pending = p
  canon : s.Canon

variable {p : List Instr} {s : State}

theorem Kept.hostMem (h : Kept p s) : Mem.wf s.hostMem = true := h.canon.hostMem
theorem Kept.cells (h : Kept p s) : wf 0 s.cells = true := h.canon.cells
theorem Kept.gold (h : Kept p s) : wf 0 s.gold = true := h.canon.gold
theorem Kept.fns (h : Kept p s) : wf none s.fns = true := h.canon.fns
theorem Kept.rings (h : Kept p s) : wf none s.rings = true := h.canon.rings
theorem Kept.ctxs (h : Kept p s) : wf none s.ctxs = true := h.canon.ctxs
theorem Kept.tiles (h : Kept p s) : wf none s.tiles = true := h.canon.tiles
theorem Kept.arrs (h : Kept p s) : wf none s.arrs = true := h.canon.arrs
theorem Kept.flues (h : Kept p s) : wf none s.flues = true := h.canon.flues
theorem Kept.reqs (h : Kept p s) : wf none s.reqs = true := h.canon.reqs
theorem Kept.pages (h : Kept p s) : wf none s.kv.pages = true := h.canon.pages
theorem Kept.tileMem (h : Kept p s) : tilesOk s.tiles := h.canon.tileMem

/-- An updated record keeps if the record it comes from does, with what the changed stores ask. -/
theorem kept_upd {t : State} (h : Kept p t) (x1 : Nat) (x2 : List Nat) (x3 : Mem) (x4 : Dev) (x5 : Clk) (x6 : Pwr) (x7 : Thm) (x8 : Mantel) (x9 : Err) (x10 : HostIf) (x11 : SMap (Option Fn)) (x12 : SMap (Option Ring)) (x13 : List Cmd) (x14 : Nat) (x15 : Nat) (x16 : Bool) (x17 : SMap (Option Ctx)) (x18 : SMap (Option Tile)) (x19 : SMap Nat) (x20 : SMap Nat) (x21 : SMap (Option Arr)) (x22 : SMap (Option Flue)) (x23 : List Flit) (x24 : Kv) (x25 : SMap (Option Req)) (x26 : Serve) (x27 : Cal) (x28 : Sweep) (x29 : Option SelfTest) (x30 : Chim)
    (h3 : x3 = t.hostMem ∨ (Mem.wf t.hostMem = true → Mem.wf x3 = true))
    (h19 : x19 = t.cells ∨ (wf 0 t.cells = true → wf 0 x19 = true))
    (h20 : x20 = t.gold ∨ (wf 0 t.gold = true → wf 0 x20 = true))
    (h11 : x11 = t.fns ∨ (wf none t.fns = true → wf none x11 = true))
    (h12 : x12 = t.rings ∨ (wf none t.rings = true → wf none x12 = true))
    (h17 : x17 = t.ctxs ∨ (wf none t.ctxs = true → wf none x17 = true))
    (h18 : x18 = t.tiles ∨ (wf none t.tiles = true → tilesOk t.tiles → wf none x18 = true ∧ tilesOk x18))
    (h21 : x21 = t.arrs ∨ (wf none t.arrs = true → wf none x21 = true))
    (h22 : x22 = t.flues ∨ (wf none t.flues = true → wf none x22 = true))
    (h25 : x25 = t.reqs ∨ (wf none t.reqs = true → wf none x25 = true))
    (h24 : x24.pages = t.kv.pages ∨ (wf none t.kv.pages = true → wf none x24.pages = true)) :
    Kept p (State.mk t.pending x1 x2 x3 x4 x5 x6 x7 x8 x9 x10 x11 x12 x13 x14 x15 x16 x17 x18 x19 x20 x21 x22 x23 x24 x25 x26 x27 x28 x29 x30) := by
  have h18' : wf none x18 = true ∧ tilesOk x18 := by
    rcases h18 with rfl | h18
    · exact ⟨h.tiles, h.tileMem⟩
    · exact h18 h.tiles h.tileMem
  refine ⟨h.pend, ⟨?_, ?_, ?_, ?_, ?_, ?_, h18'.1, ?_, ?_, ?_, ?_, h18'.2⟩⟩
  · rcases h3 with rfl | h3; exacts [h.hostMem, h3 h.hostMem]
  · rcases h19 with rfl | h3; exacts [h.cells, h3 h.cells]
  · rcases h20 with rfl | h3; exacts [h.gold, h3 h.gold]
  · rcases h11 with rfl | h3; exacts [h.fns, h3 h.fns]
  · rcases h12 with rfl | h3; exacts [h.rings, h3 h.rings]
  · rcases h17 with rfl | h3; exacts [h.ctxs, h3 h.ctxs]
  · rcases h21 with rfl | h3; exacts [h.arrs, h3 h.arrs]
  · rcases h22 with rfl | h3; exacts [h.flues, h3 h.flues]
  · rcases h25 with rfl | h3; exacts [h.reqs, h3 h.reqs]
  · rcases h24 with e | h3
    · simp only [e]; exact h.pages
    · exact h3 h.pages

/-- `Kept` of a record written out. -/
def KeptMk (p : List Instr) (s : State) : Prop := Kept p s

theorem kept_mk_iff (x0 : List Instr) (x1 : Nat) (x2 : List Nat) (x3 : Mem) (x4 : Dev) (x5 : Clk) (x6 : Pwr) (x7 : Thm) (x8 : Mantel) (x9 : Err) (x10 : HostIf) (x11 : SMap (Option Fn)) (x12 : SMap (Option Ring)) (x13 : List Cmd) (x14 : Nat) (x15 : Nat) (x16 : Bool) (x17 : SMap (Option Ctx)) (x18 : SMap (Option Tile)) (x19 : SMap Nat) (x20 : SMap Nat) (x21 : SMap (Option Arr)) (x22 : SMap (Option Flue)) (x23 : List Flit) (x24 : Kv) (x25 : SMap (Option Req)) (x26 : Serve) (x27 : Cal) (x28 : Sweep) (x29 : Option SelfTest) (x30 : Chim) :
    Kept p (State.mk x0 x1 x2 x3 x4 x5 x6 x7 x8 x9 x10 x11 x12 x13 x14 x15 x16 x17 x18 x19 x20 x21 x22 x23 x24 x25 x26 x27 x28 x29 x30) ↔ KeptMk p (State.mk x0 x1 x2 x3 x4 x5 x6 x7 x8 x9 x10 x11 x12 x13 x14 x15 x16 x17 x18 x19 x20 x21 x22 x23 x24 x25 x26 x27 x28 x29 x30) := Iff.rfl

/-- The same, with what the changed stores ask in one conjunction. -/
theorem kept_upd' {t : State} {x1 : Nat} {x2 : List Nat} {x3 : Mem} {x4 : Dev} {x5 : Clk} {x6 : Pwr} {x7 : Thm} {x8 : Mantel} {x9 : Err} {x10 : HostIf} {x11 : SMap (Option Fn)} {x12 : SMap (Option Ring)} {x13 : List Cmd} {x14 : Nat} {x15 : Nat} {x16 : Bool} {x17 : SMap (Option Ctx)} {x18 : SMap (Option Tile)} {x19 : SMap Nat} {x20 : SMap Nat} {x21 : SMap (Option Arr)} {x22 : SMap (Option Flue)} {x23 : List Flit} {x24 : Kv} {x25 : SMap (Option Req)} {x26 : Serve} {x27 : Cal} {x28 : Sweep} {x29 : Option SelfTest} {x30 : Chim} (h : Kept p t)
    (hx : (x3 = t.hostMem ∨ (Mem.wf t.hostMem = true → Mem.wf x3 = true)) ∧
      (x19 = t.cells ∨ (wf 0 t.cells = true → wf 0 x19 = true)) ∧
      (x20 = t.gold ∨ (wf 0 t.gold = true → wf 0 x20 = true)) ∧
      (x11 = t.fns ∨ (wf none t.fns = true → wf none x11 = true)) ∧
      (x12 = t.rings ∨ (wf none t.rings = true → wf none x12 = true)) ∧
      (x17 = t.ctxs ∨ (wf none t.ctxs = true → wf none x17 = true)) ∧
      (x18 = t.tiles ∨ (wf none t.tiles = true → tilesOk t.tiles → wf none x18 = true ∧ tilesOk x18)) ∧
      (x21 = t.arrs ∨ (wf none t.arrs = true → wf none x21 = true)) ∧
      (x22 = t.flues ∨ (wf none t.flues = true → wf none x22 = true)) ∧
      (x25 = t.reqs ∨ (wf none t.reqs = true → wf none x25 = true)) ∧
      (x24.pages = t.kv.pages ∨ (wf none t.kv.pages = true → wf none x24.pages = true))) :
    KeptMk p (State.mk t.pending x1 x2 x3 x4 x5 x6 x7 x8 x9 x10 x11 x12 x13 x14 x15 x16 x17 x18 x19 x20 x21 x22 x23 x24 x25 x26 x27 x28 x29 x30) := by
  obtain ⟨h3, h19, h20, h11, h12, h17, h18, h21, h22, h25, h24⟩ := hx
  exact kept_upd h _ _ _ _ _ _ _ _ _ _ _ _ _ _ _ _ _ _ _ _ _ _ _ _ _ _ _ _ _ _ h3 h19 h20 h11 h12 h17 h18 h21 h22 h25 h24

/-- Changing the values of a store in place keeps its form. -/
@[simp] theorem wf_mapVals {α : Type} [DecidableEq α] {m : SMap (Option α)} (f : Nat → α → α) (h : wf none m = true) :
    wf none (m.map fun e => (e.1, e.2.map (f e.1))) = true := by
  obtain ⟨hp, hd⟩ := (wf_iff none m).1 h
  refine (wf_iff none _).2 ⟨?_, ?_⟩
  · rw [List.pairwise_map]
    exact hp.imp fun h => h
  · intro e he
    obtain ⟨a, ha, rfl⟩ := List.mem_map.1 he
    have := hd a ha
    cases h2 : a.2 with
    | none => exact absurd h2 this
    | some v => simp [h2]

@[simp] theorem wf_mapVals' {α : Type} [DecidableEq α] {m : SMap (Option α)} (f : α → α) (h : wf none m = true) :
    wf none (m.map fun e => (e.1, e.2.map f)) = true := wf_mapVals (fun _ => f) h

@[simp] theorem wf_nil {α : Type} [DecidableEq α] (d : α) : wf d [] = true := rfl

@[simp] theorem tilesOk_nil : tilesOk [] := by intro e he; simp at he

theorem mem_put {α : Type} [DecidableEq α] {d : α} {m : SMap α} {k : Nat} {v : α} {e : Nat × α} (h : e ∈ put d m k v) :
    e = (k, v) ∨ e ∈ m := by
  unfold put at h
  split at h
  · exact .inr ((erase_sublist m k).subset h)
  · rcases (mem_insert _ _ _ _).1 h with h | h
    · exact .inl h
    · exact .inr ((erase_sublist m k).subset h)

theorem tilesOk_store {m : SMap (Option Tile)} (k : Nat) (v : Option Tile) (h : tilesOk m)
    (hv : ∀ t, v = some t → Mem.wf t.mem = true) : tilesOk (store m k v) := by
  intro e he t ht
  rcases mem_put he with rfl | he
  · exact hv t ht
  · exact h e he t ht

theorem get_mem {α : Type} {d : α} {m : SMap α} {k : Nat} (h : get d m k ≠ d) : (k, get d m k) ∈ m := by
  induction m with
  | nil => simp [get] at h
  | cons e m ih =>
    obtain ⟨j, v⟩ := e
    by_cases hj : j = k
    · subst hj; simp [get]
    · simp only [get, hj, if_false] at h ⊢
      exact List.mem_cons_of_mem _ (ih h)

/-- A tile read from a canonical state has its memory in canonical form. -/
theorem Kept.tile (h : Kept p s) (i : Nat) : Mem.wf (s.tile i).mem = true := by
  unfold State.tile
  cases hl : look s.tiles i with
  | none => rfl
  | some t =>
    have := get_mem (d := none) (m := s.tiles) (k := i) (by simp [look] at hl; simp [hl])
    exact h.tileMem _ this t (by simpa [look] using hl)

/-- A store whose values change in place, by entry. -/
@[simp] theorem wf_mapE {α : Type} [DecidableEq α] {m : SMap (Option α)} (f : Nat × Option α → α → α) (h : wf none m = true) :
    wf none (m.map fun e => (e.1, e.2.map (f e))) = true := by
  obtain ⟨hp, hd⟩ := (wf_iff none m).1 h
  refine (wf_iff none _).2 ⟨?_, ?_⟩
  · rw [List.pairwise_map]
    exact hp.imp fun h => h
  · intro e he
    obtain ⟨a, ha, rfl⟩ := List.mem_map.1 he
    have := hd a ha
    cases h2 : a.2 with
    | none => exact absurd h2 this
    | some v => simp

/-- Tiles that change in place and keep their memory stay canonical. -/
@[simp] theorem tilesOk_map {m : SMap (Option Tile)} (f : Nat × Option Tile → Tile → Tile) (hf : ∀ e t, (f e t).mem = t.mem) (h : tilesOk m) :
    tilesOk (m.map fun e => (e.1, e.2.map (f e))) := by
  intro e he t ht
  obtain ⟨a, ha, rfl⟩ := List.mem_map.1 he
  cases h2 : a.2 with
  | none => simp [h2] at ht
  | some u =>
    simp only [h2, Option.map_some, Option.some.injEq] at ht
    rw [← ht, hf]
    exact h a ha u h2

/-! ## Control -/

/-- Either branch. -/
@[simp] theorem kept_ite {c : Prop} [Decidable c] {a b : State} : Kept p (if c then a else b) ↔ (c → Kept p a) ∧ (¬c → Kept p b) := by
  split <;> simp [*]

/-- What an operation that may answer nothing keeps. -/
def KeptO (p : List Instr) (o : Option State) : Prop := ∀ t, o = some t → Kept p t

theorem KeptO.of {o : Option State} {t : State} (h : KeptO p o) (e : o = some t) : Kept p t := h t e

theorem keptO_none : KeptO p none := by intro t e; cases e

theorem keptO_some {t : State} (h : Kept p t) : KeptO p (some t) := by intro u e; cases e; exact h

/-- A value that may be absent. -/
theorem kept_elim {α : Type} {o : Option α} {a : State} {f : α → State} (ha : Kept p a) (hf : ∀ x, Kept p (f x)) : Kept p (o.elim a f) := by
  cases o
  · exact ha
  · exact hf _

/-- What a command's answer keeps. -/
def KeptR (p : List Instr) (o : Host.Outcome State Fault Refusal) : Prop := ∀ t, o = .next t → Kept p t

theorem keptR_next {t : State} (h : Kept p t) : KeptR p (.next t) := by intro u e; cases e; exact h

/-- A fact about a named state, first. -/
theorem kept_cut {q r : Prop} (hq : q) (hr : q → r) : r := hr hq

/-- A fold whose every step keeps. -/
@[simp] theorem kept_foldl {α : Type} {l : List α} {f : State → α → State} (h : Kept p s) (hf : ∀ s a, Kept p s → Kept p (f s a)) :
    Kept p (l.foldl f s) := by
  induction l generalizing s with
  | nil => exact h
  | cons a l ih => exact ih (hf s a h)

/-- A fold with accumulators on both sides of the state. -/
@[simp] theorem kept_foldl_mid {α β γ : Type} {l : List α} {f : β × State × γ → α → β × State × γ} {x : β × State × γ} (h : Kept p x.2.1)
    (hf : ∀ x a, Kept p x.2.1 → Kept p (f x a).2.1) : Kept p (l.foldl f x).2.1 := by
  induction l generalizing x with
  | nil => exact h
  | cons a l ih => exact ih (hf x a h)

/-- A fold with an accumulator beside the state. -/
@[simp] theorem kept_foldl_fst {α β : Type} {l : List α} {f : State × β → α → State × β} {x : State × β} (h : Kept p x.1)
    (hf : ∀ x a, Kept p x.1 → Kept p (f x a).1) : Kept p (l.foldl f x).1 := by
  induction l generalizing x with
  | nil => exact h
  | cons a l ih => exact ih (hf x a h)

end Sys2Proof.Machine
end

