-- ==== Sys2Proof/Laws/Keep/Ops.lean ====
section
/-! SUPPORT. What every operation of Machine/Ops.lean keeps. -/

namespace Sys2Proof.Machine

set_option linter.all false

variable {p : List Instr} {s : State}

@[simp] theorem State.updDev_keep (h : Kept p s) (f : Dev → Dev) : Kept p (State.updDev s f) := by
  simp (maxDischargeDepth := 40) +contextual [State.updDev, kept_upd, *]

@[simp] theorem State.updClk_keep (h : Kept p s) (f : Clk → Clk) : Kept p (State.updClk s f) := by
  simp (maxDischargeDepth := 40) +contextual [State.updClk, kept_upd, *]

@[simp] theorem State.updPwr_keep (h : Kept p s) (f : Pwr → Pwr) : Kept p (State.updPwr s f) := by
  simp (maxDischargeDepth := 40) +contextual [State.updPwr, kept_upd, *]

@[simp] theorem State.updThm_keep (h : Kept p s) (f : Thm → Thm) : Kept p (State.updThm s f) := by
  simp (maxDischargeDepth := 40) +contextual [State.updThm, kept_upd, *]

@[simp] theorem State.updLog_keep (h : Kept p s) (f : Mantel → Mantel) : Kept p (State.updLog s f) := by
  simp (maxDischargeDepth := 40) +contextual [State.updLog, kept_upd, *]

@[simp] theorem State.updErr_keep (h : Kept p s) (f : Err → Err) : Kept p (State.updErr s f) := by
  simp (maxDischargeDepth := 40) +contextual [State.updErr, kept_upd, *]

@[simp] theorem State.updHost_keep (h : Kept p s) (f : HostIf → HostIf) : Kept p (State.updHost s f) := by
  simp (maxDischargeDepth := 40) +contextual [State.updHost, kept_upd, *]

@[simp] theorem State.updKv_keep (h : Kept p s) (f : Kv → Kv) (hf : wf none s.kv.pages = true → wf none (f s.kv).pages = true) : Kept p (s.updKv f) := by
  exact kept_upd h _ _ _ _ _ _ _ _ _ _ _ _ _ _ _ _ _ _ _ _ _ _ _ _ _ _ _ _ _ _ (.inl rfl) (.inl rfl) (.inl rfl) (.inl rfl) (.inl rfl) (.inl rfl) (.inl rfl) (.inl rfl) (.inl rfl) (.inl rfl) (.inr hf)

@[simp] theorem State.updServe_keep (h : Kept p s) (f : Serve → Serve) : Kept p (State.updServe s f) := by
  simp (maxDischargeDepth := 40) +contextual [State.updServe, kept_upd, *]

@[simp] theorem State.updCal_keep (h : Kept p s) (f : Cal → Cal) : Kept p (State.updCal s f) := by
  simp (maxDischargeDepth := 40) +contextual [State.updCal, kept_upd, *]

@[simp] theorem State.updSweep_keep (h : Kept p s) (f : Sweep → Sweep) : Kept p (State.updSweep s f) := by
  simp (maxDischargeDepth := 40) +contextual [State.updSweep, kept_upd, *]

@[simp] theorem State.updChim_keep (h : Kept p s) (f : Chim → Chim) : Kept p (State.updChim s f) := by
  simp (maxDischargeDepth := 40) +contextual [State.updChim, kept_upd, *]

@[simp] theorem State.setFn_keep (h : Kept p s) (i : Nat) (f : Fn) : Kept p (State.setFn s i f) := by
  simp (maxDischargeDepth := 40) +contextual [State.setFn, kept_upd, *]

@[simp] theorem State.updFn_keep (h : Kept p s) (i : Nat) (f : Fn → Fn) : Kept p (State.updFn s i f) := by
  simp (maxDischargeDepth := 40) +contextual [State.updFn, kept_upd, *]

@[simp] theorem State.setRing_keep (h : Kept p s) (i : Nat) (r : Option Ring) : Kept p (State.setRing s i r) := by
  simp (maxDischargeDepth := 40) +contextual [State.setRing, kept_upd, *]

@[simp] theorem State.updRing_keep (h : Kept p s) (i : Nat) (f : Ring → Ring) : Kept p (State.updRing s i f) := by
  unfold State.updRing
  split <;> simp (maxDischargeDepth := 40) +contextual [kept_upd, *]

@[simp] theorem State.setCtx_keep (h : Kept p s) (i : Nat) (c : Option Ctx) : Kept p (State.setCtx s i c) := by
  simp (maxDischargeDepth := 40) +contextual [State.setCtx, kept_upd, *]

@[simp] theorem State.updCtx_keep (h : Kept p s) (i : Nat) (f : Ctx → Ctx) : Kept p (State.updCtx s i f) := by
  unfold State.updCtx
  split <;> simp (maxDischargeDepth := 40) +contextual [kept_upd, *]

@[simp] theorem State.setTile_keep (h : Kept p s) (i : Nat) (t : Tile) (ht : Mem.wf t.mem = true) : Kept p (s.setTile i t) := by
  refine kept_upd h _ _ _ _ _ _ _ _ _ _ _ _ _ _ _ _ _ _ _ _ _ _ _ _ _ _ _ _ _ _ (.inl rfl) (.inl rfl) (.inl rfl) (.inl rfl) (.inl rfl) (.inl rfl)
    (.inr fun a b => ⟨wf_put _ _ a, tilesOk_store _ _ b fun u hu => ?_⟩) (.inl rfl) (.inl rfl) (.inl rfl) (.inl rfl)
  split at hu
  · cases hu
  · cases hu; exact ht

@[simp] theorem State.updTile_keep (h : Kept p s) (i : Nat) (f : Tile → Tile) (ht : Mem.wf (s.tile i).mem = true → Mem.wf (f (s.tile i)).mem = true) : Kept p (s.updTile i f) := by
  exact State.setTile_keep h i _ (ht (h.tile i))

@[simp] theorem State.setArr_keep (h : Kept p s) (i : Nat) (a : Arr) : Kept p (State.setArr s i a) := by
  simp (maxDischargeDepth := 40) +contextual [State.setArr, kept_upd, *]

@[simp] theorem State.updArr_keep (h : Kept p s) (i : Nat) (f : Arr → Arr) : Kept p (State.updArr s i f) := by
  simp (maxDischargeDepth := 40) +contextual [State.updArr, kept_upd, *]

@[simp] theorem State.setFlue_keep (h : Kept p s) (i : Nat) (a : Flue) : Kept p (State.setFlue s i a) := by
  simp (maxDischargeDepth := 40) +contextual [State.setFlue, kept_upd, *]

@[simp] theorem State.updFlue_keep (h : Kept p s) (i : Nat) (f : Flue → Flue) : Kept p (State.updFlue s i f) := by
  simp (maxDischargeDepth := 40) +contextual [State.updFlue, kept_upd, *]

@[simp] theorem State.setReq_keep (h : Kept p s) (i : Nat) (r : Option Req) : Kept p (State.setReq s i r) := by
  simp (maxDischargeDepth := 40) +contextual [State.setReq, kept_upd, *]

@[simp] theorem State.updReq_keep (h : Kept p s) (i : Nat) (f : Req → Req) : Kept p (State.updReq s i f) := by
  unfold State.updReq
  split <;> simp (maxDischargeDepth := 40) +contextual [kept_upd, *]

@[simp] theorem State.setPage_keep (h : Kept p s) (i : Nat) (p' : Option Page) : Kept p (State.setPage s i p') := by
  simp (maxDischargeDepth := 40) +contextual [State.setPage, kept_upd, *]

@[simp] theorem State.updPage_keep (h : Kept p s) (i : Nat) (f : Page → Page) : Kept p (State.updPage s i f) := by
  unfold State.updPage
  split <;> simp (maxDischargeDepth := 40) +contextual [kept_upd, *]

@[simp] theorem State.hostWrite_keep (h : Kept p s) (a : Nat) (bs : List Byte) : Kept p (State.hostWrite s a bs) := by
  simp (maxDischargeDepth := 40) +contextual [State.hostWrite, kept_upd, *]

@[simp] theorem State.reply_keep (h : Kept p s) (v : Nat) : Kept p (State.reply s v) := by
  simp (maxDischargeDepth := 40) +contextual [State.reply, kept_upd, *]

@[simp] theorem State.draw_keep (h : Kept p s)  : Kept p (State.draw s).2 := by
  simp (maxDischargeDepth := 40) +contextual [State.draw, kept_upd, *]

theorem State.draw_keep' (h : Kept p s)  {t' : State} {x} (e : State.draw s = (x, t')) : Kept p t' := by
  have := State.draw_keep h 
  rw [e] at this; exact this

@[simp] theorem State.fresh_keep (h : Kept p s)  : Kept p (State.fresh s).2 := by
  simp (maxDischargeDepth := 40) +contextual [State.fresh, kept_upd, *]

theorem State.fresh_keep' (h : Kept p s)  {t' : State} {x} (e : State.fresh s = (x, t')) : Kept p t' := by
  have := State.fresh_keep h 
  rw [e] at this; exact this

@[simp] theorem tick_keep (h : Kept p s)  : Kept p (tick s) := by
  simp (maxDischargeDepth := 40) +contextual [tick, kept_upd, *]

@[simp] theorem goState_keep (h : Kept p s) (st : DevSt) : Kept p (goState s st) := by
  simp (maxDischargeDepth := 40) +contextual [goState, kept_upd, *]

@[simp] theorem forceSafe_keep (h : Kept p s)  : Kept p (forceSafe s) := by
  simp (maxDischargeDepth := 40) +contextual [forceSafe, kept_upd, *]

@[simp] theorem logEvent_keep (h : Kept p s) (code : Nat) (domain : Nat) (data : Nat) : Kept p (logEvent s code domain data) := by
  simp (maxDischargeDepth := 40) +contextual [logEvent, kept_upd, *]

@[simp] theorem logHeld_keep (h : Kept p s)  : Kept p (logHeld s) := by
  simp (maxDischargeDepth := 40) +contextual [logHeld, kept_upd, *]

@[simp] theorem flushLog_keep (h : Kept p s)  : Kept p (flushLog s) := by
  simp (maxDischargeDepth := 40) +contextual [flushLog, kept_upd, *]

@[simp] theorem postRec_keep (h : Kept p s) (ring : Nat) (final : Bool) (notify : Bool) (r : Rec) : Kept p (postRec s ring final notify r) := by
  unfold postRec
  split <;> simp (maxDischargeDepth := 40) +contextual [kept_upd, *]

@[simp] theorem postDups_keep (h : Kept p s) (ring : Nat) (seq : Nat) (r : Rec) : Kept p (postDups s ring seq r) := by
  simp (maxDischargeDepth := 40) +contextual [postDups, kept_upd, *]

@[simp] theorem dropCmd_keep (h : Kept p s) (c : Cmd) : Kept p (dropCmd s c) := by
  simp (maxDischargeDepth := 40) +contextual [dropCmd, kept_upd, *]

@[simp] theorem putCmd_keep (h : Kept p s) (c : Cmd) : Kept p (putCmd s c) := by
  simp (maxDischargeDepth := 40) +contextual [putCmd, kept_upd, *]

@[simp] theorem startAdmin_keep (h : Kept p s) (fn : Nat) : Kept p (startAdmin s fn) := by
  simp (maxDischargeDepth := 40) +contextual [startAdmin, kept_upd, *]

@[simp] theorem sendIrq_keep (h : Kept p s) (fn : Nat) (vector : Nat) : Kept p (sendIrq s fn vector) := by
  unfold sendIrq
  repeat' first | (with_reducible first | assumption) | (extract_lets +onlyGivenNames t; refine kept_cut (q := Kept p t) ?_ fun ht => ?_; (on_goal 2 => clear_value t); on_goal 1 => (simp only [t]; try clear t)) | (extract_lets +onlyGivenNames t; clear_value t) | (with_reducible first | refine kept_ite.2 ⟨fun _ => ?_, fun _ => ?_⟩ | refine State.updFn_keep ?_ .. | refine State.updHost_keep ?_ ..) | dsimp only | (simp only [kept_mk_iff]; with_reducible refine kept_upd' ?_ (by simp (maxDischargeDepth := 40) +contextual)) | split | (simp (maxDischargeDepth := 40) +contextual [kept_upd, *]; done)

@[simp] theorem raiseIrq_keep (h : Kept p s) (ring : Nat) : Kept p (raiseIrq s ring) := by
  unfold raiseIrq
  repeat' first | (with_reducible first | assumption) | (with_reducible first | refine kept_ite.2 ⟨fun _ => ?_, fun _ => ?_⟩ | refine sendIrq_keep ?_ .. | refine State.setRing_keep ?_ ..) | dsimp only | (simp only [kept_mk_iff]; with_reducible refine kept_upd' ?_ (by simp (maxDischargeDepth := 40) +contextual)) | split | (simp (maxDischargeDepth := 40) +contextual [kept_upd, *]; done)

@[simp] theorem raiseAll_keep (h : Kept p s) : Kept p (raiseAll s) := by
  unfold raiseAll
  repeat' first | (with_reducible first | assumption) | (with_reducible first | refine kept_foldl ?_ (fun _ _ _ => ?_) | refine kept_foldl_mid ?_ (fun _ _ _ => ?_) | refine kept_foldl_fst ?_ (fun _ _ _ => ?_) | refine raiseIrq_keep ?_ ..) | dsimp only | split | (simp (maxDischargeDepth := 40) +contextual [kept_upd, *]; done)

@[simp] theorem dropRing_keep (h : Kept p s) (ring : Nat) : Kept p (dropRing s ring) := by
  unfold dropRing
  split <;> simp (maxDischargeDepth := 40) +contextual [kept_upd, *]

@[simp] theorem reap_keep (h : Kept p s) (ring : Nat) : Kept p (reap s ring) := by
  unfold reap
  split <;> simp (maxDischargeDepth := 40) +contextual [kept_upd, *]

@[simp] theorem finishW_keep (h : Kept p s) (c : Cmd) (status : Nat) (result0 : Nat) (warn : Nat) : Kept p (finishW s c status result0 warn) := by
  simp (maxDischargeDepth := 40) +contextual [finishW, kept_upd, *]

@[simp] theorem finish_keep (h : Kept p s) (c : Cmd) (status : Nat) (result0 : Nat) : Kept p (finish s c status result0) := by
  simp (maxDischargeDepth := 40) +contextual [finish, kept_upd, *]

@[simp] theorem badParam_keep (h : Kept p s) (c : Cmd) (off : Nat) : Kept p (badParam s c off) := by
  simp (maxDischargeDepth := 40) +contextual [badParam, kept_upd, *]

@[simp] theorem postProgress_keep (h : Kept p s) (c : Cmd) : Kept p (postProgress s c) := by
  unfold postProgress
  split <;> simp (maxDischargeDepth := 40) +contextual [kept_upd, *]

@[simp] theorem acceptLong_keep (h : Kept p s) (c : Cmd) : Kept p (acceptLong s c) := by
  simp (maxDischargeDepth := 40) +contextual [acceptLong, kept_upd, *]

@[simp] theorem onReady_keep (h : Kept p s) (opc ring seq : Nat) (f : Cmd → State → State) (hf : ∀ c, Kept p (f c s)) : Kept p (onReady opc ring seq f s) := by
  unfold onReady
  (repeat' split) <;> simp [h, hf]

@[simp] theorem failAll_keep (h : Kept p s) (status : Nat) : Kept p (failAll s status) := by
  unfold failAll
  refine kept_foldl (by simp (maxDischargeDepth := 40) +contextual [kept_upd, *]) fun s a h => ?_
  (repeat' split) <;> simp_all (maxDischargeDepth := 40) +contextual [kept_upd]

/-- A free choice among more than one. -/
theorem kept_pick' {c : Prop} [Decidable c] {n x : Nat} {t : State} (h : Kept p s) (e : (if c then (n, s) else s.fresh) = (x, t)) : Kept p t := by
  split at e
  · cases e; exact h
  · exact State.fresh_keep' h e

end Sys2Proof.Machine
end

