-- ==== Sys2Proof/Laws/Keep/Geometry.lean ====
section
/-! SUPPORT. What every operation of Machine/Geometry.lean keeps. -/

namespace Sys2Proof.Machine

set_option linter.all false

variable {p : List Instr} {s : State}

@[simp] theorem setRow_keep (h : Kept p s) (array : Nat) (row : Nat) (v : Nat) : Kept p (setRow s array row v) := by
  simp (maxDischargeDepth := 40) +contextual [setRow, kept_upd, *]

@[simp] theorem setGold_keep (h : Kept p s) (array : Nat) (row : Nat) (v : Nat) : Kept p (setGold s array row v) := by
  simp (maxDischargeDepth := 40) +contextual [setGold, kept_upd, *]

end Sys2Proof.Machine
end

