-- ==== Sys2Proof/Laws/Keep/Mesh.lean ====
section
/-! SUPPORT. What every operation of Machine/Mesh.lean keeps. -/

namespace Sys2Proof.Machine

set_option linter.all false

variable {p : List Instr} {s : State}

@[simp] theorem setDigest_keep (h : Kept p s) (kind : Nat) (unit : Nat) (round : Nat) (v : Nat) : Kept p (setDigest s kind unit round v) := by
  unfold setDigest
  repeat' first | (with_reducible first | assumption) | (with_reducible first | refine State.updArr_keep ?_ .. | refine State.updFlue_keep ?_ .. | refine State.updSweep_keep ?_ ..) | dsimp only | (simp only [kept_mk_iff]; with_reducible refine kept_upd' ?_ (by simp (maxDischargeDepth := 40) +contextual)) | split | (simp (maxDischargeDepth := 40) +contextual [kept_upd, *]; done)

@[simp] theorem countRound_keep (h : Kept p s) (kind : Nat) (unit : Nat) : Kept p (countRound s kind unit) := by
  unfold countRound
  repeat' first | (with_reducible first | assumption) | (with_reducible first | refine State.updArr_keep ?_ .. | refine State.updFlue_keep ?_ .. | refine State.updSweep_keep ?_ ..) | dsimp only | (simp only [kept_mk_iff]; with_reducible refine kept_upd' ?_ (by simp (maxDischargeDepth := 40) +contextual)) | split | (simp (maxDischargeDepth := 40) +contextual [kept_upd, *]; done)

@[simp] theorem restartRound_keep (h : Kept p s) (kind : Nat) (unit : Nat) (round : Nat) : Kept p (restartRound s kind unit round) := by
  unfold restartRound
  repeat' first | (with_reducible first | assumption | refine hf1 _ ?_ | refine hf2 _ _ ?_ | refine hf3 _ _ _ ?_) | (extract_lets +onlyGivenNames t; refine kept_cut (q := Kept p t) ?_ fun ht => ?_; (on_goal 2 => clear_value t); on_goal 1 => (simp only [t]; try clear t)) | (extract_lets +onlyGivenNames t; refine kept_cut (q := ∀ x : State, Kept p x → Kept p (t x)) ?_ fun hf1 => ?_; (on_goal 2 => clear_value t); on_goal 1 => (simp only [t]; try clear t; intro _ _)) | (extract_lets +onlyGivenNames t; refine kept_cut (q := ∀ (x : State) y, Kept p x → Kept p (t x y)) ?_ fun hf2 => ?_; (on_goal 2 => clear_value t); on_goal 1 => (simp only [t]; try clear t; intro _ _ _)) | (extract_lets +onlyGivenNames t; refine kept_cut (q := ∀ x, Kept p (t x)) ?_ fun hf6 => ?_; (on_goal 2 => clear_value t); on_goal 1 => (simp only [t]; try clear t; intro _)) | with_reducible refine hf6 _ | (extract_lets +onlyGivenNames t; refine kept_cut (q := ∀ x : State, Kept p x → Kept p (t x).2) ?_ fun hf4 => ?_; (on_goal 2 => clear_value t); on_goal 1 => (simp only [t]; try clear t; intro _ _)) | with_reducible refine hf4 _ ?_ | (extract_lets +onlyGivenNames t; refine kept_cut (q := ∀ x : State, Kept p x → Kept p (t x).1) ?_ fun hf5 => ?_; (on_goal 2 => clear_value t); on_goal 1 => (simp only [t]; try clear t; intro _ _)) | with_reducible refine hf5 _ ?_ | (extract_lets +onlyGivenNames t; clear_value t) | (with_reducible first | refine State.updArr_keep ?_ .. | refine State.updFlue_keep ?_ .. | refine State.updSweep_keep ?_ ..) | dsimp only | (simp only [kept_mk_iff]; with_reducible refine kept_upd' ?_ (by simp (maxDischargeDepth := 40) +contextual)) | split | (simp (maxDischargeDepth := 40) +contextual [kept_upd, *]; done)

end Sys2Proof.Machine
end

