-- ==== Sys2Proof/Laws/Keep/Faults.lean ====
section
/-! SUPPORT. What every operation of Machine/Faults.lean keeps. -/

namespace Sys2Proof.Machine

set_option linter.all false

variable {p : List Instr} {s : State}

@[simp] theorem enterFailed_keep (h : Kept p s) (domain : Nat) (cause : Nat) (unit : Nat) (detail : Nat) : Kept p (enterFailed s domain cause unit detail) := by
  unfold enterFailed
  repeat' first | (with_reducible first | assumption) | (extract_lets +onlyGivenNames t; refine kept_cut (q := Kept p t) ?_ fun ht => ?_; (on_goal 2 => clear_value t); on_goal 1 => (simp only [t]; try clear t)) | (extract_lets +onlyGivenNames t; clear_value t) | (with_reducible first | refine kept_ite.2 ⟨fun _ => ?_, fun _ => ?_⟩ | refine failAll_keep ?_ .. | refine flushLog_keep ?_ .. | refine forceSafe_keep ?_ .. | refine goState_keep ?_ .. | refine logEvent_keep ?_ .. | refine State.updCal_keep ?_ .. | refine State.updErr_keep ?_ ..) | dsimp only | (simp only [kept_mk_iff]; with_reducible refine kept_upd' ?_ (by simp (maxDischargeDepth := 40) +contextual)) | split | (simp (maxDischargeDepth := 40) +contextual [kept_upd, *]; done)

@[simp] theorem loseReq_keep (h : Kept p s) (slot : Nat) : Kept p (loseReq s slot) := by
  unfold loseReq
  split <;> (try split) <;> first | simp (maxDischargeDepth := 40) +contextual [kept_upd, *]; done | refine kept_foldl (by simp (maxDischargeDepth := 40) +contextual [kept_upd, *]) fun s a h => ?_; (repeat' split) <;> simp_all (maxDischargeDepth := 40) +contextual [kept_upd]

@[simp] theorem loseReqs_keep (h : Kept p s) (p' : Nat → Req → Bool) : Kept p (loseReqs s p') := by
  unfold loseReqs
  refine kept_foldl (by simp (maxDischargeDepth := 40) +contextual [kept_upd, *]) fun s a h => ?_
  (repeat' split) <;> simp_all (maxDischargeDepth := 40) +contextual [kept_upd]

@[simp] theorem freePage_keep (h : Kept p s) (id : Nat) : Kept p (freePage s id) := by
  unfold freePage
  repeat' first | (with_reducible first | assumption) | (extract_lets +onlyGivenNames t; refine kept_cut (q := Kept p t) ?_ fun ht => ?_; (on_goal 2 => clear_value t); on_goal 1 => (simp only [t]; try clear t)) | (extract_lets +onlyGivenNames t; clear_value t) | (with_reducible first | refine kept_ite.2 ⟨fun _ => ?_, fun _ => ?_⟩ | refine State.setPage_keep ?_ .. | refine State.updCtx_keep ?_ ..) | dsimp only | (simp only [kept_mk_iff]; with_reducible refine kept_upd' ?_ (by simp (maxDischargeDepth := 40) +contextual)) | split | (simp (maxDischargeDepth := 40) +contextual [kept_upd, *]; done)

@[simp] theorem reapPages_keep (h : Kept p s) : Kept p (reapPages s) := by
  unfold reapPages
  repeat' first | (with_reducible first | assumption) | (with_reducible first | refine kept_ite.2 ⟨fun _ => ?_, fun _ => ?_⟩ | refine kept_foldl ?_ (fun _ _ _ => ?_) | refine kept_foldl_mid ?_ (fun _ _ _ => ?_) | refine kept_foldl_fst ?_ (fun _ _ _ => ?_) | refine freePage_keep ?_ ..) | dsimp only | with_reducible refine kept_elim ?_ fun _ => ?_ | split | (simp (maxDischargeDepth := 40) +contextual [kept_upd, *]; done)

@[simp] theorem stopTile_mem (t : Tile) : (stopTile t).mem = t.mem := rfl

@[simp] theorem haltCtx_keep (h : Kept p s) (ctx : Nat) (cause : Nat) (ctile : Nat) (instr : Nat) : Kept p (haltCtx s ctx cause ctile instr) := by
  unfold haltCtx
  repeat' first | (with_reducible first | assumption) | (extract_lets +onlyGivenNames t; refine kept_cut (q := Kept p t) ?_ fun ht => ?_; (on_goal 2 => clear_value t); on_goal 1 => (simp only [t]; try clear t)) | (extract_lets +onlyGivenNames t; clear_value t) | (with_reducible first | refine kept_ite.2 ⟨fun _ => ?_, fun _ => ?_⟩ | refine kept_foldl ?_ (fun _ _ _ => ?_) | refine kept_foldl_mid ?_ (fun _ _ _ => ?_) | refine kept_foldl_fst ?_ (fun _ _ _ => ?_) | refine finish_keep ?_ .. | refine logEvent_keep ?_ .. | refine loseReqs_keep ?_ .. | refine reapPages_keep ?_ .. | refine State.updChim_keep ?_ .. | refine State.updCtx_keep ?_ ..) | ((with_reducible refine State.updTile_keep ?_ _ _ ?_); on_goal 2 => exact id) | ((with_reducible refine State.updTile_keep ?_ _ _ ?_); on_goal 2 => exact fun _ => rfl) | ((with_reducible refine State.updTile_keep ?_ _ _ ?_); on_goal 2 => (simp (maxDischargeDepth := 40) +contextual [*]; done)) | ((with_reducible refine State.updTile_keep ?_ _ _ ?_); on_goal 2 => (intro hm; dsimp only; (repeat' split) <;> simp_all (maxDischargeDepth := 40); done)) | dsimp only | (simp only [kept_mk_iff]; with_reducible refine kept_upd' ?_ (by simp (maxDischargeDepth := 40) +contextual)) | split | (simp (maxDischargeDepth := 40) +contextual [kept_upd, *]; done)

@[simp] theorem uncache_keep (h : Kept p s) (p' : Nat × Nat × Nat → Bool) : Kept p (uncache s p') := by
  unfold uncache
  repeat' first | (with_reducible first | assumption) | (with_reducible first | refine kept_foldl ?_ (fun _ _ _ => ?_) | refine kept_foldl_mid ?_ (fun _ _ _ => ?_) | refine kept_foldl_fst ?_ (fun _ _ _ => ?_) | refine State.updFlue_keep ?_ ..) | dsimp only | (simp only [kept_mk_iff]; with_reducible refine kept_upd' ?_ (by simp (maxDischargeDepth := 40) +contextual)) | split | (simp (maxDischargeDepth := 40) +contextual [kept_upd, *]; done)

@[simp] theorem dropVariant_keep (h : Kept p s) (ctx : Nat) (v : Nat) : Kept p (dropVariant s ctx v) := by
  unfold dropVariant
  repeat' first | (with_reducible first | assumption) | (with_reducible first | refine uncache_keep ?_ .. | refine State.updCtx_keep ?_ ..) | dsimp only | (simp only [kept_mk_iff]; with_reducible refine kept_upd' ?_ (by simp (maxDischargeDepth := 40) +contextual)) | split | (simp (maxDischargeDepth := 40) +contextual [kept_upd, *]; done)

@[simp] theorem hbmAction_keep (h : Kept p s) (site : HbmSite) : Kept p (hbmAction s site) := by
  cases site <;> simp only [hbmAction]
  case gold => split <;> (try split) <;> simp (maxDischargeDepth := 40) [*]
  case cache => exact State.updKv_keep h _ id
  all_goals simp (maxDischargeDepth := 40) [h]

@[simp] theorem runAct_keep (h : Kept p s) (e : ErrIn) : Kept p (runAct s e) := by
  unfold runAct
  repeat' first | (with_reducible first | assumption) | (extract_lets +onlyGivenNames t; refine kept_cut (q := Kept p t) ?_ fun ht => ?_; (on_goal 2 => clear_value t); on_goal 1 => (simp only [t]; try clear t)) | (extract_lets +onlyGivenNames t; clear_value t) | (with_reducible first | refine enterFailed_keep ?_ .. | refine haltCtx_keep ?_ .. | refine hbmAction_keep ?_ .. | refine logEvent_keep ?_ .. | refine State.updErr_keep ?_ .. | refine State.updThm_keep ?_ ..) | dsimp only | (simp only [kept_mk_iff]; with_reducible refine kept_upd' ?_ (by simp (maxDischargeDepth := 40) +contextual)) | split | (simp (maxDischargeDepth := 40) +contextual [kept_upd, *]; done)

@[simp] theorem startHandler_keep (h : Kept p s) (e : ErrIn) : Kept p (startHandler s e) := by
  simp (maxDischargeDepth := 40) +contextual [startHandler, kept_upd, *]

@[simp] theorem nestedErr_keep (h : Kept p s) (h' : Handler) (e : ErrIn) : Kept p (nestedErr s h' e) := by
  simp (maxDischargeDepth := 40) +contextual [nestedErr, kept_upd, *]

@[simp] theorem raiseErr_keep (h : Kept p s) (e : ErrIn) : Kept p (raiseErr s e) := by
  unfold raiseErr
  repeat' first | (with_reducible first | assumption) | (extract_lets +onlyGivenNames t; refine kept_cut (q := Kept p t) ?_ fun ht => ?_; (on_goal 2 => clear_value t); on_goal 1 => (simp only [t]; try clear t)) | (extract_lets +onlyGivenNames t; clear_value t) | (with_reducible first | refine kept_ite.2 ⟨fun _ => ?_, fun _ => ?_⟩ | refine enterFailed_keep ?_ .. | refine logEvent_keep ?_ .. | refine nestedErr_keep ?_ .. | refine startHandler_keep ?_ .. | refine State.updErr_keep ?_ ..) | dsimp only | (simp only [kept_mk_iff]; with_reducible refine kept_upd' ?_ (by simp (maxDischargeDepth := 40) +contextual)) | split | (simp (maxDischargeDepth := 40) +contextual [kept_upd, *]; done)

@[simp] theorem endHandler_keep (h : Kept p s) : Kept p (endHandler s) := by
  unfold endHandler
  repeat' first | (with_reducible first | assumption) | (with_reducible first | refine runAct_keep ?_ .. | refine startHandler_keep ?_ .. | refine State.updErr_keep ?_ ..) | dsimp only | (simp only [kept_mk_iff]; with_reducible refine kept_upd' ?_ (by simp (maxDischargeDepth := 40) +contextual)) | split | (simp (maxDischargeDepth := 40) +contextual [kept_upd, *]; done)

theorem execErrorRaise_keep (h : Kept p s) (e : ErrIn) : KeptR p (execErrorRaise e s) := by
  unfold execErrorRaise
  repeat' first | (with_reducible first | assumption | refine keptR_next ?_ | refine raiseErr_keep ?_ ..) | dsimp only | (simp (maxDischargeDepth := 40) +contextual [kept_upd, *]; done)

theorem execHandlerTimeout_keep (h : Kept p s)  : KeptR p (execHandlerTimeout s) := by
  unfold execHandlerTimeout
  repeat' first | (with_reducible first | assumption | refine keptR_next ?_ | refine kept_ite.2 ⟨fun _ => ?_, fun _ => ?_⟩ | refine enterFailed_keep ?_ ..) | dsimp only | split | (simp (maxDischargeDepth := 40) +contextual [kept_upd, *]; done)

theorem execHbmPatrol_keep (h : Kept p s) (addr : Nat) (corrected : Bool) : KeptR p (execHbmPatrol addr corrected s) := by
  unfold execHbmPatrol
  repeat' first | (with_reducible first | assumption | refine keptR_next ?_ | refine kept_ite.2 ⟨fun _ => ?_, fun _ => ?_⟩ | refine logEvent_keep ?_ ..) | dsimp only | split | (simp (maxDischargeDepth := 40) +contextual [kept_upd, *]; done)

theorem execHbmUncorrectable_keep (h : Kept p s) (site : HbmSite) : KeptR p (execHbmUncorrectable site s) := by
  unfold execHbmUncorrectable
  repeat' first | (with_reducible first | assumption | refine keptR_next ?_) | (extract_lets +onlyGivenNames t; refine kept_cut (q := Kept p t) ?_ fun ht => ?_; (on_goal 2 => clear_value t); on_goal 1 => (simp only [t]; try clear t)) | (extract_lets +onlyGivenNames t; clear_value t) | (with_reducible first | refine kept_ite.2 ⟨fun _ => ?_, fun _ => ?_⟩ | refine State.updErr_keep ?_ .. | refine logEvent_keep ?_ .. | refine raiseErr_keep ?_ ..) | dsimp only | split | (simp (maxDischargeDepth := 40) +contextual [kept_upd, *]; done)

theorem execHbmStackFail_keep (h : Kept p s) (stack : Nat) : KeptR p (execHbmStackFail stack s) := by
  unfold execHbmStackFail
  repeat' first | (with_reducible first | assumption | refine keptR_next ?_ | refine raiseErr_keep ?_ ..) | dsimp only | (simp (maxDischargeDepth := 40) +contextual [kept_upd, *]; done)

theorem execTileParityError_keep (h : Kept p s) (tile : Nat) (line : Nat) : KeptR p (execTileParityError tile line s) := by
  unfold execTileParityError
  repeat' first | (with_reducible first | assumption | refine keptR_next ?_) | (extract_lets +onlyGivenNames t; refine kept_cut (q := Kept p t) ?_ fun ht => ?_; (on_goal 2 => clear_value t); on_goal 1 => (simp only [t]; try clear t)) | (extract_lets +onlyGivenNames t; clear_value t) | (with_reducible first | refine kept_ite.2 ⟨fun _ => ?_, fun _ => ?_⟩ | refine logEvent_keep ?_ .. | refine raiseErr_keep ?_ ..) | dsimp only | split | (simp (maxDischargeDepth := 40) +contextual [kept_upd, *]; done)

theorem execMeshParityError_keep (h : Kept p s) (sent : MeshFlit) (link : MeshLink) (got : MeshFlit) : KeptR p (execMeshParityError sent link got s) := by
  unfold execMeshParityError
  repeat' first | (with_reducible first | assumption | refine keptR_next ?_) | (extract_lets +onlyGivenNames t; refine kept_cut (q := Kept p t) ?_ fun ht => ?_; (on_goal 2 => clear_value t); on_goal 1 => (simp only [t]; try clear t)) | (extract_lets +onlyGivenNames t; clear_value t) | (with_reducible first | refine kept_ite.2 ⟨fun _ => ?_, fun _ => ?_⟩ | refine logEvent_keep ?_ .. | refine raiseErr_keep ?_ .. | refine restartRound_keep ?_ .. | refine State.updErr_keep ?_ ..) | dsimp only | (simp only [kept_mk_iff]; with_reducible refine kept_upd' ?_ (by simp (maxDischargeDepth := 40) +contextual)) | split | (simp (maxDischargeDepth := 40) +contextual [kept_upd, *]; done)

@[simp] theorem logAer_keep (h : Kept p s) (fn : Nat) : Kept p (logAer s fn) := by
  unfold logAer
  repeat' first | (with_reducible first | assumption) | (with_reducible first | refine logEvent_keep ?_ .. | refine State.updHost_keep ?_ ..) | dsimp only | (simp only [kept_mk_iff]; with_reducible refine kept_upd' ?_ (by simp (maxDischargeDepth := 40) +contextual)) | split | (simp (maxDischargeDepth := 40) +contextual [kept_upd, *]; done)

theorem execHostReadFail_keep (h : Kept p s) (read : HostRead) : KeptR p (execHostReadFail read s) := by
  unfold execHostReadFail
  repeat' first | (with_reducible first | assumption | refine keptR_next ?_ | refine kept_ite.2 ⟨fun _ => ?_, fun _ => ?_⟩ | refine logAer_keep ?_ .. | refine raiseErr_keep ?_ ..) | dsimp only | split | (simp (maxDischargeDepth := 40) +contextual [kept_upd, *]; done)

theorem execHostReadRetryResult_keep (h : Kept p s) (ok : Bool) : KeptR p (execHostReadRetryResult ok s) := by
  unfold execHostReadRetryResult
  repeat' first | (with_reducible first | assumption | refine keptR_next ?_) | (extract_lets +onlyGivenNames t; refine kept_cut (q := Kept p t) ?_ fun ht => ?_; (on_goal 2 => clear_value t); on_goal 1 => (simp only [t]; try clear t)) | (extract_lets +onlyGivenNames t; clear_value t) | (with_reducible first | refine kept_ite.2 ⟨fun _ => ?_, fun _ => ?_⟩ | refine State.updErr_keep ?_ .. | refine State.updRing_keep ?_ .. | refine finish_keep ?_ .. | refine logAer_keep ?_ .. | refine loseReq_keep ?_ ..) | dsimp only | split | (simp (maxDischargeDepth := 40) +contextual [kept_upd, *]; done)

end Sys2Proof.Machine
end

