-- ==== Sys2Proof/Laws/Keep/Log.lean ====
section
/-! SUPPORT. What every operation of Machine/Log.lean keeps. -/

namespace Sys2Proof.Machine

set_option linter.all false

variable {p : List Instr} {s : State}

theorem execLogEvent_keep (h : Kept p s) (code : Nat) (domain : Nat) (data : Nat) : KeptR p (execLogEvent code domain data s) := by
  unfold execLogEvent
  repeat' first | (with_reducible first | assumption | refine keptR_next ?_ | refine logEvent_keep ?_ ..) | dsimp only | (simp (maxDischargeDepth := 40) +contextual [kept_upd, *]; done)

theorem execLogRecordTimeout_keep (h : Kept p s)  : KeptR p (execLogRecordTimeout s) := by
  unfold execLogRecordTimeout
  repeat' first | (with_reducible first | assumption | refine keptR_next ?_ | refine kept_ite.2 ⟨fun _ => ?_, fun _ => ?_⟩ | refine State.updLog_keep ?_ ..) | dsimp only | split | (simp (maxDischargeDepth := 40) +contextual [kept_upd, *]; done)

theorem execLogFlashWrite_keep (h : Kept p s)  : KeptR p (execLogFlashWrite s) := by
  unfold execLogFlashWrite
  repeat' first | (with_reducible first | assumption | refine keptR_next ?_ | refine kept_ite.2 ⟨fun _ => ?_, fun _ => ?_⟩ | refine State.updLog_keep ?_ ..) | dsimp only | split | (simp (maxDischargeDepth := 40) +contextual [kept_upd, *]; done)

theorem execLogRecordsLost_keep (h : Kept p s)  : KeptR p (execLogRecordsLost s) := by
  unfold execLogRecordsLost
  repeat' first | (with_reducible first | assumption | refine keptR_next ?_) | (extract_lets +onlyGivenNames t; refine kept_cut (q := Kept p t) ?_ fun ht => ?_; (on_goal 2 => clear_value t); on_goal 1 => (simp only [t]; try clear t)) | (extract_lets +onlyGivenNames t; clear_value t) | (with_reducible first | refine kept_ite.2 ⟨fun _ => ?_, fun _ => ?_⟩ | refine State.updLog_keep ?_ .. | refine logEvent_keep ?_ ..) | dsimp only | split | (simp (maxDischargeDepth := 40) +contextual [kept_upd, *]; done)

theorem execLogFreezeTimeout_keep (h : Kept p s)  : KeptR p (execLogFreezeTimeout s) := by
  unfold execLogFreezeTimeout
  repeat' first | (with_reducible first | assumption | refine keptR_next ?_ | refine kept_ite.2 ⟨fun _ => ?_, fun _ => ?_⟩ | refine State.updLog_keep ?_ ..) | dsimp only | split | (simp (maxDischargeDepth := 40) +contextual [kept_upd, *]; done)

theorem execLogFreeze_keep (h : Kept p s) (ring : Nat) (seq : Nat) : KeptR p (execLogFreeze ring seq s) := by
  unfold execLogFreeze
  repeat' first | (with_reducible first | assumption | refine keptR_next ?_) | (extract_lets +onlyGivenNames t; refine kept_cut (q := Kept p t) ?_ fun ht => ?_; (on_goal 2 => clear_value t); on_goal 1 => (simp only [t]; try clear t)) | (extract_lets +onlyGivenNames t; clear_value t) | (with_reducible first | refine kept_ite.2 ⟨fun _ => ?_, fun _ => ?_⟩ | refine State.updLog_keep ?_ .. | refine finish_keep ?_ ..) | ((with_reducible refine onReady_keep ?_ _ _ _ _ (fun _ => ?_)); on_goal 2 => beta_reduce) | dsimp only | split | (simp (maxDischargeDepth := 40) +contextual [kept_upd, *]; done)

theorem execLogRead_keep (h : Kept p s) (ring : Nat) (seq : Nat) : KeptR p (execLogRead ring seq s) := by
  unfold execLogRead
  repeat' first | (with_reducible first | assumption | refine keptR_next ?_) | (extract_lets +onlyGivenNames t; refine kept_cut (q := Kept p t) ?_ fun ht => ?_; (on_goal 2 => clear_value t); on_goal 1 => (simp only [t]; try clear t)) | (extract_lets +onlyGivenNames t; clear_value t) | (with_reducible first | refine kept_ite.2 ⟨fun _ => ?_, fun _ => ?_⟩ | refine State.hostWrite_keep ?_ .. | refine badParam_keep ?_ .. | refine finish_keep ?_ ..) | ((with_reducible refine onReady_keep ?_ _ _ _ _ (fun _ => ?_)); on_goal 2 => beta_reduce) | dsimp only | split | (simp (maxDischargeDepth := 40) +contextual [kept_upd, *]; done)

theorem execLogThaw_keep (h : Kept p s) (ring : Nat) (seq : Nat) : KeptR p (execLogThaw ring seq s) := by
  unfold execLogThaw
  repeat' first | (with_reducible first | assumption | refine keptR_next ?_) | (extract_lets +onlyGivenNames t; refine kept_cut (q := Kept p t) ?_ fun ht => ?_; (on_goal 2 => clear_value t); on_goal 1 => (simp only [t]; try clear t)) | (extract_lets +onlyGivenNames t; clear_value t) | (with_reducible first | refine kept_ite.2 ⟨fun _ => ?_, fun _ => ?_⟩ | refine State.updLog_keep ?_ .. | refine finish_keep ?_ ..) | ((with_reducible refine onReady_keep ?_ _ _ _ _ (fun _ => ?_)); on_goal 2 => beta_reduce) | dsimp only | split | (simp (maxDischargeDepth := 40) +contextual [kept_upd, *]; done)

theorem execLogClear_keep (h : Kept p s) (ring : Nat) (seq : Nat) : KeptR p (execLogClear ring seq s) := by
  unfold execLogClear
  repeat' first | (with_reducible first | assumption | refine keptR_next ?_ | refine kept_ite.2 ⟨fun _ => ?_, fun _ => ?_⟩ | refine State.updLog_keep ?_ .. | refine finish_keep ?_ ..) | ((with_reducible refine onReady_keep ?_ _ _ _ _ (fun _ => ?_)); on_goal 2 => beta_reduce) | dsimp only | split | (simp (maxDischargeDepth := 40) +contextual [kept_upd, *]; done)

theorem execLogDataRead_keep (h : Kept p s)  : KeptR p (execLogDataRead s) := by
  unfold execLogDataRead
  repeat' first | (with_reducible first | assumption | refine keptR_next ?_) | (extract_lets +onlyGivenNames t; refine kept_cut (q := Kept p t) ?_ fun ht => ?_; (on_goal 2 => clear_value t); on_goal 1 => (simp only [t]; try clear t)) | (extract_lets +onlyGivenNames t; clear_value t) | (with_reducible first | refine kept_ite.2 ⟨fun _ => ?_, fun _ => ?_⟩ | refine State.reply_keep ?_ .. | refine State.updHost_keep ?_ ..) | dsimp only | split | (simp (maxDischargeDepth := 40) +contextual [kept_upd, *]; done)

end Sys2Proof.Machine
end

