-- ==== Sys2Proof/Laws/Keep/Power.lean ====
section
/-! SUPPORT. What every operation of Machine/Power.lean keeps. -/

namespace Sys2Proof.Machine

set_option linter.all false

variable {p : List Instr} {s : State}

@[simp] theorem reset_hostMem : State.reset.hostMem = [] := rfl

@[simp] theorem reset_cells : State.reset.cells = [] := rfl

@[simp] theorem reset_gold : State.reset.gold = [] := rfl

@[simp] theorem reset_rings : State.reset.rings = [] := rfl

@[simp] theorem reset_ctxs : State.reset.ctxs = [] := rfl

@[simp] theorem reset_tiles : State.reset.tiles = [] := rfl

@[simp] theorem reset_arrs : State.reset.arrs = [] := rfl

@[simp] theorem reset_flues : State.reset.flues = [] := rfl

@[simp] theorem reset_reqs : State.reset.reqs = [] := rfl

@[simp] theorem reset_pages : State.reset.kv.pages = [] := rfl

@[simp] theorem reset_fns_wf : wf none State.reset.fns = true := by decide

/-- Tiles that go on with their memory only stay canonical. -/
theorem tilesOk_mem {m : SMap (Option Tile)} (q : Nat × Option Tile → Bool) (h : tilesOk m) :
    tilesOk ((m.map fun e => (e.1, e.2.map fun t => { Tile.reset with mem := t.mem })).filter q) := by
  intro e he t ht
  obtain ⟨a, ha, rfl⟩ := List.mem_map.1 (List.mem_filter.1 he).1
  cases h2 : a.2 with
  | none => simp [h2] at ht
  | some u =>
    simp only [h2, Option.map_some, Option.some.injEq] at ht
    rw [← ht]
    exact h a ha u h2

@[simp] theorem goCold_keep (h : Kept p s)  : Kept p (goCold s) := by
  refine ⟨h.pend, ⟨h.hostMem, ?_, ?_, ?_, ?_, ?_, ?_, ?_, ?_, ?_, ?_, ?_⟩⟩
  all_goals first | rfl | exact tilesOk_nil | exact reset_fns_wf

@[simp] theorem applySsc_keep (h : Kept p s)  : Kept p (applySsc s) := by
  unfold applySsc
  repeat' first | with_reducible assumption | (extract_lets +onlyGivenNames t; refine kept_cut (q := Kept p t) ?_ fun ht => ?_; (on_goal 2 => clear_value t); on_goal 1 => (simp only [t]; try clear t)) | (extract_lets +onlyGivenNames t; clear_value t) | (with_reducible first | refine kept_ite.2 ⟨fun _ => ?_, fun _ => ?_⟩ | refine State.updClk_keep ?_ ..) | dsimp only | split | (simp (maxDischargeDepth := 40) +contextual [kept_upd, *]; done)

@[simp] theorem logLatch_keep (h : Kept p s)  : Kept p (logLatch s) := by
  unfold logLatch
  repeat' first | with_reducible assumption | (extract_lets +onlyGivenNames t; refine kept_cut (q := Kept p t) ?_ fun ht => ?_; (on_goal 2 => clear_value t); on_goal 1 => (simp only [t]; try clear t)) | (extract_lets +onlyGivenNames t; clear_value t) | (with_reducible first | refine kept_ite.2 ⟨fun _ => ?_, fun _ => ?_⟩ | refine State.updLog_keep ?_ .. | refine State.updPwr_keep ?_ ..) | dsimp only | split | (simp (maxDischargeDepth := 40) +contextual [kept_upd, *]; done)

@[simp] theorem bootState_keep (h : Kept p s)  : Kept p (bootState s) := by
  refine ⟨h.pend, ⟨h.hostMem, h.cells, ?_, wf_mapE _ h.fns, ?_, ?_, wf_filter _ (wf_mapVals' _ h.tiles), wf_filter _ (wf_mapVals' _ h.arrs), ?_, ?_, ?_, tilesOk_mem _ h.tileMem⟩⟩
  all_goals rfl

@[simp] theorem enterBoot_keep (h : Kept p s)  : Kept p (enterBoot s) := by
  unfold enterBoot
  repeat' first | with_reducible assumption | (extract_lets +onlyGivenNames t; refine kept_cut (q := Kept p t) ?_ fun ht => ?_; (on_goal 2 => clear_value t); on_goal 1 => (simp only [t]; try clear t)) | (extract_lets +onlyGivenNames t; clear_value t) | (with_reducible first | refine kept_ite.2 ⟨fun _ => ?_, fun _ => ?_⟩ | refine State.updClk_keep ?_ .. | refine State.updDev_keep ?_ .. | refine applySsc_keep ?_ .. | refine bootState_keep ?_ .. | refine goState_keep ?_ .. | refine logHeld_keep ?_ .. | refine logLatch_keep ?_ ..) | dsimp only | split | (simp (maxDischargeDepth := 40) +contextual [kept_upd, *]; done)

@[simp] theorem tryBoot_keep (h : Kept p s)  : Kept p (tryBoot s) := by
  unfold tryBoot
  repeat' first | (with_reducible first | assumption | refine kept_ite.2 ⟨fun _ => ?_, fun _ => ?_⟩ | refine enterBoot_keep ?_ ..) | dsimp only | split | (simp (maxDischargeDepth := 40) +contextual [kept_upd, *]; done)

@[simp] theorem startUp_keep (h : Kept p s)  : Kept p (startUp s) := by
  unfold startUp
  repeat' first | (with_reducible first | assumption | refine kept_ite.2 ⟨fun _ => ?_, fun _ => ?_⟩ | refine State.updPwr_keep ?_ ..) | dsimp only | split | (simp (maxDischargeDepth := 40) +contextual [kept_upd, *]; done)

theorem execV12Rise_keep (h : Kept p s) (tenMv : Nat) : KeptR p (execV12Rise tenMv s) := by
  unfold execV12Rise
  repeat' first | (with_reducible first | assumption | refine keptR_next ?_) | (extract_lets +onlyGivenNames t; refine kept_cut (q := Kept p t) ?_ fun ht => ?_; (on_goal 2 => clear_value t); on_goal 1 => (simp only [t]; try clear t)) | (extract_lets +onlyGivenNames t; clear_value t) | (with_reducible first | refine kept_ite.2 ⟨fun _ => ?_, fun _ => ?_⟩ | refine State.updPwr_keep ?_ .. | refine startUp_keep ?_ ..) | dsimp only | split | (simp (maxDischargeDepth := 40) +contextual [kept_upd, *]; done)

theorem execRailPowerGood_keep (h : Kept p s) (rail : Nat) : KeptR p (execRailPowerGood rail s) := by
  unfold execRailPowerGood
  repeat' first | (with_reducible first | assumption | refine keptR_next ?_) | (extract_lets +onlyGivenNames t; refine kept_cut (q := Kept p t) ?_ fun ht => ?_; (on_goal 2 => clear_value t); on_goal 1 => (simp only [t]; try clear t)) | (extract_lets +onlyGivenNames t; clear_value t) | (with_reducible first | refine kept_ite.2 ⟨fun _ => ?_, fun _ => ?_⟩ | refine State.updHost_keep ?_ .. | refine State.updPwr_keep ?_ ..) | dsimp only | split | (simp (maxDischargeDepth := 40) +contextual [kept_upd, *]; done)

theorem execRailEnableTimeout_keep (h : Kept p s) (rail : Nat) : KeptR p (execRailEnableTimeout rail s) := by
  unfold execRailEnableTimeout
  repeat' first | (with_reducible first | assumption | refine keptR_next ?_) | (extract_lets +onlyGivenNames t; refine kept_cut (q := Kept p t) ?_ fun ht => ?_; (on_goal 2 => clear_value t); on_goal 1 => (simp only [t]; try clear t)) | (extract_lets +onlyGivenNames t; clear_value t) | (with_reducible first | refine kept_ite.2 ⟨fun _ => ?_, fun _ => ?_⟩ | refine State.updPwr_keep ?_ ..) | dsimp only | split | (simp (maxDischargeDepth := 40) +contextual [kept_upd, *]; done)

theorem execRailReenable_keep (h : Kept p s) (rail : Nat) : KeptR p (execRailReenable rail s) := by
  unfold execRailReenable
  repeat' first | (with_reducible first | assumption | refine keptR_next ?_) | (extract_lets +onlyGivenNames t; refine kept_cut (q := Kept p t) ?_ fun ht => ?_; (on_goal 2 => clear_value t); on_goal 1 => (simp only [t]; try clear t)) | (extract_lets +onlyGivenNames t; clear_value t) | (with_reducible first | refine kept_ite.2 ⟨fun _ => ?_, fun _ => ?_⟩ | refine State.updPwr_keep ?_ ..) | dsimp only | split | (simp (maxDischargeDepth := 40) +contextual [kept_upd, *]; done)

@[simp] theorem beginDown_keep (h : Kept p s)  : Kept p (beginDown s) := by
  unfold beginDown
  repeat' first | (with_reducible first | assumption | refine hf1 _ ?_ | refine hf2 _ _ ?_) | (extract_lets +onlyGivenNames t; refine kept_cut (q := Kept p t) ?_ fun ht => ?_; (on_goal 2 => clear_value t); on_goal 1 => (simp only [t]; try clear t)) | (extract_lets +onlyGivenNames t; refine kept_cut (q := ∀ x : State, Kept p x → Kept p (t x)) ?_ fun hf1 => ?_; (on_goal 2 => clear_value t); on_goal 1 => (simp only [t]; try clear t; intro _ _)) | (extract_lets +onlyGivenNames t; refine kept_cut (q := ∀ (x : State) y, Kept p x → Kept p (t x y)) ?_ fun hf2 => ?_; (on_goal 2 => clear_value t); on_goal 1 => (simp only [t]; try clear t; intro _ _ _)) | (extract_lets +onlyGivenNames t; refine kept_cut (q := ∀ x : State, Kept p x → Kept p (t x).2) ?_ fun hf4 => ?_; (on_goal 2 => clear_value t); on_goal 1 => (simp only [t]; try clear t; intro _ _)) | with_reducible refine hf4 _ ?_ | (extract_lets +onlyGivenNames t; clear_value t) | (with_reducible first | refine State.updClk_keep ?_ .. | refine State.updPwr_keep ?_ .. | refine forceSafe_keep ?_ ..) | dsimp only | (simp (maxDischargeDepth := 40) +contextual [kept_upd, *]; done)

@[simp] theorem convReset_keep (h : Kept p s)  : Kept p (convReset s) := by
  unfold convReset
  repeat' first | (with_reducible first | assumption | refine kept_ite.2 ⟨fun _ => ?_, fun _ => ?_⟩ | refine beginDown_keep ?_ .. | refine flushLog_keep ?_ ..) | dsimp only | split | (simp (maxDischargeDepth := 40) +contextual [kept_upd, *]; done)

theorem execPerstAssert_keep (h : Kept p s)  : KeptR p (execPerstAssert s) := by
  unfold execPerstAssert
  repeat' first | (with_reducible first | assumption | refine keptR_next ?_ | refine State.updPwr_keep ?_ .. | refine convReset_keep ?_ ..) | dsimp only | (simp (maxDischargeDepth := 40) +contextual [kept_upd, *]; done)

theorem execPerstDeassert_keep (h : Kept p s)  : KeptR p (execPerstDeassert s) := by
  unfold execPerstDeassert
  repeat' first | (with_reducible first | assumption | refine keptR_next ?_) | (extract_lets +onlyGivenNames t; refine kept_cut (q := Kept p t) ?_ fun ht => ?_; (on_goal 2 => clear_value t); on_goal 1 => (simp only [t]; try clear t)) | (extract_lets +onlyGivenNames t; clear_value t) | (with_reducible first | refine kept_ite.2 ⟨fun _ => ?_, fun _ => ?_⟩ | refine State.updPwr_keep ?_ .. | refine startUp_keep ?_ .. | refine tryBoot_keep ?_ ..) | dsimp only | split | (simp (maxDischargeDepth := 40) +contextual [kept_upd, *]; done)

theorem execHotReset_keep (h : Kept p s)  : KeptR p (execHotReset s) := by
  unfold execHotReset
  repeat' first | (with_reducible first | assumption | refine keptR_next ?_ | refine kept_ite.2 ⟨fun _ => ?_, fun _ => ?_⟩ | refine State.updPwr_keep ?_ .. | refine convReset_keep ?_ ..) | dsimp only | split | (simp (maxDischargeDepth := 40) +contextual [kept_upd, *]; done)

@[simp] theorem endDown_keep (h : Kept p s)  : Kept p (endDown s) := by
  unfold endDown
  repeat' first | with_reducible assumption | (extract_lets +onlyGivenNames t; refine kept_cut (q := Kept p t) ?_ fun ht => ?_; (on_goal 2 => clear_value t); on_goal 1 => (simp only [t]; try clear t)) | (extract_lets +onlyGivenNames t; clear_value t) | (with_reducible first | refine kept_ite.2 ⟨fun _ => ?_, fun _ => ?_⟩ | refine State.updPwr_keep ?_ .. | refine goCold_keep ?_ .. | refine startUp_keep ?_ ..) | dsimp only | split | (simp (maxDischargeDepth := 40) +contextual [kept_upd, *]; done)

theorem execRailFallen_keep (h : Kept p s) (rail : Nat) : KeptR p (execRailFallen rail s) := by
  unfold execRailFallen
  repeat' first | (with_reducible first | assumption | refine keptR_next ?_) | (extract_lets +onlyGivenNames t; refine kept_cut (q := Kept p t) ?_ fun ht => ?_; (on_goal 2 => clear_value t); on_goal 1 => (simp only [t]; try clear t)) | (extract_lets +onlyGivenNames t; clear_value t) | (with_reducible first | refine kept_ite.2 ⟨fun _ => ?_, fun _ => ?_⟩ | refine State.updPwr_keep ?_ .. | refine endDown_keep ?_ ..) | dsimp only | split | (simp (maxDischargeDepth := 40) +contextual [kept_upd, *]; done)

@[simp] theorem failDown_keep (h : Kept p s) (rail : Nat) : Kept p (failDown s rail) := by
  unfold failDown
  repeat' first | with_reducible assumption | (extract_lets +onlyGivenNames t; refine kept_cut (q := Kept p t) ?_ fun ht => ?_; (on_goal 2 => clear_value t); on_goal 1 => (simp only [t]; try clear t)) | (extract_lets +onlyGivenNames t; clear_value t) | (with_reducible first | refine State.updPwr_keep ?_ .. | refine endDown_keep ?_ ..) | dsimp only | (simp (maxDischargeDepth := 40) +contextual [kept_upd, *]; done)

theorem execRailFallTimeout_keep (h : Kept p s) (rail : Nat) : KeptR p (execRailFallTimeout rail s) := by
  unfold execRailFallTimeout
  repeat' first | (with_reducible first | assumption | refine keptR_next ?_) | (extract_lets +onlyGivenNames t; refine kept_cut (q := Kept p t) ?_ fun ht => ?_; (on_goal 2 => clear_value t); on_goal 1 => (simp only [t]; try clear t)) | (extract_lets +onlyGivenNames t; clear_value t) | (with_reducible first | refine kept_ite.2 ⟨fun _ => ?_, fun _ => ?_⟩ | refine failDown_keep ?_ ..) | dsimp only | split | (simp (maxDischargeDepth := 40) +contextual [kept_upd, *]; done)

theorem execRegulatorFaultDown_keep (h : Kept p s) (rail : Nat) : KeptR p (execRegulatorFaultDown rail s) := by
  unfold execRegulatorFaultDown
  repeat' first | (with_reducible first | assumption | refine keptR_next ?_ | refine kept_ite.2 ⟨fun _ => ?_, fun _ => ?_⟩ | refine failDown_keep ?_ ..) | dsimp only | split | (simp (maxDischargeDepth := 40) +contextual [kept_upd, *]; done)

@[simp] theorem dropAtOnce_keep (h : Kept p s) (rail : Nat) : Kept p (dropAtOnce s rail) := by
  unfold dropAtOnce
  repeat' first | (with_reducible first | assumption | refine State.updPwr_keep ?_ .. | refine goCold_keep ?_ ..) | dsimp only | (simp (maxDischargeDepth := 40) +contextual [kept_upd, *]; done)

theorem execRailFailRun_keep (h : Kept p s) (rail : Nat) (tenMv : Nat) : KeptR p (execRailFailRun rail tenMv s) := by
  unfold execRailFailRun
  repeat' first | (with_reducible first | assumption | refine keptR_next ?_) | (extract_lets +onlyGivenNames t; refine kept_cut (q := Kept p t) ?_ fun ht => ?_; (on_goal 2 => clear_value t); on_goal 1 => (simp only [t]; try clear t)) | (extract_lets +onlyGivenNames t; clear_value t) | (with_reducible first | refine kept_ite.2 ⟨fun _ => ?_, fun _ => ?_⟩ | refine State.updErr_keep ?_ .. | refine State.updPwr_keep ?_ .. | refine dropAtOnce_keep ?_ .. | refine enterFailed_keep ?_ .. | refine flushLog_keep ?_ .. | refine forceSafe_keep ?_ .. | refine logEvent_keep ?_ ..) | dsimp only | split | (simp (maxDischargeDepth := 40) +contextual [kept_upd, *]; done)

@[simp] theorem inputLoss_keep (h : Kept p s)  : Kept p (inputLoss s) := by
  unfold inputLoss
  repeat' first | (with_reducible first | assumption | refine kept_ite.2 ⟨fun _ => ?_, fun _ => ?_⟩ | refine State.updPwr_keep ?_ .. | refine dropAtOnce_keep ?_ ..) | dsimp only | split | (simp (maxDischargeDepth := 40) +contextual [kept_upd, *]; done)

theorem execInputLoss_keep (h : Kept p s) (tenMv : Nat) : KeptR p (execInputLoss tenMv s) := by
  unfold execInputLoss
  repeat' first | (with_reducible first | assumption | refine keptR_next ?_ | refine kept_ite.2 ⟨fun _ => ?_, fun _ => ?_⟩ | refine State.updPwr_keep ?_ .. | refine inputLoss_keep ?_ ..) | dsimp only | split | (simp (maxDischargeDepth := 40) +contextual [kept_upd, *]; done)

theorem execSenseChange_keep (h : Kept p s) (ok : Bool) : KeptR p (execSenseChange ok s) := by
  unfold execSenseChange
  repeat' first | (with_reducible first | assumption | refine keptR_next ?_ | refine kept_ite.2 ⟨fun _ => ?_, fun _ => ?_⟩ | refine State.updPwr_keep ?_ .. | refine inputLoss_keep ?_ ..) | dsimp only | split | (simp (maxDischargeDepth := 40) +contextual [kept_upd, *]; done)

theorem execPwrInputLow_keep (h : Kept p s) (tenMv : Nat) : KeptR p (execPwrInputLow tenMv s) := by
  unfold execPwrInputLow
  repeat' first | (with_reducible first | assumption | refine keptR_next ?_ | refine kept_ite.2 ⟨fun _ => ?_, fun _ => ?_⟩ | refine State.updPwr_keep ?_ .. | refine raiseErr_keep ?_ ..) | dsimp only | split | (simp (maxDischargeDepth := 40) +contextual [kept_upd, *]; done)

theorem execInputRecovered_keep (h : Kept p s) : KeptR p (execInputRecovered s) := by
  unfold execInputRecovered
  repeat' first | (with_reducible first | assumption | refine keptR_next ?_) | (with_reducible first | refine State.updThm_keep ?_ ..) | dsimp only | (simp only [kept_mk_iff]; with_reducible refine kept_upd' ?_ (by simp (maxDischargeDepth := 40) +contextual)) | split | (simp (maxDischargeDepth := 40) +contextual [kept_upd, *]; done)

theorem execV3p3AuxChange_keep (h : Kept p s) (present : Bool) : KeptR p (execV3p3AuxChange present s) := by
  unfold execV3p3AuxChange
  repeat' first | (with_reducible first | assumption | refine keptR_next ?_) | (extract_lets +onlyGivenNames t; refine kept_cut (q := Kept p t) ?_ fun ht => ?_; (on_goal 2 => clear_value t); on_goal 1 => (simp only [t]; try clear t)) | (extract_lets +onlyGivenNames t; clear_value t) | (with_reducible first | refine kept_ite.2 ⟨fun _ => ?_, fun _ => ?_⟩ | refine State.updHost_keep ?_ .. | refine State.updPwr_keep ?_ ..) | dsimp only | split | (simp (maxDischargeDepth := 40) +contextual [kept_upd, *]; done)

@[simp] theorem onCage_keep (h : Kept p s) (i : Nat) (f : Cage → Cage) : Kept p (onCage s i f) := by
  unfold onCage
  repeat' first | (with_reducible first | assumption | refine State.updPwr_keep ?_ ..) | dsimp only | (simp (maxDischargeDepth := 40) +contextual [kept_upd, *]; done)

theorem execModulePresent_keep (h : Kept p s) (cage : Nat) : KeptR p (execModulePresent cage s) := by
  unfold execModulePresent
  repeat' first | (with_reducible first | assumption | refine keptR_next ?_ | refine onCage_keep ?_ ..) | dsimp only | (simp (maxDischargeDepth := 40) +contextual [kept_upd, *]; done)

@[simp] theorem portDown_keep (h : Kept p s) (port : Nat) (reason : Nat) (retx : Nat) : Kept p (portDown s port reason retx) := by
  unfold portDown
  repeat' first | (with_reducible first | assumption) | (extract_lets +onlyGivenNames t; refine kept_cut (q := Kept p t) ?_ fun ht => ?_; (on_goal 2 => clear_value t); on_goal 1 => (simp only [t]; try clear t)) | (extract_lets +onlyGivenNames t; clear_value t) | (with_reducible first | refine kept_ite.2 ⟨fun _ => ?_, fun _ => ?_⟩ | refine logEvent_keep ?_ .. | refine State.updChim_keep ?_ ..) | dsimp only | (simp only [kept_mk_iff]; with_reducible refine kept_upd' ?_ (by simp (maxDischargeDepth := 40) +contextual)) | split | (simp (maxDischargeDepth := 40) +contextual [kept_upd, *]; done)

theorem execModuleRemoved_keep (h : Kept p s) (cage : Nat) : KeptR p (execModuleRemoved cage s) := by
  unfold execModuleRemoved
  repeat' first | (with_reducible first | assumption | refine keptR_next ?_ | refine onCage_keep ?_ ..) | dsimp only | (simp (maxDischargeDepth := 40) +contextual [kept_upd, *]; done)

theorem execCageOvercurrent_keep (h : Kept p s) (cage : Nat) : KeptR p (execCageOvercurrent cage s) := by
  unfold execCageOvercurrent
  repeat' first | (with_reducible first | assumption | refine keptR_next ?_) | (extract_lets +onlyGivenNames t; refine kept_cut (q := Kept p t) ?_ fun ht => ?_; (on_goal 2 => clear_value t); on_goal 1 => (simp only [t]; try clear t)) | (extract_lets +onlyGivenNames t; clear_value t) | (with_reducible first | refine kept_ite.2 ⟨fun _ => ?_, fun _ => ?_⟩ | refine onCage_keep ?_ .. | refine portDown_keep ?_ ..) | dsimp only | split | (simp (maxDischargeDepth := 40) +contextual [kept_upd, *]; done)

end Sys2Proof.Machine
end

