-- ==== Sys2Proof/Laws/Keep/Clocks.lean ====
section
/-! SUPPORT. What every operation of Machine/Clocks.lean keeps. -/

namespace Sys2Proof.Machine

set_option linter.all false

variable {p : List Instr} {s : State}

@[simp] theorem applyLayout_keep (h : Kept p s)  : Kept p (applyLayout s) := by
  unfold applyLayout
  repeat' first | with_reducible assumption | (extract_lets +onlyGivenNames t; refine kept_cut (q := Kept p t) ?_ fun ht => ?_; (on_goal 2 => clear_value t); on_goal 1 => (simp only [t]; try clear t)) | (extract_lets +onlyGivenNames t; clear_value t) | ((with_reducible refine State.updKv_keep ?_ _ ?_); on_goal 2 => exact id) | ((with_reducible refine State.updKv_keep ?_ _ ?_); on_goal 2 => exact fun _ => rfl) | ((with_reducible refine State.updKv_keep ?_ _ ?_); on_goal 2 => (simp (maxDischargeDepth := 40) +contextual [*]; done)) | ((with_reducible refine State.updKv_keep ?_ _ ?_); on_goal 2 => (intro hm; dsimp only; (repeat' split) <;> simp_all (maxDischargeDepth := 40); done)) | dsimp only | (simp (maxDischargeDepth := 40) +contextual [kept_upd, *]; done)

@[simp] theorem toMaintenance_keep (h : Kept p s)  : Kept p (toMaintenance s) := by
  unfold toMaintenance
  repeat' first | (with_reducible first | assumption | refine applyLayout_keep ?_ .. | refine goState_keep ?_ ..) | dsimp only | (simp (maxDischargeDepth := 40) +contextual [kept_upd, *]; done)

@[simp] theorem quiesce_keep (h : Kept p s) : Kept p (quiesce s) := by
  unfold quiesce
  repeat' first | (with_reducible first | assumption) | (extract_lets +onlyGivenNames t; refine kept_cut (q := Kept p t) ?_ fun ht => ?_; (on_goal 2 => clear_value t); on_goal 1 => (simp only [t]; try clear t)) | (extract_lets +onlyGivenNames t; clear_value t) | (with_reducible first | refine reapPages_keep ?_ ..) | dsimp only | (simp only [kept_mk_iff]; with_reducible refine kept_upd' ?_ (by simp (maxDischargeDepth := 40) +contextual)) | split | (simp (maxDischargeDepth := 40) +contextual [kept_upd, *]; done)

@[simp] theorem enterHold_keep (h : Kept p s) (cause : Nat) : Kept p (enterHold s cause) := by
  simp (maxDischargeDepth := 40) [enterHold, kept_upd, h]

@[simp] theorem takeOver_keep (h : Kept p s) (cause : Nat) : Kept p (takeOver s cause) := by
  unfold takeOver
  repeat' first | with_reducible assumption | (extract_lets +onlyGivenNames t; refine kept_cut (q := Kept p t) ?_ fun ht => ?_; (on_goal 2 => clear_value t); on_goal 1 => (simp only [t]; try clear t)) | (extract_lets +onlyGivenNames t; clear_value t) | (with_reducible first | refine kept_ite.2 ⟨fun _ => ?_, fun _ => ?_⟩ | refine State.updClk_keep ?_ .. | refine logEvent_keep ?_ .. | refine raiseErr_keep ?_ ..) | dsimp only | split | (simp (maxDischargeDepth := 40) +contextual [kept_upd, *]; done)

@[simp] theorem tripRoot_keep (h : Kept p s) (cause : Nat) : Kept p (tripRoot s cause) := by
  unfold tripRoot
  repeat' first | (with_reducible first | assumption | refine kept_ite.2 ⟨fun _ => ?_, fun _ => ?_⟩ | refine State.updClk_keep ?_ .. | refine enterHold_keep ?_ .. | refine takeOver_keep ?_ ..) | dsimp only | split | (simp (maxDischargeDepth := 40) +contextual [kept_upd, *]; done)

@[simp] theorem tripPilot_keep (h : Kept p s) (cause : Nat) : Kept p (tripPilot s cause) := by
  unfold tripPilot
  repeat' first | (with_reducible first | assumption | refine kept_ite.2 ⟨fun _ => ?_, fun _ => ?_⟩ | refine State.updClk_keep ?_ .. | refine enterHold_keep ?_ ..) | dsimp only | split | (simp (maxDischargeDepth := 40) +contextual [kept_upd, *]; done)

theorem execMissingEdgeTrip_keep (h : Kept p s)  : KeptR p (execMissingEdgeTrip s) := by
  unfold execMissingEdgeTrip
  repeat' first | (with_reducible first | assumption | refine keptR_next ?_) | (extract_lets +onlyGivenNames t; refine kept_cut (q := Kept p t) ?_ fun ht => ?_; (on_goal 2 => clear_value t); on_goal 1 => (simp only [t]; try clear t)) | (extract_lets +onlyGivenNames t; clear_value t) | (with_reducible first | refine kept_ite.2 ⟨fun _ => ?_, fun _ => ?_⟩ | refine State.updClk_keep ?_ .. | refine tripRoot_keep ?_ ..) | dsimp only | split | (simp (maxDischargeDepth := 40) +contextual [kept_upd, *]; done)

theorem execLockLostTrip_keep (h : Kept p s) (pll : PllId) : KeptR p (execLockLostTrip pll s) := by
  unfold execLockLostTrip
  repeat' first | (with_reducible first | assumption | refine keptR_next ?_ | refine kept_ite.2 ⟨fun _ => ?_, fun _ => ?_⟩ | refine State.updClk_keep ?_ .. | refine tripPilot_keep ?_ .. | refine tripRoot_keep ?_ ..) | dsimp only | split | (simp (maxDischargeDepth := 40) +contextual [kept_upd, *]; done)

theorem execLane0EnterL0_keep (h : Kept p s)  : KeptR p (execLane0EnterL0 s) := by
  unfold execLane0EnterL0
  repeat' first | (with_reducible first | assumption | refine keptR_next ?_ | refine kept_ite.2 ⟨fun _ => ?_, fun _ => ?_⟩ | refine State.updClk_keep ?_ ..) | dsimp only | split | (simp (maxDischargeDepth := 40) +contextual [kept_upd, *]; done)

@[simp] theorem leaveL0_keep (h : Kept p s) : Kept p (leaveL0 s) := by
  unfold leaveL0
  repeat' first | (with_reducible first | assumption) | (with_reducible first | refine kept_ite.2 ⟨fun _ => ?_, fun _ => ?_⟩ | refine tripPilot_keep ?_ .. | refine State.updClk_keep ?_ ..) | dsimp only | (simp only [kept_mk_iff]; with_reducible refine kept_upd' ?_ (by simp (maxDischargeDepth := 40) +contextual)) | split | (simp (maxDischargeDepth := 40) +contextual [kept_upd, *]; done)

theorem execLane0LeaveL0_keep (h : Kept p s) : KeptR p (execLane0LeaveL0 s) := by
  unfold execLane0LeaveL0
  repeat' first | (with_reducible first | assumption | refine keptR_next ?_) | (with_reducible first | refine leaveL0_keep ?_ ..) | dsimp only | split | (simp (maxDischargeDepth := 40) +contextual [kept_upd, *]; done)

theorem execRootAttemptStart_keep (h : Kept p s)  : KeptR p (execRootAttemptStart s) := by
  unfold execRootAttemptStart
  repeat' first | (with_reducible first | assumption | refine keptR_next ?_ | refine kept_ite.2 ⟨fun _ => ?_, fun _ => ?_⟩ | refine State.updClk_keep ?_ ..) | dsimp only | split | (simp (maxDischargeDepth := 40) +contextual [kept_upd, *]; done)

theorem execRootAttemptTimeout_keep (h : Kept p s)  : KeptR p (execRootAttemptTimeout s) := by
  unfold execRootAttemptTimeout
  repeat' first | (with_reducible first | assumption | refine keptR_next ?_) | (extract_lets +onlyGivenNames t; refine kept_cut (q := Kept p t) ?_ fun ht => ?_; (on_goal 2 => clear_value t); on_goal 1 => (simp only [t]; try clear t)) | (extract_lets +onlyGivenNames t; clear_value t) | (with_reducible first | refine kept_ite.2 ⟨fun _ => ?_, fun _ => ?_⟩ | refine State.updClk_keep ?_ .. | refine logEvent_keep ?_ .. | refine raiseErr_keep ?_ ..) | dsimp only | split | (simp (maxDischargeDepth := 40) +contextual [kept_upd, *]; done)

theorem execRootSeriesRetry_keep (h : Kept p s)  : KeptR p (execRootSeriesRetry s) := by
  unfold execRootSeriesRetry
  repeat' first | (with_reducible first | assumption | refine keptR_next ?_ | refine kept_ite.2 ⟨fun _ => ?_, fun _ => ?_⟩ | refine State.updClk_keep ?_ ..) | dsimp only | split | (simp (maxDischargeDepth := 40) +contextual [kept_upd, *]; done)

@[simp] theorem endHold_keep (h : Kept p s)  : Kept p (endHold s) := by
  unfold endHold
  extract_lets src reach s1 s2 s3 s4 fl s5 s6 fin
  have h6 : Kept p s6 := by simp (maxDischargeDepth := 40) [s6, s5, s4, s3, s2, s1, h]
  have hf : ∀ x, Kept p x → Kept p (fin x) := fun x hx => State.updClk_keep hx _
  clear_value fin s6 src
  split
  · exact enterBoot_keep (hf _ h6)
  · exact hf _ (goState_keep h6 _)
  · exact hf _ (goState_keep h6 _)
  · exact State.updClk_keep h6 _

@[simp] theorem acceptRoot_keep (h : Kept p s)  : Kept p (acceptRoot s) := by
  unfold acceptRoot
  repeat' first | with_reducible assumption | (extract_lets +onlyGivenNames t; refine kept_cut (q := Kept p t) ?_ fun ht => ?_; (on_goal 2 => clear_value t); on_goal 1 => (simp only [t]; try clear t)) | (extract_lets +onlyGivenNames t; clear_value t) | (with_reducible first | refine kept_ite.2 ⟨fun _ => ?_, fun _ => ?_⟩ | refine State.updClk_keep ?_ .. | refine endHold_keep ?_ .. | refine logEvent_keep ?_ .. | refine tryBoot_keep ?_ ..) | dsimp only | split | (simp (maxDischargeDepth := 40) +contextual [kept_upd, *]; done)

theorem execMonitorWindow_keep (h : Kept p s) (pll : PllId) (count : Nat) : KeptR p (execMonitorWindow pll count s) := by
  unfold execMonitorWindow
  repeat' first | (with_reducible first | assumption | refine keptR_next ?_ | refine hf1 _ ?_ | refine hf2 _ _ ?_) | (extract_lets +onlyGivenNames t; refine kept_cut (q := Kept p t) ?_ fun ht => ?_; (on_goal 2 => clear_value t); on_goal 1 => (simp only [t]; try clear t)) | (extract_lets +onlyGivenNames t; refine kept_cut (q := ∀ x : State, Kept p x → Kept p (t x)) ?_ fun hf1 => ?_; (on_goal 2 => clear_value t); on_goal 1 => (simp only [t]; try clear t; intro _ _)) | (extract_lets +onlyGivenNames t; refine kept_cut (q := ∀ (x : State) y, Kept p x → Kept p (t x y)) ?_ fun hf2 => ?_; (on_goal 2 => clear_value t); on_goal 1 => (simp only [t]; try clear t; intro _ _ _)) | (extract_lets +onlyGivenNames t; refine kept_cut (q := ∀ x : State, Kept p x → Kept p (t x).2) ?_ fun hf4 => ?_; (on_goal 2 => clear_value t); on_goal 1 => (simp only [t]; try clear t; intro _ _)) | with_reducible refine hf4 _ ?_ | (extract_lets +onlyGivenNames t; clear_value t) | (with_reducible first | refine kept_ite.2 ⟨fun _ => ?_, fun _ => ?_⟩ | refine State.updClk_keep ?_ .. | refine acceptRoot_keep ?_ .. | refine tripPilot_keep ?_ .. | refine tripRoot_keep ?_ ..) | dsimp only | split | (simp (maxDischargeDepth := 40) +contextual [kept_upd, *]; done)

theorem execDividerStep_keep (h : Kept p s)  : KeptR p (execDividerStep s) := by
  unfold execDividerStep
  repeat' first | (with_reducible first | assumption | refine keptR_next ?_) | (extract_lets +onlyGivenNames t; refine kept_cut (q := Kept p t) ?_ fun ht => ?_; (on_goal 2 => clear_value t); on_goal 1 => (simp only [t]; try clear t)) | (extract_lets +onlyGivenNames t; clear_value t) | (with_reducible first | refine kept_ite.2 ⟨fun _ => ?_, fun _ => ?_⟩ | refine State.updClk_keep ?_ ..) | dsimp only | split | (simp (maxDischargeDepth := 40) +contextual [kept_upd, *]; done)

/-- A store of numbers whose values change in place and whose zeros go. -/
theorem wf_filterMapZ {m : SMap Nat} (f : Nat → Nat) (h : wf 0 m = true) :
    wf 0 (m.filterMap fun e => if f e.2 = 0 then none else some (e.1, f e.2)) = true := by
  obtain ⟨hp, -⟩ := (wf_iff 0 m).1 h
  refine (wf_iff 0 _).2 ⟨?_, ?_⟩
  · rw [List.pairwise_filterMap]
    refine hp.imp fun {a b} hab x hx y hy => ?_
    split at hx <;> simp at hx
    split at hy <;> simp at hy
    rw [← hx, ← hy]; exact hab
  · intro e he
    obtain ⟨a, -, ha⟩ := List.mem_filterMap.1 he
    split at ha
    · cases ha
    · cases ha; assumption

@[simp] theorem rebuildGold_keep (h : Kept p s)  : Kept p (rebuildGold s) := by
  exact kept_upd' h ⟨.inl rfl, .inl rfl, .inr fun _ => wf_filterMapZ dataBits (wf_filter _ h.cells), .inl rfl, .inl rfl, .inl rfl, .inl rfl, .inl rfl, .inl rfl, .inl rfl, .inl rfl⟩

@[simp] theorem freeCtx_keep (h : Kept p s) (ctx : Nat) : Kept p (freeCtx s ctx) := by
  unfold freeCtx
  repeat' first | (with_reducible first | assumption) | (extract_lets +onlyGivenNames t; refine kept_cut (q := Kept p t) ?_ fun ht => ?_; (on_goal 2 => clear_value t); on_goal 1 => (simp only [t]; try clear t)) | (extract_lets +onlyGivenNames t; clear_value t) | (with_reducible first | refine kept_foldl ?_ (fun _ _ _ => ?_) | refine kept_foldl_mid ?_ (fun _ _ _ => ?_) | refine kept_foldl_fst ?_ (fun _ _ _ => ?_) | refine uncache_keep ?_ .. | refine State.setCtx_keep ?_ ..) | ((with_reducible refine State.updTile_keep ?_ _ _ ?_); on_goal 2 => exact id) | ((with_reducible refine State.updTile_keep ?_ _ _ ?_); on_goal 2 => exact fun _ => rfl) | ((with_reducible refine State.updTile_keep ?_ _ _ ?_); on_goal 2 => (simp (maxDischargeDepth := 40) +contextual [*]; done)) | ((with_reducible refine State.updTile_keep ?_ _ _ ?_); on_goal 2 => (intro hm; dsimp only; (repeat' split) <;> simp_all (maxDischargeDepth := 40); done)) | dsimp only | (simp only [kept_mk_iff]; with_reducible refine kept_upd' ?_ (by simp (maxDischargeDepth := 40) +contextual)) | split | (simp (maxDischargeDepth := 40) +contextual [kept_upd, *]; done)

@[simp] theorem leaveChimney_keep (h : Kept p s)  : Kept p (leaveChimney s) := by
  unfold leaveChimney
  repeat' first | (with_reducible first | assumption | refine hf1 _ ?_ | refine hf2 _ _ ?_) | (extract_lets +onlyGivenNames t; refine kept_cut (q := Kept p t) ?_ fun ht => ?_; (on_goal 2 => clear_value t); on_goal 1 => (simp only [t]; try clear t)) | (extract_lets +onlyGivenNames t; refine kept_cut (q := ∀ x : State, Kept p x → Kept p (t x)) ?_ fun hf1 => ?_; (on_goal 2 => clear_value t); on_goal 1 => (simp only [t]; try clear t; intro _ _)) | (extract_lets +onlyGivenNames t; refine kept_cut (q := ∀ (x : State) y, Kept p x → Kept p (t x y)) ?_ fun hf2 => ?_; (on_goal 2 => clear_value t); on_goal 1 => (simp only [t]; try clear t; intro _ _ _)) | (extract_lets +onlyGivenNames t; refine kept_cut (q := ∀ x : State, Kept p x → Kept p (t x).2) ?_ fun hf4 => ?_; (on_goal 2 => clear_value t); on_goal 1 => (simp only [t]; try clear t; intro _ _)) | with_reducible refine hf4 _ ?_ | (extract_lets +onlyGivenNames t; clear_value t) | (with_reducible first | refine kept_ite.2 ⟨fun _ => ?_, fun _ => ?_⟩ | refine kept_foldl ?_ (fun _ _ _ => ?_) | refine freeCtx_keep ?_ ..) | dsimp only | (simp only [kept_mk_iff]; with_reducible refine kept_upd' ?_ (by simp (maxDischargeDepth := 40) +contextual)) | split | (simp (maxDischargeDepth := 40) +contextual [kept_upd, *]; done)

@[simp] theorem dropSessions_keep (h : Kept p s)  : Kept p (dropSessions s) := by
  unfold dropSessions
  repeat' first | with_reducible assumption | dsimp only | (simp only [kept_mk_iff]; with_reducible refine kept_upd' ?_ (by simp (maxDischargeDepth := 40) +contextual)) | (simp (maxDischargeDepth := 40) +contextual [kept_upd, *]; done)

@[simp] theorem dropHbm_keep (h : Kept p s)  : Kept p (dropHbm s) := by
  unfold dropHbm
  repeat' first | with_reducible assumption | (extract_lets +onlyGivenNames t; refine kept_cut (q := Kept p t) ?_ fun ht => ?_; (on_goal 2 => clear_value t); on_goal 1 => (simp only [t]; try clear t)) | (extract_lets +onlyGivenNames t; clear_value t) | with_reducible refine kept_foldl ?_ (fun _ _ _ => ?_) | ((with_reducible refine State.updKv_keep ?_ _ ?_); on_goal 2 => exact id) | ((with_reducible refine State.updKv_keep ?_ _ ?_); on_goal 2 => exact fun _ => rfl) | ((with_reducible refine State.updKv_keep ?_ _ ?_); on_goal 2 => (simp (maxDischargeDepth := 40) +contextual [*]; done)) | ((with_reducible refine State.updKv_keep ?_ _ ?_); on_goal 2 => (intro hm; dsimp only; (repeat' split) <;> simp_all (maxDischargeDepth := 40); done)) | with_reducible refine haltCtx_keep ?_ .. | dsimp only | (simp only [kept_mk_iff]; with_reducible refine kept_upd' ?_ (by simp (maxDischargeDepth := 40) +contextual)) | split | (simp (maxDischargeDepth := 40) +contextual [kept_upd, *]; done)

theorem execHbmRecovery_keep (h : Kept p s) (badRow : Option Nat) : KeptR p (execHbmRecovery badRow s) := by
  unfold execHbmRecovery
  repeat' first | (with_reducible first | assumption | refine keptR_next ?_) | (extract_lets +onlyGivenNames t; refine kept_cut (q := Kept p t) ?_ fun ht => ?_; (on_goal 2 => clear_value t); on_goal 1 => (simp only [t]; try clear t)) | (extract_lets +onlyGivenNames t; clear_value t) | (with_reducible first | refine kept_ite.2 ⟨fun _ => ?_, fun _ => ?_⟩ | refine dropHbm_keep ?_ .. | refine dropSessions_keep ?_ .. | refine enterFailed_keep ?_ .. | refine leaveChimney_keep ?_ .. | refine rebuildGold_keep ?_ .. | refine toMaintenance_keep ?_ .. | refine State.updClk_keep ?_ ..) | dsimp only | (simp only [kept_mk_iff]; with_reducible refine kept_upd' ?_ (by simp (maxDischargeDepth := 40) +contextual)) | split | (simp (maxDischargeDepth := 40) +contextual [kept_upd, *]; done)

@[simp] theorem loadTrims_keep (h : Kept p s) (t : TrimSet) : Kept p (loadTrims s t) := by
  refine kept_foldl (kept_foldl ?_ fun s a h => State.updArr_keep h _ _) fun s a h => State.updArr_keep h _ _
  exact kept_upd' h ⟨.inl rfl, .inl rfl, .inl rfl, .inl rfl, .inl rfl, .inl rfl, .inl rfl, .inr fun _ => wf_filter _ (wf_mapVals' _ h.arrs), .inl rfl, .inl rfl, .inl rfl⟩

@[simp] theorem loadRecord_keep (h : Kept p s)  : Kept p (loadRecord s) := by
  unfold loadRecord
  repeat' first | (with_reducible first | assumption | refine State.updCal_keep ?_ .. | refine loadTrims_keep ?_ ..) | dsimp only | split | (simp (maxDischargeDepth := 40) +contextual [kept_upd, *]; done)

@[simp] theorem logSigFail_keep (h : Kept p s) (slot : Nat) (source : Nat) : Kept p (logSigFail s slot source) := by
  unfold logSigFail
  repeat' first | (with_reducible first | assumption | refine logEvent_keep ?_ ..) | dsimp only | (simp (maxDischargeDepth := 40) +contextual [kept_upd, *]; done)

@[simp] theorem bootWith_keep (h : Kept p s) (slot : Nat) (ms : Nat) (fallback : Bool) : Kept p (bootWith s slot ms fallback) := by
  unfold bootWith
  repeat' first | with_reducible assumption | (extract_lets +onlyGivenNames t; refine kept_cut (q := Kept p t) ?_ fun ht => ?_; (on_goal 2 => clear_value t); on_goal 1 => (simp only [t]; try clear t)) | (extract_lets +onlyGivenNames t; clear_value t) | (with_reducible first | refine State.updDev_keep ?_ .. | refine loadRecord_keep ?_ .. | refine logEvent_keep ?_ .. | refine toMaintenance_keep ?_ ..) | dsimp only | split | (simp (maxDischargeDepth := 40) +contextual [kept_upd, *]; done)

theorem execBootComplete_keep (h : Kept p s) (ms : Nat) (failed : Option Nat) : KeptR p (execBootComplete ms failed s) := by
  unfold execBootComplete
  repeat' first | (with_reducible first | assumption | refine keptR_next ?_) | (extract_lets +onlyGivenNames t; refine kept_cut (q := Kept p t) ?_ fun ht => ?_; (on_goal 2 => clear_value t); on_goal 1 => (simp only [t]; try clear t)) | (extract_lets +onlyGivenNames t; clear_value t) | (with_reducible first | refine kept_ite.2 ⟨fun _ => ?_, fun _ => ?_⟩ | refine State.updDev_keep ?_ .. | refine bootWith_keep ?_ .. | refine enterFailed_keep ?_ .. | refine logSigFail_keep ?_ ..) | dsimp only | (simp only [kept_mk_iff]; with_reducible refine kept_upd' ?_ (by simp (maxDischargeDepth := 40) +contextual)) | split | (simp (maxDischargeDepth := 40) +contextual [kept_upd, *]; done)

end Sys2Proof.Machine
end

