-- ==== Sys2Proof/Laws/Keep/Thermal.lean ====
section
/-! SUPPORT. What every operation of Machine/Thermal.lean keeps. -/

namespace Sys2Proof.Machine

set_option linter.all false

variable {p : List Instr} {s : State}

@[simp] theorem rescaleAll_keep (h : Kept p s)  : Kept p (rescaleAll s) := by
  unfold rescaleAll
  repeat' first | with_reducible assumption | (extract_lets +onlyGivenNames t; refine kept_cut (q := Kept p t) ?_ fun ht => ?_; (on_goal 2 => clear_value t); on_goal 1 => (simp only [t]; try clear t)) | (extract_lets +onlyGivenNames t; clear_value t) | (with_reducible first | refine State.updCal_keep ?_ .. | refine State.updChim_keep ?_ ..) | dsimp only | (simp only [kept_mk_iff]; with_reducible refine kept_upd' ?_ (by simp (maxDischargeDepth := 40) +contextual)) | (simp (maxDischargeDepth := 40) +contextual [kept_upd, *]; done)

@[simp] theorem pickNode_keep (h : Kept p s) (l : List Nat) : Kept p (pickNode s l).2 := by
  unfold pickNode
  repeat' first | with_reducible assumption | (extract_lets +onlyGivenNames t; refine kept_cut (q := Kept p t) ?_ fun ht => ?_; (on_goal 2 => clear_value t); on_goal 1 => (simp only [t]; try clear t)) | (extract_lets +onlyGivenNames t; clear_value t) | (with_reducible first | refine State.fresh_keep ?_ .. | refine State.fresh_keep' (e := by with_reducible assumption) ?_ | refine kept_pick' (e := by with_reducible assumption) ?_) | dsimp only | split | (simp (maxDischargeDepth := 40) +contextual [kept_upd, *]; done)

theorem pickNode_keep' (h : Kept p s) {l : List Nat} {t' : State} {x} (e : pickNode s l = (x, t')) : Kept p t' := by
  have := pickNode_keep h l
  rw [e] at this; exact this

@[simp] theorem thmCritical_keep (h : Kept p s) (node : Nat) (temp : Int) (rate : Int) : Kept p (thmCritical s node temp rate) := by
  unfold thmCritical
  repeat' first | with_reducible assumption | (extract_lets +onlyGivenNames t; refine kept_cut (q := Kept p t) ?_ fun ht => ?_; (on_goal 2 => clear_value t); on_goal 1 => (simp only [t]; try clear t)) | (extract_lets +onlyGivenNames t; clear_value t) | (with_reducible first | refine State.updErr_keep ?_ .. | refine State.updPwr_keep ?_ .. | refine beginDown_keep ?_ .. | refine enterFailed_keep ?_ .. | refine flushLog_keep ?_ .. | refine forceSafe_keep ?_ .. | refine logEvent_keep ?_ ..) | dsimp only | (simp (maxDischargeDepth := 40) +contextual [kept_upd, *]; done)

@[simp] theorem stepDown_keep (h : Kept p s) (code : Nat) (l : List Nat) (rate : Nat → Int) : Kept p (stepDown s code l rate) := by
  unfold stepDown
  repeat' first | with_reducible assumption | (extract_lets +onlyGivenNames t; refine kept_cut (q := Kept p t) ?_ fun ht => ?_; (on_goal 2 => clear_value t); on_goal 1 => (simp only [t]; try clear t)) | (extract_lets +onlyGivenNames t; clear_value t) | (with_reducible first | refine kept_ite.2 ⟨fun _ => ?_, fun _ => ?_⟩ | refine State.updThm_keep ?_ .. | refine logEvent_keep ?_ .. | refine pickNode_keep ?_ .. | refine pickNode_keep' (e := by with_reducible assumption) ?_) | dsimp only | split | (simp (maxDischargeDepth := 40) +contextual [kept_upd, *]; done)

@[simp] theorem thmUpdate_keep (h : Kept p s) (u : ThmIn) : Kept p (thmUpdate s u) := by
  unfold thmUpdate
  repeat' first | (with_reducible first | assumption | refine hf1 _ ?_ | refine hf2 _ _ ?_ | refine hf3 _ _ _ ?_) | (extract_lets +onlyGivenNames t; refine kept_cut (q := Kept p t) ?_ fun ht => ?_; (on_goal 2 => clear_value t); on_goal 1 => (simp only [t]; try clear t)) | (extract_lets +onlyGivenNames t; refine kept_cut (q := ∀ x : State, Kept p x → Kept p (t x)) ?_ fun hf1 => ?_; (on_goal 2 => clear_value t); on_goal 1 => (simp only [t]; try clear t; intro _ _)) | (extract_lets +onlyGivenNames t; refine kept_cut (q := ∀ (x : State) y, Kept p x → Kept p (t x y)) ?_ fun hf2 => ?_; (on_goal 2 => clear_value t); on_goal 1 => (simp only [t]; try clear t; intro _ _ _)) | (extract_lets +onlyGivenNames t; refine kept_cut (q := ∀ x, Kept p (t x)) ?_ fun hf6 => ?_; (on_goal 2 => clear_value t); on_goal 1 => (simp only [t]; try clear t; intro _)) | with_reducible refine hf6 _ | (extract_lets +onlyGivenNames t; refine kept_cut (q := ∀ x : State, Kept p x → Kept p (t x).2) ?_ fun hf4 => ?_; (on_goal 2 => clear_value t); on_goal 1 => (simp only [t]; try clear t; intro _ _)) | with_reducible refine hf4 _ ?_ | (extract_lets +onlyGivenNames t; refine kept_cut (q := ∀ x : State, Kept p x → Kept p (t x).1) ?_ fun hf5 => ?_; (on_goal 2 => clear_value t); on_goal 1 => (simp only [t]; try clear t; intro _ _)) | with_reducible refine hf5 _ ?_ | (extract_lets +onlyGivenNames t; clear_value t) | (with_reducible first | refine kept_ite.2 ⟨fun _ => ?_, fun _ => ?_⟩ | refine logEvent_keep ?_ .. | refine pickNode_keep ?_ .. | refine pickNode_keep' (e := by with_reducible assumption) ?_ | refine stepDown_keep ?_ .. | refine thmCritical_keep ?_ .. | refine State.updThm_keep ?_ ..) | dsimp only | (simp only [kept_mk_iff]; with_reducible refine kept_upd' ?_ (by simp (maxDischargeDepth := 40) +contextual)) | split | (simp (maxDischargeDepth := 40) +contextual [kept_upd, *]; done)

theorem execThmUpdate_keep (h : Kept p s) (u : ThmIn) : KeptR p (execThmUpdate u s) := by
  unfold execThmUpdate
  repeat' first | (with_reducible first | assumption | refine keptR_next ?_ | refine kept_ite.2 ⟨fun _ => ?_, fun _ => ?_⟩ | refine rescaleAll_keep ?_ .. | refine thmUpdate_keep ?_ ..) | dsimp only | split | (simp (maxDischargeDepth := 40) +contextual [kept_upd, *]; done)

theorem execCoefficientAdjust_keep (h : Kept p s) (measured : List (Option Nat)) (modelled : List Nat) : KeptR p (execCoefficientAdjust measured modelled s) := by
  unfold execCoefficientAdjust
  repeat' first | (with_reducible first | assumption | refine keptR_next ?_ | refine kept_ite.2 ⟨fun _ => ?_, fun _ => ?_⟩ | refine State.updThm_keep ?_ ..) | dsimp only | split | (simp (maxDischargeDepth := 40) +contextual [kept_upd, *]; done)

theorem execSensorInvalid_keep (h : Kept p s) (x : Sensor) : KeptR p (execSensorInvalid x s) := by
  unfold execSensorInvalid
  repeat' first | (with_reducible first | assumption | refine keptR_next ?_ | refine kept_ite.2 ⟨fun _ => ?_, fun _ => ?_⟩ | refine State.updThm_keep ?_ ..) | dsimp only | split | (simp (maxDischargeDepth := 40) +contextual [kept_upd, *]; done)

theorem execPowerLimit_keep (h : Kept p s) (ring : Nat) (seq : Nat) : KeptR p (execPowerLimit ring seq s) := by
  unfold execPowerLimit
  repeat' first | (with_reducible first | assumption | refine keptR_next ?_) | (extract_lets +onlyGivenNames t; refine kept_cut (q := Kept p t) ?_ fun ht => ?_; (on_goal 2 => clear_value t); on_goal 1 => (simp only [t]; try clear t)) | (extract_lets +onlyGivenNames t; clear_value t) | (with_reducible first | refine State.updThm_keep ?_ .. | refine finish_keep ?_ ..) | ((with_reducible refine onReady_keep ?_ _ _ _ _ (fun _ => ?_)); on_goal 2 => beta_reduce) | dsimp only | (simp (maxDischargeDepth := 40) +contextual [kept_upd, *]; done)

end Sys2Proof.Machine
end

