-- ==== Sys2Proof/Laws/Keep/Flags.lean ====
section
/-! SUPPORT. What every operation of Machine/Flags.lean keeps. -/

namespace Sys2Proof.Machine

set_option linter.all false

variable {p : List Instr} {s : State}

end Sys2Proof.Machine
end

