-- ==== Sys2Proof/Laws/Keep/Loader.lean ====
section
/-! SUPPORT. What every operation of Machine/Loader.lean keeps. -/

namespace Sys2Proof.Machine

set_option linter.all false

variable {p : List Instr} {s : State}

@[simp] theorem loadCells_keep (h : Kept p s) (b : List Byte) (i : Image) : Kept p (loadCells s b i) := by
  unfold loadCells
  repeat' first | with_reducible assumption | (extract_lets +onlyGivenNames t; refine kept_cut (q := Kept p t) ?_ fun ht => ?_; (on_goal 2 => clear_value t); on_goal 1 => (simp only [t]; try clear t)) | (extract_lets +onlyGivenNames t; clear_value t) | (with_reducible first | refine kept_foldl ?_ (fun _ _ _ => ?_) | refine setGold_keep ?_ .. | refine setRow_keep ?_ ..) | dsimp only | (simp only [kept_mk_iff]; with_reducible refine kept_upd' ?_ (by simp (maxDischargeDepth := 40) +contextual)) | (simp (maxDischargeDepth := 40) +contextual [kept_upd, *]; done)

/-- A fold keeps what each of its steps keeps. -/
theorem foldl_keep {α β : Type} {q : β → Prop} {f : β → α → β} (hf : ∀ b a, q b → q (f b a)) (l : List α) (b : β) (h : q b) :
    q (l.foldl f b) := by
  induction l generalizing b with
  | nil => exact h
  | cons a l ih => exact ih _ (hf b a h)

@[simp] theorem initMem_wf (b : List Byte) (i : Nat) {m : Mem} (h : Mem.wf m = true) : Mem.wf (initMem b i m) = true := by
  unfold initMem
  refine foldl_keep (q := fun m => Mem.wf m = true) (fun m x hm => ?_) _ _ (foldl_keep (q := fun m => Mem.wf m = true) (fun m x hm => wf_filter _ hm) _ _ h)
  split
  · exact Mem.wf_write _ _ _ hm
  · exact hm

@[simp] theorem loadImage_keep (h : Kept p s) (ctx : Nat) (b : List Byte) (origin : Nat) : Kept p (loadImage s ctx b origin) := by
  unfold loadImage
  repeat' first | with_reducible assumption | (extract_lets +onlyGivenNames t; refine kept_cut (q := Kept p t) ?_ fun ht => ?_; (on_goal 2 => clear_value t); on_goal 1 => (simp only [t]; try clear t)) | (extract_lets +onlyGivenNames t; clear_value t) | (with_reducible first | refine kept_foldl ?_ (fun _ _ _ => ?_) | refine State.updCtx_keep ?_ ..) | ((with_reducible refine State.updTile_keep ?_ _ _ ?_); on_goal 2 => exact id) | ((with_reducible refine State.updTile_keep ?_ _ _ ?_); on_goal 2 => exact fun _ => rfl) | ((with_reducible refine State.updTile_keep ?_ _ _ ?_); on_goal 2 => (simp (maxDischargeDepth := 40) +contextual [*]; done)) | ((with_reducible refine State.updTile_keep ?_ _ _ ?_); on_goal 2 => (intro hm; dsimp only; (repeat' split) <;> simp_all (maxDischargeDepth := 40); done)) | with_reducible refine loadCells_keep ?_ .. | dsimp only | (simp (maxDischargeDepth := 40) +contextual [kept_upd, *]; done)

end Sys2Proof.Machine
end

