-- ==== Sys2Proof/Laws/Keep/Link.lean ====
section
/-! SUPPORT. What every operation of Machine/Link.lean keeps. -/

namespace Sys2Proof.Machine

set_option linter.all false

variable {p : List Instr} {s : State}

@[simp] theorem pickPort_keep (h : Kept p s) (k : Nat) (plus : Bool) : Kept p (pickPort s k plus).2 := by
  unfold pickPort
  repeat' first | with_reducible assumption | (extract_lets +onlyGivenNames t; refine kept_cut (q := Kept p t) ?_ fun ht => ?_; (on_goal 2 => clear_value t); on_goal 1 => (simp only [t]; try clear t)) | (extract_lets +onlyGivenNames t; clear_value t) | (with_reducible first | refine State.fresh_keep ?_ .. | refine State.fresh_keep' (e := by with_reducible assumption) ?_ | refine kept_pick' (e := by with_reducible assumption) ?_) | dsimp only | split | (simp (maxDischargeDepth := 40) +contextual [kept_upd, *]; done)

theorem pickPort_keep' (h : Kept p s) {k : Nat} {plus : Bool} {t' : State} {x} (e : pickPort s k plus = (x, t')) : Kept p t' := by
  have := pickPort_keep h k plus
  rw [e] at this; exact this

@[simp] theorem wayOut_keep (h : Kept p s) (k : Nat) (plus : Bool) : Kept p (wayOut s k plus).2 := by
  unfold wayOut
  repeat' first | with_reducible assumption | (extract_lets +onlyGivenNames t; refine kept_cut (q := Kept p t) ?_ fun ht => ?_; (on_goal 2 => clear_value t); on_goal 1 => (simp only [t]; try clear t)) | (extract_lets +onlyGivenNames t; clear_value t) | (with_reducible first | refine kept_ite.2 ⟨fun _ => ?_, fun _ => ?_⟩ | refine pickPort_keep ?_ .. | refine pickPort_keep' (e := by with_reducible assumption) ?_) | dsimp only | split | (simp (maxDischargeDepth := 40) +contextual [kept_upd, *]; done)

theorem wayOut_keep' (h : Kept p s) {k : Nat} {plus : Bool} {t' : State} {x} (e : wayOut s k plus = (x, t')) : Kept p t' := by
  have := wayOut_keep h k plus
  rw [e] at this; exact this

@[simp] theorem route_keep (h : Kept p s) (dst : Nat) (flags : Nat) (came : Option (Nat × Bool)) : Kept p (route s dst flags came).2.2 := by
  unfold route
  repeat' first | with_reducible assumption | (extract_lets +onlyGivenNames t; refine kept_cut (q := Kept p t) ?_ fun ht => ?_; (on_goal 2 => clear_value t); on_goal 1 => (simp only [t]; try clear t)) | (extract_lets +onlyGivenNames t; clear_value t) | (with_reducible first | refine kept_ite.2 ⟨fun _ => ?_, fun _ => ?_⟩ | refine wayOut_keep ?_ .. | refine wayOut_keep' (e := by with_reducible assumption) ?_) | dsimp only | with_reducible refine kept_elim ?_ fun _ => ?_ | split | (simp (maxDischargeDepth := 40) +contextual [kept_upd, *]; done)

theorem route_keep' (h : Kept p s) {dst : Nat} {flags : Nat} {came : Option (Nat × Bool)} {t' : State} {x y} (e : route s dst flags came = (x, y, t')) : Kept p t' := by
  have := route_keep h dst flags came
  rw [e] at this; exact this

@[simp] theorem setLnk_keep (h : Kept p s) (l : LinkId) (x : Lnk) : Kept p (setLnk s l x) := by
  unfold setLnk
  repeat' first | (with_reducible first | assumption | refine kept_ite.2 ⟨fun _ => ?_, fun _ => ?_⟩ | refine State.updChim_keep ?_ ..) | dsimp only | split | (simp (maxDischargeDepth := 40) +contextual [kept_upd, *]; done)

@[simp] theorem updPort_keep (h : Kept p s) (p' : Nat) (f : Port → Port) : Kept p (updPort s p' f) := by
  unfold updPort
  repeat' first | (with_reducible first | assumption | refine State.updChim_keep ?_ ..) | dsimp only | (simp (maxDischargeDepth := 40) +contextual [kept_upd, *]; done)

@[simp] theorem emit_keep (h : Kept p s) (l : LinkId) (f : Frame) : Kept p (emit s l f) := by
  unfold emit
  repeat' first | (with_reducible first | assumption) | (with_reducible first | refine updPort_keep ?_ .. | refine State.updChim_keep ?_ ..) | dsimp only | (simp only [kept_mk_iff]; with_reducible refine kept_upd' ?_ (by simp (maxDischargeDepth := 40) +contextual)) | split | (simp (maxDischargeDepth := 40) +contextual [kept_upd, *]; done)

@[simp] theorem sendOn_keep (h : Kept p s) (l : LinkId) (f : Frame) : Kept p (sendOn s l f) := by
  unfold sendOn
  repeat' first | (with_reducible first | assumption) | (extract_lets +onlyGivenNames t; refine kept_cut (q := Kept p t) ?_ fun ht => ?_; (on_goal 2 => clear_value t); on_goal 1 => (simp only [t]; try clear t)) | (extract_lets +onlyGivenNames t; clear_value t) | (with_reducible first | refine kept_ite.2 ⟨fun _ => ?_, fun _ => ?_⟩ | refine emit_keep ?_ .. | refine setLnk_keep ?_ ..) | dsimp only | (simp only [kept_mk_iff]; with_reducible refine kept_upd' ?_ (by simp (maxDischargeDepth := 40) +contextual)) | split | (simp (maxDischargeDepth := 40) +contextual [kept_upd, *]; done)

@[simp] theorem sendWaiting_keep (h : Kept p s) (l : LinkId) : Kept p (sendWaiting s l) := by
  unfold sendWaiting
  repeat' first | with_reducible assumption | (extract_lets +onlyGivenNames t; refine kept_cut (q := Kept p t) ?_ fun ht => ?_; (on_goal 2 => clear_value t); on_goal 1 => (simp only [t]; try clear t)) | (extract_lets +onlyGivenNames t; clear_value t) | (with_reducible first | refine kept_foldl ?_ (fun _ _ _ => ?_) | refine sendOn_keep ?_ .. | refine setLnk_keep ?_ ..) | dsimp only | (simp (maxDischargeDepth := 40) +contextual [kept_upd, *]; done)

@[simp] theorem sendFrame_keep (h : Kept p s) (ty : Nat) (dst : Nat) (step : Nat) (payload : List Byte) : Kept p (sendFrame s ty dst step payload) := by
  unfold sendFrame
  repeat' first | (with_reducible first | assumption) | (extract_lets +onlyGivenNames t; refine kept_cut (q := Kept p t) ?_ fun ht => ?_; (on_goal 2 => clear_value t); on_goal 1 => (simp only [t]; try clear t)) | (extract_lets +onlyGivenNames t; clear_value t) | (with_reducible first | refine kept_ite.2 ⟨fun _ => ?_, fun _ => ?_⟩ | refine route_keep ?_ .. | refine route_keep' (e := by with_reducible assumption) ?_ | refine sendOn_keep ?_ ..) | dsimp only | (simp only [kept_mk_iff]; with_reducible refine kept_upd' ?_ (by simp (maxDischargeDepth := 40) +contextual)) | split | (simp (maxDischargeDepth := 40) +contextual [kept_upd, *]; done)

@[simp] theorem sendLong_keep (h : Kept p s) (ty : Nat) (dst : Nat) (step : Nat) (head : List Nat) (bytes : List Byte) : Kept p (sendLong s ty dst step head bytes) := by
  unfold sendLong
  repeat' first | (with_reducible first | assumption) | (with_reducible first | refine kept_foldl ?_ (fun _ _ _ => ?_) | refine kept_foldl_mid ?_ (fun _ _ _ => ?_) | refine kept_foldl_fst ?_ (fun _ _ _ => ?_) | refine sendFrame_keep ?_ ..) | dsimp only | split | (simp (maxDischargeDepth := 40) +contextual [kept_upd, *]; done)

@[simp] theorem takePiece_keep (h : Kept p s) (f : Frame) : Kept p (takePiece s f).2 := by
  unfold takePiece
  repeat' first | (with_reducible first | assumption | refine hf1 _ ?_ | refine hf2 _ _ ?_ | refine hf3 _ _ _ ?_) | (extract_lets +onlyGivenNames t; refine kept_cut (q := Kept p t) ?_ fun ht => ?_; (on_goal 2 => clear_value t); on_goal 1 => (simp only [t]; try clear t)) | (extract_lets +onlyGivenNames t; refine kept_cut (q := ∀ x : State, Kept p x → Kept p (t x)) ?_ fun hf1 => ?_; (on_goal 2 => clear_value t); on_goal 1 => (simp only [t]; try clear t; intro _ _)) | (extract_lets +onlyGivenNames t; refine kept_cut (q := ∀ (x : State) y, Kept p x → Kept p (t x y)) ?_ fun hf2 => ?_; (on_goal 2 => clear_value t); on_goal 1 => (simp only [t]; try clear t; intro _ _ _)) | (extract_lets +onlyGivenNames t; refine kept_cut (q := ∀ x, Kept p (t x)) ?_ fun hf6 => ?_; (on_goal 2 => clear_value t); on_goal 1 => (simp only [t]; try clear t; intro _)) | with_reducible refine hf6 _ | (extract_lets +onlyGivenNames t; refine kept_cut (q := ∀ x : State, Kept p x → Kept p (t x).2) ?_ fun hf4 => ?_; (on_goal 2 => clear_value t); on_goal 1 => (simp only [t]; try clear t; intro _ _)) | with_reducible refine hf4 _ ?_ | (extract_lets +onlyGivenNames t; refine kept_cut (q := ∀ x : State, Kept p x → Kept p (t x).1) ?_ fun hf5 => ?_; (on_goal 2 => clear_value t); on_goal 1 => (simp only [t]; try clear t; intro _ _)) | with_reducible refine hf5 _ ?_ | (extract_lets +onlyGivenNames t; clear_value t) | (with_reducible first | refine kept_ite.2 ⟨fun _ => ?_, fun _ => ?_⟩ | refine State.updChim_keep ?_ ..) | dsimp only | (simp only [kept_mk_iff]; with_reducible refine kept_upd' ?_ (by simp (maxDischargeDepth := 40) +contextual)) | split | (simp (maxDischargeDepth := 40) +contextual [kept_upd, *]; done)

theorem takePiece_keep' (h : Kept p s) {f : Frame} {t' : State} {x1} (e : takePiece s f = (x1, t')) : Kept p t' := by
  have := takePiece_keep h f; rw [e] at this; exact this

@[simp] theorem sendDown_keep (h : Kept p s) (ty : Nat) (step : Nat) (payload : List Byte) : Kept p (sendDown s ty step payload) := by
  unfold sendDown
  repeat' first | (with_reducible first | assumption | refine kept_foldl ?_ (fun _ _ _ => ?_) | refine sendFrame_keep ?_ ..) | dsimp only | (simp (maxDischargeDepth := 40) +contextual [kept_upd, *]; done)

end Sys2Proof.Machine
end

