-- ==== Sys2Proof/Laws/Keep/Kv.lean ====
section
/-! SUPPORT. What every operation of Machine/Kv.lean keeps. -/

namespace Sys2Proof.Machine

set_option linter.all false

variable {p : List Instr} {s : State}

@[simp] theorem updEntry_keep (h : Kept p s) (slot : Nat) (pair : Nat) (p' : Nat) (f : Entry → Entry) : Kept p (updEntry s slot pair p' f) := by
  unfold updEntry
  repeat' first | (with_reducible first | assumption | refine State.updReq_keep ?_ ..) | dsimp only | split | (simp (maxDischargeDepth := 40) +contextual [kept_upd, *]; done)

@[simp] theorem takePage_keep (h : Kept p s) (ctx : Nat) (pair : Nat) (p' : Nat) : Kept p (takePage s ctx pair p').2 := by
  unfold takePage
  repeat' first | with_reducible assumption | (extract_lets +onlyGivenNames t; refine kept_cut (q := Kept p t) ?_ fun ht => ?_; (on_goal 2 => clear_value t); on_goal 1 => (simp only [t]; try clear t)) | (extract_lets +onlyGivenNames t; clear_value t) | with_reducible refine State.setPage_keep ?_ .. | ((with_reducible refine State.updKv_keep ?_ _ ?_); on_goal 2 => exact id) | ((with_reducible refine State.updKv_keep ?_ _ ?_); on_goal 2 => exact fun _ => rfl) | ((with_reducible refine State.updKv_keep ?_ _ ?_); on_goal 2 => (simp (maxDischargeDepth := 40) +contextual [*]; done)) | ((with_reducible refine State.updKv_keep ?_ _ ?_); on_goal 2 => (intro hm; dsimp only; (repeat' split) <;> simp_all (maxDischargeDepth := 40); done)) | dsimp only | (simp (maxDischargeDepth := 40) +contextual [kept_upd, *]; done)

theorem takePage_keep' (h : Kept p s) {ctx : Nat} {pair : Nat} {p' : Nat} {t' : State} {x} (e : takePage s ctx pair p' = (x, t')) : Kept p t' := by
  have := takePage_keep h ctx pair p'
  rw [e] at this; exact this

@[simp] theorem sendMirrorFree_keep (h : Kept p s) (handle : Nat) (layer : Nat) (head : Nat) (p' : Nat) (ctx : Nat) (gone : Bool) : Kept p (sendMirrorFree s handle layer head p' ctx gone) := by
  unfold sendMirrorFree
  repeat' first | (with_reducible first | assumption | refine sendFrame_keep ?_ ..) | dsimp only | (simp (maxDischargeDepth := 40) +contextual [kept_upd, *]; done)

@[simp] theorem dropRef_keep (h : Kept p s) (id : Nat) : Kept p (dropRef s id) := by
  unfold dropRef
  repeat' first | with_reducible assumption | (extract_lets +onlyGivenNames t; refine kept_cut (q := Kept p t) ?_ fun ht => ?_; (on_goal 2 => clear_value t); on_goal 1 => (simp only [t]; try clear t)) | (extract_lets +onlyGivenNames t; clear_value t) | (with_reducible first | refine kept_ite.2 ⟨fun _ => ?_, fun _ => ?_⟩ | refine kept_foldl ?_ (fun _ _ _ => ?_) | refine State.updPage_keep ?_ .. | refine freePage_keep ?_ .. | refine updEntry_keep ?_ ..) | dsimp only | split | (simp (maxDischargeDepth := 40) +contextual [kept_upd, *]; done)

@[simp] theorem freeSpillSlot_keep (h : Kept p s) (ctx : Nat) : Kept p (freeSpillSlot s ctx).2 := by
  unfold freeSpillSlot
  repeat' first | with_reducible assumption | (extract_lets +onlyGivenNames t; refine kept_cut (q := Kept p t) ?_ fun ht => ?_; (on_goal 2 => clear_value t); on_goal 1 => (simp only [t]; try clear t)) | (extract_lets +onlyGivenNames t; clear_value t) | (with_reducible first | refine kept_ite.2 ⟨fun _ => ?_, fun _ => ?_⟩ | refine State.fresh_keep ?_ .. | refine State.fresh_keep' (e := by with_reducible assumption) ?_ | refine kept_pick' (e := by with_reducible assumption) ?_) | dsimp only | with_reducible refine kept_elim ?_ fun _ => ?_ | split | (simp (maxDischargeDepth := 40) +contextual [kept_upd, *]; done)

theorem freeSpillSlot_keep' (h : Kept p s) {ctx : Nat} {t' : State} {x} (e : freeSpillSlot s ctx = (x, t')) : Kept p t' := by
  have := freeSpillSlot_keep h ctx
  rw [e] at this; exact this

theorem spillOne_keep (h : Kept p s)  : KeptO p (spillOne s) := by
  unfold spillOne
  repeat' first | with_reducible assumption | (extract_lets +onlyGivenNames t; refine kept_cut (q := Kept p t) ?_ fun ht => ?_; (on_goal 2 => clear_value t); on_goal 1 => (simp only [t]; try clear t)) | (extract_lets +onlyGivenNames t; clear_value t) | (with_reducible first | refine kept_ite.2 ⟨fun _ => ?_, fun _ => ?_⟩ | refine kept_foldl ?_ (fun _ _ _ => ?_) | refine State.fresh_keep ?_ .. | refine State.fresh_keep' (e := by with_reducible assumption) ?_ | refine State.hostWrite_keep ?_ .. | refine State.updCtx_keep ?_ .. | refine State.updPage_keep ?_ .. | refine freeSpillSlot_keep ?_ .. | refine freeSpillSlot_keep' (e := by with_reducible assumption) ?_ | refine kept_pick' (e := by with_reducible assumption) ?_) | dsimp only | (with_reducible first | exact keptO_none | refine keptO_some ?_) | split | (simp (maxDischargeDepth := 40) +contextual [kept_upd, *]; done)

theorem spillOne_keep' (h : Kept p s)  {t' : State} (e : spillOne s = some t') : Kept p t' := spillOne_keep h  t' e

@[simp] theorem unbindIf_keep (h : Kept p s) (p' : Bound → Bool) : Kept p (unbindIf s p') := by
  unfold unbindIf
  repeat' first | (with_reducible first | assumption | refine hf1 _ ?_ | refine hf2 _ _ ?_ | refine hf3 _ _ _ ?_) | (extract_lets +onlyGivenNames t; refine kept_cut (q := Kept p t) ?_ fun ht => ?_; (on_goal 2 => clear_value t); on_goal 1 => (simp only [t]; try clear t)) | (extract_lets +onlyGivenNames t; refine kept_cut (q := ∀ x : State, Kept p x → Kept p (t x)) ?_ fun hf1 => ?_; (on_goal 2 => clear_value t); on_goal 1 => (simp only [t]; try clear t; intro _ _)) | (extract_lets +onlyGivenNames t; refine kept_cut (q := ∀ (x : State) y, Kept p x → Kept p (t x y)) ?_ fun hf2 => ?_; (on_goal 2 => clear_value t); on_goal 1 => (simp only [t]; try clear t; intro _ _ _)) | (extract_lets +onlyGivenNames t; refine kept_cut (q := ∀ x, Kept p (t x)) ?_ fun hf6 => ?_; (on_goal 2 => clear_value t); on_goal 1 => (simp only [t]; try clear t; intro _)) | with_reducible refine hf6 _ | (extract_lets +onlyGivenNames t; refine kept_cut (q := ∀ x : State, Kept p x → Kept p (t x).2) ?_ fun hf4 => ?_; (on_goal 2 => clear_value t); on_goal 1 => (simp only [t]; try clear t; intro _ _)) | with_reducible refine hf4 _ ?_ | (extract_lets +onlyGivenNames t; refine kept_cut (q := ∀ x : State, Kept p x → Kept p (t x).1) ?_ fun hf5 => ?_; (on_goal 2 => clear_value t); on_goal 1 => (simp only [t]; try clear t; intro _ _)) | with_reducible refine hf5 _ ?_ | (extract_lets +onlyGivenNames t; clear_value t) | dsimp only | (simp only [kept_mk_iff]; with_reducible refine kept_upd' ?_ (by simp (maxDischargeDepth := 40) +contextual)) | split | (simp (maxDischargeDepth := 40) +contextual [kept_upd, *]; done)

@[simp] theorem unbind_keep (h : Kept p s) (slot : Nat) (pair : Nat) (p' : Nat) : Kept p (unbind s slot pair p') := by
  unfold unbind
  repeat' first | (with_reducible first | assumption) | (with_reducible first | refine unbindIf_keep ?_ ..) | dsimp only | split | (simp (maxDischargeDepth := 40) +contextual [kept_upd, *]; done)

@[simp] theorem toAsh_keep (h : Kept p s) (slot : Nat) (pair : Nat) (p' : Nat) (step : Nat) : Kept p (toAsh s slot pair p' step) := by
  unfold toAsh
  repeat' first | (with_reducible first | assumption) | (extract_lets +onlyGivenNames t; refine kept_cut (q := Kept p t) ?_ fun ht => ?_; (on_goal 2 => clear_value t); on_goal 1 => (simp only [t]; try clear t)) | (extract_lets +onlyGivenNames t; clear_value t) | (with_reducible first | refine kept_ite.2 ⟨fun _ => ?_, fun _ => ?_⟩ | refine dropRef_keep ?_ .. | refine unbind_keep ?_ .. | refine updEntry_keep ?_ .. | refine State.updChim_keep ?_ ..) | ((with_reducible refine sendMirrorFree_keep ?_ _ _ _ _ _ _) <;> try beta_reduce) | dsimp only | with_reducible refine kept_elim ?_ fun _ => ?_ | (simp only [kept_mk_iff]; with_reducible refine kept_upd' ?_ (by simp (maxDischargeDepth := 40) +contextual)) | split | (simp (maxDischargeDepth := 40) +contextual [kept_upd, *]; done)

@[simp] theorem countEvict_keep (h : Kept p s) (slot : Nat) (step : Nat) (quota : Bool) : Kept p (countEvict s slot step quota) := by
  unfold countEvict
  repeat' first | (with_reducible first | assumption) | (extract_lets +onlyGivenNames t; refine kept_cut (q := Kept p t) ?_ fun ht => ?_; (on_goal 2 => clear_value t); on_goal 1 => (simp only [t]; try clear t)) | (extract_lets +onlyGivenNames t; clear_value t) | (with_reducible first | refine kept_ite.2 ⟨fun _ => ?_, fun _ => ?_⟩ | refine State.updChim_keep ?_ .. | refine State.updReq_keep ?_ ..) | ((with_reducible refine State.updKv_keep ?_ _ ?_); on_goal 2 => exact id) | ((with_reducible refine State.updKv_keep ?_ _ ?_); on_goal 2 => exact fun _ => rfl) | ((with_reducible refine State.updKv_keep ?_ _ ?_); on_goal 2 => (simp (maxDischargeDepth := 40) +contextual [*]; done)) | ((with_reducible refine State.updKv_keep ?_ _ ?_); on_goal 2 => (intro hm; dsimp only; (repeat' split) <;> simp_all (maxDischargeDepth := 40); done)) | dsimp only | (simp only [kept_mk_iff]; with_reducible refine kept_upd' ?_ (by simp (maxDischargeDepth := 40) +contextual)) | split | (simp (maxDischargeDepth := 40) +contextual [kept_upd, *]; done)

@[simp] theorem quotaEvict_keep (h : Kept p s) (slot : Nat) (pair : Nat) (cur : Nat) (step : Nat) : Kept p (quotaEvict s slot pair cur step) := by
  unfold quotaEvict
  repeat' first | (with_reducible first | assumption) | (extract_lets +onlyGivenNames t; refine kept_cut (q := Kept p t) ?_ fun ht => ?_; (on_goal 2 => clear_value t); on_goal 1 => (simp only [t]; try clear t)) | (extract_lets +onlyGivenNames t; clear_value t) | (with_reducible first | refine kept_ite.2 ⟨fun _ => ?_, fun _ => ?_⟩ | refine countEvict_keep ?_ .. | refine toAsh_keep ?_ ..) | dsimp only | split | (simp (maxDischargeDepth := 40) +contextual [kept_upd, *]; done)

@[simp] theorem pressureVictim_keep (h : Kept p s)  : Kept p (pressureVictim s).2 := by
  unfold pressureVictim
  repeat' first | with_reducible assumption | (extract_lets +onlyGivenNames t; refine kept_cut (q := Kept p t) ?_ fun ht => ?_; (on_goal 2 => clear_value t); on_goal 1 => (simp only [t]; try clear t)) | with_reducible refine kept_foldl_mid ?_ (fun _ _ _ => ?_) | (extract_lets +onlyGivenNames t; clear_value t) | (with_reducible first | refine kept_ite.2 ⟨fun _ => ?_, fun _ => ?_⟩ | refine kept_foldl ?_ (fun _ _ _ => ?_) | refine kept_foldl_fst ?_ (fun _ _ _ => ?_) | refine State.fresh_keep ?_ .. | refine State.fresh_keep' (e := by with_reducible assumption) ?_ | refine kept_pick' (e := by with_reducible assumption) ?_) | dsimp only | split | (simp (maxDischargeDepth := 40) +contextual [kept_upd, *]; done)

theorem pressureVictim_keep' (h : Kept p s)  {t' : State} {x} (e : pressureVictim s = (x, t')) : Kept p t' := by
  have := pressureVictim_keep h 
  rw [e] at this; exact this

@[simp] theorem bindPage_keep (h : Kept p s) (b : Bound) : Kept p (bindPage s b) := by
  unfold bindPage
  repeat' first | (with_reducible first | assumption | refine State.updPage_keep ?_ ..) | dsimp only | split | (simp (maxDischargeDepth := 40) +contextual [kept_upd, *]; done)

@[simp] theorem makeRoom_keep (evict : Bool) (ctx n : Nat) {s : State} (h : Kept p s) (bs : List Bound) : Kept p (makeRoom evict ctx n s bs).2.1 := by
  induction n generalizing s bs with
  | zero => exact h
  | succ n ih =>
    unfold makeRoom
    split
    · exact h
    · split
      · rename_i b t e
        refine ih (bindPage_keep ?_ _) _
        split at e
        · exact pressureVictim_keep' h e
        · cases e
      · rename_i t e
        have ht : Kept p t := by
          split at e
          · exact pressureVictim_keep' h e
          · cases e; exact h
        split
        · exact ht
        · rename_i u e2
          exact ih (spillOne_keep' ht e2) _

theorem makeRoom_keep' {evict : Bool} {ctx n : Nat} {s : State} (h : Kept p s) {bs : List Bound} {x : Bool} {t : State} {y : List Bound}
    (e : makeRoom evict ctx n s bs = (x, t, y)) : Kept p t := by
  have := makeRoom_keep evict ctx n h bs
  rw [e] at this; exact this

@[simp] theorem spillReturn_keep (h : Kept p s)  : Kept p (spillReturn s) := by
  unfold spillReturn
  repeat' first | with_reducible assumption | (extract_lets +onlyGivenNames t; refine kept_cut (q := Kept p t) ?_ fun ht => ?_; (on_goal 2 => clear_value t); on_goal 1 => (simp only [t]; try clear t)) | (extract_lets +onlyGivenNames t; clear_value t) | (with_reducible first | refine kept_ite.2 ⟨fun _ => ?_, fun _ => ?_⟩ | refine kept_foldl ?_ (fun _ _ _ => ?_) | refine State.fresh_keep ?_ .. | refine State.fresh_keep' (e := by with_reducible assumption) ?_ | refine State.updCtx_keep ?_ .. | refine State.updPage_keep ?_ .. | refine kept_pick' (e := by with_reducible assumption) ?_) | dsimp only | split | (simp (maxDischargeDepth := 40) +contextual [kept_upd, *]; done)

@[simp] theorem takeChunk_keep (h : Kept p s) (slot : Nat) (pair : Nat) (p' : Nat) : Kept p (takeChunk s slot pair p').2 := by
  unfold takeChunk
  repeat' first | (with_reducible first | assumption | refine kept_ite.2 ⟨fun _ => ?_, fun _ => ?_⟩ | refine State.updReq_keep ?_ ..) | dsimp only | split | (simp (maxDischargeDepth := 40) +contextual [kept_upd, *]; done)

theorem takeChunk_keep' (h : Kept p s) {slot : Nat} {pair : Nat} {p' : Nat} {t' : State} {x} (e : takeChunk s slot pair p' = (x, t')) : Kept p t' := by
  have := takeChunk_keep h slot pair p'
  rw [e] at this; exact this

@[simp] theorem takeAll_keep (evict : Bool) (slot : Nat) (l : List (Nat × Nat)) {s : State} (h : Kept p s) (bs : List Bound) : Kept p (takeAll evict slot l s bs).2.1 := by
  induction l generalizing s bs with
  | nil => exact h
  | cons a l ih =>
    obtain ⟨pair, q⟩ := a
    unfold takeAll
    split
    · exact h
    · split
      · exact ih h _
      · split
        · exact takeChunk_keep' h (by assumption)
        · split
          · exact makeRoom_keep' (takeChunk_keep' h (by assumption)) (by assumption)
          · have := makeRoom_keep' (takeChunk_keep' h (by assumption)) (by assumption)
            exact ih (State.updReq_keep (takePage_keep this _ _ _) _ _) _

theorem takeAll_keep' {evict : Bool} {slot : Nat} {l : List (Nat × Nat)} {s : State} (h : Kept p s) {bs : List Bound} {x : Bool} {t : State} {y : List Bound}
    (e : takeAll evict slot l s bs = (x, t, y)) : Kept p t := by
  have := takeAll_keep evict slot l h bs
  rw [e] at this; exact this

@[simp] theorem giveBack_keep (h : Kept p s) (slot : Nat) : Kept p (giveBack s slot) := by
  unfold giveBack
  repeat' first | with_reducible assumption | (extract_lets +onlyGivenNames t; refine kept_cut (q := Kept p t) ?_ fun ht => ?_; (on_goal 2 => clear_value t); on_goal 1 => (simp only [t]; try clear t)) | (extract_lets +onlyGivenNames t; clear_value t) | (with_reducible first | refine kept_foldl ?_ (fun _ _ _ => ?_) | refine State.updReq_keep ?_ .. | refine freePage_keep ?_ ..) | dsimp only | split | (simp (maxDischargeDepth := 40) +contextual [kept_upd, *]; done)

@[simp] theorem untake_keep (before : State) (h : Kept p s) (slot : Nat) : Kept p (untake before s slot) := by
  unfold untake
  split
  · exact State.updReq_keep (kept_foldl h fun _ _ h => freePage_keep h _) ..
  · exact h

@[simp] theorem giveBackUnused_keep (h : Kept p s) (slot : Nat) : Kept p (giveBackUnused s slot) := by
  unfold giveBackUnused
  repeat' first | (with_reducible first | assumption | refine hf1 _ ?_ | refine hf2 _ _ ?_) | (extract_lets +onlyGivenNames t; refine kept_cut (q := Kept p t) ?_ fun ht => ?_; (on_goal 2 => clear_value t); on_goal 1 => (simp only [t]; try clear t)) | (extract_lets +onlyGivenNames t; refine kept_cut (q := ∀ x : State, Kept p x → Kept p (t x)) ?_ fun hf1 => ?_; (on_goal 2 => clear_value t); on_goal 1 => (simp only [t]; try clear t; intro _ _)) | (extract_lets +onlyGivenNames t; refine kept_cut (q := ∀ (x : State) y, Kept p x → Kept p (t x y)) ?_ fun hf2 => ?_; (on_goal 2 => clear_value t); on_goal 1 => (simp only [t]; try clear t; intro _ _ _)) | (extract_lets +onlyGivenNames t; refine kept_cut (q := ∀ x : State, Kept p x → Kept p (t x).2) ?_ fun hf4 => ?_; (on_goal 2 => clear_value t); on_goal 1 => (simp only [t]; try clear t; intro _ _)) | with_reducible refine hf4 _ ?_ | (extract_lets +onlyGivenNames t; clear_value t) | (with_reducible first | refine kept_foldl ?_ (fun _ _ _ => ?_) | refine State.updReq_keep ?_ .. | refine freePage_keep ?_ ..) | dsimp only | with_reducible refine kept_elim ?_ fun _ => ?_ | split | (simp (maxDischargeDepth := 40) +contextual [kept_upd, *]; done)

@[simp] theorem popTaken_keep (h : Kept p s) (slot : Nat) (pair : Nat) (p' : Nat) : Kept p (popTaken s slot pair p').2 := by
  unfold popTaken
  repeat' first | (with_reducible first | assumption | refine State.updReq_keep ?_ ..) | dsimp only | with_reducible refine kept_elim ?_ fun _ => ?_ | split | (simp (maxDischargeDepth := 40) +contextual [kept_upd, *]; done)

theorem popTaken_keep' (h : Kept p s) {slot : Nat} {pair : Nat} {p' : Nat} {t' : State} {x} (e : popTaken s slot pair p' = (x, t')) : Kept p t' := by
  have := popTaken_keep h slot pair p'
  rw [e] at this; exact this

@[simp] theorem openPage_keep (h : Kept p s) (slot : Nat) (pair : Nat) (p' : Nat) (step : Nat) : Kept p (openPage s slot pair p' step) := by
  unfold openPage
  repeat' first | with_reducible assumption | (extract_lets +onlyGivenNames t; refine kept_cut (q := Kept p t) ?_ fun ht => ?_; (on_goal 2 => clear_value t); on_goal 1 => (simp only [t]; try clear t)) | (extract_lets +onlyGivenNames t; clear_value t) | (with_reducible first | refine kept_ite.2 ⟨fun _ => ?_, fun _ => ?_⟩ | refine State.updPage_keep ?_ .. | refine State.updReq_keep ?_ .. | refine popTaken_keep ?_ .. | refine popTaken_keep' (e := by with_reducible assumption) ?_ | refine quotaEvict_keep ?_ ..) | dsimp only | with_reducible refine kept_elim ?_ fun _ => ?_ | split | (simp (maxDischargeDepth := 40) +contextual [kept_upd, *]; done)

@[simp] theorem copyPage_keep (h : Kept p s) (slot : Nat) (pair : Nat) (p' : Nat) (dh : Nat) : Kept p (copyPage s slot pair p' dh) := by
  unfold copyPage
  repeat' first | (with_reducible first | assumption | refine hf1 _ ?_ | refine hf2 _ _ ?_) | (extract_lets +onlyGivenNames t; refine kept_cut (q := Kept p t) ?_ fun ht => ?_; (on_goal 2 => clear_value t); on_goal 1 => (simp only [t]; try clear t)) | (extract_lets +onlyGivenNames t; refine kept_cut (q := ∀ x : State, Kept p x → Kept p (t x)) ?_ fun hf1 => ?_; (on_goal 2 => clear_value t); on_goal 1 => (simp only [t]; try clear t; intro _ _)) | (extract_lets +onlyGivenNames t; refine kept_cut (q := ∀ (x : State) y, Kept p x → Kept p (t x y)) ?_ fun hf2 => ?_; (on_goal 2 => clear_value t); on_goal 1 => (simp only [t]; try clear t; intro _ _ _)) | (extract_lets +onlyGivenNames t; refine kept_cut (q := ∀ x : State, Kept p x → Kept p (t x).2) ?_ fun hf4 => ?_; (on_goal 2 => clear_value t); on_goal 1 => (simp only [t]; try clear t; intro _ _)) | with_reducible refine hf4 _ ?_ | (extract_lets +onlyGivenNames t; clear_value t) | (with_reducible first | refine kept_ite.2 ⟨fun _ => ?_, fun _ => ?_⟩ | refine State.updPage_keep ?_ .. | refine dropRef_keep ?_ .. | refine popTaken_keep ?_ .. | refine popTaken_keep' (e := by with_reducible assumption) ?_ | refine updEntry_keep ?_ ..) | dsimp only | split | (simp (maxDischargeDepth := 40) +contextual [kept_upd, *]; done)

@[simp] theorem writeKv_keep (h : Kept p s) (slot : Nat) (pair : Nat) (pos : Nat) (dh : Nat) (step : Nat) (key : List BF16) (val : List BF16) : Kept p (writeKv s slot pair pos dh step key val) := by
  unfold writeKv
  repeat' first | with_reducible assumption | (extract_lets +onlyGivenNames t; refine kept_cut (q := Kept p t) ?_ fun ht => ?_; (on_goal 2 => clear_value t); on_goal 1 => (simp only [t]; try clear t)) | (extract_lets +onlyGivenNames t; clear_value t) | (with_reducible first | refine kept_ite.2 ⟨fun _ => ?_, fun _ => ?_⟩ | refine State.setPage_keep ?_ .. | refine State.updChim_keep ?_ .. | refine State.updReq_keep ?_ .. | refine updEntry_keep ?_ ..) | dsimp only | split | (simp (maxDischargeDepth := 40) +contextual [kept_upd, *]; done)

@[simp] theorem appendKv_keep (h : Kept p s) (slot : Nat) (pair : Nat) (pos : Nat) (dh : Nat) (step : Nat) (key : List BF16) (val : List BF16) : Kept p (appendKv s slot pair pos dh step key val) := by
  unfold appendKv
  repeat' first | (with_reducible first | assumption) | (extract_lets +onlyGivenNames t; refine kept_cut (q := Kept p t) ?_ fun ht => ?_; (on_goal 2 => clear_value t); on_goal 1 => (simp only [t]; try clear t)) | (extract_lets +onlyGivenNames t; clear_value t) | (with_reducible first | refine kept_ite.2 ⟨fun _ => ?_, fun _ => ?_⟩ | refine copyPage_keep ?_ .. | refine openPage_keep ?_ .. | refine writeKv_keep ?_ ..) | dsimp only | split | (simp (maxDischargeDepth := 40) +contextual [kept_upd, *]; done)

@[simp] theorem stageKv_keep (h : Kept p s) (slot : Nat) (pair : Nat) (pos : Nat) (step : Nat) (who : Nat) (key : List BF16) (val : List BF16) : Kept p (stageKv s slot pair pos step who key val) := by
  unfold stageKv
  repeat' first | (with_reducible first | assumption) | (extract_lets +onlyGivenNames t; refine kept_cut (q := Kept p t) ?_ fun ht => ?_; (on_goal 2 => clear_value t); on_goal 1 => (simp only [t]; try clear t)) | (extract_lets +onlyGivenNames t; clear_value t) | (with_reducible first | refine kept_ite.2 ⟨fun _ => ?_, fun _ => ?_⟩ | refine quotaEvict_keep ?_ .. | refine State.updReq_keep ?_ ..) | dsimp only | (simp only [kept_mk_iff]; with_reducible refine kept_upd' ?_ (by simp (maxDischargeDepth := 40) +contextual)) | split | (simp (maxDischargeDepth := 40) +contextual [kept_upd, *]; done)

@[simp] theorem flushStaging_keep (h : Kept p s) (slot : Nat) (pair : Nat) (dh : Nat) (step : Nat) : Kept p (flushStaging s slot pair dh step) := by
  unfold flushStaging
  repeat' first | with_reducible assumption | (extract_lets +onlyGivenNames t; refine kept_cut (q := Kept p t) ?_ fun ht => ?_; (on_goal 2 => clear_value t); on_goal 1 => (simp only [t]; try clear t)) | (extract_lets +onlyGivenNames t; clear_value t) | (with_reducible first | refine kept_ite.2 ⟨fun _ => ?_, fun _ => ?_⟩ | refine kept_foldl ?_ (fun _ _ _ => ?_) | refine State.updReq_keep ?_ .. | refine openPage_keep ?_ .. | refine writeKv_keep ?_ ..) | dsimp only | split | (simp (maxDischargeDepth := 40) +contextual [kept_upd, *]; done)

@[simp] theorem putKv_keep (h : Kept p s) (slot : Nat) (pair : Nat) (pos : Nat) (dh : Nat) (step : Nat) (who : Nat) (key : List BF16) (val : List BF16) : Kept p (putKv s slot pair pos dh step who key val) := by
  unfold putKv
  repeat' first | (with_reducible first | assumption) | (with_reducible first | refine kept_ite.2 ⟨fun _ => ?_, fun _ => ?_⟩ | refine appendKv_keep ?_ .. | refine stageKv_keep ?_ ..) | dsimp only | split | (simp (maxDischargeDepth := 40) +contextual [kept_upd, *]; done)

@[simp] theorem savePair_keep (h : Kept p s) (slot : Nat) (pair : Nat) (step : Nat) : Kept p (savePair s slot pair step) := by
  unfold savePair
  repeat' first | with_reducible assumption | (extract_lets +onlyGivenNames t; refine kept_cut (q := Kept p t) ?_ fun ht => ?_; (on_goal 2 => clear_value t); on_goal 1 => (simp only [t]; try clear t)) | (extract_lets +onlyGivenNames t; clear_value t) | (with_reducible first | refine kept_ite.2 ⟨fun _ => ?_, fun _ => ?_⟩ | refine State.updChim_keep ?_ ..) | dsimp only | split | (simp (maxDischargeDepth := 40) +contextual [kept_upd, *]; done)

@[simp] theorem restorePair_keep (h : Kept p s) (v : PairSave) : Kept p (restorePair s v) := by
  unfold restorePair
  repeat' first | (with_reducible first | assumption) | (extract_lets +onlyGivenNames t; refine kept_cut (q := Kept p t) ?_ fun ht => ?_; (on_goal 2 => clear_value t); on_goal 1 => (simp only [t]; try clear t)) | (extract_lets +onlyGivenNames t; clear_value t) | (with_reducible first | refine kept_foldl ?_ (fun _ _ _ => ?_) | refine kept_foldl_mid ?_ (fun _ _ _ => ?_) | refine kept_foldl_fst ?_ (fun _ _ _ => ?_) | refine State.setPage_keep ?_ .. | refine State.updReq_keep ?_ ..) | dsimp only | (simp only [kept_mk_iff]; with_reducible refine kept_upd' ?_ (by simp (maxDischargeDepth := 40) +contextual)) | split | (simp (maxDischargeDepth := 40) +contextual [kept_upd, *]; done)

@[simp] theorem releaseReq_keep (h : Kept p s) (slot : Nat) : Kept p (releaseReq s slot) := by
  unfold releaseReq
  repeat' first | (with_reducible first | assumption) | (extract_lets +onlyGivenNames t; refine kept_cut (q := Kept p t) ?_ fun ht => ?_; (on_goal 2 => clear_value t); on_goal 1 => (simp only [t]; try clear t)) | (extract_lets +onlyGivenNames t; clear_value t) | (with_reducible first | refine kept_ite.2 ⟨fun _ => ?_, fun _ => ?_⟩ | refine kept_foldl ?_ (fun _ _ _ => ?_) | refine kept_foldl_mid ?_ (fun _ _ _ => ?_) | refine kept_foldl_fst ?_ (fun _ _ _ => ?_) | refine dropRef_keep ?_ .. | refine giveBack_keep ?_ .. | refine unbindIf_keep ?_ .. | refine State.setReq_keep ?_ .. | refine State.updChim_keep ?_ .. | refine State.updReq_keep ?_ ..) | ((with_reducible refine sendMirrorFree_keep ?_ _ _ _ _ _ _) <;> try beta_reduce) | ((with_reducible refine State.updKv_keep ?_ _ ?_); on_goal 2 => exact id) | ((with_reducible refine State.updKv_keep ?_ _ ?_); on_goal 2 => exact fun _ => rfl) | ((with_reducible refine State.updKv_keep ?_ _ ?_); on_goal 2 => (simp (maxDischargeDepth := 40) +contextual [*]; done)) | ((with_reducible refine State.updKv_keep ?_ _ ?_); on_goal 2 => (intro hm; dsimp only; (repeat' split) <;> simp_all (maxDischargeDepth := 40); done)) | dsimp only | with_reducible refine kept_elim ?_ fun _ => ?_ | (simp only [kept_mk_iff]; with_reducible refine kept_upd' ?_ (by simp (maxDischargeDepth := 40) +contextual)) | split | (simp (maxDischargeDepth := 40) +contextual [kept_upd, *]; done)

end Sys2Proof.Machine
end

