-- ==== Sys2Proof/Laws/Keep/Capture.lean ====
section
/-! SUPPORT. What every operation of Machine/Capture.lean keeps. -/

namespace Sys2Proof.Machine

set_option linter.all false

variable {p : List Instr} {s : State}

@[simp] theorem appendRec_keep (h : Kept p s) (ctx : Nat) (kind : Nat) (phase : Nat) (ctile : Nat) (disp : Nat) (ord : Nat) (pos : Nat) (body : List Byte) : Kept p (appendRec s ctx kind phase ctile disp ord pos body) := by
  unfold appendRec
  repeat' first | with_reducible assumption | (extract_lets +onlyGivenNames t; refine kept_cut (q := Kept p t) ?_ fun ht => ?_; (on_goal 2 => clear_value t); on_goal 1 => (simp only [t]; try clear t)) | (extract_lets +onlyGivenNames t; clear_value t) | (with_reducible first | refine kept_ite.2 ⟨fun _ => ?_, fun _ => ?_⟩ | refine State.hostWrite_keep ?_ .. | refine State.updCtx_keep ?_ ..) | dsimp only | split | (simp (maxDischargeDepth := 40) +contextual [kept_upd, *]; done)

@[simp] theorem captureCmd_keep (h : Kept p s) (c : Cmd) : Kept p (captureCmd s c) := by
  unfold captureCmd
  repeat' first | with_reducible assumption | (extract_lets +onlyGivenNames t; refine kept_cut (q := Kept p t) ?_ fun ht => ?_; (on_goal 2 => clear_value t); on_goal 1 => (simp only [t]; try clear t)) | (extract_lets +onlyGivenNames t; clear_value t) | (with_reducible first | refine kept_ite.2 ⟨fun _ => ?_, fun _ => ?_⟩ | refine State.updCtx_keep ?_ .. | refine appendRec_keep ?_ ..) | dsimp only | split | (simp (maxDischargeDepth := 40) +contextual [kept_upd, *]; done)

@[simp] theorem captureOpen_keep (h : Kept p s) (c : Cmd) (ctx : Nat) (handle : Nat) : Kept p (captureOpen s c ctx handle) := by
  unfold captureOpen
  repeat' first | with_reducible assumption | (extract_lets +onlyGivenNames t; refine kept_cut (q := Kept p t) ?_ fun ht => ?_; (on_goal 2 => clear_value t); on_goal 1 => (simp only [t]; try clear t)) | (extract_lets +onlyGivenNames t; clear_value t) | (with_reducible first | refine kept_ite.2 ⟨fun _ => ?_, fun _ => ?_⟩ | refine State.updCtx_keep ?_ .. | refine appendRec_keep ?_ ..) | dsimp only | with_reducible refine kept_elim ?_ fun _ => ?_ | split | (simp (maxDischargeDepth := 40) +contextual [kept_upd, *]; done)

@[simp] theorem done_keep (h : Kept p s) (c : Cmd) (result0 : Nat) : Kept p (done s c result0) := by
  unfold done
  repeat' first | (with_reducible first | assumption | refine captureCmd_keep ?_ .. | refine finish_keep ?_ ..) | dsimp only | (simp (maxDischargeDepth := 40) +contextual [kept_upd, *]; done)

@[simp] theorem replayExec_keep (h : Kept p s) (ctx : Nat) (ctile : Nat) (x : Exec) : Kept p (replayExec s ctx ctile x) := by
  unfold replayExec
  repeat' first | (with_reducible first | assumption | refine State.updCtx_keep ?_ ..) | dsimp only | (simp (maxDischargeDepth := 40) +contextual [kept_upd, *]; done)

@[simp] theorem captureExec_keep (h : Kept p s) (ctx : Nat) (ctile : Nat) (x : Exec) : Kept p (captureExec s ctx ctile x) := by
  unfold captureExec
  repeat' first | (with_reducible first | assumption | refine appendRec_keep ?_ ..) | dsimp only | split | (simp (maxDischargeDepth := 40) +contextual [kept_upd, *]; done)

@[simp] theorem captureVout_keep (h : Kept p s) (ctx : Nat) (ctile : Nat) (x : Exec) (pc : Nat) (count : Nat) (vals : List Byte) : Kept p (captureVout s ctx ctile x pc count vals) := by
  unfold captureVout
  repeat' first | (with_reducible first | assumption | refine appendRec_keep ?_ ..) | dsimp only | split | (simp (maxDischargeDepth := 40) +contextual [kept_upd, *]; done)

end Sys2Proof.Machine
end

