-- ==== Sys2Proof/Laws/Keep/Serving.lean ====
section
/-! SUPPORT. What every operation of Machine/Serving.lean keeps. -/

namespace Sys2Proof.Machine

set_option linter.all false

variable {p : List Instr} {s : State}

@[simp] theorem updVec_keep (h : Kept p s) (ctx : Nat) (disp : Nat) (f : Vec → Vec) : Kept p (updVec s ctx disp f) := by
  unfold updVec
  repeat' first | (with_reducible first | assumption | refine kept_ite.2 ⟨fun _ => ?_, fun _ => ?_⟩ | refine State.updCtx_keep ?_ ..) | dsimp only | split | (simp (maxDischargeDepth := 40) +contextual [kept_upd, *]; done)

@[simp] theorem settle_keep (h : Kept p s) (handle : Nat) : Kept p (settle s handle) := by
  unfold settle
  repeat' first | (with_reducible first | assumption) | (extract_lets +onlyGivenNames t; refine kept_cut (q := Kept p t) ?_ fun ht => ?_; (on_goal 2 => clear_value t); on_goal 1 => (simp only [t]; try clear t)) | (extract_lets +onlyGivenNames t; clear_value t) | (with_reducible first | refine kept_ite.2 ⟨fun _ => ?_, fun _ => ?_⟩ | refine kept_foldl ?_ (fun _ _ _ => ?_) | refine kept_foldl_mid ?_ (fun _ _ _ => ?_) | refine kept_foldl_fst ?_ (fun _ _ _ => ?_) | refine captureCmd_keep ?_ .. | refine finishW_keep ?_ .. | refine releaseReq_keep ?_ ..) | dsimp only | with_reducible refine kept_elim ?_ fun _ => ?_ | (simp only [kept_mk_iff]; with_reducible refine kept_upd' ?_ (by simp (maxDischargeDepth := 40) +contextual)) | split | (simp (maxDischargeDepth := 40) +contextual [kept_upd, *]; done)

@[simp] theorem spendBound_keep (h : Kept p s) (bs : List Bound) : Kept p (spendBound s bs) := by
  unfold spendBound
  repeat' first | (with_reducible first | assumption) | (with_reducible first | refine kept_foldl ?_ (fun _ _ _ => ?_) | refine kept_foldl_mid ?_ (fun _ _ _ => ?_) | refine kept_foldl_fst ?_ (fun _ _ _ => ?_) | refine countEvict_keep ?_ .. | refine toAsh_keep ?_ ..) | dsimp only | split | (simp (maxDischargeDepth := 40) +contextual [kept_upd, *]; done)

@[simp] theorem endReqCmd_keep (h : Kept p s) (c : Cmd) (status : Nat) (result0 : Nat) (warn : Nat) : Kept p (endReqCmd s c status result0 warn) := by
  unfold endReqCmd
  repeat' first | with_reducible assumption | (extract_lets +onlyGivenNames t; refine kept_cut (q := Kept p t) ?_ fun ht => ?_; (on_goal 2 => clear_value t); on_goal 1 => (simp only [t]; try clear t)) | (extract_lets +onlyGivenNames t; clear_value t) | (with_reducible first | refine finishW_keep ?_ .. | refine giveBackUnused_keep ?_ .. | refine settle_keep ?_ .. | refine spendBound_keep ?_ ..) | dsimp only | with_reducible refine kept_elim ?_ fun _ => ?_ | split | (simp (maxDischargeDepth := 40) +contextual [kept_upd, *]; done)

@[simp] theorem endReqBusy_keep (h : Kept p s) (c : Cmd) (status : Nat) (result0 : Nat) : Kept p (endReqBusy s c status result0) := by
  unfold endReqBusy
  repeat' first | with_reducible assumption | (extract_lets +onlyGivenNames t; refine kept_cut (q := Kept p t) ?_ fun ht => ?_; (on_goal 2 => clear_value t); on_goal 1 => (simp only [t]; try clear t)) | (extract_lets +onlyGivenNames t; clear_value t) | (with_reducible first | refine kept_ite.2 ⟨fun _ => ?_, fun _ => ?_⟩ | refine State.updReq_keep ?_ .. | refine endReqCmd_keep ?_ ..) | dsimp only | split | (simp (maxDischargeDepth := 40) +contextual [kept_upd, *]; done)

@[simp] theorem endToken_keep (h : Kept p s) (c : Cmd) (result0 : Nat) : Kept p (endToken s c result0) := by
  unfold endToken
  repeat' first | (with_reducible first | assumption) | (extract_lets +onlyGivenNames t; refine kept_cut (q := Kept p t) ?_ fun ht => ?_; (on_goal 2 => clear_value t); on_goal 1 => (simp only [t]; try clear t)) | (extract_lets +onlyGivenNames t; clear_value t) | (with_reducible first | refine kept_ite.2 ⟨fun _ => ?_, fun _ => ?_⟩ | refine endReqCmd_keep ?_ .. | refine State.updReq_keep ?_ .. | refine State.updServe_keep ?_ ..) | dsimp only | (simp only [kept_mk_iff]; with_reducible refine kept_upd' ?_ (by simp (maxDischargeDepth := 40) +contextual)) | split | (simp (maxDischargeDepth := 40) +contextual [kept_upd, *]; done)

@[simp] theorem withdrawn_keep (h : Kept p s) (c : Cmd) : Kept p (withdrawn s c) := by
  unfold withdrawn
  repeat' first | (with_reducible first | assumption) | (with_reducible first | refine endReqBusy_keep ?_ .. | refine State.updReq_keep ?_ ..) | dsimp only | (simp only [kept_mk_iff]; with_reducible refine kept_upd' ?_ (by simp (maxDischargeDepth := 40) +contextual)) | split | (simp (maxDischargeDepth := 40) +contextual [kept_upd, *]; done)

@[simp] theorem advance_keep (h : Kept p s) (v : Vec) : Kept p (advance s v) := by
  unfold advance
  repeat' first | (with_reducible first | assumption) | (extract_lets +onlyGivenNames t; refine kept_cut (q := Kept p t) ?_ fun ht => ?_; (on_goal 2 => clear_value t); on_goal 1 => (simp only [t]; try clear t)) | (extract_lets +onlyGivenNames t; clear_value t) | (with_reducible first | refine kept_ite.2 ⟨fun _ => ?_, fun _ => ?_⟩ | refine endReqCmd_keep ?_ .. | refine endToken_keep ?_ .. | refine putCmd_keep ?_ .. | refine withdrawn_keep ?_ .. | refine State.hostWrite_keep ?_ .. | refine State.updReq_keep ?_ ..) | ((with_reducible refine settle_keep ?_ _) <;> try beta_reduce) | dsimp only | with_reducible refine kept_elim ?_ fun _ => ?_ | (simp only [kept_mk_iff]; with_reducible refine kept_upd' ?_ (by simp (maxDischargeDepth := 40) +contextual)) | split | (simp (maxDischargeDepth := 40) +contextual [kept_upd, *]; done)

@[simp] theorem cancelReq_keep (h : Kept p s) (handle : Nat) (before : Nat) : Kept p (cancelReq s handle before) := by
  unfold cancelReq
  repeat' first | (with_reducible first | assumption) | (extract_lets +onlyGivenNames t; refine kept_cut (q := Kept p t) ?_ fun ht => ?_; (on_goal 2 => clear_value t); on_goal 1 => (simp only [t]; try clear t)) | (extract_lets +onlyGivenNames t; clear_value t) | (with_reducible first | refine kept_ite.2 ⟨fun _ => ?_, fun _ => ?_⟩ | refine kept_foldl ?_ (fun _ _ _ => ?_) | refine kept_foldl_mid ?_ (fun _ _ _ => ?_) | refine kept_foldl_fst ?_ (fun _ _ _ => ?_) | refine finish_keep ?_ .. | refine spendBound_keep ?_ .. | refine State.updReq_keep ?_ ..) | ((with_reducible refine settle_keep ?_ _) <;> try beta_reduce) | dsimp only | (simp only [kept_mk_iff]; with_reducible refine kept_upd' ?_ (by simp (maxDischargeDepth := 40) +contextual)) | split | (simp (maxDischargeDepth := 40) +contextual [kept_upd, *]; done)

@[simp] theorem admitChunk_keep (h : Kept p s) (c : Cmd) : Kept p (admitChunk s c).2.1 := by
  unfold admitChunk
  extract_lets needs got
  have hg : Kept p got.2.1 := by
    refine kept_foldl_mid h fun x a hx => ?_
    dsimp only
    split
    · exact hx
    · exact takeAll_keep _ _ _ hx _
  clear_value got
  split
  · exact hg
  · exact kept_foldl hg fun _ _ h => untake_keep _ h _

theorem admitChunk_keep' (h : Kept p s) {c : Cmd} {t' : State} {x1 x2} (e : admitChunk s c = (x1, t', x2)) : Kept p t' := by
  have := admitChunk_keep h c; rw [e] at this; exact this

@[simp] theorem enter_keep (h : Kept p s) (ctx : Nat) (x : Ctx) (xr : ExecRec) (bags : List Bag) (ring : Nat) (seq : Nat) (bound : List Bound) (draft : Bool) (aborts : Nat) : Kept p (enter s ctx x xr bags ring seq bound draft aborts) := by
  unfold enter
  repeat' first | (with_reducible first | assumption) | (extract_lets +onlyGivenNames t; refine kept_cut (q := Kept p t) ?_ fun ht => ?_; (on_goal 2 => clear_value t); on_goal 1 => (simp only [t]; try clear t)) | (extract_lets +onlyGivenNames t; clear_value t) | (with_reducible first | refine kept_ite.2 ⟨fun _ => ?_, fun _ => ?_⟩ | refine sendDown_keep ?_ .. | refine State.updChim_keep ?_ .. | refine State.updCtx_keep ?_ .. | refine State.updServe_keep ?_ ..) | dsimp only | with_reducible refine kept_elim ?_ fun _ => ?_ | (simp only [kept_mk_iff]; with_reducible refine kept_upd' ?_ (by simp (maxDischargeDepth := 40) +contextual)) | split | (simp (maxDischargeDepth := 40) +contextual [kept_upd, *]; done)

@[simp] theorem dispatchCmd_keep (h : Kept p s) (ctx : Nat) (x : Ctx) (c : Cmd) (bound : List Bound) : Kept p (dispatchCmd s ctx x c bound) := by
  unfold dispatchCmd
  repeat' first | with_reducible assumption | (extract_lets +onlyGivenNames t; refine kept_cut (q := Kept p t) ?_ fun ht => ?_; (on_goal 2 => clear_value t); on_goal 1 => (simp only [t]; try clear t)) | (extract_lets +onlyGivenNames t; clear_value t) | (with_reducible first | refine kept_ite.2 ⟨fun _ => ?_, fun _ => ?_⟩ | refine captureCmd_keep ?_ .. | refine enter_keep ?_ .. | refine putCmd_keep ?_ ..) | dsimp only | split | (simp (maxDischargeDepth := 40) +contextual [kept_upd, *]; done)

@[simp] theorem tryPicks_keep (ctx : Nat) (x : Ctx) (l : List Pick) {s : State} (h : Kept p s) (g : Bool × Bool × Bool) : Kept p (tryPicks ctx x l s g).1 := by
  induction l generalizing s g with
  | nil => exact h
  | cons a l ih =>
    unfold tryPicks
    split
    · extract_lets inside need gates
      clear_value inside need gates
      split
      · exact ih h _
      · split
        · exact ih h _
        · split
          · exact dispatchCmd_keep (admitChunk_keep' h (by assumption)) ..
          · have := admitChunk_keep' h (by assumption)
            refine ih ?_ _
            split
            · exact putCmd_keep this _
            · exact endReqBusy_keep (spendBound_keep this _) ..
    · exact ih h _

@[simp] theorem redoStep_keep (h : Kept p s) (x : Ctx) (e : CStep) : Kept p (redoStep s x e) := by
  unfold redoStep
  repeat' first | (with_reducible first | assumption) | (with_reducible first | refine enter_keep ?_ .. | refine State.updChim_keep ?_ ..) | dsimp only | (simp only [kept_mk_iff]; with_reducible refine kept_upd' ?_ (by simp (maxDischargeDepth := 40) +contextual)) | split | (simp (maxDischargeDepth := 40) +contextual [kept_upd, *]; done)

@[simp] theorem chooseVec_keep (h : Kept p s) (ctx : Nat) (x : Ctx) : Kept p (chooseVec s ctx x).1 := by
  unfold chooseVec
  extract_lets rest
  have hr : ∀ g, Kept p (rest g).1 := fun g => tryPicks_keep ctx x _ h g
  clear_value rest
  split
  · exact hr _
  · dsimp only
    split
    · exact hr _
    · exact redoStep_keep h ..

theorem chooseVec_keep' (h : Kept p s) {ctx : Nat} {x : Ctx} {t' : State} {g} (e : chooseVec s ctx x = (t', g)) : Kept p t' := by
  have := chooseVec_keep h ctx x; rw [e] at this; exact this

@[simp] theorem countDefers_keep (h : Kept p s) (g : Bool × Bool × Bool) : Kept p (countDefers s g) := by
  unfold countDefers
  repeat' first | (with_reducible first | assumption) | (with_reducible first | refine State.updServe_keep ?_ ..) | dsimp only | (simp only [kept_mk_iff]; with_reducible refine kept_upd' ?_ (by simp (maxDischargeDepth := 40) +contextual)) | split | (simp (maxDischargeDepth := 40) +contextual [kept_upd, *]; done)

@[simp] theorem boundaryLocal_keep (h : Kept p s) (ctx : Nat) (x : Ctx) : Kept p (boundaryLocal s ctx x) := by
  unfold boundaryLocal
  repeat' first | (with_reducible first | assumption) | (extract_lets +onlyGivenNames t; refine kept_cut (q := Kept p t) ?_ fun ht => ?_; (on_goal 2 => clear_value t); on_goal 1 => (simp only [t]; try clear t)) | (extract_lets +onlyGivenNames t; clear_value t) | (with_reducible first | refine kept_ite.2 ⟨fun _ => ?_, fun _ => ?_⟩ | refine chooseVec_keep ?_ .. | refine chooseVec_keep' (e := by with_reducible assumption) ?_ | refine countDefers_keep ?_ ..) | dsimp only | split | (simp (maxDischargeDepth := 40) +contextual [kept_upd, *]; done)

@[simp] theorem chunkRetry_keep (h : Kept p s) (c : Cmd) : Kept p (chunkRetry s c) := by
  unfold chunkRetry
  repeat' first | (with_reducible first | assumption | refine admitChunk_keep ?_ .. | refine admitChunk_keep' (e := by with_reducible assumption) ?_ | refine putCmd_keep ?_ ..) | dsimp only | split | (simp (maxDischargeDepth := 40) +contextual [kept_upd, *]; done)

end Sys2Proof.Machine
end

