-- ==== Sys2Proof/Laws/Keep/Requests.lean ====
section
/-! SUPPORT. What every operation of Machine/Requests.lean keeps. -/

namespace Sys2Proof.Machine

set_option linter.all false

variable {p : List Instr} {s : State}

theorem onReq_keep (h : Kept p s) (c : Cmd) (lostOk draftOk : Bool) (f : Req → State) (hf : ∀ r, Kept p (f r)) : Kept p (onReq s c lostOk draftOk f) := by
  unfold onReq
  split
  · exact finish_keep h ..
  · repeat' split
    all_goals with_reducible first | exact finish_keep h .. | exact hf _

@[simp] theorem finishCopy_keep (h : Kept p s) (c : Cmd) (r : Rec) : Kept p (finishCopy s c r) := by
  unfold finishCopy
  repeat' first | (with_reducible first | assumption) | (extract_lets +onlyGivenNames t; refine kept_cut (q := Kept p t) ?_ fun ht => ?_; (on_goal 2 => clear_value t); on_goal 1 => (simp only [t]; try clear t)) | (extract_lets +onlyGivenNames t; clear_value t) | (with_reducible first | refine kept_ite.2 ⟨fun _ => ?_, fun _ => ?_⟩ | refine dropCmd_keep ?_ .. | refine postDups_keep ?_ .. | refine postRec_keep ?_ .. | refine reap_keep ?_ .. | refine State.updRing_keep ?_ ..) | dsimp only | split | (simp (maxDischargeDepth := 40) +contextual [kept_upd, *]; done)

theorem onStep_keep (h : Kept p s) (c : Cmd) (r : Req) (f : State) (hf : Kept p f) : Kept p (onStep s c r f) := by
  unfold onStep
  extract_lets step
  clear_value step
  repeat' split
  all_goals with_reducible first | exact badParam_keep h .. | exact finish_keep h .. | exact finishCopy_keep h .. | exact hf

@[simp] theorem beginReq_keep (h : Kept p s) (c : Cmd) : Kept p (beginReq s c) := by
  unfold beginReq
  repeat' first | with_reducible assumption | (extract_lets +onlyGivenNames t; refine kept_cut (q := Kept p t) ?_ fun ht => ?_; (on_goal 2 => clear_value t); on_goal 1 => (simp only [t]; try clear t)) | (extract_lets +onlyGivenNames t; clear_value t) | (with_reducible first | refine kept_ite.2 ⟨fun _ => ?_, fun _ => ?_⟩ | refine State.updReq_keep ?_ .. | refine putCmd_keep ?_ ..) | dsimp only | split | (simp (maxDischargeDepth := 40) +contextual [kept_upd, *]; done)

@[simp] theorem tooLong_keep (h : Kept p s) (c : Cmd) : Kept p (tooLong s c) := by
  unfold tooLong
  repeat' first | with_reducible assumption | (extract_lets +onlyGivenNames t; refine kept_cut (q := Kept p t) ?_ fun ht => ?_; (on_goal 2 => clear_value t); on_goal 1 => (simp only [t]; try clear t)) | (extract_lets +onlyGivenNames t; clear_value t) | (with_reducible first | refine State.fresh_keep ?_ .. | refine State.fresh_keep' (e := by with_reducible assumption) ?_ | refine badParam_keep ?_ .. | refine kept_pick' (e := by with_reducible assumption) ?_) | dsimp only | split | (simp (maxDischargeDepth := 40) +contextual [kept_upd, *]; done)

@[simp] theorem openReq_keep (h : Kept p s) (c : Cmd) (draft : Option Nat) (px : Option Prefix) : Kept p (openReq s c draft px) := by
  unfold openReq
  repeat' first | (with_reducible first | assumption) | (extract_lets +onlyGivenNames t; refine kept_cut (q := Kept p t) ?_ fun ht => ?_; (on_goal 2 => clear_value t); on_goal 1 => (simp only [t]; try clear t)) | (extract_lets +onlyGivenNames t; clear_value t) | (with_reducible first | refine kept_ite.2 ⟨fun _ => ?_, fun _ => ?_⟩ | refine kept_foldl ?_ (fun _ _ _ => ?_) | refine kept_foldl_mid ?_ (fun _ _ _ => ?_) | refine kept_foldl_fst ?_ (fun _ _ _ => ?_) | refine finish_keep ?_ .. | refine State.setReq_keep ?_ .. | refine State.updChim_keep ?_ .. | refine State.updPage_keep ?_ .. | refine State.updReq_keep ?_ ..) | ((with_reducible refine captureOpen_keep ?_ _ _ _) <;> try beta_reduce) | ((with_reducible refine State.updKv_keep ?_ _ ?_); on_goal 2 => exact id) | ((with_reducible refine State.updKv_keep ?_ _ ?_); on_goal 2 => exact fun _ => rfl) | ((with_reducible refine State.updKv_keep ?_ _ ?_); on_goal 2 => (simp (maxDischargeDepth := 40) +contextual [*]; done)) | ((with_reducible refine State.updKv_keep ?_ _ ?_); on_goal 2 => (intro hm; dsimp only; (repeat' split) <;> simp_all (maxDischargeDepth := 40); done)) | dsimp only | with_reducible refine kept_elim ?_ fun _ => ?_ | (simp only [kept_mk_iff]; with_reducible refine kept_upd' ?_ (by simp (maxDischargeDepth := 40) +contextual)) | split | (simp (maxDischargeDepth := 40) +contextual [kept_upd, *]; done)

theorem execReqOpen_keep (h : Kept p s) (ring : Nat) (seq : Nat) : KeptR p (execReqOpen ring seq s) := by
  unfold execReqOpen
  repeat' first | (with_reducible first | assumption | refine keptR_next ?_ | refine hf1 _ ?_ | refine hf2 _ _ ?_) | (extract_lets +onlyGivenNames t; refine kept_cut (q := Kept p t) ?_ fun ht => ?_; (on_goal 2 => clear_value t); on_goal 1 => (simp only [t]; try clear t)) | (extract_lets +onlyGivenNames t; refine kept_cut (q := ∀ x : State, Kept p x → Kept p (t x)) ?_ fun hf1 => ?_; (on_goal 2 => clear_value t); on_goal 1 => (simp only [t]; try clear t; intro _ _)) | (extract_lets +onlyGivenNames t; refine kept_cut (q := ∀ (x : State) y, Kept p x → Kept p (t x y)) ?_ fun hf2 => ?_; (on_goal 2 => clear_value t); on_goal 1 => (simp only [t]; try clear t; intro _ _ _)) | (extract_lets +onlyGivenNames t; refine kept_cut (q := ∀ x : State, Kept p x → Kept p (t x).2) ?_ fun hf4 => ?_; (on_goal 2 => clear_value t); on_goal 1 => (simp only [t]; try clear t; intro _ _)) | with_reducible refine hf4 _ ?_ | (extract_lets +onlyGivenNames t; clear_value t) | (with_reducible first | refine kept_ite.2 ⟨fun _ => ?_, fun _ => ?_⟩ | refine badParam_keep ?_ .. | refine finish_keep ?_ ..) | ((with_reducible refine onReady_keep ?_ _ _ _ _ (fun _ => ?_)); on_goal 2 => beta_reduce) | with_reducible refine openReq_keep ?_ .. | dsimp only | with_reducible refine kept_elim ?_ fun _ => ?_ | split | (simp (maxDischargeDepth := 40) +contextual [kept_upd, *]; done)

theorem execReqAppend_keep (h : Kept p s) (ring : Nat) (seq : Nat) : KeptR p (execReqAppend ring seq s) := by
  unfold execReqAppend
  repeat' first | (with_reducible first | assumption | refine keptR_next ?_) | (extract_lets +onlyGivenNames t; refine kept_cut (q := Kept p t) ?_ fun ht => ?_; (on_goal 2 => clear_value t); on_goal 1 => (simp only [t]; try clear t)) | (extract_lets +onlyGivenNames t; clear_value t) | (with_reducible first | refine kept_ite.2 ⟨fun _ => ?_, fun _ => ?_⟩ | refine State.updReq_keep ?_ .. | refine acceptLong_keep ?_ .. | refine badParam_keep ?_ .. | refine beginReq_keep ?_ .. | refine finish_keep ?_ ..) | ((with_reducible refine onReady_keep ?_ _ _ _ _ (fun _ => ?_)); on_goal 2 => beta_reduce) | with_reducible refine onReq_keep ?_ _ _ _ _ (fun _ => ?_) | dsimp only | with_reducible refine kept_elim ?_ fun _ => ?_ | split | (simp (maxDischargeDepth := 40) +contextual [kept_upd, *]; done)

theorem execReqStep_keep (h : Kept p s) (ring : Nat) (seq : Nat) : KeptR p (execReqStep ring seq s) := by
  unfold execReqStep
  repeat' first | (with_reducible first | assumption | refine keptR_next ?_ | refine kept_ite.2 ⟨fun _ => ?_, fun _ => ?_⟩ | refine beginReq_keep ?_ .. | refine finish_keep ?_ ..) | ((with_reducible refine onReady_keep ?_ _ _ _ _ (fun _ => ?_)); on_goal 2 => beta_reduce) | (with_reducible first | refine onReq_keep ?_ _ _ _ _ (fun _ => ?_) | refine onStep_keep ?_ _ _ _ ?_ | refine tooLong_keep ?_ ..) | dsimp only | split | (simp (maxDischargeDepth := 40) +contextual [kept_upd, *]; done)

theorem execReqVerify_keep (h : Kept p s) (ring : Nat) (seq : Nat) : KeptR p (execReqVerify ring seq s) := by
  unfold execReqVerify
  repeat' first | (with_reducible first | assumption | refine keptR_next ?_) | (extract_lets +onlyGivenNames t; refine kept_cut (q := Kept p t) ?_ fun ht => ?_; (on_goal 2 => clear_value t); on_goal 1 => (simp only [t]; try clear t)) | (extract_lets +onlyGivenNames t; clear_value t) | (with_reducible first | refine kept_ite.2 ⟨fun _ => ?_, fun _ => ?_⟩ | refine kept_foldl ?_ (fun _ _ _ => ?_) | refine kept_foldl_mid ?_ (fun _ _ _ => ?_) | refine kept_foldl_fst ?_ (fun _ _ _ => ?_) | refine badParam_keep ?_ .. | refine beginReq_keep ?_ .. | refine finish_keep ?_ .. | refine tooLong_keep ?_ .. | refine State.updReq_keep ?_ ..) | ((with_reducible refine onReady_keep ?_ _ _ _ _ (fun _ => ?_)) <;> try beta_reduce) | ((with_reducible refine onReq_keep ?_ _ _ _ _ (fun _ => ?_)) <;> try beta_reduce) | ((with_reducible refine onStep_keep ?_ _ _ _ ?_) <;> try beta_reduce) | dsimp only | with_reducible refine kept_elim ?_ fun _ => ?_ | (simp only [kept_mk_iff]; with_reducible refine kept_upd' ?_ (by simp (maxDischargeDepth := 40) +contextual)) | split | (simp (maxDischargeDepth := 40) +contextual [kept_upd, *]; done)

theorem execReqClose_keep (h : Kept p s) (ring : Nat) (seq : Nat) : KeptR p (execReqClose ring seq s) := by
  unfold execReqClose
  repeat' first | (with_reducible first | assumption | refine keptR_next ?_ | refine State.updReq_keep ?_ ..) | ((with_reducible refine onReady_keep ?_ _ _ _ _ (fun _ => ?_)); on_goal 2 => beta_reduce) | (with_reducible first | refine onReq_keep ?_ _ _ _ _ (fun _ => ?_) | refine putCmd_keep ?_ .. | refine settle_keep ?_ ..) | dsimp only | (simp (maxDischargeDepth := 40) +contextual [kept_upd, *]; done)

theorem execReqCancel_keep (h : Kept p s) (ring : Nat) (seq : Nat) : KeptR p (execReqCancel ring seq s) := by
  unfold execReqCancel
  repeat' first | (with_reducible first | assumption | refine keptR_next ?_) | (with_reducible first | refine putCmd_keep ?_ ..) | ((with_reducible refine cancelReq_keep ?_ _ _) <;> try beta_reduce) | ((with_reducible refine onReady_keep ?_ _ _ _ _ (fun _ => ?_)) <;> try beta_reduce) | ((with_reducible refine onReq_keep ?_ _ _ _ _ (fun _ => ?_)) <;> try beta_reduce) | dsimp only | (simp only [kept_mk_iff]; with_reducible refine kept_upd' ?_ (by simp (maxDischargeDepth := 40) +contextual)) | split | (simp (maxDischargeDepth := 40) +contextual [kept_upd, *]; done)

theorem execReqQuery_keep (h : Kept p s) (ring : Nat) (seq : Nat) : KeptR p (execReqQuery ring seq s) := by
  unfold execReqQuery
  repeat' first | (with_reducible first | assumption | refine keptR_next ?_ | refine State.hostWrite_keep ?_ .. | refine done_keep ?_ ..) | ((with_reducible refine onReady_keep ?_ _ _ _ _ (fun _ => ?_)); on_goal 2 => beta_reduce) | with_reducible refine onReq_keep ?_ _ _ _ _ (fun _ => ?_) | dsimp only | (simp (maxDischargeDepth := 40) +contextual [kept_upd, *]; done)

@[simp] theorem pinPrefix_keep (h : Kept p s) (c : Cmd) (r : Req) (n : Nat) : Kept p (pinPrefix s c r n) := by
  unfold pinPrefix
  repeat' first | (with_reducible first | assumption) | (extract_lets +onlyGivenNames t; refine kept_cut (q := Kept p t) ?_ fun ht => ?_; (on_goal 2 => clear_value t); on_goal 1 => (simp only [t]; try clear t)) | (extract_lets +onlyGivenNames t; clear_value t) | (with_reducible first | refine kept_foldl ?_ (fun _ _ _ => ?_) | refine kept_foldl_mid ?_ (fun _ _ _ => ?_) | refine kept_foldl_fst ?_ (fun _ _ _ => ?_) | refine done_keep ?_ .. | refine updEntry_keep ?_ .. | refine State.updPage_keep ?_ ..) | ((with_reducible refine State.updKv_keep ?_ _ ?_); on_goal 2 => exact id) | ((with_reducible refine State.updKv_keep ?_ _ ?_); on_goal 2 => exact fun _ => rfl) | ((with_reducible refine State.updKv_keep ?_ _ ?_); on_goal 2 => (simp (maxDischargeDepth := 40) +contextual [*]; done)) | ((with_reducible refine State.updKv_keep ?_ _ ?_); on_goal 2 => (intro hm; dsimp only; (repeat' split) <;> simp_all (maxDischargeDepth := 40); done)) | dsimp only | (simp only [kept_mk_iff]; with_reducible refine kept_upd' ?_ (by simp (maxDischargeDepth := 40) +contextual)) | split | (simp (maxDischargeDepth := 40) +contextual [kept_upd, *]; done)

theorem execPrefixPin_keep (h : Kept p s) (ring : Nat) (seq : Nat) : KeptR p (execPrefixPin ring seq s) := by
  unfold execPrefixPin
  repeat' first | (with_reducible first | assumption | refine keptR_next ?_) | (extract_lets +onlyGivenNames t; refine kept_cut (q := Kept p t) ?_ fun ht => ?_; (on_goal 2 => clear_value t); on_goal 1 => (simp only [t]; try clear t)) | (extract_lets +onlyGivenNames t; clear_value t) | (with_reducible first | refine kept_ite.2 ⟨fun _ => ?_, fun _ => ?_⟩ | refine badParam_keep ?_ .. | refine finish_keep ?_ ..) | ((with_reducible refine onReady_keep ?_ _ _ _ _ (fun _ => ?_)); on_goal 2 => beta_reduce) | (with_reducible first | refine onReq_keep ?_ _ _ _ _ (fun _ => ?_) | refine pinPrefix_keep ?_ ..) | dsimp only | with_reducible refine kept_elim ?_ fun _ => ?_ | split | (simp (maxDischargeDepth := 40) +contextual [kept_upd, *]; done)

theorem execPrefixRelease_keep (h : Kept p s) (ring : Nat) (seq : Nat) : KeptR p (execPrefixRelease ring seq s) := by
  unfold execPrefixRelease
  repeat' first | (with_reducible first | assumption | refine keptR_next ?_) | (extract_lets +onlyGivenNames t; refine kept_cut (q := Kept p t) ?_ fun ht => ?_; (on_goal 2 => clear_value t); on_goal 1 => (simp only [t]; try clear t)) | (extract_lets +onlyGivenNames t; clear_value t) | with_reducible refine kept_foldl ?_ (fun _ _ _ => ?_) | ((with_reducible refine State.updKv_keep ?_ _ ?_); on_goal 2 => exact id) | ((with_reducible refine State.updKv_keep ?_ _ ?_); on_goal 2 => exact fun _ => rfl) | ((with_reducible refine State.updKv_keep ?_ _ ?_); on_goal 2 => (simp (maxDischargeDepth := 40) +contextual [*]; done)) | ((with_reducible refine State.updKv_keep ?_ _ ?_); on_goal 2 => (intro hm; dsimp only; (repeat' split) <;> simp_all (maxDischargeDepth := 40); done)) | (with_reducible first | refine done_keep ?_ .. | refine dropRef_keep ?_ .. | refine finish_keep ?_ ..) | ((with_reducible refine onReady_keep ?_ _ _ _ _ (fun _ => ?_)); on_goal 2 => beta_reduce) | dsimp only | split | (simp (maxDischargeDepth := 40) +contextual [kept_upd, *]; done)

theorem execSpillReturn_keep (h : Kept p s)  : KeptR p (execSpillReturn s) := by
  unfold execSpillReturn
  repeat' first | (with_reducible first | assumption | refine keptR_next ?_ | refine kept_ite.2 ⟨fun _ => ?_, fun _ => ?_⟩ | refine spillReturn_keep ?_ ..) | dsimp only | split | (simp (maxDischargeDepth := 40) +contextual [kept_upd, *]; done)

theorem execAppendChunkRetry_keep (h : Kept p s) (ring : Nat) (seq : Nat) : KeptR p (execAppendChunkRetry ring seq s) := by
  unfold execAppendChunkRetry
  repeat' first | (with_reducible first | assumption | refine keptR_next ?_ | refine kept_ite.2 ⟨fun _ => ?_, fun _ => ?_⟩ | refine chunkRetry_keep ?_ ..) | dsimp only | split | (simp (maxDischargeDepth := 40) +contextual [kept_upd, *]; done)

theorem execAppendChunkTimeout_keep (h : Kept p s) (ring : Nat) (seq : Nat) : KeptR p (execAppendChunkTimeout ring seq s) := by
  unfold execAppendChunkTimeout
  repeat' first | (with_reducible first | assumption | refine keptR_next ?_ | refine kept_ite.2 ⟨fun _ => ?_, fun _ => ?_⟩ | refine endReqCmd_keep ?_ ..) | dsimp only | split | (simp (maxDischargeDepth := 40) +contextual [kept_upd, *]; done)

theorem execFlueLoadWindow_keep (h : Kept p s) : KeptR p (execFlueLoadWindow s) := by
  unfold execFlueLoadWindow
  repeat' first | (with_reducible first | assumption | refine keptR_next ?_) | (extract_lets +onlyGivenNames t; refine kept_cut (q := Kept p t) ?_ fun ht => ?_; (on_goal 2 => clear_value t); on_goal 1 => (simp only [t]; try clear t)) | (extract_lets +onlyGivenNames t; clear_value t) | (with_reducible first | refine kept_ite.2 ⟨fun _ => ?_, fun _ => ?_⟩ | refine State.updServe_keep ?_ ..) | dsimp only | (simp only [kept_mk_iff]; with_reducible refine kept_upd' ?_ (by simp (maxDischargeDepth := 40) +contextual)) | split | (simp (maxDischargeDepth := 40) +contextual [kept_upd, *]; done)

end Sys2Proof.Machine
end

