-- ==== Sys2Proof/Laws/Keep/Contexts.lean ====
section
/-! SUPPORT. What every operation of Machine/Contexts.lean keeps. -/

namespace Sys2Proof.Machine

set_option linter.all false

variable {p : List Instr} {s : State}

theorem onCtx_keep (h : Kept p s) (c : Cmd) (f : Ctx → State) (hf : ∀ x, Kept p (f x)) : Kept p (onCtx s c f) := by
  unfold onCtx
  repeat' split
  all_goals with_reducible first | exact finish_keep h .. | exact hf _

theorem onLong_keep (h : Kept p s) (opc ring seq : Nat) (start : Cmd → State → Option State) (fin : Cmd → State → State) (hs : ∀ c, KeptO p (start c s)) (hf : ∀ c, Kept p (fin c s)) : Kept p (onLong opc ring seq start fin s) := by
  unfold onLong
  repeat' split
  all_goals with_reducible first | exact h | exact hf _ | exact acceptLong_keep h .. | exact KeptO.of (hs _) (by assumption)

theorem execCtxCreate_keep (h : Kept p s) (ring : Nat) (seq : Nat) : KeptR p (execCtxCreate ring seq s) := by
  unfold execCtxCreate
  repeat' first | (with_reducible first | assumption | refine keptR_next ?_) | (extract_lets +onlyGivenNames t; refine kept_cut (q := Kept p t) ?_ fun ht => ?_; (on_goal 2 => clear_value t); on_goal 1 => (simp only [t]; try clear t)) | (extract_lets +onlyGivenNames t; clear_value t) | (with_reducible first | refine done_keep ?_ .. | refine finish_keep ?_ .. | refine State.setCtx_keep ?_ ..) | ((with_reducible refine onReady_keep ?_ _ _ _ _ (fun _ => ?_)) <;> try beta_reduce) | dsimp only | split | (simp (maxDischargeDepth := 40) +contextual [kept_upd, *]; done)

@[simp] theorem settleCtx_keep (h : Kept p s) (ctx : Nat) : Kept p (settleCtx s ctx) := by
  unfold settleCtx
  repeat' first | with_reducible assumption | (extract_lets +onlyGivenNames t; refine kept_cut (q := Kept p t) ?_ fun ht => ?_; (on_goal 2 => clear_value t); on_goal 1 => (simp only [t]; try clear t)) | (extract_lets +onlyGivenNames t; clear_value t) | (with_reducible first | refine kept_ite.2 ⟨fun _ => ?_, fun _ => ?_⟩ | refine kept_foldl ?_ (fun _ _ _ => ?_)) | ((with_reducible refine State.updKv_keep ?_ _ ?_); on_goal 2 => exact id) | ((with_reducible refine State.updKv_keep ?_ _ ?_); on_goal 2 => exact fun _ => rfl) | ((with_reducible refine State.updKv_keep ?_ _ ?_); on_goal 2 => (simp (maxDischargeDepth := 40) +contextual [*]; done)) | ((with_reducible refine State.updKv_keep ?_ _ ?_); on_goal 2 => (intro hm; dsimp only; (repeat' split) <;> simp_all (maxDischargeDepth := 40); done)) | (with_reducible first | refine done_keep ?_ .. | refine dropRef_keep ?_ .. | refine freeCtx_keep ?_ .. | refine releaseReq_keep ?_ ..) | dsimp only | with_reducible refine kept_elim ?_ fun _ => ?_ | split | (simp (maxDischargeDepth := 40) +contextual [kept_upd, *]; done)

theorem execCtxDestroy_keep (h : Kept p s) (ring : Nat) (seq : Nat) : KeptR p (execCtxDestroy ring seq s) := by
  unfold execCtxDestroy
  repeat' first | (with_reducible first | assumption | refine keptR_next ?_) | (extract_lets +onlyGivenNames t; refine kept_cut (q := Kept p t) ?_ fun ht => ?_; (on_goal 2 => clear_value t); on_goal 1 => (simp only [t]; try clear t)) | (extract_lets +onlyGivenNames t; clear_value t) | (with_reducible first | refine kept_ite.2 ⟨fun _ => ?_, fun _ => ?_⟩ | refine kept_foldl ?_ (fun _ _ _ => ?_) | refine kept_foldl_mid ?_ (fun _ _ _ => ?_) | refine kept_foldl_fst ?_ (fun _ _ _ => ?_) | refine finish_keep ?_ .. | refine putCmd_keep ?_ .. | refine settleCtx_keep ?_ .. | refine State.updCtx_keep ?_ ..) | ((with_reducible refine onReady_keep ?_ _ _ _ _ (fun _ => ?_)) <;> try beta_reduce) | dsimp only | (simp only [kept_mk_iff]; with_reducible refine kept_upd' ?_ (by simp (maxDischargeDepth := 40) +contextual)) | split | (simp (maxDischargeDepth := 40) +contextual [kept_upd, *]; done)

theorem execCtxLoad_keep (h : Kept p s) (ring : Nat) (seq : Nat) (reads : List LineRead) : KeptR p (execCtxLoad ring seq reads s) := by
  unfold execCtxLoad
  repeat' first | (with_reducible first | assumption | refine keptR_next ?_ | refine keptO_some ?_ | exact keptO_none) | (extract_lets +onlyGivenNames t; refine kept_cut (q := Kept p t) ?_ fun ht => ?_; (on_goal 2 => clear_value t); on_goal 1 => (simp only [t]; try clear t)) | (extract_lets +onlyGivenNames t; clear_value t) | (with_reducible first | refine kept_ite.2 ⟨fun _ => ?_, fun _ => ?_⟩ | refine badParam_keep ?_ .. | refine done_keep ?_ .. | refine finish_keep ?_ .. | refine loadImage_keep ?_ .. | refine logEvent_keep ?_ .. | refine putCmd_keep ?_ .. | refine raiseErr_keep ?_ ..) | ((with_reducible refine onCtx_keep ?_ _ _ (fun _ => ?_)) <;> try beta_reduce) | ((with_reducible refine onLong_keep ?_ _ _ _ _ _ (fun _ => ?_) (fun _ => ?_)) <;> try beta_reduce) | dsimp only | with_reducible refine kept_elim ?_ fun _ => ?_ | (simp only [kept_mk_iff]; with_reducible refine kept_upd' ?_ (by simp (maxDischargeDepth := 40) +contextual)) | split | (simp (maxDischargeDepth := 40) +contextual [kept_upd, *]; done)

theorem execVariantLoad_keep (h : Kept p s) (ring : Nat) (seq : Nat) : KeptR p (execVariantLoad ring seq s) := by
  unfold execVariantLoad
  repeat' first | (with_reducible first | assumption | refine keptR_next ?_) | (extract_lets +onlyGivenNames t; refine kept_cut (q := Kept p t) ?_ fun ht => ?_; (on_goal 2 => clear_value t); on_goal 1 => (simp only [t]; try clear t)) | (extract_lets +onlyGivenNames t; clear_value t) | (with_reducible first | refine kept_ite.2 ⟨fun _ => ?_, fun _ => ?_⟩ | refine State.updCtx_keep ?_ .. | refine badParam_keep ?_ .. | refine done_keep ?_ .. | refine finish_keep ?_ .. | refine onCtx_keep ?_ _ _ (fun _ => ?_)) | ((with_reducible refine onReady_keep ?_ _ _ _ _ (fun _ => ?_)); on_goal 2 => beta_reduce) | dsimp only | split | (simp (maxDischargeDepth := 40) +contextual [kept_upd, *]; done)

theorem execVariantDrop_keep (h : Kept p s) (ring : Nat) (seq : Nat) : KeptR p (execVariantDrop ring seq s) := by
  unfold execVariantDrop
  repeat' first | (with_reducible first | assumption | refine keptR_next ?_) | (extract_lets +onlyGivenNames t; refine kept_cut (q := Kept p t) ?_ fun ht => ?_; (on_goal 2 => clear_value t); on_goal 1 => (simp only [t]; try clear t)) | (extract_lets +onlyGivenNames t; clear_value t) | (with_reducible first | refine kept_ite.2 ⟨fun _ => ?_, fun _ => ?_⟩ | refine badParam_keep ?_ .. | refine done_keep ?_ .. | refine dropVariant_keep ?_ .. | refine finish_keep ?_ .. | refine onCtx_keep ?_ _ _ (fun _ => ?_)) | ((with_reducible refine onReady_keep ?_ _ _ _ _ (fun _ => ?_)); on_goal 2 => beta_reduce) | dsimp only | with_reducible refine kept_elim ?_ fun _ => ?_ | split | (simp (maxDischargeDepth := 40) +contextual [kept_upd, *]; done)

theorem execTableLoad_keep (h : Kept p s) (ring : Nat) (seq : Nat) : KeptR p (execTableLoad ring seq s) := by
  unfold execTableLoad
  repeat' first | (with_reducible first | assumption | refine keptR_next ?_ | refine keptO_some ?_ | exact keptO_none) | (extract_lets +onlyGivenNames t; refine kept_cut (q := Kept p t) ?_ fun ht => ?_; (on_goal 2 => clear_value t); on_goal 1 => (simp only [t]; try clear t)) | (extract_lets +onlyGivenNames t; clear_value t) | (with_reducible first | refine kept_ite.2 ⟨fun _ => ?_, fun _ => ?_⟩ | refine badParam_keep ?_ .. | refine done_keep ?_ .. | refine finish_keep ?_ .. | refine State.updCtx_keep ?_ ..) | ((with_reducible refine onCtx_keep ?_ _ _ (fun _ => ?_)) <;> try beta_reduce) | ((with_reducible refine onLong_keep ?_ _ _ _ _ _ (fun _ => ?_) (fun _ => ?_)) <;> try beta_reduce) | dsimp only | (simp only [kept_mk_iff]; with_reducible refine kept_upd' ?_ (by simp (maxDischargeDepth := 40) +contextual)) | split | (simp (maxDischargeDepth := 40) +contextual [kept_upd, *]; done)

@[simp] theorem keepRow_keep (h : Kept p s) (ctx : Nat) (stamp : Nat) (table : Nat) (row : Nat) (bytes : List Byte) : Kept p (keepRow s ctx stamp table row bytes) := by
  unfold keepRow
  repeat' first | (with_reducible first | assumption) | (with_reducible first | refine State.updCtx_keep ?_ ..) | dsimp only | (simp only [kept_mk_iff]; with_reducible refine kept_upd' ?_ (by simp (maxDischargeDepth := 40) +contextual)) | split | (simp (maxDischargeDepth := 40) +contextual [kept_upd, *]; done)

@[simp] theorem pruneOlder_keep (h : Kept p s) (ctx : Nat) : Kept p (pruneOlder s ctx) := by
  unfold pruneOlder
  repeat' first | (with_reducible first | assumption) | (with_reducible first | refine kept_ite.2 ⟨fun _ => ?_, fun _ => ?_⟩ | refine State.updCtx_keep ?_ ..) | dsimp only | (simp only [kept_mk_iff]; with_reducible refine kept_upd' ?_ (by simp (maxDischargeDepth := 40) +contextual)) | split | (simp (maxDischargeDepth := 40) +contextual [kept_upd, *]; done)

@[simp] theorem applyUpd_keep (h : Kept p s) (ctx : Nat) (stamp : Nat) (u : TUpd) : Kept p (applyUpd s ctx stamp u) := by
  unfold applyUpd
  repeat' first | (with_reducible first | assumption) | (extract_lets +onlyGivenNames t; refine kept_cut (q := Kept p t) ?_ fun ht => ?_; (on_goal 2 => clear_value t); on_goal 1 => (simp only [t]; try clear t)) | (extract_lets +onlyGivenNames t; clear_value t) | (with_reducible first | refine kept_ite.2 ⟨fun _ => ?_, fun _ => ?_⟩ | refine keepRow_keep ?_ .. | refine State.hostWrite_keep ?_ .. | refine State.updChim_keep ?_ .. | refine State.updCtx_keep ?_ ..) | ((with_reducible refine sendLong_keep ?_ _ _ _ _ _) <;> try beta_reduce) | dsimp only | (simp only [kept_mk_iff]; with_reducible refine kept_upd' ?_ (by simp (maxDischargeDepth := 40) +contextual)) | split | (simp (maxDischargeDepth := 40) +contextual [kept_upd, *]; done)

@[simp] theorem applyUpdates_keep (h : Kept p s) (ctx : Nat) : Kept p (applyUpdates s ctx) := by
  unfold applyUpdates
  repeat' first | (with_reducible first | assumption) | (extract_lets +onlyGivenNames t; refine kept_cut (q := Kept p t) ?_ fun ht => ?_; (on_goal 2 => clear_value t); on_goal 1 => (simp only [t]; try clear t)) | (extract_lets +onlyGivenNames t; clear_value t) | (with_reducible first | refine kept_ite.2 ⟨fun _ => ?_, fun _ => ?_⟩ | refine kept_foldl ?_ (fun _ _ _ => ?_) | refine kept_foldl_mid ?_ (fun _ _ _ => ?_) | refine kept_foldl_fst ?_ (fun _ _ _ => ?_) | refine appendRec_keep ?_ .. | refine applyUpd_keep ?_ .. | refine pruneOlder_keep ?_ .. | refine State.updCtx_keep ?_ ..) | dsimp only | (simp only [kept_mk_iff]; with_reducible refine kept_upd' ?_ (by simp (maxDischargeDepth := 40) +contextual)) | split | (simp (maxDischargeDepth := 40) +contextual [kept_upd, *]; done)

theorem execTableUpdate_keep (h : Kept p s) (ring : Nat) (seq : Nat) : KeptR p (execTableUpdate ring seq s) := by
  unfold execTableUpdate
  repeat' first | (with_reducible first | assumption | refine keptR_next ?_ | refine hf1 _ ?_ | refine hf2 _ _ ?_) | (extract_lets +onlyGivenNames t; refine kept_cut (q := Kept p t) ?_ fun ht => ?_; (on_goal 2 => clear_value t); on_goal 1 => (simp only [t]; try clear t)) | (extract_lets +onlyGivenNames t; refine kept_cut (q := ∀ x : State, Kept p x → Kept p (t x)) ?_ fun hf1 => ?_; (on_goal 2 => clear_value t); on_goal 1 => (simp only [t]; try clear t; intro _ _)) | (extract_lets +onlyGivenNames t; refine kept_cut (q := ∀ (x : State) y, Kept p x → Kept p (t x y)) ?_ fun hf2 => ?_; (on_goal 2 => clear_value t); on_goal 1 => (simp only [t]; try clear t; intro _ _ _)) | (extract_lets +onlyGivenNames t; refine kept_cut (q := ∀ x : State, Kept p x → Kept p (t x).2) ?_ fun hf4 => ?_; (on_goal 2 => clear_value t); on_goal 1 => (simp only [t]; try clear t; intro _ _)) | with_reducible refine hf4 _ ?_ | (extract_lets +onlyGivenNames t; clear_value t) | (with_reducible first | refine kept_ite.2 ⟨fun _ => ?_, fun _ => ?_⟩ | refine State.draw_keep ?_ .. | refine State.draw_keep' (e := by with_reducible assumption) ?_ | refine State.updCtx_keep ?_ .. | refine applyUpdates_keep ?_ .. | refine badParam_keep ?_ .. | refine done_keep ?_ .. | refine finish_keep ?_ .. | refine onCtx_keep ?_ _ _ (fun _ => ?_)) | ((with_reducible refine onReady_keep ?_ _ _ _ _ (fun _ => ?_)); on_goal 2 => beta_reduce) | dsimp only | split | (simp (maxDischargeDepth := 40) +contextual [kept_upd, *]; done)

theorem execTableUpdateApply_keep (h : Kept p s) (ctx : Nat) : KeptR p (execTableUpdateApply ctx s) := by
  unfold execTableUpdateApply
  repeat' first | (with_reducible first | assumption | refine keptR_next ?_ | refine kept_ite.2 ⟨fun _ => ?_, fun _ => ?_⟩ | refine applyUpdates_keep ?_ ..) | dsimp only | split | (simp (maxDischargeDepth := 40) +contextual [kept_upd, *]; done)

theorem onPanel_keep (h : Kept p s) (c : Cmd) (f : Panel → Nat → State) (hf : ∀ d t, Kept p (f d t)) : Kept p (onPanel s c f) := by
  refine onCtx_keep h _ _ fun x => ?_
  split
  · exact finish_keep h ..
  · split
    · exact badParam_keep h ..
    · extract_lets d
      clear_value d
      repeat' split
      all_goals with_reducible first | exact h | exact badParam_keep h .. | exact hf _ _

theorem execPanelRead_keep (h : Kept p s) (ring : Nat) (seq : Nat) : KeptR p (execPanelRead ring seq s) := by
  unfold execPanelRead
  repeat' first | (with_reducible first | assumption | refine keptR_next ?_ | refine kept_ite.2 ⟨fun _ => ?_, fun _ => ?_⟩ | refine State.hostWrite_keep ?_ .. | refine done_keep ?_ .. | refine finish_keep ?_ .. | refine onPanel_keep ?_ _ _ (fun _ _ => ?_)) | ((with_reducible refine onReady_keep ?_ _ _ _ _ (fun _ => ?_)); on_goal 2 => beta_reduce) | dsimp only | split | (simp (maxDischargeDepth := 40) +contextual [kept_upd, *]; done)

theorem execPanelWrite_keep (h : Kept p s) (ring : Nat) (seq : Nat) : KeptR p (execPanelWrite ring seq s) := by
  unfold execPanelWrite
  repeat' first | (with_reducible first | assumption | refine keptR_next ?_) | (extract_lets +onlyGivenNames t; refine kept_cut (q := Kept p t) ?_ fun ht => ?_; (on_goal 2 => clear_value t); on_goal 1 => (simp only [t]; try clear t)) | (extract_lets +onlyGivenNames t; refine kept_cut (q := Mem.wf t = true) ?_ fun hm => ?_; (on_goal 2 => clear_value t); on_goal 1 => exact Mem.wf_write _ _ _ (Kept.tile h _)) | (extract_lets +onlyGivenNames t; clear_value t) | with_reducible refine kept_ite.2 ⟨fun _ => ?_, fun _ => ?_⟩ | ((with_reducible refine State.updTile_keep ?_ _ _ ?_); on_goal 2 => exact id) | ((with_reducible refine State.updTile_keep ?_ _ _ ?_); on_goal 2 => exact fun _ => rfl) | ((with_reducible refine State.updTile_keep ?_ _ _ ?_); on_goal 2 => (simp (maxDischargeDepth := 40) +contextual [*]; done)) | ((with_reducible refine State.updTile_keep ?_ _ _ ?_); on_goal 2 => (intro hm; dsimp only; (repeat' split) <;> simp_all (maxDischargeDepth := 40); done)) | (with_reducible first | refine badParam_keep ?_ .. | refine done_keep ?_ .. | refine finish_keep ?_ .. | refine onPanel_keep ?_ _ _ (fun _ _ => ?_)) | ((with_reducible refine onReady_keep ?_ _ _ _ _ (fun _ => ?_)); on_goal 2 => beta_reduce) | dsimp only | split | (simp (maxDischargeDepth := 40) +contextual [kept_upd, *]; done)

end Sys2Proof.Machine
end

