-- ==== Sys2Proof/Laws/Keep/ChimStep.lean ====
section
/-! SUPPORT. What every operation of Machine/ChimStep.lean keeps. -/

namespace Sys2Proof.Machine

set_option linter.all false

variable {p : List Instr} {s : State}

@[simp] theorem commitPath_keep (h : Kept p s) (slot : Nat) (root : Nat) (step : Nat) (path : List Nat) : Kept p (commitPath s slot root step path) := by
  unfold commitPath
  repeat' first | (with_reducible first | assumption | refine hf1 _ ?_ | refine hf2 _ _ ?_ | refine hf3 _ _ _ ?_) | (extract_lets +onlyGivenNames t; refine kept_cut (q := Kept p t) ?_ fun ht => ?_; (on_goal 2 => clear_value t); on_goal 1 => (simp only [t]; try clear t)) | (extract_lets +onlyGivenNames t; refine kept_cut (q := ∀ x : State, Kept p x → Kept p (t x)) ?_ fun hf1 => ?_; (on_goal 2 => clear_value t); on_goal 1 => (simp only [t]; try clear t; intro _ _)) | (extract_lets +onlyGivenNames t; refine kept_cut (q := ∀ (x : State) y, Kept p x → Kept p (t x y)) ?_ fun hf2 => ?_; (on_goal 2 => clear_value t); on_goal 1 => (simp only [t]; try clear t; intro _ _ _)) | (extract_lets +onlyGivenNames t; refine kept_cut (q := ∀ x, Kept p (t x)) ?_ fun hf6 => ?_; (on_goal 2 => clear_value t); on_goal 1 => (simp only [t]; try clear t; intro _)) | with_reducible refine hf6 _ | (extract_lets +onlyGivenNames t; refine kept_cut (q := ∀ x : State, Kept p x → Kept p (t x).2) ?_ fun hf4 => ?_; (on_goal 2 => clear_value t); on_goal 1 => (simp only [t]; try clear t; intro _ _)) | with_reducible refine hf4 _ ?_ | (extract_lets +onlyGivenNames t; refine kept_cut (q := ∀ x : State, Kept p x → Kept p (t x).1) ?_ fun hf5 => ?_; (on_goal 2 => clear_value t); on_goal 1 => (simp only [t]; try clear t; intro _ _)) | with_reducible refine hf5 _ ?_ | (extract_lets +onlyGivenNames t; clear_value t) | (with_reducible first | refine kept_ite.2 ⟨fun _ => ?_, fun _ => ?_⟩ | refine kept_foldl ?_ (fun _ _ _ => ?_) | refine kept_foldl_mid ?_ (fun _ _ _ => ?_) | refine kept_foldl_fst ?_ (fun _ _ _ => ?_) | refine flushStaging_keep ?_ .. | refine putKv_keep ?_ .. | refine savePair_keep ?_ .. | refine State.updReq_keep ?_ ..) | dsimp only | with_reducible refine kept_elim ?_ fun _ => ?_ | (simp only [kept_mk_iff]; with_reducible refine kept_upd' ?_ (by simp (maxDischargeDepth := 40) +contextual)) | split | (simp (maxDischargeDepth := 40) +contextual [kept_upd, *]; done)

@[simp] theorem updStep_keep (h : Kept p s) (n : Nat) (f : CStep → CStep) : Kept p (updStep s n f) := by
  unfold updStep
  repeat' first | (with_reducible first | assumption | refine kept_ite.2 ⟨fun _ => ?_, fun _ => ?_⟩ | refine State.updChim_keep ?_ ..) | dsimp only | split | (simp (maxDischargeDepth := 40) +contextual [kept_upd, *]; done)

@[simp] theorem dropStep_keep (h : Kept p s) (n : Nat) : Kept p (dropStep s n) := by
  unfold dropStep
  repeat' first | (with_reducible first | assumption | refine State.updChim_keep ?_ ..) | dsimp only | (simp (maxDischargeDepth := 40) +contextual [kept_upd, *]; done)

@[simp] theorem sendMirror_keep (h : Kept p s) (handle : Nat) (slot : Nat) (pair : Nat) (p' : Nat) : Kept p (sendMirror s handle slot pair p') := by
  unfold sendMirror
  repeat' first | (with_reducible first | assumption) | ((with_reducible refine sendLong_keep ?_ _ _ _ _ _) <;> try beta_reduce) | dsimp only | split | (simp (maxDischargeDepth := 40) +contextual [kept_upd, *]; done)

@[simp] theorem commitLocal_keep (h : Kept p s) (x : CStep) : Kept p (commitLocal s x) := by
  unfold commitLocal
  repeat' first | (with_reducible first | assumption | refine hf1 _ ?_ | refine hf2 _ _ ?_ | refine hf3 _ _ _ ?_) | (extract_lets +onlyGivenNames t; refine kept_cut (q := Kept p t) ?_ fun ht => ?_; (on_goal 2 => clear_value t); on_goal 1 => (simp only [t]; try clear t)) | (extract_lets +onlyGivenNames t; refine kept_cut (q := ∀ x : State, Kept p x → Kept p (t x)) ?_ fun hf1 => ?_; (on_goal 2 => clear_value t); on_goal 1 => (simp only [t]; try clear t; intro _ _)) | (extract_lets +onlyGivenNames t; refine kept_cut (q := ∀ (x : State) y, Kept p x → Kept p (t x y)) ?_ fun hf2 => ?_; (on_goal 2 => clear_value t); on_goal 1 => (simp only [t]; try clear t; intro _ _ _)) | (extract_lets +onlyGivenNames t; refine kept_cut (q := ∀ x, Kept p (t x)) ?_ fun hf6 => ?_; (on_goal 2 => clear_value t); on_goal 1 => (simp only [t]; try clear t; intro _)) | with_reducible refine hf6 _ | (extract_lets +onlyGivenNames t; refine kept_cut (q := ∀ x : State, Kept p x → Kept p (t x).2) ?_ fun hf4 => ?_; (on_goal 2 => clear_value t); on_goal 1 => (simp only [t]; try clear t; intro _ _)) | with_reducible refine hf4 _ ?_ | (extract_lets +onlyGivenNames t; refine kept_cut (q := ∀ x : State, Kept p x → Kept p (t x).1) ?_ fun hf5 => ?_; (on_goal 2 => clear_value t); on_goal 1 => (simp only [t]; try clear t; intro _ _)) | with_reducible refine hf5 _ ?_ | (extract_lets +onlyGivenNames t; clear_value t) | (with_reducible first | refine kept_ite.2 ⟨fun _ => ?_, fun _ => ?_⟩ | refine kept_foldl ?_ (fun _ _ _ => ?_) | refine kept_foldl_mid ?_ (fun _ _ _ => ?_) | refine kept_foldl_fst ?_ (fun _ _ _ => ?_) | refine commitPath_keep ?_ .. | refine dropRef_keep ?_ .. | refine dropStep_keep ?_ .. | refine State.updChim_keep ?_ .. | refine State.updReq_keep ?_ ..) | ((with_reducible refine sendMirror_keep ?_ _ _ _ _) <;> try beta_reduce) | ((with_reducible refine sendMirrorFree_keep ?_ _ _ _ _ _ _) <;> try beta_reduce) | dsimp only | with_reducible refine kept_elim ?_ fun _ => ?_ | (simp only [kept_mk_iff]; with_reducible refine kept_upd' ?_ (by simp (maxDischargeDepth := 40) +contextual)) | split | (simp (maxDischargeDepth := 40) +contextual [kept_upd, *]; done)

@[simp] theorem commitReady_keep (n : Nat) {s : State} (h : Kept p s) : Kept p (commitReady n s) := by
  induction n generalizing s with
  | zero => exact h
  | succ n ih =>
    unfold commitReady
    split
    · exact h
    · exact ih (advance_keep (commitLocal_keep (sendDown_keep h ..) _) _)

@[simp] theorem tryCommit_keep (h : Kept p s)  : Kept p (tryCommit s) := by
  unfold tryCommit
  repeat' first | (with_reducible first | assumption | refine kept_ite.2 ⟨fun _ => ?_, fun _ => ?_⟩ | refine commitReady_keep _ ?_) | dsimp only | split | (simp (maxDischargeDepth := 40) +contextual [kept_upd, *]; done)

@[simp] theorem trySendDone_keep (h : Kept p s) (n : Nat) : Kept p (trySendDone s n) := by
  unfold trySendDone
  repeat' first | (with_reducible first | assumption | refine kept_ite.2 ⟨fun _ => ?_, fun _ => ?_⟩ | refine sendFrame_keep ?_ ..) | dsimp only | split | (simp (maxDischargeDepth := 40) +contextual [kept_upd, *]; done)

@[simp] theorem stepEnded_keep (h : Kept p s) (v : Vec) : Kept p (stepEnded s v) := by
  unfold stepEnded
  repeat' first | (with_reducible first | assumption) | (extract_lets +onlyGivenNames t; refine kept_cut (q := Kept p t) ?_ fun ht => ?_; (on_goal 2 => clear_value t); on_goal 1 => (simp only [t]; try clear t)) | (extract_lets +onlyGivenNames t; clear_value t) | (with_reducible first | refine kept_ite.2 ⟨fun _ => ?_, fun _ => ?_⟩ | refine tryCommit_keep ?_ .. | refine trySendDone_keep ?_ .. | refine updStep_keep ?_ ..) | dsimp only | with_reducible refine kept_elim ?_ fun _ => ?_ | (simp only [kept_mk_iff]; with_reducible refine kept_upd' ?_ (by simp (maxDischargeDepth := 40) +contextual)) | split | (simp (maxDischargeDepth := 40) +contextual [kept_upd, *]; done)

@[simp] theorem vecLeave_keep (h : Kept p s) (ctx : Nat) (v : Vec) : Kept p (vecLeave s ctx v) := by
  unfold vecLeave
  repeat' first | with_reducible assumption | (extract_lets +onlyGivenNames t; refine kept_cut (q := Kept p t) ?_ fun ht => ?_; (on_goal 2 => clear_value t); on_goal 1 => (simp only [t]; try clear t)) | (extract_lets +onlyGivenNames t; clear_value t) | (with_reducible first | refine kept_ite.2 ⟨fun _ => ?_, fun _ => ?_⟩ | refine State.updCtx_keep ?_ .. | refine State.updReq_keep ?_ .. | refine advance_keep ?_ .. | refine settle_keep ?_ .. | refine settleCtx_keep ?_ .. | refine stepEnded_keep ?_ ..) | dsimp only | split | (simp (maxDischargeDepth := 40) +contextual [kept_upd, *]; done)

end Sys2Proof.Machine
end

