-- ==== Sys2Proof/Laws/Keep/Execution.lean ====
section
/-! SUPPORT. What every operation of Machine/Execution.lean keeps. -/

namespace Sys2Proof.Machine

set_option linter.all false

variable {p : List Instr} {s : State}

/-- What the effect of an instruction keeps. -/
def KeptE (p : List Instr) : Eff → Prop
  | .wait | .stop _ => True
  | .hold s => Kept p s
  | .ok s _ _ _ => Kept p s

theorem keptE_ite {c : Prop} [Decidable c] {a b : Eff} (ha : c → KeptE p a) (hb : ¬c → KeptE p b) : KeptE p (if c then a else b) := by
  split
  · exact ha ‹_›
  · exact hb ‹_›

theorem keptE_ok {t : State} {out : List Byte} {fin : Bool} {pcie : Nat} (h : Kept p t) : KeptE p (.ok t out fin pcie) := h

theorem keptE_hold {t : State} (h : Kept p t) : KeptE p (.hold t) := h

theorem keptE_stop (n : Nat) : KeptE p (.stop n) := True.intro

theorem keptE_wait : KeptE p .wait := True.intro

@[simp] theorem stopProg_keep (h : Kept p s) (a : At) (cause : Nat) : Kept p (stopProg s a cause) := by
  unfold stopProg
  repeat' first | (with_reducible first | assumption) | (with_reducible first | refine raiseErr_keep ?_ ..) | ((with_reducible refine State.updTile_keep ?_ _ _ ?_); on_goal 2 => exact id) | ((with_reducible refine State.updTile_keep ?_ _ _ ?_); on_goal 2 => exact fun _ => rfl) | ((with_reducible refine State.updTile_keep ?_ _ _ ?_); on_goal 2 => (simp (maxDischargeDepth := 40) +contextual [*]; done)) | ((with_reducible refine State.updTile_keep ?_ _ _ ?_); on_goal 2 => (intro hm; dsimp only; (repeat' split) <;> simp_all (maxDischargeDepth := 40); done)) | dsimp only | (simp only [kept_mk_iff]; with_reducible refine kept_upd' ?_ (by simp (maxDischargeDepth := 40) +contextual)) | split | (simp (maxDischargeDepth := 40) +contextual [kept_upd, *]; done)

theorem rdP_keep (h : Kept p s) (a : At) (q off n : Nat) (f : List Byte → Eff) (hf : ∀ l, KeptE p (f l)) : KeptE p (rdP s a q off n f) := by
  unfold rdP
  split
  · trivial
  · exact hf _

theorem wrP_keep (h : Kept p s) (a : At) (q e : Nat) (l : List Byte) (f : State → Eff) (hf : ∀ t, Kept p t → KeptE p (f t)) : KeptE p (wrP s a q e l f) := by
  unfold wrP
  split
  · trivial
  · exact hf _ (State.updTile_keep h _ _ fun hm => Mem.wf_write _ _ _ hm)

theorem rdF_keep (h : Kept p s) (a : At) (q e n : Nat) (f : List F32 → Eff) (hf : ∀ l, KeptE p (f l)) : KeptE p (rdF s a q e n f) := by
  unfold rdF
  extract_lets
  exact rdP_keep h _ _ _ _ _ fun _ => hf _

theorem wrF_keep (h : Kept p s) (a : At) (q e : Nat) (l : List F32) (f : State → Eff) (hf : ∀ t, Kept p t → KeptE p (f t)) : KeptE p (wrF s a q e l f) := by
  exact wrP_keep h _ _ _ _ _ hf

theorem rdA_keep (h : Kept p s) (a : At) (q e n : Nat) (f : List Int → Eff) (hf : ∀ l, KeptE p (f l)) : KeptE p (rdA s a q e n f) := by
  unfold rdA
  exact rdP_keep h _ _ _ _ _ fun _ => hf _

theorem wrA_keep (h : Kept p s) (a : At) (q e : Nat) (l : List Int) (f : State → Eff) (hf : ∀ t, Kept p t → KeptE p (f t)) : KeptE p (wrA s a q e l f) := by
  exact wrP_keep h _ _ _ _ _ hf

@[simp] theorem updExec_keep (h : Kept p s) (t : Nat) (f : Exec → Exec) : Kept p (updExec s t f) := by
  unfold updExec
  repeat' first | with_reducible assumption | ((with_reducible refine State.updTile_keep ?_ _ _ ?_); on_goal 2 => exact id) | ((with_reducible refine State.updTile_keep ?_ _ _ ?_); on_goal 2 => exact fun _ => rfl) | ((with_reducible refine State.updTile_keep ?_ _ _ ?_); on_goal 2 => (simp (maxDischargeDepth := 40) +contextual [*]; done)) | ((with_reducible refine State.updTile_keep ?_ _ _ ?_); on_goal 2 => (intro hm; dsimp only; (repeat' split) <;> simp_all (maxDischargeDepth := 40); done)) | dsimp only | (simp (maxDischargeDepth := 40) +contextual [kept_upd, *]; done)

@[simp] theorem issued_keep (h : Kept p s) (a : At) (out : List Byte) (fin : Bool) (pcie : Nat) : Kept p (issued s a out fin pcie) := updExec_keep h _ _

theorem onIssue_keep (h : Kept p s) (opc t : Nat) (f : State → At → Eff) (hf : ∀ a, KeptE p (f s a)) : Kept p (onIssue opc t f s) := by
  unfold onIssue
  repeat' split
  · exact h
  · exact h
  · exact h
  · rename_i e; have := hf (by assumption); rw [e] at this; exact this
  · exact stopProg_keep h ..
  · rename_i e; have := hf (by assumption); rw [e] at this; exact issued_keep this ..

@[simp] theorem markDone_keep (h : Kept p s) (t : Nat) (n : Nat) : Kept p (markDone s t n) := by
  unfold markDone
  repeat' first | (with_reducible first | assumption | refine kept_ite.2 ⟨fun _ => ?_, fun _ => ?_⟩ | refine done_keep ?_ .. | refine issued_keep ?_ .. | refine updExec_keep ?_ ..) | dsimp only | split | (simp (maxDischargeDepth := 40) +contextual [kept_upd, *]; done)

@[simp] theorem duePairs_keep (h : Kept p s) (slot : Nat) (disp : Nat) (pairs : List Nat) : Kept p (duePairs s slot disp pairs) := by
  unfold duePairs
  repeat' first | (with_reducible first | assumption) | (with_reducible first | refine kept_ite.2 ⟨fun _ => ?_, fun _ => ?_⟩ | refine State.updReq_keep ?_ ..) | dsimp only | (simp only [kept_mk_iff]; with_reducible refine kept_upd' ?_ (by simp (maxDischargeDepth := 40) +contextual)) | split | (simp (maxDischargeDepth := 40) +contextual [kept_upd, *]; done)

@[simp] theorem tileEnded_keep (h : Kept p s) (ctx : Nat) (disp : Nat) (tiles : Nat) : Kept p (tileEnded s ctx disp tiles) := by
  unfold tileEnded
  repeat' first | (with_reducible first | assumption) | (extract_lets +onlyGivenNames t; refine kept_cut (q := Kept p t) ?_ fun ht => ?_; (on_goal 2 => clear_value t); on_goal 1 => (simp only [t]; try clear t)) | (extract_lets +onlyGivenNames t; clear_value t) | (with_reducible first | refine kept_ite.2 ⟨fun _ => ?_, fun _ => ?_⟩ | refine duePairs_keep ?_ .. | refine updVec_keep ?_ .. | refine vecLeave_keep ?_ ..) | dsimp only | (simp only [kept_mk_iff]; with_reducible refine kept_upd' ?_ (by simp (maxDischargeDepth := 40) +contextual)) | split | (simp (maxDischargeDepth := 40) +contextual [kept_upd, *]; done)

theorem execExecutionStart_keep (h : Kept p s) (tile : Nat) : KeptR p (execExecutionStart tile s) := by
  unfold execExecutionStart
  repeat' first | (with_reducible first | assumption | refine keptR_next ?_) | (extract_lets +onlyGivenNames t; refine kept_cut (q := Kept p t) ?_ fun ht => ?_; (on_goal 2 => clear_value t); on_goal 1 => (simp only [t]; try clear t)) | (extract_lets +onlyGivenNames t; clear_value t) | with_reducible refine kept_ite.2 ⟨fun _ => ?_, fun _ => ?_⟩ | ((with_reducible refine State.updTile_keep ?_ _ _ ?_); on_goal 2 => exact id) | ((with_reducible refine State.updTile_keep ?_ _ _ ?_); on_goal 2 => exact fun _ => rfl) | ((with_reducible refine State.updTile_keep ?_ _ _ ?_); on_goal 2 => (simp (maxDischargeDepth := 40) +contextual [*]; done)) | ((with_reducible refine State.updTile_keep ?_ _ _ ?_); on_goal 2 => (intro hm; dsimp only; (repeat' split) <;> simp_all (maxDischargeDepth := 40); done)) | (with_reducible first | refine issued_keep ?_ .. | refine tileEnded_keep ?_ ..) | dsimp only | split | (simp (maxDischargeDepth := 40) +contextual [kept_upd, *]; done)

theorem execExecutionEnd_keep (h : Kept p s) (tile : Nat) : KeptR p (execExecutionEnd tile s) := by
  unfold execExecutionEnd
  repeat' first | (with_reducible first | assumption | refine keptR_next ?_) | (extract_lets +onlyGivenNames t; refine kept_cut (q := Kept p t) ?_ fun ht => ?_; (on_goal 2 => clear_value t); on_goal 1 => (simp only [t]; try clear t)) | (extract_lets +onlyGivenNames t; clear_value t) | (with_reducible first | refine kept_ite.2 ⟨fun _ => ?_, fun _ => ?_⟩ | refine captureExec_keep ?_ .. | refine done_keep ?_ .. | refine duePairs_keep ?_ .. | refine reapPages_keep ?_ .. | refine replayExec_keep ?_ .. | refine tileEnded_keep ?_ ..) | ((with_reducible refine State.updTile_keep ?_ _ _ ?_); on_goal 2 => exact id) | ((with_reducible refine State.updTile_keep ?_ _ _ ?_); on_goal 2 => exact fun _ => rfl) | ((with_reducible refine State.updTile_keep ?_ _ _ ?_); on_goal 2 => (simp (maxDischargeDepth := 40) +contextual [*]; done)) | ((with_reducible refine State.updTile_keep ?_ _ _ ?_); on_goal 2 => (intro hm; dsimp only; (repeat' split) <;> simp_all (maxDischargeDepth := 40); done)) | dsimp only | (simp only [kept_mk_iff]; with_reducible refine kept_upd' ?_ (by simp (maxDischargeDepth := 40) +contextual)) | split | (simp (maxDischargeDepth := 40) +contextual [kept_upd, *]; done)

theorem execInstructionComplete_keep (h : Kept p s) (tile : Nat) (issue : Nat) : KeptR p (execInstructionComplete tile issue s) := by
  unfold execInstructionComplete
  repeat' first | (with_reducible first | assumption | refine keptR_next ?_ | refine kept_ite.2 ⟨fun _ => ?_, fun _ => ?_⟩ | refine markDone_keep ?_ ..) | dsimp only | split | (simp (maxDischargeDepth := 40) +contextual [kept_upd, *]; done)

theorem execExecLimitExpire_keep (h : Kept p s) (tile : Nat) : KeptR p (execExecLimitExpire tile s) := by
  unfold execExecLimitExpire
  repeat' first | (with_reducible first | assumption | refine keptR_next ?_) | (extract_lets +onlyGivenNames t; refine kept_cut (q := Kept p t) ?_ fun ht => ?_; (on_goal 2 => clear_value t); on_goal 1 => (simp only [t]; try clear t)) | (extract_lets +onlyGivenNames t; clear_value t) | (with_reducible first | refine kept_ite.2 ⟨fun _ => ?_, fun _ => ?_⟩ | refine stopProg_keep ?_ ..) | dsimp only | with_reducible refine kept_elim ?_ fun _ => ?_ | split | (simp (maxDischargeDepth := 40) +contextual [kept_upd, *]; done)

theorem execWaitCtr_keep (h : Kept p s) (tile : Nat) : KeptR p (execWaitCtr tile s) := by
  unfold execWaitCtr
  repeat' first | (with_reducible first | assumption | refine keptR_next ?_) | (extract_lets +onlyGivenNames t; refine kept_cut (q := Kept p t) ?_ fun ht => ?_; (on_goal 2 => clear_value t); on_goal 1 => (simp only [t]; try clear t)) | (with_reducible first | refine keptE_ite (fun _ => ?_) (fun _ => ?_) | refine keptE_ok ?_ | refine keptE_hold ?_ | exact keptE_stop _ | exact keptE_wait) | (extract_lets +onlyGivenNames t; clear_value t) | with_reducible refine kept_ite.2 ⟨fun _ => ?_, fun _ => ?_⟩ | ((with_reducible refine State.updTile_keep ?_ _ _ ?_); on_goal 2 => exact id) | ((with_reducible refine State.updTile_keep ?_ _ _ ?_); on_goal 2 => exact fun _ => rfl) | ((with_reducible refine State.updTile_keep ?_ _ _ ?_); on_goal 2 => (simp (maxDischargeDepth := 40) +contextual [*]; done)) | ((with_reducible refine State.updTile_keep ?_ _ _ ?_); on_goal 2 => (intro hm; dsimp only; (repeat' split) <;> simp_all (maxDischargeDepth := 40); done)) | ((with_reducible refine onIssue_keep ?_ _ _ _ (fun _ => ?_)) <;> try beta_reduce) | dsimp only | split | (simp (maxDischargeDepth := 40) +contextual [kept_upd, *]; done)

theorem execSignal_keep (h : Kept p s) (tile : Nat) : KeptR p (execSignal tile s) := by
  unfold execSignal
  repeat' first | (with_reducible first | assumption | refine keptR_next ?_) | (extract_lets +onlyGivenNames t; refine kept_cut (q := Kept p t) ?_ fun ht => ?_; (on_goal 2 => clear_value t); on_goal 1 => (simp only [t]; try clear t)) | (with_reducible first | refine keptE_ite (fun _ => ?_) (fun _ => ?_) | refine keptE_ok ?_ | refine keptE_hold ?_ | exact keptE_stop _ | exact keptE_wait) | (extract_lets +onlyGivenNames t; clear_value t) | with_reducible refine kept_ite.2 ⟨fun _ => ?_, fun _ => ?_⟩ | ((with_reducible refine onIssue_keep ?_ _ _ _ (fun _ => ?_)) <;> try beta_reduce) | dsimp only | with_reducible refine kept_elim ?_ fun _ => ?_ | (simp only [kept_mk_iff]; with_reducible refine kept_upd' ?_ (by simp (maxDischargeDepth := 40) +contextual)) | split | (simp (maxDischargeDepth := 40) +contextual [kept_upd, *]; done)

theorem execSignalArrival_keep (h : Kept p s) (tile : Nat) : KeptR p (execSignalArrival tile s) := by
  unfold execSignalArrival
  repeat' first | (with_reducible first | assumption | refine keptR_next ?_) | (extract_lets +onlyGivenNames t; refine kept_cut (q := Kept p t) ?_ fun ht => ?_; (on_goal 2 => clear_value t); on_goal 1 => (simp only [t]; try clear t)) | (extract_lets +onlyGivenNames t; clear_value t) | with_reducible refine kept_ite.2 ⟨fun _ => ?_, fun _ => ?_⟩ | ((with_reducible refine State.updTile_keep ?_ _ _ ?_); on_goal 2 => exact id) | ((with_reducible refine State.updTile_keep ?_ _ _ ?_); on_goal 2 => exact fun _ => rfl) | ((with_reducible refine State.updTile_keep ?_ _ _ ?_); on_goal 2 => (simp (maxDischargeDepth := 40) +contextual [*]; done)) | ((with_reducible refine State.updTile_keep ?_ _ _ ?_); on_goal 2 => (intro hm; dsimp only; (repeat' split) <;> simp_all (maxDischargeDepth := 40); done)) | (with_reducible first | refine done_keep ?_ .. | refine markDone_keep ?_ .. | refine raiseErr_keep ?_ ..) | dsimp only | with_reducible refine kept_elim ?_ fun _ => ?_ | (simp only [kept_mk_iff]; with_reducible refine kept_upd' ?_ (by simp (maxDischargeDepth := 40) +contextual)) | split | (simp (maxDischargeDepth := 40) +contextual [kept_upd, *]; done)

theorem execLoopBody_keep (h : Kept p s) (tile : Nat) : KeptR p (execLoopBody tile s) := by
  unfold execLoopBody
  repeat' first | (with_reducible first | assumption | refine keptR_next ?_) | (extract_lets +onlyGivenNames t; refine kept_cut (q := Kept p t) ?_ fun ht => ?_; (on_goal 2 => clear_value t); on_goal 1 => (simp only [t]; try clear t)) | (with_reducible first | refine keptE_ite (fun _ => ?_) (fun _ => ?_) | refine keptE_ok ?_ | refine keptE_hold ?_ | exact keptE_stop _ | exact keptE_wait) | (extract_lets +onlyGivenNames t; clear_value t) | ((with_reducible refine onIssue_keep ?_ _ _ _ (fun _ => ?_)) <;> try beta_reduce) | with_reducible refine updExec_keep ?_ .. | dsimp only | (simp (maxDischargeDepth := 40) +contextual [kept_upd, *]; done)

theorem execBr_keep (h : Kept p s) (tile : Nat) : KeptR p (execBr tile s) := by
  unfold execBr
  repeat' first | (with_reducible first | assumption | refine keptR_next ?_ | refine kept_ite.2 ⟨fun _ => ?_, fun _ => ?_⟩ | refine issued_keep ?_ .. | refine updExec_keep ?_ ..) | dsimp only | split | (simp (maxDischargeDepth := 40) +contextual [kept_upd, *]; done)

theorem execEndExec_keep (h : Kept p s) (tile : Nat) : KeptR p (execEndExec tile s) := by
  unfold execEndExec
  repeat' first | (with_reducible first | assumption | refine keptR_next ?_ | refine keptE_ite (fun _ => ?_) (fun _ => ?_) | refine keptE_ok ?_ | refine keptE_hold ?_ | exact keptE_stop _ | exact keptE_wait) | ((with_reducible refine onIssue_keep ?_ _ _ _ (fun _ => ?_)) <;> try beta_reduce) | with_reducible refine updExec_keep ?_ .. | dsimp only | (simp (maxDischargeDepth := 40) +contextual [kept_upd, *]; done)

theorem execNopInstr_keep (h : Kept p s) (tile : Nat) : KeptR p (execNopInstr tile s) := by
  unfold execNopInstr
  repeat' first | (with_reducible first | assumption | refine keptR_next ?_ | refine keptE_ite (fun _ => ?_) (fun _ => ?_) | refine keptE_ok ?_ | refine keptE_hold ?_ | exact keptE_stop _ | exact keptE_wait) | ((with_reducible refine onIssue_keep ?_ _ _ _ (fun _ => ?_)) <;> try beta_reduce) | dsimp only | (simp (maxDischargeDepth := 40) +contextual [kept_upd, *]; done)

@[simp] theorem noVout_keep (h : Kept p s) (a : At) : Kept p (noVout s a) := by
  unfold noVout
  repeat' first | (with_reducible first | assumption | refine State.updCtx_keep ?_ ..) | dsimp only | (simp (maxDischargeDepth := 40) +contextual [kept_upd, *]; done)

theorem execTimeread_keep (h : Kept p s) (tile : Nat) : KeptR p (execTimeread tile s) := by
  unfold execTimeread
  repeat' first | (with_reducible first | assumption | refine keptR_next ?_ | refine hf1 _ ?_ | refine hf2 _ _ ?_) | (extract_lets +onlyGivenNames t; refine kept_cut (q := Kept p t) ?_ fun ht => ?_; (on_goal 2 => clear_value t); on_goal 1 => (simp only [t]; try clear t)) | (extract_lets +onlyGivenNames t; refine kept_cut (q := ∀ x : State, Kept p x → Kept p (t x)) ?_ fun hf1 => ?_; (on_goal 2 => clear_value t); on_goal 1 => (simp only [t]; try clear t; intro _ _)) | (extract_lets +onlyGivenNames t; refine kept_cut (q := ∀ (x : State) y, Kept p x → Kept p (t x y)) ?_ fun hf2 => ?_; (on_goal 2 => clear_value t); on_goal 1 => (simp only [t]; try clear t; intro _ _ _)) | (extract_lets +onlyGivenNames t; refine kept_cut (q := ∀ x : State, Kept p x → Kept p (t x).2) ?_ fun hf4 => ?_; (on_goal 2 => clear_value t); on_goal 1 => (simp only [t]; try clear t; intro _ _)) | with_reducible refine hf4 _ ?_ | (extract_lets +onlyGivenNames t; refine kept_cut (q := ∀ (x : State) y z, Kept p x → KeptE p (t x y z)) ?_ fun hf3 => ?_; (on_goal 2 => clear_value t); on_goal 1 => (simp only [t]; try clear t; intro _ _ _ _)) | with_reducible refine hf3 _ _ _ ?_ | (extract_lets +onlyGivenNames t; refine kept_cut (q := ∀ x : State, Kept p x → KeptE p (t x)) ?_ fun hf1 => ?_; (on_goal 2 => clear_value t); on_goal 1 => (simp only [t]; try clear t; intro _ _)) | (extract_lets +onlyGivenNames t; refine kept_cut (q := ∀ (x : State) y, Kept p x → KeptE p (t x y)) ?_ fun hf2 => ?_; (on_goal 2 => clear_value t); on_goal 1 => (simp only [t]; try clear t; intro _ _ _)) | (with_reducible first | refine keptE_ite (fun _ => ?_) (fun _ => ?_) | refine keptE_ok ?_ | refine keptE_hold ?_ | exact keptE_stop _ | exact keptE_wait) | (extract_lets +onlyGivenNames t; clear_value t) | (with_reducible first | refine captureVout_keep ?_ .. | refine noVout_keep ?_ ..) | ((with_reducible refine onIssue_keep ?_ _ _ _ (fun _ => ?_)) <;> try beta_reduce) | ((with_reducible refine wrP_keep ?_ _ _ _ _ _ (fun _ _ => ?_)) <;> try beta_reduce) | with_reducible refine wrP_keep' (e := by with_reducible assumption) ?_ | dsimp only | split | (simp (maxDischargeDepth := 40) +contextual [kept_upd, *]; done)

end Sys2Proof.Machine
end

