-- ==== Sys2Proof/Laws/Keep/Flue.lean ====
section
/-! SUPPORT. What every operation of Machine/Flue.lean keeps. -/

namespace Sys2Proof.Machine

set_option linter.all false

variable {p : List Instr} {s : State}

@[simp] theorem offerJob_keep (h : Kept p s) (j : Job) : Kept p (offerJob s j) := by
  unfold offerJob
  repeat' first | with_reducible assumption | (extract_lets +onlyGivenNames t; refine kept_cut (q := Kept p t) ?_ fun ht => ?_; (on_goal 2 => clear_value t); on_goal 1 => (simp only [t]; try clear t)) | (extract_lets +onlyGivenNames t; clear_value t) | (with_reducible first | refine kept_ite.2 ⟨fun _ => ?_, fun _ => ?_⟩ | refine State.setFlue_keep ?_ ..) | ((with_reducible refine State.updTile_keep ?_ _ _ ?_); on_goal 2 => exact id) | ((with_reducible refine State.updTile_keep ?_ _ _ ?_); on_goal 2 => exact fun _ => rfl) | ((with_reducible refine State.updTile_keep ?_ _ _ ?_); on_goal 2 => (simp (maxDischargeDepth := 40) +contextual [*]; done)) | ((with_reducible refine State.updTile_keep ?_ _ _ ?_); on_goal 2 => (intro hm; dsimp only; (repeat' split) <;> simp_all (maxDischargeDepth := 40); done)) | dsimp only | split | (simp (maxDischargeDepth := 40) +contextual [kept_upd, *]; done)

@[simp] theorem Tile.setOut_mem (t : Tile) (k : FlueKind) (n : Nat) : (t.setOut k n).mem = t.mem := by cases k <;> rfl

@[simp] theorem pumpJobs_keep (tile n : Nat) {s : State} (h : Kept p s) : Kept p (pumpJobs tile n s) := by
  induction n generalizing s with
  | zero => exact h
  | succ n ih =>
    unfold pumpJobs
    extract_lets t
    clear_value t
    split
    · exact h
    · refine ih (offerJob_keep (State.updTile_keep h _ _ fun hm => ?_) ..)
      simpa using hm

@[simp] theorem sendJobs_keep (h : Kept p s) (tile : Nat) (js : List Job) : Kept p (sendJobs s tile js) := by
  unfold sendJobs
  repeat' first | with_reducible assumption | (extract_lets +onlyGivenNames t; refine kept_cut (q := Kept p t) ?_ fun ht => ?_; (on_goal 2 => clear_value t); on_goal 1 => (simp only [t]; try clear t)) | (extract_lets +onlyGivenNames t; clear_value t) | ((with_reducible refine State.updTile_keep ?_ _ _ ?_); on_goal 2 => exact id) | ((with_reducible refine State.updTile_keep ?_ _ _ ?_); on_goal 2 => exact fun _ => rfl) | ((with_reducible refine State.updTile_keep ?_ _ _ ?_); on_goal 2 => (simp (maxDischargeDepth := 40) +contextual [*]; done)) | ((with_reducible refine State.updTile_keep ?_ _ _ ?_); on_goal 2 => (intro hm; dsimp only; (repeat' split) <;> simp_all (maxDischargeDepth := 40); done)) | with_reducible refine pumpJobs_keep _ _ ?_ | dsimp only | (simp (maxDischargeDepth := 40) +contextual [kept_upd, *]; done)

theorem runJob_keep (h : Kept p s) (engine : Nat) (k : FlueKind) (f : State → Job → State) (hf : ∀ t j, Kept p t → Kept p (f t j)) : Kept p (runJob s engine k f) := by
  unfold runJob
  repeat' split
  all_goals with_reducible first | exact h | exact hf _ _ (State.updFlue_keep h _ _)

@[simp] theorem sendFlit_keep (h : Kept p s) (f : Flit) : Kept p (sendFlit s f) := by
  unfold sendFlit
  repeat' first | with_reducible assumption | dsimp only | (simp only [kept_mk_iff]; with_reducible refine kept_upd' ?_ (by simp (maxDischargeDepth := 40) +contextual)) | (simp (maxDischargeDepth := 40) +contextual [kept_upd, *]; done)

@[simp] theorem releaseSet_keep (h : Kept p s) (j : Job) (rows : List (Nat × Nat)) : Kept p (releaseSet s j rows) := by
  unfold releaseSet
  repeat' first | with_reducible assumption | (extract_lets +onlyGivenNames t; refine kept_cut (q := Kept p t) ?_ fun ht => ?_; (on_goal 2 => clear_value t); on_goal 1 => (simp only [t]; try clear t)) | (extract_lets +onlyGivenNames t; clear_value t) | (with_reducible first | refine kept_ite.2 ⟨fun _ => ?_, fun _ => ?_⟩ | refine State.updArr_keep ?_ .. | refine sendFlit_keep ?_ ..) | dsimp only | split | (simp (maxDischargeDepth := 40) +contextual [kept_upd, *]; done)

@[simp] theorem hardFault_keep (h : Kept p s) (array : Nat) (row : Nat) (source : Nat) (sets : Nat) : Kept p (hardFault s array row source sets) := by
  unfold hardFault
  repeat' first | with_reducible assumption | (extract_lets +onlyGivenNames t; refine kept_cut (q := Kept p t) ?_ fun ht => ?_; (on_goal 2 => clear_value t); on_goal 1 => (simp only [t]; try clear t)) | (extract_lets +onlyGivenNames t; clear_value t) | (with_reducible first | refine State.updArr_keep ?_ .. | refine logEvent_keep ?_ .. | refine raiseErr_keep ?_ ..) | dsimp only | (simp (maxDischargeDepth := 40) +contextual [kept_upd, *]; done)

theorem execRecompute_keep (h : Kept p s) (engine : Nat) (reads : List RowRead) : KeptR p (execRecompute engine reads s) := by
  unfold execRecompute
  repeat' first | (with_reducible first | assumption | refine keptR_next ?_ | refine hf1 _ ?_ | refine hf2 _ _ ?_ | refine hf3 _ _ _ ?_) | (extract_lets +onlyGivenNames t; refine kept_cut (q := Kept p t) ?_ fun ht => ?_; (on_goal 2 => clear_value t); on_goal 1 => (simp only [t]; try clear t)) | (extract_lets +onlyGivenNames t; refine kept_cut (q := ∀ x : State, Kept p x → Kept p (t x)) ?_ fun hf1 => ?_; (on_goal 2 => clear_value t); on_goal 1 => (simp only [t]; try clear t; intro _ _)) | (extract_lets +onlyGivenNames t; refine kept_cut (q := ∀ (x : State) y, Kept p x → Kept p (t x y)) ?_ fun hf2 => ?_; (on_goal 2 => clear_value t); on_goal 1 => (simp only [t]; try clear t; intro _ _ _)) | (extract_lets +onlyGivenNames t; refine kept_cut (q := ∀ x, Kept p (t x)) ?_ fun hf6 => ?_; (on_goal 2 => clear_value t); on_goal 1 => (simp only [t]; try clear t; intro _)) | with_reducible refine hf6 _ | (extract_lets +onlyGivenNames t; refine kept_cut (q := ∀ x : State, Kept p x → Kept p (t x).2) ?_ fun hf4 => ?_; (on_goal 2 => clear_value t); on_goal 1 => (simp only [t]; try clear t; intro _ _)) | with_reducible refine hf4 _ ?_ | (extract_lets +onlyGivenNames t; refine kept_cut (q := ∀ x : State, Kept p x → Kept p (t x).1) ?_ fun hf5 => ?_; (on_goal 2 => clear_value t); on_goal 1 => (simp only [t]; try clear t; intro _ _)) | with_reducible refine hf5 _ ?_ | (extract_lets +onlyGivenNames t; clear_value t) | (with_reducible first | refine kept_ite.2 ⟨fun _ => ?_, fun _ => ?_⟩ | refine hardFault_keep ?_ .. | refine raiseErr_keep ?_ .. | refine releaseSet_keep ?_ .. | refine sendFlit_keep ?_ .. | refine State.updArr_keep ?_ .. | refine State.updFlue_keep ?_ ..) | ((with_reducible refine runJob_keep ?_ _ _ _ (fun _ _ _ => ?_)) <;> try beta_reduce) | dsimp only | (simp only [kept_mk_iff]; with_reducible refine kept_upd' ?_ (by simp (maxDischargeDepth := 40) +contextual)) | split | (simp (maxDischargeDepth := 40) +contextual [kept_upd, *]; done)

theorem execOutlier_keep (h : Kept p s) (engine : Nat) : KeptR p (execOutlier engine s) := by
  unfold execOutlier
  repeat' first | (with_reducible first | assumption | refine keptR_next ?_) | (extract_lets +onlyGivenNames t; refine kept_cut (q := Kept p t) ?_ fun ht => ?_; (on_goal 2 => clear_value t); on_goal 1 => (simp only [t]; try clear t)) | (extract_lets +onlyGivenNames t; clear_value t) | with_reducible refine State.updFlue_keep ?_ .. | ((with_reducible refine runJob_keep ?_ _ _ _ (fun _ _ _ => ?_)) <;> try beta_reduce) | with_reducible refine sendFlit_keep ?_ .. | dsimp only | (simp (maxDischargeDepth := 40) +contextual [kept_upd, *]; done)

theorem execDelta_keep (h : Kept p s) (engine : Nat) (parity : Bool) : KeptR p (execDelta engine parity s) := by
  unfold execDelta
  repeat' first | (with_reducible first | assumption | refine keptR_next ?_) | (extract_lets +onlyGivenNames t; refine kept_cut (q := Kept p t) ?_ fun ht => ?_; (on_goal 2 => clear_value t); on_goal 1 => (simp only [t]; try clear t)) | (extract_lets +onlyGivenNames t; clear_value t) | (with_reducible first | refine kept_ite.2 ⟨fun _ => ?_, fun _ => ?_⟩ | refine kept_foldl ?_ (fun _ _ _ => ?_) | refine kept_foldl_mid ?_ (fun _ _ _ => ?_) | refine kept_foldl_fst ?_ (fun _ _ _ => ?_) | refine sendFlit_keep ?_ .. | refine State.updFlue_keep ?_ ..) | ((with_reducible refine runJob_keep ?_ _ _ _ (fun _ _ _ => ?_)) <;> try beta_reduce) | dsimp only | with_reducible refine kept_elim ?_ fun _ => ?_ | (simp only [kept_mk_iff]; with_reducible refine kept_upd' ?_ (by simp (maxDischargeDepth := 40) +contextual)) | split | (simp (maxDischargeDepth := 40) +contextual [kept_upd, *]; done)

theorem execFlueResultArrival_keep (h : Kept p s) (tile : Nat) : KeptR p (execFlueResultArrival tile s) := by
  unfold execFlueResultArrival
  refine keptR_next ?_
  split
  · exact h
  · split
    · exact h
    · rename_i bank tag kind vals l e
      refine pumpJobs_keep _ _ (State.updTile_keep ?_ _ _ fun hm => ?_)
      · simp (maxDischargeDepth := 40) [kept_upd, h]
      · cases e2 : look ((State.tile { s with flits := l } tile).setOut kind ((State.tile { s with flits := l } tile).outOf kind - 1)).fires bank with
        | none => simpa [e2] using hm
        | some f =>
          simp only [e2]
          split
          · simpa using hm
          · simpa using hm

theorem execFreeFlue_keep (h : Kept p s) (engine : Nat) (kind : FlueKind) : KeptR p (execFreeFlue engine kind s) := by
  unfold execFreeFlue
  repeat' first | (with_reducible first | assumption | refine keptR_next ?_ | refine hf1 _ ?_ | refine hf2 _ _ ?_) | (extract_lets +onlyGivenNames t; refine kept_cut (q := Kept p t) ?_ fun ht => ?_; (on_goal 2 => clear_value t); on_goal 1 => (simp only [t]; try clear t)) | (extract_lets +onlyGivenNames t; refine kept_cut (q := ∀ x : State, Kept p x → Kept p (t x)) ?_ fun hf1 => ?_; (on_goal 2 => clear_value t); on_goal 1 => (simp only [t]; try clear t; intro _ _)) | (extract_lets +onlyGivenNames t; refine kept_cut (q := ∀ (x : State) y, Kept p x → Kept p (t x y)) ?_ fun hf2 => ?_; (on_goal 2 => clear_value t); on_goal 1 => (simp only [t]; try clear t; intro _ _ _)) | (extract_lets +onlyGivenNames t; refine kept_cut (q := ∀ x : State, Kept p x → Kept p (t x).2) ?_ fun hf4 => ?_; (on_goal 2 => clear_value t); on_goal 1 => (simp only [t]; try clear t; intro _ _)) | with_reducible refine hf4 _ ?_ | (extract_lets +onlyGivenNames t; clear_value t) | (with_reducible first | refine kept_ite.2 ⟨fun _ => ?_, fun _ => ?_⟩ | refine kept_foldl ?_ (fun _ _ _ => ?_) | refine State.setFlue_keep ?_ ..) | ((with_reducible refine State.updTile_keep ?_ _ _ ?_); on_goal 2 => exact id) | ((with_reducible refine State.updTile_keep ?_ _ _ ?_); on_goal 2 => exact fun _ => rfl) | ((with_reducible refine State.updTile_keep ?_ _ _ ?_); on_goal 2 => (simp (maxDischargeDepth := 40) +contextual [*]; done)) | ((with_reducible refine State.updTile_keep ?_ _ _ ?_); on_goal 2 => (intro hm; dsimp only; (repeat' split) <;> simp_all (maxDischargeDepth := 40); done)) | with_reducible refine offerJob_keep ?_ .. | dsimp only | split | (simp (maxDischargeDepth := 40) +contextual [kept_upd, *]; done)

end Sys2Proof.Machine
end

