-- ==== Sys2Proof/Laws/Keep/Arrays.lean ====
section
/-! SUPPORT. What every operation of Machine/Arrays.lean keeps. -/

namespace Sys2Proof.Machine

set_option linter.all false

variable {p : List Instr} {s : State}

@[simp] theorem startFires_keep (h : Kept p s) (t : Nat) (cls : Nat) (variant : Nat) (fs : List (Nat × Fire)) : Kept p (startFires s t cls variant fs) := by
  unfold startFires
  repeat' first | with_reducible assumption | (extract_lets +onlyGivenNames t; refine kept_cut (q := Kept p t) ?_ fun ht => ?_; (on_goal 2 => clear_value t); on_goal 1 => (simp only [t]; try clear t)) | with_reducible refine kept_foldl_mid ?_ (fun _ _ _ => ?_) | (extract_lets +onlyGivenNames t; clear_value t) | (with_reducible first | refine kept_foldl ?_ (fun _ _ _ => ?_) | refine kept_foldl_fst ?_ (fun _ _ _ => ?_)) | ((with_reducible refine State.updTile_keep ?_ _ _ ?_); on_goal 2 => exact id) | ((with_reducible refine State.updTile_keep ?_ _ _ ?_); on_goal 2 => exact fun _ => rfl) | ((with_reducible refine State.updTile_keep ?_ _ _ ?_); on_goal 2 => (simp (maxDischargeDepth := 40) +contextual [*]; done)) | ((with_reducible refine State.updTile_keep ?_ _ _ ?_); on_goal 2 => (intro hm; dsimp only; (repeat' split) <;> simp_all (maxDischargeDepth := 40); done)) | with_reducible refine sendJobs_keep ?_ .. | dsimp only | (simp (maxDischargeDepth := 40) +contextual [kept_upd, *]; done)

theorem fireEff_keep (h : Kept p s) (v : Bool) (a : At) : KeptE p (fireEff v s a) := by
  unfold fireEff
  repeat' first | (with_reducible first | assumption | refine keptE_ite (fun _ => ?_) (fun _ => ?_) | refine keptE_ok ?_ | refine keptE_hold ?_ | exact keptE_stop _ | exact keptE_wait) | (extract_lets +onlyGivenNames t; refine kept_cut (q := Kept p t) ?_ fun ht => ?_; (on_goal 2 => clear_value t); on_goal 1 => (simp only [t]; try clear t)) | (extract_lets +onlyGivenNames t; clear_value t) | (with_reducible first | refine kept_ite.2 ⟨fun _ => ?_, fun _ => ?_⟩ | refine startFires_keep ?_ ..) | ((with_reducible refine rdP_keep ?_ _ _ _ _ _ (fun _ => ?_)) <;> try beta_reduce) | dsimp only | with_reducible refine kept_elim ?_ fun _ => ?_ | (simp only [kept_mk_iff]; with_reducible refine kept_upd' ?_ (by simp (maxDischargeDepth := 40) +contextual)) | split | (simp (maxDischargeDepth := 40) +contextual [kept_upd, *]; done)

theorem execFire_keep (h : Kept p s) (tile : Nat) : KeptR p (execFire tile s) := by
  unfold execFire
  repeat' first | (with_reducible first | assumption | refine keptR_next ?_ | refine keptE_ite (fun _ => ?_) (fun _ => ?_) | refine keptE_ok ?_ | refine keptE_hold ?_ | exact keptE_stop _ | exact keptE_wait | refine fireEff_keep ?_ .. | refine fireEff_keep' (e := by with_reducible assumption) ?_) | ((with_reducible refine onIssue_keep ?_ _ _ _ (fun _ => ?_)) <;> try beta_reduce) | dsimp only | (simp (maxDischargeDepth := 40) +contextual [kept_upd, *]; done)

theorem execFirev_keep (h : Kept p s) (tile : Nat) : KeptR p (execFirev tile s) := by
  unfold execFirev
  repeat' first | (with_reducible first | assumption | refine keptR_next ?_ | refine keptE_ite (fun _ => ?_) (fun _ => ?_) | refine keptE_ok ?_ | refine keptE_hold ?_ | exact keptE_stop _ | exact keptE_wait | refine fireEff_keep ?_ .. | refine fireEff_keep' (e := by with_reducible assumption) ?_) | ((with_reducible refine onIssue_keep ?_ _ _ _ (fun _ => ?_)) <;> try beta_reduce) | dsimp only | (simp (maxDischargeDepth := 40) +contextual [kept_upd, *]; done)

@[simp] theorem rateEvent_keep (h : Kept p s) (array : Nat) (fails : Nat) : Kept p (rateEvent s array fails) := by
  unfold rateEvent
  repeat' first | (with_reducible first | assumption | refine logEvent_keep ?_ ..) | dsimp only | (simp (maxDischargeDepth := 40) +contextual [kept_upd, *]; done)

@[simp] theorem closeWindow_keep (h : Kept p s) (array : Nat) : Kept p (closeWindow s array) := by
  unfold closeWindow
  repeat' first | with_reducible assumption | (extract_lets +onlyGivenNames t; refine kept_cut (q := Kept p t) ?_ fun ht => ?_; (on_goal 2 => clear_value t); on_goal 1 => (simp only [t]; try clear t)) | (extract_lets +onlyGivenNames t; clear_value t) | (with_reducible first | refine kept_ite.2 ⟨fun _ => ?_, fun _ => ?_⟩ | refine State.setArr_keep ?_ .. | refine raiseErr_keep ?_ .. | refine rateEvent_keep ?_ ..) | dsimp only | split | (simp (maxDischargeDepth := 40) +contextual [kept_upd, *]; done)

@[simp] theorem closeIfFull_keep (h : Kept p s) (array : Nat) : Kept p (closeIfFull s array) := by
  unfold closeIfFull
  repeat' first | (with_reducible first | assumption | refine kept_ite.2 ⟨fun _ => ?_, fun _ => ?_⟩ | refine closeWindow_keep ?_ ..) | dsimp only | split | (simp (maxDischargeDepth := 40) +contextual [kept_upd, *]; done)

theorem execWindowClose_keep (h : Kept p s) (array : Nat) : KeptR p (execWindowClose array s) := by
  unfold execWindowClose
  repeat' first | (with_reducible first | assumption | refine keptR_next ?_ | refine kept_ite.2 ⟨fun _ => ?_, fun _ => ?_⟩ | refine closeIfFull_keep ?_ ..) | dsimp only | split | (simp (maxDischargeDepth := 40) +contextual [kept_upd, *]; done)

@[simp] theorem slotArray_keep {st : State × SMap Int × List Job} (h : Kept p st.1) (t : Nat) (f : Fire) (blank : Job) (a : Nat) (devs : List ConvDev) :
    Kept p (slotArray st t f blank a devs).1 := by
  obtain ⟨s, ad, jb⟩ := st
  replace h : Kept p s := h
  unfold slotArray
  split
  rename_i e
  cases e
  extract_lets g q e m b k acts
  clear_value acts m
  split
  · exact h
  · dsimp only
    with_reducible refine State.updArr_keep ?_ _ _
    with_reducible exact closeIfFull_keep h _

theorem execFireSlot_keep (h : Kept p s) (tile : Nat) (bank : Nat) (devs : List ConvDev) : KeptR p (execFireSlot tile bank devs s) := by
  unfold execFireSlot
  repeat' first | (with_reducible first | assumption | refine keptR_next ?_) | (extract_lets +onlyGivenNames t; refine kept_cut (q := Kept p t) ?_ fun ht => ?_; (on_goal 2 => clear_value t); on_goal 1 => (simp only [t]; try clear t)) | (extract_lets +onlyGivenNames t; clear_value t) | (with_reducible first | refine kept_ite.2 ⟨fun _ => ?_, fun _ => ?_⟩ | refine kept_foldl ?_ (fun _ _ _ => ?_) | refine kept_foldl_mid ?_ (fun _ _ _ => ?_) | refine kept_foldl_fst ?_ (fun _ _ _ => ?_) | refine sendJobs_keep ?_ .. | refine slotArray_keep ?_ ..) | ((with_reducible refine State.updTile_keep ?_ _ _ ?_); on_goal 2 => exact id) | ((with_reducible refine State.updTile_keep ?_ _ _ ?_); on_goal 2 => exact fun _ => rfl) | ((with_reducible refine State.updTile_keep ?_ _ _ ?_); on_goal 2 => (simp (maxDischargeDepth := 40) +contextual [*]; done)) | ((with_reducible refine State.updTile_keep ?_ _ _ ?_); on_goal 2 => (intro hm; dsimp only; (repeat' split) <;> simp_all (maxDischargeDepth := 40); done)) | dsimp only | with_reducible refine kept_elim ?_ fun _ => ?_ | (simp only [kept_mk_iff]; with_reducible refine kept_upd' ?_ (by simp (maxDischargeDepth := 40) +contextual)) | split | (simp (maxDischargeDepth := 40) +contextual [kept_upd, *]; done)

theorem execStorageReport_keep (h : Kept p s) (tile : Nat) : KeptR p (execStorageReport tile s) := by
  unfold execStorageReport
  repeat' first | (with_reducible first | assumption | refine keptR_next ?_) | (extract_lets +onlyGivenNames t; refine kept_cut (q := Kept p t) ?_ fun ht => ?_; (on_goal 2 => clear_value t); on_goal 1 => (simp only [t]; try clear t)) | (extract_lets +onlyGivenNames t; clear_value t) | (with_reducible first | refine kept_ite.2 ⟨fun _ => ?_, fun _ => ?_⟩ | refine pumpJobs_keep ?_ ..) | ((with_reducible refine State.updTile_keep ?_ _ _ ?_); on_goal 2 => exact id) | ((with_reducible refine State.updTile_keep ?_ _ _ ?_); on_goal 2 => exact fun _ => rfl) | ((with_reducible refine State.updTile_keep ?_ _ _ ?_); on_goal 2 => (simp (maxDischargeDepth := 40) +contextual [*]; done)) | ((with_reducible refine State.updTile_keep ?_ _ _ ?_); on_goal 2 => (intro hm; dsimp only; (repeat' split) <;> simp_all (maxDischargeDepth := 40); done)) | dsimp only | (simp only [kept_mk_iff]; with_reducible refine kept_upd' ?_ (by simp (maxDischargeDepth := 40) +contextual)) | split | (simp (maxDischargeDepth := 40) +contextual [kept_upd, *]; done)

@[simp] theorem repairRow_keep (h : Kept p s) (array : Nat) (row : Nat) (source : Nat) (was : Nat) (back : Option Nat) : Kept p (repairRow s array row source was back).1 := by
  unfold repairRow
  repeat' first | with_reducible assumption | (extract_lets +onlyGivenNames t; refine kept_cut (q := Kept p t) ?_ fun ht => ?_; (on_goal 2 => clear_value t); on_goal 1 => (simp only [t]; try clear t)) | (extract_lets +onlyGivenNames t; clear_value t) | (with_reducible first | refine kept_ite.2 ⟨fun _ => ?_, fun _ => ?_⟩ | refine State.updArr_keep ?_ .. | refine hardFault_keep ?_ .. | refine logEvent_keep ?_ .. | refine setRow_keep ?_ ..) | dsimp only | split | (simp (maxDischargeDepth := 40) +contextual [kept_upd, *]; done)

theorem repairRow_keep' (h : Kept p s) {array : Nat} {row : Nat} {source : Nat} {was : Nat} {back : Option Nat} {t' : State} {x} (e : repairRow s array row source was back = (t', x)) : Kept p t' := by
  have := repairRow_keep h array row source was back
  rw [e] at this; exact this

@[simp] theorem rewritten_keep (h : Kept p s) (t : Nat) (arr : Nat) (rows : List Nat) : Kept p (rewritten s t arr rows) := by
  unfold rewritten
  repeat' first | (with_reducible first | assumption | refine hf1 _ ?_ | refine hf2 _ _ ?_ | refine hf3 _ _ _ ?_) | (extract_lets +onlyGivenNames t; refine kept_cut (q := Kept p t) ?_ fun ht => ?_; (on_goal 2 => clear_value t); on_goal 1 => (simp only [t]; try clear t)) | (extract_lets +onlyGivenNames t; refine kept_cut (q := ∀ x : State, Kept p x → Kept p (t x)) ?_ fun hf1 => ?_; (on_goal 2 => clear_value t); on_goal 1 => (simp only [t]; try clear t; intro _ _)) | (extract_lets +onlyGivenNames t; refine kept_cut (q := ∀ (x : State) y, Kept p x → Kept p (t x y)) ?_ fun hf2 => ?_; (on_goal 2 => clear_value t); on_goal 1 => (simp only [t]; try clear t; intro _ _ _)) | (extract_lets +onlyGivenNames t; refine kept_cut (q := ∀ x, Kept p (t x)) ?_ fun hf6 => ?_; (on_goal 2 => clear_value t); on_goal 1 => (simp only [t]; try clear t; intro _)) | with_reducible refine hf6 _ | (extract_lets +onlyGivenNames t; refine kept_cut (q := ∀ x : State, Kept p x → Kept p (t x).2) ?_ fun hf4 => ?_; (on_goal 2 => clear_value t); on_goal 1 => (simp only [t]; try clear t; intro _ _)) | with_reducible refine hf4 _ ?_ | (extract_lets +onlyGivenNames t; refine kept_cut (q := ∀ x : State, Kept p x → Kept p (t x).1) ?_ fun hf5 => ?_; (on_goal 2 => clear_value t); on_goal 1 => (simp only [t]; try clear t; intro _ _)) | with_reducible refine hf5 _ ?_ | (extract_lets +onlyGivenNames t; clear_value t) | (with_reducible first | refine kept_ite.2 ⟨fun _ => ?_, fun _ => ?_⟩) | ((with_reducible refine State.updTile_keep ?_ _ _ ?_); on_goal 2 => exact id) | ((with_reducible refine State.updTile_keep ?_ _ _ ?_); on_goal 2 => exact fun _ => rfl) | ((with_reducible refine State.updTile_keep ?_ _ _ ?_); on_goal 2 => (simp (maxDischargeDepth := 40) +contextual [*]; done)) | ((with_reducible refine State.updTile_keep ?_ _ _ ?_); on_goal 2 => (intro hm; dsimp only; (repeat' split) <;> simp_all (maxDischargeDepth := 40); done)) | dsimp only | (simp only [kept_mk_iff]; with_reducible refine kept_upd' ?_ (by simp (maxDischargeDepth := 40) +contextual)) | split | (simp (maxDischargeDepth := 40) +contextual [kept_upd, *]; done)

@[simp] theorem refire_keep (h : Kept p s) (t : Nat) (r : Repair) : Kept p (refire s t r) := by
  unfold refire
  repeat' first | (with_reducible first | assumption) | (extract_lets +onlyGivenNames t; refine kept_cut (q := Kept p t) ?_ fun ht => ?_; (on_goal 2 => clear_value t); on_goal 1 => (simp only [t]; try clear t)) | (extract_lets +onlyGivenNames t; clear_value t) | (with_reducible first | refine kept_ite.2 ⟨fun _ => ?_, fun _ => ?_⟩ | refine startFires_keep ?_ ..) | dsimp only | with_reducible refine kept_elim ?_ fun _ => ?_ | (simp only [kept_mk_iff]; with_reducible refine kept_upd' ?_ (by simp (maxDischargeDepth := 40) +contextual)) | split | (simp (maxDischargeDepth := 40) +contextual [kept_upd, *]; done)

theorem execStorageRepair_keep (h : Kept p s) (array : Nat) (reads : List RowRead) : KeptR p (execStorageRepair array reads s) := by
  unfold execStorageRepair
  repeat' first | (with_reducible first | assumption | refine keptR_next ?_) | (extract_lets +onlyGivenNames t; refine kept_cut (q := Kept p t) ?_ fun ht => ?_; (on_goal 2 => clear_value t); on_goal 1 => (simp only [t]; try clear t)) | (extract_lets +onlyGivenNames t; clear_value t) | (with_reducible first | refine kept_ite.2 ⟨fun _ => ?_, fun _ => ?_⟩ | refine kept_foldl ?_ (fun _ _ _ => ?_) | refine kept_foldl_mid ?_ (fun _ _ _ => ?_) | refine kept_foldl_fst ?_ (fun _ _ _ => ?_) | refine refire_keep ?_ .. | refine repairRow_keep ?_ .. | refine repairRow_keep' (e := by with_reducible assumption) ?_ | refine rewritten_keep ?_ ..) | ((with_reducible refine State.updTile_keep ?_ _ _ ?_); on_goal 2 => exact id) | ((with_reducible refine State.updTile_keep ?_ _ _ ?_); on_goal 2 => exact fun _ => rfl) | ((with_reducible refine State.updTile_keep ?_ _ _ ?_); on_goal 2 => (simp (maxDischargeDepth := 40) +contextual [*]; done)) | ((with_reducible refine State.updTile_keep ?_ _ _ ?_); on_goal 2 => (intro hm; dsimp only; (repeat' split) <;> simp_all (maxDischargeDepth := 40); done)) | dsimp only | (simp only [kept_mk_iff]; with_reducible refine kept_upd' ?_ (by simp (maxDischargeDepth := 40) +contextual)) | split | (simp (maxDischargeDepth := 40) +contextual [kept_upd, *]; done)

theorem execScrubRow_keep (h : Kept p s) (array : Nat) (reads : List RowRead) : KeptR p (execScrubRow array reads s) := by
  unfold execScrubRow
  repeat' first | (with_reducible first | assumption | refine keptR_next ?_) | (extract_lets +onlyGivenNames t; refine kept_cut (q := Kept p t) ?_ fun ht => ?_; (on_goal 2 => clear_value t); on_goal 1 => (simp only [t]; try clear t)) | (extract_lets +onlyGivenNames t; clear_value t) | (with_reducible first | refine kept_ite.2 ⟨fun _ => ?_, fun _ => ?_⟩ | refine repairRow_keep ?_ .. | refine repairRow_keep' (e := by with_reducible assumption) ?_ | refine State.updArr_keep ?_ ..) | dsimp only | (simp only [kept_mk_iff]; with_reducible refine kept_upd' ?_ (by simp (maxDischargeDepth := 40) +contextual)) | split | (simp (maxDischargeDepth := 40) +contextual [kept_upd, *]; done)

end Sys2Proof.Machine
end

