-- ==== Sys2Proof/Laws/Keep/StepInstr.lean ====
section
/-! SUPPORT. What every operation of Machine/StepInstr.lean keeps. -/

namespace Sys2Proof.Machine

set_option linter.all false

variable {p : List Instr} {s : State}

@[simp] theorem setNonfinite_keep (h : Kept p s) (a : At) (bad : Bool) : Kept p (setNonfinite s a bad) := by
  unfold setNonfinite
  repeat' first | (with_reducible first | assumption | refine kept_ite.2 ⟨fun _ => ?_, fun _ => ?_⟩ | refine State.updReq_keep ?_ ..) | dsimp only | split | (simp (maxDischargeDepth := 40) +contextual [kept_upd, *]; done)

@[simp] theorem setZeroBlock_keep (h : Kept p s) (a : At) (z : Bool) : Kept p (setZeroBlock s a z) := by
  unfold setZeroBlock
  repeat' first | (with_reducible first | assumption) | (extract_lets +onlyGivenNames t; refine kept_cut (q := Kept p t) ?_ fun ht => ?_; (on_goal 2 => clear_value t); on_goal 1 => (simp only [t]; try clear t)) | (extract_lets +onlyGivenNames t; clear_value t) | (with_reducible first | refine kept_ite.2 ⟨fun _ => ?_, fun _ => ?_⟩ | refine putCmd_keep ?_ .. | refine updStep_keep ?_ ..) | dsimp only | (simp only [kept_mk_iff]; with_reducible refine kept_upd' ?_ (by simp (maxDischargeDepth := 40) +contextual)) | split | (simp (maxDischargeDepth := 40) +contextual [kept_upd, *]; done)

theorem execPreload_keep (h : Kept p s) (tile : Nat) : KeptR p (execPreload tile s) := by
  unfold execPreload
  repeat' first | (with_reducible first | assumption | refine keptR_next ?_ | refine hf1 _ ?_ | refine hf2 _ _ ?_) | (extract_lets +onlyGivenNames t; refine kept_cut (q := Kept p t) ?_ fun ht => ?_; (on_goal 2 => clear_value t); on_goal 1 => (simp only [t]; try clear t)) | (extract_lets +onlyGivenNames t; refine kept_cut (q := ∀ x : State, Kept p x → Kept p (t x)) ?_ fun hf1 => ?_; (on_goal 2 => clear_value t); on_goal 1 => (simp only [t]; try clear t; intro _ _)) | (extract_lets +onlyGivenNames t; refine kept_cut (q := ∀ (x : State) y, Kept p x → Kept p (t x y)) ?_ fun hf2 => ?_; (on_goal 2 => clear_value t); on_goal 1 => (simp only [t]; try clear t; intro _ _ _)) | (extract_lets +onlyGivenNames t; refine kept_cut (q := ∀ x : State, Kept p x → Kept p (t x).2) ?_ fun hf4 => ?_; (on_goal 2 => clear_value t); on_goal 1 => (simp only [t]; try clear t; intro _ _)) | with_reducible refine hf4 _ ?_ | (extract_lets +onlyGivenNames t; refine kept_cut (q := ∀ (x : State) y z, Kept p x → KeptE p (t x y z)) ?_ fun hf3 => ?_; (on_goal 2 => clear_value t); on_goal 1 => (simp only [t]; try clear t; intro _ _ _ _)) | with_reducible refine hf3 _ _ _ ?_ | (extract_lets +onlyGivenNames t; refine kept_cut (q := ∀ x : State, Kept p x → KeptE p (t x)) ?_ fun hf1 => ?_; (on_goal 2 => clear_value t); on_goal 1 => (simp only [t]; try clear t; intro _ _)) | (extract_lets +onlyGivenNames t; refine kept_cut (q := ∀ (x : State) y, Kept p x → KeptE p (t x y)) ?_ fun hf2 => ?_; (on_goal 2 => clear_value t); on_goal 1 => (simp only [t]; try clear t; intro _ _ _)) | (with_reducible first | refine keptE_ite (fun _ => ?_) (fun _ => ?_) | refine keptE_ok ?_ | refine keptE_hold ?_ | exact keptE_stop _ | exact keptE_wait) | (extract_lets +onlyGivenNames t; clear_value t) | with_reducible refine kept_ite.2 ⟨fun _ => ?_, fun _ => ?_⟩ | ((with_reducible refine State.updTile_keep ?_ _ _ ?_); on_goal 2 => exact id) | ((with_reducible refine State.updTile_keep ?_ _ _ ?_); on_goal 2 => exact fun _ => rfl) | ((with_reducible refine State.updTile_keep ?_ _ _ ?_); on_goal 2 => (simp (maxDischargeDepth := 40) +contextual [*]; done)) | ((with_reducible refine State.updTile_keep ?_ _ _ ?_); on_goal 2 => (intro hm; dsimp only; (repeat' split) <;> simp_all (maxDischargeDepth := 40); done)) | ((with_reducible refine onIssue_keep ?_ _ _ _ (fun _ => ?_)) <;> try beta_reduce) | ((with_reducible refine rdF_keep ?_ _ _ _ _ _ (fun _ => ?_)) <;> try beta_reduce) | with_reducible refine rdF_keep' (e := by with_reducible assumption) ?_ | ((with_reducible refine rdP_keep ?_ _ _ _ _ _ (fun _ => ?_)) <;> try beta_reduce) | (with_reducible first | refine rdP_keep' (e := by with_reducible assumption) ?_ | refine setNonfinite_keep ?_ ..) | ((with_reducible refine wrA_keep ?_ _ _ _ _ _ (fun _ _ => ?_)) <;> try beta_reduce) | with_reducible refine wrA_keep' (e := by with_reducible assumption) ?_ | dsimp only | split | (simp (maxDischargeDepth := 40) +contextual [kept_upd, *]; done)

theorem execPromote_keep (h : Kept p s) (tile : Nat) : KeptR p (execPromote tile s) := by
  unfold execPromote
  repeat' first | (with_reducible first | assumption | refine keptR_next ?_) | (extract_lets +onlyGivenNames t; refine kept_cut (q := Kept p t) ?_ fun ht => ?_; (on_goal 2 => clear_value t); on_goal 1 => (simp only [t]; try clear t)) | (with_reducible first | refine keptE_ite (fun _ => ?_) (fun _ => ?_) | refine keptE_ok ?_ | refine keptE_hold ?_ | exact keptE_stop _ | exact keptE_wait) | (extract_lets +onlyGivenNames t; clear_value t) | with_reducible refine kept_ite.2 ⟨fun _ => ?_, fun _ => ?_⟩ | ((with_reducible refine State.updTile_keep ?_ _ _ ?_); on_goal 2 => exact id) | ((with_reducible refine State.updTile_keep ?_ _ _ ?_); on_goal 2 => exact fun _ => rfl) | ((with_reducible refine State.updTile_keep ?_ _ _ ?_); on_goal 2 => (simp (maxDischargeDepth := 40) +contextual [*]; done)) | ((with_reducible refine State.updTile_keep ?_ _ _ ?_); on_goal 2 => (intro hm; dsimp only; (repeat' split) <;> simp_all (maxDischargeDepth := 40); done)) | ((with_reducible refine onIssue_keep ?_ _ _ _ (fun _ => ?_)) <;> try beta_reduce) | ((with_reducible refine rdA_keep ?_ _ _ _ _ _ (fun _ => ?_)) <;> try beta_reduce) | with_reducible refine rdA_keep' (e := by with_reducible assumption) ?_ | ((with_reducible refine wrA_keep ?_ _ _ _ _ _ (fun _ _ => ?_)) <;> try beta_reduce) | with_reducible refine wrA_keep' (e := by with_reducible assumption) ?_ | dsimp only | with_reducible refine kept_elim ?_ fun _ => ?_ | split | (simp (maxDischargeDepth := 40) +contextual [kept_upd, *]; done)

theorem execMove_keep (h : Kept p s) (tile : Nat) : KeptR p (execMove tile s) := by
  unfold execMove
  repeat' first | (with_reducible first | assumption | refine keptR_next ?_) | (extract_lets +onlyGivenNames t; refine kept_cut (q := Kept p t) ?_ fun ht => ?_; (on_goal 2 => clear_value t); on_goal 1 => (simp only [t]; try clear t)) | (with_reducible first | refine keptE_ite (fun _ => ?_) (fun _ => ?_) | refine keptE_ok ?_ | refine keptE_hold ?_ | exact keptE_stop _ | exact keptE_wait) | (extract_lets +onlyGivenNames t; clear_value t) | ((with_reducible refine onIssue_keep ?_ _ _ _ (fun _ => ?_)) <;> try beta_reduce) | ((with_reducible refine rdP_keep ?_ _ _ _ _ _ (fun _ => ?_)) <;> try beta_reduce) | with_reducible refine rdP_keep' (e := by with_reducible assumption) ?_ | ((with_reducible refine wrP_keep ?_ _ _ _ _ _ (fun _ _ => ?_)) <;> try beta_reduce) | with_reducible refine wrP_keep' (e := by with_reducible assumption) ?_ | dsimp only | (simp (maxDischargeDepth := 40) +contextual [kept_upd, *]; done)

theorem execQuant_keep (h : Kept p s) (tile : Nat) : KeptR p (execQuant tile s) := by
  unfold execQuant
  repeat' first | (with_reducible first | assumption | refine keptR_next ?_) | (extract_lets +onlyGivenNames t; refine kept_cut (q := Kept p t) ?_ fun ht => ?_; (on_goal 2 => clear_value t); on_goal 1 => (simp only [t]; try clear t)) | (with_reducible first | refine keptE_ite (fun _ => ?_) (fun _ => ?_) | refine keptE_ok ?_ | refine keptE_hold ?_ | exact keptE_stop _ | exact keptE_wait) | (extract_lets +onlyGivenNames t; clear_value t) | ((with_reducible refine State.updTile_keep ?_ _ _ ?_); on_goal 2 => exact id) | ((with_reducible refine State.updTile_keep ?_ _ _ ?_); on_goal 2 => exact fun _ => rfl) | ((with_reducible refine State.updTile_keep ?_ _ _ ?_); on_goal 2 => (simp (maxDischargeDepth := 40) +contextual [*]; done)) | ((with_reducible refine State.updTile_keep ?_ _ _ ?_); on_goal 2 => (intro hm; dsimp only; (repeat' split) <;> simp_all (maxDischargeDepth := 40); done)) | ((with_reducible refine onIssue_keep ?_ _ _ _ (fun _ => ?_)) <;> try beta_reduce) | ((with_reducible refine rdF_keep ?_ _ _ _ _ _ (fun _ => ?_)) <;> try beta_reduce) | (with_reducible first | refine rdF_keep' (e := by with_reducible assumption) ?_ | refine setNonfinite_keep ?_ .. | refine setZeroBlock_keep ?_ .. | refine updVec_keep ?_ ..) | ((with_reducible refine wrP_keep ?_ _ _ _ _ _ (fun _ _ => ?_)) <;> try beta_reduce) | with_reducible refine wrP_keep' (e := by with_reducible assumption) ?_ | dsimp only | with_reducible refine kept_elim ?_ fun _ => ?_ | (simp (maxDischargeDepth := 40) +contextual [kept_upd, *]; done)

theorem execDeq_keep (h : Kept p s) (tile : Nat) : KeptR p (execDeq tile s) := by
  unfold execDeq
  repeat' first | (with_reducible first | assumption | refine keptR_next ?_) | (extract_lets +onlyGivenNames t; refine kept_cut (q := Kept p t) ?_ fun ht => ?_; (on_goal 2 => clear_value t); on_goal 1 => (simp only [t]; try clear t)) | (with_reducible first | refine keptE_ite (fun _ => ?_) (fun _ => ?_) | refine keptE_ok ?_ | refine keptE_hold ?_ | exact keptE_stop _ | exact keptE_wait) | (extract_lets +onlyGivenNames t; clear_value t) | with_reducible refine kept_ite.2 ⟨fun _ => ?_, fun _ => ?_⟩ | ((with_reducible refine onIssue_keep ?_ _ _ _ (fun _ => ?_)) <;> try beta_reduce) | ((with_reducible refine rdA_keep ?_ _ _ _ _ _ (fun _ => ?_)) <;> try beta_reduce) | with_reducible refine rdA_keep' (e := by with_reducible assumption) ?_ | ((with_reducible refine rdP_keep ?_ _ _ _ _ _ (fun _ => ?_)) <;> try beta_reduce) | (with_reducible first | refine rdP_keep' (e := by with_reducible assumption) ?_ | refine setNonfinite_keep ?_ ..) | ((with_reducible refine wrP_keep ?_ _ _ _ _ _ (fun _ _ => ?_)) <;> try beta_reduce) | with_reducible refine wrP_keep' (e := by with_reducible assumption) ?_ | dsimp only | split | (simp (maxDischargeDepth := 40) +contextual [kept_upd, *]; done)

theorem deliver_keep (h : Kept p s) (tile : Nat) (r : Recv) (line : Nat) (ls : List (List Byte)) : KeptO p (deliver s tile r line ls) := by
  unfold deliver
  repeat' first | with_reducible assumption | (extract_lets +onlyGivenNames t; refine kept_cut (q := Kept p t) ?_ fun ht => ?_; (on_goal 2 => clear_value t); on_goal 1 => (simp only [t]; try clear t)) | (extract_lets +onlyGivenNames t; clear_value t) | with_reducible refine kept_ite.2 ⟨fun _ => ?_, fun _ => ?_⟩ | ((with_reducible refine State.updTile_keep ?_ _ _ ?_); on_goal 2 => exact id) | ((with_reducible refine State.updTile_keep ?_ _ _ ?_); on_goal 2 => exact fun _ => rfl) | ((with_reducible refine State.updTile_keep ?_ _ _ ?_); on_goal 2 => (simp (maxDischargeDepth := 40) +contextual [*]; done)) | ((with_reducible refine State.updTile_keep ?_ _ _ ?_); on_goal 2 => (intro hm; dsimp only; (repeat' split) <;> simp_all (maxDischargeDepth := 40); done)) | (with_reducible first | refine issued_keep ?_ .. | refine updExec_keep ?_ ..) | dsimp only | (with_reducible first | exact keptO_none | refine keptO_some ?_) | split | (simp (maxDischargeDepth := 40) +contextual [kept_upd, *]; done)

theorem deliver_keep' (h : Kept p s) {tile : Nat} {r : Recv} {line : Nat} {ls : List (List Byte)} {t' : State} (e : deliver s tile r line ls = some t') : Kept p t' := deliver_keep h tile r line ls t' e

@[simp] theorem recvExcess_keep (h : Kept p s) (tile : Nat) (r : Recv) : Kept p (recvExcess s tile r) := by
  unfold recvExcess
  repeat' first | with_reducible assumption | (extract_lets +onlyGivenNames t; refine kept_cut (q := Kept p t) ?_ fun ht => ?_; (on_goal 2 => clear_value t); on_goal 1 => (simp only [t]; try clear t)) | (extract_lets +onlyGivenNames t; clear_value t) | with_reducible refine stopProg_keep ?_ .. | dsimp only | split | (simp (maxDischargeDepth := 40) +contextual [kept_upd, *]; done)

@[simp] theorem deliverAll_keep (h : Kept p s) (tile : Nat) (r : Recv) (ls : List (List Byte)) : Kept p (deliverAll s tile r ls) := by
  unfold deliverAll
  repeat' first | (with_reducible first | assumption | refine deliver_keep' (e := by with_reducible assumption) ?_ | refine recvExcess_keep ?_ ..) | dsimp only | split | (simp (maxDischargeDepth := 40) +contextual [kept_upd, *]; done)

@[simp] theorem sendData_keep (h : Kept p s) (role : Nat) (ctile : Nat) (chan : Nat) (step : Nat) (ls : List (List Byte)) : Kept p (sendData s role ctile chan step ls) := by
  unfold sendData
  repeat' first | with_reducible assumption | (extract_lets +onlyGivenNames t; refine kept_cut (q := Kept p t) ?_ fun ht => ?_; (on_goal 2 => clear_value t); on_goal 1 => (simp only [t]; try clear t)) | (extract_lets +onlyGivenNames t; clear_value t) | (with_reducible first | refine kept_foldl ?_ (fun _ _ _ => ?_) | refine sendFrame_keep ?_ ..) | dsimp only | (simp (maxDischargeDepth := 40) +contextual [kept_upd, *]; done)

theorem execSend_keep (h : Kept p s) (tile : Nat) : KeptR p (execSend tile s) := by
  unfold execSend
  repeat' first | (with_reducible first | assumption | refine keptR_next ?_ | refine keptE_ite (fun _ => ?_) (fun _ => ?_) | refine keptE_ok ?_ | refine keptE_hold ?_ | exact keptE_stop _ | exact keptE_wait) | (extract_lets +onlyGivenNames t; refine kept_cut (q := Kept p t) ?_ fun ht => ?_; (on_goal 2 => clear_value t); on_goal 1 => (simp only [t]; try clear t)) | (extract_lets +onlyGivenNames t; clear_value t) | (with_reducible first | refine kept_ite.2 ⟨fun _ => ?_, fun _ => ?_⟩ | refine deliverAll_keep ?_ .. | refine sendData_keep ?_ ..) | ((with_reducible refine onIssue_keep ?_ _ _ _ (fun _ => ?_)) <;> try beta_reduce) | ((with_reducible refine rdP_keep ?_ _ _ _ _ _ (fun _ => ?_)) <;> try beta_reduce) | ((with_reducible refine State.updTile_keep ?_ _ _ ?_); on_goal 2 => exact id) | ((with_reducible refine State.updTile_keep ?_ _ _ ?_); on_goal 2 => exact fun _ => rfl) | ((with_reducible refine State.updTile_keep ?_ _ _ ?_); on_goal 2 => (simp (maxDischargeDepth := 40) +contextual [*]; done)) | ((with_reducible refine State.updTile_keep ?_ _ _ ?_); on_goal 2 => (intro hm; dsimp only; (repeat' split) <;> simp_all (maxDischargeDepth := 40); done)) | dsimp only | (simp only [kept_mk_iff]; with_reducible refine kept_upd' ?_ (by simp (maxDischargeDepth := 40) +contextual)) | split | (simp (maxDischargeDepth := 40) +contextual [kept_upd, *]; done)

theorem execRecv_keep (h : Kept p s) (tile : Nat) : KeptR p (execRecv tile s) := by
  unfold execRecv
  repeat' first | (with_reducible first | assumption | refine keptR_next ?_ | refine keptE_ite (fun _ => ?_) (fun _ => ?_) | refine keptE_ok ?_ | refine keptE_hold ?_ | exact keptE_stop _ | exact keptE_wait) | (extract_lets +onlyGivenNames t; refine kept_cut (q := Kept p t) ?_ fun ht => ?_; (on_goal 2 => clear_value t); on_goal 1 => (simp only [t]; try clear t)) | (extract_lets +onlyGivenNames t; clear_value t) | (with_reducible first | refine kept_ite.2 ⟨fun _ => ?_, fun _ => ?_⟩ | refine deliverAll_keep ?_ .. | refine sendFrame_keep ?_ .. | refine updExec_keep ?_ ..) | ((with_reducible refine onIssue_keep ?_ _ _ _ (fun _ => ?_)) <;> try beta_reduce) | ((with_reducible refine State.updTile_keep ?_ _ _ ?_); on_goal 2 => exact id) | ((with_reducible refine State.updTile_keep ?_ _ _ ?_); on_goal 2 => exact fun _ => rfl) | ((with_reducible refine State.updTile_keep ?_ _ _ ?_); on_goal 2 => (simp (maxDischargeDepth := 40) +contextual [*]; done)) | ((with_reducible refine State.updTile_keep ?_ _ _ ?_); on_goal 2 => (intro hm; dsimp only; (repeat' split) <;> simp_all (maxDischargeDepth := 40); done)) | dsimp only | (simp only [kept_mk_iff]; with_reducible refine kept_upd' ?_ (by simp (maxDischargeDepth := 40) +contextual)) | split | (simp (maxDischargeDepth := 40) +contextual [kept_upd, *]; done)

theorem execReduce_keep (h : Kept p s) (tile : Nat) : KeptR p (execReduce tile s) := by
  unfold execReduce
  repeat' first | (with_reducible first | assumption | refine keptR_next ?_) | (extract_lets +onlyGivenNames t; refine kept_cut (q := Kept p t) ?_ fun ht => ?_; (on_goal 2 => clear_value t); on_goal 1 => (simp only [t]; try clear t)) | (with_reducible first | refine keptE_ite (fun _ => ?_) (fun _ => ?_) | refine keptE_ok ?_ | refine keptE_hold ?_ | exact keptE_stop _ | exact keptE_wait) | (extract_lets +onlyGivenNames t; clear_value t) | (with_reducible first | refine kept_ite.2 ⟨fun _ => ?_, fun _ => ?_⟩ | refine kept_foldl ?_ (fun _ _ _ => ?_)) | ((with_reducible refine onIssue_keep ?_ _ _ _ (fun _ => ?_)) <;> try beta_reduce) | ((with_reducible refine rdA_keep ?_ _ _ _ _ _ (fun _ => ?_)) <;> try beta_reduce) | with_reducible refine rdA_keep' (e := by with_reducible assumption) ?_ | ((with_reducible refine rdF_keep ?_ _ _ _ _ _ (fun _ => ?_)) <;> try beta_reduce) | with_reducible refine rdF_keep' (e := by with_reducible assumption) ?_ | ((with_reducible refine wrA_keep ?_ _ _ _ _ _ (fun _ _ => ?_)) <;> try beta_reduce) | with_reducible refine wrA_keep' (e := by with_reducible assumption) ?_ | ((with_reducible refine wrF_keep ?_ _ _ _ _ _ (fun _ _ => ?_)) <;> try beta_reduce) | with_reducible refine wrF_keep' (e := by with_reducible assumption) ?_ | dsimp only | split | (simp (maxDischargeDepth := 40) +contextual [kept_upd, *]; done)

end Sys2Proof.Machine
end

