-- ==== Sys2Proof/Laws/Keep/VectorFn.lean ====
section
/-! SUPPORT. What every operation of Machine/VectorFn.lean keeps. -/

namespace Sys2Proof.Machine

set_option linter.all false

variable {p : List Instr} {s : State}

theorem rdB_keep (h : Kept p s) (a : At) (q off n : Nat) (f : List F32 → Eff) (hf : ∀ l, KeptE p (f l)) : KeptE p (rdB s a q off n f) := by
  unfold rdB
  exact rdP_keep h _ _ _ _ _ fun _ => hf _

theorem execNorm_keep (h : Kept p s) (tile : Nat) : KeptR p (execNorm tile s) := by
  unfold execNorm
  repeat' first | (with_reducible first | assumption | refine keptR_next ?_ | refine hf1 _ ?_ | refine hf2 _ _ ?_) | (extract_lets +onlyGivenNames t; refine kept_cut (q := Kept p t) ?_ fun ht => ?_; (on_goal 2 => clear_value t); on_goal 1 => (simp only [t]; try clear t)) | (extract_lets +onlyGivenNames t; refine kept_cut (q := ∀ x : State, Kept p x → Kept p (t x)) ?_ fun hf1 => ?_; (on_goal 2 => clear_value t); on_goal 1 => (simp only [t]; try clear t; intro _ _)) | (extract_lets +onlyGivenNames t; refine kept_cut (q := ∀ (x : State) y, Kept p x → Kept p (t x y)) ?_ fun hf2 => ?_; (on_goal 2 => clear_value t); on_goal 1 => (simp only [t]; try clear t; intro _ _ _)) | (extract_lets +onlyGivenNames t; refine kept_cut (q := ∀ x : State, Kept p x → Kept p (t x).2) ?_ fun hf4 => ?_; (on_goal 2 => clear_value t); on_goal 1 => (simp only [t]; try clear t; intro _ _)) | with_reducible refine hf4 _ ?_ | (extract_lets +onlyGivenNames t; refine kept_cut (q := ∀ (x : State) y z, Kept p x → KeptE p (t x y z)) ?_ fun hf3 => ?_; (on_goal 2 => clear_value t); on_goal 1 => (simp only [t]; try clear t; intro _ _ _ _)) | with_reducible refine hf3 _ _ _ ?_ | (extract_lets +onlyGivenNames t; refine kept_cut (q := ∀ x : State, Kept p x → KeptE p (t x)) ?_ fun hf1 => ?_; (on_goal 2 => clear_value t); on_goal 1 => (simp only [t]; try clear t; intro _ _)) | (extract_lets +onlyGivenNames t; refine kept_cut (q := ∀ (x : State) y, Kept p x → KeptE p (t x y)) ?_ fun hf2 => ?_; (on_goal 2 => clear_value t); on_goal 1 => (simp only [t]; try clear t; intro _ _ _)) | (with_reducible first | refine keptE_ite (fun _ => ?_) (fun _ => ?_) | refine keptE_ok ?_ | refine keptE_hold ?_ | exact keptE_stop _ | exact keptE_wait) | (extract_lets +onlyGivenNames t; clear_value t) | with_reducible refine kept_ite.2 ⟨fun _ => ?_, fun _ => ?_⟩ | ((with_reducible refine onIssue_keep ?_ _ _ _ (fun _ => ?_)) <;> try beta_reduce) | ((with_reducible refine rdB_keep ?_ _ _ _ _ _ (fun _ => ?_)) <;> try beta_reduce) | with_reducible refine rdB_keep' (e := by with_reducible assumption) ?_ | ((with_reducible refine rdF_keep ?_ _ _ _ _ _ (fun _ => ?_)) <;> try beta_reduce) | with_reducible refine rdF_keep' (e := by with_reducible assumption) ?_ | ((with_reducible refine rdP_keep ?_ _ _ _ _ _ (fun _ => ?_)) <;> try beta_reduce) | (with_reducible first | refine rdP_keep' (e := by with_reducible assumption) ?_ | refine setNonfinite_keep ?_ ..) | ((with_reducible refine wrF_keep ?_ _ _ _ _ _ (fun _ _ => ?_)) <;> try beta_reduce) | with_reducible refine wrF_keep' (e := by with_reducible assumption) ?_ | dsimp only | split | (simp (maxDischargeDepth := 40) +contextual [kept_upd, *]; done)

theorem execAct_keep (h : Kept p s) (tile : Nat) : KeptR p (execAct tile s) := by
  unfold execAct
  repeat' first | (with_reducible first | assumption | refine keptR_next ?_ | refine hf1 _ ?_ | refine hf2 _ _ ?_) | (extract_lets +onlyGivenNames t; refine kept_cut (q := Kept p t) ?_ fun ht => ?_; (on_goal 2 => clear_value t); on_goal 1 => (simp only [t]; try clear t)) | (extract_lets +onlyGivenNames t; refine kept_cut (q := ∀ x : State, Kept p x → Kept p (t x)) ?_ fun hf1 => ?_; (on_goal 2 => clear_value t); on_goal 1 => (simp only [t]; try clear t; intro _ _)) | (extract_lets +onlyGivenNames t; refine kept_cut (q := ∀ (x : State) y, Kept p x → Kept p (t x y)) ?_ fun hf2 => ?_; (on_goal 2 => clear_value t); on_goal 1 => (simp only [t]; try clear t; intro _ _ _)) | (extract_lets +onlyGivenNames t; refine kept_cut (q := ∀ x : State, Kept p x → Kept p (t x).2) ?_ fun hf4 => ?_; (on_goal 2 => clear_value t); on_goal 1 => (simp only [t]; try clear t; intro _ _)) | with_reducible refine hf4 _ ?_ | (extract_lets +onlyGivenNames t; refine kept_cut (q := ∀ (x : State) y z, Kept p x → KeptE p (t x y z)) ?_ fun hf3 => ?_; (on_goal 2 => clear_value t); on_goal 1 => (simp only [t]; try clear t; intro _ _ _ _)) | with_reducible refine hf3 _ _ _ ?_ | (extract_lets +onlyGivenNames t; refine kept_cut (q := ∀ x : State, Kept p x → KeptE p (t x)) ?_ fun hf1 => ?_; (on_goal 2 => clear_value t); on_goal 1 => (simp only [t]; try clear t; intro _ _)) | (extract_lets +onlyGivenNames t; refine kept_cut (q := ∀ (x : State) y, Kept p x → KeptE p (t x y)) ?_ fun hf2 => ?_; (on_goal 2 => clear_value t); on_goal 1 => (simp only [t]; try clear t; intro _ _ _)) | (with_reducible first | refine keptE_ite (fun _ => ?_) (fun _ => ?_) | refine keptE_ok ?_ | refine keptE_hold ?_ | exact keptE_stop _ | exact keptE_wait) | (extract_lets +onlyGivenNames t; clear_value t) | with_reducible refine kept_ite.2 ⟨fun _ => ?_, fun _ => ?_⟩ | ((with_reducible refine onIssue_keep ?_ _ _ _ (fun _ => ?_)) <;> try beta_reduce) | ((with_reducible refine rdF_keep ?_ _ _ _ _ _ (fun _ => ?_)) <;> try beta_reduce) | with_reducible refine rdF_keep' (e := by with_reducible assumption) ?_ | ((with_reducible refine wrF_keep ?_ _ _ _ _ _ (fun _ _ => ?_)) <;> try beta_reduce) | with_reducible refine wrF_keep' (e := by with_reducible assumption) ?_ | dsimp only | split | (simp (maxDischargeDepth := 40) +contextual [kept_upd, *]; done)

theorem execRope_keep (h : Kept p s) (tile : Nat) : KeptR p (execRope tile s) := by
  unfold execRope
  repeat' first | (with_reducible first | assumption | refine keptR_next ?_) | (extract_lets +onlyGivenNames t; refine kept_cut (q := Kept p t) ?_ fun ht => ?_; (on_goal 2 => clear_value t); on_goal 1 => (simp only [t]; try clear t)) | (with_reducible first | refine keptE_ite (fun _ => ?_) (fun _ => ?_) | refine keptE_ok ?_ | refine keptE_hold ?_ | exact keptE_stop _ | exact keptE_wait) | (extract_lets +onlyGivenNames t; clear_value t) | ((with_reducible refine onIssue_keep ?_ _ _ _ (fun _ => ?_)) <;> try beta_reduce) | ((with_reducible refine rdF_keep ?_ _ _ _ _ _ (fun _ => ?_)) <;> try beta_reduce) | with_reducible refine rdF_keep' (e := by with_reducible assumption) ?_ | ((with_reducible refine wrF_keep ?_ _ _ _ _ _ (fun _ _ => ?_)) <;> try beta_reduce) | with_reducible refine wrF_keep' (e := by with_reducible assumption) ?_ | dsimp only | (simp (maxDischargeDepth := 40) +contextual [kept_upd, *]; done)

@[simp] theorem hotRead_keep (h : Kept p s) (k : Nat × Nat × Nat) (bytes : Nat) : Kept p (hotRead s k bytes).1 := by
  unfold hotRead
  repeat' first | with_reducible assumption | (extract_lets +onlyGivenNames t; refine kept_cut (q := Kept p t) ?_ fun ht => ?_; (on_goal 2 => clear_value t); on_goal 1 => (simp only [t]; try clear t)) | (extract_lets +onlyGivenNames t; clear_value t) | with_reducible refine kept_ite.2 ⟨fun _ => ?_, fun _ => ?_⟩ | ((with_reducible refine State.updKv_keep ?_ _ ?_); on_goal 2 => exact id) | ((with_reducible refine State.updKv_keep ?_ _ ?_); on_goal 2 => exact fun _ => rfl) | ((with_reducible refine State.updKv_keep ?_ _ ?_); on_goal 2 => (simp (maxDischargeDepth := 40) +contextual [*]; done)) | ((with_reducible refine State.updKv_keep ?_ _ ?_); on_goal 2 => (intro hm; dsimp only; (repeat' split) <;> simp_all (maxDischargeDepth := 40); done)) | dsimp only | split | (simp (maxDischargeDepth := 40) +contextual [kept_upd, *]; done)

theorem hotRead_keep' (h : Kept p s) {k : Nat × Nat × Nat} {bytes : Nat} {t' : State} {x} (e : hotRead s k bytes = (t', x)) : Kept p t' := by
  have := hotRead_keep h k bytes
  rw [e] at this; exact this

@[simp] theorem askRows_keep (h : Kept p s) (ctx : Nat) (table : Nat) (t : Table) (step : Nat) (rows : List Nat) : Kept p (askRows s ctx table t step rows) := by
  unfold askRows
  repeat' first | (with_reducible first | assumption) | (extract_lets +onlyGivenNames t; refine kept_cut (q := Kept p t) ?_ fun ht => ?_; (on_goal 2 => clear_value t); on_goal 1 => (simp only [t]; try clear t)) | (extract_lets +onlyGivenNames t; clear_value t) | (with_reducible first | refine kept_foldl ?_ (fun _ _ _ => ?_) | refine kept_foldl_mid ?_ (fun _ _ _ => ?_) | refine kept_foldl_fst ?_ (fun _ _ _ => ?_) | refine sendFrame_keep ?_ .. | refine State.updChim_keep ?_ ..) | dsimp only | (simp only [kept_mk_iff]; with_reducible refine kept_upd' ?_ (by simp (maxDischargeDepth := 40) +contextual)) | split | (simp (maxDischargeDepth := 40) +contextual [kept_upd, *]; done)

@[simp] theorem tableRow_keep (h : Kept p s) (x : Ctx) (ver : Nat) (ctx : Nat) (table : Nat) (t : Table) (row : Nat) : Kept p (tableRow s x ver ctx table t row).2.1 := by
  unfold tableRow
  repeat' first | (with_reducible first | assumption) | (extract_lets +onlyGivenNames t; refine kept_cut (q := Kept p t) ?_ fun ht => ?_; (on_goal 2 => clear_value t); on_goal 1 => (simp only [t]; try clear t)) | (extract_lets +onlyGivenNames t; clear_value t) | (with_reducible first | refine kept_ite.2 ⟨fun _ => ?_, fun _ => ?_⟩ | refine hotRead_keep ?_ .. | refine hotRead_keep' (e := by with_reducible assumption) ?_) | dsimp only | split | (simp (maxDischargeDepth := 40) +contextual [kept_upd, *]; done)

theorem tableRow_keep' (h : Kept p s) {x : Ctx} {ver : Nat} {ctx : Nat} {table : Nat} {t : Table} {row : Nat} {t' : State} {x1 x2} (e : tableRow s x ver ctx table t row = (x1, t', x2)) : Kept p t' := by
  have := tableRow_keep h x ver ctx table t row; rw [e] at this; exact this

@[simp] theorem gatherLost_keep (h : Kept p s) (a : At) (role : Nat) : Kept p (gatherLost s a role) := by
  unfold gatherLost
  repeat' first | (with_reducible first | assumption) | (extract_lets +onlyGivenNames t; refine kept_cut (q := Kept p t) ?_ fun ht => ?_; (on_goal 2 => clear_value t); on_goal 1 => (simp only [t]; try clear t)) | (extract_lets +onlyGivenNames t; clear_value t) | (with_reducible first | refine endReqCmd_keep ?_ .. | refine updExec_keep ?_ .. | refine updVec_keep ?_ ..) | dsimp only | (simp only [kept_mk_iff]; with_reducible refine kept_upd' ?_ (by simp (maxDischargeDepth := 40) +contextual)) | split | (simp (maxDischargeDepth := 40) +contextual [kept_upd, *]; done)

theorem execEmbg_keep (h : Kept p s) (tile : Nat) : KeptR p (execEmbg tile s) := by
  unfold execEmbg
  repeat' first | (with_reducible first | assumption | refine keptR_next ?_ | refine keptE_ite (fun _ => ?_) (fun _ => ?_) | refine keptE_ok ?_ | refine keptE_hold ?_ | exact keptE_stop _ | exact keptE_wait | refine hf1 _ ?_ | refine hf2 _ _ ?_ | refine hf3 _ _ _ ?_) | (extract_lets +onlyGivenNames t; refine kept_cut (q := Kept p t) ?_ fun ht => ?_; (on_goal 2 => clear_value t); on_goal 1 => (simp only [t]; try clear t)) | (extract_lets +onlyGivenNames t; refine kept_cut (q := ∀ x : State, Kept p x → Kept p (t x)) ?_ fun hf1 => ?_; (on_goal 2 => clear_value t); on_goal 1 => (simp only [t]; try clear t; intro _ _)) | (extract_lets +onlyGivenNames t; refine kept_cut (q := ∀ (x : State) y, Kept p x → Kept p (t x y)) ?_ fun hf2 => ?_; (on_goal 2 => clear_value t); on_goal 1 => (simp only [t]; try clear t; intro _ _ _)) | (extract_lets +onlyGivenNames t; refine kept_cut (q := ∀ x : State, Kept p x → KeptE p (t x)) ?_ fun hf1 => ?_; (on_goal 2 => clear_value t); on_goal 1 => (simp only [t]; try clear t; intro _ _)) | (extract_lets +onlyGivenNames t; refine kept_cut (q := ∀ (x : State) y, Kept p x → KeptE p (t x y)) ?_ fun hf2 => ?_; (on_goal 2 => clear_value t); on_goal 1 => (simp only [t]; try clear t; intro _ _ _)) | (extract_lets +onlyGivenNames t; refine kept_cut (q := ∀ (x : State) y z, Kept p x → KeptE p (t x y z)) ?_ fun hf3 => ?_; (on_goal 2 => clear_value t); on_goal 1 => (simp only [t]; try clear t; intro _ _ _ _)) | (extract_lets +onlyGivenNames t; refine kept_cut (q := ∀ x, Kept p (t x)) ?_ fun hf6 => ?_; (on_goal 2 => clear_value t); on_goal 1 => (simp only [t]; try clear t; intro _)) | with_reducible refine hf6 _ | (extract_lets +onlyGivenNames t; refine kept_cut (q := ∀ x : State, Kept p x → Kept p (t x).2) ?_ fun hf4 => ?_; (on_goal 2 => clear_value t); on_goal 1 => (simp only [t]; try clear t; intro _ _)) | with_reducible refine hf4 _ ?_ | (extract_lets +onlyGivenNames t; refine kept_cut (q := ∀ x : State, Kept p x → Kept p (t x).1) ?_ fun hf5 => ?_; (on_goal 2 => clear_value t); on_goal 1 => (simp only [t]; try clear t; intro _ _)) | with_reducible refine hf5 _ ?_ | (extract_lets +onlyGivenNames t; clear_value t) | (with_reducible first | refine kept_ite.2 ⟨fun _ => ?_, fun _ => ?_⟩ | refine kept_foldl ?_ (fun _ _ _ => ?_) | refine kept_foldl_mid ?_ (fun _ _ _ => ?_) | refine kept_foldl_fst ?_ (fun _ _ _ => ?_) | refine askRows_keep ?_ .. | refine gatherLost_keep ?_ .. | refine setNonfinite_keep ?_ .. | refine tableRow_keep ?_ .. | refine tableRow_keep' (e := by with_reducible assumption) ?_ | refine State.updChim_keep ?_ ..) | ((with_reducible refine onIssue_keep ?_ _ _ _ (fun _ => ?_)) <;> try beta_reduce) | ((with_reducible refine wrF_keep ?_ _ _ _ _ _ (fun _ _ => ?_)) <;> try beta_reduce) | dsimp only | (simp only [kept_mk_iff]; with_reducible refine kept_upd' ?_ (by simp (maxDischargeDepth := 40) +contextual)) | split | (simp (maxDischargeDepth := 40) +contextual [kept_upd, *]; done)

theorem sampleEnd_keep (h : Kept p s) (a : At) (r : Req) (ranked : List (Nat × F32)) : KeptE p (sampleEnd s a r ranked) := by
  unfold sampleEnd
  repeat' first | (with_reducible first | assumption | refine hf1 _ ?_ | refine hf2 _ _ ?_) | (extract_lets +onlyGivenNames t; refine kept_cut (q := Kept p t) ?_ fun ht => ?_; (on_goal 2 => clear_value t); on_goal 1 => (simp only [t]; try clear t)) | (extract_lets +onlyGivenNames t; refine kept_cut (q := ∀ x : State, Kept p x → Kept p (t x)) ?_ fun hf1 => ?_; (on_goal 2 => clear_value t); on_goal 1 => (simp only [t]; try clear t; intro _ _)) | (extract_lets +onlyGivenNames t; refine kept_cut (q := ∀ (x : State) y, Kept p x → Kept p (t x y)) ?_ fun hf2 => ?_; (on_goal 2 => clear_value t); on_goal 1 => (simp only [t]; try clear t; intro _ _ _)) | (extract_lets +onlyGivenNames t; refine kept_cut (q := ∀ x : State, Kept p x → Kept p (t x).2) ?_ fun hf4 => ?_; (on_goal 2 => clear_value t); on_goal 1 => (simp only [t]; try clear t; intro _ _)) | with_reducible refine hf4 _ ?_ | (extract_lets +onlyGivenNames t; refine kept_cut (q := ∀ (x : State) y z, Kept p x → KeptE p (t x y z)) ?_ fun hf3 => ?_; (on_goal 2 => clear_value t); on_goal 1 => (simp only [t]; try clear t; intro _ _ _ _)) | with_reducible refine hf3 _ _ _ ?_ | (extract_lets +onlyGivenNames t; refine kept_cut (q := ∀ x : State, Kept p x → KeptE p (t x)) ?_ fun hf1 => ?_; (on_goal 2 => clear_value t); on_goal 1 => (simp only [t]; try clear t; intro _ _)) | (extract_lets +onlyGivenNames t; refine kept_cut (q := ∀ (x : State) y, Kept p x → KeptE p (t x y)) ?_ fun hf2 => ?_; (on_goal 2 => clear_value t); on_goal 1 => (simp only [t]; try clear t; intro _ _ _)) | (with_reducible first | refine keptE_ite (fun _ => ?_) (fun _ => ?_) | refine keptE_ok ?_ | refine keptE_hold ?_ | exact keptE_stop _ | exact keptE_wait) | (extract_lets +onlyGivenNames t; clear_value t) | (with_reducible first | refine kept_ite.2 ⟨fun _ => ?_, fun _ => ?_⟩ | refine State.draw_keep ?_ .. | refine State.draw_keep' (e := by with_reducible assumption) ?_ | refine State.fresh_keep ?_ .. | refine State.fresh_keep' (e := by with_reducible assumption) ?_ | refine captureVout_keep ?_ .. | refine emit_keep ?_ .. | refine noVout_keep ?_ .. | refine setNonfinite_keep ?_ .. | refine updVec_keep ?_ ..) | ((with_reducible refine wrP_keep ?_ _ _ _ _ _ (fun _ _ => ?_)) <;> try beta_reduce) | with_reducible refine wrP_keep' (e := by with_reducible assumption) ?_ | dsimp only | with_reducible refine kept_elim ?_ fun _ => ?_ | split | (simp (maxDischargeDepth := 40) +contextual [kept_upd, *]; done)

theorem execSample_keep (h : Kept p s) (tile : Nat) : KeptR p (execSample tile s) := by
  unfold execSample
  repeat' first | (with_reducible first | assumption | refine keptR_next ?_ | refine hf1 _ ?_ | refine hf2 _ _ ?_) | (extract_lets +onlyGivenNames t; refine kept_cut (q := Kept p t) ?_ fun ht => ?_; (on_goal 2 => clear_value t); on_goal 1 => (simp only [t]; try clear t)) | (extract_lets +onlyGivenNames t; refine kept_cut (q := ∀ x : State, Kept p x → Kept p (t x)) ?_ fun hf1 => ?_; (on_goal 2 => clear_value t); on_goal 1 => (simp only [t]; try clear t; intro _ _)) | (extract_lets +onlyGivenNames t; refine kept_cut (q := ∀ (x : State) y, Kept p x → Kept p (t x y)) ?_ fun hf2 => ?_; (on_goal 2 => clear_value t); on_goal 1 => (simp only [t]; try clear t; intro _ _ _)) | (extract_lets +onlyGivenNames t; refine kept_cut (q := ∀ x : State, Kept p x → Kept p (t x).2) ?_ fun hf4 => ?_; (on_goal 2 => clear_value t); on_goal 1 => (simp only [t]; try clear t; intro _ _)) | with_reducible refine hf4 _ ?_ | (extract_lets +onlyGivenNames t; refine kept_cut (q := ∀ (x : State) y z, Kept p x → KeptE p (t x y z)) ?_ fun hf3 => ?_; (on_goal 2 => clear_value t); on_goal 1 => (simp only [t]; try clear t; intro _ _ _ _)) | with_reducible refine hf3 _ _ _ ?_ | (extract_lets +onlyGivenNames t; refine kept_cut (q := ∀ x : State, Kept p x → KeptE p (t x)) ?_ fun hf1 => ?_; (on_goal 2 => clear_value t); on_goal 1 => (simp only [t]; try clear t; intro _ _)) | (extract_lets +onlyGivenNames t; refine kept_cut (q := ∀ (x : State) y, Kept p x → KeptE p (t x y)) ?_ fun hf2 => ?_; (on_goal 2 => clear_value t); on_goal 1 => (simp only [t]; try clear t; intro _ _ _)) | (with_reducible first | refine keptE_ite (fun _ => ?_) (fun _ => ?_) | refine keptE_ok ?_ | refine keptE_hold ?_ | exact keptE_stop _ | exact keptE_wait) | (extract_lets +onlyGivenNames t; clear_value t) | with_reducible refine kept_ite.2 ⟨fun _ => ?_, fun _ => ?_⟩ | ((with_reducible refine onIssue_keep ?_ _ _ _ (fun _ => ?_)) <;> try beta_reduce) | ((with_reducible refine rdF_keep ?_ _ _ _ _ _ (fun _ => ?_)) <;> try beta_reduce) | with_reducible refine rdF_keep' (e := by with_reducible assumption) ?_ | ((with_reducible refine rdP_keep ?_ _ _ _ _ _ (fun _ => ?_)) <;> try beta_reduce) | (with_reducible first | refine rdP_keep' (e := by with_reducible assumption) ?_ | refine sampleEnd_keep ?_ .. | refine sampleEnd_keep' (e := by with_reducible assumption) ?_) | ((with_reducible refine wrP_keep ?_ _ _ _ _ _ (fun _ _ => ?_)) <;> try beta_reduce) | with_reducible refine wrP_keep' (e := by with_reducible assumption) ?_ | dsimp only | split | (simp (maxDischargeDepth := 40) +contextual [kept_upd, *]; done)

end Sys2Proof.Machine
end

