-- ==== Sys2Proof/Laws/Keep/Calib.lean ====
section
/-! SUPPORT. What every operation of Machine/Calib.lean keeps. -/

namespace Sys2Proof.Machine

set_option linter.all false

variable {p : List Instr} {s : State}

@[simp] theorem refreshCal_keep (h : Kept p s)  : Kept p (refreshCal s) := by
  unfold refreshCal
  repeat' first | (with_reducible first | assumption | refine putCmd_keep ?_ ..) | dsimp only | split | (simp (maxDischargeDepth := 40) +contextual [kept_upd, *]; done)

@[simp] theorem withRun_keep (h : Kept p s) (f : CalRun → CalRun) : Kept p (withRun s f) := by
  unfold withRun
  repeat' first | (with_reducible first | assumption | refine State.updCal_keep ?_ ..) | dsimp only | (simp (maxDischargeDepth := 40) +contextual [kept_upd, *]; done)

theorem execCalRun_keep (h : Kept p s) (ring : Nat) (seq : Nat) : KeptR p (execCalRun ring seq s) := by
  unfold execCalRun
  repeat' first | (with_reducible first | assumption | refine keptR_next ?_) | (extract_lets +onlyGivenNames t; refine kept_cut (q := Kept p t) ?_ fun ht => ?_; (on_goal 2 => clear_value t); on_goal 1 => (simp only [t]; try clear t)) | (extract_lets +onlyGivenNames t; clear_value t) | (with_reducible first | refine kept_ite.2 ⟨fun _ => ?_, fun _ => ?_⟩ | refine State.updCal_keep ?_ .. | refine acceptLong_keep ?_ .. | refine finish_keep ?_ ..) | ((with_reducible refine onReady_keep ?_ _ _ _ _ (fun _ => ?_)); on_goal 2 => beta_reduce) | dsimp only | split | (simp (maxDischargeDepth := 40) +contextual [kept_upd, *]; done)

@[simp] theorem calFail_keep (h : Kept p s) (array : Nat) (conv : Nat) (reason : Nat) (die : Nat) (detail : Nat) (unit : Nat) : Kept p (calFail s array conv reason die detail unit) := by
  unfold calFail
  repeat' first | with_reducible assumption | (extract_lets +onlyGivenNames t; refine kept_cut (q := Kept p t) ?_ fun ht => ?_; (on_goal 2 => clear_value t); on_goal 1 => (simp only [t]; try clear t)) | (extract_lets +onlyGivenNames t; clear_value t) | (with_reducible first | refine logEvent_keep ?_ .. | refine raiseErr_keep ?_ .. | refine refreshCal_keep ?_ ..) | dsimp only | (simp (maxDischargeDepth := 40) +contextual [kept_upd, *]; done)

theorem execCalReferenceCheck_keep (h : Kept p s) (ppm : List Int) : KeptR p (execCalReferenceCheck ppm s) := by
  unfold execCalReferenceCheck
  repeat' first | (with_reducible first | assumption | refine keptR_next ?_) | (extract_lets +onlyGivenNames t; refine kept_cut (q := Kept p t) ?_ fun ht => ?_; (on_goal 2 => clear_value t); on_goal 1 => (simp only [t]; try clear t)) | (extract_lets +onlyGivenNames t; clear_value t) | (with_reducible first | refine kept_ite.2 ⟨fun _ => ?_, fun _ => ?_⟩ | refine calFail_keep ?_ .. | refine withRun_keep ?_ .. | refine State.updCal_keep ?_ ..) | dsimp only | (simp only [kept_mk_iff]; with_reducible refine kept_upd' ?_ (by simp (maxDischargeDepth := 40) +contextual)) | split | (simp (maxDischargeDepth := 40) +contextual [kept_upd, *]; done)

@[simp] theorem advanceSeq_keep (h : Kept p s) (slots : Nat) : Kept p (advanceSeq s slots) := by
  unfold advanceSeq
  repeat' first | (with_reducible first | assumption) | (with_reducible first | refine State.updCal_keep ?_ ..) | dsimp only | (simp only [kept_mk_iff]; with_reducible refine kept_upd' ?_ (by simp (maxDischargeDepth := 40) +contextual)) | split | (simp (maxDischargeDepth := 40) +contextual [kept_upd, *]; done)

@[simp] theorem measurePasses_keep (h : Kept p s) : Kept p (measurePasses s) := by
  unfold measurePasses
  repeat' first | (with_reducible first | assumption) | (with_reducible first | refine advanceSeq_keep ?_ ..) | dsimp only | split | (simp (maxDischargeDepth := 40) +contextual [kept_upd, *]; done)

theorem execCalAttemptEnd_keep (h : Kept p s) (fits : List ConvMeas) : KeptR p (execCalAttemptEnd fits s) := by
  unfold execCalAttemptEnd
  repeat' first | (with_reducible first | assumption | refine keptR_next ?_) | (extract_lets +onlyGivenNames t; refine kept_cut (q := Kept p t) ?_ fun ht => ?_; (on_goal 2 => clear_value t); on_goal 1 => (simp only [t]; try clear t)) | (extract_lets +onlyGivenNames t; clear_value t) | (with_reducible first | refine kept_ite.2 ⟨fun _ => ?_, fun _ => ?_⟩ | refine calFail_keep ?_ .. | refine measurePasses_keep ?_ .. | refine refreshCal_keep ?_ .. | refine withRun_keep ?_ ..) | dsimp only | split | (simp (maxDischargeDepth := 40) +contextual [kept_upd, *]; done)

theorem execCalTrimLoad_keep (h : Kept p s)  : KeptR p (execCalTrimLoad s) := by
  unfold execCalTrimLoad
  repeat' first | (with_reducible first | assumption | refine keptR_next ?_) | (extract_lets +onlyGivenNames t; refine kept_cut (q := Kept p t) ?_ fun ht => ?_; (on_goal 2 => clear_value t); on_goal 1 => (simp only [t]; try clear t)) | (extract_lets +onlyGivenNames t; clear_value t) | (with_reducible first | refine kept_ite.2 ⟨fun _ => ?_, fun _ => ?_⟩ | refine State.updCal_keep ?_ .. | refine finish_keep ?_ .. | refine loadTrims_keep ?_ .. | refine logEvent_keep ?_ .. | refine refreshCal_keep ?_ ..) | dsimp only | (simp only [kept_mk_iff]; with_reducible refine kept_upd' ?_ (by simp (maxDischargeDepth := 40) +contextual)) | split | (simp (maxDischargeDepth := 40) +contextual [kept_upd, *]; done)

@[simp] theorem abortCal_keep (h : Kept p s)  : Kept p (abortCal s) := by
  unfold abortCal
  repeat' first | (with_reducible first | assumption | refine State.updCal_keep ?_ .. | refine refreshCal_keep ?_ ..) | dsimp only | (simp (maxDischargeDepth := 40) +contextual [kept_upd, *]; done)

theorem execCalStatus_keep (h : Kept p s) (ring : Nat) (seq : Nat) : KeptR p (execCalStatus ring seq s) := by
  unfold execCalStatus
  repeat' first | (with_reducible first | assumption | refine keptR_next ?_ | refine finish_keep ?_ ..) | ((with_reducible refine onReady_keep ?_ _ _ _ _ (fun _ => ?_)); on_goal 2 => beta_reduce) | dsimp only | (simp (maxDischargeDepth := 40) +contextual [kept_upd, *]; done)

@[simp] theorem setArea_keep (h : Kept p s) (toB : Bool) (r : CalRec) : Kept p (setArea s toB r) := by
  unfold setArea
  repeat' first | (with_reducible first | assumption) | (with_reducible first | refine kept_ite.2 ⟨fun _ => ?_, fun _ => ?_⟩ | refine State.updCal_keep ?_ ..) | dsimp only | (simp only [kept_mk_iff]; with_reducible refine kept_upd' ?_ (by simp (maxDischargeDepth := 40) +contextual)) | split | (simp (maxDischargeDepth := 40) +contextual [kept_upd, *]; done)

@[simp] theorem commitWrite_keep (h : Kept p s) (c : Cmd) : Kept p (commitWrite s c) := by
  unfold commitWrite
  repeat' first | (with_reducible first | assumption) | (extract_lets +onlyGivenNames t; refine kept_cut (q := Kept p t) ?_ fun ht => ?_; (on_goal 2 => clear_value t); on_goal 1 => (simp only [t]; try clear t)) | (extract_lets +onlyGivenNames t; clear_value t) | (with_reducible first | refine finish_keep ?_ .. | refine putCmd_keep ?_ .. | refine setArea_keep ?_ .. | refine State.updCal_keep ?_ ..) | dsimp only | (simp only [kept_mk_iff]; with_reducible refine kept_upd' ?_ (by simp (maxDischargeDepth := 40) +contextual)) | split | (simp (maxDischargeDepth := 40) +contextual [kept_upd, *]; done)

@[simp] theorem commitSeal_keep (h : Kept p s) (c : Cmd) : Kept p (commitSeal s c) := by
  unfold commitSeal
  repeat' first | (with_reducible first | assumption) | (extract_lets +onlyGivenNames t; refine kept_cut (q := Kept p t) ?_ fun ht => ?_; (on_goal 2 => clear_value t); on_goal 1 => (simp only [t]; try clear t)) | (extract_lets +onlyGivenNames t; clear_value t) | (with_reducible first | refine kept_ite.2 ⟨fun _ => ?_, fun _ => ?_⟩ | refine finish_keep ?_ .. | refine setArea_keep ?_ .. | refine State.updCal_keep ?_ ..) | dsimp only | (simp only [kept_mk_iff]; with_reducible refine kept_upd' ?_ (by simp (maxDischargeDepth := 40) +contextual)) | split | (simp (maxDischargeDepth := 40) +contextual [kept_upd, *]; done)

theorem execCalCommit_keep (h : Kept p s) (ring : Nat) (seq : Nat) : KeptR p (execCalCommit ring seq s) := by
  unfold execCalCommit
  repeat' first | (with_reducible first | assumption | refine keptR_next ?_) | (with_reducible first | refine kept_ite.2 ⟨fun _ => ?_, fun _ => ?_⟩ | refine commitSeal_keep ?_ .. | refine commitWrite_keep ?_ ..) | dsimp only | split | (simp (maxDischargeDepth := 40) +contextual [kept_upd, *]; done)

@[simp] theorem dwellFit_keep (h : Kept p s) (array : Nat) (conv : Nat) (t : Option (Int × Nat)) : Kept p (dwellFit s array conv t) := by
  unfold dwellFit
  repeat' first | (with_reducible first | assumption | refine State.updArr_keep ?_ .. | refine State.updCal_keep ?_ ..) | dsimp only | split | (simp (maxDischargeDepth := 40) +contextual [kept_upd, *]; done)

theorem execBgCalDwell_keep (h : Kept p s) (fits : List ConvMeas) : KeptR p (execBgCalDwell fits s) := by
  unfold execBgCalDwell
  repeat' first | (with_reducible first | assumption | refine keptR_next ?_) | (extract_lets +onlyGivenNames t; refine kept_cut (q := Kept p t) ?_ fun ht => ?_; (on_goal 2 => clear_value t); on_goal 1 => (simp only [t]; try clear t)) | (extract_lets +onlyGivenNames t; clear_value t) | (with_reducible first | refine kept_ite.2 ⟨fun _ => ?_, fun _ => ?_⟩ | refine kept_foldl ?_ (fun _ _ _ => ?_) | refine kept_foldl_mid ?_ (fun _ _ _ => ?_) | refine kept_foldl_fst ?_ (fun _ _ _ => ?_) | refine dwellFit_keep ?_ .. | refine State.updArr_keep ?_ .. | refine State.updCal_keep ?_ ..) | dsimp only | (simp only [kept_mk_iff]; with_reducible refine kept_upd' ?_ (by simp (maxDischargeDepth := 40) +contextual)) | split | (simp (maxDischargeDepth := 40) +contextual [kept_upd, *]; done)

theorem execRecalDwell_keep (h : Kept p s) (array : Nat) (fits : List ConvMeas) : KeptR p (execRecalDwell array fits s) := by
  unfold execRecalDwell
  repeat' first | (with_reducible first | assumption | refine keptR_next ?_) | (extract_lets +onlyGivenNames t; refine kept_cut (q := Kept p t) ?_ fun ht => ?_; (on_goal 2 => clear_value t); on_goal 1 => (simp only [t]; try clear t)) | (extract_lets +onlyGivenNames t; clear_value t) | (with_reducible first | refine kept_ite.2 ⟨fun _ => ?_, fun _ => ?_⟩ | refine dwellFit_keep ?_ .. | refine State.updArr_keep ?_ .. | refine State.updCal_keep ?_ ..) | dsimp only | (simp only [kept_mk_iff]; with_reducible refine kept_upd' ?_ (by simp (maxDischargeDepth := 40) +contextual)) | split | (simp (maxDischargeDepth := 40) +contextual [kept_upd, *]; done)

end Sys2Proof.Machine
end

