-- ==== Sys2Proof/Laws/Keep/Test.lean ====
section
/-! SUPPORT. What every operation of Machine/Test.lean keeps. -/

namespace Sys2Proof.Machine

set_option linter.all false

variable {p : List Instr} {s : State}

@[simp] theorem sweepSlot_keep (h : Kept p s) (array : Nat) (round : Nat) (i : Nat) (devs : List ConvDev) : Kept p (sweepSlot s array round i devs).1 := by
  unfold sweepSlot
  repeat' first | (with_reducible first | assumption) | (extract_lets +onlyGivenNames t; refine kept_cut (q := Kept p t) ?_ fun ht => ?_; (on_goal 2 => clear_value t); on_goal 1 => (simp only [t]; try clear t)) | (extract_lets +onlyGivenNames t; clear_value t) | (with_reducible first | refine closeIfFull_keep ?_ .. | refine State.updArr_keep ?_ ..) | dsimp only | (simp only [kept_mk_iff]; with_reducible refine kept_upd' ?_ (by simp (maxDischargeDepth := 40) +contextual)) | split | (simp (maxDischargeDepth := 40) +contextual [kept_upd, *]; done)

theorem sweepSlot_keep' (h : Kept p s) {array : Nat} {round : Nat} {i : Nat} {devs : List ConvDev} {t' : State} {x1} (e : sweepSlot s array round i devs = (t', x1)) : Kept p t' := by
  have := sweepSlot_keep h array round i devs; rw [e] at this; exact this

@[simp] theorem sweepSlots_keep (h : Kept p s) (array : Nat) (round : Nat) (slots : Nat) (devs : List (Nat × ConvDev)) : Kept p (sweepSlots s array round slots devs).1 := by
  unfold sweepSlots
  repeat' first | (with_reducible first | assumption) | (with_reducible first | refine kept_ite.2 ⟨fun _ => ?_, fun _ => ?_⟩ | refine kept_foldl ?_ (fun _ _ _ => ?_) | refine kept_foldl_mid ?_ (fun _ _ _ => ?_) | refine kept_foldl_fst ?_ (fun _ _ _ => ?_) | refine sweepSlot_keep ?_ .. | refine sweepSlot_keep' (e := by with_reducible assumption) ?_) | dsimp only | split | (simp (maxDischargeDepth := 40) +contextual [kept_upd, *]; done)

theorem sweepSlots_keep' (h : Kept p s) {array : Nat} {round : Nat} {slots : Nat} {devs : List (Nat × ConvDev)} {t' : State} {x1} (e : sweepSlots s array round slots devs = (t', x1)) : Kept p t' := by
  have := sweepSlots_keep h array round slots devs; rw [e] at this; exact this

@[simp] theorem endRound_keep (h : Kept p s) (kind : Nat) (unit : Nat) (digest : Nat) : Kept p (endRound s kind unit digest) := by
  unfold endRound
  repeat' first | (with_reducible first | assumption) | (extract_lets +onlyGivenNames t; refine kept_cut (q := Kept p t) ?_ fun ht => ?_; (on_goal 2 => clear_value t); on_goal 1 => (simp only [t]; try clear t)) | (extract_lets +onlyGivenNames t; clear_value t) | (with_reducible first | refine kept_ite.2 ⟨fun _ => ?_, fun _ => ?_⟩ | refine countRound_keep ?_ .. | refine sendFlit_keep ?_ .. | refine setDigest_keep ?_ .. | refine State.updFlue_keep ?_ ..) | dsimp only | (simp only [kept_mk_iff]; with_reducible refine kept_upd' ?_ (by simp (maxDischargeDepth := 40) +contextual)) | split | (simp (maxDischargeDepth := 40) +contextual [kept_upd, *]; done)

theorem execSweepRound_keep (h : Kept p s) (kind : Nat) (unit : Nat) (slots : Nat) (devs : List (Nat × ConvDev)) (digest : Nat) : KeptR p (execSweepRound kind unit slots devs digest s) := by
  unfold execSweepRound
  repeat' first | (with_reducible first | assumption | refine keptR_next ?_) | (extract_lets +onlyGivenNames t; refine kept_cut (q := Kept p t) ?_ fun ht => ?_; (on_goal 2 => clear_value t); on_goal 1 => (simp only [t]; try clear t)) | (extract_lets +onlyGivenNames t; clear_value t) | (with_reducible first | refine kept_ite.2 ⟨fun _ => ?_, fun _ => ?_⟩ | refine endRound_keep ?_ .. | refine sweepSlots_keep ?_ .. | refine sweepSlots_keep' (e := by with_reducible assumption) ?_) | dsimp only | split | (simp (maxDischargeDepth := 40) +contextual [kept_upd, *]; done)

@[simp] theorem sweepFail_keep (h : Kept p s) (kind : Nat) (unit : Nat) (round : Nat) : Kept p (sweepFail s kind unit round) := by
  unfold sweepFail
  repeat' first | with_reducible assumption | (extract_lets +onlyGivenNames t; refine kept_cut (q := Kept p t) ?_ fun ht => ?_; (on_goal 2 => clear_value t); on_goal 1 => (simp only [t]; try clear t)) | (extract_lets +onlyGivenNames t; clear_value t) | (with_reducible first | refine enterFailed_keep ?_ .. | refine logEvent_keep ?_ ..) | dsimp only | (simp (maxDischargeDepth := 40) +contextual [kept_upd, *]; done)

@[simp] theorem dropDigests_keep (h : Kept p s) (kind : Nat) (unit : Nat) (round : Nat) : Kept p (dropDigests s kind unit round) := by
  unfold dropDigests
  repeat' first | (with_reducible first | assumption) | (with_reducible first | refine setDigest_keep ?_ ..) | dsimp only | split | (simp (maxDischargeDepth := 40) +contextual [kept_upd, *]; done)

@[simp] theorem digestsDiffer_keep (h : Kept p s) (kind : Nat) (unit : Nat) (round : Nat) (rerunsAgree : Bool) : Kept p (digestsDiffer s kind unit round rerunsAgree) := by
  unfold digestsDiffer
  repeat' first | (with_reducible first | assumption) | (extract_lets +onlyGivenNames t; refine kept_cut (q := Kept p t) ?_ fun ht => ?_; (on_goal 2 => clear_value t); on_goal 1 => (simp only [t]; try clear t)) | (extract_lets +onlyGivenNames t; clear_value t) | (with_reducible first | refine kept_ite.2 ⟨fun _ => ?_, fun _ => ?_⟩ | refine raiseErr_keep ?_ .. | refine sweepFail_keep ?_ .. | refine State.updSweep_keep ?_ ..) | dsimp only | (simp only [kept_mk_iff]; with_reducible refine kept_upd' ?_ (by simp (maxDischargeDepth := 40) +contextual)) | split | (simp (maxDischargeDepth := 40) +contextual [kept_upd, *]; done)

theorem execSweepDigest_keep (h : Kept p s) (kind : Nat) (unit : Nat) (rerunsAgree : Bool) : KeptR p (execSweepDigest kind unit rerunsAgree s) := by
  unfold execSweepDigest
  repeat' first | (with_reducible first | assumption | refine keptR_next ?_) | (extract_lets +onlyGivenNames t; refine kept_cut (q := Kept p t) ?_ fun ht => ?_; (on_goal 2 => clear_value t); on_goal 1 => (simp only [t]; try clear t)) | (extract_lets +onlyGivenNames t; clear_value t) | (with_reducible first | refine kept_ite.2 ⟨fun _ => ?_, fun _ => ?_⟩ | refine digestsDiffer_keep ?_ .. | refine dropDigests_keep ?_ ..) | dsimp only | (simp only [kept_mk_iff]; with_reducible refine kept_upd' ?_ (by simp (maxDischargeDepth := 40) +contextual)) | split | (simp (maxDischargeDepth := 40) +contextual [kept_upd, *]; done)

theorem execSweepSubinterval_keep (h : Kept p s) : KeptR p (execSweepSubinterval s) := by
  unfold execSweepSubinterval
  repeat' first | (with_reducible first | assumption | refine keptR_next ?_) | (extract_lets +onlyGivenNames t; refine kept_cut (q := Kept p t) ?_ fun ht => ?_; (on_goal 2 => clear_value t); on_goal 1 => (simp only [t]; try clear t)) | (extract_lets +onlyGivenNames t; clear_value t) | (with_reducible first | refine kept_ite.2 ⟨fun _ => ?_, fun _ => ?_⟩ | refine kept_foldl ?_ (fun _ _ _ => ?_) | refine kept_foldl_mid ?_ (fun _ _ _ => ?_) | refine kept_foldl_fst ?_ (fun _ _ _ => ?_) | refine State.updArr_keep ?_ .. | refine State.updFlue_keep ?_ .. | refine State.updSweep_keep ?_ ..) | dsimp only | (simp only [kept_mk_iff]; with_reducible refine kept_upd' ?_ (by simp (maxDischargeDepth := 40) +contextual)) | split | (simp (maxDischargeDepth := 40) +contextual [kept_upd, *]; done)

theorem execSweepConfig_keep (h : Kept p s) (ring : Nat) (seq : Nat) : KeptR p (execSweepConfig ring seq s) := by
  unfold execSweepConfig
  repeat' first | (with_reducible first | assumption | refine keptR_next ?_) | (with_reducible first | refine kept_ite.2 ⟨fun _ => ?_, fun _ => ?_⟩ | refine finish_keep ?_ .. | refine State.updSweep_keep ?_ ..) | ((with_reducible refine onReady_keep ?_ _ _ _ _ (fun _ => ?_)) <;> try beta_reduce) | dsimp only | (simp only [kept_mk_iff]; with_reducible refine kept_upd' ?_ (by simp (maxDischargeDepth := 40) +contextual)) | split | (simp (maxDischargeDepth := 40) +contextual [kept_upd, *]; done)

theorem execSelfTest_keep (h : Kept p s) (ring : Nat) (seq : Nat) : KeptR p (execSelfTest ring seq s) := by
  unfold execSelfTest
  repeat' first | (with_reducible first | assumption | refine keptR_next ?_) | (extract_lets +onlyGivenNames t; refine kept_cut (q := Kept p t) ?_ fun ht => ?_; (on_goal 2 => clear_value t); on_goal 1 => (simp only [t]; try clear t)) | (extract_lets +onlyGivenNames t; clear_value t) | (with_reducible first | refine kept_ite.2 ⟨fun _ => ?_, fun _ => ?_⟩ | refine acceptLong_keep ?_ .. | refine finish_keep ?_ ..) | ((with_reducible refine onReady_keep ?_ _ _ _ _ (fun _ => ?_)); on_goal 2 => beta_reduce) | dsimp only | (simp only [kept_mk_iff]; with_reducible refine kept_upd' ?_ (by simp (maxDischargeDepth := 40) +contextual)) | split | (simp (maxDischargeDepth := 40) +contextual [kept_upd, *]; done)

@[simp] theorem marchArrays_keep (h : Kept p s)  : Kept p (marchArrays s) := by
  unfold marchArrays
  repeat' first | with_reducible assumption | dsimp only | (simp only [kept_mk_iff]; with_reducible refine kept_upd' ?_ (by simp (maxDischargeDepth := 40) +contextual)) | (simp (maxDischargeDepth := 40) +contextual [kept_upd, *]; done)

@[simp] theorem goldCompare_keep (h : Kept p s) (array : Nat) (found : TestFinding) : Kept p (goldCompare s array found) := by
  unfold goldCompare
  repeat' first | (with_reducible first | assumption) | (with_reducible first | refine kept_ite.2 ⟨fun _ => ?_, fun _ => ?_⟩ | refine kept_foldl ?_ (fun _ _ _ => ?_) | refine kept_foldl_mid ?_ (fun _ _ _ => ?_) | refine kept_foldl_fst ?_ (fun _ _ _ => ?_) | refine repairRow_keep ?_ .. | refine repairRow_keep' (e := by with_reducible assumption) ?_) | dsimp only | split | (simp (maxDischargeDepth := 40) +contextual [kept_upd, *]; done)

@[simp] theorem testFault_keep (h : Kept p s) (domain : Nat) (unit : Nat) : Kept p (testFault s domain unit) := by
  unfold testFault
  repeat' first | (with_reducible first | assumption | refine raiseErr_keep ?_ ..) | dsimp only | (simp (maxDischargeDepth := 40) +contextual [kept_upd, *]; done)

@[simp] theorem phaseEffect_keep (h : Kept p s) (phase : Nat) (unit : Nat) (found : TestFinding) : Kept p (phaseEffect s phase unit found) := by
  unfold phaseEffect
  repeat' first | (with_reducible first | assumption) | (extract_lets +onlyGivenNames t; refine kept_cut (q := Kept p t) ?_ fun ht => ?_; (on_goal 2 => clear_value t); on_goal 1 => (simp only [t]; try clear t)) | (extract_lets +onlyGivenNames t; clear_value t) | (with_reducible first | refine kept_ite.2 ⟨fun _ => ?_, fun _ => ?_⟩ | refine advanceSeq_keep ?_ .. | refine goldCompare_keep ?_ .. | refine sweepFail_keep ?_ .. | refine testFault_keep ?_ ..) | dsimp only | split | (simp (maxDischargeDepth := 40) +contextual [kept_upd, *]; done)

theorem execSelfTestPhaseEnd_keep (h : Kept p s) (phase : Nat) (unit : Nat) (found : TestFinding) : KeptR p (execSelfTestPhaseEnd phase unit found s) := by
  unfold execSelfTestPhaseEnd
  repeat' first | (with_reducible first | assumption | refine keptR_next ?_) | (extract_lets +onlyGivenNames t; refine kept_cut (q := Kept p t) ?_ fun ht => ?_; (on_goal 2 => clear_value t); on_goal 1 => (simp only [t]; try clear t)) | (extract_lets +onlyGivenNames t; clear_value t) | (with_reducible first | refine kept_ite.2 ⟨fun _ => ?_, fun _ => ?_⟩ | refine finish_keep ?_ .. | refine marchArrays_keep ?_ .. | refine phaseEffect_keep ?_ .. | refine putCmd_keep ?_ ..) | dsimp only | (simp only [kept_mk_iff]; with_reducible refine kept_upd' ?_ (by simp (maxDischargeDepth := 40) +contextual)) | split | (simp (maxDischargeDepth := 40) +contextual [kept_upd, *]; done)

@[simp] theorem abortTest_keep (h : Kept p s)  : Kept p (abortTest s) := by
  unfold abortTest
  repeat' first | with_reducible assumption | dsimp only | (simp only [kept_mk_iff]; with_reducible refine kept_upd' ?_ (by simp (maxDischargeDepth := 40) +contextual)) | (simp (maxDischargeDepth := 40) +contextual [kept_upd, *]; done)

end Sys2Proof.Machine
end

