-- ==== Sys2Proof/Laws/Keep/Rings.lean ====
section
/-! SUPPORT. What every operation of Machine/Rings.lean keeps. -/

namespace Sys2Proof.Machine

set_option linter.all false

variable {p : List Instr} {s : State}

theorem execMsixCoalesce_keep (h : Kept p s) (ring : Nat) : KeptR p (execMsixCoalesce ring s) := by
  unfold execMsixCoalesce
  repeat' first | (with_reducible first | assumption | refine keptR_next ?_) | (with_reducible first | refine kept_ite.2 ⟨fun _ => ?_, fun _ => ?_⟩ | refine raiseIrq_keep ?_ .. | refine reap_keep ?_ ..) | dsimp only | with_reducible refine kept_elim ?_ fun _ => ?_ | split | (simp (maxDischargeDepth := 40) +contextual [kept_upd, *]; done)

@[simp] theorem markClosing_keep (h : Kept p s) (c : Cmd) : Kept p (markClosing s c) := by
  unfold markClosing
  repeat' first | (with_reducible first | assumption | refine kept_ite.2 ⟨fun _ => ?_, fun _ => ?_⟩ | refine State.updReq_keep ?_ ..) | dsimp only | split | (simp (maxDischargeDepth := 40) +contextual [kept_upd, *]; done)

@[simp] theorem evaluate_keep (h : Kept p s) (c : Cmd) : Kept p (evaluate s c) := by
  unfold evaluate
  repeat' first | (with_reducible first | assumption | refine State.updDev_keep ?_ .. | refine finish_keep ?_ .. | refine markClosing_keep ?_ .. | refine putCmd_keep ?_ ..) | dsimp only | split | (simp (maxDischargeDepth := 40) +contextual [kept_upd, *]; done)

@[simp] theorem addCmd_keep (h : Kept p s) (c : Cmd) : Kept p (addCmd s c) := by
  unfold addCmd
  repeat' first | with_reducible assumption | dsimp only | (simp only [kept_mk_iff]; with_reducible refine kept_upd' ?_ (by simp (maxDischargeDepth := 40) +contextual)) | (simp (maxDischargeDepth := 40) +contextual [kept_upd, *]; done)

@[simp] theorem rejectSeq_keep (h : Kept p s) (ring : Nat) (p' : Packet) (status : Nat) (result0 : Nat) : Kept p (rejectSeq s ring p' status result0) := by
  unfold rejectSeq
  repeat' first | (with_reducible first | assumption | refine kept_ite.2 ⟨fun _ => ?_, fun _ => ?_⟩ | refine postRec_keep ?_ ..) | dsimp only | split | (simp (maxDischargeDepth := 40) +contextual [kept_upd, *]; done)

@[simp] theorem consumeNew_keep (h : Kept p s) (ring : Nat) (q : Ring) (p' : Packet) : Kept p (consumeNew s ring q p') := by
  unfold consumeNew
  repeat' first | with_reducible assumption | (extract_lets +onlyGivenNames t; refine kept_cut (q := Kept p t) ?_ fun ht => ?_; (on_goal 2 => clear_value t); on_goal 1 => (simp only [t]; try clear t)) | (extract_lets +onlyGivenNames t; clear_value t) | (with_reducible first | refine kept_ite.2 ⟨fun _ => ?_, fun _ => ?_⟩ | refine State.updRing_keep ?_ .. | refine addCmd_keep ?_ .. | refine evaluate_keep ?_ .. | refine finish_keep ?_ ..) | dsimp only | split | (simp (maxDischargeDepth := 40) +contextual [kept_upd, *]; done)

@[simp] theorem consumeDup_keep (h : Kept p s) (ring : Nat) (q : Ring) (p' : Packet) : Kept p (consumeDup s ring q p') := by
  unfold consumeDup
  repeat' first | (with_reducible first | assumption | refine addCmd_keep ?_ .. | refine postRec_keep ?_ .. | refine rejectSeq_keep ?_ ..) | dsimp only | split | (simp (maxDischargeDepth := 40) +contextual [kept_upd, *]; done)

@[simp] theorem consume_keep (h : Kept p s) (ring : Nat) (q : Ring) : Kept p (consume s ring q) := by
  unfold consume
  repeat' first | with_reducible assumption | (extract_lets +onlyGivenNames t; refine kept_cut (q := Kept p t) ?_ fun ht => ?_; (on_goal 2 => clear_value t); on_goal 1 => (simp only [t]; try clear t)) | (extract_lets +onlyGivenNames t; clear_value t) | (with_reducible first | refine kept_ite.2 ⟨fun _ => ?_, fun _ => ?_⟩ | refine State.hostWrite_keep ?_ .. | refine State.setRing_keep ?_ .. | refine consumeDup_keep ?_ .. | refine consumeNew_keep ?_ .. | refine rejectSeq_keep ?_ ..) | dsimp only | split | (simp (maxDischargeDepth := 40) +contextual [kept_upd, *]; done)

@[simp] theorem atLimit_keep (h : Kept p s)  : Kept p (atLimit s) := by
  unfold atLimit
  repeat' first | (with_reducible first | assumption | refine kept_ite.2 ⟨fun _ => ?_, fun _ => ?_⟩) | dsimp only | (simp only [kept_mk_iff]; with_reducible refine kept_upd' ?_ (by simp (maxDischargeDepth := 40) +contextual)) | split | (simp (maxDischargeDepth := 40) +contextual [kept_upd, *]; done)

theorem execPacketConsume_keep (h : Kept p s) (ring : Nat) : KeptR p (execPacketConsume ring s) := by
  unfold execPacketConsume
  repeat' first | (with_reducible first | assumption | refine keptR_next ?_ | refine kept_ite.2 ⟨fun _ => ?_, fun _ => ?_⟩ | refine atLimit_keep ?_ .. | refine consume_keep ?_ ..) | dsimp only | split | (simp (maxDischargeDepth := 40) +contextual [kept_upd, *]; done)

theorem execConsumptionResume_keep (h : Kept p s)  : KeptR p (execConsumptionResume s) := by
  unfold execConsumptionResume
  repeat' first | (with_reducible first | assumption | refine keptR_next ?_) | (extract_lets +onlyGivenNames t; refine kept_cut (q := Kept p t) ?_ fun ht => ?_; (on_goal 2 => clear_value t); on_goal 1 => (simp only [t]; try clear t)) | (extract_lets +onlyGivenNames t; clear_value t) | (with_reducible first | refine kept_ite.2 ⟨fun _ => ?_, fun _ => ?_⟩ | refine consume_keep ?_ ..) | dsimp only | (simp only [kept_mk_iff]; with_reducible refine kept_upd' ?_ (by simp (maxDischargeDepth := 40) +contextual)) | split | (simp (maxDischargeDepth := 40) +contextual [kept_upd, *]; done)

@[simp] theorem releaseBehind_keep (ring : Nat) (l : List Cmd) {s : State} (h : Kept p s) : Kept p (releaseBehind ring l s) := by
  induction l generalizing s with
  | nil => exact h
  | cons c l ih =>
    unfold releaseBehind
    split
    · exact h
    · exact ih (evaluate_keep h _)

theorem execFenceStart_keep (h : Kept p s) (ring : Nat) (seq : Nat) : KeptR p (execFenceStart ring seq s) := by
  unfold execFenceStart
  repeat' first | (with_reducible first | assumption | refine keptR_next ?_) | (extract_lets +onlyGivenNames t; refine kept_cut (q := Kept p t) ?_ fun ht => ?_; (on_goal 2 => clear_value t); on_goal 1 => (simp only [t]; try clear t)) | (extract_lets +onlyGivenNames t; clear_value t) | (with_reducible first | refine kept_ite.2 ⟨fun _ => ?_, fun _ => ?_⟩ | refine evaluate_keep ?_ .. | refine releaseBehind_keep _ _ ?_) | dsimp only | split | (simp (maxDischargeDepth := 40) +contextual [kept_upd, *]; done)

@[simp] theorem reached_keep (h : Kept p s) (c : Cmd) (progress : Nat) (position : Nat) : Kept p (reached s c progress position) := by
  unfold reached
  repeat' first | (with_reducible first | assumption | refine kept_ite.2 ⟨fun _ => ?_, fun _ => ?_⟩ | refine putCmd_keep ?_ .. | refine refreshCal_keep ?_ ..) | dsimp only | split | (simp (maxDischargeDepth := 40) +contextual [kept_upd, *]; done)

theorem execInProgressPost_keep (h : Kept p s) (ring : Nat) (seq : Nat) (progress : Nat) (position : Nat) : KeptR p (execInProgressPost ring seq progress position s) := by
  unfold execInProgressPost
  repeat' first | (with_reducible first | assumption | refine keptR_next ?_) | (extract_lets +onlyGivenNames t; refine kept_cut (q := Kept p t) ?_ fun ht => ?_; (on_goal 2 => clear_value t); on_goal 1 => (simp only [t]; try clear t)) | (extract_lets +onlyGivenNames t; clear_value t) | (with_reducible first | refine kept_ite.2 ⟨fun _ => ?_, fun _ => ?_⟩ | refine postProgress_keep ?_ .. | refine putCmd_keep ?_ .. | refine reached_keep ?_ ..) | dsimp only | (simp only [kept_mk_iff]; with_reducible refine kept_upd' ?_ (by simp (maxDischargeDepth := 40) +contextual)) | split | (simp (maxDischargeDepth := 40) +contextual [kept_upd, *]; done)

theorem execHello_keep (h : Kept p s) (ring : Nat) (seq : Nat) : KeptR p (execHello ring seq s) := by
  unfold execHello
  repeat' first | (with_reducible first | assumption | refine keptR_next ?_) | (extract_lets +onlyGivenNames t; refine kept_cut (q := Kept p t) ?_ fun ht => ?_; (on_goal 2 => clear_value t); on_goal 1 => (simp only [t]; try clear t)) | (extract_lets +onlyGivenNames t; clear_value t) | (with_reducible first | refine kept_ite.2 ⟨fun _ => ?_, fun _ => ?_⟩ | refine State.draw_keep ?_ .. | refine State.draw_keep' (e := by with_reducible assumption) ?_ | refine State.updFn_keep ?_ .. | refine finish_keep ?_ ..) | ((with_reducible refine onReady_keep ?_ _ _ _ _ (fun _ => ?_)); on_goal 2 => beta_reduce) | dsimp only | split | (simp (maxDischargeDepth := 40) +contextual [kept_upd, *]; done)

@[simp] theorem endGoodbye_keep (h : Kept p s) (c : Cmd) : Kept p (endGoodbye s c) := by
  unfold endGoodbye
  repeat' first | (with_reducible first | assumption | refine kept_ite.2 ⟨fun _ => ?_, fun _ => ?_⟩ | refine State.updFn_keep ?_ .. | refine finish_keep ?_ ..) | dsimp only | split | (simp (maxDischargeDepth := 40) +contextual [kept_upd, *]; done)

theorem execGoodbye_keep (h : Kept p s) (ring : Nat) (seq : Nat) : KeptR p (execGoodbye ring seq s) := by
  unfold execGoodbye
  repeat' first | (with_reducible first | assumption | refine keptR_next ?_ | refine endGoodbye_keep ?_ ..) | ((with_reducible refine onReady_keep ?_ _ _ _ _ (fun _ => ?_)); on_goal 2 => beta_reduce) | with_reducible refine putCmd_keep ?_ .. | dsimp only | (simp (maxDischargeDepth := 40) +contextual [kept_upd, *]; done)

theorem execRingCreate_keep (h : Kept p s) (ring : Nat) (seq : Nat) : KeptR p (execRingCreate ring seq s) := by
  unfold execRingCreate
  repeat' first | (with_reducible first | assumption | refine keptR_next ?_) | (extract_lets +onlyGivenNames t; refine kept_cut (q := Kept p t) ?_ fun ht => ?_; (on_goal 2 => clear_value t); on_goal 1 => (simp only [t]; try clear t)) | (extract_lets +onlyGivenNames t; clear_value t) | (with_reducible first | refine kept_ite.2 ⟨fun _ => ?_, fun _ => ?_⟩ | refine State.setRing_keep ?_ .. | refine badParam_keep ?_ .. | refine finish_keep ?_ ..) | ((with_reducible refine onReady_keep ?_ _ _ _ _ (fun _ => ?_)); on_goal 2 => beta_reduce) | dsimp only | split | (simp (maxDischargeDepth := 40) +contextual [kept_upd, *]; done)

@[simp] theorem destroyRing_keep (h : Kept p s) (ring : Nat) : Kept p (destroyRing s ring) := by
  unfold destroyRing
  repeat' first | (with_reducible first | assumption) | (extract_lets +onlyGivenNames t; refine kept_cut (q := Kept p t) ?_ fun ht => ?_; (on_goal 2 => clear_value t); on_goal 1 => (simp only [t]; try clear t)) | (extract_lets +onlyGivenNames t; clear_value t) | (with_reducible first | refine kept_ite.2 ⟨fun _ => ?_, fun _ => ?_⟩ | refine kept_foldl ?_ (fun _ _ _ => ?_) | refine kept_foldl_mid ?_ (fun _ _ _ => ?_) | refine kept_foldl_fst ?_ (fun _ _ _ => ?_) | refine reap_keep ?_ .. | refine State.updRing_keep ?_ ..) | ((with_reducible refine cancelReq_keep ?_ _ _) <;> try beta_reduce) | dsimp only | (simp only [kept_mk_iff]; with_reducible refine kept_upd' ?_ (by simp (maxDischargeDepth := 40) +contextual)) | split | (simp (maxDischargeDepth := 40) +contextual [kept_upd, *]; done)

@[simp] theorem endDestroy_keep (h : Kept p s) (c : Cmd) : Kept p (endDestroy s c) := by
  unfold endDestroy
  repeat' first | (with_reducible first | assumption | refine kept_ite.2 ⟨fun _ => ?_, fun _ => ?_⟩ | refine finish_keep ?_ ..) | dsimp only | split | (simp (maxDischargeDepth := 40) +contextual [kept_upd, *]; done)

theorem execRingDestroy_keep (h : Kept p s) (ring : Nat) (seq : Nat) : KeptR p (execRingDestroy ring seq s) := by
  unfold execRingDestroy
  repeat' first | (with_reducible first | assumption | refine keptR_next ?_) | (extract_lets +onlyGivenNames t; refine kept_cut (q := Kept p t) ?_ fun ht => ?_; (on_goal 2 => clear_value t); on_goal 1 => (simp only [t]; try clear t)) | (extract_lets +onlyGivenNames t; clear_value t) | (with_reducible first | refine kept_ite.2 ⟨fun _ => ?_, fun _ => ?_⟩ | refine badParam_keep ?_ .. | refine destroyRing_keep ?_ .. | refine endDestroy_keep ?_ .. | refine finish_keep ?_ .. | refine putCmd_keep ?_ ..) | ((with_reducible refine onReady_keep ?_ _ _ _ _ (fun _ => ?_)) <;> try beta_reduce) | dsimp only | (simp only [kept_mk_iff]; with_reducible refine kept_upd' ?_ (by simp (maxDischargeDepth := 40) +contextual)) | split | (simp (maxDischargeDepth := 40) +contextual [kept_upd, *]; done)

theorem execRingBind_keep (h : Kept p s) (ring : Nat) (seq : Nat) : KeptR p (execRingBind ring seq s) := by
  unfold execRingBind
  repeat' first | (with_reducible first | assumption | refine keptR_next ?_) | (extract_lets +onlyGivenNames t; refine kept_cut (q := Kept p t) ?_ fun ht => ?_; (on_goal 2 => clear_value t); on_goal 1 => (simp only [t]; try clear t)) | (extract_lets +onlyGivenNames t; clear_value t) | (with_reducible first | refine kept_ite.2 ⟨fun _ => ?_, fun _ => ?_⟩ | refine State.updFn_keep ?_ .. | refine finish_keep ?_ ..) | ((with_reducible refine onReady_keep ?_ _ _ _ _ (fun _ => ?_)); on_goal 2 => beta_reduce) | dsimp only | with_reducible refine kept_elim ?_ fun _ => ?_ | split | (simp (maxDischargeDepth := 40) +contextual [kept_upd, *]; done)

end Sys2Proof.Machine
end

