-- ==== Sys2Proof/Laws/Keep/HostIf.lean ====
section
/-! SUPPORT. What every operation of Machine/HostIf.lean keeps. -/

namespace Sys2Proof.Machine

set_option linter.all false

variable {p : List Instr} {s : State}

@[simp] theorem ignoreDb_keep (h : Kept p s) (fn : Nat) : Kept p (ignoreDb s fn) := by
  unfold ignoreDb
  repeat' first | (with_reducible first | assumption | refine State.updFn_keep ?_ ..) | dsimp only | (simp (maxDischargeDepth := 40) +contextual [kept_upd, *]; done)

@[simp] theorem ringTail_keep (h : Kept p s) (fn : Nat) (ring : Nat) (index : Nat) (resv : Nat) : Kept p (ringTail s fn ring index resv) := by
  unfold ringTail
  repeat' first | (with_reducible first | assumption | refine kept_ite.2 ⟨fun _ => ?_, fun _ => ?_⟩ | refine State.setRing_keep ?_ .. | refine ignoreDb_keep ?_ ..) | dsimp only | split | (simp (maxDischargeDepth := 40) +contextual [kept_upd, *]; done)

@[simp] theorem ringHead_keep (h : Kept p s) (fn : Nat) (ring : Nat) (index : Nat) (resv : Nat) : Kept p (ringHead s fn ring index resv) := by
  unfold ringHead
  repeat' first | with_reducible assumption | (extract_lets +onlyGivenNames t; refine kept_cut (q := Kept p t) ?_ fun ht => ?_; (on_goal 2 => clear_value t); on_goal 1 => (simp only [t]; try clear t)) | (extract_lets +onlyGivenNames t; clear_value t) | (with_reducible first | refine kept_ite.2 ⟨fun _ => ?_, fun _ => ?_⟩ | refine State.setRing_keep ?_ .. | refine ignoreDb_keep ?_ ..) | dsimp only | split | (simp (maxDischargeDepth := 40) +contextual [kept_upd, *]; done)

@[simp] theorem hostWrites_keep (h : Kept p s) (wr : List (Nat × List Byte)) : Kept p (hostWrites s wr) := by
  unfold hostWrites
  repeat' first | (with_reducible first | assumption | refine kept_foldl_mid ?_ (fun _ _ _ => ?_) | refine kept_foldl ?_ (fun _ _ _ => ?_) | refine kept_foldl_fst ?_ (fun _ _ _ => ?_) | refine State.hostWrite_keep ?_ ..) | dsimp only | (simp (maxDischargeDepth := 40) +contextual [kept_upd, *]; done)

theorem execDoorbellTail_keep (h : Kept p s) (fn : Nat) (ring : Nat) (index : Nat) (resv : Nat) (wr : List (Nat × List Byte)) : KeptR p (execDoorbellTail fn ring index resv wr s) := by
  unfold execDoorbellTail
  repeat' first | (with_reducible first | assumption | refine keptR_next ?_) | (extract_lets +onlyGivenNames t; refine kept_cut (q := Kept p t) ?_ fun ht => ?_; (on_goal 2 => clear_value t); on_goal 1 => (simp only [t]; try clear t)) | (extract_lets +onlyGivenNames t; clear_value t) | (with_reducible first | refine kept_ite.2 ⟨fun _ => ?_, fun _ => ?_⟩ | refine hostWrites_keep ?_ .. | refine ringTail_keep ?_ ..) | dsimp only | split | (simp (maxDischargeDepth := 40) +contextual [kept_upd, *]; done)

theorem execDoorbellHead_keep (h : Kept p s) (fn : Nat) (ring : Nat) (index : Nat) (resv : Nat) : KeptR p (execDoorbellHead fn ring index resv s) := by
  unfold execDoorbellHead
  repeat' first | (with_reducible first | assumption | refine keptR_next ?_ | refine kept_ite.2 ⟨fun _ => ?_, fun _ => ?_⟩ | refine ringHead_keep ?_ ..) | dsimp only | split | (simp (maxDischargeDepth := 40) +contextual [kept_upd, *]; done)

@[simp] theorem adminEnable_keep (h : Kept p s) (fn : Nat) (v : Nat) : Kept p (adminEnable s fn v) := by
  unfold adminEnable
  repeat' first | with_reducible assumption | (extract_lets +onlyGivenNames t; refine kept_cut (q := Kept p t) ?_ fun ht => ?_; (on_goal 2 => clear_value t); on_goal 1 => (simp only [t]; try clear t)) | (extract_lets +onlyGivenNames t; clear_value t) | (with_reducible first | refine kept_ite.2 ⟨fun _ => ?_, fun _ => ?_⟩ | refine State.setFn_keep ?_ .. | refine startAdmin_keep ?_ ..) | dsimp only | split | (simp (maxDischargeDepth := 40) +contextual [kept_upd, *]; done)

@[simp] theorem clearEnable_keep (h : Kept p s) (fn : Nat) : Kept p (clearEnable s fn) := by
  unfold clearEnable
  repeat' first | with_reducible assumption | (extract_lets +onlyGivenNames t; refine kept_cut (q := Kept p t) ?_ fun ht => ?_; (on_goal 2 => clear_value t); on_goal 1 => (simp only [t]; try clear t)) | (extract_lets +onlyGivenNames t; clear_value t) | (with_reducible first | refine kept_ite.2 ⟨fun _ => ?_, fun _ => ?_⟩ | refine kept_foldl ?_ (fun _ _ _ => ?_) | refine State.setFn_keep ?_ .. | refine State.updRing_keep ?_ .. | refine destroyRing_keep ?_ .. | refine reap_keep ?_ ..) | dsimp only | split | (simp (maxDischargeDepth := 40) +contextual [kept_upd, *]; done)

theorem execAdminEnable_keep (h : Kept p s) (fn : Nat) (value : Nat) : KeptR p (execAdminEnable fn value s) := by
  unfold execAdminEnable
  repeat' first | (with_reducible first | assumption | refine keptR_next ?_ | refine kept_ite.2 ⟨fun _ => ?_, fun _ => ?_⟩ | refine adminEnable_keep ?_ ..) | dsimp only | split | (simp (maxDischargeDepth := 40) +contextual [kept_upd, *]; done)

@[simp] theorem adminDisable_keep (h : Kept p s) (fn : Nat) (v : Nat) : Kept p (adminDisable s fn v) := by
  unfold adminDisable
  repeat' first | with_reducible assumption | (extract_lets +onlyGivenNames t; refine kept_cut (q := Kept p t) ?_ fun ht => ?_; (on_goal 2 => clear_value t); on_goal 1 => (simp only [t]; try clear t)) | (extract_lets +onlyGivenNames t; clear_value t) | (with_reducible first | refine kept_ite.2 ⟨fun _ => ?_, fun _ => ?_⟩ | refine State.updFn_keep ?_ .. | refine clearEnable_keep ?_ ..) | dsimp only | split | (simp (maxDischargeDepth := 40) +contextual [kept_upd, *]; done)

theorem execAdminDisable_keep (h : Kept p s) (fn : Nat) (value : Nat) : KeptR p (execAdminDisable fn value s) := by
  unfold execAdminDisable
  repeat' first | (with_reducible first | assumption | refine keptR_next ?_ | refine kept_ite.2 ⟨fun _ => ?_, fun _ => ?_⟩ | refine adminDisable_keep ?_ ..) | dsimp only | split | (simp (maxDischargeDepth := 40) +contextual [kept_upd, *]; done)

@[simp] theorem writeMsix_keep (h : Kept p s) (fn : Nat) (word : Nat) (v : Nat) : Kept p (writeMsix s fn word v) := by
  unfold writeMsix
  repeat' first | with_reducible assumption | (extract_lets +onlyGivenNames t; refine kept_cut (q := Kept p t) ?_ fun ht => ?_; (on_goal 2 => clear_value t); on_goal 1 => (simp only [t]; try clear t)) | (extract_lets +onlyGivenNames t; clear_value t) | (with_reducible first | refine kept_ite.2 ⟨fun _ => ?_, fun _ => ?_⟩ | refine State.updFn_keep ?_ .. | refine sendIrq_keep ?_ ..) | dsimp only | split | (simp (maxDischargeDepth := 40) +contextual [kept_upd, *]; done)

@[simp] theorem writeBar0_keep (h : Kept p s) (fn : Nat) (o : Nat) (v : Nat) : Kept p (writeBar0 s fn o v) := by
  unfold writeBar0
  repeat' first | (with_reducible first | assumption | refine kept_ite.2 ⟨fun _ => ?_, fun _ => ?_⟩ | refine State.updErr_keep ?_ .. | refine writeMsix_keep ?_ ..) | dsimp only | split | (simp (maxDischargeDepth := 40) +contextual [kept_upd, *]; done)

@[simp] theorem writeBar2_keep (h : Kept p s) (fn : Nat) (o : Nat) (v : Nat) : Kept p (writeBar2 s fn o v) := by
  unfold writeBar2
  repeat' first | (with_reducible first | assumption | refine kept_ite.2 ⟨fun _ => ?_, fun _ => ?_⟩ | refine State.updFn_keep ?_ .. | refine adminDisable_keep ?_ .. | refine adminEnable_keep ?_ .. | refine ringTail_keep ?_ ..) | dsimp only | split | (simp (maxDischargeDepth := 40) +contextual [kept_upd, *]; done)

@[simp] theorem writeSsc_keep (h : Kept p s) (v : Nat) : Kept p (writeSsc s v) := by
  unfold writeSsc
  repeat' first | with_reducible assumption | (extract_lets +onlyGivenNames t; refine kept_cut (q := Kept p t) ?_ fun ht => ?_; (on_goal 2 => clear_value t); on_goal 1 => (simp only [t]; try clear t)) | (extract_lets +onlyGivenNames t; clear_value t) | (with_reducible first | refine kept_ite.2 ⟨fun _ => ?_, fun _ => ?_⟩ | refine State.updHost_keep ?_ ..) | dsimp only | split | (simp (maxDischargeDepth := 40) +contextual [kept_upd, *]; done)

@[simp] theorem writeClearCode_keep (h : Kept p s) (code : Nat) : Kept p (writeClearCode s code) := by
  unfold writeClearCode
  repeat' first | (with_reducible first | assumption | refine kept_ite.2 ⟨fun _ => ?_, fun _ => ?_⟩ | refine State.updLog_keep ?_ ..) | dsimp only | split | (simp (maxDischargeDepth := 40) +contextual [kept_upd, *]; done)

@[simp] theorem writeSmbus_keep (h : Kept p s) (cmd : Nat) (v : Nat) : Kept p (writeSmbus s cmd v) := by
  unfold writeSmbus
  repeat' first | (with_reducible first | assumption | refine State.updHost_keep ?_ .. | refine State.updPwr_keep ?_ .. | refine writeClearCode_keep ?_ .. | refine writeSsc_keep ?_ ..) | dsimp only | split | (simp (maxDischargeDepth := 40) +contextual [kept_upd, *]; done)

theorem execRegisterWrite_keep (h : Kept p s) (t : RegTarget) (value : Nat) : KeptR p (execRegisterWrite t value s) := by
  unfold execRegisterWrite
  repeat' first | (with_reducible first | assumption | refine keptR_next ?_ | refine kept_ite.2 ⟨fun _ => ?_, fun _ => ?_⟩ | refine writeBar0_keep ?_ .. | refine writeBar2_keep ?_ .. | refine writeSmbus_keep ?_ ..) | dsimp only | split | (simp (maxDischargeDepth := 40) +contextual [kept_upd, *]; done)

theorem execSscCfgWrite_keep (h : Kept p s) (value : Nat) : KeptR p (execSscCfgWrite value s) := by
  unfold execSscCfgWrite
  repeat' first | (with_reducible first | assumption | refine keptR_next ?_ | refine kept_ite.2 ⟨fun _ => ?_, fun _ => ?_⟩ | refine writeSsc_keep ?_ ..) | dsimp only | split | (simp (maxDischargeDepth := 40) +contextual [kept_upd, *]; done)

theorem execClearCodeWrite_keep (h : Kept p s) (code : Nat) : KeptR p (execClearCodeWrite code s) := by
  unfold execClearCodeWrite
  repeat' first | (with_reducible first | assumption | refine keptR_next ?_ | refine kept_ite.2 ⟨fun _ => ?_, fun _ => ?_⟩ | refine writeClearCode_keep ?_ ..) | dsimp only | split | (simp (maxDischargeDepth := 40) +contextual [kept_upd, *]; done)

theorem execLowHalfRead_keep (h : Kept p s) (fn : Nat) (offset : Nat) : KeptR p (execLowHalfRead fn offset s) := by
  unfold execLowHalfRead
  repeat' first | (with_reducible first | assumption | refine keptR_next ?_) | (extract_lets +onlyGivenNames t; refine kept_cut (q := Kept p t) ?_ fun ht => ?_; (on_goal 2 => clear_value t); on_goal 1 => (simp only [t]; try clear t)) | (extract_lets +onlyGivenNames t; clear_value t) | (with_reducible first | refine kept_ite.2 ⟨fun _ => ?_, fun _ => ?_⟩ | refine State.reply_keep ?_ .. | refine State.updFn_keep ?_ ..) | dsimp only | split | (simp (maxDischargeDepth := 40) +contextual [kept_upd, *]; done)

theorem execHighHalfRead_keep (h : Kept p s) (fn : Nat) (offset : Nat) : KeptR p (execHighHalfRead fn offset s) := by
  unfold execHighHalfRead
  repeat' first | (with_reducible first | assumption | refine keptR_next ?_) | (extract_lets +onlyGivenNames t; refine kept_cut (q := Kept p t) ?_ fun ht => ?_; (on_goal 2 => clear_value t); on_goal 1 => (simp only [t]; try clear t)) | (extract_lets +onlyGivenNames t; clear_value t) | (with_reducible first | refine kept_ite.2 ⟨fun _ => ?_, fun _ => ?_⟩ | refine State.reply_keep ?_ ..) | dsimp only | split | (simp (maxDischargeDepth := 40) +contextual [kept_upd, *]; done)

@[simp] theorem resetFn_keep (h : Kept p s) (vf : Nat) : Kept p (resetFn s vf) := by
  unfold resetFn
  repeat' first | with_reducible assumption | (extract_lets +onlyGivenNames t; refine kept_cut (q := Kept p t) ?_ fun ht => ?_; (on_goal 2 => clear_value t); on_goal 1 => (simp only [t]; try clear t)) | (extract_lets +onlyGivenNames t; clear_value t) | (with_reducible first | refine kept_ite.2 ⟨fun _ => ?_, fun _ => ?_⟩ | refine State.updFn_keep ?_ .. | refine clearEnable_keep ?_ ..) | dsimp only | split | (simp (maxDischargeDepth := 40) +contextual [kept_upd, *]; done)

theorem execFlr_keep (h : Kept p s) (vf : Nat) : KeptR p (execFlr vf s) := by
  unfold execFlr
  repeat' first | (with_reducible first | assumption | refine keptR_next ?_ | refine kept_ite.2 ⟨fun _ => ?_, fun _ => ?_⟩ | refine resetFn_keep ?_ ..) | dsimp only | split | (simp (maxDischargeDepth := 40) +contextual [kept_upd, *]; done)

@[simp] theorem setVfs_keep (h : Kept p s) (n : Nat) : Kept p (setVfs s n) := by
  unfold setVfs
  repeat' first | with_reducible assumption | (extract_lets +onlyGivenNames t; refine kept_cut (q := Kept p t) ?_ fun ht => ?_; (on_goal 2 => clear_value t); on_goal 1 => (simp only [t]; try clear t)) | (extract_lets +onlyGivenNames t; clear_value t) | (with_reducible first | refine kept_ite.2 ⟨fun _ => ?_, fun _ => ?_⟩ | refine kept_foldl ?_ (fun _ _ _ => ?_) | refine State.updFn_keep ?_ .. | refine resetFn_keep ?_ ..) | dsimp only | split | (simp (maxDischargeDepth := 40) +contextual [kept_upd, *]; done)

theorem execConfigRequest_keep (h : Kept p s) (fn : Nat) (op : CfgOp) : KeptR p (execConfigRequest fn op s) := by
  unfold execConfigRequest
  repeat' first | (with_reducible first | assumption | refine keptR_next ?_ | refine kept_ite.2 ⟨fun _ => ?_, fun _ => ?_⟩ | refine State.reply_keep ?_ .. | refine State.updHost_keep ?_ .. | refine setVfs_keep ?_ ..) | dsimp only | split | (simp (maxDischargeDepth := 40) +contextual [kept_upd, *]; done)

theorem execSmbusRefresh_keep (h : Kept p s)  : KeptR p (execSmbusRefresh s) := by
  unfold execSmbusRefresh
  repeat' first | (with_reducible first | assumption | refine keptR_next ?_ | refine kept_ite.2 ⟨fun _ => ?_, fun _ => ?_⟩ | refine kept_foldl ?_ (fun _ _ _ => ?_) | refine State.updHost_keep ?_ ..) | dsimp only | split | (simp (maxDischargeDepth := 40) +contextual [kept_upd, *]; done)

theorem execHostLinkRetrain_keep (h : Kept p s) (rate : Nat) (width : Nat) (cause : Nat) : KeptR p (execHostLinkRetrain rate width cause s) := by
  unfold execHostLinkRetrain
  repeat' first | (with_reducible first | assumption | refine keptR_next ?_) | (extract_lets +onlyGivenNames t; refine kept_cut (q := Kept p t) ?_ fun ht => ?_; (on_goal 2 => clear_value t); on_goal 1 => (simp only [t]; try clear t)) | (extract_lets +onlyGivenNames t; clear_value t) | (with_reducible first | refine kept_ite.2 ⟨fun _ => ?_, fun _ => ?_⟩ | refine State.updHost_keep ?_ .. | refine logEvent_keep ?_ ..) | dsimp only | split | (simp (maxDischargeDepth := 40) +contextual [kept_upd, *]; done)

end Sys2Proof.Machine
end

