-- ==== Sys2Proof/Laws/Keep/Device.lean ====
section
/-! SUPPORT. What every operation of Machine/Device.lean keeps. -/

namespace Sys2Proof.Machine

set_option linter.all false

variable {p : List Instr} {s : State}

@[simp] theorem keepGib_keep (h : Kept p s) (gib : Nat) : Kept p (keepGib s gib) := by
  unfold keepGib
  repeat' first | (with_reducible first | assumption | refine kept_ite.2 ⟨fun _ => ?_, fun _ => ?_⟩) | ((with_reducible refine State.updKv_keep ?_ _ ?_); on_goal 2 => exact id) | ((with_reducible refine State.updKv_keep ?_ _ ?_); on_goal 2 => exact fun _ => rfl) | ((with_reducible refine State.updKv_keep ?_ _ ?_); on_goal 2 => (simp (maxDischargeDepth := 40) +contextual [*]; done)) | ((with_reducible refine State.updKv_keep ?_ _ ?_); on_goal 2 => (intro hm; dsimp only; (repeat' split) <;> simp_all (maxDischargeDepth := 40); done)) | dsimp only | split | (simp (maxDischargeDepth := 40) +contextual [kept_upd, *]; done)

@[simp] theorem endLeave_keep (h : Kept p s) (c : Cmd) : Kept p (endLeave s c) := by
  unfold endLeave
  repeat' first | (with_reducible first | assumption | refine kept_ite.2 ⟨fun _ => ?_, fun _ => ?_⟩ | refine finish_keep ?_ .. | refine keepGib_keep ?_ .. | refine toMaintenance_keep ?_ ..) | dsimp only | split | (simp (maxDischargeDepth := 40) +contextual [kept_upd, *]; done)

@[simp] theorem stateSet_keep (h : Kept p s) (c : Cmd) : Kept p (stateSet s c) := by
  unfold stateSet
  repeat' first | (with_reducible first | assumption) | (extract_lets +onlyGivenNames t; refine kept_cut (q := Kept p t) ?_ fun ht => ?_; (on_goal 2 => clear_value t); on_goal 1 => (simp only [t]; try clear t)) | (extract_lets +onlyGivenNames t; clear_value t) | (with_reducible first | refine kept_ite.2 ⟨fun _ => ?_, fun _ => ?_⟩ | refine applyLayout_keep ?_ .. | refine endLeave_keep ?_ .. | refine finish_keep ?_ .. | refine goState_keep ?_ .. | refine keepGib_keep ?_ .. | refine leaveL0_keep ?_ .. | refine putCmd_keep ?_ .. | refine State.updDev_keep ?_ ..) | dsimp only | (simp only [kept_mk_iff]; with_reducible refine kept_upd' ?_ (by simp (maxDischargeDepth := 40) +contextual)) | split | (simp (maxDischargeDepth := 40) +contextual [kept_upd, *]; done)

theorem execStateSet_keep (h : Kept p s) (ring : Nat) (seq : Nat) : KeptR p (execStateSet ring seq s) := by
  unfold execStateSet
  repeat' first | (with_reducible first | assumption | refine keptR_next ?_) | ((with_reducible refine onReady_keep ?_ _ _ _ _ (fun _ => ?_)); on_goal 2 => beta_reduce) | with_reducible refine stateSet_keep ?_ .. | dsimp only | (simp (maxDischargeDepth := 40) +contextual [kept_upd, *]; done)

theorem execWake_keep (h : Kept p s)  : KeptR p (execWake s) := by
  unfold execWake
  repeat' first | (with_reducible first | assumption | refine keptR_next ?_) | (extract_lets +onlyGivenNames t; refine kept_cut (q := Kept p t) ?_ fun ht => ?_; (on_goal 2 => clear_value t); on_goal 1 => (simp only [t]; try clear t)) | (extract_lets +onlyGivenNames t; clear_value t) | (with_reducible first | refine kept_ite.2 ⟨fun _ => ?_, fun _ => ?_⟩ | refine State.updDev_keep ?_ .. | refine goState_keep ?_ ..) | dsimp only | (simp only [kept_mk_iff]; with_reducible refine kept_upd' ?_ (by simp (maxDischargeDepth := 40) +contextual)) | split | (simp (maxDischargeDepth := 40) +contextual [kept_upd, *]; done)

@[simp] theorem endPower_keep (h : Kept p s) (c : Cmd) : Kept p (endPower s c) := by
  unfold endPower
  repeat' first | (with_reducible first | assumption) | (with_reducible first | refine kept_ite.2 ⟨fun _ => ?_, fun _ => ?_⟩ | refine beginDown_keep ?_ .. | refine finish_keep ?_ .. | refine flushLog_keep ?_ .. | refine raiseAll_keep ?_ .. | refine State.updPwr_keep ?_ ..) | dsimp only | (simp only [kept_mk_iff]; with_reducible refine kept_upd' ?_ (by simp (maxDischargeDepth := 40) +contextual)) | split | (simp (maxDischargeDepth := 40) +contextual [kept_upd, *]; done)

theorem execPowerDown_keep (h : Kept p s) (ring : Nat) (seq : Nat) : KeptR p (execPowerDown ring seq s) := by
  unfold execPowerDown
  repeat' first | (with_reducible first | assumption | refine keptR_next ?_) | (extract_lets +onlyGivenNames t; refine kept_cut (q := Kept p t) ?_ fun ht => ?_; (on_goal 2 => clear_value t); on_goal 1 => (simp only [t]; try clear t)) | (extract_lets +onlyGivenNames t; clear_value t) | (with_reducible first | refine kept_ite.2 ⟨fun _ => ?_, fun _ => ?_⟩ | refine endPower_keep ?_ .. | refine finish_keep ?_ ..) | ((with_reducible refine onReady_keep ?_ _ _ _ _ (fun _ => ?_)); on_goal 2 => beta_reduce) | with_reducible refine putCmd_keep ?_ .. | dsimp only | (simp only [kept_mk_iff]; with_reducible refine kept_upd' ?_ (by simp (maxDischargeDepth := 40) +contextual)) | split | (simp (maxDischargeDepth := 40) +contextual [kept_upd, *]; done)

@[simp] theorem refreshed_keep (h : Kept p s) (t : Cmd) : Kept p (refreshed s t).1 := by
  unfold refreshed
  repeat' first | with_reducible assumption | (extract_lets +onlyGivenNames t; refine kept_cut (q := Kept p t) ?_ fun ht => ?_; (on_goal 2 => clear_value t); on_goal 1 => (simp only [t]; try clear t)) | (extract_lets +onlyGivenNames t; clear_value t) | (with_reducible first | refine kept_ite.2 ⟨fun _ => ?_, fun _ => ?_⟩ | refine refreshCal_keep ?_ ..) | dsimp only | split | (simp (maxDischargeDepth := 40) +contextual [kept_upd, *]; done)

theorem refreshed_keep' (h : Kept p s) {t : Cmd} {t' : State} {x} (e : refreshed s t = (t', x)) : Kept p t' := by
  have := refreshed_keep h t
  rw [e] at this; exact this

theorem execOpProgress_keep (h : Kept p s) (ring : Nat) (seq : Nat) : KeptR p (execOpProgress ring seq s) := by
  unfold execOpProgress
  repeat' first | (with_reducible first | assumption | refine keptR_next ?_) | (extract_lets +onlyGivenNames t; refine kept_cut (q := Kept p t) ?_ fun ht => ?_; (on_goal 2 => clear_value t); on_goal 1 => (simp only [t]; try clear t)) | (extract_lets +onlyGivenNames t; clear_value t) | with_reducible refine finish_keep ?_ .. | ((with_reducible refine onReady_keep ?_ _ _ _ _ (fun _ => ?_)); on_goal 2 => beta_reduce) | (with_reducible first | refine putCmd_keep ?_ .. | refine refreshed_keep ?_ .. | refine refreshed_keep' (e := by with_reducible assumption) ?_) | dsimp only | split | (simp (maxDischargeDepth := 40) +contextual [kept_upd, *]; done)

@[simp] theorem abortOp_keep (h : Kept p s) (t : Cmd) : Kept p (abortOp s t) := by
  unfold abortOp
  repeat' first | (with_reducible first | assumption | refine hf1 _ ?_ | refine hf2 _ _ ?_ | refine hf3 _ _ _ ?_) | (extract_lets +onlyGivenNames t; refine kept_cut (q := Kept p t) ?_ fun ht => ?_; (on_goal 2 => clear_value t); on_goal 1 => (simp only [t]; try clear t)) | (extract_lets +onlyGivenNames t; refine kept_cut (q := ∀ x : State, Kept p x → Kept p (t x)) ?_ fun hf1 => ?_; (on_goal 2 => clear_value t); on_goal 1 => (simp only [t]; try clear t; intro _ _)) | (extract_lets +onlyGivenNames t; refine kept_cut (q := ∀ (x : State) y, Kept p x → Kept p (t x y)) ?_ fun hf2 => ?_; (on_goal 2 => clear_value t); on_goal 1 => (simp only [t]; try clear t; intro _ _ _)) | (extract_lets +onlyGivenNames t; refine kept_cut (q := ∀ x, Kept p (t x)) ?_ fun hf6 => ?_; (on_goal 2 => clear_value t); on_goal 1 => (simp only [t]; try clear t; intro _)) | with_reducible refine hf6 _ | (extract_lets +onlyGivenNames t; refine kept_cut (q := ∀ x : State, Kept p x → Kept p (t x).2) ?_ fun hf4 => ?_; (on_goal 2 => clear_value t); on_goal 1 => (simp only [t]; try clear t; intro _ _)) | with_reducible refine hf4 _ ?_ | (extract_lets +onlyGivenNames t; refine kept_cut (q := ∀ x : State, Kept p x → Kept p (t x).1) ?_ fun hf5 => ?_; (on_goal 2 => clear_value t); on_goal 1 => (simp only [t]; try clear t; intro _ _)) | with_reducible refine hf5 _ ?_ | (extract_lets +onlyGivenNames t; clear_value t) | (with_reducible first | refine kept_ite.2 ⟨fun _ => ?_, fun _ => ?_⟩ | refine abortAdopt_keep ?_ .. | refine abortCal_keep ?_ .. | refine abortTest_keep ?_ .. | refine finish_keep ?_ .. | refine putCmd_keep ?_ .. | refine withdrawn_keep ?_ ..) | dsimp only | with_reducible refine kept_elim ?_ fun _ => ?_ | (simp only [kept_mk_iff]; with_reducible refine kept_upd' ?_ (by simp (maxDischargeDepth := 40) +contextual)) | split | (simp (maxDischargeDepth := 40) +contextual [kept_upd, *]; done)

@[simp] theorem endAbort_keep (h : Kept p s) (c : Cmd) : Kept p (endAbort s c) := by
  unfold endAbort
  repeat' first | (with_reducible first | assumption | refine kept_ite.2 ⟨fun _ => ?_, fun _ => ?_⟩ | refine finish_keep ?_ ..) | dsimp only | split | (simp (maxDischargeDepth := 40) +contextual [kept_upd, *]; done)

theorem execOpAbort_keep (h : Kept p s) (ring : Nat) (seq : Nat) : KeptR p (execOpAbort ring seq s) := by
  unfold execOpAbort
  repeat' first | (with_reducible first | assumption | refine keptR_next ?_) | (extract_lets +onlyGivenNames t; refine kept_cut (q := Kept p t) ?_ fun ht => ?_; (on_goal 2 => clear_value t); on_goal 1 => (simp only [t]; try clear t)) | (extract_lets +onlyGivenNames t; clear_value t) | (with_reducible first | refine abortOp_keep ?_ .. | refine endAbort_keep ?_ .. | refine finish_keep ?_ ..) | ((with_reducible refine onReady_keep ?_ _ _ _ _ (fun _ => ?_)); on_goal 2 => beta_reduce) | (with_reducible first | refine putCmd_keep ?_ .. | refine refreshed_keep ?_ .. | refine refreshed_keep' (e := by with_reducible assumption) ?_) | dsimp only | split | (simp (maxDischargeDepth := 40) +contextual [kept_upd, *]; done)

theorem execOutstandingDrained_keep (h : Kept p s) (ring : Nat) (seq : Nat) : KeptR p (execOutstandingDrained ring seq s) := by
  unfold execOutstandingDrained
  repeat' first | (with_reducible first | assumption | refine keptR_next ?_) | (with_reducible first | refine kept_ite.2 ⟨fun _ => ?_, fun _ => ?_⟩ | refine endAbort_keep ?_ .. | refine endDestroy_keep ?_ .. | refine endGoodbye_keep ?_ .. | refine endLeave_keep ?_ .. | refine endPower_keep ?_ ..) | ((with_reducible refine settle_keep ?_ _) <;> try beta_reduce) | dsimp only | (simp only [kept_mk_iff]; with_reducible refine kept_upd' ?_ (by simp (maxDischargeDepth := 40) +contextual)) | split | (simp (maxDischargeDepth := 40) +contextual [kept_upd, *]; done)

theorem execTraceStart_keep (h : Kept p s) (ring : Nat) (seq : Nat) : KeptR p (execTraceStart ring seq s) := by
  unfold execTraceStart
  repeat' first | (with_reducible first | assumption | refine keptR_next ?_ | refine kept_ite.2 ⟨fun _ => ?_, fun _ => ?_⟩ | refine State.updFn_keep ?_ .. | refine finish_keep ?_ ..) | ((with_reducible refine onReady_keep ?_ _ _ _ _ (fun _ => ?_)); on_goal 2 => beta_reduce) | dsimp only | split | (simp (maxDischargeDepth := 40) +contextual [kept_upd, *]; done)

theorem execTraceStop_keep (h : Kept p s) (ring : Nat) (seq : Nat) : KeptR p (execTraceStop ring seq s) := by
  unfold execTraceStop
  repeat' first | (with_reducible first | assumption | refine keptR_next ?_) | (extract_lets +onlyGivenNames t; refine kept_cut (q := Kept p t) ?_ fun ht => ?_; (on_goal 2 => clear_value t); on_goal 1 => (simp only [t]; try clear t)) | (extract_lets +onlyGivenNames t; clear_value t) | (with_reducible first | refine kept_ite.2 ⟨fun _ => ?_, fun _ => ?_⟩ | refine State.updFn_keep ?_ .. | refine finish_keep ?_ .. | refine finishW_keep ?_ ..) | ((with_reducible refine onReady_keep ?_ _ _ _ _ (fun _ => ?_)); on_goal 2 => beta_reduce) | dsimp only | split | (simp (maxDischargeDepth := 40) +contextual [kept_upd, *]; done)

theorem execRecordStart_keep (h : Kept p s) (ring : Nat) (seq : Nat) : KeptR p (execRecordStart ring seq s) := by
  unfold execRecordStart
  repeat' first | (with_reducible first | assumption | refine keptR_next ?_) | (extract_lets +onlyGivenNames t; refine kept_cut (q := Kept p t) ?_ fun ht => ?_; (on_goal 2 => clear_value t); on_goal 1 => (simp only [t]; try clear t)) | (extract_lets +onlyGivenNames t; clear_value t) | (with_reducible first | refine kept_ite.2 ⟨fun _ => ?_, fun _ => ?_⟩ | refine State.hostWrite_keep ?_ .. | refine State.updCtx_keep ?_ .. | refine finish_keep ?_ .. | refine onCtx_keep ?_ _ _ (fun _ => ?_)) | ((with_reducible refine onReady_keep ?_ _ _ _ _ (fun _ => ?_)); on_goal 2 => beta_reduce) | dsimp only | split | (simp (maxDischargeDepth := 40) +contextual [kept_upd, *]; done)

theorem execRecordStop_keep (h : Kept p s) (ring : Nat) (seq : Nat) : KeptR p (execRecordStop ring seq s) := by
  unfold execRecordStop
  repeat' first | (with_reducible first | assumption | refine keptR_next ?_) | (extract_lets +onlyGivenNames t; refine kept_cut (q := Kept p t) ?_ fun ht => ?_; (on_goal 2 => clear_value t); on_goal 1 => (simp only [t]; try clear t)) | (extract_lets +onlyGivenNames t; clear_value t) | (with_reducible first | refine State.hostWrite_keep ?_ .. | refine State.updCtx_keep ?_ .. | refine finish_keep ?_ .. | refine onCtx_keep ?_ _ _ (fun _ => ?_)) | ((with_reducible refine onReady_keep ?_ _ _ _ _ (fun _ => ?_)); on_goal 2 => beta_reduce) | dsimp only | split | (simp (maxDischargeDepth := 40) +contextual [kept_upd, *]; done)

@[simp] theorem setSlot_keep (h : Kept p s) (i : Nat) (f : FwSlot) : Kept p (setSlot s i f) := by
  unfold setSlot
  repeat' first | (with_reducible first | assumption | refine kept_ite.2 ⟨fun _ => ?_, fun _ => ?_⟩ | refine State.updDev_keep ?_ ..) | dsimp only | split | (simp (maxDischargeDepth := 40) +contextual [kept_upd, *]; done)

theorem execFwStage_keep (h : Kept p s) (ring : Nat) (seq : Nat) : KeptR p (execFwStage ring seq s) := by
  unfold execFwStage
  repeat' first | (with_reducible first | assumption | refine keptR_next ?_) | (extract_lets +onlyGivenNames t; refine kept_cut (q := Kept p t) ?_ fun ht => ?_; (on_goal 2 => clear_value t); on_goal 1 => (simp only [t]; try clear t)) | (extract_lets +onlyGivenNames t; clear_value t) | (with_reducible first | refine kept_ite.2 ⟨fun _ => ?_, fun _ => ?_⟩ | refine State.draw_keep ?_ .. | refine State.draw_keep' (e := by with_reducible assumption) ?_ | refine State.updDev_keep ?_ .. | refine acceptLong_keep ?_ .. | refine badParam_keep ?_ .. | refine finish_keep ?_ .. | refine logSigFail_keep ?_ ..) | ((with_reducible refine onLong_keep ?_ _ _ _ _ _ (fun _ => ?_) (fun _ => ?_)) <;> try beta_reduce) | with_reducible refine setSlot_keep ?_ .. | dsimp only | (with_reducible first | exact keptO_none | refine keptO_some ?_) | split | (simp (maxDischargeDepth := 40) +contextual [kept_upd, *]; done)

@[simp] theorem restartFw_keep (h : Kept p s)  : Kept p (restartFw s) := by
  unfold restartFw
  repeat' first | with_reducible assumption | (extract_lets +onlyGivenNames t; refine kept_cut (q := Kept p t) ?_ fun ht => ?_; (on_goal 2 => clear_value t); on_goal 1 => (simp only [t]; try clear t)) | (extract_lets +onlyGivenNames t; clear_value t) | (with_reducible first | refine applySsc_keep ?_ .. | refine bootState_keep ?_ .. | refine goState_keep ?_ ..) | dsimp only | (simp (maxDischargeDepth := 40) +contextual [kept_upd, *]; done)

theorem execFwActivate_keep (h : Kept p s) (ring : Nat) (seq : Nat) : KeptR p (execFwActivate ring seq s) := by
  unfold execFwActivate
  repeat' first | (with_reducible first | assumption | refine keptR_next ?_) | (extract_lets +onlyGivenNames t; refine kept_cut (q := Kept p t) ?_ fun ht => ?_; (on_goal 2 => clear_value t); on_goal 1 => (simp only [t]; try clear t)) | (extract_lets +onlyGivenNames t; clear_value t) | (with_reducible first | refine kept_ite.2 ⟨fun _ => ?_, fun _ => ?_⟩ | refine finish_keep ?_ .. | refine raiseAll_keep ?_ .. | refine restartFw_keep ?_ .. | refine State.updDev_keep ?_ ..) | ((with_reducible refine onReady_keep ?_ _ _ _ _ (fun _ => ?_)) <;> try beta_reduce) | dsimp only | (simp only [kept_mk_iff]; with_reducible refine kept_upd' ?_ (by simp (maxDischargeDepth := 40) +contextual)) | split | (simp (maxDischargeDepth := 40) +contextual [kept_upd, *]; done)

end Sys2Proof.Machine
end

