-- ==== Sys2Proof/Laws/Keep/Replay.lean ====
section
/-! SUPPORT. What every operation of Machine/Replay.lean keeps. -/

namespace Sys2Proof.Machine

set_option linter.all false

variable {p : List Instr} {s : State}

theorem execReplay_keep (h : Kept p s) (ring : Nat) (seq : Nat) : KeptR p (execReplay ring seq s) := by
  unfold execReplay
  repeat' first | (with_reducible first | assumption | refine keptR_next ?_) | (extract_lets +onlyGivenNames t; refine kept_cut (q := Kept p t) ?_ fun ht => ?_; (on_goal 2 => clear_value t); on_goal 1 => (simp only [t]; try clear t)) | (extract_lets +onlyGivenNames t; clear_value t) | (with_reducible first | refine kept_ite.2 ⟨fun _ => ?_, fun _ => ?_⟩ | refine State.updCtx_keep ?_ .. | refine badParam_keep ?_ .. | refine finish_keep ?_ .. | refine onCtx_keep ?_ _ _ (fun _ => ?_)) | ((with_reducible refine onReady_keep ?_ _ _ _ _ (fun _ => ?_)); on_goal 2 => beta_reduce) | with_reducible refine putCmd_keep ?_ .. | dsimp only | split | (simp (maxDischargeDepth := 40) +contextual [kept_upd, *]; done)

@[simp] theorem updReplay_keep (h : Kept p s) (ctx : Nat) (f : Replay → Replay) : Kept p (updReplay s ctx f) := by
  unfold updReplay
  repeat' first | (with_reducible first | assumption | refine State.updCtx_keep ?_ ..) | dsimp only | (simp (maxDischargeDepth := 40) +contextual [kept_upd, *]; done)

@[simp] theorem endReplay_keep (h : Kept p s) (ctx : Nat) (r : Replay) (o : List Byte × Nat) : Kept p (endReplay s ctx r o) := by
  unfold endReplay
  repeat' first | (with_reducible first | assumption) | (extract_lets +onlyGivenNames t; refine kept_cut (q := Kept p t) ?_ fun ht => ?_; (on_goal 2 => clear_value t); on_goal 1 => (simp only [t]; try clear t)) | (extract_lets +onlyGivenNames t; clear_value t) | (with_reducible first | refine kept_foldl ?_ (fun _ _ _ => ?_) | refine kept_foldl_mid ?_ (fun _ _ _ => ?_) | refine kept_foldl_fst ?_ (fun _ _ _ => ?_) | refine finish_keep ?_ .. | refine State.hostWrite_keep ?_ .. | refine State.updCtx_keep ?_ ..) | ((with_reducible refine cancelReq_keep ?_ _ _) <;> try beta_reduce) | dsimp only | (simp only [kept_mk_iff]; with_reducible refine kept_upd' ?_ (by simp (maxDischargeDepth := 40) +contextual)) | split | (simp (maxDischargeDepth := 40) +contextual [kept_upd, *]; done)

theorem after_keep (h : Kept p s) (o : Host.Outcome State Fault Refusal) (ho : KeptR p o) : Kept p (after s o) := by
  unfold after
  split
  · exact ho _ rfl
  · exact h

@[simp] theorem runOpc_keep (h : Kept p s) (opc : Nat) (ring : Nat) (seq : Nat) : Kept p (runOpc opc ring seq s) := by
  unfold runOpc
  repeat' first | (with_reducible first | assumption) | (with_reducible first | refine execCtxLoad_keep ?_ .. | refine execPanelRead_keep ?_ .. | refine execPanelWrite_keep ?_ .. | refine execPrefixPin_keep ?_ .. | refine execPrefixRelease_keep ?_ .. | refine execReqAppend_keep ?_ .. | refine execReqCancel_keep ?_ .. | refine execReqClose_keep ?_ .. | refine execReqOpen_keep ?_ .. | refine execReqQuery_keep ?_ .. | refine execReqStep_keep ?_ .. | refine execReqVerify_keep ?_ .. | refine execTableLoad_keep ?_ .. | refine execTableUpdate_keep ?_ .. | refine execVariantDrop_keep ?_ .. | refine execVariantLoad_keep ?_ ..) | ((with_reducible refine after_keep ?_ _ ?_) <;> try beta_reduce) | dsimp only | split | (simp (maxDischargeDepth := 40) +contextual [kept_upd, *]; done)

@[simp] theorem reissue_keep (h : Kept p s) (ctx : Nat) (x : Ctx) (r : Replay) (e : Nat × RepRec) : Kept p (reissue s ctx x r e) := by
  unfold reissue
  repeat' first | (with_reducible first | assumption) | (extract_lets +onlyGivenNames t; refine kept_cut (q := Kept p t) ?_ fun ht => ?_; (on_goal 2 => clear_value t); on_goal 1 => (simp only [t]; try clear t)) | (extract_lets +onlyGivenNames t; clear_value t) | (with_reducible first | refine kept_ite.2 ⟨fun _ => ?_, fun _ => ?_⟩ | refine kept_foldl ?_ (fun _ _ _ => ?_) | refine kept_foldl_mid ?_ (fun _ _ _ => ?_) | refine kept_foldl_fst ?_ (fun _ _ _ => ?_) | refine addCmd_keep ?_ .. | refine applyUpd_keep ?_ .. | refine runOpc_keep ?_ .. | refine updReplay_keep ?_ .. | refine State.updCtx_keep ?_ ..) | dsimp only | with_reducible refine kept_elim ?_ fun _ => ?_ | (simp only [kept_mk_iff]; with_reducible refine kept_upd' ?_ (by simp (maxDischargeDepth := 40) +contextual)) | split | (simp (maxDischargeDepth := 40) +contextual [kept_upd, *]; done)

@[simp] theorem reissueDue_keep (ctx n : Nat) {s : State} (h : Kept p s) : Kept p (reissueDue ctx n s) := by
  induction n generalizing s with
  | zero => exact h
  | succ n ih =>
    unfold reissueDue
    split
    · extract_lets t
      have ht : Kept p t := runOpc_keep h ..
      clear_value t
      split
      · exact ht
      · exact ih ht
    · split
      · exact h
      · split
        · exact h
        · split
          · exact h
          · split
            · exact ih (reissue_keep h ..)
            · exact h

@[simp] theorem replayDispatch_keep (h : Kept p s) (ctx : Nat) : Kept p (replayDispatch s ctx) := by
  unfold replayDispatch
  repeat' first | (with_reducible first | assumption | refine hf1 _ ?_ | refine hf2 _ _ ?_ | refine hf3 _ _ _ ?_) | (extract_lets +onlyGivenNames t; refine kept_cut (q := Kept p t) ?_ fun ht => ?_; (on_goal 2 => clear_value t); on_goal 1 => (simp only [t]; try clear t)) | (extract_lets +onlyGivenNames t; refine kept_cut (q := ∀ x : State, Kept p x → Kept p (t x)) ?_ fun hf1 => ?_; (on_goal 2 => clear_value t); on_goal 1 => (simp only [t]; try clear t; intro _ _)) | (extract_lets +onlyGivenNames t; refine kept_cut (q := ∀ (x : State) y, Kept p x → Kept p (t x y)) ?_ fun hf2 => ?_; (on_goal 2 => clear_value t); on_goal 1 => (simp only [t]; try clear t; intro _ _ _)) | (extract_lets +onlyGivenNames t; refine kept_cut (q := ∀ x, Kept p (t x)) ?_ fun hf6 => ?_; (on_goal 2 => clear_value t); on_goal 1 => (simp only [t]; try clear t; intro _)) | with_reducible refine hf6 _ | (extract_lets +onlyGivenNames t; refine kept_cut (q := ∀ x : State, Kept p x → Kept p (t x).2) ?_ fun hf4 => ?_; (on_goal 2 => clear_value t); on_goal 1 => (simp only [t]; try clear t; intro _ _)) | with_reducible refine hf4 _ ?_ | (extract_lets +onlyGivenNames t; refine kept_cut (q := ∀ x : State, Kept p x → Kept p (t x).1) ?_ fun hf5 => ?_; (on_goal 2 => clear_value t); on_goal 1 => (simp only [t]; try clear t; intro _ _)) | with_reducible refine hf5 _ ?_ | (extract_lets +onlyGivenNames t; clear_value t) | (with_reducible first | refine kept_ite.2 ⟨fun _ => ?_, fun _ => ?_⟩ | refine countDefers_keep ?_ .. | refine tryPicks_keep ?_ .. | refine updReplay_keep ?_ .. | refine State.fresh_keep ?_ .. | refine State.fresh_keep' (e := by with_reducible assumption) ?_) | dsimp only | with_reducible refine kept_elim ?_ fun _ => ?_ | (simp only [kept_mk_iff]; with_reducible refine kept_upd' ?_ (by simp (maxDischargeDepth := 40) +contextual)) | split | (simp (maxDischargeDepth := 40) +contextual [kept_upd, *]; done)

@[simp] theorem replayBoundary_keep (h : Kept p s) (ctx : Nat) (x : Ctx) (r : Replay) : Kept p (replayBoundary s ctx x r) := by
  unfold replayBoundary
  repeat' first | with_reducible assumption | (extract_lets +onlyGivenNames t; refine kept_cut (q := Kept p t) ?_ fun ht => ?_; (on_goal 2 => clear_value t); on_goal 1 => (simp only [t]; try clear t)) | (extract_lets +onlyGivenNames t; clear_value t) | (with_reducible first | refine kept_ite.2 ⟨fun _ => ?_, fun _ => ?_⟩ | refine endReplay_keep ?_ .. | refine reissueDue_keep _ _ ?_ | refine replayDispatch_keep ?_ .. | refine updReplay_keep ?_ ..) | dsimp only | split | (simp (maxDischargeDepth := 40) +contextual [kept_upd, *]; done)

@[simp] theorem memberBoundary_keep (h : Kept p s) (ctx : Nat) (x : Ctx) : Kept p (memberBoundary s ctx x) := by
  unfold memberBoundary
  repeat' first | with_reducible assumption | (extract_lets +onlyGivenNames t; refine kept_cut (q := Kept p t) ?_ fun ht => ?_; (on_goal 2 => clear_value t); on_goal 1 => (simp only [t]; try clear t)) | (extract_lets +onlyGivenNames t; clear_value t) | (with_reducible first | refine kept_ite.2 ⟨fun _ => ?_, fun _ => ?_⟩ | refine State.updCtx_keep ?_ .. | refine State.updServe_keep ?_ .. | refine giveBack_keep ?_ .. | refine spendBound_keep ?_ .. | refine takeAll_keep' ?_ (e := by with_reducible assumption) | refine takeAll_keep' (e := by with_reducible assumption) ?_ | refine trySendDone_keep ?_ .. | refine updStep_keep ?_ ..) | dsimp only | with_reducible refine kept_elim ?_ fun _ => ?_ | split | (simp (maxDischargeDepth := 40) +contextual [kept_upd, *]; done)

@[simp] theorem ctxBoundary_keep (h : Kept p s) (ctx : Nat) : Kept p (ctxBoundary s ctx) := by
  unfold ctxBoundary
  repeat' first | (with_reducible first | assumption) | (extract_lets +onlyGivenNames t; refine kept_cut (q := Kept p t) ?_ fun ht => ?_; (on_goal 2 => clear_value t); on_goal 1 => (simp only [t]; try clear t)) | (extract_lets +onlyGivenNames t; clear_value t) | (with_reducible first | refine kept_ite.2 ⟨fun _ => ?_, fun _ => ?_⟩ | refine applyUpdates_keep ?_ .. | refine boundaryLocal_keep ?_ .. | refine finish_keep ?_ .. | refine memberBoundary_keep ?_ .. | refine replayBoundary_keep ?_ .. | refine State.updCtx_keep ?_ ..) | dsimp only | (simp only [kept_mk_iff]; with_reducible refine kept_upd' ?_ (by simp (maxDischargeDepth := 40) +contextual)) | split | (simp (maxDischargeDepth := 40) +contextual [kept_upd, *]; done)

theorem execDispatchBoundary_keep (h : Kept p s) (ctx : Nat) : KeptR p (execDispatchBoundary ctx s) := by
  unfold execDispatchBoundary
  repeat' first | (with_reducible first | assumption | refine keptR_next ?_) | (with_reducible first | refine kept_ite.2 ⟨fun _ => ?_, fun _ => ?_⟩ | refine kept_foldl ?_ (fun _ _ _ => ?_) | refine kept_foldl_mid ?_ (fun _ _ _ => ?_) | refine kept_foldl_fst ?_ (fun _ _ _ => ?_) | refine ctxBoundary_keep ?_ ..) | dsimp only | split | (simp (maxDischargeDepth := 40) +contextual [kept_upd, *]; done)

end Sys2Proof.Machine
end

