-- ==== Sys2Proof/Laws/State.lean ====
section
/-! SUPPORT. What each named update of the state does to each field: one lemma a field, so that no proof unfolds a record update. -/

namespace Sys2Proof.Machine.State

variable (s : State) (i : Nat)

/-! ## updDev -/

@[simp] theorem updDev_pending (f : Dev → Dev) : (s.updDev f).pending = s.pending := by cases s; rfl
@[simp] theorem updDev_freeCtr (f : Dev → Dev) : (s.updDev f).freeCtr = s.freeCtr := by cases s; rfl
@[simp] theorem updDev_replies (f : Dev → Dev) : (s.updDev f).replies = s.replies := by cases s; rfl
@[simp] theorem updDev_hostMem (f : Dev → Dev) : (s.updDev f).hostMem = s.hostMem := by cases s; rfl
@[simp] theorem updDev_dev (f : Dev → Dev) : (s.updDev f).dev = f s.dev := by cases s; rfl
@[simp] theorem updDev_clk (f : Dev → Dev) : (s.updDev f).clk = s.clk := by cases s; rfl
@[simp] theorem updDev_pwr (f : Dev → Dev) : (s.updDev f).pwr = s.pwr := by cases s; rfl
@[simp] theorem updDev_thm (f : Dev → Dev) : (s.updDev f).thm = s.thm := by cases s; rfl
@[simp] theorem updDev_log (f : Dev → Dev) : (s.updDev f).log = s.log := by cases s; rfl
@[simp] theorem updDev_err (f : Dev → Dev) : (s.updDev f).err = s.err := by cases s; rfl
@[simp] theorem updDev_host (f : Dev → Dev) : (s.updDev f).host = s.host := by cases s; rfl
@[simp] theorem updDev_fns (f : Dev → Dev) : (s.updDev f).fns = s.fns := by cases s; rfl
@[simp] theorem updDev_rings (f : Dev → Dev) : (s.updDev f).rings = s.rings := by cases s; rfl
@[simp] theorem updDev_cmds (f : Dev → Dev) : (s.updDev f).cmds = s.cmds := by cases s; rfl
@[simp] theorem updDev_orderCtr (f : Dev → Dev) : (s.updDev f).orderCtr = s.orderCtr := by cases s; rfl
@[simp] theorem updDev_lastServed (f : Dev → Dev) : (s.updDev f).lastServed = s.lastServed := by cases s; rfl
@[simp] theorem updDev_paused (f : Dev → Dev) : (s.updDev f).paused = s.paused := by cases s; rfl
@[simp] theorem updDev_ctxs (f : Dev → Dev) : (s.updDev f).ctxs = s.ctxs := by cases s; rfl
@[simp] theorem updDev_tiles (f : Dev → Dev) : (s.updDev f).tiles = s.tiles := by cases s; rfl
@[simp] theorem updDev_cells (f : Dev → Dev) : (s.updDev f).cells = s.cells := by cases s; rfl
@[simp] theorem updDev_gold (f : Dev → Dev) : (s.updDev f).gold = s.gold := by cases s; rfl
@[simp] theorem updDev_arrs (f : Dev → Dev) : (s.updDev f).arrs = s.arrs := by cases s; rfl
@[simp] theorem updDev_flues (f : Dev → Dev) : (s.updDev f).flues = s.flues := by cases s; rfl
@[simp] theorem updDev_flits (f : Dev → Dev) : (s.updDev f).flits = s.flits := by cases s; rfl
@[simp] theorem updDev_kv (f : Dev → Dev) : (s.updDev f).kv = s.kv := by cases s; rfl
@[simp] theorem updDev_reqs (f : Dev → Dev) : (s.updDev f).reqs = s.reqs := by cases s; rfl
@[simp] theorem updDev_serve (f : Dev → Dev) : (s.updDev f).serve = s.serve := by cases s; rfl
@[simp] theorem updDev_cal (f : Dev → Dev) : (s.updDev f).cal = s.cal := by cases s; rfl
@[simp] theorem updDev_sweep (f : Dev → Dev) : (s.updDev f).sweep = s.sweep := by cases s; rfl
@[simp] theorem updDev_test (f : Dev → Dev) : (s.updDev f).test = s.test := by cases s; rfl
@[simp] theorem updDev_chim (f : Dev → Dev) : (s.updDev f).chim = s.chim := by cases s; rfl

/-! ## updClk -/

@[simp] theorem updClk_pending (f : Clk → Clk) : (s.updClk f).pending = s.pending := by cases s; rfl
@[simp] theorem updClk_freeCtr (f : Clk → Clk) : (s.updClk f).freeCtr = s.freeCtr := by cases s; rfl
@[simp] theorem updClk_replies (f : Clk → Clk) : (s.updClk f).replies = s.replies := by cases s; rfl
@[simp] theorem updClk_hostMem (f : Clk → Clk) : (s.updClk f).hostMem = s.hostMem := by cases s; rfl
@[simp] theorem updClk_dev (f : Clk → Clk) : (s.updClk f).dev = s.dev := by cases s; rfl
@[simp] theorem updClk_clk (f : Clk → Clk) : (s.updClk f).clk = f s.clk := by cases s; rfl
@[simp] theorem updClk_pwr (f : Clk → Clk) : (s.updClk f).pwr = s.pwr := by cases s; rfl
@[simp] theorem updClk_thm (f : Clk → Clk) : (s.updClk f).thm = s.thm := by cases s; rfl
@[simp] theorem updClk_log (f : Clk → Clk) : (s.updClk f).log = s.log := by cases s; rfl
@[simp] theorem updClk_err (f : Clk → Clk) : (s.updClk f).err = s.err := by cases s; rfl
@[simp] theorem updClk_host (f : Clk → Clk) : (s.updClk f).host = s.host := by cases s; rfl
@[simp] theorem updClk_fns (f : Clk → Clk) : (s.updClk f).fns = s.fns := by cases s; rfl
@[simp] theorem updClk_rings (f : Clk → Clk) : (s.updClk f).rings = s.rings := by cases s; rfl
@[simp] theorem updClk_cmds (f : Clk → Clk) : (s.updClk f).cmds = s.cmds := by cases s; rfl
@[simp] theorem updClk_orderCtr (f : Clk → Clk) : (s.updClk f).orderCtr = s.orderCtr := by cases s; rfl
@[simp] theorem updClk_lastServed (f : Clk → Clk) : (s.updClk f).lastServed = s.lastServed := by cases s; rfl
@[simp] theorem updClk_paused (f : Clk → Clk) : (s.updClk f).paused = s.paused := by cases s; rfl
@[simp] theorem updClk_ctxs (f : Clk → Clk) : (s.updClk f).ctxs = s.ctxs := by cases s; rfl
@[simp] theorem updClk_tiles (f : Clk → Clk) : (s.updClk f).tiles = s.tiles := by cases s; rfl
@[simp] theorem updClk_cells (f : Clk → Clk) : (s.updClk f).cells = s.cells := by cases s; rfl
@[simp] theorem updClk_gold (f : Clk → Clk) : (s.updClk f).gold = s.gold := by cases s; rfl
@[simp] theorem updClk_arrs (f : Clk → Clk) : (s.updClk f).arrs = s.arrs := by cases s; rfl
@[simp] theorem updClk_flues (f : Clk → Clk) : (s.updClk f).flues = s.flues := by cases s; rfl
@[simp] theorem updClk_flits (f : Clk → Clk) : (s.updClk f).flits = s.flits := by cases s; rfl
@[simp] theorem updClk_kv (f : Clk → Clk) : (s.updClk f).kv = s.kv := by cases s; rfl
@[simp] theorem updClk_reqs (f : Clk → Clk) : (s.updClk f).reqs = s.reqs := by cases s; rfl
@[simp] theorem updClk_serve (f : Clk → Clk) : (s.updClk f).serve = s.serve := by cases s; rfl
@[simp] theorem updClk_cal (f : Clk → Clk) : (s.updClk f).cal = s.cal := by cases s; rfl
@[simp] theorem updClk_sweep (f : Clk → Clk) : (s.updClk f).sweep = s.sweep := by cases s; rfl
@[simp] theorem updClk_test (f : Clk → Clk) : (s.updClk f).test = s.test := by cases s; rfl
@[simp] theorem updClk_chim (f : Clk → Clk) : (s.updClk f).chim = s.chim := by cases s; rfl

/-! ## updPwr -/

@[simp] theorem updPwr_pending (f : Pwr → Pwr) : (s.updPwr f).pending = s.pending := by cases s; rfl
@[simp] theorem updPwr_freeCtr (f : Pwr → Pwr) : (s.updPwr f).freeCtr = s.freeCtr := by cases s; rfl
@[simp] theorem updPwr_replies (f : Pwr → Pwr) : (s.updPwr f).replies = s.replies := by cases s; rfl
@[simp] theorem updPwr_hostMem (f : Pwr → Pwr) : (s.updPwr f).hostMem = s.hostMem := by cases s; rfl
@[simp] theorem updPwr_dev (f : Pwr → Pwr) : (s.updPwr f).dev = s.dev := by cases s; rfl
@[simp] theorem updPwr_clk (f : Pwr → Pwr) : (s.updPwr f).clk = s.clk := by cases s; rfl
@[simp] theorem updPwr_pwr (f : Pwr → Pwr) : (s.updPwr f).pwr = f s.pwr := by cases s; rfl
@[simp] theorem updPwr_thm (f : Pwr → Pwr) : (s.updPwr f).thm = s.thm := by cases s; rfl
@[simp] theorem updPwr_log (f : Pwr → Pwr) : (s.updPwr f).log = s.log := by cases s; rfl
@[simp] theorem updPwr_err (f : Pwr → Pwr) : (s.updPwr f).err = s.err := by cases s; rfl
@[simp] theorem updPwr_host (f : Pwr → Pwr) : (s.updPwr f).host = s.host := by cases s; rfl
@[simp] theorem updPwr_fns (f : Pwr → Pwr) : (s.updPwr f).fns = s.fns := by cases s; rfl
@[simp] theorem updPwr_rings (f : Pwr → Pwr) : (s.updPwr f).rings = s.rings := by cases s; rfl
@[simp] theorem updPwr_cmds (f : Pwr → Pwr) : (s.updPwr f).cmds = s.cmds := by cases s; rfl
@[simp] theorem updPwr_orderCtr (f : Pwr → Pwr) : (s.updPwr f).orderCtr = s.orderCtr := by cases s; rfl
@[simp] theorem updPwr_lastServed (f : Pwr → Pwr) : (s.updPwr f).lastServed = s.lastServed := by cases s; rfl
@[simp] theorem updPwr_paused (f : Pwr → Pwr) : (s.updPwr f).paused = s.paused := by cases s; rfl
@[simp] theorem updPwr_ctxs (f : Pwr → Pwr) : (s.updPwr f).ctxs = s.ctxs := by cases s; rfl
@[simp] theorem updPwr_tiles (f : Pwr → Pwr) : (s.updPwr f).tiles = s.tiles := by cases s; rfl
@[simp] theorem updPwr_cells (f : Pwr → Pwr) : (s.updPwr f).cells = s.cells := by cases s; rfl
@[simp] theorem updPwr_gold (f : Pwr → Pwr) : (s.updPwr f).gold = s.gold := by cases s; rfl
@[simp] theorem updPwr_arrs (f : Pwr → Pwr) : (s.updPwr f).arrs = s.arrs := by cases s; rfl
@[simp] theorem updPwr_flues (f : Pwr → Pwr) : (s.updPwr f).flues = s.flues := by cases s; rfl
@[simp] theorem updPwr_flits (f : Pwr → Pwr) : (s.updPwr f).flits = s.flits := by cases s; rfl
@[simp] theorem updPwr_kv (f : Pwr → Pwr) : (s.updPwr f).kv = s.kv := by cases s; rfl
@[simp] theorem updPwr_reqs (f : Pwr → Pwr) : (s.updPwr f).reqs = s.reqs := by cases s; rfl
@[simp] theorem updPwr_serve (f : Pwr → Pwr) : (s.updPwr f).serve = s.serve := by cases s; rfl
@[simp] theorem updPwr_cal (f : Pwr → Pwr) : (s.updPwr f).cal = s.cal := by cases s; rfl
@[simp] theorem updPwr_sweep (f : Pwr → Pwr) : (s.updPwr f).sweep = s.sweep := by cases s; rfl
@[simp] theorem updPwr_test (f : Pwr → Pwr) : (s.updPwr f).test = s.test := by cases s; rfl
@[simp] theorem updPwr_chim (f : Pwr → Pwr) : (s.updPwr f).chim = s.chim := by cases s; rfl

/-! ## updThm -/

@[simp] theorem updThm_pending (f : Thm → Thm) : (s.updThm f).pending = s.pending := by cases s; rfl
@[simp] theorem updThm_freeCtr (f : Thm → Thm) : (s.updThm f).freeCtr = s.freeCtr := by cases s; rfl
@[simp] theorem updThm_replies (f : Thm → Thm) : (s.updThm f).replies = s.replies := by cases s; rfl
@[simp] theorem updThm_hostMem (f : Thm → Thm) : (s.updThm f).hostMem = s.hostMem := by cases s; rfl
@[simp] theorem updThm_dev (f : Thm → Thm) : (s.updThm f).dev = s.dev := by cases s; rfl
@[simp] theorem updThm_clk (f : Thm → Thm) : (s.updThm f).clk = s.clk := by cases s; rfl
@[simp] theorem updThm_pwr (f : Thm → Thm) : (s.updThm f).pwr = s.pwr := by cases s; rfl
@[simp] theorem updThm_thm (f : Thm → Thm) : (s.updThm f).thm = f s.thm := by cases s; rfl
@[simp] theorem updThm_log (f : Thm → Thm) : (s.updThm f).log = s.log := by cases s; rfl
@[simp] theorem updThm_err (f : Thm → Thm) : (s.updThm f).err = s.err := by cases s; rfl
@[simp] theorem updThm_host (f : Thm → Thm) : (s.updThm f).host = s.host := by cases s; rfl
@[simp] theorem updThm_fns (f : Thm → Thm) : (s.updThm f).fns = s.fns := by cases s; rfl
@[simp] theorem updThm_rings (f : Thm → Thm) : (s.updThm f).rings = s.rings := by cases s; rfl
@[simp] theorem updThm_cmds (f : Thm → Thm) : (s.updThm f).cmds = s.cmds := by cases s; rfl
@[simp] theorem updThm_orderCtr (f : Thm → Thm) : (s.updThm f).orderCtr = s.orderCtr := by cases s; rfl
@[simp] theorem updThm_lastServed (f : Thm → Thm) : (s.updThm f).lastServed = s.lastServed := by cases s; rfl
@[simp] theorem updThm_paused (f : Thm → Thm) : (s.updThm f).paused = s.paused := by cases s; rfl
@[simp] theorem updThm_ctxs (f : Thm → Thm) : (s.updThm f).ctxs = s.ctxs := by cases s; rfl
@[simp] theorem updThm_tiles (f : Thm → Thm) : (s.updThm f).tiles = s.tiles := by cases s; rfl
@[simp] theorem updThm_cells (f : Thm → Thm) : (s.updThm f).cells = s.cells := by cases s; rfl
@[simp] theorem updThm_gold (f : Thm → Thm) : (s.updThm f).gold = s.gold := by cases s; rfl
@[simp] theorem updThm_arrs (f : Thm → Thm) : (s.updThm f).arrs = s.arrs := by cases s; rfl
@[simp] theorem updThm_flues (f : Thm → Thm) : (s.updThm f).flues = s.flues := by cases s; rfl
@[simp] theorem updThm_flits (f : Thm → Thm) : (s.updThm f).flits = s.flits := by cases s; rfl
@[simp] theorem updThm_kv (f : Thm → Thm) : (s.updThm f).kv = s.kv := by cases s; rfl
@[simp] theorem updThm_reqs (f : Thm → Thm) : (s.updThm f).reqs = s.reqs := by cases s; rfl
@[simp] theorem updThm_serve (f : Thm → Thm) : (s.updThm f).serve = s.serve := by cases s; rfl
@[simp] theorem updThm_cal (f : Thm → Thm) : (s.updThm f).cal = s.cal := by cases s; rfl
@[simp] theorem updThm_sweep (f : Thm → Thm) : (s.updThm f).sweep = s.sweep := by cases s; rfl
@[simp] theorem updThm_test (f : Thm → Thm) : (s.updThm f).test = s.test := by cases s; rfl
@[simp] theorem updThm_chim (f : Thm → Thm) : (s.updThm f).chim = s.chim := by cases s; rfl

/-! ## updLog -/

@[simp] theorem updLog_pending (f : Mantel → Mantel) : (s.updLog f).pending = s.pending := by cases s; rfl
@[simp] theorem updLog_freeCtr (f : Mantel → Mantel) : (s.updLog f).freeCtr = s.freeCtr := by cases s; rfl
@[simp] theorem updLog_replies (f : Mantel → Mantel) : (s.updLog f).replies = s.replies := by cases s; rfl
@[simp] theorem updLog_hostMem (f : Mantel → Mantel) : (s.updLog f).hostMem = s.hostMem := by cases s; rfl
@[simp] theorem updLog_dev (f : Mantel → Mantel) : (s.updLog f).dev = s.dev := by cases s; rfl
@[simp] theorem updLog_clk (f : Mantel → Mantel) : (s.updLog f).clk = s.clk := by cases s; rfl
@[simp] theorem updLog_pwr (f : Mantel → Mantel) : (s.updLog f).pwr = s.pwr := by cases s; rfl
@[simp] theorem updLog_thm (f : Mantel → Mantel) : (s.updLog f).thm = s.thm := by cases s; rfl
@[simp] theorem updLog_log (f : Mantel → Mantel) : (s.updLog f).log = f s.log := by cases s; rfl
@[simp] theorem updLog_err (f : Mantel → Mantel) : (s.updLog f).err = s.err := by cases s; rfl
@[simp] theorem updLog_host (f : Mantel → Mantel) : (s.updLog f).host = s.host := by cases s; rfl
@[simp] theorem updLog_fns (f : Mantel → Mantel) : (s.updLog f).fns = s.fns := by cases s; rfl
@[simp] theorem updLog_rings (f : Mantel → Mantel) : (s.updLog f).rings = s.rings := by cases s; rfl
@[simp] theorem updLog_cmds (f : Mantel → Mantel) : (s.updLog f).cmds = s.cmds := by cases s; rfl
@[simp] theorem updLog_orderCtr (f : Mantel → Mantel) : (s.updLog f).orderCtr = s.orderCtr := by cases s; rfl
@[simp] theorem updLog_lastServed (f : Mantel → Mantel) : (s.updLog f).lastServed = s.lastServed := by cases s; rfl
@[simp] theorem updLog_paused (f : Mantel → Mantel) : (s.updLog f).paused = s.paused := by cases s; rfl
@[simp] theorem updLog_ctxs (f : Mantel → Mantel) : (s.updLog f).ctxs = s.ctxs := by cases s; rfl
@[simp] theorem updLog_tiles (f : Mantel → Mantel) : (s.updLog f).tiles = s.tiles := by cases s; rfl
@[simp] theorem updLog_cells (f : Mantel → Mantel) : (s.updLog f).cells = s.cells := by cases s; rfl
@[simp] theorem updLog_gold (f : Mantel → Mantel) : (s.updLog f).gold = s.gold := by cases s; rfl
@[simp] theorem updLog_arrs (f : Mantel → Mantel) : (s.updLog f).arrs = s.arrs := by cases s; rfl
@[simp] theorem updLog_flues (f : Mantel → Mantel) : (s.updLog f).flues = s.flues := by cases s; rfl
@[simp] theorem updLog_flits (f : Mantel → Mantel) : (s.updLog f).flits = s.flits := by cases s; rfl
@[simp] theorem updLog_kv (f : Mantel → Mantel) : (s.updLog f).kv = s.kv := by cases s; rfl
@[simp] theorem updLog_reqs (f : Mantel → Mantel) : (s.updLog f).reqs = s.reqs := by cases s; rfl
@[simp] theorem updLog_serve (f : Mantel → Mantel) : (s.updLog f).serve = s.serve := by cases s; rfl
@[simp] theorem updLog_cal (f : Mantel → Mantel) : (s.updLog f).cal = s.cal := by cases s; rfl
@[simp] theorem updLog_sweep (f : Mantel → Mantel) : (s.updLog f).sweep = s.sweep := by cases s; rfl
@[simp] theorem updLog_test (f : Mantel → Mantel) : (s.updLog f).test = s.test := by cases s; rfl
@[simp] theorem updLog_chim (f : Mantel → Mantel) : (s.updLog f).chim = s.chim := by cases s; rfl

/-! ## updErr -/

@[simp] theorem updErr_pending (f : Err → Err) : (s.updErr f).pending = s.pending := by cases s; rfl
@[simp] theorem updErr_freeCtr (f : Err → Err) : (s.updErr f).freeCtr = s.freeCtr := by cases s; rfl
@[simp] theorem updErr_replies (f : Err → Err) : (s.updErr f).replies = s.replies := by cases s; rfl
@[simp] theorem updErr_hostMem (f : Err → Err) : (s.updErr f).hostMem = s.hostMem := by cases s; rfl
@[simp] theorem updErr_dev (f : Err → Err) : (s.updErr f).dev = s.dev := by cases s; rfl
@[simp] theorem updErr_clk (f : Err → Err) : (s.updErr f).clk = s.clk := by cases s; rfl
@[simp] theorem updErr_pwr (f : Err → Err) : (s.updErr f).pwr = s.pwr := by cases s; rfl
@[simp] theorem updErr_thm (f : Err → Err) : (s.updErr f).thm = s.thm := by cases s; rfl
@[simp] theorem updErr_log (f : Err → Err) : (s.updErr f).log = s.log := by cases s; rfl
@[simp] theorem updErr_err (f : Err → Err) : (s.updErr f).err = f s.err := by cases s; rfl
@[simp] theorem updErr_host (f : Err → Err) : (s.updErr f).host = s.host := by cases s; rfl
@[simp] theorem updErr_fns (f : Err → Err) : (s.updErr f).fns = s.fns := by cases s; rfl
@[simp] theorem updErr_rings (f : Err → Err) : (s.updErr f).rings = s.rings := by cases s; rfl
@[simp] theorem updErr_cmds (f : Err → Err) : (s.updErr f).cmds = s.cmds := by cases s; rfl
@[simp] theorem updErr_orderCtr (f : Err → Err) : (s.updErr f).orderCtr = s.orderCtr := by cases s; rfl
@[simp] theorem updErr_lastServed (f : Err → Err) : (s.updErr f).lastServed = s.lastServed := by cases s; rfl
@[simp] theorem updErr_paused (f : Err → Err) : (s.updErr f).paused = s.paused := by cases s; rfl
@[simp] theorem updErr_ctxs (f : Err → Err) : (s.updErr f).ctxs = s.ctxs := by cases s; rfl
@[simp] theorem updErr_tiles (f : Err → Err) : (s.updErr f).tiles = s.tiles := by cases s; rfl
@[simp] theorem updErr_cells (f : Err → Err) : (s.updErr f).cells = s.cells := by cases s; rfl
@[simp] theorem updErr_gold (f : Err → Err) : (s.updErr f).gold = s.gold := by cases s; rfl
@[simp] theorem updErr_arrs (f : Err → Err) : (s.updErr f).arrs = s.arrs := by cases s; rfl
@[simp] theorem updErr_flues (f : Err → Err) : (s.updErr f).flues = s.flues := by cases s; rfl
@[simp] theorem updErr_flits (f : Err → Err) : (s.updErr f).flits = s.flits := by cases s; rfl
@[simp] theorem updErr_kv (f : Err → Err) : (s.updErr f).kv = s.kv := by cases s; rfl
@[simp] theorem updErr_reqs (f : Err → Err) : (s.updErr f).reqs = s.reqs := by cases s; rfl
@[simp] theorem updErr_serve (f : Err → Err) : (s.updErr f).serve = s.serve := by cases s; rfl
@[simp] theorem updErr_cal (f : Err → Err) : (s.updErr f).cal = s.cal := by cases s; rfl
@[simp] theorem updErr_sweep (f : Err → Err) : (s.updErr f).sweep = s.sweep := by cases s; rfl
@[simp] theorem updErr_test (f : Err → Err) : (s.updErr f).test = s.test := by cases s; rfl
@[simp] theorem updErr_chim (f : Err → Err) : (s.updErr f).chim = s.chim := by cases s; rfl

/-! ## updHost -/

@[simp] theorem updHost_pending (f : HostIf → HostIf) : (s.updHost f).pending = s.pending := by cases s; rfl
@[simp] theorem updHost_freeCtr (f : HostIf → HostIf) : (s.updHost f).freeCtr = s.freeCtr := by cases s; rfl
@[simp] theorem updHost_replies (f : HostIf → HostIf) : (s.updHost f).replies = s.replies := by cases s; rfl
@[simp] theorem updHost_hostMem (f : HostIf → HostIf) : (s.updHost f).hostMem = s.hostMem := by cases s; rfl
@[simp] theorem updHost_dev (f : HostIf → HostIf) : (s.updHost f).dev = s.dev := by cases s; rfl
@[simp] theorem updHost_clk (f : HostIf → HostIf) : (s.updHost f).clk = s.clk := by cases s; rfl
@[simp] theorem updHost_pwr (f : HostIf → HostIf) : (s.updHost f).pwr = s.pwr := by cases s; rfl
@[simp] theorem updHost_thm (f : HostIf → HostIf) : (s.updHost f).thm = s.thm := by cases s; rfl
@[simp] theorem updHost_log (f : HostIf → HostIf) : (s.updHost f).log = s.log := by cases s; rfl
@[simp] theorem updHost_err (f : HostIf → HostIf) : (s.updHost f).err = s.err := by cases s; rfl
@[simp] theorem updHost_host (f : HostIf → HostIf) : (s.updHost f).host = f s.host := by cases s; rfl
@[simp] theorem updHost_fns (f : HostIf → HostIf) : (s.updHost f).fns = s.fns := by cases s; rfl
@[simp] theorem updHost_rings (f : HostIf → HostIf) : (s.updHost f).rings = s.rings := by cases s; rfl
@[simp] theorem updHost_cmds (f : HostIf → HostIf) : (s.updHost f).cmds = s.cmds := by cases s; rfl
@[simp] theorem updHost_orderCtr (f : HostIf → HostIf) : (s.updHost f).orderCtr = s.orderCtr := by cases s; rfl
@[simp] theorem updHost_lastServed (f : HostIf → HostIf) : (s.updHost f).lastServed = s.lastServed := by cases s; rfl
@[simp] theorem updHost_paused (f : HostIf → HostIf) : (s.updHost f).paused = s.paused := by cases s; rfl
@[simp] theorem updHost_ctxs (f : HostIf → HostIf) : (s.updHost f).ctxs = s.ctxs := by cases s; rfl
@[simp] theorem updHost_tiles (f : HostIf → HostIf) : (s.updHost f).tiles = s.tiles := by cases s; rfl
@[simp] theorem updHost_cells (f : HostIf → HostIf) : (s.updHost f).cells = s.cells := by cases s; rfl
@[simp] theorem updHost_gold (f : HostIf → HostIf) : (s.updHost f).gold = s.gold := by cases s; rfl
@[simp] theorem updHost_arrs (f : HostIf → HostIf) : (s.updHost f).arrs = s.arrs := by cases s; rfl
@[simp] theorem updHost_flues (f : HostIf → HostIf) : (s.updHost f).flues = s.flues := by cases s; rfl
@[simp] theorem updHost_flits (f : HostIf → HostIf) : (s.updHost f).flits = s.flits := by cases s; rfl
@[simp] theorem updHost_kv (f : HostIf → HostIf) : (s.updHost f).kv = s.kv := by cases s; rfl
@[simp] theorem updHost_reqs (f : HostIf → HostIf) : (s.updHost f).reqs = s.reqs := by cases s; rfl
@[simp] theorem updHost_serve (f : HostIf → HostIf) : (s.updHost f).serve = s.serve := by cases s; rfl
@[simp] theorem updHost_cal (f : HostIf → HostIf) : (s.updHost f).cal = s.cal := by cases s; rfl
@[simp] theorem updHost_sweep (f : HostIf → HostIf) : (s.updHost f).sweep = s.sweep := by cases s; rfl
@[simp] theorem updHost_test (f : HostIf → HostIf) : (s.updHost f).test = s.test := by cases s; rfl
@[simp] theorem updHost_chim (f : HostIf → HostIf) : (s.updHost f).chim = s.chim := by cases s; rfl

/-! ## updKv -/

@[simp] theorem updKv_pending (f : Kv → Kv) : (s.updKv f).pending = s.pending := by cases s; rfl
@[simp] theorem updKv_freeCtr (f : Kv → Kv) : (s.updKv f).freeCtr = s.freeCtr := by cases s; rfl
@[simp] theorem updKv_replies (f : Kv → Kv) : (s.updKv f).replies = s.replies := by cases s; rfl
@[simp] theorem updKv_hostMem (f : Kv → Kv) : (s.updKv f).hostMem = s.hostMem := by cases s; rfl
@[simp] theorem updKv_dev (f : Kv → Kv) : (s.updKv f).dev = s.dev := by cases s; rfl
@[simp] theorem updKv_clk (f : Kv → Kv) : (s.updKv f).clk = s.clk := by cases s; rfl
@[simp] theorem updKv_pwr (f : Kv → Kv) : (s.updKv f).pwr = s.pwr := by cases s; rfl
@[simp] theorem updKv_thm (f : Kv → Kv) : (s.updKv f).thm = s.thm := by cases s; rfl
@[simp] theorem updKv_log (f : Kv → Kv) : (s.updKv f).log = s.log := by cases s; rfl
@[simp] theorem updKv_err (f : Kv → Kv) : (s.updKv f).err = s.err := by cases s; rfl
@[simp] theorem updKv_host (f : Kv → Kv) : (s.updKv f).host = s.host := by cases s; rfl
@[simp] theorem updKv_fns (f : Kv → Kv) : (s.updKv f).fns = s.fns := by cases s; rfl
@[simp] theorem updKv_rings (f : Kv → Kv) : (s.updKv f).rings = s.rings := by cases s; rfl
@[simp] theorem updKv_cmds (f : Kv → Kv) : (s.updKv f).cmds = s.cmds := by cases s; rfl
@[simp] theorem updKv_orderCtr (f : Kv → Kv) : (s.updKv f).orderCtr = s.orderCtr := by cases s; rfl
@[simp] theorem updKv_lastServed (f : Kv → Kv) : (s.updKv f).lastServed = s.lastServed := by cases s; rfl
@[simp] theorem updKv_paused (f : Kv → Kv) : (s.updKv f).paused = s.paused := by cases s; rfl
@[simp] theorem updKv_ctxs (f : Kv → Kv) : (s.updKv f).ctxs = s.ctxs := by cases s; rfl
@[simp] theorem updKv_tiles (f : Kv → Kv) : (s.updKv f).tiles = s.tiles := by cases s; rfl
@[simp] theorem updKv_cells (f : Kv → Kv) : (s.updKv f).cells = s.cells := by cases s; rfl
@[simp] theorem updKv_gold (f : Kv → Kv) : (s.updKv f).gold = s.gold := by cases s; rfl
@[simp] theorem updKv_arrs (f : Kv → Kv) : (s.updKv f).arrs = s.arrs := by cases s; rfl
@[simp] theorem updKv_flues (f : Kv → Kv) : (s.updKv f).flues = s.flues := by cases s; rfl
@[simp] theorem updKv_flits (f : Kv → Kv) : (s.updKv f).flits = s.flits := by cases s; rfl
@[simp] theorem updKv_kv (f : Kv → Kv) : (s.updKv f).kv = f s.kv := by cases s; rfl
@[simp] theorem updKv_reqs (f : Kv → Kv) : (s.updKv f).reqs = s.reqs := by cases s; rfl
@[simp] theorem updKv_serve (f : Kv → Kv) : (s.updKv f).serve = s.serve := by cases s; rfl
@[simp] theorem updKv_cal (f : Kv → Kv) : (s.updKv f).cal = s.cal := by cases s; rfl
@[simp] theorem updKv_sweep (f : Kv → Kv) : (s.updKv f).sweep = s.sweep := by cases s; rfl
@[simp] theorem updKv_test (f : Kv → Kv) : (s.updKv f).test = s.test := by cases s; rfl
@[simp] theorem updKv_chim (f : Kv → Kv) : (s.updKv f).chim = s.chim := by cases s; rfl

/-! ## updServe -/

@[simp] theorem updServe_pending (f : Serve → Serve) : (s.updServe f).pending = s.pending := by cases s; rfl
@[simp] theorem updServe_freeCtr (f : Serve → Serve) : (s.updServe f).freeCtr = s.freeCtr := by cases s; rfl
@[simp] theorem updServe_replies (f : Serve → Serve) : (s.updServe f).replies = s.replies := by cases s; rfl
@[simp] theorem updServe_hostMem (f : Serve → Serve) : (s.updServe f).hostMem = s.hostMem := by cases s; rfl
@[simp] theorem updServe_dev (f : Serve → Serve) : (s.updServe f).dev = s.dev := by cases s; rfl
@[simp] theorem updServe_clk (f : Serve → Serve) : (s.updServe f).clk = s.clk := by cases s; rfl
@[simp] theorem updServe_pwr (f : Serve → Serve) : (s.updServe f).pwr = s.pwr := by cases s; rfl
@[simp] theorem updServe_thm (f : Serve → Serve) : (s.updServe f).thm = s.thm := by cases s; rfl
@[simp] theorem updServe_log (f : Serve → Serve) : (s.updServe f).log = s.log := by cases s; rfl
@[simp] theorem updServe_err (f : Serve → Serve) : (s.updServe f).err = s.err := by cases s; rfl
@[simp] theorem updServe_host (f : Serve → Serve) : (s.updServe f).host = s.host := by cases s; rfl
@[simp] theorem updServe_fns (f : Serve → Serve) : (s.updServe f).fns = s.fns := by cases s; rfl
@[simp] theorem updServe_rings (f : Serve → Serve) : (s.updServe f).rings = s.rings := by cases s; rfl
@[simp] theorem updServe_cmds (f : Serve → Serve) : (s.updServe f).cmds = s.cmds := by cases s; rfl
@[simp] theorem updServe_orderCtr (f : Serve → Serve) : (s.updServe f).orderCtr = s.orderCtr := by cases s; rfl
@[simp] theorem updServe_lastServed (f : Serve → Serve) : (s.updServe f).lastServed = s.lastServed := by cases s; rfl
@[simp] theorem updServe_paused (f : Serve → Serve) : (s.updServe f).paused = s.paused := by cases s; rfl
@[simp] theorem updServe_ctxs (f : Serve → Serve) : (s.updServe f).ctxs = s.ctxs := by cases s; rfl
@[simp] theorem updServe_tiles (f : Serve → Serve) : (s.updServe f).tiles = s.tiles := by cases s; rfl
@[simp] theorem updServe_cells (f : Serve → Serve) : (s.updServe f).cells = s.cells := by cases s; rfl
@[simp] theorem updServe_gold (f : Serve → Serve) : (s.updServe f).gold = s.gold := by cases s; rfl
@[simp] theorem updServe_arrs (f : Serve → Serve) : (s.updServe f).arrs = s.arrs := by cases s; rfl
@[simp] theorem updServe_flues (f : Serve → Serve) : (s.updServe f).flues = s.flues := by cases s; rfl
@[simp] theorem updServe_flits (f : Serve → Serve) : (s.updServe f).flits = s.flits := by cases s; rfl
@[simp] theorem updServe_kv (f : Serve → Serve) : (s.updServe f).kv = s.kv := by cases s; rfl
@[simp] theorem updServe_reqs (f : Serve → Serve) : (s.updServe f).reqs = s.reqs := by cases s; rfl
@[simp] theorem updServe_serve (f : Serve → Serve) : (s.updServe f).serve = f s.serve := by cases s; rfl
@[simp] theorem updServe_cal (f : Serve → Serve) : (s.updServe f).cal = s.cal := by cases s; rfl
@[simp] theorem updServe_sweep (f : Serve → Serve) : (s.updServe f).sweep = s.sweep := by cases s; rfl
@[simp] theorem updServe_test (f : Serve → Serve) : (s.updServe f).test = s.test := by cases s; rfl
@[simp] theorem updServe_chim (f : Serve → Serve) : (s.updServe f).chim = s.chim := by cases s; rfl

/-! ## updCal -/

@[simp] theorem updCal_pending (f : Cal → Cal) : (s.updCal f).pending = s.pending := by cases s; rfl
@[simp] theorem updCal_freeCtr (f : Cal → Cal) : (s.updCal f).freeCtr = s.freeCtr := by cases s; rfl
@[simp] theorem updCal_replies (f : Cal → Cal) : (s.updCal f).replies = s.replies := by cases s; rfl
@[simp] theorem updCal_hostMem (f : Cal → Cal) : (s.updCal f).hostMem = s.hostMem := by cases s; rfl
@[simp] theorem updCal_dev (f : Cal → Cal) : (s.updCal f).dev = s.dev := by cases s; rfl
@[simp] theorem updCal_clk (f : Cal → Cal) : (s.updCal f).clk = s.clk := by cases s; rfl
@[simp] theorem updCal_pwr (f : Cal → Cal) : (s.updCal f).pwr = s.pwr := by cases s; rfl
@[simp] theorem updCal_thm (f : Cal → Cal) : (s.updCal f).thm = s.thm := by cases s; rfl
@[simp] theorem updCal_log (f : Cal → Cal) : (s.updCal f).log = s.log := by cases s; rfl
@[simp] theorem updCal_err (f : Cal → Cal) : (s.updCal f).err = s.err := by cases s; rfl
@[simp] theorem updCal_host (f : Cal → Cal) : (s.updCal f).host = s.host := by cases s; rfl
@[simp] theorem updCal_fns (f : Cal → Cal) : (s.updCal f).fns = s.fns := by cases s; rfl
@[simp] theorem updCal_rings (f : Cal → Cal) : (s.updCal f).rings = s.rings := by cases s; rfl
@[simp] theorem updCal_cmds (f : Cal → Cal) : (s.updCal f).cmds = s.cmds := by cases s; rfl
@[simp] theorem updCal_orderCtr (f : Cal → Cal) : (s.updCal f).orderCtr = s.orderCtr := by cases s; rfl
@[simp] theorem updCal_lastServed (f : Cal → Cal) : (s.updCal f).lastServed = s.lastServed := by cases s; rfl
@[simp] theorem updCal_paused (f : Cal → Cal) : (s.updCal f).paused = s.paused := by cases s; rfl
@[simp] theorem updCal_ctxs (f : Cal → Cal) : (s.updCal f).ctxs = s.ctxs := by cases s; rfl
@[simp] theorem updCal_tiles (f : Cal → Cal) : (s.updCal f).tiles = s.tiles := by cases s; rfl
@[simp] theorem updCal_cells (f : Cal → Cal) : (s.updCal f).cells = s.cells := by cases s; rfl
@[simp] theorem updCal_gold (f : Cal → Cal) : (s.updCal f).gold = s.gold := by cases s; rfl
@[simp] theorem updCal_arrs (f : Cal → Cal) : (s.updCal f).arrs = s.arrs := by cases s; rfl
@[simp] theorem updCal_flues (f : Cal → Cal) : (s.updCal f).flues = s.flues := by cases s; rfl
@[simp] theorem updCal_flits (f : Cal → Cal) : (s.updCal f).flits = s.flits := by cases s; rfl
@[simp] theorem updCal_kv (f : Cal → Cal) : (s.updCal f).kv = s.kv := by cases s; rfl
@[simp] theorem updCal_reqs (f : Cal → Cal) : (s.updCal f).reqs = s.reqs := by cases s; rfl
@[simp] theorem updCal_serve (f : Cal → Cal) : (s.updCal f).serve = s.serve := by cases s; rfl
@[simp] theorem updCal_cal (f : Cal → Cal) : (s.updCal f).cal = f s.cal := by cases s; rfl
@[simp] theorem updCal_sweep (f : Cal → Cal) : (s.updCal f).sweep = s.sweep := by cases s; rfl
@[simp] theorem updCal_test (f : Cal → Cal) : (s.updCal f).test = s.test := by cases s; rfl
@[simp] theorem updCal_chim (f : Cal → Cal) : (s.updCal f).chim = s.chim := by cases s; rfl

/-! ## updSweep -/

@[simp] theorem updSweep_pending (f : Sweep → Sweep) : (s.updSweep f).pending = s.pending := by cases s; rfl
@[simp] theorem updSweep_freeCtr (f : Sweep → Sweep) : (s.updSweep f).freeCtr = s.freeCtr := by cases s; rfl
@[simp] theorem updSweep_replies (f : Sweep → Sweep) : (s.updSweep f).replies = s.replies := by cases s; rfl
@[simp] theorem updSweep_hostMem (f : Sweep → Sweep) : (s.updSweep f).hostMem = s.hostMem := by cases s; rfl
@[simp] theorem updSweep_dev (f : Sweep → Sweep) : (s.updSweep f).dev = s.dev := by cases s; rfl
@[simp] theorem updSweep_clk (f : Sweep → Sweep) : (s.updSweep f).clk = s.clk := by cases s; rfl
@[simp] theorem updSweep_pwr (f : Sweep → Sweep) : (s.updSweep f).pwr = s.pwr := by cases s; rfl
@[simp] theorem updSweep_thm (f : Sweep → Sweep) : (s.updSweep f).thm = s.thm := by cases s; rfl
@[simp] theorem updSweep_log (f : Sweep → Sweep) : (s.updSweep f).log = s.log := by cases s; rfl
@[simp] theorem updSweep_err (f : Sweep → Sweep) : (s.updSweep f).err = s.err := by cases s; rfl
@[simp] theorem updSweep_host (f : Sweep → Sweep) : (s.updSweep f).host = s.host := by cases s; rfl
@[simp] theorem updSweep_fns (f : Sweep → Sweep) : (s.updSweep f).fns = s.fns := by cases s; rfl
@[simp] theorem updSweep_rings (f : Sweep → Sweep) : (s.updSweep f).rings = s.rings := by cases s; rfl
@[simp] theorem updSweep_cmds (f : Sweep → Sweep) : (s.updSweep f).cmds = s.cmds := by cases s; rfl
@[simp] theorem updSweep_orderCtr (f : Sweep → Sweep) : (s.updSweep f).orderCtr = s.orderCtr := by cases s; rfl
@[simp] theorem updSweep_lastServed (f : Sweep → Sweep) : (s.updSweep f).lastServed = s.lastServed := by cases s; rfl
@[simp] theorem updSweep_paused (f : Sweep → Sweep) : (s.updSweep f).paused = s.paused := by cases s; rfl
@[simp] theorem updSweep_ctxs (f : Sweep → Sweep) : (s.updSweep f).ctxs = s.ctxs := by cases s; rfl
@[simp] theorem updSweep_tiles (f : Sweep → Sweep) : (s.updSweep f).tiles = s.tiles := by cases s; rfl
@[simp] theorem updSweep_cells (f : Sweep → Sweep) : (s.updSweep f).cells = s.cells := by cases s; rfl
@[simp] theorem updSweep_gold (f : Sweep → Sweep) : (s.updSweep f).gold = s.gold := by cases s; rfl
@[simp] theorem updSweep_arrs (f : Sweep → Sweep) : (s.updSweep f).arrs = s.arrs := by cases s; rfl
@[simp] theorem updSweep_flues (f : Sweep → Sweep) : (s.updSweep f).flues = s.flues := by cases s; rfl
@[simp] theorem updSweep_flits (f : Sweep → Sweep) : (s.updSweep f).flits = s.flits := by cases s; rfl
@[simp] theorem updSweep_kv (f : Sweep → Sweep) : (s.updSweep f).kv = s.kv := by cases s; rfl
@[simp] theorem updSweep_reqs (f : Sweep → Sweep) : (s.updSweep f).reqs = s.reqs := by cases s; rfl
@[simp] theorem updSweep_serve (f : Sweep → Sweep) : (s.updSweep f).serve = s.serve := by cases s; rfl
@[simp] theorem updSweep_cal (f : Sweep → Sweep) : (s.updSweep f).cal = s.cal := by cases s; rfl
@[simp] theorem updSweep_sweep (f : Sweep → Sweep) : (s.updSweep f).sweep = f s.sweep := by cases s; rfl
@[simp] theorem updSweep_test (f : Sweep → Sweep) : (s.updSweep f).test = s.test := by cases s; rfl
@[simp] theorem updSweep_chim (f : Sweep → Sweep) : (s.updSweep f).chim = s.chim := by cases s; rfl

/-! ## updChim -/

@[simp] theorem updChim_pending (f : Chim → Chim) : (s.updChim f).pending = s.pending := by cases s; rfl
@[simp] theorem updChim_freeCtr (f : Chim → Chim) : (s.updChim f).freeCtr = s.freeCtr := by cases s; rfl
@[simp] theorem updChim_replies (f : Chim → Chim) : (s.updChim f).replies = s.replies := by cases s; rfl
@[simp] theorem updChim_hostMem (f : Chim → Chim) : (s.updChim f).hostMem = s.hostMem := by cases s; rfl
@[simp] theorem updChim_dev (f : Chim → Chim) : (s.updChim f).dev = s.dev := by cases s; rfl
@[simp] theorem updChim_clk (f : Chim → Chim) : (s.updChim f).clk = s.clk := by cases s; rfl
@[simp] theorem updChim_pwr (f : Chim → Chim) : (s.updChim f).pwr = s.pwr := by cases s; rfl
@[simp] theorem updChim_thm (f : Chim → Chim) : (s.updChim f).thm = s.thm := by cases s; rfl
@[simp] theorem updChim_log (f : Chim → Chim) : (s.updChim f).log = s.log := by cases s; rfl
@[simp] theorem updChim_err (f : Chim → Chim) : (s.updChim f).err = s.err := by cases s; rfl
@[simp] theorem updChim_host (f : Chim → Chim) : (s.updChim f).host = s.host := by cases s; rfl
@[simp] theorem updChim_fns (f : Chim → Chim) : (s.updChim f).fns = s.fns := by cases s; rfl
@[simp] theorem updChim_rings (f : Chim → Chim) : (s.updChim f).rings = s.rings := by cases s; rfl
@[simp] theorem updChim_cmds (f : Chim → Chim) : (s.updChim f).cmds = s.cmds := by cases s; rfl
@[simp] theorem updChim_orderCtr (f : Chim → Chim) : (s.updChim f).orderCtr = s.orderCtr := by cases s; rfl
@[simp] theorem updChim_lastServed (f : Chim → Chim) : (s.updChim f).lastServed = s.lastServed := by cases s; rfl
@[simp] theorem updChim_paused (f : Chim → Chim) : (s.updChim f).paused = s.paused := by cases s; rfl
@[simp] theorem updChim_ctxs (f : Chim → Chim) : (s.updChim f).ctxs = s.ctxs := by cases s; rfl
@[simp] theorem updChim_tiles (f : Chim → Chim) : (s.updChim f).tiles = s.tiles := by cases s; rfl
@[simp] theorem updChim_cells (f : Chim → Chim) : (s.updChim f).cells = s.cells := by cases s; rfl
@[simp] theorem updChim_gold (f : Chim → Chim) : (s.updChim f).gold = s.gold := by cases s; rfl
@[simp] theorem updChim_arrs (f : Chim → Chim) : (s.updChim f).arrs = s.arrs := by cases s; rfl
@[simp] theorem updChim_flues (f : Chim → Chim) : (s.updChim f).flues = s.flues := by cases s; rfl
@[simp] theorem updChim_flits (f : Chim → Chim) : (s.updChim f).flits = s.flits := by cases s; rfl
@[simp] theorem updChim_kv (f : Chim → Chim) : (s.updChim f).kv = s.kv := by cases s; rfl
@[simp] theorem updChim_reqs (f : Chim → Chim) : (s.updChim f).reqs = s.reqs := by cases s; rfl
@[simp] theorem updChim_serve (f : Chim → Chim) : (s.updChim f).serve = s.serve := by cases s; rfl
@[simp] theorem updChim_cal (f : Chim → Chim) : (s.updChim f).cal = s.cal := by cases s; rfl
@[simp] theorem updChim_sweep (f : Chim → Chim) : (s.updChim f).sweep = s.sweep := by cases s; rfl
@[simp] theorem updChim_test (f : Chim → Chim) : (s.updChim f).test = s.test := by cases s; rfl
@[simp] theorem updChim_chim (f : Chim → Chim) : (s.updChim f).chim = f s.chim := by cases s; rfl

/-! ## setFn -/

@[simp] theorem setFn_pending (f : Fn) : (s.setFn i f).pending = s.pending := by cases s; rfl
@[simp] theorem setFn_freeCtr (f : Fn) : (s.setFn i f).freeCtr = s.freeCtr := by cases s; rfl
@[simp] theorem setFn_replies (f : Fn) : (s.setFn i f).replies = s.replies := by cases s; rfl
@[simp] theorem setFn_hostMem (f : Fn) : (s.setFn i f).hostMem = s.hostMem := by cases s; rfl
@[simp] theorem setFn_dev (f : Fn) : (s.setFn i f).dev = s.dev := by cases s; rfl
@[simp] theorem setFn_clk (f : Fn) : (s.setFn i f).clk = s.clk := by cases s; rfl
@[simp] theorem setFn_pwr (f : Fn) : (s.setFn i f).pwr = s.pwr := by cases s; rfl
@[simp] theorem setFn_thm (f : Fn) : (s.setFn i f).thm = s.thm := by cases s; rfl
@[simp] theorem setFn_log (f : Fn) : (s.setFn i f).log = s.log := by cases s; rfl
@[simp] theorem setFn_err (f : Fn) : (s.setFn i f).err = s.err := by cases s; rfl
@[simp] theorem setFn_host (f : Fn) : (s.setFn i f).host = s.host := by cases s; rfl
@[simp] theorem setFn_fns (f : Fn) : (s.setFn i f).fns = store s.fns i (some f) := by cases s; rfl
@[simp] theorem setFn_rings (f : Fn) : (s.setFn i f).rings = s.rings := by cases s; rfl
@[simp] theorem setFn_cmds (f : Fn) : (s.setFn i f).cmds = s.cmds := by cases s; rfl
@[simp] theorem setFn_orderCtr (f : Fn) : (s.setFn i f).orderCtr = s.orderCtr := by cases s; rfl
@[simp] theorem setFn_lastServed (f : Fn) : (s.setFn i f).lastServed = s.lastServed := by cases s; rfl
@[simp] theorem setFn_paused (f : Fn) : (s.setFn i f).paused = s.paused := by cases s; rfl
@[simp] theorem setFn_ctxs (f : Fn) : (s.setFn i f).ctxs = s.ctxs := by cases s; rfl
@[simp] theorem setFn_tiles (f : Fn) : (s.setFn i f).tiles = s.tiles := by cases s; rfl
@[simp] theorem setFn_cells (f : Fn) : (s.setFn i f).cells = s.cells := by cases s; rfl
@[simp] theorem setFn_gold (f : Fn) : (s.setFn i f).gold = s.gold := by cases s; rfl
@[simp] theorem setFn_arrs (f : Fn) : (s.setFn i f).arrs = s.arrs := by cases s; rfl
@[simp] theorem setFn_flues (f : Fn) : (s.setFn i f).flues = s.flues := by cases s; rfl
@[simp] theorem setFn_flits (f : Fn) : (s.setFn i f).flits = s.flits := by cases s; rfl
@[simp] theorem setFn_kv (f : Fn) : (s.setFn i f).kv = s.kv := by cases s; rfl
@[simp] theorem setFn_reqs (f : Fn) : (s.setFn i f).reqs = s.reqs := by cases s; rfl
@[simp] theorem setFn_serve (f : Fn) : (s.setFn i f).serve = s.serve := by cases s; rfl
@[simp] theorem setFn_cal (f : Fn) : (s.setFn i f).cal = s.cal := by cases s; rfl
@[simp] theorem setFn_sweep (f : Fn) : (s.setFn i f).sweep = s.sweep := by cases s; rfl
@[simp] theorem setFn_test (f : Fn) : (s.setFn i f).test = s.test := by cases s; rfl
@[simp] theorem setFn_chim (f : Fn) : (s.setFn i f).chim = s.chim := by cases s; rfl

/-! ## updFn -/

@[simp] theorem updFn_pending (f : Fn → Fn) : (s.updFn i f).pending = s.pending := by cases s; rfl
@[simp] theorem updFn_freeCtr (f : Fn → Fn) : (s.updFn i f).freeCtr = s.freeCtr := by cases s; rfl
@[simp] theorem updFn_replies (f : Fn → Fn) : (s.updFn i f).replies = s.replies := by cases s; rfl
@[simp] theorem updFn_hostMem (f : Fn → Fn) : (s.updFn i f).hostMem = s.hostMem := by cases s; rfl
@[simp] theorem updFn_dev (f : Fn → Fn) : (s.updFn i f).dev = s.dev := by cases s; rfl
@[simp] theorem updFn_clk (f : Fn → Fn) : (s.updFn i f).clk = s.clk := by cases s; rfl
@[simp] theorem updFn_pwr (f : Fn → Fn) : (s.updFn i f).pwr = s.pwr := by cases s; rfl
@[simp] theorem updFn_thm (f : Fn → Fn) : (s.updFn i f).thm = s.thm := by cases s; rfl
@[simp] theorem updFn_log (f : Fn → Fn) : (s.updFn i f).log = s.log := by cases s; rfl
@[simp] theorem updFn_err (f : Fn → Fn) : (s.updFn i f).err = s.err := by cases s; rfl
@[simp] theorem updFn_host (f : Fn → Fn) : (s.updFn i f).host = s.host := by cases s; rfl
@[simp] theorem updFn_fns (f : Fn → Fn) : (s.updFn i f).fns = store s.fns i (some (f (s.fn i))) := by cases s; rfl
@[simp] theorem updFn_rings (f : Fn → Fn) : (s.updFn i f).rings = s.rings := by cases s; rfl
@[simp] theorem updFn_cmds (f : Fn → Fn) : (s.updFn i f).cmds = s.cmds := by cases s; rfl
@[simp] theorem updFn_orderCtr (f : Fn → Fn) : (s.updFn i f).orderCtr = s.orderCtr := by cases s; rfl
@[simp] theorem updFn_lastServed (f : Fn → Fn) : (s.updFn i f).lastServed = s.lastServed := by cases s; rfl
@[simp] theorem updFn_paused (f : Fn → Fn) : (s.updFn i f).paused = s.paused := by cases s; rfl
@[simp] theorem updFn_ctxs (f : Fn → Fn) : (s.updFn i f).ctxs = s.ctxs := by cases s; rfl
@[simp] theorem updFn_tiles (f : Fn → Fn) : (s.updFn i f).tiles = s.tiles := by cases s; rfl
@[simp] theorem updFn_cells (f : Fn → Fn) : (s.updFn i f).cells = s.cells := by cases s; rfl
@[simp] theorem updFn_gold (f : Fn → Fn) : (s.updFn i f).gold = s.gold := by cases s; rfl
@[simp] theorem updFn_arrs (f : Fn → Fn) : (s.updFn i f).arrs = s.arrs := by cases s; rfl
@[simp] theorem updFn_flues (f : Fn → Fn) : (s.updFn i f).flues = s.flues := by cases s; rfl
@[simp] theorem updFn_flits (f : Fn → Fn) : (s.updFn i f).flits = s.flits := by cases s; rfl
@[simp] theorem updFn_kv (f : Fn → Fn) : (s.updFn i f).kv = s.kv := by cases s; rfl
@[simp] theorem updFn_reqs (f : Fn → Fn) : (s.updFn i f).reqs = s.reqs := by cases s; rfl
@[simp] theorem updFn_serve (f : Fn → Fn) : (s.updFn i f).serve = s.serve := by cases s; rfl
@[simp] theorem updFn_cal (f : Fn → Fn) : (s.updFn i f).cal = s.cal := by cases s; rfl
@[simp] theorem updFn_sweep (f : Fn → Fn) : (s.updFn i f).sweep = s.sweep := by cases s; rfl
@[simp] theorem updFn_test (f : Fn → Fn) : (s.updFn i f).test = s.test := by cases s; rfl
@[simp] theorem updFn_chim (f : Fn → Fn) : (s.updFn i f).chim = s.chim := by cases s; rfl

/-! ## setRing -/

@[simp] theorem setRing_pending (r : Option Ring) : (s.setRing i r).pending = s.pending := by cases s; rfl
@[simp] theorem setRing_freeCtr (r : Option Ring) : (s.setRing i r).freeCtr = s.freeCtr := by cases s; rfl
@[simp] theorem setRing_replies (r : Option Ring) : (s.setRing i r).replies = s.replies := by cases s; rfl
@[simp] theorem setRing_hostMem (r : Option Ring) : (s.setRing i r).hostMem = s.hostMem := by cases s; rfl
@[simp] theorem setRing_dev (r : Option Ring) : (s.setRing i r).dev = s.dev := by cases s; rfl
@[simp] theorem setRing_clk (r : Option Ring) : (s.setRing i r).clk = s.clk := by cases s; rfl
@[simp] theorem setRing_pwr (r : Option Ring) : (s.setRing i r).pwr = s.pwr := by cases s; rfl
@[simp] theorem setRing_thm (r : Option Ring) : (s.setRing i r).thm = s.thm := by cases s; rfl
@[simp] theorem setRing_log (r : Option Ring) : (s.setRing i r).log = s.log := by cases s; rfl
@[simp] theorem setRing_err (r : Option Ring) : (s.setRing i r).err = s.err := by cases s; rfl
@[simp] theorem setRing_host (r : Option Ring) : (s.setRing i r).host = s.host := by cases s; rfl
@[simp] theorem setRing_fns (r : Option Ring) : (s.setRing i r).fns = s.fns := by cases s; rfl
@[simp] theorem setRing_rings (r : Option Ring) : (s.setRing i r).rings = store s.rings i r := by cases s; rfl
@[simp] theorem setRing_cmds (r : Option Ring) : (s.setRing i r).cmds = s.cmds := by cases s; rfl
@[simp] theorem setRing_orderCtr (r : Option Ring) : (s.setRing i r).orderCtr = s.orderCtr := by cases s; rfl
@[simp] theorem setRing_lastServed (r : Option Ring) : (s.setRing i r).lastServed = s.lastServed := by cases s; rfl
@[simp] theorem setRing_paused (r : Option Ring) : (s.setRing i r).paused = s.paused := by cases s; rfl
@[simp] theorem setRing_ctxs (r : Option Ring) : (s.setRing i r).ctxs = s.ctxs := by cases s; rfl
@[simp] theorem setRing_tiles (r : Option Ring) : (s.setRing i r).tiles = s.tiles := by cases s; rfl
@[simp] theorem setRing_cells (r : Option Ring) : (s.setRing i r).cells = s.cells := by cases s; rfl
@[simp] theorem setRing_gold (r : Option Ring) : (s.setRing i r).gold = s.gold := by cases s; rfl
@[simp] theorem setRing_arrs (r : Option Ring) : (s.setRing i r).arrs = s.arrs := by cases s; rfl
@[simp] theorem setRing_flues (r : Option Ring) : (s.setRing i r).flues = s.flues := by cases s; rfl
@[simp] theorem setRing_flits (r : Option Ring) : (s.setRing i r).flits = s.flits := by cases s; rfl
@[simp] theorem setRing_kv (r : Option Ring) : (s.setRing i r).kv = s.kv := by cases s; rfl
@[simp] theorem setRing_reqs (r : Option Ring) : (s.setRing i r).reqs = s.reqs := by cases s; rfl
@[simp] theorem setRing_serve (r : Option Ring) : (s.setRing i r).serve = s.serve := by cases s; rfl
@[simp] theorem setRing_cal (r : Option Ring) : (s.setRing i r).cal = s.cal := by cases s; rfl
@[simp] theorem setRing_sweep (r : Option Ring) : (s.setRing i r).sweep = s.sweep := by cases s; rfl
@[simp] theorem setRing_test (r : Option Ring) : (s.setRing i r).test = s.test := by cases s; rfl
@[simp] theorem setRing_chim (r : Option Ring) : (s.setRing i r).chim = s.chim := by cases s; rfl

/-! ## setCtx -/

@[simp] theorem setCtx_pending (c : Option Ctx) : (s.setCtx i c).pending = s.pending := by cases s; rfl
@[simp] theorem setCtx_freeCtr (c : Option Ctx) : (s.setCtx i c).freeCtr = s.freeCtr := by cases s; rfl
@[simp] theorem setCtx_replies (c : Option Ctx) : (s.setCtx i c).replies = s.replies := by cases s; rfl
@[simp] theorem setCtx_hostMem (c : Option Ctx) : (s.setCtx i c).hostMem = s.hostMem := by cases s; rfl
@[simp] theorem setCtx_dev (c : Option Ctx) : (s.setCtx i c).dev = s.dev := by cases s; rfl
@[simp] theorem setCtx_clk (c : Option Ctx) : (s.setCtx i c).clk = s.clk := by cases s; rfl
@[simp] theorem setCtx_pwr (c : Option Ctx) : (s.setCtx i c).pwr = s.pwr := by cases s; rfl
@[simp] theorem setCtx_thm (c : Option Ctx) : (s.setCtx i c).thm = s.thm := by cases s; rfl
@[simp] theorem setCtx_log (c : Option Ctx) : (s.setCtx i c).log = s.log := by cases s; rfl
@[simp] theorem setCtx_err (c : Option Ctx) : (s.setCtx i c).err = s.err := by cases s; rfl
@[simp] theorem setCtx_host (c : Option Ctx) : (s.setCtx i c).host = s.host := by cases s; rfl
@[simp] theorem setCtx_fns (c : Option Ctx) : (s.setCtx i c).fns = s.fns := by cases s; rfl
@[simp] theorem setCtx_rings (c : Option Ctx) : (s.setCtx i c).rings = s.rings := by cases s; rfl
@[simp] theorem setCtx_cmds (c : Option Ctx) : (s.setCtx i c).cmds = s.cmds := by cases s; rfl
@[simp] theorem setCtx_orderCtr (c : Option Ctx) : (s.setCtx i c).orderCtr = s.orderCtr := by cases s; rfl
@[simp] theorem setCtx_lastServed (c : Option Ctx) : (s.setCtx i c).lastServed = s.lastServed := by cases s; rfl
@[simp] theorem setCtx_paused (c : Option Ctx) : (s.setCtx i c).paused = s.paused := by cases s; rfl
@[simp] theorem setCtx_ctxs (c : Option Ctx) : (s.setCtx i c).ctxs = store s.ctxs i c := by cases s; rfl
@[simp] theorem setCtx_tiles (c : Option Ctx) : (s.setCtx i c).tiles = s.tiles := by cases s; rfl
@[simp] theorem setCtx_cells (c : Option Ctx) : (s.setCtx i c).cells = s.cells := by cases s; rfl
@[simp] theorem setCtx_gold (c : Option Ctx) : (s.setCtx i c).gold = s.gold := by cases s; rfl
@[simp] theorem setCtx_arrs (c : Option Ctx) : (s.setCtx i c).arrs = s.arrs := by cases s; rfl
@[simp] theorem setCtx_flues (c : Option Ctx) : (s.setCtx i c).flues = s.flues := by cases s; rfl
@[simp] theorem setCtx_flits (c : Option Ctx) : (s.setCtx i c).flits = s.flits := by cases s; rfl
@[simp] theorem setCtx_kv (c : Option Ctx) : (s.setCtx i c).kv = s.kv := by cases s; rfl
@[simp] theorem setCtx_reqs (c : Option Ctx) : (s.setCtx i c).reqs = s.reqs := by cases s; rfl
@[simp] theorem setCtx_serve (c : Option Ctx) : (s.setCtx i c).serve = s.serve := by cases s; rfl
@[simp] theorem setCtx_cal (c : Option Ctx) : (s.setCtx i c).cal = s.cal := by cases s; rfl
@[simp] theorem setCtx_sweep (c : Option Ctx) : (s.setCtx i c).sweep = s.sweep := by cases s; rfl
@[simp] theorem setCtx_test (c : Option Ctx) : (s.setCtx i c).test = s.test := by cases s; rfl
@[simp] theorem setCtx_chim (c : Option Ctx) : (s.setCtx i c).chim = s.chim := by cases s; rfl

/-! ## setTile -/

@[simp] theorem setTile_pending (t : Tile) : (s.setTile i t).pending = s.pending := by cases s; rfl
@[simp] theorem setTile_freeCtr (t : Tile) : (s.setTile i t).freeCtr = s.freeCtr := by cases s; rfl
@[simp] theorem setTile_replies (t : Tile) : (s.setTile i t).replies = s.replies := by cases s; rfl
@[simp] theorem setTile_hostMem (t : Tile) : (s.setTile i t).hostMem = s.hostMem := by cases s; rfl
@[simp] theorem setTile_dev (t : Tile) : (s.setTile i t).dev = s.dev := by cases s; rfl
@[simp] theorem setTile_clk (t : Tile) : (s.setTile i t).clk = s.clk := by cases s; rfl
@[simp] theorem setTile_pwr (t : Tile) : (s.setTile i t).pwr = s.pwr := by cases s; rfl
@[simp] theorem setTile_thm (t : Tile) : (s.setTile i t).thm = s.thm := by cases s; rfl
@[simp] theorem setTile_log (t : Tile) : (s.setTile i t).log = s.log := by cases s; rfl
@[simp] theorem setTile_err (t : Tile) : (s.setTile i t).err = s.err := by cases s; rfl
@[simp] theorem setTile_host (t : Tile) : (s.setTile i t).host = s.host := by cases s; rfl
@[simp] theorem setTile_fns (t : Tile) : (s.setTile i t).fns = s.fns := by cases s; rfl
@[simp] theorem setTile_rings (t : Tile) : (s.setTile i t).rings = s.rings := by cases s; rfl
@[simp] theorem setTile_cmds (t : Tile) : (s.setTile i t).cmds = s.cmds := by cases s; rfl
@[simp] theorem setTile_orderCtr (t : Tile) : (s.setTile i t).orderCtr = s.orderCtr := by cases s; rfl
@[simp] theorem setTile_lastServed (t : Tile) : (s.setTile i t).lastServed = s.lastServed := by cases s; rfl
@[simp] theorem setTile_paused (t : Tile) : (s.setTile i t).paused = s.paused := by cases s; rfl
@[simp] theorem setTile_ctxs (t : Tile) : (s.setTile i t).ctxs = s.ctxs := by cases s; rfl
@[simp] theorem setTile_tiles (t : Tile) : (s.setTile i t).tiles = store s.tiles i (if t = Tile.reset then none else some t) := by cases s; rfl
@[simp] theorem setTile_cells (t : Tile) : (s.setTile i t).cells = s.cells := by cases s; rfl
@[simp] theorem setTile_gold (t : Tile) : (s.setTile i t).gold = s.gold := by cases s; rfl
@[simp] theorem setTile_arrs (t : Tile) : (s.setTile i t).arrs = s.arrs := by cases s; rfl
@[simp] theorem setTile_flues (t : Tile) : (s.setTile i t).flues = s.flues := by cases s; rfl
@[simp] theorem setTile_flits (t : Tile) : (s.setTile i t).flits = s.flits := by cases s; rfl
@[simp] theorem setTile_kv (t : Tile) : (s.setTile i t).kv = s.kv := by cases s; rfl
@[simp] theorem setTile_reqs (t : Tile) : (s.setTile i t).reqs = s.reqs := by cases s; rfl
@[simp] theorem setTile_serve (t : Tile) : (s.setTile i t).serve = s.serve := by cases s; rfl
@[simp] theorem setTile_cal (t : Tile) : (s.setTile i t).cal = s.cal := by cases s; rfl
@[simp] theorem setTile_sweep (t : Tile) : (s.setTile i t).sweep = s.sweep := by cases s; rfl
@[simp] theorem setTile_test (t : Tile) : (s.setTile i t).test = s.test := by cases s; rfl
@[simp] theorem setTile_chim (t : Tile) : (s.setTile i t).chim = s.chim := by cases s; rfl

/-! ## updTile -/

@[simp] theorem updTile_pending (f : Tile → Tile) : (s.updTile i f).pending = s.pending := by cases s; rfl
@[simp] theorem updTile_freeCtr (f : Tile → Tile) : (s.updTile i f).freeCtr = s.freeCtr := by cases s; rfl
@[simp] theorem updTile_replies (f : Tile → Tile) : (s.updTile i f).replies = s.replies := by cases s; rfl
@[simp] theorem updTile_hostMem (f : Tile → Tile) : (s.updTile i f).hostMem = s.hostMem := by cases s; rfl
@[simp] theorem updTile_dev (f : Tile → Tile) : (s.updTile i f).dev = s.dev := by cases s; rfl
@[simp] theorem updTile_clk (f : Tile → Tile) : (s.updTile i f).clk = s.clk := by cases s; rfl
@[simp] theorem updTile_pwr (f : Tile → Tile) : (s.updTile i f).pwr = s.pwr := by cases s; rfl
@[simp] theorem updTile_thm (f : Tile → Tile) : (s.updTile i f).thm = s.thm := by cases s; rfl
@[simp] theorem updTile_log (f : Tile → Tile) : (s.updTile i f).log = s.log := by cases s; rfl
@[simp] theorem updTile_err (f : Tile → Tile) : (s.updTile i f).err = s.err := by cases s; rfl
@[simp] theorem updTile_host (f : Tile → Tile) : (s.updTile i f).host = s.host := by cases s; rfl
@[simp] theorem updTile_fns (f : Tile → Tile) : (s.updTile i f).fns = s.fns := by cases s; rfl
@[simp] theorem updTile_rings (f : Tile → Tile) : (s.updTile i f).rings = s.rings := by cases s; rfl
@[simp] theorem updTile_cmds (f : Tile → Tile) : (s.updTile i f).cmds = s.cmds := by cases s; rfl
@[simp] theorem updTile_orderCtr (f : Tile → Tile) : (s.updTile i f).orderCtr = s.orderCtr := by cases s; rfl
@[simp] theorem updTile_lastServed (f : Tile → Tile) : (s.updTile i f).lastServed = s.lastServed := by cases s; rfl
@[simp] theorem updTile_paused (f : Tile → Tile) : (s.updTile i f).paused = s.paused := by cases s; rfl
@[simp] theorem updTile_ctxs (f : Tile → Tile) : (s.updTile i f).ctxs = s.ctxs := by cases s; rfl
@[simp] theorem updTile_cells (f : Tile → Tile) : (s.updTile i f).cells = s.cells := by cases s; rfl
@[simp] theorem updTile_gold (f : Tile → Tile) : (s.updTile i f).gold = s.gold := by cases s; rfl
@[simp] theorem updTile_arrs (f : Tile → Tile) : (s.updTile i f).arrs = s.arrs := by cases s; rfl
@[simp] theorem updTile_flues (f : Tile → Tile) : (s.updTile i f).flues = s.flues := by cases s; rfl
@[simp] theorem updTile_flits (f : Tile → Tile) : (s.updTile i f).flits = s.flits := by cases s; rfl
@[simp] theorem updTile_kv (f : Tile → Tile) : (s.updTile i f).kv = s.kv := by cases s; rfl
@[simp] theorem updTile_reqs (f : Tile → Tile) : (s.updTile i f).reqs = s.reqs := by cases s; rfl
@[simp] theorem updTile_serve (f : Tile → Tile) : (s.updTile i f).serve = s.serve := by cases s; rfl
@[simp] theorem updTile_cal (f : Tile → Tile) : (s.updTile i f).cal = s.cal := by cases s; rfl
@[simp] theorem updTile_sweep (f : Tile → Tile) : (s.updTile i f).sweep = s.sweep := by cases s; rfl
@[simp] theorem updTile_test (f : Tile → Tile) : (s.updTile i f).test = s.test := by cases s; rfl
@[simp] theorem updTile_chim (f : Tile → Tile) : (s.updTile i f).chim = s.chim := by cases s; rfl

/-! ## setArr -/

@[simp] theorem setArr_pending (a : Arr) : (s.setArr i a).pending = s.pending := by cases s; rfl
@[simp] theorem setArr_freeCtr (a : Arr) : (s.setArr i a).freeCtr = s.freeCtr := by cases s; rfl
@[simp] theorem setArr_replies (a : Arr) : (s.setArr i a).replies = s.replies := by cases s; rfl
@[simp] theorem setArr_hostMem (a : Arr) : (s.setArr i a).hostMem = s.hostMem := by cases s; rfl
@[simp] theorem setArr_dev (a : Arr) : (s.setArr i a).dev = s.dev := by cases s; rfl
@[simp] theorem setArr_clk (a : Arr) : (s.setArr i a).clk = s.clk := by cases s; rfl
@[simp] theorem setArr_pwr (a : Arr) : (s.setArr i a).pwr = s.pwr := by cases s; rfl
@[simp] theorem setArr_thm (a : Arr) : (s.setArr i a).thm = s.thm := by cases s; rfl
@[simp] theorem setArr_log (a : Arr) : (s.setArr i a).log = s.log := by cases s; rfl
@[simp] theorem setArr_err (a : Arr) : (s.setArr i a).err = s.err := by cases s; rfl
@[simp] theorem setArr_host (a : Arr) : (s.setArr i a).host = s.host := by cases s; rfl
@[simp] theorem setArr_fns (a : Arr) : (s.setArr i a).fns = s.fns := by cases s; rfl
@[simp] theorem setArr_rings (a : Arr) : (s.setArr i a).rings = s.rings := by cases s; rfl
@[simp] theorem setArr_cmds (a : Arr) : (s.setArr i a).cmds = s.cmds := by cases s; rfl
@[simp] theorem setArr_orderCtr (a : Arr) : (s.setArr i a).orderCtr = s.orderCtr := by cases s; rfl
@[simp] theorem setArr_lastServed (a : Arr) : (s.setArr i a).lastServed = s.lastServed := by cases s; rfl
@[simp] theorem setArr_paused (a : Arr) : (s.setArr i a).paused = s.paused := by cases s; rfl
@[simp] theorem setArr_ctxs (a : Arr) : (s.setArr i a).ctxs = s.ctxs := by cases s; rfl
@[simp] theorem setArr_tiles (a : Arr) : (s.setArr i a).tiles = s.tiles := by cases s; rfl
@[simp] theorem setArr_cells (a : Arr) : (s.setArr i a).cells = s.cells := by cases s; rfl
@[simp] theorem setArr_gold (a : Arr) : (s.setArr i a).gold = s.gold := by cases s; rfl
@[simp] theorem setArr_arrs (a : Arr) : (s.setArr i a).arrs = store s.arrs i (if a = Arr.reset then none else some a) := by cases s; rfl
@[simp] theorem setArr_flues (a : Arr) : (s.setArr i a).flues = s.flues := by cases s; rfl
@[simp] theorem setArr_flits (a : Arr) : (s.setArr i a).flits = s.flits := by cases s; rfl
@[simp] theorem setArr_kv (a : Arr) : (s.setArr i a).kv = s.kv := by cases s; rfl
@[simp] theorem setArr_reqs (a : Arr) : (s.setArr i a).reqs = s.reqs := by cases s; rfl
@[simp] theorem setArr_serve (a : Arr) : (s.setArr i a).serve = s.serve := by cases s; rfl
@[simp] theorem setArr_cal (a : Arr) : (s.setArr i a).cal = s.cal := by cases s; rfl
@[simp] theorem setArr_sweep (a : Arr) : (s.setArr i a).sweep = s.sweep := by cases s; rfl
@[simp] theorem setArr_test (a : Arr) : (s.setArr i a).test = s.test := by cases s; rfl
@[simp] theorem setArr_chim (a : Arr) : (s.setArr i a).chim = s.chim := by cases s; rfl

/-! ## updArr -/

@[simp] theorem updArr_pending (f : Arr → Arr) : (s.updArr i f).pending = s.pending := by cases s; rfl
@[simp] theorem updArr_freeCtr (f : Arr → Arr) : (s.updArr i f).freeCtr = s.freeCtr := by cases s; rfl
@[simp] theorem updArr_replies (f : Arr → Arr) : (s.updArr i f).replies = s.replies := by cases s; rfl
@[simp] theorem updArr_hostMem (f : Arr → Arr) : (s.updArr i f).hostMem = s.hostMem := by cases s; rfl
@[simp] theorem updArr_dev (f : Arr → Arr) : (s.updArr i f).dev = s.dev := by cases s; rfl
@[simp] theorem updArr_clk (f : Arr → Arr) : (s.updArr i f).clk = s.clk := by cases s; rfl
@[simp] theorem updArr_pwr (f : Arr → Arr) : (s.updArr i f).pwr = s.pwr := by cases s; rfl
@[simp] theorem updArr_thm (f : Arr → Arr) : (s.updArr i f).thm = s.thm := by cases s; rfl
@[simp] theorem updArr_log (f : Arr → Arr) : (s.updArr i f).log = s.log := by cases s; rfl
@[simp] theorem updArr_err (f : Arr → Arr) : (s.updArr i f).err = s.err := by cases s; rfl
@[simp] theorem updArr_host (f : Arr → Arr) : (s.updArr i f).host = s.host := by cases s; rfl
@[simp] theorem updArr_fns (f : Arr → Arr) : (s.updArr i f).fns = s.fns := by cases s; rfl
@[simp] theorem updArr_rings (f : Arr → Arr) : (s.updArr i f).rings = s.rings := by cases s; rfl
@[simp] theorem updArr_cmds (f : Arr → Arr) : (s.updArr i f).cmds = s.cmds := by cases s; rfl
@[simp] theorem updArr_orderCtr (f : Arr → Arr) : (s.updArr i f).orderCtr = s.orderCtr := by cases s; rfl
@[simp] theorem updArr_lastServed (f : Arr → Arr) : (s.updArr i f).lastServed = s.lastServed := by cases s; rfl
@[simp] theorem updArr_paused (f : Arr → Arr) : (s.updArr i f).paused = s.paused := by cases s; rfl
@[simp] theorem updArr_ctxs (f : Arr → Arr) : (s.updArr i f).ctxs = s.ctxs := by cases s; rfl
@[simp] theorem updArr_tiles (f : Arr → Arr) : (s.updArr i f).tiles = s.tiles := by cases s; rfl
@[simp] theorem updArr_cells (f : Arr → Arr) : (s.updArr i f).cells = s.cells := by cases s; rfl
@[simp] theorem updArr_gold (f : Arr → Arr) : (s.updArr i f).gold = s.gold := by cases s; rfl
@[simp] theorem updArr_flues (f : Arr → Arr) : (s.updArr i f).flues = s.flues := by cases s; rfl
@[simp] theorem updArr_flits (f : Arr → Arr) : (s.updArr i f).flits = s.flits := by cases s; rfl
@[simp] theorem updArr_kv (f : Arr → Arr) : (s.updArr i f).kv = s.kv := by cases s; rfl
@[simp] theorem updArr_reqs (f : Arr → Arr) : (s.updArr i f).reqs = s.reqs := by cases s; rfl
@[simp] theorem updArr_serve (f : Arr → Arr) : (s.updArr i f).serve = s.serve := by cases s; rfl
@[simp] theorem updArr_cal (f : Arr → Arr) : (s.updArr i f).cal = s.cal := by cases s; rfl
@[simp] theorem updArr_sweep (f : Arr → Arr) : (s.updArr i f).sweep = s.sweep := by cases s; rfl
@[simp] theorem updArr_test (f : Arr → Arr) : (s.updArr i f).test = s.test := by cases s; rfl
@[simp] theorem updArr_chim (f : Arr → Arr) : (s.updArr i f).chim = s.chim := by cases s; rfl

/-! ## setFlue -/

@[simp] theorem setFlue_pending (a : Flue) : (s.setFlue i a).pending = s.pending := by cases s; rfl
@[simp] theorem setFlue_freeCtr (a : Flue) : (s.setFlue i a).freeCtr = s.freeCtr := by cases s; rfl
@[simp] theorem setFlue_replies (a : Flue) : (s.setFlue i a).replies = s.replies := by cases s; rfl
@[simp] theorem setFlue_hostMem (a : Flue) : (s.setFlue i a).hostMem = s.hostMem := by cases s; rfl
@[simp] theorem setFlue_dev (a : Flue) : (s.setFlue i a).dev = s.dev := by cases s; rfl
@[simp] theorem setFlue_clk (a : Flue) : (s.setFlue i a).clk = s.clk := by cases s; rfl
@[simp] theorem setFlue_pwr (a : Flue) : (s.setFlue i a).pwr = s.pwr := by cases s; rfl
@[simp] theorem setFlue_thm (a : Flue) : (s.setFlue i a).thm = s.thm := by cases s; rfl
@[simp] theorem setFlue_log (a : Flue) : (s.setFlue i a).log = s.log := by cases s; rfl
@[simp] theorem setFlue_err (a : Flue) : (s.setFlue i a).err = s.err := by cases s; rfl
@[simp] theorem setFlue_host (a : Flue) : (s.setFlue i a).host = s.host := by cases s; rfl
@[simp] theorem setFlue_fns (a : Flue) : (s.setFlue i a).fns = s.fns := by cases s; rfl
@[simp] theorem setFlue_rings (a : Flue) : (s.setFlue i a).rings = s.rings := by cases s; rfl
@[simp] theorem setFlue_cmds (a : Flue) : (s.setFlue i a).cmds = s.cmds := by cases s; rfl
@[simp] theorem setFlue_orderCtr (a : Flue) : (s.setFlue i a).orderCtr = s.orderCtr := by cases s; rfl
@[simp] theorem setFlue_lastServed (a : Flue) : (s.setFlue i a).lastServed = s.lastServed := by cases s; rfl
@[simp] theorem setFlue_paused (a : Flue) : (s.setFlue i a).paused = s.paused := by cases s; rfl
@[simp] theorem setFlue_ctxs (a : Flue) : (s.setFlue i a).ctxs = s.ctxs := by cases s; rfl
@[simp] theorem setFlue_tiles (a : Flue) : (s.setFlue i a).tiles = s.tiles := by cases s; rfl
@[simp] theorem setFlue_cells (a : Flue) : (s.setFlue i a).cells = s.cells := by cases s; rfl
@[simp] theorem setFlue_gold (a : Flue) : (s.setFlue i a).gold = s.gold := by cases s; rfl
@[simp] theorem setFlue_arrs (a : Flue) : (s.setFlue i a).arrs = s.arrs := by cases s; rfl
@[simp] theorem setFlue_flues (a : Flue) : (s.setFlue i a).flues = store s.flues i (if a = Flue.reset then none else some a) := by cases s; rfl
@[simp] theorem setFlue_flits (a : Flue) : (s.setFlue i a).flits = s.flits := by cases s; rfl
@[simp] theorem setFlue_kv (a : Flue) : (s.setFlue i a).kv = s.kv := by cases s; rfl
@[simp] theorem setFlue_reqs (a : Flue) : (s.setFlue i a).reqs = s.reqs := by cases s; rfl
@[simp] theorem setFlue_serve (a : Flue) : (s.setFlue i a).serve = s.serve := by cases s; rfl
@[simp] theorem setFlue_cal (a : Flue) : (s.setFlue i a).cal = s.cal := by cases s; rfl
@[simp] theorem setFlue_sweep (a : Flue) : (s.setFlue i a).sweep = s.sweep := by cases s; rfl
@[simp] theorem setFlue_test (a : Flue) : (s.setFlue i a).test = s.test := by cases s; rfl
@[simp] theorem setFlue_chim (a : Flue) : (s.setFlue i a).chim = s.chim := by cases s; rfl

/-! ## updFlue -/

@[simp] theorem updFlue_pending (f : Flue → Flue) : (s.updFlue i f).pending = s.pending := by cases s; rfl
@[simp] theorem updFlue_freeCtr (f : Flue → Flue) : (s.updFlue i f).freeCtr = s.freeCtr := by cases s; rfl
@[simp] theorem updFlue_replies (f : Flue → Flue) : (s.updFlue i f).replies = s.replies := by cases s; rfl
@[simp] theorem updFlue_hostMem (f : Flue → Flue) : (s.updFlue i f).hostMem = s.hostMem := by cases s; rfl
@[simp] theorem updFlue_dev (f : Flue → Flue) : (s.updFlue i f).dev = s.dev := by cases s; rfl
@[simp] theorem updFlue_clk (f : Flue → Flue) : (s.updFlue i f).clk = s.clk := by cases s; rfl
@[simp] theorem updFlue_pwr (f : Flue → Flue) : (s.updFlue i f).pwr = s.pwr := by cases s; rfl
@[simp] theorem updFlue_thm (f : Flue → Flue) : (s.updFlue i f).thm = s.thm := by cases s; rfl
@[simp] theorem updFlue_log (f : Flue → Flue) : (s.updFlue i f).log = s.log := by cases s; rfl
@[simp] theorem updFlue_err (f : Flue → Flue) : (s.updFlue i f).err = s.err := by cases s; rfl
@[simp] theorem updFlue_host (f : Flue → Flue) : (s.updFlue i f).host = s.host := by cases s; rfl
@[simp] theorem updFlue_fns (f : Flue → Flue) : (s.updFlue i f).fns = s.fns := by cases s; rfl
@[simp] theorem updFlue_rings (f : Flue → Flue) : (s.updFlue i f).rings = s.rings := by cases s; rfl
@[simp] theorem updFlue_cmds (f : Flue → Flue) : (s.updFlue i f).cmds = s.cmds := by cases s; rfl
@[simp] theorem updFlue_orderCtr (f : Flue → Flue) : (s.updFlue i f).orderCtr = s.orderCtr := by cases s; rfl
@[simp] theorem updFlue_lastServed (f : Flue → Flue) : (s.updFlue i f).lastServed = s.lastServed := by cases s; rfl
@[simp] theorem updFlue_paused (f : Flue → Flue) : (s.updFlue i f).paused = s.paused := by cases s; rfl
@[simp] theorem updFlue_ctxs (f : Flue → Flue) : (s.updFlue i f).ctxs = s.ctxs := by cases s; rfl
@[simp] theorem updFlue_tiles (f : Flue → Flue) : (s.updFlue i f).tiles = s.tiles := by cases s; rfl
@[simp] theorem updFlue_cells (f : Flue → Flue) : (s.updFlue i f).cells = s.cells := by cases s; rfl
@[simp] theorem updFlue_gold (f : Flue → Flue) : (s.updFlue i f).gold = s.gold := by cases s; rfl
@[simp] theorem updFlue_arrs (f : Flue → Flue) : (s.updFlue i f).arrs = s.arrs := by cases s; rfl
@[simp] theorem updFlue_flits (f : Flue → Flue) : (s.updFlue i f).flits = s.flits := by cases s; rfl
@[simp] theorem updFlue_kv (f : Flue → Flue) : (s.updFlue i f).kv = s.kv := by cases s; rfl
@[simp] theorem updFlue_reqs (f : Flue → Flue) : (s.updFlue i f).reqs = s.reqs := by cases s; rfl
@[simp] theorem updFlue_serve (f : Flue → Flue) : (s.updFlue i f).serve = s.serve := by cases s; rfl
@[simp] theorem updFlue_cal (f : Flue → Flue) : (s.updFlue i f).cal = s.cal := by cases s; rfl
@[simp] theorem updFlue_sweep (f : Flue → Flue) : (s.updFlue i f).sweep = s.sweep := by cases s; rfl
@[simp] theorem updFlue_test (f : Flue → Flue) : (s.updFlue i f).test = s.test := by cases s; rfl
@[simp] theorem updFlue_chim (f : Flue → Flue) : (s.updFlue i f).chim = s.chim := by cases s; rfl

/-! ## setReq -/

@[simp] theorem setReq_pending (r : Option Req) : (s.setReq i r).pending = s.pending := by cases s; rfl
@[simp] theorem setReq_freeCtr (r : Option Req) : (s.setReq i r).freeCtr = s.freeCtr := by cases s; rfl
@[simp] theorem setReq_replies (r : Option Req) : (s.setReq i r).replies = s.replies := by cases s; rfl
@[simp] theorem setReq_hostMem (r : Option Req) : (s.setReq i r).hostMem = s.hostMem := by cases s; rfl
@[simp] theorem setReq_dev (r : Option Req) : (s.setReq i r).dev = s.dev := by cases s; rfl
@[simp] theorem setReq_clk (r : Option Req) : (s.setReq i r).clk = s.clk := by cases s; rfl
@[simp] theorem setReq_pwr (r : Option Req) : (s.setReq i r).pwr = s.pwr := by cases s; rfl
@[simp] theorem setReq_thm (r : Option Req) : (s.setReq i r).thm = s.thm := by cases s; rfl
@[simp] theorem setReq_log (r : Option Req) : (s.setReq i r).log = s.log := by cases s; rfl
@[simp] theorem setReq_err (r : Option Req) : (s.setReq i r).err = s.err := by cases s; rfl
@[simp] theorem setReq_host (r : Option Req) : (s.setReq i r).host = s.host := by cases s; rfl
@[simp] theorem setReq_fns (r : Option Req) : (s.setReq i r).fns = s.fns := by cases s; rfl
@[simp] theorem setReq_rings (r : Option Req) : (s.setReq i r).rings = s.rings := by cases s; rfl
@[simp] theorem setReq_cmds (r : Option Req) : (s.setReq i r).cmds = s.cmds := by cases s; rfl
@[simp] theorem setReq_orderCtr (r : Option Req) : (s.setReq i r).orderCtr = s.orderCtr := by cases s; rfl
@[simp] theorem setReq_lastServed (r : Option Req) : (s.setReq i r).lastServed = s.lastServed := by cases s; rfl
@[simp] theorem setReq_paused (r : Option Req) : (s.setReq i r).paused = s.paused := by cases s; rfl
@[simp] theorem setReq_ctxs (r : Option Req) : (s.setReq i r).ctxs = s.ctxs := by cases s; rfl
@[simp] theorem setReq_tiles (r : Option Req) : (s.setReq i r).tiles = s.tiles := by cases s; rfl
@[simp] theorem setReq_cells (r : Option Req) : (s.setReq i r).cells = s.cells := by cases s; rfl
@[simp] theorem setReq_gold (r : Option Req) : (s.setReq i r).gold = s.gold := by cases s; rfl
@[simp] theorem setReq_arrs (r : Option Req) : (s.setReq i r).arrs = s.arrs := by cases s; rfl
@[simp] theorem setReq_flues (r : Option Req) : (s.setReq i r).flues = s.flues := by cases s; rfl
@[simp] theorem setReq_flits (r : Option Req) : (s.setReq i r).flits = s.flits := by cases s; rfl
@[simp] theorem setReq_kv (r : Option Req) : (s.setReq i r).kv = s.kv := by cases s; rfl
@[simp] theorem setReq_reqs (r : Option Req) : (s.setReq i r).reqs = store s.reqs i r := by cases s; rfl
@[simp] theorem setReq_serve (r : Option Req) : (s.setReq i r).serve = s.serve := by cases s; rfl
@[simp] theorem setReq_cal (r : Option Req) : (s.setReq i r).cal = s.cal := by cases s; rfl
@[simp] theorem setReq_sweep (r : Option Req) : (s.setReq i r).sweep = s.sweep := by cases s; rfl
@[simp] theorem setReq_test (r : Option Req) : (s.setReq i r).test = s.test := by cases s; rfl
@[simp] theorem setReq_chim (r : Option Req) : (s.setReq i r).chim = s.chim := by cases s; rfl

/-! ## updRing -/

@[simp] theorem updRing_pending (f : Ring → Ring) : (s.updRing i f).pending = s.pending := by unfold updRing; split <;> rfl
@[simp] theorem updRing_freeCtr (f : Ring → Ring) : (s.updRing i f).freeCtr = s.freeCtr := by unfold updRing; split <;> rfl
@[simp] theorem updRing_replies (f : Ring → Ring) : (s.updRing i f).replies = s.replies := by unfold updRing; split <;> rfl
@[simp] theorem updRing_hostMem (f : Ring → Ring) : (s.updRing i f).hostMem = s.hostMem := by unfold updRing; split <;> rfl
@[simp] theorem updRing_dev (f : Ring → Ring) : (s.updRing i f).dev = s.dev := by unfold updRing; split <;> rfl
@[simp] theorem updRing_clk (f : Ring → Ring) : (s.updRing i f).clk = s.clk := by unfold updRing; split <;> rfl
@[simp] theorem updRing_pwr (f : Ring → Ring) : (s.updRing i f).pwr = s.pwr := by unfold updRing; split <;> rfl
@[simp] theorem updRing_thm (f : Ring → Ring) : (s.updRing i f).thm = s.thm := by unfold updRing; split <;> rfl
@[simp] theorem updRing_log (f : Ring → Ring) : (s.updRing i f).log = s.log := by unfold updRing; split <;> rfl
@[simp] theorem updRing_err (f : Ring → Ring) : (s.updRing i f).err = s.err := by unfold updRing; split <;> rfl
@[simp] theorem updRing_host (f : Ring → Ring) : (s.updRing i f).host = s.host := by unfold updRing; split <;> rfl
@[simp] theorem updRing_fns (f : Ring → Ring) : (s.updRing i f).fns = s.fns := by unfold updRing; split <;> rfl
@[simp] theorem updRing_cmds (f : Ring → Ring) : (s.updRing i f).cmds = s.cmds := by unfold updRing; split <;> rfl
@[simp] theorem updRing_orderCtr (f : Ring → Ring) : (s.updRing i f).orderCtr = s.orderCtr := by unfold updRing; split <;> rfl
@[simp] theorem updRing_lastServed (f : Ring → Ring) : (s.updRing i f).lastServed = s.lastServed := by unfold updRing; split <;> rfl
@[simp] theorem updRing_paused (f : Ring → Ring) : (s.updRing i f).paused = s.paused := by unfold updRing; split <;> rfl
@[simp] theorem updRing_ctxs (f : Ring → Ring) : (s.updRing i f).ctxs = s.ctxs := by unfold updRing; split <;> rfl
@[simp] theorem updRing_tiles (f : Ring → Ring) : (s.updRing i f).tiles = s.tiles := by unfold updRing; split <;> rfl
@[simp] theorem updRing_cells (f : Ring → Ring) : (s.updRing i f).cells = s.cells := by unfold updRing; split <;> rfl
@[simp] theorem updRing_gold (f : Ring → Ring) : (s.updRing i f).gold = s.gold := by unfold updRing; split <;> rfl
@[simp] theorem updRing_arrs (f : Ring → Ring) : (s.updRing i f).arrs = s.arrs := by unfold updRing; split <;> rfl
@[simp] theorem updRing_flues (f : Ring → Ring) : (s.updRing i f).flues = s.flues := by unfold updRing; split <;> rfl
@[simp] theorem updRing_flits (f : Ring → Ring) : (s.updRing i f).flits = s.flits := by unfold updRing; split <;> rfl
@[simp] theorem updRing_kv (f : Ring → Ring) : (s.updRing i f).kv = s.kv := by unfold updRing; split <;> rfl
@[simp] theorem updRing_reqs (f : Ring → Ring) : (s.updRing i f).reqs = s.reqs := by unfold updRing; split <;> rfl
@[simp] theorem updRing_serve (f : Ring → Ring) : (s.updRing i f).serve = s.serve := by unfold updRing; split <;> rfl
@[simp] theorem updRing_cal (f : Ring → Ring) : (s.updRing i f).cal = s.cal := by unfold updRing; split <;> rfl
@[simp] theorem updRing_sweep (f : Ring → Ring) : (s.updRing i f).sweep = s.sweep := by unfold updRing; split <;> rfl
@[simp] theorem updRing_test (f : Ring → Ring) : (s.updRing i f).test = s.test := by unfold updRing; split <;> rfl
@[simp] theorem updRing_chim (f : Ring → Ring) : (s.updRing i f).chim = s.chim := by unfold updRing; split <;> rfl

/-! ## updCtx -/

@[simp] theorem updCtx_pending (f : Ctx → Ctx) : (s.updCtx i f).pending = s.pending := by unfold updCtx; split <;> rfl
@[simp] theorem updCtx_freeCtr (f : Ctx → Ctx) : (s.updCtx i f).freeCtr = s.freeCtr := by unfold updCtx; split <;> rfl
@[simp] theorem updCtx_replies (f : Ctx → Ctx) : (s.updCtx i f).replies = s.replies := by unfold updCtx; split <;> rfl
@[simp] theorem updCtx_hostMem (f : Ctx → Ctx) : (s.updCtx i f).hostMem = s.hostMem := by unfold updCtx; split <;> rfl
@[simp] theorem updCtx_dev (f : Ctx → Ctx) : (s.updCtx i f).dev = s.dev := by unfold updCtx; split <;> rfl
@[simp] theorem updCtx_clk (f : Ctx → Ctx) : (s.updCtx i f).clk = s.clk := by unfold updCtx; split <;> rfl
@[simp] theorem updCtx_pwr (f : Ctx → Ctx) : (s.updCtx i f).pwr = s.pwr := by unfold updCtx; split <;> rfl
@[simp] theorem updCtx_thm (f : Ctx → Ctx) : (s.updCtx i f).thm = s.thm := by unfold updCtx; split <;> rfl
@[simp] theorem updCtx_log (f : Ctx → Ctx) : (s.updCtx i f).log = s.log := by unfold updCtx; split <;> rfl
@[simp] theorem updCtx_err (f : Ctx → Ctx) : (s.updCtx i f).err = s.err := by unfold updCtx; split <;> rfl
@[simp] theorem updCtx_host (f : Ctx → Ctx) : (s.updCtx i f).host = s.host := by unfold updCtx; split <;> rfl
@[simp] theorem updCtx_fns (f : Ctx → Ctx) : (s.updCtx i f).fns = s.fns := by unfold updCtx; split <;> rfl
@[simp] theorem updCtx_rings (f : Ctx → Ctx) : (s.updCtx i f).rings = s.rings := by unfold updCtx; split <;> rfl
@[simp] theorem updCtx_cmds (f : Ctx → Ctx) : (s.updCtx i f).cmds = s.cmds := by unfold updCtx; split <;> rfl
@[simp] theorem updCtx_orderCtr (f : Ctx → Ctx) : (s.updCtx i f).orderCtr = s.orderCtr := by unfold updCtx; split <;> rfl
@[simp] theorem updCtx_lastServed (f : Ctx → Ctx) : (s.updCtx i f).lastServed = s.lastServed := by unfold updCtx; split <;> rfl
@[simp] theorem updCtx_paused (f : Ctx → Ctx) : (s.updCtx i f).paused = s.paused := by unfold updCtx; split <;> rfl
@[simp] theorem updCtx_tiles (f : Ctx → Ctx) : (s.updCtx i f).tiles = s.tiles := by unfold updCtx; split <;> rfl
@[simp] theorem updCtx_cells (f : Ctx → Ctx) : (s.updCtx i f).cells = s.cells := by unfold updCtx; split <;> rfl
@[simp] theorem updCtx_gold (f : Ctx → Ctx) : (s.updCtx i f).gold = s.gold := by unfold updCtx; split <;> rfl
@[simp] theorem updCtx_arrs (f : Ctx → Ctx) : (s.updCtx i f).arrs = s.arrs := by unfold updCtx; split <;> rfl
@[simp] theorem updCtx_flues (f : Ctx → Ctx) : (s.updCtx i f).flues = s.flues := by unfold updCtx; split <;> rfl
@[simp] theorem updCtx_flits (f : Ctx → Ctx) : (s.updCtx i f).flits = s.flits := by unfold updCtx; split <;> rfl
@[simp] theorem updCtx_kv (f : Ctx → Ctx) : (s.updCtx i f).kv = s.kv := by unfold updCtx; split <;> rfl
@[simp] theorem updCtx_reqs (f : Ctx → Ctx) : (s.updCtx i f).reqs = s.reqs := by unfold updCtx; split <;> rfl
@[simp] theorem updCtx_serve (f : Ctx → Ctx) : (s.updCtx i f).serve = s.serve := by unfold updCtx; split <;> rfl
@[simp] theorem updCtx_cal (f : Ctx → Ctx) : (s.updCtx i f).cal = s.cal := by unfold updCtx; split <;> rfl
@[simp] theorem updCtx_sweep (f : Ctx → Ctx) : (s.updCtx i f).sweep = s.sweep := by unfold updCtx; split <;> rfl
@[simp] theorem updCtx_test (f : Ctx → Ctx) : (s.updCtx i f).test = s.test := by unfold updCtx; split <;> rfl
@[simp] theorem updCtx_chim (f : Ctx → Ctx) : (s.updCtx i f).chim = s.chim := by unfold updCtx; split <;> rfl

/-! ## updReq -/

@[simp] theorem updReq_pending (f : Req → Req) : (s.updReq i f).pending = s.pending := by unfold updReq; split <;> rfl
@[simp] theorem updReq_freeCtr (f : Req → Req) : (s.updReq i f).freeCtr = s.freeCtr := by unfold updReq; split <;> rfl
@[simp] theorem updReq_replies (f : Req → Req) : (s.updReq i f).replies = s.replies := by unfold updReq; split <;> rfl
@[simp] theorem updReq_hostMem (f : Req → Req) : (s.updReq i f).hostMem = s.hostMem := by unfold updReq; split <;> rfl
@[simp] theorem updReq_dev (f : Req → Req) : (s.updReq i f).dev = s.dev := by unfold updReq; split <;> rfl
@[simp] theorem updReq_clk (f : Req → Req) : (s.updReq i f).clk = s.clk := by unfold updReq; split <;> rfl
@[simp] theorem updReq_pwr (f : Req → Req) : (s.updReq i f).pwr = s.pwr := by unfold updReq; split <;> rfl
@[simp] theorem updReq_thm (f : Req → Req) : (s.updReq i f).thm = s.thm := by unfold updReq; split <;> rfl
@[simp] theorem updReq_log (f : Req → Req) : (s.updReq i f).log = s.log := by unfold updReq; split <;> rfl
@[simp] theorem updReq_err (f : Req → Req) : (s.updReq i f).err = s.err := by unfold updReq; split <;> rfl
@[simp] theorem updReq_host (f : Req → Req) : (s.updReq i f).host = s.host := by unfold updReq; split <;> rfl
@[simp] theorem updReq_fns (f : Req → Req) : (s.updReq i f).fns = s.fns := by unfold updReq; split <;> rfl
@[simp] theorem updReq_rings (f : Req → Req) : (s.updReq i f).rings = s.rings := by unfold updReq; split <;> rfl
@[simp] theorem updReq_cmds (f : Req → Req) : (s.updReq i f).cmds = s.cmds := by unfold updReq; split <;> rfl
@[simp] theorem updReq_orderCtr (f : Req → Req) : (s.updReq i f).orderCtr = s.orderCtr := by unfold updReq; split <;> rfl
@[simp] theorem updReq_lastServed (f : Req → Req) : (s.updReq i f).lastServed = s.lastServed := by unfold updReq; split <;> rfl
@[simp] theorem updReq_paused (f : Req → Req) : (s.updReq i f).paused = s.paused := by unfold updReq; split <;> rfl
@[simp] theorem updReq_ctxs (f : Req → Req) : (s.updReq i f).ctxs = s.ctxs := by unfold updReq; split <;> rfl
@[simp] theorem updReq_tiles (f : Req → Req) : (s.updReq i f).tiles = s.tiles := by unfold updReq; split <;> rfl
@[simp] theorem updReq_cells (f : Req → Req) : (s.updReq i f).cells = s.cells := by unfold updReq; split <;> rfl
@[simp] theorem updReq_gold (f : Req → Req) : (s.updReq i f).gold = s.gold := by unfold updReq; split <;> rfl
@[simp] theorem updReq_arrs (f : Req → Req) : (s.updReq i f).arrs = s.arrs := by unfold updReq; split <;> rfl
@[simp] theorem updReq_flues (f : Req → Req) : (s.updReq i f).flues = s.flues := by unfold updReq; split <;> rfl
@[simp] theorem updReq_flits (f : Req → Req) : (s.updReq i f).flits = s.flits := by unfold updReq; split <;> rfl
@[simp] theorem updReq_kv (f : Req → Req) : (s.updReq i f).kv = s.kv := by unfold updReq; split <;> rfl
@[simp] theorem updReq_serve (f : Req → Req) : (s.updReq i f).serve = s.serve := by unfold updReq; split <;> rfl
@[simp] theorem updReq_cal (f : Req → Req) : (s.updReq i f).cal = s.cal := by unfold updReq; split <;> rfl
@[simp] theorem updReq_sweep (f : Req → Req) : (s.updReq i f).sweep = s.sweep := by unfold updReq; split <;> rfl
@[simp] theorem updReq_test (f : Req → Req) : (s.updReq i f).test = s.test := by unfold updReq; split <;> rfl
@[simp] theorem updReq_chim (f : Req → Req) : (s.updReq i f).chim = s.chim := by unfold updReq; split <;> rfl

/-! ## Pages, host memory, replies, free values -/

@[simp] theorem setPage_pending (p : Option Page) : (s.setPage i p).pending = s.pending := by cases s; rfl
@[simp] theorem setPage_freeCtr (p : Option Page) : (s.setPage i p).freeCtr = s.freeCtr := by cases s; rfl
@[simp] theorem setPage_replies (p : Option Page) : (s.setPage i p).replies = s.replies := by cases s; rfl
@[simp] theorem setPage_hostMem (p : Option Page) : (s.setPage i p).hostMem = s.hostMem := by cases s; rfl
@[simp] theorem setPage_dev (p : Option Page) : (s.setPage i p).dev = s.dev := by cases s; rfl
@[simp] theorem setPage_clk (p : Option Page) : (s.setPage i p).clk = s.clk := by cases s; rfl
@[simp] theorem setPage_pwr (p : Option Page) : (s.setPage i p).pwr = s.pwr := by cases s; rfl
@[simp] theorem setPage_thm (p : Option Page) : (s.setPage i p).thm = s.thm := by cases s; rfl
@[simp] theorem setPage_log (p : Option Page) : (s.setPage i p).log = s.log := by cases s; rfl
@[simp] theorem setPage_err (p : Option Page) : (s.setPage i p).err = s.err := by cases s; rfl
@[simp] theorem setPage_host (p : Option Page) : (s.setPage i p).host = s.host := by cases s; rfl
@[simp] theorem setPage_fns (p : Option Page) : (s.setPage i p).fns = s.fns := by cases s; rfl
@[simp] theorem setPage_rings (p : Option Page) : (s.setPage i p).rings = s.rings := by cases s; rfl
@[simp] theorem setPage_cmds (p : Option Page) : (s.setPage i p).cmds = s.cmds := by cases s; rfl
@[simp] theorem setPage_orderCtr (p : Option Page) : (s.setPage i p).orderCtr = s.orderCtr := by cases s; rfl
@[simp] theorem setPage_lastServed (p : Option Page) : (s.setPage i p).lastServed = s.lastServed := by cases s; rfl
@[simp] theorem setPage_paused (p : Option Page) : (s.setPage i p).paused = s.paused := by cases s; rfl
@[simp] theorem setPage_ctxs (p : Option Page) : (s.setPage i p).ctxs = s.ctxs := by cases s; rfl
@[simp] theorem setPage_tiles (p : Option Page) : (s.setPage i p).tiles = s.tiles := by cases s; rfl
@[simp] theorem setPage_cells (p : Option Page) : (s.setPage i p).cells = s.cells := by cases s; rfl
@[simp] theorem setPage_gold (p : Option Page) : (s.setPage i p).gold = s.gold := by cases s; rfl
@[simp] theorem setPage_arrs (p : Option Page) : (s.setPage i p).arrs = s.arrs := by cases s; rfl
@[simp] theorem setPage_flues (p : Option Page) : (s.setPage i p).flues = s.flues := by cases s; rfl
@[simp] theorem setPage_flits (p : Option Page) : (s.setPage i p).flits = s.flits := by cases s; rfl
@[simp] theorem setPage_reqs (p : Option Page) : (s.setPage i p).reqs = s.reqs := by cases s; rfl
@[simp] theorem setPage_serve (p : Option Page) : (s.setPage i p).serve = s.serve := by cases s; rfl
@[simp] theorem setPage_cal (p : Option Page) : (s.setPage i p).cal = s.cal := by cases s; rfl
@[simp] theorem setPage_sweep (p : Option Page) : (s.setPage i p).sweep = s.sweep := by cases s; rfl
@[simp] theorem setPage_test (p : Option Page) : (s.setPage i p).test = s.test := by cases s; rfl
@[simp] theorem setPage_chim (p : Option Page) : (s.setPage i p).chim = s.chim := by cases s; rfl
@[simp] theorem updPage_pending (f : Page → Page) : (s.updPage i f).pending = s.pending := by unfold updPage; split <;> rfl
@[simp] theorem updPage_freeCtr (f : Page → Page) : (s.updPage i f).freeCtr = s.freeCtr := by unfold updPage; split <;> rfl
@[simp] theorem updPage_replies (f : Page → Page) : (s.updPage i f).replies = s.replies := by unfold updPage; split <;> rfl
@[simp] theorem updPage_hostMem (f : Page → Page) : (s.updPage i f).hostMem = s.hostMem := by unfold updPage; split <;> rfl
@[simp] theorem updPage_dev (f : Page → Page) : (s.updPage i f).dev = s.dev := by unfold updPage; split <;> rfl
@[simp] theorem updPage_clk (f : Page → Page) : (s.updPage i f).clk = s.clk := by unfold updPage; split <;> rfl
@[simp] theorem updPage_pwr (f : Page → Page) : (s.updPage i f).pwr = s.pwr := by unfold updPage; split <;> rfl
@[simp] theorem updPage_thm (f : Page → Page) : (s.updPage i f).thm = s.thm := by unfold updPage; split <;> rfl
@[simp] theorem updPage_log (f : Page → Page) : (s.updPage i f).log = s.log := by unfold updPage; split <;> rfl
@[simp] theorem updPage_err (f : Page → Page) : (s.updPage i f).err = s.err := by unfold updPage; split <;> rfl
@[simp] theorem updPage_host (f : Page → Page) : (s.updPage i f).host = s.host := by unfold updPage; split <;> rfl
@[simp] theorem updPage_fns (f : Page → Page) : (s.updPage i f).fns = s.fns := by unfold updPage; split <;> rfl
@[simp] theorem updPage_rings (f : Page → Page) : (s.updPage i f).rings = s.rings := by unfold updPage; split <;> rfl
@[simp] theorem updPage_cmds (f : Page → Page) : (s.updPage i f).cmds = s.cmds := by unfold updPage; split <;> rfl
@[simp] theorem updPage_orderCtr (f : Page → Page) : (s.updPage i f).orderCtr = s.orderCtr := by unfold updPage; split <;> rfl
@[simp] theorem updPage_lastServed (f : Page → Page) : (s.updPage i f).lastServed = s.lastServed := by unfold updPage; split <;> rfl
@[simp] theorem updPage_paused (f : Page → Page) : (s.updPage i f).paused = s.paused := by unfold updPage; split <;> rfl
@[simp] theorem updPage_ctxs (f : Page → Page) : (s.updPage i f).ctxs = s.ctxs := by unfold updPage; split <;> rfl
@[simp] theorem updPage_tiles (f : Page → Page) : (s.updPage i f).tiles = s.tiles := by unfold updPage; split <;> rfl
@[simp] theorem updPage_cells (f : Page → Page) : (s.updPage i f).cells = s.cells := by unfold updPage; split <;> rfl
@[simp] theorem updPage_gold (f : Page → Page) : (s.updPage i f).gold = s.gold := by unfold updPage; split <;> rfl
@[simp] theorem updPage_arrs (f : Page → Page) : (s.updPage i f).arrs = s.arrs := by unfold updPage; split <;> rfl
@[simp] theorem updPage_flues (f : Page → Page) : (s.updPage i f).flues = s.flues := by unfold updPage; split <;> rfl
@[simp] theorem updPage_flits (f : Page → Page) : (s.updPage i f).flits = s.flits := by unfold updPage; split <;> rfl
@[simp] theorem updPage_reqs (f : Page → Page) : (s.updPage i f).reqs = s.reqs := by unfold updPage; split <;> rfl
@[simp] theorem updPage_serve (f : Page → Page) : (s.updPage i f).serve = s.serve := by unfold updPage; split <;> rfl
@[simp] theorem updPage_cal (f : Page → Page) : (s.updPage i f).cal = s.cal := by unfold updPage; split <;> rfl
@[simp] theorem updPage_sweep (f : Page → Page) : (s.updPage i f).sweep = s.sweep := by unfold updPage; split <;> rfl
@[simp] theorem updPage_test (f : Page → Page) : (s.updPage i f).test = s.test := by unfold updPage; split <;> rfl
@[simp] theorem updPage_chim (f : Page → Page) : (s.updPage i f).chim = s.chim := by unfold updPage; split <;> rfl
@[simp] theorem hostWrite_pending (bs : List Byte) : (s.hostWrite i bs).pending = s.pending := by cases s; rfl
@[simp] theorem hostWrite_freeCtr (bs : List Byte) : (s.hostWrite i bs).freeCtr = s.freeCtr := by cases s; rfl
@[simp] theorem hostWrite_replies (bs : List Byte) : (s.hostWrite i bs).replies = s.replies := by cases s; rfl
@[simp] theorem hostWrite_dev (bs : List Byte) : (s.hostWrite i bs).dev = s.dev := by cases s; rfl
@[simp] theorem hostWrite_clk (bs : List Byte) : (s.hostWrite i bs).clk = s.clk := by cases s; rfl
@[simp] theorem hostWrite_pwr (bs : List Byte) : (s.hostWrite i bs).pwr = s.pwr := by cases s; rfl
@[simp] theorem hostWrite_thm (bs : List Byte) : (s.hostWrite i bs).thm = s.thm := by cases s; rfl
@[simp] theorem hostWrite_log (bs : List Byte) : (s.hostWrite i bs).log = s.log := by cases s; rfl
@[simp] theorem hostWrite_err (bs : List Byte) : (s.hostWrite i bs).err = s.err := by cases s; rfl
@[simp] theorem hostWrite_host (bs : List Byte) : (s.hostWrite i bs).host = s.host := by cases s; rfl
@[simp] theorem hostWrite_fns (bs : List Byte) : (s.hostWrite i bs).fns = s.fns := by cases s; rfl
@[simp] theorem hostWrite_rings (bs : List Byte) : (s.hostWrite i bs).rings = s.rings := by cases s; rfl
@[simp] theorem hostWrite_cmds (bs : List Byte) : (s.hostWrite i bs).cmds = s.cmds := by cases s; rfl
@[simp] theorem hostWrite_orderCtr (bs : List Byte) : (s.hostWrite i bs).orderCtr = s.orderCtr := by cases s; rfl
@[simp] theorem hostWrite_lastServed (bs : List Byte) : (s.hostWrite i bs).lastServed = s.lastServed := by cases s; rfl
@[simp] theorem hostWrite_paused (bs : List Byte) : (s.hostWrite i bs).paused = s.paused := by cases s; rfl
@[simp] theorem hostWrite_ctxs (bs : List Byte) : (s.hostWrite i bs).ctxs = s.ctxs := by cases s; rfl
@[simp] theorem hostWrite_tiles (bs : List Byte) : (s.hostWrite i bs).tiles = s.tiles := by cases s; rfl
@[simp] theorem hostWrite_cells (bs : List Byte) : (s.hostWrite i bs).cells = s.cells := by cases s; rfl
@[simp] theorem hostWrite_gold (bs : List Byte) : (s.hostWrite i bs).gold = s.gold := by cases s; rfl
@[simp] theorem hostWrite_arrs (bs : List Byte) : (s.hostWrite i bs).arrs = s.arrs := by cases s; rfl
@[simp] theorem hostWrite_flues (bs : List Byte) : (s.hostWrite i bs).flues = s.flues := by cases s; rfl
@[simp] theorem hostWrite_flits (bs : List Byte) : (s.hostWrite i bs).flits = s.flits := by cases s; rfl
@[simp] theorem hostWrite_kv (bs : List Byte) : (s.hostWrite i bs).kv = s.kv := by cases s; rfl
@[simp] theorem hostWrite_reqs (bs : List Byte) : (s.hostWrite i bs).reqs = s.reqs := by cases s; rfl
@[simp] theorem hostWrite_serve (bs : List Byte) : (s.hostWrite i bs).serve = s.serve := by cases s; rfl
@[simp] theorem hostWrite_cal (bs : List Byte) : (s.hostWrite i bs).cal = s.cal := by cases s; rfl
@[simp] theorem hostWrite_sweep (bs : List Byte) : (s.hostWrite i bs).sweep = s.sweep := by cases s; rfl
@[simp] theorem hostWrite_test (bs : List Byte) : (s.hostWrite i bs).test = s.test := by cases s; rfl
@[simp] theorem hostWrite_chim (bs : List Byte) : (s.hostWrite i bs).chim = s.chim := by cases s; rfl
@[simp] theorem hostWrite_hostMem (bs : List Byte) : (s.hostWrite i bs).hostMem = Mem.write s.hostMem i bs := by cases s; rfl
@[simp] theorem reply_pending (v : Nat) : (s.reply v).pending = s.pending := by cases s; rfl
@[simp] theorem reply_freeCtr (v : Nat) : (s.reply v).freeCtr = s.freeCtr := by cases s; rfl
@[simp] theorem reply_hostMem (v : Nat) : (s.reply v).hostMem = s.hostMem := by cases s; rfl
@[simp] theorem reply_dev (v : Nat) : (s.reply v).dev = s.dev := by cases s; rfl
@[simp] theorem reply_clk (v : Nat) : (s.reply v).clk = s.clk := by cases s; rfl
@[simp] theorem reply_pwr (v : Nat) : (s.reply v).pwr = s.pwr := by cases s; rfl
@[simp] theorem reply_thm (v : Nat) : (s.reply v).thm = s.thm := by cases s; rfl
@[simp] theorem reply_log (v : Nat) : (s.reply v).log = s.log := by cases s; rfl
@[simp] theorem reply_err (v : Nat) : (s.reply v).err = s.err := by cases s; rfl
@[simp] theorem reply_host (v : Nat) : (s.reply v).host = s.host := by cases s; rfl
@[simp] theorem reply_fns (v : Nat) : (s.reply v).fns = s.fns := by cases s; rfl
@[simp] theorem reply_rings (v : Nat) : (s.reply v).rings = s.rings := by cases s; rfl
@[simp] theorem reply_cmds (v : Nat) : (s.reply v).cmds = s.cmds := by cases s; rfl
@[simp] theorem reply_orderCtr (v : Nat) : (s.reply v).orderCtr = s.orderCtr := by cases s; rfl
@[simp] theorem reply_lastServed (v : Nat) : (s.reply v).lastServed = s.lastServed := by cases s; rfl
@[simp] theorem reply_paused (v : Nat) : (s.reply v).paused = s.paused := by cases s; rfl
@[simp] theorem reply_ctxs (v : Nat) : (s.reply v).ctxs = s.ctxs := by cases s; rfl
@[simp] theorem reply_tiles (v : Nat) : (s.reply v).tiles = s.tiles := by cases s; rfl
@[simp] theorem reply_cells (v : Nat) : (s.reply v).cells = s.cells := by cases s; rfl
@[simp] theorem reply_gold (v : Nat) : (s.reply v).gold = s.gold := by cases s; rfl
@[simp] theorem reply_arrs (v : Nat) : (s.reply v).arrs = s.arrs := by cases s; rfl
@[simp] theorem reply_flues (v : Nat) : (s.reply v).flues = s.flues := by cases s; rfl
@[simp] theorem reply_flits (v : Nat) : (s.reply v).flits = s.flits := by cases s; rfl
@[simp] theorem reply_kv (v : Nat) : (s.reply v).kv = s.kv := by cases s; rfl
@[simp] theorem reply_reqs (v : Nat) : (s.reply v).reqs = s.reqs := by cases s; rfl
@[simp] theorem reply_serve (v : Nat) : (s.reply v).serve = s.serve := by cases s; rfl
@[simp] theorem reply_cal (v : Nat) : (s.reply v).cal = s.cal := by cases s; rfl
@[simp] theorem reply_sweep (v : Nat) : (s.reply v).sweep = s.sweep := by cases s; rfl
@[simp] theorem reply_test (v : Nat) : (s.reply v).test = s.test := by cases s; rfl
@[simp] theorem reply_chim (v : Nat) : (s.reply v).chim = s.chim := by cases s; rfl
@[simp] theorem reply_replies (v : Nat) : (s.reply v).replies = v :: s.replies := by cases s; rfl
@[simp] theorem fresh_pending : s.fresh.2.pending = s.pending := by cases s; rfl
@[simp] theorem fresh_replies : s.fresh.2.replies = s.replies := by cases s; rfl
@[simp] theorem fresh_hostMem : s.fresh.2.hostMem = s.hostMem := by cases s; rfl
@[simp] theorem fresh_dev : s.fresh.2.dev = s.dev := by cases s; rfl
@[simp] theorem fresh_clk : s.fresh.2.clk = s.clk := by cases s; rfl
@[simp] theorem fresh_pwr : s.fresh.2.pwr = s.pwr := by cases s; rfl
@[simp] theorem fresh_thm : s.fresh.2.thm = s.thm := by cases s; rfl
@[simp] theorem fresh_log : s.fresh.2.log = s.log := by cases s; rfl
@[simp] theorem fresh_err : s.fresh.2.err = s.err := by cases s; rfl
@[simp] theorem fresh_host : s.fresh.2.host = s.host := by cases s; rfl
@[simp] theorem fresh_fns : s.fresh.2.fns = s.fns := by cases s; rfl
@[simp] theorem fresh_rings : s.fresh.2.rings = s.rings := by cases s; rfl
@[simp] theorem fresh_cmds : s.fresh.2.cmds = s.cmds := by cases s; rfl
@[simp] theorem fresh_orderCtr : s.fresh.2.orderCtr = s.orderCtr := by cases s; rfl
@[simp] theorem fresh_lastServed : s.fresh.2.lastServed = s.lastServed := by cases s; rfl
@[simp] theorem fresh_paused : s.fresh.2.paused = s.paused := by cases s; rfl
@[simp] theorem fresh_ctxs : s.fresh.2.ctxs = s.ctxs := by cases s; rfl
@[simp] theorem fresh_tiles : s.fresh.2.tiles = s.tiles := by cases s; rfl
@[simp] theorem fresh_cells : s.fresh.2.cells = s.cells := by cases s; rfl
@[simp] theorem fresh_gold : s.fresh.2.gold = s.gold := by cases s; rfl
@[simp] theorem fresh_arrs : s.fresh.2.arrs = s.arrs := by cases s; rfl
@[simp] theorem fresh_flues : s.fresh.2.flues = s.flues := by cases s; rfl
@[simp] theorem fresh_flits : s.fresh.2.flits = s.flits := by cases s; rfl
@[simp] theorem fresh_kv : s.fresh.2.kv = s.kv := by cases s; rfl
@[simp] theorem fresh_reqs : s.fresh.2.reqs = s.reqs := by cases s; rfl
@[simp] theorem fresh_serve : s.fresh.2.serve = s.serve := by cases s; rfl
@[simp] theorem fresh_cal : s.fresh.2.cal = s.cal := by cases s; rfl
@[simp] theorem fresh_sweep : s.fresh.2.sweep = s.sweep := by cases s; rfl
@[simp] theorem fresh_test : s.fresh.2.test = s.test := by cases s; rfl
@[simp] theorem fresh_chim : s.fresh.2.chim = s.chim := by cases s; rfl
@[simp] theorem fresh_freeCtr : s.fresh.2.freeCtr = s.freeCtr + 1 := by cases s; rfl

end Sys2Proof.Machine.State
end

