-- ==== Sys2Proof/Laws/Ops.lean ====
section
/-! SUPPORT. What each shared operation leaves alone, one lemma a field, and what it does to the rest. -/

namespace Sys2Proof.Machine

variable (s : State)

/-- A fold leaves alone what each of its steps leaves alone. -/
theorem foldl_field {α β : Type} (g : State → β) {f : State → α → State} (h : ∀ s a, g (f s a) = g s) (l : List α) (s : State) :
    g (l.foldl f s) = g s := by
  induction l generalizing s with
  | nil => rfl
  | cons a l ih => rw [List.foldl_cons, ih, h]

/-! ## tick: one SCLK cycle changes the device times alone -/

@[simp] theorem tick_pending  : (tick s).pending = s.pending := by unfold tick; split <;> simp
@[simp] theorem tick_freeCtr  : (tick s).freeCtr = s.freeCtr := by unfold tick; split <;> simp
@[simp] theorem tick_replies  : (tick s).replies = s.replies := by unfold tick; split <;> simp
@[simp] theorem tick_hostMem  : (tick s).hostMem = s.hostMem := by unfold tick; split <;> simp
@[simp] theorem tick_clk  : (tick s).clk = s.clk := by unfold tick; split <;> simp
@[simp] theorem tick_pwr  : (tick s).pwr = s.pwr := by unfold tick; split <;> simp
@[simp] theorem tick_thm  : (tick s).thm = s.thm := by unfold tick; split <;> simp
@[simp] theorem tick_log  : (tick s).log = s.log := by unfold tick; split <;> simp
@[simp] theorem tick_err  : (tick s).err = s.err := by unfold tick; split <;> simp
@[simp] theorem tick_host  : (tick s).host = s.host := by unfold tick; split <;> simp
@[simp] theorem tick_fns  : (tick s).fns = s.fns := by unfold tick; split <;> simp
@[simp] theorem tick_rings  : (tick s).rings = s.rings := by unfold tick; split <;> simp
@[simp] theorem tick_cmds  : (tick s).cmds = s.cmds := by unfold tick; split <;> simp
@[simp] theorem tick_orderCtr  : (tick s).orderCtr = s.orderCtr := by unfold tick; split <;> simp
@[simp] theorem tick_lastServed  : (tick s).lastServed = s.lastServed := by unfold tick; split <;> simp
@[simp] theorem tick_paused  : (tick s).paused = s.paused := by unfold tick; split <;> simp
@[simp] theorem tick_ctxs  : (tick s).ctxs = s.ctxs := by unfold tick; split <;> simp
@[simp] theorem tick_tiles  : (tick s).tiles = s.tiles := by unfold tick; split <;> simp
@[simp] theorem tick_cells  : (tick s).cells = s.cells := by unfold tick; split <;> simp
@[simp] theorem tick_gold  : (tick s).gold = s.gold := by unfold tick; split <;> simp
@[simp] theorem tick_arrs  : (tick s).arrs = s.arrs := by unfold tick; split <;> simp
@[simp] theorem tick_flues  : (tick s).flues = s.flues := by unfold tick; split <;> simp
@[simp] theorem tick_flits  : (tick s).flits = s.flits := by unfold tick; split <;> simp
@[simp] theorem tick_kv  : (tick s).kv = s.kv := by unfold tick; split <;> simp
@[simp] theorem tick_reqs  : (tick s).reqs = s.reqs := by unfold tick; split <;> simp
@[simp] theorem tick_serve  : (tick s).serve = s.serve := by unfold tick; split <;> simp
@[simp] theorem tick_cal  : (tick s).cal = s.cal := by unfold tick; split <;> simp
@[simp] theorem tick_sweep  : (tick s).sweep = s.sweep := by unfold tick; split <;> simp
@[simp] theorem tick_test  : (tick s).test = s.test := by unfold tick; split <;> simp
@[simp] theorem tick_chim  : (tick s).chim = s.chim := by unfold tick; split <;> simp

/-! ## goState: entering a device state changes the state, the clock branches and VCORE -/

@[simp] theorem goState_pending (st : DevSt) : (goState s st).pending = s.pending := by cases s; rfl
@[simp] theorem goState_freeCtr (st : DevSt) : (goState s st).freeCtr = s.freeCtr := by cases s; rfl
@[simp] theorem goState_replies (st : DevSt) : (goState s st).replies = s.replies := by cases s; rfl
@[simp] theorem goState_hostMem (st : DevSt) : (goState s st).hostMem = s.hostMem := by cases s; rfl
@[simp] theorem goState_thm (st : DevSt) : (goState s st).thm = s.thm := by cases s; rfl
@[simp] theorem goState_log (st : DevSt) : (goState s st).log = s.log := by cases s; rfl
@[simp] theorem goState_err (st : DevSt) : (goState s st).err = s.err := by cases s; rfl
@[simp] theorem goState_host (st : DevSt) : (goState s st).host = s.host := by cases s; rfl
@[simp] theorem goState_fns (st : DevSt) : (goState s st).fns = s.fns := by cases s; rfl
@[simp] theorem goState_rings (st : DevSt) : (goState s st).rings = s.rings := by cases s; rfl
@[simp] theorem goState_cmds (st : DevSt) : (goState s st).cmds = s.cmds := by cases s; rfl
@[simp] theorem goState_orderCtr (st : DevSt) : (goState s st).orderCtr = s.orderCtr := by cases s; rfl
@[simp] theorem goState_lastServed (st : DevSt) : (goState s st).lastServed = s.lastServed := by cases s; rfl
@[simp] theorem goState_paused (st : DevSt) : (goState s st).paused = s.paused := by cases s; rfl
@[simp] theorem goState_ctxs (st : DevSt) : (goState s st).ctxs = s.ctxs := by cases s; rfl
@[simp] theorem goState_tiles (st : DevSt) : (goState s st).tiles = s.tiles := by cases s; rfl
@[simp] theorem goState_cells (st : DevSt) : (goState s st).cells = s.cells := by cases s; rfl
@[simp] theorem goState_gold (st : DevSt) : (goState s st).gold = s.gold := by cases s; rfl
@[simp] theorem goState_arrs (st : DevSt) : (goState s st).arrs = s.arrs := by cases s; rfl
@[simp] theorem goState_flues (st : DevSt) : (goState s st).flues = s.flues := by cases s; rfl
@[simp] theorem goState_flits (st : DevSt) : (goState s st).flits = s.flits := by cases s; rfl
@[simp] theorem goState_kv (st : DevSt) : (goState s st).kv = s.kv := by cases s; rfl
@[simp] theorem goState_reqs (st : DevSt) : (goState s st).reqs = s.reqs := by cases s; rfl
@[simp] theorem goState_serve (st : DevSt) : (goState s st).serve = s.serve := by cases s; rfl
@[simp] theorem goState_cal (st : DevSt) : (goState s st).cal = s.cal := by cases s; rfl
@[simp] theorem goState_sweep (st : DevSt) : (goState s st).sweep = s.sweep := by cases s; rfl
@[simp] theorem goState_test (st : DevSt) : (goState s st).test = s.test := by cases s; rfl
@[simp] theorem goState_chim (st : DevSt) : (goState s st).chim = s.chim := by cases s; rfl

/-! ## forceSafe: the safe states are a mark of the device -/

@[simp] theorem forceSafe_pending  : (forceSafe s).pending = s.pending := by cases s; rfl
@[simp] theorem forceSafe_freeCtr  : (forceSafe s).freeCtr = s.freeCtr := by cases s; rfl
@[simp] theorem forceSafe_replies  : (forceSafe s).replies = s.replies := by cases s; rfl
@[simp] theorem forceSafe_hostMem  : (forceSafe s).hostMem = s.hostMem := by cases s; rfl
@[simp] theorem forceSafe_clk  : (forceSafe s).clk = s.clk := by cases s; rfl
@[simp] theorem forceSafe_pwr  : (forceSafe s).pwr = s.pwr := by cases s; rfl
@[simp] theorem forceSafe_thm  : (forceSafe s).thm = s.thm := by cases s; rfl
@[simp] theorem forceSafe_log  : (forceSafe s).log = s.log := by cases s; rfl
@[simp] theorem forceSafe_err  : (forceSafe s).err = s.err := by cases s; rfl
@[simp] theorem forceSafe_host  : (forceSafe s).host = s.host := by cases s; rfl
@[simp] theorem forceSafe_fns  : (forceSafe s).fns = s.fns := by cases s; rfl
@[simp] theorem forceSafe_rings  : (forceSafe s).rings = s.rings := by cases s; rfl
@[simp] theorem forceSafe_cmds  : (forceSafe s).cmds = s.cmds := by cases s; rfl
@[simp] theorem forceSafe_orderCtr  : (forceSafe s).orderCtr = s.orderCtr := by cases s; rfl
@[simp] theorem forceSafe_lastServed  : (forceSafe s).lastServed = s.lastServed := by cases s; rfl
@[simp] theorem forceSafe_paused  : (forceSafe s).paused = s.paused := by cases s; rfl
@[simp] theorem forceSafe_ctxs  : (forceSafe s).ctxs = s.ctxs := by cases s; rfl
@[simp] theorem forceSafe_tiles  : (forceSafe s).tiles = s.tiles := by cases s; rfl
@[simp] theorem forceSafe_cells  : (forceSafe s).cells = s.cells := by cases s; rfl
@[simp] theorem forceSafe_gold  : (forceSafe s).gold = s.gold := by cases s; rfl
@[simp] theorem forceSafe_arrs  : (forceSafe s).arrs = s.arrs := by cases s; rfl
@[simp] theorem forceSafe_flues  : (forceSafe s).flues = s.flues := by cases s; rfl
@[simp] theorem forceSafe_flits  : (forceSafe s).flits = s.flits := by cases s; rfl
@[simp] theorem forceSafe_kv  : (forceSafe s).kv = s.kv := by cases s; rfl
@[simp] theorem forceSafe_reqs  : (forceSafe s).reqs = s.reqs := by cases s; rfl
@[simp] theorem forceSafe_serve  : (forceSafe s).serve = s.serve := by cases s; rfl
@[simp] theorem forceSafe_cal  : (forceSafe s).cal = s.cal := by cases s; rfl
@[simp] theorem forceSafe_sweep  : (forceSafe s).sweep = s.sweep := by cases s; rfl
@[simp] theorem forceSafe_test  : (forceSafe s).test = s.test := by cases s; rfl
@[simp] theorem forceSafe_chim  : (forceSafe s).chim = s.chim := by cases s; rfl

/-! ## logEvent: logging an event changes the mantel log alone -/

@[simp] theorem logEvent_pending (code domain data : Nat) : (logEvent s code domain data).pending = s.pending := by unfold logEvent; split <;> simp
@[simp] theorem logEvent_freeCtr (code domain data : Nat) : (logEvent s code domain data).freeCtr = s.freeCtr := by unfold logEvent; split <;> simp
@[simp] theorem logEvent_replies (code domain data : Nat) : (logEvent s code domain data).replies = s.replies := by unfold logEvent; split <;> simp
@[simp] theorem logEvent_hostMem (code domain data : Nat) : (logEvent s code domain data).hostMem = s.hostMem := by unfold logEvent; split <;> simp
@[simp] theorem logEvent_dev (code domain data : Nat) : (logEvent s code domain data).dev = s.dev := by unfold logEvent; split <;> simp
@[simp] theorem logEvent_clk (code domain data : Nat) : (logEvent s code domain data).clk = s.clk := by unfold logEvent; split <;> simp
@[simp] theorem logEvent_pwr (code domain data : Nat) : (logEvent s code domain data).pwr = s.pwr := by unfold logEvent; split <;> simp
@[simp] theorem logEvent_thm (code domain data : Nat) : (logEvent s code domain data).thm = s.thm := by unfold logEvent; split <;> simp
@[simp] theorem logEvent_err (code domain data : Nat) : (logEvent s code domain data).err = s.err := by unfold logEvent; split <;> simp
@[simp] theorem logEvent_host (code domain data : Nat) : (logEvent s code domain data).host = s.host := by unfold logEvent; split <;> simp
@[simp] theorem logEvent_fns (code domain data : Nat) : (logEvent s code domain data).fns = s.fns := by unfold logEvent; split <;> simp
@[simp] theorem logEvent_rings (code domain data : Nat) : (logEvent s code domain data).rings = s.rings := by unfold logEvent; split <;> simp
@[simp] theorem logEvent_cmds (code domain data : Nat) : (logEvent s code domain data).cmds = s.cmds := by unfold logEvent; split <;> simp
@[simp] theorem logEvent_orderCtr (code domain data : Nat) : (logEvent s code domain data).orderCtr = s.orderCtr := by unfold logEvent; split <;> simp
@[simp] theorem logEvent_lastServed (code domain data : Nat) : (logEvent s code domain data).lastServed = s.lastServed := by unfold logEvent; split <;> simp
@[simp] theorem logEvent_paused (code domain data : Nat) : (logEvent s code domain data).paused = s.paused := by unfold logEvent; split <;> simp
@[simp] theorem logEvent_ctxs (code domain data : Nat) : (logEvent s code domain data).ctxs = s.ctxs := by unfold logEvent; split <;> simp
@[simp] theorem logEvent_tiles (code domain data : Nat) : (logEvent s code domain data).tiles = s.tiles := by unfold logEvent; split <;> simp
@[simp] theorem logEvent_cells (code domain data : Nat) : (logEvent s code domain data).cells = s.cells := by unfold logEvent; split <;> simp
@[simp] theorem logEvent_gold (code domain data : Nat) : (logEvent s code domain data).gold = s.gold := by unfold logEvent; split <;> simp
@[simp] theorem logEvent_arrs (code domain data : Nat) : (logEvent s code domain data).arrs = s.arrs := by unfold logEvent; split <;> simp
@[simp] theorem logEvent_flues (code domain data : Nat) : (logEvent s code domain data).flues = s.flues := by unfold logEvent; split <;> simp
@[simp] theorem logEvent_flits (code domain data : Nat) : (logEvent s code domain data).flits = s.flits := by unfold logEvent; split <;> simp
@[simp] theorem logEvent_kv (code domain data : Nat) : (logEvent s code domain data).kv = s.kv := by unfold logEvent; split <;> simp
@[simp] theorem logEvent_reqs (code domain data : Nat) : (logEvent s code domain data).reqs = s.reqs := by unfold logEvent; split <;> simp
@[simp] theorem logEvent_serve (code domain data : Nat) : (logEvent s code domain data).serve = s.serve := by unfold logEvent; split <;> simp
@[simp] theorem logEvent_cal (code domain data : Nat) : (logEvent s code domain data).cal = s.cal := by unfold logEvent; split <;> simp
@[simp] theorem logEvent_sweep (code domain data : Nat) : (logEvent s code domain data).sweep = s.sweep := by unfold logEvent; split <;> simp
@[simp] theorem logEvent_test (code domain data : Nat) : (logEvent s code domain data).test = s.test := by unfold logEvent; split <;> simp
@[simp] theorem logEvent_chim (code domain data : Nat) : (logEvent s code domain data).chim = s.chim := by unfold logEvent; split <;> simp

/-! ## logHeld: writing the held events changes the mantel log alone -/

@[simp] theorem logHeld_pending  : (logHeld s).pending = s.pending := by cases s; rfl
@[simp] theorem logHeld_freeCtr  : (logHeld s).freeCtr = s.freeCtr := by cases s; rfl
@[simp] theorem logHeld_replies  : (logHeld s).replies = s.replies := by cases s; rfl
@[simp] theorem logHeld_hostMem  : (logHeld s).hostMem = s.hostMem := by cases s; rfl
@[simp] theorem logHeld_dev  : (logHeld s).dev = s.dev := by cases s; rfl
@[simp] theorem logHeld_clk  : (logHeld s).clk = s.clk := by cases s; rfl
@[simp] theorem logHeld_pwr  : (logHeld s).pwr = s.pwr := by cases s; rfl
@[simp] theorem logHeld_thm  : (logHeld s).thm = s.thm := by cases s; rfl
@[simp] theorem logHeld_err  : (logHeld s).err = s.err := by cases s; rfl
@[simp] theorem logHeld_host  : (logHeld s).host = s.host := by cases s; rfl
@[simp] theorem logHeld_fns  : (logHeld s).fns = s.fns := by cases s; rfl
@[simp] theorem logHeld_rings  : (logHeld s).rings = s.rings := by cases s; rfl
@[simp] theorem logHeld_cmds  : (logHeld s).cmds = s.cmds := by cases s; rfl
@[simp] theorem logHeld_orderCtr  : (logHeld s).orderCtr = s.orderCtr := by cases s; rfl
@[simp] theorem logHeld_lastServed  : (logHeld s).lastServed = s.lastServed := by cases s; rfl
@[simp] theorem logHeld_paused  : (logHeld s).paused = s.paused := by cases s; rfl
@[simp] theorem logHeld_ctxs  : (logHeld s).ctxs = s.ctxs := by cases s; rfl
@[simp] theorem logHeld_tiles  : (logHeld s).tiles = s.tiles := by cases s; rfl
@[simp] theorem logHeld_cells  : (logHeld s).cells = s.cells := by cases s; rfl
@[simp] theorem logHeld_gold  : (logHeld s).gold = s.gold := by cases s; rfl
@[simp] theorem logHeld_arrs  : (logHeld s).arrs = s.arrs := by cases s; rfl
@[simp] theorem logHeld_flues  : (logHeld s).flues = s.flues := by cases s; rfl
@[simp] theorem logHeld_flits  : (logHeld s).flits = s.flits := by cases s; rfl
@[simp] theorem logHeld_kv  : (logHeld s).kv = s.kv := by cases s; rfl
@[simp] theorem logHeld_reqs  : (logHeld s).reqs = s.reqs := by cases s; rfl
@[simp] theorem logHeld_serve  : (logHeld s).serve = s.serve := by cases s; rfl
@[simp] theorem logHeld_cal  : (logHeld s).cal = s.cal := by cases s; rfl
@[simp] theorem logHeld_sweep  : (logHeld s).sweep = s.sweep := by cases s; rfl
@[simp] theorem logHeld_test  : (logHeld s).test = s.test := by cases s; rfl
@[simp] theorem logHeld_chim  : (logHeld s).chim = s.chim := by cases s; rfl

/-! ## flushLog: a flush changes the mantel log alone -/

@[simp] theorem flushLog_pending  : (flushLog s).pending = s.pending := by cases s; rfl
@[simp] theorem flushLog_freeCtr  : (flushLog s).freeCtr = s.freeCtr := by cases s; rfl
@[simp] theorem flushLog_replies  : (flushLog s).replies = s.replies := by cases s; rfl
@[simp] theorem flushLog_hostMem  : (flushLog s).hostMem = s.hostMem := by cases s; rfl
@[simp] theorem flushLog_dev  : (flushLog s).dev = s.dev := by cases s; rfl
@[simp] theorem flushLog_clk  : (flushLog s).clk = s.clk := by cases s; rfl
@[simp] theorem flushLog_pwr  : (flushLog s).pwr = s.pwr := by cases s; rfl
@[simp] theorem flushLog_thm  : (flushLog s).thm = s.thm := by cases s; rfl
@[simp] theorem flushLog_err  : (flushLog s).err = s.err := by cases s; rfl
@[simp] theorem flushLog_host  : (flushLog s).host = s.host := by cases s; rfl
@[simp] theorem flushLog_fns  : (flushLog s).fns = s.fns := by cases s; rfl
@[simp] theorem flushLog_rings  : (flushLog s).rings = s.rings := by cases s; rfl
@[simp] theorem flushLog_cmds  : (flushLog s).cmds = s.cmds := by cases s; rfl
@[simp] theorem flushLog_orderCtr  : (flushLog s).orderCtr = s.orderCtr := by cases s; rfl
@[simp] theorem flushLog_lastServed  : (flushLog s).lastServed = s.lastServed := by cases s; rfl
@[simp] theorem flushLog_paused  : (flushLog s).paused = s.paused := by cases s; rfl
@[simp] theorem flushLog_ctxs  : (flushLog s).ctxs = s.ctxs := by cases s; rfl
@[simp] theorem flushLog_tiles  : (flushLog s).tiles = s.tiles := by cases s; rfl
@[simp] theorem flushLog_cells  : (flushLog s).cells = s.cells := by cases s; rfl
@[simp] theorem flushLog_gold  : (flushLog s).gold = s.gold := by cases s; rfl
@[simp] theorem flushLog_arrs  : (flushLog s).arrs = s.arrs := by cases s; rfl
@[simp] theorem flushLog_flues  : (flushLog s).flues = s.flues := by cases s; rfl
@[simp] theorem flushLog_flits  : (flushLog s).flits = s.flits := by cases s; rfl
@[simp] theorem flushLog_kv  : (flushLog s).kv = s.kv := by cases s; rfl
@[simp] theorem flushLog_reqs  : (flushLog s).reqs = s.reqs := by cases s; rfl
@[simp] theorem flushLog_serve  : (flushLog s).serve = s.serve := by cases s; rfl
@[simp] theorem flushLog_cal  : (flushLog s).cal = s.cal := by cases s; rfl
@[simp] theorem flushLog_sweep  : (flushLog s).sweep = s.sweep := by cases s; rfl
@[simp] theorem flushLog_test  : (flushLog s).test = s.test := by cases s; rfl
@[simp] theorem flushLog_chim  : (flushLog s).chim = s.chim := by cases s; rfl

/-! ## postRec: a completion record changes host memory and its ring alone -/

@[simp] theorem postRec_pending (ring : Nat) (final notify : Bool) (r : Rec) : (postRec s ring final notify r).pending = s.pending := by unfold postRec; split <;> simp
@[simp] theorem postRec_freeCtr (ring : Nat) (final notify : Bool) (r : Rec) : (postRec s ring final notify r).freeCtr = s.freeCtr := by unfold postRec; split <;> simp
@[simp] theorem postRec_replies (ring : Nat) (final notify : Bool) (r : Rec) : (postRec s ring final notify r).replies = s.replies := by unfold postRec; split <;> simp
@[simp] theorem postRec_dev (ring : Nat) (final notify : Bool) (r : Rec) : (postRec s ring final notify r).dev = s.dev := by unfold postRec; split <;> simp
@[simp] theorem postRec_clk (ring : Nat) (final notify : Bool) (r : Rec) : (postRec s ring final notify r).clk = s.clk := by unfold postRec; split <;> simp
@[simp] theorem postRec_pwr (ring : Nat) (final notify : Bool) (r : Rec) : (postRec s ring final notify r).pwr = s.pwr := by unfold postRec; split <;> simp
@[simp] theorem postRec_thm (ring : Nat) (final notify : Bool) (r : Rec) : (postRec s ring final notify r).thm = s.thm := by unfold postRec; split <;> simp
@[simp] theorem postRec_log (ring : Nat) (final notify : Bool) (r : Rec) : (postRec s ring final notify r).log = s.log := by unfold postRec; split <;> simp
@[simp] theorem postRec_err (ring : Nat) (final notify : Bool) (r : Rec) : (postRec s ring final notify r).err = s.err := by unfold postRec; split <;> simp
@[simp] theorem postRec_host (ring : Nat) (final notify : Bool) (r : Rec) : (postRec s ring final notify r).host = s.host := by unfold postRec; split <;> simp
@[simp] theorem postRec_fns (ring : Nat) (final notify : Bool) (r : Rec) : (postRec s ring final notify r).fns = s.fns := by unfold postRec; split <;> simp
@[simp] theorem postRec_cmds (ring : Nat) (final notify : Bool) (r : Rec) : (postRec s ring final notify r).cmds = s.cmds := by unfold postRec; split <;> simp
@[simp] theorem postRec_orderCtr (ring : Nat) (final notify : Bool) (r : Rec) : (postRec s ring final notify r).orderCtr = s.orderCtr := by unfold postRec; split <;> simp
@[simp] theorem postRec_lastServed (ring : Nat) (final notify : Bool) (r : Rec) : (postRec s ring final notify r).lastServed = s.lastServed := by unfold postRec; split <;> simp
@[simp] theorem postRec_paused (ring : Nat) (final notify : Bool) (r : Rec) : (postRec s ring final notify r).paused = s.paused := by unfold postRec; split <;> simp
@[simp] theorem postRec_ctxs (ring : Nat) (final notify : Bool) (r : Rec) : (postRec s ring final notify r).ctxs = s.ctxs := by unfold postRec; split <;> simp
@[simp] theorem postRec_tiles (ring : Nat) (final notify : Bool) (r : Rec) : (postRec s ring final notify r).tiles = s.tiles := by unfold postRec; split <;> simp
@[simp] theorem postRec_cells (ring : Nat) (final notify : Bool) (r : Rec) : (postRec s ring final notify r).cells = s.cells := by unfold postRec; split <;> simp
@[simp] theorem postRec_gold (ring : Nat) (final notify : Bool) (r : Rec) : (postRec s ring final notify r).gold = s.gold := by unfold postRec; split <;> simp
@[simp] theorem postRec_arrs (ring : Nat) (final notify : Bool) (r : Rec) : (postRec s ring final notify r).arrs = s.arrs := by unfold postRec; split <;> simp
@[simp] theorem postRec_flues (ring : Nat) (final notify : Bool) (r : Rec) : (postRec s ring final notify r).flues = s.flues := by unfold postRec; split <;> simp
@[simp] theorem postRec_flits (ring : Nat) (final notify : Bool) (r : Rec) : (postRec s ring final notify r).flits = s.flits := by unfold postRec; split <;> simp
@[simp] theorem postRec_kv (ring : Nat) (final notify : Bool) (r : Rec) : (postRec s ring final notify r).kv = s.kv := by unfold postRec; split <;> simp
@[simp] theorem postRec_reqs (ring : Nat) (final notify : Bool) (r : Rec) : (postRec s ring final notify r).reqs = s.reqs := by unfold postRec; split <;> simp
@[simp] theorem postRec_serve (ring : Nat) (final notify : Bool) (r : Rec) : (postRec s ring final notify r).serve = s.serve := by unfold postRec; split <;> simp
@[simp] theorem postRec_cal (ring : Nat) (final notify : Bool) (r : Rec) : (postRec s ring final notify r).cal = s.cal := by unfold postRec; split <;> simp
@[simp] theorem postRec_sweep (ring : Nat) (final notify : Bool) (r : Rec) : (postRec s ring final notify r).sweep = s.sweep := by unfold postRec; split <;> simp
@[simp] theorem postRec_test (ring : Nat) (final notify : Bool) (r : Rec) : (postRec s ring final notify r).test = s.test := by unfold postRec; split <;> simp
@[simp] theorem postRec_chim (ring : Nat) (final notify : Bool) (r : Rec) : (postRec s ring final notify r).chim = s.chim := by unfold postRec; split <;> simp

/-! ## dropCmd: removing a command changes the outstanding list alone -/

@[simp] theorem dropCmd_pending (c : Cmd) : (dropCmd s c).pending = s.pending := by cases s; rfl
@[simp] theorem dropCmd_freeCtr (c : Cmd) : (dropCmd s c).freeCtr = s.freeCtr := by cases s; rfl
@[simp] theorem dropCmd_replies (c : Cmd) : (dropCmd s c).replies = s.replies := by cases s; rfl
@[simp] theorem dropCmd_hostMem (c : Cmd) : (dropCmd s c).hostMem = s.hostMem := by cases s; rfl
@[simp] theorem dropCmd_dev (c : Cmd) : (dropCmd s c).dev = s.dev := by cases s; rfl
@[simp] theorem dropCmd_clk (c : Cmd) : (dropCmd s c).clk = s.clk := by cases s; rfl
@[simp] theorem dropCmd_pwr (c : Cmd) : (dropCmd s c).pwr = s.pwr := by cases s; rfl
@[simp] theorem dropCmd_thm (c : Cmd) : (dropCmd s c).thm = s.thm := by cases s; rfl
@[simp] theorem dropCmd_log (c : Cmd) : (dropCmd s c).log = s.log := by cases s; rfl
@[simp] theorem dropCmd_err (c : Cmd) : (dropCmd s c).err = s.err := by cases s; rfl
@[simp] theorem dropCmd_host (c : Cmd) : (dropCmd s c).host = s.host := by cases s; rfl
@[simp] theorem dropCmd_fns (c : Cmd) : (dropCmd s c).fns = s.fns := by cases s; rfl
@[simp] theorem dropCmd_rings (c : Cmd) : (dropCmd s c).rings = s.rings := by cases s; rfl
@[simp] theorem dropCmd_orderCtr (c : Cmd) : (dropCmd s c).orderCtr = s.orderCtr := by cases s; rfl
@[simp] theorem dropCmd_lastServed (c : Cmd) : (dropCmd s c).lastServed = s.lastServed := by cases s; rfl
@[simp] theorem dropCmd_paused (c : Cmd) : (dropCmd s c).paused = s.paused := by cases s; rfl
@[simp] theorem dropCmd_ctxs (c : Cmd) : (dropCmd s c).ctxs = s.ctxs := by cases s; rfl
@[simp] theorem dropCmd_tiles (c : Cmd) : (dropCmd s c).tiles = s.tiles := by cases s; rfl
@[simp] theorem dropCmd_cells (c : Cmd) : (dropCmd s c).cells = s.cells := by cases s; rfl
@[simp] theorem dropCmd_gold (c : Cmd) : (dropCmd s c).gold = s.gold := by cases s; rfl
@[simp] theorem dropCmd_arrs (c : Cmd) : (dropCmd s c).arrs = s.arrs := by cases s; rfl
@[simp] theorem dropCmd_flues (c : Cmd) : (dropCmd s c).flues = s.flues := by cases s; rfl
@[simp] theorem dropCmd_flits (c : Cmd) : (dropCmd s c).flits = s.flits := by cases s; rfl
@[simp] theorem dropCmd_kv (c : Cmd) : (dropCmd s c).kv = s.kv := by cases s; rfl
@[simp] theorem dropCmd_reqs (c : Cmd) : (dropCmd s c).reqs = s.reqs := by cases s; rfl
@[simp] theorem dropCmd_serve (c : Cmd) : (dropCmd s c).serve = s.serve := by cases s; rfl
@[simp] theorem dropCmd_cal (c : Cmd) : (dropCmd s c).cal = s.cal := by cases s; rfl
@[simp] theorem dropCmd_sweep (c : Cmd) : (dropCmd s c).sweep = s.sweep := by cases s; rfl
@[simp] theorem dropCmd_test (c : Cmd) : (dropCmd s c).test = s.test := by cases s; rfl
@[simp] theorem dropCmd_chim (c : Cmd) : (dropCmd s c).chim = s.chim := by cases s; rfl

/-! ## putCmd: replacing a command changes the outstanding list alone -/

@[simp] theorem putCmd_pending (c : Cmd) : (putCmd s c).pending = s.pending := by cases s; rfl
@[simp] theorem putCmd_freeCtr (c : Cmd) : (putCmd s c).freeCtr = s.freeCtr := by cases s; rfl
@[simp] theorem putCmd_replies (c : Cmd) : (putCmd s c).replies = s.replies := by cases s; rfl
@[simp] theorem putCmd_hostMem (c : Cmd) : (putCmd s c).hostMem = s.hostMem := by cases s; rfl
@[simp] theorem putCmd_dev (c : Cmd) : (putCmd s c).dev = s.dev := by cases s; rfl
@[simp] theorem putCmd_clk (c : Cmd) : (putCmd s c).clk = s.clk := by cases s; rfl
@[simp] theorem putCmd_pwr (c : Cmd) : (putCmd s c).pwr = s.pwr := by cases s; rfl
@[simp] theorem putCmd_thm (c : Cmd) : (putCmd s c).thm = s.thm := by cases s; rfl
@[simp] theorem putCmd_log (c : Cmd) : (putCmd s c).log = s.log := by cases s; rfl
@[simp] theorem putCmd_err (c : Cmd) : (putCmd s c).err = s.err := by cases s; rfl
@[simp] theorem putCmd_host (c : Cmd) : (putCmd s c).host = s.host := by cases s; rfl
@[simp] theorem putCmd_fns (c : Cmd) : (putCmd s c).fns = s.fns := by cases s; rfl
@[simp] theorem putCmd_rings (c : Cmd) : (putCmd s c).rings = s.rings := by cases s; rfl
@[simp] theorem putCmd_orderCtr (c : Cmd) : (putCmd s c).orderCtr = s.orderCtr := by cases s; rfl
@[simp] theorem putCmd_lastServed (c : Cmd) : (putCmd s c).lastServed = s.lastServed := by cases s; rfl
@[simp] theorem putCmd_paused (c : Cmd) : (putCmd s c).paused = s.paused := by cases s; rfl
@[simp] theorem putCmd_ctxs (c : Cmd) : (putCmd s c).ctxs = s.ctxs := by cases s; rfl
@[simp] theorem putCmd_tiles (c : Cmd) : (putCmd s c).tiles = s.tiles := by cases s; rfl
@[simp] theorem putCmd_cells (c : Cmd) : (putCmd s c).cells = s.cells := by cases s; rfl
@[simp] theorem putCmd_gold (c : Cmd) : (putCmd s c).gold = s.gold := by cases s; rfl
@[simp] theorem putCmd_arrs (c : Cmd) : (putCmd s c).arrs = s.arrs := by cases s; rfl
@[simp] theorem putCmd_flues (c : Cmd) : (putCmd s c).flues = s.flues := by cases s; rfl
@[simp] theorem putCmd_flits (c : Cmd) : (putCmd s c).flits = s.flits := by cases s; rfl
@[simp] theorem putCmd_kv (c : Cmd) : (putCmd s c).kv = s.kv := by cases s; rfl
@[simp] theorem putCmd_reqs (c : Cmd) : (putCmd s c).reqs = s.reqs := by cases s; rfl
@[simp] theorem putCmd_serve (c : Cmd) : (putCmd s c).serve = s.serve := by cases s; rfl
@[simp] theorem putCmd_cal (c : Cmd) : (putCmd s c).cal = s.cal := by cases s; rfl
@[simp] theorem putCmd_sweep (c : Cmd) : (putCmd s c).sweep = s.sweep := by cases s; rfl
@[simp] theorem putCmd_test (c : Cmd) : (putCmd s c).test = s.test := by cases s; rfl
@[simp] theorem putCmd_chim (c : Cmd) : (putCmd s c).chim = s.chim := by cases s; rfl

/-! ## postDups: the copies for waiting duplicates change host memory, the rings and the outstanding list alone -/

@[simp] theorem postDups_pending (ring seq : Nat) (r : Rec) : (postDups s ring seq r).pending = s.pending := by unfold postDups; exact foldl_field (·.pending) (fun _ _ => by simp) _ _
@[simp] theorem postDups_freeCtr (ring seq : Nat) (r : Rec) : (postDups s ring seq r).freeCtr = s.freeCtr := by unfold postDups; exact foldl_field (·.freeCtr) (fun _ _ => by simp) _ _
@[simp] theorem postDups_replies (ring seq : Nat) (r : Rec) : (postDups s ring seq r).replies = s.replies := by unfold postDups; exact foldl_field (·.replies) (fun _ _ => by simp) _ _
@[simp] theorem postDups_dev (ring seq : Nat) (r : Rec) : (postDups s ring seq r).dev = s.dev := by unfold postDups; exact foldl_field (·.dev) (fun _ _ => by simp) _ _
@[simp] theorem postDups_clk (ring seq : Nat) (r : Rec) : (postDups s ring seq r).clk = s.clk := by unfold postDups; exact foldl_field (·.clk) (fun _ _ => by simp) _ _
@[simp] theorem postDups_pwr (ring seq : Nat) (r : Rec) : (postDups s ring seq r).pwr = s.pwr := by unfold postDups; exact foldl_field (·.pwr) (fun _ _ => by simp) _ _
@[simp] theorem postDups_thm (ring seq : Nat) (r : Rec) : (postDups s ring seq r).thm = s.thm := by unfold postDups; exact foldl_field (·.thm) (fun _ _ => by simp) _ _
@[simp] theorem postDups_log (ring seq : Nat) (r : Rec) : (postDups s ring seq r).log = s.log := by unfold postDups; exact foldl_field (·.log) (fun _ _ => by simp) _ _
@[simp] theorem postDups_err (ring seq : Nat) (r : Rec) : (postDups s ring seq r).err = s.err := by unfold postDups; exact foldl_field (·.err) (fun _ _ => by simp) _ _
@[simp] theorem postDups_host (ring seq : Nat) (r : Rec) : (postDups s ring seq r).host = s.host := by unfold postDups; exact foldl_field (·.host) (fun _ _ => by simp) _ _
@[simp] theorem postDups_fns (ring seq : Nat) (r : Rec) : (postDups s ring seq r).fns = s.fns := by unfold postDups; exact foldl_field (·.fns) (fun _ _ => by simp) _ _
@[simp] theorem postDups_orderCtr (ring seq : Nat) (r : Rec) : (postDups s ring seq r).orderCtr = s.orderCtr := by unfold postDups; exact foldl_field (·.orderCtr) (fun _ _ => by simp) _ _
@[simp] theorem postDups_lastServed (ring seq : Nat) (r : Rec) : (postDups s ring seq r).lastServed = s.lastServed := by unfold postDups; exact foldl_field (·.lastServed) (fun _ _ => by simp) _ _
@[simp] theorem postDups_paused (ring seq : Nat) (r : Rec) : (postDups s ring seq r).paused = s.paused := by unfold postDups; exact foldl_field (·.paused) (fun _ _ => by simp) _ _
@[simp] theorem postDups_ctxs (ring seq : Nat) (r : Rec) : (postDups s ring seq r).ctxs = s.ctxs := by unfold postDups; exact foldl_field (·.ctxs) (fun _ _ => by simp) _ _
@[simp] theorem postDups_tiles (ring seq : Nat) (r : Rec) : (postDups s ring seq r).tiles = s.tiles := by unfold postDups; exact foldl_field (·.tiles) (fun _ _ => by simp) _ _
@[simp] theorem postDups_cells (ring seq : Nat) (r : Rec) : (postDups s ring seq r).cells = s.cells := by unfold postDups; exact foldl_field (·.cells) (fun _ _ => by simp) _ _
@[simp] theorem postDups_gold (ring seq : Nat) (r : Rec) : (postDups s ring seq r).gold = s.gold := by unfold postDups; exact foldl_field (·.gold) (fun _ _ => by simp) _ _
@[simp] theorem postDups_arrs (ring seq : Nat) (r : Rec) : (postDups s ring seq r).arrs = s.arrs := by unfold postDups; exact foldl_field (·.arrs) (fun _ _ => by simp) _ _
@[simp] theorem postDups_flues (ring seq : Nat) (r : Rec) : (postDups s ring seq r).flues = s.flues := by unfold postDups; exact foldl_field (·.flues) (fun _ _ => by simp) _ _
@[simp] theorem postDups_flits (ring seq : Nat) (r : Rec) : (postDups s ring seq r).flits = s.flits := by unfold postDups; exact foldl_field (·.flits) (fun _ _ => by simp) _ _
@[simp] theorem postDups_kv (ring seq : Nat) (r : Rec) : (postDups s ring seq r).kv = s.kv := by unfold postDups; exact foldl_field (·.kv) (fun _ _ => by simp) _ _
@[simp] theorem postDups_reqs (ring seq : Nat) (r : Rec) : (postDups s ring seq r).reqs = s.reqs := by unfold postDups; exact foldl_field (·.reqs) (fun _ _ => by simp) _ _
@[simp] theorem postDups_serve (ring seq : Nat) (r : Rec) : (postDups s ring seq r).serve = s.serve := by unfold postDups; exact foldl_field (·.serve) (fun _ _ => by simp) _ _
@[simp] theorem postDups_cal (ring seq : Nat) (r : Rec) : (postDups s ring seq r).cal = s.cal := by unfold postDups; exact foldl_field (·.cal) (fun _ _ => by simp) _ _
@[simp] theorem postDups_sweep (ring seq : Nat) (r : Rec) : (postDups s ring seq r).sweep = s.sweep := by unfold postDups; exact foldl_field (·.sweep) (fun _ _ => by simp) _ _
@[simp] theorem postDups_test (ring seq : Nat) (r : Rec) : (postDups s ring seq r).test = s.test := by unfold postDups; exact foldl_field (·.test) (fun _ _ => by simp) _ _
@[simp] theorem postDups_chim (ring seq : Nat) (r : Rec) : (postDups s ring seq r).chim = s.chim := by unfold postDups; exact foldl_field (·.chim) (fun _ _ => by simp) _ _

/-! ## startAdmin: an admin ring that starts changes the rings alone -/

@[simp] theorem startAdmin_pending (fn : Nat) : (startAdmin s fn).pending = s.pending := by unfold startAdmin; dsimp only; split <;> simp
@[simp] theorem startAdmin_freeCtr (fn : Nat) : (startAdmin s fn).freeCtr = s.freeCtr := by unfold startAdmin; dsimp only; split <;> simp
@[simp] theorem startAdmin_replies (fn : Nat) : (startAdmin s fn).replies = s.replies := by unfold startAdmin; dsimp only; split <;> simp
@[simp] theorem startAdmin_hostMem (fn : Nat) : (startAdmin s fn).hostMem = s.hostMem := by unfold startAdmin; dsimp only; split <;> simp
@[simp] theorem startAdmin_dev (fn : Nat) : (startAdmin s fn).dev = s.dev := by unfold startAdmin; dsimp only; split <;> simp
@[simp] theorem startAdmin_clk (fn : Nat) : (startAdmin s fn).clk = s.clk := by unfold startAdmin; dsimp only; split <;> simp
@[simp] theorem startAdmin_pwr (fn : Nat) : (startAdmin s fn).pwr = s.pwr := by unfold startAdmin; dsimp only; split <;> simp
@[simp] theorem startAdmin_thm (fn : Nat) : (startAdmin s fn).thm = s.thm := by unfold startAdmin; dsimp only; split <;> simp
@[simp] theorem startAdmin_log (fn : Nat) : (startAdmin s fn).log = s.log := by unfold startAdmin; dsimp only; split <;> simp
@[simp] theorem startAdmin_err (fn : Nat) : (startAdmin s fn).err = s.err := by unfold startAdmin; dsimp only; split <;> simp
@[simp] theorem startAdmin_host (fn : Nat) : (startAdmin s fn).host = s.host := by unfold startAdmin; dsimp only; split <;> simp
@[simp] theorem startAdmin_fns (fn : Nat) : (startAdmin s fn).fns = s.fns := by unfold startAdmin; dsimp only; split <;> simp
@[simp] theorem startAdmin_cmds (fn : Nat) : (startAdmin s fn).cmds = s.cmds := by unfold startAdmin; dsimp only; split <;> simp
@[simp] theorem startAdmin_orderCtr (fn : Nat) : (startAdmin s fn).orderCtr = s.orderCtr := by unfold startAdmin; dsimp only; split <;> simp
@[simp] theorem startAdmin_lastServed (fn : Nat) : (startAdmin s fn).lastServed = s.lastServed := by unfold startAdmin; dsimp only; split <;> simp
@[simp] theorem startAdmin_paused (fn : Nat) : (startAdmin s fn).paused = s.paused := by unfold startAdmin; dsimp only; split <;> simp
@[simp] theorem startAdmin_ctxs (fn : Nat) : (startAdmin s fn).ctxs = s.ctxs := by unfold startAdmin; dsimp only; split <;> simp
@[simp] theorem startAdmin_tiles (fn : Nat) : (startAdmin s fn).tiles = s.tiles := by unfold startAdmin; dsimp only; split <;> simp
@[simp] theorem startAdmin_cells (fn : Nat) : (startAdmin s fn).cells = s.cells := by unfold startAdmin; dsimp only; split <;> simp
@[simp] theorem startAdmin_gold (fn : Nat) : (startAdmin s fn).gold = s.gold := by unfold startAdmin; dsimp only; split <;> simp
@[simp] theorem startAdmin_arrs (fn : Nat) : (startAdmin s fn).arrs = s.arrs := by unfold startAdmin; dsimp only; split <;> simp
@[simp] theorem startAdmin_flues (fn : Nat) : (startAdmin s fn).flues = s.flues := by unfold startAdmin; dsimp only; split <;> simp
@[simp] theorem startAdmin_flits (fn : Nat) : (startAdmin s fn).flits = s.flits := by unfold startAdmin; dsimp only; split <;> simp
@[simp] theorem startAdmin_kv (fn : Nat) : (startAdmin s fn).kv = s.kv := by unfold startAdmin; dsimp only; split <;> simp
@[simp] theorem startAdmin_reqs (fn : Nat) : (startAdmin s fn).reqs = s.reqs := by unfold startAdmin; dsimp only; split <;> simp
@[simp] theorem startAdmin_serve (fn : Nat) : (startAdmin s fn).serve = s.serve := by unfold startAdmin; dsimp only; split <;> simp
@[simp] theorem startAdmin_cal (fn : Nat) : (startAdmin s fn).cal = s.cal := by unfold startAdmin; dsimp only; split <;> simp
@[simp] theorem startAdmin_sweep (fn : Nat) : (startAdmin s fn).sweep = s.sweep := by unfold startAdmin; dsimp only; split <;> simp
@[simp] theorem startAdmin_test (fn : Nat) : (startAdmin s fn).test = s.test := by unfold startAdmin; dsimp only; split <;> simp
@[simp] theorem startAdmin_chim (fn : Nat) : (startAdmin s fn).chim = s.chim := by unfold startAdmin; dsimp only; split <;> simp

/-! ## dropRing: a ring that goes changes the rings alone -/

@[simp] theorem dropRing_pending (ring : Nat) : (dropRing s ring).pending = s.pending := by unfold dropRing; (repeat' split) <;> simp
@[simp] theorem dropRing_freeCtr (ring : Nat) : (dropRing s ring).freeCtr = s.freeCtr := by unfold dropRing; (repeat' split) <;> simp
@[simp] theorem dropRing_replies (ring : Nat) : (dropRing s ring).replies = s.replies := by unfold dropRing; (repeat' split) <;> simp
@[simp] theorem dropRing_hostMem (ring : Nat) : (dropRing s ring).hostMem = s.hostMem := by unfold dropRing; (repeat' split) <;> simp
@[simp] theorem dropRing_dev (ring : Nat) : (dropRing s ring).dev = s.dev := by unfold dropRing; (repeat' split) <;> simp
@[simp] theorem dropRing_clk (ring : Nat) : (dropRing s ring).clk = s.clk := by unfold dropRing; (repeat' split) <;> simp
@[simp] theorem dropRing_pwr (ring : Nat) : (dropRing s ring).pwr = s.pwr := by unfold dropRing; (repeat' split) <;> simp
@[simp] theorem dropRing_thm (ring : Nat) : (dropRing s ring).thm = s.thm := by unfold dropRing; (repeat' split) <;> simp
@[simp] theorem dropRing_log (ring : Nat) : (dropRing s ring).log = s.log := by unfold dropRing; (repeat' split) <;> simp
@[simp] theorem dropRing_err (ring : Nat) : (dropRing s ring).err = s.err := by unfold dropRing; (repeat' split) <;> simp
@[simp] theorem dropRing_host (ring : Nat) : (dropRing s ring).host = s.host := by unfold dropRing; (repeat' split) <;> simp
@[simp] theorem dropRing_fns (ring : Nat) : (dropRing s ring).fns = s.fns := by unfold dropRing; (repeat' split) <;> simp
@[simp] theorem dropRing_cmds (ring : Nat) : (dropRing s ring).cmds = s.cmds := by unfold dropRing; (repeat' split) <;> simp
@[simp] theorem dropRing_orderCtr (ring : Nat) : (dropRing s ring).orderCtr = s.orderCtr := by unfold dropRing; (repeat' split) <;> simp
@[simp] theorem dropRing_lastServed (ring : Nat) : (dropRing s ring).lastServed = s.lastServed := by unfold dropRing; (repeat' split) <;> simp
@[simp] theorem dropRing_paused (ring : Nat) : (dropRing s ring).paused = s.paused := by unfold dropRing; (repeat' split) <;> simp
@[simp] theorem dropRing_ctxs (ring : Nat) : (dropRing s ring).ctxs = s.ctxs := by unfold dropRing; (repeat' split) <;> simp
@[simp] theorem dropRing_tiles (ring : Nat) : (dropRing s ring).tiles = s.tiles := by unfold dropRing; (repeat' split) <;> simp
@[simp] theorem dropRing_cells (ring : Nat) : (dropRing s ring).cells = s.cells := by unfold dropRing; (repeat' split) <;> simp
@[simp] theorem dropRing_gold (ring : Nat) : (dropRing s ring).gold = s.gold := by unfold dropRing; (repeat' split) <;> simp
@[simp] theorem dropRing_arrs (ring : Nat) : (dropRing s ring).arrs = s.arrs := by unfold dropRing; (repeat' split) <;> simp
@[simp] theorem dropRing_flues (ring : Nat) : (dropRing s ring).flues = s.flues := by unfold dropRing; (repeat' split) <;> simp
@[simp] theorem dropRing_flits (ring : Nat) : (dropRing s ring).flits = s.flits := by unfold dropRing; (repeat' split) <;> simp
@[simp] theorem dropRing_kv (ring : Nat) : (dropRing s ring).kv = s.kv := by unfold dropRing; (repeat' split) <;> simp
@[simp] theorem dropRing_reqs (ring : Nat) : (dropRing s ring).reqs = s.reqs := by unfold dropRing; (repeat' split) <;> simp
@[simp] theorem dropRing_serve (ring : Nat) : (dropRing s ring).serve = s.serve := by unfold dropRing; (repeat' split) <;> simp
@[simp] theorem dropRing_cal (ring : Nat) : (dropRing s ring).cal = s.cal := by unfold dropRing; (repeat' split) <;> simp
@[simp] theorem dropRing_sweep (ring : Nat) : (dropRing s ring).sweep = s.sweep := by unfold dropRing; (repeat' split) <;> simp
@[simp] theorem dropRing_test (ring : Nat) : (dropRing s ring).test = s.test := by unfold dropRing; (repeat' split) <;> simp
@[simp] theorem dropRing_chim (ring : Nat) : (dropRing s ring).chim = s.chim := by unfold dropRing; (repeat' split) <;> simp

/-! ## reap: what the end of a command does to a ring that is to be destroyed changes the rings alone -/

@[simp] theorem reap_pending (ring : Nat) : (reap s ring).pending = s.pending := by unfold reap; (repeat' split) <;> simp
@[simp] theorem reap_freeCtr (ring : Nat) : (reap s ring).freeCtr = s.freeCtr := by unfold reap; (repeat' split) <;> simp
@[simp] theorem reap_replies (ring : Nat) : (reap s ring).replies = s.replies := by unfold reap; (repeat' split) <;> simp
@[simp] theorem reap_hostMem (ring : Nat) : (reap s ring).hostMem = s.hostMem := by unfold reap; (repeat' split) <;> simp
@[simp] theorem reap_dev (ring : Nat) : (reap s ring).dev = s.dev := by unfold reap; (repeat' split) <;> simp
@[simp] theorem reap_clk (ring : Nat) : (reap s ring).clk = s.clk := by unfold reap; (repeat' split) <;> simp
@[simp] theorem reap_pwr (ring : Nat) : (reap s ring).pwr = s.pwr := by unfold reap; (repeat' split) <;> simp
@[simp] theorem reap_thm (ring : Nat) : (reap s ring).thm = s.thm := by unfold reap; (repeat' split) <;> simp
@[simp] theorem reap_log (ring : Nat) : (reap s ring).log = s.log := by unfold reap; (repeat' split) <;> simp
@[simp] theorem reap_err (ring : Nat) : (reap s ring).err = s.err := by unfold reap; (repeat' split) <;> simp
@[simp] theorem reap_host (ring : Nat) : (reap s ring).host = s.host := by unfold reap; (repeat' split) <;> simp
@[simp] theorem reap_fns (ring : Nat) : (reap s ring).fns = s.fns := by unfold reap; (repeat' split) <;> simp
@[simp] theorem reap_cmds (ring : Nat) : (reap s ring).cmds = s.cmds := by unfold reap; (repeat' split) <;> simp
@[simp] theorem reap_orderCtr (ring : Nat) : (reap s ring).orderCtr = s.orderCtr := by unfold reap; (repeat' split) <;> simp
@[simp] theorem reap_lastServed (ring : Nat) : (reap s ring).lastServed = s.lastServed := by unfold reap; (repeat' split) <;> simp
@[simp] theorem reap_paused (ring : Nat) : (reap s ring).paused = s.paused := by unfold reap; (repeat' split) <;> simp
@[simp] theorem reap_ctxs (ring : Nat) : (reap s ring).ctxs = s.ctxs := by unfold reap; (repeat' split) <;> simp
@[simp] theorem reap_tiles (ring : Nat) : (reap s ring).tiles = s.tiles := by unfold reap; (repeat' split) <;> simp
@[simp] theorem reap_cells (ring : Nat) : (reap s ring).cells = s.cells := by unfold reap; (repeat' split) <;> simp
@[simp] theorem reap_gold (ring : Nat) : (reap s ring).gold = s.gold := by unfold reap; (repeat' split) <;> simp
@[simp] theorem reap_arrs (ring : Nat) : (reap s ring).arrs = s.arrs := by unfold reap; (repeat' split) <;> simp
@[simp] theorem reap_flues (ring : Nat) : (reap s ring).flues = s.flues := by unfold reap; (repeat' split) <;> simp
@[simp] theorem reap_flits (ring : Nat) : (reap s ring).flits = s.flits := by unfold reap; (repeat' split) <;> simp
@[simp] theorem reap_kv (ring : Nat) : (reap s ring).kv = s.kv := by unfold reap; (repeat' split) <;> simp
@[simp] theorem reap_reqs (ring : Nat) : (reap s ring).reqs = s.reqs := by unfold reap; (repeat' split) <;> simp
@[simp] theorem reap_serve (ring : Nat) : (reap s ring).serve = s.serve := by unfold reap; (repeat' split) <;> simp
@[simp] theorem reap_cal (ring : Nat) : (reap s ring).cal = s.cal := by unfold reap; (repeat' split) <;> simp
@[simp] theorem reap_sweep (ring : Nat) : (reap s ring).sweep = s.sweep := by unfold reap; (repeat' split) <;> simp
@[simp] theorem reap_test (ring : Nat) : (reap s ring).test = s.test := by unfold reap; (repeat' split) <;> simp
@[simp] theorem reap_chim (ring : Nat) : (reap s ring).chim = s.chim := by unfold reap; (repeat' split) <;> simp

/-! ## finishW: a final record changes host memory, the rings, the outstanding list and what its request keeps of it, and nothing else -/

@[simp] theorem finishW_pending (c : Cmd) (status result0 warn : Nat) : (finishW s c status result0 warn).pending = s.pending := by unfold finishW; (repeat' split) <;> simp
@[simp] theorem finishW_freeCtr (c : Cmd) (status result0 warn : Nat) : (finishW s c status result0 warn).freeCtr = s.freeCtr := by unfold finishW; (repeat' split) <;> simp
@[simp] theorem finishW_replies (c : Cmd) (status result0 warn : Nat) : (finishW s c status result0 warn).replies = s.replies := by unfold finishW; (repeat' split) <;> simp
@[simp] theorem finishW_dev (c : Cmd) (status result0 warn : Nat) : (finishW s c status result0 warn).dev = s.dev := by unfold finishW; (repeat' split) <;> simp
@[simp] theorem finishW_clk (c : Cmd) (status result0 warn : Nat) : (finishW s c status result0 warn).clk = s.clk := by unfold finishW; (repeat' split) <;> simp
@[simp] theorem finishW_pwr (c : Cmd) (status result0 warn : Nat) : (finishW s c status result0 warn).pwr = s.pwr := by unfold finishW; (repeat' split) <;> simp
@[simp] theorem finishW_thm (c : Cmd) (status result0 warn : Nat) : (finishW s c status result0 warn).thm = s.thm := by unfold finishW; (repeat' split) <;> simp
@[simp] theorem finishW_log (c : Cmd) (status result0 warn : Nat) : (finishW s c status result0 warn).log = s.log := by unfold finishW; (repeat' split) <;> simp
@[simp] theorem finishW_err (c : Cmd) (status result0 warn : Nat) : (finishW s c status result0 warn).err = s.err := by unfold finishW; (repeat' split) <;> simp
@[simp] theorem finishW_host (c : Cmd) (status result0 warn : Nat) : (finishW s c status result0 warn).host = s.host := by unfold finishW; (repeat' split) <;> simp
@[simp] theorem finishW_fns (c : Cmd) (status result0 warn : Nat) : (finishW s c status result0 warn).fns = s.fns := by unfold finishW; (repeat' split) <;> simp
@[simp] theorem finishW_orderCtr (c : Cmd) (status result0 warn : Nat) : (finishW s c status result0 warn).orderCtr = s.orderCtr := by unfold finishW; (repeat' split) <;> simp
@[simp] theorem finishW_lastServed (c : Cmd) (status result0 warn : Nat) : (finishW s c status result0 warn).lastServed = s.lastServed := by unfold finishW; (repeat' split) <;> simp
@[simp] theorem finishW_paused (c : Cmd) (status result0 warn : Nat) : (finishW s c status result0 warn).paused = s.paused := by unfold finishW; (repeat' split) <;> simp
@[simp] theorem finishW_ctxs (c : Cmd) (status result0 warn : Nat) : (finishW s c status result0 warn).ctxs = s.ctxs := by unfold finishW; (repeat' split) <;> simp
@[simp] theorem finishW_tiles (c : Cmd) (status result0 warn : Nat) : (finishW s c status result0 warn).tiles = s.tiles := by unfold finishW; (repeat' split) <;> simp
@[simp] theorem finishW_cells (c : Cmd) (status result0 warn : Nat) : (finishW s c status result0 warn).cells = s.cells := by unfold finishW; (repeat' split) <;> simp
@[simp] theorem finishW_gold (c : Cmd) (status result0 warn : Nat) : (finishW s c status result0 warn).gold = s.gold := by unfold finishW; (repeat' split) <;> simp
@[simp] theorem finishW_arrs (c : Cmd) (status result0 warn : Nat) : (finishW s c status result0 warn).arrs = s.arrs := by unfold finishW; (repeat' split) <;> simp
@[simp] theorem finishW_flues (c : Cmd) (status result0 warn : Nat) : (finishW s c status result0 warn).flues = s.flues := by unfold finishW; (repeat' split) <;> simp
@[simp] theorem finishW_flits (c : Cmd) (status result0 warn : Nat) : (finishW s c status result0 warn).flits = s.flits := by unfold finishW; (repeat' split) <;> simp
@[simp] theorem finishW_kv (c : Cmd) (status result0 warn : Nat) : (finishW s c status result0 warn).kv = s.kv := by unfold finishW; (repeat' split) <;> simp
@[simp] theorem finishW_serve (c : Cmd) (status result0 warn : Nat) : (finishW s c status result0 warn).serve = s.serve := by unfold finishW; (repeat' split) <;> simp
@[simp] theorem finishW_cal (c : Cmd) (status result0 warn : Nat) : (finishW s c status result0 warn).cal = s.cal := by unfold finishW; (repeat' split) <;> simp
@[simp] theorem finishW_sweep (c : Cmd) (status result0 warn : Nat) : (finishW s c status result0 warn).sweep = s.sweep := by unfold finishW; (repeat' split) <;> simp
@[simp] theorem finishW_test (c : Cmd) (status result0 warn : Nat) : (finishW s c status result0 warn).test = s.test := by unfold finishW; (repeat' split) <;> simp
@[simp] theorem finishW_chim (c : Cmd) (status result0 warn : Nat) : (finishW s c status result0 warn).chim = s.chim := by unfold finishW; (repeat' split) <;> simp

/-! ## finish: the same with the warnings of the command's request -/

@[simp] theorem finish_pending (c : Cmd) (status result0 : Nat) : (finish s c status result0).pending = s.pending := by unfold finish; simp
@[simp] theorem finish_freeCtr (c : Cmd) (status result0 : Nat) : (finish s c status result0).freeCtr = s.freeCtr := by unfold finish; simp
@[simp] theorem finish_replies (c : Cmd) (status result0 : Nat) : (finish s c status result0).replies = s.replies := by unfold finish; simp
@[simp] theorem finish_dev (c : Cmd) (status result0 : Nat) : (finish s c status result0).dev = s.dev := by unfold finish; simp
@[simp] theorem finish_clk (c : Cmd) (status result0 : Nat) : (finish s c status result0).clk = s.clk := by unfold finish; simp
@[simp] theorem finish_pwr (c : Cmd) (status result0 : Nat) : (finish s c status result0).pwr = s.pwr := by unfold finish; simp
@[simp] theorem finish_thm (c : Cmd) (status result0 : Nat) : (finish s c status result0).thm = s.thm := by unfold finish; simp
@[simp] theorem finish_log (c : Cmd) (status result0 : Nat) : (finish s c status result0).log = s.log := by unfold finish; simp
@[simp] theorem finish_err (c : Cmd) (status result0 : Nat) : (finish s c status result0).err = s.err := by unfold finish; simp
@[simp] theorem finish_host (c : Cmd) (status result0 : Nat) : (finish s c status result0).host = s.host := by unfold finish; simp
@[simp] theorem finish_fns (c : Cmd) (status result0 : Nat) : (finish s c status result0).fns = s.fns := by unfold finish; simp
@[simp] theorem finish_orderCtr (c : Cmd) (status result0 : Nat) : (finish s c status result0).orderCtr = s.orderCtr := by unfold finish; simp
@[simp] theorem finish_lastServed (c : Cmd) (status result0 : Nat) : (finish s c status result0).lastServed = s.lastServed := by unfold finish; simp
@[simp] theorem finish_paused (c : Cmd) (status result0 : Nat) : (finish s c status result0).paused = s.paused := by unfold finish; simp
@[simp] theorem finish_ctxs (c : Cmd) (status result0 : Nat) : (finish s c status result0).ctxs = s.ctxs := by unfold finish; simp
@[simp] theorem finish_tiles (c : Cmd) (status result0 : Nat) : (finish s c status result0).tiles = s.tiles := by unfold finish; simp
@[simp] theorem finish_cells (c : Cmd) (status result0 : Nat) : (finish s c status result0).cells = s.cells := by unfold finish; simp
@[simp] theorem finish_gold (c : Cmd) (status result0 : Nat) : (finish s c status result0).gold = s.gold := by unfold finish; simp
@[simp] theorem finish_arrs (c : Cmd) (status result0 : Nat) : (finish s c status result0).arrs = s.arrs := by unfold finish; simp
@[simp] theorem finish_flues (c : Cmd) (status result0 : Nat) : (finish s c status result0).flues = s.flues := by unfold finish; simp
@[simp] theorem finish_flits (c : Cmd) (status result0 : Nat) : (finish s c status result0).flits = s.flits := by unfold finish; simp
@[simp] theorem finish_kv (c : Cmd) (status result0 : Nat) : (finish s c status result0).kv = s.kv := by unfold finish; simp
@[simp] theorem finish_serve (c : Cmd) (status result0 : Nat) : (finish s c status result0).serve = s.serve := by unfold finish; simp
@[simp] theorem finish_cal (c : Cmd) (status result0 : Nat) : (finish s c status result0).cal = s.cal := by unfold finish; simp
@[simp] theorem finish_sweep (c : Cmd) (status result0 : Nat) : (finish s c status result0).sweep = s.sweep := by unfold finish; simp
@[simp] theorem finish_test (c : Cmd) (status result0 : Nat) : (finish s c status result0).test = s.test := by unfold finish; simp
@[simp] theorem finish_chim (c : Cmd) (status result0 : Nat) : (finish s c status result0).chim = s.chim := by unfold finish; simp

/-! ## badParam: bAD_PARAM is a final record -/

@[simp] theorem badParam_pending (c : Cmd) (off : Nat) : (badParam s c off).pending = s.pending := by unfold badParam; simp
@[simp] theorem badParam_freeCtr (c : Cmd) (off : Nat) : (badParam s c off).freeCtr = s.freeCtr := by unfold badParam; simp
@[simp] theorem badParam_replies (c : Cmd) (off : Nat) : (badParam s c off).replies = s.replies := by unfold badParam; simp
@[simp] theorem badParam_dev (c : Cmd) (off : Nat) : (badParam s c off).dev = s.dev := by unfold badParam; simp
@[simp] theorem badParam_clk (c : Cmd) (off : Nat) : (badParam s c off).clk = s.clk := by unfold badParam; simp
@[simp] theorem badParam_pwr (c : Cmd) (off : Nat) : (badParam s c off).pwr = s.pwr := by unfold badParam; simp
@[simp] theorem badParam_thm (c : Cmd) (off : Nat) : (badParam s c off).thm = s.thm := by unfold badParam; simp
@[simp] theorem badParam_log (c : Cmd) (off : Nat) : (badParam s c off).log = s.log := by unfold badParam; simp
@[simp] theorem badParam_err (c : Cmd) (off : Nat) : (badParam s c off).err = s.err := by unfold badParam; simp
@[simp] theorem badParam_host (c : Cmd) (off : Nat) : (badParam s c off).host = s.host := by unfold badParam; simp
@[simp] theorem badParam_fns (c : Cmd) (off : Nat) : (badParam s c off).fns = s.fns := by unfold badParam; simp
@[simp] theorem badParam_orderCtr (c : Cmd) (off : Nat) : (badParam s c off).orderCtr = s.orderCtr := by unfold badParam; simp
@[simp] theorem badParam_lastServed (c : Cmd) (off : Nat) : (badParam s c off).lastServed = s.lastServed := by unfold badParam; simp
@[simp] theorem badParam_paused (c : Cmd) (off : Nat) : (badParam s c off).paused = s.paused := by unfold badParam; simp
@[simp] theorem badParam_ctxs (c : Cmd) (off : Nat) : (badParam s c off).ctxs = s.ctxs := by unfold badParam; simp
@[simp] theorem badParam_tiles (c : Cmd) (off : Nat) : (badParam s c off).tiles = s.tiles := by unfold badParam; simp
@[simp] theorem badParam_cells (c : Cmd) (off : Nat) : (badParam s c off).cells = s.cells := by unfold badParam; simp
@[simp] theorem badParam_gold (c : Cmd) (off : Nat) : (badParam s c off).gold = s.gold := by unfold badParam; simp
@[simp] theorem badParam_arrs (c : Cmd) (off : Nat) : (badParam s c off).arrs = s.arrs := by unfold badParam; simp
@[simp] theorem badParam_flues (c : Cmd) (off : Nat) : (badParam s c off).flues = s.flues := by unfold badParam; simp
@[simp] theorem badParam_flits (c : Cmd) (off : Nat) : (badParam s c off).flits = s.flits := by unfold badParam; simp
@[simp] theorem badParam_kv (c : Cmd) (off : Nat) : (badParam s c off).kv = s.kv := by unfold badParam; simp
@[simp] theorem badParam_serve (c : Cmd) (off : Nat) : (badParam s c off).serve = s.serve := by unfold badParam; simp
@[simp] theorem badParam_cal (c : Cmd) (off : Nat) : (badParam s c off).cal = s.cal := by unfold badParam; simp
@[simp] theorem badParam_sweep (c : Cmd) (off : Nat) : (badParam s c off).sweep = s.sweep := by unfold badParam; simp
@[simp] theorem badParam_test (c : Cmd) (off : Nat) : (badParam s c off).test = s.test := by unfold badParam; simp
@[simp] theorem badParam_chim (c : Cmd) (off : Nat) : (badParam s c off).chim = s.chim := by unfold badParam; simp

/-! ## postProgress: an IN_PROGRESS record changes host memory and its ring alone -/

@[simp] theorem postProgress_pending (c : Cmd) : (postProgress s c).pending = s.pending := by unfold postProgress; (repeat' split) <;> simp
@[simp] theorem postProgress_freeCtr (c : Cmd) : (postProgress s c).freeCtr = s.freeCtr := by unfold postProgress; (repeat' split) <;> simp
@[simp] theorem postProgress_replies (c : Cmd) : (postProgress s c).replies = s.replies := by unfold postProgress; (repeat' split) <;> simp
@[simp] theorem postProgress_dev (c : Cmd) : (postProgress s c).dev = s.dev := by unfold postProgress; (repeat' split) <;> simp
@[simp] theorem postProgress_clk (c : Cmd) : (postProgress s c).clk = s.clk := by unfold postProgress; (repeat' split) <;> simp
@[simp] theorem postProgress_pwr (c : Cmd) : (postProgress s c).pwr = s.pwr := by unfold postProgress; (repeat' split) <;> simp
@[simp] theorem postProgress_thm (c : Cmd) : (postProgress s c).thm = s.thm := by unfold postProgress; (repeat' split) <;> simp
@[simp] theorem postProgress_log (c : Cmd) : (postProgress s c).log = s.log := by unfold postProgress; (repeat' split) <;> simp
@[simp] theorem postProgress_err (c : Cmd) : (postProgress s c).err = s.err := by unfold postProgress; (repeat' split) <;> simp
@[simp] theorem postProgress_host (c : Cmd) : (postProgress s c).host = s.host := by unfold postProgress; (repeat' split) <;> simp
@[simp] theorem postProgress_fns (c : Cmd) : (postProgress s c).fns = s.fns := by unfold postProgress; (repeat' split) <;> simp
@[simp] theorem postProgress_cmds (c : Cmd) : (postProgress s c).cmds = s.cmds := by unfold postProgress; (repeat' split) <;> simp
@[simp] theorem postProgress_orderCtr (c : Cmd) : (postProgress s c).orderCtr = s.orderCtr := by unfold postProgress; (repeat' split) <;> simp
@[simp] theorem postProgress_lastServed (c : Cmd) : (postProgress s c).lastServed = s.lastServed := by unfold postProgress; (repeat' split) <;> simp
@[simp] theorem postProgress_paused (c : Cmd) : (postProgress s c).paused = s.paused := by unfold postProgress; (repeat' split) <;> simp
@[simp] theorem postProgress_ctxs (c : Cmd) : (postProgress s c).ctxs = s.ctxs := by unfold postProgress; (repeat' split) <;> simp
@[simp] theorem postProgress_tiles (c : Cmd) : (postProgress s c).tiles = s.tiles := by unfold postProgress; (repeat' split) <;> simp
@[simp] theorem postProgress_cells (c : Cmd) : (postProgress s c).cells = s.cells := by unfold postProgress; (repeat' split) <;> simp
@[simp] theorem postProgress_gold (c : Cmd) : (postProgress s c).gold = s.gold := by unfold postProgress; (repeat' split) <;> simp
@[simp] theorem postProgress_arrs (c : Cmd) : (postProgress s c).arrs = s.arrs := by unfold postProgress; (repeat' split) <;> simp
@[simp] theorem postProgress_flues (c : Cmd) : (postProgress s c).flues = s.flues := by unfold postProgress; (repeat' split) <;> simp
@[simp] theorem postProgress_flits (c : Cmd) : (postProgress s c).flits = s.flits := by unfold postProgress; (repeat' split) <;> simp
@[simp] theorem postProgress_kv (c : Cmd) : (postProgress s c).kv = s.kv := by unfold postProgress; (repeat' split) <;> simp
@[simp] theorem postProgress_reqs (c : Cmd) : (postProgress s c).reqs = s.reqs := by unfold postProgress; (repeat' split) <;> simp
@[simp] theorem postProgress_serve (c : Cmd) : (postProgress s c).serve = s.serve := by unfold postProgress; (repeat' split) <;> simp
@[simp] theorem postProgress_cal (c : Cmd) : (postProgress s c).cal = s.cal := by unfold postProgress; (repeat' split) <;> simp
@[simp] theorem postProgress_sweep (c : Cmd) : (postProgress s c).sweep = s.sweep := by unfold postProgress; (repeat' split) <;> simp
@[simp] theorem postProgress_test (c : Cmd) : (postProgress s c).test = s.test := by unfold postProgress; (repeat' split) <;> simp
@[simp] theorem postProgress_chim (c : Cmd) : (postProgress s c).chim = s.chim := by unfold postProgress; (repeat' split) <;> simp

/-! ## acceptLong: the acceptance of a long operation changes host memory, its ring and the outstanding list alone -/

@[simp] theorem acceptLong_pending (c : Cmd) : (acceptLong s c).pending = s.pending := by unfold acceptLong; simp
@[simp] theorem acceptLong_freeCtr (c : Cmd) : (acceptLong s c).freeCtr = s.freeCtr := by unfold acceptLong; simp
@[simp] theorem acceptLong_replies (c : Cmd) : (acceptLong s c).replies = s.replies := by unfold acceptLong; simp
@[simp] theorem acceptLong_dev (c : Cmd) : (acceptLong s c).dev = s.dev := by unfold acceptLong; simp
@[simp] theorem acceptLong_clk (c : Cmd) : (acceptLong s c).clk = s.clk := by unfold acceptLong; simp
@[simp] theorem acceptLong_pwr (c : Cmd) : (acceptLong s c).pwr = s.pwr := by unfold acceptLong; simp
@[simp] theorem acceptLong_thm (c : Cmd) : (acceptLong s c).thm = s.thm := by unfold acceptLong; simp
@[simp] theorem acceptLong_log (c : Cmd) : (acceptLong s c).log = s.log := by unfold acceptLong; simp
@[simp] theorem acceptLong_err (c : Cmd) : (acceptLong s c).err = s.err := by unfold acceptLong; simp
@[simp] theorem acceptLong_host (c : Cmd) : (acceptLong s c).host = s.host := by unfold acceptLong; simp
@[simp] theorem acceptLong_fns (c : Cmd) : (acceptLong s c).fns = s.fns := by unfold acceptLong; simp
@[simp] theorem acceptLong_orderCtr (c : Cmd) : (acceptLong s c).orderCtr = s.orderCtr := by unfold acceptLong; simp
@[simp] theorem acceptLong_lastServed (c : Cmd) : (acceptLong s c).lastServed = s.lastServed := by unfold acceptLong; simp
@[simp] theorem acceptLong_paused (c : Cmd) : (acceptLong s c).paused = s.paused := by unfold acceptLong; simp
@[simp] theorem acceptLong_ctxs (c : Cmd) : (acceptLong s c).ctxs = s.ctxs := by unfold acceptLong; simp
@[simp] theorem acceptLong_tiles (c : Cmd) : (acceptLong s c).tiles = s.tiles := by unfold acceptLong; simp
@[simp] theorem acceptLong_cells (c : Cmd) : (acceptLong s c).cells = s.cells := by unfold acceptLong; simp
@[simp] theorem acceptLong_gold (c : Cmd) : (acceptLong s c).gold = s.gold := by unfold acceptLong; simp
@[simp] theorem acceptLong_arrs (c : Cmd) : (acceptLong s c).arrs = s.arrs := by unfold acceptLong; simp
@[simp] theorem acceptLong_flues (c : Cmd) : (acceptLong s c).flues = s.flues := by unfold acceptLong; simp
@[simp] theorem acceptLong_flits (c : Cmd) : (acceptLong s c).flits = s.flits := by unfold acceptLong; simp
@[simp] theorem acceptLong_kv (c : Cmd) : (acceptLong s c).kv = s.kv := by unfold acceptLong; simp
@[simp] theorem acceptLong_reqs (c : Cmd) : (acceptLong s c).reqs = s.reqs := by unfold acceptLong; simp
@[simp] theorem acceptLong_serve (c : Cmd) : (acceptLong s c).serve = s.serve := by unfold acceptLong; simp
@[simp] theorem acceptLong_cal (c : Cmd) : (acceptLong s c).cal = s.cal := by unfold acceptLong; simp
@[simp] theorem acceptLong_sweep (c : Cmd) : (acceptLong s c).sweep = s.sweep := by unfold acceptLong; simp
@[simp] theorem acceptLong_test (c : Cmd) : (acceptLong s c).test = s.test := by unfold acceptLong; simp
@[simp] theorem acceptLong_chim (c : Cmd) : (acceptLong s c).chim = s.chim := by unfold acceptLong; simp

/-! ## failAll: a state change that ends every command changes host memory, the rings, the outstanding list and the requests alone -/

@[simp] theorem failAll_pending (status : Nat) : (failAll s status).pending = s.pending := by unfold failAll; exact foldl_field (·.pending) (fun _ _ => by split <;> simp) _ _
@[simp] theorem failAll_freeCtr (status : Nat) : (failAll s status).freeCtr = s.freeCtr := by unfold failAll; exact foldl_field (·.freeCtr) (fun _ _ => by split <;> simp) _ _
@[simp] theorem failAll_replies (status : Nat) : (failAll s status).replies = s.replies := by unfold failAll; exact foldl_field (·.replies) (fun _ _ => by split <;> simp) _ _
@[simp] theorem failAll_dev (status : Nat) : (failAll s status).dev = s.dev := by unfold failAll; exact foldl_field (·.dev) (fun _ _ => by split <;> simp) _ _
@[simp] theorem failAll_clk (status : Nat) : (failAll s status).clk = s.clk := by unfold failAll; exact foldl_field (·.clk) (fun _ _ => by split <;> simp) _ _
@[simp] theorem failAll_pwr (status : Nat) : (failAll s status).pwr = s.pwr := by unfold failAll; exact foldl_field (·.pwr) (fun _ _ => by split <;> simp) _ _
@[simp] theorem failAll_thm (status : Nat) : (failAll s status).thm = s.thm := by unfold failAll; exact foldl_field (·.thm) (fun _ _ => by split <;> simp) _ _
@[simp] theorem failAll_log (status : Nat) : (failAll s status).log = s.log := by unfold failAll; exact foldl_field (·.log) (fun _ _ => by split <;> simp) _ _
@[simp] theorem failAll_err (status : Nat) : (failAll s status).err = s.err := by unfold failAll; exact foldl_field (·.err) (fun _ _ => by split <;> simp) _ _
@[simp] theorem failAll_host (status : Nat) : (failAll s status).host = s.host := by unfold failAll; exact foldl_field (·.host) (fun _ _ => by split <;> simp) _ _
@[simp] theorem failAll_fns (status : Nat) : (failAll s status).fns = s.fns := by unfold failAll; exact foldl_field (·.fns) (fun _ _ => by split <;> simp) _ _
@[simp] theorem failAll_orderCtr (status : Nat) : (failAll s status).orderCtr = s.orderCtr := by unfold failAll; exact foldl_field (·.orderCtr) (fun _ _ => by split <;> simp) _ _
@[simp] theorem failAll_lastServed (status : Nat) : (failAll s status).lastServed = s.lastServed := by unfold failAll; exact foldl_field (·.lastServed) (fun _ _ => by split <;> simp) _ _
@[simp] theorem failAll_paused (status : Nat) : (failAll s status).paused = s.paused := by unfold failAll; exact foldl_field (·.paused) (fun _ _ => by split <;> simp) _ _
@[simp] theorem failAll_ctxs (status : Nat) : (failAll s status).ctxs = s.ctxs := by unfold failAll; exact foldl_field (·.ctxs) (fun _ _ => by split <;> simp) _ _
@[simp] theorem failAll_tiles (status : Nat) : (failAll s status).tiles = s.tiles := by unfold failAll; exact foldl_field (·.tiles) (fun _ _ => by split <;> simp) _ _
@[simp] theorem failAll_cells (status : Nat) : (failAll s status).cells = s.cells := by unfold failAll; exact foldl_field (·.cells) (fun _ _ => by split <;> simp) _ _
@[simp] theorem failAll_gold (status : Nat) : (failAll s status).gold = s.gold := by unfold failAll; exact foldl_field (·.gold) (fun _ _ => by split <;> simp) _ _
@[simp] theorem failAll_arrs (status : Nat) : (failAll s status).arrs = s.arrs := by unfold failAll; exact foldl_field (·.arrs) (fun _ _ => by split <;> simp) _ _
@[simp] theorem failAll_flues (status : Nat) : (failAll s status).flues = s.flues := by unfold failAll; exact foldl_field (·.flues) (fun _ _ => by split <;> simp) _ _
@[simp] theorem failAll_flits (status : Nat) : (failAll s status).flits = s.flits := by unfold failAll; exact foldl_field (·.flits) (fun _ _ => by split <;> simp) _ _
@[simp] theorem failAll_kv (status : Nat) : (failAll s status).kv = s.kv := by unfold failAll; exact foldl_field (·.kv) (fun _ _ => by split <;> simp) _ _
@[simp] theorem failAll_serve (status : Nat) : (failAll s status).serve = s.serve := by unfold failAll; exact foldl_field (·.serve) (fun _ _ => by split <;> simp) _ _
@[simp] theorem failAll_cal (status : Nat) : (failAll s status).cal = s.cal := by unfold failAll; exact foldl_field (·.cal) (fun _ _ => by split <;> simp) _ _
@[simp] theorem failAll_sweep (status : Nat) : (failAll s status).sweep = s.sweep := by unfold failAll; exact foldl_field (·.sweep) (fun _ _ => by split <;> simp) _ _
@[simp] theorem failAll_test (status : Nat) : (failAll s status).test = s.test := by unfold failAll; exact foldl_field (·.test) (fun _ _ => by split <;> simp) _ _
@[simp] theorem failAll_chim (status : Nat) : (failAll s status).chim = s.chim := by unfold failAll; exact foldl_field (·.chim) (fun _ _ => by split <;> simp) _ _

end Sys2Proof.Machine
end

