-- ==== Sys2Proof/WellFormed.lean ====
section
/-! DEFINITION. Which operands a command may carry: the ranges the manual gives the numbers the outside names. A command outside them is
no command that the block's surroundings can send; its meaning leaves the state as it is or treats the number as naming nothing. -/

namespace Sys2Proof

/-- A function: the physical one or one of 63 virtual ones (21_host_interface R463). -/
def okFn (f : Nat) : Bool := decide (f < 64)

/-- A virtual function. -/
def okVf (f : Nat) : Bool := decide (0 < f) && decide (f < 64)

/-- A ring number of 20 bits (11_graec_rings R259). -/
def okRing (r : Nat) : Bool := decide (r < 2 ^ 20)

/-- A 32-bit word. -/
def okWord (v : Nat) : Bool := decide (v < 2 ^ 32)

/-- A 16-bit word. -/
def okHalf (v : Nat) : Bool := decide (v < 2 ^ 16)

/-- The 8 data bytes of an event (20_mantel_log R449). -/
def okQuad (v : Nat) : Bool := decide (v < 2 ^ 64)

/-- A register offset: a multiple of 4 (21_host_interface R469). -/
def okOffset (o : Nat) : Bool := decide (o % 4 = 0 ∧ o < 2 ^ 32)

/-- A tile: 64 rows of 80 (01_machine R17). -/
def okTile (t : Nat) : Bool := decide (t < 5120)

/-- An array 4t + a (03_arrays R59). -/
def okArray (a : Nat) : Bool := decide (a < 20480)

/-- A flue engine 32d + k (06_flue_path R137). -/
def okEngine (e : Nat) : Bool := decide (e < 128)

/-- A bank of run adders (05_accumulation R118). -/
def okBank (b : Nat) : Bool := decide (b < 4)

/-- A rail index (18_power R421). -/
def okRail (r : Nat) : Bool := decide (r < 13)

/-- A cage (22_card R483). -/
def okCage (c : Nat) : Bool := decide (c < 4)

/-- A Skavel port (14_chimney R334). -/
def okPort (p : Nat) : Bool := decide (p < 8)

/-- A context number (12_graec_commands R287). -/
def okCtx (c : Nat) : Bool := decide (c < 64)

/-- An HBM stack. -/
def okStack (k : Nat) : Bool := decide (k < 8)

/-- A request slot of 20 bits (11_graec_rings R261). -/
def okSlot (k : Nat) : Bool := decide (k < 2 ^ 20)

/-- The index field of a doorbell write, 12 bits (11_graec_rings R259). -/
def okIndex (i : Nat) : Bool := decide (i < 2 ^ 12)

/-- The reserved bits of a doorbell write, 31 bits (11_graec_rings R259). -/
def okResv (v : Nat) : Bool := decide (v < 2 ^ 31)

/-- An error domain (16_faults R382). -/
def okDomain (d : Nat) : Bool := decide (d < 9)

/-- A role of a chimney (14_chimney R332). -/
def okRole (r : Nat) : Bool := decide (r < 2 ^ 16)

/-- An Ethernet address of 48 bits (14_chimney R341). -/
def okMac (m : Nat) : Bool := decide (m < 2 ^ 48)

/-- A progress in per mille (11_graec_rings R277). -/
def okMille (v : Nat) : Bool := decide (v < 1001)

/-- A line of a tile memory (05_accumulation R112). -/
def okLine (l : Nat) : Bool := decide (l < 4096)

/-- A phase of SELF_TEST (16_faults R396). -/
def okPhase (p : Nat) : Bool := decide (1 ≤ p) && decide (p ≤ 6)

/-- A kind of sweep unit: array, tile logic, flue engine (16_faults R392). -/
def okKind (k : Nat) : Bool := decide (k < 3)

/-- A rate of the host link, in PCI Express generations (21_host_interface R466). -/
def okRate (r : Nat) : Bool := decide (3 ≤ r) && decide (r ≤ 6)

/-- A width of the host link. -/
def okWidth (w : Nat) : Bool := w == 4 || w == 8 || w == 16

/-- A register write: a multiple of 4 in a BAR, or an SMBus command code of 8 bits (21_host_interface R469, R472). -/
def okTarget : RegTarget → Bool
  | .bar0 fn o => okFn fn && okOffset o
  | .bar2 fn o => okFn fn && okOffset o
  | .smbus c => decide (c < 256)

/-- A conversion of a tile: an array within it and a converter (03_arrays R58). -/
def okConv (d : ConvDev) : Bool := decide (d.arr < 4) && decide (d.conv < 608)

/-- A row read back: 1,088 rows of 1,216 cells (03_arrays R58, R61). -/
def okRead (d : RowRead) : Bool := decide (d.row < 1088) && decide (d.bits < 2 ^ 1216)

/-- A measurement of a converter: 0 to 607, or the spare's 608 and 609 (04_calibration R96). -/
def okMeas (d : ConvMeas) : Bool := okArray d.array && decide (d.conv < 610)

/-- A line of a tile read back: 32 bytes (16_faults R385). -/
def okLineRead (d : LineRead) : Bool := okTile d.tile && okLine d.line && d.bytes.length == 32

/-- A thermal update (19_thermal R437, R440; 22_card R488): 265 nodes, one of two periods, readings within their sensors' ranges, a flow
below 0.1 L/min read as 0. -/
def okThm (u : ThmIn) : Bool :=
  u.temps.length == 265 && (u.interval == 1000 || u.interval == 125) && u.ta.all (fun v => decide (-1280 ≤ v ∧ v ≤ 10880)) &&
    u.tc.all (fun v => decide (0 ≤ v ∧ v ≤ 10880)) && u.flow.all fun v => decide (v = 0 ∨ (10 ≤ v ∧ v ≤ 400))

/-- An HBM address of 384 GiB (08_tables_tiers R186). -/
def okHbm (a : Nat) : Bool := decide (a < 384 * 2 ^ 30)

/-- The first GiB of a site's region and of the next (08_tables_tiers R188); TABLE, MIRROR and POOL share what the layout divides. -/
def siteGib : HbmSite → Nat × Nat × Nat
  | .sys a => (a, 0, 1) | .gold a _ _ _ => (a, 1, 5) | .ring a => (a, 5, 14) | .reqRecord a _ => (a, 14, 38) | .prefixTable a => (a, 14, 38)
  | .hob a _ => (a, 38, 40) | .delta a _ _ => (a, 40, 56) | .cache a _ => (a, 56, 64) | .table a _ => (a, 64, 384)
  | .mirror a _ => (a, 64, 384) | .pool a _ => (a, 64, 384)

/-- An HBM error lies in the region it is said to hit. -/
def okSite (x : HbmSite) : Bool :=
  decide ((siteGib x).2.1 * 2 ^ 30 ≤ (siteGib x).1 ∧ (siteGib x).1 < (siteGib x).2.2 * 2 ^ 30)

/-- The operands lie in the ranges the manual gives them. -/
def Instr.wellFormed : Instr → Bool
  | .packetConsume ring => okRing ring
  | .fenceStart ring seq => okRing ring && okWord seq
  | .inProgressPost ring seq progress _ => okRing ring && okWord seq && okMille progress
  | .msixCoalesce ring => okRing ring
  | .consumptionResume => true
  | .outstandingDrained ring seq => okRing ring && okWord seq
  | .doorbellTail fn ring index resv _ => okFn fn && okRing ring && okIndex index && okResv resv
  | .doorbellHead fn ring index resv => okFn fn && okRing ring && okIndex index && okResv resv
  | .adminEnable fn value => okFn fn && okWord value
  | .adminDisable fn value => okFn fn && okWord value
  | .registerWrite t value => okTarget t && okWord value
  | .lowHalfRead fn offset => okFn fn && okOffset offset
  | .highHalfRead fn offset => okFn fn && okOffset offset
  | .configRequest fn _ => okFn fn
  | .flr vf => okVf vf
  | .sscCfgWrite value => okWord value
  | .logDataRead => true
  | .clearCodeWrite code => okQuad code
  | .hello ring seq => okRing ring && okWord seq
  | .goodbye ring seq => okRing ring && okWord seq
  | .ringCreate ring seq => okRing ring && okWord seq
  | .ringDestroy ring seq => okRing ring && okWord seq
  | .ringBind ring seq => okRing ring && okWord seq
  | .ctxCreate ring seq => okRing ring && okWord seq
  | .ctxDestroy ring seq => okRing ring && okWord seq
  | .ctxLoad ring seq reads => okRing ring && okWord seq && reads.all okLineRead
  | .variantLoad ring seq => okRing ring && okWord seq
  | .variantDrop ring seq => okRing ring && okWord seq
  | .tableLoad ring seq => okRing ring && okWord seq
  | .tableUpdate ring seq => okRing ring && okWord seq
  | .reqOpen ring seq => okRing ring && okWord seq
  | .reqAppend ring seq => okRing ring && okWord seq
  | .reqStep ring seq => okRing ring && okWord seq
  | .reqVerify ring seq => okRing ring && okWord seq
  | .reqClose ring seq => okRing ring && okWord seq
  | .reqCancel ring seq => okRing ring && okWord seq
  | .reqQuery ring seq => okRing ring && okWord seq
  | .prefixPin ring seq => okRing ring && okWord seq
  | .prefixRelease ring seq => okRing ring && okWord seq
  | .panelRead ring seq => okRing ring && okWord seq
  | .panelWrite ring seq => okRing ring && okWord seq
  | .calRun ring seq => okRing ring && okWord seq
  | .calStatus ring seq => okRing ring && okWord seq
  | .calCommit ring seq => okRing ring && okWord seq
  | .selfTest ring seq => okRing ring && okWord seq
  | .sweepConfig ring seq => okRing ring && okWord seq
  | .cascadeJoin ring seq => okRing ring && okWord seq
  | .cascadeLeave ring seq => okRing ring && okWord seq
  | .crownAssign ring seq => okRing ring && okWord seq
  | .mirrorConfig ring seq => okRing ring && okWord seq
  | .failoverAdopt ring seq => okRing ring && okWord seq
  | .logFreeze ring seq => okRing ring && okWord seq
  | .logRead ring seq => okRing ring && okWord seq
  | .logThaw ring seq => okRing ring && okWord seq
  | .logClear ring seq => okRing ring && okWord seq
  | .powerLimit ring seq => okRing ring && okWord seq
  | .stateSet ring seq => okRing ring && okWord seq
  | .powerDown ring seq => okRing ring && okWord seq
  | .traceStart ring seq => okRing ring && okWord seq
  | .traceStop ring seq => okRing ring && okWord seq
  | .recordStart ring seq => okRing ring && okWord seq
  | .recordStop ring seq => okRing ring && okWord seq
  | .replay ring seq => okRing ring && okWord seq
  | .opProgress ring seq => okRing ring && okWord seq
  | .opAbort ring seq => okRing ring && okWord seq
  | .fwStage ring seq => okRing ring && okWord seq
  | .fwActivate ring seq => okRing ring && okWord seq
  | .dispatchBoundary ctx => okCtx ctx
  | .spillReturn => true
  | .appendChunkRetry ring seq => okRing ring && okWord seq
  | .appendChunkTimeout ring seq => okRing ring && okWord seq
  | .executionStart tile => okTile tile
  | .executionEnd tile => okTile tile
  | .instructionComplete tile _ => okTile tile
  | .execLimitExpire tile => okTile tile
  | .fire tile => okTile tile
  | .firev tile => okTile tile
  | .fireSlot tile bank devs => okTile tile && okBank bank && devs.all okConv
  | .preload tile => okTile tile
  | .promote tile => okTile tile
  | .move tile => okTile tile
  | .quant tile => okTile tile
  | .deq tile => okTile tile
  | .send tile => okTile tile
  | .recv tile => okTile tile
  | .reduce tile => okTile tile
  | .kvapp tile => okTile tile
  | .hobFlush slot _ _ => okSlot slot
  | .kvidx tile => okTile tile
  | .kvgath tile => okTile tile
  | .attn tile => okTile tile
  | .kvevict tile => okTile tile
  | .norm tile => okTile tile
  | .act tile => okTile tile
  | .rope tile => okTile tile
  | .embg tile => okTile tile
  | .sample tile => okTile tile
  | .verify tile => okTile tile
  | .waitCtr tile => okTile tile
  | .signal tile => okTile tile
  | .signalArrival tile => okTile tile
  | .loopBody tile => okTile tile
  | .br tile => okTile tile
  | .endExec tile => okTile tile
  | .nopInstr tile => okTile tile
  | .timeread tile => okTile tile
  | .recompute engine reads => okEngine engine && reads.all okRead
  | .outlier engine => okEngine engine
  | .delta engine _ => okEngine engine
  | .flueResultArrival tile => okTile tile
  | .freeFlue engine _ => okEngine engine
  | .storageReport tile => okTile tile
  | .storageRepair array reads => okArray array && reads.all okRead
  | .scrubRow array reads => okArray array && reads.all okRead
  | .windowClose array => okArray array
  | .bgCalDwell fits => fits.all okMeas
  | .recalDwell array fits => okArray array && fits.all okMeas
  | .calReferenceCheck _ => true
  | .calAttemptEnd fits => fits.all okMeas
  | .calTrimLoad => true
  | .selfTestPhaseEnd phase _ _ => okPhase phase
  | .sweepRound kind _ _ devs _ => okKind kind && devs.all fun e => okConv e.2
  | .sweepDigest kind _ _ => okKind kind
  | .sweepSubinterval => true
  | .hbmPatrol addr _ => okHbm addr
  | .hbmUncorrectable site => okSite site
  | .hbmStackFail stack => okStack stack
  | .tileParityError tile line => okTile tile && okLine line
  | .meshParityError _ link _ => okTile link.tile
  | .hostReadFail _ => true
  | .hostReadRetryResult _ => true
  | .errorRaise e => okDomain e.domain
  | .handlerEnd => true
  | .handlerTimeout => true
  | .rootAttemptStart => true
  | .rootAttemptTimeout => true
  | .rootSeriesRetry => true
  | .monitorWindow _ _ => true
  | .missingEdgeTrip => true
  | .lockLostTrip _ => true
  | .lane0EnterL0 => true
  | .lane0LeaveL0 => true
  | .dividerStep => true
  | .hbmRecovery _ => true
  | .v12Rise _ => true
  | .railPowerGood rail => okRail rail
  | .railEnableTimeout rail => okRail rail
  | .railReenable rail => okRail rail
  | .perstAssert => true
  | .perstDeassert => true
  | .hotReset => true
  | .bootComplete _ _ => true
  | .railFailRun rail _ => okRail rail
  | .pwrInputLow _ => true
  | .inputRecovered => true
  | .inputLoss _ => true
  | .senseChange _ => true
  | .railFallen rail => okRail rail
  | .railFallTimeout rail => okRail rail
  | .wake => true
  | .hostLinkRetrain rate width _ => okRate rate && okWidth width
  | .modulePresent cage => okCage cage
  | .moduleRemoved cage => okCage cage
  | .cageOvercurrent cage => okCage cage
  | .thmUpdate u => okThm u
  | .coefficientAdjust _ _ => true
  | .sensorInvalid _ => true
  | .flueLoadWindow => true
  | .tableUpdateApply ctx => okCtx ctx
  | .logEvent code domain data => okHalf code && okDomain domain && okQuad data
  | .logRecordTimeout => true
  | .logFlashWrite => true
  | .logRecordsLost => true
  | .logFreezeTimeout => true
  | .portTrained port => okPort port
  | .trainFrame port _ => okPort port
  | .portRetrain port => okPort port
  | .joinTimeout ring seq => okRing ring && okWord seq
  | .announceSend port => okPort port
  | .announceFrame port chimneyId role peerPort mac => okPort port && okQuad chimneyId && okRole role && okPort peerPort && okMac mac
  | .linkFrame l _ _ => okPort l.port
  | .lackReport l => okPort l.port
  | .frameReceive l _ _ => okPort l.port
  | .frameForward port _ => okPort port
  | .retransmitTimeout l => okPort l.port
  | .fullResend l => okPort l.port
  | .lnkRetryExhausted l => okPort l.port
  | .startFrame => true
  | .doneFrame => true
  | .commitFrame => true
  | .abortFrame => true
  | .abortAck => true
  | .stepTimeout step => okWord step
  | .heartbeatSend => true
  | .heartbeatFrame => true
  | .heartbeatSilence role => okRole role
  | .fenceFrame => true
  | .dataFrame => true
  | .creditFrame => true
  | .gatherReq => true
  | .gatherRsp => true
  | .tupdateFrame => true
  | .mirrorFrame => true
  | .mirrorAck => true
  | .mirrorFree => true
  | .xferFrame => true
  | .regulatorFaultDown rail => okRail rail
  | .v3p3AuxChange _ => true
  | .lossOfSignal port => okPort port
  | .smbusRefresh => true
  | .chimneyContextReady _ _ => true

end Sys2Proof
end

