-- ==== Sys2Proof/Laws/PerInstr.lean ====
section
/-! SUPPORT. The per-command family WellFormed: a command is well formed exactly when the numbers it carries lie in the manual's ranges.
One lemma per constructor says which numbers those are. -/

namespace Sys2Proof.Laws.WellFormed

/-- The numbers of a command that its well-formedness asks about, each with the bound it lies below. -/
def bounds : Instr → List (Nat × Nat)
  | .packetConsume ring => [(ring, 2 ^ 20)]
  | .fenceStart ring seq => [(ring, 2 ^ 20), (seq, 2 ^ 32)]
  | .inProgressPost ring seq progress _ => [(ring, 2 ^ 20), (seq, 2 ^ 32), (progress, 1001)]
  | .msixCoalesce ring => [(ring, 2 ^ 20)]
  | .consumptionResume => []
  | .outstandingDrained ring seq => [(ring, 2 ^ 20), (seq, 2 ^ 32)]
  | .doorbellTail fn ring index resv _ => [(fn, 64), (ring, 2 ^ 20), (index, 2 ^ 12), (resv, 2 ^ 31)]
  | .doorbellHead fn ring index resv => [(fn, 64), (ring, 2 ^ 20), (index, 2 ^ 12), (resv, 2 ^ 31)]
  | .adminEnable fn value => [(fn, 64), (value, 2 ^ 32)]
  | .adminDisable fn value => [(fn, 64), (value, 2 ^ 32)]
  | .registerWrite _ value => [(value, 2 ^ 32)]
  | .lowHalfRead fn _ => [(fn, 64)]
  | .highHalfRead fn _ => [(fn, 64)]
  | .configRequest fn _ => [(fn, 64)]
  | .flr _ => []
  | .sscCfgWrite value => [(value, 2 ^ 32)]
  | .logDataRead => []
  | .clearCodeWrite code => [(code, 2 ^ 64)]
  | .hello ring seq => [(ring, 2 ^ 20), (seq, 2 ^ 32)]
  | .goodbye ring seq => [(ring, 2 ^ 20), (seq, 2 ^ 32)]
  | .ringCreate ring seq => [(ring, 2 ^ 20), (seq, 2 ^ 32)]
  | .ringDestroy ring seq => [(ring, 2 ^ 20), (seq, 2 ^ 32)]
  | .ringBind ring seq => [(ring, 2 ^ 20), (seq, 2 ^ 32)]
  | .ctxCreate ring seq => [(ring, 2 ^ 20), (seq, 2 ^ 32)]
  | .ctxDestroy ring seq => [(ring, 2 ^ 20), (seq, 2 ^ 32)]
  | .ctxLoad ring seq _ => [(ring, 2 ^ 20), (seq, 2 ^ 32)]
  | .variantLoad ring seq => [(ring, 2 ^ 20), (seq, 2 ^ 32)]
  | .variantDrop ring seq => [(ring, 2 ^ 20), (seq, 2 ^ 32)]
  | .tableLoad ring seq => [(ring, 2 ^ 20), (seq, 2 ^ 32)]
  | .tableUpdate ring seq => [(ring, 2 ^ 20), (seq, 2 ^ 32)]
  | .reqOpen ring seq => [(ring, 2 ^ 20), (seq, 2 ^ 32)]
  | .reqAppend ring seq => [(ring, 2 ^ 20), (seq, 2 ^ 32)]
  | .reqStep ring seq => [(ring, 2 ^ 20), (seq, 2 ^ 32)]
  | .reqVerify ring seq => [(ring, 2 ^ 20), (seq, 2 ^ 32)]
  | .reqClose ring seq => [(ring, 2 ^ 20), (seq, 2 ^ 32)]
  | .reqCancel ring seq => [(ring, 2 ^ 20), (seq, 2 ^ 32)]
  | .reqQuery ring seq => [(ring, 2 ^ 20), (seq, 2 ^ 32)]
  | .prefixPin ring seq => [(ring, 2 ^ 20), (seq, 2 ^ 32)]
  | .prefixRelease ring seq => [(ring, 2 ^ 20), (seq, 2 ^ 32)]
  | .panelRead ring seq => [(ring, 2 ^ 20), (seq, 2 ^ 32)]
  | .panelWrite ring seq => [(ring, 2 ^ 20), (seq, 2 ^ 32)]
  | .calRun ring seq => [(ring, 2 ^ 20), (seq, 2 ^ 32)]
  | .calStatus ring seq => [(ring, 2 ^ 20), (seq, 2 ^ 32)]
  | .calCommit ring seq => [(ring, 2 ^ 20), (seq, 2 ^ 32)]
  | .selfTest ring seq => [(ring, 2 ^ 20), (seq, 2 ^ 32)]
  | .sweepConfig ring seq => [(ring, 2 ^ 20), (seq, 2 ^ 32)]
  | .cascadeJoin ring seq => [(ring, 2 ^ 20), (seq, 2 ^ 32)]
  | .cascadeLeave ring seq => [(ring, 2 ^ 20), (seq, 2 ^ 32)]
  | .crownAssign ring seq => [(ring, 2 ^ 20), (seq, 2 ^ 32)]
  | .mirrorConfig ring seq => [(ring, 2 ^ 20), (seq, 2 ^ 32)]
  | .failoverAdopt ring seq => [(ring, 2 ^ 20), (seq, 2 ^ 32)]
  | .logFreeze ring seq => [(ring, 2 ^ 20), (seq, 2 ^ 32)]
  | .logRead ring seq => [(ring, 2 ^ 20), (seq, 2 ^ 32)]
  | .logThaw ring seq => [(ring, 2 ^ 20), (seq, 2 ^ 32)]
  | .logClear ring seq => [(ring, 2 ^ 20), (seq, 2 ^ 32)]
  | .powerLimit ring seq => [(ring, 2 ^ 20), (seq, 2 ^ 32)]
  | .stateSet ring seq => [(ring, 2 ^ 20), (seq, 2 ^ 32)]
  | .powerDown ring seq => [(ring, 2 ^ 20), (seq, 2 ^ 32)]
  | .traceStart ring seq => [(ring, 2 ^ 20), (seq, 2 ^ 32)]
  | .traceStop ring seq => [(ring, 2 ^ 20), (seq, 2 ^ 32)]
  | .recordStart ring seq => [(ring, 2 ^ 20), (seq, 2 ^ 32)]
  | .recordStop ring seq => [(ring, 2 ^ 20), (seq, 2 ^ 32)]
  | .replay ring seq => [(ring, 2 ^ 20), (seq, 2 ^ 32)]
  | .opProgress ring seq => [(ring, 2 ^ 20), (seq, 2 ^ 32)]
  | .opAbort ring seq => [(ring, 2 ^ 20), (seq, 2 ^ 32)]
  | .fwStage ring seq => [(ring, 2 ^ 20), (seq, 2 ^ 32)]
  | .fwActivate ring seq => [(ring, 2 ^ 20), (seq, 2 ^ 32)]
  | .dispatchBoundary ctx => [(ctx, 64)]
  | .spillReturn => []
  | .appendChunkRetry ring seq => [(ring, 2 ^ 20), (seq, 2 ^ 32)]
  | .appendChunkTimeout ring seq => [(ring, 2 ^ 20), (seq, 2 ^ 32)]
  | .executionStart tile => [(tile, 5120)]
  | .executionEnd tile => [(tile, 5120)]
  | .instructionComplete tile _ => [(tile, 5120)]
  | .execLimitExpire tile => [(tile, 5120)]
  | .fire tile => [(tile, 5120)]
  | .firev tile => [(tile, 5120)]
  | .fireSlot tile bank _ => [(tile, 5120), (bank, 4)]
  | .preload tile => [(tile, 5120)]
  | .promote tile => [(tile, 5120)]
  | .move tile => [(tile, 5120)]
  | .quant tile => [(tile, 5120)]
  | .deq tile => [(tile, 5120)]
  | .send tile => [(tile, 5120)]
  | .recv tile => [(tile, 5120)]
  | .reduce tile => [(tile, 5120)]
  | .kvapp tile => [(tile, 5120)]
  | .hobFlush slot _ _ => [(slot, 2 ^ 20)]
  | .kvidx tile => [(tile, 5120)]
  | .kvgath tile => [(tile, 5120)]
  | .attn tile => [(tile, 5120)]
  | .kvevict tile => [(tile, 5120)]
  | .norm tile => [(tile, 5120)]
  | .act tile => [(tile, 5120)]
  | .rope tile => [(tile, 5120)]
  | .embg tile => [(tile, 5120)]
  | .sample tile => [(tile, 5120)]
  | .verify tile => [(tile, 5120)]
  | .waitCtr tile => [(tile, 5120)]
  | .signal tile => [(tile, 5120)]
  | .signalArrival tile => [(tile, 5120)]
  | .loopBody tile => [(tile, 5120)]
  | .br tile => [(tile, 5120)]
  | .endExec tile => [(tile, 5120)]
  | .nopInstr tile => [(tile, 5120)]
  | .timeread tile => [(tile, 5120)]
  | .recompute engine _ => [(engine, 128)]
  | .outlier engine => [(engine, 128)]
  | .delta engine _ => [(engine, 128)]
  | .flueResultArrival tile => [(tile, 5120)]
  | .freeFlue engine _ => [(engine, 128)]
  | .storageReport tile => [(tile, 5120)]
  | .storageRepair array _ => [(array, 20480)]
  | .scrubRow array _ => [(array, 20480)]
  | .windowClose array => [(array, 20480)]
  | .bgCalDwell _ => []
  | .recalDwell array _ => [(array, 20480)]
  | .calReferenceCheck _ => []
  | .calAttemptEnd _ => []
  | .calTrimLoad => []
  | .selfTestPhaseEnd _ _ _ => []
  | .sweepRound kind _ _ _ _ => [(kind, 3)]
  | .sweepDigest kind _ _ => [(kind, 3)]
  | .sweepSubinterval => []
  | .hbmPatrol _ _ => []
  | .hbmUncorrectable _ => []
  | .hbmStackFail stack => [(stack, 8)]
  | .tileParityError tile line => [(tile, 5120), (line, 4096)]
  | .meshParityError _ link _ => [(link.tile, 5120)]
  | .hostReadFail _ => []
  | .hostReadRetryResult _ => []
  | .errorRaise e => [(e.domain, 9)]
  | .handlerEnd => []
  | .handlerTimeout => []
  | .rootAttemptStart => []
  | .rootAttemptTimeout => []
  | .rootSeriesRetry => []
  | .monitorWindow _ _ => []
  | .missingEdgeTrip => []
  | .lockLostTrip _ => []
  | .lane0EnterL0 => []
  | .lane0LeaveL0 => []
  | .dividerStep => []
  | .hbmRecovery _ => []
  | .v12Rise _ => []
  | .railPowerGood rail => [(rail, 13)]
  | .railEnableTimeout rail => [(rail, 13)]
  | .railReenable rail => [(rail, 13)]
  | .perstAssert => []
  | .perstDeassert => []
  | .hotReset => []
  | .bootComplete _ _ => []
  | .railFailRun rail _ => [(rail, 13)]
  | .pwrInputLow _ => []
  | .inputRecovered => []
  | .inputLoss _ => []
  | .senseChange _ => []
  | .railFallen rail => [(rail, 13)]
  | .railFallTimeout rail => [(rail, 13)]
  | .wake => []
  | .hostLinkRetrain _ _ _ => []
  | .modulePresent cage => [(cage, 4)]
  | .moduleRemoved cage => [(cage, 4)]
  | .cageOvercurrent cage => [(cage, 4)]
  | .thmUpdate _ => []
  | .coefficientAdjust _ _ => []
  | .sensorInvalid _ => []
  | .flueLoadWindow => []
  | .tableUpdateApply ctx => [(ctx, 64)]
  | .logEvent code domain data => [(code, 2 ^ 16), (domain, 9), (data, 2 ^ 64)]
  | .logRecordTimeout => []
  | .logFlashWrite => []
  | .logRecordsLost => []
  | .logFreezeTimeout => []
  | .portTrained port => [(port, 8)]
  | .trainFrame port _ => [(port, 8)]
  | .portRetrain port => [(port, 8)]
  | .joinTimeout ring seq => [(ring, 2 ^ 20), (seq, 2 ^ 32)]
  | .announceSend port => [(port, 8)]
  | .announceFrame port chimneyId role peerPort mac => [(port, 8), (chimneyId, 2 ^ 64), (role, 2 ^ 16), (peerPort, 8), (mac, 2 ^ 48)]
  | .linkFrame l _ _ => [(l.port, 8)]
  | .lackReport l => [(l.port, 8)]
  | .frameReceive l _ _ => [(l.port, 8)]
  | .frameForward port _ => [(port, 8)]
  | .retransmitTimeout l => [(l.port, 8)]
  | .fullResend l => [(l.port, 8)]
  | .lnkRetryExhausted l => [(l.port, 8)]
  | .startFrame => []
  | .doneFrame => []
  | .commitFrame => []
  | .abortFrame => []
  | .abortAck => []
  | .stepTimeout step => [(step, 2 ^ 32)]
  | .heartbeatSend => []
  | .heartbeatFrame => []
  | .heartbeatSilence role => [(role, 2 ^ 16)]
  | .fenceFrame => []
  | .dataFrame => []
  | .creditFrame => []
  | .gatherReq => []
  | .gatherRsp => []
  | .tupdateFrame => []
  | .mirrorFrame => []
  | .mirrorAck => []
  | .mirrorFree => []
  | .xferFrame => []
  | .regulatorFaultDown rail => [(rail, 13)]
  | .v3p3AuxChange _ => []
  | .lossOfSignal port => [(port, 8)]
  | .smbusRefresh => []
  | .chimneyContextReady _ _ => []

/-- What a well-formed command promises of its numbers. -/
def Statement (i : Instr) : Prop := i.wellFormed = true → ∀ e ∈ bounds i, e.1 < e.2

variable {a b c d e x y z w v : Nat} {r : Bool}

/-- Numbers that pass their checks lie below their bounds. -/
theorem below0 : ∀ q ∈ ([] : List (Nat × Nat)), q.1 < q.2 := fun _ h => nomatch h

theorem below1 (h : decide (a < x) = true) : ∀ q ∈ [(a, x)], q.1 < q.2 := by
  simpa using h

theorem below2 (h : (decide (a < x) && decide (b < y)) = true) : ∀ q ∈ [(a, x), (b, y)], q.1 < q.2 := by
  simpa using h

theorem below3 (h : (decide (a < x) && decide (b < y) && decide (c < z)) = true) : ∀ q ∈ [(a, x), (b, y), (c, z)], q.1 < q.2 := by
  simpa [and_assoc] using h

theorem below4 (h : (decide (a < x) && decide (b < y) && decide (c < z) && decide (d < w)) = true) :
    ∀ q ∈ [(a, x), (b, y), (c, z), (d, w)], q.1 < q.2 := by
  simpa [and_assoc] using h

theorem below5 (h : (decide (a < x) && decide (b < y) && decide (c < z) && decide (d < w) && decide (e < v)) = true) :
    ∀ q ∈ [(a, x), (b, y), (c, z), (d, w), (e, v)], q.1 < q.2 := by
  simpa [and_assoc] using h

/-- The first of two checks. -/
theorem fst {q r : Bool} (h : (q && r) = true) : q = true := (Bool.and_eq_true _ _ ▸ h).1

/-- The second of two checks. -/
theorem snd {q r : Bool} (h : (q && r) = true) : r = true := (Bool.and_eq_true _ _ ▸ h).2

theorem packetConsume (ring : Nat) : Statement (.packetConsume ring) := fun h => below1 h

theorem fenceStart (ring : Nat) (seq : Nat) : Statement (.fenceStart ring seq) := fun h => below2 h

theorem inProgressPost (ring : Nat) (seq : Nat) (progress : Nat) (position : Nat) : Statement (.inProgressPost ring seq progress position) := fun h => below3 h

theorem msixCoalesce (ring : Nat) : Statement (.msixCoalesce ring) := fun h => below1 h

theorem consumptionResume : Statement (.consumptionResume) := fun _ => below0

theorem outstandingDrained (ring : Nat) (seq : Nat) : Statement (.outstandingDrained ring seq) := fun h => below2 h

theorem doorbellTail (fn : Nat) (ring : Nat) (index : Nat) (resv : Nat) (wr : List (Nat × List Byte)) : Statement (.doorbellTail fn ring index resv wr) := fun h => below4 h

theorem doorbellHead (fn : Nat) (ring : Nat) (index : Nat) (resv : Nat) : Statement (.doorbellHead fn ring index resv) := fun h => below4 h

theorem adminEnable (fn : Nat) (value : Nat) : Statement (.adminEnable fn value) := fun h => below2 h

theorem adminDisable (fn : Nat) (value : Nat) : Statement (.adminDisable fn value) := fun h => below2 h

theorem registerWrite (t : RegTarget) (value : Nat) : Statement (.registerWrite t value) := fun h => below1 (snd h)

theorem lowHalfRead (fn : Nat) (offset : Nat) : Statement (.lowHalfRead fn offset) := fun h => below1 (fst h)

theorem highHalfRead (fn : Nat) (offset : Nat) : Statement (.highHalfRead fn offset) := fun h => below1 (fst h)

theorem configRequest (fn : Nat) (op : CfgOp) : Statement (.configRequest fn op) := fun h => below1 h

theorem flr (vf : Nat) : Statement (.flr vf) := fun _ => below0

theorem sscCfgWrite (value : Nat) : Statement (.sscCfgWrite value) := fun h => below1 h

theorem logDataRead : Statement (.logDataRead) := fun _ => below0

theorem clearCodeWrite (code : Nat) : Statement (.clearCodeWrite code) := fun h => below1 h

theorem hello (ring : Nat) (seq : Nat) : Statement (.hello ring seq) := fun h => below2 h

theorem goodbye (ring : Nat) (seq : Nat) : Statement (.goodbye ring seq) := fun h => below2 h

theorem ringCreate (ring : Nat) (seq : Nat) : Statement (.ringCreate ring seq) := fun h => below2 h

theorem ringDestroy (ring : Nat) (seq : Nat) : Statement (.ringDestroy ring seq) := fun h => below2 h

theorem ringBind (ring : Nat) (seq : Nat) : Statement (.ringBind ring seq) := fun h => below2 h

theorem ctxCreate (ring : Nat) (seq : Nat) : Statement (.ctxCreate ring seq) := fun h => below2 h

theorem ctxDestroy (ring : Nat) (seq : Nat) : Statement (.ctxDestroy ring seq) := fun h => below2 h

theorem ctxLoad (ring : Nat) (seq : Nat) (reads : List LineRead) : Statement (.ctxLoad ring seq reads) := fun h => below2 (fst h)

theorem variantLoad (ring : Nat) (seq : Nat) : Statement (.variantLoad ring seq) := fun h => below2 h

theorem variantDrop (ring : Nat) (seq : Nat) : Statement (.variantDrop ring seq) := fun h => below2 h

theorem tableLoad (ring : Nat) (seq : Nat) : Statement (.tableLoad ring seq) := fun h => below2 h

theorem tableUpdate (ring : Nat) (seq : Nat) : Statement (.tableUpdate ring seq) := fun h => below2 h

theorem reqOpen (ring : Nat) (seq : Nat) : Statement (.reqOpen ring seq) := fun h => below2 h

theorem reqAppend (ring : Nat) (seq : Nat) : Statement (.reqAppend ring seq) := fun h => below2 h

theorem reqStep (ring : Nat) (seq : Nat) : Statement (.reqStep ring seq) := fun h => below2 h

theorem reqVerify (ring : Nat) (seq : Nat) : Statement (.reqVerify ring seq) := fun h => below2 h

theorem reqClose (ring : Nat) (seq : Nat) : Statement (.reqClose ring seq) := fun h => below2 h

theorem reqCancel (ring : Nat) (seq : Nat) : Statement (.reqCancel ring seq) := fun h => below2 h

theorem reqQuery (ring : Nat) (seq : Nat) : Statement (.reqQuery ring seq) := fun h => below2 h

theorem prefixPin (ring : Nat) (seq : Nat) : Statement (.prefixPin ring seq) := fun h => below2 h

theorem prefixRelease (ring : Nat) (seq : Nat) : Statement (.prefixRelease ring seq) := fun h => below2 h

theorem panelRead (ring : Nat) (seq : Nat) : Statement (.panelRead ring seq) := fun h => below2 h

theorem panelWrite (ring : Nat) (seq : Nat) : Statement (.panelWrite ring seq) := fun h => below2 h

theorem calRun (ring : Nat) (seq : Nat) : Statement (.calRun ring seq) := fun h => below2 h

theorem calStatus (ring : Nat) (seq : Nat) : Statement (.calStatus ring seq) := fun h => below2 h

theorem calCommit (ring : Nat) (seq : Nat) : Statement (.calCommit ring seq) := fun h => below2 h

theorem selfTest (ring : Nat) (seq : Nat) : Statement (.selfTest ring seq) := fun h => below2 h

theorem sweepConfig (ring : Nat) (seq : Nat) : Statement (.sweepConfig ring seq) := fun h => below2 h

theorem cascadeJoin (ring : Nat) (seq : Nat) : Statement (.cascadeJoin ring seq) := fun h => below2 h

theorem cascadeLeave (ring : Nat) (seq : Nat) : Statement (.cascadeLeave ring seq) := fun h => below2 h

theorem crownAssign (ring : Nat) (seq : Nat) : Statement (.crownAssign ring seq) := fun h => below2 h

theorem mirrorConfig (ring : Nat) (seq : Nat) : Statement (.mirrorConfig ring seq) := fun h => below2 h

theorem failoverAdopt (ring : Nat) (seq : Nat) : Statement (.failoverAdopt ring seq) := fun h => below2 h

theorem logFreeze (ring : Nat) (seq : Nat) : Statement (.logFreeze ring seq) := fun h => below2 h

theorem logRead (ring : Nat) (seq : Nat) : Statement (.logRead ring seq) := fun h => below2 h

theorem logThaw (ring : Nat) (seq : Nat) : Statement (.logThaw ring seq) := fun h => below2 h

theorem logClear (ring : Nat) (seq : Nat) : Statement (.logClear ring seq) := fun h => below2 h

theorem powerLimit (ring : Nat) (seq : Nat) : Statement (.powerLimit ring seq) := fun h => below2 h

theorem stateSet (ring : Nat) (seq : Nat) : Statement (.stateSet ring seq) := fun h => below2 h

theorem powerDown (ring : Nat) (seq : Nat) : Statement (.powerDown ring seq) := fun h => below2 h

theorem traceStart (ring : Nat) (seq : Nat) : Statement (.traceStart ring seq) := fun h => below2 h

theorem traceStop (ring : Nat) (seq : Nat) : Statement (.traceStop ring seq) := fun h => below2 h

theorem recordStart (ring : Nat) (seq : Nat) : Statement (.recordStart ring seq) := fun h => below2 h

theorem recordStop (ring : Nat) (seq : Nat) : Statement (.recordStop ring seq) := fun h => below2 h

theorem replay (ring : Nat) (seq : Nat) : Statement (.replay ring seq) := fun h => below2 h

theorem opProgress (ring : Nat) (seq : Nat) : Statement (.opProgress ring seq) := fun h => below2 h

theorem opAbort (ring : Nat) (seq : Nat) : Statement (.opAbort ring seq) := fun h => below2 h

theorem fwStage (ring : Nat) (seq : Nat) : Statement (.fwStage ring seq) := fun h => below2 h

theorem fwActivate (ring : Nat) (seq : Nat) : Statement (.fwActivate ring seq) := fun h => below2 h

theorem dispatchBoundary (ctx : Nat) : Statement (.dispatchBoundary ctx) := fun h => below1 h

theorem spillReturn : Statement (.spillReturn) := fun _ => below0

theorem appendChunkRetry (ring : Nat) (seq : Nat) : Statement (.appendChunkRetry ring seq) := fun h => below2 h

theorem appendChunkTimeout (ring : Nat) (seq : Nat) : Statement (.appendChunkTimeout ring seq) := fun h => below2 h

theorem executionStart (tile : Nat) : Statement (.executionStart tile) := fun h => below1 h

theorem executionEnd (tile : Nat) : Statement (.executionEnd tile) := fun h => below1 h

theorem instructionComplete (tile : Nat) (issue : Nat) : Statement (.instructionComplete tile issue) := fun h => below1 h

theorem execLimitExpire (tile : Nat) : Statement (.execLimitExpire tile) := fun h => below1 h

theorem fire (tile : Nat) : Statement (.fire tile) := fun h => below1 h

theorem firev (tile : Nat) : Statement (.firev tile) := fun h => below1 h

theorem fireSlot (tile : Nat) (bank : Nat) (devs : List ConvDev) : Statement (.fireSlot tile bank devs) := fun h => below2 (fst h)

theorem preload (tile : Nat) : Statement (.preload tile) := fun h => below1 h

theorem promote (tile : Nat) : Statement (.promote tile) := fun h => below1 h

theorem move (tile : Nat) : Statement (.move tile) := fun h => below1 h

theorem quant (tile : Nat) : Statement (.quant tile) := fun h => below1 h

theorem deq (tile : Nat) : Statement (.deq tile) := fun h => below1 h

theorem send (tile : Nat) : Statement (.send tile) := fun h => below1 h

theorem recv (tile : Nat) : Statement (.recv tile) := fun h => below1 h

theorem reduce (tile : Nat) : Statement (.reduce tile) := fun h => below1 h

theorem kvapp (tile : Nat) : Statement (.kvapp tile) := fun h => below1 h

theorem hobFlush (slot : Nat) (layer : Nat) (head : Nat) : Statement (.hobFlush slot layer head) := fun h => below1 h

theorem kvidx (tile : Nat) : Statement (.kvidx tile) := fun h => below1 h

theorem kvgath (tile : Nat) : Statement (.kvgath tile) := fun h => below1 h

theorem attn (tile : Nat) : Statement (.attn tile) := fun h => below1 h

theorem kvevict (tile : Nat) : Statement (.kvevict tile) := fun h => below1 h

theorem norm (tile : Nat) : Statement (.norm tile) := fun h => below1 h

theorem act (tile : Nat) : Statement (.act tile) := fun h => below1 h

theorem rope (tile : Nat) : Statement (.rope tile) := fun h => below1 h

theorem embg (tile : Nat) : Statement (.embg tile) := fun h => below1 h

theorem sample (tile : Nat) : Statement (.sample tile) := fun h => below1 h

theorem verify (tile : Nat) : Statement (.verify tile) := fun h => below1 h

theorem waitCtr (tile : Nat) : Statement (.waitCtr tile) := fun h => below1 h

theorem signal (tile : Nat) : Statement (.signal tile) := fun h => below1 h

theorem signalArrival (tile : Nat) : Statement (.signalArrival tile) := fun h => below1 h

theorem loopBody (tile : Nat) : Statement (.loopBody tile) := fun h => below1 h

theorem br (tile : Nat) : Statement (.br tile) := fun h => below1 h

theorem endExec (tile : Nat) : Statement (.endExec tile) := fun h => below1 h

theorem nopInstr (tile : Nat) : Statement (.nopInstr tile) := fun h => below1 h

theorem timeread (tile : Nat) : Statement (.timeread tile) := fun h => below1 h

theorem recompute (engine : Nat) (reads : List RowRead) : Statement (.recompute engine reads) := fun h => below1 (fst h)

theorem outlier (engine : Nat) : Statement (.outlier engine) := fun h => below1 h

theorem delta (engine : Nat) (parity : Bool) : Statement (.delta engine parity) := fun h => below1 h

theorem flueResultArrival (tile : Nat) : Statement (.flueResultArrival tile) := fun h => below1 h

theorem freeFlue (engine : Nat) (kind : FlueKind) : Statement (.freeFlue engine kind) := fun h => below1 h

theorem storageReport (tile : Nat) : Statement (.storageReport tile) := fun h => below1 h

theorem storageRepair (array : Nat) (reads : List RowRead) : Statement (.storageRepair array reads) := fun h => below1 (fst h)

theorem scrubRow (array : Nat) (reads : List RowRead) : Statement (.scrubRow array reads) := fun h => below1 (fst h)

theorem windowClose (array : Nat) : Statement (.windowClose array) := fun h => below1 h

theorem bgCalDwell (fits : List ConvMeas) : Statement (.bgCalDwell fits) := fun _ => below0

theorem recalDwell (array : Nat) (fits : List ConvMeas) : Statement (.recalDwell array fits) := fun h => below1 (fst h)

theorem calReferenceCheck (ppm : List Int) : Statement (.calReferenceCheck ppm) := fun _ => below0

theorem calAttemptEnd (fits : List ConvMeas) : Statement (.calAttemptEnd fits) := fun _ => below0

theorem calTrimLoad : Statement (.calTrimLoad) := fun _ => below0

theorem selfTestPhaseEnd (phase : Nat) (unit : Nat) (found : TestFinding) : Statement (.selfTestPhaseEnd phase unit found) := fun _ => below0

theorem sweepRound (kind unit slots : Nat) (devs : List (Nat × ConvDev)) (digest : Nat) : Statement (.sweepRound kind unit slots devs digest) :=
  fun h => below1 (fst h)

theorem sweepDigest (kind unit : Nat) (rerunsAgree : Bool) : Statement (.sweepDigest kind unit rerunsAgree) := fun h => below1 h

theorem sweepSubinterval : Statement (.sweepSubinterval) := fun _ => below0

theorem hbmPatrol (addr : Nat) (corrected : Bool) : Statement (.hbmPatrol addr corrected) := fun _ => below0

theorem hbmUncorrectable (site : HbmSite) : Statement (.hbmUncorrectable site) := fun _ => below0

theorem hbmStackFail (stack : Nat) : Statement (.hbmStackFail stack) := fun h => below1 h

theorem tileParityError (tile : Nat) (line : Nat) : Statement (.tileParityError tile line) := fun h => below2 h

theorem meshParityError (sent : MeshFlit) (link : MeshLink) (got : MeshFlit) : Statement (.meshParityError sent link got) := fun h => below1 h

theorem hostReadFail (read : HostRead) : Statement (.hostReadFail read) := fun _ => below0

theorem hostReadRetryResult (ok : Bool) : Statement (.hostReadRetryResult ok) := fun _ => below0

theorem errorRaise (e : ErrIn) : Statement (.errorRaise e) := fun h => below1 h

theorem handlerEnd : Statement (.handlerEnd) := fun _ => below0

theorem handlerTimeout : Statement (.handlerTimeout) := fun _ => below0

theorem rootAttemptStart : Statement (.rootAttemptStart) := fun _ => below0

theorem rootAttemptTimeout : Statement (.rootAttemptTimeout) := fun _ => below0

theorem rootSeriesRetry : Statement (.rootSeriesRetry) := fun _ => below0

theorem monitorWindow (pll : PllId) (count : Nat) : Statement (.monitorWindow pll count) := fun _ => below0

theorem missingEdgeTrip : Statement (.missingEdgeTrip) := fun _ => below0

theorem lockLostTrip (pll : PllId) : Statement (.lockLostTrip pll) := fun _ => below0

theorem lane0EnterL0 : Statement (.lane0EnterL0) := fun _ => below0

theorem lane0LeaveL0 : Statement (.lane0LeaveL0) := fun _ => below0

theorem dividerStep : Statement (.dividerStep) := fun _ => below0

theorem hbmRecovery (badRow : Option Nat) : Statement (.hbmRecovery badRow) := fun _ => below0

theorem v12Rise (tenMv : Nat) : Statement (.v12Rise tenMv) := fun _ => below0

theorem railPowerGood (rail : Nat) : Statement (.railPowerGood rail) := fun h => below1 h

theorem railEnableTimeout (rail : Nat) : Statement (.railEnableTimeout rail) := fun h => below1 h

theorem railReenable (rail : Nat) : Statement (.railReenable rail) := fun h => below1 h

theorem perstAssert : Statement (.perstAssert) := fun _ => below0

theorem perstDeassert : Statement (.perstDeassert) := fun _ => below0

theorem hotReset : Statement (.hotReset) := fun _ => below0

theorem bootComplete (ms : Nat) (failed : Option Nat) : Statement (.bootComplete ms failed) := fun _ => below0

theorem railFailRun (rail : Nat) (tenMv : Nat) : Statement (.railFailRun rail tenMv) := fun h => below1 h

theorem pwrInputLow (tenMv : Nat) : Statement (.pwrInputLow tenMv) := fun _ => below0

theorem inputRecovered : Statement (.inputRecovered) := fun _ => below0

theorem inputLoss (tenMv : Nat) : Statement (.inputLoss tenMv) := fun _ => below0

theorem senseChange (ok : Bool) : Statement (.senseChange ok) := fun _ => below0

theorem railFallen (rail : Nat) : Statement (.railFallen rail) := fun h => below1 h

theorem railFallTimeout (rail : Nat) : Statement (.railFallTimeout rail) := fun h => below1 h

theorem wake : Statement (.wake) := fun _ => below0

theorem hostLinkRetrain (rate : Nat) (width : Nat) (cause : Nat) : Statement (.hostLinkRetrain rate width cause) := fun _ => below0

theorem modulePresent (cage : Nat) : Statement (.modulePresent cage) := fun h => below1 h

theorem moduleRemoved (cage : Nat) : Statement (.moduleRemoved cage) := fun h => below1 h

theorem cageOvercurrent (cage : Nat) : Statement (.cageOvercurrent cage) := fun h => below1 h

theorem thmUpdate (t : ThmIn) : Statement (.thmUpdate t) := fun _ => below0

theorem coefficientAdjust (measured : List (Option Nat)) (modelled : List Nat) : Statement (.coefficientAdjust measured modelled) := fun _ => below0

theorem sensorInvalid (s : Sensor) : Statement (.sensorInvalid s) := fun _ => below0

theorem flueLoadWindow : Statement .flueLoadWindow := fun _ => below0

theorem tableUpdateApply (ctx : Nat) : Statement (.tableUpdateApply ctx) := fun h => below1 h

theorem logEvent (code : Nat) (domain : Nat) (data : Nat) : Statement (.logEvent code domain data) := fun h => below3 h

theorem logRecordTimeout : Statement (.logRecordTimeout) := fun _ => below0

theorem logFlashWrite : Statement (.logFlashWrite) := fun _ => below0

theorem logRecordsLost : Statement (.logRecordsLost) := fun _ => below0

theorem logFreezeTimeout : Statement (.logFreezeTimeout) := fun _ => below0

theorem portTrained (port : Nat) : Statement (.portTrained port) := fun h => below1 h

theorem trainFrame (port : Nat) (p : TrainIn) : Statement (.trainFrame port p) := fun h => below1 h

theorem portRetrain (port : Nat) : Statement (.portRetrain port) := fun h => below1 h

theorem joinTimeout (ring : Nat) (seq : Nat) : Statement (.joinTimeout ring seq) := fun h => below2 h

theorem announceSend (port : Nat) : Statement (.announceSend port) := fun h => below1 h

theorem announceFrame (port : Nat) (chimneyId : Nat) (role : Nat) (peerPort : Nat) (mac : Nat) : Statement (.announceFrame port chimneyId role peerPort mac) := fun h => below5 h

theorem linkFrame (l : LinkId) (flags : Nat) (lack : Nat) : Statement (.linkFrame l flags lack) := fun h => below1 h

theorem lackReport (l : LinkId) : Statement (.lackReport l) := fun h => below1 h

theorem frameReceive (l : LinkId) (bytes : List Byte) (room : Bool) : Statement (.frameReceive l bytes room) := fun h => below1 h

theorem frameForward (port : Nat) (bytes : List Byte) : Statement (.frameForward port bytes) := fun h => below1 h

theorem retransmitTimeout (l : LinkId) : Statement (.retransmitTimeout l) := fun h => below1 h

theorem fullResend (l : LinkId) : Statement (.fullResend l) := fun h => below1 h

theorem lnkRetryExhausted (l : LinkId) : Statement (.lnkRetryExhausted l) := fun h => below1 h

theorem startFrame : Statement (.startFrame) := fun _ => below0

theorem doneFrame : Statement (.doneFrame) := fun _ => below0

theorem commitFrame : Statement (.commitFrame) := fun _ => below0

theorem abortFrame : Statement (.abortFrame) := fun _ => below0

theorem abortAck : Statement (.abortAck) := fun _ => below0

theorem stepTimeout (step : Nat) : Statement (.stepTimeout step) := fun h => below1 h

theorem heartbeatSend : Statement (.heartbeatSend) := fun _ => below0

theorem heartbeatFrame : Statement (.heartbeatFrame) := fun _ => below0

theorem heartbeatSilence (role : Nat) : Statement (.heartbeatSilence role) := fun h => below1 h

theorem fenceFrame : Statement (.fenceFrame) := fun _ => below0

theorem dataFrame : Statement (.dataFrame) := fun _ => below0

theorem creditFrame : Statement (.creditFrame) := fun _ => below0

theorem gatherReq : Statement (.gatherReq) := fun _ => below0

theorem gatherRsp : Statement (.gatherRsp) := fun _ => below0

theorem tupdateFrame : Statement (.tupdateFrame) := fun _ => below0

theorem mirrorFrame : Statement (.mirrorFrame) := fun _ => below0

theorem mirrorAck : Statement (.mirrorAck) := fun _ => below0

theorem mirrorFree : Statement (.mirrorFree) := fun _ => below0

theorem xferFrame : Statement (.xferFrame) := fun _ => below0

theorem regulatorFaultDown (rail : Nat) : Statement (.regulatorFaultDown rail) := fun h => below1 h

theorem v3p3AuxChange (present : Bool) : Statement (.v3p3AuxChange present) := fun _ => below0

theorem lossOfSignal (port : Nat) : Statement (.lossOfSignal port) := fun h => below1 h

theorem smbusRefresh : Statement (.smbusRefresh) := fun _ => below0

theorem chimneyContextReady (stepNs : List Nat) (caps : List Nat) : Statement (.chimneyContextReady stepNs caps) := fun _ => below0

end Sys2Proof.Laws.WellFormed
end

