-- ==== Sys2Proof/Laws/Rows.lean ====
section
/-! SUPPORT. Rows: the tally digits that `mkRow` writes agree with the data cells (03_arrays R58), those of group 16 among them (R61). -/

namespace Sys2Proof.Machine

/-- Six bits added where a number has none. -/
theorem testBit_addAt (acc c p j : Nat) (hc : c < 2 ^ 6) (h : ∀ i, i < 6 → acc.testBit (p + i) = false) :
    (acc + c * 2 ^ p).testBit j = if p ≤ j ∧ j < p + 6 then c.testBit (j - p) else acc.testBit j := by
  obtain ⟨m, hm⟩ : ∃ m, acc / 2 ^ p = 2 ^ 6 * m := by
    refine ⟨acc / 2 ^ p / 2 ^ 6, ?_⟩
    have h0 : acc / 2 ^ p % 2 ^ 6 = 0 := by
      refine Nat.eq_of_testBit_eq fun i => ?_
      rw [Nat.testBit_mod_two_pow, Nat.testBit_div_two_pow, Nat.zero_testBit]
      by_cases hi : i < 6
      · rw [Nat.add_comm, h i hi, Bool.and_false]
      · simp [hi]
    have := Nat.div_add_mod (acc / 2 ^ p) (2 ^ 6)
    omega
  have ha : acc = 2 ^ p * (2 ^ 6 * m) + acc % 2 ^ p := by rw [← hm]; exact (Nat.div_add_mod acc (2 ^ p)).symm
  have hb : acc + c * 2 ^ p = 2 ^ p * (2 ^ 6 * m + c) + acc % 2 ^ p := by
    conv_lhs => rw [ha]
    rw [Nat.mul_add, Nat.mul_comm c]; omega
  have hlt : acc % 2 ^ p < 2 ^ p := Nat.mod_lt _ (Nat.two_pow_pos p)
  have e1 : acc.testBit j = (2 ^ p * (2 ^ 6 * m) + acc % 2 ^ p).testBit j := by rw [← ha]
  rw [hb, e1, Nat.testBit_two_pow_mul_add _ hlt, Nat.testBit_two_pow_mul_add _ hlt, Nat.testBit_two_pow_mul_add _ hc,
    Nat.testBit_two_pow_mul]
  by_cases h1 : j < p
  · rw [if_pos h1, if_pos h1, if_neg (by omega)]
  · rw [if_neg h1, if_neg h1]
    by_cases h2 : j - p < 6
    · rw [if_pos h2, if_pos (by omega)]
    · rw [if_neg h2, if_neg (by omega)]; simp [Nat.le_of_not_lt h2]

/-- Where the digits of set `k` of a row stand. -/
abbrev digitAt (k : Nat) : Nat := 608 * (k / 16) + 512 + 6 * (k % 16)

/-- Digits of six bits added at their places, bit by bit. -/
theorem testBit_digits (r : Nat) (c : Nat → Nat) (hc : ∀ k, c k < 2 ^ 6) (hr : ∀ k i, i < 6 → r.testBit (digitAt k + i) = false) (n j : Nat) :
    ((List.range n).foldl (fun acc k => acc + c k * 2 ^ digitAt k) r).testBit j =
      if ∃ k, k < n ∧ digitAt k ≤ j ∧ j < digitAt k + 6 then (c (16 * (j / 608) + (j % 608 - 512) / 6)).testBit ((j % 608 - 512) % 6)
      else r.testBit j := by
  induction n generalizing j with
  | zero => simp
  | succ n ih =>
    rw [List.range_succ, List.foldl_append, List.foldl_cons, List.foldl_nil, testBit_addAt _ _ _ _ (hc n)]
    · by_cases h : digitAt n ≤ j ∧ j < digitAt n + 6
      · rw [if_pos h, if_pos ⟨n, Nat.lt_succ_self n, h⟩]
        have h1 : j / 608 = n / 16 := by simp only [digitAt] at h; omega
        have h2 : j % 608 = 512 + 6 * (n % 16) + (j - digitAt n) := by simp only [digitAt] at h ⊢; omega
        have h3 : 16 * (j / 608) + (j % 608 - 512) / 6 = n := by rw [h1, h2]; omega
        have h4 : (j % 608 - 512) % 6 = j - digitAt n := by rw [h2]; omega
        rw [h3, h4]
      · rw [if_neg h, ih]
        refine if_congr ⟨fun ⟨k, a, b⟩ => ⟨k, by omega, b⟩, fun ⟨k, a, b⟩ => ⟨k, ?_, b⟩⟩ rfl rfl
        rcases Nat.lt_succ_iff_lt_or_eq.1 a with a | rfl
        · exact a
        · exact absurd b h
    · intro i hi
      rw [ih, if_neg, hr n i hi]
      rintro ⟨k, hk, a, b⟩
      simp only [digitAt] at a b
      rcases Nat.lt_trichotomy (k / 16) (n / 16) with h | h | h <;> omega

theorem popBits_le (v lo n : Nat) : popBits v lo n ≤ n := by
  have := List.length_filter_le (fun i => v.testBit (lo + i)) (List.range n)
  rwa [List.length_range] at this

/-- Tally digits written by `mkRow` agree with the data they stand for (R58). -/
theorem badSets_mkRow (data : Nat) : badSets (mkRow data) = 0 := by
  obtain ⟨r, hr⟩ : ∃ r, r = data % 2 ^ 512 + data / 2 ^ 512 % 2 ^ 512 * 2 ^ 608 := ⟨_, rfl⟩
  have hlow : data % 2 ^ 512 < 2 ^ 608 := Nat.lt_of_lt_of_le (Nat.mod_lt _ (Nat.two_pow_pos _)) (Nat.pow_le_pow_right (Nat.succ_pos 1) (by omega))
  have hz : ∀ k i, i < 6 → r.testBit (digitAt k + i) = false := by
    intro k i hi
    rw [hr, Nat.add_comm, Nat.mul_comm, Nat.testBit_two_pow_mul_add _ hlow, Nat.testBit_mod_two_pow, Nat.testBit_mod_two_pow]
    simp only [digitAt]
    split
    · rw [decide_eq_false (by omega), Bool.false_and]
    · rw [decide_eq_false (by rcases Nat.eq_zero_or_pos (k / 16) with h | h <;> omega), Bool.false_and]
  have hrow : ∀ j, (mkRow data).testBit j = if ∃ k, k < 32 ∧ digitAt k ≤ j ∧ j < digitAt k + 6 then
      (setCount r ((16 * (j / 608) + (j % 608 - 512) / 6) / 16) ((16 * (j / 608) + (j % 608 - 512) / 6) % 16)).testBit ((j % 608 - 512) % 6)
      else r.testBit j := by
    intro j
    have := testBit_digits r (fun k => setCount r (k / 16) (k % 16))
      (fun k => Nat.lt_of_le_of_lt (popBits_le _ _ _) (by decide)) hz 32 j
    rw [← this, mkRow, ← hr]
  unfold badSets
  rw [List.length_eq_zero_iff, List.filter_eq_nil_iff]
  intro k hk
  have hk := List.mem_range.1 hk
  have hcount : setCount (mkRow data) (k / 16) (k % 16) = setCount r (k / 16) (k % 16) := by
    unfold setCount popBits
    refine congrArg List.length (List.filter_congr fun i hi => ?_)
    have hi := List.mem_range.1 hi
    rw [hrow, if_neg]
    rintro ⟨m, hm, a, b⟩
    simp only [digitAt] at a b
    rcases Nat.lt_trichotomy (k / 16) (m / 16) with h | h | h <;> omega
  have hdig : setDigits (mkRow data) (k / 16) (k % 16) = setCount r (k / 16) (k % 16) := by
    unfold setDigits bits
    have hc : setCount r (k / 16) (k % 16) < 2 ^ 6 := Nat.lt_of_le_of_lt (popBits_le _ _ _) (by decide)
    refine Nat.eq_of_testBit_eq fun i => ?_
    rw [Nat.testBit_mod_two_pow, Nat.testBit_div_two_pow]
    by_cases hi : i < 6
    · rw [decide_eq_true (by omega), Bool.true_and, hrow, if_pos ⟨k, hk, by simp only [digitAt]; omega, by simp only [digitAt]; omega⟩]
      have h1 : (i + (608 * (k / 16) + 512 + 6 * (k % 16))) / 608 = k / 16 := by omega
      have h2 : (i + (608 * (k / 16) + 512 + 6 * (k % 16))) % 608 = 512 + 6 * (k % 16) + i := by omega
      rw [h1, h2]
      have h3 : 16 * (k / 16) + (512 + 6 * (k % 16) + i - 512) / 6 = k := by omega
      have h4 : (512 + 6 * (k % 16) + i - 512) % 6 = i := by omega
      rw [h3, h4]
    · rw [decide_eq_false (by omega), Bool.false_and, Nat.testBit_lt_two_pow]
      exact Nat.lt_of_lt_of_le hc (Nat.pow_le_pow_right (by decide) (by omega))
  simp [hcount, hdig]

/-- While no calibration holds it, group 16 holds rows whose digits agree. -/
theorem group16_good (s : State) (array : Nat) (h : calHolds s array = false) : ∀ e ∈ group16 s array, badSets e.2 = 0 := by
  intro e he
  unfold group16 at he
  rw [List.mem_map] at he
  obtain ⟨r, -, rfl⟩ := he
  have hr : rowOf s array (1024 + r) = sweepRow s array (1024 + r) := by
    unfold rowOf
    rw [if_pos (Nat.le_add_right _ _), h, if_neg Bool.false_ne_true]
  rw [hr]
  unfold sweepRow
  exact badSets_mkRow _

end Sys2Proof.Machine
end

