-- ==== Sys2Proof/Tests/Slice0.lean ====
section
/-! SUPPORT. Tests: ill-formed commands, worked examples of the manual, and for every statement of the certificate a concrete state and
operands that meet its hypotheses. -/

namespace Sys2Proof.Tests

open Sys2Proof.Machine

/- The tests are elaborated one after the other: each waits for the kernel, and a hundred waiting at once take too much memory. -/
set_option Elab.async false

/-! ## Small states -/

/-- A packet with this opcode, SEQ and parameters. -/
def pkt (opc seq : Nat) (ps : List Byte) : Packet :=
  { opc := opc, flags := 0, seq := seq, tag := 7, ctx := 0xFFFF, len := ps.length, req := 0xFFFFFFFF, ver := 0x13, prio := 2, resv := 0, params := ps }

/-- The outstanding command 1 of ring 0. -/
def cmd (opc : Nat) (ps : List Byte) : Cmd :=
  { ring := 0, pkt := pkt opc 1 ps, fn := 0, order := 0, consumedAt := 0, phase := .ready, progress := 0, position := 0,
    lastInProg := 0, lastProg := 0, total := 0, dispatched := 0, ended := 0, admitted := 0, bound := [], cands := [], token := 0,
    zeroBlock := false, cancelled := false, replay := false, draftDepth := 0, aborts := 0 }

/-- The admin ring of the physical function. -/
def ring0 : Ring := newRing 0 0x1000 16 0x8000 16 0x100 0 true

/-- The state after reset in another device state, session 1.3, with these commands outstanding. -/
def st (d : DevSt) (cs : List Cmd) : State :=
  { State.reset with
    dev := { State.reset.dev with st := d, configReady := true }, cmds := cs,
    fns := [(0, some { Fn.reset 0 1048576 true with session := 0x13, enable := true })], rings := [(0, some ring0)] }

/-- That state with one command ready to execute. -/
def rdy (d : DevSt) (opc : Nat) (ps : List Byte) : State := st d [cmd opc ps]

/-- A command alone on the device is next in its control core's order. -/
theorem inTurn_alone (s : State) (c : Cmd) (h : s.cmds = [c]) : inTurn s c = true := by simp [inTurn, h]

theorem rdy_ready (d : DevSt) (opc : Nat) (ps : List Byte) (h : d ≠ .cold) (h' : d ≠ .hold) :
    Ready (rdy d opc ps) opc 0 1 (cmd opc ps) := by
  refine ⟨rfl, ?_, rfl, rfl, inTurn_alone _ _ rfl⟩
  cases d <;> first | rfl | contradiction

/-! ## Ill-formed commands -/

theorem test_illFormed_numbers : Instr.wellFormed (.packetConsume (2 ^ 20)) = false ∧ Instr.wellFormed (.fenceStart 0 (2 ^ 32)) = false ∧
    Instr.wellFormed (.adminEnable 64 0) = false ∧ Instr.wellFormed (.flr 0) = false ∧ Instr.wellFormed (.flr 64) = false ∧
    Instr.wellFormed (.sscCfgWrite (2 ^ 32)) = false ∧ Instr.wellFormed (.clearCodeWrite (2 ^ 64)) = false ∧
    Instr.wellFormed (.doorbellHead 0 0 4096 0) = false ∧ Instr.wellFormed (.doorbellHead 0 0 0 (2 ^ 31)) = false ∧
    Instr.wellFormed (.lowHalfRead 0 2) = false ∧ Instr.wellFormed (.registerWrite (.smbus 256) 0) = false ∧
    Instr.wellFormed (.registerWrite (.bar0 0 2) 0) = false ∧ Instr.wellFormed (.registerWrite (.bar2 64 0) 0) = false ∧
    Instr.wellFormed (.inProgressPost 0 1 1001 0) = false ∧ Instr.wellFormed (.hobFlush (2 ^ 20) 0 0) = false := by decide

theorem test_illFormed_units : Instr.wellFormed (.fire 5120) = false ∧ Instr.wellFormed (.windowClose 20480) = false ∧
    Instr.wellFormed (.outlier 128) = false ∧ Instr.wellFormed (.fireSlot 0 4 []) = false ∧
    Instr.wellFormed (.fireSlot 0 0 [{ arr := 4, conv := 0, code := 0, lateSettle := false, lateTrial := false }]) = false ∧
    Instr.wellFormed (.scrubRow 0 [{ nth := 0, row := 1088, bits := 0 }]) = false ∧ Instr.wellFormed (.railFallen 13) = false ∧
    Instr.wellFormed (.modulePresent 4) = false ∧ Instr.wellFormed (.portTrained 8) = false ∧ Instr.wellFormed (.tableUpdateApply 64) = false ∧
    Instr.wellFormed (.hbmStackFail 8) = false ∧ Instr.wellFormed (.tileParityError 0 4096) = false ∧
    Instr.wellFormed (.selfTestPhaseEnd 0 0 .clean) = false ∧ Instr.wellFormed (.selfTestPhaseEnd 7 0 .clean) = false ∧
    Instr.wellFormed (.sweepRound 3 0 16 [] 0) = false ∧ Instr.wellFormed (.hostLinkRetrain 2 4 0) = false ∧
    Instr.wellFormed (.hostLinkRetrain 3 2 0) = false ∧ Instr.wellFormed (.logEvent (2 ^ 16) 0 0) = false ∧
    Instr.wellFormed (.errorRaise { domain := 9, code := 0, unit := 0, detail := 0, act := .fatal }) = false ∧
    Instr.wellFormed (.announceFrame 0 0 0 0 (2 ^ 48)) = false ∧ Instr.wellFormed (.heartbeatSilence (2 ^ 16)) = false := by decide

/-- A thermal update of this many nodes. -/
def thmOf (n interval : Nat) (ta tc : Option Int) (flow : Option Nat) : ThmIn :=
  { temps := List.replicate n 0, interval := interval, pFix := 0, pPace := 0, ta := ta, tc := tc, flow := flow }

theorem test_illFormed_readings : okThm (thmOf 265 125 none none (some 0)) = true ∧ okThm (thmOf 264 1000 none none none) = false ∧
    okThm (thmOf 265 500 none none none) = false ∧ okThm (thmOf 265 125 (some 10881) none none) = false ∧
    okThm (thmOf 265 125 none (some (-1)) none) = false ∧ okThm (thmOf 265 125 none none (some 9)) = false ∧
    Instr.wellFormed (.hbmPatrol (384 * 2 ^ 30) false) = false ∧ Instr.wellFormed (.hbmUncorrectable (.pool 0 0)) = false ∧
    Instr.wellFormed (.bgCalDwell [{ array := 0, conv := 610, m1 := [], m2 := [] }]) = false ∧
    Instr.wellFormed (.ctxLoad 0 1 [{ tile := 0, line := 0, bytes := [] }]) = false ∧
    Instr.wellFormed (.sweepRound 0 0 16 [(0, { arr := 0, conv := 608, code := 0, lateSettle := false, lateTrial := false })] 0) = false ∧
    Instr.wellFormed (.meshParityError { data := 0, header := 0, parity := 0 } { tile := 5120, dir := .east } { data := 0, header := 0, parity := 0 }) = false := by decide +kernel

theorem test_wellFormed : Instr.wellFormed (.packetConsume (2 ^ 20 - 1)) = true ∧ Instr.wellFormed (.fire 5119) = true ∧
    Instr.wellFormed (.hostLinkRetrain 6 16 0) = true ∧ Instr.wellFormed (.selfTestPhaseEnd 6 0 .clean) = true := by decide

theorem test_noWords : decodeTableWord 32 0 = none ∧ (State.reset.withFetchWord 32 0).pending = [] := by decide

/-! ## The machine -/

/-- StepRunsFront, IdleStepIsOneCycle. -/
theorem test_queue_meets : ({ State.reset with pending := [.wake] } : State).pending = .wake :: [] ∧ State.reset.pending = [] ∧
    clocked State.reset = true ∧ State.reset.dev.opFrac + 1 ≠ 100000000 ∧ clocked (st .cold []) = false ∧
    clocked { State.reset with dev := { State.reset.dev with opFrac := 99999999 } } = true := by decide

theorem test_reset_canonical : State.reset.Canon := by
  constructor <;> first | rfl | (intro e h; simp [State.reset] at h)

/-- StepKeepsCanonicalForm, CommandsAnswerAndLeaveTheQueue: reset is canonical and steps. -/
theorem test_step_meets : State.reset.Canon ∧ step State.reset = .next (tick State.reset) := ⟨test_reset_canonical, rfl⟩

/-! ## Rings -/

/-- An ordinary ring with NEXT 1000, one packet at its head. -/
def ring1 : Ring := { newRing 0 0x1000 16 0x8000 16 0x100 0 false with next := 1000, tail := 1 }

/-- That ring with a TRACE_START packet of this SEQ. -/
def seqSt (seq : Nat) : State :=
  { st .maintenance [] with hostMem := Mem.write [] 0x1000 (pkt 0xC0 seq (natLe 8 0)).bytes, rings := [(0, some ring0), (1, some ring1)] }

/-- SequenceNumbersClassPackets: the bounds of the four classes. -/
theorem test_seqClasses_meet :
    ∀ e ∈ [(1000, 0), (744, 2 ^ 32 - 256), (999, 2 ^ 32 - 1), (743, 2 ^ 32 - 257), (1000 + 2 ^ 31, 2 ^ 31), (999 + 2 ^ 31, 2 ^ 31 - 1), (1001, 1)],
      (look (seqSt e.1).rings 1 = some ring1 ∧ consuming (seqSt e.1) = true ∧ mayConsume (seqSt e.1) 1 ring1 = true ∧
        (seqSt e.1).paused = false) ∧ ((headPacket (seqSt e.1) ring1).seq + 2 ^ 32 - ring1.next) % 2 ^ 32 = e.2 := by decide

/-- PACKET_CONSUME: a new TRACE_START executes nothing yet; NEXT is 1001 and the head 1 is in host memory. -/
theorem test_packetConsume_new : ∃ t, exec (.packetConsume 1) (seqSt 1000) = .next t ∧
    (look t.rings 1).map (fun q => (q.next, q.head, q.cidx)) = some (1001, 1, 0) ∧ t.cmds.map (·.phase) = [.ready] ∧
    field (t.hostRead 0x100 4) 0 4 = 1 := ⟨_, rfl, by decide⟩

/-- A packet past a gap: BAD_PARAM at its SEQ, offset 4 (R274, R283). -/
theorem test_packetConsume_gap : ∃ t, exec (.packetConsume 1) (seqSt 1001) = .next t ∧
    (look t.rings 1).map (fun q => (q.next, q.cidx)) = some (1000, 1) ∧ field (t.hostRead 0x8000 32) 4 2 = 0x0201 ∧ t.cmds = [] :=
  ⟨_, rfl, by decide⟩

/-- The worked example of R267: the final record of a REQ_STEP on ring 10,801. -/
theorem test_record_example : recBytes 10801 true true
    { seq := 9000, status := 0, progress := 0xFFFF, tag := 0x1F40, result0 := 0x3A2F, result1 := 0 } =
    [0x28, 0x23, 0, 0, 0, 0, 0xFF, 0xFF, 0x40, 0x1F, 0, 0, 0, 0, 0, 0, 0x2F, 0x3A, 0, 0, 0, 0, 0, 0, 0, 0, 0, 0, 0x31, 0x2A, 0x30, 0] := by
  decide

/-- A record of SEQ 999 in the window of ring 1. -/
def rec999 : Rec := { seq := 999, status := 0x0201, progress := 0xFFFF, tag := 3, result0 := 5, result1 := 0 }

/-- Ring 1 with that record, and an outstanding command 999 with a duplicate of it. -/
def dupSt : State :=
  { st .maintenance [{ cmd 0x71 [] with ring := 1, pkt := pkt 0x71 999 [] },
      { cmd 0x71 [] with ring := 1, order := 1, pkt := pkt 0x71 999 [], phase := .dupOf 1 999 }] with
    rings := [(0, some ring0), (1, some { ring1 with window := [rec999] })] }

/-- DuplicatesAreCopied: the original is stored, outstanding, or has one copy waiting. -/
theorem test_duplicates_meet :
    (findCmd { dupSt with cmds := [] } 1 999 = none ∧ (({ ring1 with window := [rec999] } : Ring).window.find? fun x => x.seq == 999) = some rec999) ∧
    (findCmd dupSt 1 999 = some { cmd 0x71 [] with ring := 1, pkt := pkt 0x71 999 [] }) ∧
    (dupSt.cmds.filter fun c => decide (c.phase = .dupOf 1 999)).length = 1 ∧
    (look dupSt.rings 1).map (·.destroying) = some false ∧
    ∀ c ∈ ({ dupSt with cmds := dupSt.cmds.drop 1 } : State).cmds, c.ring = 1 → c.pkt.seq = 999 → c.phase = .dupOf 1 999 := by decide

/-- A ring with 15 of 16 entries unreturned. -/
def nearFull : Ring := { ring1 with unret := 15, cidx := 15, chead := 3 }

/-- CompletionEntriesAndSpace: the last free entry, no free entry, the wrap, and heads that move. -/
theorem test_entries_meet :
    (nearFull.cidx + 1 = nearFull.entries ∧ ring1.cidx + 1 ≠ ring1.entries) ∧
    (nearFull.unret + outOn (st .service []) 1 < nearFull.entries ∧ 16 + outOn (st .service []) 1 ≥ nearFull.entries) ∧
    (HostReach (st .service []) 0 ∧ (st .service []).dev.romOnly = false) ∧
    (4 < nearFull.entries ∧ 4 ≠ nearFull.chead ∧ (4 + nearFull.entries - nearFull.chead) % nearFull.entries ≤ nearFull.unret ∧
      (2 + nearFull.entries - nearFull.chead) % nearFull.entries = 15 ∧ nearFull.chead < nearFull.entries) ∧
    (∀ d ∈ (st .service []).cmds, d.phase ≠ .dupOf 1 1) := by
  refine ⟨by decide, by decide, ⟨⟨rfl, rfl⟩, rfl⟩, by decide, by decide⟩

/-- DoorbellsMoveOrAreIgnored: a ring of the function; a slot, one beyond, a head forward, one beyond the written entries. -/
theorem test_doorbells_meet :
    (HostReach (seqSt 1000) 0 ∧ look (seqSt 1000).rings 1 = some ring1 ∧ ring1.fn = 0) ∧
    (15 < ring1.slots ∧ 16 ≥ ring1.slots) ∧ (nearFull.chead < 15 ∧ 15 < nearFull.entries ∧ 15 - nearFull.chead ≤ nearFull.unret) ∧
    (1 ≠ ring1.chead ∧ (1 + ring1.entries - ring1.chead) % ring1.entries > ring1.unret) := by
  refine ⟨⟨⟨rfl, rfl⟩, rfl, rfl⟩, by decide, by decide, by decide⟩

/-- DOORBELL_TAIL with a reserved bit only counts. -/
theorem test_doorbell_ignored : ∃ t, exec (.doorbellTail 0 1 3 1 []) (seqSt 1000) = .next t ∧ (t.fn 0).dbIgnored = 1 ∧
    (look t.rings 1).map (·.tail) = some 1 := ⟨_, rfl, by decide⟩

/-- A TRACE_START fenced behind an outstanding one, and alone. -/
def fenced : Cmd := { cmd 0x71 [] with ring := 1, order := 1, pkt := { pkt 0xC0 2 (natLe 8 0) with flags := 4 }, phase := .fenced }

/-- PacketsStart: a packet with nothing before it; a fence with all earlier commands ended, and with one outstanding. -/
theorem test_packetsStart_meet :
    ((∀ d ∈ (seqSt 1000).cmds, d.ring ≠ 1) ∧ (headPacket (seqSt 1000) ring1).seq = ring1.next ∧ ring1.next < 2 ^ 32 ∧
      gateEarly (addCmd (headed (seqSt 1000) 1 ring1) (newCmd (seqSt 1000) 1 0 (headPacket (seqSt 1000) ring1) .fenced))
        (newCmd (seqSt 1000) 1 0 (headPacket (seqSt 1000) ring1) .fenced) = none ∧
      gateLate (addCmd (headed (seqSt 1000) 1 ring1) (newCmd (seqSt 1000) 1 0 (headPacket (seqSt 1000) ring1) .fenced))
        (newCmd (seqSt 1000) 1 0 (headPacket (seqSt 1000) ring1) .fenced) = .ready) ∧
    (findCmd { seqSt 1000 with cmds := [fenced] } 1 2 = some fenced ∧ consuming (seqSt 1000) = true ∧
      (∀ d ∈ [fenced], d.ring = 1 → fenced.order ≤ d.order) ∧ gateLate { seqSt 1000 with cmds := [fenced] } fenced = .ready) ∧
    (findCmd { seqSt 1000 with cmds := [{ cmd 0x71 [] with ring := 1 }, fenced] } 1 2 = some fenced ∧
      ({ cmd 0x71 [] with ring := 1 } : Cmd).order < fenced.order) := by decide

/-- A FW_STAGE that runs, 100 ms after its last record, and a CAL_RUN. -/
def longSt (opc : Nat) : State :=
  { st .maintenance [{ cmd opc [] with phase := .running, progress := 50 }] with
    dev := { (st .maintenance []).dev with now := 10000000 } }

/-- RingEventsComplete: progress of 50 from 0; a message, free or masked; a ring to resume from; a wait that has drained. -/
theorem test_ringEvents_meet :
    (findCmd (longSt 0xF0) 0 1 = some { cmd 0xF0 [] with phase := .running, progress := 50 } ∧ clocked (longSt 0xF0) = true ∧
      isLong (pkt 0xF0 1 []) = true ∧ 50 ≤ 50 ∧ 0 + 50 ≤ 50 ∧ 0 + 10000000 ≤ (longSt 0xF0).dev.now) ∧
    (isLong (pkt 0x80 1 []) = true ∧ (cmd 0x80 []).lastProg + 50 ≤ 50) ∧
    (({ ring1 with irqPending := true } : Ring).irqPending = true ∧ bit (msixWord ((st .service []).fn 0) 3) 0 = true ∧
      bit (msixWord { Fn.reset 0 1 true with msix := [(3, some 0)] } 3) 0 = false) ∧
    (resumable { seqSt 1000 with paused := true } = [1] ∧ outOrdinary (seqSt 1000) < 65536 ∧
      ([1].find? fun k => decide (k > (seqSt 1000).lastServed)) = some 1 ∧ resumable (st .service []) = []) ∧
    (∀ opc ∈ [0x02, 0x11, 0xE1, 0xB1, 0xB2], findCmd (st .service [{ cmd opc [] with phase := .draining }]) 0 1 =
        some { cmd opc [] with phase := .draining }) ∧
    (othersOfFn (st .service [{ cmd 2 [] with phase := .draining }]) { cmd 2 [] with phase := .draining } = 0 ∧
      look (st .service []).rings 9 = none ∧ findCmd (st .service []) 9 9 = none ∧
      serviceLeft (st .service [{ cmd 0xB1 [] with phase := .draining }]) { cmd 0xB1 [] with phase := .draining } = false) := by decide

/-- RingEventsComplete: an interrupt owed 1 µs after the last one and a tick before; a long append that waits for a chunk. -/
theorem test_ringPacing_meets :
    (let q : Ring := { ring1 with irqPending := true, lastIrq := some 0 }
     q.destroying = false ∧ ({ q with destroying := true } : Ring).destroying = true ∧ q.irqPending = true ∧ q.lastIrq = some 0 ∧ 0 + 100 ≤ ({ (st .service []).dev with now := 100 }).now ∧ ({ (st .service []).dev with now := 99 }).now < 0 + 100) ∧
    (({ cmd 0x41 [] with phase := .chunkWait 7 } : Cmd).phase = .chunkWait 7 ∧ isLong (pkt 0x41 1 (natLe 4 4097)) = true) := by decide

/-- SessionAndRingCommands: version ranges that meet and that do not; rings to create, destroy and bind. -/
theorem test_session_meets :
    (∀ e ∈ [(0x01, natLe 1 0x10 ++ natLe 1 0x13), (0x01, natLe 1 0x14 ++ natLe 1 0x15), (0x02, []), (0x10, natLe 4 5), (0x10, natLe 4 0),
        (0x11, natLe 4 0), (0x11, natLe 4 5), (0x12, natLe 4 1 ++ natLe 4 64 ++ natLe 4 8), (0x12, natLe 4 1 ++ natLe 4 0 ++ natLe 4 8),
        (0x12, natLe 4 1 ++ natLe 4 64 ++ natLe 4 0)],
      Ready (rdy .service e.1 e.2) e.1 0 1 (cmd e.1 e.2) ∧ othersOfFn (rdy .service e.1 e.2) (cmd e.1 e.2) = 0) ∧
    (max ((cmd 0 (natLe 1 0x10 ++ natLe 1 0x13)).p 0 1) 0x10 ≤ min ((cmd 0 (natLe 1 0x10 ++ natLe 1 0x13)).p 1 1) 0x13 ∧
      min ((cmd 0 (natLe 1 0x14 ++ natLe 1 0x15)).p 1 1) 0x13 < max ((cmd 0 (natLe 1 0x14 ++ natLe 1 0x15)).p 0 1) 0x10) ∧
    (othersOfFn (st .service [cmd 1 [], { cmd 0x71 [] with ring := 1, order := 1 }]) (cmd 1 []) ≠ 0) ∧
    (ownsRing (st .service []) 0 5 = true ∧ look (st .service []).rings 5 = none ∧ (look (st .service []).rings 0).isSome = true) ∧
    (ring0.isAdmin = true ∧ ring1.isAdmin = false ∧ outOn (st .service []) 5 = 0 ∧ ((st .service []).fn 0).first ≠ 5) ∧
    (((st .service []).fn 1).count = 0 ∧ rangeTaken (st .service []) 64 8 = false ∧ rangeTaken (st .service []) 0 8 = true ∧
      ((st .service []).fn 1).enable = false ∧ ∀ e ∈ (st .service []).rings, ∀ q, e.2 = some q → q.fn ≠ 1) := by
  refine ⟨?_, by decide, by decide, by decide, by decide, by decide, by decide, by decide, by decide, ?_⟩
  · intro e h
    refine ⟨rdy_ready _ _ _ (by decide) (by decide), ?_⟩
    revert e; decide
  · intro e h q hq
    rcases List.mem_singleton.1 h with rfl
    cases hq; decide

/-- SessionAndRingCommands: a RING_DESTROY of a ring that owes an interrupt, and of one that does not. -/
theorem test_ringDestroy_meets : ∀ b ∈ [true, false],
    let q : Ring := { ring1 with irqPending := b }
    let s : State := { rdy .service 0x11 (natLe 4 5) with rings := [(0, some ring0), (5, some q)] }
    findCmd s 0 1 = some (cmd 0x11 (natLe 4 5)) ∧ clocked s = true ∧ inTurn s (cmd 0x11 (natLe 4 5)) = true ∧
      look s.rings ((cmd 0x11 (natLe 4 5)).p 0 4) = some q ∧ q.fn = (cmd 0x11 (natLe 4 5)).fn ∧ q.isAdmin = false ∧ q.irqPending = b ∧
      q.destroying = false ∧ outOn s 5 = 0 ∧ s.reqs = [] ∧ (s.fn 0).first ≠ 5 ∧ (look s.rings (s.fn 0).first).isSome = true ∧
      ring0.destroying = false := by decide

/-! ## Host interface -/

/-- A state in which the host reaches the physical function, with these fields of it. -/
def hostSt (f : Fn) : State := { st .service [] with fns := [(0, some f)], rings := [] }

/-- ADMIN_CFG with ENABLE, sizes of 4 and 4, and of 3 and 4. -/
def cfgOk : Nat := 2 ^ 31 + 4 * 2 ^ 24 + 4 * 2 ^ 20
def cfgBad : Nat := 2 ^ 31 + 3 * 2 ^ 24 + 4 * 2 ^ 20

/-- RegistersWriteAndLatch: sizes at the bounds and beyond, a disabled and an enabled page, register offsets, matching and other tags. -/
theorem test_registers_meet :
    (HostReach (hostSt (Fn.reset 0 1048576 true)) 0 ∧ bit cfgOk 31 = true ∧ bit cfgBad 31 = true ∧ bit 5 31 = false) ∧
    (∀ l ∈ [(4, 4), (4, 12), (12, 12)], let f := cfgFields (Fn.reset 0 1 true) (2 ^ 31 + l.1 * 2 ^ 24 + l.2 * 2 ^ 20)
      4 ≤ f.sqLog2 ∧ f.sqLog2 ≤ 12 ∧ 4 ≤ f.cqLog2 ∧ f.cqLog2 ≤ 12 ∧ f.sqLog2 ≤ f.cqLog2 ∧ f.count ≠ 0 ∧ f.enable = false) ∧
    (¬4 ≤ (cfgFields (Fn.reset 0 1 true) cfgBad).sqLog2) ∧
    (look (hostSt (Fn.reset 0 1048576 true)).rings 0 = none ∧ ((hostSt (Fn.reset 0 1048576 true)).fn 0).enable = false ∧
      ((st .service []).fn 0).enable = true) ∧
    (words32 0 0x20 = false ∧ 0x20 % 8 = 0 ∧ 0x24 % 8 = 4) ∧
    (({ Fn.reset 0 1 true with shadow := some (0x20, 9) } : Fn).shadow = some (0x24 - 4, 9)) ∧
    (0x1FFF < 0x2000 ∧ (1 % 4 = 1 ∨ 1 % 4 = 2) ∧ (State.reset.pwr.aux = true)) := by
  refine ⟨⟨⟨rfl, rfl⟩, by decide, by decide, by decide⟩, by decide, by decide, by decide, by decide, by decide, by decide⟩

/-- The enabled admin ring has 16 slots and entries and NEXT 1 (R254). -/
theorem test_adminEnable : ∃ t, exec (.adminEnable 0 cfgOk) (hostSt (Fn.reset 0 1048576 true)) = .next t ∧
    (look t.rings 0).map (fun q => (q.slots, q.entries, q.next, q.isAdmin)) = some (16, 16, 1, true) ∧ (t.fn 0).enable = true ∧
    (t.fn 0).cfgErr = false := ⟨_, rfl, by decide⟩

/-- A submission ring of 8 slots is refused with CFG_ERR. -/
theorem test_adminEnable_bad : ∃ t, exec (.adminEnable 0 cfgBad) (hostSt (Fn.reset 0 1048576 true)) = .next t ∧ look t.rings 0 = none ∧
    (t.fn 0).enable = false ∧ (t.fn 0).cfgErr = true := ⟨_, rfl, by decide⟩

/-- A function is named by its PCI identities (R463); DEV_TIME is read low half first across a carry (R470). -/
theorem test_reads : (∃ t, exec (.configRequest 0 .readId) (st .service []) = .next t ∧ t.replies = [0x51201FD2]) ∧
    (∃ t, exec (.highHalfRead 0 0x24) (hostSt { Fn.reset 0 1 true with shadow := some (0x20, 9) }) = .next t ∧ t.replies = [9]) :=
  ⟨⟨_, rfl, by decide⟩, ⟨_, rfl, by decide⟩⟩

/-- HostInterfaceCompletes: ready and unready configuration space, an enabled and a disabled VF, VIO good and not, and a link. -/
theorem test_hostInterface_meets :
    (HostReach (st .service []) 0 ∧ clocked (st .service []) = true ∧ cfgReady (st .service []) = true ∧ (st .service []).dev.romOnly = false) ∧
    (HostReach { st .service [] with fns := [(0, some (Fn.reset 0 1 true)), (63, some { Fn.reset 0 0 true with enable := true })] } 63) ∧
    (HostReach { st .service [] with fns := [(0, some (Fn.reset 0 1 true)), (1, some (Fn.reset 0 0 true))] } 1) ∧
    (clocked State.reset = true ∧ State.reset.dev.st ≠ .hold ∧ cfgReady State.reset = false) ∧
    (State.reset.pwr.aux = true ∧ vioGood State.reset = true ∧
      vioGood { State.reset with pwr := { State.reset.pwr with rails := List.replicate 13 { Rail.up with good := false } } } = false) ∧
    (State.reset.log.clearCode = none ∧ (some 5 : Option Nat) ≠ none) ∧
    (State.reset.host.trained = false ∧ ({ State.reset.host with trained := true } : HostIf).trained = true ∧ (3 : Nat) ≤ 3 ∧ (6 : Nat) ≤ 6 ∧
      (3 ≠ State.reset.host.rate)) := by
  refine ⟨⟨⟨rfl, rfl⟩, rfl, rfl, rfl⟩, ⟨rfl, rfl⟩, ⟨rfl, rfl⟩, by decide, by decide, by decide, by decide⟩

/-! ## The mantel log -/

/-- A record of an HBM correction. -/
def hbmRec : LogRec :=
  { opSec := 1000000, pwrCycle := 57, domain := 5, code := 0x5001, count := 37, seq := 20000, data := 0x32004A8000000900, lastSec := 1000012,
    deferred := false, valid := true }

/-- The worked example of the log's records. -/
theorem test_logRecord_example : hbmRec.bytes =
    [0x40, 0x42, 0x0F, 0, 0x39, 0, 0, 5, 1, 0x50, 0x25, 0, 0x20, 0x4E, 0, 0, 0, 9, 0, 0, 0x80, 0x4A, 0, 0x32,
     0x4C, 0x42, 0x0F, 0, 0, 0, 0, 0x5A] ∧ hbmRec.seq % 8192 = 3616 := by decide

/-- A state with this log. -/
def logSt (l : Mantel) : State := { st .service [] with log := l }

/-- That log with an open record of this count. -/
def openLog (n : Nat) : Mantel := { State.reset.log with openRec := some { hbmRec with count := n }, openedAt := 1000000 }

/-- Another occurrence repeats the open record (R452). -/
theorem test_logEvent_repeats : ∃ t, exec (.logEvent 0x5001 5 0x32004A8000000900) (logSt (openLog 37)) = .next t ∧
    t.log.openRec.map (·.count) = some 38 ∧ t.log.ram = [] := ⟨_, rfl, by decide⟩

/-- The repeat 65,535 closes it. -/
theorem test_logEvent_closes : ∃ t, exec (.logEvent 0x5001 5 0x32004A8000000900) (logSt (openLog 65534)) = .next t ∧
    t.log.openRec = none ∧ t.log.ram.map (·.count) = [65535] := ⟨_, rfl, by decide⟩

/-- OpenRecordRepeats: a count below the last and at it, another event with room, no open record, 60 s, and a LOG_FREEZE. -/
theorem test_openRecord_meets :
    ((openLog 37).openRec = some { hbmRec with count := 37 } ∧ 37 + 1 < 65535 ∧ 65534 + 1 ≥ 65535 ∧ (openLog 37).ram.length < 255) ∧
    (State.reset.log.openRec = none ∧ State.reset.log.ram.length < 256 ∧ clocked (logSt (openLog 37)) = true) ∧
    ((openLog 37).openedAt + 60 ≤ 1000060) ∧ Ready (rdy .service 0xA0 []) 0xA0 0 1 (cmd 0xA0 []) ∧ (rdy .service 0xA0 []).log.frozen = false := by
  refine ⟨by decide, by decide, by decide, rdy_ready _ _ _ (by decide) (by decide), by decide⟩

/-- A frozen log. -/
def frozenLog : Mantel := { State.reset.log with frozen := true, frozenAt := 100, lostFrozen := 2, clearCode := some 5 }

/-- LogFreezes, LogClears, LogReadsAndLosses: ready commands on frozen and thawed logs; every case of the clear code; lost records. -/
theorem test_log_meets :
    (∀ e ∈ [(0xA0, []), (0xA1, natLe 4 8191 ++ natLe 4 2 ++ natLe 8 64), (0xA1, natLe 4 8192 ++ natLe 4 2 ++ natLe 8 64), (0xA2, []),
        (0xA3, natLe 8 5)],
      Ready (rdy .service e.1 e.2) e.1 0 1 (cmd e.1 e.2) ∧
      Ready { rdy .service e.1 e.2 with log := frozenLog } e.1 0 1 (cmd e.1 e.2)) ∧
    (frozenLog.frozen = true ∧ frozenLog.frozenAt + 600 ≤ 700 ∧ (rdy .service 0xA2 []).log.frozen = false) ∧
    ({ frozenLog with frozen := false }.clearCode = some ((cmd 0xA3 (natLe 8 5)).p 0 8) ∧ frozenLog.wrong < 8 ∧
      (cmd 0xA3 (natLe 8 6)).p 0 8 ≠ 5 ∧ State.reset.log.clearCode = none ∧ { frozenLog with wrong := 8 }.wrong ≥ 8) ∧
    ((cmd 0xA1 (natLe 4 8191 ++ natLe 4 2)).p 0 4 < 8192 ∧ (cmd 0xA1 (natLe 4 8192 ++ natLe 4 2)).p 0 4 ≥ 8192) ∧
    ({ State.reset.log with lost := 3 }.lost ≠ 0 ∧ ramCount State.reset.log < 256) := by
  refine ⟨?_, by decide, by decide, by decide, by decide⟩
  intro e h
  exact ⟨rdy_ready _ _ _ (by decide) (by decide), (rdy_ready .service e.1 e.2 (by decide) (by decide)).1, rfl, rfl, rfl, inTurn_alone _ _ rfl⟩

/-- A clear leaves LOG_CLEARED alone, with the count of the valid records and the newest SEQ (R459). -/
theorem test_logClear : (clearLog State.reset.dev { openLog 37 with nextSeq := 20001 }).flash.map (fun e => (e.1, e.2.code, e.2.data, e.2.seq)) =
    [(3617, 0x9001, 1 + 20000 * 2 ^ 32, 20001)] := by decide

/-- LOG_CLEAR with the code clears. -/
theorem test_logClear_runs : ∃ t, exec (.logClear 0 1)
    { rdy .service 0xA3 (natLe 8 5) with log := { State.reset.log with clearCode := some 5 } } = .next t ∧ t.log.flash.length = 1 ∧
    field (t.hostRead 0x8000 32) 4 2 = 0 := ⟨_, rfl, by decide⟩

/-- A function with trace 5 open since 100. -/
def traced (now : Nat) (opc : Nat) : State :=
  { rdy .service opc (natLe 8 5) with
    dev := { (st .service []).dev with now := now },
    fns := [(0, some { Fn.reset 0 1048576 true with session := 0x13, enable := true, traces := [(5, 101)] })] }

/-- TracesMeasureIntervals: an ID that is not open, open, and open since this tick. -/
theorem test_traces_meet :
    (∀ opc ∈ [0xC0, 0xC1], Ready (traced 100 opc) opc 0 1 (cmd opc (natLe 8 5)) ∧ Ready (rdy .service opc (natLe 8 5)) opc 0 1 (cmd opc (natLe 8 5))) ∧
    (nat ((rdy .service 0xC0 (natLe 8 5)).fn 0).traces 5 = 0 ∧ nat ((traced 100 0xC1).fn 0).traces 5 = 100 + 1) := by
  refine ⟨?_, by decide⟩
  intro opc h
  exact ⟨⟨rfl, rfl, rfl, rfl, inTurn_alone _ _ rfl⟩, rdy_ready _ _ _ (by decide) (by decide)⟩

/-- A stop in the tick of its start: OK_WARN with BELOW_RES and RESULT0 0 (R303). -/
theorem test_traceStop_belowRes : ∃ t, exec (.traceStop 0 1) (traced 100 0xC1) = .next t ∧ field (t.hostRead 0x8000 32) 4 2 = 2 ∧
    field (t.hostRead 0x8000 32) 16 8 = 0 ∧ field (t.hostRead 0x8000 32) 24 4 = 16 := ⟨_, rfl, by decide⟩

/-- A stop 50 ticks later answers 50. -/
theorem test_traceStop : ∃ t, exec (.traceStop 0 1) (traced 150 0xC1) = .next t ∧ field (t.hostRead 0x8000 32) 4 2 = 0 ∧
    field (t.hostRead 0x8000 32) 16 8 = 50 := ⟨_, rfl, by decide⟩

/-! ## Contexts and requests: small states -/

/-- A command that names context 0, and one that names request 0 too. -/
def xcmd (opc : Nat) (ps : List Byte) : Cmd := let c := cmd opc ps; { c with pkt := { c.pkt with ctx := 0 } }
def rcmd (opc : Nat) (ps : List Byte) : Cmd := let c := xcmd opc ps; { c with pkt := { c.pkt with req := 0 } }

/-- Panels: RAW, QVEC, BF16, FP32, ACC48, ACC64, a second FP32, BF16 and RAW; of 32 lines each, and one without lines. -/
def panels : List Panel :=
  ([0, 1, 2, 3, 4, 5, 3, 2, 0].zipIdx.map fun e => { base := 32 * e.2, lines := 32, kind := e.1, hostRw := e.2 == 0 }) ++
    [{ base := 0, lines := 0, kind := 0, hostRw := false }]

/-- Context tile 0 on tile 10 and context tile 1 on tile 11, with these words. -/
def ctile (t : Nat) (ws : List Nat) : CTile :=
  { tile := t, arrays := 15, entry := t == 10, panels := panels, code := ws.map (BitVec.ofNat 64), entryStep := 0, entryAppend := 0xFFFF,
    entryVerify := 0 }

/-- An image of two tiles, one layer and head, 100 tokens. -/
def image (ws : List Nat) : Image :=
  { defShape := 0, layers := 1, kvHeads := 1, gqa := 1, vocab := 100, execLimit := 1000, chimneyN := 1, chimneyRole := 0, varies := false,
    tiles := [ctile 10 ws, ctile 11 []], arrays := [{ carray := 0, format := 0, scales := [0x3C80#16], engine := 0 }], digest := 7 }

/-- A context of the physical function with HDIM 1. -/
def ctx (i : Option Image) : Ctx :=
  { fn := 0, hdim := 1, spillAddr := 0, spillSlots := 0, spillUsed := 0, image := i, stepNs := 300000, halted := false, destroying := false,
    variants := [], tables := [], updates := [], older := [], dispatched := 3, inflight := [], capture := none, replay := none, chimney := false,
    ready := false }

/-- An open request of it, length 300, with a pending token and a kept step. -/
def req : Req :=
  { newReq State.reset (rcmd 0x40 []) 0 none none with
    cls := 2, length := 300, pending := some 5, nextStep := 9, kept := [(8, rec999)], verify := true, budget := 8 }

/-- A state with context 0, request 0 and this command. -/
def ctxSt (d : DevSt) (c : Cmd) (x : Ctx) (r : Req) : State :=
  { st d [c] with ctxs := [(0, some x)], reqs := [(0, some r)], kv := { Kv.reset with poolMib := 64, tableGib := 32 } }

theorem ctxSt_ready (d : DevSt) (opc : Nat) (ps : List Byte) (x : Ctx) (r : Req) (h : d ≠ .cold) (h' : d ≠ .hold) :
    Ready (ctxSt d (xcmd opc ps) x r) opc 0 1 (xcmd opc ps) ∧ Ready (ctxSt d (rcmd opc ps) x r) opc 0 1 (rcmd opc ps) := by
  refine ⟨⟨rfl, ?_, rfl, rfl, inTurn_alone _ _ rfl⟩, ⟨rfl, ?_, rfl, rfl, inTurn_alone _ _ rfl⟩⟩ <;> cases d <;> first | rfl | contradiction

theorem ctxSt_onCtx (d : DevSt) (opc : Nat) (ps : List Byte) (i : Option Image) (r : Req) :
    OnCtx (ctxSt d (xcmd opc ps) (ctx i) r) (xcmd opc ps) (ctx i) := ⟨rfl, rfl, rfl, rfl⟩

/-- A model image of one tile with a panel of one line, whose program is END (R200 to R202). -/
def imgBytes : List Byte :=
  let head := natLe 4 0x474D4956 ++ natLe 1 0x10 ++ natLe 1 0 ++ natLe 2 1 ++ natLe 1 1 ++ natLe 1 1 ++ natLe 2 0xFFFF ++ natLe 2 1 ++
    natLe 2 1 ++ natLe 1 1 ++ natLe 1 1 ++ natLe 2 0 ++ natLe 4 100 ++ natLe 4 1000 ++ natLe 2 1 ++ natLe 2 0 ++ natLe 4 7 ++ natLe 4 0 ++
    natLe 8 840 ++ natLe 16 0
  let dir := [(1, 1, 192), (2, 1, 256), (3, 1, 768), (4, 1, 832), (5, 0, 0), (6, 0, 0), (7, 0, 0)].flatMap fun e =>
    natLe 4 e.1 ++ natLe 4 e.2.1 ++ natLe 8 e.2.2
  head ++ dir ++ natLe 16 0 ++ (natLe 3 0 ++ natLe 1 1) ++ natLe 60 0 ++ (natLe 2 0 ++ natLe 2 1 ++ natLe 508 0) ++
    (natLe 4 0 ++ natLe 2 1 ++ natLe 2 0 ++ natLe 4 0xFFFFFFFF ++ natLe 4 0) ++ natLe 48 0 ++ natLe 8 (0x3C * 2 ^ 56)

theorem ctxSt_onReq (d : DevSt) (opc : Nat) (ps : List Byte) (x : Ctx) :
    OnReq (ctxSt d (rcmd opc ps) x req) (rcmd opc ps) req ∧ reqTurn (ctxSt d (rcmd opc ps) x req) (rcmd opc ps) = true := by
  refine ⟨⟨?_, rfl, rfl, rfl⟩, ?_⟩
  · show findReq (ctxSt d (rcmd opc ps) x req) 0 = some req
    show (if req.open_ && req.gen == reqGen 0 then some req else none) = some req
    rfl
  · simp [reqTurn, ctxSt, st]


/-! ## Contexts and requests -/

/-- Context 0 with this many vectors in flight. -/
def vec : Vec :=
  { disp := 2, xr := { req := 0, variant := 0, cls := 2, phase := 0, pos := 300, step := 9, token := 5, cand := 0xFF, first := true, last := true },
    ring := 0, seq := 1, bags := [], bound := [], endedTiles := 0, token := none, kept := [], discarded := false, draft := false, chimStep := 0,
    outliers := [], blocks := [], path := [], mass := [], reads := [] }

/-- 64 contexts. -/
def fullSt : State := { rdy .service 0x20 (natLe 24 1) with ctxs := (List.range 64).map fun i => (i, some (ctx none)) }

/-- ContextCommands: a free number, none; a load accepted, refused, running with a good and a bad image; a destroy with an open
request, with a vector in flight, and alone. -/
theorem test_contexts_meet :
    (look (rdy .service 0x20 (natLe 24 1)).ctxs 0 = none ∧ (∀ k < 64, (look fullSt.ctxs k).isSome = true) ∧
      look ({ fullSt with ctxs := fullSt.ctxs.take 63 } : State).ctxs 63 = none ∧
      ∀ k < 63, (look ({ fullSt with ctxs := fullSt.ctxs.take 63 } : State).ctxs k).isSome = true) ∧
    ((ctx none).image = none ∧ (ctx (some (image []))).image ≠ none) ∧
    (Running { ctxSt .service { xcmd 0x22 (natLe 8 0x10000 ++ natLe 8 840) with phase := .running } (ctx none) req with
        hostMem := Mem.write [] 0x10000 [1] } 0x22 0 1 { xcmd 0x22 (natLe 8 0x10000 ++ natLe 8 840) with phase := .running }) ∧
    (reqsOfCtx (ctxSt .service (xcmd 0x21 []) (ctx none) req) 0 = [0] ∧
      reqsOfCtx (ctxSt .service (xcmd 0x21 []) (ctx none) { req with open_ := false }) 0 = [] ∧
      ({ ctx none with inflight := [vec] } : Ctx).inflight ≠ [] ∧
      (ctxSt .service (xcmd 0x21 []) (ctx none) req).cmds = [xcmd 0x21 []] ∧ (ctxSt .service (xcmd 0x21 []) (ctx none) req).kv.prefixes = [] ∧
      ∀ d ∈ (ctxSt .service (xcmd 0x21 []) (ctx none) req).cmds, d.pkt.opc ≠ 0x22) := by
  refine ⟨by decide, by decide, ⟨rfl, rfl, rfl, rfl⟩, by decide⟩

/-- The image in host memory is what CTX_LOAD checks, and with every tile free tile 0 is its place. -/
theorem test_image_place : imageCheck [1] 1 1 none false 32 = some (0x208, 2 ^ 40) ∧ originOk State.reset imgBytes 0 0 = true ∧
    originOk State.reset imgBytes 64 0 = false := by decide +kernel

/-- That image in context 0 at the origin. -/
def loadedSt : State := loadImage (ctxSt .service (xcmd 0x22 []) (ctx none) req) 0 imgBytes 0
/-- CTX_LOAD with an origin. -/
def placedLoad (x y : Nat) : Cmd := xcmd 0x22 (natLe 16 0 ++ natLe 1 1 ++ natLe 1 x ++ natLe 6 y)

/-- ContextCommands: an origin given and not, lines that read back as written or lie in no panel, and one that does not. -/
theorem test_readBack_meets :
    badLine loadedSt (imageOf imgBytes 0) [] = none ∧ badLine loadedSt (imageOf imgBytes 0) [{ tile := 0, line := 1, bytes := [] }] = none ∧
    badLine loadedSt (imageOf imgBytes 0) [{ tile := 0, line := 0, bytes := List.replicate 32 0 }] = none ∧
    badLine loadedSt (imageOf imgBytes 0) [{ tile := 0, line := 0, bytes := [] }] = some { tile := 0, line := 0, bytes := [] } ∧
    (placedLoad 0 0).p 16 1 = 1 ∧ originOk State.reset imgBytes ((placedLoad 0 0).p 17 1) ((placedLoad 0 0).p 18 1) = true ∧
    originOk State.reset imgBytes ((placedLoad 64 0).p 17 1) ((placedLoad 64 0).p 18 1) = false ∧ (xcmd 0x22 (natLe 24 0)).p 16 1 ≠ 1 ∧
    autoOrigin State.reset imgBytes = some 0 := by decide +kernel

/-- CTX_CREATE answers the lowest free number. -/
theorem test_ctxCreate : ∃ t, exec (.ctxCreate 0 1) (rdy .service 0x20 (natLe 24 1)) = .next t ∧ field (t.hostRead 0x8000 32) 16 8 = 0 ∧
    (look t.ctxs 0).map (fun x => (x.hdim, x.fn)) = some (1, 0) := ⟨_, rfl, by decide⟩

/-- A delta list of variant 3 with one entry of array 0: row 130, column 77, +2 (R145). -/
def deltaBytes : List Byte :=
  natLe 4 0x544C4456 ++ natLe 1 0x10 ++ natLe 1 0 ++ natLe 2 3 ++ natLe 4 1 ++ natLe 4 0 ++ natLe 8 1 ++ natLe 8 0 ++
    (natLe 4 0 ++ natLe 4 1 ++ natLe 8 64) ++ natLe 16 0 ++ natLe 4 (130 * 2 ^ 22 + 77 * 2 ^ 12 + 2 * 2 ^ 9)

/-- An image that fires array 0 with FIREV. -/
def firevImage : Image := image [2 * 2 ^ 56 + 1 * 2 ^ 48 + 1 * 2 ^ 16]

/-- A context with variant 3 and table 1. -/
def table : Table := { fmt := 1, tier := 1, d := 2, rows := 4, shards := 0, shard := 0, srcAddr := 0, data := [] }
def fullCtx : Ctx :=
  { ctx (some firevImage) with variants := [(3, { nent := 1, bytes := 68, segs := [] })], tables := [(1, table)] }

/-- The parameters of a TABLE_LOAD of table 2: four INT8 rows of two elements from host memory (R290). -/
def tlParams : List Byte := natLe 1 2 ++ natLe 1 1 ++ natLe 1 1 ++ natLe 1 0 ++ natLe 2 2 ++ natLe 10 0 ++ natLe 8 4 ++ natLe 8 0x1000 ++ natLe 8 128

/-- ContextContents: a delta list that passes; loaded and unloaded variants and tables; an update of one row; readable and
read-only panels. -/
theorem test_contents_meet :
    (variantBad State.reset firevImage deltaBytes = none ∧ deltaBytes.length = 68 ∧ 32 ≤ 68 ∧ field deltaBytes 6 2 = 3 ∧
      deltaUsed (ctxSt .service (xcmd 0x24 []) (ctx none) req) + 68 ≤ 16 * 2 ^ 30) ∧
    (((3, ({ nent := 1, bytes := 68, segs := [] } : Variant)) ∈ fullCtx.variants) ∧ (ctx none).variants = [] ∧ req.variant ≠ 3) ∧
    (fullCtx.tables.find? (fun e => e.1 == 1) = some (1, table) ∧ (ctx none).tables = [] ∧ (xcmd 0x30 tlParams).p 2 1 = 1 ∧
      rowBytes 1 2 = 32 ∧ (xcmd 0x30 tlParams).p 32 8 = (xcmd 0x30 tlParams).p 16 8 * 32 ∧
      rowsBad (srcRows (rdy .service 0x30 tlParams) 0x1000 1 4 32) 1 1 4 0 0 32 = none ∧
      tableUsed (ctxSt .service (xcmd 0x30 tlParams) (ctx none) req) + 128 ≤ 32 * 2 ^ 30) ∧
    (leNat ((rdy .service 0x31 (natLe 4 1 ++ natLe 4 1 ++ natLe 8 0x1000)).hostRead 0x1000 8) < table.rows ∧
      scaleBad 1 ((rdy .service 0x31 []).hostRead 0x1008 4) = false ∧ fullCtx.updates.length < 2 ^ 20) ∧
    (atBoundary (ctxSt .service (xcmd 0x31 []) (ctx none) req) { ctx (some (image [])) with dispatched := 0 } = true) ∧
    (panels[0]? = some { base := 0, lines := 32, kind := 0, hostRw := true } ∧ 0 + 1024 ≤ 32 * 32 ∧
      panels[2]? = some { base := 64, lines := 32, kind := 2, hostRw := false } ∧ (image []).tiles[0]? = some (ctile 10 []) ∧
      ((rdy .service 0x60 []).tile 10).exec = none) := by decide

/-- An execution on tile 11 keeps its context from a boundary. -/
theorem test_boundary_busy : atBoundary (ctxSt .service (xcmd 0x31 []) (ctx none) req) { ctx (some (image [])) with inflight := [vec], dispatched := 1 } = false := by decide

/-- The parameters of REQ_OPEN: no variant, 1 rank, temperature 0, all probability, 8 pages (R292). -/
def openParams : List Byte :=
  natLe 2 0 ++ natLe 1 0 ++ natLe 1 1 ++ natLe 4 0 ++ natLe 4 0x3F800000 ++ natLe 4 8 ++ natLe 12 0 ++ natLe 4 0xFFFFFFFF ++ natLe 16 0

/-- A verification tree of one candidate: token 6, probability 1, child of the root (R177). -/
def treeParams : List Byte := natLe 4 9 ++ natLe 1 0 ++ natLe 1 1 ++ natLe 18 0 ++ natLe 4 6 ++ natLe 4 0x3F800000 ++ natLe 1 0xFF ++ natLe 3 0

/-- RequestsOpenAndRun: an open of either class, an append of two tokens, steps at the next, a kept, a later and an older index, with and
without a token, and a tree. -/
theorem test_requests_meet :
    (let s := ctxSt .service (xcmd 0x40 openParams) (ctx (some (image []))) { req with open_ := false }
     (xcmd 0x40 openParams).p 0 2 = 0 ∧ (xcmd 0x40 openParams).p 40 8 = 0 ∧ (xcmd 0x40 openParams).p 28 4 = noReq ∧
      bit ((xcmd 0x40 openParams).p 2 1) 0 = false ∧ look s.kv.prefixes 0 = none ∧ freeSlot s < 2 ^ 20 ∧
      (xcmd 0x40 openParams).pkt.prio = 2 ∧ pairCount s 0 ≤ s.kv.hobFree) ∧
    (let c := rcmd 0x41 (natLe 4 2 ++ natLe 20 0 ++ natLe 4 7 ++ natLe 4 99)
     appendBad (rdy .service 0x41 []) c (ctx none) 100 = none ∧ c.p 0 4 = 2 ∧ req.length + 2 ≤ 4194304) ∧
    ((rcmd 0x42 (natLe 4 9)).p 0 4 = req.nextStep ∧ req.pending.isSome = true ∧ ({ req with pending := none } : Req).pending = none ∧
      (req.kept.find? fun e => e.1 == 8) = some (8, rec999) ∧ (req.kept.find? fun e => e.1 == 10) = none ∧
      (10 + 2 ^ 32 - req.nextStep) % 2 ^ 32 < 2 ^ 31 ∧ (7 + 2 ^ 32 - req.nextStep) % 2 ^ 32 ≥ 2 ^ 31) ∧
    (let c := rcmd 0x43 treeParams
     c.p 0 4 = req.nextStep ∧ c.p 4 1 = 0 ∧ req.verify = true ∧ req.draft = none ∧ treeBad (packetCands c) 100 = none ∧
      (packetCands c).length = 1) := by decide

/-- The record of a request fits the REQ region (R189). -/
theorem test_reqFits : reqFits (ctxSt .service (xcmd 0x40 openParams) (ctx (some (image []))) { req with open_ := false }) 1024 = true := by
  have h : Config.handleTable % 2 ^ 34 < 2 ^ 34 := Nat.mod_lt _ (by decide)
  simp only [reqFits, reqUsed, ctxSt, st, List.map_cons, List.map_nil, List.sum_cons, List.sum_nil, decide_eq_true_eq]
  simp only [Bool.false_eq_true, if_false]
  omega

/-- REQ_STEP takes the next step. -/
theorem test_reqStep : ∃ t, exec (.reqStep 0 1) (ctxSt .service (rcmd 0x42 (natLe 8 9)) (ctx (some (image []))) req) = .next t ∧
    t.cmds.map (fun c => (c.phase, c.total)) = [(.running, 1)] := ⟨_, rfl, by decide +kernel⟩

/-- REQ_QUERY writes LENGTH and NEXT_STEP first (R298). -/
theorem test_reqQuery : ∃ t, exec (.reqQuery 0 1) (ctxSt .service (rcmd 0x46 (natLe 8 0x4000)) (ctx (some (image []))) req) = .next t ∧
    field (t.hostRead 0x4000 64) 0 4 = 300 ∧ field (t.hostRead 0x4000 64) 4 4 = 9 ∧ field (t.hostRead 0x4000 64) 8 4 = 5 := ⟨_, rfl, by decide +kernel⟩

/-- LostRequestsEndWithDataLost. -/
theorem test_lost_meets :
    (findReq (ctxSt .service (rcmd 0x41 []) (ctx none) { req with dataLost := true }) (rcmd 0x41 []).pkt.req = some { req with dataLost := true } ∧
      reqTurn (ctxSt .service (rcmd 0x41 []) (ctx none) { req with dataLost := true }) (rcmd 0x41 []) = true) ∧
    (∀ opc, Ready (ctxSt .service (rcmd opc []) (ctx none) { req with dataLost := true }) opc 0 1 (rcmd opc [])) :=
  ⟨by decide, fun _ => ⟨rfl, rfl, rfl, rfl, inTurn_alone _ _ rfl⟩⟩

/-- A lost request: REQ_STEP completes with DATA_LOST. -/
theorem test_lost_step : ∃ t, exec (.reqStep 0 1) (ctxSt .service (rcmd 0x42 (natLe 8 9)) (ctx none) { req with dataLost := true }) = .next t ∧
    field (t.hostRead 0x8000 32) 4 2 = 0x401 := ⟨_, rfl, by decide⟩

/-- A page of pair 0 of request 0. -/
def page : Page :=
  { ctx := 0, fill := 256, full := true, summary := false, mirrored := false, refcnt := 1, layer := 0, head := 0, page := 0, radius := 0#32,
    kcarry := [], vcarry := [], mean := [], kexp := [], vexp := [], kelem := [], velem := [], spilled := false, spillSlot := 0, lastRead := 0,
    bound := false }
def entry : Entry :=
  { slot := 1, ash := false, shared := false, full := true, radius := 0#32, mean := [], score := 0, epoch := 0, count := 256, kcarry := [],
    vcarry := [] }

/-- RequestsEnd: a request alone on the device; a pin of its length, of 0 and beyond; an unreferenced prefix of this context and another. -/
theorem test_requestsEnd_meet :
    ((ctxSt .service (rcmd 0x44 []) (ctx none) req).cmds = [rcmd 0x44 []] ∧
      vecsOf (ctxSt .service (rcmd 0x44 []) (ctx none) req) 0 = false ∧ req.cancelled = false) ∧
    ((rcmd 0x50 (natLe 4 300)).p 0 4 = req.length ∧ 2 ≤ req.cls ∧ req.tables = [] ∧ pinned req 300 = [] ∧
      pinned { req with tables := [(0, [(0, entry)])] } 300 = [(0, 0, entry)] ∧ entry.ash = false ∧ page.bound = false ∧ page.refcnt < 65535 ∧
      (rcmd 0x50 (natLe 4 0)).p 0 4 = 0 ∧ req.length < (rcmd 0x50 (natLe 4 301)).p 0 4) ∧
    (look [(1, some ({ ctx := 0, variant := 0, n := 300, pages := [], carries := [], history := [] } : Prefix))] ((xcmd 0x51 (natLe 8 1)).p 0 8) =
      some { ctx := 0, variant := 0, n := 300, pages := [], carries := [], history := [] }) := by decide

/-- PREFIX_PIN of 301 of 300 positions: BAD_PARAM at N, offset 32. -/
theorem test_prefixPin_long : ∃ t, exec (.prefixPin 0 1) (ctxSt .service (rcmd 0x50 (natLe 8 301)) (ctx none) req) = .next t ∧
    field (t.hostRead 0x8000 32) 4 2 = 0x201 ∧ field (t.hostRead 0x8000 32) 16 8 = 32 := ⟨_, rfl, by decide +kernel⟩

/-! ## Serving and executions -/

/-- REQ_STEP running for request 0 of class 0. -/
def stepCmd : Cmd := { rcmd 0x42 (natLe 8 9) with phase := .running, total := 1 }
def req0 : Req := { req with cls := 0 }
def serveSt : State := ctxSt .service stepCmd { ctx (some (image [])) with dispatched := 0 } req0

/-- No update waits: the boundary's updates leave the state as it is. -/
theorem test_noUpdates : applyUpdates serveSt 0 = serveSt := by
  have h : ([] : List TUpd).mergeSort TUpd.before = [] := by simp
  show List.foldl _ (pruneOlder ((if ([] : List TUpd).mergeSort TUpd.before = [] then _ else _ : State).updCtx 0 _) 0)
    (([] : List TUpd).mergeSort TUpd.before) = _
  rw [h]
  rfl

/-- VectorsDispatch: one candidate at a boundary that gets its pages, no candidate, and a tile that still runs. -/
theorem test_dispatch_meets :
    (look serveSt.ctxs 0 = some { ctx (some (image [])) with dispatched := 0 } ∧ clocked serveSt = true ∧ serveSt.dev.st = .service ∧
      atBoundary serveSt { ctx (some (image [])) with dispatched := 0 } = true ∧
      findReq serveSt 0 = some req0 ∧ flightRoom serveSt 0 1 = true ∧ (admitChunk serveSt stepCmd).1 = true ∧
      (openGroup serveSt 0 (picks serveSt 0 { ctx (some (image [])) with dispatched := 0 })).map (·.cls) = [0] ∧
      reqAt serveSt (nextSlot serveSt stepCmd) = some req0) ∧
    (((serveSt.ctxs.map (·.1)).filter fun k => decide (k ≤ 0)) = [0] ∧
      chimneyFirst serveSt { ctx (some (image [])) with dispatched := 0 } = false ∧ (ctx none).replay = none ∧ (ctx none).halted = false) ∧
    (picks { serveSt with cmds := [] } 0 (ctx none)).length = 0 := by decide +kernel

/-- The vector of a REQ_STEP is its pending token at its length. -/
theorem test_dispatch : ∃ t, exec (.dispatchBoundary 0) serveSt = .next t ∧
    ((look t.ctxs 0).map fun x => x.inflight.map fun v => (v.xr.token, v.xr.pos, v.xr.step)) = some [(5, 300, 9)] :=
  ⟨_, rfl, by decide +kernel⟩

/-- A spilled page alone in a pool of 64 MiB, and an append that waits. -/
def spillSt : State :=
  let s := ctxSt .service (rcmd 0x41 []) (ctx (some (image []))) req0
  { s with kv := { s.kv with pages := [(1, some { page with spilled := true })] } }
def waitCmd : Cmd := { rcmd 0x41 (natLe 4 2 ++ natLe 20 0) with phase := .chunkWait 100, total := 2 }

/-- ServingEvents: a page to bring back, no free pool, an append after 1 ms and after more than 10 s, and loads at the gate's bound. -/
theorem test_serving_meets :
    (clocked spillSt = true ∧ spillSt.dev.st ≠ .failed ∧
      spillSt.kv.poolMib * 2 ^ 20 < (spillSt.kv.poolMib * 2 ^ 20 - poolUsed spillSt) * 16 ∧ poolFits spillSt 0 = true ∧
      (State.reset.kv.poolMib * 2 ^ 20 - poolUsed State.reset) * 16 ≤ State.reset.kv.poolMib * 2 ^ 20) ∧
    (findCmd (ctxSt .service waitCmd (ctx (some (image []))) req0) 0 1 = some waitCmd ∧ 100 + 100000 ≤ 100100 ∧
      100 + 1000000000 < 1000000101 ∧ waitCmd.ended = waitCmd.dispatched ∧
      (admitChunk (ctxSt .service waitCmd (ctx (some (image []))) req0) waitCmd).1 = true ∧
      (admitChunk { ctxSt .service waitCmd (ctx (some (image []))) { req0 with length := 254, chunks := [(0, 0)] } with kv := Kv.reset } waitCmd).1 = false) ∧
    (clocked spillSt = true ∧ 1000 ≤ 1000) := by decide +kernel

/-- FLUE_LOAD_WINDOW gates above 900 per mille (R321): 90% of the 32 engines' cycles of 1 ms, and 1 per mille more. -/
theorem test_flueGate : ∃ t, exec .flueLoadWindow { spillSt with
      flues := [(0, some { Flue.reset with busy := 34560000 }), (32, some { Flue.reset with busy := 34598400 })] } = .next t ∧
    t.serve.flueLoad = [900, 901, 0, 0] ∧ t.serve.flueGate = [false, true, false, false] := ⟨_, rfl, by decide +kernel⟩

/-- An execution of the vector on tile 10. -/
def exec0 : Exec :=
  { xr := vec.xr, disp := 2, pc := 0, issueCtr := 4, started := 0, linkWait := 0, linkFrom := 0, loops := [], issued := [], ended := false,
    discarded := false, chimStep := 0 }

/-- Tile 10 runs this execution of these words. -/
def runSt (ws : List Nat) (x : Exec) (y : Tile) : State :=
  { ctxSt .service (cmd 0x71 []) { ctx (some (image ws)) with inflight := [{ vec with xr := x.xr }] } { req with cls := 2 } with
    clk := { Clk.reset with aclkOn := true },
    tiles := [(10, some { y with ctx := some (0, 0), nextDisp := 2, exec := some x }), (11, some { Tile.reset with ctx := some (0, 1) })] }

/-- Where its one instruction stands. -/
def atOf (w : Nat) (x : Exec) : At :=
  { t := 10, cx := 0, ct := 0, c := { ctx (some (image [w])) with inflight := [{ vec with xr := x.xr }] }, i := image [w], k := ctile 10 [w],
    x := x, w := w }

theorem issues (w : Nat) (h : w < 2 ^ 64) (x : Exec) (y : Tile) (h0 : x.pc = 0) (h1 : x.issued = []) (h2 : x.ended = false)
    (h3 : y.fires = []) (h4 : y.stopped = false) : Issues (runSt [w] x y) 10 (iOpc w) (atOf w x) := by
  have hw : (BitVec.ofNat 64 w).toNat = w := by rw [BitVec.toNat_ofNat]; exact Nat.mod_eq_of_lt h
  refine ⟨?_, rfl⟩
  have hz : hazardFree { y with ctx := some (0, 0), nextDisp := 2, exec := some x } x w = true := by
    simp [hazardFree, h1, h3]
  rw [h4] at hz
  show (match (ctile 10 [w]).code[x.pc]? with
    | none => none
    | some w' => if !clocked (runSt [w] x y) || y.stopped || false || x.ended ||
        !hazardFree { y with ctx := some (0, 0), nextDisp := 2, exec := some x } x w'.toNat then none
      else some { t := 10, cx := 0, ct := 0, c := { ctx (some (image [w])) with inflight := [{ vec with xr := x.xr }] }, i := image [w],
                  k := ctile 10 [w], x := x, w := w'.toNat }) = some (atOf w x)
  have hc : clocked (runSt [w] x y) = true := rfl
  simp [h0, hc, h2, h4, hz, hw, ctile, atOf]

/-- ExecutionsStartAndEnd: a vector to start, with and without an entry of its phase; an end; an instruction to complete; a limit. -/
theorem test_executions_meet :
    (let s := { runSt [0x3C * 2 ^ 56] exec0 Tile.reset with tiles := [(10, some { Tile.reset with ctx := some (0, 0), nextDisp := 2 })] }
     (ctileOf s 10).map (fun e => (e.1, e.2.1, e.2.2.2.2.tile)) = some (0, 0, 10) ∧ (s.tile 10).exec = none ∧ clocked s = true) ∧
    (entryFor (ctile 10 []) 0 = 0 ∧ entryFor (ctile 10 []) 1 = 0xFFFF) ∧
    ((runSt [] { exec0 with ended := true } Tile.reset).tile 10).exec.map (·.ended) = some true ∧
    ((runSt [] exec0 Tile.reset).dev.now - 0 - 0) * capW (runSt [] exec0 Tile.reset).thm < 1000 * 100 * 900 ∧
    (150000 - exec0.started - exec0.linkWait) * capW Thm.reset ≥ 1000 * 100 * 900 ∧
    (let e : Issued := { n := 4, pc := 0, opc := 0x0A, reads := [], writes := [], done := false, bytes := [], pcie := 0 }
     let s := runSt [0x0A * 2 ^ 56] { exec0 with issued := [e] } Tile.reset
     mayComplete (s.tile 10) s 10 2 e = true ∧ mayComplete (s.tile 10) s 10 2 { e with pcie := 1, opc := 0x22 } = true ∧
     mayComplete (s.tile 10) s 10 2 { e with opc := 0x01 } = true) := by decide +kernel

/-! ## Step instructions -/

/-- An instruction word: opcode and fields by their lowest bit (R219). -/
def word (opc : Nat) (fs : List (Nat × Nat)) : Nat := opc * 2 ^ 56 + (fs.map fun f => f.2 * 2 ^ f.1).sum

/-- The words of the tests, by mnemonic. -/
def wWait : Nat := word 0x38 [(49, 3), (33, 2)]
def wSignal : Nat := word 0x39 [(49, 3), (36, 1), (20, 5)]
def wLoop : Nat := word 0x3A [(43, 2), (27, 4)]
def wBr (c v : Nat) : Nat := word 0x3B [(43, 7), (40, c), (32, v)]
def wTime : Nat := word 0x3E [(48, 0), (36, 31)]
def wMove : Nat := word 0x0A [(48, 5), (42, 5), (30, 30), (18, 1), (5, 2)]
def wMove48 : Nat := word 0x0A [(48, 4), (42, 5), (30, 31), (18, 0), (5, 1)]
def wMoveOver : Nat := word 0x0A [(48, 5), (42, 5), (30, 0), (18, 31), (5, 2)]
def wZero : Nat := word 0x08 [(48, 5), (42, 1), (24, 1), (12, 31)]
def wResid : Nat := word 0x08 [(48, 5), (42, 1), (40, 2), (34, 3), (32, 0), (24, 1), (12, 0)]
def wPromote : Nat := word 0x09 [(48, 5), (46, 0), (38, 1), (26, 0)]
def wReduce : Nat := word 0x1A [(48, 5), (42, 5), (40, 0), (33, 2), (19, 1), (7, 0)]
def wJoin : Nat := word 0x1A [(48, 3), (42, 6), (40, 1), (33, 2), (19, 1), (7, 0)]
def wQuant : Nat := word 0x10 [(48, 1), (42, 3), (24, 0), (8, 0)]
def wDeq : Nat := word 0x11 [(48, 3), (42, 5), (36, 1), (34, 0), (26, 1), (14, 0), (2, 0)]
def wSend : Nat := word 0x18 [(48, 0), (36, 0), (23, 1), (10, 2), (5, 3)]
def wRecv : Nat := word 0x19 [(48, 0), (36, 30), (23, 1), (10, 2), (5, 3)]
def wNorm (pass : Nat) : Nat := word 0x28 [(48, 3), (42, 6), (36, 0), (30, 6), (27, pass), (0, 64)]
def wAct (f : Nat) : Nat := word 0x29 [(48, 3), (42, 6), (36, 6), (32, f), (16, 32)]
def wRope : Nat := word 0x2A [(48, 3), (42, 6), (36, 3), (29, 1)]
def wEmbg (src : Nat) : Nat := word 0x30 [(48, 3), (40, 1), (36, src), (22, 0), (9, 2)]
def wSample (mode : Nat) : Nat := word 0x31 [(48, 3), (42, 8), (38, mode)]
def wKvapp : Nat := word 0x20 [(48, 2), (42, 7), (32, 0), (22, 0), (12, 0)]
def wKvidx : Nat := word 0x21 [(48, 3), (42, 8), (32, 0), (22, 0)]
def wKvgath : Nat := word 0x22 [(48, 8), (38, 0), (28, 0), (26, 1)]
def wAttn (pass : Nat) : Nat := word 0x23 [(48, 3), (42, 6), (40, 1), (38, pass), (32, 6)]
def wKvevict : Nat := word 0x24 [] + 2 ^ 55
def wVerify : Nat := word 0x32 [(48, 8)]
def wFire : Nat := word 0x01 [(48, 1), (30, 0), (26, 0), (22, 0), (20, 0), (16, 1)]
def wFirev : Nat := word 0x02 [(48, 1), (30, 0), (26, 0), (22, 0), (20, 0), (16, 1)]

/-- Every one of them is about to issue on tile 10. -/
theorem test_issues_meet : ∀ w ∈ [wWait, wSignal, wLoop, wBr 0 0, word 0x3C [], word 0x3D [], wTime, wMove, wMove48, wMoveOver, wZero, wResid,
      wPromote, wReduce, wJoin, wQuant, wDeq, wSend, wRecv, wNorm 0, wNorm 1, wNorm 2, wAct 4, wAct 6, wRope, wEmbg 0, wEmbg 1, wSample 0, wSample 1,
      wSample 2, wKvapp, wKvidx, wKvgath, wAttn 0, wAttn 1, wAttn 2, wAttn 3, wKvevict, wVerify, wFire, wFirev],
    w < 2 ^ 64 ∧ ∀ y : Tile, y.fires = [] → y.stopped = false → Issues (runSt [w] exec0 y) 10 (iOpc w) (atOf w exec0) := by
  intro w h
  have hw : w < 2 ^ 64 := by revert w; decide
  exact ⟨hw, fun y h1 h2 => issues w hw exec0 y rfl rfl rfl h1 h2⟩

/-- ControlInstructions: a counter at COUNT and below, a tile with and without a waiting SEND, a sum of 65,535 and beyond, every condition. -/
theorem test_control_meet :
    (iOpc wWait = 0x38 ∧ bits wWait 48 33 ≤ nat [(3, 2)] (bits wWait 53 49) ∧ nat [(3, 1)] (bits wWait 53 49) < bits wWait 48 33) ∧
    (iOpc wSignal = 0x39 ∧ (image [wSignal]).tiles[bits wSignal 48 36]? = some (ctile 11 [])) ∧
    (takeSignal 10 [.signal 11 4 10 3 5] = some ((11, 4, 3, 5), []) ∧ 65530 + 5 ≤ 65535 ∧ 65535 < 65531 + 5 ∧
      ((runSt [] exec0 Tile.reset).tile 11).exec = none ∧ ((runSt [] exec0 Tile.reset).tile 11).ctx = some (0, 1)) ∧
    (iOpc wLoop = 0x3A ∧ iOpc (wBr 3 2) = 0x3B ∧ brTaken (wBr 3 0) vec.xr = true ∧ brTaken (wBr 3 2) vec.xr = false ∧
      brTaken (wBr 0 0) vec.xr = true ∧ brTaken (wBr 4 2) vec.xr = true ∧ brTaken (wBr 4 1) vec.xr = false) ∧
    (iOpc (word 0x3C []) = 0x3C ∧ iOpc (word 0x3D []) = 0x3D) ∧
    (iOpc wTime = 0x3E ∧ (atOf wTime exec0).c.replay = none ∧ (atOf wTime exec0).has (bits wTime 53 48) (32 * bits wTime 47 36) 8) := by
  refine ⟨by decide, by decide, by decide, by decide, by decide, ?_⟩
  exact ⟨by decide, by decide, by unfold At.has; decide⟩

/-- A jump taken goes to its target (R249); a LOOP enters its body; WAIT takes its count. -/
theorem test_br : ∃ t, exec (.br 10) (runSt [wBr 0 0] exec0 Tile.reset) = .next t ∧ (t.tile 10).exec.map (·.pc) = some 7 := ⟨_, rfl, by decide +kernel⟩
theorem test_loop : ∃ t, exec (.loopBody 10) (runSt [wLoop] exec0 Tile.reset) = .next t ∧
    (t.tile 10).exec.map (fun x => (x.pc, x.loops)) = some (1, [(1, 2, 4)]) := ⟨_, rfl, by decide +kernel⟩
theorem test_wait : ∃ t, exec (.waitCtr 10) (runSt [wWait] exec0 { Tile.reset with counters := [(3, 7)] }) = .next t ∧
    (t.tile 10).counters = [(3, 5)] ∧ (t.tile 10).exec.map (·.pc) = some 1 := ⟨_, rfl, by decide +kernel⟩

/-- IssueFrames: an execution without loops, at the last instruction of a body and not; accesses that end at a panel's end and beyond it. -/
theorem test_issue_meet :
    ((runSt [wMove] exec0 Tile.reset).tile 10).exec = some exec0 ∧ exec0.loops = [] ∧
    (∀ l ∈ [(0, 0, 2), (0, 1, 2)], ({ exec0 with loops := [l] } : Exec).loops = [l]) ∧
    (atOf wMove exec0).has (bits wMove 47 42) (32 * bits wMove 29 18) (32 * bits wMove 17 5) ∧
    (atOf wMove exec0).has (bits wMove 53 48) (32 * bits wMove 41 30) (32 * bits wMove 17 5) ∧
    ¬(atOf wMoveOver exec0).has (bits wMoveOver 47 42) (32 * bits wMoveOver 29 18) (32 * bits wMoveOver 17 5) ∧
    (∀ w ∈ [word 0x10 [(48, 1), (42, 9)], word 0x29 [(48, 3), (42, 9), (16, 1)]], ¬(atOf w exec0).has (bits w 47 42) 0 1) ∧
    ¬(atOf (word 0x11 [(36, 9)]) exec0).has (bits (word 0x11 [(36, 9)]) 41 36) 0 1 ∧
    ¬(atOf (word 0x2A [(42, 9), (29, 1)]) exec0).has (bits (word 0x2A [(42, 9), (29, 1)]) 47 42) 0 1 ∧
    ¬(atOf (word 0x18 [(48, 9), (10, 1)]) exec0).has (bits (word 0x18 [(48, 9), (10, 1)]) 53 48) 0 32 := by
  unfold At.has; decide

/-- MOVE writes two lines: byte 0 of the first reads back (R228). -/
theorem test_move : ∃ t, exec (.move 10) (runSt [wMove] exec0 { Tile.reset with mem := [(32 * 161, 9)] }) = .next t ∧
    Mem.byte (t.tile 10).mem (32 * 190) = 9 ∧ Mem.byte (t.tile 10).mem (32 * 161) = 9 := ⟨_, rfl, by decide +kernel⟩

/-- A MOVE beyond its panel raises the FIRMWARE error and halts the context (R116). -/
theorem test_move_over : ∃ t, exec (.move 10) (runSt [wMoveOver] exec0 Tile.reset) = .next t ∧ (look t.ctxs 0).map (·.halted) = some true ∧
    t.err.seen = 2 ^ 8 := ⟨_, rfl, by decide +kernel⟩

/-- A FIRE that is over, of array 0. -/
def fire0 : Fire :=
  { disp := 2, issue := 3, v := false, arrays := [0], join := 1, blk := 0, g0 := 0, gn := 0, qv := 1, slot := 32, withheld := 0, jobs := 0,
    adders := [(0, 7)], fmt := 0, pass := 0, discarded := false, req := 0 }

/-- MovesSumsAndQuantisation: lines, elements and roots within their panels; a bank that is ready and one that is not. -/
theorem test_moves_meet :
    (let a := atOf wMove48 exec0
     a.has 5 0 32 ∧ (a.panel 4).kind = 4 ∧ a.has 4 (32 * 31) (fit48 (List.replicate 32 0)).length) ∧
    (let a := atOf wZero exec0
     bits wZero 41 40 = 0 ∧ a.has 5 (8 * (4 * 31)) (a.abytes 5 (List.replicate (4 * nqOf (bits wZero 31 24)) 0)).length) ∧
    (let a := atOf wResid exec0
     bits wResid 41 40 ≠ 0 ∧ a.has 1 0 1 ∧ a.has 3 0 (a.esize 3 * 4) ∧ a.has 5 0 (a.abytes 5 [1, 2, 3, 4]).length) ∧
    (fire0.ready = true ∧ { fire0 with jobs := 1 }.ready = false ∧ fire0.same { fire0 with jobs := 1 } = true ∧
      (atOf wPromote exec0).has 5 0 (8 * 4)) ∧
    (let a := atOf wReduce exec0
     bits wReduce 41 40 = 0 ∧ a.has 5 0 (8 * 4) ∧ a.has 5 0 (8 * (2 * 4)) ∧ a.has 5 0 (a.abytes 5 [1, 2, 3, 4]).length) ∧
    (let a := atOf wJoin exec0
     bits wJoin 41 40 ≠ 0 ∧ a.has 6 0 (a.esize 6 * (2 * 8)) ∧ a.has 3 0 (a.fbytes 3 (List.replicate 8 0#32)).length) ∧
    (let a := atOf wQuant exec0
     a.has 3 0 (a.esize 3 * 64) ∧ a.has 1 0 (qvElems 1 + 64)) ∧
    (let a := atOf wDeq exec0
     a.has 1 0 1 ∧ a.has 5 0 (8 * 4) ∧ a.has 3 0 (4 * 4)) := by unfold At.has; decide +kernel

/-- The worked example of R127: y = 1.5, a scale of 2^-6 and E = -7 preload 402,653,184; at E = -1 the tie goes to the even value. -/
theorem test_preload_example : preloadOne 0x3C80#16 (-7) 0x3FC00000#32 = (402653184, false, false) ∧
    preloadOne 0x3C80#16 (-7) 0x3FC00001#32 = (402653216, false, false) ∧ preloadOne 0x3C80#16 (-1) 0x3FC00001#32 = (6291456, false, false) ∧
    preloadOne 0x3C80#16 (-1) 0x3FC00002#32 = (6291457, false, false) := by decide +kernel

/-- PROMOTE adds the run adder and frees the bank. -/
theorem test_promote : ∃ t, exec (.promote 10) (runSt [wPromote] exec0 { Tile.reset with mem := [(32 * 160, 5)], fires := [(0, some fire0)] }) = .next t ∧
    Mem.byte (t.tile 10).mem (32 * 160) = 12 ∧ (t.tile 10).fires = [] := ⟨_, rfl, by decide +kernel⟩

/-- TransfersBetweenTiles: a RECV that waits, none, a SEND that waits, none, and a panel for lines. -/
theorem test_transfers_meet :
    (let r : Recv := { src := 10, chan := 3, panel := 0, line := 0, nl := 2, got := 0, issue := 0, paired := false, role := 0xFFFF, step := 0 }
     ([r].find? fun r => r.src == 10 && r.chan == 3 && !r.paired && r.role == 0xFFFF) = some r) ∧
    (linkOf Tile.reset 0 (xferOps wSend) = none ∧ (atOf wSend exec0).phys 1 = 11 ∧ (atOf wSend exec0).has 0 0 64) ∧
    (let d : SendW := { dst := 10, chan := 3, lines := [natLe 32 1, natLe 32 2], issue := 0, role := 0xFFFF, step := 0 }
     ([d].find? fun d => d.dst == 10 && d.chan == 3 && d.role == 0xFFFF) = some d) ∧
    ((xferOps wRecv).line + (xferOps wRecv).nl ≤ ((atOf wRecv exec0).panel 0).lines) ∧
    ((ctileOf (runSt [] exec0 Tile.reset) 11).map (fun e => e.2.1) = some 1 ∧ (ctile 11 []).panels[0]? = some { base := 0, lines := 32, kind := 0, hostRw := true }) := by
  unfold At.has; decide +kernel

/-- A SEND and a RECV of channel 19 of context tile 0 itself: link transfers. -/
def wSendLnk : Nat := word 0x18 [(48, 0), (36, 0), (23, 0), (10, 2), (5, 19)]
def wRecvLnk : Nat := word 0x19 [(48, 0), (36, 30), (23, 0), (10, 2), (5, 19)]

/-- TransfersBetweenTiles over a link: a channel bound to role 1, a credit of the step and none, a step aborted and not. -/
theorem test_linkTransfers_meet :
    let y : Tile := { Tile.reset with portMap := [(19, (1, 0))], credits := [(19, 1, 3, 2)] }
    let a (w : Nat) : At := atOf w { exec0 with chimStep := 3 }
    let cut : State := (runSt [wSendLnk] exec0 y).updChim fun c => { c with abortedSteps := [3] }
    linkOf ((runSt [wSendLnk] exec0 y).tile 10) 0 (xferOps wSendLnk) = some (1, 0) ∧
    linkOf ((runSt [wRecvLnk] exec0 y).tile 10) 0 (xferOps wRecvLnk) = some (1, 0) ∧
    (a wSendLnk).has 0 0 64 ∧ (xferOps wRecvLnk).line + (xferOps wRecvLnk).nl ≤ ((a wRecvLnk).panel (xferOps wRecvLnk).panel).lines ∧
    (a wSendLnk).cut (runSt [wSendLnk] exec0 y) = false ∧ (a wSendLnk).cut cut = true ∧
    (((runSt [wSendLnk] exec0 y).tile 10).credits.find? fun c => c.1 == 19 && c.2.1 == 1 && c.2.2.1 == 3) = some (19, 1, 3, 2) ∧
    (((runSt [wSendLnk] exec0 Tile.reset).tile 10).credits.find? fun c => c.1 == 19 && c.2.1 == 1 && c.2.2.1 == 3) = none := by
  unfold At.has; decide +kernel

/-- VectorFunctions: sources, statistics, weights and destinations within their panels. -/
theorem test_vectors_meet :
    (let a := atOf (wNorm 1) exec0
     bits (wNorm 1) 28 27 = 1 ∧ (partRange (shapeK (bits (wNorm 1) 26 25) 0) (bits (wNorm 1) 24 22) (bits (wNorm 1) 21 16) 64).2 = 64 ∧
     a.has 6 0 (a.esize 6 * 64) ∧ a.has 6 0 (a.fbytes 6 [0#32, 0#32]).length) ∧
    (let a := atOf (wNorm 2) exec0
     a.has 0 0 (32 + 2 * 64) ∧ (wNorm 2).testBit 29 = false ∧ a.has 6 0 (a.esize 6 * 2) ∧ a.has 3 0 (a.fbytes 3 (List.replicate 64 0#32)).length) ∧
    (let a := atOf (wAct 6) exec0
     a.has 6 0 (a.esize 6 * 32) ∧ a.has 3 0 (a.fbytes 3 (List.replicate 32 0#32)).length) ∧
    (let a := atOf wRope exec0
     dhOf (runSt [wRope] exec0 Tile.reset) 0 = 32 ∧ a.has 6 0 (a.esize 6 * 32) ∧ a.has 3 0 (a.esize 3 * 16) ∧
     a.has 3 0 (a.fbytes 3 (List.replicate 32 0#32)).length) := by unfold At.has; decide +kernel

/-- ACT function 0 copies its element (R242). -/
theorem test_act_copy : actOf 0 0xBF800000#32 0#32 = 0xBF800000#32 := by decide +kernel

/-- TablesAndSampling: a table of tier 1, the token's row and a bag; each mode with the entries it needs. -/
theorem test_tables_meet :
    (fullCtx.tables.find? (fun t => t.1 == bits (wEmbg 0) 47 40) = some (1, table) ∧ table.tier ≠ 2 ∧ table.tier ≠ 3 ∧ bits (wEmbg 0) 37 36 = 0 ∧
      bits (wEmbg 1) 37 36 = 1 ∧ (atOf (wEmbg 0) exec0).has 3 0 ((atOf (wEmbg 0) exec0).fbytes 3 [0#32, 0#32]).length) ∧
    (State.reset.kv.hot.contains (0, 1, 2) = false ∧ [(0, 1, 2)].contains (0, 1, 2) = true) ∧
    (let a := atOf (wSample 1) exec0
     bits (wSample 1) 39 38 = 1 ∧ a.has 3 0 (a.esize 3 * (8 * 32)) ∧ a.has 8 0 512 ∧ bits (wSample 2) 39 38 = 2 ∧ a.has 3 0 (8 * 64) ∧
     a.has 8 0 (natLe 4 0 ++ entryBytes (fzero false) []).length) ∧
    (usesDraw 0#32 1 [(3, 0x3F800000#32)] = false ∧ isZero 0#32 = true) := by unfold At.has; decide +kernel

/-- TablesAndSampling: a row of a tier-2 table, a row of a tier-3 table of another shard that has not come and whose shard is not fenced; a
draw that is needed, from the seed and from entropy; a final merge of two parts. -/
theorem test_tables2_meet :
    (let t2 : Table := { table with tier := 2, srcAddr := 0x1000 }
     let t3 : Table := { table with tier := 3, shards := 4 }
     ([(1, t2)].find? fun t => t.1 == bits (wEmbg 0) 47 40) = some (1, t2) ∧ ([(1, t3)].find? fun t => t.1 == bits (wEmbg 0) 47 40) = some (1, t3) ∧
       (atOf (wEmbg 0) exec0).x.discarded = false ∧ (∃ r ∈ [0, 1, 2, 3], shardOf 4 r ≠ t3.shard) ∧
       gatheredRow (runSt [wEmbg 0] exec0 Tile.reset) (atOf (wEmbg 0) exec0).ver 1 3 = none ∧
       (∀ r < 4, fencedRole (runSt [wEmbg 0] exec0 Tile.reset) r = false)) ∧
    (usesDraw 0x3F800000#32 2 [(3, 0x3F800000#32), (4, 0x3F800000#32)] = true ∧ bits (word 0x31 [(40, 1)]) 41 40 = 1 ∧
      (atOf (word 0x31 [(40, 1)]) exec0).c.replay = none ∧ bits (wSample 0) 41 40 = 0 ∧ bits (wSample 0) 39 38 = 0 ∧
      reqAt (runSt [wSample 0] exec0 Tile.reset) (slotFor (runSt [wSample 0] exec0 Tile.reset) 0 exec0.xr.req) = some req) := by decide +kernel

/-- KvAppendAndSelection: a staging page with room and a full one, a due flush, a KVAPP under way, and a selection of one page. -/
def stg (n : Nat) (due : Bool) : Staging := { page := 1, fill := n, keys := [], vals := [], flushDue := due, filler := 0 }
theorem test_kv_meet :
    (let a := atOf wKvapp exec0
     a.has 2 0 (2 * (1 * 32)) ∧ a.has 7 0 (2 * (1 * 32)) ∧ (kvappPairs wKvapp).map (fun p => pairOf (runSt [wKvapp] exec0 Tile.reset) 0 p.1 p.2) = [0] ∧
     direct { req with cls := 2 } 300 = true ∧ direct req0 300 = false ∧
     look ({ req0 with staging := [(0, some (stg 256 false))] } : Req).staging 0 = some (stg 256 false) ∧ (stg 255 false).fill < 256) ∧
    (flushStep (runSt [] exec0 Tile.reset) 0 = 0 ∧ (stg 256 true).flushDue = true) ∧
    (let e : Issued := { n := 4, pc := 0, opc := 0x20, reads := [], writes := [], done := false, bytes := [], pcie := 0 }
     kvappRunning (runSt [wKvapp] exec0 Tile.reset) { atOf wKvapp exec0 with x := { exec0 with issued := [e] } } 0 = true ∧
     kvappRunning (runSt [wKvidx] exec0 Tile.reset) (atOf wKvidx exec0) 0 = false) ∧
    (let a := atOf wKvidx exec0
     a.has 3 0 (a.esize 3 * (1 * 32)) ∧ a.has 8 0 (4 + 4 * 3)) ∧
    (let a := atOf wKvgath exec0
     attnRunning a 1 = false ∧ a.has 8 0 4 ∧ a.has 8 4 (4 * bits 3 10 0)) := by unfold At.has; decide +kernel

/-- A request of class 2 and one of class 0 whose page table of pair 0 lists one page of this count, carries kept or not. -/
def kvReq (cls n : Nat) (kc : List BF16) : Req :=
  { req with cls := cls, tables := [(0, [(1, { entry with count := n, kcarry := kc, full := decide (n = 256) })])] }
/-- The context runs this word for that request; page 1 of the pool is `page`. -/
def kvSt (w : Nat) (r : Req) : State :=
  let s := runSt [w] exec0 Tile.reset
  { s with reqs := [(0, some r)], kv := { s.kv with pages := [(1, some page)] } }

/-- KvAppendAndSelection: a slot that KVEVICT has yet to free; a staged position that is new and one the page holds; a direct position whose
page is the request's own, and one whose carries the entry still keeps; a flush of 256 rows; one whole page that a stream reads. -/
theorem test_kv2_meet :
    (let r := kvReq 2 44 [0#16]
     needOf (kvSt wKvapp r) r 0 300 = some 1 ∧ direct r 300 = true ∧ mustCopy (kvSt wKvapp r) ({ entry with kcarry := [0#16] }) = true ∧
       (findVec ((kvSt wKvapp r).updCtx 0 fun x => { x with inflight := [{ vec with bound := [{ slot := 0, pair := 0, page := 0 }] }] }) 0 2).map
         (fun v => decide (v.bound ≠ [])) = some true) ∧
    (let r := kvReq 2 44 []
     heldAlready r 0 299 = true ∧ heldAlready r 0 300 = false ∧ direct r 300 = true ∧ (300 : Nat) % 256 ≠ 255 ∧ (entryOf r 0 (300 / 256)).isSome = true ∧
       mustCopy (kvSt wKvapp r) entry = false ∧ (kvSt wKvapp r).page entry.slot = some page) ∧
    (let r := { kvReq 0 0 [] with staging := [(0, some { stg 44 false with page := 1 })] }
     heldAlready r 0 300 = false ∧ direct r 300 = false ∧ (300 : Nat) % 256 ≠ 0 ∧ look r.staging 0 = some { stg 44 false with page := 1 } ∧
       (entryOf r 0 (300 / 256)).isSome = true ∧ 256 ≤ (stg 256 true).fill ∧
       ({ vec with bound := [] } : Vec).bound = []) ∧
    (let r := kvReq 2 256 []
     let lst := natLe 4 1 ++ natLe 4 (1 + 256 * 2 ^ 14)
     bits (field lst 0 4) 10 0 = 1 ∧ bits (field lst 0 4) 20 16 = 0 ∧ bits (field (lst.drop 4) 0 4) 22 14 = 256 ∧ bits (field (lst.drop 4) 0 4) 13 0 = 1 ∧
       exec0.xr.cand = 0xFF ∧ bits wKvgath 23 21 = 0 ∧ bits wKvgath 20 15 = 0 ∧ look r.staging 0 = none ∧ (entryOf r 0 1).map (·.ash) = some false ∧
       (kvSt wKvgath r).page entry.slot = some page ∧ attnRunning (atOf wKvgath exec0) 1 = false) := by decide +kernel

/-- AttentionAndEviction: an open stream and none; queries, outputs and maxima within their panels; distributions and a tree. -/
def stream : Stream := { pair := 0, shape := 8, log2m := 0, part := 0, n := 1, pages := [1], elems := [(0, 5, List.replicate 32 0#32, List.replicate 32 0#32)] }
theorem test_attention_meet :
    (let a := atOf (wAttn 1) exec0
     look [(1, some stream)] (bits (wAttn 1) 41 40) = some stream ∧ bits (wAttn 1) 39 38 = 1 ∧ bits (wAttn 0) 39 38 = 0 ∧ bits (wAttn 2) 39 38 = 2 ∧
     bits (wAttn 3) 39 38 = 3 ∧ a.has 3 0 (a.esize 3 * 32) ∧ a.has 6 0 (a.fbytes 6 [0#32]).length ∧
     a.has 6 0 (a.fbytes 6 (List.replicate 32 0#32)).length ∧ a.has 6 (a.esize 6 * 64) (a.fbytes 6 [0#32]).length ∧ a.has 6 (a.esize 6 * 64) (a.esize 6 * 1)) ∧
    (look Tile.reset.streams 1 = none) ∧ ((atOf wKvevict exec0).c.replay = none) ∧
    ((atOf wVerify exec0).has 8 0 516 ∧ vec.xr.phase ≠ 2 ∧ ({ vec.xr with phase := 2, last := false } : ExecRec).last = false) := by
  unfold At.has; decide +kernel

/-- A VERIFY of the last node: its tree and every node's distribution are there. -/
theorem test_verify_meets :
    let x : Exec := { exec0 with xr := { vec.xr with phase := 2 } }
    let s := { runSt [wVerify] x Tile.reset with cmds := [{ rcmd 0x43 [] with phase := .running, cands := [] }] }
    treeOf s { atOf wVerify x with x := x } = some [] ∧ (∀ i, i ≤ ([] : List Cand).length → i = 0) ∧ req.draft = none := by
  refine ⟨by decide +kernel, fun i h => Nat.le_zero.1 h, rfl⟩

/-- AttentionAndEviction: a verification that ends its tree, with every distribution kept and one missing; a full staging page still to be
flushed; a bound page. -/
theorem test_verify2_meets :
    let x : Exec := { exec0 with xr := { vec.xr with phase := 2, last := true } }
    let one : Cand := { token := 6, qprob := 0x3F800000#32, parent := 0xFF }
    let s (r : Req) := { runSt [wVerify] x Tile.reset with reqs := [(0, some r)], cmds := [{ rcmd 0x43 [] with phase := .running, cands := [one] }] }
    let both : Req := { req with dists := [(0, [(6, 0x3F800000#32)]), (1, [])], staging := [(0, some (stg 256 true))] }
    treeOf (s both) { atOf wVerify x with x := x } = some [one] ∧ (∀ i, i ≤ [one].length → ∃ e ∈ both.dists, e.1 = i) ∧
      (∃ i, i ≤ [one].length ∧ ∀ e ∈ ({ both with dists := [(0, [])] } : Req).dists, e.1 ≠ i) ∧
      (∃ e ∈ both.staging, ∃ g, e.2 = some g ∧ 256 ≤ g.fill) ∧
      (acceptPath [one] true (fun _ => 0#32) both.dists 8 0xFF (get [] both.dists 0) 0 []).1 = [0] ∧
      entryOf (kvReq 2 256 []) 0 1 = some { entry with count := 256 } := by
  refine ⟨by decide +kernel, ?_, ?_, ?_, by decide +kernel, by decide +kernel⟩
  · intro i h
    rcases Nat.le_one_iff_eq_zero_or_eq_one.1 h with rfl | rfl
    · exact ⟨_, List.mem_cons_self, rfl⟩
    · exact ⟨_, List.mem_cons_of_mem _ List.mem_cons_self, rfl⟩
  · exact ⟨1, Nat.le_refl _, by decide⟩
  · exact ⟨_, List.mem_cons_self, _, rfl, by decide⟩

/-! ## Arrays and the flue path -/

/-- FireSetsRun: a record of one block, a block index within it and beyond, a bank in use, a FIRE of one bank that a tile may run and one it
may not. -/
def qvMem : Mem := Mem.write [] (32 * 32 + 4) [1]
theorem test_fire_meets :
    (fireOps wFire = { qv := 1, blk := 0, g0 := 0, gn := 0, join := 1, mask := 1 } ∧ fireBanks (fireOps wFire) = [0] ∧ maskArrays 1 = [0] ∧
      fireOps wFirev = fireOps wFire) ∧
    (let s := runSt [wFire] exec0 { Tile.reset with mem := qvMem }
     let a := atOf wFire exec0
     a.has 1 0 16 ∧ field (a.bytesAt s 1 0 16) 4 4 = 1 ∧ 0 + 16 * (0 % 1) + 0 + 0 < 1 ∧
       a.has 1 0 (qvElems 1 + 64 * 1 + 8 * field (a.bytesAt s 1 0 16) 8 4)) ∧
    (let a := atOf (word 0x01 [(48, 1), (30, 1), (16, 1)]) exec0
     a.has 1 0 16 ∧ 1 ≤ (fireOps (word 0x01 [(48, 1), (30, 1), (16, 1)])).blk) ∧
    (0 ∈ fireBanks (fireOps wFire) ∧ fire0.arrays = [0]) ∧
    (let s := runSt [] exec0 { Tile.reset with fires := [(0, some { fire0 with slot := 0 })] }
     look (s.tile 10).fires 0 = some { fire0 with slot := 0 } ∧ s.clk.aclkOn = true ∧ ({ fire0 with slot := 0 } : Fire).slot < fire0.last ∧
       heldBack (s.tile 10) = false ∧ heldBack { s.tile 10 with held := 1 } = true ∧
       ((s.tile 10).fires.filterMap fun e => match e.2 with
        | none => none
        | some g => if g.same { fire0 with slot := 0 } then some (e.1, g) else none) = [(0, { fire0 with slot := 0 })]) := by
  unfold At.has; decide +kernel

/-- FireSetsRun: a PROMOTE of bank 0 that has issued and not completed; two FIREs of one array, the earlier one running; a bank with a
window that has room; a block with and without Z. -/
theorem test_fire2_meets :
    (let e : Issued := { n := 3, pc := 0, opc := 0x09, reads := [], writes := [], done := false, bytes := [], pcie := 0 }
     let a : At := { atOf wPromote exec0 with x := { exec0 with issued := [e] } }
     promoting a [0] = true ∧ promoting a [1] = false ∧ promoting (atOf wFire exec0) (fireBanks (fireOps wFire)) = false) ∧
    (let f : Fire := { fire0 with slot := 0 }
     let g : Fire := { f with issue := 4 }
     f.running = true ∧ fire0.running = false ∧ f.before g = true ∧ g.before f = false ∧ f.overlaps g = true ∧ f.overlaps { g with arrays := [1] } = false ∧
       0 + 16 * f.arrays.length ≤ 2 ^ 36) ∧
    (qvActs (Mem.write [] (32 * 32 + 16) [16]) (32 * 32) 0 0 = 0 ∧ qvZ (Mem.write [] (32 * 32 + 16) [16]) (32 * 32) 0 = true ∧
      qvZ [] (32 * 32) 0 = false ∧ qvActs (Mem.write [] (32 * 32 + qvElems 1) [1]) (32 * 32) 0 0 ≠ 0) := by decide +kernel

/-- FIRE waits for a bank in use, and else its bank starts at slot 0. -/
theorem test_fire : ∃ t, exec (.fire 10) (runSt [wFire] exec0 { Tile.reset with mem := qvMem }) = .next t ∧
    (t.tile 10).fires.map (fun e => (e.1, e.2.map fun f => (f.slot, f.arrays))) = [(0, some (0, [0]))] := ⟨_, rfl, by decide +kernel⟩

/-- The digits of a row's data cells: a row of one 1-cell in set 0 agrees with itself (R60). -/
theorem test_row_digits : badSets (mkRow 1) = 0 ∧ badSets (mkRow (2 ^ 1023)) = 0 ∧ badSets 1 ≠ 0 := by decide +kernel

/-- A job of each kind for bank 0 of tile 10. -/
def job (k : FlueKind) : Job :=
  { kind := k, tile := 10, bank := 0, issue := fire0.tag, cls := 2, arrived := 0, arr := 0, fmt := 0, slot := 0, set := 0, acts := 1,
    levels := List.replicate 32 0, dataBad := false, row := 0, p := 2, ctx := 0, variant := 3, g0 := 0, gn := 0, q := [(0, 45)], outl := [],
    plane := 0, off := 0, half := 0 }
def flueSt (k : FlueKind) : State :=
  { runSt [] exec0 { Tile.reset with fires := [(0, some fire0)] } with flues := [(5, some (Flue.reset.setQueue k [job k]))] }

/-- Whether the first reading of set 0 of bank 0 of array 40 agrees with the tally, with these reads wrong. -/
def agreeRd (reads : List RowRead) (nth : Nat) : Bool :=
  decide ((trueLevels (setRows (flueSt .recompute) reads nth 40 0) 1 0 0).sum = trueTally (setRows (flueSt .recompute) reads nth 40 0) 1 0 0)
def badRd (n : Nat) : RowRead := { nth := n, row := 0, bits := 1 }

/-- FlueJobsAndReturns: one job of each kind; reads that agree, that fault, and that were read wrong once; results of this pass and another;
queues with room and without; a waiting tile. -/
theorem test_flue_meets :
    (∀ k ∈ [FlueKind.recompute, .outlier, .delta], nextJob (flueSt k) ((flueSt k).flue 5) = some (job k, false)) ∧
    (agreeRd [] 0 = true ∧ agreeRd [badRd 0] 0 = false ∧ faultRows (setRows (flueSt .recompute) [badRd 0, badRd 1] 1 40 0) 0 0 ≠ [] ∧
      faultRows (setRows (flueSt .recompute) [badRd 0] 1 40 0) 0 0 = [] ∧ faultRows (setRows (flueSt .recompute) [badRd 0] 2 40 0) 0 0 = []) ∧
    (takeResult 10 [.result 10 0 fire0.tag .outlier [(0, 4)]] = some ((0, fire0.tag, .outlier, [(0, 4)]), []) ∧
      look ((flueSt .outlier).tile 10).fires 0 = some fire0 ∧ ((flueSt .outlier).tile 10).backlog = [] ∧ fire0.tag ≠ fire0.tag + 1) ∧
    (((flueSt .outlier).flue 5).queue .outlier = [job .outlier] ∧ (1 : Nat) < queueSize .outlier ∧
      queueSize .recompute ≤ (List.replicate 64 (job .recompute)).length ∧ nextWaiting [3, 7] 5 = some 7 ∧ nextWaiting [3] 5 = some 3) := by
  refine ⟨by decide +kernel, by decide +kernel, ⟨rfl, rfl, rfl, by decide⟩, ?_⟩
  refine ⟨by decide +kernel, by decide +kernel, by decide +kernel, by decide +kernel, by decide +kernel⟩

/-- FlueChoosesQueues: an overdue head and none. -/
theorem test_flueOrder_meets :
    nextJob { flueSt .outlier with dev := { (st .service []).dev with now := 10000 } } ((flueSt .outlier).flue 5) = some (job .outlier, true) ∧
    (∀ q ∈ [((flueSt .outlier).flue 5).qRec, ((flueSt .outlier).flue 5).qOut, ((flueSt .outlier).flue 5).qDel], ∀ k, headOf q = some k →
      overdue (flueSt .outlier) k = false) ∧ ((flueSt .outlier).flue 5).qRec = [] ∧ ((flueSt .outlier).flue 5).qOut ≠ [] ∧
    overdue { flueSt .outlier with dev := { (st .service []).dev with now := 170 } } (job .outlier) = false ∧
    overdue { flueSt .outlier with dev := { (st .service []).dev with now := 171 } } (job .outlier) = true ∧
    ((flueSt .outlier).flue 5).owed = 0 := by
  refine ⟨by decide +kernel, ?_, by decide +kernel, by decide +kernel, by decide +kernel, by decide +kernel, by decide +kernel⟩
  intro q hq k hk
  have : q = [] ∨ q = [job .outlier] := by
    simp only [List.mem_cons, List.not_mem_nil, or_false] at hq
    rcases hq with rfl | rfl | rfl <;> first | exact .inl rfl | exact .inr rfl
  rcases this with rfl | rfl
  · simp [headOf] at hk
  · obtain rfl : job .outlier = k := by simpa [headOf] using hk
    decide +kernel

/-- The worked example of R145 in a context whose variant 3 holds it: two delta entries on output column 77. -/
def exampleSeg : List Delta := [{ row := 130, col := 77, d := -2 }, { row := 131, col := 77, d := 1 }]
theorem test_delta_example :
    let s := { flueSt .delta with
      ctxs := [(0, some { ctx (some (image [])) with variants := [(3, { nent := 2, bytes := 72, segs := [(0, exampleSeg)] })] })],
      flues := [(5, some (Flue.reset.setQueue .delta
        [{ job .delta with fmt := 1, g0 := 2, q := [(130, 45 * 4096)], outl := [(131, 1200 * 2048)] }]))] }
    ∃ t, exec (.delta 5 false) s = .next t ∧
      t.flits = [.result 10 0 fire0.tag .delta [(77, -2 * 45 * 4096 + 1200 * 2048)]] := ⟨_, rfl, by decide +kernel⟩

/-- FlueJobsAndReturns: a segment the cache holds, with and without a parity error, and one it does not. -/
theorem test_cache_meets :
    let s := { flueSt .delta with
      ctxs := [(0, some { ctx (some (image [])) with variants := [(3, { nent := 2, bytes := 72, segs := [(0, exampleSeg)] })] })],
      flues := [(5, some { (Flue.reset.setQueue .delta [job .delta]) with cache := [(0, 3, 0)] })] }
    (jobSeg s (job .delta)).isSome = true ∧ ((s.tile 10).ctx).elim 0 (·.2) = 0 ∧ (s.flue 5).cache.contains (0, 3, 4 * 0 + 0) = true ∧
      ((flueSt .delta).flue 5).cache.contains (0, 3, 0) = false := by decide +kernel

/-- RepairAndWindows: a report of this pass and another; one row to repair, repaired before and not; a scrub of a good and a bad row; windows. -/
theorem test_repair_meets :
    (takeStorage 10 [.storage 10 0 0 fire0.tag [(7, 1)]] = some ({ arr := 0, bank := 0, issue := fire0.tag, rows := [(7, 1)] }, []) ∧
      ((flueSt .outlier).tile 10).repairs = []) ∧
    (look Arr.reset.repairs 7 = none ∧ look [(7, some 0)] 7 = some 0 ∧ 5999999999 < 0 + 6000000000 ∧ 0 + 6000000000 ≤ 6000000000) ∧
    (Arr.reset.scrubRow = 0 ∧ (0 < 1024 ∨ Cal.reset.group16 = false) ∧ badSets (rowOf (st .service []) 0 0) = 0 ∧
      badSets ((readOf [{ nth := 0, row := 0, bits := 1 }] 0 0).getD 0) ≠ 0) ∧
    ((repairRow (st .service []) 40 7 0 0 none).2 = true ∧ (repairRow (st .service []) 40 7 0 0 (some 1)).2 = false) ∧
    (2 ^ 36 ≤ ({ Arr.reset with wChecks := 2 ^ 36 } : Arr).wChecks ∧ Arr.reset.wFails ≤ 1024 ∧ 1024 < ({ Arr.reset with wFails := 1025 } : Arr).wFails ∧
      Arr.reset.judging = false ∧ Arr.reset.recal = false ∧ Arr.reset.judgeNext = false) := by decide +kernel

/-- Tile 10 waits for the repair of row 7 of its array 0, which was repaired at this tick. -/
def repairSt (at_ : Option Nat) (now : Nat) (f : Fire) : State :=
  let s := runSt [] exec0 { Tile.reset with
    repairs := [{ arr := 0, bank := 0, issue := fire0.tag, rows := [(7, 1)] }], fires := [(0, some f)] }
  { s with dev := { s.dev with now := now }, arrs := [(40, some { Arr.reset with repairs := [(7, at_)] })] }

/-- RepairAndWindows: a row never repaired, repaired 60 s ago and one tick less; a read-back of the golden row; a FIRE of the report's
tag, one begun again since, and none; the calibration pattern in group 16 and not. -/
theorem test_repair2_meets :
    (((repairSt none 0 fire0).tile (40 / 4)).repairs.find? fun r => r.arr == 40 % 4) = some { arr := 0, bank := 0, issue := fire0.tag, rows := [(7, 1)] } ∧
    ([(7, 1)].map (·.1)).Nodup ∧ look ((repairSt none 0 fire0).arr 40).repairs 7 = none ∧ look ((repairSt (some 0) 6000000000 fire0).arr 40).repairs 7 = some 0 ∧
    0 + 6000000000 ≤ (repairSt (some 0) 6000000000 fire0).dev.now ∧ (repairSt (some 0) 5999999999 fire0).dev.now < 0 + 6000000000 ∧
    readOf [{ nth := 0, row := 7, bits := mkRow 0 }] 0 7 = some (mkRow (goldOf (repairSt none 0 fire0) 40 7)) ∧
    (fire0.disp = fire0.tag / 2 ^ 128 ∧ fire0.issue = fire0.tag % 2 ^ 64 ∧ { fire0 with pass := 1 }.disp = fire0.tag / 2 ^ 128 ∧
      { fire0 with pass := 1 }.tag ≠ fire0.tag) ∧
    calHolds ((st .maintenance []).updCal fun k => { k with group16 := true }) 40 = true ∧ calHolds (st .maintenance []) 40 = false := by decide +kernel

/-! ## Calibration, sweep and SELF_TEST -/

/-- FitTrims: the manual's worked example (R93), a slope whose GAIN_TRIM is out of range, and the ends of the OFFSET_TRIM range. -/
theorem test_fitTrims : trimsOf (1415 / 1000) (195075 / 100000) = some (91, 16798) ∧ trimsOf 1 0 = none ∧ trimsOf 1 2 = some (64, 16384) ∧
    trimsOf 3 2 = some (192, 16384) ∧ trimsOf (-1) 2 = some (-64, 16384) ∧ trimsOf 4 2 = none ∧ trimsOf 1 3 = none := by decide +kernel

def run0 : CalRun :=
  { ring := 0, seq := 1, sched := Sched.start 0 900 40000000 240000000, stage := 0, failed := [], retried := 0, passed := 0,
    trims := { conv := [], replica := [] }, maxDa := 0 }
def cals (d : DevSt) (opc : Nat) (r : Option CalRun) : State := (rdy d opc []).updCal fun k => { k with run := r }
def test0 : SelfTest :=
  { ring := 0, seq := 1, sched := Sched.start 0 900 0 32000000000, done1 := 1, done2 := 0, done3 := 0, done4 := 0, done5 := 0, done6 := 0 }
def tested (opc : Nat) (t : SelfTest) : State := { rdy .maintenance opc [] with test := some t }
/-- Sums of 65,536 codes a level on the nominal line, moved by `d` in all. -/
def lineMeas (d : Nat) : List LevelMeas := (List.range 65).map fun l => { sum := 65536 + d + 129024 * l, clipped := 0 }
def offLine : ConvMeas := { array := 5, conv := 7, m1 := lineMeas 0, m2 := lineMeas 8192 }

/-- CalibrationRuns: CAL_RUN against a SELF_TEST, a CAL_RUN and neither; a reference of 200 ppm and of 201; attempts that leave none, that
leave one, and the last; a line whose two fits agree and one whose fits do not. -/
theorem test_calRun_meets :
    ((tested 0x70 test0).test = some test0 ∧ (cals .maintenance 0x70 (some run0)).test = none ∧
      (cals .maintenance 0x70 (some run0)).cal.run = some run0 ∧ (cals .maintenance 0x70 none).cal.run = none ∧
      (cals .maintenance 0x70 none).dev.st = .maintenance ∧ clocked (cals .maintenance 0x70 (some run0)) = true) ∧
    ((∀ x ∈ (List.range 4).map (fun i => [200, -200][i]?.getD 0), |x| ≤ (200 : Int)) ∧
      ((List.range 4).map fun i => [0, -201][i]?.getD (0 : Int))[1]? = some (-201)) ∧
    ((afterAttempt { run0 with stage := 1 } [offLine]).failed = [(5, 7, 0)] ∧ (afterAttempt { run0 with stage := 1 } []).failed = [] ∧
      (afterAttempt { run0 with stage := 3, failed := [(5, 7, 0)] } [offLine]).stage = 4 ∧
      (afterAttempt { run0 with stage := 3, failed := [(5, 7, 0)] } [offLine]).failed = [(5, 7, 0)]) ∧
    (attemptReason nomFit nomFit = none ∧ attemptReason nomFit { nomFit with a := 1 + 1 / 20 } = none) ∧
    ((cals .maintenance 0x70 (some { run0 with stage := 4 })).cal.run = some { run0 with stage := 4 } ∧
      findCmd (cals .maintenance 0x70 (some { run0 with stage := 4 })) 0 1 = some (cmd 0x70 [])) := by decide +kernel

theorem test_calRun_ready : Ready (cals .maintenance 0x70 none) 0x70 0 1 (cmd 0x70 []) ∧ Ready (tested 0x70 test0) 0x70 0 1 (cmd 0x70 []) ∧
    Ready (cals .maintenance 0x70 (some run0)) 0x70 0 1 (cmd 0x70 []) :=
  ⟨⟨rfl, rfl, rfl, rfl, rfl⟩, ⟨rfl, rfl, rfl, rfl, rfl⟩, ⟨rfl, rfl, rfl, rfl, rfl⟩⟩

/-- CalibrationRuns: a line whose fit is good; four levels left out and five; 1% of the samples clipped and more; two points that fix a line;
offsets and levels at their bounds. -/
theorem test_fits_meet :
    (fitReason (fitOf 65536 (lineMeas 0)) = none ∧ (fitOf 65536 (lineMeas 0)).leftOut = 0 ∧
      (fitOf 65536 ((lineMeas 0).map fun m => { m with clipped := 655 })).leftOut = 0 ∧
      (fitOf 65536 ((lineMeas 0).map fun m => { m with clipped := 656 })).leftOut = 65 ∧
      fitReason { nomFit with leftOut := 4 } = none ∧ fitReason { nomFit with leftOut := 5 } ≠ none ∧ fitReason { nomFit with nonlinear := true } ≠ none) ∧
    (leastSquares [(0, 1), (2, 5)] = (1, 2) ∧
      (2 : Rat) * ([((0 : Nat), (1 : Rat)), (2, 5)].map fun p => (p.1 : Rat) * p.1).sum ≠
        ([((0 : Nat), (1 : Rat)), (2, 5)].map fun p => (p.1 : Rat)).sum * ([((0 : Nat), (1 : Rat)), (2, 5)].map fun p => (p.1 : Rat)).sum) ∧
    ((calActs 63 64).testBit ((63 + 63) % 64) = true ∧ (calActs 63 1).testBit ((63 + 1) % 64) = false ∧ (calActs 0 0).testBit 0 = false) := by
  decide +kernel

def rec0 (n : Nat) : CalRec := { magic := calMagic, stepping := 0xB1, check := 0, seq := n, pkgUid := State.reset.dev.pkgUid, calCount := 1, calSec := 0, trims := { conv := [], replica := [] } }
def committing (a b : Option CalRec) : State :=
  (rdy .service 0x72 []).updCal fun k => { k with run := none, lastRun := some { conv := [], replica := [] }, areaA := a, areaB := b }
def bgAt (p : Nat) (a : Arr) : State := { (rdy .service 0x71 []).updCal (fun k => { k with bgPos := p }) with arrs := [(5, some a)] }

/-- CalibrationRecordsAndBackground: both areas valid, one, none; a dwell of a position and of the last; a fit that moves the trims by an
eighth, one 16 away and one 17 away; a recalibration's dwell and its last. -/
theorem test_calRecords_meets :
    ((committing (some (rec0 3)) (some (rec0 2))).cal.areaA = some (rec0 3) ∧ (committing (some (rec0 3)) none).cal.areaB = none ∧
      (committing none none).cal.areaA = none ∧ (committing none none).cal.lastRun = some { conv := [], replica := [] } ∧
      (rec0 3).pkgUid = (committing none none).dev.pkgUid ∧ (committing none none).cal.run = none ∧
      (cals .service 0x72 (some run0)).cal.run = some run0 ∧ (cals .service 0x72 none).cal.lastRun = none) ∧
    (clocked (bgAt 0 Arr.reset) = true ∧ (bgAt 0 Arr.reset).dev.st = .service ∧ posConv 511 = 511 ∧ posConv 512 = 608 ∧
      (bgAt 607 Arr.reset).cal.bgPos = 607 ∧ ((bgAt 0 Arr.reset).arr 5).recal = false ∧ ((bgAt 0 Arr.reset).arr 5).recalPos = 0 ∧
      (rdy .maintenance 0x71 []).dev.st ≠ .service) ∧
    (bgTrims Arr.reset { nomFit with a := 1 + 16 / 64 } = some (80, 16644) ∧ bgMove Arr.reset 0 { nomFit with a := 1 + 16 / 64 } = some (66, 16644) ∧
      bgMove Arr.reset 0 { nomFit with a := 1 + 17 / 64 } = none ∧ bgTrims Arr.reset { nomFit with b := 0 } = none) ∧
    (((bgAt 0 { Arr.reset with recal := true, recalPos := 607 }).arr 5).recal = true ∧
      ((bgAt 0 { Arr.reset with recal := true, recalPos := 607 }).arr 5).recalPos = 607) := by decide +kernel

theorem test_calRecords_ready : Ready (committing none none) 0x72 0 1 (cmd 0x72 []) ∧ Ready (rdy .service 0x71 []) 0x71 0 1 (cmd 0x71 []) :=
  ⟨⟨rfl, rfl, rfl, rfl, rfl⟩, rdy_ready _ _ _ nofun nofun⟩

/-- CHECK covers every byte of a record but its own (R107), so every record has a whole one of its fields. -/
theorem exists_checked (r : CalRec) : ∃ q : CalRec, q.magic = r.magic ∧ q.pkgUid = r.pkgUid ∧ q.seq = r.seq ∧ q.check = crc32 (recordBody q) := by
  obtain ⟨c, hc⟩ : ∃ c, c = crc32 (recordBody r) := ⟨_, rfl⟩
  have hb : recordBody { r with check := c } = recordBody r := by cases r; simp only [recordBody]
  refine ⟨{ r with check := c }, rfl, rfl, rfl, ?_⟩
  rw [hb]; exact hc

theorem recordValid_whole (s : State) (r : CalRec) (h : r.magic = calMagic) (k : r.pkgUid = s.dev.pkgUid) (c : r.check = crc32 (recordBody r)) :
    recordValid s r = true := by
  unfold recordValid
  rw [h, k, ← c, beq_self_eq_true, beq_self_eq_true, beq_self_eq_true]; rfl

theorem recordValid_magic (s : State) (r : CalRec) (h : r.magic ≠ calMagic) : recordValid s r = false := by
  unfold recordValid
  rw [beq_false_of_ne h, Bool.false_and, Bool.false_and]

/-- CalibrationRecordsAndBackground: a record that is valid in its area, one that is not, and an empty area; a commit that runs and whose
record is whole with its SEQ; the column the spare takes over, in and out of SERVICE. -/
theorem test_calRecords2_meets (n : Nat) :
    (∃ y : CalRec, y.seq = n ∧ (∀ s : State, s.dev.pkgUid = State.reset.dev.pkgUid → validRec s (some y) = some y) ∧
      ∀ (c : Cmd) (x : CalRec) (s : State), c = { cmd 0x72 [] with phase := .running } → x = { y with seq := 5 } →
        s = (st .service [c]).updCal (fun k => { k with areaB := some x, commit := some (true, n) }) →
        Running s 0x72 0 1 c ∧ s.cal.commit = some (true, n) ∧ s.cal.areaB = some x ∧ { x with seq := n } = y ∧ recordValid s y = true) ∧
    (∀ s : State, validRec s (some { rec0 n with magic := 0 }) = none ∧ validRec s none = none) ∧
    ((bgAt 511 Arr.reset).cal.bgPos < 512 ∧ ((bgAt 511 Arr.reset).arr 5).recalPos = 0 ∧ standIn (takeover (bgAt 511 Arr.reset) 5) 511 = 608 ∧
      standIn (takeover (bgAt 511 Arr.reset) 5) 510 = 510 ∧ takeover (bgAt 512 Arr.reset) 5 = none ∧ takeover (rdy .maintenance 0x71 []) 5 = none) := by
  obtain ⟨y, h1, h2, h3, h4⟩ := exists_checked (rec0 n)
  refine ⟨⟨y, h3, fun s h => ?_, ?_⟩, fun s => ⟨?_, rfl⟩, by decide +kernel⟩
  · exact Option.filter_eq_some_iff.2 ⟨rfl, recordValid_whole s y h1 (h2.trans h.symm) h4⟩
  · rintro c x s rfl rfl rfl
    refine ⟨⟨rfl, rfl, rfl, rfl⟩, rfl, rfl, ?_, recordValid_whole _ y h1 h2 h4⟩
    cases y; cases h3; rfl
  · refine Option.filter_eq_none_iff.2 fun x h => ?_
    obtain rfl := Option.some.inj h
    rw [recordValid_magic s _ (by show (0 : Nat) ≠ calMagic; decide)]; exact Bool.false_ne_true

def swept (r : Nat) : State := { rdy .service 0x81 [] with arrs := [(5, some { Arr.reset with round := r, digests := [(2, 9)] })] }

/-- SweepAndSelfTest: units of the three kinds, a round 3 and 4 ahead of the partner's, a digest that agrees and one that does not, a
sub-interval; SELF_TEST accepted, refused twice; its phases, clean, faulty and the last unit of all. -/
theorem test_sweep_meets :
    (sweepRuns (swept 3) = true ∧ 20479 < unitCount 0 ∧ 5119 < unitCount 1 ∧ 127 < unitCount 2 ∧
      roundsOf (swept 3) 0 5 < roundsOf (swept 3) 0 (partnerOf 0 5) + 4 ∧ roundsOf (swept 4) 0 (partnerOf 0 5) + 4 ≤ roundsOf (swept 4) 0 5 ∧
      roundsOf (swept 3) 1 0 < roundsOf (swept 3) 1 (partnerOf 1 0) + 4 ∧ roundsOf (swept 3) 2 0 < roundsOf (swept 3) 2 (partnerOf 2 0) + 4) ∧
    (digestOf (swept 3) 0 5 2 = 8 % 2 ^ 32 + 1 ∧ digestOf (swept 3) 0 5 2 ≠ 7 % 2 ^ 32 + 1 ∧ (swept 3).err.active = none) ∧
    ((rdy .service 0x81 []).test = none ∧ (rdy .service 0x81 []).cal.run = none) ∧
    ((cals .maintenance 0x80 (some run0)).cal.run = some run0 ∧ (cals .maintenance 0x80 none).dev.st = .maintenance ∧
      (tested 0x80 test0).test = some test0) ∧
    (clocked (tested 0x80 test0) = true ∧ findCmd (tested 0x80 test0) 0 1 = some (cmd 0x80 []) ∧ test0.doneOf 2 = 0 ∧ 0 < phaseUnits 2 ∧ 0 < test0.done1 ∧
      (test0.bump 2).over_ = false ∧
      (let t := { test0 with done1 := 20480, done2 := 20480, done3 := 25728, done4 := 5120, done5 := 1 }
       (t.bump 6).over_ = true ∧ t.doneOf 6 = 0 ∧ 0 < phaseUnits 6) ∧
      (let u := { tested 0x80 { test0 with done1 := 40 } with tiles := [(10, some { Tile.reset with ctx := some (0, 0) })] }
       loadedArray u 40 = true ∧ ({ test0 with done1 := 40 }).doneOf 1 = 40 ∧ ({ test0 with done1 := 40 }.bump 1).over_ = false) ∧
      (let t := { test0 with done1 := 20480, done2 := 20480, done3 := 25727 }
       t.doneOf 3 = 25727 ∧ 25727 < phaseUnits 3 ∧ min 25727 20479 < t.done2) ∧ (3 : Nat) ≠ test0.doneOf 2) := by decide +kernel

theorem test_sweep_ready : Ready (rdy .service 0x81 []) 0x81 0 1 (cmd 0x81 []) ∧ Ready (tested 0x80 test0) 0x80 0 1 (cmd 0x80 []) ∧
    Ready (cals .maintenance 0x80 (some run0)) 0x80 0 1 (cmd 0x80 []) :=
  ⟨rdy_ready _ _ _ nofun nofun, ⟨rfl, rfl, rfl, rfl, rfl⟩, ⟨rfl, rfl, rfl, rfl, rfl⟩⟩

/-- A state whose array 5 and its partner have run this many rounds, with a digest under way to array 5. -/
def digestSt (r d : Nat) : State := { swept r with flits := [.digest 0 5 2 d] }

/-- Without a calibration the rows of group 16 hold good weights of the seed. -/
theorem test_group16 : ∀ e ∈ group16 (swept 3) 5, badSets e.2 = 0 := group16_good _ _ (by decide)

/-- SweepAndSelfTest: idle units of the three kinds, a tile that runs an execution; a round of 16 slots whose window has room; a round that
a set ends; a digest of a round that has run, before it has, equal and unequal; rounds of a pass of 64. -/
theorem test_sweep2_meets :
    (unitIdle (swept 3) 0 5 = true ∧ unitIdle (swept 3) 1 0 = true ∧ unitIdle (swept 3) 2 0 = true ∧ unitIdle (runSt [] exec0 Tile.reset) 1 10 = false ∧
      ((swept 3).arr 5).wChecks + 256 ≤ 2 ^ 36) ∧
    (nextDigest (digestSt 3 8) 0 5 = some (2, 8, .digest 0 5 2 8) ∧ mayArrive (digestSt 3 8) (.digest 0 5 2 8) = true ∧
      2 < roundsOf (digestSt 3 8) 0 5 ∧ digestOf (digestSt 3 8) 0 5 2 = 8 + 1 ∧ digestOf (digestSt 3 7) 0 5 2 ≠ 7 + 1 ∧
      digestOf (digestSt 3 7) 0 5 2 ≠ 0 ∧ (digestSt 3 7).err.active = none ∧ nextDigest (swept 3) 0 5 = none) ∧
    ((sweepSlots ((swept 3).updArr 5 fun a => { a with wChecks := 0 }) 5 3 15 []).2 = false) ∧
    ((cals .maintenance 0x81 (some run0)).cal.group16 = false ∧ ((cals .maintenance 0x81 (some run0)).updCal fun k => { k with group16 := true }).cal.group16 = true ∧
      (64 : Nat) ≤ 63 + 1) := by decide +kernel

/-! ## The whole device -/

/-- STATE_SET with this target and TABLE_GIB. -/
def sset (d : DevSt) (target gib : Nat) : State := rdy d 0xB1 (natLe 1 target ++ natLe 1 0 ++ natLe 2 gib)
def ssetC (target gib : Nat) : Cmd := cmd 0xB1 (natLe 1 target ++ natLe 1 0 ++ natLe 2 gib)

/-- DeviceStatesAndPower: the current state, a new TABLE_GIB, MAINTENANCE to SERVICE with and without trims, SERVICE to MAINTENANCE alone and
beside another service command, to SLEEP, waking, and a target that is not permitted. -/
theorem test_deviceStates_meet :
    ((ssetC 4 0xFFFF).p 0 1 = 4 ∧ (ssetC 4 0xFFFF).p 2 2 = 0xFFFF ∧ (ssetC 3 40).p 2 2 = 40 ∧ (sset .service 4 0xFFFF).dev.st.code = 4 ∧
      (sset .maintenance 3 40).dev.st = .maintenance ∧ anyCtx (sset .maintenance 3 40) = false) ∧
    ((sset .maintenance 4 0xFFFF).cal.source = 0 ∧ ((sset .maintenance 4 0xFFFF).updCal fun k => { k with source := 2 }).cal.source ≠ 0 ∧
      (sset .maintenance 4 0xFFFF).cal.run = none ∧ (sset .maintenance 4 0xFFFF).test = none) ∧
    (serviceLeft (putCmd (sset .service 3 0xFFFF) { ssetC 3 0xFFFF with phase := .draining }) { ssetC 3 0xFFFF with phase := .draining } = false ∧
      (let s := st .service [ssetC 3 0xFFFF, { cmd 0x40 [] with pkt := pkt 0x40 2 [], order := 1 }]
       serviceLeft (putCmd s { ssetC 3 0xFFFF with phase := .draining }) { ssetC 3 0xFFFF with phase := .draining } = true)) ∧
    (anyChimney (sset .service 5 0xFFFF) = false ∧ (∀ d ∈ (sset .service 5 0xFFFF).cmds, d.order = (ssetC 5 0xFFFF).order) ∧
      ({ sset .service 6 0xFFFF with host := { (sset .service 6 0xFFFF).host with aspmL1 := true } } : State).host.aspmL1 = true) ∧
    ((sset .sleep 3 0xFFFF).dev.st = .sleep ∧ ((3 : Nat) ≠ DevSt.sleep.code) ∧ (5 : Nat) ≠ DevSt.maintenance.code ∧ (2 : Nat) ≠ DevSt.service.code) ∧
    (clocked ((sset .deepSleep 4 0xFFFF).updDev fun d => { d with wake := true }) = true) := by decide +kernel

/-- DeviceStatesAndPower: another command outstanding on the way to sleep, a CAL_RUN and a SELF_TEST under way in MAINTENANCE with trims in
force. -/
theorem test_stateBusy_meets :
    (let s := st .service [ssetC 5 0xFFFF, { cmd 0x71 [] with pkt := pkt 0x71 2 [], order := 1 }]
     ∃ d ∈ s.cmds, d.order ≠ (ssetC 5 0xFFFF).order) ∧
    (((sset .maintenance 4 0xFFFF).updCal fun k => { k with source := 2, run := some run0 }).cal.run = some run0 ∧
      ({ sset .maintenance 4 0xFFFF with test := some test0 } : State).test = some test0) := by decide +kernel

theorem test_deviceStates_ready : Ready (sset .service 3 0xFFFF) 0xB1 0 1 (ssetC 3 0xFFFF) ∧ Ready (sset .maintenance 4 0xFFFF) 0xB1 0 1 (ssetC 4 0xFFFF) ∧
    Ready (sset .sleep 3 0xFFFF) 0xB1 0 1 (ssetC 3 0xFFFF) ∧ Ready (rdy .service 0xB0 (natLe 2 450)) 0xB0 0 1 (cmd 0xB0 (natLe 2 450)) :=
  ⟨rdy_ready _ _ _ nofun nofun, rdy_ready _ _ _ nofun nofun, rdy_ready _ _ _ nofun nofun, rdy_ready _ _ _ nofun nofun⟩

/-- POWER_DOWN alone, beside another command, and outside MAINTENANCE. -/
theorem test_powerDown_meets :
    Ready (rdy .maintenance 0xB2 []) 0xB2 0 1 (cmd 0xB2 []) ∧ Ready (rdy .service 0xB2 []) 0xB2 0 1 (cmd 0xB2 []) ∧
    (rdy .service 0xB2 []).dev.st ≠ .maintenance ∧
    (∀ e ∈ (putCmd (rdy .maintenance 0xB2 []) { cmd 0xB2 [] with phase := .draining }).cmds, e.order = 0) ∧
    (∃ e ∈ (putCmd (st .maintenance [cmd 0xB2 [], { cmd 0x71 [] with pkt := pkt 0x71 2 [], order := 1 }])
      { cmd 0xB2 [] with phase := .draining }).cmds, e.order ≠ 0) :=
  ⟨rdy_ready _ _ _ nofun nofun, rdy_ready _ _ _ nofun nofun, by decide, by decide +kernel, by decide +kernel⟩

/-- A command on ring 0 that names command 1, a running FW_STAGE with this image, from ring 0 with SEQ 2. -/
def opC (opc ring seq : Nat) : Cmd := { cmd opc (natLe 4 ring ++ natLe 4 seq) with pkt := pkt opc 2 (natLe 4 ring ++ natLe 4 seq), order := 1 }
def stageC (len : Nat) (ph : Phase) : Cmd := { cmd 0xF0 (natLe 8 0x40000 ++ natLe 8 len) with phase := ph }
def opSt (opc ring seq : Nat) : State := st .service [stageC 112 .running, opC opc ring seq]

/-- LongOperationsAndFirmware: targets that are no ring, no command, no long operation, and one that runs. -/
theorem test_longOps_meet :
    (Ready (opSt 0xE0 0 1) 0xE0 0 2 (opC 0xE0 0 1) ∧ Ready (opSt 0xE1 0 1) 0xE1 0 2 (opC 0xE1 0 1) ∧ Ready (opSt 0xE1 9 1) 0xE1 0 2 (opC 0xE1 9 1)) ∧
    (look (opSt 0xE1 9 1).rings ((opC 0xE1 9 1).p 0 4) = none ∧ findCmd (opSt 0xE0 0 7) ((opC 0xE0 0 7).p 0 4) ((opC 0xE0 0 7).p 4 4) = none) ∧
    (ownsRing (opSt 0xE0 0 1) 0 ((opC 0xE0 0 1).p 0 4) = true ∧ (look (opSt 0xE0 0 1).rings ((opC 0xE0 0 1).p 0 4)).isSome = true ∧
      findCmd (opSt 0xE0 0 1) ((opC 0xE0 0 1).p 0 4) ((opC 0xE0 0 1).p 4 4) = some (stageC 112 .running) ∧
      isLong (stageC 112 .running).pkt = true ∧ isLong (opC 0xE0 0 2).pkt = false ∧
      findCmd (opSt 0xE0 0 2) ((opC 0xE0 0 2).p 0 4) ((opC 0xE0 0 2).p 4 4) = some (opC 0xE0 0 2)) ∧
    (let t := stageC 112 .running
     let u := finish (putCmd (opSt 0xE1 0 1) { opC 0xE1 0 1 with phase := .draining, position := t.position }) t stCancelled t.position
     findCmd u 0 1 = none) := by
  refine ⟨⟨⟨rfl, rfl, rfl, rfl, rfl⟩, ⟨rfl, rfl, rfl, rfl, rfl⟩, ⟨rfl, rfl, rfl, rfl, rfl⟩⟩, by decide +kernel, by decide +kernel, by decide +kernel⟩

/-- A firmware image of an empty body for stepping 0xB0. -/
def fwImage : List Byte := natLe 4 0x49574656 ++ natLe 1 1 ++ natLe 1 0 ++ natLe 1 1 ++ natLe 1 0 ++ natLe 4 0 ++ natLe 4 0 ++ natLe 96 0
def staged (b : List Byte) (ph : Phase) : State := (st .service [stageC b.length ph]).hostWrite 0x40000 b

/-- Images with a bad magic word and with a good layout, whose signature decides; FW_STAGE alone and beside another; FW_ACTIVATE with a
staged slot and without, with a context. -/
theorem test_firmware_meets :
    (Ready (staged fwImage .ready) 0xF0 0 1 (stageC 112 .ready) ∧ Running (staged fwImage .running) 0xF0 0 1 (stageC 112 .running)) ∧
    (∀ d ∈ (staged fwImage .ready).cmds, d.pkt.opc = 0xF0 → d.phase ≠ .running) ∧
    (∃ d ∈ ({ staged fwImage .ready with cmds := [stageC 112 .ready, { stageC 112 .running with order := 1, pkt := pkt 0xF0 2 [] }] } : State).cmds,
      d.pkt.opc = 0xF0 ∧ d.phase = .running) ∧
    (staged fwImage .running).hostRead 0x40000 112 = fwImage ∧ fwBad 0xB0 (natLe 112 0) = some 0 ∧
    (Config.sigOk fwImage = true → fwBad 0xB0 fwImage = none) ∧
    ((rdy .service 0xF1 []).dev.fwStaged = none ∧ ((rdy .service 0xF1 []).updDev fun d => { d with fwStaged := some 1 }).dev.fwStaged = some 1 ∧
      anyCtx (rdy .service 0xF1 []) = false ∧ anyCtx (ctxSt .service (xcmd 0xF1 []) (ctx none) req) = true) := by
  refine ⟨⟨⟨by decide +kernel, rfl, rfl, rfl, rfl⟩, ⟨by decide +kernel, rfl, rfl, rfl⟩⟩, by decide +kernel, by decide +kernel, by decide +kernel,
    by decide +kernel, ?_, by decide +kernel⟩
  intro h
  unfold fwBad
  dsimp only
  split
  · next o e => exact absurd (e.symm.trans (by decide +kernel : _ = none)) nofun
  · rw [h]; rfl

def cap0 : Capture := { buf := 0x50000, len := 1000, bytes := 128, records := 0, unmarked := 0, truncated := false, ords := [] }
/-- A REPLAY whose buffer's header has these first bytes. -/
def repSt (head : List Byte) (x : Ctx) : State :=
  { (ctxSt .service (xcmd 0xD2 (natLe 8 0x50000 ++ natLe 8 128)) x req).hostWrite 0x50000 (head ++ natLe (128 - head.length) 0) with reqs := [] }
def capHead (magic ver cx dg : Nat) : List Byte := natLe 4 magic ++ natLe 1 ver ++ natLe 1 0 ++ natLe 2 cx ++ natLe 8 dg
def repH (s : State) : List Byte := s.hostRead 0x50000 128

/-- CapturesAndReplay: a context that records and one that does not; a record that just fits and one too long; headers wrong in each
field, and one that matches, with and without an open request. -/
theorem test_captures_meet :
    ((ctx none).chimney = false ∧ (ctx none).capture = none ∧ ({ ctx none with capture := some cap0 }).capture = some cap0 ∧
      cap0.bytes + (24 + 848 + (8 - 848 % 8) % 8) ≤ cap0.len ∧ cap0.len < cap0.bytes + (24 + 849 + (8 - 849 % 8) % 8) ∧ cap0.truncated = false) ∧
    (field (repH (repSt (capHead 1 0x10 0 7) (ctx (some (image []))))) 0 4 ≠ 0x43455256) ∧
    (let h := repH (repSt (capHead 0x43455256 0x11 0 7) (ctx (some (image [])))); field h 0 4 = 0x43455256 ∧ field h 4 1 ≠ 0x10) ∧
    (let h := repH (repSt (capHead 0x43455256 0x10 1 7) (ctx (some (image []))))
     field h 0 4 = 0x43455256 ∧ field h 4 1 = 0x10 ∧ field h 6 2 ≠ (xcmd 0xD2 []).pkt.ctx) ∧
    (let h := repH (repSt (capHead 0x43455256 0x10 0 8) (ctx (some (image []))))
     field h 0 4 = 0x43455256 ∧ field h 4 1 = 0x10 ∧ field h 6 2 = (xcmd 0xD2 []).pkt.ctx ∧ field h 8 8 ≠ (image []).digest) ∧
    (let s := repSt (capHead 0x43455256 0x10 0 7) (ctx (some (image [])))
     field (repH s) 0 4 = 0x43455256 ∧ field (repH s) 4 1 = 0x10 ∧ field (repH s) 6 2 = (xcmd 0xD2 []).pkt.ctx ∧
       field (repH s) 8 8 = (image []).digest ∧ reqsOfCtx s 0 = [] ∧
       reqsOfCtx (ctxSt .service (xcmd 0xD2 []) (ctx none) req) 0 ≠ []) := by decide +kernel

theorem test_captures_ready : Ready (repSt (capHead 0x43455256 0x10 0 7) (ctx (some (image [])))) 0xD2 0 1 (xcmd 0xD2 (natLe 8 0x50000 ++ natLe 8 128)) ∧
    OnCtx (repSt (capHead 0x43455256 0x10 0 7) (ctx (some (image [])))) (xcmd 0xD2 (natLe 8 0x50000 ++ natLe 8 128)) (ctx (some (image []))) ∧
    Ready (ctxSt .service (xcmd 0xD0 []) (ctx none) req) 0xD0 0 1 (xcmd 0xD0 []) ∧
    Ready (ctxSt .service (xcmd 0xD1 []) { ctx none with capture := some cap0 } req) 0xD1 0 1 (xcmd 0xD1 []) :=
  ⟨⟨by decide +kernel, rfl, rfl, rfl, rfl⟩, ⟨by decide +kernel, rfl, rfl, rfl⟩, (ctxSt_ready .service _ _ _ _ nofun nofun).1, (ctxSt_ready .service _ _ _ _ nofun nofun).1⟩

/-! ## Chimneys -/

def port1 : Port := { Port.reset with st := .up, mode := 1, ver := 0x12, peer := 1 }
/-- Role 0, the crown, of a ring of four devices whose four direct ports are up. -/
def chim0 : Chim :=
  { Chim.reset with id := 9, n := 4, role := 0, dx := 4, dy := 1, dz := 1, portMask := 15, crown := 0, buddy := 1,
                    ports := List.replicate 4 port1 ++ List.replicate 4 Port.reset }
def chimSt (c : Chim) (cs : List Cmd) : State := { st .service cs with chim := c }
/-- CASCADE_JOIN of role 0 of a ring of `n`. -/
def joinC (n dx ports : Nat) : Cmd :=
  cmd 0x90 (natLe 8 9 ++ natLe 2 n ++ natLe 2 0 ++ natLe 1 0 ++ natLe 1 ports ++ natLe 2 0 ++ natLe 2 dx ++ natLe 2 1 ++ natLe 2 1 ++ natLe 2 0 ++ natLe 8 0)

/-- ChimneyMembershipAndPorts: joins that fit, whose dimensions do not multiply to N, and that leave a port out; in a chimney; leaving during
a join, with a chimney context and without; the crown and the buddy at the last role, one past it and oneself. -/
theorem test_membership_meets :
    (firstBad (joinChecks (joinC 4 4 15)) = none ∧ firstBad (joinChecks (joinC 4 3 15)) = some 40 ∧ firstBad (joinChecks (joinC 4 4 7)) = some 44 ∧
      inChimney (chimSt Chim.reset [joinC 4 4 15]) = false ∧ anyCtx (chimSt Chim.reset [joinC 4 4 15]) = false ∧ inChimney (chimSt chim0 []) = true ∧
      (maskPorts ((joinC 4 4 15).p 13 1)).contains 3 = true ∧ (maskPorts ((joinC 4 4 15).p 13 1)).contains 4 = false) ∧
    (({ chim0 with join := some (0, 1, 0) } : Chim).join.isSome = true ∧ chim0.join = none ∧ chimCtx (chimSt chim0 []) = none ∧
      (chimCtx { chimSt chim0 [] with ctxs := [(0, some { ctx none with chimney := true })] }).isSome = true) ∧
    ((cmd 0x92 (natLe 2 3)).p 0 2 < chim0.n ∧ chim0.n ≤ (cmd 0x92 (natLe 2 4)).p 0 2 ∧ (cmd 0x93 (natLe 2 0)).p 0 2 = chim0.role ∧
      (cmd 0x93 (natLe 2 3)).p 0 2 ≠ chim0.role ∧ (cmd 0x93 (natLe 2 3)).p 0 2 < chim0.n) := by decide +kernel

theorem test_membership_ready : Ready (chimSt Chim.reset [joinC 4 4 15]) 0x90 0 1 (joinC 4 4 15) ∧ Ready (chimSt chim0 [cmd 0x91 []]) 0x91 0 1 (cmd 0x91 []) ∧
    Ready (chimSt chim0 [cmd 0x92 (natLe 2 3)]) 0x92 0 1 (cmd 0x92 (natLe 2 3)) ∧ Ready (chimSt chim0 [cmd 0x93 (natLe 2 3)]) 0x93 0 1 (cmd 0x93 (natLe 2 3)) :=
  ⟨⟨rfl, rfl, rfl, rfl, rfl⟩, ⟨rfl, rfl, rfl, rfl, rfl⟩, ⟨rfl, rfl, rfl, rfl, rfl⟩, ⟨rfl, rfl, rfl, rfl, rfl⟩⟩

def ported (p : Port) : State := chimSt { chim0 with ports := [p] ++ List.replicate 3 port1 ++ List.replicate 4 Port.reset } []
def train (id role port lo hi : Nat) : TrainIn := { chimneyId := id, n := 4, topo := 0, role := role, port := port, minVer := lo, maxVer := hi }

/-- Ports in training, down and up; TRAIN frames from the right place at versions 1.2, 1.1 and none in common, and from elsewhere; a join 1 s
old and one tick younger; a switched port that is up. -/
theorem test_ports_meet :
    (linksRun (ported port1) = true ∧ (ported { port1 with st := .training }).chim.ports[0]? = some { port1 with st := .training } ∧
      (ported { port1 with st := .down }).chim.ports[0]?.map (·.st) = some .down ∧ (ported port1).chim.ports[0]?.map (·.st) = some .up) ∧
    (placed (ported { port1 with st := .training }) 0 = some (1, 2) ∧
      max (train 9 1 2 0x10 0x12).minVer 0x10 ≤ min (train 9 1 2 0x10 0x12).maxVer 0x12 ∧ min (train 9 1 2 0x10 0x11).maxVer 0x12 < 0x12 ∧
      min (train 9 1 2 0x13 0x14).maxVer 0x12 < max (train 9 1 2 0x13 0x14).minVer 0x10 ∧ (train 8 1 2 0x10 0x12).chimneyId ≠ (ported port1).chim.id) ∧
    (let j := { chim0 with join := some (0, 1, 0) }
     clocked (chimSt j [joinC 4 4 15]) = true ∧ findCmd (chimSt j [joinC 4 4 15]) 0 1 = some (joinC 4 4 15) ∧
       0 + 100000000 ≤ ((chimSt j []).updDev fun d => { d with now := 100000000 }).dev.now ∧
       ((chimSt j []).updDev fun d => { d with now := 99999999 }).dev.now < 0 + 100000000) ∧
    (upPort (ported { port1 with mode := 2 }) { port := 0, peer := 0xFFFF } = some { port1 with mode := 2 } ∧
      fencedRole (ported { port1 with mode := 2 }) 2 = false ∧ upPort (ported port1) { port := 0, peer := 0xFFFF } = some port1) := by decide +kernel

/-- Port 0 of a switched chimney, with this link to role 1. -/
def switched (x : Option Lnk) : State :=
  chimSt { chim0 with
    topo := 3, ports := [{ port1 with mode := 3 }] ++ List.replicate 7 Port.reset,
    links := (x.map fun y => (({ port := 0, peer := 1 } : LinkId), y)).toList } []

/-- ChimneyMembershipAndPorts: a switched port that is up, with no link to the role, with one that is down, and with one that works. -/
theorem test_switchedLinks_meet :
    (switched none).chim.ports[0]? = some { port1 with mode := 3 } ∧ linksRun (switched none) = true ∧ 2 ≤ ({ port1 with mode := 3 } : Port).mode ∧
    (train 9 1 2 0x10 0x12).chimneyId = (switched none).chim.id ∧ (train 9 1 2 0x10 0x12).n = (switched none).chim.n ∧
    max (train 9 1 2 0x10 0x12).minVer 0x10 ≤ min (train 9 1 2 0x10 0x12).maxVer 0x12 ∧
    (∀ e ∈ (switched (some { Lnk.reset with down := true })).chim.links, e.1 = { port := 0, peer := 1 } → e.2.down = true) ∧
    (∃ e ∈ (switched (some Lnk.reset)).chim.links, e.1 = { port := 0, peer := 1 } ∧ e.2.down = false) ∧
    (ported { port1 with st := .off }).chim.ports[0]?.map (·.st) = some .off ∧ (ported { port1 with st := .version }).chim.ports[0]?.map (·.st) = some .version := by
  decide +kernel

def lk : LinkId := { port := 0, peer := 0xFFFF }
def frame (ty dst lseq : Nat) : Frame :=
  { ftype := ty, flags := 0, dst := dst, src := 1, lseq := lseq, lack := 0xFFFF, step := 3, payload := natLe 8 0 }
def linked (x : Lnk) (inbox : List Frame) : State := chimSt { chim0 with links := [(lk, x)], inbox := inbox.map fun f => (lk, f) } []

/-- LinkLayer: frames with a good and a bad CRC, in and out of order, for this role and another; LINK with NAK, with NAK and the full flag
and without; a frame sent 8 times, 7 times, 20 µs ago; a full replay buffer and an empty one. -/
theorem test_linkLayer_meets :
    (upPort (linked Lnk.reset []) lk = some port1 ∧ frameCrcOk (frame 0x15 0 0).bytes = true ∧ frameOf (frame 0x15 0 0).bytes = frame 0x15 0 0 ∧
      frameTypeOk 0x15 = true ∧ frameTypeOk 0x17 = false ∧ frameCrcOk ((frame 0x15 0 0).bytes ++ [0]) = false ∧
      (frame 0x15 0 0).lseq = (lnkOf (ackTo (linked Lnk.reset []) lk 0xFFFF) lk).expect ∧
      (frame 0x15 0 1).lseq ≠ (lnkOf (ackTo (linked Lnk.reset []) lk 0xFFFF) lk).expect ∧
      lateShard (ackTo (linked Lnk.reset []) lk 0xFFFF) (frame 0x15 0 0) = false ∧ (0x11 : Nat) ≤ port1.ver) ∧
    ((1 : Nat).testBit 0 = true ∧ (1 : Nat).testBit 1 = false ∧ (3 : Nat).testBit 1 = true) ∧
    (let x : Lnk := { Lnk.reset with nextSeq := 1, replay := [(frame 0x15 1 0, 8, 0)] }
     (lnkOf (linked x []) lk).replay = [(frame 0x15 1 0, 8, 0)] ∧ (8 : Nat) ≤ 8 ∧ (7 : Nat) < 8 ∧ (linked x []).dev.now < 0 + 2000 ∧
       0 + 2000 ≤ ((linked x []).updDev fun d => { d with now := 2000 }).dev.now) ∧
    (portUp (linked Lnk.reset []) lk.port = true ∧
      portUp (linked { Lnk.reset with replay := List.replicate 256 (frame 0x15 1 0, 0, 0) } []) lk.port = true ∧
      (lnkOf (linked Lnk.reset []) lk).replay.length < 256 ∧ (lnkOf (linked Lnk.reset []) lk).waiting = [] ∧
      256 ≤ (lnkOf (linked { Lnk.reset with replay := List.replicate 256 (frame 0x15 1 0, 0, 0) } []) lk).replay.length) ∧
    (let s := linked Lnk.reset [frame 0x20 1 0]
     linksRun s = true ∧ transit s (frame 0x20 1 0) = true ∧ s.chim.inbox.contains (lk, frame 0x20 1 0) = true ∧
       overAux (taken s (frame 0x20 1 0)) 0x20 = false ∧
       (let a := chimSt { chim0 with inbox := [(lk, frame 0x40 1 0)], ports := List.replicate 6 port1 ++ List.replicate 2 { port1 with mode := 3 } } []
        overAux (taken a (frame 0x40 1 0)) 0x40 = true ∧ switchedLink (taken a (frame 0x40 1 0)) 1 = some { port := 7, peer := 1 })) := by
  decide +kernel

/-- LinkLayer: an Ethernet frame around a Skavel frame, one that is too short, one of another EtherType and one with a byte changed; nonzero
reserved bytes of a START, a DONE and a DATA; links of version 1.0, 1.1 and 1.2; a link of switched mode that has been down. -/
theorem test_etherFrames_meet :
    let f := (frame 0x15 0 0).bytes
    let w := etherOf (2 ^ 48 - 1) 8 f
    (f.length = 20 + field f 2 2 ∧ etherIn w = some f ∧ (frameIn port1 f) = some f ∧ frameIn { port1 with mode := 3 } w = some f) ∧
    ((w.take 63).length < 64 ∧ ((w.set 13 0).drop 12).take 2 ≠ [0x88#8, 0xB5#8] ∧
      field (w.set 0 0) ((w.set 0 0).length - 4) 4 ≠ crc32 ((w.set 0 0).take ((w.set 0 0).length - 4))) ∧
    (payloadOk 0x10 (natLe 2 0 ++ natLe 38 1) = false ∧ payloadOk 0x11 (natLe 2 0 ++ natLe 2 1) = false ∧ payloadOk 0x20 (natLe 3 0 ++ natLe 5 1) = false ∧
      payloadOk 0x10 (natLe 40 0) = true) ∧
    (linkVer (linked { Lnk.reset with ver := 0x11 } []) lk port1 = 0x11 ∧ linkVer (linked Lnk.reset []) lk port1 = 0x12 ∧
      linkVer (linked { Lnk.reset with ver := 0x10 } []) lk port1 < 0x11) ∧
    (upPort (switched (some Lnk.reset)) { port := 0, peer := 1 } = some { port1 with mode := 3 } ∧
      upPort (switched (some { Lnk.reset with down := true })) { port := 0, peer := 1 } = none ∧ (lnkOf (switched (some Lnk.reset)) { port := 0, peer := 1 }).down = false ∧
      portUp (switched (some Lnk.reset)) 0 = true) := by decide +kernel

/-- The route of R337: role 2 lies two steps away on the ring of four, the tie goes + over a free choice of the two ports that face +; with
one of them down the other takes it. -/
theorem test_route :
    (route (chimSt { chim0 with ports := [{ port1 with st := .down }] ++ List.replicate 3 port1 ++ List.replicate 4 Port.reset } []) 2 0 none).1 =
      some { port := 1, peer := 0xFFFF } := by decide +kernel

def cstep : CStep := mkStep 3 0 0 1 { vec.xr with req := 0 } [] [] false 0 0
def stepping (c : Chim) (f : Frame) : State :=
  { chimSt { c with inbox := [(lk, f)], steps := [cstep] } [cmd 0x41 []] with ctxs := [(0, some { ctx (some (image [])) with chimney := true })] }

/-- ChimneySteps: each frame arrived at the crown and at a member; a step at hand, unended and over its time limit. -/
theorem test_chimSteps_meet :
    (∀ ty ∈ [0x10, 0x11, 0x12, 0x13, 0x14, 0x15, 0x16, 0x20, 0x21, 0x30, 0x31, 0x32, 0x40, 0x41, 0x42, 0x50],
      linksRun (stepping chim0 (frame ty 0 0)) = true ∧ ((stepping chim0 (frame ty 0 0)).chim.inbox.find? (fun x =>
        x.2.ftype == ty && !transit (stepping chim0 (frame ty 0 0)) x.2)).map (·.2) = some (frame ty 0 0)) ∧
    (isCrown (stepping chim0 (frame 0x11 0 0)) = true ∧ isCrown (stepping { chim0 with crown := 1 } (frame 0x11 0 0)) = false ∧
      stepAt (stepping chim0 (frame 0x12 0 0)) 3 = some cstep ∧ cstep.xr.phase ≠ 2 ∧ stepAt (chimSt chim0 []) 3 = none ∧ cstep.aborting = false) ∧
    (missingDone (stepping chim0 (frame 0x11 0 0)) cstep ≠ [] ∧
      missingDone (stepping { chim0 with n := 1 } (frame 0x11 0 0)) { cstep with ended := true } = [] ∧
      cstep.started + 100 * chim0.timeoutUs ≤ (stepping chim0 (frame 0x11 0 0)).dev.now ∧
      (stepping { chim0 with timeoutUs := 1 } (frame 0x11 0 0)).dev.now < cstep.started + 100 * 1) ∧
    ((chimCtx (stepping chim0 (frame 0x11 0 0))).map (·.1) = some 0 ∧ [1, 1, 1, 1].length = chim0.n) ∧
    ((copyOf [] false []).same (copyOf [] true []) = true) := by decide +kernel

/-- A DONE that arrived is refused or not, whatever its fields. -/
theorem test_done (f : Frame) : let v := Config.fieldsOf 0x11 (f.payload.drop 4); v[0]?.getD 0 % 2 ≠ 1 ∨ v[0]?.getD 0 % 2 = 1 := by
  intro v; exact (em _).symm

/-- START frames of step 0 for a chimney context, one that has halted and one that is local; a refused DONE of a step at hand, and of one that
is being aborted; a COMMIT of a verification whose path this member has not seen. -/
theorem test_chimSteps2_meet :
    (let f : Frame := { frame 0x10 0 0 with step := 0, payload := natLe 40 0 }
     let s := stepping chim0 f
     linksRun s = true ∧ (s.chim.inbox.find? fun x => x.2.ftype == 0x10 && !transit s x.2).map (·.2) = some f ∧ f.step = 0 ∧
       (look s.ctxs (field f.payload 0 2)).map (fun x => (x.chimney, x.halted)) = some (true, false) ∧
       (look (s.updCtx 0 fun x => { x with halted := true }).ctxs (field f.payload 0 2)).map (·.halted) = some true ∧ (ctx none).chimney = false ∧
       (frame 0x10 0 0).step ≠ 0) ∧
    (stepAt (taken (stepping chim0 (frame 0x11 0 0)) (frame 0x11 0 0)) (frame 0x11 0 0).step = some cstep ∧
      ({ cstep with aborting := true } : CStep).aborting = true ∧ ({ cstep with nonfinite := true } : CStep).nonfinite = true) ∧
    (let x : CStep := { cstep with xr := { cstep.xr with phase := 2, last := true } }
     x.xr.phase = 2 ∧ x.xr.last = true ∧ x.path = [] ∧ x.token = none ∧ ({ x with path := [1] } : CStep).path ≠ []) ∧
    (tellHalts (stepping chim0 (frame 0x11 0 0))).chim.halts = [] := by decide +kernel

def beating (now : Nat) (crown : Nat) : State :=
  (chimSt { chim0 with crown := crown, beats := [(1, some 0)] } []).updDev fun d => { d with now := now }

/-- Heartbeats: at the crown and at a member, a role silent for 5 ms and one tick less, fenced and not. -/
theorem test_heartbeats_meet :
    (isCrown (beating 500000 0) = true ∧ isCrown (beating 500000 1) = false ∧ (beating 500000 0).chim.crown ≠ 0xFFFF ∧
      look (beating 500000 0).chim.beats 1 = some 0 ∧ 0 + 500000 ≤ (beating 500000 0).dev.now ∧ (beating 499999 0).dev.now < 0 + 500000 ∧
      1 < (beating 500000 0).chim.n ∧ 1 ≠ (beating 500000 0).chim.role ∧ fencedRole (beating 500000 0) 1 = false) ∧
    (let s := stepping chim0 (frame 0x16 0 0)
     fencedRole (taken s (frame 0x16 0 0)) 0 = false ∧ fencedRole (taken { s with chim := { s.chim with fenced := [(0, some 0)] } } (frame 0x16 0 0)) 0 = true) := by
  decide +kernel


/-- A link RECV of one line in tile 10 that waits for role 1. -/
def recv1 : Recv := { src := 0, chan := 0, panel := 0, line := 0, nl := 1, got := 0, issue := 0, paired := false, role := 1, step := 3 }
def dataFr (line n : Nat) : Frame := { frame 0x20 0 0 with payload := natLe 2 0 ++ natLe 1 0 ++ natLe 1 0 ++ natLe 2 line ++ natLe 2 n ++ natLe 32 5 }

/-- ChimneyDataAndMirrors: DATA that fits its RECV and DATA beyond it. -/
theorem test_data_meets :
    let s := { stepping chim0 (dataFr 0 1) with tiles := [(10, some { Tile.reset with ctx := some (0, 0), recvs := [recv1] })] }
    let f := dataFr 0 1
    Arrived s 0x20 f ∧ chimTile (taken s f) (field f.payload 0 2) = some 10 ∧
      pairedRecv (((taken s f).tile 10).recvs.filter fun r => r.role == f.src && r.chan == field f.payload 2 1 && r.step == f.step)
        (field f.payload 4 2) = some recv1 ∧
      (deliver (taken s f) 10 recv1 (field f.payload 4 2) (linesOf ((f.payload.drop 8).take (32 * field f.payload 6 2)))).isSome = true ∧
      (deliver (taken s f) 10 recv1 1 (linesOf ((f.payload.drop 8).take (32 * field f.payload 6 2)))).isNone = true := by
  unfold Arrived; decide +kernel

/-- Line 0 goes to the first RECV not yet paired, a later line to the one paired last. -/
theorem test_pairedRecv :
    let a := { recv1 with nl := 4, got := 2, paired := true }
    let b := { recv1 with issue := 1 }
    pairedRecv [a, b] 0 = some b ∧ pairedRecv [a, b] 1 = some a ∧ pairedRecv [b] 1 = some b ∧ pairedRecv [a] 0 = none := by decide

/-- A frame that frees a copy the region holds, and one that names none. -/
theorem test_mirrorFree_meets (v : List Nat) (_hv : v = Config.fieldsOf 0x42 (frame 0x42 0 0).payload) :
    let m := copyOf v true []
    let s := stepping { chim0 with mirror := [m] } (frame 0x42 0 0)
    Arrived s 0x42 (frame 0x42 0 0) ∧ s.chim.mirror.any (fun k => k.same m) = true ∧
      (stepping chim0 (frame 0x42 0 0)).chim.mirror.any (fun k => k.same m) = false := by
  refine ⟨⟨rfl, rfl⟩, ?_, rfl⟩
  simp [stepping, chimSt, MirrorCopy.same]

/-- A CREDIT whose fields name a tile of the image: with a SEND that waits for it and without. -/
theorem test_credit_meets (v : List Nat) (_hv : v = Config.fieldsOf 0x21 (frame 0x21 0 0).payload) :
    let d : SendW := { dst := 0, chan := v[0]?.getD 0, lines := [], issue := 0, role := 1, step := 3 }
    let im := { image [] with tiles := List.replicate (v[1]?.getD 0 + 1) (ctile 10 []) }
    let s := { stepping chim0 (frame 0x21 0 0) with
      ctxs := [(0, some { ctx (some im) with chimney := true })], tiles := [(10, some { Tile.reset with sends := [d] })] }
    Arrived s 0x21 (frame 0x21 0 0) ∧ chimTile (taken s (frame 0x21 0 0)) (v[1]?.getD 0) = some 10 ∧
      (((taken s (frame 0x21 0 0)).tile 10).sends.find? fun d => d.role == 1 && d.chan == v[0]?.getD 0 && d.step == 3) = some d ∧
      ((({ taken s (frame 0x21 0 0) with tiles := [] } : State).tile 10).sends.find? fun d => d.role == 1 && d.chan == v[0]?.getD 0 && d.step == 3) = none := by
  refine ⟨⟨rfl, rfl⟩, ?_, ?_, rfl⟩
  · show ((List.replicate (v[1]?.getD 0 + 1) (ctile 10 []))[v[1]?.getD 0]?).map (·.tile) = some 10
    rw [List.getElem?_replicate, if_pos (by omega)]; rfl
  · show List.find? _ [_] = _
    rw [List.find?_cons_of_pos (by simp)]

/-- A GATHER_REQ whose fields name a table of a context; a TUPDATE and a MIRROR_ACK for a page at hand. -/
theorem test_gather_meets (v : List Nat) (_hv : v = Config.fieldsOf 0x30 (frame 0x30 0 0).payload) (t : Table) :
    let s := { stepping chim0 (frame 0x30 0 0) with ctxs := [(v[0]?.getD 0, some { ctx none with tables := [(v[1]?.getD 0, t)], chimney := true })] }
    Arrived s 0x30 (frame 0x30 0 0) ∧ look s.ctxs (v[0]?.getD 0) = some { ctx none with tables := [(v[1]?.getD 0, t)], chimney := true } ∧
      (([(v[1]?.getD 0, t)] : List (Nat × Table)).find? fun e => e.1 == v[1]?.getD 0) = some (v[1]?.getD 0, t) ∧ (chimCtx s).isSome = true := by
  refine ⟨⟨rfl, rfl⟩, ?_, ?_, rfl⟩ <;> simp [look, Machine.get]

theorem look_one {α : Type} [DecidableEq α] (k : Nat) (x : α) : look [(k, some x)] k = some x := by simp [look, Machine.get]

theorem test_mirrorAck_meets (v : List Nat) (_hv : v = Config.fieldsOf 0x41 (frame 0x41 0 0).payload) (e : Entry) :
    let s0 := { stepping chim0 (frame 0x41 0 0) with ctxs := [] }
    let r := { req with tables := [(pairOf (taken s0 (frame 0x41 0 0)) (v[1]?.getD 0) (v[3]?.getD 0) (v[4]?.getD 0), [(v[5]?.getD 0, e)])] }
    let s := { s0 with reqs := [(slotFor (taken s0 (frame 0x41 0 0)) (v[1]?.getD 0) (v[2]?.getD 0), some r)] }
    Arrived s 0x41 (frame 0x41 0 0) ∧ reqAt (taken s (frame 0x41 0 0)) (slotFor (taken s (frame 0x41 0 0)) (v[1]?.getD 0) (v[2]?.getD 0)) = some r ∧
      entryOf r (pairOf (taken s (frame 0x41 0 0)) (v[1]?.getD 0) (v[3]?.getD 0) (v[4]?.getD 0)) (v[5]?.getD 0) = some e := by
  refine ⟨⟨rfl, rfl⟩, ?_, ?_⟩
  · exact look_one _ _
  · show ((Machine.get [] [(_, [(_, e)])] _).find? _).map _ = some e
    rw [show ∀ a b : Nat, a = b → Machine.get [] [(a, [(v[5]?.getD 0, e)])] b = [(v[5]?.getD 0, e)] from fun a b h => by simp [Machine.get, h]]
    · rw [List.find?_cons_of_pos (by simp)]; rfl
    · rfl

/-- A spare that may adopt a fenced role, and a member that may not; the fields of an XFER are of one of the two kinds. -/
theorem test_adopt_meets :
    let spare := { chim0 with role := 0xFFFF, fenced := [(2, some 0)], macs := (List.range 4).map (fun r => ((6, r, 0), r)), ports := List.replicate 6 port1 ++ List.replicate 2 { port1 with mode := 3 } }
    let c := xcmd 0x94 (natLe 2 2)
    let s := { chimSt spare [c] with ctxs := [(0, some (ctx none))] }
    Ready s 0x94 0 1 c ∧ look s.ctxs c.pkt.ctx = some (ctx none) ∧ (ctx none).image = none ∧ mayAdopt s (c.p 0 2) = true ∧
      mayAdopt (chimSt chim0 [c]) (c.p 0 2) = false ∧ look (chimSt spare [c]).ctxs c.pkt.ctx = none ∧
      (∀ v : List Nat, v[0]?.getD 0 % 2 = 0 ∨ v[0]?.getD 0 % 2 = 1) := by
  refine ⟨⟨rfl, rfl, rfl, rfl, rfl⟩, rfl, rfl, by decide +kernel, by decide +kernel, rfl, fun v => Nat.mod_two_eq_zero_or_one _⟩

/-- The buddy's region holds a copy that fits and not one that does not. -/
theorem test_mirror_meets (n : Nat) : ∃ mib, n ≤ mib * 2 ^ 20 ∧ ∀ m, 0 < m → 0 * 2 ^ 20 < 0 + m := ⟨n, by omega, fun m h => by omega⟩

/-- A frame of one piece: with these fields the heading and the bytes come at once; with more bytes to come they do not. -/
theorem test_pieces_meet (f : Frame) (s : State) (hp : s.chim.parts = []) (head : List Nat) :
    (Config.fieldsOf f.ftype f.payload = head.length :: head ++ [0, 1] ++ [7] → (takePiece s f).1 = some (head, [7#8])) ∧
    (Config.fieldsOf f.ftype f.payload = head.length :: head ++ [0, 2] ++ [7] → (takePiece s f).1 = none) := by
  constructor <;> intro h <;> unfold takePiece <;> rw [h] <;> simp [hp]

/-! ## Faults, clocks, power, heat -/

def err0 (d code : Nat) (a : ErrAct) : ErrIn := { domain := d, code := code, unit := 0, detail := 0, act := a }
def faulty (active : Option ErrIn) (fifo arrq : List ErrIn) : State :=
  (st .service []).updErr fun x => { x with active := active.map fun e => { err := e, started := 0 }, fifo := fifo, arrq := arrq }

/-- ErrorsQueueAndFail: no handler, a handler of another domain with room and without, one of domain 3 and of another; queues with a next
error and without; a handler 10 ms old and one tick younger. -/
theorem test_errors_meet :
    let e := err0 5 0x5002 .elsewhere
    let h := err0 3 0x4006 .elsewhere
    (clocked (faulty none [] []) = true ∧ (faulty none [] []).dev.st ≠ .failed ∧ (faulty none [] []).err.active = none ∧ e.act ≠ .fatal) ∧
    ((faulty (some h) [] []).err.active = some { err := h, started := 0 } ∧ h.domain ≠ e.domain ∧ (faulty (some h) [] []).err.fifo.length < 32 ∧
      32 ≤ (faulty (some h) (List.replicate 32 e) []).err.fifo.length ∧ (faulty (some h) [] []).err.arrq.length < 64 ∧
      64 ≤ (faulty (some h) [] (List.replicate 64 h)).err.arrq.length ∧ e.domain ≠ 3) ∧
    ((faulty (some h) [] [h]).err.arrq = [h] ∧ (faulty (some h) [e] []).err.fifo = [e] ∧ (faulty (some h) [] []).err.fifo = []) ∧
    (1000000 ≤ ((faulty (some h) [] []).updDev fun d => { d with now := 1000000 }).dev.now - 0 ∧
      ((faulty (some h) [] []).updDev fun d => { d with now := 999999 }).dev.now - 0 < 1000000 ∧ (faulty none [] []).dev.st ≠ .cold) := by
  decide +kernel

/-- The 33rd error waits in no FIFO: the device fails and names the active handler's domain in the record (R383). -/
theorem test_errorFifo : ∃ t, exec (.errorRaise (err0 5 0x5002 .elsewhere))
    (faulty (some (err0 3 0x4006 .elsewhere)) (List.replicate 32 (err0 6 0x6004 .elsewhere)) []) = .next t ∧ t.dev.st = .failed ∧
      t.err.failedDomain = 5 := ⟨_, rfl, by decide +kernel⟩

/-- ErrorsQueueAndFail: errors of a fatal action and of the two fatal domains; owners and members to tell, none and one. -/
theorem test_errors2_meet :
    ((err0 1 0 .fatal).act = .fatal ∧ (err0 4 0 .elsewhere).domain = 4 ∧ (err0 6 0 .elsewhere).domain = 6) ∧
    (∀ m : MirrorCopy, (st .service []).chim.lost = [] ∧ ((st .service []).updChim fun c => { c with lost := [m] }).chim.lost = [m]) ∧
    ((st .service []).chim.halts = [] ∧ ((st .service []).updChim fun c => { c with halts := [3] }).chim.halts = [3]) :=
  ⟨⟨rfl, rfl, rfl⟩, fun _ => ⟨rfl, rfl⟩, rfl, rfl⟩

def stackSt (n : Nat) : State := (st .service []).updErr fun x => { x with stackErrs := List.replicate n (1, 0) }
def parity : State := { stepping chim0 (frame 0x15 0 0) with tiles := [(10, some { Tile.reset with ctx := some (0, 0) })] }
def reading (r : Option HostRead) : State := (st .service [cmd 0x44 []]).updErr fun x => { x with hostRead := r }

/-- MemoryAndHostErrors: 14 and 15 earlier errors of a stack; lines of a panel and of none; a link with an error, 1 s old and younger; host
reads of the three kinds. -/
theorem test_memory_meets :
    (siteInfo (.pool 0x100 7) = (0x100, (siteInfo (.pool 0x100 7)).2) ∧ 0x100 / 256 % 8 = 1 ∧
      (((1, (stackSt 14).dev.now) :: (stackSt 14).err.stackErrs.filter (fun e => (stackSt 14).dev.now - e.2 < 100000000)).filter fun e => e.1 == 1).length < 16 ∧
      16 ≤ (((1, (stackSt 15).dev.now) :: (stackSt 15).err.stackErrs.filter (fun e => (stackSt 15).dev.now - e.2 < 100000000)).filter fun e => e.1 == 1).length) ∧
    ((ctileOf parity 10).map (fun e => e.2.2.2.2) = some (ctile 10 []) ∧ clocked parity = true ∧ parity.dev.st ≠ .failed ∧
      (∃ p ∈ (ctile 10 []).panels, p.lines ≠ 0 ∧ p.base ≤ 31 ∧ 31 < p.base + p.lines) ∧
      (∀ p ∈ (ctile 10 []).panels, p.lines = 0 ∨ 4095 < p.base ∨ p.base + p.lines ≤ 4095)) ∧
    (let s (now : Nat) := ((st .service []).updErr fun x => { x with meshErrs := [(4, 1)] }).updDev fun d => { d with now := now }
     nat (s 0).err.meshErrs 4 ≠ 0 ∧ (s 0).dev.now + 1 - nat (s 0).err.meshErrs 4 < 100000000 ∧ nat (s 0).err.meshErrs 5 = 0 ∧
       100000000 ≤ (s 100000000).dev.now + 1 - nat (s 100000000).err.meshErrs 4) ∧
    ((ctx none).halted = false ∧ (look parity.ctxs 0).isSome = true) ∧
    ((reading (some (.slot 0))).err.hostRead = some (.slot 0) ∧ (reading (some (.payload 0 1))).err.hostRead = some (.payload 0 1) ∧
      findCmd (reading (some (.payload 0 1))) 0 1 = some (cmd 0x44 []) ∧ (reading (some (.row 3))).err.hostRead = some (.row 3) ∧
      clocked (reading none) = true) := by decide +kernel

/-- A flit from tile 0 to tile 161, one column and two rows on, of a class. -/
def flit (background : Bool) : MeshFlit :=
  { data := 0, header := BitVec.ofNat 64 (161 + if background then 2 ^ 26 else 0), parity := BitVec.ofNat 40 (2 ^ 32 + if background then 2 ^ 35 else 0) }

/-- MemoryAndHostErrors: the route of a flit and a link off it; a flit that arrives as it was sent and one with a bit of its sideband changed;
both classes; with a round or a context to name and without. -/
theorem test_mesh_meets :
    (meshRoute 0 161 = [{ tile := 0, dir := .east }, { tile := 1, dir := .south }, { tile := 81, dir := .south }] ∧
      ({ tile := 0, dir := .south } : MeshLink) ∉ meshRoute 0 161) ∧
    ((flit true).background = true ∧ (flit false).background = false ∧ (flit false).dst = 161 ∧ (flit false).src = 0 ∧
      (flit true).good = true ∧ (flit false).good = true ∧
      ({ flit false with parity := (flit false).parity ^^^ BitVec.twoPow 40 3 } : MeshFlit).good = false) ∧
    (flitCtx parity { flit false with header := 10#64 } = some (0, 0) ∧ flitCtx parity (flit false) = none) ∧
    (roundOf parity 0 161 = none ∧
      roundOf { parity with flits := [.digest 1 161 4 9] } (partnerTile 161) 161 = some (1, partnerTile 161, 4)) := by decide +kernel

def pll (x : PllSt) (g b : Nat) : Pll := { st := x, good := g, bad := b }
def clkSt (d : DevSt) (src : Nat) (r p : Pll) : State := (st d []).updClk fun c => { c with source := src, root := r, pilot := p }

/-- ClocksAndMonitor: counts at the ends of the window; a root accepted after 7 windows, failing once and twice; the pilot accepted and off;
attempts 2 and 3; a series that failed; lane 0; a recovery from HOLD. -/
theorem test_clocks_meet :
    (49103 ≤ 49201 ∧ (49102 : Nat) < 49103 ∧ (49201 : Nat) < 49202) ∧
    ((clkSt .service 1 (pll .windows 7 0) (pll .off 0 0)).clk.root.st ≠ .off ∧ (clkSt .service 1 (pll .windows 7 0) (pll .off 0 0)).clk.root.st ≠ .accepted ∧
      (clkSt .service 1 (pll .accepted 8 1) (pll .off 0 0)).clk.root.st = .accepted ∧ (clkSt .service 1 (pll .accepted 8 1) (pll .off 0 0)).clk.root.bad = 1 ∧
      (clkSt .service 1 (pll .off 0 0) (pll .windows 7 0)).clk.pilot.st = .windows ∧ 7 ≤ (clkSt .service 1 (pll .off 0 0) (pll .windows 7 0)).clk.pilot.good) ∧
    (clocked (clkSt .service 1 (pll .accepted 8 0) (pll .accepted 8 0)) = true ∧ (clkSt .service 1 (pll .accepted 8 0) (pll .accepted 8 0)).clk.source = 1 ∧
      (clkSt .service 2 (pll .accepted 8 0) (pll .accepted 8 0)).clk.source ≠ 1 ∧ clocked (st .cold []) = false) ∧
    ((clkSt .service 2 (pll .off 0 0) (pll .accepted 8 0)).pwr.seq = .run ∧ (clkSt .service 2 (pll .off 0 0) (pll .accepted 8 0)).clk.attemptsUsed < 3 ∧
      (clkSt .service 2 (pll .seriesFailed 0 0) (pll .accepted 8 0)).clk.root.st = .seriesFailed ∧
      ((clkSt .service 2 (pll .locking 0 0) (pll .accepted 8 0)).updClk fun c => { c with attempt := 3 }).clk.attempt = 3) ∧
    (((st .service []).updClk fun c => { c with lane0 := true }).clk.lane0 = true ∧ ((st .service []).updClk fun c => { c with lane0 := false }).clk.lane0 = false) ∧
    (let d : Divider := { on := true, div := 8, target := 16 }
     d.on = true ∧ d.div < d.target ∧ ({ d with target := 4 } : Divider).target < d.div ∧ ({ d with on := false } : Divider).on = false) ∧
    (let h := (st .hold []).updClk fun c => { c with recovering := true }
     h.dev.st = .hold ∧ h.clk.recovering = true ∧ (none : Option Nat).or (goldBad h) = none ∧ (some 4).or (goldBad h) = some 4) := by
  decide +kernel

def pw (d : DevSt) (f : Pwr → Pwr) : State := (st d []).updPwr f
def offRail : Rail := { enabled := false, good := false, enables := 0 }
def rails (i : Nat) (r : Rail) (rest : Rail) : List Rail := (List.range 13).map fun k => if k = i then r else rest

/-- PowerUpAndBoot: a rise of V12_IN through 11.0 V; a rail of step 2 enabled for the first time and the third; one switched off; the
conditions of BOOT, met and not; slots that are valid in either order and neither. -/
theorem test_powerUp_meets :
    (let s := pw .cold fun p => { p with seq := .idle, v12 := 1100 }
     s.dev.st = .cold ∧ s.pwr.seq = .idle ∧ s.pwr.v12 ≤ 1100 ∧ s.pwr.blocked = false ∧ s.pwr.aux = true ∧ s.pwr.senseOk = true) ∧
    (∃ n rail, n ≤ 8 ∧ (stepRails n).contains rail = true ∧ rail ≠ 0 ∧ rail ≠ 12 ∧
      (let s := pw .cold fun p => { p with seq := .up n, rails := rails rail { enabled := true, good := false, enables := 1 } Rail.up }
       (railOf s.pwr rail).enabled = true ∧ (railOf s.pwr rail).good = false ∧ (railOf s.pwr rail).enables < 2 ∧
         ∀ i ∈ stepRails n, (railOf (onRail s.pwr rail fun r => { r with good := true }) i).good = true) ∧
      (let s := pw .cold fun p => { p with seq := .up n, rails := rails rail { enabled := true, good := false, enables := 3 } offRail }
       3 ≤ (railOf s.pwr rail).enables) ∧
      (let s := pw .cold fun p => { p with seq := .up n, rails := rails rail { enabled := false, good := false, enables := 1 } offRail }
       (railOf s.pwr rail).enabled = false ∧ 1 ≤ (railOf s.pwr rail).enables ∧ (railOf s.pwr rail).enables < 3)) ∧
    (let s := (pw .cold fun p => { p with seq := .run, perst := false }).updClk fun c => { c with root := pll .accepted 8 0 }
     s.dev.st = .cold ∧ s.pwr.seq = .run ∧ s.clk.root.st = .accepted ∧ s.pwr.perst = false) ∧
    ((slotOf State.reset.dev 0).valid = true ∧ State.reset.dev.st = .boot ∧ clocked State.reset = true ∧ 0 = State.reset.dev.fwSelect % 2 ∧
      (slotOf { State.reset.dev with fwSelect := 1 } 1).valid = false ∧
      (slotOf { State.reset.dev with fwSlot0 := { valid := false, major := 0, minor := 0 } } 0).valid = false) := by
  refine ⟨by decide +kernel, ⟨2, ?_⟩, by decide +kernel, by decide +kernel⟩
  obtain ⟨r, hr⟩ : ∃ r, (stepRails 2)[0]? = some r := ⟨_, rfl⟩
  refine ⟨r, ?_⟩
  obtain rfl := Option.some.inj (hr.symm.trans (rfl : (stepRails 2)[0]? = _))
  decide +kernel

/-- PowerDownAndFaults: a descent at its last rail and before; PERST# in each state of the sequencer; inputs at 9.99, 10.00 and 11.03 V; a
rail that fails while the device runs; a cage with a closed switch. -/
theorem test_powerDown2_meets :
    ((st .service []).dev.st ≠ .cold ∧ (st .service []).pwr.seq = .run ∧ 1000 ≤ (st .service []).pwr.v12 ∧ (st .service []).dev.st ≠ .hold) ∧
    ((pw .cold fun p => { p with perst := true, seq := .idle }).pwr.perst = true ∧ (pw .cold fun p => { p with seq := .idle }).pwr.seq = .idle ∧
      (pw .cold fun p => { p with seq := .down 3 }).pwr.seq = .down 3 ∧ (pw .cold fun p => { p with seq := .up 3 }).pwr.seq = .up 3) ∧
    (∃ rail, (stepRails 1).contains rail = true ∧
      (let s := pw .cold fun p => { p with seq := .down 1, rails := rails rail { enabled := false, good := true, enables := 1 } offRail }
       (railOf s.pwr rail).enabled = false ∧ (railOf s.pwr rail).good = true ∧
         ∀ i ∈ stepRails 1, (railOf (onRail s.pwr rail fun r => { r with good := false }) i).good = false)) ∧
    ((pw .cold fun p => p).pwr.restart = false ∧ clocked (st .service []) = true ∧ (999 : Nat) < 1000 ∧ (1103 : Nat) < 1104 ∧ (12 : Nat) ≤ 12) ∧
    (false ≠ (st .service []).pwr.senseOk) ∧
    ((pw .service fun p => { p with cages := [{ module := true, closed := true, tripped := false }] }).pwr.cages[0]?.map (·.closed) = some true) := by
  refine ⟨by decide +kernel, by decide +kernel, ?_, by decide +kernel, by decide +kernel, by decide +kernel⟩
  obtain ⟨r, hr⟩ : ∃ r, (stepRails 1)[0]? = some r := ⟨_, rfl⟩
  refine ⟨r, ?_⟩
  obtain rfl := Option.some.inj (hr.symm.trans (rfl : (stepRails 1)[0]? = _))
  decide +kernel

/-- Temperatures of every node, of the interval of an update. -/
def heat (x : Int) : ThmIn :=
  { temps := List.replicate 265 x, interval := 1000, pFix := 0, pPace := 0, ta := none, tc := none, flow := none }

/-- ThermalUpdates and PowerCap: nodes at 110 °C, at 100 °C, just below both and calm; an update on time. -/
theorem test_thermal_meets :
    ((heat 12799).temps.length = 265 ∧ (heat 0).interval = (if (st .service []).thm.fast then 125 else 1000) ∧ clocked (st .service []) = true ∧
      (st .service []).dev.st ≠ .hold) ∧
    ((14080 : Int) ∈ (heat 14080).temps ∧ (∀ x ∈ (heat 14079).temps, x < 14080) ∧ (12800 : Int) ∈ (heat 12800).temps ∧ (∀ x ∈ (heat 12799).temps, x < 12800)) ∧
    ((heat 0).temps.length ≤ 265 ∧ ∀ i : Nat, i < 265 → ((heat 0).temps[i]?.getD 0 - (List.replicate 265 (0 : Int))[i]?.getD 0) * 1000 < 384 * (heat 0).interval) ∧
    ((st .service []).thm.step ≤ 24 ∧ (5 : Nat) ≠ 0) := by decide +kernel

/-! ## Records, layouts, reset -/

/-- FinalRecords, PanelWrites: a command whose ring exists and for which no duplicate waits; a replayed one. -/
theorem test_records_meet : look (st .service [cmd 0x71 []]).rings (cmd 0x71 []).ring = some ring0 ∧ (cmd 0x71 []).replay = false ∧
    (∀ d ∈ (st .service [cmd 0x71 []]).cmds, d.phase ≠ .dupOf 0 1) ∧ ({ cmd 0x71 [] with replay := true }).replay = true ∧
    isLong (pkt 0x70 1 []) = true ∧ isLong (pkt 0x71 1 []) = false ∧ stOk = 0 := by decide +kernel

/-- The record CAL_STATUS leaves in ring 0. -/
theorem test_record_bytes : ∃ t, exec (.calStatus 0 1) (rdy .service 0x71 []) = .next t ∧ t.cmds = [] ∧
    Mem.read t.hostMem 0x8000 4 = natLe 4 1 := ⟨_, rfl, by decide +kernel⟩

/-- LayoutsReadBack, CrcFindsOneByte: a frame within its fields, and one with a byte changed. -/
theorem test_layouts_meet : (frame 0x15 0xFFFE 65535).ftype < 256 ∧ (frame 0x15 0xFFFE 65535).payload.length ≤ 1024 ∧
    (frame 0x15 0xFFFE 65535).bytes[20]? ≠ some 1 ∧ (20 : Nat) < 16 + (frame 0x15 0xFFFE 65535).payload.length ∧
    frameCrcOk ((frame 0x15 0xFFFE 65535).bytes.set 20 1) = false ∧ (vec.xr.pos < 2 ^ 32 ∧ vec.xr.step < 2 ^ 32) ∧
    (pkt 0x40 (2 ^ 32 - 1) []).seq < 2 ^ 32 ∧ (pkt 0x40 1 (List.replicate 224 1)).len ≤ 224 := by decide +kernel

/-- Last, since the kernel takes seconds over it: the loader's checks pass an image of one tile whose program is END. -/
theorem test_image_ok : imgBytes.length = 840 ∧ imageCheck imgBytes 840 1 none false 32 = none := by decide +kernel

end Sys2Proof.Tests
end

section
/-! The trims of a fit (04_calibration R92). -/

namespace Sys2Proof
open Machine

/-- A line that does not rise has no trims. -/
@[simp] theorem trimsOf_of_nonpos {a b : Rat} (hb : b ≤ 0) : trimsOf a b = none := if_pos hb

/-- A rising line's trims are the two rounded quotients, where both lie in their ranges. -/
theorem trimsOf_eq_some_iff_of_pos {a b : Rat} (hb : 0 < b) (o : Int) (g : Nat) :
    trimsOf a b = some (o, g) ↔
      (o = rne (64 * a) ∧ g = (rne (32768 / b)).toNat) ∧ -64 ≤ o ∧ o ≤ 192 ∧ 15600 ≤ g ∧ g ≤ 17800 := by
  simp only [trimsOf, if_neg (not_le.mpr hb), Option.ite_none_right_eq_some, Option.some.injEq, Prod.mk.injEq]
  constructor
  · rintro ⟨range, rfl, rfl⟩
    exact ⟨⟨rfl, rfl⟩, range⟩
  · rintro ⟨⟨rfl, rfl⟩, range⟩
    exact ⟨range, rfl, rfl⟩

/-- Settles O40: a rising line's gain is the rounded quotient itself, since its range leaves out what `toNat` sends to 0. -/
theorem fitsBecomeTrims : Obligations.FitsBecomeTrims := by
  intro a b o g
  rcases le_or_gt b 0 with hb | hb
  · simp [hb, not_lt.mpr hb]
  · have gain : 15600 ≤ g → (g = (rne (32768 / b)).toNat ↔ (g : Int) = rne (32768 / b)) := by omega
    rw [trimsOf_eq_some_iff_of_pos hb]
    constructor
    · rintro ⟨⟨offset, hg⟩, lo, hi, gLo, gHi⟩
      exact ⟨hb, offset, (gain gLo).mp hg, lo, hi, gLo, gHi⟩
    · rintro ⟨-, offset, hg, lo, hi, gLo, gHi⟩
      exact ⟨⟨offset, (gain gLo).mpr hg⟩, lo, hi, gLo, gHi⟩

end Sys2Proof
end

section
/-! What an engine runs next (06_flue_path R142). A queue's head and the head that has waited longest are both Mathlib's `List.argmin`,
the first of the elements with the least key. -/

namespace Sys2Proof
open Machine

/-- `argmin` splits its list at its answer: before it each key is greater, behind it none is smaller. -/
theorem exists_append_of_argmin_eq_some {α : Type} [DecidableEq α] {key : α → Nat} {l : List α} {x : α} (h : l.argmin key = some x) :
    ∃ a b, l = a ++ x :: b ∧ (∀ y ∈ a, key x < key y) ∧ ∀ y ∈ b, key x ≤ key y := by
  obtain ⟨hx, least, first⟩ := List.argmin_eq_some_iff.mp h
  obtain ⟨a, b, rfl, notBefore⟩ := List.eq_append_cons_of_mem hx
  refine ⟨a, b, rfl, fun y hy => ?_, fun y hy => least y (by simp [hy])⟩
  by_contra! notLess
  have xFirst := first y (by simp [hy]) notLess
  rw [List.idxOf_append_of_notMem notBefore, List.idxOf_append_of_mem hy] at xFirst
  have := List.idxOf_lt_length_of_mem hy
  omega

/-- A fold from `none` that takes each element with a smaller key than the one it holds is `argmin`. -/
theorem foldl_eq_argmin {α : Type} {key : α → Nat} {pick : Option α → α → Option α} (ofNone : ∀ x, pick none x = some x)
    (ofSome : ∀ y x, pick (some y) x = if key x < key y then some x else some y) (l : List α) : l.foldl pick none = l.argmin key := by
  have pick_eq : pick = List.argAux fun x y => key x < key y := by
    funext held x
    cases held with
    | none => exact ofNone x
    | some y => exact ofSome y x
  rw [pick_eq]
  rfl

/-! ## The heads of the queues -/

theorem headOf_eq_argmin (q : List Job) : headOf q = q.argmin Job.cls :=
  foldl_eq_argmin (fun _ => rfl) (fun _ _ => rfl) q

@[simp] theorem headOf_eq_none {q : List Job} : headOf q = none ↔ q = [] := by
  rw [headOf_eq_argmin, List.argmin_eq_none]

theorem exists_headOf_of_ne_nil {q : List Job} (h : q ≠ []) : ∃ j, headOf q = some j :=
  Option.ne_none_iff_exists'.mp (mt headOf_eq_none.mp h)

/-- The heads of an engine's queues, in the order in which the queues run. -/
def queueHeads (f : Flue) : List Job := [f.qRec, f.qOut, f.qDel].filterMap headOf

theorem mem_queueHeads {f : Flue} {j : Job} : j ∈ queueHeads f ↔ ∃ q ∈ [f.qRec, f.qOut, f.qDel], headOf q = some j :=
  List.mem_filterMap

/-! ## The next job -/

/-- The overdue head that arrived first, marked true, or else the first head, marked false. -/
theorem nextJob_eq (s : State) (f : Flue) : nextJob s f =
    ((((queueHeads f).filter (overdue s)).argmin Job.arrived).map (·, true)).or ((queueHeads f).head?.map (·, false)) := by
  simp only [nextJob, queueHeads]
  rw [foldl_eq_argmin (key := Job.arrived)]
  · generalize List.argmin Job.arrived _ = oldest
    cases oldest <;> rfl
  · exact fun _ => rfl
  · exact fun _ _ => rfl

/-- A job that the waiting rule chose is the overdue head that arrived first. -/
theorem argmin_of_nextJob_true {s : State} {f : Flue} {j : Job} (h : nextJob s f = some (j, true)) :
    ((queueHeads f).filter (overdue s)).argmin Job.arrived = some j := by
  rw [nextJob_eq] at h
  cases late : ((queueHeads f).filter (overdue s)).argmin Job.arrived with
  | none => simp [late] at h
  | some k => simpa [late] using h

theorem nextJob_true_waited_longest {s : State} {f : Flue} {j : Job} (h : nextJob s f = some (j, true)) :
    overdue s j = true ∧
      ∀ q ∈ [f.qRec, f.qOut, f.qDel], ∀ k, headOf q = some k → overdue s k = true → j.arrived ≤ k.arrived := by
  obtain ⟨hj, least, -⟩ := List.argmin_eq_some_iff.mp (argmin_of_nextJob_true h)
  exact ⟨(List.mem_filter.mp hj).2, fun q hq k hk late =>
    least k (List.mem_filter.mpr ⟨mem_queueHeads.mpr ⟨q, hq, hk⟩, late⟩)⟩

/-- With no overdue head the first queue that is not empty gives the job. -/
theorem nextJob_of_none_overdue {s : State} {f : Flue}
    (h : ∀ q ∈ [f.qRec, f.qOut, f.qDel], ∀ k, headOf q = some k → overdue s k = false) :
    nextJob s f = ([f.qRec, f.qOut, f.qDel].findSome? headOf).map (·, false) := by
  have noneLate : (queueHeads f).filter (overdue s) = [] := by
    refine List.filter_eq_nil_iff.mpr fun k hk => ?_
    obtain ⟨q, hq, hk⟩ := mem_queueHeads.mp hk
    simp [h q hq k hk]
  rw [nextJob_eq, noneLate, List.argmin_nil, Option.map_none, Option.none_or, queueHeads, List.head?_filterMap]

/-! ## Sweep work -/

/-- An engine with a job in a queue and no claimed round is not idle. -/
theorem unitIdle_flue_of_queued {s : State} {unit : Nat} (unowed : (s.flue unit).owed = 0)
    (queued : (s.flue unit).qRec ≠ [] ∨ (s.flue unit).qOut ≠ [] ∨ (s.flue unit).qDel ≠ []) : unitIdle s 2 unit = false := by
  rcases queued with h | h | h <;> simp [unitIdle, unowed, h]

/-- A unit that is not idle runs no sweep round. -/
theorem exec_sweepRound_of_not_idle {s : State} {kind unit slots digest : Nat} {devs : List (Nat × ConvDev)}
    (busy : unitIdle s kind unit = false) : exec (.sweepRound kind unit slots devs digest) s = .next s := by
  simp [exec_sweepRound, execSweepRound, busy]

/-- Settles O37: the two choices of `nextJob`, the split at a queue's head, and the sweep's condition. -/
theorem flueChoosesQueues : Obligations.FlueChoosesQueues := by
  intro s f
  refine ⟨fun j => nextJob_true_waited_longest, fun h => ?_,
    fun q j h => exists_append_of_argmin_eq_some ((headOf_eq_argmin q).symm.trans h),
    fun j => decide_eq_true_iff, rfl, rfl, rfl,
    fun unit slots digest devs unowed queued => exec_sweepRound_of_not_idle (unitIdle_flue_of_queued unowed queued)⟩
  rw [nextJob_of_none_overdue h]
  refine ⟨fun hr => ?_, fun hr ho => ?_, fun hr ho => ?_⟩
  · obtain ⟨j, hj⟩ := exists_headOf_of_ne_nil hr
    simp [hj]
  · obtain ⟨j, hj⟩ := exists_headOf_of_ne_nil ho
    simp [headOf_eq_none.mpr hr, hj]
  · simp [headOf_eq_none.mpr hr, headOf_eq_none.mpr ho]

end Sys2Proof
end

section
/-! Completion records (11_graec_rings R265, R266, R275): what posting one does to its ring and to the others, and the end of a command
as the record, the copies for its duplicates and the removal of a ring, in this order. -/

namespace Sys2Proof.Machine

variable {s : State} {ring seq : Nat} {q : Ring} {r : Rec} {final notify : Bool} {c : Cmd}

@[simp] theorem look_updRing (f : Ring → Ring) : look (s.updRing ring f).rings ring = (look s.rings ring).map f := by
  unfold State.updRing
  cases h : look s.rings ring <;> simp [h]

/-! ## One record -/

/-- The ring once its next completion entry holds a record (R266). -/
def Ring.posted (q : Ring) (notify : Bool) : Ring :=
  { q with
    cidx := if q.cidx + 1 = q.entries then 0 else q.cidx + 1, phase := if q.cidx + 1 = q.entries then !q.phase else q.phase,
    unret := q.unret + 1, irqPending := q.irqPending || notify }

/-- The ring apart from what a record moves in it: its place in the completion ring and the interrupt it owes. -/
def Ring.unposted (q : Ring) : Ring := { q with cidx := 0, phase := true, unret := 0, irqPending := false }

@[simp] theorem Ring.unposted_posted (q : Ring) (notify : Bool) : (q.posted notify).unposted = q.unposted := rfl
@[simp] theorem Ring.posted_next (q : Ring) (notify : Bool) : (q.posted notify).next = q.next := rfl
@[simp] theorem Ring.posted_destroying (q : Ring) (notify : Bool) : (q.posted notify).destroying = q.destroying := rfl

@[simp] theorem Ring.unposted_next (q : Ring) : q.unposted.next = q.next := rfl
@[simp] theorem Ring.unposted_window (q : Ring) : q.unposted.window = q.window := rfl
@[simp] theorem Ring.unposted_destroying (q : Ring) : q.unposted.destroying = q.destroying := rfl

theorem postRec_of_look (h : look s.rings ring = some q) : postRec s ring final notify r =
    (s.hostWrite (q.cq + 32 * q.cidx) (recBytes ring q.phase final r)).setRing ring (some (q.posted notify)) := by
  simp only [postRec, h]
  rfl

theorem postRec_of_no_ring (h : look s.rings ring = none) : postRec s ring final notify r = s := by simp only [postRec, h]

theorem look_postRec (h : look s.rings ring = some q) : look (postRec s ring final notify r).rings ring = some (q.posted notify) := by
  simp [postRec_of_look h]

theorem postRec_hostMem_of_look (h : look s.rings ring = some q) :
    (postRec s ring final notify r).hostMem = Mem.write s.hostMem (q.cq + 32 * q.cidx) (recBytes ring q.phase final r) := by
  simp [postRec_of_look h, State.hostWrite]

/-- Posting a record moves every ring in its completion entries alone. -/
@[simp] theorem unposted_postRec (s : State) (ring j : Nat) (final notify : Bool) (r : Rec) :
    (look (postRec s ring final notify r).rings j).map Ring.unposted = (look s.rings j).map Ring.unposted := by
  cases h : look s.rings ring with
  | none => rw [postRec_of_no_ring h]
  | some q =>
    by_cases hj : j = ring
    · simp [hj, look_postRec h, h]
    · simp [postRec_of_look h, look, get_put_other _ _ _ hj]

/-- Which entry is written and what it holds does not depend on the outstanding commands. -/
theorem postRec_dropCmd_hostMem (s : State) (c : Cmd) (ring : Nat) (final notify : Bool) (r : Rec) :
    (postRec (dropCmd s c) ring final notify r).hostMem = (postRec s ring final notify r).hostMem := by
  simp only [postRec, dropCmd_rings]
  cases look s.rings ring <;> simp [State.hostWrite]

/-! ## The copies for the waiting duplicates -/

theorem postDups_of_none (h : ∀ d ∈ s.cmds, d.phase ≠ .dupOf ring seq) : postDups s ring seq r = s := by
  have none_waits : s.cmds.filter (fun d => decide (d.phase = .dupOf ring seq)) = [] := by simpa [List.filter_eq_nil_iff] using h
  have all_stay : s.cmds.filter (fun d => !decide (d.phase = .dupOf ring seq)) = s.cmds := by simpa [List.filter_eq_self] using h
  simp [postDups, none_waits, all_stay]

theorem postDups_of_one {d : Cmd} (h : (s.cmds.filter fun c => decide (c.phase = .dupOf ring seq)) = [d]) :
    postDups s ring seq r = postRec { s with cmds := s.cmds.filter fun c => !decide (c.phase = .dupOf ring seq) } d.ring true
      d.pkt.notify (dupRec (s.fn d.fn).session d.pkt r) := by
  simp only [postDups, h]
  rfl

@[simp] theorem unposted_postDups (s : State) (ring seq j : Nat) (r : Rec) :
    (look (postDups s ring seq r).rings j).map Ring.unposted = (look s.rings j).map Ring.unposted :=
  foldl_field (fun t : State => (look t.rings j).map Ring.unposted) (fun _ _ => unposted_postRec ..) _ _

theorem look_postDups (h : look s.rings ring = some q) (j seq : Nat) (r : Rec) :
    ∃ q', look (postDups s j seq r).rings ring = some q' ∧ q'.unposted = q.unposted := by
  have kept := unposted_postDups s j seq ring r
  rwa [h, Option.map_some, Option.map_eq_some_iff] at kept

/-! ## The end of a command -/

/-- Keeping a record changes the window alone. The new window stays hidden here: the kernel would evaluate R275's filter to compare it with
the old one. -/
theorem Ring.stored_eq (q : Ring) (r : Rec) : ∃ w, q.stored r = { q with window := w } := ⟨_, rfl⟩

@[simp] theorem Ring.stored_next (q : Ring) (r : Rec) : (q.stored r).next = q.next := by
  obtain ⟨w, eq⟩ := q.stored_eq r
  rw [eq]

@[simp] theorem Ring.stored_destroying (q : Ring) (r : Rec) : (q.stored r).destroying = q.destroying := by
  obtain ⟨w, eq⟩ := q.stored_eq r
  rw [eq]

@[simp] theorem Ring.stored_posted_window (q : Ring) (notify : Bool) (r : Rec) : ((q.posted notify).stored r).window = (q.stored r).window := rfl

theorem Ring.stored_window (q : Ring) (r : Rec) :
    (q.stored r).window = (r :: q.window).filter fun e => decide ((q.next + 2 ^ 32 - e.seq) % 2 ^ 32 ≤ 256) := rfl

theorem reap_of_live (h : look s.rings ring = some q) (live : q.destroying = false) : reap s ring = s := by
  simp [reap, h, live]

/-- The end of a command that the host sent: its record is posted and kept, then the copies follow, then the ring may go. -/
theorem finishW_eq_reap (sent : c.replay = false) (s : State) (status result0 warn : Nat) :
    ∃ (r : Rec) (t : State),
      (r.seq = c.pkt.seq ∧ r.tag = c.pkt.tag ∧ r.status = (if status = stOk ∧ warn % 32 ≠ 0 then stWarn else status)) ∧
      (t.rings = ((postRec (dropCmd s c) c.ring true c.pkt.notify r).updRing c.ring (·.stored r)).rings ∧
        t.hostMem = (postRec (dropCmd s c) c.ring true c.pkt.notify r).hostMem ∧ t.cmds = (dropCmd s c).cmds) ∧
      finishW s c status result0 warn = reap (postDups t c.ring c.pkt.seq r) c.ring := by
  simp only [finishW, sent, Bool.false_eq_true, if_false]
  refine ⟨_, _, ⟨rfl, rfl, rfl⟩, ⟨?_, ?_, ?_⟩, rfl⟩ <;> split <;> simp

/-- The end of a command, on a ring that is not to be destroyed, adds its record to the window; NEXT stays. -/
theorem look_finishW (sent : c.replay = false) (h : look s.rings c.ring = some q) (live : q.destroying = false)
    (status result0 warn : Nat) :
    ∃ (q' : Ring) (r : Rec), look (finishW s c status result0 warn).rings c.ring = some q' ∧
      (q'.destroying = false ∧ q'.next = q.next ∧ q'.window = (q.stored r).window) ∧
      r.seq = c.pkt.seq ∧ r.tag = c.pkt.tag ∧ r.status = (if status = stOk ∧ warn % 32 ≠ 0 then stWarn else status) := by
  obtain ⟨r, t, record, ⟨rings, -, -⟩, eq⟩ := finishW_eq_reap sent s status result0 warn
  have kept : look t.rings c.ring = some ((q.posted c.pkt.notify).stored r) := by
    rw [rings, look_updRing, look_postRec (s := dropCmd s c) h, Option.map_some]
  obtain ⟨q', copied, same⟩ := look_postDups kept c.ring c.pkt.seq r
  have live' : q'.destroying = false := by simpa [live] using congrArg Ring.destroying same
  have next : q'.next = q.next := by simpa using congrArg Ring.next same
  have window : q'.window = (q.stored r).window := by simpa using congrArg Ring.window same
  exact ⟨q', r, by rw [eq, reap_of_live copied live', copied], ⟨live', next, window⟩, record⟩

/-- Without a waiting duplicate the end of a command writes one record into host memory. -/
theorem finishW_hostMem (sent : c.replay = false) (alone : ∀ d ∈ s.cmds, d.phase ≠ .dupOf c.ring c.pkt.seq)
    (status result0 warn : Nat) :
    ∃ r : Rec, (finishW s c status result0 warn).hostMem = (postRec s c.ring true c.pkt.notify r).hostMem := by
  obtain ⟨r, t, -, ⟨-, mem, cmds⟩, eq⟩ := finishW_eq_reap sent s status result0 warn
  have alone' : ∀ d ∈ t.cmds, d.phase ≠ .dupOf c.ring c.pkt.seq := by
    rw [cmds]
    exact fun d hd => alone d (List.mem_of_mem_filter hd)
  exact ⟨r, by rw [eq, reap_hostMem, postDups_of_none alone', mem, postRec_dropCmd_hostMem]⟩

/-! ## Progress -/

theorem postProgress_of_space (h : look s.rings c.ring = some q) (sent : c.replay = false)
    (space : q.unret + outOn s c.ring < q.entries) :
    ∃ r : Rec, r.status = stInProgress ∧ postProgress s c = postRec s c.ring false c.pkt.notify r := by
  unfold outOn at space
  simp only [postProgress, h, sent, Bool.false_eq_true, false_or, if_neg (Nat.not_le.mpr space)]
  exact ⟨_, rfl, rfl⟩

theorem postProgress_of_full (h : look s.rings c.ring = some q) (full : q.unret + outOn s c.ring ≥ q.entries) :
    postProgress s c = s := by
  unfold outOn at full
  simp only [postProgress, h, full, or_true, if_true]

end Sys2Proof.Machine
end

section
/-! The consumption of a packet (11_graec_rings R258, R266, R274, R275): which class of SEQ goes which way, and that nothing which the
start of a new packet does to its ring moves NEXT again. -/

namespace Sys2Proof.Machine

variable {s : State} {ring : Nat} {q : Ring} {p : Packet} {c : Cmd}

/-! ## The packet at the head -/

theorem exec_packetConsume_of_consumable (h : Consumable s ring q) :
    exec (.packetConsume ring) s = .next (atLimit (consume s ring q)) := by
  obtain ⟨hq, on, may, admitted⟩ := h
  rcases admitted with admitted | admitted <;> simp [exec_packetConsume, execPacketConsume, hq, on, may, admitted]

theorem exec_packetConsume_of_full (h : look s.rings ring = some q) (full : q.unret + outOn s ring ≥ q.entries) :
    exec (.packetConsume ring) s = .next s := by
  have noSpace : mayConsume s ring q = false := by simp [mayConsume, Nat.not_lt.mpr full]
  simp [exec_packetConsume, execPacketConsume, h, noSpace]

/-- A ring that is consumed from is not to be destroyed. -/
theorem Consumable.live (h : Consumable s ring q) : q.destroying = false := by
  obtain ⟨-, -, may, -⟩ := h
  simp only [mayConsume, Bool.and_eq_true, Bool.not_eq_true'] at may
  tauto

@[simp] theorem look_headed : look (headed s ring q).rings ring = some { q with head := (q.head + 1) % q.slots } := by
  unfold headed
  split <;> simp

/-! ## The four classes -/

/-- The distance of a SEQ from NEXT (R274). -/
def Ring.dist (q : Ring) (p : Packet) : Nat := (p.seq + 2 ^ 32 - q.next) % 2 ^ 32

theorem consume_eq : consume s ring q =
    if q.dist (headPacket s q) = 0 then consumeNew (headed s ring q) ring q (headPacket s q)
    else if q.dist (headPacket s q) ≥ 2 ^ 32 - 256 then consumeDup (headed s ring q) ring q (headPacket s q)
    else if q.dist (headPacket s q) ≥ 2 ^ 31 then rejectSeq (headed s ring q) ring (headPacket s q) stStaleSeq 0
    else rejectSeq (headed s ring q) ring (headPacket s q) stBadParam 4 := rfl

theorem rejectSeq_eq_postRec (s : State) (ring : Nat) (p : Packet) (status result0 : Nat) :
    ∃ r : Rec, r.status = status ∧ r.seq = p.seq ∧ r.tag = p.tag ∧ rejectSeq s ring p status result0 = postRec s ring true p.notify r :=
  ⟨_, rfl, rfl, rfl, rfl⟩

/-! ## NEXT while a packet starts -/

/-- The ring is not to be destroyed and the next SEQ that is new on it is `n`. -/
def Awaits (s : State) (ring n : Nat) : Prop := ∃ q, look s.rings ring = some q ∧ q.destroying = false ∧ q.next = n

theorem Awaits.of_rings {t : State} {n : Nat} (h : Awaits s ring n) (same : t.rings = s.rings) : Awaits t ring n := by
  unfold Awaits
  rwa [same]

theorem Awaits.finish {n : Nat} (h : Awaits s c.ring n) (sent : c.replay = false) (status result0 : Nat) :
    Awaits (finish s c status result0) c.ring n := by
  obtain ⟨q, hq, live, next⟩ := h
  obtain ⟨q', -, hq', ⟨live', same, -⟩, -⟩ := look_finishW sent hq live status result0 (warnBits s c)
  exact ⟨q', hq', live', same.trans next⟩

@[simp] theorem markClosing_rings (s : State) (c : Cmd) : (markClosing s c).rings = s.rings := by
  unfold markClosing
  split <;> simp

theorem Awaits.evaluate {n : Nat} (h : Awaits s c.ring n) (sent : c.replay = false) : Awaits (evaluate s c) c.ring n := by
  unfold Machine.evaluate
  split
  · exact h.finish sent ..
  · exact h.of_rings (by simp)
  · exact h.of_rings (by simp)

/-- NEXT counts a new packet once, whether it ends at a check, waits behind a fence or starts (R274). -/
theorem awaits_consumeNew (h : look s.rings ring = some q) (live : q.destroying = false) (q₀ : Ring) (p : Packet) :
    Awaits (consumeNew s ring q₀ p) ring ((q.next + 1) % 2 ^ 32) := by
  have counted : Awaits (s.updRing ring fun r => { r with next := (r.next + 1) % 2 ^ 32 }) ring ((q.next + 1) % 2 ^ 32) :=
    ⟨{ q with next := (q.next + 1) % 2 ^ 32 }, by rw [look_updRing, h, Option.map_some], live, rfl⟩
  unfold consumeNew
  extract_lets s₁ earlier c s₂
  have joined : Awaits s₂ c.ring ((q.next + 1) % 2 ^ 32) := counted
  split
  · exact joined.finish rfl ..
  · split
    · exact joined
    · exact joined.evaluate rfl

/-- Settles O6: the branches of `consume`, each under the bounds of its class. -/
theorem sequenceNumbersClassPackets : Obligations.SequenceNumbersClassPackets := by
  intro s ring q h p d
  have run := exec_packetConsume_of_consumable h
  rw [consume_eq, show q.dist (headPacket s q) = d from rfl] at run
  clear_value d
  refine ⟨fun new => ⟨?_, ?_⟩, fun dup => ?_, fun stale notDup => ?_, fun notNew gap => ?_⟩
  · rw [run, if_pos new]
  · obtain ⟨q', hq', -, next⟩ := awaits_consumeNew (look_headed (s := s) (q := q)) h.live q p
    exact ⟨q', hq', next⟩
  · rw [run, if_neg (by omega), if_pos dup]
  · obtain ⟨r, status, seq, tag, eq⟩ := rejectSeq_eq_postRec (headed s ring q) ring p stStaleSeq 0
    exact ⟨r, status, seq, tag, by rw [run, if_neg (by omega), if_neg (by omega), if_pos stale, eq]⟩
  · obtain ⟨r, status, seq, tag, eq⟩ := rejectSeq_eq_postRec (headed s ring q) ring p stBadParam 4
    exact ⟨r, _, status, seq, tag, by rw [run, if_neg (by omega), if_neg (by omega), if_neg (by omega), eq],
      look_postRec look_headed, rfl, rfl⟩

/-! ## Duplicates -/

theorem consumeDup_of_outstanding (h : findCmd s ring p.seq = some c) :
    consumeDup s ring q p = addCmd s (newCmd s ring q.fn p (.dupOf ring p.seq)) := by
  simp only [consumeDup, h]

theorem consumeDup_of_stored {r : Rec} (ended : findCmd s ring p.seq = none) (stored : (q.window.find? fun x => x.seq == p.seq) = some r) :
    consumeDup s ring q p = postRec s ring true p.notify (dupRec (s.fn q.fn).session p r) := by
  simp only [consumeDup, ended, stored]

theorem findCmd_eq_none_of_dups {seq : Nat} (h : ∀ c ∈ s.cmds, c.ring = ring → c.pkt.seq = seq → ∃ a b, c.phase = .dupOf a b) :
    findCmd s ring seq = none := by
  refine List.find?_eq_none.mpr fun c hc found => ?_
  simp only [Bool.and_eq_true, beq_iff_eq] at found
  obtain ⟨⟨onRing, hasSeq⟩, original⟩ := found
  obtain ⟨a, b, waits⟩ := h c hc onRing hasSeq
  simp [waits] at original

theorem exec_inProgressPost_of_no_cmd {seq progress position : Nat} (h : findCmd s ring seq = none) :
    exec (.inProgressPost ring seq progress position) s = .next s := by
  simp only [exec_inProgressPost, execInProgressPost, h]

/-- Settles O7: the record that the end of a command stores, the ways of a duplicate, and that no duplicate is found for progress. -/
theorem duplicatesAreCopied : Obligations.DuplicatesAreCopied := by
  refine ⟨fun s c st r0 w q sent h live => ?_, fun s ring q p r ended stored => consumeDup_of_stored ended stored,
    fun s ring q p c => consumeDup_of_outstanding, fun s ring seq r d => postDups_of_one,
    fun s ring seq progress position dups => exec_inProgressPost_of_no_cmd (findCmd_eq_none_of_dups dups)⟩
  obtain ⟨q', r, hq', ⟨-, -, window⟩, record⟩ := look_finishW sent h live st r0 w
  exact ⟨q', r, hq', window.trans (q.stored_window r), record⟩

end Sys2Proof.Machine
end

section
/-! Completion entries and their space (11_graec_rings R260, R265, R266). -/

namespace Sys2Proof.Machine

variable {s : State} {ring : Nat} {q : Ring}

/-! ## Little-endian fields -/

@[simp] theorem natLe_length (n v : Nat) : (natLe n v).length = n := by
  induction n generalizing v with
  | zero => rfl
  | succ n ih => simp [natLe, ih]

theorem leNat_natLe (n v : Nat) : leNat (natLe n v) = v % 256 ^ n := by
  induction n generalizing v with
  | zero => simp [natLe, leNat, Nat.mod_one]
  | succ n ih => rw [natLe, leNat, ih, BitVec.toNat_ofNat, Nat.pow_succ' (m := 256), Nat.mod_mul]

/-- The last field of a byte list. -/
theorem field_append_natLe (bs : List Byte) (n v : Nat) : field (bs ++ natLe n v) bs.length n = v % 256 ^ n := by
  rw [field, List.drop_left, List.take_of_length_le (natLe_length n v).le, leNat_natLe]

theorem b2n_le_one (b : Bool) : b2n b ≤ 1 := by cases b <;> decide

/-- The last word of a record holds the ring number, PHASE and FINAL (R265). -/
theorem field_recBytes_flags (phase final : Bool) (r : Rec) (h : ring < 2 ^ 20) :
    field (recBytes ring phase final r) 28 4 = ring + b2n phase * 2 ^ 20 + b2n final * 2 ^ 21 := by
  have word := field_append_natLe
    (natLe 4 r.seq ++ natLe 2 r.status ++ natLe 2 r.progress ++ natLe 8 r.tag ++ natLe 8 r.result0 ++ natLe 4 r.result1) 4
    (ring + b2n phase * 2 ^ 20 + b2n final * 2 ^ 21)
  simp only [List.length_append, natLe_length] at word
  have := b2n_le_one phase
  have := b2n_le_one final
  exact word.trans (Nat.mod_eq_of_lt (by omega))

/-! ## Returned entries -/

/-- A completion head that moves over written entries returns them (R260, R266). -/
theorem exec_doorbellHead_of_moved {fn index : Nat} (reach : HostReach s fn) (fw : s.dev.romOnly = false) (h : look s.rings ring = some q)
    (own : q.fn = fn) (inRing : index < q.entries) (moves : (index + q.entries - q.chead) % q.entries ≠ 0)
    (written : (index + q.entries - q.chead) % q.entries ≤ q.unret) :
    exec (.doorbellHead fn ring index 0) s = .next (s.setRing ring (some { q with
      chead := index, unret := q.unret - (index + q.entries - q.chead) % q.entries })) := by
  obtain ⟨up, there⟩ := reach
  have named : dbRing s fn ring = some q := by simp [dbRing, h, own]
  simp [exec_doorbellHead, execDoorbellHead, up, there, fw, ringHead, named, moves, inRing, written]

/-- Two entries of a ring of `n` are no multiple of `n` apart. -/
theorem forward_ne_zero {index head n : Nat} (hi : index < n) (hh : head < n) (ne : index ≠ head) : (index + n - head) % n ≠ 0 := by
  intro zero
  rcases Nat.lt_or_gt_of_ne ne with lt | gt
  · rw [Nat.mod_eq_of_lt (by omega)] at zero
    omega
  · rw [show index + n - head = index - head + n by omega, Nat.add_mod_right, Nat.mod_eq_of_lt (by omega)] at zero
    omega

/-- Settles O8: a record's entry and its last word, the space for progress and for packets, and the way back of the entries. -/
theorem completionEntriesAndSpace : Obligations.CompletionEntriesAndSpace := by
  refine ⟨fun _ _ _ _ _ _ _ _ => ⟨rfl, rfl⟩, fun s ring q final notify r h => ⟨postRec_hostMem_of_look h, ?_⟩,
    fun ring phase final r => field_recBytes_flags phase final r, fun s c st r0 w sent alone => finishW_hostMem sent alone st r0 w,
    fun s c q => postProgress_of_space, fun s c q => postProgress_of_full, fun s ring q => exec_packetConsume_of_full, ?_⟩
  · exact ⟨q.posted notify, look_postRec h, rfl, fun wrap => by simp [Ring.posted, wrap], fun within => by simp [Ring.posted, within]⟩
  · intro s fn ring index q reach fw h own inRing ne written headIn
    exact exec_doorbellHead_of_moved reach fw h own inRing (forward_ne_zero inRing headIn ne) written

end Sys2Proof.Machine
end

section
/-! Commands that name a lost request (12_graec_commands R297): the check for DATA_LOST stands between that of the handle and the rest. -/

namespace Sys2Proof.Machine

variable {s : State} {c : Cmd} {r : Req} {f : Req → State}

/-- A command that DATA_LOST does not let pass ends with it, whatever else the later checks would find. -/
theorem onReq_of_lost (named : findReq s c.pkt.req = some r) (lost : r.dataLost = true) (draftOk : Bool) :
    onReq s c false draftOk f = finish s c stDataLost 0 := by
  simp [onReq, named, lost]

/-- A command that DATA_LOST lets pass goes on to the checks of the ring and of a bound draft. -/
theorem onReq_lostOk (named : findReq s c.pkt.req = some r) (own : r.ring = c.ring) {draftOk : Bool}
    (draft : r.boundBy = none ∨ draftOk = true) : onReq s c true draftOk f = f r := by
  rcases draft with free | rfl
  · simp [onReq, named, own, free]
  · simp [onReq, named, own]

/-- A command that waits for its request's turn and then checks it ends with DATA_LOST, once the turn has come. -/
theorem onReady_of_lost {opc ring seq : Nat} (ready : Ready s opc ring seq c) (turn : reqTurn s c = true)
    (named : findReq s c.pkt.req = some r) (lost : r.dataLost = true) (g : Cmd → State → Req → State) :
    onReady opc ring seq (fun c s => if !reqTurn s c then s else onReq s c false false (g c s)) s = finish s c stDataLost 0 := by
  simp [onReady_of ready, turn, onReq_of_lost named lost]

/-- Settles O23: four commands wait for their request's turn and end at its check for DATA_LOST; the other three pass that check. -/
theorem lostRequestsEndWithDataLost : Obligations.LostRequestsEndWithDataLost := by
  intro s ring seq c r named lost turn
  refine ⟨fun ready => ?_, fun ready => ?_, fun ready => ?_, fun ready => ?_, fun own ready => ?_, fun own free ready => ?_,
    fun own ready => ?_⟩
  · rw [exec_reqAppend, execReqAppend, onReady_of_lost ready turn named lost]
  · rw [exec_reqStep, execReqStep, onReady_of_lost ready turn named lost]
  · rw [exec_reqVerify, execReqVerify, onReady_of_lost ready turn named lost]
  · rw [exec_prefixPin, execPrefixPin, onReady_of_lost ready turn named lost]
  · rw [exec_reqQuery, execReqQuery, onReady_of ready, onReq_lostOk named own (.inr rfl)]
  · rw [exec_reqCancel, execReqCancel, onReady_of ready, onReq_lostOk named own (.inl free)]
  · rw [exec_reqClose, execReqClose, onReady_of ready, onReq_lostOk named own (.inr rfl)]

end Sys2Proof.Machine
end

section
/-! Traces (12_graec_commands R303). -/

namespace Sys2Proof.Machine

variable {s : State} {ring seq : Nat} {c : Cmd}

/-- The state with this value for the trace ID of a command: its start plus 1 while the interval is open, 0 once it is closed. -/
def setTrace (s : State) (c : Cmd) (v : Nat) : State := s.updFn c.fn fun f => { f with traces := put 0 f.traces (c.p 0 2) v }

theorem exec_traceStart_of_ready (ready : Ready s 0xC0 ring seq c) : exec (.traceStart ring seq) s = .next
    (if nat (s.fn c.fn).traces (c.p 0 2) ≠ 0 then finish s c stNotPermitted 0
      else finish (setTrace s c (s.dev.now + 1)) c stOk s.dev.now) := by
  rw [exec_traceStart, execTraceStart, onReady_of ready]
  rfl

theorem exec_traceStop_of_unopened (ready : Ready s 0xC1 ring seq c) (unopened : nat (s.fn c.fn).traces (c.p 0 2) = 0) :
    exec (.traceStop ring seq) s = .next (finishW s c stOk 0 8) := by
  simp only [exec_traceStop, execTraceStop, onReady_of ready, unopened]

/-- A stop of an interval that began at tick `t` closes it, whether or not a tick has passed. -/
theorem exec_traceStop_of_opened (ready : Ready s 0xC1 ring seq c) {t : Nat} (opened : nat (s.fn c.fn).traces (c.p 0 2) = t + 1) :
    exec (.traceStop ring seq) s = .next (if s.dev.now = t then finishW (setTrace s c 0) c stOk 0 16
      else finish (setTrace s c 0) c stOk (s.dev.now - t)) := by
  simp only [exec_traceStop, execTraceStop, onReady_of ready, opened, State.updFn_dev, setTrace]

/-- Settles O19: a start by whether its ID is open, a stop by that and by whether a tick has passed. -/
theorem tracesMeasureIntervals : Obligations.TracesMeasureIntervals := by
  refine ⟨fun s ring seq c ready => ⟨fun unopened => ?_, fun opened => ?_⟩,
    fun s ring seq c ready => ⟨exec_traceStop_of_unopened ready,
      fun t opened => ⟨setTrace s c 0, rfl, fun passed => ?_, fun same => ?_⟩⟩⟩
  · rw [exec_traceStart_of_ready ready, if_neg (not_not.mpr unopened), setTrace]
  · rw [exec_traceStart_of_ready ready, if_pos opened]
  · rw [exec_traceStop_of_opened ready opened, if_neg passed]
  · rw [exec_traceStop_of_opened ready opened, if_pos same]

end Sys2Proof.Machine
end

section
/-! The mantel log (20_mantel_log): its open record (R452), the freeze (R455) and the clear (R458, R459). -/

namespace Sys2Proof.Machine

variable {s : State} {l : Mantel} {r : LogRec} {d : Dev} {ring seq code domain data : Nat} {c : Cmd}

/-! ## The open record -/

theorem closeRec_eq (l : Mantel) : closeRec l = { l with ram := l.ram ++ l.openRec.toList, openRec := none } := by
  obtain ⟨ram, openRec⟩ := l
  cases openRec with
  | none => rw [Option.toList_none, List.append_nil, closeRec]
  | some r => rfl

/-- An event equal to the open record repeats it, and the repeat 65,535 closes it (R452). -/
theorem logStamp_of_repeat (isOpen : l.openRec = some r) (deferred : Bool) : logStamp d r.code r.domain r.data deferred l =
    if r.count + 1 ≥ 65535 then { l with ram := l.ram ++ [{ r with count := r.count + 1, lastSec := d.opSec }], openRec := none }
    else { l with openRec := some { r with count := r.count + 1, lastSec := d.opSec } } := by
  simp only [logStamp, isOpen, and_self, if_true]

/-- An event that the open record does not match closes it and opens a record of its own, where the buffer has room (R452, R453). -/
theorem logStamp_of_new (new : ∀ r, l.openRec = some r → r.code ≠ code ∨ r.domain ≠ domain ∨ r.data ≠ data) (room : ramCount l < 256) :
    logStamp d code domain data false l = { closeRec l with
      openRec := some (freshRec d code domain data l.nextSeq), openedAt := d.opSec, nextSeq := (l.nextSeq + 1) % 2 ^ 32 } := by
  cases isOpen : l.openRec with
  | none => simp only [logStamp, isOpen, if_neg (Nat.not_le.mpr room), freshRec]
  | some r =>
    have differs : ¬(r.code = code ∧ r.domain = domain ∧ r.data = data) := by
      rintro ⟨sameCode, sameDomain, sameData⟩
      simpa [sameCode, sameDomain, sameData] using new r isOpen
    simp only [logStamp, isOpen, if_neg differs, if_neg (Nat.not_le.mpr room), freshRec]

theorem exec_logEvent_of_clocked (clocks : clocked s = true) (fits : data < 2 ^ 64) :
    exec (.logEvent code domain data) s = .next { s with log := logStamp s.dev code domain data false s.log } := by
  rw [exec_logEvent, execLogEvent, logEvent, if_pos clocks, Nat.mod_eq_of_lt fits, State.updLog]

/-! ## What an event and the writing to flash leave alone -/

theorem logStamp_frame (d : Dev) (code domain data : Nat) (deferred : Bool) (l : Mantel) :
    (logStamp d code domain data deferred l).flash = l.flash ∧ (logStamp d code domain data deferred l).frozen = l.frozen := by
  simp only [logStamp, closeRec_eq]
  repeat' split
  all_goals exact ⟨rfl, rfl⟩

/-- An event reaches neither the flash nor the freeze, stamped or held. -/
theorem logEvent_log_frame (s : State) (code domain data : Nat) :
    (logEvent s code domain data).log.flash = s.log.flash ∧ (logEvent s code domain data).log.frozen = s.log.frozen := by
  unfold logEvent
  split
  · rw [State.updLog_log]
    exact logStamp_frame ..
  · exact ⟨rfl, rfl⟩

theorem foldl_flashRec_openRec (rs : List LogRec) (l : Mantel) : (rs.foldl flashRec l).openRec = l.openRec := by
  induction rs generalizing l with
  | nil => rfl
  | cons r rs ih => exact ih (flashRec l r)

theorem flashAll_closeRec_openRec (l : Mantel) : (flashAll (closeRec l)).openRec = none := by
  rw [flashAll, foldl_flashRec_openRec, closeRec_eq]

/-! ## LOG_FREEZE and LOG_THAW -/

theorem exec_logFreeze_of_thawed (ready : Ready s 0xA0 ring seq c) (thawed : s.log.frozen = false) :
    exec (.logFreeze ring seq) s = .next (finish
      { s with log := { flashAll (closeRec s.log) with frozen := true, frozenAt := s.dev.opSec, lostFrozen := 0 } } c stOk
      ((flashAll (closeRec s.log)).newestSeq % 8192)) := by
  simp only [exec_logFreeze, execLogFreeze, onReady_of ready, thawed, Bool.false_eq_true, if_false, State.updLog]

theorem exec_logThaw_of_frozen (ready : Ready s 0xA2 ring seq c) (frozen : s.log.frozen = true) :
    exec (.logThaw ring seq) s = .next (finish { s with log := { s.log with frozen := false, lostFrozen := 0 } } c stOk s.log.lostFrozen) := by
  simp only [exec_logThaw, execLogThaw, onReady_of ready, frozen, if_true, State.updLog]

/-! ## LOG_CLEAR -/

/-- A log that is not frozen compares the code, until eight were wrong (R458). -/
theorem exec_logClear_of_compared (ready : Ready s 0xA3 ring seq c) (thawed : s.log.frozen = false) (tries : s.log.wrong < 8)
    (provisioned : s.log.clearCode = some code) : exec (.logClear ring seq) s = .next
      (if c.p 0 8 = code then finish { s with log := clearLog s.dev s.log } c stOk 0
        else finish { s with log := { s.log with wrong := s.log.wrong + 1 } } c stNotPermitted 0) := by
  have compares : ¬(s.log.frozen = true ∨ s.log.wrong ≥ 8) := by simp [thawed, tries]
  simp only [exec_logClear, execLogClear, onReady_of ready, if_neg compares, provisioned, State.updLog]

/-- Every other LOG_CLEAR is refused without a look at the code (log entry 71). -/
theorem exec_logClear_of_refused (ready : Ready s 0xA3 ring seq c)
    (refuses : s.log.clearCode = none ∨ s.log.wrong ≥ 8 ∨ s.log.frozen = true) :
    exec (.logClear ring seq) s = .next (finish s c stNotPermitted 0) := by
  by_cases barred : s.log.frozen = true ∨ s.log.wrong ≥ 8
  · simp only [exec_logClear, execLogClear, onReady_of ready, if_pos barred]
  · have unprovisioned : s.log.clearCode = none := by tauto
    simp only [exec_logClear, execLogClear, onReady_of ready, if_neg barred, unprovisioned]

/-- The valid records that a clear of this log erases, its open record closed. -/
def erasedCount (l : Mantel) : Nat := (l.flash.filter fun e => e.2.valid).length + l.ram.length

/-- The SEQ of the newest of them, or the SEQ before LOG_CLEARED's own (R459). -/
def erasedNewest (l : Mantel) : Nat :=
  match l.ram.getLast? with
  | some r => r.seq
  | none => if erasedCount l = 0 then (l.nextSeq + 2 ^ 32 - 1) % 2 ^ 32 else l.newestSeq

theorem erasedNewest_of_getLast? (last : l.ram.getLast? = some r) : erasedNewest l = r.seq := by
  simp only [erasedNewest, last]

theorem erasedNewest_of_ram_nil (empty : l.ram = []) : erasedNewest l =
    if erasedCount l = 0 then (l.nextSeq + 2 ^ 32 - 1) % 2 ^ 32 else l.newestSeq := by
  simp only [erasedNewest, empty, List.getLast?_nil]

theorem ram_eq_nil_of_erasedCount (noRecords : erasedCount l = 0) : l.ram = [] :=
  List.length_eq_zero_iff.mp (Nat.add_eq_zero_iff.mp noRecords).2

/-- The first record of an empty flash is its only one. -/
theorem flashRec_of_empty (empty : l.flash = []) (r : LogRec) :
    flashRec l r = { l with flash := [(r.seq % 8192, r)], newestSeq := r.seq } := by
  simp only [flashRec, empty, List.filter_nil, ite_self, erase, insert]

theorem clearLog_eq (d : Dev) (l : Mantel) : clearLog d l = { l with
    flash := [(l.nextSeq % 8192, freshRec d 0x9001 0xF (evData [(erasedCount (closeRec l), 4), (erasedNewest (closeRec l), 4)]) l.nextSeq)],
    ram := [], openRec := none, nextSeq := (l.nextSeq + 1) % 2 ^ 32, newestSeq := l.nextSeq } := by
  rw [clearLog, flashRec_of_empty rfl, closeRec_eq]
  rfl

/-! ## The obligations -/

/-- Settles O15: an event by whether it equals the open record, and the four other ways in which a record closes. -/
theorem openRecordRepeats : Obligations.OpenRecordRepeats := by
  refine ⟨fun s code domain data r clocks fits isOpen => ⟨?_, fun differs room => ?_⟩,
    fun s code domain data clocks fits noneOpen room => ?_, fun s r isOpen due => ?_, fun s => ⟨?_, ?_⟩,
    fun s ring seq c t ready thawed run => ?_⟩
  · rintro rfl rfl rfl
    rw [exec_logEvent_of_clocked clocks fits, logStamp_of_repeat isOpen]
    exact ⟨fun below => by rw [if_neg (Nat.not_le.mpr below)], fun last => by rw [if_pos last]⟩
  · have new : ∀ r', s.log.openRec = some r' → r'.code ≠ code ∨ r'.domain ≠ domain ∨ r'.data ≠ data := by
      simpa [isOpen] using differs
    have count : ramCount s.log < 256 := by simpa [ramCount, isOpen] using Nat.succ_lt_succ room
    rw [exec_logEvent_of_clocked clocks fits, logStamp_of_new new count, closeRec_eq, isOpen, Option.toList_some]
  · have count : ramCount s.log < 256 := by simpa [ramCount, noneOpen] using room
    rw [exec_logEvent_of_clocked clocks fits, logStamp_of_new (by simp [noneOpen]) count, closeRec_eq, noneOpen, Option.toList_none,
      List.append_nil]
  · simp [exec_logRecordTimeout, execLogRecordTimeout, isOpen, due, State.updLog, closeRec_eq]
  · rw [flushLog, State.updLog_log]
    exact flashAll_closeRec_openRec s.log
  · rw [clearLog_eq]
  · rw [exec_logFreeze_of_thawed ready thawed] at run
    cases run
    rw [finish_log]
    exact flashAll_closeRec_openRec s.log

/-- Settles O16: the freeze, what an event and a flash write do under it, its three ends, and the flash write after them. -/
theorem logFreezes : Obligations.LogFreezes := by
  refine ⟨fun s ring seq c => exec_logFreeze_of_thawed, fun l => ?_, fun s frozen => ?_, fun s t code domain data frozen run => ?_,
    fun s ring seq c => exec_logThaw_of_frozen, fun s => by rw [flushLog, State.updLog_log], fun s frozen due => ?_,
    fun s clocks thawed => ?_⟩
  · exact ⟨rfl, by rw [closeRec_eq], by rw [closeRec_eq], rfl⟩
  · simp [exec_logFlashWrite, execLogFlashWrite, frozen]
  · rw [exec_logEvent, execLogEvent] at run
    cases run
    obtain ⟨sameFlash, sameFrozen⟩ := logEvent_log_frame s code domain (data % 2 ^ 64)
    exact ⟨sameFlash, sameFrozen.trans frozen⟩
  · simp [exec_logFreezeTimeout, execLogFreezeTimeout, frozen, due, State.updLog]
  · simp [exec_logFlashWrite, execLogFlashWrite, clocks, thawed, State.updLog]

/-- Settles O17: the command by whether it compares its code, and the log after a clear by what the erased buffer held. -/
theorem logClears : Obligations.LogClears := by
  refine ⟨fun s ring seq c ready => ⟨fun thawed tries right => ?_, fun code thawed tries provisioned wrong => ?_,
    exec_logClear_of_refused ready, rfl⟩,
    fun d l => ⟨erasedNewest (closeRec l), _, clearLog_eq d l, rfl, fun x => erasedNewest_of_getLast?, fun empty inFlash => ?_,
      fun noRecords => ?_⟩⟩
  · rw [exec_logClear_of_compared ready thawed tries right, if_pos rfl]
  · rw [exec_logClear_of_compared ready thawed tries provisioned, if_neg wrong]
  · rw [erasedNewest_of_ram_nil empty, erasedCount, if_neg inFlash, closeRec_eq]
  · rw [erasedNewest_of_ram_nil (ram_eq_nil_of_erasedCount noRecords), erasedCount, if_pos noRecords, closeRec_eq]

end Sys2Proof.Machine
end

section
/-! The start of a packet (11_graec_rings R258, R264). -/

namespace Sys2Proof.Machine

variable {s : State} {ring seq : Nat} {q : Ring} {c d : Cmd}

theorem evaluate_of_ready (passed : gateLate s c = .ready) : evaluate s c = markClosing (putCmd s { c with phase := .ready }) c := by
  simp only [evaluate, passed]

@[simp] theorem headed_cmds : (headed s ring q).cmds = s.cmds := by
  unfold headed
  split <;> simp

@[simp] theorem headed_orderCtr : (headed s ring q).orderCtr = s.orderCtr := by
  unfold headed
  split <;> simp

@[simp] theorem headed_dev : (headed s ring q).dev = s.dev := by
  unfold headed
  split <;> simp

/-- On a ring with nothing outstanding a packet that passes every check starts, fenced or not. -/
theorem consumeNew_of_alone {p : Packet} {t : State} (alone : ∀ d ∈ s.cmds, d.ring ≠ ring) (isNew : c = newCmd s ring q.fn p .fenced)
    (joined : t = addCmd (s.updRing ring fun r => { r with next := (r.next + 1) % 2 ^ 32 }) c) (early : gateEarly t c = none)
    (late : gateLate t c = .ready) : consumeNew s ring q p = markClosing (putCmd t { c with phase := .ready }) c := by
  have noneEarlier : (s.updRing ring fun r => { r with next := (r.next + 1) % 2 ^ 32 }).cmds.filter (fun d => d.ring == ring) = [] := by
    simpa [List.filter_eq_nil_iff] using alone
  have same : newCmd (s.updRing ring fun r => { r with next := (r.next + 1) % 2 ^ 32 }) ring q.fn p .fenced = c := by
    simp [isNew, newCmd]
  simp only [consumeNew, noneEarlier, same, ← joined, early, List.isEmpty_nil, List.any_nil, Bool.not_true, Bool.and_false, Bool.or_false,
    Bool.false_eq_true, if_false, evaluate_of_ready late]

/-- A fence starts once no command of its ring comes before it. -/
theorem exec_fenceStart_of_first (found : findCmd s ring seq = some c) (on : consuming s = true) (waits : c.phase = .fenced)
    (first : ∀ d ∈ s.cmds, d.ring = ring → c.order ≤ d.order) (passed : gateLate s c = .ready) :
    exec (.fenceStart ring seq) s = .next (releaseBehind ring
      (s.cmds.filter fun d => d.ring == ring && decide (d.order > c.order) && decide (d.phase = .fenced))
      (markClosing (putCmd s { c with phase := .ready }) c)) := by
  have noneEarlier : (s.cmds.any fun d => d.ring == ring && decide (d.order < c.order)) = false := by simpa using first
  simp [exec_fenceStart, execFenceStart, found, on, waits, noneEarlier, evaluate_of_ready passed]

theorem exec_fenceStart_of_later (found : findCmd s ring seq = some c) (hd : d ∈ s.cmds) (own : d.ring = ring) (before : d.order < c.order) :
    exec (.fenceStart ring seq) s = .next s := by
  have earlier : (s.cmds.any fun d => d.ring == ring && decide (d.order < c.order)) = true := by simpa using ⟨d, hd, own, before⟩
  simp [exec_fenceStart, execFenceStart, found, earlier]

/-- Settles O9: a packet alone on its ring, and a fence by whether an earlier command is outstanding. -/
theorem packetsStart : Obligations.PacketsStart := by
  refine ⟨fun s ring q c t h seq small alone isNew joined early late => ?_,
    fun s ring seq c found on waits first passed => exec_fenceStart_of_first found on waits first passed,
    fun s ring seq c d found hd own before => exec_fenceStart_of_later found hd own before⟩
  have new : q.dist (headPacket s q) = 0 := by
    rw [Ring.dist, seq, Nat.add_sub_cancel_left, Nat.mod_self]
  have isNew' : c = newCmd (headed s ring q) ring q.fn (headPacket s q) .fenced := by simpa [newCmd] using isNew
  rw [exec_packetConsume_of_consumable h, consume_eq, if_pos new, consumeNew_of_alone (by rwa [headed_cmds]) isNew' joined early late]

end Sys2Proof.Machine
end

section
/-! Doorbells (11_graec_rings R259, R260). -/

namespace Sys2Proof.Machine

variable {s : State} {fn ring index resv : Nat} {q : Ring} {wr : List (Nat × List Byte)}

/-- What the host writes before a doorbell is in its memory alone. -/
theorem hostWrites_eq (s : State) (wr : List (Nat × List Byte)) : hostWrites s wr = { s with hostMem := (hostWrites s wr).hostMem } := by
  induction wr generalizing s with
  | nil => rfl
  | cons e wr ih => exact ih (s.hostWrite e.1 e.2)

theorem exec_doorbellTail_of_reach (reach : HostReach s fn) (fw : s.dev.romOnly = false) :
    exec (.doorbellTail fn ring index resv wr) s = .next (ringTail (hostWrites s wr) fn ring index resv) := by
  obtain ⟨up, there⟩ := reach
  have up' : reachable (hostWrites s wr) = true := by rw [hostWrites_eq]; exact up
  have there' : fnUp (hostWrites s wr) fn = true := by rw [hostWrites_eq]; exact there
  have fw' : (hostWrites s wr).dev.romOnly = false := by rw [hostWrites_eq]; exact fw
  simp [exec_doorbellTail, execDoorbellTail, up', there', fw']

theorem exec_doorbellHead_of_reach (reach : HostReach s fn) (fw : s.dev.romOnly = false) :
    exec (.doorbellHead fn ring index resv) s = .next (ringHead s fn ring index resv) := by
  obtain ⟨up, there⟩ := reach
  simp [exec_doorbellHead, execDoorbellHead, up, there, fw]

@[simp] theorem dbRing_hostWrites : dbRing (hostWrites s wr) fn ring = dbRing s fn ring := by
  rw [hostWrites_eq]
  rfl

theorem dbRing_eq_some : dbRing s fn ring = some q ↔ look s.rings ring = some q ∧ q.fn = fn := by
  simp [dbRing, Option.filter_eq_some_iff]

theorem ignoreDb_eq : ignoreDb s fn = s.updFn fn fun f => { f with dbIgnored := min (f.dbIgnored + 1) 255 } := rfl

theorem ringTail_of_slot (named : dbRing s fn ring = some q) (slot : index < q.slots) :
    ringTail s fn ring index 0 = s.setRing ring (some { q with tail := index }) := by
  simp [ringTail, named, slot]

theorem ringTail_of_ignored (bad : ∀ q, dbRing s fn ring = some q → resv ≠ 0 ∨ index ≥ q.slots) : ringTail s fn ring index resv = ignoreDb s fn := by
  cases named : dbRing s fn ring with
  | none => simp only [ringTail, named]
  | some q => simp only [ringTail, named, if_pos (bad q named)]

theorem ringHead_of_ignored (bad : ∀ q, dbRing s fn ring = some q →
      resv ≠ 0 ∨ index ≥ q.entries ∨ (index ≠ q.chead ∧ (index + q.entries - q.chead) % q.entries > q.unret)) :
    ringHead s fn ring index resv = ignoreDb s fn := by
  cases named : dbRing s fn ring with
  | none => simp only [ringHead, named]
  | some q =>
    simp only [ringHead, named]
    rw [if_pos]
    rcases bad q named with reserved | beyond | ⟨-, unwritten⟩
    · exact .inl reserved
    · exact .inr (.inl beyond)
    · rw [if_neg (by omega)]
      exact .inr (.inr unwritten)

/-- Settles O10: a doorbell by whether it names a slot of a ring of its function or an entry that is written. -/
theorem doorbellsMoveOrAreIgnored : Obligations.DoorbellsMoveOrAreIgnored := by
  refine ⟨fun s fn ring index wr q reach fw hq own slot => ?_, fun s fn ring index q reach fw hq own ahead inRing written => ?_,
    fun s fn ring index resv wr reach fw bad => ?_, fun s fn ring index resv reach fw bad => ?_⟩
  · rw [exec_doorbellTail_of_reach reach fw, ringTail_of_slot (by simpa using dbRing_eq_some.mpr ⟨hq, own⟩) slot]
  · have dist : (index + q.entries - q.chead) % q.entries = index - q.chead := by
      rw [show index + q.entries - q.chead = index - q.chead + q.entries by omega, Nat.add_mod_right, Nat.mod_eq_of_lt (by omega)]
    rw [exec_doorbellHead_of_moved reach fw hq own inRing (by omega) (by omega), dist]
  · rw [exec_doorbellTail_of_reach reach fw, ringTail_of_ignored, ignoreDb_eq]
    intro q named
    obtain ⟨hq, own⟩ := dbRing_eq_some.mp (dbRing_hostWrites ▸ named)
    exact bad q hq own
  · rw [exec_doorbellHead_of_reach reach fw, ringHead_of_ignored, ignoreDb_eq]
    intro q named
    obtain ⟨hq, own⟩ := dbRing_eq_some.mp named
    exact bad q hq own

end Sys2Proof.Machine
end

section
/-! The canonical form of the state along every step. -/

namespace Sys2Proof.Machine

variable {s : State} {p : List Instr}

/-- Every command keeps the queue behind it and the canonical form: one lemma a meaning. -/
theorem exec_keep (kept : Kept p s) (c : Instr) : KeptR p (exec c s) := by
  cases c
  exacts [
    execPacketConsume_keep kept _, execFenceStart_keep kept _ _, execInProgressPost_keep kept _ _ _ _, execMsixCoalesce_keep kept _,
    execConsumptionResume_keep kept, execOutstandingDrained_keep kept _ _, execDoorbellTail_keep kept _ _ _ _ _,
    execDoorbellHead_keep kept _ _ _ _, execAdminEnable_keep kept _ _, execAdminDisable_keep kept _ _,
    execRegisterWrite_keep kept _ _, execLowHalfRead_keep kept _ _, execHighHalfRead_keep kept _ _, execConfigRequest_keep kept _ _,
    execFlr_keep kept _, execSscCfgWrite_keep kept _, execLogDataRead_keep kept, execClearCodeWrite_keep kept _,
    execHello_keep kept _ _, execGoodbye_keep kept _ _, execRingCreate_keep kept _ _, execRingDestroy_keep kept _ _,
    execRingBind_keep kept _ _, execCtxCreate_keep kept _ _, execCtxDestroy_keep kept _ _, execCtxLoad_keep kept _ _ _,
    execVariantLoad_keep kept _ _, execVariantDrop_keep kept _ _, execTableLoad_keep kept _ _, execTableUpdate_keep kept _ _,
    execReqOpen_keep kept _ _, execReqAppend_keep kept _ _, execReqStep_keep kept _ _, execReqVerify_keep kept _ _,
    execReqClose_keep kept _ _, execReqCancel_keep kept _ _, execReqQuery_keep kept _ _, execPrefixPin_keep kept _ _,
    execPrefixRelease_keep kept _ _, execPanelRead_keep kept _ _, execPanelWrite_keep kept _ _, execCalRun_keep kept _ _,
    execCalStatus_keep kept _ _, execCalCommit_keep kept _ _, execSelfTest_keep kept _ _, execSweepConfig_keep kept _ _,
    execCascadeJoin_keep kept _ _, execCascadeLeave_keep kept _ _, execCrownAssign_keep kept _ _, execMirrorConfig_keep kept _ _,
    execFailoverAdopt_keep kept _ _, execLogFreeze_keep kept _ _, execLogRead_keep kept _ _, execLogThaw_keep kept _ _,
    execLogClear_keep kept _ _, execPowerLimit_keep kept _ _, execStateSet_keep kept _ _, execPowerDown_keep kept _ _,
    execTraceStart_keep kept _ _, execTraceStop_keep kept _ _, execRecordStart_keep kept _ _, execRecordStop_keep kept _ _,
    execReplay_keep kept _ _, execOpProgress_keep kept _ _, execOpAbort_keep kept _ _, execFwStage_keep kept _ _,
    execFwActivate_keep kept _ _, execDispatchBoundary_keep kept _, execSpillReturn_keep kept, execAppendChunkRetry_keep kept _ _,
    execAppendChunkTimeout_keep kept _ _, execExecutionStart_keep kept _, execExecutionEnd_keep kept _,
    execInstructionComplete_keep kept _ _, execExecLimitExpire_keep kept _, execFire_keep kept _, execFirev_keep kept _,
    execFireSlot_keep kept _ _ _, execPreload_keep kept _, execPromote_keep kept _, execMove_keep kept _, execQuant_keep kept _,
    execDeq_keep kept _, execSend_keep kept _, execRecv_keep kept _, execReduce_keep kept _, execKvapp_keep kept _,
    execHobFlush_keep kept _ _ _, execKvidx_keep kept _, execKvgath_keep kept _, execAttn_keep kept _, execKvevict_keep kept _,
    execNorm_keep kept _, execAct_keep kept _, execRope_keep kept _, execEmbg_keep kept _, execSample_keep kept _,
    execVerify_keep kept _, execWaitCtr_keep kept _, execSignal_keep kept _, execSignalArrival_keep kept _,
    execLoopBody_keep kept _, execBr_keep kept _, execEndExec_keep kept _, execNopInstr_keep kept _, execTimeread_keep kept _,
    execRecompute_keep kept _ _, execOutlier_keep kept _, execDelta_keep kept _ _, execFlueResultArrival_keep kept _,
    execFreeFlue_keep kept _ _, execStorageReport_keep kept _, execStorageRepair_keep kept _ _, execScrubRow_keep kept _ _,
    execWindowClose_keep kept _, execBgCalDwell_keep kept _, execRecalDwell_keep kept _ _, execCalReferenceCheck_keep kept _,
    execCalAttemptEnd_keep kept _, execCalTrimLoad_keep kept, execSelfTestPhaseEnd_keep kept _ _ _,
    execSweepRound_keep kept _ _ _ _ _, execSweepDigest_keep kept _ _ _, execSweepSubinterval_keep kept,
    execHbmPatrol_keep kept _ _, execHbmUncorrectable_keep kept _, execHbmStackFail_keep kept _, execTileParityError_keep kept _ _,
    execMeshParityError_keep kept _ _ _, execHostReadFail_keep kept _, execHostReadRetryResult_keep kept _,
    execErrorRaise_keep kept _, execHandlerEnd_keep kept, execHandlerTimeout_keep kept, execRootAttemptStart_keep kept,
    execRootAttemptTimeout_keep kept, execRootSeriesRetry_keep kept, execMonitorWindow_keep kept _ _, execMissingEdgeTrip_keep kept,
    execLockLostTrip_keep kept _, execLane0EnterL0_keep kept, execLane0LeaveL0_keep kept, execDividerStep_keep kept,
    execHbmRecovery_keep kept _, execV12Rise_keep kept _, execRailPowerGood_keep kept _, execRailEnableTimeout_keep kept _,
    execRailReenable_keep kept _, execPerstAssert_keep kept, execPerstDeassert_keep kept, execHotReset_keep kept,
    execBootComplete_keep kept _ _, execRailFailRun_keep kept _ _, execPwrInputLow_keep kept _, execInputRecovered_keep kept,
    execInputLoss_keep kept _, execSenseChange_keep kept _, execRailFallen_keep kept _, execRailFallTimeout_keep kept _,
    execWake_keep kept, execHostLinkRetrain_keep kept _ _ _, execModulePresent_keep kept _, execModuleRemoved_keep kept _,
    execCageOvercurrent_keep kept _, execThmUpdate_keep kept _, execCoefficientAdjust_keep kept _ _, execSensorInvalid_keep kept _,
    execFlueLoadWindow_keep kept, execTableUpdateApply_keep kept _, execLogEvent_keep kept _ _ _, execLogRecordTimeout_keep kept,
    execLogFlashWrite_keep kept, execLogRecordsLost_keep kept, execLogFreezeTimeout_keep kept, execPortTrained_keep kept _,
    execTrainFrame_keep kept _ _, execPortRetrain_keep kept _, execJoinTimeout_keep kept _ _, execAnnounceSend_keep kept _,
    execAnnounceFrame_keep kept _ _ _ _ _, execLinkFrame_keep kept _ _ _, execLackReport_keep kept _,
    execFrameReceive_keep kept _ _ _, execFrameForward_keep kept _ _, execRetransmitTimeout_keep kept _, execFullResend_keep kept _,
    execLnkRetryExhausted_keep kept _, execStartFrame_keep kept, execDoneFrame_keep kept, execCommitFrame_keep kept,
    execAbortFrame_keep kept, execAbortAck_keep kept, execStepTimeout_keep kept _, execHeartbeatSend_keep kept,
    execHeartbeatFrame_keep kept, execHeartbeatSilence_keep kept _, execFenceFrame_keep kept, execDataFrame_keep kept,
    execCreditFrame_keep kept, execGatherReq_keep kept, execGatherRsp_keep kept, execTupdateFrame_keep kept,
    execMirrorFrame_keep kept, execMirrorAck_keep kept, execMirrorFree_keep kept, execXferFrame_keep kept,
    execRegulatorFaultDown_keep kept _, execV3p3AuxChange_keep kept _, execLossOfSignal_keep kept _, execSmbusRefresh_keep kept,
    execChimneyContextReady_keep kept _ _]

/-- An SCLK cycle passes in the device times alone, and a command runs on a state whose stores are those of the one it is taken from. -/
theorem State.Canon.step (canon : s.Canon) : KeptR s.pending.tail (step s) := by
  unfold Machine.step
  split
  case h_1 idle => exact keptR_next (tick_keep ⟨by rw [idle]; rfl, canon⟩)
  case h_2 c cs waits => 
    have ready : Kept cs { s with pending := cs } := ⟨rfl, ⟨canon.hostMem, canon.cells, canon.gold, canon.fns, canon.rings, canon.ctxs,
      canon.tiles, canon.arrs, canon.flues, canon.reqs, canon.pages, canon.tileMem⟩⟩
    rw [waits]
    exact exec_keep ready c

/-- Settles O5: each meaning keeps the canonical form, and so does an idle cycle. -/
theorem stepKeepsCanonicalForm : Obligations.StepKeepsCanonicalForm :=
  fun _ t canon run => (canon.step t run).canon

end Sys2Proof.Machine
end

section
/-! Events of the rings: progress of long operations (11_graec_rings R277), interrupts (R267), the resumption of consumption (R272) and
the commands that wait for others (R256, R278, R286, R302). -/

namespace Sys2Proof.Machine

variable {s t : State} {ring seq : Nat} {q : Ring} {c c' : Cmd}

/-! ## The outstanding command -/

/-- A command is no duplicate that waits for its original's record. -/
def Cmd.original (c : Cmd) : Prop := ∀ a b, c.phase ≠ .dupOf a b

/-- What replaces the element found, and perhaps others, is found in its place. -/
theorem find?_map_replaced {α : Type} {p : α → Bool} {r : α → Prop} [DecidablePred r] {l : List α} {a b : α} (found : l.find? p = some a)
    (replaced : r a) (hb : p b = true) : (l.map fun d => if r d then b else d).find? p = some b := by
  induction l with
  | nil => cases found
  | cons d l ih =>
    rw [List.map_cons]
    by_cases hd : r d
    · rw [if_pos hd, List.find?_cons_of_pos hb]
    · rw [if_neg hd]
      by_cases hit : p d = true
      · rw [List.find?_cons_of_pos hit, Option.some.injEq] at found
        exact absurd (found ▸ replaced) hd
      · rw [List.find?_cons_of_neg hit] at found ⊢
        exact ih found

theorem findCmd_eq_some (found : findCmd s ring seq = some c) : c.ring = ring ∧ c.pkt.seq = seq := by
  have hit := List.find?_some found
  simp only [Bool.and_eq_true, beq_iff_eq] at hit
  exact hit.1

/-- A command that is put in place of the one found is found there. -/
theorem findCmd_putCmd (found : findCmd s ring seq = some c) (sameRing : c'.ring = c.ring) (sameOrder : c'.order = c.order)
    (sameSeq : c'.pkt.seq = c.pkt.seq) (orig : c'.original) : findCmd (putCmd s c') ring seq = some c' := by
  obtain ⟨hr, hs⟩ := findCmd_eq_some found
  refine find?_map_replaced (r := fun d => d.ring = c'.ring ∧ d.order = c'.order) found ⟨sameRing.symm, sameOrder.symm⟩ ?_
  rw [sameRing, hr, sameSeq, hs, beq_self_eq_true, beq_self_eq_true]
  cases h : c'.phase <;> simp
  exact orig _ _ h

/-! ## Progress -/

/-- A long operation runs or waits for a chunk: it may post its progress. -/
def Cmd.underWay (c : Cmd) : Prop := c.phase = .running ∨ ∃ t, c.phase = .chunkWait t

/-- Progress is posted for the operation as it stands once it has reached it, where 50 more have passed and 100 ms. -/
theorem exec_inProgressPost_of_due {progress position : Nat} (found : findCmd s ring seq = some c) (clocks : clocked s = true)
    (long : isLong c.pkt = true) (runs : c.underWay) (again : findCmd (reached s c progress position) ring seq = some c')
    (sameNow : (reached s c progress position).dev.now = s.dev.now) (risen : c'.lastProg + 50 ≤ c'.progress)
    (later : c'.lastInProg + 10000000 ≤ s.dev.now) :
    exec (.inProgressPost ring seq progress position) s = .next (postProgress
      (putCmd (reached s c progress position) { c' with lastProg := c'.progress, lastInProg := s.dev.now })
      { c' with lastProg := c'.progress, lastInProg := s.dev.now }) := by
  have due : ¬(c'.progress < c'.lastProg + 50 ∨ s.dev.now < c'.lastInProg + 10000000) := by omega
  rcases runs with runs | ⟨t, runs⟩ <;>
    simp [exec_inProgressPost, execInProgressPost, found, clocks, long, runs, again, due, sameNow]

theorem reached_of_own (h : c.pkt.opc = 0x80 ∨ c.pkt.opc = 0x41) (progress position : Nat) : reached s c progress position = s := by
  rcases h with h | h <;> simp only [reached, h]

theorem reached_of_told {progress position : Nat} (h70 : c.pkt.opc ≠ 0x70) (h80 : c.pkt.opc ≠ 0x80) (h41 : c.pkt.opc ≠ 0x41)
    (rises : c.progress ≤ progress) (mille : progress ≤ 1000) :
    reached s c progress position = putCmd s { c with progress := progress, position := position } := by
  unfold reached
  split
  · exact absurd ‹_› h70
  · exact absurd ‹_› h80
  · exact absurd ‹_› h41
  · exact if_pos ⟨rises, mille⟩

/-! ## Interrupts -/

theorem exec_msixCoalesce_of_due (hq : look s.rings ring = some q) (clocks : clocked s = true) (owed : q.irqPending = true)
    (due : ∀ n, q.lastIrq = some n → n + 100 ≤ s.dev.now) : exec (.msixCoalesce ring) s = .next (reap (sendIrq
      (s.setRing ring (some { q with irqPending := false, lastIrq := some s.dev.now })) q.fn q.vector) ring) := by
  have passed : (q.lastIrq.elim true fun t => decide (s.dev.now ≥ t + 100)) = true := by
    cases last : q.lastIrq with
    | none => rfl
    | some n => simpa using due n last
  simp [exec_msixCoalesce, execMsixCoalesce, hq, clocks, passed, raiseIrq, owed]

theorem exec_msixCoalesce_of_early (hq : look s.rings ring = some q) {n : Nat} (last : q.lastIrq = some n) (early : s.dev.now < n + 100) :
    exec (.msixCoalesce ring) s = .next s := by
  simp [exec_msixCoalesce, execMsixCoalesce, hq, last, Nat.not_le.mpr early]

@[simp] theorem sendIrq_rings (s : State) (fn vector : Nat) : (sendIrq s fn vector).rings = s.rings := by
  unfold sendIrq
  extract_lets f
  split <;> simp

theorem setRing_fn (s : State) (i fn : Nat) (r : Option Ring) : (s.setRing i r).fn fn = s.fn fn := rfl

/-- The message of a ring that stays goes out, or is held behind its mask. -/
theorem reap_sendIrq_of_live (q' : Ring) (live : q'.destroying = false) (fn vector : Nat) :
    reap (sendIrq (s.setRing ring (some q')) fn vector) ring = if bit (msixWord (s.fn fn) (4 * vector + 3)) 0 = true
      then (s.setRing ring (some q')).updFn fn fun f => { f with pba := put 0 f.pba vector 1 }
      else (s.setRing ring (some q')).updHost fun h => { h with irqs := h.irqs ++ [(fn, vector)] } := by
  rw [reap_of_live (q := q') (by simp) live]
  rfl

/-! ## Consumption after the device limit -/

/-- The ring that CONSUMPTION_RESUME serves: the next after the last one served, or else the first (R272). -/
def resumed (s : State) : Option Nat := ((resumable s).find? fun r => decide (r > s.lastServed)).or (resumable s).head?

theorem head?_filter_append_resumable :
    (((resumable s).filter fun r => decide (r > s.lastServed)) ++ resumable s).head? = resumed s := by
  rw [List.head?_append, List.head?_filter, resumed]

theorem exec_consumptionResume_of_some {r : Nat} (on : consuming s = true) (paused : s.paused = true) (below : outOrdinary s < 65536)
    (next : resumed s = some r) (hq : look s.rings r = some q) : exec .consumptionResume s = .next (consume s r q) := by
  simp only [exec_consumptionResume, execConsumptionResume, on, paused, Nat.not_le.mpr below, decide_false, Bool.not_true, Bool.or_false,
    Bool.false_eq_true, if_false, head?_filter_append_resumable, next, hq]

theorem exec_consumptionResume_of_none (on : consuming s = true) (paused : s.paused = true) (below : outOrdinary s < 65536)
    (noneWaits : resumed s = none) : exec .consumptionResume s = .next { s with paused := false } := by
  simp only [exec_consumptionResume, execConsumptionResume, on, paused, Nat.not_le.mpr below, decide_false, Bool.not_true, Bool.or_false,
    Bool.false_eq_true, if_false, head?_filter_append_resumable, noneWaits]

/-! ## What has drained -/

/-- The command of a ring and SEQ waits for others to end. -/
def Draining (s : State) (ring seq : Nat) (c : Cmd) : Prop := findCmd s ring seq = some c ∧ clocked s = true ∧ c.phase = .draining

theorem exec_outstandingDrained_of (h : Draining s ring seq c) : exec (.outstandingDrained ring seq) s = .next (match c.pkt.opc with
    | 0x02 => endGoodbye s c
    | 0x11 => endDestroy s c
    | 0x44 => settle s c.pkt.req
    | 0xB1 => endLeave s c
    | 0xB2 => endPower s c
    | 0xE1 => endAbort s { c with position := endedAt s c }
    | _ => s) := by
  obtain ⟨found, clocks, drains⟩ := h
  simp [exec_outstandingDrained, execOutstandingDrained, found, clocks, drains] <;> rfl

theorem endPower_of_alone (alone : ∀ d ∈ s.cmds, d.order = c.order) : endPower s c =
    (beginDown (flushLog (raiseAll (finish s c stOk 0)))).updPwr fun p => { p with blocked := true } := by
  have noOther : (s.cmds.any fun d => d.order != c.order) = false := by simpa using alone
  simp [endPower, noOther]

/-- Settles O11: progress by who knows it, the message by the time since the last one, resumption by the next ring, the waits by opcode. -/
theorem ringEventsComplete : Obligations.RingEventsComplete := by
  refine ⟨fun s ring seq progress position c c1 c2 found clocks long runs h70 h80 h41 rises mille risen later e1 e2 => ?_,
    fun s ring seq progress position c found clocks long runs risen later => ?_,
    fun s t ring q hq clocks owed ht => ⟨fun due => ⟨fun live unmasked => ?_, fun live masked => ?_, fun dies => ?_⟩,
      fun n last early => exec_msixCoalesce_of_early hq last early⟩,
    fun s r q on paused below hq next => ?_, fun s on paused below noneWaits => ?_, fun s ring seq c found clocks drains => ?_⟩
  · have told := reached_of_told (s := s) (position := position) h70 h80 h41 rises mille
    have again : findCmd (reached s c progress position) ring seq = some c1 := by
      rw [told, ← e1]
      refine findCmd_putCmd found ?_ ?_ ?_ ?_ <;> rw [e1]
      intro a b
      simp [runs]
    rw [exec_inProgressPost_of_due found clocks long (.inl runs) again (by rw [told, putCmd_dev]) (by rwa [e1]) (by rwa [e1]), told, e2, e1]
  · have own : c.pkt.opc = 0x80 ∨ c.pkt.opc = 0x41 := by tauto
    have runs' : c.underWay := by
      rcases runs with ⟨h, -⟩ | ⟨-, h⟩
      · exact .inl h
      · exact .inr h
    have stays := reached_of_own (s := s) own progress position
    rw [exec_inProgressPost_of_due found clocks long runs' (by rw [stays, found]) (by rw [stays]) risen later, stays]
  · rw [exec_msixCoalesce_of_due hq clocks owed due, reap_sendIrq_of_live _ (by exact live), unmasked, if_neg Bool.false_ne_true, ht]
  · rw [exec_msixCoalesce_of_due hq clocks owed due, reap_sendIrq_of_live _ (by exact live), if_pos masked, ht]
  · rw [exec_msixCoalesce_of_due hq clocks owed due, ht]
  · refine exec_consumptionResume_of_some on paused below ?_ hq
    rcases next with ahead | ⟨noneAhead, first⟩
    · rw [resumed, ahead, Option.some_or]
    · rw [resumed, noneAhead, Option.none_or, first]
  · exact exec_consumptionResume_of_none on paused below (by simp [resumed, noneWaits])
  · rw [exec_outstandingDrained_of ⟨found, clocks, drains⟩]
    refine ⟨fun opc alone => ?_, fun opc gone => ?_, fun opc ended => ⟨endedAt s c, ?_⟩, fun opc left => ?_, fun opc alone => ?_⟩
    · simp [opc, endGoodbye, alone]
    · simp [opc, endDestroy, gone]
    · have ended' : findCmd s (Cmd.p { c with position := endedAt s c } 0 4) (Cmd.p { c with position := endedAt s c } 4 4) = none := ended
      simp [opc, endAbort, ended']
    · simp [opc, endLeave, left]
    · simp only [opc, endPower_of_alone alone]

end Sys2Proof.Machine
end

section
/-! Sessions and rings (11_graec_rings R252, R255, R256, R268; 12_graec_commands R286). -/

namespace Sys2Proof.Machine

variable {s : State} {ring seq : Nat} {q : Ring} {c : Cmd}

/-! ## The outstanding commands after one of them is put back -/

/-- A count of the outstanding commands that goes by ring, function and order does not change when one is put back with another phase. -/
theorem length_filter_putCmd (keep : Cmd → Bool) (c : Cmd) (byPlace : ∀ d ∈ s.cmds, d.ring = c.ring → d.order = c.order → keep d = keep c) :
    ((putCmd s c).cmds.filter keep).length = (s.cmds.filter keep).length := by
  simp only [putCmd, ← List.countP_eq_length_filter, List.countP_map]
  refine List.countP_congr fun d hd => ?_
  by_cases same : d.ring = c.ring ∧ d.order = c.order
  · simp [same, byPlace d hd same.1 same.2]
  · simp [same]

@[simp] theorem outOn_putCmd (s : State) (c : Cmd) (ring : Nat) : outOn (putCmd s c) ring = outOn s ring :=
  length_filter_putCmd _ c fun d _ same _ => by rw [same]

@[simp] theorem outOn_setRing (s : State) (i ring : Nat) (r : Option Ring) : outOn (s.setRing i r) ring = outOn s ring := rfl

theorem othersOfFn_putCmd (s : State) (c : Cmd) (p : Phase) : othersOfFn (putCmd s { c with phase := p }) c = othersOfFn s c :=
  length_filter_putCmd _ _ fun d _ _ same => by simp [show d.order = c.order from same]

/-! ## HELLO and GOODBYE -/

theorem regVer_mod : regVer % 65536 = 0x1310 := by decide

theorem exec_hello_of_alone (ready : Ready s 0x01 ring seq c) (alone : othersOfFn s c = 0) : exec (.hello ring seq) s = .next
    (if min (c.p 1 1) 0x13 < max (c.p 0 1) 0x10
      then finish (s.updFn c.fn fun f => { f with session := 0 }) c stBadVersion (256 * 0x1310)
      else finish (s.updFn c.fn fun f => { f with session := min (c.p 1 1) 0x13 }) c stOk (min (c.p 1 1) 0x13 + 256 * 0x1310)) := by
  rw [exec_hello, execHello, onReady_of ready, regVer_mod, if_neg (not_not.mpr alone)]

theorem exec_hello_of_others (ready : Ready s 0x01 ring seq c) (others : othersOfFn s c ≠ 0) : exec (.hello ring seq) s = .next
    (finish { s with freeCtr := s.freeCtr + 1 } c stBusy (Config.retryNs 0x01 s.freeCtr)) := by
  rw [exec_hello, execHello, onReady_of ready, if_pos others]
  rfl

theorem exec_goodbye_of_alone (ready : Ready s 0x02 ring seq c) (alone : othersOfFn s c = 0) : exec (.goodbye ring seq) s = .next
    ((finish (putCmd s { c with phase := .draining }) { c with phase := .draining } stOk 0).updFn c.fn fun f => { f with session := 0 }) := by
  rw [exec_goodbye, execGoodbye, onReady_of ready, endGoodbye, othersOfFn_putCmd, if_neg (not_not.mpr alone)]
  rfl

/-! ## RING_CREATE -/

theorem exec_ringCreate_of_own (ready : Ready s 0x10 ring seq c) (own : ownsRing s c.fn (c.p 0 4) = true) : exec (.ringCreate ring seq) s = .next
    (if (look s.rings (c.p 0 4)).isSome = true then finish s c stNoResource 0
      else finish (s.setRing (c.p 0 4) (some (newRing c.fn (c.p 8 8) (c.p 4 2) (c.p 16 8) (c.p 6 2) (c.p 24 8) (c.p 32 2) false))) c stOk 0) := by
  simp only [exec_ringCreate, execRingCreate, onReady_of ready, own, Bool.not_true, Bool.false_eq_true, if_false]

/-! ## RING_DESTROY -/

theorem erase_erase {α : Type} (m : SMap α) (k : Nat) : erase (erase m k) k = erase m k := by
  induction m with
  | nil => rfl
  | cons e m ih =>
    obtain ⟨j, v⟩ := e
    by_cases h : j = k <;> simp [erase, h, ih]

theorem erase_insert {α : Type} (m : SMap α) (k : Nat) (v : α) : erase (insert k v m) k = erase m k := by
  induction m with
  | nil => simp [insert, erase]
  | cons e m ih =>
    obtain ⟨j, w⟩ := e
    by_cases before : k < j
    · simp [insert, before, erase]
    · by_cases h : j = k <;> simp [insert, before, erase, h, ih]

theorem erase_put {α : Type} [DecidableEq α] (d : α) (m : SMap α) (k : Nat) (v : α) : erase (put d m k v) k = erase m k := by
  unfold put
  split
  · exact erase_erase m k
  · rw [erase_insert, erase_erase]

/-- The last of two writes of a key counts. -/
@[simp] theorem put_put {α : Type} [DecidableEq α] (d : α) (m : SMap α) (k : Nat) (v w : α) : put d (put d m k v) k w = put d m k w := by
  rw [put, erase_put]
  rfl

theorem dropRing_of_live (h : look s.rings ring = some q) (live : q.destroying = false) : dropRing s ring = s := by
  simp [dropRing, h, live]

theorem dropRing_of_owing (h : look s.rings ring = some q) (owes : q.irqPending = true) : dropRing s ring = s := by
  simp [dropRing, h, owes]

theorem dropRing_of_idle (h : look s.rings ring = some q) (dies : q.destroying = true) (idle : outOn s ring = 0) (quiet : q.irqPending = false)
    (ordinary : q.isAdmin = false) : dropRing s ring = s.setRing ring none := by
  simp [dropRing, h, dies, idle, quiet, ordinary]

theorem startAdmin_of_some {fn : Nat} (there : (look s.rings (s.fn fn).first).isSome = true) : startAdmin s fn = s := by
  have notNone : (look s.rings (s.fn fn).first).isNone = false := by rw [← Option.not_isSome, there]; rfl
  simp only [startAdmin, notNone, Bool.and_false, Bool.false_eq_true, if_false]

/-- No open request was opened on the ring. -/
def Unrequested (s : State) (ring : Nat) : Prop := ∀ e ∈ s.reqs, ∀ r, e.2 = some r → r.open_ = true → r.ring ≠ ring

/-- The function's admin ring is there and stays. -/
def AdminStays (s : State) (fn ring : Nat) : Prop := (s.fn fn).first ≠ ring ∧ ∃ a, look s.rings (s.fn fn).first = some a ∧ a.destroying = false

/-- Without requests of its own a ring that is to be destroyed is only marked, and then goes if it may. -/
theorem destroyRing_of_unrequested (h : look s.rings ring = some q) (free : Unrequested s ring) :
    destroyRing s ring = reap (s.setRing ring (some { q with destroying := true })) ring := by
  have noneMine : s.reqs.filterMap (fun e => e.2.bind fun r => if r.open_ && r.ring == ring then some (handleOf e.1 r.gen) else none) = [] := by
    refine List.filterMap_eq_nil_iff.mpr fun e he => Option.bind_eq_none_iff.mpr fun r hr => ?_
    by_cases opened : r.open_ = true
    · simp [opened, free e he r hr opened]
    · simp [opened]
  simp only [destroyRing, State.updRing, h, State.setRing_reqs, noneMine, List.foldl_nil]

theorem look_setRing_other {i j : Nat} (ne : j ≠ i) (r : Option Ring) : look (s.setRing i r).rings j = look s.rings j := by
  rw [State.setRing_rings]
  exact get_put_other none s.rings r ne

theorem AdminStays.setRing {fn : Nat} (h : AdminStays s fn ring) (r : Option Ring) : AdminStays (s.setRing ring r) fn ring := by
  obtain ⟨elsewhere, a, ha, live⟩ := h
  exact ⟨elsewhere, a, by rw [setRing_fn, look_setRing_other elsewhere, ha], live⟩

/-- The end of a ring leaves its admin ring alone. -/
theorem AdminStays.dropRing {fn : Nat} (h : AdminStays s fn ring) : startAdmin (dropRing s (s.fn fn).first) fn = s := by
  obtain ⟨-, a, ha, live⟩ := h
  rw [dropRing_of_live ha live, startAdmin_of_some (by rw [ha, Option.isSome_some])]

/-- A marked ring that owes its interrupt stays. -/
theorem reap_of_owing (h : look s.rings ring = some q) (dies : q.destroying = true) (owes : q.irqPending = true)
    (admin : AdminStays s q.fn ring) : reap s ring = s := by
  simp only [reap, h, dies, if_true, dropRing_of_owing h owes, admin.dropRing]

/-- A marked ring that is idle and owes nothing goes. -/
theorem reap_of_idle (h : look s.rings ring = some q) (dies : q.destroying = true) (idle : outOn s ring = 0) (quiet : q.irqPending = false)
    (ordinary : q.isAdmin = false) (admin : AdminStays s q.fn ring) : reap s ring = s.setRing ring none := by
  simp only [reap, h, dies, if_true, dropRing_of_idle h dies idle quiet ordinary]
  exact (admin.setRing none).dropRing

/-- Another phase leaves the parameters. -/
@[simp] theorem Cmd.p_withPhase (c : Cmd) (p : Phase) (o n : Nat) : Cmd.p { c with phase := p } o n = c.p o n := rfl

theorem exec_ringDestroy_of_ordinary (ready : Ready s 0x11 ring seq c) (hq : look s.rings (c.p 0 4) = some q) (own : q.fn = c.fn)
    (ordinary : q.isAdmin = false) (free : Unrequested s (c.p 0 4)) : exec (.ringDestroy ring seq) s = .next
      (endDestroy (reap ((putCmd s { c with phase := .draining }).setRing (c.p 0 4) (some { q with destroying := true })) (c.p 0 4))
        { c with phase := .draining }) := by
  have free' : Unrequested (putCmd s { c with phase := .draining }) (c.p 0 4) := by simpa [Unrequested] using free
  have hq' : look (putCmd s { c with phase := .draining }).rings (c.p 0 4) = some q := by rw [putCmd_rings, hq]
  rw [← destroyRing_of_unrequested hq' free']
  simp only [exec_ringDestroy, execRingDestroy, onReady_of ready, hq, ordinary, own, Bool.false_eq_true, if_false, ne_eq, not_true_eq_false,
    Cmd.p_withPhase]

theorem endDestroy_of_gone (gone : look s.rings (c.p 0 4) = none) : endDestroy s c = finish s c stOk 0 := by
  simp only [endDestroy, gone]

theorem endDestroy_of_marked (h : look s.rings (c.p 0 4) = some q) (dies : q.destroying = true) : endDestroy s c = s := by
  simp only [endDestroy, h, dies, if_true]

/-! ## RING_BIND -/

theorem exec_ringBind_of_range (ready : Ready s 0x12 ring seq c) (range : c.p 8 4 ≠ 0) : exec (.ringBind ring seq) s = .next
    (if c.p 4 4 = 0 ∨ (s.fn (c.p 0 1)).count ≠ 0 ∨ rangeTaken s (c.p 4 4) (c.p 8 4) = true then finish s c stNotPermitted 0
      else finish (s.updFn (c.p 0 1) fun f => { f with first := c.p 4 4, count := c.p 8 4 }) c stOk 0) := by
  simp only [exec_ringBind, execRingBind, onReady_of ready, if_neg range]

theorem exec_ringBind_of_release (ready : Ready s 0x12 ring seq c) (release : c.p 8 4 = 0) (off : (s.fn (c.p 0 1)).enable = false)
    (ringless : ∀ e ∈ s.rings, ∀ q, e.2 = some q → q.fn ≠ c.p 0 1) : exec (.ringBind ring seq) s = .next
      (finish (s.updFn (c.p 0 1) fun f => { f with first := 0, count := 0 }) c stOk 0) := by
  have noRing : (s.rings.any fun e => e.2.elim false fun q => q.fn == c.p 0 1) = false := by
    refine List.any_eq_false.mpr fun e he => ?_
    cases hq : e.2 with
    | none => simp
    | some q => simpa using ringless e he q hq
  simp only [exec_ringBind, execRingBind, onReady_of ready, if_pos release, off, noRing, Bool.or_self, Bool.false_eq_true, if_false]

/-- Settles O12: each command by the checks its rule names; RING_DESTROY by whether its ring owes an interrupt. -/
theorem sessionAndRingCommands : Obligations.SessionAndRingCommands := by
  refine ⟨fun s ring seq c ready alone => ⟨fun meets => ?_, fun apart => ?_⟩,
    fun s ring seq c ready others => ⟨_, exec_hello_of_others ready others⟩,
    fun s ring seq c c' ready alone draining => draining ▸ exec_goodbye_of_alone ready alone,
    fun s ring seq c ready own => ⟨fun new => ?_, fun created => ?_⟩,
    fun s ring seq c q ready hq own => ⟨fun admin => ?_, fun ordinary idle free elsewhere there stays => ?_⟩,
    fun s ring seq c ready range => ⟨fun notZero noneYet untaken => ?_, fun refused => ?_⟩,
    fun s ring seq c ready release off ringless => exec_ringBind_of_release ready release off ringless⟩
  · rw [exec_hello_of_alone ready alone, if_neg (Nat.not_lt.mpr meets)]
  · rw [exec_hello_of_alone ready alone, if_pos apart]
  · rw [exec_ringCreate_of_own ready own, new, if_neg (by simp)]
    rfl
  · rw [exec_ringCreate_of_own ready own, if_pos created]
  · simp only [exec_ringDestroy, execRingDestroy, onReady_of ready, hq, admin, if_true]
  · obtain ⟨a, ha⟩ := Option.isSome_iff_exists.mp there
    have admin : AdminStays (putCmd s { c with phase := .draining }) q.fn (c.p 0 4) := by
      rw [own]
      exact ⟨elsewhere, a, ha, stays a ha⟩
    rw [exec_ringDestroy_of_ordinary ready hq own ordinary free]
    refine ⟨fun quiet => ?_, fun owes notYet => ?_⟩
    · rw [reap_of_idle (q := { q with destroying := true }) (get_put_same ..) rfl (by simpa using idle) quiet ordinary (admin.setRing _)]
      refine ⟨_, congrArg _ (endDestroy_of_gone (by simp only [Cmd.p_withPhase, State.setRing_rings, look, get_put_same])), ?_⟩
      simp only [State.setRing_rings, putCmd_rings, store, put_put]
    · rw [reap_of_owing (q := { q with destroying := true }) (get_put_same ..) rfl owes (admin.setRing _)]
      exact congrArg _ (endDestroy_of_marked (q := { q with destroying := true }) (by simp only [Cmd.p_withPhase, State.setRing_rings, look, get_put_same]) rfl)
  · rw [exec_ringBind_of_range ready range, if_neg (by simp [notZero, noneYet, untaken])]
  · rw [exec_ringBind_of_range ready range, if_pos refused]

end Sys2Proof.Machine
end

section
/-! The registers of a function (11_graec_rings R254; 21_host_interface R469, R470, R472, R474, R475). -/

namespace Sys2Proof.Machine

variable {s : State} {fn o v : Nat} {f : Fn}

/-! ## A function's page -/

@[simp] theorem setFn_fn_same (s : State) (i : Nat) (f : Fn) : (s.setFn i f).fn i = f := by
  simp [State.fn]

@[simp] theorem updFn_fn_same (s : State) (i : Nat) (g : Fn → Fn) : (s.updFn i g).fn i = g (s.fn i) :=
  setFn_fn_same ..

/-- The last of two writes of a page counts. -/
@[simp] theorem setFn_setFn (s : State) (i : Nat) (f g : Fn) : (s.setFn i f).setFn i g = s.setFn i g := by
  simp [State.setFn]

/-- The sizes of an admin ring that ENABLE takes, on a function with rings (R254). -/
def Fn.sizesOk (f : Fn) : Prop := 4 ≤ f.sqLog2 ∧ f.sqLog2 ≤ 12 ∧ 4 ≤ f.cqLog2 ∧ f.cqLog2 ≤ 12 ∧ f.sqLog2 ≤ f.cqLog2 ∧ f.count ≠ 0

theorem startAdmin_of_none (on : (s.fn fn).enable = true) (free : look s.rings (s.fn fn).first = none) : startAdmin s fn =
    s.setRing (s.fn fn).first (some (newRing fn (s.fn fn).sq (2 ^ (s.fn fn).sqLog2) (s.fn fn).cq (2 ^ (s.fn fn).cqLog2) 0 (s.fn fn).vector true)) := by
  simp [startAdmin, on, free]

theorem exec_adminEnable_of_off (reach : HostReach s fn) (enables : bit v 31 = true) (fields : f = cfgFields (s.fn fn) v)
    (off : f.enable = false) : (f.sizesOk → exec (.adminEnable fn v) s = .next (startAdmin (s.setFn fn { f with enable := true, cfgErr := false }) fn)) ∧
      (¬f.sizesOk → exec (.adminEnable fn v) s = .next (s.setFn fn { f with cfgErr := true })) := by
  obtain ⟨up, there⟩ := reach
  simp only [exec_adminEnable, execAdminEnable, up, there, enables, Bool.not_true, Bool.or_self, Bool.false_eq_true, if_false, adminEnable,
    ← fields, off, decide_eq_true_eq, Fn.sizesOk]
  exact ⟨fun ok => by rw [if_pos ok], fun bad => by rw [if_neg bad]⟩

theorem exec_adminDisable_of_reach (reach : HostReach s fn) (disables : bit v 31 = false) : exec (.adminDisable fn v) s = .next
    (if (s.fn fn).enable = true then clearEnable (s.updFn fn fun f => cfgFields f v) fn else s.updFn fn fun f => cfgFields f v) := by
  obtain ⟨up, there⟩ := reach
  simp [exec_adminDisable, execAdminDisable, up, there, disables, adminDisable, cfgFields]

/-- A function that has no ring is disabled in its page alone. -/
theorem clearEnable_of_ringless (none_ : ∀ e ∈ s.rings, ∀ q, e.2 = some q → q.fn ≠ fn) (free : look s.rings (s.fn fn).first = none) :
    clearEnable s fn = s.setFn fn { s.fn fn with enable := false, session := 0 } := by
  have noneMine : s.rings.filterMap (fun e => e.2.bind fun q => if q.fn = fn then some e.1 else none) = [] :=
    List.filterMap_eq_nil_iff.mpr fun e he => Option.bind_eq_none_iff.mpr fun q hq => if_neg (none_ e he q hq)
  simp only [clearEnable, State.setFn_rings, noneMine, List.foldl_nil, List.filter_nil, List.contains_nil, Bool.false_eq_true, if_false, reap,
    free]

/-! ## Register writes -/

theorem exec_registerWrite_bar0 (reach : HostReach s fn) : exec (.registerWrite (.bar0 fn o) v) s = .next (writeBar0 s fn o v) := by
  obtain ⟨up, there⟩ := reach
  simp [exec_registerWrite, execRegisterWrite, up, there]

theorem exec_registerWrite_bar2 (reach : HostReach s fn) : exec (.registerWrite (.bar2 fn o) v) s = .next (writeBar2 s fn o v) := by
  obtain ⟨up, there⟩ := reach
  simp [exec_registerWrite, execRegisterWrite, up, there]

theorem exec_registerWrite_smbus (aux : s.pwr.aux = true) : exec (.registerWrite (.smbus o) v) s = .next (writeSmbus s o v) := by
  simp [exec_registerWrite, execRegisterWrite, aux]

theorem writeBar0_of_readOnly (physical : fn = 0 → o ≠ 0x18 ∧ (o < 0x800000 ∨ 0x808000 ≤ o)) (virtual : fn ≠ 0 → o < 0x8000 ∨ 0x9000 ≤ o) :
    writeBar0 s fn o v = s := by
  unfold writeBar0
  split
  · rfl
  · split
    case isTrue pf =>
      obtain ⟨notErr, outside⟩ := physical pf
      rw [if_neg notErr, if_neg (by omega)]
    case isFalse vf =>
      have := virtual vf
      rw [if_neg (by omega)]

/-- The second and third word of an MSI-X entry are stored as written. -/
theorem writeMsix_of_middle {w : Nat} (middle : w % 4 = 1 ∨ w % 4 = 2) (word : v < 2 ^ 32) :
    writeMsix s fn w v = s.updFn fn fun f => { f with msix := put none f.msix w (if v = 0 then none else some v) } := by
  have notLast : w % 4 ≠ 3 := by omega
  have notFirst : w % 4 ≠ 0 := by omega
  simp only [writeMsix, notLast, notFirst, if_false, false_and, Nat.mod_eq_of_lt word]

/-! ## Latched reads -/

theorem exec_lowHalfRead_of_latched (reach : HostReach s fn) (low : o % 8 = 0) (halves : words32 fn o = false) :
    exec (.lowHalfRead fn o) s = .next ((s.reply (bar0 s fn o % 2 ^ 32)).updFn fn fun f => { f with shadow := some (o, bar0 s fn o / 2 ^ 32) }) := by
  obtain ⟨up, there⟩ := reach
  simp [exec_lowHalfRead, execLowHalfRead, up, there, low, halves]

theorem exec_highHalfRead_of_reach (reach : HostReach s fn) (high : o % 8 = 4) : exec (.highHalfRead fn o) s = .next
    (s.reply ((s.fn fn).shadow.elim (bar0 s fn (o - 4) / 2 ^ 32) fun e =>
      if e.1 = o - 4 ∧ words32 fn o = false then e.2 else bar0 s fn (o - 4) / 2 ^ 32)) := by
  obtain ⟨up, there⟩ := reach
  cases latched : (s.fn fn).shadow <;> simp [exec_highHalfRead, execHighHalfRead, up, there, high, latched]

/-- Settles O13: the admin ring by whether it starts, a register write by its target, a read of a half by the shadow's tag. -/
theorem registersWriteAndLatch : Obligations.RegistersWriteAndLatch := by
  refine ⟨⟨fun s fn v f reach enables fields off => ⟨fun ok free => ?_, fun bad => ?_⟩,
      fun s fn v reach disables => ⟨fun off => ?_, fun on => ?_, fun on ringless free => ?_⟩⟩,
    ⟨fun s v reach => ?_, fun s fn o v reach physical virtual => ?_, fun s w v reach inTable middle word => ?_,
      fun s fn v reach word => ?_, fun s v aux => ⟨?_, ?_, ?_, ?_⟩, fun s t v off => ?_⟩,
    fun s fn o reach low halves => exec_lowHalfRead_of_latched reach low halves, fun s fn o hi reach high halves latched => ?_,
    fun s fn o reach high unlatched => ?_⟩
  · rw [(exec_adminEnable_of_off reach enables fields off).1 ok, startAdmin_of_none (by rw [setFn_fn_same])]
    · simp only [setFn_fn_same]
    · simpa using free
  · exact (exec_adminEnable_of_off reach enables fields off).2 bad
  · rw [exec_adminDisable_of_reach reach disables, off, if_neg Bool.false_ne_true]
  · rw [exec_adminDisable_of_reach reach disables, if_pos on]
  · rw [exec_adminDisable_of_reach reach disables, if_pos on, clearEnable_of_ringless (by simpa using ringless) (by simpa [cfgFields] using free),
      State.updFn, setFn_setFn, setFn_fn_same]
  · rw [exec_registerWrite_bar0 reach]
    rfl
  · rw [exec_registerWrite_bar0 reach, writeBar0_of_readOnly physical virtual]
  · rw [exec_registerWrite_bar0 reach, writeBar0, if_neg (by omega), if_pos rfl, if_neg (by omega), if_pos (by omega),
      show (0x800000 + 4 * w - 0x800000) / 4 = w by omega, writeMsix_of_middle middle word]
  · simp only [exec_registerWrite_bar2 reach, writeBar2, Nat.mod_eq_of_lt word, and_self]
  · rw [exec_registerWrite_smbus aux]
    rfl
  · rw [exec_registerWrite_smbus aux]
    rfl
  · rw [exec_registerWrite_smbus aux, exec_sscCfgWrite, execSscCfgWrite, if_pos aux]
    rfl
  · rw [exec_registerWrite_smbus aux, exec_clearCodeWrite, execClearCodeWrite, if_pos aux]
    rfl
  · rintro ⟨k, rfl⟩
    simp [exec_registerWrite, execRegisterWrite, off]
  · simp [exec_highHalfRead_of_reach reach high, latched, halves]
  · rw [exec_highHalfRead_of_reach reach high]
    cases latched : (s.fn fn).shadow with
    | none => rfl
    | some e =>
      have untagged : e.1 ≠ o - 4 := fun tagged => unlatched e.2 (by rw [latched, ← tagged])
      simp [untagged]

end Sys2Proof.Machine
end

section
/-! The host interface (21_host_interface R463 to R475). -/

namespace Sys2Proof.Machine

variable {s : State} {fn v : Nat}

/-- The link of the device is up: its clocks run, and it is not in HOLD. -/
def LinkUp (s : State) : Prop := clocked s = true ∧ s.dev.st ≠ .hold

/-! ## Configuration requests and resets -/

theorem HostReach.linkUp (h : HostReach s fn) : LinkUp s ∧ cfgReady s = true := by
  obtain ⟨up, -⟩ := h
  simp only [reachable, Bool.and_eq_true, bne_iff_ne] at up
  exact up

theorem exec_configRequest_of_reach (reach : HostReach s fn) (op : CfgOp) : exec (.configRequest fn op) s = .next (match op with
    | .readId => s.reply (0x1FD2 + 2 ^ 16 * (if fn = 0 then 0x5120 else 0x5121))
    | .numVfs n => if fn = 0 ∧ n ≤ 63 ∧ s.dev.romOnly = false then setVfs s n else s
    | .aspmL1 on => if fn = 0 then s.updHost fun h => { h with aspmL1 := on } else s) := by
  obtain ⟨⟨clocks, notHold⟩, ready⟩ := reach.linkUp
  obtain ⟨-, there⟩ := reach
  simp [exec_configRequest, execConfigRequest, clocks, notHold, ready, there] <;> rfl

theorem exec_configRequest_of_unready (up : LinkUp s) (unready : cfgReady s = false) (op : CfgOp) :
    exec (.configRequest fn op) s = .next (s.reply (2 ^ 32)) := by
  obtain ⟨clocks, notHold⟩ := up
  simp [exec_configRequest, execConfigRequest, clocks, notHold, unready]

theorem exec_flr_of_reach (reach : HostReach s fn) (virtual : fn ≠ 0) : exec (.flr fn) s = .next (resetFn s fn) := by
  obtain ⟨up, there⟩ := reach
  simp [exec_flr, execFlr, up, there, virtual]

/-! ## SMBus -/

theorem exec_sscCfgWrite_of_aux (aux : s.pwr.aux = true) : exec (.sscCfgWrite v) s = .next (writeSsc s v) := by
  simp [exec_sscCfgWrite, execSscCfgWrite, aux]

theorem exec_clearCodeWrite_of_aux (aux : s.pwr.aux = true) : exec (.clearCodeWrite v) s = .next (writeClearCode s v) := by
  simp [exec_clearCodeWrite, execClearCodeWrite, aux]

theorem exec_logDataRead_of_aux (aux : s.pwr.aux = true) : exec .logDataRead s = .next (if vioGood s = true
    then (s.reply (leNat (32#8 :: slotBytes s.log s.host.logIndex))).updHost fun h => { h with logIndex := (h.logIndex + 1) % 8192 }
    else s.reply 0) := by
  simp only [exec_logDataRead, execLogDataRead, aux, Bool.not_true, Bool.false_eq_true, if_false]
  rfl

/-- The registers that firmware refreshes read as they stand now. -/
theorem nat_foldl_put_of_mem (live : Nat → Nat) {k : Nat} (l : List Nat) (m : SMap Nat) (hk : k ∈ l) :
    nat (l.foldl (fun m c => put 0 m c (live c)) m) k = live k := by
  have kept : ∀ (l : List Nat) (m : SMap Nat), nat m k = live k → nat (l.foldl (fun m c => put 0 m c (live c)) m) k = live k := by
    intro l
    induction l with
    | nil => exact fun m h => h
    | cons c l ih =>
      refine fun m h => ih _ ?_
      rw [nat, get_put]
      split
      · rw [‹k = c›]
      · exact h
  induction l generalizing m with
  | nil => simp at hk
  | cons c l ih =>
    rcases List.mem_cons.mp hk with rfl | hk
    · exact kept l _ (get_put_same ..)
    · exact ih _ hk

/-- The registers as SMBUS_REFRESH leaves them (R473). -/
def refreshedSmbus (s : State) : SMap Nat :=
  [0x00, 0x02, 0x06, 0x07, 0x08, 0x09].foldl (fun m c => put 0 m c (smbusLive s c)) s.host.smbus

theorem exec_smbusRefresh_of_up (up : LinkUp s) (ready : cfgReady s = true) (fw : s.dev.romOnly = false) :
    exec .smbusRefresh s = .next { s with host := { s.host with smbus := refreshedSmbus s } } := by
  obtain ⟨clocks, notHold⟩ := up
  have runs : (clocked s && s.dev.st != .hold && cfgReady s && !s.dev.romOnly) = true := by simp [clocks, notHold, ready, fw]
  rw [exec_smbusRefresh, execSmbusRefresh, if_pos runs]
  rfl

theorem nat_refreshedSmbus {k : Nat} (hk : k ∈ [0x00, 0x02, 0x06, 0x07, 0x08, 0x09]) : nat (refreshedSmbus s) k = smbusLive s k :=
  nat_foldl_put_of_mem (smbusLive s) _ _ hk

/-! ## The link -/

theorem exec_hostLinkRetrain_of_up {rate width cause : Nat} (up : LinkUp s) (lo : 3 ≤ rate) (hi : rate ≤ 6)
    (lanes : width = 4 ∨ width = 8 ∨ width = 16) : exec (.hostLinkRetrain rate width cause) s = .next
      (if s.host.trained = false then s.updHost fun h => { h with rate := rate, width := width, trained := true }
      else if rate = s.host.rate ∧ width = s.host.width then s
      else logEvent (s.updHost fun h => { h with rate := rate, width := width, retrains := min (h.retrains + 1) 65535 }) 0x7001 7
        (evData [(s.host.rate, 1), (s.host.width, 1), (rate, 1), (width, 1), (cause % 2, 1)])) := by
  obtain ⟨clocks, notHold⟩ := up
  have inRange : ¬(rate < 3 ∨ rate > 6) := by omega
  have width_mem : [4, 8, 16].contains width = true := by simpa using lanes
  simp only [exec_hostLinkRetrain, execHostLinkRetrain, clocks, beq_eq_false_iff_ne.mpr notHold, inRange, width_mem, decide_false, Bool.not_true,
    Bool.or_self, Bool.false_eq_true, if_false, Bool.not_eq_true']
  rfl

/-- Settles O14: each row of the host interface by the reach it has and by what its register holds. -/
theorem hostInterfaceCompletes : Obligations.HostInterfaceCompletes := by
  refine ⟨fun s reach _ _ _ => ⟨?_, fun on => ?_, fun n few fw => ?_⟩, fun s fn reach virtual => ?_,
    fun s fn op clocks notHold unready => exec_configRequest_of_unready ⟨clocks, notHold⟩ unready op,
    fun s vf reach virtual => ⟨fun off => ?_, fun on => ?_⟩, fun s v aux => ⟨fun good => ?_, fun bad => ?_⟩,
    fun s code aux small => ⟨fun good new => ?_, fun refused => ?_⟩, fun s aux => ⟨fun good => ?_, fun bad => ?_⟩,
    fun s clocks notHold ready fw => ?_, fun s rate width cause clocks notHold lo hi lanes => ⟨fun first => ?_, fun again changed => ?_⟩⟩
  · rw [exec_configRequest_of_reach reach]
    rfl
  · rw [exec_configRequest_of_reach reach]
    rfl
  · simp only [exec_configRequest_of_reach reach, few, fw, and_self, if_true]
  · simp only [exec_configRequest_of_reach reach, if_neg virtual]
    rfl
  · simp only [exec_flr_of_reach reach virtual, resetFn, off, Bool.false_eq_true, if_false]
  · simp only [exec_flr_of_reach reach virtual, resetFn, on, if_true]
  · simp only [exec_sscCfgWrite_of_aux aux, writeSsc, good, if_true, flushSsc]
  · simp only [exec_sscCfgWrite_of_aux aux, writeSsc, bad, Bool.false_eq_true, if_false]
  · simp only [exec_clearCodeWrite_of_aux aux, writeClearCode, good, new, Option.isNone_none, Bool.and_self, if_true, Nat.mod_eq_of_lt small]
  · rcases refused with bad | stored
    · simp [exec_clearCodeWrite_of_aux aux, writeClearCode, bad]
    · simp [exec_clearCodeWrite_of_aux aux, writeClearCode, stored]
  · rw [exec_logDataRead_of_aux aux, if_pos good]
  · rw [exec_logDataRead_of_aux aux, bad, if_neg Bool.false_ne_true]
  · have run := exec_smbusRefresh_of_up ⟨clocks, notHold⟩ ready fw
    have live : ∀ k ∈ [0x00, 0x02, 0x06, 0x07, 0x08, 0x09], nat (refreshedSmbus s) k = smbusLive s k := fun k => nat_refreshedSmbus
    generalize refreshedSmbus s = m at run live
    exact ⟨{ s.host with smbus := m }, run, rfl, live⟩
  · rw [exec_hostLinkRetrain_of_up ⟨clocks, notHold⟩ lo hi lanes, if_pos first]
  · rw [exec_hostLinkRetrain_of_up ⟨clocks, notHold⟩ lo hi lanes, if_neg (by simp [again]), if_neg (by tauto)]

end Sys2Proof.Machine
end

section
/-! Reads of the log and lost events (12_graec_commands R301; 20_mantel_log R453, R456). -/

namespace Sys2Proof.Machine

variable {s : State} {ring seq : Nat} {c : Cmd}

/-- The slots that LOG_READ answers, in ascending index from FIRST, wrapping at 8,192. -/
theorem exec_logRead_of_ready (ready : Ready s 0xA1 ring seq c) : exec (.logRead ring seq) s = .next
    (if c.p 0 4 ≥ 8192 then finish s c stBadParam 32
      else finish (s.hostWrite (c.p 8 8) ((List.range (c.p 4 4)).flatMap fun i => slotBytes s.log ((c.p 0 4 + i) % 8192))) c stOk (c.p 4 4)) := by
  rw [exec_logRead, execLogRead, onReady_of ready]
  rfl

theorem exec_logRecordsLost_of_room (clocks : clocked s = true) (thawed : s.log.frozen = false) (lost : s.log.lost ≠ 0)
    (room : ramCount s.log < 256) : exec .logRecordsLost s = .next
      ((logEvent s 0x9002 0xF (evData [(min s.log.lost (2 ^ 32 - 1), 4), (s.log.lostSec, 4)])).updLog fun l => { l with lost := 0, lostSec := 0 }) := by
  simp [exec_logRecordsLost, execLogRecordsLost, clocks, thawed, lost, Nat.not_le.mpr room, sat]

/-- Settles O18: the read by its FIRST, the two commands by the freeze, the record of the loss. -/
theorem logReadsAndLosses : Obligations.LogReadsAndLosses := by
  refine ⟨fun s ring seq c ready => ⟨fun inLog => ?_, fun beyond => ?_⟩, fun s ring seq c ready frozen => ?_,
    fun s ring seq c ready thawed => ?_, fun s => exec_logRecordsLost_of_room⟩
  · rw [exec_logRead_of_ready ready, if_neg (Nat.not_le.mpr inLog)]
  · rw [exec_logRead_of_ready ready, if_pos beyond]
  · simp only [exec_logFreeze, execLogFreeze, onReady_of ready, frozen, if_true]
  · simp only [exec_logThaw, execLogThaw, onReady_of ready, thawed, Bool.false_eq_true, if_false]

end Sys2Proof.Machine
end

section
/-! Contexts (12_graec_commands R287, R288; 09_step_programs R208; 16_faults R385). -/

namespace Sys2Proof.Machine

variable {s : State} {ring seq : Nat} {c : Cmd} {x : Ctx} {reads : List LineRead}

/-! ## A context among the others -/

theorem updCtx_of_look {i : Nat} (h : look s.ctxs i = some x) (f : Ctx → Ctx) : s.updCtx i f = s.setCtx i (some (f x)) := by
  simp only [State.updCtx, h]

theorem look_updCtx {i : Nat} (h : look s.ctxs i = some x) (f : Ctx → Ctx) : look (s.updCtx i f).ctxs i = some (f x) := by
  rw [updCtx_of_look h, State.setCtx_ctxs, look, get_put_same]

/-! ## CTX_CREATE -/

theorem freeCtxNo_of_lowest {n : Nat} (below : ∀ k < n, (look s.ctxs k).isSome = true) (small : n < 64) (free : look s.ctxs n = none) :
    freeCtxNo s = some n := by
  simp only [freeCtxNo, List.find?_range_eq_some, free, Option.isNone_none, List.mem_range, small, true_and]
  exact fun k hk => by simpa using below k hk

theorem freeCtxNo_of_full (full : ∀ k < 64, (look s.ctxs k).isSome = true) : freeCtxNo s = none := by
  simpa only [freeCtxNo, List.find?_range_eq_none, Option.not_isNone, Bool.not_eq_true'] using fun k hk => by simpa using full k hk

/-- A context as CTX_CREATE makes it (R287). -/
def newCtx (c : Cmd) : Ctx :=
  { fn := c.fn, hdim := c.p 0 1, spillAddr := c.p 8 8, spillSlots := c.p 16 4, spillUsed := 0, image := none, stepNs := 0, halted := false,
    destroying := false, variants := [], tables := [], updates := [], older := [], dispatched := 0, inflight := [], capture := none,
    replay := none, chimney := false, ready := false }

theorem exec_ctxCreate_of_free {n : Nat} (ready : Ready s 0x20 ring seq c) (free : freeCtxNo s = some n) :
    exec (.ctxCreate ring seq) s = .next (done (s.setCtx n (some (newCtx c))) c n) := by
  simp only [exec_ctxCreate, execCtxCreate, onReady_of ready, free, newCtx]

/-! ## CTX_LOAD -/

theorem exec_ctxLoad_of_ready (ready : Ready s 0x22 ring seq c) (on : OnCtx s c x) : exec (.ctxLoad ring seq reads) s = .next
    (if x.image.isSome = true then finish s c stNotPermitted 0 else acceptLong s { c with phase := .running }) := by
  obtain ⟨found, clocks, opc, phase, turn⟩ := ready
  obtain ⟨hx, own, live, stays⟩ := on
  by_cases loaded : x.image.isSome = true <;>
    simp [exec_ctxLoad, execCtxLoad, onLong, found, clocks, opc, phase, turn, hx, own, live, stays, loaded]

/-- The die and tile that CTX_LOAD names, or else the first place that fits (R208). -/
def loadOrigin (s : State) (c : Cmd) (b : List Byte) : Option Nat :=
  if c.p 16 1 = 1 then (if originOk s b (c.p 17 1) (c.p 18 1) = true then some (80 * c.p 17 1 + c.p 18 1) else none) else autoOrigin s b

/-- The verdict of R208 on the image that a CTX_LOAD reads. -/
def loadVerdict (s : State) (c : Cmd) (x : Ctx) : Option (Nat × Nat) :=
  imageCheck (s.hostRead (c.p 0 8) (c.p 8 8)) (c.p 8 8) x.hdim (memberOf s) (s.ctxs.any fun e => e.2.elim false (·.chimney)) 32

theorem exec_ctxLoad_of_rejected {e : Nat × Nat} (runs : Running s 0x22 ring seq c) (on : OnCtx s c x) (unloaded : x.image = none)
    (verdict : loadVerdict s c x = some e) : exec (.ctxLoad ring seq reads) s = .next (finish s c e.1 e.2) := by
  unfold loadVerdict at verdict
  simp only [exec_ctxLoad, execCtxLoad, onLong_running runs, onCtx_of on, unloaded, Option.isSome_none, Bool.false_eq_true, if_false, verdict]

theorem exec_ctxLoad_of_placeless (runs : Running s 0x22 ring seq c) (on : OnCtx s c x) (unloaded : x.image = none)
    (verdict : loadVerdict s c x = none) (placeless : loadOrigin s c (s.hostRead (c.p 0 8) (c.p 8 8)) = none) :
    exec (.ctxLoad ring seq reads) s = .next (if c.p 16 1 = 1 then finish s c stBadParam 49 else finish s c stNoResource 0) := by
  unfold loadVerdict at verdict
  unfold loadOrigin at placeless
  simp only [exec_ctxLoad, execCtxLoad, onLong_running runs, onCtx_of on, unloaded, Option.isSome_none, Bool.false_eq_true, if_false, verdict,
    decide_eq_true_eq, placeless, badParam]

/-- An image that passes and finds its tiles is loaded, and its lines are then read back. -/
theorem exec_ctxLoad_of_placed {o : Nat} {b : List Byte} (runs : Running s 0x22 ring seq c) (on : OnCtx s c x) (unloaded : x.image = none)
    (verdict : loadVerdict s c x = none) (hb : b = s.hostRead (c.p 0 8) (c.p 8 8)) (placed : loadOrigin s c b = some o) :
    exec (.ctxLoad ring seq reads) s = .next ((badLine (loadImage s c.pkt.ctx b o) (imageOf b o) reads).elim
      (done (putCmd (loadImage s c.pkt.ctx b o) { c with position := b.length }) { c with position := b.length }
        (b2n (imageOf b o).varies + 2 ^ 16 * ((imageOf b o).tiles.head?.elim 0 (·.tile))))
      fun r => raiseErr
        (logEvent (loadImage s c.pkt.ctx b o) 0x5002 5 (evData [(1, 1), (0xFF, 1), (0, 2), (r.line % 4096 + r.tile * 65536, 4)]))
        { domain := 5, code := 0x5002, unit := r.tile, detail := 0, act := .fatal }) := by
  unfold loadVerdict at verdict
  unfold loadOrigin at placed
  rw [← hb] at verdict
  simp only [exec_ctxLoad, execCtxLoad, onLong_running runs, onCtx_of on, unloaded, Option.isSome_none, Bool.false_eq_true, if_false, verdict,
    decide_eq_true_eq, ← hb, placed]
  cases badLine (loadImage s c.pkt.ctx b o) (imageOf b o) reads <;> rfl

/-! ## CTX_DESTROY -/

theorem exec_ctxDestroy_of_used (ready : Ready s 0x21 ring seq c) (hx : look s.ctxs c.pkt.ctx = some x) (own : x.fn = c.fn)
    (live : x.halted = false) (used : ∃ i < 2 ^ 20, i ∈ reqsOfCtx s c.pkt.ctx) :
    exec (.ctxDestroy ring seq) s = .next (finish s c stNotPermitted 0) := by
  have refuses : (!x.halted && (reqsOfCtx s c.pkt.ctx).any fun i => decide (i < 2 ^ 20)) = true := by
    obtain ⟨i, small, hi⟩ := used
    simpa [live] using ⟨i, hi, small⟩
  simp only [exec_ctxDestroy, execCtxDestroy, onReady_of ready, hx, own, ne_eq, not_true_eq_false, if_false, refuses, if_true]

/-- A context without requests and without a running load is marked, and goes if no vector is in flight. -/
theorem exec_ctxDestroy_of_unused (ready : Ready s 0x21 ring seq c) (hx : look s.ctxs c.pkt.ctx = some x) (own : x.fn = c.fn)
    (unused : reqsOfCtx s c.pkt.ctx = []) (noLoad : ∀ d ∈ s.cmds, d.pkt.opc ≠ 0x22) : exec (.ctxDestroy ring seq) s = .next
      (settleCtx (putCmd (s.updCtx c.pkt.ctx fun x => { x with destroying := true }) { c with phase := .leaving }) c.pkt.ctx) := by
  have noneLoads : (s.cmds.filter fun d => d.pkt.opc == 0x22 && d.pkt.ctx == c.pkt.ctx && d.phase == .running) = [] := by
    refine List.filter_eq_nil_iff.mpr fun d hd => ?_
    simp [noLoad d hd]
  simp only [exec_ctxDestroy, execCtxDestroy, onReady_of ready, hx, own, ne_eq, not_true_eq_false, if_false, unused, List.any_nil, Bool.and_false,
    Bool.false_eq_true, noneLoads, List.foldl_nil]

theorem settleCtx_of_inflight {ctx : Nat} (hx : look s.ctxs ctx = some x) (inflight : x.inflight ≠ []) : settleCtx s ctx = s := by
  simp [settleCtx, hx, inflight]

theorem uncache_frame {β : Type} (g : State → β) (kept : ∀ s i f, g (State.updFlue s i f) = g s) (s : State) (p : Nat × Nat × Nat → Bool) :
    g (uncache s p) = g s :=
  foldl_field g (fun _ _ => kept ..) _ _

@[simp] theorem uncache_cmds (s : State) (p : Nat × Nat × Nat → Bool) : (uncache s p).cmds = s.cmds :=
  uncache_frame (·.cmds) (by simp) s p

@[simp] theorem freeCtx_cmds (s : State) (ctx : Nat) : (freeCtx s ctx).cmds = s.cmds := by
  simp only [freeCtx, State.setCtx_cmds, uncache_cmds]
  exact foldl_field (·.cmds) (by simp) _ _

/-- A marked context with nothing in flight, without requests and prefixes, goes, and the one CTX_DESTROY that waits for it ends. -/
theorem settleCtx_of_idle {ctx : Nat} (hx : look s.ctxs ctx = some x) (dies : x.destroying = true) (idle : x.inflight = [])
    (unused : reqsOfCtx s ctx = []) (unpinned : ∀ e ∈ s.kv.prefixes, ∀ p, e.2 = some p → p.ctx ≠ ctx) (waits : s.cmds = [c])
    (destroys : c.pkt.opc = 0x21) (named : c.pkt.ctx = ctx) (leaves : c.phase = .leaving) : settleCtx s ctx =
      done (freeCtx (s.updKv fun k => { k with hot := k.hot.filter fun e => e.1 != ctx }) ctx) c 0 := by
  have noPrefix : (s.kv.prefixes.filter fun e => e.2.elim false fun p => p.ctx == ctx) = [] := by
    refine List.filter_eq_nil_iff.mpr fun e he => ?_
    cases hp : e.2 with
    | none => simp
    | some p => simpa using unpinned e he p hp
  have found : findCmd (freeCtx (s.updKv fun k => { k with hot := k.hot.filter fun e => e.1 != ctx }) ctx) c.ring c.pkt.seq = some c := by
    simp [findCmd, waits, leaves]
  simp only [settleCtx, hx, dies, idle, Bool.not_true, ne_eq, not_true_eq_false, decide_false, Bool.or_self, Bool.false_eq_true, if_false, unused,
    List.foldl_nil, noPrefix]
  simp only [freeCtx_cmds, State.updKv_cmds, waits, List.filter_cons, destroys, named, leaves, beq_self_eq_true, Bool.and_self, if_true,
    List.filter_nil, List.foldl_cons, List.foldl_nil, found]

/-- Settles O20: the free number, the verdict on an image and its place, and a destruction by what the context still holds. -/
theorem contextCommands : Obligations.ContextCommands := by
  refine ⟨fun s ring seq c ready => ⟨fun n below small free => ⟨newCtx c, rfl, rfl, rfl, rfl, rfl, rfl, rfl, rfl, rfl,
      exec_ctxCreate_of_free ready (freeCtxNo_of_lowest below small free)⟩, fun full => ?_⟩,
    fun s ring seq reads c x ready on => ⟨fun unloaded => ?_, fun loaded => ?_⟩,
    fun s ring seq reads c x b e runs on unloaded hb he => ⟨fun st r rejected => ?_, fun o passed place => ?_, fun passed auto none_ => ?_,
      fun passed named bad => ?_⟩,
    fun s ring seq c x ready hx own => ⟨fun live used => exec_ctxDestroy_of_used ready hx own live used, fun unused inflight noLoad => ?_,
      fun unused idle alone unpinned => ?_⟩⟩
  · simp only [exec_ctxCreate, execCtxCreate, onReady_of ready, freeCtxNo_of_full full]
  · rw [exec_ctxLoad_of_ready ready on, unloaded, if_neg (by simp)]
  · rw [exec_ctxLoad_of_ready ready on, if_pos (Option.isSome_iff_ne_none.mpr loaded)]
  · exact exec_ctxLoad_of_rejected (e := (st, r)) runs on unloaded (by rw [loadVerdict, ← hb, ← he, rejected])
  · have placed : loadOrigin s c b = some o := by
      rcases place with ⟨auto, place⟩ | ⟨named, ok, rfl⟩
      · rw [loadOrigin, if_neg auto, place]
      · rw [loadOrigin, if_pos named, if_pos ok]
    have run := exec_ctxLoad_of_placed (reads := reads) runs on unloaded (by rw [loadVerdict, ← hb, ← he, passed]) hb placed
    exact ⟨fun good => ⟨_, rfl, by rw [run, good, Option.elim_none]⟩, fun r bad => by rw [run, bad, Option.elim_some]⟩
  · rw [exec_ctxLoad_of_placeless runs on unloaded (by rw [loadVerdict, ← hb, ← he, passed]), if_neg auto]
    rw [loadOrigin, if_neg auto, ← hb, none_]
  · rw [exec_ctxLoad_of_placeless runs on unloaded (by rw [loadVerdict, ← hb, ← he, passed]), if_pos named]
    rw [loadOrigin, if_pos named, ← hb, if_neg (by simp [bad])]
  · rw [exec_ctxDestroy_of_unused ready hx own unused noLoad,
      settleCtx_of_inflight (x := { x with destroying := true }) (look_updCtx hx _) inflight]
  · have opc := ready.2.2.1
    rw [exec_ctxDestroy_of_unused ready hx own unused (by simp [alone, opc])]
    refine congrArg _ ((settleCtx_of_idle (x := { x with destroying := true }) (c := { c with phase := .leaving }) (look_updCtx hx _) rfl idle
      ?_ ?_ ?_ opc rfl rfl).trans ?_)
    · simpa [reqsOfCtx] using unused
    · simpa using unpinned
    · simp [putCmd, alone]
    · simp only [updCtx_of_look hx, putCmd, State.setCtx_cmds, alone]
      simp [State.updCtx, hx, State.setCtx]

end Sys2Proof.Machine
end

section
/-! What a context holds beside its image: variants, tables, panels (12_graec_commands R289 to R291, R299). -/

namespace Sys2Proof.Machine

variable {s : State} {ring seq : Nat} {c : Cmd} {x : Ctx} {i : Image} {b : List Byte}

/-- A list of numbered entries has one of this number. -/
theorem any_key_eq_true {α : Type} {l : List (Nat × α)} {k : Nat} : (l.any fun e => e.1 == k) = true ↔ ∃ v, (k, v) ∈ l := by
  simp

theorem any_key_eq_false {α : Type} {l : List (Nat × α)} {k : Nat} : (l.any fun e => e.1 == k) = false ↔ ∀ v, (k, v) ∉ l := by
  rw [Bool.eq_false_iff, ne_eq, any_key_eq_true, not_exists]

/-! ## Variants -/

/-- A variant as VARIANT_LOAD reads it (06_flue_path R145). -/
def variantOf (c : Cmd) (b : List Byte) : Variant :=
  { nent := field b 16 8, bytes := c.p 8 8, segs := (segsOf b).map fun g => (g.arr, deltasOf b g) }

theorem exec_variantLoad_of_good (ready : Ready s 0x24 ring seq c) (on : OnCtx s c x) (loaded : x.image = some i) (long : 32 ≤ c.p 8 8)
    (hb : b = s.hostRead (c.p 0 8) (c.p 8 8)) (good : variantBad s i b = none) : exec (.variantLoad ring seq) s = .next
      (if (x.variants.any fun e => e.1 == field b 6 2) = true then finish s c stNotPermitted 0
      else if deltaUsed s + c.p 8 8 > 16 * 2 ^ 30 then finish s c stNoResource 0
      else done (s.updCtx c.pkt.ctx fun x => { x with variants := insert (field b 6 2) (variantOf c b) (erase x.variants (field b 6 2)) }) c
        (field b 6 2 + 2 ^ 16 * field b 16 8)) := by
  subst hb
  simp only [exec_variantLoad, execVariantLoad, onReady_of ready, onCtx_of on, loaded, if_neg (Nat.not_lt.mpr long), good, variantOf]

theorem exec_variantDrop_of_ready (ready : Ready s 0x25 ring seq c) (on : OnCtx s c x) : exec (.variantDrop ring seq) s = .next
    (if (x.variants.any fun e => e.1 == c.p 0 2) = false then finish s c stBadParam 32
      else if (s.reqs.any fun e => e.2.elim false fun r => r.open_ && r.ctx == c.pkt.ctx && r.variant == c.p 0 2) = true then
        finish s c stNotPermitted 0
      else done (dropVariant s c.pkt.ctx (c.p 0 2)) c 0) := by
  simp only [exec_variantDrop, execVariantDrop, onReady_of ready, onCtx_of on, Bool.not_eq_true', badParam]

/-! ## Tables -/

theorem exec_tableLoad_of_ready (ready : Ready s 0x30 ring seq c) (on : OnCtx s c x) : exec (.tableLoad ring seq) s = .next
    (if (x.image.isNone || (x.tables.any fun e => e.1 == c.p 0 1) || (c.p 2 1 == 3 && !isMember s)) = true then finish s c stNotPermitted 0
      else acceptLong s { c with phase := .running }) := by
  obtain ⟨found, clocks, opc, phase, turn⟩ := ready
  obtain ⟨hx, own, live, stays⟩ := on
  by_cases refused : (x.image.isNone || (x.tables.any fun e => e.1 == c.p 0 1) || (c.p 2 1 == 3 && !isMember s)) = true <;>
    simp only [exec_tableLoad, execTableLoad, onLong, found, clocks, opc, phase, turn, hx, own, live, stays, refused, Bool.not_true,
      bne_self_eq_false, Bool.or_self, or_self, Bool.false_eq_true, if_false, if_true, ne_eq, not_true_eq_false]

/-- A table of tier 1 as TABLE_LOAD reads it (08_tables_tiers R191). -/
def tier1Of (s : State) (c : Cmd) : Table :=
  { fmt := c.p 1 1, tier := 1, d := c.p 4 2, rows := c.p 16 8, shards := c.p 6 2, shard := c.p 8 2, srcAddr := c.p 24 8,
    data := srcRows s (c.p 24 8) 1 (c.p 16 8) (rowBytes (c.p 1 1) (c.p 4 2)) }

theorem exec_tableLoad_of_tier1 {rb : Nat} (runs : Running s 0x30 ring seq c) (on : OnCtx s c x) (loaded : x.image ≠ none)
    (new : ∀ t, (c.p 0 1, t) ∉ x.tables) (tier : c.p 2 1 = 1) (hrb : rb = rowBytes (c.p 1 1) (c.p 4 2))
    (fits : tableUsed s + c.p 16 8 * rb ≤ s.kv.tableGib * 2 ^ 30) (even : ¬(c.p 1 1 = 2 ∧ c.p 4 2 % 2 = 1)) (len : c.p 32 8 = c.p 16 8 * rb)
    (good : rowsBad (srcRows s (c.p 24 8) 1 (c.p 16 8) rb) 1 (c.p 1 1) (c.p 16 8) (c.p 6 2) (c.p 8 2) rb = none) :
    exec (.tableLoad ring seq) s = .next (done (s.updCtx c.pkt.ctx fun x => { x with
      tables := insert (c.p 0 1) (tier1Of s c) (erase x.tables (c.p 0 1)) }) { c with position := c.p 16 8 * rb } 1) := by
  have admitted : (x.image.isNone || x.tables.any fun e => e.1 == c.p 0 1) = false := by
    rw [any_key_eq_false.mpr new, Bool.or_false, Option.isNone_eq_false_iff, Option.isSome_iff_ne_none]
    exact loaded
  subst hrb
  simp only [exec_tableLoad, execTableLoad, onLong_running runs, onCtx_of on, admitted, Bool.false_eq_true, if_false, tier, OfNat.one_ne_ofNat,
    fits, decide_true, Bool.not_true, and_false, even, len, ne_eq, not_true_eq_false, good, tier1Of]

theorem firstBad_of_all {l : List (Nat × Bool)} (good : ∀ e ∈ l, e.2 = true) : firstBad l = none := by
  unfold firstBad
  induction l with
  | nil => rfl
  | cons e l ih =>
    rw [List.foldl_cons, if_pos (good e (by simp))]
    exact ih fun e he => good e (by simp [he])

theorem exec_tableUpdate_of_one {t : Table} {u : TUpd} (ready : Ready s 0x31 ring seq c) (on : OnCtx s c x)
    (named : (x.tables.find? fun e => e.1 == c.p 0 1) = some (c.p 0 1, t)) (one : c.p 4 4 = 1)
    (inTable : leNat (s.hostRead (c.p 8 8) 8) < t.rows) (scale : scaleBad t.fmt (s.hostRead (c.p 8 8 + 8) (rowBytes t.fmt t.d)) = false)
    (room : x.updates.length < 2 ^ 20)
    (hu : u = ⟨ring, seq, c.p 0 1, leNat (s.hostRead (c.p 8 8) 8), s.hostRead (c.p 8 8 + 8) (rowBytes t.fmt t.d)⟩) : exec (.tableUpdate ring seq) s = .next
        (done (if s.dev.st = .maintenance
          then applyUpdates (s.updCtx c.pkt.ctx fun x => { x with updates := x.updates ++ [u] }) c.pkt.ctx
          else s.updCtx c.pkt.ctx fun x => { x with updates := x.updates ++ [u] }) c 0) := by
  have few : ¬(x.updates.length + 1 > 2 ^ 20) := by omega
  subst hu
  simp only [exec_tableUpdate, execTableUpdate, onReady_of ready, onCtx_of on, named, Option.map_some, one, List.range_one, List.map_cons,
    List.map_nil, List.flatten_cons, List.flatten_nil, List.append_nil, Nat.mul_zero, Nat.add_zero, inTable, scale, decide_true, Bool.not_false,
    if_neg few, State.updCtx_dev]
  rw [firstBad_of_all (by simp)]

theorem exec_tableUpdateApply_of_look {ctx : Nat} (hx : look s.ctxs ctx = some x) (clocks : clocked s = true) (unreplayed : x.replay = none) :
    exec (.tableUpdateApply ctx) s = .next (if atBoundary s x = true then applyUpdates s ctx else s) := by
  simp only [exec_tableUpdateApply, execTableUpdateApply, hx, clocks, unreplayed, Option.isNone_none, Bool.and_self, Bool.true_and]

/-! ## Panels -/

theorem onPanel_of {k : CTile} {p : Panel} (on : OnCtx s c x) (loaded : x.image = some i) (tile : i.tiles[c.p 0 2]? = some k)
    (panel : k.panels[c.p 2 1]? = some p) (within : c.p 4 4 + c.p 8 4 ≤ 32 * p.lines) (between : (s.tile k.tile).exec = none)
    (f : Panel → Nat → State) : onPanel s c f = f p k.tile := by
  simp only [onPanel, onCtx_of on, loaded, tile, panel, Option.getD_some, if_neg (Nat.not_lt.mpr within), between, Option.isSome_none,
    Bool.false_eq_true, if_false]

theorem acc48Off_of_kind {m : Mem} {p : Panel} (kind : p.kind ≠ 4) (start len : Nat) : acc48Off m p start len = none := if_pos kind

/-- Settles O21: each command by the checks of its rule, then its effect on the context or the panel. -/
theorem contextContents : Obligations.ContextContents := by
  refine ⟨fun s ring seq c x i b ready on loaded long hb good => ⟨fun there => ?_, fun new room => ?_⟩,
    fun s ring seq c x ready on => ⟨fun gone => ?_, fun there unused => ?_⟩,
    fun s ring seq c x ready on => ⟨fun loaded new tier => ?_, fun unloaded => ?_⟩,
    fun s ring seq c x rb t runs on loaded new tier hrb fits even len good fmt t1 d rows shards shard src data => ?_,
    fun s ring seq c x t us ready on named one inTable scale room hus => ⟨fun st => ?_, fun st => ?_⟩,
    fun s ctx x hx clocks unreplayed => ⟨fun at_ => ?_, fun away => ?_⟩,
    fun s ring seq c x i k p on loaded tile panel within between => ⟨fun ready rw_ => ?_, fun ready ro => ?_, fun ready rw_ kind => ?_,
      fun ready ro kind => ?_⟩⟩
  · rw [exec_variantLoad_of_good ready on loaded long hb good, if_pos (any_key_eq_true.mpr there)]
  · refine ⟨variantOf c b, rfl, rfl, rfl, ?_⟩
    rw [exec_variantLoad_of_good ready on loaded long hb good, any_key_eq_false.mpr new, if_neg Bool.false_ne_true, if_neg (by omega)]
  · rw [exec_variantDrop_of_ready ready on, if_pos (any_key_eq_false.mpr gone)]
  · have noUser : (s.reqs.any fun e => e.2.elim false fun r => r.open_ && r.ctx == c.pkt.ctx && r.variant == c.p 0 2) = false := by
      refine List.any_eq_false.mpr fun e he => ?_
      cases hr : e.2 with
      | none => simp
      | some r => simpa using unused e he r hr
    rw [exec_variantDrop_of_ready ready on, any_key_eq_true.mpr there, if_neg (by simp), noUser, if_neg Bool.false_ne_true]
  · rw [exec_tableLoad_of_ready ready on, if_neg]
    simp [any_key_eq_false.mpr new, loaded, tier]
  · rw [exec_tableLoad_of_ready ready on, unloaded, if_pos (by simp)]
  · have ht : t = tier1Of s c := by
      subst hrb
      obtain ⟨⟩ := t
      simp only at fmt t1 d rows shards shard src data
      rw [fmt, t1, d, rows, shards, shard, src, data, tier1Of]
    rw [exec_tableLoad_of_tier1 runs on loaded new tier hrb fits even len good, ht]
  · rw [exec_tableUpdate_of_one ready on named one inTable scale room rfl, if_neg st, hus]
  · rw [exec_tableUpdate_of_one ready on named one inTable scale room rfl, if_pos st, hus]
  · rw [exec_tableUpdateApply_of_look hx clocks unreplayed, if_pos at_]
  · rw [exec_tableUpdateApply_of_look hx clocks unreplayed, away, if_neg Bool.false_ne_true]
  · simp only [exec_panelRead, execPanelRead, onReady_of ready, onPanel_of on loaded tile panel within between, rw_, Bool.not_true,
      Bool.false_eq_true, if_false]
  · simp only [exec_panelRead, execPanelRead, onReady_of ready, onPanel_of on loaded tile panel within between, ro, Bool.not_false, if_true]
  · simp only [exec_panelWrite, execPanelWrite, onReady_of ready, onPanel_of on loaded tile panel within between, acc48Off_of_kind kind, rw_,
      Bool.not_true, Bool.false_eq_true, if_false]
  · simp only [exec_panelWrite, execPanelWrite, onReady_of ready, onPanel_of on loaded tile panel within between, acc48Off_of_kind kind, ro,
      Bool.not_false, if_true]

end Sys2Proof.Machine
end

section
/-! Requests open and run (12_graec_commands R292 to R295; 11_graec_rings R276). -/

namespace Sys2Proof.Machine

variable {s : State} {ring seq : Nat} {c : Cmd} {x : Ctx} {i : Image} {r : Req} {f : Req → State}

/-! ## REQ_OPEN -/

/-- A new request of class 0 or 1 takes its staging pages (R157). -/
def takeStaging (s : State) (c : Cmd) : State :=
  if c.pkt.prio < 2 then s.updKv fun k => { k with
    hobFree := k.hobFree - pairCount s c.pkt.ctx, hobHwm := max k.hobHwm (0x2000 - (k.hobFree - pairCount s c.pkt.ctx)) }
  else s

theorem openReq_of_plain (s : State) (c : Cmd) : openReq s c none none = finish
    (captureOpen ((takeStaging s c).setReq (freeSlot s) (some (newReq s c (freeSlot s) none none))) c c.pkt.ctx
      (handleOf (freeSlot s) (newReq s c (freeSlot s) none none).gen)) c stOk (handleOf (freeSlot s) (newReq s c (freeSlot s) none none).gen) :=
  rfl

/-- A request without pinned pages and without a draft opens where a slot, REQ and the staging pages have room. -/
theorem exec_reqOpen_of_plain (ready : Ready s 0x40 ring seq c) (hx : look s.ctxs c.pkt.ctx = some x) (loaded : x.image = some i)
    (live : x.halted = false) (local_ : x.chimney = false) (variant : c.p 0 2 = 0) (noHandle : c.p 40 8 = 0)
    (noPrefix : look s.kv.prefixes 0 = none) (noDraft : c.p 28 4 = noReq) (keeps : bit (c.p 2 1) 0 = false) (slot : freeSlot s < 2 ^ 20)
    (fits : reqFits s (openBytes s c none) = true) (staging : c.pkt.prio < 2 → pairCount s c.pkt.ctx ≤ s.kv.hobFree) :
    exec (.reqOpen ring seq) s = .next (openReq s c none none) := by
  have noStaging : (decide (c.pkt.prio < 2) && decide (s.kv.hobFree < pairCount s c.pkt.ctx)) = false := by
    simpa using staging
  simp only [exec_reqOpen, execReqOpen, onReady_of ready, hx, noHandle, noPrefix, noDraft, Option.filter_none, Option.elim_none, Option.isNone_none,
    Nat.zero_add, ne_eq, not_true_eq_false, false_and, if_false, if_true, loaded, live, local_, keeps, Bool.false_and, Bool.false_eq_true,
    fits, noStaging, Bool.not_true, Bool.or_false, decide_eq_true_eq, Nat.not_le.mpr slot, Option.map_none, Bool.true_or, variant,
    beq_self_eq_true]
  rw [firstBad_of_all (by simp)]

/-! ## The step index -/

theorem onStep_of_next (h : c.p 0 4 = r.nextStep) (t : State) : onStep s c r t = t := if_pos h

theorem onStep_of_kept {k : Nat × Rec} (h : c.p 0 4 ≠ r.nextStep) (kept : (r.kept.find? fun e => e.1 == c.p 0 4) = some k) (t : State) :
    onStep s c r t = finishCopy s c k.2 := by
  simp only [onStep, if_neg h, kept]

theorem onStep_of_unkept (h : c.p 0 4 ≠ r.nextStep) (unkept : (r.kept.find? fun e => e.1 == c.p 0 4) = none) (t : State) :
    onStep s c r t = if (c.p 0 4 + 2 ^ 32 - r.nextStep) % 2 ^ 32 < 2 ^ 31 then finish s c stBadParam 32 else finish s c stStaleSeq 0 := by
  simp only [onStep, if_neg h, unkept, badParam]

/-! ## A command of a request begins -/

theorem beginReq_of_counted (opc : c.pkt.opc ≠ 0x43) : beginReq s c =
    (putCmd s { c with phase := .running, dispatched := 0, ended := 0, admitted := 0 }).updReq (reqSlot c.pkt.req) fun r =>
      { r with firstCmd := some (r.firstCmd.getD c.consumedAt) } := if_neg opc

theorem beginReq_of_verify (opc : c.pkt.opc = 0x43) : beginReq s c =
    putCmd s { c with phase := .running, dispatched := 0, ended := 0, admitted := 0 } := if_pos opc

theorem isLong_of_short_append (opc : c.pkt.opc = 0x41) (short : c.p 0 4 ≤ 4096) : isLong c.pkt = false := by
  have few : field c.pkt.params 0 4 ≤ 4096 := short
  simp [isLong, opc, few]

theorem exec_reqAppend_of_short (ready : Ready s 0x41 ring seq c) (turn : reqTurn s c = true) (on : OnReq s c r)
    (hx : look s.ctxs r.ctx = some x) (fits : r.length + c.p 0 4 ≤ 4194304) (good : appendBad s c x (x.image.elim 0 (·.vocab)) = none)
    (short : c.p 0 4 ≤ 4096) : exec (.reqAppend ring seq) s = .next
      ((beginReq s { c with total := c.p 0 4 }).updReq (reqSlot c.pkt.req) fun r => { r with pending := none }) := by
  obtain ⟨-, -, opc, -, -⟩ := id ready
  simp only [exec_reqAppend, execReqAppend, onReady_of ready, turn, Bool.not_true, Bool.false_eq_true, if_false, onReq_of on, hx,
    if_neg (Nat.not_lt.mpr fits), good, isLong_of_short_append opc short]

theorem exec_reqStep_of_turn (ready : Ready s 0x42 ring seq c) (turn : reqTurn s c = true) (on : OnReq s c r) :
    exec (.reqStep ring seq) s = .next (onStep s c r (if r.pending.isNone = true then finish s c stNotPermitted 0
      else if r.length + 1 > 4194304 then tooLong s c else beginReq s { c with total := 1 })) := by
  simp only [exec_reqStep, execReqStep, onReady_of ready, turn, Bool.not_true, Bool.false_eq_true, if_false, onReq_of on]

/-- A client tree without error, on a request that verifies and has room for it, is verified. -/
theorem exec_reqVerify_of_tree (ready : Ready s 0x43 ring seq c) (turn : reqTurn s c = true) (on : OnReq s c r) (next : c.p 0 4 = r.nextStep)
    (client : c.p 4 1 = 0) (pending : r.pending.isSome = true) (verifies : r.verify = true)
    (good : treeBad (packetCands c) ((look s.ctxs r.ctx).elim 0 fun x => x.image.elim 0 (·.vocab)) = none)
    (fits : r.length + 1 + ((List.range (packetCands c).length).map (depthOf (packetCands c))).foldl max 0 ≤ 4194304)
    (undrafted : r.draft = none) : exec (.reqVerify ring seq) s = .next
      (beginReq (s.updReq (reqSlot c.pkt.req) fun r => { r with scratch := [], dists := [] })
        { c with cands := packetCands c, draftDepth := 0, total := 1 + (packetCands c).length }) := by
  have noDraft : r.pending.isNone = false := by rw [← Option.not_isSome, pending]; rfl
  simp only [exec_reqVerify, execReqVerify, onReady_of ready, turn, Bool.not_true, Bool.false_eq_true, if_false, onReq_of on, onStep_of_next next,
    client, noDraft, verifies, Bool.or_self, zero_ne_one, decide_false, Bool.false_and, if_true, good, false_and, or_false,
    if_neg (Nat.not_lt.mpr fits), undrafted]

/-- Settles O22: REQ_OPEN where nothing refuses it, the other three by their step index and by what their request allows. -/
theorem requestsOpenAndRun : Obligations.RequestsOpenAndRun := by
  refine ⟨fun s ring seq c x i r ready hx loaded live local_ variant noHandle noPrefix noDraft keeps slot fits staging hr => ?_,
    fun s ring seq c r x c' ready turn on hx fits good short hc => ?_,
    fun s ring seq c r ready turn on => ⟨fun c' next pending fits hc => ?_, fun next noToken => ?_, fun k notNext kept => ?_,
      fun notNext unkept => ?_⟩,
    fun s ring seq c r c' ready turn on next client pending verifies good fits undrafted hc => ?_⟩
  · subst hr
    refine ⟨rfl, rfl, rfl, rfl, rfl, rfl, rfl, takeStaging s c, rfl, ?_⟩
    rw [exec_reqOpen_of_plain ready hx loaded live local_ variant noHandle noPrefix noDraft keeps slot fits staging, openReq_of_plain]
    rfl
  · obtain ⟨-, -, opc, -, -⟩ := id ready
    rw [exec_reqAppend_of_short ready turn on hx fits good short, beginReq_of_counted (by simp [opc]), hc]
  · obtain ⟨-, -, opc, -, -⟩ := id ready
    have noDraft : r.pending.isNone = false := by rw [← Option.not_isSome, pending]; rfl
    rw [exec_reqStep_of_turn ready turn on, onStep_of_next next, noDraft, if_neg Bool.false_ne_true, if_neg (by omega),
      beginReq_of_counted (by simp [opc]), hc]
  · rw [exec_reqStep_of_turn ready turn on, onStep_of_next next, noToken, Option.isNone_none, if_pos rfl]
  · rw [exec_reqStep_of_turn ready turn on, onStep_of_kept notNext kept]
  · rw [exec_reqStep_of_turn ready turn on, onStep_of_unkept notNext unkept]
  · obtain ⟨-, -, opc, -, -⟩ := id ready
    rw [exec_reqVerify_of_tree ready turn on next client pending verifies good fits undrafted, beginReq_of_verify (by simp [opc]), hc]

end Sys2Proof.Machine
end

section
/-! Requests end (12_graec_commands R296, R298, R299; 07_attention R174). -/

namespace Sys2Proof.Machine

variable {s : State} {ring seq : Nat} {c : Cmd} {r : Req}

/-! ## What sending a frame leaves: only the chimney's state and the free values change -/

section
variable {β : Type} {g : State → β} (chim : ∀ s f, g (State.updChim s f) = g s) (drawn : ∀ s : State, g s.fresh.2 = g s)
include chim

theorem setLnk_frame (s : State) (l : LinkId) (x : Lnk) : g (setLnk s l x) = g s := chim _ _

theorem emit_frame (s : State) (l : LinkId) (f : Frame) : g (emit s l f) = g s := (chim _ _).trans (chim _ _)

theorem sendOn_frame (s : State) (l : LinkId) (f : Frame) : g (sendOn s l f) = g s := by
  unfold sendOn
  dsimp only
  split
  · rfl
  · split
    · exact setLnk_frame chim ..
    · exact (emit_frame chim ..).trans (setLnk_frame chim ..)

omit chim
include drawn

theorem pickPort_frame (s : State) (k : Nat) (plus : Bool) : g (pickPort s k plus).2 = g s := by
  unfold pickPort
  split
  · rfl
  · rfl
  · exact drawn s

theorem wayOut_frame (s : State) (k : Nat) (plus : Bool) : g (wayOut s k plus).2 = g s := by
  have picked := pickPort_frame drawn s k plus
  unfold wayOut
  dsimp only
  split
  · rfl
  · split <;> rename_i h <;> rw [h] at picked <;> exact picked

theorem route_frame (s : State) (dst flags : Nat) (came : Option (Nat × Bool)) : g (route s dst flags came).2.2 = g s := by
  unfold route
  split
  · rfl
  · split
    · rfl
    · rename_i k short _
      dsimp only
      split <;> rename_i h
      · have first := wayOut_frame drawn s k (if (bit flags 2 && (came.elim false fun c => c.1 == k)) then came.elim short (·.2) else short)
        rw [h] at first
        exact first
      · have first := wayOut_frame drawn s k (if (bit flags 2 && (came.elim false fun c => c.1 == k)) then came.elim short (·.2) else short)
        rw [h] at first
        split
        · exact first
        · split <;> rename_i h' <;>
            have second := congrArg (fun p => g p.2) h' <;> exact (second.symm.trans (wayOut_frame drawn ..)).trans first

include chim

/-- Sending a frame changes nothing but the chimney's state and the free values drawn. -/
theorem sendFrame_frame (s : State) (ty dst step : Nat) (payload : List Byte) : g (sendFrame s ty dst step payload) = g s := by
  have routed := route_frame drawn s dst 0 none
  unfold sendFrame
  dsimp only
  split
  · rfl
  · split
    · split
      · rfl
      · exact sendOn_frame chim ..
    · split <;> rename_i h <;> rw [h] at routed
      · exact routed
      · exact (sendOn_frame chim ..).trans routed

end

/-! ## What capturing a command leaves: only contexts and host memory change -/

section
variable {β : Type} {g : State → β} (ctx : ∀ s i f, g (State.updCtx s i f) = g s) (mem : ∀ s a bs, g (State.hostWrite s a bs) = g s)
include ctx mem

theorem appendRec_frame (s : State) (x kind phase ctile disp ord pos : Nat) (body : List Byte) :
    g (appendRec s x kind phase ctile disp ord pos body) = g s := by
  unfold appendRec
  split
  · rfl
  · dsimp only
    split
    · rfl
    · split
      · exact ctx ..
      · exact (ctx ..).trans (mem ..)

theorem captureCmd_frame (s : State) (c : Cmd) : g (captureCmd s c) = g s := by
  unfold captureCmd
  repeat' split
  all_goals try rfl
  · exact ctx ..
  · exact appendRec_frame ctx mem ..

end

@[simp] theorem captureCmd_cmds (s : State) (c : Cmd) : (captureCmd s c).cmds = s.cmds :=
  captureCmd_frame (g := (·.cmds)) (by simp) (by simp) s c

@[simp] theorem captureCmd_reqs (s : State) (c : Cmd) : (captureCmd s c).reqs = s.reqs :=
  captureCmd_frame (g := (·.reqs)) (by simp) (by simp) s c

theorem warnBits_captureCmd (s : State) (c : Cmd) : warnBits (captureCmd s c) c = warnBits s c := by
  simp only [warnBits, findReq, captureCmd_reqs]

/-! ## What releasing a request leaves of the outstanding commands -/

@[simp] theorem sendMirrorFree_cmds (s : State) (handle layer head p ctx : Nat) (gone : Bool) :
    (sendMirrorFree s handle layer head p ctx gone).cmds = s.cmds :=
  sendFrame_frame (g := (·.cmds)) (by simp) (by simp) ..

@[simp] theorem freePage_cmds (s : State) (id : Nat) : (freePage s id).cmds = s.cmds := by
  unfold freePage
  repeat' split
  all_goals simp

@[simp] theorem giveBack_cmds (s : State) (slot : Nat) : (giveBack s slot).cmds = s.cmds := by
  unfold giveBack
  split
  · rfl
  · rw [State.updReq_cmds]
    exact foldl_field (·.cmds) (by simp) _ _

@[simp] theorem updEntry_cmds (s : State) (slot pair p : Nat) (f : Entry → Entry) : (updEntry s slot pair p f).cmds = s.cmds :=
  State.updReq_cmds ..

@[simp] theorem dropRef_cmds (s : State) (id : Nat) : (dropRef s id).cmds = s.cmds := by
  unfold dropRef
  repeat' split
  · rfl
  · simp
  · exact (foldl_field (·.cmds) (by simp) _ _).trans (by simp)
  · simp

theorem foldl_dropRef_cmds {α : Type} (id : α → Nat) (l : List α) (s : State) : (l.foldl (fun s k => dropRef s (id k)) s).cmds = s.cmds :=
  foldl_field (·.cmds) (by simp) l s

@[simp] theorem unbindIf_cmds (s : State) (p : Bound → Bool) :
    (unbindIf s p).cmds = s.cmds.map fun c => { c with bound := c.bound.filter fun b => !p b } := rfl

/-- A release only takes the pages bound for its request from the outstanding commands. -/
theorem releaseReq_cmds (s : State) (slot : Nat) :
    (releaseReq s slot).cmds = s.cmds ∨
      (releaseReq s slot).cmds = s.cmds.map fun c => { c with bound := c.bound.filter fun b => !(b.slot == slot) } := by
  unfold releaseReq
  dsimp only
  split
  · exact .inl rfl
  · split
    · exact .inl rfl
    · right
      have freed (ps : Nat × Nat × Entry → State → Prop) [∀ k s, Decidable (ps k s)] (h : Nat × Nat × Entry → State → State)
          (kept : ∀ k s, (h k s).cmds = s.cmds) (l : List (Nat × Nat × Entry)) :
          (l.foldl (fun s k => if ps k s then h k s else s) s).cmds = s.cmds :=
        foldl_field (·.cmds) (fun s k => by split <;> simp [kept]) l s
      repeat' split
      all_goals
        simp only [State.setReq_cmds, State.updChim_cmds, State.updReq_cmds, State.updKv_cmds, foldl_dropRef_cmds, unbindIf_cmds,
          giveBack_cmds]
      all_goals exact congrArg (List.map _) (freed _ _ (fun _ _ => sendMirrorFree_cmds ..) _)

/-! ## A request that ends with the one command that ends it -/

theorem findReq_updReq {h : Nat} (named : findReq s h = some r) {f : Req → Req} (opened : (f r).open_ = r.open_) (gen : (f r).gen = r.gen) :
    findReq (s.updReq (reqSlot h) f) h = some (f r) := by
  unfold findReq at named ⊢
  split at named
  · cases named
  · rename_i q hq
    split at named
    · rename_i live
      cases named
      have here : look (s.updReq (reqSlot h) f).reqs (reqSlot h) = some (f r) := by
        simp [State.updReq, hq, State.setReq, get_put_same, look, store]
      simp only [here, opened, gen, live, if_true]
    · cases named

theorem findCmd_of_alone (alone : s.cmds = [c]) (ends : c.phase = .draining ∨ c.phase = .leaving) :
    findCmd s c.ring c.pkt.seq = some c := by
  rcases ends with h | h <;> simp [findCmd, alone, h]

/-- The command that a release leaves is the one it found, but for what is bound for it. -/
theorem findCmd_releaseReq (slot : Nat) (alone : s.cmds = [c]) (ends : c.phase = .draining ∨ c.phase = .leaving) :
    ∃ b, findCmd (releaseReq s slot) c.ring c.pkt.seq = some { c with bound := b } := by
  rcases releaseReq_cmds s slot with h | h
  · exact ⟨c.bound, findCmd_of_alone (h.trans alone) ends⟩
  · rw [alone, List.map_cons, List.map_nil] at h
    exact ⟨_, findCmd_of_alone (c := { c with bound := c.bound.filter fun b => !(b.slot == slot) }) h ends⟩

theorem finishW_bound (t : State) (c : Cmd) (b : List Bound) (status result0 warn : Nat) :
    finishW t { c with bound := b } status result0 warn = finishW t c status result0 warn := rfl

/-- With no other command outstanding and no vector in flight, the end of a request releases it and completes the command. -/
theorem settle_of_alone (alone : s.cmds = [c]) (named : findReq s c.pkt.req = some r) (quiet : vecsOf s c.pkt.req = false)
    (unbound : r.boundBy = none) (opc : c.pkt.opc = 0x44 ∨ c.pkt.opc = 0x45) (ends : c.phase = .draining ∨ c.phase = .leaving) :
    settle s c.pkt.req = finishW (releaseReq (captureCmd s c) (reqSlot c.pkt.req)) c stOk 0 (warnBits s c) := by
  have ending : (s.cmds.filter fun d => d.pkt.req == c.pkt.req && (d.pkt.opc == 0x44 || d.pkt.opc == 0x45) &&
      (d.phase == .leaving || d.phase == .draining)) = [c] := by
    rcases opc with ho | ho <;> rcases ends with hp | hp <;> simp [alone, ho, hp]
  have busy : (s.cmds.any fun d => d.pkt.req == c.pkt.req && d.pkt.opc != 0x44 && d.pkt.opc != 0x45 &&
      ([c] : List Cmd).all fun e => decide (d.order < e.order)) = false := by
    simp [alone]
  obtain ⟨b, found⟩ := findCmd_releaseReq (s := captureCmd s c) (reqSlot c.pkt.req) (by simpa using alone) ends
  simp only [settle, named, quiet, Bool.false_eq_true, if_false, ending, busy, unbound, Option.elim_none, ne_eq,
    not_false_eq_true, and_self, or_true, if_true, List.cons_ne_self, List.foldl_cons, List.foldl_nil, found, finishW_bound, warnBits_captureCmd]

/-! ## REQ_CLOSE and REQ_CANCEL -/

theorem vecsOf_updReq (s : State) (i : Nat) (f : Req → Req) (h : Nat) : vecsOf (s.updReq i f) h = vecsOf s h := by
  simp only [vecsOf, anyVec, State.updReq_ctxs, State.updReq_chim]

theorem putCmd_of_alone (alone : s.cmds = [c]) {p : Phase} : putCmd s { c with phase := p } = { s with cmds := [{ c with phase := p }] } := by
  simp [putCmd, alone]

theorem exec_reqClose_of_alone (ready : Ready s 0x44 ring seq c) (on : OnReq s c r) (alone : s.cmds = [c]) :
    exec (.reqClose ring seq) s = .next (settle ({ s with cmds := [{ c with phase := .draining }] }.updReq (reqSlot c.pkt.req) fun r =>
      { r with closing := true }) c.pkt.req) := by
  simp only [exec_reqClose, execReqClose, onReady_of ready, onReq_of on, putCmd_of_alone alone]

/-- A request is marked cancelled, and what runs for it discarded (R296, R315). -/
def cancelMarked (s : State) (h : Nat) : State :=
  { s with
    ctxs := s.ctxs.map fun e => (e.1, e.2.map fun c =>
      { c with inflight := c.inflight.map fun v => if v.xr.req = h then { v with discarded := true } else v }),
    tiles := s.tiles.map fun e => (e.1, e.2.map fun t =>
      { t with exec := t.exec.map fun x => if x.xr.req = h then { x with discarded := true } else x,
               fires := t.fires.map fun f => (f.1, f.2.map fun y => if y.req = h then { y with discarded := true } else y) }),
    chim := { s.chim with redo := s.chim.redo.filter fun x => x.xr.req != h } }

theorem cancelReq_of_alone (named : findReq s c.pkt.req = some r) (alone : s.cmds = [c]) (cancels : c.pkt.opc = 0x45) (before : Nat) :
    cancelReq s c.pkt.req before = settle ((cancelMarked s c.pkt.req).updReq (reqSlot c.pkt.req) fun r =>
      { r with cancelled := true, closing := true }) c.pkt.req := by
  have others : (s.cmds.filter fun d => d.pkt.req == c.pkt.req && d.pkt.opc != 0x45 && d.pkt.opc != 0x44 && decide (d.order < before)) = [] := by
    simp [alone, cancels]
  simp only [cancelReq, named, others, List.foldl_nil]
  rfl

/-- What is discarded is still in flight, but nothing else is. -/
theorem vecsOf_cancelMarked (quiet : vecsOf s h = false) : vecsOf (cancelMarked s h) h = false := by
  simp only [vecsOf, anyVec, Bool.or_eq_false_iff] at quiet ⊢
  obtain ⟨⟨noVec, noStep⟩, noRedo⟩ := quiet
  refine ⟨⟨?_, noStep⟩, ?_⟩
  · rw [cancelMarked, List.any_map]
    refine Eq.trans (congrArg (List.any s.ctxs) (funext fun e => ?_)) noVec
    cases he : e.2 with
    | none => simp [he]
    | some x =>
      have same (v : Vec) : (if v.xr.req = h then { v with discarded := true } else v).xr = v.xr := by split <;> rfl
      simp [he, List.any_map, Function.comp_def, same]
  · simp [cancelMarked]

theorem exec_reqCancel_of_alone (ready : Ready s 0x45 ring seq c) (on : OnReq s c r) (alone : s.cmds = [c]) :
    exec (.reqCancel ring seq) s = .next (settle ((cancelMarked { s with cmds := [{ c with phase := .leaving }] } c.pkt.req).updReq
      (reqSlot c.pkt.req) fun r => { r with cancelled := true, closing := true }) c.pkt.req) := by
  obtain ⟨-, -, opc, -, -⟩ := id ready
  obtain ⟨named, -, -, -⟩ := id on
  simp only [exec_reqCancel, execReqCancel, onReady_of ready, onReq_of on, putCmd_of_alone alone]
  rw [cancelReq_of_alone (c := { c with phase := .leaving }) (s := { s with cmds := [{ c with phase := .leaving }] }) named rfl opc]

/-! ## REQ_QUERY -/

theorem queryRec_length (r : Req) : (queryRec r).length = 64 := by
  simp [queryRec, natLe_length]

/-! ## PREFIX_PIN and PREFIX_RELEASE -/

theorem pinned_of_empty (noPages : r.tables = []) (n : Nat) : pinned r n = [] := by
  simp [pinned, noPages]

theorem exec_prefixPin_of_bad (ready : Ready s 0x50 ring seq c) (turn : reqTurn s c = true) (on : OnReq s c r)
    (bad : c.p 0 4 = 0 ∨ r.length < c.p 0 4) : exec (.prefixPin ring seq) s = .next (finish s c stBadParam 32) := by
  simp only [exec_prefixPin, execPrefixPin, onReady_of ready, turn, Bool.not_true, Bool.false_eq_true, if_false, onReq_of on, gt_iff_lt, bad, if_true,
    badParam]

/-- Pages that are neither ash nor bound, with room for a reference each, are pinned. -/
theorem exec_prefixPin_of_free (ready : Ready s 0x50 ring seq c) (turn : reqTurn s c = true) (on : OnReq s c r) (some_ : 0 < c.p 0 4)
    (within : c.p 0 4 ≤ r.length) (cls : 2 ≤ r.cls) (room : s.kv.prefixes.length < 65536)
    (free : ∀ e ∈ pinned r (c.p 0 4), e.2.2.ash = false ∧ ∀ x, s.page e.2.2.slot = some x → x.bound = false ∧ x.refcnt < 65535) :
    exec (.prefixPin ring seq) s = .next (pinPrefix s c r (c.p 0 4)) := by
  have pinnable : ((pinned r (c.p 0 4)).any fun e => e.2.2.ash || (s.page e.2.2.slot).elim false (·.bound)) = false := by
    refine List.any_eq_false.mpr fun e he => ?_
    obtain ⟨live, page⟩ := free e he
    cases hp : s.page e.2.2.slot with
    | none => simp [live]
    | some x => simp [live, (page x hp).1]
  have countable : ((pinned r (c.p 0 4)).any fun e => (s.page e.2.2.slot).elim false fun x => decide (x.refcnt ≥ 65535)) = false := by
    refine List.any_eq_false.mpr fun e he => ?_
    cases hp : s.page e.2.2.slot with
    | none => simp
    | some x => simpa using ((free e he).2 x hp).2
  have good : ¬(c.p 0 4 = 0 ∨ c.p 0 4 > r.length) := by omega
  have roomy : ¬(s.kv.prefixes.length ≥ 65536 ∨ False) := by simpa using room
  have whole : decide (r.cls < 2) = false := decide_eq_false (by omega)
  simp only [exec_prefixPin, execPrefixPin, onReady_of ready, turn, Bool.not_true, Bool.false_eq_true, if_false, onReq_of on, if_neg good,
    pinnable, whole, Bool.false_and, countable, if_neg roomy]

theorem exec_prefixRelease_of_own (ready : Ready s 0x51 ring seq c) {p : Prefix} (held : look s.kv.prefixes (c.p 0 8) = some p)
    (own : p.ctx = c.pkt.ctx) : exec (.prefixRelease ring seq) s = .next (done ((p.ids.foldl dropRef s).updKv fun k =>
      { k with prefixes := store k.prefixes (c.p 0 8) none }) c 0) := by
  simp only [exec_prefixRelease, execPrefixRelease, onReady_of ready, held, Option.filter_some, own, beq_self_eq_true, if_true]

theorem exec_prefixRelease_of_foreign (ready : Ready s 0x51 ring seq c) {p : Prefix} (held : look s.kv.prefixes (c.p 0 8) = some p)
    (foreign : p.ctx ≠ c.pkt.ctx) : exec (.prefixRelease ring seq) s = .next (finish s c stBadHandle 0) := by
  simp only [exec_prefixRelease, execPrefixRelease, onReady_of ready, held, Option.filter_some, beq_eq_false_iff_ne.mpr foreign,
    Bool.false_eq_true, if_false]

/-- Settles O24: the request's end by `settle` with its command alone; the others by what their handle names. -/
theorem requestsEnd : Obligations.RequestsEnd := by
  refine ⟨fun s ring seq c c' r ready on alone quiet live hc => ⟨fun opc => ?_, fun opc => ?_⟩, fun s ring seq c r ready on => ⟨?_, queryRec_length r⟩,
    fun s ring seq c r ready turn on => ⟨exec_prefixPin_of_free ready turn on, exec_prefixPin_of_bad ready turn on,
      fun noPages some_ within cls room =>
        ⟨let h := get [] s.chim.history (reqSlot c.pkt.req); h.take (c.p 0 4 - (r.length - h.length)), ?_⟩⟩,
    fun s ring seq c p ready held => ⟨exec_prefixRelease_of_own ready held, exec_prefixRelease_of_foreign ready held⟩⟩
  · obtain ⟨named, -, -, unbound⟩ := id on
    rw [if_pos opc] at hc
    have ready' : Ready s 0x44 ring seq c := ready.resolve_right fun h => absurd h.2.2.1 (by simp [opc])
    subst hc
    rw [exec_reqClose_of_alone ready' on alone]
    exact congrArg _ (settle_of_alone (c := { c with phase := .draining }) (by simp) (findReq_updReq (s := { s with cmds := [{ c with phase := .draining }] }) named rfl rfl)
      ((vecsOf_updReq ..).trans quiet) unbound (.inl opc) (.inl rfl))
  · obtain ⟨named, -, -, unbound⟩ := id on
    have ready' : Ready s 0x45 ring seq c := ready.resolve_left fun h => absurd h.2.2.1 (by simp [opc])
    rw [if_neg (by simp [opc])] at hc
    subst hc
    have marked := findReq_updReq (s := cancelMarked { s with cmds := [{ c with phase := .leaving }] } c.pkt.req)
      (f := fun r => { r with cancelled := true, closing := true }) named rfl rfl
    refine ⟨_, (exec_reqCancel_of_alone ready' on alone).trans (congrArg _ ?_), marked, by simp [cancelMarked], by simp [cancelMarked]⟩
    exact settle_of_alone (c := { c with phase := .leaving }) (by simp [cancelMarked]) marked
      ((vecsOf_updReq ..).trans (vecsOf_cancelMarked quiet)) unbound (.inr opc) (.inr rfl)
  · simp only [exec_reqQuery, execReqQuery, onReady_of ready, onReq_of on]
  · rw [exec_prefixPin_of_free ready turn on some_ within cls room (by simp [pinned_of_empty noPages])]
    simp only [pinPrefix, pinned_of_empty noPages, List.foldl_nil, noPages, List.map_nil]
    rfl

end Sys2Proof.Machine
end

section
/-! A step boundary dispatches (13_serving R316, R318, R324; 09_step_programs R216). -/

namespace Sys2Proof.Machine

variable {s t : State} {ctx : Nat} {c : Cmd} {x : Ctx}

/-! ## The boundary of a local context -/

theorem countDefers_none (s : State) : countDefers s (false, false, false) = s := rfl

theorem openGroup_nil (s : State) (ctx : Nat) : openGroup s ctx [] = [] := by
  unfold openGroup
  split <;> rfl

theorem ctxBoundary_of_away (hx : look s.ctxs ctx = some x) (live : x.halted = false) (noReplay : x.replay = none)
    (away : atBoundary s x = false) : ctxBoundary s ctx = s := by
  simp [ctxBoundary, hx, live, noReplay, away]

theorem ctxBoundary_of_local (hx : look s.ctxs ctx = some x) (live : x.halted = false) (noReplay : x.replay = none)
    (stays : x.destroying = false) (local_ : x.chimney = false) (here : atBoundary s x = true)
    (noStep : chimneyFirst (applyUpdates s ctx) x = false) : ctxBoundary s ctx = boundaryLocal (applyUpdates s ctx) ctx x := by
  simp [ctxBoundary, hx, live, noReplay, stays, local_, here, noStep]

theorem boundaryLocal_of_local (local_ : x.chimney = false) : boundaryLocal s ctx x =
    countDefers (tryPicks ctx x (openGroup s ctx (picks s ctx x)) s (false, false, false)).1
      (tryPicks ctx x (openGroup s ctx (picks s ctx x)) s (false, false, false)).2 := by
  simp [boundaryLocal, chooseVec, local_]

/-- The first candidate is dispatched: a step of class 0 or 1, which no gate defers, with room in flight and its pages taken. -/
theorem tryPicks_of_step {p : Pick} {q r : Req} (l : List Pick) (slot : reqAt s p.slot = some q) (named : findReq s p.cmd.pkt.req = some r)
    (step : p.cmd.pkt.opc = 0x42) (cls : p.cls < 2) (room : flightRoom s p.cls 1 = true) (pages : (admitChunk s p.cmd).1 = true)
    (g : Bool × Bool × Bool) : tryPicks ctx x (p :: l) s g = (dispatchCmd (admitChunk s p.cmd).2.1 ctx x p.cmd (admitChunk s p.cmd).2.2, g) := by
  have ungated : decide (p.cls ≥ 2) = false := by simpa using cls
  have alone : groupOpen p.cmd = false := by simp [groupOpen, step]
  rcases hg : admitChunk s p.cmd with ⟨got, t, bs⟩
  rw [hg] at pages
  cases pages
  simp [tryPicks, slot, named, alone, step, room, ungated, anyGate, hg]

theorem exec_dispatchBoundary_of_service (clk : clocked s = true) (serves : s.dev.st = .service) (ctx : Nat) :
    exec (.dispatchBoundary ctx) s = .next (((s.ctxs.map (·.1)).filter fun k => decide (k ≤ ctx)).foldl ctxBoundary s) := by
  simp [exec, execDispatchBoundary, clk, serves]

/-! ## A dispatched vector -/

theorem look_updCtx_other {i : Nat} (ne : ctx ≠ i) (f : Ctx → Ctx) : look (s.updCtx i f).ctxs ctx = look s.ctxs ctx := by
  unfold State.updCtx
  split
  · rfl
  · rw [State.setCtx_ctxs]
    exact get_put_other none s.ctxs _ ne

theorem look_updCtx_capture {i : Nat} (hx : look s.ctxs ctx = some x) {f : Ctx → Ctx} (only : ∀ y, ∃ k, f y = { y with capture := k }) :
    ∃ k, look (s.updCtx i f).ctxs ctx = some { x with capture := k } := by
  by_cases h : ctx = i
  · subst h
    obtain ⟨k, hk⟩ := only x
    exact ⟨k, (look_updCtx hx f).trans (congrArg some hk)⟩
  · exact ⟨x.capture, (look_updCtx_other h f).trans hx⟩

/-- Recording a command changes nothing of a context but its capture. -/
theorem look_appendRec (hx : look s.ctxs ctx = some x) (i kind phase ctile disp ord pos : Nat) (body : List Byte) :
    ∃ k, look (appendRec s i kind phase ctile disp ord pos body).ctxs ctx = some { x with capture := k } := by
  unfold appendRec
  split
  · exact ⟨x.capture, hx⟩
  · dsimp only
    split
    · exact ⟨x.capture, hx⟩
    · split
      · exact look_updCtx_capture hx fun _ => ⟨_, rfl⟩
      · exact look_updCtx_capture (s := s.hostWrite _ _) (by simpa using hx) fun _ => ⟨_, rfl⟩

theorem look_captureCmd (hx : look s.ctxs ctx = some x) (c : Cmd) :
    ∃ k, look (captureCmd s c).ctxs ctx = some { x with capture := k } := by
  unfold captureCmd
  repeat' split
  all_goals try exact ⟨x.capture, hx⟩
  · exact look_updCtx_capture hx fun _ => ⟨_, rfl⟩
  · exact look_appendRec hx ..

@[simp] theorem captureCmd_tiles (s : State) (c : Cmd) : (captureCmd s c).tiles = s.tiles :=
  captureCmd_frame (g := (·.tiles)) (by simp) (by simp) s c

/-- The state in which a dispatched vector's record is taken: its command has been captured where it is its first. -/
def beforeDispatch (s : State) (c : Cmd) : State :=
  if c.dispatched = 0 ∧ (c.pkt.opc ≠ 0x43 ∨ c.draftDepth = 0 ∨ (c.p 4 1 = 0)) then captureCmd s c else s

theorem look_beforeDispatch (hx : look s.ctxs ctx = some x) (c : Cmd) :
    ∃ k, look (beforeDispatch s c).ctxs ctx = some { x with capture := k } := by
  unfold beforeDispatch
  split
  · exact look_captureCmd hx c
  · exact ⟨x.capture, hx⟩

@[simp] theorem beforeDispatch_reqs (s : State) (c : Cmd) : (beforeDispatch s c).reqs = s.reqs := by
  unfold beforeDispatch
  split <;> simp

@[simp] theorem beforeDispatch_tiles (s : State) (c : Cmd) : (beforeDispatch s c).tiles = s.tiles := by
  unfold beforeDispatch
  split <;> simp

theorem nextSlot_of_reqs (same : t.reqs = s.reqs) (c : Cmd) : nextSlot t c = nextSlot s c := by
  simp only [nextSlot, findReq, same]

/-- The execution record of a step is its request's pending token at the next position (R211). -/
theorem nextVec_of_step (step : c.pkt.opc = 0x42) {r : Req} (hr : reqAt s (nextSlot s c) = some r) : (nextVec s c).1 =
    { req := handleOf (nextSlot s c) r.gen, variant := r.variant, cls := r.cls, phase := 0, pos := r.length, step := r.nextStep,
      token := r.pending.getD 0xFFFFFFFF, cand := 0xFF, first := true, last := true } := by
  simp only [nextVec, hr, step]

/-- The vector a command's dispatch puts into a local context's pipeline. -/
def dispatchedVec (s : State) (x : Ctx) (c : Cmd) (bs : List Bound) : Vec :=
  mkVec x.dispatched (nextVec (beforeDispatch s c) c).1 (nextVec (beforeDispatch s c) c).2 c.ring c.pkt.seq (c.bound ++ bs) (drafting c) 0

/-- A vector of a local context joins the end of the context's dispatch sequence. -/
theorem dispatchCmd_of_local (local_ : x.chimney = false) (s : State) (ctx : Nat) (c : Cmd) (bs : List Bound) : ∃ g,
    dispatchCmd s ctx x c bs =
      ((putCmd (beforeDispatch s c) { c with dispatched := c.dispatched + 1, admitted := admitted c, bound := [] }).updCtx ctx fun y => { y with
        dispatched := y.dispatched + 1, inflight := y.inflight ++ [dispatchedVec s x c bs] }).updServe g := by
  simp only [dispatchCmd, enter, local_, Bool.false_and, Bool.false_eq_true, if_false]
  exact ⟨_, rfl⟩

/-- Settles O25: a boundary by the first of its ranked candidates, a dispatch by what it puts into its context's pipeline. -/
theorem vectorsDispatch : Obligations.VectorsDispatch := by
  refine ⟨fun s ctx clk serves => exec_dispatchBoundary_of_service clk serves ctx,
    fun s t ctx x hx clk serves live noReplay stays local_ only ht noStep => ⟨fun p q r l here open_ slot named step cls room pages => ?_,
      fun here none_ => ?_, fun away => ?_⟩, fun s ctx x c bs hx local_ => ?_⟩
  · subst ht
    rw [exec_dispatchBoundary_of_service clk serves, only, List.foldl_cons, List.foldl_nil,
      ctxBoundary_of_local hx live noReplay stays local_ here noStep, boundaryLocal_of_local local_, open_,
      tryPicks_of_step l slot named step cls room pages, countDefers_none]
  · subst ht
    rw [exec_dispatchBoundary_of_service clk serves, only, List.foldl_cons, List.foldl_nil,
      ctxBoundary_of_local hx live noReplay stays local_ here noStep, boundaryLocal_of_local local_, none_, openGroup_nil, tryPicks, countDefers_none]
  · rw [exec_dispatchBoundary_of_service clk serves, only, List.foldl_cons, List.foldl_nil, ctxBoundary_of_away hx live noReplay away]
  · obtain ⟨k, hk⟩ := look_beforeDispatch hx c
    obtain ⟨g, hd⟩ := dispatchCmd_of_local local_ s ctx c bs
    rw [hd]
    refine ⟨dispatchedVec s x c bs, _, (congrArg (look · ctx) (State.updServe_ctxs ..)).trans (look_updCtx (s := putCmd _ _) hk _), rfl, rfl, rfl, rfl,
      rfl, rfl, rfl, rfl, ?_, fun r step hr => ?_⟩
    · simp [putCmd]
    · have slot := nextSlot_of_reqs (beforeDispatch_reqs s c) c
      rw [← slot] at hr ⊢
      exact nextVec_of_step step (by simpa [reqAt] using hr)

end Sys2Proof.Machine
end

section
/-! Serving events outside the executions (13_serving R321; 07_attention R170, R171). -/

namespace Sys2Proof.Machine

variable {s t : State} {ring seq : Nat} {c : Cmd}

/-! ## SPILL_RETURN -/

theorem exec_spillReturn_of_full (full : (s.kv.poolMib * 2 ^ 20 - poolUsed s) * 16 ≤ s.kv.poolMib * 2 ^ 20) :
    exec .spillReturn s = .next s := by
  rw [exec, execSpillReturn, spillReturn, if_pos full, ite_self]

/-- The one page of the pool comes back. -/
theorem exec_spillReturn_of_one {id : Nat} {p : Page} (clk : clocked s = true) (live : s.dev.st ≠ .failed)
    (room : s.kv.poolMib * 2 ^ 20 < (s.kv.poolMib * 2 ^ 20 - poolUsed s) * 16) (one : s.kv.pages = [(id, some p)]) (spilled : p.spilled = true)
    (fits : poolFits s p.ctx = true) : exec .spillReturn s = .next
      ((s.updPage id fun p => { p with spilled := false, spillSlot := 0 }).updCtx p.ctx fun c => { c with spillUsed := c.spillUsed - 1 }) := by
  rw [exec, execSpillReturn, spillReturn, if_neg (Nat.not_le.mpr room)]
  simp [clk, live, one, spilled, fits]

/-! ## A chunk that waits -/

theorem exec_appendChunkRetry_of_due {at_ : Nat} (found : findCmd s ring seq = some c) (waits : c.phase = .chunkWait at_) (clk : clocked s = true)
    (serves : s.dev.st = .service) (due : at_ + 100000 ≤ s.dev.now) : exec (.appendChunkRetry ring seq) s = .next (chunkRetry s c) := by
  simp [exec, execAppendChunkRetry, found, waits, clk, serves, due]

theorem chunkRetry_of_admitted {bs : List Bound} (got : admitChunk s c = (true, t, bs)) : chunkRetry s c = putCmd t { c with
    phase := .running, admitted := c.dispatched + min 256 (c.total - c.dispatched), bound := c.bound ++ bs } := by
  simp only [chunkRetry, got]

theorem chunkRetry_of_refused {bs : List Bound} (got : admitChunk s c = (false, t, bs)) :
    chunkRetry s c = putCmd t { c with bound := c.bound ++ bs } := by
  simp only [chunkRetry, got]

theorem exec_appendChunkTimeout_of_late {at_ : Nat} (found : findCmd s ring seq = some c) (waits : c.phase = .chunkWait at_)
    (clk : clocked s = true) (late : at_ + 1000000000 < s.dev.now) (ended : c.ended = c.dispatched) : exec (.appendChunkTimeout ring seq) s = .next
      (endReqCmd s c stTimeout (lengthOf s c.pkt.req * 2 ^ 32) (warnBits s c)) := by
  simp [exec, execAppendChunkTimeout, found, waits, clk, late, ended]

/-! ## FLUE_LOAD_WINDOW -/

/-- The loads of the dies' flue engines over a window, per mille (R321). -/
def flueLoads (s : State) : List Nat :=
  (List.range 4).map fun d =>
    min 1000 (1000 * (((List.range 4).map (dieBusy s))[d]?.getD 0 - s.serve.flueMark[d]?.getD 0) / max 1 (32 * (9600000 / max 1 s.clk.cclk.div)))

theorem exec_flueLoadWindow_of_clocked (clk : clocked s = true) : exec .flueLoadWindow s = .next (s.updServe fun v => { v with
    flueLoad := flueLoads s, flueGate := (flueLoads s).map fun x => decide (x > 900), flueMark := (List.range 4).map (dieBusy s) }) := by
  simp only [exec, execFlueLoadWindow, clk, Bool.not_true, Bool.false_eq_true, if_false, flueLoads]

/-- Settles O26, each event from the branch its conditions choose. -/
theorem servingEvents : Obligations.ServingEvents := by
  refine ⟨fun s id p clk live room one spilled fits => exec_spillReturn_of_one clk live room one spilled fits, fun s => exec_spillReturn_of_full,
    fun s s1 ring seq t c bs found waits clk serves due => ⟨fun got => ?_, fun got => ?_⟩,
    fun s ring seq t c found waits clk late ended => exec_appendChunkTimeout_of_late found waits clk late ended,
    fun s clk => ⟨_, exec_flueLoadWindow_of_clocked clk, by simp [flueLoads], rfl, fun d hd => ⟨?_, ?_⟩, rfl⟩⟩
  · rw [exec_appendChunkRetry_of_due found waits clk serves due, chunkRetry_of_admitted got]
  · rw [exec_appendChunkRetry_of_due found waits clk serves due, chunkRetry_of_refused got]
  · simp [hd]
  · simp [flueLoads, hd]

end Sys2Proof.Machine
end

section
/-! Executions of tiles start and end (09_step_programs R210 to R214). -/

namespace Sys2Proof.Machine

variable {s : State} {tile cx ct : Nat} {c : Ctx} {i : Image} {k : CTile} {v : Vec} {x : Exec}

/-! ## EXECUTION_START -/

/-- The execution a tile starts for a vector (R211). -/
def startedExec (s : State) (k : CTile) (v : Vec) : Exec :=
  { xr := v.xr, disp := v.disp, pc := entryFor k v.xr.phase, issueCtr := 0, started := s.dev.now, linkWait := 0,
    linkFrom := 0, loops := [], issued := [], ended := false, discarded := v.discarded, chimStep := v.chimStep }

/-- An idle tile takes the next vector of its context: it starts at the entry of its phase, or has ended where it has none. -/
theorem exec_executionStart_of_idle (here : ctileOf s tile = some (cx, ct, c, i, k))
    (next : (c.inflight.find? fun v => v.disp == (s.tile tile).nextDisp) = some v) (clk : clocked s = true) (live : s.dev.st ≠ .failed)
    (runs : (s.tile tile).stopped = false) (unhalted : c.halted = false) (idle : (s.tile tile).exec = none) : exec (.executionStart tile) s = .next
      (if entryFor k v.xr.phase = 0xFFFF then
        tileEnded (s.updTile tile fun y => { y with nextDisp := y.nextDisp + 1, execs := y.execs + 1 }) cx v.disp i.tiles.length
      else s.updTile tile fun y => { y with exec := some (startedExec s k v) }) := by
  simp only [exec_executionStart, execExecutionStart, here, next, clk, beq_eq_false_iff_ne.mpr live, runs, unhalted, idle, Option.isSome_none,
    Bool.not_true, Bool.or_self, Bool.false_eq_true, if_false, startedExec]

/-! ## EXECUTION_END -/

theorem exec_executionEnd_of_ended (here : ctileOf s tile = some (cx, ct, c, i, k)) (runs : (s.tile tile).exec = some x) (clk : clocked s = true)
    (ended : x.ended = true) (complete : ∀ e ∈ x.issued, e.done = true) : ∃ t u : State, t = replayExec (captureExec s cx ct x) cx ct x ∧
      u = duePairs t (slotFor t cx x.xr.req) x.disp ((ownedPairs t cx k).filter fun p => !(streamedPairs t cx i x.xr).contains p) ∧
      exec (.executionEnd tile) s = .next (tileEnded (reapPages (u.updTile tile fun y =>
        { y with exec := none, streams := [], nextDisp := y.nextDisp + 1, execs := y.execs + 1 })) cx x.disp i.tiles.length) := by
  refine ⟨_, _, rfl, rfl, ?_⟩
  have all : x.issued.all (·.done) = true := List.all_eq_true.mpr complete
  simp only [exec_executionEnd, execExecutionEnd, here, runs, clk, ended, all, Bool.not_true, Bool.or_self, Bool.false_eq_true, if_false]

/-! ## INSTRUCTION_COMPLETE -/

theorem exec_instructionComplete_of_issued {n : Nat} {e : Issued} (clk : clocked s = true) (runs : (s.tile tile).exec = some x)
    (found : (x.issued.find? fun e => e.n == n) = some e) : exec (.instructionComplete tile n) s =
      .next (if mayComplete (s.tile tile) s tile x.disp e = true then markDone s tile n else s) := by
  simp only [exec_instructionComplete, execInstructionComplete, clk, Bool.not_true, Bool.false_eq_true, if_false, runs, found]

/-! ## EXEC_LIMIT_EXPIRE -/

/-- An execution that waits on no link and on no KVAPP has its whole time counted. -/
theorem exec_execLimitExpire_of_running (here : ctileOf s tile = some (cx, ct, c, i, k)) (runs : (s.tile tile).exec = some x)
    (clk : clocked s = true) (live : c.halted = false) (unlinked : x.linkFrom = 0)
    (noKvapp : ∀ w, k.code[x.pc]? = some w → iOpc w.toNat ≠ 0x20) : exec (.execLimitExpire tile) s = .next
      (if (s.dev.now - x.started - x.linkWait) * capW s.thm < i.execLimit * 100 * 900 then s
      else raiseErr (s.updTile tile fun y => { y with stopped := true })
        { domain := 8, code := 0x8006, unit := tile, detail := 0, act := .halt cx 2 ct x.pc }) := by
  have word : iOpc ((k.code[x.pc]?).elim 0 (·.toNat)) ≠ 0x20 := by
    cases hw : k.code[x.pc]? with
    | none => decide
    | some w => exact noKvapp w hw
  simp only [exec_execLimitExpire, execExecLimitExpire, here, runs, clk, live, unlinked, if_true, Nat.add_zero, Bool.not_true, Bool.or_self,
    Bool.false_or, decide_eq_true_eq, word, false_and, if_false, stopProg]

/-- Settles O27, each event from its equation for a tile that stands as its conditions say. -/
theorem executionsStartAndEnd : Obligations.ExecutionsStartAndEnd := by
  refine ⟨fun s tile cx ct c i k v here next clk live runs unhalted idle => ⟨fun entry => ?_, fun entry => ?_⟩,
    fun s tile cx ct c i k x here runs clk ended complete => exec_executionEnd_of_ended here runs clk ended complete,
    fun s tile n x e clk runs found => ⟨fun may => ?_, fun may => ?_⟩,
    fun s tile cx ct c i k x here runs clk live unlinked noKvapp => ⟨fun exceeds => ?_, fun within => ?_⟩⟩
  · refine ⟨startedExec s k v, rfl, rfl, rfl, rfl, rfl, rfl, rfl, rfl, rfl, ?_⟩
    rw [exec_executionStart_of_idle here next clk live runs unhalted idle, if_neg entry]
  · rw [exec_executionStart_of_idle here next clk live runs unhalted idle, if_pos entry]
  · rw [exec_instructionComplete_of_issued clk runs found, if_pos may, markDone]
  · rw [exec_instructionComplete_of_issued clk runs found, may, if_neg Bool.false_ne_true]
  · rw [exec_execLimitExpire_of_running here runs clk live unlinked noKvapp, if_neg (by omega)]
  · rw [exec_execLimitExpire_of_running here runs clk live unlinked noKvapp, if_pos within]

end Sys2Proof.Machine
end

section
/-! Control instructions (10_instructions R248 to R250; 09_step_programs R213). -/

namespace Sys2Proof.Machine

variable {s : State} {tile : Nat} {a : At} {k : CTile}

/-! ## WAIT and SIGNAL -/

theorem exec_waitCtr_of_reached (issues : Issues s tile 0x38 a) (reached : bits a.w 48 33 ≤ nat (s.tile a.t).counters (bits a.w 53 49)) :
    exec (.waitCtr tile) s = .next (issued (s.updTile a.t fun y =>
      { y with counters := put 0 y.counters (bits a.w 53 49) (nat (s.tile a.t).counters (bits a.w 53 49) - bits a.w 48 33) }) a [] true) := by
  rw [exec_waitCtr, execWaitCtr, onIssue_ok issues (if_neg (Nat.not_lt.mpr reached))]

theorem onIssue_wait {opc : Nat} {f : State → At → Eff} (issues : Issues s tile opc a) (hf : f s a = .wait) : onIssue opc tile f s = s := by
  obtain ⟨stands, word⟩ := issues
  simp [onIssue, stands, word, hf]

theorem exec_waitCtr_of_short (issues : Issues s tile 0x38 a) (short : nat (s.tile a.t).counters (bits a.w 53 49) < bits a.w 48 33) :
    exec (.waitCtr tile) s = .next s := by
  rw [exec_waitCtr, execWaitCtr, onIssue_wait issues (if_pos short)]

theorem exec_signal_of_free (issues : Issues s tile 0x39 a) (target : a.i.tiles[bits a.w 48 36]? = some k)
    (free : ∀ d ∈ (s.tile a.t).sends, d.dst ≠ k.tile) : exec (.signal tile) s = .next (issued { s with
      flits := s.flits ++ [.signal a.t a.x.pc k.tile (bits a.w 53 49) (bits a.w 35 20)] } a [] false) := by
  have none_ : ((s.tile a.t).sends.any fun d => d.dst == k.tile) = false := by simpa using free
  rw [exec_signal, execSignal, onIssue_ok issues (by simp only [target, Option.elim_some, none_, Bool.false_eq_true, if_false]; rfl)]

theorem exec_signal_of_sending (issues : Issues s tile 0x39 a) (target : a.i.tiles[bits a.w 48 36]? = some k)
    (sending : ∃ d ∈ (s.tile a.t).sends, d.dst = k.tile) : exec (.signal tile) s = .next s := by
  have some_ : ((s.tile a.t).sends.any fun d => d.dst == k.tile) = true := by simpa using sending
  rw [exec_signal, execSignal, onIssue_wait issues (by simp only [target, Option.elim_some, some_, if_true])]

/-! ## SIGNAL_ARRIVAL -/

/-- A signal whose execution has ended arrives, or, past 65,535, halts the context of its tile. -/
theorem exec_signalArrival_of_ended {src pc ctr add : Nat} {l : List Flit} (clk : clocked s = true)
    (comes : takeSignal tile s.flits = some ((src, pc, ctr, add), l)) (ended : (s.tile src).exec = none) : exec (.signalArrival tile) s = .next
      (if nat (s.tile tile).counters ctr + add ≤ 65535 then ({ s with flits := l } : State).updTile tile fun y =>
        { y with counters := put 0 y.counters ctr (nat (s.tile tile).counters ctr + add) }
      else match (s.tile tile).ctx with
        | none => { s with flits := l }
        | some (cx, _) => raiseErr { s with flits := l }
            { domain := 8, code := 0x8006, unit := tile, detail := 0, act := .halt cx 1 ((s.tile src).ctx.elim 0xFFFF (·.2)) pc }) := by
  have same (t : Nat) : State.tile { s with flits := l } t = s.tile t := rfl
  simp only [exec_signalArrival, execSignalArrival, clk, Bool.not_true, Bool.false_eq_true, if_false, comes, same, ended] <;> rfl

/-! ## LOOP, BR, END, NOP -/

theorem natLe_one_b2n (p : Prop) [Decidable p] : natLe 1 (b2n (decide p)) = [if p then 1#8 else 0#8] := by
  by_cases h : p <;> simp [h, b2n, natLe]

theorem exec_br_of_issues (issues : Issues s tile 0x3B a) : exec (.br tile) s = .next
    (if brTaken a.w a.x.xr = true then updExec (issued s a [1#8] true) a.t fun x => { x with pc := bits a.w 53 43, loops := a.x.loops }
    else issued s a [0#8] true) := by
  obtain ⟨stands, word⟩ := issues
  have one : natLe 1 1 = [1#8] := rfl
  have zero : natLe 1 0 = [0#8] := rfl
  simp only [exec_br, execBr, stands, word, ne_eq, not_true_eq_false, if_false, one, zero]

theorem brTaken_eq (w : Nat) (x : ExecRec) : brTaken w x = match bits w 42 40 with
    | 0 => true | 1 => x.first | 2 => x.last | 3 => decide (x.phase = bits w 39 32) | 4 => decide (x.cls ≤ bits w 39 32)
    | 5 => decide (x.cand = 0xFF) | 6 => !x.first | _ => false := by
  unfold brTaken
  rfl

/-! ## TIMEREAD -/

theorem exec_timeread_of_unreplayed (issues : Issues s tile 0x3E a) (unreplayed : a.c.replay = none)
    (fits : a.has (bits a.w 53 48) (32 * bits a.w 47 36) 8) : exec (.timeread tile) s = .next
      (issued (captureVout (a.wrote s (bits a.w 53 48) (32 * bits a.w 47 36) (natLe 8 s.dev.now)) a.cx a.ct a.x a.x.pc 1 (natLe 8 s.dev.now))
        a (natLe 8 s.dev.now) false) := by
  have live : replayVals a 1 = none := by simp [replayVals, unreplayed]
  rw [exec_timeread, execTimeread, onIssue_ok issues]
  simp only [live]
  exact wrP_ok (by rwa [natLe_length]) _

/-- Settles O28: an instruction about to issue has the effect of its opcode. -/
theorem controlInstructions : Obligations.ControlInstructions := by
  refine ⟨fun s tile a issues => ⟨exec_waitCtr_of_reached issues, exec_waitCtr_of_short issues⟩,
    fun s tile a k issues target => ⟨exec_signal_of_free issues target, exec_signal_of_sending issues target⟩,
    fun s s1 tile src pc ctr add l clk comes ended hs => ⟨fun fits => ?_, fun cx ct ct' exceeds here from_ => ?_⟩, fun s tile a issues => ?_,
    fun s tile a issues => ⟨fun taken_ => ?_, fun passes => ?_⟩, brTaken_eq, fun s tile a issues => ?_, fun s tile a issues => ?_,
    fun s tile a issues unreplayed fits => exec_timeread_of_unreplayed issues unreplayed fits⟩
  · rw [exec_signalArrival_of_ended clk comes ended, if_pos fits, hs]
  · rw [exec_signalArrival_of_ended clk comes ended, if_neg (Nat.not_le.mpr exceeds), here, from_, hs]
    rfl
  · rw [exec_loopBody, execLoopBody, onIssue_ok issues rfl, natLe_one_b2n]
  · rw [exec_br_of_issues issues, if_pos taken_]
  · rw [exec_br_of_issues issues, passes, if_neg Bool.false_ne_true]
  · rw [exec_endExec, execEndExec, onIssue_ok issues rfl]
  · rw [exec_nopInstr, execNopInstr, onIssue_ok issues rfl]

end Sys2Proof.Machine
end

section
/-! What issuing an instruction and writing a panel leave unchanged (09_step_programs R212; 05_accumulation R116; 10_instructions R222). -/

namespace Sys2Proof.Machine

variable {s : State} {tile : Nat} {a : At}

/-! ## A tile among the others -/

@[simp] theorem setTile_tile (s : State) (i : Nat) (t : Tile) : (s.setTile i t).tile i = t := by
  simp only [State.tile, State.setTile_tiles, look, store, get_put_same]
  split
  · exact (‹t = Tile.reset›).symm
  · rfl

theorem setTile_tile_other {i j : Nat} (ne : j ≠ i) (t : Tile) : (s.setTile i t).tile j = s.tile j := by
  simp only [State.tile, State.setTile_tiles]
  rw [look, store, get_put_other _ _ _ ne]

@[simp] theorem updTile_tile (s : State) (i : Nat) (f : Tile → Tile) : (s.updTile i f).tile i = f (s.tile i) :=
  setTile_tile s i _

theorem updTile_tile_other {i j : Nat} (ne : j ≠ i) (f : Tile → Tile) : (s.updTile i f).tile j = s.tile j :=
  setTile_tile_other ne _

/-! ## Issue -/

/-- An execution as the issue of an instruction leaves it. -/
def Exec.issuedBy (x : Exec) (a : At) (out : List Byte) (fin : Bool) (pcie : Nat) : Exec :=
  { x with
    pc := (nextPc x.pc x.loops).1, loops := (nextPc x.pc x.loops).2, issueCtr := x.issueCtr + 1,
    issued := x.issued ++ [{ n := x.issueCtr, pc := a.x.pc, opc := iOpc a.w, reads := iReads a.w, writes := iWrites a.w,
                             done := fin, bytes := out, pcie := pcie }] }

theorem issued_eq_setTile {x : Exec} (runs : (s.tile a.t).exec = some x) (out : List Byte) (fin : Bool) (pcie : Nat) :
    issued s a out fin pcie = s.setTile a.t { s.tile a.t with exec := some (x.issuedBy a out fin pcie) } := by
  simp only [issued, updExec, State.updTile, runs, Option.map_some]
  rfl

theorem nextPc_of_within {pc first last left : Nat} {l : List (Nat × Nat × Nat)} (within : pc ≠ last) :
    nextPc pc ((first, last, left) :: l) = (pc + 1, (first, last, left) :: l) := by
  rw [nextPc, if_pos within]

theorem nextPc_of_again {first last left : Nat} {l : List (Nat × Nat × Nat)} (again : 1 < left) :
    nextPc last ((first, last, left) :: l) = (first, (first, last, left - 1) :: l) := by
  rw [nextPc, if_neg (not_not_intro rfl), if_pos again]

/-! ## An access beyond its panel -/

theorem rdF_stop {p e n : Nat} (beyond : ¬a.has p (a.esize p * e) (a.esize p * n)) (f : List F32 → Eff) : rdF s a p e n f = .stop 0 := by
  unfold rdF
  exact rdP_stop beyond _

/-! ## Bytes written into a panel -/

theorem wrote_tile (s : State) (a : At) (p off : Nat) (bs : List Byte) : (a.wrote s p off bs).tile a.t =
    { s.tile a.t with mem := Mem.write (s.tile a.t).mem (32 * (a.panel p).base + off) bs } :=
  updTile_tile ..

theorem wrote_tile_other {u : Nat} (ne : u ≠ a.t) (p off : Nat) (bs : List Byte) : (a.wrote s p off bs).tile u = s.tile u :=
  updTile_tile_other ne _

/-- Settles O29: an issue by what it makes of the execution, a stop by the access that fails, a write by the laws of byte memory. -/
theorem issueFrames : Obligations.IssueFrames := by
  refine ⟨fun s a out fin pcie x runs => ?_, fun s tile a => ?_, fun s a p off bs => ?_⟩
  · rw [issued_eq_setTile runs, setTile_tile]
    refine ⟨x.issuedBy a out fin pcie, rfl, rfl, fun none_ => ?_, fun f l n r loops => ⟨fun within => ?_, fun last again => ?_⟩,
      ⟨_, rfl, rfl, rfl, rfl, rfl, rfl⟩, rfl⟩
    · simp [Exec.issuedBy, none_, nextPc]
    · simp [Exec.issuedBy, loops, nextPc_of_within within]
    · simp [Exec.issuedBy, loops, last, nextPc_of_again again]
  · refine ⟨fun issues beyond => ?_, fun issues beyond => ?_, fun issues beyond => ?_, fun issues beyond => ?_, fun issues beyond => ?_,
      fun issues beyond => ?_⟩
    · rw [exec_move, execMove, onIssue_stop issues (rdP_stop beyond _), stopProg]
    · rw [exec_quant, execQuant, onIssue_stop issues (rdF_stop beyond _), stopProg]
    · rw [exec_deq, execDeq, onIssue_stop issues (rdP_stop beyond _), stopProg]
    · rw [exec_act, execAct, onIssue_stop issues (rdF_stop beyond _), stopProg]
    · rw [exec_rope, execRope, onIssue_stop issues (rdF_stop beyond _), stopProg]
    · rw [exec_send, execSend, onIssue_stop issues (rdP_stop beyond _), stopProg]
  · refine ⟨?_, fun i outside => ?_, ⟨_, wrote_tile s a p off bs⟩, fun u ne => wrote_tile_other ne p off bs, _, rfl⟩
    · rw [wrote_tile]
      exact Mem.read_write_same ..
    · rw [wrote_tile]
      exact Mem.byte_write_other _ _ _ _ outside

end Sys2Proof.Machine
end

section
/-! Moves, sums and quantisation (10_instructions R226 to R232). -/

namespace Sys2Proof.Machine

variable {s : State} {tile : Nat} {a : At}

/-! ## MOVE, PRELOAD, PROMOTE, REDUCE -/

theorem exec_move_of_has (issues : Issues s tile 0x0A a) (source : a.has (bits a.w 47 42) (32 * bits a.w 29 18) (32 * bits a.w 17 5))
    {out : List Byte} (hout : out = fitKind (a.panel (bits a.w 53 48)).kind (a.bytesAt s (bits a.w 47 42) (32 * bits a.w 29 18) (32 * bits a.w 17 5)))
    (target : a.has (bits a.w 53 48) (32 * bits a.w 41 30) out.length) :
    exec (.move tile) s = .next (issued (a.wrote s (bits a.w 53 48) (32 * bits a.w 41 30) out) a out false) := by
  subst hout
  rw [exec_move, execMove, onIssue_ok issues ((rdP_ok source _).trans (wrP_ok target _))]

theorem exec_preload_of_zero (issues : Issues s tile 0x08 a) (zero : bits a.w 41 40 = 0) {out : List Byte}
    (hout : out = a.abytes (bits a.w 53 48) (List.replicate (4 * nqOf (bits a.w 31 24)) 0))
    (target : a.has (bits a.w 53 48) (8 * (4 * bits a.w 23 12)) out.length) :
    exec (.preload tile) s = .next (issued (a.wrote s (bits a.w 53 48) (8 * (4 * bits a.w 23 12)) out) a out false) := by
  subst hout
  rw [exec_preload, execPreload, onIssue_ok issues ((if_pos zero).trans (wrA_ok target _))]

/-- PRELOAD of values: each element converted by its column's scale and the vector's exponent (R226). -/
def preloaded (s : State) (a : At) (qv src line n : Nat) : List (Int × Bool × Bool) :=
  (a.floatsAt s src (32 * line / a.esize src) n).zipIdx.map fun y =>
    preloadOne (a.scale (bits a.w 33 32) y.2) (expOf (field (a.bytesAt s qv 0 1) 0 1)) y.1

theorem exec_preload_of_values (issues : Issues s tile 0x08 a) (values : bits a.w 41 40 ≠ 0) (scale : a.has (bits a.w 47 42) 0 1)
    (source : a.has (bits a.w 39 34) (a.esize (bits a.w 39 34) * (32 * bits a.w 11 0 / a.esize (bits a.w 39 34)))
      (a.esize (bits a.w 39 34) * (4 * nqOf (bits a.w 31 24)))) {rs : List (Int × Bool × Bool)}
    (hrs : rs = preloaded s a (bits a.w 47 42) (bits a.w 39 34) (bits a.w 11 0) (4 * nqOf (bits a.w 31 24)))
    (target : a.has (bits a.w 53 48) (8 * (4 * bits a.w 23 12)) (a.abytes (bits a.w 53 48) (rs.map (·.1))).length) {t : State}
    (ht : t = (setNonfinite s a (rs.any fun r => r.2.1)).updTile a.t fun y =>
      { y with preloadClamps := y.preloadClamps + (rs.filter fun r => r.2.2).length }) :
    exec (.preload tile) s = .next (issued (a.wrote t (bits a.w 53 48) (8 * (4 * bits a.w 23 12)) (a.abytes (bits a.w 53 48) (rs.map (·.1)))) a
      (a.abytes (bits a.w 53 48) (rs.map (·.1))) false) := by
  subst ht
  rw [exec_preload, execPreload, onIssue_ok issues]
  refine (if_neg values).trans ((rdP_ok scale _).trans ((rdF_ok source _).trans ?_))
  rw [← preloaded, ← hrs]
  exact wrA_ok target _

/-- A bank whose FIRE has completed is added to its elements, and is free. -/
theorem exec_promote_of_ready (issues : Issues s tile 0x09 a) {f : Fire} (fired : look (s.tile a.t).fires (bits a.w 47 46) = some f)
    (ready : ∀ g ∈ (s.tile a.t).fires, ∀ h, g.2 = some h → h.same f = true → h.ready = true)
    (source : a.has (bits a.w 53 48) (8 * (4 * bits a.w 37 26)) (8 * (4 * nqOf (bits a.w 45 38)))) {out : List Int}
    (hout : out = (a.accsAt s (bits a.w 53 48) (4 * bits a.w 37 26) (4 * nqOf (bits a.w 45 38))).zipIdx.map fun v =>
      v.1 + if f.discarded then 0 else get 0 f.adders v.2)
    (target : a.has (bits a.w 53 48) (8 * (4 * bits a.w 37 26)) (a.abytes (bits a.w 53 48) out).length) : exec (.promote tile) s = .next
      (issued ((a.wrote s (bits a.w 53 48) (8 * (4 * bits a.w 37 26)) (a.abytes (bits a.w 53 48) out)).updTile a.t fun y =>
        { y with fires := store y.fires (bits a.w 47 46) none }) a (a.abytes (bits a.w 53 48) out) false) := by
  have complete : ((s.tile a.t).fires.any fun e => e.2.elim false fun g => g.same f && !g.ready) = false := by
    refine List.any_eq_false.mpr fun e he => ?_
    cases hg : e.2 with
    | none => simp
    | some g => simpa using ready e he g hg
  subst hout
  rw [exec_promote, execPromote, onIssue_ok issues]
  simp only [fired, complete, Bool.false_eq_true, if_false]
  exact (rdA_ok source _).trans (wrA_ok target _)

theorem exec_promote_of_unready (issues : Issues s tile 0x09 a) {f : Fire} (fired : look (s.tile a.t).fires (bits a.w 47 46) = some f)
    (unready : ∃ g ∈ (s.tile a.t).fires, ∃ h, g.2 = some h ∧ h.same f = true ∧ h.ready = false) : exec (.promote tile) s = .next s := by
  have waits : ((s.tile a.t).fires.any fun e => e.2.elim false fun g => g.same f && !g.ready) = true := by
    obtain ⟨g, hg, h, at_, same, late⟩ := unready
    exact List.any_eq_true.mpr ⟨g, hg, by simp [at_, same, late]⟩
  rw [exec_promote, execPromote, onIssue_wait issues]
  simp only [fired, waits, if_true]

theorem exec_reduce_of_sum (issues : Issues s tile 0x1A a) (sum : bits a.w 41 40 = 0)
    (own : a.has (bits a.w 53 48) (8 * (4 * bits a.w 18 7)) (8 * (4 * bits a.w 30 19)))
    (parts : a.has (bits a.w 47 42) 0 (8 * (bits a.w 39 33 * (4 * bits a.w 30 19)))) {out : List Int}
    (hout : out = (a.accsAt s (bits a.w 53 48) (4 * bits a.w 18 7) (4 * bits a.w 30 19)).zipIdx.map fun v => v.1 +
      (column 0 ((List.range (bits a.w 39 33)).map fun p => ((a.accsAt s (bits a.w 47 42) 0 (bits a.w 39 33 * (4 * bits a.w 30 19))).drop
        (p * (4 * bits a.w 30 19))).take (4 * bits a.w 30 19)) v.2).sum)
    (target : a.has (bits a.w 53 48) (8 * (4 * bits a.w 18 7)) (a.abytes (bits a.w 53 48) out).length) : exec (.reduce tile) s = .next
      (issued (a.wrote s (bits a.w 53 48) (8 * (4 * bits a.w 18 7)) (a.abytes (bits a.w 53 48) out)) a (a.abytes (bits a.w 53 48) out) false) := by
  subst hout
  rw [exec_reduce, execReduce, onIssue_ok issues ((if_pos sum).trans ((rdA_ok own _).trans ((rdA_ok parts _).trans (wrA_ok target _))))]

theorem exec_reduce_of_roots (issues : Issues s tile 0x1A a) (roots : bits a.w 41 40 ≠ 0)
    (parts : a.has (bits a.w 47 42) 0 (a.esize (bits a.w 47 42) * (bits a.w 39 33 * (8 * bits a.w 30 19)))) {out : List F32}
    (hout : out = (List.range (8 * bits a.w 30 19)).map fun k =>
      let c := column 0#32 ((List.range (bits a.w 39 33)).map fun p => ((a.floatsAt s (bits a.w 47 42) 0
        (bits a.w 39 33 * (8 * bits a.w 30 19))).drop (p * (8 * bits a.w 30 19))).take (8 * bits a.w 30 19)) k
      if bits a.w 41 40 = 1 then joinRoots c else c.foldl fmax (infty true))
    (target : a.has (bits a.w 53 48) (a.esize (bits a.w 53 48) * (8 * bits a.w 18 7)) (a.fbytes (bits a.w 53 48) out).length) :
    exec (.reduce tile) s = .next (issued (a.wrote s (bits a.w 53 48) (a.esize (bits a.w 53 48) * (8 * bits a.w 18 7))
      (a.fbytes (bits a.w 53 48) out)) a (a.fbytes (bits a.w 53 48) out) false) := by
  subst hout
  rw [exec_reduce, execReduce, onIssue_ok issues ((if_neg roots).trans ((rdF_ok parts _).trans (wrF_ok target _)))]

/-! ## QUANT and DEQ -/

theorem setNonfinite_frame {β : Type} {g : State → β} (req : ∀ s i f, g (State.updReq s i f) = g s) (s : State) (a : At) (bad : Bool) :
    g (setNonfinite s a bad) = g s := by
  unfold setNonfinite
  split
  · exact req ..
  · rfl

theorem setZeroBlock_frame {β : Type} {g : State → β} (chim : ∀ s f, g (State.updChim s f) = g s) (cmd : ∀ s c, g (putCmd s c) = g s)
    (s : State) (a : At) (z : Bool) : g (setZeroBlock s a z) = g s := by
  unfold setZeroBlock
  split
  · dsimp only
    have step : g (if a.x.chimStep = 0 then s else updStep s a.x.chimStep fun x => { x with zeroBlock := true }) = g s := by
      split
      · rfl
      · exact chim ..
    split
    · exact step
    · exact (cmd ..).trans step
  · rfl

/-- The machine once a QUANT has written its record: the vector's counts and flags, and the tile's clamps (R229). -/
def quantised (s : State) (a : At) (body : List Byte) (nonfinite zero : Bool) (clamps outliers blocks : Nat) : State :=
  updVec ((setZeroBlock (setNonfinite (a.wrote s (bits a.w 53 48) 0 body) a nonfinite) a zero).updTile a.t fun y =>
      { y with quantClamps := y.quantClamps + clamps }) a.cx a.x.disp fun v =>
    { v with outliers := modAt v.outliers (dieOf a.t) (· + outliers), blocks := modAt v.blocks (dieOf a.t) (· + blocks) }

section
variable (s : State) (a : At) (body : List Byte) (nonfinite zero : Bool) (clamps outliers blocks : Nat)

/-- QUANT changes tiles, requests, contexts, chimney steps and commands alone. -/
theorem quantised_frame {β : Type} {g : State → β} (tile : ∀ s i f, g (State.updTile s i f) = g s) (ctx : ∀ s i f, g (State.updCtx s i f) = g s)
    (req : ∀ s i f, g (State.updReq s i f) = g s) (chim : ∀ s f, g (State.updChim s f) = g s) (cmd : ∀ s c, g (putCmd s c) = g s) :
    g (quantised s a body nonfinite zero clamps outliers blocks) = g s :=
  (ctx ..).trans ((tile ..).trans ((setZeroBlock_frame chim cmd ..).trans ((setNonfinite_frame req ..).trans (tile ..))))

theorem flagged_tile (t : State) (u : Nat) : (setZeroBlock (setNonfinite t a nonfinite) a zero).tile u = t.tile u :=
  (setZeroBlock_frame (g := (·.tile u)) (by simp [State.tile]) (fun _ _ => rfl) ..).trans
    (setNonfinite_frame (g := (·.tile u)) (by simp [State.tile]) ..)

theorem quantised_tile : (quantised s a body nonfinite zero clamps outliers blocks).tile a.t = { s.tile a.t with
    mem := Mem.write (s.tile a.t).mem (32 * (a.panel (bits a.w 53 48)).base) body, quantClamps := (s.tile a.t).quantClamps + clamps } := by
  have kept (t : State) (f : Vec → Vec) : (updVec t a.cx a.x.disp f).tile a.t = t.tile a.t := by simp [updVec, State.tile]
  rw [quantised, kept, updTile_tile, flagged_tile, wrote_tile, Nat.add_zero]

theorem quantised_tile_other {u : Nat} (ne : u ≠ a.t) :
    (quantised s a body nonfinite zero clamps outliers blocks).tile u = s.tile u := by
  have kept (t : State) (f : Vec → Vec) : (updVec t a.cx a.x.disp f).tile u = t.tile u := by simp [updVec, State.tile]
  rw [quantised, kept, updTile_tile_other ne, flagged_tile, wrote_tile_other ne]

end

/-- The QVEC record of quantised blocks (R229): its head, descriptors, elements and outliers. -/
def qvecRecord (e : Option Int) (n : Nat) (nonfinite : Bool) (qs : List QOut) (outl : List (Nat × Int)) : List Byte :=
  natLe 1 (e.elim 0 fun e => (e + 127).toNat) ++ natLe 1 (b2n nonfinite + 2 * b2n (qs.any (·.zero))) ++ natLe 2 0 ++ natLe 4 n ++
    natLe 4 outl.length ++ natLe 4 0 ++ (qs.map fun q => natLe 1 q.desc).flatten ++ natLe (qvElems n - (16 + n)) 0 ++
    (qs.map fun q => (q.els.map fun v => natLe 1 (v % 256).toNat).flatten).flatten ++
    (outl.map fun p => natLe 4 ((p.2 % 65536).toNat) ++ natLe 4 p.1).flatten

theorem exec_quant_of_has (issues : Issues s tile 0x10 a) {n : Nat} (hn : n = bits a.w 41 24 + 1)
    (source : a.has (bits a.w 47 42) (a.esize (bits a.w 47 42) * bits a.w 23 8) (a.esize (bits a.w 47 42) * (64 * n))) {xs : List F32}
    (hxs : xs = a.floatsAt s (bits a.w 47 42) (bits a.w 23 8) (64 * n)) {bs : List QBlock}
    (hbs : bs = (List.range n).map fun b => scanBlock ((xs.drop (64 * b)).take 64)) {qs : List QOut}
    (hqs : qs = bs.map (quantBlock ((vecExp bs).getD (-126)))) {outl : List (Nat × Int)}
    (houtl : outl = (qs.zipIdx.map fun q => q.1.outl.map fun p => (64 * q.2 + p.1, p.2)).flatten) {body : List Byte}
    (hbody : body = qvecRecord (vecExp bs) n (xs.any fun x => !isFin x) qs outl) (target : a.has (bits a.w 53 48) 0 body.length) :
    exec (.quant tile) s = .next (issued (quantised s a body (xs.any fun x => !isFin x) (qs.any (·.zero)) (qs.map (·.clamps)).sum outl.length n) a
      body false) := by
  rw [exec_quant, execQuant, onIssue_ok issues]
  dsimp only
  rw [← hn]
  refine (rdF_ok source _).trans ?_
  rw [← hxs, ← hbs, ← hqs, ← houtl]
  simp only [qvecRecord] at hbody
  rw [← hbody]
  exact wrP_ok target _

/-- An element that DEQ has rounded to infinity in its destination's KIND. -/
def overflowed (z : Nat) (w : Nat) : Bool := if z = 2 then w % 2 ^ 15 == 0x7F80 else w % 2 ^ 31 == 0x7F800000

theorem exec_deq_of_has (issues : Issues s tile 0x11 a) (scale : a.has (bits a.w 41 36) 0 1)
    (source : a.has (bits a.w 47 42) (8 * (4 * bits a.w 25 14)) (8 * (4 * nqOf (bits a.w 33 26)))) {ws : List Nat}
    (hws : ws = (a.accsAt s (bits a.w 47 42) (4 * bits a.w 25 14) (4 * nqOf (bits a.w 33 26))).zipIdx.map fun v =>
      deqOne (a.panel (bits a.w 53 48)).kind v.1 (a.scale (bits a.w 35 34) v.2) (expOf (field (a.bytesAt s (bits a.w 41 36) 0 1) 0 1)))
    {out : List Byte} (hout : out = (ws.map (natLe (a.esize (bits a.w 53 48)))).flatten)
    (target : a.has (bits a.w 53 48) (32 * bits a.w 13 2) out.length) : exec (.deq tile) s = .next
      (issued (setNonfinite (a.wrote s (bits a.w 53 48) (32 * bits a.w 13 2) out) a (ws.any (overflowed (a.esize (bits a.w 53 48))))) a out false) := by
  rw [exec_deq, execDeq, onIssue_ok issues]
  refine (rdP_ok scale _).trans ((rdA_ok source _).trans ?_)
  rw [← hws]
  dsimp only
  rw [← hout]
  exact wrP_ok target _

/-- Settles O30: each instruction by its equation with the panels it names. -/
theorem movesSumsAndQuantisation : Obligations.MovesSumsAndQuantisation := by
  refine ⟨⟨?move, fun s tile a out issues zero hout target => exec_preload_of_zero issues zero hout target, ?preload, ?promote, ?sum, ?roots⟩,
    ?quant, ?deq⟩
  case move =>
    rintro s tile a src dst n out issues rfl rfl rfl source hout target
    exact exec_move_of_has issues source hout target
  case preload =>
    rintro s tile a acc qv src n ys rs t issues values rfl rfl rfl rfl scale source rfl hrs target ht
    exact exec_preload_of_values issues values scale source hrs target ht
  case promote =>
    rintro s tile a acc bank n e f out issues rfl rfl rfl rfl fired
    exact ⟨fun ready source hout target => exec_promote_of_ready issues fired ready source hout target, exec_promote_of_unready issues fired⟩
  case sum =>
    rintro s tile a dst src m n e out issues sum rfl rfl rfl rfl rfl own parts hout target
    exact exec_reduce_of_sum issues sum own parts hout target
  case roots =>
    rintro s tile a dst src m n e out issues roots rfl rfl rfl rfl rfl parts hout target
    exact exec_reduce_of_roots issues roots parts hout target
  case quant =>
    rintro s tile a qv src n bs qs issues rfl rfl hn source hbs hqs
    refine ⟨_, _, _, rfl, rfl, fun target => ⟨exec_quant_of_has issues hn source rfl hbs hqs rfl rfl target, ?_, ?_, ?_, ?_, ?_, fun u ne => ?_⟩⟩
    · exact quantised_frame (g := (·.hostMem)) _ _ _ _ _ _ _ _ (by simp) (by simp) (by simp) (by simp) (fun _ _ => rfl)
    · exact quantised_frame (g := (·.rings)) _ _ _ _ _ _ _ _ (by simp) (by simp) (by simp) (by simp) (fun _ _ => rfl)
    · exact quantised_frame (g := (·.dev)) _ _ _ _ _ _ _ _ (by simp) (by simp) (by simp) (by simp) (fun _ _ => rfl)
    · rw [quantised_tile]
    · rw [quantised_tile]
    · exact quantised_tile_other _ _ _ _ _ _ _ _ ne
  case deq =>
    rintro s tile a dst acc qv n ws out issues rfl rfl rfl rfl scale source hws hout target
    exact ⟨_, rfl, exec_deq_of_has issues scale source hws hout target⟩

end Sys2Proof.Machine
end

section
/-! SEND and RECV (10_instructions R231; 14_chimney R350, R356). -/

namespace Sys2Proof.Machine

variable {s : State} {tile role ct : Nat} {a : At} {o : XferOps}

/-! ## SEND -/

/-- What a SEND within the device issues with (R231): a RECV that waits for its lines takes them at once. -/
def sentTo (s : State) (a : At) (o : XferOps) (bs : List Byte) : State :=
  match (s.tile (a.phys o.ctile)).recvs.find? fun r => r.src == a.t && r.chan == o.chan && !r.paired && r.role == 0xFFFF with
  | some r => deliverAll s (a.phys o.ctile) r (linesOf bs)
  | none => s.updTile a.t fun y => { y with sends := y.sends ++
      [{ dst := a.phys o.ctile, chan := o.chan, lines := linesOf bs, issue := a.x.issueCtr, role := 0xFFFF, step := 0 }] }

theorem exec_send_of_local (issues : Issues s tile 0x18 a) (ho : o = xferOps a.w) (source : a.has o.panel (32 * o.line) (32 * o.nl))
    (local_ : linkOf (s.tile a.t) a.ct o = none) : exec (.send tile) s = .next
      (issued (sentTo s a o (a.bytesAt s o.panel (32 * o.line) (32 * o.nl))) a (a.bytesAt s o.panel (32 * o.line) (32 * o.nl)) false) := by
  rw [exec_send, execSend, onIssue_ok issues]
  dsimp only
  rw [← ho]
  refine (rdP_ok source _).trans ?_
  simp only [local_, sentTo]
  cases (s.tile (a.phys o.ctile)).recvs.find? fun r => r.src == a.t && r.chan == o.chan && !r.paired && r.role == 0xFFFF <;> rfl

/-- What a SEND over a link issues with (R350, R356): nothing goes for an aborted step, and without a credit the lines wait. -/
def sentOver (s : State) (a : At) (o : XferOps) (role ct : Nat) (bs : List Byte) : State :=
  if a.cut s then s
  else match (s.tile a.t).credits.find? fun c => c.1 == o.chan && c.2.1 == role && c.2.2.1 == a.x.chimStep with
    | some c => sendData (s.updTile a.t fun y => { y with credits := y.credits.erase c }) role ct o.chan a.x.chimStep (linesOf bs)
    | none => s.updTile a.t fun y => { y with sends := y.sends ++
        [{ dst := 2 ^ 16 + role, chan := o.chan, lines := linesOf bs, issue := a.x.issueCtr, role := role, step := a.x.chimStep }] }

theorem exec_send_of_link (issues : Issues s tile 0x18 a) (ho : o = xferOps a.w) (source : a.has o.panel (32 * o.line) (32 * o.nl))
    (link : linkOf (s.tile a.t) a.ct o = some (role, ct)) : exec (.send tile) s = .next
      (issued (sentOver s a o role ct (a.bytesAt s o.panel (32 * o.line) (32 * o.nl))) a (a.bytesAt s o.panel (32 * o.line) (32 * o.nl)) false) := by
  rw [exec_send, execSend, onIssue_ok issues]
  dsimp only
  rw [← ho]
  refine (rdP_ok source _).trans ?_
  simp only [link, sentOver]
  cases a.cut s
  · cases (s.tile a.t).credits.find? fun c => c.1 == o.chan && c.2.1 == role && c.2.2.1 == a.x.chimStep <;> rfl
  · rfl

/-! ## RECV -/

/-- The lines a RECV waits for, of a sender, and over a link of a role and a chimney step. -/
def awaited (a : At) (o : XferOps) (src role step : Nat) : Recv :=
  { src := src, chan := o.chan, panel := o.panel, line := o.line, nl := o.nl, got := 0, issue := a.x.issueCtr, paired := false,
    role := role, step := step }

theorem exec_recv_of_local {r : Recv} {s1 : State} (issues : Issues s tile 0x19 a) (ho : o = xferOps a.w)
    (fits : o.line + o.nl ≤ (a.panel o.panel).lines) (local_ : linkOf (s.tile a.t) a.ct o = none)
    (hr : r = awaited a o (a.phys o.ctile) 0xFFFF 0)
    (hs : s1 = s.updTile a.t fun y => { y with recvs := y.recvs ++ [r] }) :
    (((s1.tile (a.phys o.ctile)).sends.find? fun d => d.dst == a.t && d.chan == o.chan && d.role == 0xFFFF) = none →
      exec (.recv tile) s = .next (issued s1 a [] false)) ∧
    (∀ d, ((s1.tile (a.phys o.ctile)).sends.find? fun d => d.dst == a.t && d.chan == o.chan && d.role == 0xFFFF) = some d →
      exec (.recv tile) s = .next (issued (deliverAll (s1.updTile (a.phys o.ctile) fun y => { y with sends := y.sends.erase d }) a.t r d.lines)
        a (fitKind (a.panel o.panel).kind d.lines.flatten) false)) := by
  subst ho hr hs
  simp only [awaited]
  have within : ¬32 * ((xferOps a.w).line + (xferOps a.w).nl) > 32 * (a.panel (xferOps a.w).panel).lines := by omega
  refine ⟨fun none_ => ?_, fun d found => ?_⟩
  · rw [exec_recv, execRecv, onIssue_ok issues]
    simp only [if_neg within, local_, none_]
  · rw [exec_recv, execRecv, onIssue_ok issues]
    simp only [if_neg within, local_, found]

theorem cut_updTile (s : State) (i : Nat) (f : Tile → Tile) (a : At) : a.cut (s.updTile i f) = a.cut s := by
  simp only [At.cut, State.updTile_chim]

theorem exec_recv_of_link {r : Recv} {s1 : State} (issues : Issues s tile 0x19 a) (ho : o = xferOps a.w)
    (fits : o.line + o.nl ≤ (a.panel o.panel).lines) (link : linkOf (s.tile a.t) a.ct o = some (role, ct))
    (hr : r = awaited a o ct role a.x.chimStep)
    (hs : s1 = s.updTile a.t fun y => { y with recvs := y.recvs ++ [r] }) :
    (a.cut s = true → exec (.recv tile) s =
      .next (issued (deliverAll s1 a.t r (List.replicate o.nl (List.replicate 32 0#8))) a [] false)) ∧
    (a.cut s = false → exec (.recv tile) s = .next (issued (sendFrame
      (updExec s1 a.t fun x => if x.linkFrom = 0 then { x with linkFrom := s.dev.now + 1 } else x) 0x21 role a.x.chimStep
      (Config.layoutOf 0x21 [o.chan, ct, o.nl])) a [] false)) := by
  subst ho hr hs
  simp only [awaited]
  have within : ¬32 * ((xferOps a.w).line + (xferOps a.w).nl) > 32 * (a.panel (xferOps a.w).panel).lines := by omega
  refine ⟨fun cut => ?_, fun uncut => ?_⟩
  · rw [exec_recv, execRecv, onIssue_ok issues]
    simp only [if_neg within, link, cut_updTile, cut, if_true]
  · rw [exec_recv, execRecv, onIssue_ok issues]
    simp only [if_neg within, link, cut_updTile, uncut, Bool.false_eq_true, if_false, State.updTile_dev]

/-! ## The lines in the panel -/

theorem updExec_mem (s : State) (i : Nat) (f : Exec → Exec) : ((updExec s i f).tile i).mem = (s.tile i).mem := by
  rw [updExec, updTile_tile]

/-- Lines that fit a RECV are written to the panel it names, from its first line on. -/
theorem deliverAll_mem {r : Recv} {ls : List (List Byte)} {cx : Nat} {c : Ctx} {i : Image} {k : CTile} {p : Panel}
    (here : ctileOf s tile = some (cx, ct, c, i, k)) (panel : k.panels[r.panel]? = some p) (whole : p.kind ≠ 4) (fits : ls.length ≤ r.nl) :
    ((deliverAll s tile r ls).tile tile).mem = Mem.write (s.tile tile).mem (32 * (p.base + r.line)) ls.flatten := by
  have within : ¬0 + ls.length > r.nl := by omega
  simp only [deliverAll, deliver, if_neg within, here, panel, Option.getD_some, fitKind, if_neg whole, updTile_tile, updExec_mem, Nat.add_zero]

/-- Settles O31: a transfer by where its channel leads, and whether its other end is there. -/
theorem transfersBetweenTiles : Obligations.TransfersBetweenTiles := by
  refine ⟨fun s tile a o issues ho source local_ => ⟨fun r found => ?_, fun none_ => ?_⟩,
    fun s s1 tile a o r issues ho fits local_ hr hs => exec_recv_of_local issues ho fits local_ hr hs,
    fun s tile role ct a o bs issues ho source link hbs => ⟨fun cut => ?_, fun g uncut grant => ?_, fun uncut none_ => ?_⟩,
    fun s s1 tile role ct a o r issues ho fits link hr hs => exec_recv_of_link issues ho fits link hr hs,
    fun s tile r ls cx ct c i k p here panel whole fits => deliverAll_mem here panel whole fits⟩
  · rw [exec_send_of_local issues ho source local_, sentTo, found]
  · rw [exec_send_of_local issues ho source local_, sentTo, none_]
  · rw [exec_send_of_link issues ho source link, ← hbs, sentOver, if_pos cut]
  · rw [exec_send_of_link issues ho source link, ← hbs, sentOver, uncut, if_neg Bool.false_ne_true, grant]
  · rw [exec_send_of_link issues ho source link, ← hbs, sentOver, uncut, if_neg Bool.false_ne_true, none_]

end Sys2Proof.Machine
end

section
/-! Vector functions (10_instructions R241 to R243). -/

namespace Sys2Proof.Machine

variable {s t : State} {tile : Nat} {a : At}

/-! ## NORM -/

/-- BF16 values in the bytes of a parameter panel. -/
def bfsAt (s : State) (a : At) (p off n : Nat) : List F32 :=
  (List.range n).map fun i => ofBf (BitVec.ofNat 16 (field (a.bytesAt s p off (2 * n)) (2 * i) 2))

theorem rdB_ok {p off n : Nat} (h : a.has p off (2 * n)) (f : List F32 → Eff) : rdB s a p off n f = f (bfsAt s a p off n) :=
  rdP_ok h _

/-- NORM's pass APPLY from the joined roots (R241): its parameters are the epsilon, the gains and, for a layer norm, the offsets. -/
def normApply (s : State) (a : At) (dst w cnt n : Nat) (layer : Bool) (xs : List F32) (s1 s2 : F32) (rest : List Byte) : Eff :=
  rdP s a w 0 4 fun eps =>
    rdB s a w 32 cnt fun gamma =>
      rdB s a w (32 + 2 * cnt) (if layer then cnt else 0) fun beta =>
        let r := normOut layer n s1 s2 (BitVec.ofNat 32 (field eps 0 4)) xs gamma beta
        wrF s a dst 0 r.1 fun s => .ok (setNonfinite s a (badRadicand r.2)) (a.fbytes dst r.1 ++ rest) false

theorem normApply_of_has {dst w cnt n : Nat} {layer : Bool} {xs : List F32} {s1 s2 : F32} {rest : List Byte} (gains : a.has w 0 (32 + 2 * cnt))
    (offsets : layer = true → a.has w 0 (32 + 4 * cnt)) {r : List F32 × F32}
    (hr : r = normOut layer n s1 s2 (BitVec.ofNat 32 (field (a.bytesAt s w 0 4) 0 4)) xs (bfsAt s a w 32 cnt)
      (if layer then bfsAt s a w (32 + 2 * cnt) cnt else []))
    (target : a.has dst 0 (a.fbytes dst r.1).length) : normApply s a dst w cnt n layer xs s1 s2 rest =
      .ok (setNonfinite (a.wrote s dst 0 (a.fbytes dst r.1)) a (badRadicand r.2)) (a.fbytes dst r.1 ++ rest) false := by
  have beta : bfsAt s a w (32 + 2 * cnt) (if layer then cnt else 0) = if layer then bfsAt s a w (32 + 2 * cnt) cnt else [] := by
    cases layer <;> rfl
  have eps : a.has w 0 4 := by unfold At.has at gains ⊢; omega
  have gamma : a.has w 32 (2 * cnt) := by unfold At.has at gains ⊢; omega
  have room : a.has w (32 + 2 * cnt) (2 * if layer then cnt else 0) := by
    cases layer with
    | false => unfold At.has at gains ⊢; simpa using gains
    | true =>
      have all := offsets rfl
      unfold At.has at all ⊢
      simp only [if_true]
      omega
  refine (rdP_ok eps _).trans ((rdB_ok gamma _).trans ((rdB_ok room _).trans ?_))
  rw [beta, ← hr]
  exact wrF_ok target _

theorem exec_norm_of_stat (issues : Issues s tile 0x28 a) (stat : bits a.w 28 27 = 1) {n cnt : Nat} (hn : n = bits a.w 15 0)
    (hcnt : cnt = (partRange (shapeK (bits a.w 26 25) a.i.defShape) (bits a.w 24 22) (bits a.w 21 16) n).2)
    (source : a.has (bits a.w 47 42) 0 (a.esize (bits a.w 47 42) * cnt)) {xs out : List F32} (hxs : xs = a.floatsAt s (bits a.w 47 42) 0 cnt)
    (hout : out = [partRoot (shapeK (bits a.w 26 25) a.i.defShape) (2 ^ bits a.w 24 22) n xs,
      partRoot (shapeK (bits a.w 26 25) a.i.defShape) (2 ^ bits a.w 24 22) n (xs.map fun x => fmul x x)])
    (target : a.has (bits a.w 35 30) 0 (a.fbytes (bits a.w 35 30) out).length) : exec (.norm tile) s = .next
      (issued (a.wrote s (bits a.w 35 30) 0 (a.fbytes (bits a.w 35 30) out)) a (a.fbytes (bits a.w 35 30) out) false) := by
  subst hn hcnt hxs hout
  have notApply : bits a.w 28 27 ≠ 2 := by omega
  rw [exec_norm, execNorm, onIssue_ok issues]
  exact (rdF_ok source _).trans ((if_neg notApply).trans ((wrF_ok target _).trans (if_pos stat)))

theorem exec_norm_of_apply (issues : Issues s tile 0x28 a) (apply_ : bits a.w 28 27 = 2) {n cnt : Nat} (hn : n = bits a.w 15 0)
    (hcnt : cnt = (partRange (shapeK (bits a.w 26 25) a.i.defShape) (bits a.w 24 22) (bits a.w 21 16) n).2)
    (source : a.has (bits a.w 47 42) 0 (a.esize (bits a.w 47 42) * cnt)) {xs : List F32} (hxs : xs = a.floatsAt s (bits a.w 47 42) 0 cnt)
    (roots : a.has (bits a.w 35 30) 0 (a.esize (bits a.w 35 30) * 2)) {s1 s2 : F32} (hroots : [s1, s2] = a.floatsAt s (bits a.w 35 30) 0 2)
    {out : List Byte} (ends : normApply s a (bits a.w 53 48) (bits a.w 41 36) cnt n (a.w.testBit 29) xs s1 s2 [] = .ok t out false) :
    exec (.norm tile) s = .next (issued t a out false) := by
  subst hn hcnt hxs
  rw [exec_norm, execNorm, onIssue_ok issues]
  refine (rdF_ok source _).trans ((if_pos apply_).trans ((rdF_ok roots _).trans ?_))
  rw [← hroots]
  exact ends

theorem exec_norm_of_full (issues : Issues s tile 0x28 a) (full : bits a.w 28 27 = 0) {n cnt : Nat} (hn : n = bits a.w 15 0)
    (hcnt : cnt = (partRange (shapeK (bits a.w 26 25) a.i.defShape) (bits a.w 24 22) (bits a.w 21 16) n).2)
    (source : a.has (bits a.w 47 42) 0 (a.esize (bits a.w 47 42) * cnt)) {xs : List F32} (hxs : xs = a.floatsAt s (bits a.w 47 42) 0 cnt)
    {s1 s2 : F32} (h1 : s1 = partRoot (shapeK (bits a.w 26 25) a.i.defShape) (2 ^ bits a.w 24 22) n xs)
    (h2 : s2 = partRoot (shapeK (bits a.w 26 25) a.i.defShape) (2 ^ bits a.w 24 22) n (xs.map fun x => fmul x x))
    (target : a.has (bits a.w 35 30) 0 (a.fbytes (bits a.w 35 30) [s1, s2]).length) {out : List Byte}
    (ends : normApply (a.wrote s (bits a.w 35 30) 0 (a.fbytes (bits a.w 35 30) [s1, s2])) a (bits a.w 53 48) (bits a.w 41 36) cnt n (a.w.testBit 29)
      xs s1 s2 (a.fbytes (bits a.w 35 30) [s1, s2]) = .ok t out false) :
    exec (.norm tile) s = .next (issued t a out false) := by
  subst hn hcnt hxs h1 h2
  have notApply : bits a.w 28 27 ≠ 2 := by omega
  have notStat : bits a.w 28 27 ≠ 1 := by omega
  rw [exec_norm, execNorm, onIssue_ok issues]
  exact (rdF_ok source _).trans ((if_neg notApply).trans ((wrF_ok target _).trans ((if_neg notStat).trans ends)))

/-! ## The normalised elements -/

theorem normOut_plain {n i : Nat} {s1 s2 eps x : F32} {xs gamma beta : List F32} (hx : xs[i]? = some x) :
    (normOut false n s1 s2 eps xs gamma beta).1[i]? =
      some (fmul (fmul x (frecip (fsqrt (fadd (fdiv s2 (fofNat n)) eps)))) (gamma[i]?.getD 0#32)) := by
  simp [normOut, List.getElem?_zipIdx, hx]

theorem normOut_layer {n i : Nat} {s1 s2 eps x : F32} {xs gamma beta : List F32} (hx : xs[i]? = some x) :
    (normOut true n s1 s2 eps xs gamma beta).1[i]? = some (fadd (fmul (fmul (fsub x (fdiv s1 (fofNat n)))
      (frecip (fsqrt (fadd (fsub (fdiv s2 (fofNat n)) (fmul (fdiv s1 (fofNat n)) (fdiv s1 (fofNat n)))) eps)))) (gamma[i]?.getD 0#32))
      (beta[i]?.getD 0#32)) := by
  simp [normOut, List.getElem?_zipIdx, hx]

/-! ## ACT and ROPE -/

theorem exec_act_of_has (issues : Issues s tile 0x29 a) {func n : Nat} (hf : func = bits a.w 35 32) (hn : n = bits a.w 31 16)
    (source : a.has (bits a.w 47 42) 0 (a.esize (bits a.w 47 42) * n))
    (second : func = 6 ∨ func = 7 → a.has (bits a.w 41 36) 0 (a.esize (bits a.w 41 36) * n)) {ys out : List F32}
    (hys : ys = if func = 6 ∨ func = 7 then a.floatsAt s (bits a.w 41 36) 0 n else [])
    (hout : out = (a.floatsAt s (bits a.w 47 42) 0 n).zipIdx.map fun x => actOf func x.1 (ys[x.2]?.getD 0#32))
    (target : a.has (bits a.w 53 48) 0 (a.fbytes (bits a.w 53 48) out).length) : exec (.act tile) s = .next
      (issued (a.wrote s (bits a.w 53 48) 0 (a.fbytes (bits a.w 53 48) out)) a (a.fbytes (bits a.w 53 48) out) false) := by
  subst hf hn
  rw [exec_act, execAct, onIssue_ok issues]
  refine (rdF_ok source _).trans ?_
  by_cases gated : bits a.w 35 32 = 6 ∨ bits a.w 35 32 = 7
  · rw [if_pos gated] at hys
    subst hys hout
    exact (if_pos gated).trans ((rdF_ok (second gated) _).trans (wrF_ok target _))
  · rw [if_neg gated] at hys
    subst hys hout
    exact (if_neg gated).trans (wrF_ok target _)

theorem exec_rope_of_has (issues : Issues s tile 0x2A a) {dh nh : Nat} (hdh : dh = dhOf s a.cx) (hnh : nh = bits a.w 35 29)
    (source : a.has (bits a.w 47 42) 0 (a.esize (bits a.w 47 42) * (nh * dh)))
    (angles : a.has (bits a.w 41 36) 0 (a.esize (bits a.w 41 36) * (dh / 2))) {out : List F32}
    (hout : out = (List.range nh).flatMap fun h => ropeHead (a.w.testBit 28) (((a.floatsAt s (bits a.w 47 42) 0 (nh * dh)).drop (h * dh)).take dh)
      ((a.floatsAt s (bits a.w 41 36) 0 (dh / 2)).map fun f =>
        (ftrig false (fmul (fofNat a.x.xr.pos) f), ftrig true (fmul (fofNat a.x.xr.pos) f))))
    (target : a.has (bits a.w 53 48) 0 (a.fbytes (bits a.w 53 48) out).length) : exec (.rope tile) s = .next
      (issued (a.wrote s (bits a.w 53 48) 0 (a.fbytes (bits a.w 53 48) out)) a (a.fbytes (bits a.w 53 48) out) false) := by
  subst hdh hnh hout
  rw [exec_rope, execRope, onIssue_ok issues]
  exact (rdF_ok source _).trans ((rdF_ok angles _).trans (wrF_ok target _))

/-- Settles O32: each instruction by its equation with the panels it names. -/
theorem vectorFunctions : Obligations.VectorFunctions := by
  refine ⟨?stat, ?apply, fun n s1 s2 eps xs gamma beta i x hx => ⟨normOut_plain hx, normOut_layer hx⟩, ?act, ?rope⟩
  case stat =>
    rintro s tile a src st n cnt xs out issues stat rfl rfl hn hcnt source hxs hout target
    exact exec_norm_of_stat issues stat hn hcnt source hxs hout target
  case apply =>
    rintro s t tile a dst w src st n cnt s1 s2 eps xs gamma beta r rest issues rfl rfl rfl rfl hn hcnt source gains offsets hxs pass rfl rfl rfl hr target
    have ends := normApply_of_has (rest := rest) gains offsets hr target
    rcases pass with ⟨apply_, roots, hroots, rfl, rfl⟩ | ⟨full, h1, h2, rfl, stats, rfl⟩
    · exact exec_norm_of_apply issues apply_ hn hcnt source hxs roots hroots ends
    · exact exec_norm_of_full issues full hn hcnt source hxs h1 h2 stats ends
  case act =>
    rintro s tile a dst src src2 func n ys out issues rfl rfl rfl hf hn source second hys hout target
    exact exec_act_of_has issues hf hn source second hys hout target
  case rope =>
    rintro s tile a dst src fr dh nh out issues rfl rfl rfl hdh hnh source angles hout target
    exact exec_rope_of_has issues hdh hnh source angles hout target

end Sys2Proof.Machine
end

section
/-! Tables and sampling (10_instructions R244 to R246; 08_tables_tiers R193 to R196). -/

namespace Sys2Proof.Machine

variable {s t : State} {tile : Nat} {a : At} {num : Nat}

/-! ## The rows of a bag -/

theorem onIssue_hold {opc : Nat} {f : State → At → Eff} (issues : Issues s tile opc a) (hf : f s a = .hold t) : onIssue opc tile f s = t := by
  obtain ⟨stands, word⟩ := issues
  simp [onIssue, stands, word, hf]

/-- The row ids an EMBG gathers (R244): its token, or the bag the vector carries for its table. -/
def embgIds (s : State) (a : At) (tb : Table) : List Nat :=
  if bits a.w 37 36 = 0 then (if a.x.xr.token < tb.rows then [a.x.xr.token] else [])
  else (((findVec s a.cx a.x.disp).bind fun v => v.bags.find? fun b => b.table == bits a.w 47 40).map (·.ids)).getD []

/-- The named elements of a row, those beyond its end as +0.0. -/
def cutRow (a : At) (r : List F32) : List F32 := (List.range (bits a.w 21 9)).map fun i => r[bits a.w 33 22 + i]?.getD (fzero false)

/-- The rows a gather reads one after the other, the state after it, and its reads over PCI Express. -/
def gatherRows (a : At) (num : Nat) (tb : Table) (ids : List Nat) (st : List (List F32) × State × Nat) : List (List F32) × State × Nat :=
  ids.foldl (fun (st : List (List F32) × State × Nat) id =>
    let (b, s, n) := tableRow st.2.1 a.c a.ver a.cx num tb id
    (st.1 ++ [rowVals tb.fmt tb.d b], s, st.2.2 + n)) st

theorem gatherRows_cons (a : At) (num : Nat) (tb : Table) (id : Nat) (ids : List Nat) (st : List (List F32) × State × Nat) :
    gatherRows a num tb (id :: ids) st = gatherRows a num tb ids (st.1 ++ [rowVals tb.fmt tb.d (tableRow st.2.1 a.c a.ver a.cx num tb id).1],
      (tableRow st.2.1 a.c a.ver a.cx num tb id).2.1, st.2.2 + (tableRow st.2.1 a.c a.ver a.cx num tb id).2.2) := rfl

/-- Rows that the device holds itself are read without changing anything. -/
theorem gatherRows_of_held {tb : Table} (notHost : tb.tier ≠ 2) (notShared : tb.tier ≠ 3) (ids : List Nat) (rows : List (List F32)) (n : Nat) :
    gatherRows a num tb ids (rows, s, n) =
      (rows ++ ids.map fun id => rowVals tb.fmt tb.d (rowSeen a.c a.ver num id (get [] tb.data id)), s, n) := by
  induction ids generalizing rows with
  | nil => simp [gatherRows]
  | cons id ids ih =>
    have row : tableRow s a.c a.ver a.cx num tb id = (rowSeen a.c a.ver num id (get [] tb.data id), s, 0) := by
      simp [tableRow, notHost, notShared]
    rw [gatherRows_cons, row, Nat.add_zero, ih]
    simp

theorem hotRead_of_hot {k : Nat × Nat × Nat} (hot : s.kv.hot.contains k = true) (n : Nat) :
    hotRead s k n = (s.updKv fun v => { v with hotHits := v.hotHits + 1, hot := k :: v.hot.filter (· != k) }, 0) := if_pos hot

/-- Reading through the cache changes the cache and its counters alone, and costs at most one read. -/
theorem hotRead_frame (s : State) (k : Nat × Nat × Nat) (n : Nat) : ∃ f m, hotRead s k n = (s.updKv f, m) ∧ m ≤ 1 := by
  refine ⟨fun _ => (hotRead s k n).1.kv, (hotRead s k n).2, ?_, ?_⟩ <;> unfold hotRead <;> split
  case refine_1.isTrue => rfl
  case refine_1.isFalse => rfl
  case refine_2.isTrue => exact Nat.zero_le 1
  case refine_2.isFalse => exact le_refl 1

/-- Rows in host memory are read through the cache, at the cost of at most one host read each. -/
theorem gatherRows_of_host {tb : Table} (host : tb.tier = 2) (ids : List Nat) (rows : List (List F32)) (s : State) (n : Nat) : ∃ f m,
    m ≤ ids.length ∧ gatherRows a num tb ids (rows, s, n) = (rows ++ ids.map fun id => rowVals tb.fmt tb.d (rowSeen a.c a.ver num id
      (s.hostRead (tb.srcAddr + id * rowBytes tb.fmt tb.d) (rowBytes tb.fmt tb.d))), s.updKv f, n + m) := by
  induction ids generalizing rows s n with
  | nil => exact ⟨id, 0, le_refl 0, by simp [gatherRows, State.updKv]⟩
  | cons id ids ih =>
    obtain ⟨f, m, hf, hm⟩ := hotRead_frame s (a.cx, num, id) (rowBytes tb.fmt tb.d)
    have row : tableRow s a.c a.ver a.cx num tb id = (rowSeen a.c a.ver num id
        (s.hostRead (tb.srcAddr + id * rowBytes tb.fmt tb.d) (rowBytes tb.fmt tb.d)), s.updKv f, m) := by
      simp only [tableRow, host, if_true, hf]
      rfl
    obtain ⟨g, k, hk, hg⟩ := ih (rows ++ [rowVals tb.fmt tb.d (rowSeen a.c a.ver num id
      (s.hostRead (tb.srcAddr + id * rowBytes tb.fmt tb.d) (rowBytes tb.fmt tb.d)))]) (s.updKv f) (n + m)
    refine ⟨g ∘ f, m + k, by simp only [List.length_cons]; omega, ?_⟩
    rw [gatherRows_cons, row, hg, Nat.add_assoc, List.map_cons, List.append_assoc]
    rfl

/-! ## EMBG -/

theorem updChim_same (s : State) {f : Chim → Chim} (same : f s.chim = s.chim) : s.updChim f = s := by
  simp only [State.updChim, same]

theorem remoteRows_of_local {tb : Table} (notShared : tb.tier ≠ 3) (ids : List Nat) : remoteRows tb ids = [] := if_neg notShared

/-- A gather of no remote row writes the pooled rows (R244). -/
theorem exec_embg_of_local (issues : Issues s tile 0x30 a) {tb : Table}
    (found : (a.c.tables.find? fun t => t.1 == bits a.w 47 40) = some (bits a.w 47 40, tb)) (notShared : tb.tier ≠ 3) {all : List (List F32)} {u : State}
    {reads : Nat} (gathers : gatherRows a (bits a.w 47 40) tb (embgIds s a tb) ([], s, 0) = (all, u, reads)) {rows : List (List F32)}
    (hrows : rows = all.map (cutRow a)) {out : List F32}
    (hout : out = poolRows (bits a.w 39 38) (shapeK (bits a.w 35 34) a.i.defShape) (bits a.w 21 9) rows)
    (target : a.has (bits a.w 53 48) 0 (a.fbytes (bits a.w 53 48) out).length) : exec (.embg tile) s = .next
      (issued (a.wrote (setNonfinite u a (tb.fmt != 0 && rows.any fun r => r.any fun x => !isFin x)) (bits a.w 53 48) 0 (a.fbytes (bits a.w 53 48) out)) a
        (a.fbytes (bits a.w 53 48) out) false reads) := by
  rw [gatherRows, embgIds] at gathers
  have noFar := remoteRows_of_local notShared (embgIds s a tb)
  rw [embgIds] at noFar
  rw [exec_embg, execEmbg, onIssue_ok issues]
  simp only [found, Option.map_some, noFar, List.any_nil, Bool.and_false, Bool.false_eq_true, if_false, gathers, List.contains_nil, Bool.not_false]
  rw [updChim_same _ (by simp)]
  subst hrows hout
  exact wrF_ok target _

/-- A gather of rows of other shards that it lacks asks for them and waits. -/
theorem exec_embg_of_far (issues : Issues s tile 0x30 a) {tb : Table}
    (found : (a.c.tables.find? fun t => t.1 == bits a.w 47 40) = some (bits a.w 47 40, tb)) (shared : tb.tier = 3) (kept : a.x.discarded = false)
    {far : List Nat} (hfar : far = ((embgIds s a tb).filter fun r => shardOf tb.shards r != tb.shard).dedup)
    (lacks : ∃ r ∈ far, (gatheredRow s a.ver (bits a.w 47 40) r).getD [] = []) (unfenced : ∀ r ∈ far, fencedRole s (shardOf tb.shards r) = false) :
    exec (.embg tile) s = .next (askRows s a.cx (bits a.w 47 40) tb a.ver far) := by
  have remote : remoteRows tb (embgIds s a tb) = far := by rw [remoteRows, if_pos shared, hfar]
  rw [embgIds] at remote
  have lacking : (far.any fun r => (gatheredRow s a.ver (bits a.w 47 40) r).getD [] == []) = true := by
    obtain ⟨r, hr, lack⟩ := lacks
    exact List.any_eq_true.mpr ⟨r, hr, by simp [lack]⟩
  have none_ : ((far.map (shardOf tb.shards)).find? (fencedRole s)) = none := by
    simpa [List.find?_eq_none] using unfenced
  rw [exec_embg, execEmbg, onIssue_hold issues]
  simp only [found, Option.map_some, remote, kept, lacking, none_, Bool.not_false, Bool.and_self, if_true]

theorem poolRows_getElem {pool k ne e : Nat} {rows : List (List F32)} (within : e < ne) : (poolRows pool k ne rows)[e]? =
    some (if rows = [] then fzero false
      else if pool = 2 then (column (fzero false) rows e).foldl fmax (infty true)
      else if pool = 1 then fdiv (sumC k (column (fzero false) rows e)) (fofNat rows.length)
      else sumC k (column (fzero false) rows e)) := by
  simp [poolRows, within]

/-! ## SAMPLE -/

theorem exec_sample_of_partial (issues : Issues s tile 0x31 a) {r : Req} (hr : reqAt s (slotFor s a.cx a.x.xr.req) = some r)
    (part : bits a.w 39 38 = 1) {n : Nat} (hn : n = 8 * (a.panel (bits a.w 53 48)).lines)
    (source : a.has (bits a.w 53 48) 0 (a.esize (bits a.w 53 48) * n)) {bs : List Byte}
    (hbs : bs = entryBytes (infty true) (topList ((a.floatsAt s (bits a.w 53 48) 0 n).zipIdx.map fun x =>
      (bits a.w 37 14 + x.2, if isZero r.temp then x.1 else fdiv x.1 r.temp))))
    (target : a.has (bits a.w 47 42) 0 bs.length) : exec (.sample tile) s = .next (issued (a.wrote s (bits a.w 47 42) 0 bs) a bs false) := by
  subst hn hbs
  have notFinal : bits a.w 39 38 ≠ 2 := by omega
  rw [exec_sample, execSample, onIssue_ok issues]
  simp only [hr, if_neg notFinal]
  exact (rdF_ok source _).trans ((if_pos part).trans (wrP_ok target _))

/-- A token taken: it is the vector's in phase STEP or on the last vector of PREFILL, and is written before the kept entries. -/
def tookToken (t : State) (a : At) (r : Req) (ranked : List (Nat × F32)) (token : Nat) (bs : List Byte) : State :=
  let u := setNonfinite t a ((ranked.take r.topK).any fun e => isNan e.2)
  a.wrote (if a.x.xr.phase = 0 ∨ (a.x.xr.phase = 1 ∧ a.x.xr.last = true) then updVec u a.cx a.x.disp fun v => { v with token := some token } else u)
    (bits a.w 47 42) 0 bs

/-- Where a sample's token comes from (R245): its request's seeded draw, a free draw that is captured, or the best entry. -/
def Sampled (s : State) (a : At) (r : Req) (ranked kept : List (Nat × F32)) (token : Nat) (t : State) : Prop :=
  bits a.w 41 40 = 0 ∧ t = s ∧
      token = (if usesDraw r.temp r.topK ranked then pickToken kept (drawF (drawBits r.seed a.x.xr.step 16))
        else (kept.head?).elim 0xFFFFFFFF (·.1)) ∨
    bits a.w 41 40 = 1 ∧ a.c.replay = none ∧ usesDraw r.temp r.topK ranked = true ∧
      (∃ d, d = (Config.entropy s.draw.1).toNat ∧ token = pickToken kept (drawF d) ∧
        t = captureVout s.draw.2 a.cx a.ct a.x a.x.pc 1 (natLe 4 d)) ∨
    bits a.w 41 40 = 1 ∧ a.c.replay = none ∧ usesDraw r.temp r.topK ranked = false ∧
      token = (kept.head?).elim 0xFFFFFFFF (·.1) ∧ t = captureVout s a.cx a.ct a.x a.x.pc 0 []

theorem sampleEnd_of_sampled {r : Req} {ranked kept : List (Nat × F32)} {token : Nat} {bs : List Byte} (hkept : kept = keptOf r.topK r.topP ranked)
    (sampled : Sampled s a r ranked kept token t) (hbs : bs = natLe 4 token ++ entryBytes (fzero false) kept)
    (target : a.has (bits a.w 47 42) 0 bs.length) : sampleEnd s a r ranked = .ok (tookToken t a r ranked token bs) bs false := by
  subst hkept hbs
  rcases sampled with ⟨seeded, rfl, rfl⟩ | ⟨free, unreplayed, uses, d, hd, rfl, rfl⟩ | ⟨free, unreplayed, best, rfl, rfl⟩
  · exact (if_pos seeded).trans (wrP_ok target _)
  · have live (n : Nat) : replayVals a n = none := by simp [replayVals, unreplayed]
    have other : bits a.w 41 40 ≠ 0 := by omega
    refine (if_neg other).trans ?_
    simp only [live, uses, if_true, List.map_cons, List.map_nil, List.flatten_cons, List.flatten_nil, List.append_nil, List.length_singleton]
    subst hd
    exact wrP_ok target _
  · have live (n : Nat) : replayVals a n = none := by simp [replayVals, unreplayed]
    have other : bits a.w 41 40 ≠ 0 := by omega
    refine (if_neg other).trans ?_
    simp only [live, best, Bool.false_eq_true, if_false, List.map_nil, List.flatten_nil, List.length_nil]
    exact wrP_ok target _

/-- The entries FULL ranks: its own logits over the temperature. -/
def rankedLogits (s : State) (a : At) (r : Req) (n : Nat) : List (Nat × F32) :=
  ((a.floatsAt s (bits a.w 53 48) 0 n).zipIdx.map fun x =>
    (bits a.w 37 14 + x.2, if isZero r.temp then x.1 else fdiv x.1 r.temp)).mergeSort ranksBefore

/-- The entries FINAL ranks: those that its parts have written. -/
def rankedEntries (s : State) (a : At) (n : Nat) : List (Nat × F32) :=
  (((List.range n).map fun i => (field (a.bytesAt s (bits a.w 53 48) 0 (8 * n)) (8 * i) 4,
    (BitVec.ofNat 32 (field (a.bytesAt s (bits a.w 53 48) 0 (8 * n)) (8 * i + 4) 4) : F32))).filter
      (fun e => e.1 != 0xFFFFFFFF)).mergeSort ranksBefore

theorem exec_sample_of_full (issues : Issues s tile 0x31 a) {r : Req} (hr : reqAt s (slotFor s a.cx a.x.xr.req) = some r)
    (full : bits a.w 39 38 = 0) {n : Nat} (hn : n = 8 * (a.panel (bits a.w 53 48)).lines)
    (source : a.has (bits a.w 53 48) 0 (a.esize (bits a.w 53 48) * n)) {out : List Byte}
    (ends : sampleEnd s a r (rankedLogits s a r n) = .ok t out false) : exec (.sample tile) s = .next (issued t a out false) := by
  subst hn
  have notFinal : bits a.w 39 38 ≠ 2 := by omega
  have notPartial : bits a.w 39 38 ≠ 1 := by omega
  rw [exec_sample, execSample, onIssue_ok issues]
  simp only [hr, if_neg notFinal]
  exact (rdF_ok source _).trans ((if_neg notPartial).trans ends)

theorem exec_sample_of_final (issues : Issues s tile 0x31 a) {r : Req} (hr : reqAt s (slotFor s a.cx a.x.xr.req) = some r)
    (final : bits a.w 39 38 = 2) {n : Nat} (hn : n = 64 * (bits a.w 13 8 + 1)) (source : a.has (bits a.w 53 48) 0 (8 * n)) {out : List Byte}
    (ends : sampleEnd s a r (rankedEntries s a n) = .ok t out false) : exec (.sample tile) s = .next (issued t a out false) := by
  have size : 512 * (bits a.w 13 8 + 1) = 8 * n := by omega
  rw [exec_sample, execSample, onIssue_ok issues]
  simp only [hr, if_pos final, size, ← hn]
  exact (rdP_ok source _).trans ends

/-! ## The token a draw picks -/

theorem runningSums_length (l : List F32) : (runningSums l).length = l.length := by
  have sums (l : List F32) (st : List F32 × F32) :
      (l.foldl (fun (st : List F32 × F32) x => let y := fadd st.2 x; (st.1 ++ [y], y)) st).1.length = st.1.length + l.length := by
    induction l generalizing st with
    | nil => rfl
    | cons x l ih =>
      rw [List.foldl_cons, ih]
      simp only [List.length_append, List.length_cons, List.length_nil]
      omega
  simpa [runningSums] using sums l ([], fzero false)

theorem pickToken_of_exceeded {kept : List (Nat × F32)} {u : F32} {i : Nat}
    (exceeds : (runningSums (kept.map (·.2))).findIdx? (fun r => flt u r) = some i) : ∃ e, kept[i]? = some e ∧ pickToken kept u = e.1 := by
  obtain ⟨within, -, -⟩ := List.findIdx?_eq_some_iff_getElem.mp exceeds
  rw [runningSums_length, List.length_map] at within
  refine ⟨kept[i], List.getElem?_eq_getElem within, ?_⟩
  simp only [pickToken, exceeds, List.getElem?_eq_getElem within, Option.elim_some]

theorem usesDraw_of_cold {temp : F32} (cold : isZero temp = true) (topK : Nat) (ranked : List (Nat × F32)) : usesDraw temp topK ranked = false := by
  simp [usesDraw, cold]

/-- Settles O33: a gather by the tier of its table, a sample by the pass and by where its token comes from. -/
theorem tablesAndSampling : Obligations.TablesAndSampling := by
  refine ⟨⟨?held, ?host, ?far, ?pool, fun s k n => ⟨fun hot => ?_, fun cold => ?_⟩⟩, ?partial_, ?token, fun temp topK ranked cold => ?_,
    fun kept u i exceeds => pickToken_of_exceeded exceeds⟩
  case held =>
    rintro s tile a tb dst num e0 ne ids rows out issues rfl rfl rfl rfl found notHost notShared hids hrows hout target
    refine exec_embg_of_local issues found notShared (gatherRows_of_held notHost notShared _ [] 0) ?_ hout target
    rw [hrows, hids, List.nil_append, List.map_map]
    rfl
  case host =>
    rintro s tile a tb dst num e0 ne rb ids rows out issues rfl rfl rfl rfl found host rfl hids hrows hout target
    obtain ⟨f, m, hm, gathers⟩ := gatherRows_of_host (a := a) (num := bits a.w 47 40) host (embgIds s a tb) [] s 0
    rw [Nat.zero_add] at gathers
    refine ⟨s.updKv f, m, hids ▸ hm, by simp, by simp, by simp, by simp, exec_embg_of_local issues found (by omega) gathers ?_ hout target⟩
    rw [hrows, hids, List.nil_append, List.map_map]
    rfl
  case far =>
    rintro s tile a tb num ids far issues rfl found shared kept rfl hfar lacks unfenced
    exact exec_embg_of_far issues found shared kept hfar lacks unfenced
  case pool =>
    refine fun pool k ne rows => ⟨by simp [poolRows], fun e within => ⟨fun none_ => ?_, fun some_ sum => ?_, fun some_ mean => ?_, fun some_ max => ?_⟩⟩
    all_goals rw [poolRows_getElem within]
    · rw [if_pos none_]
    · rw [if_neg some_, if_neg (by omega), if_neg (by omega)]
    · rw [if_neg some_, if_neg (by omega), if_pos mean]
    · rw [if_neg some_, if_pos max]
  · rw [hotRead_of_hot hot]
    exact ⟨rfl, rfl, rfl⟩
  · rw [hotRead, if_neg (by rw [cold]; exact Bool.false_ne_true)]
    exact ⟨rfl, rfl⟩
  case partial_ =>
    rintro s tile a r lg n bs issues hr part rfl hn source hbs target
    exact exec_sample_of_partial issues hr part hn source hbs target
  case token =>
    rintro s tile a r lg n ranked kept token bs t issues hr rfl pass full final hkept sampled hbs target
    have ends := sampleEnd_of_sampled hkept sampled hbs target
    rcases pass with isFull | isFinal
    · obtain ⟨hn, source, rfl⟩ := full isFull
      exact exec_sample_of_full issues hr isFull hn source ends
    · obtain ⟨hn, source, rfl⟩ := final isFinal
      exact exec_sample_of_final issues hr isFinal hn source ends
  · exact usesDraw_of_cold cold topK ranked

end Sys2Proof.Machine
end

section
/-! Appending to the KV cache, its selection lists and its streams (07_attention R155 to R164, R179; 10_instructions R233, R235, R236). -/

namespace Sys2Proof.Machine

variable {s t : State} {tile slot pair p pos dh step : Nat} {a : At} {r : Req} {key val : List BF16}

/-! ## Requests and pages among the others -/

theorem updReq_of_reqAt (h : reqAt s slot = some r) (f : Req → Req) : s.updReq slot f = s.setReq slot (some (f r)) := by
  rw [reqAt] at h
  simp only [State.updReq, h]

theorem updReq_congr (h : reqAt s slot = some r) {f f' : Req → Req} (same : f r = f' r) : s.updReq slot f = s.updReq slot f' := by
  rw [updReq_of_reqAt h, updReq_of_reqAt h, same]

theorem reqAt_updReq (h : reqAt s slot = some r) (f : Req → Req) : reqAt (s.updReq slot f) slot = some (f r) := by
  rw [updReq_of_reqAt h, reqAt, State.setReq_reqs, look, get_put_same]

theorem reqAt_updReq_isSome (s : State) (i : Nat) (f : Req → Req) (j : Nat) : (reqAt (s.updReq i f) j).isSome = (reqAt s j).isSome := by
  cases h : reqAt s i with
  | none =>
    rw [reqAt] at h
    simp only [State.updReq, h]
  | some r =>
    by_cases same : j = i
    · subst same
      rw [reqAt_updReq h, h]
      rfl
    · rw [updReq_of_reqAt h, reqAt, State.setReq_reqs, look, store, get_put_other _ _ _ same, reqAt]

theorem page_setPage (s : State) (i : Nat) (x : Option Page) : (s.setPage i x).page i = x := by
  simp only [State.page, State.setPage, State.updKv, look, store, get_put_same]

theorem page_setPage_other {i j : Nat} (ne : j ≠ i) (x : Option Page) : (s.setPage i x).page j = s.page j := by
  simp only [State.page, State.setPage, State.updKv, look, store]
  exact get_put_other _ _ _ ne

@[simp] theorem page_updReq (s : State) (i : Nat) (f : Req → Req) (id : Nat) : (s.updReq i f).page id = s.page id := by
  simp [State.page]

/-! ## What appending and evicting leave -/

section
variable {β : Type} {g : State → β} (page : ∀ s i x, g (State.setPage s i x) = g s) (req : ∀ s i f, g (State.updReq s i f) = g s)
  (ctx : ∀ s i f, g (State.updCtx s i f) = g s) (chim : ∀ s f, g (State.updChim s f) = g s) (drawn : ∀ s : State, g s.fresh.2 = g s)
  (kv : ∀ s f, g (State.updKv s f) = g s) (unbound : ∀ s P, g (unbindIf s P) = g s)

include page in
theorem updPage_frame (s : State) (i : Nat) (f : Page → Page) : g (s.updPage i f) = g s := by
  unfold State.updPage
  split
  · rfl
  · exact page ..

include page ctx in
theorem freePage_frame (s : State) (id : Nat) : g (freePage s id) = g s := by
  unfold freePage
  split
  · rfl
  · dsimp only
    split
    · exact page ..
    · split
      · exact (ctx ..).trans (page ..)
      · exact page ..

include page ctx in
/-- Dropping a reference changes pages, contexts, and SHARED of entries. -/
theorem dropRef_frame (shared : ∀ s i pr p, g (updEntry s i pr p fun e => { e with shared := false }) = g s) (s : State) (id : Nat) :
    g (dropRef s id) = g s := by
  unfold dropRef
  split
  · rfl
  · dsimp only
    split
    · exact freePage_frame page ctx ..
    · split
      · exact (foldl_field g (fun _ _ => shared ..) _ _).trans (updPage_frame page ..)
      · exact updPage_frame page ..

include chim drawn in
theorem sendMirrorFree_frame (s : State) (handle layer head p ctx : Nat) (gone : Bool) : g (sendMirrorFree s handle layer head p ctx gone) = g s :=
  sendFrame_frame chim drawn ..

include page req ctx chim drawn unbound in
theorem toAsh_frame (s : State) (slot pair p step : Nat) : g (toAsh s slot pair p step) = g s := by
  unfold toAsh
  split
  · rfl
  · rename_i e _
    dsimp only
    have released : g (if (s.page e.slot).elim false (·.bound) then unbind s slot pair p else s) = g s := by
      split
      · exact unbound ..
      · rfl
    have ashen := (req (if (s.page e.slot).elim false (·.bound) then unbind s slot pair p else s) slot fun r =>
      match entryOf r pair p with | none => r | some e => putEntry r pair p e.toAsh).trans released
    split
    · refine (dropRef_frame page ctx (fun _ _ _ _ => req ..) ..).trans ?_
      split
      · split
        · exact (sendMirrorFree_frame chim drawn ..).trans ashen
        · exact ashen
      · exact ashen
    · refine (chim ..).trans ?_
      split
      · split
        · exact (sendMirrorFree_frame chim drawn ..).trans ashen
        · exact ashen
      · exact ashen

include req kv chim in
theorem countEvict_frame (s : State) (slot step : Nat) (quota : Bool) : g (countEvict s slot step quota) = g s := by
  unfold countEvict
  dsimp only
  split
  · exact (kv ..).trans (req ..)
  · exact (chim ..).trans ((kv ..).trans (req ..))

include page req ctx chim drawn kv unbound

theorem quotaEvict_frame (s : State) (slot pair cur step : Nat) : g (quotaEvict s slot pair cur step) = g s := by
  unfold quotaEvict
  split
  · rfl
  · rename_i r _
    generalize (((tableOf r pair).filter fun e => !e.2.ash).length + if ((tableOf r pair).any fun e => e.1 == cur) = true then 0 else 1) = kept
    dsimp only
    split
    · rfl
    · split
      · rfl
      · exact (countEvict_frame req chim kv ..).trans (toAsh_frame page req ctx chim drawn unbound ..)

theorem openPage_frame (s : State) (slot pair p step : Nat) : g (openPage s slot pair p step) = g s := by
  have popped : g (popTaken s slot pair p).2 = g s := by
    unfold popTaken
    split
    · rfl
    · split
      · rfl
      · exact req ..
  unfold openPage
  split <;> rename_i h <;> rw [h] at popped
  · exact popped
  · split
    · exact popped
    · dsimp only
      split
      · exact (quotaEvict_frame page req ctx chim drawn kv unbound ..).trans ((req ..).trans ((updPage_frame page ..).trans popped))
      · exact (req ..).trans ((updPage_frame page ..).trans popped)

omit ctx drawn kv unbound in
theorem writeKv_frame (s : State) (slot pair pos dh step : Nat) (key val : List BF16) : g (writeKv s slot pair pos dh step key val) = g s := by
  unfold writeKv
  dsimp only
  split
  · rfl
  · split
    · rfl
    · rename_i e _ x _
      have written (t : State) (f : Entry → Entry) (bad : Prop) [Decidable bad] (h : g t = g s) :
          g (if bad then (updEntry t slot pair (pos / 256) f).updReq slot fun r => { r with nonfinite := true }
            else updEntry t slot pair (pos / 256) f) = g s := by
        split
        · exact (req ..).trans ((req ..).trans h)
        · exact (req ..).trans h
      split
      · exact (chim ..).trans (written _ _ _ (page ..))
      · exact written _ _ _ (page ..)

theorem flushStaging_frame (s : State) (slot pair dh step : Nat) : g (flushStaging s slot pair dh step) = g s := by
  unfold flushStaging
  split
  · rfl
  · dsimp only
    split
    · rfl
    · exact (req ..).trans ((foldl_field g (fun _ _ => writeKv_frame page req chim ..) _ _).trans
        (openPage_frame page req ctx chim drawn kv unbound ..))

end

/-! ## Staging and appending one position -/

theorem savePair_zero (s : State) (slot pair : Nat) : savePair s slot pair 0 = s := if_pos rfl

theorem savePair_frame {β : Type} {g : State → β} (chim : ∀ s f, g (State.updChim s f) = g s) (s : State) (slot pair step : Nat) :
    g (savePair s slot pair step) = g s := by
  unfold savePair
  split
  · rfl
  · split
    · rfl
    · exact chim ..

theorem kvappHead_of_candidate (hr : reqAt s slot = some r) (local_ : a.x.chimStep = 0) (cand : a.x.xr.cand ≠ 0xFF) :
    kvappHead s a slot pair dh key val = s.updReq slot fun r =>
      { r with scratch := put [] r.scratch pair (((get [] r.scratch pair).filter fun x => x.cand != a.x.xr.cand) ++
        [{ cand := a.x.xr.cand, key := key, val := val }]) } := by
  simp only [kvappHead, hr, local_, savePair_zero, ne_eq, cand, not_false_eq_true, if_true]

theorem kvappHead_of_held (hr : reqAt s slot = some r) (local_ : a.x.chimStep = 0) (cand : a.x.xr.cand = 0xFF)
    (held : heldAlready r pair a.x.xr.pos = true) : kvappHead s a slot pair dh key val = s := by
  simp only [kvappHead, hr, local_, savePair_zero, cand, ne_eq, not_true_eq_false, if_false, held, if_true]

theorem kvappHead_of_new (hr : reqAt s slot = some r) (local_ : a.x.chimStep = 0) (cand : a.x.xr.cand = 0xFF)
    (new : heldAlready r pair a.x.xr.pos = false) : kvappHead s a slot pair dh key val =
      if direct r a.x.xr.pos then appendKv s slot pair a.x.xr.pos dh 0 key val
      else stageKv s slot pair a.x.xr.pos 0 (a.x.disp + 1) key val := by
  simp only [kvappHead, hr, local_, savePair_zero, cand, ne_eq, not_true_eq_false, if_false, new, Bool.false_eq_true, putKv]

theorem stageKv_of_open {g : Staging} {e : Entry} (hr : reqAt s slot = some r) (within : pos % 256 ≠ 0) (staged : look r.staging pair = some g)
    (opened : entryOf r pair (pos / 256) = some e) (step who : Nat) : stageKv s slot pair pos step who key val = s.updReq slot fun r =>
      { r with staging := store r.staging pair (some
        { g with
          page := pos / 256, fill := pos % 256 + 1, keys := g.keys.take (pos % 256) ++ [key],
          vals := g.vals.take (pos % 256) ++ [val], filler := if pos % 256 = 255 then who else 0 }) } := by
  simp only [stageKv, if_neg within]
  refine updReq_congr hr ?_
  simp only [opened, Option.isNone_some, Bool.false_eq_true, if_false, staged, Option.getD_some]

/-- A page with one more position written (R54, R55), not its last. -/
def Page.withKv (x : Page) (dh t : Nat) (key val : List BF16) : Page :=
  { x with
    fill := t + 1,
    kexp := (putRow x.kexp x.kelem dh t (kvVector key x.kcarry).1 (kvVector key x.kcarry).2.1).1,
    kelem := (putRow x.kexp x.kelem dh t (kvVector key x.kcarry).1 (kvVector key x.kcarry).2.1).2,
    vexp := (putRow x.vexp x.velem dh t (kvVector val x.vcarry).1 (kvVector val x.vcarry).2.1).1,
    velem := (putRow x.vexp x.velem dh t (kvVector val x.vcarry).1 (kvVector val x.vcarry).2.1).2,
    kcarry := (kvVector key x.kcarry).2.2.1, vcarry := (kvVector val x.vcarry).2.2.1 }

/-- A position that is not its page's last is written to the page, and noted in its request. -/
theorem writeKv_of_within {e : Entry} {x : Page} (hr : reqAt s slot = some r) (opened : entryOf r pair (pos / 256) = some e)
    (hx : s.page e.slot = some x) (within : pos % 256 ≠ 255) (step : Nat) : ∃ f f',
    writeKv s slot pair pos dh step key val = ((s.setPage e.slot (some (x.withKv dh (pos % 256) key val))).updReq slot f).updReq slot f' ∨
    writeKv s slot pair pos dh step key val = (s.setPage e.slot (some (x.withKv dh (pos % 256) key val))).updReq slot f := by
  refine ⟨fun r => match entryOf r pair (pos / 256) with
    | none => r
    | some e => putEntry r pair (pos / 256) { e with count := pos % 256 + 1 }, fun r => { r with nonfinite := true }, ?_⟩
  simp only [writeKv, hr, Option.bind_some, opened, hx, within, false_and, if_false]
  split
  · exact .inl rfl
  · exact .inr rfl

/-- A position of a page that the request holds alone is written there (R155). -/
theorem appendKv_of_own {e : Entry} (hr : reqAt s slot = some r) (opened : entryOf r pair (pos / 256) = some e) (own : mustCopy s e = false)
    (step : Nat) : appendKv s slot pair pos dh step key val = writeKv s slot pair pos dh step key val := by
  simp only [appendKv, hr, Option.bind_some, opened, own, Bool.false_eq_true, if_false]

/-! ## KVAPP -/

/-- The BF16 elements of a panel. -/
def bf16sAt (s : State) (a : At) (p n : Nat) : List BF16 :=
  (List.range n).map fun i => BitVec.ofNat 16 (field (a.bytesAt s p 0 (2 * n)) (2 * i) 2)

theorem rdH_ok {p n : Nat} (h : a.has p 0 (2 * n)) (f : List BF16 → Eff) : rdH s a p 0 n f = f (bf16sAt s a p n) :=
  rdP_ok h _

/-- A KVAPP waits: a staging page it would fill further is full, or it needs a slot that KVEVICT has yet to free (R158, R233). -/
def kvappBlocked (s : State) (a : At) : Bool :=
  a.x.xr.cand == 0xFF && ((reqAt s (a.slot s)).elim false fun r => ((kvappPairs a.w).map fun p => pairOf s a.cx p.1 p.2).any fun p =>
    (!direct r a.x.xr.pos && (look r.staging p).elim false fun g => decide (g.fill ≥ 256)) ||
      (((findVec s a.cx a.x.disp).elim false fun v => decide (v.bound ≠ [])) && (needOf s r p a.x.xr.pos).isSome))

/-- The part of a KVAPP's keys or values for its `i`-th head. -/
def headPart (dh : Nat) (l : List BF16) (i : Nat) : List BF16 := (l.drop (i * dh)).take dh

theorem exec_kvapp_of_free (issues : Issues s tile 0x20 a) (free : kvappBlocked s a = false) {n : Nat} (hdh : dh = dhOf s a.cx)
    (hn : n = bits a.w 21 12 + 1) {ks vs : List BF16} (hks : ks = bf16sAt s a (bits a.w 53 48) (n * dh))
    (hvs : vs = bf16sAt s a (bits a.w 47 42) (n * dh)) (keys : a.has (bits a.w 53 48) 0 (2 * (n * dh)))
    (vals : a.has (bits a.w 47 42) 0 (2 * (n * dh))) : exec (.kvapp tile) s = .next (issued
      (if a.x.discarded then s else ((kvappPairs a.w).map fun p => pairOf s a.cx p.1 p.2).zipIdx.foldl
        (fun t p => kvappHead t a (a.slot s) p.1 dh (headPart dh ks p.2) (headPart dh vs p.2)) s) a
      ((List.range n).flatMap fun i => ((headPart dh ks i).map fun b => natLe 2 b.toNat).flatten ++
        ((headPart dh vs i).map fun b => natLe 2 b.toNat).flatten) false) := by
  subst hdh hn hks hvs
  rw [kvappBlocked] at free
  rw [exec_kvapp, execKvapp, onIssue_ok issues]
  simp only [free, Bool.false_eq_true, if_false]
  exact (rdH_ok keys _).trans (rdH_ok vals _)

theorem exec_kvapp_of_blocked (issues : Issues s tile 0x20 a) (blocked : kvappBlocked s a = true) : exec (.kvapp tile) s = .next s := by
  rw [kvappBlocked] at blocked
  rw [exec_kvapp, execKvapp, onIssue_wait issues]
  simp only [blocked, if_true]

/-! ## HOB_FLUSH -/

theorem exec_hobFlush_of_due {layer head : Nat} {g : Staging} (clk : clocked s = true) (live : s.dev.st ≠ .failed) (hr : reqAt s slot = some r)
    (staged : look r.staging (pairOf s r.ctx layer head) = some g) (due : g.flushDue = true) : exec (.hobFlush slot layer head) s = .next
      (flushStaging (savePair s slot (pairOf s r.ctx layer head) (flushStep s slot)) slot (pairOf s r.ctx layer head) (dhOf s r.ctx)
        (flushStep s slot)) := by
  simp only [exec_hobFlush, execHobFlush, hr, clk, beq_eq_false_iff_ne.mpr live, staged, Option.elim_some, due, Bool.not_true, Bool.or_self,
    Bool.false_eq_true, if_false]

theorem exec_hobFlush_of_undue {layer head : Nat} (hr : reqAt s slot = some r)
    (undue : (look r.staging (pairOf s r.ctx layer head)).elim false (·.flushDue) = false) : exec (.hobFlush slot layer head) s = .next s := by
  simp only [exec_hobFlush, execHobFlush, hr, undue, Bool.not_false, Bool.or_true, if_true]

theorem reqAt_savePair (s : State) (slot pair step i : Nat) : reqAt (savePair s slot pair step) i = reqAt s i :=
  savePair_frame (g := (reqAt · i)) (by simp [reqAt]) ..

/-- A slot holds a request. -/
def holdsReq (slot : Nat) (s : State) : Bool := (reqAt s slot).isSome

/-- A full staging page is empty after its flush. -/
theorem flushStaging_empties {g : Staging} (hr : reqAt s slot = some r) (staged : look r.staging pair = some g) (full : 256 ≤ g.fill)
    (dh step : Nat) : ∃ q, reqAt (flushStaging s slot pair dh step) slot = some q ∧ look q.staging pair = none := by
  have page (s : State) (i : Nat) (x : Option Page) : holdsReq slot (s.setPage i x) = holdsReq slot s := rfl
  have req (s : State) (i : Nat) (f : Req → Req) : holdsReq slot (s.updReq i f) = holdsReq slot s := reqAt_updReq_isSome s i f slot
  have stays : holdsReq slot ((List.range 256).foldl (fun s t =>
      writeKv s slot pair (256 * g.page + t) dh step (g.keys[t]?.getD []) (g.vals[t]?.getD [])) (openPage s slot pair g.page step)) = holdsReq slot s :=
    (foldl_field (holdsReq slot) (fun _ _ => writeKv_frame page req (fun _ _ => rfl) ..) _ _).trans
      (openPage_frame page req (fun _ _ _ => by simp [holdsReq, reqAt]) (fun _ _ => rfl) (fun _ => rfl) (fun _ _ => rfl) (fun _ _ => rfl) ..)
  obtain ⟨q, hq⟩ := Option.isSome_iff_exists.mp (stays.trans (by simp [holdsReq, hr]))
  simp only [flushStaging, hr, Option.bind_some, staged, if_neg (Nat.not_lt.mpr full)]
  exact ⟨_, reqAt_updReq hq _, by simp⟩

/-! ## KVIDX -/

theorem exec_kvidx_of_running (issues : Issues s tile 0x21 a) (running : kvappRunning s a (pairOf s a.cx (bits a.w 41 32) (bits a.w 31 22)) = true) :
    exec (.kvidx tile) s = .next s := by
  rw [exec_kvidx, execKvidx, onIssue_wait issues (if_pos running)]

theorem exec_kvidx_of_ready (issues : Issues s tile 0x21 a) {g : Nat} (hdh : dh = dhOf s a.cx) (hg : g = a.i.gqa)
    (hpair : pair = pairOf s a.cx (bits a.w 41 32) (bits a.w 31 22)) (ready : kvappRunning s a pair = false)
    (source : a.has (bits a.w 53 48) 0 (a.esize (bits a.w 53 48) * (g * dh))) (hr : reqAt s (a.slot s) = some r) {set : List Nat}
    (hset : set = readSet r pair (readLen r a.x.xr) (splitEvery dh (a.floatsAt s (bits a.w 53 48) 0 (g * dh)) g)) {bs : List Byte}
    (hbs : bs = natLe 4 (set.length % 2048 + (if a.x.xr.cand = 0xFF then 0 else a.x.xr.pos - r.length) * 2 ^ 16) ++
      (set.map fun p => natLe 4 (p + pageFill r pair p * 2 ^ 14)).flatten)
    (target : a.has (bits a.w 47 42) 0 bs.length) : exec (.kvidx tile) s = .next
      (issued (a.wrote (noteReads s a (set.filterMap fun p => pageIdOf s r pair p)) (bits a.w 47 42) 0 bs) a bs false) := by
  subst hdh hg hpair
  rw [exec_kvidx, execKvidx, onIssue_ok issues]
  simp only [ready, Bool.false_eq_true, if_false]
  refine (rdF_ok source _).trans ?_
  simp only [hr]
  rw [← hset, ← hbs]
  exact wrP_ok target _

/-- The pages a read set is made of, in no order: the first, the last but one, the current, and the best of the rest (R161 to R164). -/
def readPages (r : Req) (pair n : Nat) (qs : List (List F32)) : List Nat :=
  [0, (n - 1) / 256 - 1, (n - 1) / 256] ++ (((((tableOf r pair).filter fun e =>
    decide (1 ≤ e.1 ∧ e.1 + 2 ≤ (n - 1) / 256) && e.2.full && !e.2.ash).map fun e =>
      (e.1, pageScore qs e.2.mean e.2.radius)).mergeSort scoreBefore).take r.budget).map (·.1)

theorem readSet_eq (r : Req) (pair n : Nat) (qs : List (List F32)) : readSet r pair n qs =
    ((readPages r pair n qs).dedup.mergeSort fun a b => decide (a ≤ b)).filter fun p => decide (pageFill r pair p > 0) := rfl

theorem readPages_length (r : Req) (pair n : Nat) (qs : List (List F32)) : (readPages r pair n qs).length ≤ r.budget + 3 := by
  simp only [readPages, List.length_append, List.length_cons, List.length_nil, List.length_map, List.length_take]
  omega

theorem readSet_pairwise (r : Req) (pair n : Nat) (qs : List (List F32)) : (readSet r pair n qs).Pairwise (· < ·) := by
  rw [readSet_eq]
  refine List.Pairwise.filter _ ?_
  have sorted := List.pairwise_mergeSort (le := fun a b : Nat => decide (a ≤ b)) (fun a b c h h' => by
    simp only [decide_eq_true_eq] at h h' ⊢; omega) (fun a b => by simp only [Bool.or_eq_true, decide_eq_true_eq]; omega)
    (readPages r pair n qs).dedup
  have distinct : ((readPages r pair n qs).dedup.mergeSort fun a b => decide (a ≤ b)).Nodup :=
    (List.mergeSort_perm _ _).nodup_iff.mpr (List.nodup_dedup _)
  exact (sorted.and distinct).imp fun ⟨le, ne⟩ => lt_of_le_of_ne (of_decide_eq_true le) ne

theorem mem_readSet {q n : Nat} {qs : List (List F32)} : q ∈ readSet r pair n qs ↔ q ∈ readPages r pair n qs ∧ 0 < pageFill r pair q := by
  rw [readSet_eq, List.mem_filter, List.mem_mergeSort, List.mem_dedup, decide_eq_true_eq]

theorem readSet_length (r : Req) (pair n : Nat) (qs : List (List F32)) : (readSet r pair n qs).length ≤ r.budget + 3 := by
  rw [readSet_eq]
  refine (List.length_filter_le _ _).trans ?_
  rw [List.length_mergeSort]
  exact (List.dedup_sublist _).length_le.trans (readPages_length r pair n qs)

/-! ## KVGATH -/

theorem exec_kvgath_of_running (issues : Issues s tile 0x22 a) (running : attnRunning a (bits a.w 27 26) = true) :
    exec (.kvgath tile) s = .next s := by
  rw [exec_kvgath, execKvgath, onIssue_wait issues (if_pos running)]

/-- The pages a selection list names, with their counts of positions. -/
def selPages (count : Nat) (l : List Byte) : List (Nat × Nat) :=
  (List.range count).map fun i => let w := field l (4 * i) 4; (bits w 13 0, bits w 22 14)

/-- The selected pages that hold positions of a part, with the index of their first position. -/
def partPages (count : Nat) (l : List Byte) (start len : Nat) : List (Nat × Nat × Nat) :=
  (((selPages count l).foldl (fun (st : List (Nat × Nat × Nat) × Nat) p => (st.1 ++ [(p.1, p.2, st.2)], st.2 + p.2)) ([], 0)).1).filter
    fun p => decide (p.2.2 < start + len ∧ start < p.2.2 + p.2.1)

/-- The elements of the pages of a part. -/
def pageElems (s : State) (r : Req) (pair dh : Nat) (mine : List (Nat × Nat × Nat)) : List (Nat × Nat × List F32 × List F32) :=
  mine.flatMap fun p => (pageRows s r pair p.1 p.2.1 dh).zipIdx.map fun e => (p.1, e.2, e.1.1, e.1.2)

/-- The elements of the scratch, of a candidate and its ancestors (R179). -/
def scratchElems (s : State) (a : At) (r : Req) (pair dh nscr : Nat) : List (Nat × Nat × List F32 × List F32) :=
  (scratchPath s a nscr).zipIdx.map fun c =>
    match (get [] r.scratch pair).find? fun x => x.cand == c.1 with
    | none => (0xFFFFFFFF, c.2, List.replicate dh (fzero false), List.replicate dh (fzero false))
    | some x => (0xFFFFFFFF, c.2, x.key.map ofBf, x.val.map ofBf)

/-- The elements a part of a stream takes of those that its pages and the scratch hold. -/
def gathElems (s : State) (a : At) (r : Req) (pair dh nscr n : Nat) (mine : List (Nat × Nat × Nat)) (start len : Nat) :
    List (Nat × Nat × List F32 × List F32) :=
  ((pageElems s r pair dh mine ++ scratchElems s a r pair dh nscr).drop (start - (mine.map (·.2.2)).headD (n - nscr))).take len

/-- The pages of a part that stand in the host's spill buffer. -/
def spilledOf (s : State) (r : Req) (pair : Nat) (mine : List (Nat × Nat × Nat)) : List (Nat × Nat × Nat) :=
  mine.filter fun p => ((entryOf r pair p.1).bind fun e => s.page e.slot).elim false (·.spilled)

/-- The pages of a part are stamped with the time of their read (R171). -/
def stampReads (s : State) (r : Req) (pair : Nat) (mine : List (Nat × Nat × Nat)) : State :=
  mine.foldl (fun s p => match entryOf r pair p.1 with
    | none => s | some e => s.updPage e.slot fun x => { x with lastRead := s.dev.now }) s

/-- The machine once the reads of a KVGATH are noted: its pages stamped, and those of the spill buffer counted. -/
def readNoted (s : State) (a : At) (r : Req) (pair : Nat) (mine : List (Nat × Nat × Nat)) : State :=
  (stampReads s r pair mine).updReq (a.slot s) fun q => { q with spillReads := q.spillReads + (spilledOf s r pair mine).length }

/-- The stream that a KVGATH opens. -/
def openedStream (s : State) (a : At) (r : Req) (pair nscr n start len : Nat) (mine : List (Nat × Nat × Nat)) : Stream :=
  { pair := pair, shape := shapeK (bits a.w 25 24) a.i.defShape, log2m := bits a.w 23 21, part := bits a.w 20 15, n := n,
    pages := mine.filterMap fun p => pageIdOf (readNoted s a r pair mine) r pair p.1, elems := gathElems s a r pair (dhOf s a.cx) nscr n mine start len }

/-- The output bytes of a KVGATH: keys and values of its elements. -/
def streamBytes (els : List (Nat × Nat × List F32 × List F32)) : List Byte :=
  els.flatMap fun e => (e.2.2.1.map fun v => natLe 4 v.toNat).flatten ++ (e.2.2.2.map fun v => natLe 4 v.toNat).flatten

/-- The machine once a KVGATH has opened its stream. -/
def gathered (s : State) (a : At) (r : Req) (pair stream : Nat) (mine : List (Nat × Nat × Nat)) (st : Stream) : State :=
  reapPages ((noteReads (readNoted s a r pair mine) a st.pages).updTile a.t fun y => { y with streams := store y.streams stream (some st) })

theorem exec_kvgath_of_ready (issues : Issues s tile 0x22 a) (hpair : pair = pairOf s a.cx (bits a.w 47 38) (bits a.w 37 28))
    (ready : attnRunning a (bits a.w 27 26) = false) (head : a.has (bits a.w 53 48) 0 4) {count nscr : Nat}
    (hcount : count = bits (field (a.bytesAt s (bits a.w 53 48) 0 4) 0 4) 10 0)
    (hnscr : nscr = bits (field (a.bytesAt s (bits a.w 53 48) 0 4) 0 4) 20 16) (list : a.has (bits a.w 53 48) 4 (4 * count)) {l : List Byte}
    (hl : l = a.bytesAt s (bits a.w 53 48) 4 (4 * count)) (hr : reqAt s (a.slot s) = some r) {n : Nat}
    (hn : n = ((selPages count l).map (·.2)).sum + nscr) {part : Nat × Nat}
    (hpart : part = partRange (shapeK (bits a.w 25 24) a.i.defShape) (bits a.w 23 21) (bits a.w 20 15) n) {mine : List (Nat × Nat × Nat)}
    (hmine : mine = partPages count l part.1 part.2) {st : Stream} (hst : st = openedStream s a r pair nscr n part.1 part.2 mine) :
    exec (.kvgath tile) s = .next (issued (gathered s a r pair (bits a.w 27 26) mine st) a (streamBytes st.elems)
      false (spilledOf s r pair mine).length) := by
  subst hpair hcount hnscr
  rw [exec_kvgath, execKvgath, onIssue_ok issues]
  simp only [ready, Bool.false_eq_true, if_false]
  refine (rdP_ok head _).trans ((rdP_ok list _).trans ?_)
  simp only [hr]
  subst hst hmine hpart hn hl
  rfl

/-! ## What a KVGATH leaves -/

section
variable {β : Type} {g : State → β} (page : ∀ s i x, g (State.setPage s i x) = g s)
include page

theorem reapPages_frame (ctx : ∀ s i f, g (State.updCtx s i f) = g s) (s : State) : g (reapPages s) = g s := by
  refine foldl_field g (fun s e => ?_) _ _
  split
  · exact freePage_frame page ctx ..
  · rfl

theorem stampReads_frame (s : State) (r : Req) (pair : Nat) (mine : List (Nat × Nat × Nat)) : g (stampReads s r pair mine) = g s := by
  refine foldl_field g (fun s p => ?_) _ _
  split
  · rfl
  · exact updPage_frame page ..

theorem readNoted_frame (req : ∀ s i f, g (State.updReq s i f) = g s) (s : State) (a : At) (r : Req) (pair : Nat)
    (mine : List (Nat × Nat × Nat)) : g (readNoted s a r pair mine) = g s :=
  (req ..).trans (stampReads_frame page ..)

end

section
variable (s : State) (a : At) (r : Req) (pair stream : Nat) (mine : List (Nat × Nat × Nat)) (st : Stream)

theorem gathered_frame {β : Type} {g : State → β} (page : ∀ s i x, g (State.setPage s i x) = g s) (req : ∀ s i f, g (State.updReq s i f) = g s)
    (ctx : ∀ s i f, g (State.updCtx s i f) = g s) (tile : ∀ s i f, g (State.updTile s i f) = g s) : g (gathered s a r pair stream mine st) = g s :=
  (reapPages_frame page ctx ..).trans ((tile ..).trans ((ctx ..).trans (readNoted_frame page req ..)))

theorem readNoted_tile (u : Nat) : (readNoted s a r pair mine).tile u = s.tile u :=
  readNoted_frame (g := (·.tile u)) (fun _ _ _ => rfl) (by simp [State.tile]) ..

theorem gathered_tile : (gathered s a r pair stream mine st).tile a.t = { s.tile a.t with streams := store (s.tile a.t).streams stream (some st) } := by
  have noted (t : State) (ids : List Nat) : (noteReads t a ids).tile a.t = t.tile a.t := by simp [noteReads, updVec, State.tile]
  rw [gathered, reapPages_frame (g := (·.tile a.t)) (fun _ _ _ => rfl) (by simp [State.tile]), updTile_tile, noted, readNoted_tile]

theorem gathered_tile_other {u : Nat} (ne : u ≠ a.t) : (gathered s a r pair stream mine st).tile u = s.tile u := by
  have noted (t : State) (ids : List Nat) : (noteReads t a ids).tile u = t.tile u := by simp [noteReads, updVec, State.tile]
  rw [gathered, reapPages_frame (g := (·.tile u)) (fun _ _ _ => rfl) (by simp [State.tile]), updTile_tile_other ne, noted, readNoted_tile]

theorem reqAt_gathered (hr : reqAt s (a.slot s) = some r) : reqAt (gathered s a r pair stream mine st) (a.slot s) =
    some { r with spillReads := r.spillReads + (spilledOf s r pair mine).length } := by
  rw [gathered, reapPages_frame (g := (reqAt · (a.slot s))) (fun _ _ _ => rfl) (by simp [reqAt])]
  have noted (t : State) (ids : List Nat) (f : Tile → Tile) : reqAt ((noteReads t a ids).updTile a.t f) (a.slot s) = reqAt t (a.slot s) := by
    simp [noteReads, updVec, reqAt]
  rw [noted, readNoted]
  exact reqAt_updReq ((stampReads_frame (g := (reqAt · (a.slot s))) (fun _ _ _ => rfl) ..).trans hr) _

end

/-! ## A page in an open stream keeps its reads -/

/-- The time of the last read of a page. -/
def lastReadOf (id : Nat) (s : State) : Option Nat := (s.page id).map (·.lastRead)

theorem openPages_of_tiles (same : t.tiles = s.tiles) : openPages t = openPages s := by
  simp only [openPages, same]

theorem freePage_tiles (s : State) (j : Nat) : (freePage s j).tiles = s.tiles :=
  freePage_frame (g := (·.tiles)) (fun _ _ _ => rfl) (by simp) ..

theorem lastReadOf_freePage {id : Nat} (open_ : (openPages s).contains id = true) (j : Nat) : lastReadOf id (freePage s j) = lastReadOf id s := by
  unfold freePage
  split
  · rfl
  · rename_i x hx
    by_cases same : j = id
    · subst same
      simp only [open_, if_true, lastReadOf, page_setPage]
      rw [State.page, hx]
      rfl
    · have other (y : Option Page) : lastReadOf id (s.setPage j y) = lastReadOf id s := by
        rw [lastReadOf, page_setPage_other (Ne.symm same), lastReadOf]
      have ctx (u : State) (i : Nat) (f : Ctx → Ctx) : lastReadOf id (u.updCtx i f) = lastReadOf id u := by simp [lastReadOf, State.page]
      split
      · exact other _
      · dsimp only
        split
        · exact (ctx ..).trans (other _)
        · exact other _

/-- Freeing pages that nothing refers to leaves a page in an open stream as it was read. -/
theorem lastReadOf_reapPages {id : Nat} (open_ : (openPages s).contains id = true) : lastReadOf id (reapPages s) = lastReadOf id s := by
  have fold (l : SMap (Option Page)) (u : State) (hu : (openPages u).contains id = true) :
      lastReadOf id (l.foldl (fun s e => if e.2.elim false fun p => p.refcnt == 0 then freePage s e.1 else s) u) = lastReadOf id u := by
    induction l generalizing u with
    | nil => rfl
    | cons e l ih =>
      rw [List.foldl_cons]
      split
      · rw [ih _ (by rw [openPages_of_tiles (freePage_tiles u e.1)]; exact hu), lastReadOf_freePage hu]
      · exact ih u hu
  exact fold _ s open_

theorem mem_of_look {α : Type} {m : SMap (Option α)} {k : Nat} {v : α} (h : look m k = some v) : (k, some v) ∈ m := by
  induction m with
  | nil => cases h
  | cons e m ih =>
    obtain ⟨j, w⟩ := e
    by_cases same : j = k
    · subst same
      have hw : w = some v := by simpa [look, get] using h
      rw [hw]
      exact List.mem_cons_self
    · exact List.mem_cons_of_mem _ (ih (by simpa [look, get, same] using h))

/-- The pages of a stream that a tile has open are open. -/
theorem openPages_of_stream {tile stream id : Nat} {st : Stream} (here : look (s.tile tile).streams stream = some st) (page : id ∈ st.pages) :
    (openPages s).contains id = true := by
  have listed : look s.tiles tile = some (s.tile tile) := by
    cases h : look s.tiles tile with
    | some y => simp [State.tile, h]
    | none =>
      rw [State.tile, h] at here
      cases here
  rw [List.contains_iff_mem, openPages, List.mem_flatten]
  exact ⟨_, List.mem_map.mpr ⟨_, mem_of_look listed, rfl⟩,
    List.mem_flatten.mpr ⟨_, List.mem_map.mpr ⟨_, mem_of_look here, rfl⟩, page⟩⟩

/-! ## A selection of one whole page -/

section
variable {f : Nat} {l : List Byte} {e : Entry} {x : Page}

theorem partRange_of_whole (code deflt n : Nat) : partRange (shapeK code deflt) 0 0 n = (0, n) := by
  have fits : n ≤ shapeK code deflt * leafSize (shapeK code deflt) n := by
    have k : shapeK code deflt = 8 ∨ shapeK code deflt = 64 := by
      unfold shapeK
      split
      · exact .inr rfl
      · split
        · exact .inr rfl
        · exact .inl rfl
    unfold leafSize
    rcases k with h | h <;> rw [h] <;> split <;> omega
  simp only [partRange, pow_zero, Nat.div_one, Nat.zero_mul, Nat.zero_add, Nat.one_mul, Nat.min_zero, Nat.sub_zero, Nat.min_eq_left fits]

theorem selPages_one (l : List Byte) : selPages 1 l = [(bits (field l 0 4) 13 0, bits (field l 0 4) 22 14)] := rfl

theorem partPages_of_one (hf : f = bits (field l 0 4) 22 14) (some_ : 0 < f) : partPages 1 l 0 f = [(bits (field l 0 4) 13 0, f, 0)] := by
  subst hf
  simp [partPages, selPages_one, some_]

theorem spilledOf_one (opened : entryOf r pair p = some e) (hx : s.page e.slot = some x) :
    (spilledOf s r pair [(p, f, 0)]).length = b2n x.spilled := by
  cases h : x.spilled <;> simp [spilledOf, opened, hx, h, b2n]

theorem stampReads_one (opened : entryOf r pair p = some e) (hx : s.page e.slot = some x) : stampReads s r pair [(p, f, 0)] =
    s.setPage e.slot (some { x with lastRead := s.dev.now }) := by
  simp [stampReads, opened, State.updPage, hx]

theorem zipIdx_map_range {α : Type} (g : Nat → α) (n : Nat) : ((List.range n).map g).zipIdx = (List.range n).map fun i => (g i, i) := by
  refine List.ext_getElem (by simp) fun i _ _ => by simp

/-- The elements of one page: its keys and values as its format gives them. -/
theorem gathElems_of_one (unstaged : look r.staging pair = none) (opened : entryOf r pair p = some e) (hx : s.page e.slot = some x)
    (root : a.x.xr.cand = 0xFF) (dh : Nat) : gathElems s a r pair dh 0 f [(p, f, 0)] 0 f =
      (List.range f).map fun i => (p, i, kvRow x.kexp x.kelem dh i, kvRow x.vexp x.velem dh i) := by
  have rows : pageRows s r pair p f dh = (List.range f).map fun i => (kvRow x.kexp x.kelem dh i, kvRow x.vexp x.velem dh i) := by
    simp only [pageRows, unstaged, Option.bind_none, opened, Option.bind_some, hx]
  have noScratch : scratchElems s a r pair dh 0 = [] := by simp [scratchElems, scratchPath, root]
  have whole (l : List (Nat × Nat × List F32 × List F32)) (hl : l.length = f) : l.take f = l := List.take_of_length_le hl.le
  simp only [gathElems, pageElems, List.flatMap_cons, List.flatMap_nil, List.append_nil, noScratch, List.map_cons, List.map_nil, List.headD_cons,
    Nat.sub_self, List.drop_zero, rows, zipIdx_map_range, List.map_map]
  exact whole _ (by simp)

theorem pageIdOf_readNoted (unstaged : look r.staging pair = none) (opened : entryOf r pair p = some e) (live : e.ash = false)
    (hx : s.page e.slot = some x) : pageIdOf (readNoted s a r pair [(p, f, 0)]) r pair p = some e.slot := by
  have there : (readNoted s a r pair [(p, f, 0)]).page e.slot = some { x with lastRead := s.dev.now } := by
    rw [readNoted, page_updReq, stampReads_one opened hx, page_setPage]
  simp [pageIdOf, unstaged, opened, live, there]

/-- The page is stamped, and the stream that it is in keeps the stamp. -/
theorem lastReadOf_gathered (opened : entryOf r pair p = some e) (hx : s.page e.slot = some x) (stream : Nat) {st : Stream}
    (held : e.slot ∈ st.pages) : lastReadOf e.slot (gathered s a r pair stream [(p, f, 0)] st) = some s.dev.now := by
  have noted (t : State) (ids : List Nat) (f : Tile → Tile) : lastReadOf e.slot ((noteReads t a ids).updTile a.t f) = lastReadOf e.slot t := by
    simp [noteReads, updVec, lastReadOf, State.page]
  rw [gathered, lastReadOf_reapPages (openPages_of_stream (tile := a.t) (stream := stream) (st := st) ?_ held), noted, readNoted, lastReadOf,
    page_updReq, stampReads_one opened hx, page_setPage]
  · rfl
  · simp [look, store]

end

theorem kvappBlocked_eq_false {prs : List Nat} (hprs : prs = (kvappPairs a.w).map fun p => pairOf s a.cx p.1 p.2)
    (free : a.x.xr.cand ≠ 0xFF ∨ reqAt s (a.slot s) = none ∨ ∃ r, reqAt s (a.slot s) = some r ∧
      ∀ p ∈ prs, (direct r a.x.xr.pos = true ∨ ∀ g, look r.staging p = some g → g.fill < 256) ∧
        ((findVec s a.cx a.x.disp).elim false (fun v => decide (v.bound ≠ [])) = false ∨ needOf s r p a.x.xr.pos = none)) :
    kvappBlocked s a = false := by
  rcases free with cand | none_ | ⟨r, hr, ready⟩
  · simp [kvappBlocked, cand]
  · simp [kvappBlocked, none_]
  · have clear : (prs.any fun p => (!direct r a.x.xr.pos && (look r.staging p).elim false fun g => decide (g.fill ≥ 256)) ||
        (((findVec s a.cx a.x.disp).elim false fun v => decide (v.bound ≠ [])) && (needOf s r p a.x.xr.pos).isSome)) = false := by
      refine List.any_eq_false.mpr fun p hp => ?_
      obtain ⟨room, unbound⟩ := ready p hp
      have staged : (!direct r a.x.xr.pos && (look r.staging p).elim false fun g => decide (g.fill ≥ 256)) = false := by
        rcases room with h | h
        · simp [h]
        · cases hg : look r.staging p with
          | none => simp
          | some g => simpa using fun _ => h g hg
      have needs : (((findVec s a.cx a.x.disp).elim false fun v => decide (v.bound ≠ [])) && (needOf s r p a.x.xr.pos).isSome) = false := by
        rcases unbound with h | h
        · rw [h, Bool.false_and]
        · rw [h, Option.isSome_none, Bool.and_false]
      rw [staged, needs, Bool.or_false]
      exact Bool.false_ne_true
    rw [kvappBlocked, hr, Option.elim_some, ← hprs, clear, Bool.and_false]

theorem kvappBlocked_eq_true (root : a.x.xr.cand = 0xFF) (hr : reqAt s (a.slot s) = some r)
    (named : p ∈ (kvappPairs a.w).map fun p => pairOf s a.cx p.1 p.2)
    (waits : direct r a.x.xr.pos = false ∧ (∃ g, look r.staging p = some g ∧ 256 ≤ g.fill) ∨
      (∃ v, findVec s a.cx a.x.disp = some v ∧ v.bound ≠ []) ∧ (needOf s r p a.x.xr.pos).isSome = true) : kvappBlocked s a = true := by
  rw [kvappBlocked, root, hr, Option.elim_some, beq_self_eq_true, Bool.true_and]
  refine List.any_eq_true.mpr ⟨p, named, ?_⟩
  rcases waits with ⟨staged, g, hg, full⟩ | ⟨⟨v, hv, bound⟩, needs⟩
  · simp [staged, hg, full]
  · simp [hv, bound, needs]

/-- Settles O34: a KVAPP by what blocks it and by where each position goes, the selection and the stream by their equations. -/
theorem kvAppendAndSelection : Obligations.KvAppendAndSelection := by
  refine ⟨⟨?append, ?blocked, ?head, ?flush, fun s slot layer head r hr undue => exec_hobFlush_of_undue hr undue⟩,
    ?select, fun s tile a issues running => exec_kvidx_of_running issues running,
    fun r pair n qs => ⟨readSet_pairwise r pair n qs, fun q hq => (mem_readSet.mp hq).2, fun q some_ named => mem_readSet.mpr ⟨?_, some_⟩,
      readSet_length r pair n qs⟩,
    fun s tile a issues running => exec_kvgath_of_running issues running, ?gather⟩
  case append =>
    rintro s tile a dh n prs ks vs part wr issues hdh hn rfl hks hvs rfl rfl keys vals free
    exact exec_kvapp_of_free issues (kvappBlocked_eq_false rfl free) hdh hn hks hvs keys vals
  case blocked =>
    rintro s tile p a r issues root hr named waits
    exact exec_kvapp_of_blocked issues (kvappBlocked_eq_true root hr named waits)
  case head =>
    refine fun s a slot pair dh key val r hr local_ => ⟨kvappHead_of_candidate hr local_, kvappHead_of_held hr local_,
      fun g e root new staged within hg opened => ?_, fun e x root new direct_ within opened own hx => ?_⟩
    · rw [kvappHead_of_new hr local_ root new, staged, if_neg Bool.false_ne_true, stageKv_of_open hr within hg opened]
    · rw [kvappHead_of_new hr local_ root new, direct_, if_pos rfl, appendKv_of_own hr opened own]
      obtain ⟨f, f', h | h⟩ := writeKv_of_within (dh := dh) (key := key) (val := val) hr opened hx within 0
      all_goals
        rw [h]
        exact ⟨x.withKv dh (a.x.xr.pos % 256) key val, by simp [page_setPage], rfl, rfl, rfl, rfl, rfl, rfl, by simp [State.setPage],
          by simp [State.setPage], fun id ne => by simp [page_setPage_other ne]⟩
  case flush =>
    rintro s slot layer head r g clk live hr staged due full
    obtain ⟨q, hq, empty⟩ := flushStaging_empties (s := savePair s slot (pairOf s r.ctx layer head) (flushStep s slot)) (slot := slot)
      ((reqAt_savePair ..).trans hr) staged full (dhOf s r.ctx) (flushStep s slot)
    exact ⟨_, q, exec_hobFlush_of_due clk live hr staged due, hq, empty, rfl⟩
  case select =>
    rintro s tile a r dh g pair set bs issues hdh hg hpair ready source hr hset hbs target
    exact exec_kvidx_of_ready issues hdh hg hpair ready source hr hset hbs target
  case gather =>
    rintro s tile a r sel pair count nscr issues rfl hpair ready head hcount hnscr list hr
    obtain ⟨n, hn⟩ : ∃ n, n = ((selPages count (a.bytesAt s (bits a.w 53 48) 4 (4 * count))).map (·.2)).sum + nscr := ⟨_, rfl⟩
    obtain ⟨part, hpart⟩ : ∃ part, part = partRange (shapeK (bits a.w 25 24) a.i.defShape) (bits a.w 23 21) (bits a.w 20 15) n := ⟨_, rfl⟩
    obtain ⟨mine, hmine⟩ : ∃ mine, mine = partPages count (a.bytesAt s (bits a.w 53 48) 4 (4 * count)) part.1 part.2 := ⟨_, rfl⟩
    refine ⟨_, _, _, openedStream s a r pair nscr n part.1 part.2 mine,
      exec_kvgath_of_ready issues hpair ready head hcount hnscr list rfl hr hn hpart hmine rfl, by simp [gathered_tile, look, store],
      rfl, rfl, rfl, hn.trans (congrArg (List.sum · + nscr) List.map_map), rfl, by rw [gathered_tile],
      gathered_frame (g := (·.hostMem)) _ _ _ _ _ _ _ (fun _ _ _ => rfl) (by simp) (by simp) (by simp),
      fun u ne => gathered_tile_other _ _ _ _ _ _ _ ne,
      gathered_frame (g := (·.dev)) _ _ _ _ _ _ _ (fun _ _ _ => rfl) (by simp) (by simp) (by simp), ?_⟩
    rintro f p e x rfl rfl root h1 h2 hf hp some_ unstaged opened live hx
    have positions : n = f := by rw [hn, selPages_one, hf]; simp
    have whole : part = (0, f) := by rw [hpart, h1, h2, partRange_of_whole, positions]
    have one : mine = [(p, f, 0)] := by rw [hmine, whole, partPages_of_one hf some_, hp]
    subst whole one positions
    rw [spilledOf_one opened hx]
    refine ⟨?_, rfl, lastReadOf_gathered opened hx _ ?_, ?_⟩
    · simp only [openedStream, gathElems_of_one unstaged opened hx root]
    · simp [openedStream, pageIdOf_readNoted unstaged opened live hx]
    · rw [reqAt_gathered _ _ _ _ _ _ _ hr, spilledOf_one opened hx]
      rfl
  · simp only [readPages, List.mem_append, List.mem_cons, List.not_mem_nil, or_false]
    omega

end Sys2Proof.Machine
end

section
/-! Attention, eviction and verification (10_instructions R237 to R239, R247; 07_attention R180, R181). -/

namespace Sys2Proof.Machine

variable {s t : State} {tile slot : Nat} {a : At} {r : Req}

/-! ## ATTN -/

/-- The scores of an ATTN: each head's query with every key of its stream (R237). -/
def attnScores (s : State) (a : At) (st : Stream) : List (List F32) :=
  (splitEvery (dhOf s a.cx) (a.floatsAt s (bits a.w 53 48) 0 (a.i.gqa * dhOf s a.cx)) a.i.gqa).map
    fun q => st.elems.map fun e => fmul (dot q e.2.2.1) (invSqrt (dhOf s a.cx))

/-- The weights of the scores over the heads' maxima. -/
def attnWeights (scores : List (List F32)) (mxs : List F32) : List (List F32) :=
  scores.zipIdx.map fun l => l.1.map fun v => fexp (fsub v (mxs[l.2]?.getD 0#32))

/-- The vector keeps the masses of a step's or a root's weights (R238). -/
def massStored (s : State) (a : At) (st : Stream) (ws : List (List F32)) : State :=
  if storesMass a.x.xr then
    updVec s a.cx a.x.disp fun v => { v with mass := v.mass ++ ws.zipIdx.flatMap fun w => leafMass st w.2 w.1 }
  else s

theorem exec_attn_of_max (issues : Issues s tile 0x23 a) {st : Stream} (open_ : look (s.tile a.t).streams (bits a.w 41 40) = some st)
    (query : a.has (bits a.w 53 48) 0 (a.esize (bits a.w 53 48) * (a.i.gqa * dhOf s a.cx))) (max : bits a.w 39 38 = 1) {ms : List F32}
    (hms : ms = (attnScores s a st).map fun l => l.foldl fmax (infty true)) (target : a.has (bits a.w 37 32) 0 (a.fbytes (bits a.w 37 32) ms).length) :
    exec (.attn tile) s = .next (issued (a.wrote s (bits a.w 37 32) 0 (a.fbytes (bits a.w 37 32) ms)) a (a.fbytes (bits a.w 37 32) ms) false) := by
  subst hms
  have notFinish : bits a.w 39 38 ≠ 3 := by omega
  rw [exec_attn, execAttn, onIssue_ok issues]
  simp only [if_neg notFinish, open_]
  exact (rdF_ok query _).trans ((if_pos max).trans (wrF_ok target _))

theorem exec_attn_of_full (issues : Issues s tile 0x23 a) {st : Stream} (open_ : look (s.tile a.t).streams (bits a.w 41 40) = some st)
    (query : a.has (bits a.w 53 48) 0 (a.esize (bits a.w 53 48) * (a.i.gqa * dhOf s a.cx))) (full : bits a.w 39 38 = 0) {ws : List (List F32)}
    (hws : ws = attnWeights (attnScores s a st) ((attnScores s a st).map fun l => l.foldl fmax (infty true))) {rs : List (F32 × List F32)}
    (hrs : rs = ws.map (headRoots st (dhOf s a.cx))) {out : List F32} (hout : out = rs.flatMap fun r => r.2.map fun v => fdiv v r.1)
    (target : a.has (bits a.w 47 42) 0 (a.fbytes (bits a.w 47 42) out).length) : exec (.attn tile) s = .next
      (issued (creditPages (a.wrote (massStored s a st ws) (bits a.w 47 42) 0 (a.fbytes (bits a.w 47 42) out)) a st.pair (rs.map (·.1))) a
        (a.fbytes (bits a.w 47 42) out) false) := by
  subst hout hrs hws
  have notFinish : bits a.w 39 38 ≠ 3 := by omega
  have notMax : bits a.w 39 38 ≠ 1 := by omega
  rw [exec_attn, execAttn, onIssue_ok issues]
  simp only [if_neg notFinish, open_]
  exact (rdF_ok query _).trans ((if_neg notMax).trans ((if_pos full).trans (wrF_ok target _)))

theorem exec_attn_of_part (issues : Issues s tile 0x23 a) {st : Stream} (open_ : look (s.tile a.t).streams (bits a.w 41 40) = some st)
    (query : a.has (bits a.w 53 48) 0 (a.esize (bits a.w 53 48) * (a.i.gqa * dhOf s a.cx))) (part : bits a.w 39 38 = 2)
    (maxima : a.has (bits a.w 37 32) 0 (a.esize (bits a.w 37 32) * a.i.gqa)) {ws : List (List F32)}
    (hws : ws = attnWeights (attnScores s a st) (a.floatsAt s (bits a.w 37 32) 0 a.i.gqa)) {rs : List (F32 × List F32)}
    (hrs : rs = ws.map (headRoots st (dhOf s a.cx))) {out : List F32} (hout : out = rs.flatMap (·.2))
    (target : a.has (bits a.w 47 42) 0 (a.fbytes (bits a.w 47 42) out).length)
    (roots : a.has (bits a.w 37 32) (a.esize (bits a.w 37 32) * 64) (a.fbytes (bits a.w 37 32) (rs.map (·.1))).length) :
    exec (.attn tile) s = .next (issued (a.wrote (a.wrote (massStored s a st ws) (bits a.w 47 42) 0 (a.fbytes (bits a.w 47 42) out))
      (bits a.w 37 32) (a.esize (bits a.w 37 32) * 64) (a.fbytes (bits a.w 37 32) (rs.map (·.1)))) a
      (a.fbytes (bits a.w 47 42) out ++ a.fbytes (bits a.w 37 32) (rs.map (·.1))) false) := by
  subst hout hrs hws
  have notFinish : bits a.w 39 38 ≠ 3 := by omega
  have notMax : bits a.w 39 38 ≠ 1 := by omega
  have notFull : bits a.w 39 38 ≠ 0 := by omega
  rw [exec_attn, execAttn, onIssue_ok issues]
  simp only [if_neg notFinish, open_]
  exact (rdF_ok query _).trans ((if_neg notMax).trans ((if_neg notFull).trans ((rdF_ok maxima _).trans ((wrF_ok target _).trans (wrF_ok roots _)))))

theorem exec_attn_of_finish (issues : Issues s tile 0x23 a) (finish : bits a.w 39 38 = 3)
    (values : a.has (bits a.w 47 42) 0 (a.esize (bits a.w 47 42) * (a.i.gqa * dhOf s a.cx)))
    (sums : a.has (bits a.w 37 32) (a.esize (bits a.w 37 32) * 64) (a.esize (bits a.w 37 32) * a.i.gqa)) {dens out : List F32}
    (hdens : dens = a.floatsAt s (bits a.w 37 32) 64 a.i.gqa)
    (hout : out = (a.floatsAt s (bits a.w 47 42) 0 (a.i.gqa * dhOf s a.cx)).zipIdx.map fun v =>
      fdiv v.1 (dens[v.2 / max 1 (dhOf s a.cx)]?.getD 0#32))
    (target : a.has (bits a.w 47 42) 0 (a.fbytes (bits a.w 47 42) out).length) : exec (.attn tile) s = .next
      (issued ((look (s.tile a.t).streams (bits a.w 41 40)).elim (a.wrote s (bits a.w 47 42) 0 (a.fbytes (bits a.w 47 42) out)) fun st =>
        creditPages (a.wrote s (bits a.w 47 42) 0 (a.fbytes (bits a.w 47 42) out)) a st.pair dens) a (a.fbytes (bits a.w 47 42) out) false) := by
  subst hdens hout
  rw [exec_attn, execAttn, onIssue_ok issues]
  refine (if_pos finish).trans ((rdF_ok values _).trans ((rdF_ok sums _).trans ((wrF_ok target _).trans ?_)))
  cases look (s.tile a.t).streams (bits a.w 41 40) <;> rfl

theorem exec_attn_of_closed (issues : Issues s tile 0x23 a) (notFinish : bits a.w 39 38 ≠ 3)
    (closed : look (s.tile a.t).streams (bits a.w 41 40) = none) : exec (.attn tile) s = .next (stopProg s a 4) := by
  rw [exec_attn, execAttn, onIssue_stop issues]
  simp only [if_neg notFinish, closed]

/-! ## Entries of a page table -/

theorem find?_insert_same {α : Type} {m : SMap α} {k : Nat} (absent : ∀ e ∈ m, e.1 ≠ k) (v : α) :
    ((insert k v m).find? fun e => e.1 == k) = some (k, v) := by
  induction m with
  | nil => simp [insert]
  | cons e m ih =>
    obtain ⟨j, w⟩ := e
    have hj : j ≠ k := absent (j, w) List.mem_cons_self
    unfold insert
    split
    · simp
    · rw [List.find?_cons_of_neg (by simpa using hj)]
      exact ih fun e he => absent e (List.mem_cons_of_mem _ he)

theorem find?_insert_other {α : Type} {m : SMap α} {k j : Nat} (ne : j ≠ k) (v : α) :
    ((insert k v m).find? fun e => e.1 == j) = m.find? fun e => e.1 == j := by
  induction m with
  | nil => simp [insert, Ne.symm ne]
  | cons e m ih =>
    obtain ⟨i, w⟩ := e
    unfold insert
    split
    · rw [List.find?_cons_of_neg (by simpa using Ne.symm ne)]
    · rw [List.find?_cons, List.find?_cons, ih]

theorem find?_erase_other {α : Type} {m : SMap α} {k j : Nat} (ne : j ≠ k) :
    ((erase m k).find? fun e => e.1 == j) = m.find? fun e => e.1 == j := by
  induction m with
  | nil => rfl
  | cons e m ih =>
    obtain ⟨i, w⟩ := e
    unfold erase
    split
    · rename_i h
      rw [ih, List.find?_cons_of_neg (by simpa [h] using Ne.symm ne)]
    · rw [List.find?_cons, List.find?_cons, ih]

theorem entryOf_putEntry_same (r : Req) (pair p : Nat) (e : Entry) : entryOf (putEntry r pair p e) pair p = some e := by
  simp only [entryOf, tableOf, putEntry, get_put_same, find?_insert_same (erase_keys _ p), Option.map_some]

theorem entryOf_putEntry_other (r : Req) {pair p pair' p' : Nat} (ne : pair' ≠ pair ∨ p' ≠ p) (e : Entry) :
    entryOf (putEntry r pair p e) pair' p' = entryOf r pair' p' := by
  by_cases same : pair' = pair
  · subst same
    have hp := ne.resolve_left (not_not_intro rfl)
    simp only [entryOf, tableOf, putEntry, get_put_same, find?_insert_other hp, find?_erase_other hp]
  · simp only [entryOf, tableOf, putEntry, get_put_other _ _ _ same]

/-! ## A bound page becomes ash -/

/-- What an eviction does to a request: its count, and whether an entry is ash. -/
def evictionOf (slot pair p : Nat) (s : State) : Option (Nat × Option Bool) :=
  (reqAt s slot).map fun r => (r.pressureEvicts, (entryOf r pair p).map (·.ash))

theorem evictionOf_of_reqs {slot pair p : Nat} (same : t.reqs = s.reqs) : evictionOf slot pair p t = evictionOf slot pair p s := by
  simp only [evictionOf, reqAt, same]

theorem reqAt_updReq_other {i j : Nat} (ne : j ≠ i) (f : Req → Req) : reqAt (s.updReq i f) j = reqAt s j := by
  cases h : reqAt s i with
  | none =>
    rw [reqAt] at h
    simp only [State.updReq, h]
  | some r => rw [updReq_of_reqAt h, reqAt, State.setReq_reqs, look, store, get_put_other _ _ _ ne, reqAt]

/-- SHARED is no part of what an eviction does. -/
theorem evictionOf_shared (slot pair p : Nat) (s : State) (i pr q : Nat) :
    evictionOf slot pair p (updEntry s i pr q fun e => { e with shared := false }) = evictionOf slot pair p s := by
  by_cases here : slot = i
  · subst here
    cases hr : reqAt s slot with
    | none =>
      have same : updEntry s slot pr q (fun e => { e with shared := false }) = s := by
        rw [reqAt] at hr
        simp only [updEntry, State.updReq, hr]
      rw [same]
    | some r =>
      simp only [evictionOf, updEntry, reqAt_updReq hr, hr, Option.map_some]
      cases he : entryOf r pr q with
      | none => rfl
      | some e =>
        refine congrArg some (Prod.ext rfl ?_)
        by_cases entry : pair = pr ∧ p = q
        · obtain ⟨rfl, rfl⟩ := entry
          rw [entryOf_putEntry_same, he]
          rfl
        · rw [entryOf_putEntry_other r (by omega)]
  · simp only [evictionOf, updEntry, reqAt_updReq_other here]

theorem evictionOf_toAsh {slot pair p : Nat} {e : Entry} (hr : reqAt s slot = some r) (he : entryOf r pair p = some e) (step : Nat) :
    evictionOf slot pair p (toAsh s slot pair p step) = some (r.pressureEvicts, some true) := by
  have page (s : State) (i : Nat) (x : Option Page) : evictionOf slot pair p (s.setPage i x) = evictionOf slot pair p s := rfl
  have ctx (s : State) (i : Nat) (f : Ctx → Ctx) : evictionOf slot pair p (s.updCtx i f) = evictionOf slot pair p s := evictionOf_of_reqs (by simp)
  have chim (s : State) (f : Chim → Chim) : evictionOf slot pair p (s.updChim f) = evictionOf slot pair p s := rfl
  have drawn (s : State) : evictionOf slot pair p s.fresh.2 = evictionOf slot pair p s := rfl
  have ashen (u : State) (hu : reqAt u slot = some r) : evictionOf slot pair p (updEntry u slot pair p Entry.toAsh) = some (r.pressureEvicts, some true) := by
    simp only [evictionOf, updEntry, reqAt_updReq hu, he, Option.map_some, entryOf_putEntry_same]
    rfl
  have released : reqAt (if (s.page e.slot).elim false (·.bound) then unbind s slot pair p else s) slot = some r := by
    split <;> exact hr
  simp only [toAsh, hr, Option.bind_some, he]
  split
  · refine (dropRef_frame page ctx (evictionOf_shared slot pair p) ..).trans ?_
    split
    · split
      · exact (sendMirrorFree_frame chim drawn ..).trans (ashen _ released)
      · exact ashen _ released
    · exact ashen _ released
  · refine (chim ..).trans ?_
    split
    · split
      · exact (sendMirrorFree_frame chim drawn ..).trans (ashen _ released)
      · exact ashen _ released
    · exact ashen _ released

theorem reqAt_countEvict {slot : Nat} (hr : reqAt s slot = some r) (step : Nat) :
    reqAt (countEvict s slot step false) slot = some { r with pressureEvicts := r.pressureEvicts + 1 } := by
  simp only [countEvict, Bool.false_eq_true, if_false]
  split <;> exact reqAt_updReq hr _

theorem countEvict_kv (s : State) (slot step : Nat) : (countEvict s slot step false).kv = { s.kv with pressureEvicts := s.kv.pressureEvicts + 1 } := by
  simp only [countEvict, Bool.false_eq_true, if_false]
  split <;> simp

/-- Evicting a bound page counts in the device, and leaves tiles and host memory. -/
theorem evictBound_kv (s : State) (step : Nat) (b : Bound) : (evictBound s step b).kv.pressureEvicts = s.kv.pressureEvicts + 1 := by
  have kept : (toAsh (savePair s b.slot b.pair step) b.slot b.pair b.page step).kv.pressureEvicts = s.kv.pressureEvicts :=
    (toAsh_frame (g := fun s => s.kv.pressureEvicts) (fun _ _ _ => rfl) (by simp) (by simp) (by simp) (by simp) (fun _ _ => rfl) ..).trans
      (savePair_frame (g := fun s => s.kv.pressureEvicts) (by simp) ..)
  rw [evictBound, countEvict_kv, kept]

theorem evictBound_frame {β : Type} {g : State → β} (page : ∀ s i x, g (State.setPage s i x) = g s) (req : ∀ s i f, g (State.updReq s i f) = g s)
    (ctx : ∀ s i f, g (State.updCtx s i f) = g s) (chim : ∀ s f, g (State.updChim s f) = g s) (drawn : ∀ s : State, g s.fresh.2 = g s)
    (kv : ∀ s f, g (State.updKv s f) = g s) (unbound : ∀ s P, g (unbindIf s P) = g s) (s : State) (step : Nat) (b : Bound) :
    g (evictBound s step b) = g s :=
  (countEvict_frame req chim kv ..).trans ((toAsh_frame page req ctx chim drawn unbound ..).trans (savePair_frame chim ..))

/-- The page's entry becomes ash, and its request counts the eviction. -/
theorem evictBound_req {b : Bound} {e : Entry} (hr : reqAt s b.slot = some r) (he : entryOf r b.pair b.page = some e) (step : Nat) :
    ∃ q f, reqAt (evictBound s step b) b.slot = some q ∧ entryOf q b.pair b.page = some f ∧ f.ash = true ∧
      q.pressureEvicts = r.pressureEvicts + 1 := by
  have ashen := evictionOf_toAsh (s := savePair s b.slot b.pair step) ((reqAt_savePair ..).trans hr) he step
  rw [evictionOf, Option.map_eq_some_iff] at ashen
  obtain ⟨q, hq, both⟩ := ashen
  obtain ⟨count, entry⟩ := Prod.mk.inj both
  obtain ⟨f, hf, ash⟩ := Option.map_eq_some_iff.mp entry
  exact ⟨_, f, reqAt_countEvict hq step, hf, ash, by rw [← count]⟩

/-! ## KVEVICT -/

theorem exec_kvevict_of_unreplayed (issues : Issues s tile 0x24 a) (unreplayed : a.c.replay = none) {bs : List Bound}
    (hbs : bs = (findVec s a.cx a.x.disp).elim [] (·.bound))
    (ht : t = updVec (bs.foldl (fun s b => evictBound s a.x.chimStep b) s) a.cx a.x.disp (fun v => { v with bound := [] })) :
    exec (.kvevict tile) s = .next (issued (captureVout t a.cx a.ct a.x a.x.pc bs.length
      (bs.flatMap fun b => boundBytes s ((reqAt s b.slot).elim 0 (·.ctx)) b)) a [] false) := by
  have live : replayVals a 0 = none := by simp [replayVals, unreplayed]
  subst ht hbs
  rw [exec_kvevict, execKvevict, onIssue_ok issues]
  simp only [live]

/-! ## VERIFY -/

theorem exec_verify_of_other (issues : Issues s tile 0x32 a) (other : a.x.xr.phase ≠ 2) : exec (.verify tile) s = .next (issued s a [] true) := by
  rw [exec_verify, execVerify, onIssue_ok issues (if_pos other)]

/-- The place of a verification's node among the distributions: 0 the root. -/
def distPlace (a : At) : Nat := if a.x.xr.cand = 0xFF then 0 else a.x.xr.cand + 1

/-- A request with the distribution of a node. -/
def withDist (place : Nat) (es : List (Nat × F32)) (r : Req) : Req := { r with dists := insert place es (erase r.dists place) }

/-- The node of a verification stores its distribution. -/
def distStored (s : State) (a : At) : State :=
  s.updReq (a.slot s) (withDist (distPlace a) (keptEntries (a.bytesAt s (bits a.w 53 48) 0 516)))

theorem distStored_eq (s : State) (a : At) (es : List (Nat × F32)) (hes : es = keptEntries (a.bytesAt s (bits a.w 53 48) 0 516)) :
    (s.updReq (a.slot s) fun r => { r with
      dists := insert (if a.x.xr.cand = 0xFF then 0 else a.x.xr.cand + 1) es (erase r.dists (if a.x.xr.cand = 0xFF then 0 else a.x.xr.cand + 1)) }) =
      distStored s a := by
  subst hes
  rfl

theorem exec_verify_of_node (issues : Issues s tile 0x32 a) (verifies : a.x.xr.phase = 2) (more : a.x.xr.last = false)
    (result : a.has (bits a.w 53 48) 0 516) : exec (.verify tile) s = .next (issued (distStored s a) a [] false) := by
  rw [exec_verify, execVerify, onIssue_ok issues]
  refine (if_neg (not_not_intro verifies)).trans ((rdP_ok result _).trans ?_)
  simp only [more, Bool.not_false, if_true]
  rfl

/-- What the last VERIFY of a tree does with it: it waits for its nodes' distributions, and then takes the path and token of R180. -/
theorem exec_verify_of_lacking (issues : Issues s tile 0x32 a) (verifies : a.x.xr.phase = 2) (last : a.x.xr.last = true)
    (result : a.has (bits a.w 53 48) 0 516) (hr : reqAt (distStored s a) (a.slot s) = some r) {cs : List Cand}
    (tree : treeOf (distStored s a) a = some cs) (lacks : ∃ i, i ≤ cs.length ∧ ∀ e ∈ r.dists, e.1 ≠ i) : exec (.verify tile) s = .next s := by
  have lacking : ((List.range (cs.length + 1)).any fun i => !(r.dists.any fun e => e.1 == i)) = true := by
    obtain ⟨i, hi, none_⟩ := lacks
    refine List.any_eq_true.mpr ⟨i, List.mem_range.mpr (by omega), ?_⟩
    simpa using none_
  rw [exec_verify, execVerify, onIssue_wait issues]
  refine (if_neg (not_not_intro verifies)).trans ((rdP_ok result _).trans ?_)
  simp only [distStored_eq s a _ rfl, last, Bool.not_true, Bool.false_eq_true, if_false, hr, tree, lacking, if_true]

/-- The vector's path and token. -/
def pathTaken (t : State) (a : At) (path : List Nat) (next : Nat) : State :=
  updVec t a.cx a.x.disp fun v => { v with path := path, token := some next }

theorem draftSlot_of_undrafted (undrafted : r.draft = none) (s : State) (a : At) : draftSlot s a r = none := by
  rw [draftSlot, undrafted, ite_self]

/-- With every node's distribution in, the path is taken, and of a local step appended once no staging page is full. -/
theorem exec_verify_of_complete (issues : Issues s tile 0x32 a) (verifies : a.x.xr.phase = 2) (last : a.x.xr.last = true)
    (result : a.has (bits a.w 53 48) 0 516) (hr : reqAt (distStored s a) (a.slot s) = some r) {cs : List Cand}
    (tree : treeOf (distStored s a) a = some cs) (complete : ∀ i, i ≤ cs.length → ∃ e ∈ r.dists, e.1 = i) (undrafted : r.draft = none)
    {path : List Nat} {d : List (Nat × F32)} (accepts : (path, d) = acceptPath cs (isZero r.temp)
      (fun i => drawF (drawBits r.seed a.x.xr.step i)) r.dists 8 0xFF (get [] r.dists 0) 0 []) {next : Nat}
    (hnext : next = nextToken (isZero r.temp) d (drawF (drawBits r.seed a.x.xr.step 16))) : exec (.verify tile) s = .next
      (if (decide (a.x.chimStep = 0) && !a.x.discarded && path != [] && flushPending (distStored s a) (a.slot s)) = true then s
      else issued (if (decide (a.x.chimStep = 0) && !a.x.discarded) = true then
          commitPath (pathTaken (distStored s a) a path next) (a.slot s) r.length 0 path
        else pathTaken (distStored s a) a path next) a [] false) := by
  have all : ((List.range (cs.length + 1)).any fun i => !(r.dists.any fun e => e.1 == i)) = false := by
    refine List.any_eq_false.mpr fun i hi => ?_
    obtain ⟨e, he, at_⟩ := complete i (by have := List.mem_range.mp hi; omega)
    simpa using ⟨e.2, by rw [← at_]; exact he⟩
  have undraft (u : State) : draftSlot u a r = none := draftSlot_of_undrafted undrafted u a
  generalize hl : (decide (a.x.chimStep = 0) && !a.x.discarded) = ownStep
  by_cases waits : (ownStep && path != [] && flushPending (distStored s a) (a.slot s)) = true
  · rw [if_pos waits, exec_verify, execVerify, onIssue_wait issues]
    refine (if_neg (not_not_intro verifies)).trans ((rdP_ok result _).trans ?_)
    simp only [distStored_eq s a _ rfl, last, Bool.not_true, Bool.false_eq_true, if_false, hr, tree, all, ← accepts, undraft, Option.elim_none, Bool.or_false, hl, waits, if_true]
  · rw [if_neg waits, exec_verify, execVerify, onIssue_ok issues]
    refine (if_neg (not_not_intro verifies)).trans ((rdP_ok result _).trans ?_)
    simp only [distStored_eq s a _ rfl, last, Bool.not_true, Bool.false_eq_true, if_false, hr, tree, all, ← accepts, undraft, Option.elim_none, Bool.or_false, hl, waits,
      ← hnext]
    cases ownStep <;> rfl

theorem acceptPath_length (cs : List Cand) (greedy : Bool) (drawOf : Nat → F32) (dists : SMap (List (Nat × F32))) (n node : Nat)
    (d : List (Nat × F32)) (k : Nat) (path : List Nat) : (acceptPath cs greedy drawOf dists n node d k path).1.length ≤ path.length + n := by
  induction n generalizing node d k path with
  | zero => exact le_refl _
  | succ n ih =>
    rw [acceptPath]
    split
    · exact Nat.le_add_right _ _
    · refine (ih ..).trans ?_
      simp only [List.length_append, List.length_cons, List.length_nil]
      omega

theorem flushPending_eq_true (hr : reqAt s slot = some r) (full : ∃ e ∈ r.staging, ∃ g, e.2 = some g ∧ 256 ≤ g.fill) : flushPending s slot = true := by
  obtain ⟨e, he, g, hg, fill⟩ := full
  rw [flushPending, hr, Option.elim_some]
  exact List.any_eq_true.mpr ⟨e, he, by simp [hg, fill]⟩

theorem flushPending_eq_false (hr : reqAt s slot = some r) (room : ∀ e ∈ r.staging, ∀ g, e.2 = some g → g.fill < 256) :
    flushPending s slot = false := by
  rw [flushPending, hr, Option.elim_some]
  refine List.any_eq_false.mpr fun e he => ?_
  cases hg : e.2 with
  | none => simp
  | some g => simpa using room e he g hg

/-- Settles O35: ATTN by its pass, KVEVICT by what becomes of each bound page, VERIFY by how far its tree has come. -/
theorem attentionAndEviction : Obligations.AttentionAndEviction := by
  refine ⟨⟨?stream, ?finish, fun s tile a issues notFinish closed => exec_attn_of_closed issues notFinish closed⟩,
    fun s tile a bs t issues unreplayed hbs ht => exec_kvevict_of_unreplayed issues unreplayed hbs ht,
    fun s step b => ⟨evictBound_kv s step b, ?tiles, ?memory, fun r e hr he => evictBound_req hr he step⟩,
    fun s tile a issues other => exec_verify_of_other issues other, ?node, ?last, ?lacking,
    fun cs greedy drawOf dists d => (acceptPath_length cs greedy drawOf dists 8 0xFF d 0 []).trans (le_refl 8)⟩
  case stream =>
    rintro s tile a st o mp dh g scores issues rfl rfl rfl rfl open_ query rfl
    refine ⟨fun ms max hms target => exec_attn_of_max issues open_ query max hms target, ?_⟩
    rintro mxs ws rs t rfl rfl hrs rfl
    refine ⟨fun out full hout target => ?_, fun out part maxima hout target roots => ?_⟩
    · rw [if_pos full] at hrs
      rw [if_pos full]
      exact exec_attn_of_full issues open_ query full rfl hrs hout target
    · have notFull : bits a.w 39 38 ≠ 0 := by omega
      simp only [if_neg notFull] at hrs ⊢
      exact exec_attn_of_part issues open_ query part maxima rfl hrs hout target roots
  case finish =>
    rintro s tile a o mp dh g out dens issues finish rfl rfl rfl rfl values sums hdens hout target
    have ends := exec_attn_of_finish issues finish values sums hdens hout target
    refine ⟨fun st open_ => ?_, fun closed => ?_⟩
    · rw [ends, open_, Option.elim_some]
    · rw [ends, closed, Option.elim_none]
  case tiles => exact evictBound_frame (g := (·.tiles)) (fun _ _ _ => rfl) (by simp) (by simp) (by simp) (by simp) (by simp) (fun _ _ => rfl) s step b
  case memory => exact evictBound_frame (g := (·.hostMem)) (fun _ _ _ => rfl) (by simp) (by simp) (by simp) (by simp) (by simp) (fun _ _ => rfl) s step b
  case node =>
    rintro s tile node a t issues verifies more result rfl rfl
    exact exec_verify_of_node issues verifies more result
  case last =>
    rintro s tile node next a t r cs path d issues verifies last result rfl rfl hr tree complete undrafted accepts hnext
    rw [distStored_eq s a _ rfl] at hr tree
    have ends := exec_verify_of_complete issues verifies last result hr tree complete undrafted accepts hnext
    refine ⟨_, rfl, fun local_ kept => ⟨fun room => ?_, fun some_ full => ?_⟩, fun elsewhere => ?_⟩
    · have flows : (path != [] && flushPending (distStored s a) (a.slot s)) = false := by
        rcases room with rfl | room
        · rfl
        · rw [flushPending_eq_false hr room, Bool.and_false]
      rw [ends, Bool.and_assoc, flows, Bool.and_false, if_neg Bool.false_ne_true, local_, kept]
      rfl
    · have waits : (path != []) = true := by simpa using some_
      rw [ends, waits, flushPending_eq_true hr full, local_, kept]
      rfl
    · have other : (decide (a.x.chimStep = 0) && !a.x.discarded) = false := by
        rcases elsewhere with h | h <;> simp [h]
      rw [ends, other]
      rfl
  case lacking =>
    rintro s tile node a t r cs issues verifies last result rfl rfl hr tree lacks
    exact exec_verify_of_lacking issues verifies last result hr tree lacks

end Sys2Proof.Machine
end

section
/-! FIRE, FIREV and the fire slot (10_instructions R223 to R225; 03_arrays R62, R63, R72, R74, R83). -/

namespace Sys2Proof.Machine

variable {s : State} {tile bank : Nat} {a : At} {v : Bool} {β : Type}

/-! ## FIRE and FIREV -/

theorem fireWaits_eq_false {y : Tile} {banks mask : List Nat} (promoted : promoting a banks = false)
    (free : ∀ e ∈ y.fires, ∀ g, e.2 = some g → e.1 ∉ banks ∧ (g.running = true → ∀ x ∈ g.arrays, x ∉ mask)) : fireWaits y a banks mask = false := by
  have clear : ∀ e ∈ y.fires, (e.2.elim false fun g => banks.contains e.1 || (g.running && g.arrays.any mask.contains)) = false := by
    rintro ⟨k, _ | g⟩ mem
    · rfl
    · obtain ⟨otherBank, otherArrays⟩ := free _ mem g rfl
      simpa [otherBank] using otherArrays
  rw [fireWaits, promoted, Bool.false_or]
  simpa using fun k g mem => by simpa using clear (k, g) mem

theorem fireWaits_eq_true {y : Tile} {banks mask : List Nat} (busy : promoting a banks = true ∨ ∃ e ∈ y.fires, ∃ g, e.2 = some g ∧
      (e.1 ∈ banks ∨ g.running = true ∧ ∃ x ∈ g.arrays, x ∈ mask)) : fireWaits y a banks mask = true := by
  obtain promoting | ⟨e, mem, g, hg, taken⟩ := busy
  · rw [fireWaits, promoting, Bool.true_or]
  · have blocks : (e.2.elim false fun g => banks.contains e.1 || (g.running && g.arrays.any mask.contains)) = true := by
      simpa [hg] using taken
    rw [fireWaits, List.any_eq_true.mpr ⟨e, mem, blocks⟩, Bool.or_true]

/-- The FIRE that an instruction starts in each of its banks. -/
def firesOf (a : At) (v : Bool) : List (Nat × Fire) :=
  (fireBanks (fireOps a.w)).map fun k => (k,
    { disp := a.x.disp, issue := a.x.issueCtr, v := v, arrays := (maskArrays (fireOps a.w).mask).filter fun x => bankOf (fireOps a.w).join x == k,
      join := (fireOps a.w).join, blk := (fireOps a.w).blk, g0 := (fireOps a.w).g0, gn := (fireOps a.w).gn, qv := (fireOps a.w).qv,
      slot := 32 * (fireOps a.w).g0, withheld := 0, jobs := 0, adders := [],
      fmt := (a.i.arrays.find? fun r => r.carray == 4 * a.ct +
        ((maskArrays (fireOps a.w).mask).filter fun x => bankOf (fireOps a.w).join x == k).headD 0).elim 0 (·.format),
      pass := 0, discarded := a.x.discarded, req := a.x.xr.req })

theorem fireEff_of_waiting (waits : fireWaits (s.tile a.t) a (fireBanks (fireOps a.w)) (maskArrays (fireOps a.w).mask) = true) :
    fireEff v s a = .wait := if_pos waits

theorem fireEff_of_beyond (free : fireWaits (s.tile a.t) a (fireBanks (fireOps a.w)) (maskArrays (fireOps a.w).mask) = false)
    (header : a.has (fireOps a.w).qv 0 16) {n : Nat} (hn : n = field (a.bytesAt s (fireOps a.w).qv 0 16) 4 4)
    (beyond : ∃ x ∈ maskArrays (fireOps a.w).mask,
      n ≤ (fireOps a.w).blk + 16 * (x % (fireOps a.w).join) + (fireOps a.w).g0 + (fireOps a.w).gn) :
    fireEff v s a = .stop 8 := by
  subst hn
  have stops := List.any_eq_true.mpr (beyond.imp fun x h => ⟨h.1, decide_eq_true h.2⟩)
  exact (if_neg (Bool.eq_false_iff.mp free)).trans ((rdP_ok header _).trans (if_pos stops))

theorem fireEff_of_within (free : fireWaits (s.tile a.t) a (fireBanks (fireOps a.w)) (maskArrays (fireOps a.w).mask) = false)
    (header : a.has (fireOps a.w).qv 0 16) {n : Nat} (hn : n = field (a.bytesAt s (fireOps a.w).qv 0 16) 4 4)
    (within : ∀ x ∈ maskArrays (fireOps a.w).mask,
      (fireOps a.w).blk + 16 * (x % (fireOps a.w).join) + (fireOps a.w).g0 + (fireOps a.w).gn < n)
    (whole : a.has (fireOps a.w).qv 0 (qvElems n + 64 * n + 8 * field (a.bytesAt s (fireOps a.w).qv 0 16) 8 4)) :
    fireEff v s a = .ok (startFires s a.t a.x.xr.cls a.x.xr.variant (firesOf a v)) [] false := by
  subst hn
  have goesOn := List.any_eq_false.mpr fun x mem => Bool.eq_false_iff.mp (decide_eq_false (not_le.mpr (within x mem)))
  have fits := not_lt.mpr ((Nat.zero_add _).symm.trans_le whole)
  exact (if_neg (Bool.eq_false_iff.mp free)).trans ((rdP_ok header _).trans ((if_neg (Bool.eq_false_iff.mp goesOn)).trans (if_neg fits)))

/-! ## Sending jobs -/

/-- What a change of a tile leaves of it, it leaves of every tile. -/
theorem proj_updTile {h : Tile → β} {f : Tile → Tile} (keeps : ∀ y, h (f y) = h y) (s : State) (t u : Nat) : h ((s.updTile t f).tile u) = h (s.tile u) := by
  by_cases same : u = t
  · rw [same, updTile_tile, keeps]
  · rw [updTile_tile_other same]

theorem proj_setFlue {h : Tile → β} (s : State) (e : Nat) (f : Flue) (u : Nat) : h ((s.setFlue e f).tile u) = h (s.tile u) := by
  simp only [State.tile, State.setFlue_tiles]

@[simp] theorem Tile.setOut_fires (y : Tile) (k : FlueKind) (n : Nat) : (y.setOut k n).fires = y.fires := by cases k <;> rfl

section
variable {g : State → β} (flue : ∀ s e f, g (s.setFlue e f) = g s)
  (held : ∀ s t, g (s.updTile t fun y => { y with held := y.held + 1 }) = g s)
include flue held

theorem offerJob_frame (s : State) (j : Job) : g (offerJob s j) = g s := by
  simp only [offerJob]
  split
  · exact flue _ _ _
  · rw [held, flue]

variable (sent : ∀ s t k n l, g (s.updTile t fun y => { (y.setOut k n) with backlog := l }) = g s)
include sent

theorem pumpJobs_frame (tile n : Nat) (s : State) : g (pumpJobs tile n s) = g s := by
  induction n generalizing s with
  | zero => rfl
  | succ n ih =>
    simp only [pumpJobs]
    split
    · rfl
    · exact (ih _).trans ((offerJob_frame flue held _ _).trans (sent _ _ _ _ _))

theorem sendJobs_frame (queued : ∀ s t js, g (s.updTile t fun y => { y with backlog := y.backlog ++ js }) = g s) (s : State) (tile : Nat)
    (js : List Job) : g (sendJobs s tile js) = g s :=
  (pumpJobs_frame flue held sent tile _ _).trans (queued _ _ _)
end

/-- Sending jobs leaves of a tile what its backlog, its counts of outstanding jobs and its refused jobs do not touch. -/
theorem proj_sendJobs {h : Tile → β} (held : ∀ y n, h { y with held := n } = h y) (sent : ∀ y k n l, h { (Tile.setOut y k n) with backlog := l } = h y)
    (queued : ∀ y l, h { y with backlog := l } = h y) (s : State) (tile : Nat) (js : List Job) (u : Nat) : h ((sendJobs s tile js).tile u) = h (s.tile u) :=
  sendJobs_frame (g := fun s => h (s.tile u)) (fun s e f => proj_setFlue s e f u) (fun s t => proj_updTile (fun _ => held _ _) s t u)
    (sent := fun s t _ _ _ => by
      by_cases same : u = t
      · rw [same, updTile_tile, sent]
      · rw [updTile_tile_other same])
    (fun s t _ => proj_updTile (fun _ => queued _ _) s t u) s tile js

theorem sendJobs_mem (s : State) (tile : Nat) (js : List Job) (u : Nat) : ((sendJobs s tile js).tile u).mem = (s.tile u).mem :=
  proj_sendJobs (fun _ _ => rfl) (fun _ _ _ _ => by simp) (fun _ _ => rfl) s tile js u

theorem sendJobs_fires (s : State) (tile : Nat) (js : List Job) (u : Nat) : ((sendJobs s tile js).tile u).fires = (s.tile u).fires :=
  proj_sendJobs (fun _ _ => rfl) (fun _ _ _ _ => by simp) (fun _ _ => rfl) s tile js u

theorem look_startFires_one (s : State) (t cls variant bank : Nat) (f : Fire) : look ((startFires s t cls variant [(bank, f)]).tile t).fires bank =
    some { f with slot := 32 * f.g0, withheld := 0, jobs := (fireJobs s t bank cls variant f).length, adders := [] } := by
  rw [startFires, List.foldl_cons, List.foldl_nil, sendJobs_fires, updTile_tile, look, store, get_put_same]

theorem startFires_one_mem (s : State) (t cls variant bank : Nat) (f : Fire) :
    ((startFires s t cls variant [(bank, f)]).tile t).mem = (s.tile t).mem := by
  rw [startFires, List.foldl_cons, List.foldl_nil, sendJobs_mem, updTile_tile]

theorem startFires_arrs (s : State) (t cls variant : Nat) (fs : List (Nat × Fire)) : (startFires s t cls variant fs).arrs = s.arrs :=
  foldl_field (·.arrs) (fun s e => (sendJobs_frame (g := (·.arrs)) (by simp) (by simp) (by simp) (by simp) _ _ _).trans (by simp)) _ _

theorem startFires_hostMem (s : State) (t cls variant : Nat) (fs : List (Nat × Fire)) : (startFires s t cls variant fs).hostMem = s.hostMem :=
  foldl_field (·.hostMem) (fun s e => (sendJobs_frame (g := (·.hostMem)) (by simp) (by simp) (by simp) (by simp) _ _ _).trans (by simp)) _ _

/-! ## The fire slot -/

@[simp] theorem updArr_arr (s : State) (i : Nat) (f : Arr → Arr) : (s.updArr i f).arr i = f (s.arr i) := by
  simp only [State.arr, State.updArr, State.setArr_arrs, look, store, get_put_same]
  split
  · exact (‹_ = Arr.reset›).symm
  · rfl

theorem updArr_arr_other {i j : Nat} (ne : j ≠ i) (f : Arr → Arr) : (s.updArr i f).arr j = s.arr j := by
  simp only [State.arr, State.updArr, State.setArr_arrs, look, store]
  rw [get_put_other _ _ _ ne]

@[simp] theorem updArr_tile (s : State) (i u : Nat) (f : Arr → Arr) : (s.updArr i f).tile u = s.tile u := by
  simp only [State.tile, State.updArr_tiles]

theorem closeIfFull_of_room {array : Nat} (room : (s.arr array).wChecks < 2 ^ 36) : closeIfFull s array = s := if_neg (not_le.mpr room)

/-- The activation bits of an array in a slot of a FIRE. -/
def slotActs (s : State) (t a : Nat) (f : Fire) : Nat :=
  qvActs (s.tile t).mem (fireBase s t f) (f.block a (f.slot / 32)) (f.slot % 32 / 2)

/-- What an array converts in a slot of a FIRE. -/
def slotRead (s : State) (t a : Nat) (f : Fire) (devs : List ConvDev) : List Conv :=
  slotConvs (s.arr (4 * t + a)) (takeover s (4 * t + a)) (devs.filter fun d => d.arr == a)
    ((List.range 64).map fun i => (64 * (f.slot / 32) + i, rowOf s (4 * t + a) (64 * (f.slot / 32) + i))) (slotActs s t a f) (f.slot % 2)

theorem slotArray_of_skipped {st : State × SMap Int × List Job} {t : Nat} {f : Fire} (blank : Job) (devs : List ConvDev) {a : Nat}
    (skipped : slotActs st.1 t a f = 0) : slotArray st t f blank a devs = st := if_pos skipped

/-- The job of a set that failed its check in a slot of a FIRE. -/
def slotJob (s : State) (t a : Nat) (f : Fire) (blank : Job) (cs : List Conv) (set : Nat) : Job :=
  { blank with
    arr := a, slot := f.slot, set := set, acts := slotActs s t a f, plane := f.slot % 32 / 2, half := f.slot % 2,
    off := qvOff (s.tile t).mem (fireBase s t f) (f.block a (f.slot / 32)), levels := (setData cs set).map (·.level),
    dataBad := (setData cs set).any (·.bad) }

/-- What the sets that pass their check add to the run adders. -/
def slotVals (s : State) (t a : Nat) (f : Fire) (blank : Job) (cs : List Conv) : List (Nat × Int) :=
  ((List.range 16).filter fun i => !(failedSets cs).contains i).flatMap fun i =>
    setVals (slotJob s t a f blank cs i) (slotJob s t a f blank cs i).levels

theorem slotArray_of_acting {st : State × SMap Int × List Job} {t : Nat} {f : Fire} (blank : Job) (devs : List ConvDev) {a : Nat}
    (acting : slotActs st.1 t a f ≠ 0) (room : (st.1.arr (4 * t + a)).wChecks < 2 ^ 36) {cs : List Conv} (hcs : cs = slotRead st.1 t a f devs) :
    slotArray st t f blank a devs = (st.1.updArr (4 * t + a) fun x => countSlot x cs, addVals st.2.1 (slotVals st.1 t a f blank cs),
      st.2.2 ++ (failedSets cs).map (slotJob st.1 t a f blank cs)) := by
  obtain ⟨s, adders, jobs⟩ := st
  unfold slotActs at acting
  simp only [slotArray]
  rw [if_neg acting, closeIfFull_of_room room, hcs]
  rfl

theorem slotRead_length (s : State) (t a : Nat) (f : Fire) (devs : List ConvDev) : (slotRead s t a f devs).length = 608 := by
  simp [slotRead, slotConvs]

theorem setData_length {cs : List Conv} (whole : cs.length = 608) {i : Nat} (hi : i < 16) : (setData cs i).length = 32 := by
  rw [setData, List.length_take, List.length_drop]
  omega

theorem length_filter_not_failed (cs : List Conv) :
    ((List.range 16).filter fun i => !(failedSets cs).contains i).length = 16 - (failedSets cs).length := by
  have same : ((List.range 16).filter fun i => !(failedSets cs).contains i) =
      (List.range 16).filter fun i => !setFails (setData cs i) (setTally cs i) :=
    List.filter_congr fun i mem => by simp [failedSets, List.mem_range.mp mem]
  have both := List.length_eq_length_filter_add (l := List.range 16) fun i => setFails (setData cs i) (setTally cs i)
  rw [List.length_range] at both
  rw [same, failedSets]
  omega

/-- Each set that passes adds a value for each of its 32 columns. -/
theorem slotVals_length (s : State) (t a : Nat) (f : Fire) (blank : Job) {cs : List Conv} (whole : cs.length = 608) :
    (slotVals s t a f blank cs).length = 32 * (16 - (failedSets cs).length) := by
  have each : ∀ i ∈ (List.range 16).filter fun i => !(failedSets cs).contains i,
      (setVals (slotJob s t a f blank cs i) (slotJob s t a f blank cs i).levels).length = 32 := fun i mem => by
    have hi := List.mem_range.mp (List.mem_filter.mp mem).1
    rw [setVals, List.length_map, List.length_zipIdx, slotJob, List.length_map, setData_length whole hi]
  rw [slotVals, List.length_flatMap, List.map_congr_left each, List.map_const', List.sum_replicate, length_filter_not_failed, smul_eq_mul,
    Nat.mul_comm]

/-- The window of an array has room for `n` more slots. -/
def Roomy (s : State) (t n : Nat) (l : List Nat) : Prop := ∀ a ∈ l, (s.arr (4 * t + a)).wChecks + 16 * n ≤ 2 ^ 36

/-- Firing a slot in one array neither touches a tile nor leaves a window that is full. -/
theorem slotArray_keeps {st : State × SMap Int × List Job} {t n : Nat} {a : Nat} {l : List Nat} (roomy : Roomy st.1 t (n + 1) (a :: l)) (f : Fire)
    (blank : Job) (devs : List ConvDev) :
    Roomy (slotArray st t f blank a devs).1 t n l ∧ ∀ u, (slotArray st t f blank a devs).1.tile u = st.1.tile u := by
  by_cases acting : slotActs st.1 t a f = 0
  · rw [slotArray_of_skipped blank devs acting]
    exact ⟨fun b mem => by have := roomy b (List.mem_cons_of_mem _ mem); omega, fun _ => rfl⟩
  · have room := roomy a List.mem_cons_self
    rw [slotArray_of_acting blank devs acting (by omega) rfl]
    refine ⟨fun b mem => ?_, fun u => by rw [updArr_tile]⟩
    have before := roomy b (List.mem_cons_of_mem _ mem)
    by_cases same : b = a
    · subst same
      rw [updArr_arr]
      simp only [countSlot]
      omega
    · rw [updArr_arr_other (by omega)]
      omega

theorem foldl_slotArray_tile {st : State × SMap Int × List Job} {t : Nat} {l : List Nat} (roomy : Roomy st.1 t l.length l) (f : Fire) (blank : Job)
    (devs : List ConvDev) (u : Nat) : (l.foldl (fun st a => slotArray st t f blank a devs) st).1.tile u = st.1.tile u := by
  induction l generalizing st with
  | nil => rfl
  | cons a l ih =>
    obtain ⟨left, tiles⟩ := slotArray_keeps roomy f blank devs
    exact (ih left).trans (tiles u)

/-- The job that every RECOMPUTE job of a bank's slot carries on. -/
def blankJob (tile cls : Nat) (e : Nat × Fire) : Job :=
  { kind := .recompute, tile := tile, bank := e.1, issue := e.2.tag, cls := cls, arrived := 0, arr := 0, fmt := e.2.fmt,
    slot := 0, set := 0, acts := 0, levels := [], dataBad := false, row := 0, p := 0, ctx := 0, variant := 0,
    g0 := e.2.g0, gn := e.2.gn, q := [], outl := [], plane := 0, off := 0, half := 0 }

/-- The arrays of a bank's FIRE fire its next slot. -/
def slotArrays (s : State) (tile cls : Nat) (devs : List ConvDev) (e : Nat × Fire) : State × SMap Int × List Job :=
  e.2.arrays.foldl (fun st a => slotArray st tile e.2 (blankJob tile cls e) a devs) (s, e.2.adders, [])

/-- A FIRE after a slot that left these run adders and jobs. -/
def Fire.fired (f : Fire) (r : State × SMap Int × List Job) : Fire :=
  { f with adders := r.2.1, slot := nextSlotIdx f.slot, withheld := f.withheld + r.2.2.length }

/-- A bank of a FIRE fires its next slot. -/
def fireBank (tile cls : Nat) (devs : List ConvDev) (s : State) (e : Nat × Fire) : State :=
  if ((slotArrays s tile cls devs e).1.tile tile).stopped then (slotArrays s tile cls devs e).1
  else sendJobs ((slotArrays s tile cls devs e).1.updTile tile fun y => { y with fires := store y.fires e.1 (some (e.2.fired (slotArrays s tile cls devs e))) })
    tile (slotArrays s tile cls devs e).2.2

theorem fireBank_of_roomy {tile cls : Nat} {devs : List ConvDev} {e : Nat × Fire} (on : (s.tile tile).stopped = false)
    (roomy : Roomy s tile e.2.arrays.length e.2.arrays) : fireBank tile cls devs s e =
      sendJobs ((slotArrays s tile cls devs e).1.updTile tile fun y => { y with fires := store y.fires e.1 (some (e.2.fired (slotArrays s tile cls devs e))) })
        tile (slotArrays s tile cls devs e).2.2 := by
  have still : ((slotArrays s tile cls devs e).1.tile tile).stopped = false := by rw [slotArrays, foldl_slotArray_tile roomy, on]
  rw [fireBank, still, if_neg Bool.false_ne_true]

/-- A bank's FIRE can fire: it stands, the clocks run, and it has slots left. -/
structure Fires (s : State) (tile bank : Nat) (f : Fire) : Prop where
  stands : look (s.tile tile).fires bank = some f
  clocks : clocked s = true
  aclk : s.clk.aclkOn = true
  works : s.dev.st ≠ .failed
  goes : (s.tile tile).stopped = false
  runs : f.running = true

theorem Fires.ready {f : Fire} (h : Fires s tile bank f) :
    (!clocked s || !s.clk.aclkOn || s.dev.st == .failed || (s.tile tile).stopped || !f.running) = false := by
  obtain ⟨-, clocks, aclk, works, goes, runs⟩ := h
  simp [clocks, aclk, works, goes, runs]

/-- A FIRE of the tile that runs, issued earlier and fires an array in common. -/
def behind (y : Tile) (f : Fire) : Bool := y.fires.any fun e => e.2.elim false fun g => g.running && g.before f && g.overlaps f

theorem behind_eq_true {y : Tile} {f : Fire}
    (earlier : ∃ e ∈ y.fires, ∃ g, e.2 = some g ∧ g.running = true ∧ g.before f = true ∧ g.overlaps f = true) : behind y f = true := by
  obtain ⟨e, mem, g, hg, running, before, overlaps⟩ := earlier
  exact List.any_eq_true.mpr ⟨e, mem, by simp [hg, running, before, overlaps]⟩

theorem behind_eq_false {y : Tile} {f : Fire}
    (first : ∀ e ∈ y.fires, ∀ g, e.2 = some g → g.running = true → g.before f = true → g.overlaps f = false) : behind y f = false := by
  refine List.any_eq_false.mpr ?_
  rintro ⟨k, _ | g⟩ mem
  · exact Bool.false_ne_true
  · simpa [and_assoc] using first _ mem g rfl

variable {f : Fire} {devs : List ConvDev}

theorem exec_fireSlot_of_behind (h : Fires s tile bank f) (waits : behind (s.tile tile) f = true) : exec (.fireSlot tile bank devs) s = .next s := by
  simp only [exec_fireSlot, execFireSlot, h.stands, h.ready, Bool.false_eq_true, if_false]
  exact congrArg _ (if_pos waits)

theorem exec_fireSlot_of_held (h : Fires s tile bank f) (first : behind (s.tile tile) f = false) (held : heldBack (s.tile tile) = true) :
    exec (.fireSlot tile bank devs) s = .next (s.updTile tile fun y => { y with gateStalls := y.gateStalls + 4 }) := by
  simp only [exec_fireSlot, execFireSlot, h.stands, h.ready, Bool.false_eq_true, if_false]
  exact congrArg _ ((if_neg (Bool.eq_false_iff.mp first)).trans (if_pos held))

/-- The banks of the same FIRE. -/
def banksOf (y : Tile) (f : Fire) : List (Nat × Fire) :=
  y.fires.filterMap fun e => match e.2 with
    | none => none
    | some g => if g.same f then some (e.1, g) else none

theorem exec_fireSlot_of_free (h : Fires s tile bank f) (first : behind (s.tile tile) f = false) (free : heldBack (s.tile tile) = false) :
    exec (.fireSlot tile bank devs) s =
      .next ((banksOf (s.tile tile) f).foldl (fireBank tile ((s.tile tile).exec.elim 7 fun x => x.xr.cls) devs) s) := by
  simp only [exec_fireSlot, execFireSlot, h.stands, h.ready, Bool.false_eq_true, if_false]
  exact congrArg _ ((if_neg (Bool.eq_false_iff.mp first)).trans (if_neg (Bool.eq_false_iff.mp free)))

theorem qvActs_of_zero {m : Mem} {b k : Nat} (zero : qvZ m b k = true) (p : Nat) : qvActs m b k p = 0 := if_pos zero

theorem nextSlotIdx_of_even {i : Nat} (even : i % 2 = 0) : nextSlotIdx i = i + 1 := if_neg (by omega)

theorem nextSlotIdx_last (g : Nat) : nextSlotIdx (32 * g + 15) = 32 * (g + 1) := by
  rw [nextSlotIdx, if_pos (by omega)]
  omega

/-- Settles O36: what an instruction starts follows from whether its banks and arrays are free and from its vector's header; a slot's
arrays are taken one after the other, which no window that is not full interrupts. -/
theorem fireSetsRun : Obligations.FireSetsRun := by
  refine ⟨⟨?start, ?wait, ?begins⟩, ?slot, ?array, fun m b k p zero => qvActs_of_zero zero p, fun _ _ => ⟨rfl, rfl⟩,
    fun _ even => nextSlotIdx_of_even even, nextSlotIdx_last⟩
  case start =>
    rintro s tile a o n fs rfl promoted free header hn rfl
    have clear := fireWaits_eq_false promoted free
    refine ⟨fun within whole => ⟨fun issues => ?_, fun issues => ?_⟩, fun beyond => ⟨_, rfl, fun issues => ?_, fun issues => ?_⟩⟩
    · rw [exec_fire, execFire, onIssue_ok issues (fireEff_of_within clear header hn within whole)]
      rfl
    · rw [exec_firev, execFirev, onIssue_ok issues (fireEff_of_within clear header hn within whole)]
      rfl
    · rw [exec_fire, execFire, onIssue_stop issues (fireEff_of_beyond clear header hn beyond), stopProg]
    · rw [exec_firev, execFirev, onIssue_stop issues (fireEff_of_beyond clear header hn beyond), stopProg]
  case wait =>
    intro s tile a busy
    have waits := fireWaits_eq_true busy
    exact ⟨fun issues => by rw [exec_fire, execFire, onIssue_wait issues (fireEff_of_waiting waits)],
      fun issues => by rw [exec_firev, execFirev, onIssue_wait issues (fireEff_of_waiting waits)]⟩
  case begins =>
    intro s t cls variant bank f
    exact ⟨look_startFires_one s t cls variant bank f, startFires_one_mem s t cls variant bank f, startFires_arrs s t cls variant _,
      startFires_hostMem s t cls variant _⟩
  case slot =>
    intro s tile bank devs f stands clocks aclk works goes runs
    have fires : Fires s tile bank f := ⟨stands, clocks, aclk, works, goes, runs⟩
    refine ⟨fun earlier => exec_fireSlot_of_behind fires (behind_eq_true earlier), fun first =>
      ⟨fun held => exec_fireSlot_of_held fires (behind_eq_false first) held, fun free => ⟨_, exec_fireSlot_of_free fires (behind_eq_false first) free, ?_⟩⟩⟩
    exact fun t b g on roomy => ⟨blankJob tile _ (b, g), rfl, rfl, rfl, rfl, fireBank_of_roomy (e := (b, g)) on roomy⟩
  case array =>
    rintro st t a array f blank devs acts cs rfl hacts hcs
    obtain rfl : acts = slotActs st.1 t a f := hacts
    replace hcs : cs = slotRead st.1 t a f devs := hcs
    refine ⟨fun skipped => slotArray_of_skipped blank devs skipped, fun acting room => ?_⟩
    refine ⟨_, _, slotArray_of_acting blank devs acting room hcs, ?_, ?_, ?_⟩
    · exact (List.map_map ..).trans (List.map_id _)
    · exact List.forall_mem_map.mpr fun i _ => ⟨rfl, rfl, rfl, rfl⟩
    · rw [List.length_map]
      exact slotVals_length st.1 t a f blank (hcs ▸ slotRead_length st.1 t a f devs)

end Sys2Proof.Machine
end

section
/-! Jobs of the flue path and their results (06_flue_path R138 to R148; 03_arrays R72 to R80). -/

namespace Sys2Proof.Machine

variable {s : State} {engine tile bank t : Nat} {j : Job} {late : Bool} {kind : FlueKind}

/-! ## Engines -/

@[simp] theorem setFlue_flue (s : State) (i : Nat) (f : Flue) : (s.setFlue i f).flue i = f := by
  simp only [State.flue, State.setFlue_flues, look, store, get_put_same]
  split
  · exact (‹f = Flue.reset›).symm
  · rfl

@[simp] theorem updFlue_flue (s : State) (i : Nat) (f : Flue → Flue) : (s.updFlue i f).flue i = f (s.flue i) := setFlue_flue s i _

@[simp] theorem updTile_flue (s : State) (i u : Nat) (f : Tile → Tile) : (s.updTile i f).flue u = s.flue u := by
  simp only [State.flue, State.updTile_flues]

@[simp] theorem Flue.queue_setQueue (f : Flue) (k : FlueKind) (l : List Job) : (f.setQueue k l).queue k = l := by cases k <;> rfl
@[simp] theorem Flue.setQueue_cache (f : Flue) (k : FlueKind) (l : List Job) : (f.setQueue k l).cache = f.cache := by cases k <;> rfl
@[simp] theorem Flue.setQueue_misses (f : Flue) (k : FlueKind) (l : List Job) : (f.setQueue k l).misses = f.misses := by cases k <;> rfl
@[simp] theorem Flue.waiting_setWaiting (f : Flue) (k : FlueKind) (l : List Nat) : (f.setWaiting k l).waiting k = l := by cases k <;> rfl
@[simp] theorem Flue.setWaiting_refused (f : Flue) (k : FlueKind) (l : List Nat) : (f.setWaiting k l).refused = f.refused := by cases k <;> rfl
@[simp] theorem Flue.setWaiting_holdOffs (f : Flue) (k : FlueKind) (l : List Nat) : (f.setWaiting k l).holdOffs = f.holdOffs := by cases k <;> rfl
@[simp] theorem Tile.setOut_backlog (y : Tile) (k : FlueKind) (n : Nat) : (y.setOut k n).backlog = y.backlog := by cases k <;> rfl

/-- An engine with its next job taken from its queue. -/
def jobTaken (s : State) (engine : Nat) (k : FlueKind) (j : Job) (late : Bool) : State :=
  s.updFlue engine fun x => { (x.setQueue k ((x.queue k).erase j)) with waited := x.waited + b2n late, claimed := false }

theorem runJob_of_next (clocks : clocked s = true) (works : s.dev.st ≠ .failed) (next : nextJob s (s.flue engine) = some (j, late))
    (ofKind : j.kind = kind) (f : State → Job → State) : runJob s engine kind f = f (jobTaken s engine kind j late) j := by
  have runs : (!clocked s || s.dev.st == .failed) = false := by simp [clocks, works]
  simp only [runJob, runs, next]
  rw [if_neg Bool.false_ne_true, if_neg (not_not.mpr ofKind)]
  rfl

@[simp] theorem jobTaken_flits : (jobTaken s engine kind j late).flits = s.flits := State.updFlue_flits ..
@[simp] theorem jobTaken_tiles : (jobTaken s engine kind j late).tiles = s.tiles := State.updFlue_tiles ..
@[simp] theorem jobTaken_ctxs : (jobTaken s engine kind j late).ctxs = s.ctxs := State.updFlue_ctxs ..
@[simp] theorem jobTaken_arrs : (jobTaken s engine kind j late).arrs = s.arrs := State.updFlue_arrs ..
@[simp] theorem jobTaken_hostMem : (jobTaken s engine kind j late).hostMem = s.hostMem := State.updFlue_hostMem ..

theorem jobTaken_flue : (jobTaken s engine kind j late).flue engine = { ((s.flue engine).setQueue kind (((s.flue engine).queue kind).erase j)) with
    waited := (s.flue engine).waited + b2n late, claimed := false } := updFlue_flue s engine _

theorem jobSeg_jobTaken (k : Job) : jobSeg (jobTaken s engine kind j late) k = jobSeg s k := by
  simp only [jobSeg, ctileOf, State.tile, jobTaken_tiles, jobTaken_ctxs]

/-! ## RECOMPUTE -/

/-- The engine of a RECOMPUTE job has counted it. -/
def recomputing (s : State) (engine : Nat) (j : Job) (late : Bool) : State :=
  (jobTaken s engine .recompute j late).updFlue engine fun f => { f with nRec := f.nRec + 1, busy := f.busy + 24 }

/-- The data of a set agree with its tally in a read. -/
def setAgrees (t : State) (reads : List RowRead) (j : Job) (nth : Nat) : Prop :=
  (trueLevels (setRows t reads nth (4 * j.tile + j.arr) j.slot) j.acts j.half j.set).sum =
    trueTally (setRows t reads nth (4 * j.tile + j.arr) j.slot) j.acts j.half j.set

section
variable {reads : List RowRead} {t : State} (clocks : clocked s = true) (works : s.dev.st ≠ .failed)
  (next : nextJob s (s.flue engine) = some (j, late)) (ofKind : j.kind = .recompute) (ht : t = recomputing s engine j late)
include clocks works next ofKind ht

theorem exec_recompute_of_agreed (agrees : setAgrees t reads j 0) :
    exec (.recompute engine reads) s = .next (releaseSet t j (setRows t reads 0 (4 * j.tile + j.arr) j.slot)) := by
  subst ht
  rw [exec_recompute, execRecompute, runJob_of_next clocks works next ofKind]
  exact congrArg _ (if_pos agrees)

variable (differs : ¬setAgrees t reads j 0)
include differs

theorem exec_recompute_of_faults {rows : List (Nat × Nat)}
    (hrows : rows = faultRows (setRows t reads 1 (4 * j.tile + j.arr) j.slot) j.half j.set) (faulted : rows ≠ []) :
    exec (.recompute engine reads) s = .next (raiseErr
      (sendFlit (t.updArr (4 * j.tile + j.arr) fun a => { a with storage := a.storage + 1 }) (.storage j.tile j.arr j.bank j.issue rows))
      { domain := 3, code := 0x4002, unit := 4 * j.tile + j.arr, detail := rows.length, act := .elsewhere }) := by
  subst ht hrows
  rw [exec_recompute, execRecompute, runJob_of_next clocks works next ofKind]
  exact congrArg _ ((if_neg differs).trans (if_pos faulted))

variable (clean : faultRows (setRows t reads 1 (4 * j.tile + j.arr) j.slot) j.half j.set = [])
include clean

theorem exec_recompute_of_clean (third : faultRows (setRows t reads 2 (4 * j.tile + j.arr) j.slot) j.half j.set = []) :
    exec (.recompute engine reads) s = .next (releaseSet t j (setRows t reads 2 (4 * j.tile + j.arr) j.slot)) := by
  subst ht
  rw [exec_recompute, execRecompute, runJob_of_next clocks works next ofKind]
  refine congrArg _ ((if_neg differs).trans ((if_neg (not_not.mpr clean)).trans ?_))
  unfold recomputing at third ⊢
  simp only [third]

theorem exec_recompute_of_hard {row : Nat × Nat} {l : List (Nat × Nat)}
    (third : faultRows (setRows t reads 2 (4 * j.tile + j.arr) j.slot) j.half j.set = row :: l) :
    exec (.recompute engine reads) s = .next (hardFault t (4 * j.tile + j.arr) row.1 0 (badSets row.2)) := by
  subst ht
  rw [exec_recompute, execRecompute, runJob_of_next clocks works next ofKind]
  refine congrArg _ ((if_neg differs).trans ((if_neg (not_not.mpr clean)).trans ?_))
  unfold recomputing at third ⊢
  simp only [third]
end

theorem mem_faultRows {rows : List (Nat × Nat)} {h set : Nat} {r : Nat × Nat} :
    r ∈ faultRows rows h set ↔ r ∈ rows ∧ setCount r.2 h set ≠ setDigits r.2 h set := by simp [faultRows]

/-! ## OUTLIER and DELTA -/

@[simp] theorem sendFlit_flits (s : State) (f : Flit) : (sendFlit s f).flits = s.flits ++ [f] := rfl
@[simp] theorem sendFlit_tiles (s : State) (f : Flit) : (sendFlit s f).tiles = s.tiles := rfl
@[simp] theorem sendFlit_arrs (s : State) (f : Flit) : (sendFlit s f).arrs = s.arrs := rfl
@[simp] theorem sendFlit_hostMem (s : State) (f : Flit) : (sendFlit s f).hostMem = s.hostMem := rfl
@[simp] theorem sendFlit_flue (s : State) (f : Flit) (i : Nat) : (sendFlit s f).flue i = s.flue i := rfl

/-- The engine of an OUTLIER job has counted it. -/
def outlying (s : State) (engine : Nat) (j : Job) (late : Bool) : State :=
  (jobTaken s engine .outlier j late).updFlue engine fun f => { f with nOut := f.nOut + 1, busy := f.busy + 4 + (outputsOf j.fmt + 255) / 256 }

theorem exec_outlier_of_next (clocks : clocked s = true) (works : s.dev.st ≠ .failed) (next : nextJob s (s.flue engine) = some (j, late))
    (ofKind : j.kind = .outlier) : exec (.outlier engine) s = .next (sendFlit (outlying s engine j late)
      (.result j.tile j.bank j.issue .outlier ((List.range (outputsOf j.fmt)).map fun c => (c, j.p * weightAt j.fmt j.acts c * 2048)))) := by
  rw [exec_outlier, execOutlier, runJob_of_next clocks works next ofKind]
  rfl

/-- A job's entries of its segment in the row groups of its FIRE. -/
def deltaEntries (s : State) (j : Job) : List Delta :=
  ((jobSeg s j).getD []).filter fun e => decide (j.g0 ≤ e.row / 64 ∧ e.row / 64 ≤ j.g0 + j.gn)

/-- What one entry adds. -/
def deltaPart (j : Job) (e : Delta) : Int := e.d * (get 0 j.q e.row + get 0 j.outl e.row)

/-- The result of a DELTA job, by column. -/
def deltaVals (s : State) (j : Job) : SMap Int :=
  (deltaEntries s j).foldl (fun m e => put 0 m e.col (get 0 m e.col + deltaPart j e)) []

/-- The segment of a job in an engine's cache. -/
def segKey (s : State) (j : Job) : Nat × Nat × Nat := (j.ctx, j.variant, 4 * ((s.tile j.tile).ctx).elim 0 (·.2) + j.arr)

/-- The engine fetches the segment of a job. -/
def fetches (s : State) (engine : Nat) (parity : Bool) (j : Job) : Bool :=
  (jobSeg s j).isSome && (parity || !(s.flue engine).cache.contains (segKey s j))

/-- The engine of a DELTA job has counted it. -/
def deltaing (s : State) (engine : Nat) (parity : Bool) (j : Job) (late : Bool) : State :=
  (jobTaken s engine .delta j late).updFlue engine fun f => { f with
    nDel := f.nDel + 1, entries := f.entries + (deltaEntries s j).length,
    busy := f.busy + 8 + ((deltaEntries s j).length + 255) / 256 +
      (if fetches s engine parity j then fetchCycles ((jobSeg s j).getD []).length else 0),
    misses := f.misses + b2n (fetches s engine parity j),
    cache := if (jobSeg s j).isSome then
      cacheKeep (jobTaken s engine .delta j late) (segKey s j :: f.cache.filter (· != segKey s j)) 0 else f.cache }

theorem exec_delta_of_next {parity : Bool} (clocks : clocked s = true) (works : s.dev.st ≠ .failed)
    (next : nextJob s (s.flue engine) = some (j, late)) (ofKind : j.kind = .delta) : exec (.delta engine parity) s =
      .next (sendFlit (deltaing s engine parity j late) (.result j.tile j.bank j.issue .delta (deltaVals s j))) := by
  have ctx : (jobTaken s engine .delta j late).tile j.tile = s.tile j.tile := by simp only [State.tile, jobTaken_tiles]
  have cache : ((jobTaken s engine .delta j late).flue engine).cache = (s.flue engine).cache := by rw [jobTaken_flue]; exact Flue.setQueue_cache ..
  rw [exec_delta, execDelta, runJob_of_next clocks works next ofKind]
  simp only [jobSeg_jobTaken, ctx, cache]
  rfl

theorem get_foldl_put (j : Job) (es : List Delta) (m : SMap Int) (c : Nat) :
    get 0 (es.foldl (fun m e => put 0 m e.col (get 0 m e.col + deltaPart j e)) m) c =
      (es.filter fun e => e.col == c).foldl (fun n e => n + deltaPart j e) (get 0 m c) := by
  induction es generalizing m with
  | nil => rfl
  | cons e es ih =>
    rw [List.foldl_cons, ih]
    by_cases same : e.col = c
    · subst same
      simp [get_put_same]
    · simp [get_put_other _ _ _ (Ne.symm same), same]

theorem get_deltaVals (s : State) (j : Job) (c : Nat) : get 0 (deltaVals s j) c =
    (((jobSeg s j).getD []).filter fun e => decide (j.g0 ≤ e.row / 64 ∧ e.row / 64 ≤ j.g0 + j.gn) && e.col == c).foldl
      (fun n e => n + deltaPart j e) 0 := by
  rw [deltaVals, get_foldl_put, deltaEntries, List.filter_filter]
  simp only [Bool.and_comm]
  rfl

/-! ## Results, room and refusals -/

theorem updTile_congr {f g : Tile → Tile} {i : Nat} (same : f (s.tile i) = g (s.tile i)) : s.updTile i f = s.updTile i g := congrArg (s.setTile i) same

/-- The FIRE of a result that has entered its adders. -/
def Fire.returned (f : Fire) (kind : FlueKind) (vals : List (Nat × Int)) : Fire :=
  { f with adders := addVals f.adders vals, withheld := if kind = .recompute then f.withheld - 1 else f.withheld,
           jobs := if kind = .recompute then f.jobs else f.jobs - 1 }

/-- A result reaches its tile. -/
def Tile.arrive (y : Tile) (bank tag : Nat) (kind : FlueKind) (vals : List (Nat × Int)) : Tile :=
  match look (y.setOut kind (y.outOf kind - 1)).fires bank with
  | none => y.setOut kind (y.outOf kind - 1)
  | some f =>
    if f.tag ≠ tag then y.setOut kind (y.outOf kind - 1)
    else { (y.setOut kind (y.outOf kind - 1)) with fires := store (y.setOut kind (y.outOf kind - 1)).fires bank (some (f.returned kind vals)) }

section
variable {y : Tile} {f : Fire} {tag : Nat} {vals : List (Nat × Int)} (stands : look y.fires bank = some f)
include stands

theorem Tile.arrive_of_same (same : f.tag = tag) : y.arrive bank tag kind vals =
    { (y.setOut kind (y.outOf kind - 1)) with fires := store y.fires bank (some (f.returned kind vals)) } := by
  simp only [Tile.arrive, Tile.setOut_fires, stands]
  exact if_neg (not_not.mpr same)

theorem Tile.arrive_of_discarded (other : f.tag ≠ tag) : y.arrive bank tag kind vals = y.setOut kind (y.outOf kind - 1) := by
  simp only [Tile.arrive, Tile.setOut_fires, stands]
  exact if_pos other

theorem Tile.arrive_backlog : (y.arrive bank tag kind vals).backlog = y.backlog := by
  by_cases same : f.tag = tag
  · rw [Tile.arrive_of_same stands same]
    exact Tile.setOut_backlog ..
  · rw [Tile.arrive_of_discarded stands same, Tile.setOut_backlog]
end

theorem exec_flueResultArrival_of_caughtUp {tag : Nat} {vals : List (Nat × Int)} {l : List Flit} {f : Fire} (clocks : clocked s = true)
    (result : takeResult tile s.flits = some ((bank, tag, kind, vals), l)) (stands : look (s.tile tile).fires bank = some f)
    (caughtUp : (s.tile tile).backlog = []) : exec (.flueResultArrival tile) s =
      .next (({ s with flits := l } : State).updTile tile fun y => y.arrive bank tag kind vals) := by
  have left : ((({ s with flits := l } : State).updTile tile fun y => y.arrive bank tag kind vals).tile tile).backlog.length = 0 :=
    (updTile_tile _ _ _).symm ▸ congrArg List.length ((Tile.arrive_backlog stands).trans caughtUp)
  simp only [exec_flueResultArrival, execFlueResultArrival, clocks, result]
  exact congrArg Host.Outcome.next (congrArg (pumpJobs tile · _) left)

theorem offerJob_of_room (room : ((s.flue (engineFor s j)).queue j.kind).length < queueSize j.kind) : offerJob s j =
    s.setFlue (engineFor s j) ((s.flue (engineFor s j)).setQueue j.kind
      ((s.flue (engineFor s j)).queue j.kind ++ [{ j with arrived := s.dev.now }])) := if_pos room

/-- An engine that refuses a job. -/
def Flue.refuse (f : Flue) (j : Job) : Flue :=
  Flue.setWaiting { f with refused := f.refused ++ [j], holdOffs := f.holdOffs + 1 } j.kind
    (if (Flue.waiting { f with refused := f.refused ++ [j], holdOffs := f.holdOffs + 1 } j.kind).contains j.tile then
      Flue.waiting { f with refused := f.refused ++ [j], holdOffs := f.holdOffs + 1 } j.kind
    else Flue.waiting { f with refused := f.refused ++ [j], holdOffs := f.holdOffs + 1 } j.kind ++ [j.tile])

@[simp] theorem Flue.refuse_refused (f : Flue) (j : Job) : (f.refuse j).refused = f.refused ++ [j] := Flue.setWaiting_refused ..
@[simp] theorem Flue.refuse_holdOffs (f : Flue) (j : Job) : (f.refuse j).holdOffs = f.holdOffs + 1 := Flue.setWaiting_holdOffs ..

theorem Flue.mem_refuse_waiting (f : Flue) (j : Job) : j.tile ∈ (f.refuse j).waiting j.kind := by
  rw [Flue.refuse, Flue.waiting_setWaiting]
  split
  next listed => exact List.contains_iff_mem.mp listed
  next => exact List.mem_append_right _ (List.mem_singleton_self _)

theorem offerJob_of_full (full : queueSize j.kind ≤ ((s.flue (engineFor s j)).queue j.kind).length) : offerJob s j =
    (s.setFlue (engineFor s j) ((s.flue (engineFor s j)).refuse j)).updTile j.tile fun t => { t with held := t.held + 1 } :=
  if_neg (not_lt.mpr full)

theorem heldBack_of_held {y : Tile} (held : 0 < y.held) : heldBack y = true := by simp [heldBack, held]

/-- The refused jobs of a tile and kind. -/
def refusedOf (f : Flue) (t : Nat) (kind : FlueKind) : List Job := f.refused.filter fun j => j.tile == t && j.kind == kind

/-- An engine that has freed a waiting tile. -/
def Flue.freed (f : Flue) (t : Nat) (kind : FlueKind) : Flue :=
  { (f.setWaiting kind ((f.waiting kind).filter (· != t))) with refused := f.refused.filter (fun j => !(j.tile == t && j.kind == kind)), lastFreed := t }

theorem exec_freeFlue_of_waiting (clocks : clocked s = true) (works : s.dev.st ≠ .failed)
    (room : ((s.flue engine).queue kind).length < queueSize kind) (waits : nextWaiting ((s.flue engine).waiting kind) (s.flue engine).lastFreed = some t) :
    exec (.freeFlue engine kind) s = .next ((refusedOf (s.flue engine) t kind).foldl offerJob
      ((s.setFlue engine ((s.flue engine).freed t kind)).updTile t fun y =>
        { y with held := y.held - (refusedOf (s.flue engine) t kind).length })) := by
  have runs : (!clocked s || s.dev.st == .failed || decide (((s.flue engine).queue kind).length ≥ queueSize kind)) = false := by
    simp [clocks, works, room]
  simp only [exec_freeFlue, execFreeFlue, runs, waits]
  rfl

theorem exec_freeFlue_of_full (full : queueSize kind ≤ ((s.flue engine).queue kind).length) : exec (.freeFlue engine kind) s = .next s := by
  have stands : (!clocked s || s.dev.st == .failed || decide (((s.flue engine).queue kind).length ≥ queueSize kind)) = true := by simp [full]
  simp only [exec_freeFlue, execFreeFlue, stands, if_true]

theorem nextWaiting_eq (l : List Nat) (last : Nat) :
    nextWaiting l last = (if (l.filter fun t => decide (last < t)) = [] then l else l.filter fun t => decide (last < t)).min? := by
  simp only [nextWaiting]
  cases (if (l.filter fun t => decide (last < t)) = [] then l else l.filter fun t => decide (last < t)) with
  | nil => rfl
  | cons t r => exact List.min?_cons'.symm

theorem nextWaiting_least {l : List Nat} {last : Nat} (h : nextWaiting l last = some t) :
    t ∈ l ∧ (last < t → ∀ u ∈ l, last < u → t ≤ u) ∧ (t ≤ last → ∀ u ∈ l, u ≤ last ∧ t ≤ u) := by
  rw [nextWaiting_eq] at h
  split at h
  next none_ =>
    obtain ⟨mem, least⟩ := List.min?_eq_some_iff.mp h
    have below : ∀ u ∈ l, u ≤ last := fun u hu => by simpa using List.filter_eq_nil_iff.mp none_ u hu
    exact ⟨mem, fun _ u hu _ => least u hu, fun _ u hu => ⟨below u hu, least u hu⟩⟩
  next =>
    obtain ⟨mem, least⟩ := List.min?_eq_some_iff.mp h
    obtain ⟨listed, above⟩ := List.mem_filter.mp mem
    refine ⟨listed, fun _ u hu later => least u (List.mem_filter.mpr ⟨hu, decide_eq_true later⟩), fun early => ?_⟩
    exact absurd (of_decide_eq_true above) (not_lt.mpr early)

/-- Settles O38: an engine whose next job is of the kind runs it, job by job and read by read; results, refusals and room follow the queue. -/
theorem flueJobsAndReturns : Obligations.FlueJobsAndReturns := by
  refine ⟨⟨?recompute, fun _ _ _ _ => mem_faultRows, ?release, ?outlier, ?delta⟩, ?result, ?offer, ?free, fun _ _ _ full => exec_freeFlue_of_full full,
    fun _ _ _ h => nextWaiting_least h⟩
  case recompute =>
    intro s engine reads j late clocks works next ofKind
    refine ⟨recomputing s engine j late, rfl, fun agrees => ?_, fun differs faulted => ?_, fun differs clean third => ?_, fun row l differs clean third => ?_⟩
    · exact exec_recompute_of_agreed clocks works next ofKind rfl agrees
    · exact exec_recompute_of_faults clocks works next ofKind rfl differs rfl faulted
    · exact exec_recompute_of_clean clocks works next ofKind rfl differs clean third
    · exact exec_recompute_of_hard clocks works next ofKind rfl differs clean third
  case release =>
    rintro s j rows data l rfl rfl
    rfl
  case outlier =>
    intro s engine j late clocks works next ofKind
    refine ⟨_, exec_outlier_of_next clocks works next ofKind, ?_⟩
    refine ⟨by simp [outlying], by simp [outlying, jobTaken_flue, Flue.setQueue], by simp [outlying, jobTaken_flue, Flue.setQueue, Flue.queue],
      by simp [outlying], by simp [outlying], by simp [outlying]⟩
  case delta =>
    intro s engine parity j late clocks works next ofKind
    refine ⟨_, deltaVals s j, exec_delta_of_next clocks works next ofKind, ?_⟩
    refine ⟨by simp [deltaing], by simp [deltaing, jobTaken_flue, Flue.setQueue], ?_, get_deltaVals s j, by simp [deltaing], by simp [deltaing],
      by simp [deltaing]⟩
    rintro ct rfl
    simp only [sendFlit_flue, deltaing, updFlue_flue, jobTaken_flue, Flue.setQueue_misses]
    rfl
  case result =>
    intro s tile bank tag kind vals l f clocks result stands caughtUp
    rw [exec_flueResultArrival_of_caughtUp clocks result stands caughtUp]
    exact ⟨fun same => congrArg _ (updTile_congr (Tile.arrive_of_same stands same)),
      fun other => congrArg _ (updTile_congr (Tile.arrive_of_discarded stands other))⟩
  case offer =>
    rintro s j e rfl
    refine ⟨fun room => ?_, fun full => ?_⟩
    · rw [offerJob_of_room room, setFlue_flue, Flue.queue_setQueue]
      exact ⟨rfl, State.setFlue_tiles ..⟩
    · rw [offerJob_of_full full]
      have held : ((s.setFlue (engineFor s j) ((s.flue (engineFor s j)).refuse j)).tile j.tile).held = (s.tile j.tile).held := by
        simp only [State.tile, State.setFlue_tiles]
      refine ⟨by simp, by simp, ?_, ?_, heldBack_of_held ?_⟩
      · rw [updTile_flue, setFlue_flue]
        exact Flue.mem_refuse_waiting _ _
      · rw [updTile_tile, held]
      · rw [updTile_tile]
        exact Nat.succ_pos _
  case free =>
    intro s engine t kind clocks works room waits
    exact ⟨_, rfl, exec_freeFlue_of_waiting clocks works room waits⟩

end Sys2Proof.Machine
end

section
/-! Storage repair, the scrub and the windows of the mismatch rate (03_arrays R76 to R79, R81 to R87). -/

namespace Sys2Proof.Machine

variable {s : State} {tile array row source was good : Nat} {reads : List RowRead} {r : Repair} {β : Type}

/-! ## Errors that change nothing but the error registers or fail the device -/

@[simp] theorem enterFailed_arrs (s : State) (domain cause unit detail : Nat) : (enterFailed s domain cause unit detail).arrs = s.arrs := by
  unfold enterFailed
  split <;> simp

theorem raiseErr_frame {g : State → β} {e : ErrIn} (err : ∀ s f, g (State.updErr s f) = g s) (logs : ∀ s c d x, g (logEvent s c d x) = g s)
    (failed : ∀ s d c u x, g (enterFailed s d c u x) = g s) (act : ∀ s, g (runAct s e) = g s) (s : State) : g (raiseErr s e) = g s := by
  simp only [raiseErr]
  split
  · rfl
  split
  · rw [failed, err]
  split
  · rw [startHandler, act, err, err]
  split
  · split
    · rw [err, err]
    · rw [nestedErr, failed, logs, err]
  split
  · rw [failed, logs, err]
  · rw [err, err]

theorem runAct_arrs_of_local {e : ErrIn} (isLocal : e.act = .fatal ∨ e.act = .elsewhere) (s : State) : (runAct s e).arrs = s.arrs := by
  rcases isLocal with act | act <;> simp [runAct, act]

theorem raiseErr_arrs_of_local {e : ErrIn} (isLocal : e.act = .fatal ∨ e.act = .elsewhere) (s : State) : (raiseErr s e).arrs = s.arrs :=
  raiseErr_frame (g := (·.arrs)) (by simp) (by simp) (by simp) (runAct_arrs_of_local isLocal) s

theorem raiseErr_arr_of_local {e : ErrIn} (isLocal : e.act = .fatal ∨ e.act = .elsewhere) (s : State) (i : Nat) : (raiseErr s e).arr i = s.arr i := by
  simp only [State.arr, raiseErr_arrs_of_local isLocal]

/-! ## Reports -/

theorem exec_storageReport_of_caughtUp {l : List Flit} (clocks : clocked s = true) (report : takeStorage tile s.flits = some (r, l))
    (caughtUp : (s.tile tile).backlog = []) : exec (.storageReport tile) s = .next (({ s with flits := l } : State).updTile tile fun y =>
      { y with outRecompute := y.outRecompute - 1, repairs := y.repairs ++ [r] }) := by
  have left : ((({ s with flits := l } : State).updTile tile fun y =>
      { y with outRecompute := y.outRecompute - 1, repairs := y.repairs ++ [r] }).tile tile).backlog.length = 0 :=
    (updTile_tile _ _ _).symm ▸ congrArg List.length caughtUp
  simp only [exec_storageReport, execStorageReport, clocks, report]
  exact congrArg Host.Outcome.next (congrArg (pumpJobs tile · _) left)

/-! ## Repairing a row -/

theorem setRow_frame {g : State → β} (cells : ∀ (s : State) c, g { s with cells := c } = g s) (s : State) (array row v : Nat) :
    g (setRow s array row v) = g s := by
  unfold setRow
  split
  · rfl
  · exact cells _ _

@[simp] theorem logEvent_arr (s : State) (c d x i : Nat) : (logEvent s c d x).arr i = s.arr i := by simp only [State.arr, logEvent_arrs]

/-- A row of an array that has been rewritten. -/
def mended (s : State) (array row source was good : Nat) : State :=
  logEvent ((setRow s array row good).updArr array fun a => { a with
    repairs := store a.repairs row (some (setRow s array row good).dev.now),
    gateRepairs := a.gateRepairs + b2n (source == 0), scrubRepairs := a.scrubRepairs + b2n (source == 1 || source == 4) })
    0x4002 3 (arrData array row source (badSets was) 0)

theorem mended_frame {g : State → β} (cells : ∀ (s : State) c, g { s with cells := c } = g s) (arr : ∀ s i f, g (State.updArr s i f) = g s)
    (logs : ∀ s c d x, g (logEvent s c d x) = g s) : g (mended s array row source was good) = g s := by
  rw [mended, logs, arr, setRow_frame cells]

@[simp] theorem mended_dev : (mended s array row source was good).dev = s.dev := mended_frame (g := (·.dev)) (by simp) (by simp) (by simp)
@[simp] theorem mended_gold : (mended s array row source was good).gold = s.gold := mended_frame (g := (·.gold)) (by simp) (by simp) (by simp)
@[simp] theorem mended_tiles : (mended s array row source was good).tiles = s.tiles := mended_frame (g := (·.tiles)) (by simp) (by simp) (by simp)
@[simp] theorem mended_flits : (mended s array row source was good).flits = s.flits := mended_frame (g := (·.flits)) (by simp) (by simp) (by simp)
@[simp] theorem mended_hostMem : (mended s array row source was good).hostMem = s.hostMem := mended_frame (g := (·.hostMem)) (by simp) (by simp) (by simp)
@[simp] theorem mended_cal : (mended s array row source was good).cal = s.cal := mended_frame (g := (·.cal)) (by simp) (by simp) (by simp)
@[simp] theorem mended_test : (mended s array row source was good).test = s.test := mended_frame (g := (·.test)) (by simp) (by simp) (by simp)
@[simp] theorem mended_sweep : (mended s array row source was good).sweep = s.sweep := mended_frame (g := (·.sweep)) (by simp) (by simp) (by simp)
@[simp] theorem mended_cells : (mended s array row source was good).cells = (setRow s array row good).cells := by simp [mended]

@[simp] theorem mended_goldOf (a k : Nat) : goldOf (mended s array row source was good) a k = goldOf s a k := by simp [goldOf]
@[simp] theorem mended_calHolds (a : Nat) : calHolds (mended s array row source was good) a = calHolds s a := by simp [calHolds]
@[simp] theorem mended_sweepRow (a k : Nat) : sweepRow (mended s array row source was good) a k = sweepRow s a k := by
  unfold sweepRow
  rw [mended_sweep]

@[simp] theorem mended_gateRepairs :
    ((mended s array row source was good).arr array).gateRepairs = (s.arr array).gateRepairs + b2n (source == 0) := by
  simp only [mended, logEvent_arr, updArr_arr]
  exact congrArg (·.gateRepairs + _) (setRow_frame (g := fun s => s.arr array) (fun _ _ => rfl) s array row good)

theorem mended_repairs : ((mended s array row source was good).arr array).repairs = store (s.arr array).repairs row (some s.dev.now) := by
  have arrs := setRow_frame (g := fun s => s.arr array) (fun _ _ => rfl) s array row good
  have dev := setRow_frame (g := (·.dev)) (fun _ _ => rfl) s array row good
  simp only [mended, logEvent_arr, updArr_arr]
  rw [arrs, dev]

theorem mended_repairs_same : look ((mended s array row source was good).arr array).repairs row = some s.dev.now := by
  rw [mended_repairs, look, store, get_put_same]

theorem mended_repairs_other {k : Nat} (ne : k ≠ row) :
    look ((mended s array row source was good).arr array).repairs k = look (s.arr array).repairs k := by
  rw [mended_repairs, look, store, get_put_other _ _ _ ne]

theorem rowOf_mended_data (isData : row < 1024) : rowOf (mended s array row source was good) array row = good := by
  rw [rowOf, if_neg (not_le.mpr isData), mended_cells, setRow, if_neg (not_le.mpr isData), nat, get_put_same]

theorem rowOf_mended_sweep (beyond : 1024 ≤ row) (free : calHolds s array = false) :
    rowOf (mended s array row source was good) array row = sweepRow s array row := by
  rw [rowOf, if_pos beyond, mended_calHolds, free, if_neg Bool.false_ne_true, mended_sweepRow]

theorem rowOf_mended_other {a k : Nat} (isData : row < 1024) (isData' : k < 1024) (other : a ≠ array ∨ k ≠ row) :
    rowOf (mended s array row source was good) a k = rowOf s a k := by
  have ne : cellKey a k ≠ cellKey array row := by unfold cellKey; omega
  rw [rowOf, rowOf, if_neg (not_le.mpr isData'), if_neg (not_le.mpr isData'), mended_cells, setRow, if_neg (not_le.mpr isData), nat,
    get_put_other _ _ _ ne]

/-- What a row of an array should hold. -/
def goodRow (s : State) (array row : Nat) : Nat := if row ≥ 1024 then sweepRow s array row else mkRow (goldOf s array row)

theorem goodRow_of_data (isData : row < 1024) : goodRow s array row = mkRow (goldOf s array row) := if_neg (not_le.mpr isData)

/-- The row was not repaired within 60 s. -/
def Rested (s : State) (array row : Nat) : Prop := ∀ t, look (s.arr array).repairs row = some t → t + 6000000000 ≤ s.dev.now

theorem again_of_rested (rested : Rested s array row) :
    (match look (s.arr array).repairs row with
      | none => false
      | some t => decide (s.dev.now < t + 6000000000)) = false := by
  cases h : look (s.arr array).repairs row with
  | none => rfl
  | some t => exact decide_eq_false (not_lt.mpr (rested t h))

/-- A row that was not repaired lately is rewritten, and what reads back tells whether the device still works. -/
theorem repairRow_of_rested (rested : Rested s array row) (back : Option Nat) : repairRow s array row source was back =
    if back.getD (goodRow s array row) ≠ goodRow s array row then
      (hardFault (mended s array row source was (goodRow s array row)) array row 3 (badSets was), false)
    else (mended s array row source was (goodRow s array row), true) :=
  if_neg (Bool.eq_false_iff.mp (again_of_rested rested))

theorem repairRow_of_same (rested : Rested s array row) {back : Option Nat} (same : ∀ b, back = some b → b = goodRow s array row) :
    repairRow s array row source was back = (mended s array row source was (goodRow s array row), true) := by
  have reads : back.getD (goodRow s array row) = goodRow s array row := by
    cases back with
    | none => rfl
    | some b => exact same b rfl
  rw [repairRow_of_rested rested, if_neg (not_not.mpr reads)]

theorem repairRow_of_again {t : Nat} (at_ : look (s.arr array).repairs row = some t) (again : s.dev.now < t + 6000000000) (back : Option Nat) :
    repairRow s array row source was back = (hardFault s array row source (badSets was), false) := by
  simp only [repairRow, at_, again, decide_true, if_true]

/-! ## A repair -/

/-- A row of a repair is rewritten from the golden copy. -/
def mendRow (array : Nat) (s : State) (e : Nat × Nat) : State := mended s array e.1 0 e.2 (mkRow (goldOf s array e.1))

/-- A row of a repair can be rewritten: it is a data row, not repaired lately, and reads back as written. -/
def Mendable (s : State) (array : Nat) (reads : List RowRead) (e : Nat × Nat) : Prop :=
  e.1 < 1024 ∧ Rested s array e.1 ∧ ∀ back, readOf reads 0 e.1 = some back → back = mkRow (goldOf s array e.1)

theorem Mendable.mendRow {e x : Nat × Nat} (h : Mendable s array reads e) (ne : e.1 ≠ x.1) : Mendable (mendRow array s x) array reads e := by
  obtain ⟨isData, rested, same⟩ := h
  refine ⟨isData, fun t ht => ?_, fun back read => ?_⟩
  · rw [Machine.mendRow, mended_repairs_other ne] at ht
    rw [Machine.mendRow, mended_dev]
    exact rested t ht
  · rw [Machine.mendRow, mended_goldOf]
    exact same back read

/-- The rows of a repair one after the other, as long as the device works. -/
def repairRows (s : State) (array : Nat) (reads : List RowRead) (l : List (Nat × Nat)) : State × Bool :=
  l.foldl (fun (st : State × Bool) row => if st.2 then repairRow st.1 array row.1 0 row.2 (readOf reads 0 row.1) else st) (s, true)

theorem repairRows_of_mendable {l : List (Nat × Nat)} (once : (l.map (·.1)).Nodup) (mendable : ∀ e ∈ l, Mendable s array reads e) :
    repairRows s array reads l = (l.foldl (mendRow array) s, true) := by
  induction l generalizing s with
  | nil => rfl
  | cons x l ih =>
    obtain ⟨fresh, once⟩ := List.nodup_cons.mp once
    obtain ⟨isData, rested, same⟩ := mendable x List.mem_cons_self
    have first : repairRow s array x.1 0 x.2 (readOf reads 0 x.1) = (mendRow array s x, true) := by
      rw [repairRow_of_same rested (fun b hb => (same b hb).trans (goodRow_of_data isData).symm), goodRow_of_data isData]
      rfl
    have rest := ih once fun e he => (mendable e (List.mem_cons_of_mem _ he)).mendRow fun eq => fresh (List.mem_map.mpr ⟨e, he, eq⟩)
    rw [repairRows, List.foldl_cons, if_pos rfl, first]
    exact rest

theorem repairRows_of_again {t : Nat} {l : List (Nat × Nat)} (at_ : look (s.arr array).repairs row = some t)
    (again : s.dev.now < t + 6000000000) : repairRows s array reads ((row, was) :: l) = (hardFault s array row 0 (badSets was), false) := by
  rw [repairRows, List.foldl_cons, if_pos rfl, repairRow_of_again at_ again]
  induction l with
  | nil => rfl
  | cons x l ih => exact ih

theorem mendRows_frame {g : State → β} (cells : ∀ (s : State) c, g { s with cells := c } = g s) (arr : ∀ s i f, g (State.updArr s i f) = g s)
    (logs : ∀ s c d x, g (logEvent s c d x) = g s) (l : List (Nat × Nat)) : g (l.foldl (mendRow array) s) = g s :=
  foldl_field g (fun _ _ => mended_frame cells arr logs) _ _

theorem mendRows_gateRepairs (l : List (Nat × Nat)) :
    ((l.foldl (mendRow array) s).arr array).gateRepairs = (s.arr array).gateRepairs + l.length := by
  induction l generalizing s with
  | nil => rfl
  | cons x l ih =>
    rw [List.foldl_cons, ih, mendRow, mended_gateRepairs, List.length_cons, Nat.add_comm l.length, ← Nat.add_assoc]
    rfl

theorem rowOf_mendRows_other {a k : Nat} {l : List (Nat × Nat)} (data : ∀ e ∈ l, e.1 < 1024) (isData : k < 1024)
    (other : a ≠ array ∨ k ∉ l.map (·.1)) : rowOf (l.foldl (mendRow array) s) a k = rowOf s a k := by
  induction l generalizing s with
  | nil => rfl
  | cons x l ih =>
    have others : a ≠ array ∨ k ≠ x.1 ∧ k ∉ l.map (·.1) := by simpa using other
    rw [List.foldl_cons, ih (fun e he => data e (List.mem_cons_of_mem _ he)) (others.imp_right And.right), mendRow,
      rowOf_mended_other (data x List.mem_cons_self) isData (others.imp_right And.left)]

theorem repairs_mendRows_other {k : Nat} {l : List (Nat × Nat)} (other : k ∉ l.map (·.1)) :
    look ((l.foldl (mendRow array) s).arr array).repairs k = look (s.arr array).repairs k := by
  induction l generalizing s with
  | nil => rfl
  | cons x l ih =>
    obtain ⟨ne, other⟩ : k ≠ x.1 ∧ k ∉ l.map (·.1) := by simpa using other
    rw [List.foldl_cons, ih other, mendRow, mended_repairs_other ne]

theorem mendRows_mends {l : List (Nat × Nat)} (once : (l.map (·.1)).Nodup) (data : ∀ e ∈ l, e.1 < 1024) {e : Nat × Nat} (mem : e ∈ l) :
    rowOf (l.foldl (mendRow array) s) array e.1 = mkRow (goldOf s array e.1) ∧
      look ((l.foldl (mendRow array) s).arr array).repairs e.1 = some s.dev.now := by
  induction l generalizing s with
  | nil => cases mem
  | cons x l ih =>
    obtain ⟨fresh, once⟩ := List.nodup_cons.mp once
    have data' : ∀ e ∈ l, e.1 < 1024 := fun e he => data e (List.mem_cons_of_mem _ he)
    rw [List.foldl_cons]
    rcases List.mem_cons.mp mem with rfl | later
    · rw [rowOf_mendRows_other data' (data _ mem) (.inr fresh), repairs_mendRows_other fresh]
      exact ⟨rowOf_mended_data (data _ mem), mended_repairs_same⟩
    · obtain ⟨held, noted⟩ := ih (s := mendRow array s x) once data' later
      rw [held, noted, mendRow, mended_goldOf, mended_dev]
      exact ⟨rfl, rfl⟩

section
variable (clocks : clocked s = true) (works : s.dev.st ≠ .failed)
  (pending : ((s.tile (array / 4)).repairs.find? fun r => r.arr == array % 4) = some r)
include clocks works pending

theorem exec_storageRepair_of_repaired {t : State} (repaired : repairRows s array reads r.rows = (t, true)) : exec (.storageRepair array reads) s =
    .next (refire (rewritten (t.updTile (array / 4) fun y => { y with repairs := y.repairs.erase r }) (array / 4) r.arr (r.rows.map (·.1)))
      (array / 4) r) := by
  have runs : (!clocked s || s.dev.st == .failed) = false := by simp [clocks, works]
  unfold repairRows at repaired
  simp only [exec_storageRepair, execStorageRepair, pending, runs, repaired, Bool.false_eq_true, if_false]
  rfl

theorem exec_storageRepair_of_fault {t : State} (faulted : repairRows s array reads r.rows = (t, false)) :
    exec (.storageRepair array reads) s = .next t := by
  have runs : (!clocked s || s.dev.st == .failed) = false := by simp [clocks, works]
  unfold repairRows at faulted
  simp only [exec_storageRepair, execStorageRepair, pending, runs, faulted, Bool.false_eq_true, if_false]
  rfl
end

theorem refire_of_none {t : Nat} (gone : look (s.tile t).fires r.bank = none) : refire s t r = s := by simp only [refire, gone]

/-! ## The scrub and the windows -/

/-- An array whose scrub has gone on to the next row. -/
def scrubbed (s : State) (array : Nat) : State := s.updArr array fun a => { a with scrubRow := ((s.arr array).scrubRow + 1) % 1088 }

theorem scrubbed_calHolds : calHolds (scrubbed s array) array = calHolds s array := by simp [calHolds, scrubbed]

theorem execScrubRow_eq (clocks : clocked s = true) (open_ : s.dev.st = .maintenance ∨ s.dev.st = .service ∨ s.dev.st = .sleep) :
    exec (.scrubRow array reads) s = .next (if (s.arr array).scrubRow ≥ 1024 ∧ calHolds s array = true then scrubbed s array
      else if badSets ((readOf reads 0 (s.arr array).scrubRow).getD (rowOf (scrubbed s array) array (s.arr array).scrubRow)) = 0 then scrubbed s array
      else (repairRow (scrubbed s array) array (s.arr array).scrubRow 1
        ((readOf reads 0 (s.arr array).scrubRow).getD (rowOf (scrubbed s array) array (s.arr array).scrubRow))
        (readOf reads 1 (s.arr array).scrubRow)).1) := by
  have runs : (!clocked s || !(s.dev.st == .maintenance || s.dev.st == .service || s.dev.st == .sleep)) = false := by
    rcases open_ with st | st | st <;> simp [clocks, st]
  simp only [exec_scrubRow, execScrubRow, runs]
  rw [if_neg Bool.false_ne_true, ← scrubbed_calHolds]
  rfl

theorem exec_windowClose_of_clocked (clocks : clocked s = true) (works : s.dev.st ≠ .failed) :
    exec (.windowClose array) s = .next (closeIfFull s array) := by
  have runs : (!clocked s || s.dev.st == .failed) = false := by simp [clocks, works]
  simp only [exec_windowClose, execWindowClose, runs]
  rfl

/-- An array whose window has closed. -/
def Arr.closed (a : Arr) : Arr :=
  { a with
    lastFails := a.wFails, windows := a.windows + 1, sigma := sigmaOf a.wHist, undet := nlog2Of (undetectedRate a.wFails a.wHist),
    drift := a.drift || decide (a.wTally > 256), overLimit := decide (a.wFails > 1024), judging := a.judgeNext, judgeNext := false,
    wChecks := 0, wFails := 0, wTally := 0, wHist := [] }

theorem closeWindow_of_within (within : (s.arr array).wFails ≤ 1024) : closeWindow s array = s.setArr array (s.arr array).closed := by
  have under : (!decide ((s.arr array).wFails > 1024)) = true := by simp [within]
  simp only [closeWindow]
  rw [if_pos under]
  rfl

@[simp] theorem setArr_arr (s : State) (i : Nat) (a : Arr) : (s.setArr i a).arr i = a := updArr_arr s i fun _ => a

theorem closeWindow_arr_of_above (above : 1024 < (s.arr array).wFails) : (closeWindow s array).arr array =
    if (s.arr array).judging = true ∨ (s.arr array).recal = true ∨ (s.arr array).judgeNext = true then (s.arr array).closed
    else { (s.arr array).closed with recal := true, recalPos := 0 } := by
  have over_ : (!decide ((s.arr array).wFails > 1024)) = false := by simp [above]
  simp only [closeWindow]
  rw [if_neg (Bool.eq_false_iff.mp over_)]
  cases judging : (s.arr array).judging with
  | true =>
    rw [if_pos rfl, raiseErr_arr_of_local (.inl rfl), setArr_arr, if_pos (.inl rfl), Arr.closed]
  | false =>
    cases later : ((s.arr array).recal || (s.arr array).judgeNext) with
    | true =>
      rw [if_neg Bool.false_ne_true, if_pos rfl, setArr_arr, if_pos (.inr (by simpa using later)), Arr.closed]
    | false =>
      rw [if_neg Bool.false_ne_true, if_neg Bool.false_ne_true, raiseErr_arr_of_local (.inr rfl), setArr_arr, if_neg (by simpa using later), Arr.closed]

/-- Settles O39: a repair rewrites row after row, none of which another row of it touches; a window's end is the closed array, in a
recalibration where it was above its limit. -/
theorem repairAndWindows : Obligations.RepairAndWindows := by
  refine ⟨fun _ _ _ _ clocks report caughtUp => exec_storageReport_of_caughtUp clocks report caughtUp, ?repair, ?again, ?refire,
    fun _ _ _ gone => refire_of_none gone, ?row, ?scrub, ?close, ?within, ?above⟩
  case repair =>
    intro s array reads r clocks works pending once mendable
    have data : ∀ e ∈ r.rows, e.1 < 1024 := fun e he => (mendable e he).1
    refine ⟨_, exec_storageRepair_of_repaired clocks works pending (repairRows_of_mendable once mendable), ?_, ?_, ?_, ?_,
      mendRows_gateRepairs r.rows, fun e he => mendRows_mends once data he, fun a k isData other _ _ => rowOf_mendRows_other data isData other⟩
    · exact mendRows_frame (g := (·.tiles)) (by simp) (by simp) (by simp) _
    · exact mendRows_frame (g := (·.flits)) (by simp) (by simp) (by simp) _
    · exact mendRows_frame (g := (·.hostMem)) (by simp) (by simp) (by simp) _
    · exact mendRows_frame (g := (·.dev)) (by simp) (by simp) (by simp) _
  case again =>
    intro s array row was reads r l t clocks works pending rows at_ again
    exact exec_storageRepair_of_fault clocks works pending (rows ▸ repairRows_of_again at_ again)
  case refire =>
    intro s t r f stands sameDisp sameIssue current
    simp only [refire, stands]
    rw [if_pos ⟨sameDisp, sameIssue, current⟩]
    cases (s.tile t).exec <;> rfl
  case row =>
    rintro s array row source was good rfl
    refine ⟨fun rested => ?_, fun t back at_ again => repairRow_of_again at_ again back⟩
    have read := repairRow_of_same (source := source) (was := was) (back := none) rested (fun _ h => nomatch h)
    rw [read]
    refine ⟨rfl, fun free => ?_, mended_gateRepairs, mended_repairs_same, fun back differs => ?_⟩
    · by_cases isData : row < 1024
      · exact rowOf_mended_data isData
      · rw [rowOf_mended_sweep (not_lt.mp isData) (free.resolve_left isData), if_pos (not_lt.mp isData)]
    · rw [repairRow_of_rested rested]
      exact congrArg Prod.snd (if_pos differs)
  case scrub =>
    rintro s array row was reads t clocks open_ rfl rfl rfl
    rw [execScrubRow_eq clocks open_]
    refine ⟨fun beyond holds => congrArg _ (if_pos ⟨beyond, holds⟩), fun free => ?_⟩
    have notHeld : ¬((s.arr array).scrubRow ≥ 1024 ∧ calHolds s array = true) := fun ⟨beyond, holds⟩ =>
      free.elim (not_lt.mpr beyond) fun h => Bool.false_ne_true (h.symm.trans holds)
    rw [if_neg notHeld]
    exact ⟨fun good => congrArg _ (if_pos good), fun bad => congrArg _ (if_neg bad)⟩
  case close =>
    intro s array clocks works
    rw [exec_windowClose_of_clocked clocks works]
    exact ⟨fun full => congrArg _ (if_pos full), fun room => congrArg _ (closeIfFull_of_room room)⟩
  case within =>
    intro s array within
    exact ⟨_, closeWindow_of_within within, rfl, rfl, decide_eq_false (not_lt.mpr within), rfl, rfl, rfl, rfl, rfl, rfl, rfl, rfl⟩
  case above =>
    intro s array above
    rw [closeWindow_arr_of_above above]
    refine ⟨?_, fun judging recal judgeNext => ?_⟩
    · split <;> exact decide_eq_true above
    · rw [judging, recal, judgeNext, if_neg (by simp)]

end Sys2Proof.Machine
end

section
/-! CAL_RUN and its schedule (04_calibration R91 to R100). -/

namespace Sys2Proof.Machine

variable {s : State} {ring seq : Nat} {c : Cmd} {r : CalRun} {β : Type}

/-! ## Fits -/

theorem fitReason_eq_none {f : Fit} : fitReason f = none ↔ f.leftOut ≤ 4 ∧ (trimsOf f.a f.b).isSome = true ∧ f.nonlinear = false := by
  unfold fitReason
  split
  next many => simp [not_le.mpr many]
  next few =>
    split
    next untrimmed => simp [Option.isNone_iff_eq_none.mp untrimmed]
    next trimmed =>
      have some_ : (trimsOf f.a f.b).isSome = true := by simpa [Option.isSome_iff_ne_none] using trimmed
      cases f.nonlinear <;> simp [some_, not_lt.mp few]

theorem attemptReason_eq_none {f g : Fit} : attemptReason f g = none ↔
    fitReason f = none ∧ fitReason g = none ∧ |f.a - g.a| ≤ 1 / 20 ∧ |f.b - g.b| ≤ f.b / 1000 := by
  unfold attemptReason
  cases fitReason f with
  | some x => simp
  | none =>
    cases fitReason g with
    | some x => simp
    | none =>
      simp only [true_and]
      split
      next apart => exact ⟨fun h => (nomatch h), fun ⟨within, _⟩ => absurd within (not_le.mpr apart)⟩
      next close =>
        split
        next apart => exact ⟨fun h => (nomatch h), fun ⟨_, within⟩ => absurd within (not_le.mpr apart)⟩
        next close' => exact ⟨fun _ => ⟨not_lt.mp close, not_lt.mp close'⟩, fun _ => rfl⟩

theorem mem_fitPoints {n : Nat} {ms : List LevelMeas} {l : Nat} {k : Rat} : (l, k) ∈ fitPoints n ms ↔
    l < 65 ∧ ∃ m, m = ms[l]?.getD { sum := 0, clipped := n } ∧ 100 * m.clipped ≤ n ∧ k = (m.sum : Rat) / (n : Rat) := by
  simp only [fitPoints, List.mem_filterMap, List.mem_range, Option.ite_none_right_eq_some, Option.some.injEq, Prod.mk.injEq]
  constructor
  · rintro ⟨l, hl, within, rfl, rfl⟩
    exact ⟨hl, _, rfl, within, rfl⟩
  · rintro ⟨hl, m, rfl, within, rfl⟩
    exact ⟨l, hl, within, rfl, rfl⟩

/-- The sum of what a line leaves of the mean codes. -/
theorem sum_residuals (ps : List Point) (a b : Rat) : (ps.map fun p => p.2 - (a + b * p.1)).sum =
    (ps.map (·.2)).sum - (ps.length * a + b * (ps.map fun p => (p.1 : Rat)).sum) := by
  induction ps with
  | nil => simp
  | cons p ps ih =>
    simp only [List.map_cons, List.sum_cons, ih, List.length_cons]
    push_cast
    ring

theorem sum_weighted_residuals (ps : List Point) (a b : Rat) : (ps.map fun p => (p.1 : Rat) * (p.2 - (a + b * p.1))).sum =
    (ps.map fun p => (p.1 : Rat) * p.2).sum -
      (a * (ps.map fun p => (p.1 : Rat)).sum + b * (ps.map fun p => (p.1 : Rat) * p.1).sum) := by
  induction ps with
  | nil => simp
  | cons p ps ih =>
    simp only [List.map_cons, List.sum_cons, ih]
    ring

/-- The second normal equation of a least-squares line, of its sums. -/
theorem normal_of_slope {n sl sk sll slk b : Rat} (points : n ≠ 0) (slope : b * (n * sll - sl * sl) = n * slk - sl * sk) :
    slk - ((sk - b * sl) / n * sl + b * sll) = 0 := by
  field_simp
  linear_combination -slope

theorem leastSquares_normal {ps : List Point} {a b : Rat} (line : leastSquares ps = (a, b)) (spread : (ps.length : Rat) *
      (ps.map fun p => (p.1 : Rat) * p.1).sum ≠ (ps.map fun p => (p.1 : Rat)).sum * (ps.map fun p => (p.1 : Rat)).sum) :
    (ps.map fun p => p.2 - (a + b * p.1)).sum = 0 ∧ (ps.map fun p => (p.1 : Rat) * (p.2 - (a + b * p.1))).sum = 0 := by
  obtain ⟨rfl, rfl⟩ := Prod.mk.inj line
  have points : (ps.length : Rat) ≠ 0 := fun none_ => spread (by
    have empty : ps = [] := List.length_eq_zero_iff.mp (by exact_mod_cast none_)
    simp [empty])
  have det := sub_ne_zero.mpr spread
  rw [sum_residuals, sum_weighted_residuals]
  constructor
  · field_simp
    ring
  · exact normal_of_slope points (div_mul_cancel₀ _ det)

/-! ## The calibration sequencer -/

theorem testBit_sum_two_pow {l : List Nat} (once : l.Nodup) (j : Nat) : (l.map (2 ^ ·)).sum.testBit j = true ↔ j ∈ l := by
  have perm := List.mergeSort_perm l (· ≤ ·)
  have ordered : (l.mergeSort (· ≤ ·)).Pairwise (· ≤ ·) := List.pairwise_mergeSort' (· ≤ ·) l
  have sorted : (l.mergeSort (· ≤ ·)).SortedLT := ((ordered.and (perm.nodup_iff.mpr once)).imp fun h => lt_of_le_of_ne h.1 h.2).sortedLT
  rw [← Nat.mem_bitIndices, ← (perm.map (2 ^ ·)).sum_eq, Nat.bitIndices_sum_map_two_pow sorted, perm.mem_iff]

theorem testBit_calActs {o l i : Nat} (hl : l ≤ 64) (hi : i < 64) : (calActs o l).testBit ((o + i) % 64) = true ↔ i < l := by
  have rows : calActs o l = (((List.range l).map fun i => (o + i) % 64).map (2 ^ ·)).sum := by
    rw [calActs, List.map_map]
    rfl
  have once : ((List.range l).map fun i => (o + i) % 64).Nodup := List.nodup_range.map_on fun x hx y hy same => by
    have := List.mem_range.mp hx
    have := List.mem_range.mp hy
    omega
  rw [rows, testBit_sum_two_pow once, List.mem_map]
  constructor
  · rintro ⟨k, hk, same⟩
    have := List.mem_range.mp hk
    omega
  · exact fun h => ⟨i, List.mem_range.mpr h, rfl⟩

/-! ## CAL_RUN -/

/-- A CAL_RUN that starts. -/
def startedRun (s : State) (ring seq : Nat) : CalRun :=
  { ring := ring, seq := seq, sched := Sched.start s.dev.now (capW s.thm) 40000000 240000000, stage := 0, failed := [],
    retried := 0, passed := 0, trims := { conv := [], replica := [] }, maxDa := 0 }

theorem exec_calRun_of_testing (ready : Ready s 0x70 ring seq c) {t : SelfTest} (tests : s.test = some t) :
    exec (.calRun ring seq) s = .next (finish s c stBusyTesting (t.sched.remain s.dev.now)) := by
  rw [exec_calRun, execCalRun, onReady_of ready]
  simp only [tests]

section
variable (ready : Ready s 0x70 ring seq c) (untested : s.test = none)
include ready untested

theorem exec_calRun_of_running (runs : s.cal.run = some r) :
    exec (.calRun ring seq) s = .next (finish s c stBusy (r.sched.remain s.dev.now)) := by
  rw [exec_calRun, execCalRun, onReady_of ready]
  simp only [untested, runs]

variable (idle : s.cal.run = none)
include idle

theorem exec_calRun_of_not_maintenance (other : s.dev.st ≠ .maintenance) : exec (.calRun ring seq) s = .next (finish s c stNotPermitted 0) := by
  rw [exec_calRun, execCalRun, onReady_of ready]
  simp only [untested, idle]
  rw [if_pos other]

theorem exec_calRun_of_maintenance (maintained : s.dev.st = .maintenance) : exec (.calRun ring seq) s =
    .next (acceptLong (s.updCal fun k => { k with run := some (startedRun s ring seq) }) { c with phase := .running }) := by
  rw [exec_calRun, execCalRun, onReady_of ready]
  simp only [untested, idle]
  rw [if_neg (not_not.mpr maintained)]
  rfl
end

/-! ## The reference check -/

theorem updCal_congr {f g : Cal → Cal} (same : f s.cal = g s.cal) : s.updCal f = s.updCal g := congrArg (fun c => ({ s with cal := c } : State)) same

/-- The errors of the dies' references. -/
def refErrs (ppm : List Int) : List Int := (List.range 4).map fun i => ppm[i]?.getD 0

/-- The calibration state after a reference check without an error. -/
def checked (s : State) (ppm : List Int) (c : Cal) : Cal :=
  { c with refErr := refErrs ppm, run := c.run.map (fun r => { r with stage := 1 }), group16 := true, seqRow := s.openAt 11 % 64 }

section
variable {ppm : List Int} (runs : s.cal.run = some r) (clocks : clocked s = true) (first : r.stage = 0)
include runs clocks first

theorem exec_calReferenceCheck_of_within (within : ∀ x ∈ refErrs ppm, |x| ≤ 200) : exec (.calReferenceCheck ppm) s = .next (s.updCal fun c =>
    { c with refErr := refErrs ppm, run := some { r with stage := 1 }, group16 := true, seqRow := s.openAt 11 % 64 }) := by
  have goes : (!clocked s || decide (r.stage ≠ 0)) = false := by simp [clocks, first]
  have none_ : ((List.range 4).find? fun i => decide (|(refErrs ppm)[i]?.getD 0| > 200)) = none := by
    refine List.find?_eq_none.mpr fun i hi => ?_
    have listed : (refErrs ppm)[i]?.getD 0 ∈ refErrs ppm := by
      have len : i < (refErrs ppm).length := by simpa [refErrs] using List.mem_range.mp hi
      rw [List.getElem?_eq_getElem len]
      exact List.getElem_mem len
    simpa using within _ listed
  unfold refErrs at none_ ⊢
  simp only [exec_calReferenceCheck, execCalReferenceCheck, runs, goes, none_, Bool.false_eq_true, if_false]
  have same : s.updCal (checked s ppm) = s.updCal fun c =>
      { c with refErr := refErrs ppm, run := some { r with stage := 1 }, group16 := true, seqRow := s.openAt 11 % 64 } :=
    updCal_congr (by rw [checked, runs]; rfl)
  exact congrArg Host.Outcome.next same

theorem exec_calReferenceCheck_of_beyond {d : Nat} {x : Int} (at_ : (refErrs ppm)[d]? = some x) (beyond : 200 < |x|)
    (least : ∀ i y, i < d → (refErrs ppm)[i]? = some y → |y| ≤ 200) : exec (.calReferenceCheck ppm) s =
      .next (calFail (s.updCal fun c => { c with refErr := refErrs ppm }) 0 0xFFFF 5 d (sfield 16 x) 0xFFFF) := by
  have goes : (!clocked s || decide (r.stage ≠ 0)) = false := by simp [clocks, first]
  have dies : d < 4 := by simpa [refErrs] using (List.getElem?_eq_some_iff.mp at_).1
  have found : ((List.range 4).find? fun i => decide (|(refErrs ppm)[i]?.getD 0| > 200)) = some d := by
    refine List.find?_range_eq_some.mpr ⟨by simp [at_, beyond], List.mem_range.mpr dies, fun i hi => ?_⟩
    have len : i < (refErrs ppm).length := by simpa [refErrs] using hi.trans dies
    have := least i _ hi (List.getElem?_eq_getElem len)
    simpa [List.getElem?_eq_getElem len] using this
  unfold refErrs at found at_ ⊢
  simp only [exec_calReferenceCheck, execCalReferenceCheck, runs, goes, found, Bool.false_eq_true, if_false, at_, Option.getD_some]
end

/-! ## Attempts -/

theorem advanceSeq_advanceSeq (s : State) (m n : Nat) : advanceSeq (advanceSeq s m) n = advanceSeq s (m + n) := by
  refine updCal_congr (s := s) (f := fun c => { c with seqRow := ((c.seqRow + m) % 64 + n) % 64 }) (g := fun c => { c with seqRow := (c.seqRow + (m + n)) % 64 }) ?_
  have row : ((s.cal.seqRow + m) % 64 + n) % 64 = (s.cal.seqRow + (m + n)) % 64 := by omega
  rw [row]

theorem advanceSeq_of_whole {n : Nat} (whole : n % 64 = 0) (s : State) : advanceSeq s n = s.updCal fun c => { c with seqRow := c.seqRow % 64 } := by
  refine updCal_congr ?_
  have row : (s.cal.seqRow + n) % 64 = s.cal.seqRow % 64 := by omega
  rw [row]

theorem measurePasses_twice (s : State) : measurePasses (measurePasses s) = s.updCal fun c => { c with seqRow := c.seqRow % 64 } := by
  simp only [measurePasses, advanceSeq_advanceSeq]
  exact advanceSeq_of_whole (by norm_num [mainSlots, spareSlots]) s

/-- A CAL_RUN after an attempt, with the sequencer where the passes have left it. -/
def attempted (s : State) (r : CalRun) : State := s.updCal fun c => { c with run := some r, seqRow := c.seqRow % 64 }

theorem withRun_measured (runs : s.cal.run = some r) (q : CalRun) :
    (withRun (measurePasses (measurePasses s)) fun _ => q) = attempted s q := by
  rw [measurePasses_twice]
  exact updCal_congr (s := s) (f := fun c => { c with run := c.run.map (fun _ => q), seqRow := c.seqRow % 64 })
    (g := fun c => { c with run := some q, seqRow := c.seqRow % 64 }) (by rw [runs]; rfl)

section
variable {fits : List ConvMeas} {q : CalRun} (runs : s.cal.run = some r) (clocks : clocked s = true) (atLeast : 1 ≤ r.stage) (atMost : r.stage ≤ 3)
  (hq : q = afterAttempt r fits)
include runs clocks atLeast atMost hq

theorem exec_calAttemptEnd_of_attempt : exec (.calAttemptEnd fits) s = .next (if q.stage < 4 then refreshCal (attempted s q)
    else match q.failed with
      | [] => refreshCal (attempted s q)
      | e :: _ => calFail (refreshCal (attempted s q)) e.1 e.2.1 e.2.2 (dieOf (e.1 / 4)) (sat 16 q.failed.length) e.1) := by
  have goes : (!clocked s || decide (r.stage < 1) || decide (r.stage > 3)) = false := by simp [clocks, not_lt.mpr atMost]; omega
  subst hq
  simp only [exec_calAttemptEnd, execCalAttemptEnd, runs, goes, Bool.false_eq_true, if_false, withRun_measured runs] <;> rfl

theorem exec_calAttemptEnd_of_more (goesOn : q.stage < 4 ∨ q.failed = []) : exec (.calAttemptEnd fits) s = .next (refreshCal (attempted s q)) := by
  rw [exec_calAttemptEnd_of_attempt runs clocks atLeast atMost hq]
  rcases goesOn with more | passed
  · rw [if_pos more]
  · simp only [passed, ite_self]

theorem exec_calAttemptEnd_of_failed {a v x : Nat} {l : List (Nat × Nat × Nat)} (last : q.stage = 4) (failed : q.failed = (a, v, x) :: l) :
    exec (.calAttemptEnd fits) s = .next (calFail (refreshCal (attempted s q)) a v x (dieOf (a / 4)) (sat 16 q.failed.length) a) := by
  have over_ : ¬q.stage < 4 := by omega
  rw [exec_calAttemptEnd_of_attempt runs clocks atLeast atMost hq, if_neg over_]
  cases hl : q.failed with
  | nil => cases failed.symm.trans hl
  | cons e l' =>
    obtain ⟨rfl, -⟩ := List.cons.inj (failed.symm.trans hl)
    rfl
end

theorem mem_afterAttempt_failed {fits : List ConvMeas} {a v x : Nat} (mem : (a, v, x) ∈ (afterAttempt r fits).failed) :
    attemptReason (fitsOf fits a v).1 (fitsOf fits a v).2 = some x := by
  obtain ⟨e, judged, failed⟩ := List.mem_filterMap.mp mem
  obtain ⟨k, -, rfl⟩ := List.mem_map.mp judged
  obtain ⟨y, reason, same⟩ := Option.map_eq_some_iff.mp failed
  cases same
  exact reason

/-! ## The end -/

/-- No converter's drift is noted. -/
def Undrifted (s : State) : Prop := ∀ i, (s.arr i).drift = false

theorem arr_prop {P : Arr → Prop} (reset : P Arr.reset) (listed : ∀ i a, (i, some a) ∈ s.arrs → P a) (i : Nat) : P (s.arr i) := by
  unfold State.arr
  cases h : look s.arrs i with
  | none => exact reset
  | some a => exact listed i a (mem_of_look h)

theorem updArr_prop {P : Arr → Prop} {f : Arr → Arr} (keeps : ∀ a, P a → P (f a)) (all : ∀ i, P (s.arr i)) (j : Nat) : ∀ i, P ((s.updArr j f).arr i) := by
  intro i
  by_cases same : i = j
  · rw [same, updArr_arr]
    exact keeps _ (all j)
  · rw [updArr_arr_other same]
    exact all i

theorem foldl_inv {α σ : Type} {P : σ → Prop} {f : σ → α → σ} {l : List α} (keeps : ∀ s, ∀ a ∈ l, P s → P (f s a)) {s : σ} (start : P s) : P (l.foldl f s) := by
  induction l generalizing s with
  | nil => exact start
  | cons a l ih => exact ih (fun s b hb => keeps s b (List.mem_cons_of_mem _ hb)) (keeps s a List.mem_cons_self start)

/-- The arrays with no trims but the nominal ones. -/
def untrimmed (s : State) : State :=
  { s with arrs := (s.arrs.map fun (e : Nat × Option Arr) =>
      (e.1, e.2.map fun a => { a with trims := [], replicaOff := 0, replicaGain := 0 })).filter fun e => decide (e.2 ≠ some Arr.reset) }

theorem mem_untrimmed {i : Nat} {a : Arr} (mem : (i, some a) ∈ (untrimmed s).arrs) :
    ∃ b, (i, some b) ∈ s.arrs ∧ a = { b with trims := [], replicaOff := 0, replicaGain := 0 } := by
  obtain ⟨⟨j, x⟩, listed, same⟩ := List.mem_map.mp (List.mem_filter.mp mem).1
  cases x with
  | none => cases same
  | some b =>
    cases same
    exact ⟨b, listed, rfl⟩

theorem loadTrims_inv {P : State → Prop} {t : TrimSet} (start : P (untrimmed s)) (conv : ∀ s, ∀ e ∈ t.conv, P s →
      P (s.updArr e.1 fun a => { a with trims := put (64, 16644) a.trims e.2.1 (e.2.2.1, e.2.2.2) }))
    (replica : ∀ s i x y, P s → P (s.updArr i fun a => { a with replicaOff := x, replicaGain := y })) : P (loadTrims s t) :=
  foldl_inv (fun s e _ h => replica s e.1 e.2.1 e.2.2 h) (foldl_inv conv start)

theorem loadTrims_frame {g : State → β} (arrs : ∀ (s : State) a, g { s with arrs := a } = g s) (t : TrimSet) : g (loadTrims s t) = g s :=
  loadTrims_inv (P := fun u => g u = g s) (arrs _ _) (fun _ _ _ h => (arrs _ _).trans h) (fun _ _ _ _ h => (arrs _ _).trans h)

theorem loadTrims_drift {t : TrimSet} (all : ∀ i a, (i, some a) ∈ s.arrs → a.drift = false) (i : Nat) : ((loadTrims s t).arr i).drift = false := by
  have blank : ∀ i, ((untrimmed s).arr i).drift = false := arr_prop (P := fun a => a.drift = false) rfl fun i a mem => by
    obtain ⟨b, listed, rfl⟩ := mem_untrimmed mem
    exact all i b listed
  exact loadTrims_inv (P := fun s => ∀ i, (s.arr i).drift = false) blank (fun _ e _ h => updArr_prop (P := fun a => a.drift = false) (f := _) (fun _ h => by exact h) h e.1)
    (fun _ i _ _ h => updArr_prop (P := fun a => a.drift = false) (fun _ h => by exact h) h i) i

theorem loadTrims_nominal {t : TrimSet} {a v : Nat} (unlisted : ∀ e ∈ t.conv, (e.1, e.2.1) ≠ (a, v)) :
    get nomTrim ((loadTrims s t).arr a).trims v = nomTrim := by
  have blank : get nomTrim ((untrimmed s).arr a).trims v = nomTrim :=
    arr_prop (P := fun b => get nomTrim b.trims v = nomTrim) rfl (fun i b mem => by obtain ⟨_, -, rfl⟩ := mem_untrimmed mem; rfl) a
  refine loadTrims_inv (P := fun s => get nomTrim (s.arr a).trims v = nomTrim) blank (fun u e mem h => ?_) fun u i x y h => ?_
  · by_cases sameArr : a = e.1
    · have ne : v ≠ e.2.1 := fun sameConv => unlisted e mem (by rw [sameArr, sameConv])
      rw [sameArr] at h ⊢
      rw [updArr_arr]
      exact (get_put_other _ _ _ ne).trans h
    · rwa [updArr_arr_other sameArr]
  · by_cases sameArr : a = i
    · rw [sameArr] at h ⊢
      rwa [updArr_arr]
    · rwa [updArr_arr_other sameArr]

/-- The calibration state once the trims of a CAL_RUN have taken force. -/
def Cal.loaded (k : Cal) (r : CalRun) (sec : Nat) : Cal :=
  { k with count := (k.count + 1) % 2 ^ 32, lastSec := sec, source := 2, commitNeeded := true, lastRun := some r.trims, run := none, group16 := false }

/-- No drift is noted any more. -/
def undrifted (s : State) : State := { s with arrs := s.arrs.map fun e => (e.1, e.2.map fun a => { a with drift := false }) }

theorem mem_undrifted {i : Nat} {a : Arr} (mem : (i, some a) ∈ (undrifted s).arrs) : a.drift = false := by
  obtain ⟨⟨j, x⟩, listed, same⟩ := List.mem_map.mp mem
  cases x with
  | none => cases same
  | some b =>
    cases same
    rfl

/-- The trims of a CAL_RUN take force. -/
def trimsLoaded (s : State) (r : CalRun) : State :=
  (loadTrims (undrifted (refreshCal s)) r.trims).updCal fun k => k.loaded r (loadTrims (undrifted (refreshCal s)) r.trims).dev.opSec

theorem refreshCal_of_found (runs : s.cal.run = some r) (found : findCmd s r.ring r.seq = some c) :
    refreshCal s = putCmd s { c with progress := r.sched.perMille s.dev.now, position := r.passed } := by simp only [refreshCal, runs, found]

/-- The data of CAL_DONE: retried converters, duration and largest change of an offset. -/
def calDone (s : State) (r : CalRun) : Nat :=
  evData [(r.retried, 4), (sat 16 ((10 * (s.dev.now - r.sched.started) + r.sched.remain s.dev.now) / 1000000), 2), (sat 16 (shiftOf s r.trims), 2)]

theorem exec_calTrimLoad_of_found (runs : s.cal.run = some r) (clocks : clocked s = true) (last : r.stage = 4)
    {d : Cmd} (found : findCmd (logEvent (trimsLoaded s r) 0x4005 3 (calDone s r)) r.ring r.seq = some d) : exec .calTrimLoad s =
      .next (finish (logEvent (trimsLoaded s r) 0x4005 3 (calDone s r)) d stOk
        (r.retried % 2 ^ 32 + 2 ^ 32 * sat 16 (rne (1024 * r.maxDa)).toNat)) := by
  have goes : (!clocked s || decide (r.stage ≠ 4)) = false := by simp [clocks, last]
  unfold trimsLoaded undrifted Cal.loaded calDone at found ⊢
  simp only [exec_calTrimLoad, execCalTrimLoad, runs, goes, Bool.false_eq_true, if_false, found]

theorem findCmd_congr {t : State} (same : t.cmds = s.cmds) (ring seq : Nat) : findCmd t ring seq = findCmd s ring seq := by
  simp only [findCmd, same]

theorem original_of_findCmd (found : findCmd s ring seq = some c) : c.original := fun a b waits => by
  have passes := List.find?_some found
  rw [waits] at passes
  simp at passes

/-- Settles O41: a CAL_RUN goes on by its stage; an attempt's failures are those its fits give, a line's two normal equations are its sums, and the
trims it loads leave every other converter nominal. -/
theorem calibrationRuns : Obligations.CalibrationRuns := by
  refine ⟨?start, ?reference, ?attempt, ?after, fun _ _ => attemptReason_eq_none, fun _ => fitReason_eq_none, fun _ _ _ _ => mem_fitPoints,
    fun _ _ _ line spread => leastSquares_normal line spread, fun _ _ _ _ hl hi => testBit_calActs hl hi, ?load⟩
  case start =>
    intro s ring seq c ready
    exact ⟨fun t tests => exec_calRun_of_testing ready tests, fun r untested runs => exec_calRun_of_running ready untested runs,
      fun untested idle other => exec_calRun_of_not_maintenance ready untested idle other,
      fun untested idle maintained => exec_calRun_of_maintenance ready untested idle maintained⟩
  case reference =>
    rintro s r ppm e runs clocks first rfl
    exact ⟨fun within => ⟨_, Nat.mod_lt _ (by decide), exec_calReferenceCheck_of_within runs clocks first within⟩,
      fun d x at_ beyond least => exec_calReferenceCheck_of_beyond runs clocks first at_ beyond least⟩
  case attempt =>
    rintro s r q fits t runs clocks atLeast atMost hq rfl
    exact ⟨exec_calAttemptEnd_of_more runs clocks atLeast atMost hq,
      fun a v x l last failed => exec_calAttemptEnd_of_failed runs clocks atLeast atMost hq last failed⟩
  case after =>
    intro r fits
    exact ⟨rfl, rfl, fun first => if_pos first, fun later => if_neg later, fun a v x mem => mem_afterAttempt_failed mem⟩
  case load =>
    intro s r c runs clocks last found
    obtain ⟨d, hd⟩ : ∃ d, d = { c with progress := r.sched.perMille s.dev.now, position := r.passed } := ⟨_, rfl⟩
    have refreshed : refreshCal s = putCmd s d := hd ▸ refreshCal_of_found runs found
    have stays : findCmd (refreshCal s) r.ring r.seq = some d := by
      rw [refreshed]
      exact findCmd_putCmd found (by rw [hd]) (by rw [hd]) (by rw [hd]) fun a b => by rw [hd]; exact original_of_findCmd found a b
    have cal : (loadTrims (undrifted (refreshCal s)) r.trims).cal = s.cal := by
      rw [loadTrims_frame (g := (·.cal)) fun _ _ => rfl, refreshed]
      rfl
    have dev : (loadTrims (undrifted (refreshCal s)) r.trims).dev = s.dev := by
      rw [loadTrims_frame (g := (·.dev)) fun _ _ => rfl, refreshed]
      rfl
    have loaded : (trimsLoaded s r).cal = s.cal.loaded r s.dev.opSec := by rw [trimsLoaded, State.updCal_cal, cal, dev]
    have cmds : (trimsLoaded s r).cmds = (refreshCal s).cmds := by
      rw [trimsLoaded, State.updCal_cmds, loadTrims_frame (g := (·.cmds)) fun _ _ => rfl]
      rfl
    have ends : findCmd (logEvent (trimsLoaded s r) 0x4005 3 (calDone s r)) r.ring r.seq = some d :=
      (findCmd_congr ((logEvent_cmds ..).trans cmds) _ _).trans stays
    refine ⟨_, d, exec_calTrimLoad_of_found runs clocks last ends, ends, by rw [hd], ?_⟩
    rw [logEvent_cal, loaded]
    refine ⟨rfl, rfl, rfl, rfl, rfl, rfl, rfl, fun a => ?_, fun a v unlisted => ?_⟩
    · rw [logEvent_arr]
      exact loadTrims_drift (fun i b mem => mem_undrifted mem) a
    · rw [logEvent_arr]
      exact loadTrims_nominal unlisted

end Sys2Proof.Machine
end

section
/-! Calibration records, background calibration and recalibration (04_calibration R102 to R108; 12_graec_commands R300). -/

namespace Sys2Proof.Machine

variable {s : State} {ring seq : Nat} {c : Cmd} {f : ConvMeas} {array conv : Nat}

/-! ## CAL_STATUS and CAL_COMMIT -/

theorem exec_calStatus_of_ready (ready : Ready s 0x71 ring seq c) : exec (.calStatus ring seq) s =
    .next (finish s c stOk (packF [(regCalState s % 2 ^ 16, 16), (sat 16 s.cal.count, 16), (s.cal.lastSec, 32)])) := by
  rw [exec_calStatus, execCalStatus, onReady_of ready]

theorem exec_calCommit_of_ready (ready : Ready s 0x72 ring seq c) : exec (.calCommit ring seq) s = .next (commitWrite s c) := by
  obtain ⟨found, clocks, opc, phase, turn⟩ := ready
  have goes : (!clocked s || decide (c.pkt.opc ≠ 0x72)) = false := by simp [clocks, opc]
  simp only [exec_calCommit, execCalCommit, found, goes, phase, turn, Bool.false_eq_true, if_false, if_true]

theorem exec_calCommit_of_running (running : Running s 0x72 ring seq c) : exec (.calCommit ring seq) s = .next (commitSeal s c) := by
  obtain ⟨found, clocks, opc, phase⟩ := running
  have goes : (!clocked s || decide (c.pkt.opc ≠ 0x72)) = false := by simp [clocks, opc]
  have notReady : c.phase ≠ .ready := by simp [phase]
  simp only [exec_calCommit, execCalCommit, found, goes, Bool.false_eq_true, if_false, if_neg notReady, if_pos phase]

theorem commitWrite_of_busy {r : CalRun} (runs : s.cal.run = some r) : commitWrite s c = finish s c stBusy (r.sched.remain s.dev.now) := by
  simp only [commitWrite, runs]

theorem commitWrite_of_none (idle : s.cal.run = none) (none_ : s.cal.lastRun = none) : commitWrite s c = finish s c stNotPermitted 0 := by
  simp only [commitWrite, idle, none_]

/-- What CAL_COMMIT writes first: the record of the last trims, all but its SEQ. -/
def blankRecord (s : State) (t : TrimSet) : CalRec := { newRecord s t (commitPlace s).2 with seq := blankSeq }

theorem commitWrite_of_free {t : TrimSet} (idle : s.cal.run = none) (last : s.cal.lastRun = some t) (free : s.cal.commit = none) : commitWrite s c =
    putCmd ((setArea s (commitPlace s).1 (blankRecord s t)).updCal fun k => { k with commit := some ((commitPlace s).1, (commitPlace s).2) })
      { c with phase := .running } := by
  simp only [commitWrite, idle, last, free]
  rfl

theorem validRec_some {r : CalRec} (s : State) : validRec s (some r) = if recordValid s r then some r else none := rfl

theorem recordValid_iff {r : CalRec} : recordValid s r = true ↔ r.magic = calMagic ∧ r.pkgUid = s.dev.pkgUid ∧ r.check = crc32 (recordBody r) := by
  simp only [recordValid, Bool.and_eq_true, beq_iff_eq, and_assoc]

section
variable {a b : CalRec}

theorem commitPlace_of_both (first : validRec s s.cal.areaA = some a) (second : validRec s s.cal.areaB = some b) :
    commitPlace s = (decide (b.seq < a.seq), (max a.seq b.seq + 1) % 2 ^ 32) := by simp only [commitPlace, first, second, Option.map_some]

theorem commitPlace_of_first (first : validRec s s.cal.areaA = some a) (second : validRec s s.cal.areaB = none) :
    commitPlace s = (true, (a.seq + 1) % 2 ^ 32) := by simp only [commitPlace, first, second, Option.map_some, Option.map_none]

theorem commitPlace_of_second (first : validRec s s.cal.areaA = none) (second : validRec s s.cal.areaB = some b) :
    commitPlace s = (false, (b.seq + 1) % 2 ^ 32) := by simp only [commitPlace, first, second, Option.map_some, Option.map_none]

theorem commitPlace_of_neither (first : validRec s s.cal.areaA = none) (second : validRec s s.cal.areaB = none) : (commitPlace s).1 = false := by
  simp only [commitPlace, first, second, Option.map_none]
end

/-- The calibration state once SEQ has been written. -/
def Cal.sealed (k : Cal) (toB : Bool) (y : CalRec) : Cal :=
  { k with areaA := if toB then k.areaA else some y, areaB := if toB then some y else k.areaB, commit := none, commitNeeded := false }

theorem commitSeal_of_valid {toB : Bool} {n : Nat} {x y : CalRec} (commits : s.cal.commit = some (toB, n))
    (written : (if toB then s.cal.areaB else s.cal.areaA) = some x) (hy : y = { x with seq := n }) (valid : recordValid s y = true) :
    commitSeal s c = finish (s.updCal (·.sealed toB y)) c stOk n := by
  have area : (if toB then (s.updCal fun k => { k with commit := none }).cal.areaB else (s.updCal fun k => { k with commit := none }).cal.areaA) = some x :=
    written
  have holds : ∀ r, recordValid (setArea (s.updCal fun k => { k with commit := none }) toB r) y = recordValid s y := fun _ => rfl
  simp only [commitSeal, commits, area, validRec_some, ← hy, holds, valid, if_true, Option.isSome_some]
  rfl

/-! ## Background calibration -/

theorem takeover_of_rotation (inService : s.dev.st = .service) (notRecal : (s.arr array).recal = false) (inRotation : (s.arr array).recalPos = 0)
    (data : s.cal.bgPos < 512) : takeover s array = some s.cal.bgPos := by simp [takeover, inService, notRecal, inRotation, data]

theorem takeover_of_not_service (other : s.dev.st ≠ .service) : takeover s array = none := if_neg fun h => other h.1

theorem standIn_some (p c : Nat) : standIn (some p) c = if c = p then 608 else c := by simp only [standIn, Option.some.injEq, eq_comm]

@[simp] theorem dwellFit_bgPos (s : State) (array conv : Nat) (t : Option (Int × Nat)) : (dwellFit s array conv t).cal.bgPos = s.cal.bgPos := by
  cases t with
  | none => rfl
  | some t => exact congrArg Cal.bgPos (State.updArr_cal ..)

/-- The rotation goes on after a dwell. -/
def rotated (s : State) : State :=
  if s.cal.bgPos + 1 < 608 then s.updCal fun c => { c with bgPos := c.bgPos + 1 }
  else (s.updCal fun c => { c with bgPos := 0, bgRotations := c.bgRotations + 1 }).arrs.foldl
    (fun s e => s.updArr e.1 fun a => if a.recal then a else { a with recalPos := 0 })
    (s.updCal fun c => { c with bgPos := 0, bgRotations := c.bgRotations + 1 })

section
variable (clocks : clocked s = true) (inService : s.dev.st = .service)
include clocks inService

theorem dwells : (!clocked s || decide (s.dev.st ≠ .service)) = false := by simp [clocks, inService]

theorem exec_bgCalDwell_of_none : exec (.bgCalDwell []) s = .next (rotated s) := by
  simp only [exec_bgCalDwell, execBgCalDwell, dwells clocks inService, Bool.false_eq_true, if_false]
  rfl

theorem exec_bgCalDwell_of_one (hconv : conv = posConv s.cal.bgPos) (exists_ : f.array < 20480) (same : f.conv = conv)
    (notRecal : (s.arr f.array).recal = false) (inRotation : (s.arr f.array).recalPos = 0) : exec (.bgCalDwell [f]) s =
      .next (rotated (dwellFit s f.array conv (bgMove (s.arr f.array) conv (fitOf 64 f.m1)))) := by
  subst hconv
  have mine : [f].filter (fun f => decide (f.array < 20480) && f.conv == posConv s.cal.bgPos && !(s.arr f.array).recal &&
      (s.arr f.array).recalPos == 0) = [f] := List.filter_cons_of_pos (by simp [exists_, same, notRecal, inRotation])
  simp only [exec_bgCalDwell, execBgCalDwell, dwells clocks inService, Bool.false_eq_true, if_false, mine]
  rfl

end

theorem rotated_of_more (more : s.cal.bgPos < 607) : rotated s = s.updCal fun c => { c with bgPos := c.bgPos + 1 } := if_pos (by omega)

theorem rotated_cal_of_last (last : 607 ≤ s.cal.bgPos) :
    (rotated s).cal = { s.cal with bgPos := 0, bgRotations := s.cal.bgRotations + 1 } := by
  have over_ : ¬s.cal.bgPos + 1 < 608 := by omega
  rw [rotated, if_neg over_]
  exact foldl_field (·.cal) (fun s e => State.updArr_cal ..) _ _

theorem exec_bgCalDwell_of_not_service (other : s.dev.st ≠ .service) (fits : List ConvMeas) : exec (.bgCalDwell fits) s = .next s := by
  have stands : (!clocked s || decide (s.dev.st ≠ .service)) = true := by simp [other]
  simp only [exec_bgCalDwell, execBgCalDwell, stands, if_true]

section
variable {a : Arr} {g : Fit}

theorem bgMove_of_failed (fails : bgTrims a g = none) : bgMove a conv g = none := by simp only [bgMove, fails]

theorem bgMove_of_trims {o : Int} {n : Nat} (fits : bgTrims a g = some (o, n)) {cur : Int × Nat} (hcur : cur = get nomTrim a.trims conv) :
    bgMove a conv g = if (o - cur.1).natAbs > 16 ∨ 100 * ((n : Int) - cur.2).natAbs > cur.2 then none
      else some (cur.1 + rne ((o - cur.1 : Int) / (8 : Rat)), (cur.2 + rne ((((n : Int) - cur.2 : Int) : Rat) / 8)).toNat) := by
  subst hcur
  simp only [bgMove, fits]
end

/-! ## Recalibration -/

theorem updArr_updArr (s : State) (i : Nat) (f g : Arr → Arr) : (s.updArr i f).updArr i g = s.updArr i (g ∘ f) := by
  have own := updArr_arr s i f
  simp only [State.updArr] at own ⊢
  rw [own]
  exact congrArg (fun m => ({ s with arrs := m } : State)) (put_put _ _ _ _ _)

section
variable (clocks : clocked s = true) (inService : s.dev.st = .service) (recal : (s.arr array).recal = true)
  (hconv : conv = posConv (s.arr array).recalPos) (ofArray : f.array = array) (ofConv : f.conv = conv)
include clocks inService recal hconv ofArray ofConv

theorem exec_recalDwell_of_more (more : (s.arr array).recalPos < 607) : exec (.recalDwell array [f]) s =
    .next ((dwellFit s array conv (bgTrims (s.arr array) (fitOf 1024 f.m1))).updArr array fun a => { a with recalPos := a.recalPos + 1 }) := by
  subst hconv
  have goes : (!clocked s || decide (s.dev.st ≠ .service) || !(s.arr array).recal) = false := by simp [clocks, inService, recal]
  have listed : ([f].find? fun f => f.array == array && f.conv == posConv (s.arr array).recalPos) = some f :=
    List.find?_cons_of_pos (by simp [ofArray, ofConv])
  simp only [exec_recalDwell, execRecalDwell, goes, Bool.false_eq_true, if_false, listed]
  exact congrArg _ (if_pos (by omega))

theorem exec_recalDwell_of_last (last : (s.arr array).recalPos = 607) : exec (.recalDwell array [f]) s =
    .next (((dwellFit s array conv (bgTrims (s.arr array) (fitOf 1024 f.m1))).updArr array fun a =>
      { a with recalPos := a.recalPos + 1, recal := false, judgeNext := true }).updCal fun c => { c with recals := sat 16 (c.recals + 1) }) := by
  subst hconv
  have goes : (!clocked s || decide (s.dev.st ≠ .service) || !(s.arr array).recal) = false := by simp [clocks, inService, recal]
  have listed : ([f].find? fun f => f.array == array && f.conv == posConv (s.arr array).recalPos) = some f :=
    List.find?_cons_of_pos (by simp [ofArray, ofConv])
  simp only [exec_recalDwell, execRecalDwell, goes, Bool.false_eq_true, if_false, listed]
  refine congrArg _ ((if_neg (by omega)).trans ?_)
  rw [updArr_updArr]
  rfl
end

/-- Settles O42: each command and dwell by its case; the two updates that end a recalibration are one, as both change the same array. -/
theorem calibrationRecordsAndBackground : Obligations.CalibrationRecordsAndBackground := by
  refine ⟨⟨fun _ _ _ _ ready => exec_calStatus_of_ready ready, ?commit, fun _ => ⟨fun _ _ => commitPlace_of_both, fun _ => commitPlace_of_first,
    fun _ => commitPlace_of_second, commitPlace_of_neither⟩, fun _ _ => recordValid_iff, ?seals⟩,
    ?standsIn, fun _ _ other => takeover_of_not_service other, ?dwell, ?noDwell, fun _ fits other => exec_bgCalDwell_of_not_service other fits,
    ?move, ?recal⟩
  case commit =>
    intro s ring seq c ready
    rw [exec_calCommit_of_ready ready]
    refine ⟨fun r runs => congrArg _ (commitWrite_of_busy runs), fun idle none_ => congrArg _ (commitWrite_of_none idle none_), fun t idle last free => ?_⟩
    exact ⟨blankRecord s t, (commitPlace s).1, (commitPlace s).2, rfl, rfl, rfl, rfl, rfl, rfl, rfl, rfl, congrArg _ (commitWrite_of_free idle last free)⟩
  case seals =>
    intro s ring seq c toB n x y running commits written hy valid
    rw [exec_calCommit_of_running running, commitSeal_of_valid commits written hy valid]
    rfl
  case standsIn =>
    intro s array inService notRecal inRotation data c
    rw [takeover_of_rotation inService notRecal inRotation data, standIn_some]
  case dwell =>
    rintro s f conv t clocks inService hconv exists_ same notRecal inRotation rfl more
    rw [exec_bgCalDwell_of_one clocks inService hconv exists_ same notRecal inRotation, rotated_of_more (by rwa [dwellFit_bgPos])]
    rfl
  case noDwell =>
    intro s clocks inService
    rw [exec_bgCalDwell_of_none clocks inService]
    exact ⟨fun more => congrArg _ (rotated_of_more more), fun last => ⟨_, rfl, by rw [rotated_cal_of_last last], by rw [rotated_cal_of_last last]⟩⟩
  case move =>
    intro a conv f cur hcur
    refine ⟨bgMove_of_failed, fun o g fits => ?_⟩
    rw [bgMove_of_trims fits hcur]
    exact ⟨fun ⟨offset, gain⟩ => if_neg (by omega), fun far => if_pos far⟩
  case recal =>
    rintro s array conv f t clocks inService recal hconv ofArray ofConv rfl
    exact ⟨exec_recalDwell_of_more clocks inService recal hconv ofArray ofConv, exec_recalDwell_of_last clocks inService recal hconv ofArray ofConv⟩

end Sys2Proof.Machine
end

section
/-! Nominal conversions of rows whose tally digits agree pass every set check (03_arrays R58, R65 to R69). -/

namespace Sys2Proof.Machine

/-! ## Counting bits by column and by row -/

theorem length_filter_eq_sum {α : Type} (p : α → Bool) (l : List α) : (l.filter p).length = (l.map fun x => if p x then 1 else 0).sum := by
  induction l with
  | nil => rfl
  | cons x l ih => cases h : p x <;> simp [h, ih, Nat.add_comm]

/-- What the columns of rows count, weighted, is what the rows hold. -/
theorem sum_columns (on : List Nat) (lo : Nat) (w : Nat → Nat) (cols : List Nat) :
    (cols.map fun j => (on.filter fun r => r.testBit (lo + j)).length * w j).sum =
      (on.map fun r => (cols.map fun j => if r.testBit (lo + j) then w j else 0).sum).sum := by
  induction on with
  | nil => simp
  | cons r on ih =>
    rw [List.map_cons, List.sum_cons, ← ih, ← List.sum_map_add]
    refine congrArg List.sum (List.map_congr_left fun j _ => ?_)
    cases h : r.testBit (lo + j) <;> simp [h, Nat.add_mul, Nat.add_comm]

theorem popBits_eq_sum (r lo n : Nat) : popBits r lo n = ((List.range n).map fun j => if r.testBit (lo + j) then 1 else 0).sum :=
  length_filter_eq_sum _ _

theorem mod_two_pow_eq_sum (v n : Nat) : v % 2 ^ n = ((List.range n).map fun j => if v.testBit j then 2 ^ j else 0).sum := by
  induction n with
  | zero => simp [Nat.mod_one]
  | succ n ih =>
    rw [Nat.mod_pow_succ, ← Nat.toNat_testBit, ih, List.range_succ, List.map_append, List.sum_append]
    cases top : v.testBit n <;> simp [top]

theorem setDigits_eq_sum (r h i : Nat) :
    setDigits r h i = ((List.range 6).map fun k => if r.testBit (608 * h + 512 + 6 * i + k) then 2 ^ k else 0).sum := by
  have width : 608 * h + 512 + 6 * i + 5 + 1 - (608 * h + 512 + 6 * i) = 6 := by omega
  rw [setDigits, bits, width, mod_two_pow_eq_sum]
  simp only [Nat.testBit_div_two_pow, Nat.add_comm]

/-! ## A slot of nominal conversions -/

/-- The conversion of a column by a nominal converter. -/
def nominal (l : Nat) : Conv := { level := l, bad := false, settle := false, trial := false, range := false, bin := some (nominalBin l) }

theorem convert_nil (a : Arr) (c l : Nat) : convert a [] c l = nominal l := rfl

/-- What nominal converters convert in a slot of half `h` when these rows are driven. -/
def nominalSlot (on : List Nat) (h : Nat) : List Conv :=
  (List.range 608).map fun c => nominal (on.filter fun r => r.testBit (608 * h + c)).length

variable {on : List Nat} {h i : Nat}

theorem setData_nominalSlot (hi : i < 16) : setData (nominalSlot on h) i =
    (List.range 32).map fun j => nominal (on.filter fun r => r.testBit (608 * h + 32 * i + j)).length := by
  refine List.ext_getElem (by simp [setData, nominalSlot]; omega) fun j _ _ => ?_
  simp [setData, nominalSlot, Nat.add_assoc]

theorem setTally_nominalSlot (hi : i < 16) : setTally (nominalSlot on h) i =
    (List.range 6).map fun k => nominal (on.filter fun r => r.testBit (608 * h + 512 + 6 * i + k)).length := by
  refine List.ext_getElem (by simp [setTally, nominalSlot]; omega) fun j _ _ => ?_
  simp [setTally, nominalSlot, Nat.add_assoc]

theorem sum_data_nominalSlot (hi : i < 16) :
    ((setData (nominalSlot on h) i).map (·.level)).sum = (((on.map fun r => setCount r h i).sum : Nat) : Int) := by
  have counted := sum_columns on (608 * h + 32 * i) (fun _ => 1) (List.range 32)
  simp only [Nat.mul_one, ← popBits_eq_sum] at counted
  rw [setData_nominalSlot hi, List.map_map]
  simp only [setCount, ← counted, Nat.cast_list_sum, List.map_map]
  rfl

theorem sum_tally_nominalSlot (hi : i < 16) : ((setTally (nominalSlot on h) i).zipIdx.map fun c => c.1.level * ((2 ^ c.2 : Nat) : Int)).sum =
    (((on.map fun r => setDigits r h i).sum : Nat) : Int) := by
  have counted := sum_columns on (608 * h + 512 + 6 * i) (2 ^ ·) (List.range 6)
  simp only [← setDigits_eq_sum] at counted
  rw [setTally_nominalSlot hi, zipIdx_map_range, List.map_map, ← counted]
  simp only [Nat.cast_list_sum, List.map_map]
  refine congrArg List.sum (List.map_congr_left fun k _ => ?_)
  simp [nominal]

/-- The digits of every set of a good row agree. -/
theorem setCount_of_good {r : Nat} (good : badSets r = 0) (hh : h < 2) (hi : i < 16) : setCount r h i = setDigits r h i := by
  have none_ := List.filter_eq_nil_iff.mp (List.length_eq_zero_iff.mp good) (16 * h + i) (List.mem_range.mpr (by omega))
  have half : (16 * h + i) / 16 = h := by omega
  have set : (16 * h + i) % 16 = i := by omega
  rw [half, set] at none_
  simpa using none_

theorem setFails_nominalSlot (good : ∀ r ∈ on, badSets r = 0) (hh : h < 2) (hi : i < 16) :
    setFails (setData (nominalSlot on h) i) (setTally (nominalSlot on h) i) = false := by
  have same : on.map (fun r => setCount r h i) = on.map fun r => setDigits r h i := List.map_congr_left fun r mem => setCount_of_good (good r mem) hh hi
  have agree := (sum_data_nominalSlot (on := on) (h := h) hi).trans (same ▸ (sum_tally_nominalSlot hi).symm)
  rw [setFails, agree, setData_nominalSlot hi, setTally_nominalSlot hi]
  simp [nominal]

theorem failedSets_nominalSlot (good : ∀ r ∈ on, badSets r = 0) (hh : h < 2) : failedSets (nominalSlot on h) = [] :=
  List.filter_eq_nil_iff.mpr fun _ mem => Bool.eq_false_iff.mp (setFails_nominalSlot good hh (List.mem_range.mp mem))

/-- The rows that the activation bits drive. -/
def drivenRows (rows : List (Nat × Nat)) (acts : Nat) : List Nat := (rows.zipIdx.filter fun r => acts.testBit r.2).map fun r => r.1.2

theorem slotConvs_nil (a : Arr) (over_ : Option Nat) (rows : List (Nat × Nat)) (acts h : Nat) :
    slotConvs a over_ [] rows acts h = nominalSlot (drivenRows rows acts) h := rfl

theorem good_drivenRows {rows : List (Nat × Nat)} (good : ∀ e ∈ rows, badSets e.2 = 0) (acts : Nat) : ∀ r ∈ drivenRows rows acts, badSets r = 0 := by
  intro r mem
  obtain ⟨e, driven, rfl⟩ := List.mem_map.mp mem
  exact good e.1 (List.fst_mem_of_mem_zipIdx (List.mem_filter.mp driven).1)

end Sys2Proof.Machine
end

section
/-! The sweep and SELF_TEST (16_faults R391 to R397; 12_graec_commands R300). -/

namespace Sys2Proof.Machine

variable {s t : State} {kind unit slots digest r d : Nat} {devs : List (Nat × ConvDev)} {ring seq : Nat} {c : Cmd} {β : Type}

/-! ## Rounds -/

section
variable (runs : sweepRuns s = true) (exists_ : unit < unitCount kind)
include runs exists_

theorem exec_sweepRound_of_idle (idle : unitIdle s kind unit = true) (near : roundsOf s kind unit < roundsOf s kind (partnerOf kind unit) + 4) :
    exec (.sweepRound kind unit slots devs digest) s = .next (if kind = 0 then
        (if (sweepSlots s unit (roundsOf s kind unit) slots devs).2 && (sweepSlots s unit (roundsOf s kind unit) slots devs).1.dev.st != .failed then
          endRound (sweepSlots s unit (roundsOf s kind unit) slots devs).1 kind unit digest
        else (sweepSlots s unit (roundsOf s kind unit) slots devs).1)
      else if slots < 16 then s else endRound s kind unit digest) := by
  have goes : (!sweepRuns s || decide (unit ≥ unitCount kind) || !unitIdle s kind unit ||
      decide (roundsOf s kind unit ≥ roundsOf s kind (partnerOf kind unit) + 4)) = false := by simp [runs, exists_, idle, near]
  simp only [exec_sweepRound, execSweepRound, goes, Bool.false_eq_true, if_false]

end

theorem exec_sweepRound_of_paused (stands : unitIdle s kind unit = false ∨ roundsOf s kind (partnerOf kind unit) + 4 ≤ roundsOf s kind unit) :
    exec (.sweepRound kind unit slots devs digest) s = .next s := by
  have stops : (!sweepRuns s || decide (unit ≥ unitCount kind) || !unitIdle s kind unit ||
      decide (roundsOf s kind unit ≥ roundsOf s kind (partnerOf kind unit) + 4)) = true := by
    rcases stands with busy | ahead
    · simp [busy]
    · simp [ahead]
  simp only [exec_sweepRound, execSweepRound, stops, if_true]

/-- The arrays' counters after a slot of group 16 that passes. -/
def passedSlot (cs : List Conv) (a : Arr) : Arr :=
  { countSlot a cs with wFails := a.wFails + 0, wTally := a.wTally + 0, mmData := a.mmData + 0, mmTally := a.mmTally + 0 }

theorem sweepSlot_of_good {array i : Nat} (good : ∀ e ∈ group16 s array, badSets e.2 = 0) (room : (s.arr array).wChecks < 2 ^ 36) :
    ∃ cs, sweepSlot s array r i [] = (s.updArr array (passedSlot cs), true) := by
  obtain ⟨acts, hacts⟩ : ∃ acts, acts = sweepBitsOf s array r i := ⟨_, rfl⟩
  have passes := failedSets_nominalSlot (good_drivenRows good acts) (Nat.mod_lt i (by decide))
  refine ⟨nominalSlot (drivenRows (group16 s array) acts) (i % 2), ?_⟩
  rw [sweepSlot, closeIfFull_of_room room]
  simp only [slotConvs_nil, ← hacts, passes]
  rfl

/-- Slots of group 16 that pass change the array's counters alone. -/
theorem foldl_sweepSlot_of_good {array : Nat} (l : List Nat) (good : ∀ e ∈ group16 s array, badSets e.2 = 0)
    (room : (s.arr array).wChecks + 16 * l.length ≤ 2 ^ 36) : ∃ m : SMap (Option Arr),
      l.foldl (fun (st : State × Bool) i => if st.2 then sweepSlot st.1 array r i [] else st) (s, true) = ({ s with arrs := m }, true) ∧
      (({ s with arrs := m } : State).arr array).checks = (s.arr array).checks + 16 * l.length ∧
      (({ s with arrs := m } : State).arr array).wFails = (s.arr array).wFails ∧
      ∀ a, a ≠ array → ({ s with arrs := m } : State).arr a = s.arr a := by
  induction l generalizing s with
  | nil => exact ⟨s.arrs, rfl, rfl, rfl, fun _ _ => rfl⟩
  | cons i l ih =>
    rw [List.length_cons] at room
    obtain ⟨cs, slot⟩ := sweepSlot_of_good (r := r) (i := i) good (by omega)
    have counted : ((s.updArr array (passedSlot cs)).arr array).wChecks + 16 * l.length ≤ 2 ^ 36 := by
      rw [updArr_arr]
      simp only [passedSlot, countSlot]
      omega
    obtain ⟨m, rest, checks, fails, others⟩ := ih (s := s.updArr array (passedSlot cs)) good counted
    rw [updArr_arr] at checks fails
    refine ⟨m, ?_, ?_, fails, fun a ne => (others a ne).trans (updArr_arr_other ne _)⟩
    · rw [List.foldl_cons, if_pos rfl, slot]
      exact rest
    · rw [List.length_cons]
      simp only [passedSlot, countSlot] at checks
      exact checks.trans (by omega)

theorem sweepSlots_of_good (good : ∀ e ∈ group16 s unit, badSets e.2 = 0) (whole : 16 ≤ slots) (room : (s.arr unit).wChecks + 256 ≤ 2 ^ 36) :
    ∃ m : SMap (Option Arr), sweepSlots s unit r slots [] = ({ s with arrs := m }, true) ∧
      (({ s with arrs := m } : State).arr unit).checks = (s.arr unit).checks + 256 ∧
      (({ s with arrs := m } : State).arr unit).wFails = (s.arr unit).wFails ∧ ∀ a, a ≠ unit → ({ s with arrs := m } : State).arr a = s.arr a := by
  have all : min slots 16 = 16 := by omega
  obtain ⟨m, slot, checks, fails, others⟩ := foldl_sweepSlot_of_good (r := r) (List.range 16) good (by rwa [List.length_range])
  rw [List.length_range] at checks
  refine ⟨m, ?_, checks, fails, others⟩
  rw [sweepSlots, all, decide_eq_true whole]
  exact slot

theorem works_of_sweepRuns (runs : sweepRuns s = true) : clocked s = true ∧ s.dev.st ≠ .failed := by
  simp only [sweepRuns, Bool.and_eq_true, Bool.or_eq_true, beq_iff_eq] at runs
  obtain ⟨⟨⟨clocks, st⟩, -⟩, -⟩ := runs
  exact ⟨clocks, by rcases st with st | st <;> simp [st]⟩

/-! ## Digests -/

theorem setDigest_frame {g : State → β} (arr : ∀ s i f, g (State.updArr s i f) = g s) (sweep : ∀ s f, g (State.updSweep s f) = g s)
    (flue : ∀ s i f, g (State.updFlue s i f) = g s) (s : State) (kind unit r v : Nat) : g (setDigest s kind unit r v) = g s := by
  unfold setDigest
  split
  · exact arr _ _ _
  · exact sweep _ _
  · exact flue _ _ _

theorem countRound_frame {g : State → β} (arr : ∀ s i f, g (State.updArr s i f) = g s) (sweep : ∀ s f, g (State.updSweep s f) = g s)
    (flue : ∀ s i f, g (State.updFlue s i f) = g s) (s : State) (kind unit : Nat) : g (countRound s kind unit) = g s := by
  unfold countRound
  split
  · exact arr _ _ _
  · exact sweep _ _
  · exact flue _ _ _

/-- There are units of the kinds 0 to 2 only. -/
theorem kind_of_lt_unitCount (exists_ : unit < unitCount kind) : kind = 0 ∨ kind = 1 ∨ kind = 2 := by
  rcases kind with _ | _ | _ | k
  · exact .inl rfl
  · exact .inr (.inl rfl)
  · exact .inr (.inr rfl)
  · exact absurd exists_ (Nat.not_lt_zero _)

@[simp] theorem sendFlit_arr (s : State) (f : Flit) (i : Nat) : (sendFlit s f).arr i = s.arr i := rfl
@[simp] theorem sendFlit_sweep (s : State) (f : Flit) : (sendFlit s f).sweep = s.sweep := rfl

theorem roundsOf_endRound (exists_ : unit < unitCount kind) : roundsOf (endRound s kind unit digest) kind unit = roundsOf s kind unit + 1 := by
  rcases kind_of_lt_unitCount exists_ with rfl | rfl | rfl
  · simp [roundsOf, endRound, countRound, setDigest]
  · simp [roundsOf, endRound, countRound, setDigest]
  · simp [roundsOf, endRound, countRound, setDigest]

theorem digestOf_endRound (exists_ : unit < unitCount kind) :
    digestOf (endRound s kind unit digest) kind unit (roundsOf s kind unit) = digest % 2 ^ 32 + 1 := by
  rcases kind_of_lt_unitCount exists_ with rfl | rfl | rfl
  · simp [roundsOf, digestOf, endRound, countRound, setDigest]
  · simp [roundsOf, digestOf, endRound, countRound, setDigest]
  · simp [roundsOf, digestOf, endRound, countRound, setDigest]

theorem endRound_flits (s : State) (kind unit digest : Nat) : (endRound s kind unit digest).flits =
    s.flits ++ [.digest kind (partnerOf kind unit) (roundsOf s kind unit) (digest % 2 ^ 32)] := by
  have under : ∀ u : State, (if kind = 2 then u.updFlue unit fun f => { f with owed := f.owed - 1, claimed := decide (0 < f.owed) } else u).flits = u.flits := by
    intro u
    split
    · exact State.updFlue_flits ..
    · rfl
  rw [endRound, sendFlit_flits, under, countRound_frame (g := (·.flits)) (by simp) (by simp) (by simp),
    setDigest_frame (g := (·.flits)) (by simp) (by simp) (by simp)]

theorem nextDigest_eq_some {f : Flit} (next : nextDigest s kind unit = some (r, d, f)) : f = .digest kind unit r d ∧ f ∈ s.flits := by
  obtain ⟨e, mem, found⟩ := List.exists_of_findSome?_eq_some next
  cases e with
  | digest k u r' d' =>
    obtain ⟨⟨rfl, rfl⟩, same⟩ := Option.ite_none_right_eq_some.mp found
    cases same
    exact ⟨rfl, mem⟩
  | signal | result | storage => cases found

theorem partnerTile_lt {t : Nat} (h : t < 5120) : partnerTile t < 5120 := by unfold partnerTile; omega
theorem partnerTile_partnerTile {t : Nat} (h : t < 5120) : partnerTile (partnerTile t) = t := by unfold partnerTile; omega

theorem xor_three {k : Nat} (h : k < 4) : k ^^^ 3 < 4 ∧ k ^^^ 3 ^^^ 3 = k := by
  interval_cases k <;> decide

theorem partnerOf_involutive (known : kind ≤ 2) (exists_ : unit < unitCount kind) :
    partnerOf kind unit < unitCount kind ∧ partnerOf kind (partnerOf kind unit) = unit := by
  rcases kind_of_lt_unitCount exists_ with rfl | rfl | rfl
  · have tile : unit / 4 < 5120 := by simp only [unitCount] at exists_; omega
    have lt := partnerTile_lt tile
    have back := partnerTile_partnerTile tile
    have place : (4 * partnerTile (unit / 4) + unit % 4) / 4 = partnerTile (unit / 4) := by omega
    have within : (4 * partnerTile (unit / 4) + unit % 4) % 4 = unit % 4 := by omega
    simp only [partnerOf, unitCount, place, within, back]
    omega
  · exact ⟨partnerTile_lt exists_, partnerTile_partnerTile exists_⟩
  · have edge : unit / 32 < 4 := by simp only [unitCount] at exists_; omega
    obtain ⟨lt, back⟩ := xor_three edge
    have place : (32 * (unit / 32 ^^^ 3) + unit % 32) / 32 = unit / 32 ^^^ 3 := by omega
    have within : (32 * (unit / 32 ^^^ 3) + unit % 32) % 32 = unit % 32 := by omega
    simp only [partnerOf, unitCount, place, within, back]
    omega

/-! ## Failing -/

theorem clocked_not_cold (clocks : clocked s = true) : s.dev.st ≠ .cold := fun cold => by simp [clocked, cold] at clocks

theorem enterFailed_st (notCold : s.dev.st ≠ .cold) (domain cause unit detail : Nat) : (enterFailed s domain cause unit detail).dev.st = .failed := by
  unfold enterFailed
  split
  next h => exact h.resolve_right notCold
  next => simp [goState]

theorem raiseErr_dev_of_free {e : ErrIn} (free : s.err.active = none) (elsewhere : e.act = .elsewhere) (harmless : isFatal e = false) :
    (raiseErr s e).dev = s.dev := by
  simp only [raiseErr, harmless, State.updErr_err, free, startHandler, runAct, elsewhere]
  split <;> simp

theorem raiseErr_st_of_elsewhere {e : ErrIn} (notCold : s.dev.st ≠ .cold) (elsewhere : e.act = .elsewhere) :
    (raiseErr s e).dev.st = s.dev.st ∨ (raiseErr s e).dev.st = .failed := by
  simp only [raiseErr, startHandler, runAct, elsewhere, nestedErr]
  split
  · exact .inl rfl
  split
  · exact .inr (enterFailed_st (by simpa using notCold) ..)
  split
  · exact .inl (by simp)
  split
  · split
    · exact .inl (by simp)
    · exact .inr (enterFailed_st (by simpa using notCold) ..)
  split
  · exact .inr (enterFailed_st (by simpa using notCold) ..)
  · exact .inl (by simp)

theorem raiseErr_st_of_fatal {e : ErrIn} (clocks : clocked s = true) (works : s.dev.st ≠ .failed) (fatal : e.act = .fatal) :
    (raiseErr s e).dev.st = .failed := by
  have goes : (!clocked s || s.dev.st == .failed) = false := by simp [clocks, works]
  have isFatal : isFatal e = true := by simp [isFatal, fatal]
  simp only [raiseErr, goes, isFatal, Bool.false_eq_true, if_false, if_true]
  exact enterFailed_st (by simpa using clocked_not_cold clocks) ..

theorem sweepFail_st (notCold : s.dev.st ≠ .cold) (kind unit r : Nat) : (sweepFail s kind unit r).dev.st = .failed :=
  enterFailed_st (by simpa using notCold) ..

/-! ## Digests arrive -/

theorem dropDigests_frame {g : State → β} (arr : ∀ s i f, g (State.updArr s i f) = g s) (sweep : ∀ s f, g (State.updSweep s f) = g s)
    (flue : ∀ s i f, g (State.updFlue s i f) = g s) (s : State) (kind unit r : Nat) : g (dropDigests s kind unit r) = g s := by
  rw [dropDigests, setDigest_frame arr sweep flue, setDigest_frame arr sweep flue]

section
variable {f : Flit} {agree : Bool} (next : nextDigest s kind unit = some (r, d, f)) (runs : sweepRuns s = true) (free : mayArrive s f = true)
  (later : r < roundsOf s kind unit)
include next runs free later

theorem exec_sweepDigest_of_arrived : exec (.sweepDigest kind unit agree) s = .next (if digestOf s kind unit r = 0 ∨ digestOf s kind unit r = d + 1 then
    dropDigests { s with flits := s.flits.erase f } kind unit r
    else digestsDiffer (dropDigests { s with flits := s.flits.erase f } kind unit r) kind unit r agree) := by
  have goes : (!sweepRuns s || !mayArrive s f || decide (roundsOf s kind unit ≤ r)) = false := by simp [runs, free, later]
  simp only [exec_sweepDigest, execSweepDigest, next, goes, Bool.false_eq_true, if_false]
end

/-- The error of two digests that differ has been raised. -/
def differed (t : State) (kind unit : Nat) : State :=
  raiseErr (t.updSweep fun w => { w with lastUnit := unit, lastKind := kind })
    { domain := 3, code := 0x4006, unit := unit, detail := 0, act := .elsewhere }

theorem digestsDiffer_of_transient (works : (differed t kind unit).dev.st ≠ .failed) :
    digestsDiffer t kind unit r true = (differed t kind unit).updSweep fun w => { w with transients := w.transients + 1 } :=
  if_neg works

theorem digestsDiffer_of_confirmed (works : (differed t kind unit).dev.st ≠ .failed) :
    digestsDiffer t kind unit r false = sweepFail (differed t kind unit) kind unit r := if_neg works

/-! ## Sub-intervals -/

theorem subRounds_foldl {l : List (Nat × Option Arr)} {a : Nat} (zero : (s.arr a).subRounds = 0 ∨ a ∈ l.map (·.1)) :
    ((l.foldl (fun s e => s.updArr e.1 fun a => { a with subRounds := 0 }) s).arr a).subRounds = 0 := by
  induction l generalizing s with
  | nil => exact zero.resolve_right (List.not_mem_nil)
  | cons e l ih =>
    refine ih ?_
    by_cases same : a = e.1
    · rw [same, updArr_arr]
      exact .inl rfl
    · rw [updArr_arr_other same]
      exact zero.imp_right fun mem => (List.mem_cons.mp mem).resolve_left same

theorem subRounds_of_unlisted {a : Nat} (unlisted : a ∉ s.arrs.map (·.1)) : (s.arr a).subRounds = 0 := by
  have none_ : look s.arrs a = none := Option.eq_none_iff_forall_ne_some.mpr fun x listed =>
    unlisted (List.mem_map.mpr ⟨_, mem_of_look listed, rfl⟩)
  rw [State.arr, none_]
  rfl

theorem updFlue_flue_other {i j : Nat} (ne : j ≠ i) (f : Flue → Flue) : (s.updFlue i f).flue j = s.flue j := by
  simp only [State.flue, State.updFlue, State.setFlue_flues, look, store]
  rw [get_put_other _ _ _ ne]

theorem flue_foldl_range (f : Flue → Flue) (n e : Nat) :
    ((List.range n).foldl (fun s e => s.updFlue e f) s).flue e = if e < n then f (s.flue e) else s.flue e := by
  induction n with
  | zero => rfl
  | succ n ih =>
    rw [List.range_succ, List.foldl_append, List.foldl_cons, List.foldl_nil]
    by_cases same : e = n
    · subst same
      rw [updFlue_flue, ih, if_neg (lt_irrefl _), if_pos (Nat.lt_succ_self _)]
    · rw [updFlue_flue_other same, ih]
      exact if_congr (by omega) rfl rfl

theorem updSweep_arr (s : State) (f : Sweep → Sweep) (i : Nat) : (s.updSweep f).arr i = s.arr i := rfl
theorem updSweep_flue (s : State) (f : Sweep → Sweep) (i : Nat) : (s.updSweep f).flue i = s.flue i := rfl

/-- The rounds of the sub-interval are claimed. -/
def claimedRounds (s : State) : State :=
  (List.range 128).foldl (fun s e => s.updFlue e fun f => { f with owed := 64 - min 64 f.subRounds, subRounds := 0 })
    (s.arrs.foldl (fun s e => s.updArr e.1 fun a => { a with subRounds := 0 }) s)

theorem claimedRounds_frame {g : State → β} (arr : ∀ s i f, g (State.updArr s i f) = g s) (flue : ∀ s i f, g (State.updFlue s i f) = g s) (s : State) :
    g (claimedRounds s) = g s :=
  (foldl_field g (fun _ _ => flue _ _ _) _ _).trans (foldl_field g (fun _ _ => arr _ _ _) _ _)

theorem claimedRounds_arr (a : Nat) : ((claimedRounds s).arr a).subRounds = 0 := by
  have arrs : (claimedRounds s).arrs = (s.arrs.foldl (fun s e => s.updArr e.1 fun a => { a with subRounds := 0 }) s).arrs :=
    foldl_field (·.arrs) (fun s e => by simp) _ _
  rw [State.arr, arrs]
  exact subRounds_foldl (or_iff_not_imp_right.mpr fun unlisted => subRounds_of_unlisted unlisted)

theorem claimedRounds_flue {e : Nat} (he : e < 128) :
    (claimedRounds s).flue e = { s.flue e with owed := 64 - min 64 (s.flue e).subRounds, subRounds := 0 } := by
  have flues : (s.arrs.foldl (fun s e => s.updArr e.1 fun a => { a with subRounds := 0 }) s).flue e = s.flue e :=
    foldl_field (g := fun s : State => s.flue e) (fun s e => by simp [State.flue]) _ _
  rw [claimedRounds, flue_foldl_range, if_pos he, flues]

theorem exec_sweepSubinterval_of_runs (runs : sweepRuns s = true) : exec .sweepSubinterval s = .next ((claimedRounds s).updSweep fun w => { w with
    forced := sat 32 (w.forced + lacking s), logicSub := [], subs := (w.subs + 1) % 64,
    cycles := if w.subs + 1 ≥ 64 then sat 32 (w.cycles + 1) else w.cycles }) := by
  have goes : (!sweepRuns s) = false := by simp [runs]
  simp only [exec_sweepSubinterval, execSweepSubinterval, goes, Bool.false_eq_true, if_false]
  rfl

/-! ## SWEEP_CONFIG and SELF_TEST -/

theorem exec_sweepConfig_of_testing {t : SelfTest} (ready : Ready s 0x81 ring seq c) (tests : s.test = some t) :
    exec (.sweepConfig ring seq) s = .next (finish s c stBusyTesting (t.sched.remain s.dev.now)) := by
  rw [exec_sweepConfig, execSweepConfig, onReady_of ready]
  simp only [tests]

theorem exec_sweepConfig_of_calibrating {r : CalRun} (ready : Ready s 0x81 ring seq c) (untested : s.test = none) (runs : s.cal.run = some r)
    (holds : s.cal.group16 = true) : exec (.sweepConfig ring seq) s = .next (finish s c stBusy (r.sched.remain s.dev.now)) := by
  rw [exec_sweepConfig, execSweepConfig, onReady_of ready]
  simp only [untested, runs, holds, if_true]

theorem exec_sweepConfig_of_free (ready : Ready s 0x81 ring seq c) (untested : s.test = none) (free : s.cal.run = none ∨ s.cal.group16 = false) :
    exec (.sweepConfig ring seq) s = .next (finish (s.updSweep fun w => { w with seed := c.p 0 8, duty := c.p 8 2 }) c stOk 0) := by
  have none_ : (if s.cal.group16 then s.cal.run else none) = none := by
    rcases free with idle | open_
    · rw [idle, ite_self]
    · rw [open_, if_neg Bool.false_ne_true]
  rw [exec_sweepConfig, execSweepConfig, onReady_of ready]
  simp only [untested, none_]

/-- A SELF_TEST that starts. -/
def startedTest (s : State) (ring seq : Nat) : SelfTest :=
  { ring := ring, seq := seq, sched := Sched.start s.dev.now (capW s.thm) 0 32000000000, done1 := 0, done2 := 0, done3 := 0,
    done4 := 0, done5 := 0, done6 := 0 }

theorem exec_selfTest_of_testing {t : SelfTest} (ready : Ready s 0x80 ring seq c) (tests : s.test = some t) :
    exec (.selfTest ring seq) s = .next (finish s c stBusyTesting (t.sched.remain s.dev.now)) := by
  rw [exec_selfTest, execSelfTest, onReady_of ready]
  simp only [tests]

theorem exec_selfTest_of_calibrating {r : CalRun} (ready : Ready s 0x80 ring seq c) (untested : s.test = none) (runs : s.cal.run = some r) :
    exec (.selfTest ring seq) s = .next (finish s c stBusy (r.sched.remain s.dev.now)) := by
  rw [exec_selfTest, execSelfTest, onReady_of ready]
  simp only [untested, runs]

theorem exec_selfTest_of_not_maintenance (ready : Ready s 0x80 ring seq c) (untested : s.test = none) (idle : s.cal.run = none)
    (other : s.dev.st ≠ .maintenance) : exec (.selfTest ring seq) s = .next (finish s c stNotPermitted 0) := by
  rw [exec_selfTest, execSelfTest, onReady_of ready]
  simp only [untested, idle]
  rw [if_pos other]

theorem exec_selfTest_of_maintenance (ready : Ready s 0x80 ring seq c) (untested : s.test = none) (idle : s.cal.run = none)
    (maintained : s.dev.st = .maintenance) :
    exec (.selfTest ring seq) s = .next (acceptLong { s with test := some (startedTest s ring seq) } { c with phase := .running }) := by
  rw [exec_selfTest, execSelfTest, onReady_of ready]
  simp only [untested, idle]
  rw [if_neg (not_not.mpr maintained)]
  rfl

/-! ## Phases of SELF_TEST -/

@[simp] theorem SelfTest.bump_ring (t : SelfTest) (p : Nat) : (t.bump p).ring = t.ring := by unfold SelfTest.bump; split <;> rfl
@[simp] theorem SelfTest.bump_seq (t : SelfTest) (p : Nat) : (t.bump p).seq = t.seq := by unfold SelfTest.bump; split <;> rfl

/-- The command of a SELF_TEST shows how far it has come. -/
def testShown (t : SelfTest) (c : Cmd) : Cmd := { c with position := t.arrays, progress := 1000 * t.arrays / 20480 }

/-- A unit has ended a phase of a SELF_TEST. -/
def unitTested (s : State) (t : SelfTest) (phase : Nat) (c : Cmd) : State :=
  putCmd { s with test := some (t.bump phase) } (testShown (t.bump phase) c)

/-- A unit is next in a phase of the test under way. -/
structure InPhase (s : State) (t : SelfTest) (c : Cmd) (phase unit : Nat) : Prop where
  tests : s.test = some t
  clocks : clocked s = true
  works : s.dev.st ≠ .failed
  found : findCmd s t.ring t.seq = some c
  atLeast : 1 ≤ phase
  atMost : phase ≤ 6
  next : unit = t.doneOf phase
  exists_ : unit < phaseUnits phase
  second : phase = 2 → unit < t.done1
  third : phase = 3 → min unit 20479 < t.done2

theorem testFault_st (clocks : clocked s = true) (works : s.dev.st ≠ .failed) (n u : Nat) : (testFault s n u).dev.st = .failed :=
  raiseErr_st_of_fatal clocks works rfl

theorem clocked_advanceSeq (s : State) (n : Nat) : clocked (advanceSeq s n) = clocked s := rfl
theorem advanceSeq_dev (s : State) (n : Nat) : (advanceSeq s n).dev = s.dev := rfl

section
variable {t : SelfTest} {phase : Nat} {found : TestFinding} (h : InPhase s t c phase unit)
include h

theorem InPhase.goes : (!clocked s || decide (phase = 0 ∨ phase > 6) || decide (unit ≠ t.doneOf phase ∨ unit ≥ phaseUnits phase) ||
    decide ((phase = 2 ∧ t.done1 ≤ unit) ∨ (phase = 3 ∧ t.done2 ≤ min unit 20479))) = false := by
  obtain ⟨-, clocks, -, -, atLeast, atMost, next, exists_, second, third⟩ := h
  have phases : ¬(phase = 0 ∨ phase > 6) := by omega
  have turn : ¬(unit ≠ t.doneOf phase ∨ unit ≥ phaseUnits phase) := by omega
  have behind : ¬((phase = 2 ∧ t.done1 ≤ unit) ∨ (phase = 3 ∧ t.done2 ≤ min unit 20479)) := by omega
  rw [clocks, decide_eq_false phases, decide_eq_false turn, decide_eq_false behind]
  rfl

theorem InPhase.exec_selfTestPhaseEnd_of_turn : exec (.selfTestPhaseEnd phase unit found) s =
    .next (if (phaseEffect (unitTested s t phase c) phase unit found).dev.st = .failed || !(t.bump phase).over_ then
        phaseEffect (unitTested s t phase c) phase unit found
      else match findCmd (marchArrays { phaseEffect (unitTested s t phase c) phase unit found with test := none }) t.ring t.seq with
        | none => marchArrays { phaseEffect (unitTested s t phase c) phase unit found with test := none }
        | some d => finish (marchArrays { phaseEffect (unitTested s t phase c) phase unit found with test := none }) d stOk 20480) := by
  have goes := h.goes
  have stands : findCmd { s with test := some (t.bump phase) } t.ring t.seq = some c := (findCmd_congr rfl _ _).trans h.found
  simp only [exec_selfTestPhaseEnd, execSelfTestPhaseEnd, h.tests, goes, Bool.false_eq_true, if_false, SelfTest.bump_ring, SelfTest.bump_seq, stands] <;> rfl

theorem InPhase.exec_selfTestPhaseEnd_of_failed (fails : (phaseEffect (unitTested s t phase c) phase unit found).dev.st = .failed) :
    ∃ v : State, exec (.selfTestPhaseEnd phase unit found) s = .next v ∧ v.dev.st = .failed := by
  refine ⟨_, h.exec_selfTestPhaseEnd_of_turn, ?_⟩
  rw [decide_eq_true fails, Bool.true_or, if_pos rfl, fails]

theorem InPhase.clocked_tested : clocked (unitTested s t phase c) = true := h.clocks
theorem InPhase.works_tested : (unitTested s t phase c).dev.st ≠ .failed := h.works

theorem InPhase.testFault_st_tested (n : Nat) : (testFault (unitTested s t phase c) n unit).dev.st = .failed :=
  testFault_st h.clocked_tested h.works_tested n unit

theorem InPhase.testFault_st_advanced (n k : Nat) : (testFault (advanceSeq (unitTested s t phase c) k) n unit).dev.st = .failed :=
  testFault_st ((clocked_advanceSeq _ _).trans h.clocked_tested) ((advanceSeq_dev (unitTested s t phase c) k) ▸ h.works_tested) n unit

theorem InPhase.sweepFail_st_tested (k u r : Nat) : (sweepFail (unitTested s t phase c) k u r).dev.st = .failed :=
  sweepFail_st (clocked_not_cold h.clocked_tested) k u r

theorem InPhase.phaseEffect_st_of_fault
    (counts : phase = 2 ∨ phase = 3 ∨ phase = 4 ∨ phase = 1 ∧ loadedArray s unit = false) :
    (phaseEffect (unitTested s t phase c) phase unit .fault).dev.st = .failed := by
  rcases counts with rfl | rfl | rfl | ⟨rfl, unloaded⟩
  · simp only [phaseEffect]
    exact h.testFault_st_advanced _ _
  · simp only [phaseEffect]
    rw [if_neg (by decide)]
    split
    · exact h.sweepFail_st_tested _ _ _
    split
    · exact h.sweepFail_st_tested _ _ _
    · exact h.sweepFail_st_tested _ _ _
  · exact h.testFault_st_tested 5
  · have empty : loadedArray (unitTested s t 1 c) unit = false := unloaded
    simp only [phaseEffect, empty, Bool.false_eq_true, if_false]
    exact h.testFault_st_tested 3

theorem InPhase.phaseEffect_st_of_wrongLevels {n m : Nat} (isSecond : phase = 2) (many : 8 ≤ n) :
    (phaseEffect (unitTested s t phase c) phase unit (.wrongLevels m n)).dev.st = .failed := by
  subst isSecond
  simp only [phaseEffect, if_pos many]
  exact h.testFault_st_advanced _ _

omit h in
/-- A loaded array that agrees with its golden copy is left as it is. -/
theorem goldCompare_of_same {u : State} (same : ∀ r, r < 1024 → dataBits (rowOf u unit r) = goldOf u unit r) : goldCompare u unit .clean = u := by
  have none_ : ((List.range 1024).filter fun r => decide (dataBits (rowOf u unit r) ≠ goldOf u unit r)) = [] :=
    List.filter_eq_nil_iff.mpr fun r mem => by simpa using same r (List.mem_range.mp mem)
  have clean : differing u unit .clean = [] := congrArg (List.map fun r => (r, rowOf u unit r)) none_
  rw [goldCompare, clean, List.foldl_nil]

theorem InPhase.phaseEffect_of_clean {u w : State} (hw : w = if phase = 2 then u.updCal fun k => { k with seqRow := k.seqRow % 64 } else u)
    (same : phase = 1 → loadedArray u unit = true → ∀ r, r < 1024 → dataBits (rowOf u unit r) = goldOf u unit r) :
    phaseEffect u phase unit .clean = w := by
  have second : advanceSeq u (65 * 2048) = u.updCal fun k => { k with seqRow := k.seqRow % 64 } := advanceSeq_of_whole (by norm_num) u
  have cases_ : phase = 1 ∨ phase = 2 ∨ phase = 3 ∨ phase = 4 ∨ phase = 5 ∨ phase = 6 := by
    obtain ⟨-, -, -, -, atLeast, atMost, -⟩ := h
    omega
  rcases cases_ with rfl | rfl | rfl | rfl | rfl | rfl
  · rw [hw, if_neg (by decide : (1 : Nat) ≠ 2)]
    simp only [phaseEffect]
    split
    next loaded => exact goldCompare_of_same (same rfl loaded)
    next => exact if_neg (by decide)
  · rw [hw, if_pos rfl, ← second]
    rfl
  · rw [hw, if_neg (by decide : (3 : Nat) ≠ 2)]
    rfl
  · rw [hw, if_neg (by decide : (4 : Nat) ≠ 2)]
    rfl
  · rw [hw, if_neg (by decide : (5 : Nat) ≠ 2)]
    rfl
  · rw [hw, if_neg (by decide : (6 : Nat) ≠ 2)]
    rfl
end

theorem unitTested_works {t : SelfTest} {phase : Nat} {w : State} (h : InPhase s t c phase unit)
    (hw : w = if phase = 2 then (unitTested s t phase c).updCal fun k => { k with seqRow := k.seqRow % 64 } else unitTested s t phase c) :
    w.dev.st ≠ .failed ∧ w.cmds = (unitTested s t phase c).cmds := by
  subst hw
  split <;> exact ⟨h.works, rfl⟩

/-- Settles O43: a round of good rows passes every slot, a digest is compared with the one that is held, and a phase's effect is that of what it found. -/
theorem sweepAndSelfTest : Obligations.SweepAndSelfTest := by
  refine ⟨⟨?round, fun s kind unit digest exists_ => ⟨roundsOf_endRound exists_, digestOf_endRound exists_, endRound_flits s kind unit digest⟩, ?digest,
    ?noDigest, fun _ _ _ _ _ _ next => nextDigest_eq_some next, fun _ _ known exists_ => partnerOf_involutive known exists_, ?interval, ?config⟩,
    ?start, ?clean, ?fault, ?other⟩
  case round =>
    rintro s kind unit slots digest r devs runs exists_ rfl
    refine ⟨fun idle near => ⟨fun logic whole => ?_, fun logic cut => ?_, ?_, fun isArray voided => ?_⟩, exec_sweepRound_of_paused⟩
    · rw [exec_sweepRound_of_idle runs exists_ idle near, if_neg logic, if_neg (not_lt.mpr whole)]
    · rw [exec_sweepRound_of_idle runs exists_ idle near, if_neg logic, if_pos cut]
    · rintro rfl whole good room
      obtain ⟨m, passes, checks, fails, others⟩ := sweepSlots_of_good (r := roundsOf s 0 unit) good whole room
      refine ⟨{ s with arrs := m }, ?_, checks, fails, rfl, rfl, rfl, others⟩
      have works : (({ s with arrs := m } : State).dev.st != .failed) = true := bne_iff_ne.mpr (works_of_sweepRuns runs).2
      rw [exec_sweepRound_of_idle runs exists_ idle near, if_pos rfl, passes, works]
      rfl
    · rw [exec_sweepRound_of_idle runs exists_ idle near, if_pos isArray, voided]
      rfl
  case digest =>
    rintro s kind unit r d f agree t u next runs free later rfl rfl
    have arrived : ∀ agree, exec (.sweepDigest kind unit agree) s = _ := fun agree => exec_sweepDigest_of_arrived (agree := agree) next runs free later
    have dev : (dropDigests { s with flits := s.flits.erase f } kind unit r).dev = s.dev :=
      dropDigests_frame (g := (·.dev)) (by simp) (by simp) (by simp) _ kind unit r
    have err : (dropDigests { s with flits := s.flits.erase f } kind unit r).err = s.err :=
      dropDigests_frame (g := (·.err)) (by simp) (by simp) (by simp) _ kind unit r
    obtain ⟨clocks, works⟩ := works_of_sweepRuns runs
    refine ⟨fun same => (arrived agree).trans (congrArg _ (if_pos same)), fun some_ differs => ⟨fun idle => ?_, fun stays => ⟨?_, ?_⟩⟩⟩
    · rw [raiseErr_dev_of_free (by simpa [err] using idle) rfl rfl, State.updSweep_dev, dev]
      exact works
    · exact (arrived true).trans (congrArg _ ((if_neg (not_or.mpr ⟨some_, differs⟩)).trans (digestsDiffer_of_transient stays)))
    · refine ⟨_, (arrived false).trans (congrArg _ ((if_neg (not_or.mpr ⟨some_, differs⟩)).trans (digestsDiffer_of_confirmed stays))), sweepFail_st ?_ _ _ _⟩
      have notCold : ((dropDigests { s with flits := s.flits.erase f } kind unit r).updSweep fun w => { w with lastUnit := unit, lastKind := kind }).dev.st ≠
          .cold := by
        rw [State.updSweep_dev, dev]
        exact clocked_not_cold clocks
      rcases raiseErr_st_of_elsewhere (e := { domain := 3, code := 0x4006, unit := unit, detail := 0, act := .elsewhere }) notCold rfl with same | failed
      · exact same ▸ notCold
      · exact absurd failed stays
  case noDigest =>
    intro s kind unit agree none_
    simp only [exec_sweepDigest, execSweepDigest, none_]
  case interval =>
    intro s runs
    have sweep : (claimedRounds s).sweep = s.sweep := claimedRounds_frame (g := (·.sweep)) (by simp) (by simp) s
    refine ⟨_, exec_sweepSubinterval_of_runs runs, by simp [sweep], by simp [sweep], by simp [sweep], by simp [sweep], fun a => ?_, fun e he => ?_⟩
    · rw [updSweep_arr, claimedRounds_arr]
    · rw [updSweep_flue, claimedRounds_flue he]
      exact ⟨rfl, rfl⟩
  case config =>
    intro s ring seq c ready
    exact ⟨exec_sweepConfig_of_free ready, fun r untested runs holds => exec_sweepConfig_of_calibrating ready untested runs holds,
      fun t tests => exec_sweepConfig_of_testing ready tests⟩
  case start =>
    intro s ring seq c ready
    exact ⟨exec_selfTest_of_maintenance ready, exec_selfTest_of_not_maintenance ready,
      fun r untested runs => exec_selfTest_of_calibrating ready untested runs, fun t tests => exec_selfTest_of_testing ready tests⟩
  case clean =>
    intro s t c phase unit u w tests clocks works found atLeast atMost next exists_ second third hu hw same
    have h : InPhase s t c phase unit := ⟨tests, clocks, works, found, atLeast, atMost, next, exists_, second, third⟩
    have hu' : u = unitTested s t phase c := hu
    have effect := h.phaseEffect_of_clean hw same
    rw [hu'] at effect
    rw [h.exec_selfTestPhaseEnd_of_turn, effect]
    obtain ⟨on, cmds⟩ := unitTested_works h (hu' ▸ hw)
    refine ⟨fun more => ?_, fun over_ => ⟨testShown (t.bump phase) c, ?_⟩⟩
    · rw [more, Bool.not_false, Bool.or_true, if_pos rfl]
    · have stands : findCmd (marchArrays { w with test := none }) t.ring t.seq = some (testShown (t.bump phase) c) := by
        rw [findCmd_congr (show (marchArrays { w with test := none }).cmds = (unitTested s t phase c).cmds from cmds)]
        exact findCmd_putCmd (s := { s with test := some (t.bump phase) }) ((findCmd_congr rfl _ _).trans found) rfl rfl rfl
          fun a b => original_of_findCmd found a b
      refine ⟨stands, ?_⟩
      rw [decide_eq_false on, over_, Bool.not_true, Bool.or_false, if_neg Bool.false_ne_true, stands]
  case fault =>
    intro s t c phase unit tests clocks works found next exists_ second third
    refine ⟨fun counts => ?_, fun n m isSecond many => ?_⟩
    · have h : InPhase s t c phase unit := ⟨tests, clocks, works, found, by omega, by omega, next, exists_, second, third⟩
      exact h.exec_selfTestPhaseEnd_of_failed (h.phaseEffect_st_of_fault counts)
    · have h : InPhase s t c phase unit := ⟨tests, clocks, works, found, by omega, by omega, next, exists_, second, third⟩
      exact h.exec_selfTestPhaseEnd_of_failed (h.phaseEffect_st_of_wrongLevels isSecond many)
  case other =>
    intro s t phase unit found tests other
    have stands : (!clocked s || decide (phase = 0 ∨ phase > 6) || decide (unit ≠ t.doneOf phase ∨ unit ≥ phaseUnits phase) ||
        decide ((phase = 2 ∧ t.done1 ≤ unit) ∨ (phase = 3 ∧ t.done2 ≤ min unit 20479))) = true := by
      rw [decide_eq_true (Or.inl other : unit ≠ t.doneOf phase ∨ unit ≥ phaseUnits phase), Bool.or_true, Bool.true_or]
    simp only [exec_selfTestPhaseEnd, execSelfTestPhaseEnd, tests, stands, if_true]

end Sys2Proof.Machine
end

section
/-! STATE_SET, WAKE, POWER_LIMIT and POWER_DOWN (12_graec_commands R302; 18_power R427, R428, R430; 19_thermal R444). -/

namespace Sys2Proof.Machine

variable {s : State} {ring seq target gib : Nat} {c : Cmd}

/-! ## STATE_SET -/

theorem exec_stateSet_of_ready (ready : Ready s 0xB1 ring seq c) : exec (.stateSet ring seq) s = .next (stateSet s c) := by
  rw [exec_stateSet, execStateSet, onReady_of ready]

theorem stateSet_of_same (same : s.dev.st.code = c.p 0 1) (kept : s.dev.st ≠ .maintenance ∨ c.p 2 2 = 0xFFFF) :
    stateSet s c = finish s c stOk (c.p 0 1) := by
  have stays : ¬(s.dev.st = .maintenance ∧ decide (c.p 2 2 ≠ 0xFFFF) = true) := by
    rintro ⟨st, fresh⟩
    exact kept.elim (· st) (by simpa using fresh)
  rw [stateSet, if_pos same, if_neg stays]

theorem stateSet_of_layout (maintained : s.dev.st = .maintenance) (aim : c.p 0 1 = 3) (fresh : c.p 2 2 ≠ 0xFFFF) (empty : anyCtx s = false) :
    stateSet s c = finish (applyLayout (s.updKv fun k => { k with tableGibSet := c.p 2 2 })) c stOk 3 := by
  have same : s.dev.st.code = c.p 0 1 := by rw [maintained, aim]; rfl
  rw [stateSet, if_pos same, if_pos ⟨maintained, by simpa using fresh⟩, empty, if_neg Bool.false_ne_true, keepGib, if_neg fresh]

section
variable (unchanged : c.p 2 2 = 0xFFFF)
include unchanged

/-- Without a new TABLE_GIB a change of state is not refused for it. -/
theorem not_refused_of_unchanged : ¬(decide (c.p 2 2 ≠ 0xFFFF) && (c.p 0 1 != 3 || anyCtx s)) = true := by simp [unchanged]

section
variable (maintained : s.dev.st = .maintenance) (aim : c.p 0 1 = 4)
include maintained aim

theorem stateSet_of_untrimmed (untrimmed : s.cal.source = 0) : stateSet s c = finish s c stNotPermitted 0 := by
  have other : s.dev.st.code ≠ c.p 0 1 := by rw [maintained, aim]; decide
  rw [stateSet, if_neg other, if_neg (not_refused_of_unchanged unchanged)]
  simp only [maintained, aim, untrimmed, if_true]

variable (trimmed : s.cal.source ≠ 0)
include trimmed

theorem stateSet_of_calibrating {r : CalRun} (runs : s.cal.run = some r) : stateSet s c = finish s c stBusy (r.sched.remain s.dev.now) := by
  have other : s.dev.st.code ≠ c.p 0 1 := by rw [maintained, aim]; decide
  rw [stateSet, if_neg other, if_neg (not_refused_of_unchanged unchanged)]
  simp only [maintained, aim, trimmed, if_false, runs]

theorem stateSet_of_testing {t : SelfTest} (idle : s.cal.run = none) (tests : s.test = some t) :
    stateSet s c = finish s c stBusy (t.sched.remain s.dev.now) := by
  have other : s.dev.st.code ≠ c.p 0 1 := by rw [maintained, aim]; decide
  rw [stateSet, if_neg other, if_neg (not_refused_of_unchanged unchanged)]
  simp only [maintained, aim, trimmed, if_false, idle, tests]

theorem stateSet_of_service (idle : s.cal.run = none) (untested : s.test = none) : stateSet s c = finish (goState s .service) c stOk 4 := by
  have other : s.dev.st.code ≠ c.p 0 1 := by rw [maintained, aim]; decide
  rw [stateSet, if_neg other, if_neg (not_refused_of_unchanged unchanged)]
  simp only [maintained, aim, trimmed, if_false, idle, untested]
end

section
variable (serves : s.dev.st = .service)
include serves

theorem stateSet_of_leaving (aim : c.p 0 1 = 3) :
    stateSet s c = endLeave (putCmd s { c with phase := .draining }) { c with phase := .draining } := by
  have other : s.dev.st.code ≠ c.p 0 1 := by rw [serves, aim]; decide
  rw [stateSet, if_neg other, if_neg (not_refused_of_unchanged unchanged)]
  simp only [serves, aim]

variable (unchained : anyChimney s = false)
include unchained

theorem stateSet_of_sleep (aim : c.p 0 1 = 5) : stateSet s c =
    if (s.cmds.any fun d => d.order != c.order) then finish s c stBusy 100000 else finish (goState s .sleep) c stOk 5 := by
  have other : s.dev.st.code ≠ c.p 0 1 := by rw [serves, aim]; decide
  rw [stateSet, if_neg other, if_neg (not_refused_of_unchanged unchanged)]
  simp only [serves, aim, unchained]
  rfl

theorem stateSet_of_deepSleep (aim : c.p 0 1 = 6) (l1 : s.host.aspmL1 = true) : stateSet s c =
    if (s.cmds.any fun d => d.order != c.order) then finish s c stBusy 100000 else leaveL0 (finish (goState s .deepSleep) c stOk 6) := by
  have other : s.dev.st.code ≠ c.p 0 1 := by rw [serves, aim]; decide
  rw [stateSet, if_neg other, if_neg (not_refused_of_unchanged unchanged)]
  simp only [serves, aim, unchained, l1]
  rfl
end

theorem stateSet_of_waking (asleep : s.dev.st = .sleep ∨ s.dev.st = .deepSleep) (aim : c.p 0 1 = 3 ∨ c.p 0 1 = 4) :
    stateSet s c = (putCmd s { c with phase := .waking }).updDev fun d => { d with wake := true } := by
  have other : s.dev.st.code ≠ c.p 0 1 := by rcases asleep with st | st <;> rcases aim with aim | aim <;> rw [st, aim] <;> decide
  rw [stateSet, if_neg other, if_neg (not_refused_of_unchanged unchanged)]
  rcases asleep with st | st <;> rcases aim with aim | aim <;> simp only [st, aim]

theorem stateSet_of_unlisted (other : c.p 0 1 ≠ s.dev.st.code) (unlisted : s.dev.st = .maintenance ∧ c.p 0 1 ≠ 4 ∨
      s.dev.st = .service ∧ c.p 0 1 ≠ 3 ∧ c.p 0 1 ≠ 5 ∧ c.p 0 1 ≠ 6 ∨
      (s.dev.st = .sleep ∨ s.dev.st = .deepSleep) ∧ c.p 0 1 ≠ 3 ∧ c.p 0 1 ≠ 4) : stateSet s c = finish s c stNotPermitted 0 := by
  rw [stateSet, if_neg other.symm, if_neg (not_refused_of_unchanged unchanged)]
  split
  next st aim => simp [st, aim] at unlisted
  next st aim => simp [st, aim] at unlisted
  next st aim => simp [st, aim] at unlisted
  next st aim => simp [st, aim] at unlisted
  next st aim => simp [st, aim] at unlisted
  next st aim => simp [st, aim] at unlisted
  next st aim => simp [st, aim] at unlisted
  next st aim => simp [st, aim] at unlisted
  next => rfl
end

/-! ## WAKE -/

theorem exec_wake_of_asleep (clocks : clocked s = true) (waits : s.dev.wake = true) (asleep : s.dev.st = .sleep ∨ s.dev.st = .deepSleep) :
    exec .wake s = .next { ((goState s .service).updDev fun d => { d with wake := false }) with
      cmds := (goState s .service).cmds.map fun c => if c.phase = .waking then { c with phase := .ready } else c } := by
  have goes : (clocked s && s.dev.wake && (s.dev.st == .sleep || s.dev.st == .deepSleep)) = true := by
    rcases asleep with st | st <;> simp [clocks, waits, st]
  simp only [exec_wake, execWake, goes, if_true]
  rfl

/-! ## POWER_LIMIT and POWER_DOWN -/

theorem exec_powerLimit_of_ready (ready : Ready s 0xB0 ring seq c) : exec (.powerLimit ring seq) s =
    .next (finish (s.updThm fun t => { t with limitNext := c.p 0 2 }) c stOk (capW { s.thm with limitW := c.p 0 2 })) := by
  rw [exec_powerLimit, execPowerLimit, onReady_of ready]
  rfl

section
variable {d : Cmd} {t : State} (ready : Ready s 0xB2 ring seq c)
include ready

theorem exec_powerDown_of_not_maintenance (other : s.dev.st ≠ .maintenance) : exec (.powerDown ring seq) s = .next (finish s c stNotPermitted 0) := by
  rw [exec_powerDown, execPowerDown, onReady_of ready, if_pos other]

theorem exec_powerDown_of_maintenance (maintained : s.dev.st = .maintenance) (hd : d = { c with phase := .draining })
    (ht : t = putCmd { s with rings := s.rings.map fun e => (e.1, e.2.map fun q => { q with stopped := true }) } d) :
    exec (.powerDown ring seq) s = .next (endPower t d) := by
  subst hd ht
  rw [exec_powerDown, execPowerDown, onReady_of ready, if_neg (not_not.mpr maintained)]
end

theorem endPower_of_other (other : ∃ d ∈ s.cmds, d.order ≠ c.order) : endPower s c = s := by
  have waits : (s.cmds.any fun d => d.order != c.order) = true := by simpa using other
  rw [endPower, if_pos waits]

/-- Settles O44: each transition of STATE_SET by its row; POWER_DOWN by whether it is alone. -/
theorem deviceStatesAndPower : Obligations.DeviceStatesAndPower := by
  refine ⟨⟨?states, ?wake, ?goes⟩, fun s ring seq c ready => exec_powerLimit_of_ready ready, ?down, fun s => ⟨rfl, rfl, rfl, rfl, rfl, rfl⟩⟩
  case states =>
    rintro s ring seq target gib c ready rfl rfl
    rw [exec_stateSet_of_ready ready]
    refine ⟨fun same kept => congrArg _ (stateSet_of_same same kept), fun maintained aim fresh empty => congrArg _ (stateSet_of_layout maintained aim fresh empty),
      fun maintained aim unchanged trimmed idle untested => congrArg _ (stateSet_of_service unchanged maintained aim trimmed idle untested),
      fun maintained aim unchanged untrimmed => congrArg _ (stateSet_of_untrimmed unchanged maintained aim untrimmed),
      fun serves aim unchanged => ?_, fun serves _ unchanged unchained l1 alone => ?_, fun serves aims unchanged unchained l1 others => ?_,
      fun maintained aim unchanged trimmed => ⟨fun r runs => congrArg _ (stateSet_of_calibrating unchanged maintained aim trimmed runs),
        fun t idle tests => congrArg _ (stateSet_of_testing unchanged maintained aim trimmed idle tests)⟩,
      fun asleep aim unchanged => congrArg _ (stateSet_of_waking unchanged asleep aim),
      fun unchanged other unlisted => congrArg _ (stateSet_of_unlisted unchanged other unlisted)⟩
    · rw [stateSet_of_leaving unchanged serves aim, endLeave]
      refine ⟨fun left => congrArg _ (if_pos left), fun none_ => ?_⟩
      have keeps : keepGib (putCmd s { c with phase := .draining }) (Cmd.p { c with phase := .draining } 2 2) = putCmd s { c with phase := .draining } :=
        if_pos unchanged
      rw [none_, if_neg Bool.false_ne_true, keeps]
    · have noOther : (s.cmds.any fun d => d.order != c.order) = false := by simpa using alone
      refine ⟨fun aim => ?_, fun aim => ?_⟩
      · rw [stateSet_of_sleep unchanged serves unchained aim, noOther, if_neg Bool.false_ne_true]
      · rw [stateSet_of_deepSleep unchanged serves unchained aim (l1 aim), noOther, if_neg Bool.false_ne_true]
    · have busy : (s.cmds.any fun d => d.order != c.order) = true := by simpa using others
      rcases aims with aim | aim
      · rw [stateSet_of_sleep unchanged serves unchained aim, if_pos busy]
      · rw [stateSet_of_deepSleep unchanged serves unchained aim (l1 aim), if_pos busy]
  case wake =>
    intro s clocks waits asleep
    exact ⟨_, exec_wake_of_asleep clocks waits asleep, by simp [goState], by simp, by simp, by simp, by simp, by simp, by simp⟩
  case goes =>
    intro s st
    exact ⟨by simp [goState], by simp [goState], by simp [goState], by simp, by simp, by simp, by simp⟩
  case down =>
    intro s ring seq c d t ready hd ht
    have order : d.order = c.order := by rw [hd]
    refine ⟨fun other => exec_powerDown_of_not_maintenance ready other, fun maintained alone => ?_, fun maintained others => ?_⟩
    · rw [exec_powerDown_of_maintenance ready maintained hd ht, endPower_of_alone (order ▸ alone)]
    · rw [exec_powerDown_of_maintenance ready maintained hd ht, endPower_of_other (order ▸ others)]

end Sys2Proof.Machine
end

section
/-! OP_PROGRESS, OP_ABORT, FW_STAGE and FW_ACTIVATE (11_graec_rings R278; 12_graec_commands R305, R307, R308; 21_host_interface R477, R479). -/

namespace Sys2Proof.Machine

variable {s : State} {ring seq : Nat} {c t d : Cmd}

/-! ## Targets -/

theorem opTarget_of_unringed (unringed : ownsRing s c.fn (c.p 0 4) = false ∨ look s.rings (c.p 0 4) = none) : opTarget s c = .error stBadHandle := by
  have refused : (!ownsRing s c.fn (c.p 0 4) || (look s.rings (c.p 0 4)).isNone) = true := by
    rcases unringed with other | none_
    · rw [other]
      rfl
    · rw [none_, Option.isNone_none, Bool.or_true]
  exact if_pos refused

section
variable (own : ownsRing s c.fn (c.p 0 4) = true) (created : (look s.rings (c.p 0 4)).isSome = true)
include own created

theorem opTarget_of_ringed : opTarget s c = match findCmd s (c.p 0 4) (c.p 4 4) with
    | none => .error stBadHandle
    | some t => if isLong t.pkt then .ok t else .error stNotPermitted := by
  have allowed : ¬(!ownsRing s c.fn (c.p 0 4) || (look s.rings (c.p 0 4)).isNone) = true := by
    rw [own, Option.isNone_eq_false_iff.mpr created]
    exact Bool.false_ne_true
  exact if_neg allowed

theorem opTarget_of_none (gone : findCmd s (c.p 0 4) (c.p 4 4) = none) : opTarget s c = .error stBadHandle := by
  rw [opTarget_of_ringed own created, gone]

variable (stands : findCmd s (c.p 0 4) (c.p 4 4) = some t)
include stands

theorem opTarget_of_short (short : isLong t.pkt = false) : opTarget s c = .error stNotPermitted := by
  rw [opTarget_of_ringed own created, stands]
  exact if_neg (Bool.eq_false_iff.mp short)

theorem opTarget_of_long (long : isLong t.pkt = true) : opTarget s c = .ok t := by
  rw [opTarget_of_ringed own created, stands]
  exact if_pos long
end

theorem refreshed_of_told {r q : Nat} (stands : findCmd s r q = some t) (told : t.pkt.opc ≠ 0x70) : refreshed s t = (s, t) := by
  obtain ⟨ring, seq⟩ := findCmd_eq_some stands
  simp only [refreshed, if_neg told, ring, seq, stands, Option.getD_some]

theorem exec_opProgress_of_refused {st : Nat} (ready : Ready s 0xE0 ring seq c) (refused : opTarget s c = .error st) :
    exec (.opProgress ring seq) s = .next (finish s c st 0) := by
  rw [exec_opProgress, execOpProgress, onReady_of ready, refused]

theorem exec_opProgress_of_told {r q : Nat} (ready : Ready s 0xE0 ring seq c) (target : opTarget s c = .ok t) (stands : findCmd s r q = some t)
    (told : t.pkt.opc ≠ 0x70) : exec (.opProgress ring seq) s =
      .next (finish (putCmd s { c with progress := t.progress }) { c with progress := t.progress } stOk t.position) := by
  rw [exec_opProgress, execOpProgress, onReady_of ready, target]
  simp only [refreshed_of_told stands told]

theorem exec_opAbort_of_refused {st : Nat} (ready : Ready s 0xE1 ring seq c) (refused : opTarget s c = .error st) :
    exec (.opAbort ring seq) s = .next (finish s c st 0) := by
  rw [exec_opAbort, execOpAbort, onReady_of ready, refused]

/-- CTX_LOAD, TABLE_LOAD and FW_STAGE are stopped where they stand. -/
def Stoppable (t : Cmd) : Prop := t.pkt.opc = 0x22 ∨ t.pkt.opc = 0x30 ∨ t.pkt.opc = 0xF0

theorem Stoppable.long (stoppable : Stoppable t) : isLong t.pkt = true := by
  rcases stoppable with opc | opc | opc <;> simp [isLong, opc]

theorem Stoppable.abortOp (stoppable : Stoppable t) (s : State) : abortOp s t = finish s t stCancelled t.position := by
  rcases stoppable with opc | opc | opc <;> simp [Machine.abortOp, opc]

theorem Stoppable.told (stoppable : Stoppable t) : t.pkt.opc ≠ 0x70 := by
  rcases stoppable with opc | opc | opc <;> rw [opc] <;> decide

theorem exec_opAbort_of_stoppable {r q : Nat} (ready : Ready s 0xE1 ring seq c) (target : opTarget s c = .ok t) (stands : findCmd s r q = some t)
    (stoppable : Stoppable t) (hd : d = { c with phase := .draining, position := t.position }) :
    exec (.opAbort ring seq) s = .next (endAbort (finish (putCmd s d) t stCancelled t.position) d) := by
  subst hd
  rw [exec_opAbort, execOpAbort, onReady_of ready, target]
  simp only [refreshed_of_told stands stoppable.told, stoppable.abortOp]

/-! ## Firmware -/

theorem exec_fwStage_of_free (ready : Ready s 0xF0 ring seq c) (free : ∀ d ∈ s.cmds, d.pkt.opc = 0xF0 → d.phase ≠ .running) :
    exec (.fwStage ring seq) s = .next (acceptLong ((setSlot s (1 - s.dev.fwRunning) { valid := false, major := 0, minor := 0 }).updDev fun d =>
      { d with fwStaged := none }) { c with phase := .running }) := by
  have none_ : (s.cmds.any fun d => d.pkt.opc == 0xF0 && decide (d.phase = .running)) = false := by simpa using free
  obtain ⟨found, clocks, opc, phase, turn⟩ := ready
  simp [exec_fwStage, execFwStage, onLong, found, clocks, opc, phase, turn, none_]

theorem exec_fwStage_of_busy (ready : Ready s 0xF0 ring seq c) (busy : ∃ d ∈ s.cmds, d.pkt.opc = 0xF0 ∧ d.phase = .running) :
    exec (.fwStage ring seq) s = .next (finish s.draw.2 c stBusy (Config.retryNs 0xF0 s.draw.1)) := by
  have some_ : (s.cmds.any fun d => d.pkt.opc == 0xF0 && decide (d.phase = .running)) = true := by simpa using busy
  obtain ⟨found, clocks, opc, phase, turn⟩ := ready
  simp [exec_fwStage, execFwStage, onLong, found, clocks, opc, phase, turn, some_]

section
variable {b : List Byte} (running : Running s 0xF0 ring seq c) (hb : b = s.hostRead (c.p 0 8) (c.p 8 8)) (hd : d = { c with position := b.length })
include running hb hd

theorem exec_fwStage_of_bad {o : Nat} (bad : fwBad s.dev.stepping b = some o) :
    exec (.fwStage ring seq) s = .next (badParam (logSigFail s (1 - s.dev.fwRunning) 1) d (payloadOff 32 o)) := by
  subst hb hd
  simp only [exec_fwStage, execFwStage, onLong_running running, bad]

theorem exec_fwStage_of_good (good : fwBad s.dev.stepping b = none) : exec (.fwStage ring seq) s = .next (finish
    ((setSlot s (1 - s.dev.fwRunning) { valid := true, major := field b 4 1, minor := field b 5 1 }).updDev fun x =>
      { x with fwStaged := some (1 - s.dev.fwRunning) }) d stOk (1 - s.dev.fwRunning)) := by
  subst hb hd
  simp only [exec_fwStage, execFwStage, onLong_running running, good]
end

/-- The step of `firstBad`: a bad field counts when its offset is the least. -/
def worse (a : Option Nat) (e : Nat × Bool) : Option Nat := if e.2 then a else some (a.elim e.1 fun b => min b e.1)

theorem firstBad_eq_foldl (l : List (Nat × Bool)) : firstBad l = l.foldl worse none := by
  refine congrArg (fun f => l.foldl f none) (funext₂ fun a e => ?_)
  cases a <;> rfl

theorem good_of_foldl_eq_none {l : List (Nat × Bool)} {a : Option Nat} (none_ : l.foldl worse a = none) : a = none ∧ ∀ e ∈ l, e.2 = true := by
  induction l generalizing a with
  | nil => exact ⟨none_, fun _ mem => nomatch mem⟩
  | cons e l ih =>
    obtain ⟨kept, rest⟩ := ih none_
    cases good : e.2 with
    | true =>
      rw [worse, good, if_pos rfl] at kept
      exact ⟨kept, List.forall_mem_cons.mpr ⟨good, rest⟩⟩
    | false =>
      rw [worse, good, if_neg Bool.false_ne_true] at kept
      cases kept

theorem good_of_firstBad {l : List (Nat × Bool)} (none_ : firstBad l = none) : ∀ e ∈ l, e.2 = true :=
  (good_of_foldl_eq_none ((firstBad_eq_foldl l).symm.trans none_)).2

theorem fwBad_eq_none {stepping : Nat} {b : List Byte} (good : fwBad stepping b = none) : field b 0 4 = 0x49574656 ∧ field b 4 1 = 1 ∧
    field b 5 1 ≤ 6 ∧ b.length = 112 + field b 8 4 ∧ Config.sigOk b = true := by
  simp only [fwBad] at good
  split at good
  next => cases good
  next layout =>
    have fields := good_of_firstBad layout
    simp only [List.forall_mem_cons, beq_iff_eq, decide_eq_true_eq] at fields
    obtain ⟨magic, version, minor, -, -, length, -⟩ := fields
    refine ⟨magic, version, minor, length, ?_⟩
    by_contra unsigned
    rw [if_neg unsigned] at good
    cases good

section
variable (ready : Ready s 0xF1 ring seq c)
include ready

theorem exec_fwActivate_of_refused (refused : s.dev.fwStaged = none ∨ anyCtx s = true) :
    exec (.fwActivate ring seq) s = .next (finish s c stNotPermitted 0) := by
  rw [exec_fwActivate, execFwActivate, onReady_of ready]
  cases staged : s.dev.fwStaged with
  | none => rfl
  | some slot => exact congrArg _ (if_pos (refused.resolve_left (by simp [staged])))

theorem exec_fwActivate_of_staged {slot : Nat} (staged : s.dev.fwStaged = some slot) (empty : anyCtx s = false) : exec (.fwActivate ring seq) s =
    .next (restartFw (raiseAll (finish (s.updDev fun d => { d with
      fwSelect := slot, fwActivating := some (d.fwRunning, d.fwMajor, d.fwMinor), fwStaged := none }) c stOk slot))) := by
  rw [exec_fwActivate, execFwActivate, onReady_of ready]
  simp only [staged, empty, Bool.false_eq_true, if_false]
end

/-- Settles O45: a command on another follows from its target; an image by the fields its checks read. -/
theorem longOperationsAndFirmware : Obligations.LongOperationsAndFirmware := by
  refine ⟨⟨?progress, ?abort, fun s ring seq c ready none_ => exec_opAbort_of_refused ready (opTarget_of_unringed (.inr none_))⟩,
    fun s ring seq c ready => ⟨exec_fwStage_of_free ready, exec_fwStage_of_busy ready⟩,
    fun s ring seq c d b running hb hd => ⟨fun o bad => exec_fwStage_of_bad running hb hd bad, exec_fwStage_of_good running hb hd⟩,
    fun _ _ good => fwBad_eq_none good,
    fun s ring seq c ready => ⟨exec_fwActivate_of_refused ready, fun slot staged empty => ⟨_, rfl, exec_fwActivate_of_staged ready staged empty⟩⟩,
    fun s => ⟨rfl, rfl, rfl, rfl, rfl, rfl⟩⟩
  case progress =>
    intro s ring seq c ready
    refine ⟨fun refused => exec_opProgress_of_refused ready ?_, fun t own created stands => ⟨fun short => ?_, fun long told => ?_⟩⟩
    · by_cases unringed : ownsRing s c.fn (c.p 0 4) = false ∨ look s.rings (c.p 0 4) = none
      · exact opTarget_of_unringed unringed
      · obtain ⟨own, created⟩ := not_or.mp unringed
        have gone := (refused.resolve_left own).resolve_left created
        exact opTarget_of_none (Bool.not_eq_false _ ▸ own) (Option.isSome_iff_ne_none.mpr created) gone
    · exact exec_opProgress_of_refused ready (opTarget_of_short own created stands short)
    · exact exec_opProgress_of_told ready (opTarget_of_long own created stands long) stands told
  case abort =>
    rintro s ring seq c t d u ready own created stands stoppable hd rfl
    have cancels := exec_opAbort_of_stoppable ready (opTarget_of_long own created stands (Stoppable.long stoppable)) stands stoppable hd
    rw [cancels, endAbort, hd]
    refine ⟨fun gone => congrArg _ ((if_neg ?_).trans rfl), fun stays => congrArg _ (if_pos (Option.isSome_iff_ne_none.mpr stays))⟩
    exact Bool.eq_false_iff.mp (Option.isSome_eq_false_iff.mpr (Option.isNone_iff_eq_none.mpr gone))

end Sys2Proof.Machine
end

section
/-! RECORD_START, RECORD_STOP and REPLAY (15_determinism R375 to R378; 12_graec_commands R304). -/

namespace Sys2Proof.Machine

variable {s : State} {ring seq : Nat} {c : Cmd} {x : Ctx}

/-! ## Recording -/

/-- The capture a RECORD_START begins. -/
def Capture.start (c : Cmd) : Capture :=
  { buf := c.p 0 8, len := c.p 8 8, bytes := 128, records := 0, unmarked := 0, truncated := false, ords := [] }

theorem exec_recordStart_of_refused (ready : Ready s 0xD0 ring seq c) (on : OnCtx s c x) (taken : x.chimney = true ∨ x.capture.isSome = true) :
    exec (.recordStart ring seq) s = .next (finish s c stNotPermitted 0) := by
  rw [exec_recordStart, execRecordStart, onReady_of ready, onCtx_of on]
  exact congrArg _ (if_pos (by simpa using taken))

theorem exec_recordStart_of_free (ready : Ready s 0xD0 ring seq c) (on : OnCtx s c x) (own : x.chimney = false) (idle : x.capture = none) :
    exec (.recordStart ring seq) s = .next (finish ((s.hostWrite (Capture.start c).buf
      (captureHead s c.pkt.ctx s.dev.now (Capture.start c) ++ natLe 64 0)).updCtx c.pkt.ctx fun x =>
        { x with capture := some (Capture.start c) }) c stOk 0) := by
  rw [exec_recordStart, execRecordStart, onReady_of ready, onCtx_of on]
  exact congrArg _ (if_neg (by simp [own, idle]))

theorem exec_recordStop_of_recording {k : Capture} (ready : Ready s 0xD1 ring seq c) (on : OnCtx s c x) (recording : x.capture = some k) :
    exec (.recordStop ring seq) s = .next (finish ((s.hostWrite k.buf ((captureHead s c.pkt.ctx 0 k).take 32)).updCtx c.pkt.ctx fun x =>
      { x with capture := none }) c stOk (k.bytes % 2 ^ 40 + 2 ^ 63 * b2n k.truncated)) := by
  rw [exec_recordStop, execRecordStop, onReady_of ready, onCtx_of on, recording]

theorem exec_recordStop_of_idle (ready : Ready s 0xD1 ring seq c) (on : OnCtx s c x) (idle : x.capture = none) :
    exec (.recordStop ring seq) s = .next (finish s c stNotPermitted 0) := by
  rw [exec_recordStop, execRecordStop, onReady_of ready, onCtx_of on, idle]

/-! ## Records -/

section
variable {ctx kind phase ctile disp ord pos n : Nat} {body : List Byte} {k : Capture}

/-- A record's bytes in the buffer: its head, its body, and zeros up to the next 8-byte line (R376). -/
def recordBytes (kind phase ctile disp ord pos : Nat) (body : List Byte) : List Byte :=
  (natLe 1 kind ++ natLe 1 phase ++ natLe 2 ctile ++ natLe 4 body.length ++ natLe 8 disp ++ natLe 4 ord ++ natLe 4 pos) ++ body ++
    natLe ((8 - body.length % 8) % 8) 0

theorem recordBytes_length : (recordBytes kind phase ctile disp ord pos body).length = 24 + body.length + (8 - body.length % 8) % 8 := by
  simp only [recordBytes, List.length_append, natLe_length]

theorem body_infix_recordBytes : body <:+: recordBytes kind phase ctile disp ord pos body := ⟨_, _, rfl⟩

variable (loaded : look s.ctxs ctx = some x) (recording : x.capture = some k) (whole : k.truncated = false)
  (hn : n = 24 + body.length + (8 - body.length % 8) % 8)
include loaded recording whole hn

theorem appendRec_of_room (room : k.bytes + n ≤ k.len) : appendRec s ctx kind phase ctile disp ord pos body =
    (s.hostWrite (k.buf + k.bytes) (recordBytes kind phase ctile disp ord pos body)).updCtx ctx fun x =>
      { x with capture := some { k with bytes := k.bytes + n, records := k.records + 1 } } := by
  subst hn
  simp only [appendRec, loaded, Option.bind_some, recording, whole, Bool.false_eq_true, if_false]
  exact if_neg (Nat.not_lt.mpr room)

theorem appendRec_of_full (full : k.len < k.bytes + n) : appendRec s ctx kind phase ctile disp ord pos body =
    s.updCtx ctx fun x => { x with capture := some { k with truncated := true } } := by
  subst hn
  simp only [appendRec, loaded, Option.bind_some, recording, whole, Bool.false_eq_true, if_false]
  exact if_pos full
end

/-! ## Replay -/

theorem foldl_worse_of_later {o : Nat} {l : List (Nat × Bool)} (later : ∀ e ∈ l, o ≤ e.1) : l.foldl worse (some o) = some o := by
  induction l with
  | nil => rfl
  | cons e l ih =>
    obtain ⟨first, rest⟩ := List.forall_mem_cons.mp later
    have kept : worse (some o) e = some o := by
      rw [worse]
      split
      · rfl
      · exact congrArg some (Nat.min_eq_left first)
    rw [List.foldl_cons, kept]
    exact ih rest

/-- Of fields in ascending order the first that does not fit is named. -/
theorem firstBad_of_first {o : Nat} {pre rest : List (Nat × Bool)} {ok : Bool} (good : ∀ e ∈ pre, e.2 = true) (bad : ok = false)
    (later : ∀ e ∈ rest, o ≤ e.1) : firstBad (pre ++ (o, ok) :: rest) = some o := by
  have none_ : pre.foldl worse none = none := (firstBad_eq_foldl pre).symm.trans (firstBad_of_all good)
  subst bad
  rw [firstBad_eq_foldl, List.foldl_append, none_]
  exact foldl_worse_of_later later

/-- The header fields a REPLAY checks (R378). -/
def replayChecks (h : List Byte) (ctx digest : Nat) : List (Nat × Bool) :=
  [(0, field h 0 4 == 0x43455256), (4, field h 4 1 == 0x10), (6, field h 6 2 == ctx), (8, field h 8 8 == digest)]

/-- What a REPLAY that starts keeps. -/
def Replay.start (s : State) (ring seq : Nat) (c : Cmd) (x : Ctx) : Replay :=
  let len := min (field (s.hostRead (c.p 0 8) 128) 16 8) (c.p 8 8)
  let l := parseRecs s (c.p 0 8 + len) (len / 24) (c.p 0 8 + 128)
  { ring := ring, seq := seq, buf := c.p 0 8, base := x.dispatched, first := (l.head?.map (·.2.disp)).getD 0, recs := l,
    todo := l.filter fun e => e.2.kind == 1 || e.2.kind == 2, execs := execsOf l, ords := [], nextSeq := 0, ended := [], missing := [],
    over_ := none }

section
variable {i : Image} {h : List Byte} (ready : Ready s 0xD2 ring seq c) (on : OnCtx s c x) (loaded : x.image = some i)
  (hh : h = s.hostRead (c.p 0 8) 128)
include ready on loaded hh

theorem exec_replay_of_bad {o : Nat} (bad : firstBad (replayChecks h c.pkt.ctx i.digest) = some o) :
    exec (.replay ring seq) s = .next (badParam s c (payloadOff 32 o)) := by
  subst hh
  rw [replayChecks] at bad
  rw [exec_replay, execReplay, onReady_of ready, onCtx_of on, loaded]
  simp only [bad]

variable (good : firstBad (replayChecks h c.pkt.ctx i.digest) = none)
include good

theorem exec_replay_of_refused (taken : x.chimney = true ∨ x.capture.isSome = true ∨ reqsOfCtx s c.pkt.ctx ≠ []) :
    exec (.replay ring seq) s = .next (finish s c stNotPermitted 0) := by
  have refused : (x.chimney || x.capture.isSome || !(reqsOfCtx s c.pkt.ctx).isEmpty) = true := by
    simpa [or_assoc] using taken
  subst hh
  rw [replayChecks] at good
  rw [exec_replay, execReplay, onReady_of ready, onCtx_of on, loaded]
  simp only [good]
  exact congrArg _ (if_pos refused)

theorem exec_replay_of_free (own : x.chimney = false) (idle : x.capture = none) (closed : reqsOfCtx s c.pkt.ctx = []) :
    exec (.replay ring seq) s = .next (putCmd (s.updCtx c.pkt.ctx fun y => { y with replay := some (Replay.start s ring seq c x) })
      { c with phase := .running }) := by
  have free : ¬(x.chimney || x.capture.isSome || !(reqsOfCtx s c.pkt.ctx).isEmpty) = true := by
    simp [own, idle, closed]
  subst hh
  rw [replayChecks] at good
  rw [exec_replay, execReplay, onReady_of ready, onCtx_of on, loaded]
  simp only [good]
  exact congrArg _ (if_neg free)
end

/-- Settles O46: the fields of a REPLAY's header stand in ascending order, so that the first one which does not match is the one named. -/
theorem capturesAndReplay : Obligations.CapturesAndReplay := by
  refine ⟨fun s ring seq c x ready on => ⟨exec_recordStart_of_refused ready on, fun own idle =>
      ⟨.start c, rfl, rfl, rfl, rfl, rfl, rfl, rfl, exec_recordStart_of_free ready on own idle⟩⟩,
    fun s ring seq c x ready on => ⟨fun k => exec_recordStop_of_recording ready on, exec_recordStop_of_idle ready on⟩,
    fun s ctx kind phase ctile disp ord pos n body x k loaded recording whole hn => ⟨fun room =>
      ⟨recordBytes kind phase ctile disp ord pos body, hn ▸ recordBytes_length, body_infix_recordBytes,
        appendRec_of_room loaded recording whole hn room⟩, appendRec_of_full loaded recording whole hn⟩, ?replay⟩
  case replay =>
    intro s ring seq c x i h ready on loaded hh
    refine ⟨fun magic => ?_, fun magic version => ?_, fun magic version ctx => ?_, fun magic version ctx digest => ?_,
      fun magic version ctx digest => ?_⟩
    · exact exec_replay_of_bad ready on loaded hh
        (firstBad_of_first (pre := []) (by simp) (by simpa using magic) (by simp))
    · exact exec_replay_of_bad ready on loaded hh
        (firstBad_of_first (pre := [_]) (by simpa using magic) (by simpa using version) (by simp))
    · exact exec_replay_of_bad ready on loaded hh
        (firstBad_of_first (pre := [_, _]) (by simpa using ⟨magic, version⟩) (by simpa using ctx) (by simp))
    · exact exec_replay_of_bad ready on loaded hh
        (firstBad_of_first (pre := [_, _, _]) (by simpa using ⟨magic, version, ctx⟩) (by simpa using digest) (by simp))
    · have good : firstBad (replayChecks h c.pkt.ctx i.digest) = none :=
        firstBad_of_all (by simpa [replayChecks] using ⟨magic, version, ctx, digest⟩)
      exact ⟨exec_replay_of_refused ready on loaded hh good, fun own idle closed => ⟨.start s ring seq c x, rfl, rfl, rfl, rfl, rfl, rfl, rfl,
        exec_replay_of_free ready on loaded hh good own idle closed⟩⟩

end Sys2Proof.Machine
end

section
/-! Joining and leaving a chimney, and its ports (14_chimney R332, R333, R335, R337 to R339, R345, R346, R359, R370; 12_graec_commands R306). -/

namespace Sys2Proof.Machine

variable {s t : State} {ring seq port : Nat} {c : Cmd} {p : Port}

/-! ## Membership -/

/-- A listed port trains in its mode; another stays. -/
def joinPort (c : Cmd) (e : Port × Nat) : Port :=
  if (maskPorts (c.p 13 1)).contains e.2 then { e.1 with st := .training, mode := portMode (c.p 12 1) e.2, ver := 0, peer := 0xFFFF } else e.1

/-- The role a CASCADE_JOIN takes, its listed ports in training. -/
def joined (s : State) (ring seq : Nat) (c : Cmd) : State :=
  s.updChim fun x => { x with
    id := c.p 0 8, n := c.p 8 2, role := c.p 10 2, topo := c.p 12 1, dx := c.p 16 2, dy := c.p 18 2, dz := c.p 20 2,
    portMask := c.p 13 1, mac := c.p 24 6, ports := s.chim.ports.zipIdx.map (joinPort c), links := [], macs := [],
    join := some (ring, seq, s.dev.now), buddy := if c.p 10 2 = 0xFFFF then 0xFFFF else (c.p 10 2 + 1) % c.p 8 2 }

theorem joined_port {i : Nat} (stands : s.chim.ports[i]? = some p) : (joined s ring seq c).chim.ports[i]? = some (joinPort c (p, i)) := by
  simp [joined, List.getElem?_map, List.getElem?_zipIdx, stands]

theorem joinPort_of_listed {i : Nat} (listed : (maskPorts (c.p 13 1)).contains i = true) :
    (joinPort c (p, i)).st = .training ∧ (joinPort c (p, i)).mode = portMode (c.p 12 1) i := by
  rw [joinPort, if_pos listed]
  exact ⟨rfl, rfl⟩

theorem joinPort_of_unlisted {i : Nat} (unlisted : (maskPorts (c.p 13 1)).contains i = false) : joinPort c (p, i) = p :=
  if_neg (Bool.eq_false_iff.mp unlisted)

section
variable (ready : Ready s 0x90 ring seq c)
include ready

theorem exec_cascadeJoin_of_refused (taken : inChimney s = true ∨ anyCtx s = true) :
    exec (.cascadeJoin ring seq) s = .next (finish s c stNotPermitted 0) := by
  rw [exec_cascadeJoin, execCascadeJoin, onReady_of ready]
  exact congrArg _ (if_pos (by simpa using taken))

variable (alone : inChimney s = false) (empty : anyCtx s = false)
include alone empty

theorem exec_cascadeJoin_of_bad {o : Nat} (bad : firstBad (joinChecks c) = some o) :
    exec (.cascadeJoin ring seq) s = .next (badParam s c o) := by
  rw [exec_cascadeJoin, execCascadeJoin, onReady_of ready]
  simp only [alone, empty, Bool.or_self, Bool.false_eq_true, if_false, bad]

theorem exec_cascadeJoin_of_good (good : firstBad (joinChecks c) = none) :
    exec (.cascadeJoin ring seq) s = .next (checkJoin (putCmd (joined s ring seq c) { c with phase := .running })) := by
  rw [exec_cascadeJoin, execCascadeJoin, onReady_of ready]
  simp only [alone, empty, Bool.or_self, Bool.false_eq_true, if_false, good]
  rfl
end

section
variable (ready : Ready s 0x91 ring seq c)
include ready

theorem exec_cascadeLeave_of_joining (joining : s.chim.join.isSome = true) : exec (.cascadeLeave ring seq) s = .next s := by
  rw [exec_cascadeLeave, execCascadeLeave, onReady_of ready]
  exact congrArg _ (if_pos joining)

variable (settled : s.chim.join = none)
include settled

theorem exec_cascadeLeave_of_refused (used : (chimCtx s).isSome = true) :
    exec (.cascadeLeave ring seq) s = .next (finish s c stNotPermitted 0) := by
  rw [exec_cascadeLeave, execCascadeLeave, onReady_of ready, settled]
  exact congrArg _ (if_pos used)

theorem exec_cascadeLeave_of_free (free : chimCtx s = none) : exec (.cascadeLeave ring seq) s = .next (finish (leaveChimney s) c stOk 0) := by
  rw [exec_cascadeLeave, execCascadeLeave, onReady_of ready, settled, free]
  rfl
end

theorem leaveChimney_port (hp : p ∈ (leaveChimney s).chim.ports) : p.mode = 0 := by
  obtain ⟨q, -, rfl⟩ := List.mem_map.mp hp
  rfl

section
variable (ready : Ready s 0x92 ring seq c)
include ready

theorem exec_crownAssign_of_refused (refused : (chimCtx s).isSome = true ∨ inChimney s = false) :
    exec (.crownAssign ring seq) s = .next (finish s c stNotPermitted 0) := by
  rw [exec_crownAssign, execCrownAssign, onReady_of ready]
  exact congrArg _ (if_pos (by simpa using refused))

variable (free : chimCtx s = none) (member : inChimney s = true)
include free member

theorem exec_crownAssign_of_outside (outside : s.chim.n ≤ c.p 0 2) : exec (.crownAssign ring seq) s = .next (badParam s c 32) := by
  rw [exec_crownAssign, execCrownAssign, onReady_of ready, free, member]
  exact congrArg _ (if_pos outside)

theorem exec_crownAssign_of_inside (inside : c.p 0 2 < s.chim.n) :
    exec (.crownAssign ring seq) s = .next (finish (s.updChim fun x => { x with crown := c.p 0 2 }) c stOk 0) := by
  rw [exec_crownAssign, execCrownAssign, onReady_of ready, free, member]
  exact congrArg _ (if_neg (Nat.not_le.mpr inside))
end

theorem exec_mirrorConfig_of_bad (ready : Ready s 0x93 ring seq c) (bad : s.chim.n ≤ c.p 0 2 ∨ c.p 0 2 = s.chim.role) :
    exec (.mirrorConfig ring seq) s = .next (badParam s c 32) := by
  rw [exec_mirrorConfig, execMirrorConfig, onReady_of ready]
  exact congrArg _ (if_pos bad)

theorem exec_mirrorConfig_of_good (ready : Ready s 0x93 ring seq c) (inside : c.p 0 2 < s.chim.n) (other : c.p 0 2 ≠ s.chim.role) :
    exec (.mirrorConfig ring seq) s =
      .next (finish ((s.updChim fun x => { x with buddy := c.p 0 2 }).updKv fun k => { k with mirrorPmSet := c.p 2 2 }) c stOk 0) := by
  rw [exec_mirrorConfig, execMirrorConfig, onReady_of ready]
  exact congrArg _ (if_neg (not_or.mpr ⟨Nat.not_le.mpr inside, other⟩))

theorem exec_joinTimeout_of_joining {since : Nat} (joining : s.chim.join = some (ring, seq, since)) (clocks : clocked s = true) :
    exec (.joinTimeout ring seq) s = .next (if since + 100000000 ≤ s.dev.now then endJoin s else s) := by
  simp [exec_joinTimeout, execJoinTimeout, joining, clocks]

theorem endJoin_of_joining {since : Nat} (joining : s.chim.join = some (ring, seq, since)) (stands : findCmd s ring seq = some c) :
    endJoin s = finish (s.updChim fun x => { x with join := none }) c stOk (joinResult (s.updChim fun x => { x with join := none })) := by
  have stands' : findCmd (s.updChim fun x => { x with join := none }) ring seq = some c := stands
  simp only [endJoin, joining, stands']

/-! ## Ports -/

section
variable (stands : s.chim.ports[port]? = some p) (runs : linksRun s = true)
include stands runs

theorem exec_portTrained_of_training (training : p.st = .training) : exec (.portTrained port) s =
    .next (emit s { port := port, peer := 0xFFFF } (bareFrame s 0x02 0 0
      (Config.layoutOf 0x02 [s.chim.id, s.chim.n, s.chim.topo, s.chim.role, port, 0x10, 0x12]))) := by
  simp [exec_portTrained, execPortTrained, stands, runs, training, sendTrain]

theorem exec_portRetrain_of_down (down : p.st = .down ∨ p.st = .miscabled) :
    exec (.portRetrain port) s = .next (updPort s port fun p => { p with st := .training }) := by
  rcases down with st | st <;> simp [exec_portRetrain, execPortRetrain, stands, runs, st]

theorem exec_portRetrain_of_up (up : p.st = .up) : exec (.portRetrain port) s =
    .next ((s.chim.links.filter fun e => e.1.port == port && e.2.down).foldl (fun s e => sendTrain s e.1) s) := by
  simp [exec_portRetrain, execPortRetrain, stands, runs, up]

theorem exec_portRetrain_of_other (other : p.st = .off ∨ p.st = .version ∨ p.st = .training) : exec (.portRetrain port) s = .next s := by
  rcases other with st | st | st <;> simp [exec_portRetrain, execPortRetrain, stands, runs, st]

omit stands in
theorem exec_lossOfSignal_of_running : exec (.lossOfSignal port) s = .next (portDown s port 1 0) :=
  congrArg _ (if_pos runs)

section
variable {v : Nat} {i : TrainIn} (up : p.st = .up) (switched : 2 ≤ p.mode)
  (ht : t = updPort s port (fun p => { p with rx := sat 32 (p.rx + 1) })) (hv : v = min i.maxVer 0x12) (id : i.chimneyId = s.chim.id)
  (size : i.n = s.chim.n) (meets : max i.minVer 0x10 ≤ v)
include up switched ht hv id size meets

/-- A TRAIN that fits, on a switched port that is up. -/
theorem exec_trainFrame_of_switched : exec (.trainFrame port i) s =
    .next (if s.chim.links.any fun e => e.1 == { port := port, peer := i.role } && !e.2.down then t
      else setLnk t { port := port, peer := i.role } { Lnk.reset with ver := v }) := by
  subst ht hv
  have mode : (p.mode != 1) = true := bne_iff_ne.mpr (by omega)
  simp only [exec_trainFrame, execTrainFrame, stands, runs, id, size, mode, meets, up, switched, beq_self_eq_true, Bool.and_self,
    Bool.true_or, Bool.not_true, Bool.false_or, Bool.false_eq_true, if_false, decide_true, and_self, if_true]
  rfl

theorem exec_trainFrame_of_fresh_peer (fresh : ∀ e ∈ s.chim.links, e.1 = { port := port, peer := i.role } → e.2.down = true) :
    exec (.trainFrame port i) s = .next (setLnk t { port := port, peer := i.role } { Lnk.reset with ver := v }) := by
  rw [exec_trainFrame_of_switched stands runs up switched ht hv id size meets]
  exact congrArg _ (if_neg (by simpa using fun x mem => fresh (_, x) mem rfl))

theorem exec_trainFrame_of_known_peer {e : LinkId × Lnk} (mem : e ∈ s.chim.links) (link : e.1 = { port := port, peer := i.role })
    (works : e.2.down = false) : exec (.trainFrame port i) s = .next t := by
  rw [exec_trainFrame_of_switched stands runs up switched ht hv id size meets]
  exact congrArg _ (if_pos (List.any_eq_true.mpr ⟨e, mem, by simp [link, works]⟩))
end

section
variable {v : Nat} {i : TrainIn} (training : p.st = .training)
  (ht : t = updPort s port (fun p => { p with rx := sat 32 (p.rx + 1), peer := i.role }))
include training ht

theorem exec_trainFrame_of_miscabled (wrong : i.chimneyId ≠ s.chim.id ∨ i.n ≠ s.chim.n ∨ p.mode = 1 ∧ placed t port ≠ some (i.role, i.port)) :
    exec (.trainFrame port i) s = .next (logPort (updPort t port fun p => { p with st := .miscabled }) 0x6002 port 2 i.role p.ver 0) := by
  subst ht
  have misfit : (i.chimneyId == s.chim.id && i.n == s.chim.n && (p.mode != 1 || placed s port == some (i.role, i.port))) = false := by
    rcases wrong with h | h | ⟨mode, place⟩
    · simp [h]
    · simp [h]
    · have elsewhere : (placed s port == some (i.role, i.port)) = false := beq_eq_false_iff_ne.mpr place
      simp [mode, elsewhere]
  simp only [exec_trainFrame, execTrainFrame, stands, runs, misfit, training, reduceCtorEq, false_and, Bool.not_true, Bool.not_false,
    Bool.false_eq_true, if_false, ne_eq, not_true_eq_false, if_true]

variable (hv : v = min i.maxVer 0x12) (id : i.chimneyId = s.chim.id) (size : i.n = s.chim.n)
  (place : p.mode = 1 → placed t port = some (i.role, i.port))
include hv id size place

theorem exec_trainFrame_of_version (early : v < max i.minVer 0x10) : exec (.trainFrame port i) s =
    .next (logPort (updPort t port fun p => { p with st := .version }) 0x6003 port 3 i.role i.maxVer 0) := by
  subst ht hv
  have fits : (p.mode != 1 || placed s port == some (i.role, i.port)) = true := by
    by_cases mode : p.mode = 1
    · exact Bool.or_eq_true_iff.mpr (.inr (beq_iff_eq.mpr (place mode)))
    · exact Bool.or_eq_true_iff.mpr (.inl (bne_iff_ne.mpr mode))
  simp only [exec_trainFrame, execTrainFrame, stands, runs, id, size, fits, Nat.not_le.mpr early, training, reduceCtorEq, false_and,
    beq_self_eq_true, Bool.and_self, Bool.not_true, Bool.not_false, Bool.false_eq_true, if_false, ne_eq, not_true_eq_false, if_true,
    decide_false]

variable {u w : State} (meets : max i.minVer 0x10 ≤ v) (hu : u = (updPort t port fun p => { p with st := .up, ver := v }).updChim
    (fun c => { c with links := c.links.filter fun e => e.1.port != port }))
  (hw : w = (if 2 ≤ p.mode then setLnk u { port := port, peer := i.role } { Lnk.reset with ver := v } else u))
include meets hu hw

theorem exec_trainFrame_of_good : exec (.trainFrame port i) s =
    .next (checkJoin (if v < 0x12 then logPort w 0x6003 port 3 i.role v 0 else w)) := by
  subst ht hv hu hw
  have fits : (p.mode != 1 || placed s port == some (i.role, i.port)) = true := by
    by_cases mode : p.mode = 1
    · exact Bool.or_eq_true_iff.mpr (.inr (beq_iff_eq.mpr (place mode)))
    · exact Bool.or_eq_true_iff.mpr (.inl (bne_iff_ne.mpr mode))
  simp only [exec_trainFrame, execTrainFrame, stands, runs, id, size, fits, meets, training, reduceCtorEq, false_and,
    beq_self_eq_true, Bool.and_self, Bool.not_true, Bool.false_eq_true, if_false, ne_eq, not_true_eq_false, decide_true]
  rfl
end
end

section
variable (up : upPort s { port := port, peer := 0xFFFF } = some p)
include up

theorem exec_announceSend_of_switched (switched : 2 ≤ p.mode) : exec (.announceSend port) s =
    .next (emit s { port := port, peer := 0xFFFF } (bareFrame s 0x03 0 0 (Config.layoutOf 0x03 [s.chim.id, s.chim.role, port]))) := by
  simp only [exec_announceSend, execAnnounceSend, up, if_neg (Nat.not_lt.mpr switched)]

variable {role peer mac : Nat}

theorem exec_announceFrame_of_own (switched : 2 ≤ p.mode) (live : fencedRole s role = false) :
    exec (.announceFrame port s.chim.id role peer mac) s = .next ((updPort s port fun p => { p with rx := sat 32 (p.rx + 1) }).updChim fun c =>
      { c with macs := (c.macs.filter fun e => e.1 != (port, role, peer)) ++ [((port, role, peer), mac)] }) := by
  have heard : (decide (p.mode < 2) || decide (s.chim.id ≠ s.chim.id)) = false := by
    simpa using Nat.lt_of_succ_le switched
  rw [exec_announceFrame, execAnnounceFrame, up]
  refine congrArg _ ((if_neg (Bool.eq_false_iff.mp heard)).trans (if_neg ?_))
  exact fun h => Bool.false_ne_true (live.symm.trans (Bool.and_eq_true_iff.mp h).1)

theorem exec_announceFrame_of_other {id : Nat} (other : p.mode < 2 ∨ id ≠ s.chim.id) :
    exec (.announceFrame port id role peer mac) s = .next (updPort s port fun p => { p with rx := sat 32 (p.rx + 1) }) := by
  rw [exec_announceFrame, execAnnounceFrame, up]
  exact congrArg _ (if_pos (by simpa [updPort] using other))
end

/-- Settles O47: of each command and each port event, case by case, the branch that answers it. -/
theorem chimneyMembershipAndPorts : Obligations.ChimneyMembershipAndPorts := by
  refine ⟨⟨?join, ?leave, ?left, ?crown, ?mirror⟩, ?port, ?peer, ?train, ?timeout, ?ended, ?announce⟩
  case join =>
    refine fun s ring seq c ready => ⟨exec_cascadeJoin_of_refused ready, fun alone empty =>
      ⟨fun o => exec_cascadeJoin_of_bad ready alone empty, fun good =>
        ⟨joined s ring seq c, exec_cascadeJoin_of_good ready alone empty good, rfl, rfl, rfl, rfl, rfl, rfl, rfl, rfl, rfl, rfl, rfl,
          fun i p stands => ⟨_, joined_port stands, joinPort_of_listed, joinPort_of_unlisted⟩, rfl, rfl, rfl, rfl⟩⟩⟩
  case leave =>
    exact fun s ring seq c ready =>
      ⟨exec_cascadeLeave_of_joining ready, exec_cascadeLeave_of_refused ready, exec_cascadeLeave_of_free ready⟩
  case left => exact fun s => ⟨rfl, rfl, rfl, fun p => leaveChimney_port⟩
  case crown =>
    exact fun s ring seq c ready =>
      ⟨exec_crownAssign_of_refused ready, exec_crownAssign_of_outside ready, exec_crownAssign_of_inside ready⟩
  case mirror => exact fun s ring seq c ready => ⟨exec_mirrorConfig_of_bad ready, exec_mirrorConfig_of_good ready⟩
  case port =>
    exact fun s port p stands runs => ⟨exec_portTrained_of_training stands runs, exec_portRetrain_of_down stands runs,
      exec_portRetrain_of_up stands runs, exec_portRetrain_of_other stands runs, exec_lossOfSignal_of_running runs⟩
  case peer =>
    exact fun s t port v p i stands runs up switched ht hv id size meets =>
      ⟨exec_trainFrame_of_fresh_peer stands runs up switched ht hv id size meets,
        fun e => exec_trainFrame_of_known_peer stands runs up switched ht hv id size meets⟩
  case train =>
    exact fun s t port v p i stands runs training ht hv => ⟨exec_trainFrame_of_miscabled stands runs training ht, fun id size place =>
      ⟨exec_trainFrame_of_version stands runs training ht hv id size place, fun meets u w =>
        exec_trainFrame_of_good stands runs training ht hv id size place meets⟩⟩
  case timeout =>
    intro s ring seq since joining clocks
    rw [exec_joinTimeout_of_joining joining clocks]
    exact ⟨fun late => congrArg _ (if_pos late), fun early => congrArg _ (if_neg (Nat.not_le.mpr early))⟩
  case ended => exact fun s ring seq since c => endJoin_of_joining
  case announce =>
    exact fun s port p up => ⟨exec_announceSend_of_switched up, fun role peer mac => exec_announceFrame_of_own up,
      fun role peer mac id => exec_announceFrame_of_other up⟩

end Sys2Proof.Machine
end

section
/-! Little-endian fields of laid-out bytes, and the two CRCs as maps of 32-bit values (14_chimney R332, R340). -/

namespace Sys2Proof.Machine

/-! ## Fields -/

section
variable {xs ys : List Byte} {off n k v : Nat}

theorem field_append_left (inside : off + n ≤ xs.length) : field (xs ++ ys) off n = field xs off n := by
  rw [field, field, List.drop_append_of_le_length (by omega), List.take_append_of_le_length (by rw [List.length_drop]; omega)]

theorem field_append_right (beyond : xs.length ≤ off) : field (xs ++ ys) off n = field ys (off - xs.length) n := by
  rw [field, field, List.drop_append, List.drop_of_length_le beyond, List.nil_append]

/-- The first field of a layout. -/
theorem field_natLe_append : field (natLe n v ++ ys) 0 n = v % 256 ^ n := by
  rw [field_append_left (by simp), field, List.drop_zero, List.take_of_length_le (natLe_length n v).le, leNat_natLe]

/-- A later field of a layout. -/
theorem field_natLe_append_of_le (beyond : n ≤ off) : field (natLe n v ++ ys) off k = field ys (off - n) k := by
  rw [field_append_right (by simpa using beyond), natLe_length]

theorem drop_natLe_append_of_le (beyond : n ≤ off) : (natLe n v ++ ys).drop off = ys.drop (off - n) := by
  rw [List.drop_append, List.drop_of_length_le (by simpa using beyond), List.nil_append, natLe_length]

theorem field_set_of_not_mem {b : Byte} {i : Nat} (outside : i < off ∨ off + n ≤ i) : field (xs.set i b) off n = field xs off n := by
  have same : ((xs.set i b).drop off).take n = (xs.drop off).take n := by
    refine List.ext_getElem? fun j => ?_
    rw [List.getElem?_take, List.getElem?_take]
    by_cases hj : j < n
    · rw [if_pos hj, if_pos hj, List.getElem?_drop, List.getElem?_drop, List.getElem?_set_ne (by omega)]
    · rw [if_neg hj, if_neg hj]
  rw [field, field, same]

end

/-! ## CRC -/

section
variable {poly : Nat} {b b' : Byte} {bs pre post : List Byte} {c d : Nat}

/-- One bit of a reflected CRC. -/
def crcBit (poly c : Nat) : Nat := if c % 2 = 1 then (c / 2) ^^^ poly else c / 2

theorem crcByte_eq (poly c : Nat) (b : Byte) : crcByte poly c b = (crcBit poly)^[8] (c ^^^ b.toNat) :=
  List.foldl_const _ _ _

/-- A CRC polynomial of degree 32, as its 32 lower coefficients: the constant term is 1, which the reflected form has at bit 31. -/
def Poly32 (poly : Nat) : Prop := poly < 2 ^ 32 ∧ poly.testBit 31 = true

theorem poly32_crc32c : Poly32 0x82F63B78 := ⟨by decide, by decide⟩

theorem poly32_crc32 : Poly32 0xEDB88320 := ⟨by decide, by decide⟩

theorem mapsTo_crcBit (hp : Poly32 poly) : Set.MapsTo (crcBit poly) (Set.Iio (2 ^ 32)) (Set.Iio (2 ^ 32)) := by
  intro c hc
  have half : c / 2 < 2 ^ 32 := (Nat.div_le_self c 2).trans_lt hc
  unfold crcBit
  split
  · exact Nat.xor_lt_two_pow half hp.1
  · exact half

/-- Bit 31 after a bit of the CRC is the bit that went out. -/
theorem testBit_crcBit (hp : Poly32 poly) (hc : c < 2 ^ 32) : (crcBit poly c).testBit 31 = decide (c % 2 = 1) := by
  have clear : (c / 2).testBit 31 = false := Nat.testBit_lt_two_pow (by omega)
  unfold crcBit
  split <;> simp [*, hp.2]

theorem injOn_crcBit (hp : Poly32 poly) : Set.InjOn (crcBit poly) (Set.Iio (2 ^ 32)) := by
  intro c hc d hd same
  have parity : (c % 2 = 1) = (d % 2 = 1) := by
    have bits := congrArg (·.testBit 31) same
    simpa only [testBit_crcBit hp hc, testBit_crcBit hp hd, decide_eq_decide, eq_iff_iff] using bits
  have half : c / 2 = d / 2 := by
    unfold crcBit at same
    simp only [parity] at same
    split at same
    · exact Nat.xor_left_injective same
    · exact same
  have odd : c % 2 = 1 ↔ d % 2 = 1 := parity.to_iff
  omega

theorem xor_byte_lt (hc : c < 2 ^ 32) (b : Byte) : c ^^^ b.toNat < 2 ^ 32 :=
  Nat.xor_lt_two_pow hc (b.isLt.trans (by decide))

theorem crcByte_lt (hp : Poly32 poly) (hc : c < 2 ^ 32) (b : Byte) : crcByte poly c b < 2 ^ 32 := by
  rw [crcByte_eq]
  exact (mapsTo_crcBit hp).iterate 8 (xor_byte_lt hc b)

theorem crcByte_injective_state (hp : Poly32 poly) (hc : c < 2 ^ 32) (hd : d < 2 ^ 32) (same : crcByte poly c b = crcByte poly d b) : c = d := by
  rw [crcByte_eq, crcByte_eq] at same
  exact Nat.xor_left_injective ((injOn_crcBit hp).iterate (mapsTo_crcBit hp) 8 (xor_byte_lt hc b) (xor_byte_lt hd b) same)

theorem crcByte_injective_byte (hp : Poly32 poly) (hc : c < 2 ^ 32) (same : crcByte poly c b = crcByte poly c b') : b = b' := by
  rw [crcByte_eq, crcByte_eq] at same
  exact BitVec.eq_of_toNat_eq
    (Nat.xor_right_injective ((injOn_crcBit hp).iterate (mapsTo_crcBit hp) 8 (xor_byte_lt hc b) (xor_byte_lt hc b') same))

theorem foldl_crcByte_lt (hp : Poly32 poly) (hc : c < 2 ^ 32) (bs : List Byte) : bs.foldl (crcByte poly) c < 2 ^ 32 := by
  induction bs generalizing c with
  | nil => exact hc
  | cons b bs ih => exact ih (crcByte_lt hp hc b)

/-- Bytes that follow keep two CRCs apart. -/
theorem foldl_crcByte_injective (hp : Poly32 poly) (hc : c < 2 ^ 32) (hd : d < 2 ^ 32)
    (same : bs.foldl (crcByte poly) c = bs.foldl (crcByte poly) d) : c = d := by
  induction bs generalizing c d with
  | nil => exact same
  | cons b bs ih => exact crcByte_injective_state hp hc hd (ih (crcByte_lt hp hc b) (crcByte_lt hp hd b) same)

theorem crc32c_lt (bs : List Byte) : crc32c bs < 2 ^ 32 :=
  Nat.xor_lt_two_pow (foldl_crcByte_lt poly32_crc32c (by decide) bs) (by decide)

theorem crc32_lt (bs : List Byte) : crc32 bs < 2 ^ 32 :=
  Nat.xor_lt_two_pow (foldl_crcByte_lt poly32_crc32 (by decide) bs) (by decide)

/-- Byte strings that differ in one byte have different CRCs. -/
theorem crc32c_ne_of_one_byte (differ : b ≠ b') : crc32c (pre ++ b :: post) ≠ crc32c (pre ++ b' :: post) := by
  intro same
  have folds := Nat.xor_left_injective same
  rw [List.foldl_append, List.foldl_append, List.foldl_cons, List.foldl_cons] at folds
  have start := foldl_crcByte_lt poly32_crc32c (c := 0xFFFFFFFF) (by decide) pre
  exact differ (crcByte_injective_byte poly32_crc32c start
    (foldl_crcByte_injective poly32_crc32c (crcByte_lt poly32_crc32c start b) (crcByte_lt poly32_crc32c start b') folds))
end

end Sys2Proof.Machine
end

section
/-! Packets, execution records and frames read back as they were laid out (11_graec_rings R261; 09_step_programs R211; 14_chimney R340). -/

namespace Sys2Proof.Machine

/-! ## Frames -/

/-- A frame's bytes without the CRC. -/
def Frame.body (f : Frame) : List Byte :=
  natLe 1 f.ftype ++ natLe 1 f.flags ++ natLe 2 f.payload.length ++ natLe 2 f.dst ++ natLe 2 f.src ++
    natLe 2 f.lseq ++ natLe 2 f.lack ++ natLe 4 f.step ++ f.payload

variable {f : Frame}

theorem Frame.bytes_eq (f : Frame) : f.bytes = f.body ++ natLe 4 (crc32c f.body) := rfl

@[simp] theorem Frame.body_length (f : Frame) : f.body.length = 16 + f.payload.length := by
  simp only [body, List.length_append, natLe_length]

@[simp] theorem Frame.bytes_length (f : Frame) : f.bytes.length = 20 + f.payload.length := by
  rw [bytes_eq, List.length_append, body_length, natLe_length]
  omega

theorem Frame.field_bytes_len (short : f.payload.length ≤ 1024) : field f.bytes 2 2 = f.payload.length := by
  simp only [bytes, List.append_assoc, field_natLe_append_of_le (show 1 ≤ 2 by decide), Nat.reduceSub,
    field_natLe_append_of_le (le_refl 1), field_natLe_append]
  exact Nat.mod_eq_of_lt (by omega)

/-- The CRC stands behind the body. -/
theorem Frame.bytes_length_sub (f : Frame) : f.bytes.length - 4 = f.body.length := by
  rw [bytes_length, body_length]
  omega

theorem Frame.crc_bytes (f : Frame) : field f.bytes (f.bytes.length - 4) 4 = crc32c f.body := by
  rw [bytes_length_sub, bytes_eq, field_append_natLe]
  exact Nat.mod_eq_of_lt (crc32c_lt f.body)

theorem Frame.take_bytes (f : Frame) : f.bytes.take (f.bytes.length - 4) = f.body := by
  rw [bytes_length_sub, bytes_eq, List.take_left]

theorem frameCrcOk_bytes (short : f.payload.length ≤ 1024) : frameCrcOk f.bytes = true := by
  have whole : f.bytes.length = 20 + field f.bytes 2 2 ∧ field f.bytes 2 2 ≤ 1024 := by
    rw [Frame.field_bytes_len short, Frame.bytes_length]
    exact ⟨rfl, short⟩
  rw [frameCrcOk, Frame.crc_bytes, Frame.take_bytes, decide_eq_true whole, beq_self_eq_true]
  rfl

theorem frameOf_bytes (ty : f.ftype < 256) (fl : f.flags < 256) (dst : f.dst < 65536) (src : f.src < 65536) (lseq : f.lseq < 65536)
    (lack : f.lack < 65536) (step : f.step < 2 ^ 32) (short : f.payload.length ≤ 1024) : frameOf f.bytes = f := by
  have payload : (f.bytes.drop 16).take (field f.bytes 2 2) = f.payload := by
    rw [Frame.field_bytes_len short]
    simp [Frame.bytes, drop_natLe_append_of_le]
  rw [frameOf, payload]
  simp only [Nat.reducePow] at step
  have len : f.payload.length % 65536 = f.payload.length := Nat.mod_eq_of_lt (by omega)
  simp only [Frame.bytes, List.append_assoc]
  simp [field_natLe_append, field_natLe_append_of_le, Nat.mod_eq_of_lt, *]

/-! ## Execution records and packets -/

theorem execRecOf_bytes {x : ExecRec} (req : x.req < 2 ^ 32) (variant_ : x.variant < 65536) (cls : x.cls < 256) (phase : x.phase < 256)
    (pos : x.pos < 2 ^ 32) (step : x.step < 2 ^ 32) (token : x.token < 2 ^ 32) (cand : x.cand < 256) : execRecOf x.bytes = x := by
  have flags : ∀ a b : Bool, bit ((b2n a + 2 * b2n b) % 256) 0 = a ∧ bit ((b2n a + 2 * b2n b) % 256) 1 = b := by decide
  obtain ⟨first, last⟩ := flags x.first x.last
  simp only [execRecOf, ExecRec.bytes, List.append_assoc]
  simp only [Nat.reducePow] at req pos step token
  simp [field_natLe_append, field_natLe_append_of_le, Nat.mod_eq_of_lt, *]

theorem ExecRec.bytes_length (x : ExecRec) : x.bytes.length = 32 := by simp [bytes]

theorem packetOf_bytes {p : Packet} (pad : List Byte) (opc : p.opc < 65536) (flags : p.flags < 65536) (seq : p.seq < 2 ^ 32)
    (tag : p.tag < 2 ^ 64) (ctx : p.ctx < 65536) (len : p.len ≤ 224) (req : p.req < 2 ^ 32) (ver : p.ver < 256) (prio : p.prio < 256)
    (resv : p.resv < 2 ^ 48) (params : p.params.length = p.len) : packetOf (p.bytes ++ pad) = p := by
  have lenOf : p.len % 65536 = p.len := Nat.mod_eq_of_lt (by omega)
  simp only [packetOf, Packet.bytes, List.append_assoc]
  simp only [Nat.reducePow] at seq tag req resv
  simp [field_natLe_append, field_natLe_append_of_le, drop_natLe_append_of_le, Nat.mod_eq_of_lt, *]

/-- Settles O59: each field stands behind the fields before it, and reads back as the number it was laid out from. -/
theorem layoutsReadBack : Obligations.LayoutsReadBack :=
  ⟨fun f ty fl dst src lseq lack step short =>
      ⟨frameOf_bytes ty fl dst src lseq lack step short, frameCrcOk_bytes short, f.bytes_length⟩,
    fun x req variant_ cls phase pos step token cand => ⟨execRecOf_bytes req variant_ cls phase pos step token cand, x.bytes_length⟩,
    fun _ pad opc flags seq tag ctx len req ver prio resv params =>
      packetOf_bytes pad opc flags seq tag ctx len req ver prio resv params⟩

/-- Settles O60: LEN stands, so the frame is as long as before, and the CRC of a body that differs in one byte is another one. -/
theorem crcFindsOneByte : Obligations.CrcFindsOneByte := by
  intro f i b short inside low high differ
  have hi : i < f.body.length := by rwa [f.body_length]
  have kept : field (f.bytes.set i b) ((f.bytes.set i b).length - 4) 4 = crc32c f.body := by
    rw [List.length_set, field_set_of_not_mem (.inl (f.bytes_length_sub ▸ hi)), f.crc_bytes]
  have struck : (f.bytes.set i b).take ((f.bytes.set i b).length - 4) = f.body.take i ++ b :: f.body.drop (i + 1) := by
    rw [List.length_set, List.take_set, f.take_bytes, List.set_eq_take_append_cons_drop, if_pos hi]
  have body : f.body = f.body.take i ++ f.body[i] :: f.body.drop (i + 1) := by
    rw [List.getElem_cons_drop, List.take_append_drop]
  have other : b ≠ f.body[i] := by
    rintro rfl
    exact differ (by rw [f.bytes_eq, List.getElem?_append_left hi, List.getElem?_eq_getElem hi])
  have wrong : (crc32c f.body == crc32c (f.body.take i ++ b :: f.body.drop (i + 1))) = false := by
    rw [beq_eq_false_iff_ne]
    exact fun same => crc32c_ne_of_one_byte other (same.symm.trans (congrArg crc32c body))
  rw [frameCrcOk, kept, struck, wrong, Bool.and_false]

end Sys2Proof.Machine
end

section
/-! The link layer (14_chimney R332, R333, R337, R338, R340 to R345, R365). -/

namespace Sys2Proof.Machine

variable {s t u : State} {l : LinkId} {p : Port} {wire b : List Byte} {f : Frame} {room : Bool}

/-! ## Ethernet frames -/

theorem macBytes_length (m : Nat) : (macBytes m).length = 6 := by
  rw [macBytes, List.length_reverse, natLe_length]

/-- An Ethernet frame without its FCS: MACs, EtherType, Skavel frame and padding. -/
def etherBody (dst src : Nat) (b : List Byte) : List Byte :=
  macBytes dst ++ macBytes src ++ [0x88#8, 0xB5#8] ++ b ++ natLe (46 - b.length) 0

section
variable (dst src : Nat) (b : List Byte)

theorem etherOf_eq : etherOf dst src b = etherBody dst src b ++ natLe 4 (crc32 (etherBody dst src b)) := rfl

theorem etherBody_length : (etherBody dst src b).length = 14 + b.length + (46 - b.length) := by
  simp only [etherBody, List.length_append, macBytes_length, natLe_length, List.length_cons, List.length_nil]

theorem etherOf_length_sub : (etherOf dst src b).length - 4 = (etherBody dst src b).length := by
  rw [etherOf_eq, List.length_append, natLe_length, Nat.add_sub_cancel]

theorem drop_etherBody_type : (etherBody dst src b).drop 12 = [0x88#8, 0xB5#8] ++ (b ++ natLe (46 - b.length) 0) := by
  have macs : (macBytes dst ++ macBytes src).length = 12 := by
    rw [List.length_append, macBytes_length, macBytes_length]
  rw [etherBody, List.append_assoc, List.append_assoc, ← macs, List.drop_left]

theorem drop_etherBody : (etherBody dst src b).drop 14 = b ++ natLe (46 - b.length) 0 :=
  (List.drop_drop (i := 2) (j := 12) (l := etherBody dst src b)).symm.trans (congrArg (List.drop 2) (drop_etherBody_type dst src b))

/-- The Skavel frame comes out of its Ethernet frame. -/
theorem etherIn_etherOf (len : b.length = 20 + field b 2 2) : etherIn (etherOf dst src b) = some b := by
  have size := etherBody_length dst src b
  have whole : ¬(etherOf dst src b).length < 64 := by
    have := etherOf_length_sub dst src b
    omega
  have body : (etherOf dst src b).take ((etherOf dst src b).length - 4) = etherBody dst src b := by
    rw [etherOf_length_sub, etherOf_eq, List.take_left]
  have fcs : field (etherOf dst src b) ((etherOf dst src b).length - 4) 4 = crc32 (etherBody dst src b) := by
    rw [etherOf_length_sub, etherOf_eq, field_append_natLe]
    exact Nat.mod_eq_of_lt (crc32_lt _)
  have lenField : field (b ++ natLe (46 - b.length) 0) 2 2 = field b 2 2 := field_append_left (by omega)
  simp only [etherIn, body, fcs, drop_etherBody_type, drop_etherBody, lenField, whole, ← len, List.take_left]
  exact if_neg (by simp)
end

theorem frameIn_of_direct (direct : p.mode = 1) : frameIn p wire = some wire := if_pos direct

theorem frameIn_of_switched (switched : p.mode ≠ 1) : frameIn p wire = etherIn wire := if_neg switched

theorem etherIn_of_other (other : wire.length < 64 ∨ (wire.drop 12).take 2 ≠ [0x88#8, 0xB5#8] ∨
    field wire (wire.length - 4) 4 ≠ crc32 (wire.take (wire.length - 4))) : etherIn wire = none := by
  rw [etherIn]
  by_cases short : wire.length < 64
  · exact if_pos (.inl short)
  · have type : ((wire.take (wire.length - 4)).drop 12).take 2 = (wire.drop 12).take 2 := by
      rw [List.drop_take, List.take_take, Nat.min_eq_left (by omega)]
    rw [type]
    exact if_pos other

/-! ## Receiving -/

section
variable (works : upPort s l = some p)
include works

theorem exec_frameReceive_of_none (none_ : frameIn p wire = none) : exec (.frameReceive l wire room) s = .next s := by
  rw [exec_frameReceive, execFrameReceive, works]
  simp only [none_]

section
variable (arrives : frameIn p wire = some b) (ht : t = updPort s l.port (fun p => { p with rx := sat 32 (p.rx + 1) })) (hf : f = frameOf b)
include arrives ht hf

theorem exec_frameReceive_of_bad (bad : frameCrcOk b = false ∨ frameTypeOk f.ftype = false ∨ 16 ≤ f.flags ∨ payloadOk f.ftype f.payload = false) :
    exec (.frameReceive l wire room) s = .next (rejectFrame t l p 1) := by
  subst ht hf
  have notOk : (!frameOk b) = true := by
    have parts : frameOk b = (frameCrcOk b && frameTypeOk (frameOf b).ftype && decide ((frameOf b).flags < 16) &&
      payloadOk (frameOf b).ftype (frameOf b).payload) := rfl
    rw [parts]
    simpa [imp_iff_not_or, or_assoc] using bad
  rw [exec_frameReceive, execFrameReceive, works]
  simp only [arrives]
  exact congrArg _ (if_pos notOk)

variable (crc : frameCrcOk b = true) (type : frameTypeOk f.ftype = true) (flags : f.flags < 16) (payload : payloadOk f.ftype f.payload = true)
  (numbered : 3 < f.ftype)
include crc type flags payload numbered

/-- A good frame of a numbered type. -/
theorem exec_frameReceive_of_good : exec (.frameReceive l wire room) s = .next (
    if f.lseq ≠ (lnkOf (ackTo t l f.lack) l).expect then rejectFrame (ackTo t l f.lack) l p 1
    else if !room then (if linkVer (ackTo t l f.lack) l p ≥ 0x11 then sendLink (ackTo t l f.lack) l 3 else ackTo t l f.lack)
    else
      let u := setLnk (ackTo t l f.lack) l
        { lnkOf (ackTo t l f.lack) l with expect := ((lnkOf (ackTo t l f.lack) l).expect + 1) % 65536 }
      if lateShard u f then u else u.updChim fun c => { c with inbox := c.inbox ++ [(l, f)] }) := by
  subst ht hf
  have ok : frameOk b = true := by
    have parts : frameOk b = (frameCrcOk b && frameTypeOk (frameOf b).ftype && decide ((frameOf b).flags < 16) &&
      payloadOk (frameOf b).ftype (frameOf b).payload) := rfl
    rw [parts, crc, type, decide_eq_true flags, payload]
    rfl
  rw [exec_frameReceive, execFrameReceive, works]
  simp only [arrives, ok, Bool.not_true, Bool.false_eq_true, if_false, if_neg (Nat.not_le.mpr numbered)]

theorem exec_frameReceive_of_gap (gap : f.lseq ≠ (lnkOf (ackTo t l f.lack) l).expect) :
    exec (.frameReceive l wire room) s = .next (rejectFrame (ackTo t l f.lack) l p 1) :=
  (exec_frameReceive_of_good works arrives ht hf crc type flags payload numbered).trans (congrArg _ (if_pos gap))

variable (next : f.lseq = (lnkOf (ackTo t l f.lack) l).expect)
include next

theorem exec_frameReceive_of_full : exec (.frameReceive l wire false) s =
    .next (if linkVer (ackTo t l f.lack) l p ≥ 0x11 then sendLink (ackTo t l f.lack) l 3 else ackTo t l f.lack) :=
  (exec_frameReceive_of_good works arrives ht hf crc type flags payload numbered).trans (congrArg _ (if_neg (not_not.mpr next)))

variable (hu : u = setLnk (ackTo t l f.lack) l
  { lnkOf (ackTo t l f.lack) l with expect := ((lnkOf (ackTo t l f.lack) l).expect + 1) % 65536 })
include hu

theorem exec_frameReceive_of_room : exec (.frameReceive l wire true) s =
    .next (if lateShard u f then u else u.updChim fun c => { c with inbox := c.inbox ++ [(l, f)] }) := by
  subst hu
  exact (exec_frameReceive_of_good works arrives ht hf crc type flags payload numbered).trans (congrArg _ (if_neg (not_not.mpr next)))
end
end

theorem rejectFrame_of_old {fl : Nat} (old : linkVer s l p < 0x11) :
    rejectFrame s l p fl = updPort s l.port fun p => { p with crcErrors := sat 32 (p.crcErrors + 1) } :=
  if_neg (Nat.not_le.mpr old)

theorem rejectFrame_of_new {fl : Nat} (new : 0x11 ≤ linkVer s l p) :
    rejectFrame s l p fl = sendLink (updPort s l.port fun p => { p with crcErrors := sat 32 (p.crcErrors + 1) }) l fl :=
  if_pos new

/-! ## Acknowledgement and resending -/

section
variable {flags lack : Nat} (works : upPort s l = some p)
include works

section
variable (ht : t = updPort s l.port (fun p => { p with rx := sat 32 (p.rx + 1) }))
include ht

theorem exec_linkFrame_of_bad (bad : 16 ≤ flags) : exec (.linkFrame l flags lack) s = .next (rejectFrame t l p 1) := by
  subst ht
  rw [exec_linkFrame, execLinkFrame, works]
  exact congrArg _ (if_pos bad)

theorem exec_linkFrame_of_good (hu : u = ackTo t l lack) (good : flags < 16) : exec (.linkFrame l flags lack) s =
    .next (if flags.testBit 0 && !flags.testBit 1 then resend u l true else u) := by
  subst ht hu
  rw [exec_linkFrame, execLinkFrame, works]
  exact congrArg _ (if_neg (Nat.not_le.mpr good))
end

theorem exec_lackReport_of_up : exec (.lackReport l) s = .next (sendLink s l 0) := by
  rw [exec_lackReport, execLackReport, works]

theorem exec_fullResend_of_up : exec (.fullResend l) s = .next (resend s l false) := by
  rw [exec_fullResend, execFullResend, works]

theorem exec_retransmitTimeout_of_up : exec (.retransmitTimeout l) s = .next (if linkVer s l p = 0x10 then resend s l true else s) := by
  rw [exec_retransmitTimeout, execRetransmitTimeout, works]

theorem exec_lnkRetryExhausted_of_unacknowledged {n first : Nat} {r : List (Frame × Nat × Nat)} (oldest : (lnkOf s l).replay = (f, n, first) :: r) :
    exec (.lnkRetryExhausted l) s = .next (if n ≥ 8 ∨ s.dev.now ≥ first + 2000 then
      linkDown (logPort s 0x6001 l.port 0 (if p.mode < 2 then p.peer else l.peer) (linkVer s l p) n) l p n else s) := by
  rw [exec_lnkRetryExhausted, execLnkRetryExhausted, works]
  simp only [oldest]
end

theorem lnkOf_setLnk_same (s : State) (l : LinkId) (x : Lnk) : lnkOf (setLnk s l x) l = x := by
  by_cases known : s.chim.links.any fun e => e.1 == l
  · have found : (s.chim.links.map fun e => if e.1 = l then (l, x) else e).find? (fun e => e.1 == l) = some (l, x) := by
      rw [List.find?_map]
      obtain ⟨e, mem, same⟩ := List.any_eq_true.mp known
      have key : ∀ e : LinkId × Lnk, ((fun e : LinkId × Lnk => e.1 == l) ∘ fun e => if e.1 = l then (l, x) else e) e = (e.1 == l) := by
        intro e
        by_cases h : e.1 = l <;> simp [h]
      rw [funext key]
      obtain ⟨e, first⟩ := Option.isSome_iff_exists.mp (List.find?_isSome (p := fun e => e.1 == l).mpr ⟨e, mem, same⟩)
      have same : e.1 = l := by simpa using List.find?_some first
      rw [first, Option.map_some, if_pos same]
    simp only [lnkOf, setLnk, State.updChim, known, if_true, found, Option.map_some, Option.getD_some]
  · have none_ : s.chim.links.find? (fun e => e.1 == l) = none :=
      List.find?_eq_none.mpr fun e mem same => known (List.any_eq_true.mpr ⟨e, mem, same⟩)
    simp only [lnkOf, setLnk, State.updChim, known, Bool.false_eq_true, if_false, List.find?_append, none_, Option.none_or, List.find?_cons,
      beq_self_eq_true, Option.map_some, Option.getD_some]

theorem lnkOf_setLnk_other {k : LinkId} (other : k ≠ l) (x : Lnk) : lnkOf (setLnk s l x) k = lnkOf s k := by
  have far : (l == k) = false := beq_eq_false_iff_ne.mpr other.symm
  by_cases known : s.chim.links.any fun e => e.1 == l
  · have found : (s.chim.links.map fun e => if e.1 = l then (l, x) else e).find? (fun e => e.1 == k) = s.chim.links.find? (fun e => e.1 == k) := by
      induction s.chim.links with
      | nil => rfl
      | cons e es ih =>
        rw [List.map_cons, List.find?_cons, List.find?_cons, ih]
        by_cases h : e.1 = l
        · rw [if_pos h, h, far]
        · rw [if_neg h]
    simp only [lnkOf, setLnk, State.updChim, known, if_true, found]
  · simp only [lnkOf, setLnk, State.updChim, known, Bool.false_eq_true, if_false, List.find?_append, List.find?_cons, far, List.find?_nil,
      Option.or_none]

theorem upPort_of_down (down : (lnkOf s l).down = true) : upPort s l = none := by
  simp [upPort, down]

section
variable {n code reason peer ver retx : Nat} (s l)

/-- The links are those of the chimney state, which a log entry leaves. -/
theorem lnkOf_logPort (port : Nat) : lnkOf (logPort s code port reason peer ver retx) l = lnkOf s l := by
  simp only [lnkOf, logPort, logEvent_chim]

theorem linkDown_of_switched (switched : 2 ≤ p.mode) : (lnkOf (linkDown s l p n) l).down = true ∧ (lnkOf (linkDown s l p n) l).replay = [] ∧
    (lnkOf (linkDown s l p n) l).waiting = [] ∧ ∀ k, k ≠ l → lnkOf (linkDown s l p n) k = lnkOf s k := by
  have same : ∀ k, lnkOf (linkDown s l p n) k = lnkOf (setLnk s l { Lnk.reset with down := true, ver := (lnkOf s l).ver }) k := by
    intro k
    rw [linkDown, if_neg (Nat.not_lt.mpr switched), lnkOf_logPort]
    rfl
  simp only [same, lnkOf_setLnk_same, Lnk.reset, true_and]
  exact fun k other => lnkOf_setLnk_other other _
end

/-! ## Sending and forwarding -/

/-- A link after a new frame went out on it. -/
def Lnk.sent (x : Lnk) (g : Frame) (now : Nat) : Lnk :=
  { x with nextSeq := (x.nextSeq + 1) % 65536, replay := x.replay ++ [(g, 0, now)] }

section
variable {g : Frame} (up : portUp s l.port = true) (works : (lnkOf s l).down = false)
include up works

theorem sendOn_of_room (few : (lnkOf s l).replay.length < 256) (none_ : (lnkOf s l).waiting = [])
    (hg : g = { f with lseq := (lnkOf s l).nextSeq, lack := ((lnkOf s l).expect + 65535) % 65536 }) :
    sendOn s l f = emit (setLnk s l ((lnkOf s l).sent g s.dev.now)) l g := by
  subst hg
  have room : ¬((lnkOf s l).replay.length ≥ 256 ∨ (lnkOf s l).waiting ≠ []) := not_or.mpr ⟨Nat.not_le.mpr few, not_not.mpr none_⟩
  exact (if_neg (by simp [up, works])).trans (if_neg room)

theorem sendOn_of_full (full : 256 ≤ (lnkOf s l).replay.length) :
    sendOn s l f = setLnk s l { lnkOf s l with waiting := (lnkOf s l).waiting ++ [f] } := by
  have behind : (lnkOf s l).replay.length ≥ 256 ∨ (lnkOf s l).waiting ≠ [] := .inl full
  exact (if_neg (by simp [up, works])).trans (if_pos behind)
end

theorem wireOf_of_port {q : Port} (stands : s.chim.ports[l.port]? = some q) : wireOf s l f =
    if q.mode = 1 then f.bytes else etherOf (peerMac s l f.ftype) (s.chim.mac / 8 * 8 + l.port) f.bytes := by
  simp only [wireOf, stands, Option.elim_some, beq_iff_eq, ownMac]

section
variable {port : Nat} {bytes : List Byte} {e : LinkId × Frame} (runs : linksRun s = true) (hf : f = frameOf bytes) (passes : transit s f = true)
  (found : (s.chim.inbox.find? fun e => e.1.port == port && e.2 == f) = some e)
  (ht : t = s.updChim (fun c => { c with inbox := c.inbox.erase e }))
include runs hf passes found ht

theorem exec_frameForward_of_aux (aux : overAux t f.ftype = true) (way : switchedLink t f.dst = some l) :
    exec (.frameForward port bytes) s = .next (sendOn t l f) := by
  subst hf ht
  simp only [exec_frameForward, execFrameForward, found, runs, passes, Bool.not_true, Bool.or_self, Bool.false_eq_true, if_false, aux, if_true,
    way]

theorem exec_frameForward_of_route {fl : Nat} (direct : overAux t f.ftype = false)
    (way : route t f.dst f.flags (cameBy t e.1) = (some l, fl, u)) :
    exec (.frameForward port bytes) s = .next (sendOn u l { f with flags := if fl.testBit 3 then fl - 8 else fl }) := by
  subst hf ht
  simp only [exec_frameForward, execFrameForward, found, runs, passes, Bool.not_true, Bool.or_self, Bool.false_eq_true, if_false, direct, way]
end

/-- Settles O48: a frame is taken from its Ethernet frame, checked, and either rejected or numbered next; a link that goes down alone is one
entry of the list of links, the others stand. -/
theorem linkLayer : Obligations.LinkLayer := by
  refine ⟨?receive, ?ethernet, fun s l p fl => ⟨rejectFrame_of_old, rejectFrame_of_new⟩, ?link, ?retry, ?send, ?wait, ?forward⟩
  case receive =>
    intro s t l p wire b f works arrives ht hf
    refine ⟨fun bad room => exec_frameReceive_of_bad works arrives ht hf bad, fun crc type flags payload numbered =>
      ⟨fun gap room => exec_frameReceive_of_gap works arrives ht hf crc type flags payload numbered gap, fun next u hu => ?_⟩⟩
    rw [exec_frameReceive_of_room works arrives ht hf crc type flags payload numbered next hu,
      exec_frameReceive_of_full works arrives ht hf crc type flags payload numbered next]
    exact ⟨fun fresh => congrArg _ (if_neg (Bool.eq_false_iff.mp fresh)), fun late => congrArg _ (if_pos late),
      fun new => congrArg _ (if_pos new), fun old => congrArg _ (if_neg (Nat.not_le.mpr old))⟩
  case ethernet =>
    exact fun s l p wire room works => ⟨frameIn_of_direct,
      fun switched dst src b len => (frameIn_of_switched switched).trans (etherIn_etherOf dst src b len),
      fun switched other => exec_frameReceive_of_none works ((frameIn_of_switched switched).trans (etherIn_of_other other))⟩
  case link =>
    intro s l p flags lack t u works ht hu
    refine ⟨exec_linkFrame_of_bad works ht, fun good nak held => ?_, fun good other => ?_⟩
    · rw [exec_linkFrame_of_good works ht hu good]
      exact congrArg _ (if_pos (by simp [nak, held]))
    · rw [exec_linkFrame_of_good works ht hu good]
      exact congrArg _ (if_neg (by simpa [imp_iff_not_or] using other))
  case retry =>
    intro s l p works
    rw [exec_retransmitTimeout_of_up works]
    refine ⟨exec_lackReport_of_up works, exec_fullResend_of_up works, fun old => congrArg _ (if_pos old),
      fun new => congrArg _ (if_neg new), fun f n first r oldest => ?_⟩
    rw [exec_lnkRetryExhausted_of_unacknowledged works oldest]
    refine ⟨?_, fun few early => congrArg _ (if_neg (by omega))⟩
    rintro spent u rfl
    rw [if_pos spent]
    refine ⟨fun direct => congrArg _ (if_pos direct), fun switched => ?_⟩
    obtain ⟨down, replay, waiting, others⟩ := linkDown_of_switched (n := n)
      (logPort s 0x6001 l.port 0 (if p.mode < 2 then p.peer else l.peer) (linkVer s l p) n) l switched
    exact ⟨_, rfl, down, replay, waiting, upPort_of_down down, fun k other => (others k other).trans (lnkOf_logPort s k l.port)⟩
  case send =>
    intro s l f g up works few none_ hg
    rw [sendOn_of_room up works few none_ hg]
    have link : lnkOf (emit (setLnk s l ((lnkOf s l).sent g s.dev.now)) l g) l = (lnkOf s l).sent g s.dev.now :=
      lnkOf_setLnk_same s l _
    rw [link]
    exact ⟨rfl, rfl, rfl, fun q stands => wireOf_of_port stands⟩
  case wait =>
    intro s l f up works full
    rw [sendOn_of_full up works full, lnkOf_setLnk_same]
    exact ⟨rfl, rfl⟩
  case forward =>
    exact fun s t port bytes f e runs hf passes found ht => ⟨fun l => exec_frameForward_of_aux runs hf passes found ht,
      fun l fl u => exec_frameForward_of_route runs hf passes found ht⟩

end Sys2Proof.Machine
end

section
/-! What the halt of a context leaves of it (16_faults R384). -/

namespace Sys2Proof.Machine

variable {s : State} {ctx : Nat}

/-- Whether a context is halted, and its vectors in flight. -/
def haltOf (s : State) (ctx : Nat) : Option (Bool × List Vec) := (look s.ctxs ctx).map fun y => (y.halted, y.inflight)

theorem haltOf_congr {t : State} (same : t.ctxs = s.ctxs) : haltOf t ctx = haltOf s ctx := by
  rw [haltOf, haltOf, same]

theorem look_of_haltOf (halted : haltOf s ctx = some (true, [])) : ∃ y, look s.ctxs ctx = some y ∧ y.halted = true ∧ y.inflight = [] := by
  obtain ⟨y, stands, same⟩ := Option.map_eq_some_iff.mp halted
  exact ⟨y, stands, congrArg Prod.fst same, congrArg Prod.snd same⟩

/-- An update of contexts that keeps both. -/
theorem haltOf_updCtx {i : Nat} {f : Ctx → Ctx} (keeps : ∀ y, (f y).halted = y.halted ∧ (f y).inflight = y.inflight) :
    haltOf (s.updCtx i f) ctx = haltOf s ctx := by
  by_cases same : ctx = i
  · subst same
    cases stands : look s.ctxs ctx with
    | none => simp [haltOf, State.updCtx, stands]
    | some y => simp [haltOf, look_updCtx stands, stands, keeps y]
  · rw [haltOf, look_updCtx_other same, haltOf]

theorem haltOf_freePage (id : Nat) : haltOf (freePage s id) ctx = haltOf s ctx := by
  unfold freePage
  split
  · rfl
  · dsimp only
    split
    · rfl
    · split
      · exact haltOf_updCtx fun y => ⟨rfl, rfl⟩
      · rfl

theorem haltOf_reapPages : haltOf (reapPages s) ctx = haltOf s ctx := by
  refine foldl_field (fun s => haltOf s ctx) (fun s e => ?_) _ _
  split
  · exact haltOf_freePage _
  · rfl

theorem loseReq_ctxs (slot : Nat) : (loseReq s slot).ctxs = s.ctxs := by
  unfold loseReq
  split
  · rfl
  · split
    · rfl
    · refine (foldl_field (·.ctxs) (fun s d => ?_) _ _).trans (by simp)
      split
      · rfl
      · split
        · rfl
        · exact finish_ctxs ..

theorem loseReqs_ctxs (P : Nat → Req → Bool) : (loseReqs s P).ctxs = s.ctxs := by
  refine foldl_field (·.ctxs) (fun s e => ?_) _ _
  split
  · rfl
  · split
    · exact loseReq_ctxs _
    · rfl

theorem tellHalts_ctxs : (tellHalts s).ctxs = s.ctxs := by
  refine (foldl_field (·.ctxs) (fun s x => foldl_field (·.ctxs) (fun s r => ?_) _ _) _ _).trans rfl
  exact sendFrame_frame (g := (·.ctxs)) (fun _ _ => rfl) (fun _ => rfl) ..

/-- A context that stands and is not halted is halted, and nothing of it is in flight. -/
theorem haltOf_haltCtx {x : Ctx} (stands : look s.ctxs ctx = some x) (live : x.halted = false) (cause ctile instr : Nat) :
    haltOf (haltCtx s ctx cause ctile instr) ctx = some (true, []) := by
  have tiles : ((ctxTiles s ctx).foldl (fun s t => s.updTile t stopTile) s).ctxs = s.ctxs :=
    foldl_field (·.ctxs) (fun s t => by simp) _ _
  have halts : ∀ t : State, t.ctxs = s.ctxs →
      haltOf (reapPages (t.updCtx ctx fun c => { c with halted := true, inflight := [] })) ctx = some (true, []) := by
    intro t same
    have still : look t.ctxs ctx = some x := same ▸ stands
    rw [haltOf_reapPages, haltOf, look_updCtx still]
    rfl
  have cmds : ∀ (l : List Cmd) (t : State), (l.foldl (fun s d =>
      match findCmd s d.ring d.pkt.seq with
      | none => s
      | some e => if e.phase = .running ∨ e.phase = .leaving then finish s e stDevFailed 0 else s) t).ctxs = t.ctxs := by
    refine fun l t => foldl_field (·.ctxs) (fun s d => ?_) l t
    split
    · rfl
    · split
      · exact finish_ctxs ..
      · rfl
  rw [haltCtx]
  simp only [stands, live, Bool.false_eq_true, if_false]
  refine (haltOf_congr ((cmds ..).trans (loseReqs_ctxs _))).trans ?_
  split
  · exact (haltOf_congr (State.updChim_ctxs ..)).trans (halts _ ((logEvent_ctxs ..).trans tiles))
  · exact halts _ ((logEvent_ctxs ..).trans tiles)

end Sys2Proof.Machine
end

section
/-! Chimney steps, heartbeats and fences (14_chimney R347, R352 to R357, R362, R363; 16_faults R384). -/

namespace Sys2Proof.Machine

variable {s t : State} {f : Frame} {x : CStep}

/-! ## START -/

/-- The step a START brings. -/
def startedStep (s : State) (f : Frame) (ctx : Nat) (xr : ExecRec) : CStep :=
  { mkStep f.step ctx (2 ^ 20) 0 xr [] [] false s.dev.now 0 with dispatched := false }

theorem exec_startFrame_of_step {ctx : Nat} {xr : ExecRec} (arrived : Arrived s 0x10 f) (numbered : f.step ≠ 0)
    (hctx : ctx = field f.payload 0 2) (hxr : xr = execRecOf (f.payload.drop 8))
    (ht : t = ensureReq ((sendDown (taken s f) 0x10 f.step f.payload).updChim fun c => { c with lastStep := f.step }) ctx xr.req xr.variant
      xr.cls xr.pos) :
    exec .startFrame s = .next (t.updChim fun c => { c with steps := c.steps ++ [startedStep t f ctx xr] }) := by
  subst hctx hxr ht
  rw [exec_startFrame, execStartFrame, onFrame_of arrived]
  exact congrArg _ (if_neg numbered)

section
variable {c : Ctx} (arrived : Arrived s 0x10 f) (told : f.step = 0) (stands : look s.ctxs (field f.payload 0 2) = some c)
include arrived told

theorem exec_startFrame_of_halt : exec .startFrame s = .next (haltTold (taken s f) (field f.payload 0 2)) := by
  rw [exec_startFrame, execStartFrame, onFrame_of arrived]
  exact congrArg _ (if_pos told)

include stands

theorem exec_startFrame_of_known (known : c.chimney = false ∨ c.halted = true) : exec .startFrame s = .next (taken s f) := by
  have still : look (taken s f).ctxs (field f.payload 0 2) = some c := stands
  rw [exec_startFrame_of_halt arrived told, haltTold, still]
  exact congrArg _ (if_pos (by simpa using known))

theorem exec_startFrame_of_new (chimney : c.chimney = true) (live : c.halted = false) : ∃ (t : State) (y : Ctx), exec .startFrame s = .next t ∧
    look t.ctxs (field f.payload 0 2) = some y ∧ y.halted = true ∧ y.inflight = [] := by
  have halted : haltOf (haltTold (taken s f) (field f.payload 0 2)) (field f.payload 0 2) = some (true, []) := by
    have still : look (taken s f).fresh.2.ctxs (field f.payload 0 2) = some c := stands
    have unknown : ¬((look (taken s f).ctxs (field f.payload 0 2)).elim true fun x => !x.chimney || x.halted) = true := by
      have same : look (taken s f).ctxs (field f.payload 0 2) = some c := stands
      rw [same, Option.elim_some, chimney, live]
      exact Bool.false_ne_true
    rw [haltTold, if_neg unknown]
    dsimp only
    split
    · exact (haltOf_congr tellHalts_ctxs).trans (haltOf_haltCtx still live ..)
    · exact haltOf_haltCtx still live ..
  obtain ⟨y, same, halts, idle⟩ := look_of_haltOf halted
  exact ⟨_, y, exec_startFrame_of_halt arrived told, same, halts, idle⟩
end

/-! ## DONE -/

section
variable {v : List Nat} (arrived : Arrived s 0x11 f) (hv : v = Config.fieldsOf 0x11 (f.payload.drop 4))
  (ht : t = updStep (taken s f) f.step fun x => doneIn x f.src v)
include arrived hv ht

theorem exec_doneFrame_of_member (member : isCrown s = false) : exec .doneFrame s = .next (trySendDone t f.step) := by
  have member' : isCrown t = false := by
    rw [ht]
    exact member
  subst hv
  rw [exec_doneFrame, execDoneFrame, onFrame_of arrived]
  dsimp only
  rw [← ht, member']
  rfl

variable (crown : isCrown s = true)
include crown

theorem exec_doneFrame_of_crown : exec .doneFrame s = .next ((stepAt t f.step).elim t fun x =>
    if v[0]?.getD 0 % 2 = 1 && !x.aborting then sweepAborts (crownAbort (warnStep t x) f.step (some (stBusy, 1000000)))
    else tryCommit (warnStep t x)) := by
  have crown' : isCrown t = true := by
    rw [ht]
    exact crown
  subst hv
  rw [exec_doneFrame, execDoneFrame, onFrame_of arrived]
  dsimp only
  rw [← ht, crown']
  cases stepAt t f.step <;> rfl

theorem exec_doneFrame_of_unknown (unknown : stepAt t f.step = none) : exec .doneFrame s = .next t := by
  rw [exec_doneFrame_of_crown arrived hv ht crown, unknown]
  rfl

variable (stands : stepAt t f.step = some x)
include stands

theorem exec_doneFrame_of_taken (goes : v[0]?.getD 0 % 2 ≠ 1 ∨ x.aborting = true) :
    exec .doneFrame s = .next (tryCommit (warnStep t x)) := by
  rw [exec_doneFrame_of_crown arrived hv ht crown, stands]
  exact congrArg _ (if_neg (by simpa [imp_iff_not_or] using goes))

theorem exec_doneFrame_of_refused (refused : v[0]?.getD 0 % 2 = 1) (live : x.aborting = false) :
    exec .doneFrame s = .next (sweepAborts (crownAbort (warnStep t x) f.step (some (stBusy, 1000000)))) := by
  rw [exec_doneFrame_of_crown arrived hv ht crown, stands]
  exact congrArg _ (if_pos (by simp [refused, live]))
end

theorem reqAt_warnStep {r : Req} (warns : x.nonfinite = true) (stands : reqAt s (slotFor s x.ctx x.xr.req) = some r) (opened : r.open_ = true)
    (own : r.gen = reqGen x.xr.req) : reqAt (warnStep s x) (slotFor s x.ctx x.xr.req) = some { r with nonfinite := true } := by
  have marked : reqAt (s.updReq (slotFor s x.ctx x.xr.req) fun r =>
      if r.open_ ∧ r.gen = reqGen x.xr.req then { r with nonfinite := true } else r) (slotFor s x.ctx x.xr.req) =
        some { r with nonfinite := true } := by
    rw [reqAt_updReq stands, if_pos ⟨opened, own⟩]
  rw [warnStep, if_pos warns]
  split
  · cases findCmd _ x.ring x.seq <;> exact marked
  · exact marked

/-! ## COMMIT and ABORT -/

section
variable (arrived : Arrived s 0x12 f) (ht : t = sendDown (taken s f) 0x12 f.step [])
include arrived ht

theorem exec_commitFrame_of_unknown (unknown : stepAt t f.step = none) : exec .commitFrame s = .next t := by
  subst ht
  rw [exec_commitFrame, execCommitFrame, onFrame_of arrived]
  simp only [unknown]

theorem exec_commitFrame_of_known (stands : stepAt t f.step = some x) :
    exec .commitFrame s = .next (commitLocal (memberPath t x).2 (memberPath t x).1) := by
  subst ht
  rw [exec_commitFrame, execCommitFrame, onFrame_of arrived]
  simp only [stands]
end

theorem memberPath_of_seen (seen : x.xr.phase ≠ 2 ∨ x.xr.last = false ∨ x.path ≠ [] ∨ x.token.isSome = true) : memberPath t x = (x, t) :=
  if_pos (by simpa using seen)

theorem memberPath_of_unseen (phase : x.xr.phase = 2) (last : x.xr.last = true) (path : x.path = []) (token : x.token = none) :
    ∃ l : List Nat, l.length ≤ 8 ∧ memberPath t x = ({ x with path := l }, t.fresh.2) :=
  ⟨_, List.length_take_le 8 _, if_neg (by simp [phase, last, path, token])⟩

theorem stepAt_dropStep (n : Nat) : stepAt (dropStep s n) n = none := by
  refine List.find?_eq_none.mpr fun y mem => ?_
  simpa using (List.mem_filter.mp mem).2

/-- A committed step is over. -/
theorem stepAt_commitLocal : stepAt (commitLocal s x) x.step = none := stepAt_dropStep x.step

/-- The step that stands for an ABORT of a step this device has not seen. -/
def unseenStep (s : State) (f : Frame) : CStep :=
  { mkStep f.step 0xFFFF 0 0 ⟨2 ^ 32 + f.step, 0, 0, 0, 0, 0, 0, 0xFF, false, false⟩ [] [] false s.dev.now 0 with dispatched := true }

section
variable (arrived : Arrived s 0x13 f) (ht : t = sendDown (taken s f) 0x13 f.step [])
include arrived ht

theorem exec_abortFrame_of_known (stands : (stepAt t f.step).isSome = true) :
    exec .abortFrame s = .next (sweepAborts (abortHere t f.step)) := by
  subst ht
  obtain ⟨x, known⟩ := Option.isSome_iff_exists.mp stands
  rw [exec_abortFrame, execAbortFrame, onFrame_of arrived]
  simp only [known]

theorem exec_abortFrame_of_unknown (unknown : stepAt t f.step = none) : exec .abortFrame s =
    .next (sweepAborts (abortHere (t.updChim fun c => { c with steps := c.steps ++ [unseenStep t f] }) f.step)) := by
  subst ht
  rw [exec_abortFrame, execAbortFrame, onFrame_of arrived]
  simp only [unknown]
  rfl
end

theorem exec_abortAck_of_arrived (arrived : Arrived s 0x14 f) :
    exec .abortAck s = .next (sweepAborts (updStep (taken s f) f.step fun x => { x with acks := f.src :: x.acks })) := by
  rw [exec_abortAck, execAbortAck, onFrame_of arrived]

section
variable {step : Nat} (stands : stepAt s step = some x) (runs : linksRun s = true) (crown : isCrown s = true) (live : x.aborting = false)
include stands runs crown live

theorem exec_stepTimeout_of_late (missing : missingDone s x ≠ []) (late : x.started + 100 * s.chim.timeoutUs ≤ s.dev.now) :
    exec (.stepTimeout step) s = .next (sweepAborts (crownAbort ((logEvent s 0x6004 6 (evData [(step, 4),
      ((missingDone s x).foldl min 0xFFFF, 2), ((missingDone s x).length, 2)])).updChim
        fun c => { c with stepTimeouts := sat 32 (c.stepTimeouts + 1) }) step none)) := by
  rw [exec_stepTimeout, execStepTimeout]
  simp only [stands]
  exact congrArg _ (if_neg (by simp [runs, crown, live, missing, late]))

theorem exec_stepTimeout_of_early (early : missingDone s x = [] ∨ s.dev.now < x.started + 100 * s.chim.timeoutUs) :
    exec (.stepTimeout step) s = .next s := by
  rw [exec_stepTimeout, execStepTimeout]
  simp only [stands]
  exact congrArg _ (if_pos (by simpa [runs, crown, live] using early))
end

/-! ## The context is ready -/

theorem Chim.retime_roles (c : Chim) : c.retime.roleNs = c.roleNs ∧ c.retime.roleCaps = c.roleCaps := by
  unfold Chim.retime
  split <;> exact ⟨rfl, rfl⟩

theorem exec_chimneyContextReady_of_loaded {n : Nat} {c : Ctx} {stepNs caps : List Nat} (own : chimCtx s = some (n, c)) (runs : linksRun s = true)
    (crown : isCrown s = true) (loaded : c.image.isSome = true) (times : stepNs.length = s.chim.n) (powers : caps.length = s.chim.n) :
    exec (.chimneyContextReady stepNs caps) s = .next ((s.updCtx n fun x => { x with ready := true }).updChim
      fun c => { c with roleNs := stepNs, roleCaps := caps }.retime) := by
  rw [exec_chimneyContextReady, execChimneyContextReady]
  simp only [own]
  exact congrArg _ (if_neg (by simp [runs, crown, Option.isSome_iff_ne_none.mp loaded, times, powers]))

/-! ## Heartbeats and fences -/

theorem exec_heartbeatSend_of_assigned (runs : linksRun s = true) (assigned : s.chim.crown ≠ 0xFFFF) : exec .heartbeatSend s =
    .next (if isCrown s then (otherRoles s).foldl (fun s r => sendFrame s 0x15 r 0 (natLe 4 s.chim.fenceGen)) s
      else sendFrame s 0x15 s.chim.crown 0 (natLe 4 s.chim.fenceGen)) := by
  rw [exec_heartbeatSend, execHeartbeatSend]
  exact congrArg _ (if_neg (by simp [runs, assigned]))

theorem exec_heartbeatFrame_of_arrived (arrived : Arrived s 0x15 f) : exec .heartbeatFrame s =
    .next ((taken s f).updChim fun c => { c with beats := store c.beats f.src (some s.dev.now) }) := by
  rw [exec_heartbeatFrame, execHeartbeatFrame, onFrame_of arrived]
  rfl

theorem isCrown_fenceHere (role b : Nat) : isCrown (fenceHere s role b) = isCrown s := by
  simp only [isCrown, isMember, inChimney, fenceHere, State.updChim, logEvent_chim]

section
variable {role heard : Nat} (runs : linksRun s = true) (live : fencedRole s role = false) (beat : look s.chim.beats role = some heard)
include runs live beat

theorem exec_heartbeatSilence_of_member (member : isCrown s = false) (watched : role = s.chim.crown) (assigned : s.chim.crown ≠ 0xFFFF)
    (silent : heard + 500000 ≤ s.dev.now) : exec (.heartbeatSilence role) s = .next (fenceHere s role s.chim.role) := by
  rw [exec_heartbeatSilence, execHeartbeatSilence]
  refine congrArg _ ((if_neg ?_).trans (if_pos ?_))
  · simp [runs, member, watched, assigned, watched ▸ live, watched ▸ beat, silent]
  · rw [isCrown_fenceHere, member]
    rfl

theorem exec_heartbeatSilence_of_crown (crown : isCrown s = true) (inside : role < s.chim.n) (other : role ≠ s.chim.role)
    (silent : heard + 500000 ≤ s.dev.now) : exec (.heartbeatSilence role) s =
      .next (fenceAborts (fenceRedo ((otherRoles (fenceHere s role s.chim.role)).foldl (fun s r => sendFrame s 0x16 r 0 (natLe 2 role))
        (fenceHere s role s.chim.role)) role) role) := by
  rw [exec_heartbeatSilence, execHeartbeatSilence]
  refine congrArg _ ((if_neg ?_).trans (if_neg ?_))
  · simp [runs, live, beat, crown, inside, other, silent]
  · rw [isCrown_fenceHere, crown]
    exact Bool.false_ne_true

theorem exec_heartbeatSilence_of_heard (recent : s.dev.now < heard + 500000) : exec (.heartbeatSilence role) s = .next s := by
  rw [exec_heartbeatSilence, execHeartbeatSilence]
  exact congrArg _ (if_pos (by simp [runs, live, beat, recent]))
end

theorem fenceHere_of_heard {role heard b : Nat} (beat : look s.chim.beats role = some heard) : fenceHere s role b =
    (logEvent s 0x6006 6 (evData [(role, 2), (b, 2), (sat 32 ((s.dev.now - heard) / 100), 4)])).updChim fun c =>
      { c with
        fenced := store c.fenced role (some s.dev.now), tupWait := c.tupWait.filter fun r => r != role, fences := sat 16 (c.fences + 1),
        fenceGen := (c.fenceGen + 1) % 2 ^ 32 } := by
  have silent : silentUs s role = sat 32 ((s.dev.now - heard) / 100) := by
    rw [silentUs, beat]
  simp only [fenceHere, silent, logEvent_dev]

theorem exec_fenceFrame_of_arrived (arrived : Arrived s 0x16 f) : exec .fenceFrame s =
    .next (if fencedRole (taken s f) (field f.payload 0 2) then taken s f
      else sweepAborts (fenceHere (taken s f) (field f.payload 0 2) f.src)) := by
  rw [exec_fenceFrame, execFenceFrame, onFrame_of arrived]

/-- Settles O49: a frame that has arrived acts on the state without it; a committed step is dropped, a halted context has nothing in
flight, and what a fence tells stands in the log and the chimney's state. -/
theorem chimneySteps : Obligations.ChimneySteps := by
  refine ⟨⟨?start, ?halt, ?done, ?warn, ?commit, fun s x => stepAt_commitLocal, ?abort, fun s f => exec_abortAck_of_arrived, ?timeout, ?ready⟩,
    ?send, fun s f => exec_heartbeatFrame_of_arrived, ?silence, fun s role b heard beat _ => fenceHere_of_heard beat, ?fence⟩
  case start =>
    exact fun s f ctx xr t arrived numbered hctx hxr ht =>
      ⟨startedStep t f ctx xr, rfl, rfl, rfl, rfl, rfl, rfl, exec_startFrame_of_step arrived numbered hctx hxr ht⟩
  case halt =>
    exact fun s f x arrived told stands =>
      ⟨exec_startFrame_of_known arrived told stands, exec_startFrame_of_new arrived told stands⟩
  case done =>
    exact fun s f v t arrived hv ht => ⟨exec_doneFrame_of_member arrived hv ht, exec_doneFrame_of_unknown arrived hv ht, fun crown x stands =>
      ⟨exec_doneFrame_of_taken arrived hv ht crown stands, exec_doneFrame_of_refused arrived hv ht crown stands⟩⟩
  case warn => exact fun s x r warns stands opened own => ⟨_, reqAt_warnStep warns stands opened own, rfl⟩
  case commit =>
    intro s f t arrived ht
    refine ⟨fun x stands => ⟨fun seen => ?_, fun phase last path token => ?_⟩, exec_commitFrame_of_unknown arrived ht⟩
    · rw [exec_commitFrame_of_known arrived ht stands, memberPath_of_seen seen]
    · obtain ⟨l, short, same⟩ := memberPath_of_unseen (t := t) phase last path token
      rw [exec_commitFrame_of_known arrived ht stands, same]
      exact ⟨_, l, short, rfl⟩
  case abort =>
    exact fun s f t arrived ht => ⟨exec_abortFrame_of_known arrived ht, fun unknown =>
      ⟨unseenStep t f, rfl, rfl, exec_abortFrame_of_unknown arrived ht unknown⟩⟩
  case timeout =>
    exact fun s step x stands runs crown live =>
      ⟨exec_stepTimeout_of_late stands runs crown live, exec_stepTimeout_of_early stands runs crown live⟩
  case ready =>
    intro s n x stepNs caps own stands runs crown loaded times powers
    exact ⟨_, exec_chimneyContextReady_of_loaded own runs crown loaded times powers, (Chim.retime_roles _).1, (Chim.retime_roles _).2,
      _, look_updCtx stands fun x => { x with ready := true }, rfl, rfl⟩
  case send =>
    intro s runs assigned
    rw [exec_heartbeatSend_of_assigned runs assigned]
    exact ⟨fun crown => congrArg _ (if_pos crown), fun member => congrArg _ (if_neg (Bool.eq_false_iff.mp member))⟩
  case silence =>
    exact fun s role heard runs live beat => ⟨exec_heartbeatSilence_of_member runs live beat, fun crown inside other silent =>
      ⟨_, rfl, exec_heartbeatSilence_of_crown runs live beat crown inside other silent⟩, exec_heartbeatSilence_of_heard runs live beat⟩
  case fence =>
    intro s f arrived
    rw [exec_fenceFrame_of_arrived arrived]
    exact ⟨fun fenced => congrArg _ (if_pos fenced), fun live => congrArg _ (if_neg (Bool.eq_false_iff.mp live))⟩

end Sys2Proof.Machine
end

section
/-! Data, credits, gathers, table updates, mirror copies and failover between devices (14_chimney R350, R359, R360, R364, R368;
08_tables_tiers R194, R196). -/

namespace Sys2Proof.Machine

variable {s t u : State} {f : Frame} {v : List Nat} {b : List Byte} {tile ring seq : Nat} {c : Cmd}

/-! ## Shards -/

section
variable {r : Recv} (arrived : Arrived s 0x20 f) (here : chimTile (taken s f) (field f.payload 0 2) = some tile)
  (paired : pairedRecv (((taken s f).tile tile).recvs.filter fun r => r.role == f.src && r.chan == field f.payload 2 1 && r.step == f.step)
    (field f.payload 4 2) = some r)
include arrived here paired

theorem exec_dataFrame_of_paired : exec .dataFrame s =
    .next ((deliver (taken s f) tile r (field f.payload 4 2) (linesOf ((f.payload.drop 8).take (32 * field f.payload 6 2)))).elim
      (recvExcess (taken s f) tile r) (linkDone · tile)) := by
  rw [exec_dataFrame, execDataFrame, onFrame_of arrived]
  simp only [here, paired]
  cases deliver (taken s f) tile r (field f.payload 4 2) (linesOf ((f.payload.drop 8).take (32 * field f.payload 6 2))) <;> rfl
end

theorem exec_creditFrame_of_tile (arrived : Arrived s 0x21 f) (hv : v = Config.fieldsOf 0x21 f.payload)
    (here : chimTile (taken s f) (v[1]?.getD 0) = some tile) : exec .creditFrame s =
      .next ((((taken s f).tile tile).sends.find? fun d => d.role == f.src && d.chan == v[0]?.getD 0 && d.step == f.step).elim
        ((taken s f).updTile tile fun y => { y with credits := y.credits ++ [(v[0]?.getD 0, f.src, f.step, v[2]?.getD 0)] })
        fun d => sendData ((taken s f).updTile tile fun y => { y with sends := y.sends.erase d }) d.role
          (get ((0xFFFF, 0) : Nat × Nat) ((taken s f).tile tile).portMap (v[0]?.getD 0)).2 (v[0]?.getD 0) d.step d.lines) := by
  subst hv
  rw [exec_creditFrame, execCreditFrame, onFrame_of arrived]
  simp only [here]
  cases ((taken s f).tile tile).sends.find? fun d => d.role == f.src && d.chan == (Config.fieldsOf 0x21 f.payload)[0]?.getD 0 && d.step == f.step <;> rfl

/-! ## Long payloads -/

theorem sendLong_of_short {ty dst step : Nat} {head : List Nat} (short : b.length ≤ 512) : sendLong s ty dst step head b =
    sendFrame s ty dst step (Config.layoutOf ty (head.length :: head ++ [0, b.length] ++ b.map (·.toNat))) := by
  have one : piecesOf 0 (b.length + 1) b = [(0, b)] := by
    rw [piecesOf, if_pos short, List.take_of_length_le short]
  rw [sendLong, one]
  rfl

/-- A payload in one piece is whole at once. -/
theorem takePiece_of_whole {head : List Nat} (none_ : s.chim.parts = [])
    (fields : Config.fieldsOf f.ftype f.payload = head.length :: head ++ [0, b.length] ++ b.map (·.toNat)) :
    takePiece s f = (some (head, b), s) := by
  have bytes : (b.map (·.toNat)).map (BitVec.ofNat 8) = b := by
    rw [List.map_map]
    exact List.map_id'' (fun x => by simp) b
  have kept : ∀ P, s.chim.parts.filter P = s.chim.parts := fun P => by rw [none_, List.filter_nil]
  have same : ∀ P, (s.updChim fun c => { c with parts := c.parts.filter P }) = s := fun P => by rw [State.updChim, kept]
  simp only [takePiece, fields, none_, List.cons_append, List.headD_cons, List.drop_succ_cons, List.drop_zero, List.append_assoc, List.take_left]
  simp [bytes, List.drop_append, same]

section
variable (waits : takePiece (taken s f) f = (none, u))
include waits

theorem exec_gatherRsp_of_part (arrived : Arrived s 0x31 f) : exec .gatherRsp s = .next u := by
  rw [exec_gatherRsp, execGatherRsp, onFrame_of arrived]
  simp only [waits]

theorem exec_tupdateFrame_of_part (arrived : Arrived s 0x32 f) : exec .tupdateFrame s = .next u := by
  rw [exec_tupdateFrame, execTupdateFrame, onFrame_of arrived]
  simp only [waits]

theorem exec_mirrorFrame_of_part (arrived : Arrived s 0x40 f) : exec .mirrorFrame s = .next u := by
  rw [exec_mirrorFrame, execMirrorFrame, onFrame_of arrived]
  simp only [waits]

theorem exec_xferFrame_of_part (arrived : Arrived s 0x50 f) : exec .xferFrame s = .next u := by
  rw [exec_xferFrame, execXferFrame, onFrame_of arrived]
  simp only [waits]
end

/-! ## Tables across devices -/

theorem exec_gatherReq_of_held {table : Nat} {x : Ctx} {d : Table} (arrived : Arrived s 0x30 f) (hv : v = Config.fieldsOf 0x30 f.payload)
    (htable : table = v[1]?.getD 0) (stands : look s.ctxs (v[0]?.getD 0) = some x)
    (held : (x.tables.find? fun e => e.1 == table) = some (table, d)) : exec .gatherReq s =
      .next ((v.drop 2).foldl (fun s r => sendLong s 0x31 f.src f.step [table, r] (rowSeen x f.step table r (get [] d.data r))) (taken s f)) := by
  subst hv htable
  have still : look (taken s f).ctxs ((Config.fieldsOf 0x30 f.payload)[0]?.getD 0) = some x := stands
  rw [exec_gatherReq, execGatherReq, onFrame_of arrived]
  simp only [still, held, Option.map_some]

section
variable (whole : takePiece (taken s f) f = (some (v, b), u))
include whole

theorem exec_gatherRsp_of_whole (arrived : Arrived s 0x31 f) : exec .gatherRsp s = .next (u.updChim fun c => { c with
    gathered := c.gathered.map fun g =>
      if g.1 = f.step ∧ g.2.1 = v[0]?.getD 0 ∧ g.2.2.1 = v[1]?.getD 0 then (g.1, g.2.1, g.2.2.1, b) else g }) := by
  rw [exec_gatherRsp, execGatherRsp, onFrame_of arrived]
  simp only [whole]

theorem exec_tupdateFrame_of_acknowledgement (arrived : Arrived s 0x32 f) (ack : v[0]?.getD 0 % 2 = 1) :
    exec .tupdateFrame s = .next (u.updChim fun c => { c with tupWait := c.tupWait.erase f.src }) := by
  rw [exec_tupdateFrame, execTupdateFrame, onFrame_of arrived]
  simp only [whole]
  exact congrArg _ (if_pos ack)

theorem exec_tupdateFrame_of_row {n table row : Nat} {x : Ctx} {d : Table} (arrived : Arrived s 0x32 f) (hn : n = v[1]?.getD 0)
    (htable : table = v[2]?.getD 0) (hrow : row = v[3]?.getD 0) (forwarded : v[0]?.getD 0 % 2 = 0) (stands : look u.ctxs n = some x)
    (held : (x.tables.find? fun e => e.1 == table) = some (table, d)) : exec .tupdateFrame s = .next (sendLong (u.updCtx n fun x => { x with
      older := x.older ++ [(f.step + 1, table, row, get [] d.data row)],
      tables := insert table { d with data := insert row b (erase d.data row) } (erase x.tables table) }) 0x32 f.src 0 [1, n, table, row] []) := by
  subst hn htable hrow
  rw [exec_tupdateFrame, execTupdateFrame, onFrame_of arrived]
  simp only [whole, forwarded, Nat.zero_ne_one, if_false, updCtx_of_look stands, held, Option.map_some]

/-! ## The ember mirror -/

theorem exec_mirrorFrame_of_whole {m : MirrorCopy} {rest : List MirrorCopy} (arrived : Arrived s 0x40 f) (hm : m = copyOf v false b)
    (hrest : rest = u.chim.mirror.filter (fun k => !k.same m)) : exec .mirrorFrame s =
      .next (if u.kv.mirrorMib * 2 ^ 20 < (rest.map fun m => if m.ash then 16 else m.bytes.length).sum + b.length
        then mirrorReply (u.updChim fun c => { c with refusals := c.refusals + 1 }) f.src m false
        else mirrorReply (u.updChim fun c => { c with mirror := rest ++ [m] }) f.src m true) := by
  subst hm hrest
  rw [exec_mirrorFrame, execMirrorFrame, onFrame_of arrived]
  simp only [whole]
  rfl
end

section
variable (arrived : Arrived s 0x41 f) (hv : v = Config.fieldsOf 0x41 f.payload)
include arrived hv

theorem exec_mirrorAck_of_refused (refused : v[0]?.getD 0 % 4 = 0) :
    exec .mirrorAck s = .next ((taken s f).updChim fun c => { c with refused := sat 16 (c.refused + 1) }) := by
  subst hv
  rw [exec_mirrorAck, execMirrorAck, onFrame_of arrived]
  dsimp only
  rw [if_neg (by omega), if_pos (by omega)]

variable {slot pair : Nat} {r : Req} {e : Entry} (hslot : slot = slotFor (taken s f) (v[1]?.getD 0) (v[2]?.getD 0))
  (hpair : pair = pairOf (taken s f) (v[1]?.getD 0) (v[3]?.getD 0) (v[4]?.getD 0)) (stands : reqAt (taken s f) slot = some r)
  (held : entryOf r pair (v[5]?.getD 0) = some e)
include hslot hpair stands held

theorem exec_mirrorAck_of_taken (kept : v[0]?.getD 0 % 2 = 1) :
    exec .mirrorAck s = .next ((taken s f).updPage e.slot fun p => { p with mirrored := true }) := by
  subst hv hslot hpair
  rw [exec_mirrorAck, execMirrorAck, onFrame_of arrived]
  dsimp only
  rw [if_neg (by omega), if_neg (by omega), stands, Option.bind_some, held]

theorem exec_mirrorAck_of_lost (lost : v[0]?.getD 0 % 4 = 2) (live : e.ash = false) : exec .mirrorAck s =
    .next (sendMirror ((taken s f).updPage e.slot fun p => { p with mirrored := false }) (v[2]?.getD 0) slot pair (v[5]?.getD 0)) := by
  subst hv hslot hpair
  rw [exec_mirrorAck, execMirrorAck, onFrame_of arrived]
  refine congrArg _ ((if_pos lost).trans ?_)
  rw [stands, Option.bind_some, held]
  exact if_neg (Bool.eq_false_iff.mp live)
end

theorem exec_mirrorFree_of_arrived {m : MirrorCopy} {rest : List MirrorCopy} (arrived : Arrived s 0x42 f)
    (hv : v = Config.fieldsOf 0x42 f.payload) (hm : m = copyOf v true []) (hrest : rest = s.chim.mirror.filter (fun k => !k.same m)) :
    exec .mirrorFree s = .next (if s.chim.mirror.any (fun k => k.same m) then
      (taken s f).updChim fun c => { c with mirror := if v[6]?.getD 0 % 2 = 1 then rest else rest ++ [m] } else taken s f) := by
  subst hv hm hrest
  rw [exec_mirrorFree, execMirrorFree, onFrame_of arrived]
  rfl

/-! ## Failover -/

theorem onLong_of_start {opc : Nat} {start : Cmd → State → Option State} {fin : Cmd → State → State} (ready : Ready s opc ring seq c)
    (starts : start c s = some t) : onLong opc ring seq start fin s = t := by
  obtain ⟨found, clocks, opc, phase, turn⟩ := ready
  simp [onLong, found, clocks, opc, phase, turn, starts]

section
variable {x : Ctx} (ready : Ready s 0x94 ring seq c)
include ready

theorem exec_failoverAdopt_of_gone (gone : look s.ctxs c.pkt.ctx = none) :
    exec (.failoverAdopt ring seq) s = .next (finish s c stBadHandle 0) := by
  rw [exec_failoverAdopt, execFailoverAdopt]
  refine congrArg _ (onLong_of_start ready ?_)
  rw [gone]

variable (stands : look s.ctxs c.pkt.ctx = some x) (own : x.fn = c.fn)
include stands own

theorem exec_failoverAdopt_of_refused (refused : x.image.isSome = true ∨ mayAdopt s (c.p 0 2) = false) :
    exec (.failoverAdopt ring seq) s = .next (finish s c stNotPermitted 0) := by
  rw [exec_failoverAdopt, execFailoverAdopt]
  refine congrArg _ (onLong_of_start ready ?_)
  rw [stands]
  exact (if_neg (not_not.mpr own)).trans (if_pos (by simpa using refused))

theorem exec_failoverAdopt_of_spare (empty : x.image = none) (may : mayAdopt s (c.p 0 2) = true)
    (ht : t = s.updChim (fun k => { k with adopt := some { ring := ring, seq := seq, role := c.p 0 2, received := 0, copies := [] } })) :
    exec (.failoverAdopt ring seq) s = .next (acceptLong (((List.range t.chim.n).filter fun r => !fencedRole t r).foldl
      (fun s r => sendLong s 0x50 r 0 [0, c.p 0 2] []) t) { c with phase := .running }) := by
  subst ht
  rw [exec_failoverAdopt, execFailoverAdopt]
  refine congrArg _ (onLong_of_start ready ?_)
  rw [stands]
  exact (if_neg (not_not.mpr own)).trans (if_neg (by simp [empty, may]))
end

theorem loadCells_chim (i : Image) : (loadCells s b i).chim = s.chim := by
  unfold loadCells
  refine foldl_field (·.chim) (fun s x => ?_) (arrayEnts b) _
  obtain ⟨n, hn⟩ : ∃ n, n = 1024 := ⟨_, rfl⟩
  rw [← hn]
  refine foldl_field (·.chim) (fun s r => ?_) (List.range n) s
  exact setRow_frame (g := (·.chim)) (fun _ _ => rfl) s (physArray i x.carray) r (mkRow (imgRow b x r))

theorem loadImage_chim (ctx o : Nat) : (loadImage s ctx b o).chim = s.chim := by
  rw [loadImage, State.updCtx_chim]
  exact (foldl_field (·.chim) (fun s e => State.updTile_chim ..) _ _).trans (loadCells_chim _)

section
variable {x : Ctx} {a : Adopt} (running : Running s 0x94 ring seq c) (adopts : s.chim.adopt = some a)
  (stands : look s.ctxs c.pkt.ctx = some x) (hb : b = s.hostRead (c.p 8 8) (c.p 16 8))
include running adopts stands hb

theorem exec_failoverAdopt_of_bad {e : Nat × Nat} (bad : imageCheck b (c.p 16 8) x.hdim (some (s.chim.n, a.role)) false 40 = some e) :
    exec (.failoverAdopt ring seq) s = .next (finish (s.updChim fun k => { k with adopt := none }) c e.1 e.2) := by
  subst hb
  rw [exec_failoverAdopt, execFailoverAdopt, onLong_running running]
  simp only [adopts, finishAdopt, stands, bad]

theorem exec_failoverAdopt_of_good {n o : Nat} (hn : n = b.length + a.received)
    (good : imageCheck b (c.p 16 8) x.hdim (some (s.chim.n, a.role)) false 40 = none) (fits : autoOrigin s b = some o)
    (hu : u = (if a.role = s.chim.crown then loadImage s c.pkt.ctx b o else rebuild (loadImage s c.pkt.ctx b o) c.pkt.ctx a.copies))
    (ht : t = u.updChim (fun k => { k with
      adopt := none, role := a.role, buddy := if k.buddy = 0xFFFF then (a.role + 1) % max 1 k.n else k.buddy,
      fenced := store k.fenced a.role none, viaAux := if k.topo = 3 then k.viaAux else a.role :: k.viaAux })) :
    exec (.failoverAdopt ring seq) s = .next (finish (putCmd (logEvent t 0x6005 6
      (evData [(a.role, 2), (0, 2), (sat 32 ((t.dev.now - (look s.chim.fenced a.role).getD s.dev.now) / 100000), 4)])) { c with position := n })
      { c with position := n } stOk n) := by
  subst hb
  rw [exec_failoverAdopt, execFailoverAdopt, onLong_running running]
  simp only [adopts, finishAdopt, stands, good, fits, loadImage_chim]
  rw [← hu, ← hn, ← ht]
end

section
variable (arrived : Arrived s 0x50 f) (whole : takePiece (taken s f) f = (some (v, b), u))
include arrived whole

theorem exec_xferFrame_of_request {role : Nat} (asks : v[0]?.getD 0 % 2 = 0) (hrole : role = v[1]?.getD 0) :
    exec .xferFrame s = .next ((u.chim.mirror.filter fun m => m.role == role).foldl (fun s m =>
      sendLong s 0x50 role 0 [1, m.role, m.ctx, m.req, m.layer, m.head, m.page, b2n m.ash] m.bytes) u) := by
  subst hrole
  rw [exec_xferFrame, execXferFrame, onFrame_of arrived]
  simp only [whole]
  exact congrArg _ (if_pos asks)

/-- The adoption with a copy more. -/
def Adopt.taken (a : Adopt) (m : MirrorCopy) : Adopt :=
  { a with received := a.received + (if m.ash then 16 else m.bytes.length), copies := a.copies ++ [m] }

theorem exec_xferFrame_of_copy {a : Adopt} {m : MirrorCopy} (copy : v[0]?.getD 0 % 2 = 1) (adopts : u.chim.adopt = some a)
    (hm : m = copyOf (v.drop 1) (decide (v[7]?.getD 0 % 2 = 1)) b) :
    ∃ t : State, exec .xferFrame s = .next t ∧ t.chim.adopt = some (a.taken m) := by
  subst hm
  rw [exec_xferFrame, execXferFrame, onFrame_of arrived]
  simp only [whole, copy, Nat.one_ne_zero, if_false, adopts]
  refine ⟨_, rfl, ?_⟩
  split <;> rfl
end

/-- Settles O50: a frame that has arrived acts on the state without it, once the pieces of its payload are together. -/
theorem chimneyDataAndMirrors : Obligations.ChimneyDataAndMirrors := by
  refine ⟨⟨?data, ?credit, fun s f v table x t => exec_gatherReq_of_held, fun s ty dst step head b => sendLong_of_short,
      fun s f head b => takePiece_of_whole, ?part, fun s u f v b arrived whole => exec_gatherRsp_of_whole whole arrived, ?update⟩,
    ?mirror, ?ack, ?free, ?adopt, ?adopted, fun s ring seq c => exec_failoverAdopt_of_gone, fun s u f role v b arrived whole =>
      exec_xferFrame_of_request arrived whole, ?copy⟩
  case data =>
    intro s u f t r arrived here paired
    rw [exec_dataFrame_of_paired arrived here paired]
    refine ⟨fun fits => ?_, fun excess => ?_⟩
    · rw [fits]
      rfl
    · rw [excess]
      rfl
  case credit =>
    intro s f v t arrived hv here
    rw [exec_creditFrame_of_tile arrived hv here]
    refine ⟨fun d waits => ?_, fun none_ => ?_⟩
    · rw [waits]
      rfl
    · rw [none_]
      rfl
  case part =>
    exact fun s u f waits => ⟨exec_gatherRsp_of_part waits, exec_tupdateFrame_of_part waits, exec_mirrorFrame_of_part waits,
      exec_xferFrame_of_part waits⟩
  case update =>
    exact fun s u f v b n table row arrived whole hn htable hrow => ⟨exec_tupdateFrame_of_acknowledgement whole arrived,
      fun x t => exec_tupdateFrame_of_row whole arrived hn htable hrow⟩
  case mirror =>
    intro s u f v b m rest arrived whole hm hrest
    rw [exec_mirrorFrame_of_whole whole arrived hm hrest]
    exact ⟨fun room => congrArg _ (if_neg (Nat.not_lt.mpr room)), fun full => congrArg _ (if_pos full)⟩
  case ack =>
    exact fun s f v arrived hv => ⟨exec_mirrorAck_of_refused arrived hv,
      fun r e kept stands held => exec_mirrorAck_of_taken arrived hv rfl rfl stands held kept,
      fun slot pair r e lost hslot hpair stands held => exec_mirrorAck_of_lost arrived hv hslot hpair stands held lost⟩
  case free =>
    intro s f v m rest arrived hv hm hrest
    rw [exec_mirrorFree_of_arrived arrived hv hm hrest]
    exact ⟨fun held => congrArg _ (if_pos held), fun none_ => congrArg _ (if_neg (Bool.eq_false_iff.mp none_))⟩
  case adopt =>
    exact fun s ring seq c x ready stands own => ⟨exec_failoverAdopt_of_refused ready stands own, fun empty may =>
      ⟨_, rfl, exec_failoverAdopt_of_spare ready stands own empty may rfl⟩⟩
  case adopted =>
    exact fun s u t ring seq n o c x a b running adopts stands hb hn => ⟨fun e => exec_failoverAdopt_of_bad running adopts stands hb,
      exec_failoverAdopt_of_good running adopts stands hb hn⟩
  case copy =>
    intro s u f v d a arrived whole copy adopts
    obtain ⟨t, same, adopt⟩ := exec_xferFrame_of_copy arrived whole copy adopts rfl
    refine ⟨_, t, same, adopt, rfl, rfl, ?_⟩
    simp [Adopt.taken, copyOf]

end Sys2Proof.Machine
end

section
/-! Raised errors, their handlers, and the entry to FAILED (16_faults R382, R383, R386, R390). -/

namespace Sys2Proof.Machine

variable {s : State} {e : ErrIn} {h : Handler}

/-! ## The entry to FAILED -/

theorem enterFailed_of_working (works : s.dev.st ≠ .failed) (notCold : s.dev.st ≠ .cold) (domain cause unit detail : Nat) :
    enterFailed s domain cause unit detail = goState (flushLog (failAll { (forceSafe ((logEvent s 0xA001 domain
      (evData [(domain, 1), (0, 1), (cause, 2), (unit, 2), (detail, 2)])).updErr fun e =>
        { e with
          fifo := [], active := none, arrq := [], failedDomain := domain, hostRead := none, seen := e.seen ||| 2 ^ domain })).updCal
        fun c => { c with run := none } with test := none } stDevFailed)) .failed :=
  if_neg (not_or.mpr ⟨works, notCold⟩)

@[simp] theorem flushLog_ram : (flushLog s).log.ram = [] := rfl

section
variable (works : s.dev.st ≠ .failed) (notCold : s.dev.st ≠ .cold) (domain cause unit detail : Nat)
include works notCold

theorem enterFailed_safe : (enterFailed s domain cause unit detail).dev.safe = true := by
  simp [enterFailed_of_working works notCold, goState, forceSafe]

theorem enterFailed_err : (enterFailed s domain cause unit detail).err.failedDomain = domain ∧
    (enterFailed s domain cause unit detail).err.seen = s.err.seen ||| 2 ^ domain ∧
    (enterFailed s domain cause unit detail).err.fifo = [] ∧ (enterFailed s domain cause unit detail).err.active = none := by
  simp [enterFailed_of_working works notCold]

omit works notCold in
theorem Divider.toward_target (d : Divider) (n : Nat) : (d.toward n).target = n := by
  unfold toward
  split <;> rfl

theorem enterFailed_clk : (enterFailed s domain cause unit detail).clk.aclkOn = false ∧
    (enterFailed s domain cause unit detail).clk.cclk.target = 64 := by
  simp [enterFailed_of_working works notCold, goState, clocksFor, Divider.toward_target]

theorem enterFailed_work : (enterFailed s domain cause unit detail).cal.run = none ∧ (enterFailed s domain cause unit detail).test = none ∧
    (enterFailed s domain cause unit detail).log.ram = [] ∧ (enterFailed s domain cause unit detail).tiles = s.tiles ∧
    (enterFailed s domain cause unit detail).cells = s.cells := by
  simp [enterFailed_of_working works notCold]
end

/-! ## Raising -/

/-- An error that has been raised counts in its domain. -/
def seen (s : State) (e : ErrIn) : State := s.updErr fun x => { x with seen := x.seen ||| 2 ^ e.domain }

section
variable (clocks : clocked s = true) (works : s.dev.st ≠ .failed)
include clocks works

theorem exec_errorRaise_of_fatal (fatal : e.act = .fatal ∨ e.domain = 4 ∨ e.domain = 6) :
    exec (.errorRaise e) s = .next (enterFailed (seen s e) e.domain e.code e.unit e.detail) := by
  have goes : (!clocked s || s.dev.st == .failed) = false := by simp [clocks, works]
  have isFatal : isFatal e = true := by simpa [isFatal, or_assoc] using fatal
  simp only [exec_errorRaise, execErrorRaise, raiseErr, goes, isFatal, Bool.false_eq_true, if_false, if_true, seen]

section
variable (harmless : e.act ≠ .fatal) (noFlue : e.domain ≠ 4) (noLink : e.domain ≠ 6)
include harmless noFlue noLink

theorem exec_errorRaise_of_idle (idle : s.err.active = none) : exec (.errorRaise e) s = .next (startHandler (seen s e) e) := by
  have goes : (!clocked s || s.dev.st == .failed) = false := by simp [clocks, works]
  have notFatal : isFatal e = false := by simp [isFatal, harmless, noFlue, noLink]
  simp only [exec_errorRaise, execErrorRaise, raiseErr, goes, notFatal, Bool.false_eq_true, if_false, State.updErr_err, idle, seen]

variable (busy : s.err.active = some h)
include busy

theorem exec_errorRaise_of_busy : exec (.errorRaise e) s = .next (
    if h.err.domain = e.domain then
      if e.domain = 3 ∧ s.err.arrq.length < 64 then (seen s e).updErr fun x => { x with arrq := x.arrq ++ [e] }
      else nestedErr (seen s e) h e
    else if s.err.fifo.length ≥ 32 then
      enterFailed (logEvent (seen s e) 0x8005 8 (evData [(h.err.domain, 1), (0, 1), (e.code, 2)])) e.domain 0x8005 e.unit e.detail
    else (seen s e).updErr fun x => { x with fifo := x.fifo ++ [e], hwm := max x.hwm (x.fifo.length + 1) }) := by
  have goes : (!clocked s || s.dev.st == .failed) = false := by simp [clocks, works]
  have notFatal : isFatal e = false := by simp [isFatal, harmless, noFlue, noLink]
  simp only [exec_errorRaise, execErrorRaise, raiseErr, goes, notFatal, Bool.false_eq_true, if_false, State.updErr_err, busy, seen]

theorem exec_errorRaise_of_room (other : h.err.domain ≠ e.domain) (room : s.err.fifo.length < 32) : exec (.errorRaise e) s =
    .next ((seen s e).updErr fun x => { x with fifo := x.fifo ++ [e], hwm := max x.hwm (x.fifo.length + 1) }) := by
  rw [exec_errorRaise_of_busy clocks works harmless noFlue noLink busy, if_neg other, if_neg (Nat.not_le.mpr room)]

theorem exec_errorRaise_of_full (other : h.err.domain ≠ e.domain) (full : 32 ≤ s.err.fifo.length) : exec (.errorRaise e) s =
    .next (enterFailed (logEvent (seen s e) 0x8005 8 (evData [(h.err.domain, 1), (0, 1), (e.code, 2)])) e.domain 0x8005 e.unit e.detail) := by
  rw [exec_errorRaise_of_busy clocks works harmless noFlue noLink busy, if_neg other, if_pos full]

theorem exec_errorRaise_of_array (same : h.err.domain = e.domain) (array : e.domain = 3) (room : s.err.arrq.length < 64) :
    exec (.errorRaise e) s = .next ((seen s e).updErr fun x => { x with arrq := x.arrq ++ [e] }) := by
  rw [exec_errorRaise_of_busy clocks works harmless noFlue noLink busy, if_pos same, if_pos ⟨array, room⟩]

theorem exec_errorRaise_of_nested (same : h.err.domain = e.domain) (nested : e.domain ≠ 3 ∨ 64 ≤ s.err.arrq.length) :
    exec (.errorRaise e) s = .next (nestedErr (seen s e) h e) := by
  rw [exec_errorRaise_of_busy clocks works harmless noFlue noLink busy, if_pos same,
    if_neg (by simpa [imp_iff_not_or, Nat.not_lt] using nested)]
end
end

/-! ## Handlers end -/

section
variable {q : List ErrIn} (active : s.err.active = some h)
include active

theorem endHandler_of_array (array : h.err.domain = 3) (queued : s.err.arrq = e :: q) :
    endHandler s = runAct (s.updErr fun x => { x with arrq := q, active := some { h with err := e } }) e := by
  simp only [endHandler, active, array, beq_self_eq_true, queued]

section
variable (other : h.err.domain ≠ 3 ∨ s.err.arrq = [])
include other

theorem endHandler_of_queued (queued : s.err.fifo = e :: q) :
    endHandler s = startHandler (s.updErr fun x => { x with fifo := q, active := none }) e := by
  rcases other with domain | none_
  · simp only [endHandler, active, beq_eq_false_iff_ne.mpr domain, queued]
  · cases array : h.err.domain == 3 <;> simp only [endHandler, active, array, none_, queued]

theorem endHandler_of_none (none_ : s.err.fifo = []) : endHandler s = s.updErr fun x => { x with active := none } := by
  rcases other with domain | empty
  · simp only [endHandler, active, beq_eq_false_iff_ne.mpr domain, none_]
  · cases array : h.err.domain == 3 <;> simp only [endHandler, active, array, empty, none_]
end

theorem exec_handlerTimeout_of_active : exec .handlerTimeout s =
    .next (if s.dev.now - h.started ≥ 1000000 then enterFailed s 8 h.err.code 0xFFFF 0 else s) := by
  rw [exec_handlerTimeout, execHandlerTimeout, active]
end

theorem tellOwners_of_none (none_ : s.chim.lost = []) : tellOwners s = s := by
  rw [tellOwners, none_]
  exact updChim_same s (by rw [← none_])

theorem tellHalts_of_none (none_ : s.chim.halts = []) : tellHalts s = s := by
  rw [tellHalts, none_]
  exact updChim_same s (by rw [← none_])

/-- Settles O51: an error is queued where a handler runs and the queue has room, and otherwise fails the device. -/
theorem errorsQueueAndFail : Obligations.ErrorsQueueAndFail := by
  refine ⟨fun s clocks works => ⟨?fatal, fun e harmless noFlue noLink idle => exec_errorRaise_of_idle clocks works harmless noFlue noLink idle,
    ?busy, ?ended, tellOwners_of_none, ?owner, tellHalts_of_none, ?halt, fun e => rfl⟩, ?timeout, ?failed⟩
  case fatal =>
    intro e fatal
    have notCold : (seen s e).dev.st ≠ .cold := clocked_not_cold clocks
    exact ⟨_, exec_errorRaise_of_fatal clocks works fatal, enterFailed_st notCold ..⟩
  case busy =>
    intro e h harmless noFlue noLink busy
    have notCold : (seen s e).dev.st ≠ .cold := clocked_not_cold clocks
    refine ⟨exec_errorRaise_of_room clocks works harmless noFlue noLink busy, fun other full => ?_,
      exec_errorRaise_of_array clocks works harmless noFlue noLink busy, fun same nested => ?_⟩
    · exact ⟨_, _, exec_errorRaise_of_full clocks works harmless noFlue noLink busy other full,
        enterFailed_st (by rwa [logEvent_dev]) .., rfl, rfl⟩
    · exact ⟨_, _, exec_errorRaise_of_nested clocks works harmless noFlue noLink busy same nested,
        enterFailed_st (by rwa [logEvent_dev]) .., rfl, rfl⟩
  case ended =>
    intro h e q active
    refine ⟨fun array queued => ?_, fun other queued => ?_, fun other none_ => ?_⟩
    · rw [exec_handlerEnd, execHandlerEnd, endHandler_of_array active array queued]
    · rw [exec_handlerEnd, execHandlerEnd, endHandler_of_queued active other queued]
    · rw [exec_handlerEnd, execHandlerEnd, endHandler_of_none active other none_]
  case owner =>
    intro m one
    rw [tellOwners, one]
    rfl
  case halt =>
    intro ctx one
    rw [tellHalts, one]
    rfl
  case timeout =>
    intro s h active
    rw [exec_handlerTimeout_of_active active]
    exact ⟨fun late => congrArg _ (if_pos late), fun early => congrArg _ (if_neg (Nat.not_le.mpr early))⟩
  case failed =>
    intro s domain cause unit detail works notCold
    obtain ⟨named, counted, emptied, ended⟩ := enterFailed_err works notCold domain cause unit detail
    obtain ⟨stopped, slow⟩ := enterFailed_clk works notCold domain cause unit detail
    exact ⟨enterFailed_st notCold .., enterFailed_safe works notCold .., named, counted, emptied, ended, stopped, slow,
      enterFailed_work works notCold ..⟩

end Sys2Proof.Machine
end

section
/-! HBM, tile, mesh and host read errors (01_machine R18 to R20; 08_tables_tiers R187; 16_faults R384, R386 to R389). -/

namespace Sys2Proof.Machine

variable {s t u : State}

/-! ## HBM -/

section
variable {site : HbmSite} {addr region stack : Nat} {recent : List (Nat × Nat)} (clocks : clocked s = true) (works : s.dev.st ≠ .failed)
  (info : siteInfo site = (addr, region)) (hstack : stack = addr / 256 % 8)
  (hrecent : recent = (stack, s.dev.now) :: s.err.stackErrs.filter (fun e => s.dev.now - e.2 < 100000000))
  (ht : t = (logEvent s 0x5002 5 (evData [(0, 1), (region, 1), (0, 2), (addr / 256, 4)])).updErr (fun x => { x with stackErrs := recent }))
include clocks works info hstack hrecent ht

theorem exec_hbmUncorrectable_of_working : exec (.hbmUncorrectable site) s = .next (if (recent.filter fun e => e.1 == stack).length ≥ 16 then
    raiseErr t { domain := 5, code := 0x5002, unit := stack, detail := 16, act := .fatal }
    else raiseErr t { domain := 5, code := 0x5002, unit := stack, detail := 0, act := .hbm site }) := by
  have goes : (!clocked s || s.dev.st == .failed) = false := by simp [clocks, works]
  subst hstack hrecent ht
  simp only [exec_hbmUncorrectable, execHbmUncorrectable, goes, Bool.false_eq_true, if_false, info, logEvent_dev, logEvent_err]
end

theorem runAct_of_hbm {e : ErrIn} {site : HbmSite} (act : e.act = .hbm site) : runAct s e = hbmAction s site := by
  rw [runAct, act]

section
variable {a array row : Nat}

theorem hbmAction_of_clean_row (clean : badSets (rowOf s array row) = 0) :
    hbmAction s (.gold a array row true) = setGold s array row (dataBits (rowOf s array row)) := if_pos clean

theorem hbmAction_of_bad_row (bad : badSets (rowOf s array row) ≠ 0) :
    hbmAction s (.gold a array row true) = enterFailed s 5 0x5002 array row := if_neg bad
end

/-! ## Lost requests -/

/-- Whether a request's data is lost. -/
def lostOf (s : State) (slot : Nat) : Option Bool := (look s.reqs slot).map (·.dataLost)

theorem lostOf_congr {slot : Nat} (same : t.reqs = s.reqs) : lostOf t slot = lostOf s slot := by
  rw [lostOf, lostOf, same]

theorem lostOf_updReq {i slot : Nat} {f : Req → Req} (keeps : ∀ r, (f r).dataLost = r.dataLost) :
    lostOf (s.updReq i f) slot = lostOf s slot := by
  by_cases same : slot = i
  · subst same
    cases stands : reqAt s slot with
    | none => rw [lostOf, State.updReq, show look s.reqs slot = none from stands, lostOf, show look s.reqs slot = none from stands]
    | some r =>
      rw [lostOf, lostOf, show look (s.updReq slot f).reqs slot = some (f r) from reqAt_updReq stands _,
        show look s.reqs slot = some r from stands, Option.map_some, Option.map_some, keeps]
  · exact congrArg _ (reqAt_updReq_other same _)

theorem lostOf_finishW {slot : Nat} (c : Cmd) (status result0 warn : Nat) : lostOf (finishW s c status result0 warn) slot = lostOf s slot := by
  unfold finishW
  dsimp only
  split
  · rfl
  · rw [lostOf_congr (reap_reqs ..), lostOf_congr (postDups_reqs ..)]
    split
    · refine (lostOf_updReq fun r => ?_).trans (lostOf_congr (by simp [dropCmd]))
      split <;> rfl
    · exact lostOf_congr (by simp [dropCmd])

theorem lostOf_loseReq {slot : Nat} {r : Req} (stands : look s.reqs slot = some r) (opened : r.open_ = true) :
    lostOf (loseReq s slot) slot = some true := by
  have marked : lostOf (s.updReq slot fun q => { q with dataLost := true }) slot = some true :=
    congrArg (Option.map Req.dataLost) (reqAt_updReq (s := s) stands fun q => { q with dataLost := true })
  rw [loseReq, stands]
  simp only [opened, Bool.not_true, Bool.false_eq_true, if_false]
  refine (foldl_field (fun s => lostOf s slot) (fun s d => ?_) _ _).trans marked
  split
  · rfl
  · split
    · rfl
    · exact lostOf_finishW ..

theorem look_loseReq {slot : Nat} {r : Req} (stands : look s.reqs slot = some r) (opened : r.open_ = true) :
    ∃ q, look (loseReq s slot).reqs slot = some q ∧ q.dataLost = true :=
  Option.map_eq_some_iff.mp (lostOf_loseReq stands opened)

/-! ## Tiles -/

theorem ctileOf_logEvent (tile code domain data : Nat) : ctileOf (logEvent s code domain data) tile = ctileOf s tile := by
  simp only [ctileOf, State.tile, logEvent_tiles, logEvent_ctxs]

section
variable {tile line : Nat} (clocks : clocked s = true) (works : s.dev.st ≠ .failed)
  (ht : t = logEvent s 0x5002 5 (evData [(1, 1), (0xFF, 1), (0, 2), (line % 4096 + tile * 65536, 4)]))
include clocks works ht

theorem exec_tileParityError_of_unowned (unowned : ctileOf s tile = none) : exec (.tileParityError tile line) s = .next t := by
  have goes : (!clocked s || s.dev.st == .failed) = false := by simp [clocks, works]
  subst ht
  simp only [exec_tileParityError, execTileParityError, goes, Bool.false_eq_true, if_false, ctileOf_logEvent, unowned]

variable {cx ct : Nat} {c : Ctx} {i : Image} {k : CTile} (owned : ctileOf s tile = some (cx, ct, c, i, k))
include owned

theorem exec_tileParityError_of_panel (inside : ∃ p ∈ k.panels, p.lines ≠ 0 ∧ p.base ≤ line ∧ line < p.base + p.lines) :
    exec (.tileParityError tile line) s =
      .next (raiseErr t { domain := 5, code := 0x5002, unit := tile, detail := 0, act := .halt cx 6 ct 0xFFFF }) := by
  have goes : (!clocked s || s.dev.st == .failed) = false := by simp [clocks, works]
  obtain ⟨p, hp⟩ : ∃ p, panelOfLine k.panels line = some p := by
    obtain ⟨p, mem, lines, low, high⟩ := inside
    exact Option.isSome_iff_exists.mp (List.find?_isSome.mpr ⟨p, mem, by simp [lines, low, high]⟩)
  subst ht
  simp only [exec_tileParityError, execTileParityError, goes, Bool.false_eq_true, if_false, ctileOf_logEvent, owned, hp]

theorem exec_tileParityError_of_outside (outside : ∀ p ∈ k.panels, p.lines = 0 ∨ line < p.base ∨ p.base + p.lines ≤ line) :
    exec (.tileParityError tile line) s = .next t := by
  have goes : (!clocked s || s.dev.st == .failed) = false := by simp [clocks, works]
  have none_ : panelOfLine k.panels line = none := by
    refine List.find?_eq_none.mpr fun p mem => ?_
    rcases outside p mem with lines | low | high
    · simp [lines]
    · simp [Nat.not_le.mpr low]
    · simp [Nat.not_lt.mpr high]
  subst ht
  simp only [exec_tileParityError, execTileParityError, goes, Bool.false_eq_true, if_false, ctileOf_logEvent, owned, none_]
end

/-! ## The mesh -/

section
variable {sent got : MeshFlit} {link : MeshLink} {n : Nat} {e : ErrIn}

theorem exec_meshParityError_of_none (none_ : link ∉ meshRoute sent.src sent.dst ∨ got.good = true) :
    exec (.meshParityError sent link got) s = .next s := by
  have stays : (!clocked s || s.dev.st == .failed || !(meshRoute sent.src sent.dst).contains link || got.good) = true := by
    rcases none_ with off | good
    · simp [off]
    · simp [good]
  exact congrArg _ (if_pos stays)

variable (clocks : clocked s = true) (works : s.dev.st ≠ .failed) (hn : n = nat s.err.meshErrs (linkIndex link))
  (ht : t = (logEvent s 0x5002 5 (evData [(2, 1), (0xFF, 1), (0, 2), (link.tile, 4)])).updErr (fun x =>
    { x with meshErrs := put 0 x.meshErrs (linkIndex link) (s.dev.now + 1) }))
  (he : e = { domain := 5, code := 0x5002, unit := link.tile, detail := 0, act := .elsewhere })
  (crossed : link ∈ meshRoute sent.src sent.dst) (struck : got.good = false)
include clocks works hn ht he crossed struck

theorem exec_meshParityError_of_second (noted : n ≠ 0) (soon : s.dev.now + 1 - n < 100000000) :
    exec (.meshParityError sent link got) s = .next (raiseErr t { e with act := .fatal }) := by
  have goes : (!clocked s || s.dev.st == .failed || !(meshRoute sent.src sent.dst).contains link || got.good) = false := by
    simp [clocks, works, crossed, struck]
  subst ht hn he
  simp only [exec_meshParityError, execMeshParityError, goes, Bool.false_eq_true, if_false, logEvent_dev, logEvent_err, State.updErr_dev]
  exact congrArg _ (if_pos ⟨noted, soon⟩)

variable (first : n = 0 ∨ 100000000 ≤ s.dev.now + 1 - n)
include first

theorem exec_meshParityError_of_background (background : sent.background = true) : exec (.meshParityError sent link got) s =
    .next (raiseErr ((roundOf t sent.src sent.dst).elim t fun x => restartRound t x.1 x.2.1 x.2.2) e) := by
  have goes : (!clocked s || s.dev.st == .failed || !(meshRoute sent.src sent.dst).contains link || got.good) = false := by
    simp [clocks, works, crossed, struck]
  have single : ¬(n ≠ 0 ∧ s.dev.now + 1 - n < 100000000) := by omega
  subst ht hn he
  simp only [exec_meshParityError, execMeshParityError, goes, Bool.false_eq_true, if_false, logEvent_dev, logEvent_err, State.updErr_dev,
    if_neg single, background, if_true]
  split <;> rename_i h <;> rw [h] <;> rfl

theorem exec_meshParityError_of_service (service : sent.background = false) : exec (.meshParityError sent link got) s =
    .next ((flitCtx t sent).elim (raiseErr t e) fun x => raiseErr t { e with act := .halt x.1 6 x.2 0xFFFF }) := by
  have goes : (!clocked s || s.dev.st == .failed || !(meshRoute sent.src sent.dst).contains link || got.good) = false := by
    simp [clocks, works, crossed, struck]
  have single : ¬(n ≠ 0 ∧ s.dev.now + 1 - n < 100000000) := by omega
  subst ht hn he
  simp only [exec_meshParityError, execMeshParityError, goes, Bool.false_eq_true, if_false, logEvent_dev, logEvent_err, State.updErr_dev,
    if_neg single, service]
  split <;> rename_i h <;> rw [h] <;> rfl
end

/-! Routes (01_machine R18). -/

theorem rowLinks_length (y x x' : Nat) : (rowLinks y x x').length = (x - x') + (x' - x) := by
  unfold rowLinks
  split <;> rw [List.length_map, List.length_range] <;> omega

theorem columnLinks_length (x y y' : Nat) : (columnLinks x y y').length = (y - y') + (y' - y) := by
  unfold columnLinks
  split <;> rw [List.length_map, List.length_range] <;> omega

theorem rowLinks_row {y x x' : Nat} (hx : x < 80) (hx' : x' < 80) {l : MeshLink} (mem : l ∈ rowLinks y x x') :
    (l.dir = .east ∨ l.dir = .west) ∧ l.tile / 80 = y := by
  unfold rowLinks at mem
  split at mem <;> obtain ⟨i, hi, rfl⟩ := List.mem_map.mp mem <;> have hi := List.mem_range.mp hi
  · exact ⟨.inl rfl, by dsimp only; omega⟩
  · exact ⟨.inr rfl, by dsimp only; omega⟩

theorem columnLinks_column {x y y' : Nat} (hx : x < 80) {l : MeshLink} (mem : l ∈ columnLinks x y y') :
    (l.dir = .south ∨ l.dir = .north) ∧ l.tile % 80 = x := by
  unfold columnLinks at mem
  split at mem <;> obtain ⟨i, hi, rfl⟩ := List.mem_map.mp mem
  · exact ⟨.inl rfl, by dsimp only; omega⟩
  · exact ⟨.inr rfl, by dsimp only; omega⟩

theorem meshRoute_length (src dst : Nat) : (meshRoute src dst).length =
    (src % 80 - dst % 80) + (dst % 80 - src % 80) + (src / 80 - dst / 80) + (dst / 80 - src / 80) := by
  rw [meshRoute, List.length_append, rowLinks_length, columnLinks_length]
  omega

theorem meshRoute_links {src dst : Nat} {l : MeshLink} (mem : l ∈ meshRoute src dst) :
    (l.dir = .east ∨ l.dir = .west → l.tile / 80 = src / 80) ∧ (l.dir = .south ∨ l.dir = .north → l.tile % 80 = dst % 80) := by
  rcases List.mem_append.mp mem with row | column
  · obtain ⟨dir, tile⟩ := rowLinks_row (Nat.mod_lt _ (by decide)) (Nat.mod_lt _ (by decide)) row
    refine ⟨fun _ => tile, fun other => ?_⟩
    rcases dir with d | d <;> rw [d] at other <;> simp at other
  · obtain ⟨dir, tile⟩ := columnLinks_column (Nat.mod_lt _ (by decide)) column
    refine ⟨fun other => ?_, fun _ => tile⟩
    rcases dir with d | d <;> rw [d] at other <;> simp at other

/-- A sideband with one bit struck no longer matches. -/
theorem struck_not_good {f : MeshFlit} {i : Nat} (hi : i < 40) (good : f.good = true) :
    ({ f with parity := f.parity ^^^ BitVec.twoPow 40 i } : MeshFlit).good = false := by
  have was : f.parity.getLsbD i = f.parityBit i := by simpa using List.all_eq_true.mp good i (List.mem_range.mpr hi)
  refine Bool.eq_false_iff.mpr fun still => ?_
  have is : (f.parity ^^^ BitVec.twoPow 40 i).getLsbD i = f.parityBit i :=
    beq_iff_eq.mp (List.all_eq_true.mp still i (List.mem_range.mpr hi))
  rw [BitVec.getLsbD_xor, was, BitVec.getLsbD_twoPow] at is
  simp [hi] at is

/-! ## Halts -/

theorem stopTile_stopped (x : Tile) : (stopTile x).stopped = true ∧ (stopTile x).exec = none := ⟨rfl, rfl⟩

theorem tile_foldl_stopTile {tile : Nat} (l : List Nat) (stops : tile ∈ l ∨ (s.tile tile).stopped = true ∧ (s.tile tile).exec = none) :
    ((l.foldl (fun s x => s.updTile x stopTile) s).tile tile).stopped = true ∧
      ((l.foldl (fun s x => s.updTile x stopTile) s).tile tile).exec = none := by
  induction l generalizing s with
  | nil => exact stops.resolve_left (List.not_mem_nil)
  | cons x l ih =>
    refine ih ?_
    by_cases same : tile = x
    · subst same
      rw [updTile_tile]
      exact .inr (stopTile_stopped _)
    · rw [updTile_tile_other same]
      exact stops.imp_left fun mem => (List.mem_cons.mp mem).resolve_left same

theorem loseReq_tiles (slot : Nat) : (loseReq s slot).tiles = s.tiles := by
  unfold loseReq
  split
  · rfl
  · split
    · rfl
    · refine (foldl_field (·.tiles) (fun s d => ?_) _ _).trans (by simp)
      split
      · rfl
      · split
        · rfl
        · exact finish_tiles ..

theorem loseReqs_tiles (P : Nat → Req → Bool) : (loseReqs s P).tiles = s.tiles := by
  refine foldl_field (·.tiles) (fun s e => ?_) _ _
  split
  · rfl
  · split
    · exact loseReq_tiles _
    · rfl

/-- The tiles of a context that is halted stop, and nothing later in its halt touches a tile. -/
theorem haltCtx_tiles {ctx : Nat} {x : Ctx} (stands : look s.ctxs ctx = some x) (live : x.halted = false) (cause ctile instr : Nat) :
    (haltCtx s ctx cause ctile instr).tiles = ((ctxTiles s ctx).foldl (fun s t => s.updTile t stopTile) s).tiles := by
  rw [haltCtx]
  simp only [stands, live, Bool.false_eq_true, if_false]
  refine (foldl_field (·.tiles) (fun s d => ?_) _ _).trans ((loseReqs_tiles _).trans ?_)
  · split
    · rfl
    · split
      · exact finish_tiles ..
      · rfl
  · have reaped : ∀ t : State, (reapPages (t.updCtx ctx fun c => { c with halted := true, inflight := [] })).tiles = t.tiles := fun t =>
      (reapPages_frame (g := (·.tiles)) (fun _ _ _ => rfl) (fun s i f => State.updCtx_tiles ..) _).trans (State.updCtx_tiles ..)
    split
    · exact (State.updChim_tiles ..).trans ((reaped _).trans (logEvent_tiles ..))
    · exact (reaped _).trans (logEvent_tiles ..)

theorem haltCtx_stops {ctx : Nat} {x : Ctx} {i : Image} {k : CTile} (stands : look s.ctxs ctx = some x) (live : x.halted = false)
    (cause ctile instr : Nat) (loaded : x.image = some i) (mem : k ∈ i.tiles) :
    ((haltCtx s ctx cause ctile instr).tile k.tile).stopped = true ∧ ((haltCtx s ctx cause ctile instr).tile k.tile).exec = none := by
  have own : k.tile ∈ ctxTiles s ctx := by
    rw [ctxTiles, stands]
    simp only [loaded]
    exact List.mem_map_of_mem mem
  have same : (haltCtx s ctx cause ctile instr).tile k.tile = ((ctxTiles s ctx).foldl (fun s t => s.updTile t stopTile) s).tile k.tile := by
    rw [State.tile, haltCtx_tiles stands live, State.tile]
  rw [same]
  exact tile_foldl_stopTile _ (.inl own)

/-! ## Host reads -/

theorem exec_hostReadFail_of_working {r : HostRead} (clocks : clocked s = true) (works : s.dev.st ≠ .failed) : exec (.hostReadFail r) s =
    .next (raiseErr (logAer s (readFn s r)) { domain := 7, code := 0x7002, unit := 0xFFFF, detail := 0, act := .hostRetry r }) :=
  congrArg _ (if_neg (by simp [clocks, works]))

section
variable {r : HostRead} (retries : s.err.hostRead = some r) (ht : t = s.updErr (fun x => { x with hostRead := none }))
include retries ht

theorem exec_hostReadRetryResult_of_ok : exec (.hostReadRetryResult true) s = .next t := by
  subst ht
  rw [exec_hostReadRetryResult, execHostReadRetryResult, retries]
  rfl

variable (hu : u = logAer t (readFn s r))
include hu

theorem exec_hostReadRetryResult_of_slot {ring : Nat} (slot : r = .slot ring) :
    exec (.hostReadRetryResult false) s = .next (u.updRing ring fun q => { q with stopped := true }) := by
  subst ht hu slot
  rw [exec_hostReadRetryResult, execHostReadRetryResult, retries]
  rfl

theorem exec_hostReadRetryResult_of_payload {ring seq : Nat} {c : Cmd} (payload : r = .payload ring seq) (stands : findCmd u ring seq = some c) :
    exec (.hostReadRetryResult false) s = .next (finish u c stTimeout c.position) := by
  subst payload
  rw [exec_hostReadRetryResult, execHostReadRetryResult, retries]
  simp only [Bool.false_eq_true, if_false, ← ht, ← hu, stands]

theorem exec_hostReadRetryResult_of_row {slot : Nat} (row : r = .row slot) : exec (.hostReadRetryResult false) s = .next (loseReq u slot) := by
  subst ht hu row
  rw [exec_hostReadRetryResult, execHostReadRetryResult, retries]
  rfl
end

/-- Settles O52: what an error of a memory, of the mesh or of a host read does, by where it struck; a lost request keeps the mark and a
halted context's tiles stay stopped through everything that its loss ends. -/
theorem memoryAndHostErrors : Obligations.MemoryAndHostErrors := by
  refine ⟨⟨?patrol, ?hbm, fun s e site => runAct_of_hbm, ?region, fun s slot r => look_loseReq, fun s stack => rfl, ?panel,
      fun s tile line unowned clocks works => exec_tileParityError_of_unowned clocks works rfl unowned, ?mesh,
      fun src dst => ⟨meshRoute_length src dst, fun l => meshRoute_links⟩, fun f i => struck_not_good, ?halt⟩,
    fun s r => exec_hostReadFail_of_working, ?retry⟩
  case patrol =>
    exact fun s addr clocks => ⟨congrArg _ (if_pos (by simp [clocks])), rfl⟩
  case hbm =>
    intro s site addr region stack t recent clocks works info hstack hrecent ht
    rw [exec_hbmUncorrectable_of_working clocks works info hstack hrecent ht]
    exact ⟨fun few => congrArg _ (if_neg (Nat.not_le.mpr few)), fun many => congrArg _ (if_pos many)⟩
  case region =>
    exact fun s a slot ctx v row key page array =>
      ⟨rfl, rfl, rfl, hbmAction_of_clean_row, hbmAction_of_bad_row, rfl, rfl, rfl, rfl, rfl, rfl, rfl⟩
  case panel =>
    exact fun s tile line cx ct c i k t owned clocks works ht =>
      ⟨exec_tileParityError_of_panel clocks works ht owned, exec_tileParityError_of_outside clocks works ht owned⟩
  case mesh =>
    intro s sent got link n t e clocks works hn ht he
    refine ⟨exec_meshParityError_of_none, exec_meshParityError_of_second clocks works hn ht he, fun crossed struck first =>
      ⟨fun background => ?_, fun service => ?_⟩⟩
    · rw [exec_meshParityError_of_background clocks works hn ht he crossed struck first background]
      exact ⟨fun none_ => by rw [none_]; rfl, fun k u r carried => by rw [carried]; rfl⟩
    · rw [exec_meshParityError_of_service clocks works hn ht he crossed struck first service]
      exact ⟨fun none_ => by rw [none_]; rfl, fun ctx ct own => by rw [own]; rfl⟩
  case halt =>
    intro s ctx cause ctile instr c stands live
    obtain ⟨y, same, halts, idle⟩ := look_of_haltOf (haltOf_haltCtx stands live cause ctile instr)
    exact ⟨y, same, halts, idle, fun i loaded k mem => haltCtx_stops stands live cause ctile instr loaded mem⟩
  case retry =>
    exact fun s t u r retries ht hu => ⟨exec_hostReadRetryResult_of_ok retries ht, fun ring => exec_hostReadRetryResult_of_slot retries ht hu,
      fun ring seq c => exec_hostReadRetryResult_of_payload retries ht hu, fun slot => exec_hostReadRetryResult_of_row retries ht hu⟩

end Sys2Proof.Machine
end

section
/-! The clock monitor, takeover, HOLD, attempts, dividers and the recovery from HOLD (17_clocks R407 to R418). -/

namespace Sys2Proof.Machine

variable {s t : State} {count : Nat}

/-! ## Windows -/

theorem windowPass_iff : windowPass count = true ↔ 49103 ≤ count ∧ count ≤ 49201 := by simp [windowPass]

/-- A window of the root has been counted. -/
def windowed (s : State) (count : Nat) : State :=
  s.updClk fun c => { c with
    rootCount := count % 65536, windowFails := if 49103 ≤ count ∧ count ≤ 49201 then c.windowFails else sat 16 (c.windowFails + 1) }

section
variable {p : Pll} (hp : p = s.clk.root) (runs : p.st ≠ .off) (series : p.st ≠ .seriesFailed)
include hp runs series

theorem exec_monitorWindow_of_pass (pass : 49103 ≤ count ∧ count ≤ 49201) : exec (.monitorWindow .root count) s = .next (
    if p.st = .accepted then (windowed s count).updClk fun c => { c with root := { p with bad := 0 } }
    else if p.good + 1 ≥ 8 then acceptRoot (windowed s count)
    else (windowed s count).updClk fun c => { c with root := { st := .windows, good := p.good + 1, bad := 0 } }) := by
  subst hp
  rw [exec_monitorWindow, execMonitorWindow]
  simp only [not_or.mpr ⟨runs, series⟩, windowPass_iff.mpr pass, windowed, pass, and_self, if_true, if_false, Bool.not_true, Bool.false_eq_true]
  rfl

theorem exec_monitorWindow_of_fail (fail : ¬(49103 ≤ count ∧ count ≤ 49201)) : exec (.monitorWindow .root count) s = .next (
    if p.st = .accepted then
      if p.bad + 1 ≥ 2 then tripRoot (windowed s count) 2
      else (windowed s count).updClk fun c => { c with root := { p with bad := p.bad + 1 } }
    else (windowed s count).updClk fun c => { c with root := { st := .windows, good := 0, bad := 0 } }) := by
  have failed : windowPass count = false := Bool.eq_false_iff.mpr fun pass => fail (windowPass_iff.mp pass)
  subst hp
  rw [exec_monitorWindow, execMonitorWindow]
  simp only [not_or.mpr ⟨runs, series⟩, failed, windowed, fail, if_true, if_false, Bool.not_false, Bool.false_eq_true]
  rfl
end

theorem exec_monitorWindow_of_last_pilot (windows : s.clk.pilot.st = .windows) (pass : 49103 ≤ count ∧ count ≤ 49201) (last : 7 ≤ s.clk.pilot.good) :
    exec (.monitorWindow .pilot count) s =
      .next (s.updClk fun c => { c with pilotCount := count % 65536, pilot := { st := .accepted, good := 8, bad := 0 } }) := by
  have eighth : s.clk.pilot.good + 1 ≥ 8 := by omega
  rw [exec_monitorWindow, execMonitorWindow]
  simp only [windows, windowPass_iff.mpr pass, eighth, reduceCtorEq, or_self, if_true, if_false, Bool.not_true, Bool.false_eq_true]
  rfl

/-! ## Trips -/

section
variable {cause : Nat}

theorem exec_missingEdgeTrip_of_accepted (accepted : s.clk.root.st = .accepted) :
    exec .missingEdgeTrip s = .next (tripRoot (s.updClk fun c => { c with refclk := false }) 0) :=
  congrArg _ (if_pos accepted)

theorem exec_lockLostTrip_of_accepted (accepted : s.clk.root.st = .accepted) : exec (.lockLostTrip .root) s = .next (tripRoot s 1) :=
  congrArg _ (if_pos accepted)

theorem tripRoot_of_running (clocks : clocked s = true) (source : s.clk.source = 1) :
    tripRoot s cause = if s.clk.pilot.st = .accepted then takeOver s cause else enterHold s cause :=
  if_pos ⟨source, clocks⟩

theorem tripRoot_of_idle (idle : clocked s = false ∨ s.clk.source ≠ 1) : tripRoot s cause = s.updClk fun c =>
    { c with root := { st := .off, good := 0, bad := 0 }, attempt := 0, attemptsUsed := 0 } := by
  refine if_neg fun ⟨source, clocks⟩ => ?_
  rcases idle with stopped | other
  · exact Bool.false_ne_true (stopped.symm.trans clocks)
  · exact other source

theorem tripPilot_of_idle (idle : clocked s = false ∨ s.clk.source ≠ 2) : tripPilot s cause = s.updClk fun c =>
    { c with pilot := { st := .off, good := 0, bad := 0 } } := by
  refine if_neg fun ⟨source, clocks⟩ => ?_
  rcases idle with stopped | other
  · exact Bool.false_ne_true (stopped.symm.trans clocks)
  · exact other source

/-- The source and the takeovers of the clocks, which an error leaves. -/
def sourceOf (s : State) : Nat × Nat := (s.clk.source, s.clk.takeovers)

theorem sourceOf_enterFailed (domain code unit detail : Nat) : sourceOf (enterFailed s domain code unit detail) = sourceOf s := by
  unfold enterFailed
  split
  · rfl
  · simp [sourceOf, goState, clocksFor]

theorem sourceOf_raiseErr {e : ErrIn} (elsewhere : e.act = .elsewhere) : sourceOf (raiseErr s e) = sourceOf s :=
  raiseErr_frame (g := sourceOf) (fun _ _ => rfl) (fun s c d x => by simp [sourceOf]) (fun s => sourceOf_enterFailed)
    (fun s => by rw [runAct, elsewhere]) s

theorem takeOver_source : (takeOver s cause).clk.source = 2 ∧ (takeOver s cause).clk.takeovers = sat 8 (s.clk.takeovers + 1) := by
  have same : sourceOf (takeOver s cause) = (2, sat 8 (s.clk.takeovers + 1)) := by
    refine (sourceOf_raiseErr rfl).trans ?_
    split <;> simp [sourceOf]
  exact ⟨congrArg Prod.fst same, congrArg Prod.snd same⟩

/-! ## HOLD -/

theorem quiesce_flits : (quiesce s).flits = [] :=
  reapPages_frame (g := (·.flits)) (fun _ _ _ => rfl) (fun _ _ _ => State.updCtx_flits ..) _

theorem quiesce_dev : (quiesce s).dev = s.dev :=
  (reapPages_frame (g := (·.dev)) (fun _ _ _ => rfl) (fun _ _ _ => State.updCtx_dev ..) _).trans rfl

theorem enterHold_dev : (enterHold s cause).dev.st = .hold ∧ (enterHold s cause).dev.safe = true := by
  simp [enterHold, goState, quiesce_dev, forceSafe]

theorem enterHold_clk : (enterHold s cause).clk.source = 0 ∧ (enterHold s cause).clk.holdFrom = some s.dev.st ∧
    (enterHold s cause).clk.hbmLost = decide (s.dev.st ≠ .deepSleep) := by
  simp [enterHold, goState, clocksFor, quiesce_dev, forceSafe]

theorem enterHold_work : (enterHold s cause).flits = [] ∧ (enterHold s cause).cal.run = none := by
  simp [enterHold, quiesce_flits]

theorem enterHold_cmds (awake : s.dev.st ≠ .deepSleep) : (enterHold s cause).cmds = [] := by
  simp [enterHold, awake]
end

/-! ## Dividers -/

theorem Divider.move_on (d : Divider) : d.move.on = d.on := by
  unfold move
  repeat' split
  all_goals rfl

theorem Divider.move_of_off {d : Divider} (off : d.on = false) : d.move = d := by simp [move, off]

theorem Divider.move_of_on {d : Divider} (runs : d.on = true) : d.move.target = d.target ∧
    (d.div < d.target → d.move.div = d.div + 1) ∧ (d.target < d.div → d.move.div = d.div - 1) ∧ (d.div = d.target → d.move = d) := by
  refine ⟨?_, fun low => ?_, fun high => ?_, fun there => ?_⟩
  · unfold move
    repeat' split
    all_goals rfl
  · simp [move, runs, low]
  · simp [move, runs, high, Nat.not_lt.mpr high.le]
  · simp [move, runs, there]

theorem exec_dividerStep_of_clocked (clocks : clocked s = true) : exec .dividerStep s = .next (s.updClk fun c => { c with
    cclk := c.cclk.move, lclk := c.lclk.move, phy := c.phy.move, mclk := c.mclk.move,
    aclkOn := c.cclk.move.on && c.cclk.move.div == 8 && (s.dev.st == .maintenance || s.dev.st == .service) }) :=
  congrArg _ (if_neg (by simp [clocks]))

/-! ## The recovery after the loss of HBM -/

/-- What the recovery leaves: nothing of rings, commands, pages and prefixes, and no open request. -/
def Emptied (s : State) : Prop :=
  s.rings = [] ∧ s.cmds = [] ∧ s.kv.pages = [] ∧ s.kv.prefixes = [] ∧ ∀ e ∈ s.reqs, ∀ r, e.2 = some r → r.open_ = false

theorem Emptied.congr (empty : Emptied s) (rings : t.rings = s.rings) (cmds : t.cmds = s.cmds) (kv : t.kv.pages = s.kv.pages)
    (prefixes : t.kv.prefixes = s.kv.prefixes) (reqs : t.reqs = s.reqs) : Emptied t := by
  rw [Emptied, rings, cmds, kv, prefixes, reqs]
  exact empty

theorem foldl_of_idle {α β : Type} {f : α → β → α} {l : List β} {a : α} (idle : ∀ b ∈ l, f a b = a) : l.foldl f a = a := by
  induction l with
  | nil => rfl
  | cons b l ih =>
    rw [List.foldl_cons, idle b (by simp)]
    exact ih fun c mem => idle c (by simp [mem])

theorem Emptied.loseReqs (empty : Emptied s) (P : Nat → Req → Bool) : Emptied (loseReqs s P) := by
  obtain ⟨-, -, -, -, closed⟩ := id empty
  have same : Machine.loseReqs s P = s := foldl_of_idle fun e mem => by
    cases h : e.2 with
    | none => rfl
    | some r => simp [closed e mem r h]
  rwa [same]

theorem Emptied.reapPages (empty : Emptied s) : Emptied (reapPages s) := by
  obtain ⟨-, -, pages, -, -⟩ := id empty
  rwa [Machine.reapPages, pages, List.foldl_nil]

theorem Emptied.foldl_cmds (empty : Emptied s) (P : Cmd → Bool) (f : State → Cmd → State) : Emptied ((s.cmds.filter P).foldl f s) := by
  obtain ⟨-, cmds, -, -, -⟩ := id empty
  rwa [cmds]

theorem Emptied.updTile (empty : Emptied s) (i : Nat) (f : Tile → Tile) : Emptied (s.updTile i f) :=
  empty.congr (State.updTile_rings ..) (State.updTile_cmds ..) (by simp) (by simp) (State.updTile_reqs ..)

theorem Emptied.updCtx (empty : Emptied s) (i : Nat) (f : Ctx → Ctx) : Emptied (s.updCtx i f) :=
  empty.congr (State.updCtx_rings ..) (State.updCtx_cmds ..) (by simp) (by simp) (State.updCtx_reqs ..)

theorem Emptied.updChim (empty : Emptied s) (f : Chim → Chim) : Emptied (s.updChim f) :=
  empty.congr (State.updChim_rings ..) (State.updChim_cmds ..) (by simp) (by simp) (State.updChim_reqs ..)

theorem Emptied.logEvent (empty : Emptied s) (code domain data : Nat) : Emptied (logEvent s code domain data) :=
  empty.congr (logEvent_rings ..) (logEvent_cmds ..) (by simp) (by simp) (logEvent_reqs ..)

/-- Without commands, pages and open requests the halt of a context leaves things so. -/
theorem Emptied.haltCtx (empty : Emptied s) (ctx cause ctile instr : Nat) : Emptied (haltCtx s ctx cause ctile instr) := by
  have stopped : Emptied ((ctxTiles s ctx).foldl (fun s t => s.updTile t stopTile) s) :=
    foldl_inv (P := Emptied) (fun s t _ h => Emptied.updTile h t stopTile) empty
  have filtered : ∀ l, Emptied { (ctxTiles s ctx).foldl (fun s t => s.updTile t stopTile) s with flits := l } := fun _ => stopped
  have reaped : ∀ u : State, Emptied u → Emptied (Machine.reapPages (u.updCtx ctx fun c => { c with halted := true, inflight := [] })) :=
    fun u h => (h.updCtx ..).reapPages
  rw [Machine.haltCtx]
  split
  · exact empty
  · split
    · exact empty
    · refine Emptied.foldl_cmds (Emptied.loseReqs ?_ _) _ _
      split
      · exact Emptied.updChim (reaped _ (Emptied.logEvent (filtered _) ..)) _
      · exact reaped _ (Emptied.logEvent (filtered _) ..)

theorem Emptied.freeCtx (empty : Emptied s) (ctx : Nat) : Emptied (freeCtx s ctx) := by
  have freed : Emptied ((ctxTiles s ctx).foldl (fun s t => s.updTile t freeTile) s) :=
    foldl_inv (P := Emptied) (fun s t _ h => Emptied.updTile h t freeTile) empty
  have kept : ∀ (u : State) (P : Nat × Nat × Nat → Bool), Emptied u → Emptied ((uncache u P).setCtx ctx none) := fun u P h =>
    h.congr (uncache_frame (·.rings) (fun _ _ _ => rfl) u P) (uncache_frame (·.cmds) (fun _ _ _ => rfl) u P)
      (uncache_frame (·.kv.pages) (fun _ _ _ => rfl) u P) (uncache_frame (·.kv.prefixes) (fun _ _ _ => rfl) u P)
      (uncache_frame (·.reqs) (fun _ _ _ => rfl) u P)
  exact kept _ _ freed

theorem Emptied.leaveChimney (empty : Emptied s) : Emptied (leaveChimney s) := by
  have left : Emptied (s.ctxs.foldl (fun s e => match e.2 with
      | none => s
      | some c => if c.chimney then Machine.freeCtx s e.1 else s) s) := by
    refine foldl_inv (P := Emptied) (fun s e _ h => ?_) empty
    split
    · exact h
    · split
      · exact h.freeCtx _
      · exact h
  exact left

/-- After the recovery's third and fourth step nothing is left of what HBM held. -/
theorem emptied_dropHbm (rings : s.rings = []) (cmds : s.cmds = []) : Emptied (dropHbm s) := by
  refine foldl_inv (P := Emptied) (fun s ctx _ h => Emptied.haltCtx h ctx ..) ⟨rings, cmds, rfl, rfl, fun e mem r freed => ?_⟩
  obtain ⟨e', -, rfl⟩ := List.mem_map.mp mem
  obtain ⟨q, -, rfl⟩ := Option.map_eq_some_iff.mp freed
  rfl

theorem Emptied.closed (empty : Emptied s) {slot : Nat} {r : Req} (stands : look s.reqs slot = some r) : r.open_ = false := by
  obtain ⟨-, -, -, -, closed⟩ := empty
  exact closed _ (mem_of_look stands) r rfl

section
variable {bad : Option Nat} (held : s.dev.st = .hold) (recovers : s.clk.recovering = true)
include held recovers

/-- The state in which a recovery that found no bad row enters MAINTENANCE. -/
def recovered (s : State) : State :=
  let t := dropHbm (dropSessions (rebuildGold s))
  (if t.chim.role != 0xFFFF || t.chim.n != 0 then leaveChimney t else t).updClk fun c => { c with recovering := false, holdFrom := none }

theorem exec_hbmRecovery_of_good (good : bad.or (goldBad s) = none) : exec (.hbmRecovery bad) s = .next (toMaintenance (recovered s)) := by
  rw [exec_hbmRecovery, execHbmRecovery, if_neg (by simp [held, recovers]), good]
  rfl

theorem exec_hbmRecovery_of_bad {k : Nat} (found : bad.or (goldBad s) = some k) : exec (.hbmRecovery bad) s =
    .next ((enterFailed s 5 (s.openAt 7 % 65536) (k / 1024) (k % 1024)).updClk fun c => { c with recovering := false, holdFrom := none }) := by
  rw [exec_hbmRecovery, execHbmRecovery, if_neg (by simp [held, recovers]), found]
end

theorem emptied_recovered : Emptied (recovered s) := by
  have dropped : Emptied (dropHbm (dropSessions (rebuildGold s))) := emptied_dropHbm rfl rfl
  unfold recovered
  dsimp only
  split
  · exact dropped.leaveChimney
  · exact dropped

theorem Emptied.toMaintenance (empty : Emptied s) : Emptied (toMaintenance s) :=
  empty.congr (by simp [Machine.toMaintenance, applyLayout]) (by simp [Machine.toMaintenance, applyLayout])
    (by simp [Machine.toMaintenance, applyLayout]) (by simp [Machine.toMaintenance, applyLayout])
    (by simp [Machine.toMaintenance, applyLayout])

theorem toMaintenance_st : (toMaintenance s).dev.st = .maintenance := by simp [toMaintenance, applyLayout, goState]

theorem toMaintenance_recovering : (toMaintenance s).clk.recovering = s.clk.recovering := by
  simp [toMaintenance, applyLayout, goState, clocksFor]

/-- Settles O53: a window's count decides which branch its source takes; the recovery from the loss of HBM frees every request before
it halts a context, so that the halt finds nothing to end. -/
theorem clocksAndMonitor : Obligations.ClocksAndMonitor := by
  refine ⟨⟨?window, ?pilot, ?edge, ?trip, fun s cause => tripRoot_of_idle, fun s cause => takeOver_source, ?hold⟩,
    ?attempt, ?timeout, ?lane, fun s cause => tripPilot_of_idle, ?divider, fun d => ⟨Divider.move_of_off, Divider.move_of_on⟩, ?recovery⟩
  case window =>
    intro s count p t hp runs series ht
    obtain rfl : t = windowed s count := ht
    refine ⟨fun low high => ?_, fun outside => ?_⟩
    · rw [exec_monitorWindow_of_pass hp runs series ⟨low, high⟩]
      exact ⟨fun accepted => congrArg _ (if_pos accepted),
        fun other few => congrArg _ ((if_neg other).trans (if_neg (by omega))),
        fun other many => congrArg _ ((if_neg other).trans (if_pos (by omega)))⟩
    · rw [exec_monitorWindow_of_fail hp runs series (by omega)]
      refine ⟨fun accepted first => ?_, fun accepted second => ?_, fun other => congrArg _ (if_neg other)⟩
      · rw [if_pos accepted, if_neg (by omega), first]
      · rw [if_pos accepted, if_pos (by omega)]
  case pilot =>
    rintro s t count windows low high last rfl
    exact exec_monitorWindow_of_last_pilot windows ⟨low, high⟩ last
  case edge =>
    rintro s t accepted rfl
    exact ⟨exec_missingEdgeTrip_of_accepted accepted, exec_lockLostTrip_of_accepted accepted⟩
  case trip =>
    intro s cause clocks source
    rw [tripRoot_of_running clocks source]
    exact ⟨fun accepted => if_pos accepted, fun other => if_neg other⟩
  case hold =>
    intro s cause
    obtain ⟨st, safe⟩ := enterHold_dev (s := s) (cause := cause)
    obtain ⟨source, from_, lost⟩ := enterHold_clk (s := s) (cause := cause)
    obtain ⟨flits, cal⟩ := enterHold_work (s := s) (cause := cause)
    exact ⟨st, safe, source, from_, lost, flits, cal, enterHold_cmds⟩
  case attempt =>
    intro s up
    have supplied : railsUp s = true := beq_iff_eq.mpr up
    exact ⟨fun off few => congrArg _ (if_pos ⟨supplied, off, few⟩), fun failed => congrArg _ (if_pos ⟨supplied, failed⟩)⟩
  case timeout =>
    refine fun s tries => ⟨fun more => congrArg _ ((if_pos tries).trans (if_neg (Nat.not_le.mpr more))), fun last => ?_⟩
    exact ⟨_, _, rfl, congrArg _ ((if_pos tries).trans (if_pos last))⟩
  case lane =>
    exact fun s => ⟨fun clocks out => congrArg _ (if_pos ⟨clocks, out⟩), rfl, fun out => if_neg (Bool.eq_false_iff.mp out), fun in_ => if_pos in_⟩
  case divider =>
    intro s clocks
    refine ⟨_, exec_dividerStep_of_clocked clocks, rfl, rfl, rfl, rfl, ?_, rfl, rfl⟩
    simp [Divider.move_on, and_assoc]
  case recovery =>
    refine fun s bad held recovers => ⟨fun good => ?_, fun k found => ?_⟩
    · obtain ⟨rings, cmds, pages, prefixes, -⟩ := (emptied_recovered (s := s)).toMaintenance
      exact ⟨_, exec_hbmRecovery_of_good held recovers good, toMaintenance_st, rings, cmds, pages, prefixes, toMaintenance_recovering,
        fun slot r stands => emptied_recovered.toMaintenance.closed stands⟩
    · exact ⟨_, exec_hbmRecovery_of_bad held recovers found, enterFailed_st (by rw [held]; decide) .., rfl⟩

end Sys2Proof.Machine
end

section
/-! Rail steps on the way up, and BOOT (18_power R421 to R426; 21_host_interface R474, R478; 22_card R483). -/

namespace Sys2Proof.Machine

variable {s t : State} {rail n : Nat} {r : Rail}

/-! ## Power-up -/

/-- A rail of step 1 that has just been enabled, or one still off. -/
def firstRail (i : Nat) : Rail := { enabled := decide (i = 0 ∨ i = 12), good := false, enables := if i = 0 ∨ i = 12 then 1 else 0 }

theorem enableStep_one_rails (p : Pwr) : (enableStep { p with
    blocked := false, restart := false, rails := List.replicate 13 { enabled := false, good := false, enables := 0 } } 1).rails =
      (List.range 13).map firstRail := rfl

section
variable {v : Nat} (cold : s.dev.st = .cold) (idle : s.pwr.seq = .idle) (high : 1100 < v) (low : s.pwr.v12 ≤ 1100) (open_ : s.pwr.blocked = false)
  (aux : s.pwr.aux = true) (sense : s.pwr.senseOk = true)
include cold idle high low open_ aux sense

theorem exec_v12Rise_of_cold : exec (.v12Rise v) s = .next ((s.updPwr fun p => { p with v12 := v }).updPwr fun p =>
    enableStep { p with blocked := false, restart := false, rails := List.replicate 13 { enabled := false, good := false, enables := 0 } } 1) :=
  congrArg _ ((if_pos ⟨low, .inl open_⟩).trans (if_pos ⟨cold, idle, high, aux, sense⟩))
end

section
variable (up : s.pwr.seq = .up n) (own : (stepRails n).contains rail = true) (hr : r = railOf s.pwr rail)
include up own hr

section
variable (enabled : r.enabled = true) (bad : r.good = false)
include enabled bad

theorem exec_railPowerGood_of_first (first : r.enables < 2) (notVio : rail ≠ 0) (notVmod : rail ≠ 12)
    (ht : t = s.updPwr (fun p => onRail p rail fun r => { r with good := true })) : exec (.railPowerGood rail) s =
      .next (if (stepRails n).all fun i => (railOf t.pwr i).good then t.updPwr fun p => if n = 8 then { p with seq := .run } else enableStep p (n + 1)
        else t) := by
  subst ht hr
  rw [exec_railPowerGood, execRailPowerGood, up]
  simp only [own, enabled, bad, and_self, if_true, Nat.not_le.mpr first, if_false, notVio, notVmod]

theorem exec_railEnableTimeout_of_early (early : r.enables < 3) :
    exec (.railEnableTimeout rail) s = .next (s.updPwr fun p => onRail p rail fun r => { r with enabled := false }) := by
  subst hr
  rw [exec_railEnableTimeout, execRailEnableTimeout, up]
  exact congrArg _ ((if_pos ⟨own, enabled, bad⟩).trans (if_neg (Nat.not_le.mpr early)))

theorem exec_railEnableTimeout_of_third (third : 3 ≤ r.enables) : exec (.railEnableTimeout rail) s =
    .next (s.updPwr fun p => { railsOff p with
      blocked := true, latch := { p.latch with fault := true, phase := 0, rail := rail, enables := 3, v12 := p.v12, logged := false } }) := by
  subst hr
  rw [exec_railEnableTimeout, execRailEnableTimeout, up]
  exact congrArg _ ((if_pos ⟨own, enabled, bad⟩).trans (if_pos third))
end

theorem exec_railReenable_of_off (disabled : r.enabled = false) (once : 1 ≤ r.enables) : exec (.railReenable rail) s =
    .next (if r.enables < 3 then s.updPwr fun p => onRail p rail fun r => { r with enabled := true, enables := r.enables + 1 } else s) := by
  subst hr
  rw [exec_railReenable, execRailReenable, up]
  simp only [own, disabled, once, true_and]
end

theorem railsOff_rail {p : Pwr} {q : Rail} (mem : q ∈ (railsOff p).rails) : q.enabled = false ∧ q.good = false := by
  obtain ⟨q', -, rfl⟩ := List.mem_map.mp mem
  exact ⟨rfl, rfl⟩

/-! ## BOOT -/

theorem tryBoot_of_ready (ready : s.dev.st = .cold ∧ s.pwr.seq = .run ∧ s.clk.root.st = .accepted ∧ s.pwr.perst = false) :
    tryBoot s = enterBoot s := by
  obtain ⟨cold, run, root, perst⟩ := ready
  exact if_pos ⟨cold, run, beq_iff_eq.mpr root, perst⟩

theorem tryBoot_of_waiting (waits : ¬(s.dev.st = .cold ∧ s.pwr.seq = .run ∧ s.clk.root.st = .accepted ∧ s.pwr.perst = false)) :
    tryBoot s = s :=
  if_neg fun ⟨cold, run, root, perst⟩ => waits ⟨cold, run, beq_iff_eq.mp root, perst⟩

theorem logLatch_frame {β : Type} {g : State → β} (log : ∀ s f, g (State.updLog s f) = g s) (pwr : ∀ s f, g (State.updPwr s f) = g s)
    (s : State) : g (logLatch s) = g s := by
  unfold logLatch
  refine (pwr _ _).trans ?_
  split
  · exact log ..
  · rfl

/-- What the entry to BOOT makes of the device's registers, before the log takes what was held. -/
theorem enterBoot_frame {β : Type} {g : State → β} (log : ∀ s f, g (State.updLog s f) = g s) (pwr : ∀ s f, g (State.updPwr s f) = g s)
    (clk : ∀ s f, g (State.updClk s f) = g s) (held : ∀ s, g (logHeld s) = g s) (s : State) :
    g (enterBoot s) = g ((goState (bootState s) .boot).updDev fun d =>
      { d with configReady := false, pwrCycles := if s.dev.st = .cold then min (d.pwrCycles + 1) 0xFFFFFF else d.pwrCycles }) :=
  have ssc : ∀ u, g (applySsc u) = g u := fun u => by
    unfold applySsc
    exact clk ..
  (held _).trans ((logLatch_frame log pwr _).trans ((ssc _).trans (clk ..)))

theorem enterBoot_dev (s : State) : (enterBoot s).dev.st = .boot ∧
    (s.dev.st = .cold → (enterBoot s).dev.pwrCycles = min (s.dev.pwrCycles + 1) 0xFFFFFF) := by
  rw [enterBoot_frame (g := (·.dev)) (fun _ _ => rfl) (fun _ _ => rfl) (fun _ _ => rfl) (logHeld_dev) s]
  exact ⟨rfl, fun cold => if_pos cold⟩

theorem enterBoot_stores (s : State) : (enterBoot s).rings = [] ∧ (enterBoot s).ctxs = [] ∧ (enterBoot s).cells = s.cells ∧
    (enterBoot s).hostMem = s.hostMem :=
  ⟨enterBoot_frame (g := (·.rings)) (fun _ _ => rfl) (fun _ _ => rfl) (fun _ _ => rfl) (logHeld_rings) s,
    enterBoot_frame (g := (·.ctxs)) (fun _ _ => rfl) (fun _ _ => rfl) (fun _ _ => rfl) (logHeld_ctxs) s,
    enterBoot_frame (g := (·.cells)) (fun _ _ => rfl) (fun _ _ => rfl) (fun _ _ => rfl) (logHeld_cells) s,
    enterBoot_frame (g := (·.hostMem)) (fun _ _ => rfl) (fun _ _ => rfl) (fun _ _ => rfl) (logHeld_hostMem) s⟩

section
variable {ms a : Nat} (boots : s.dev.st = .boot) (clocks : clocked s = true) (soon : ms ≤ 800) (ha : a = s.dev.fwSelect % 2)
include boots clocks soon ha

theorem exec_bootComplete_of_selected (valid : (slotOf s.dev a).valid = true) :
    exec (.bootComplete ms none) s = .next (bootWith s a ms false) := by
  have goes : ¬(s.dev.st ≠ .boot ∨ (!clocked s) = true ∨ ms > 800) := by simp [boots, clocks, soon]
  subst ha
  rw [exec_bootComplete, execBootComplete, if_neg goes]
  simp only [valid, if_true, Bool.not_true, Bool.false_and, Bool.false_eq_true, if_false]

section
variable (invalid : (slotOf s.dev a).valid = false)
include invalid

theorem exec_bootComplete_of_other (valid : (slotOf s.dev (1 - a)).valid = true) :
    exec (.bootComplete ms none) s = .next (bootWith (logSigFail s a 0) (1 - a) ms true) := by
  have goes : ¬(s.dev.st ≠ .boot ∨ (!clocked s) = true ∨ ms > 800) := by simp [boots, clocks, soon]
  subst ha
  rw [exec_bootComplete, execBootComplete, if_neg goes]
  simp only [invalid, valid, Bool.not_true, Bool.not_false, Bool.and_false, Bool.false_eq_true, if_false]

/-- The device whose two slots are both invalid, as the boot ROM leaves it. -/
def romOnly (s : State) (a : Nat) : State :=
  let t := (logSigFail (logSigFail s a 0) (1 - a) 0).updDev fun d => { d with configReady := true, romOnly := true }
  { t with fns := t.fns.map fun e => (e.1, e.2.map fun f => { f with vfEnabled := e.1 == 0 }) }

theorem exec_bootComplete_of_none (invalid' : (slotOf s.dev (1 - a)).valid = false) :
    exec (.bootComplete ms none) s = .next (enterFailed (romOnly s a) 8 0x8002 0xFFFF 0) := by
  have goes : ¬(s.dev.st ≠ .boot ∨ (!clocked s) = true ∨ ms > 800) := by simp [boots, clocks, soon]
  subst ha
  rw [exec_bootComplete, execBootComplete, if_neg goes]
  simp only [invalid, invalid', Bool.not_false, Bool.and_self, Bool.false_eq_true, if_false, if_true]
  rfl
end
end

theorem romOnly_dev (a : Nat) : (romOnly s a).dev = { s.dev with configReady := true, romOnly := true } := by
  simp [romOnly, logSigFail]

theorem enterFailed_romOnly (domain cause unit detail : Nat) : (enterFailed s domain cause unit detail).dev.romOnly = s.dev.romOnly := by
  unfold enterFailed
  split
  · rfl
  · simp [goState, forceSafe]

theorem loadRecord_dev : (loadRecord s).dev = s.dev := by
  unfold loadRecord
  split
  · exact (State.updCal_dev ..).trans (loadTrims_frame (g := (·.dev)) (fun _ _ => rfl) _)
  · exact (State.updCal_dev ..).trans (loadTrims_frame (g := (·.dev)) (fun _ _ => rfl) _)

theorem toMaintenance_fwRunning : (toMaintenance s).dev.fwRunning = s.dev.fwRunning := by simp [toMaintenance, applyLayout, goState]

theorem bootWith_dev (slot ms : Nat) (fallback : Bool) : (bootWith s slot ms fallback).dev.st = .maintenance ∧
    (bootWith s slot ms fallback).dev.fwRunning = slot := by
  unfold bootWith
  dsimp only
  split
  · exact ⟨toMaintenance_st, by rw [toMaintenance_fwRunning, loadRecord_dev, logEvent_dev]; rfl⟩
  · exact ⟨toMaintenance_st, by rw [toMaintenance_fwRunning, logEvent_dev, logEvent_dev]; rfl⟩

/-- Settles O54: each event of a rail is one branch; what BOOT makes of a register is a frame of its steps. -/
theorem powerUpAndBoot : Obligations.PowerUpAndBoot := by
  refine ⟨?rise, ?enabled, ?disabled, fun s => ⟨tryBoot_of_ready, tryBoot_of_waiting⟩, ?boot, ?complete, fun s => bootWith_dev⟩
  case rise =>
    intro s v cold idle high low open_ aux sense
    refine ⟨_, exec_v12Rise_of_cold cold idle high low open_ aux sense, rfl, rfl, rfl, fun i r stands => ?_⟩
    rw [State.updPwr_pwr, enableStep_one_rails, List.getElem?_map, Option.map_eq_some_iff] at stands
    obtain ⟨j, hj, rfl⟩ := stands
    obtain ⟨_, rfl⟩ : ∃ h : i < (List.range 13).length, i = j := by simpa using List.getElem?_eq_some_iff.mp hj
    exact ⟨rfl, rfl, rfl⟩
  case enabled =>
    intro s rail n r up own hr enabled bad
    refine ⟨fun first notVio notVmod => ⟨_, rfl, fun all => ?_, fun some_ => ?_⟩, exec_railEnableTimeout_of_early up own hr enabled bad,
      fun third => ⟨_, exec_railEnableTimeout_of_third up own hr enabled bad third, rfl, rfl, rfl, rfl, rfl, rfl, fun q => railsOff_rail⟩⟩
    · rw [exec_railPowerGood_of_first up own hr enabled bad first notVio notVmod rfl]
      exact congrArg _ (if_pos (List.all_eq_true.mpr all))
    · rw [exec_railPowerGood_of_first up own hr enabled bad first notVio notVmod rfl]
      obtain ⟨i, mem, notGood⟩ := some_
      exact congrArg _ (if_neg fun all => Bool.false_ne_true (notGood.symm.trans (List.all_eq_true.mp all i mem)))
  case disabled =>
    intro s rail n r up own hr disabled once
    rw [exec_railReenable_of_off up own hr disabled once]
    exact ⟨fun few => congrArg _ (if_pos few), fun third => congrArg _ (if_neg (Nat.not_lt.mpr third))⟩
  case boot =>
    intro s
    obtain ⟨st, cycles⟩ := enterBoot_dev s
    obtain ⟨rings, ctxs, cells, mem⟩ := enterBoot_stores s
    exact ⟨st, rings, ctxs, cells, cycles, mem⟩
  case complete =>
    refine fun s ms a boots clocks soon ha => ⟨exec_bootComplete_of_selected boots clocks soon ha,
      exec_bootComplete_of_other boots clocks soon ha, fun invalid invalid' => ?_⟩
    refine ⟨_, exec_bootComplete_of_none boots clocks soon ha invalid invalid', enterFailed_st ?_ .., ?_⟩
    · rw [romOnly_dev]
      exact clocked_not_cold clocks
    · rw [enterFailed_romOnly, romOnly_dev]

end Sys2Proof.Machine
end

section
/-! Descent of the rails, power faults, inputs and cages (18_power R424, R429 to R434; 21_host_interface R465; 22_card R483, R485). -/

namespace Sys2Proof.Machine

variable {s t : State} {rail n : Nat}

/-! ## Resets -/

theorem convReset_of_powered (powered : s.dev.st ≠ .cold) (still : ∀ n, s.pwr.seq ≠ .down n) :
    convReset s = beginDown (if 1000 ≤ s.pwr.v12 then flushLog s else s) := by
  rw [convReset, if_neg powered]
  cases seq : s.pwr.seq with
  | down n => exact absurd seq (still n)
  | idle => rfl
  | up n => rfl
  | run => rfl

section
variable (powered : s.dev.st ≠ .cold) (still : ∀ n, s.pwr.seq ≠ .down n)
include powered still

theorem exec_perstAssert_of_powered (ht : t = s.updPwr (fun p => { p with perst := true })) :
    exec .perstAssert s = .next (beginDown (if 1000 ≤ s.pwr.v12 then flushLog t else t)) := by
  have powered' : t.dev.st ≠ .cold := ht ▸ powered
  have still' : ∀ n, t.pwr.seq ≠ .down n := ht ▸ still
  have volts : t.pwr.v12 = s.pwr.v12 := ht ▸ rfl
  rw [exec_perstAssert, execPerstAssert, ← ht, convReset_of_powered powered' still', volts]

theorem exec_hotReset_of_powered (notHold : s.dev.st ≠ .hold) : exec .hotReset s =
    .next ((beginDown (if 1000 ≤ s.pwr.v12 then flushLog s else s)).updPwr fun p => { p with restart := true }) := by
  rw [exec_hotReset, execHotReset, if_neg (not_or.mpr ⟨powered, notHold⟩), convReset_of_powered powered still]
end

section
variable (asserted : s.pwr.perst = true) (ht : t = s.updPwr (fun p => { p with perst := false }))
include asserted ht

theorem exec_perstDeassert_of_idle (idle : s.pwr.seq = .idle) : exec .perstDeassert s = .next (startUp t) := by
  subst ht
  simp only [exec_perstDeassert, execPerstDeassert, asserted, Bool.true_eq_false, if_false, State.updPwr_pwr, idle]

theorem exec_perstDeassert_of_run (run : s.pwr.seq = .run) : exec .perstDeassert s = .next (tryBoot t) := by
  subst ht
  simp only [exec_perstDeassert, execPerstDeassert, asserted, Bool.true_eq_false, if_false, State.updPwr_pwr, run]

theorem exec_perstDeassert_of_down (down : s.pwr.seq = .down n) :
    exec .perstDeassert s = .next (t.updPwr fun p => { p with restart := true }) := by
  subst ht
  simp only [exec_perstDeassert, execPerstDeassert, asserted, Bool.true_eq_false, if_false, State.updPwr_pwr, down]

theorem exec_perstDeassert_of_up (up : s.pwr.seq = .up n) : exec .perstDeassert s = .next t := by
  subst ht
  simp only [exec_perstDeassert, execPerstDeassert, asserted, Bool.true_eq_false, if_false, State.updPwr_pwr, up]
end

/-! ## The descent -/

section
variable (down : s.pwr.seq = .down n) (own : (stepRails n).contains rail = true) (disabled : (railOf s.pwr rail).enabled = false)
  (falls : (railOf s.pwr rail).good = true)
include down own disabled falls

theorem exec_railFallen_of_falling (ht : t = s.updPwr (fun p => onRail p rail fun r => { r with good := false })) :
    exec (.railFallen rail) s = .next (if (stepRails n).all fun i => !(railOf t.pwr i).good then
      if n ≤ 1 then endDown t else t.updPwr fun p => disableStep p (n - 1) else t) := by
  subst ht
  rw [exec_railFallen, execRailFallen, down]
  exact congrArg _ (if_pos ⟨own, disabled, falls⟩)

theorem exec_railFallTimeout_of_falling : exec (.railFallTimeout rail) s = .next (failDown s rail) := by
  rw [exec_railFallTimeout, execRailFallTimeout, down]
  exact congrArg _ (if_pos ⟨own, disabled, falls⟩)

omit own disabled in
theorem exec_regulatorFaultDown_of_good : exec (.regulatorFaultDown rail) s = .next (failDown s rail) := by
  rw [exec_regulatorFaultDown, execRegulatorFaultDown, down]
  exact congrArg _ (if_pos (.inl falls))
end

theorem failDown_latched (once : s.pwr.restart = false) : (failDown s rail).dev.st = .cold ∧ (failDown s rail).pwr.latch.fault = true ∧
    (failDown s rail).pwr.latch.phase = 2 ∧ (failDown s rail).pwr.latch.rail = rail := by
  rw [failDown, endDown]
  dsimp only
  rw [if_neg (by simpa using once)]
  exact ⟨rfl, rfl, rfl, rfl⟩

/-! ## Faults while running -/

theorem dropAtOnce_cold : (dropAtOnce s rail).dev.st = .cold ∧ (dropAtOnce s rail).pwr.seq = .idle := ⟨rfl, rfl⟩

theorem dropAtOnce_latch : (dropAtOnce s rail).pwr.latch =
    { s.pwr.latch with fault := true, phase := 1, rail := rail, enables := (railOf s.pwr rail).enables % 4, v12 := s.pwr.v12, logged := false } := rfl

section
variable {v : Nat} (powered : s.dev.st ≠ .cold) (run : s.pwr.seq = .run) (known : rail ≤ 12)
include powered run known

theorem exec_railFailRun_of_dead (dead : rail = 0 ∨ rail = 7 ∨ clocked s = false) :
    exec (.railFailRun rail v) s = .next (dropAtOnce (s.updPwr fun p => { p with v12 := v }) rail) := by
  have goes : ¬(s.dev.st = .cold ∨ s.pwr.seq ≠ .run ∨ rail > 12) := by simp [powered, run, known]
  have same : clocked (s.updPwr fun p => { p with v12 := v }) = clocked s := rfl
  rw [exec_railFailRun, execRailFailRun, if_neg goes]
  exact congrArg _ (if_pos (by simpa [same] using dead))

/-- The device whose rail failed in a run, its log written while the rest still stands. -/
def railFailed (s : State) (rail v : Nat) : State :=
  let t := s.updPwr fun p => { p with v12 := v }
  flushLog (enterFailed (logEvent ((forceSafe t).updErr fun e => { e with seen := e.seen ||| 2 }) 0x2002 1
    (pwrData rail 1 ((railOf t.pwr rail).enables % 4) 0 v)) 1 0x2002 0xFFFF 0)

theorem exec_railFailRun_of_live (notVio : rail ≠ 0) (notVaux : rail ≠ 7) (clocks : clocked s = true) : exec (.railFailRun rail v) s =
    .next ((dropAtOnce (railFailed s rail v) rail).updPwr fun p => { p with latch := { p.latch with logged := true } }) := by
  have goes : ¬(s.dev.st = .cold ∨ s.pwr.seq ≠ .run ∨ rail > 12) := by simp [powered, run, known]
  have same : clocked (s.updPwr fun p => { p with v12 := v }) = clocked s := rfl
  rw [exec_railFailRun, execRailFailRun, if_neg goes]
  exact congrArg _ (if_neg (by simp [same, notVio, notVaux, clocks]))
end

section
variable {v : Nat} (loss : v < 1000) (ht : t = s.updPwr (fun p => { p with v12 := v, blocked := false }))
include loss ht

theorem exec_inputLoss_of_loss : exec (.inputLoss v) s = .next (inputLoss t) := by
  subst ht
  exact congrArg _ (if_neg (Nat.not_le.mpr loss))
end

theorem inputLoss_of_idle (idle : s.pwr.seq = .idle) : inputLoss s = s := by
  rw [inputLoss, idle]

theorem inputLoss_of_powered (up : s.pwr.seq ≠ .idle) : inputLoss s = if s.dev.st = .cold then s.updPwr railsOff else dropAtOnce s 15 := by
  rw [inputLoss]
  cases seq : s.pwr.seq with
  | idle => exact absurd seq up
  | up n => rfl
  | run => rfl
  | down n => rfl

/-- Settles O55: each event of the sequencer is one branch of it; a device that goes COLD keeps the latch that the fault has set. -/
theorem powerDownAndFaults : Obligations.PowerDownAndFaults := by
  refine ⟨fun s powered still => ⟨_, rfl, exec_perstAssert_of_powered powered still rfl, exec_hotReset_of_powered powered still⟩,
    fun s t asserted ht => ⟨exec_perstDeassert_of_idle asserted ht, exec_perstDeassert_of_run asserted ht,
      fun n => exec_perstDeassert_of_down asserted ht, fun n => exec_perstDeassert_of_up asserted ht⟩, ?fallen,
    fun s rail => failDown_latched, ?fail, ?loss, fun s v clocks low high => congrArg _ (if_pos ⟨high, low, clocks⟩), fun s => rfl,
    fun s ok changed => congrArg _ (if_neg changed), fun s => ⟨rfl, _, rfl, rfl, rfl, rfl⟩, ?cage⟩
  case fallen =>
    intro s t rail n down own disabled falls ht
    rw [exec_railFallen_of_falling down own disabled falls ht]
    refine ⟨fun all => ?_, fun some_ => congrArg _ (if_neg ?_), exec_railFallTimeout_of_falling down own disabled falls,
      exec_regulatorFaultDown_of_good down falls⟩
    · rw [if_pos (List.all_eq_true.mpr fun i mem => by rw [all i mem]; rfl)]
      exact ⟨fun more => congrArg _ (if_neg (by omega)), fun last => congrArg _ (if_pos last)⟩
    · obtain ⟨i, mem, good⟩ := some_
      intro all
      have fallen := List.all_eq_true.mp all i mem
      rw [good] at fallen
      exact Bool.false_ne_true fallen
  case fail =>
    intro s rail v powered run known
    by_cases dead : rail = 0 ∨ rail = 7 ∨ clocked s = false
    · refine ⟨_, exec_railFailRun_of_dead powered run known dead, rfl, rfl, rfl, rfl, rfl, ?_⟩
      rw [dropAtOnce_latch]
      refine ⟨(nomatch ·), fun ⟨notVio, notVaux, clocks⟩ => ?_⟩
      rcases dead with h | h | h
      · exact absurd h notVio
      · exact absurd h notVaux
      · exact absurd (h.symm.trans clocks) Bool.false_ne_true
    · obtain ⟨notVio, notVaux, clocks⟩ : rail ≠ 0 ∧ rail ≠ 7 ∧ clocked s = true := by simpa using dead
      exact ⟨_, exec_railFailRun_of_live powered run known notVio notVaux clocks, rfl, rfl, rfl, rfl, rfl,
        fun _ => ⟨notVio, notVaux, clocks⟩, fun _ => rfl⟩
  case loss =>
    intro s v loss
    obtain ⟨t, ht⟩ : ∃ t, t = s.updPwr (fun p => { p with v12 := v, blocked := false }) := ⟨_, rfl⟩
    have seq : t.pwr.seq = s.pwr.seq := ht ▸ rfl
    have st : t.dev.st = s.dev.st := ht ▸ rfl
    refine ⟨t, ht, ?_⟩
    rw [exec_inputLoss_of_loss loss ht, ← seq, ← st]
    exact ⟨fun idle => congrArg _ (inputLoss_of_idle idle),
      fun up powered => congrArg _ ((inputLoss_of_powered up).trans (if_neg powered)),
      fun up cold => congrArg _ ((inputLoss_of_powered up).trans (if_pos cold))⟩
  case cage =>
    intro s cage c stands
    refine ⟨rfl, rfl, fun closed => ?_⟩
    rw [exec_cageOvercurrent, execCageOvercurrent, stands]
    exact congrArg _ (if_pos closed)

end Sys2Proof.Machine
end

section
/-! THM_UPDATE, coefficient adjustment, sensors without a reading, and the power cap (19_thermal R438 to R443, R446; 18_power R433). -/

namespace Sys2Proof.Machine

variable {s t : State} {u : ThmIn}

/-! ## Nodes that satisfy a test -/

theorem nodesWith_isEmpty {l : List Int} {p : Nat → Int → Bool} :
    (nodesWith l p).isEmpty = true ↔ ∀ i < l.length, p i (l[i]?.getD 0) = false := by
  simp [nodesWith]

theorem nodesWith_value_isEmpty {l : List Int} {p : Int → Bool} :
    (nodesWith l fun _ x => p x).isEmpty = true ↔ ∀ x ∈ l, p x = false := by
  rw [nodesWith_isEmpty]
  refine ⟨fun none_ x mem => ?_, fun none_ i hi => ?_⟩
  · obtain ⟨i, hi, rfl⟩ := List.mem_iff_getElem.mp mem
    simpa [hi] using none_ i hi
  · rw [List.getElem?_eq_getElem hi, Option.getD_some]
    exact none_ _ (List.getElem_mem hi)

theorem pickNode_frame {β : Type} {g : State → β} (drawn : ∀ s : State, g s.fresh.2 = g s) (s : State) (l : List Nat) :
    g (pickNode s l).2 = g s := by
  unfold pickNode
  split
  · rfl
  · exact drawn s

/-! ## The parts of an update -/

/-- The rise of a node since the last update. -/
def rise (s : State) (u : ThmIn) (i : Nat) : Int := u.temps[i]?.getD 0 - s.thm.nodes[i]?.getD 0

/-- The same per millisecond. -/
def perMs (s : State) (u : ThmIn) (i : Nat) : Int := rise s u i * 1000 / u.interval

/-- A node rises at a rate, in 1/128 °C per millisecond, or faster. -/
def atRate (s : State) (u : ThmIn) (x : Int) (i : Nat) : Bool := decide (rise s u i * 1000 ≥ x * u.interval)

/-- The registers with an update's readings and the limits that take force. -/
def readThm (s : State) (u : ThmIn) (t : Thm) : Thm :=
  let t := { t with
    ta := u.ta.getD t.ta, taBad := t.taBad && u.ta.isNone, tc := u.tc.getD t.tc, tcBad := t.tcBad && u.tc.isNone,
    flow := u.flow.getD t.flow, flowBad := t.flowBad && u.flow.isNone, limitW := t.limitNext, ceilInput := t.ceilNext }
  let warn := !(nodesWith u.temps fun i _ => atRate s u 192 i).isEmpty
  { t with
    nodes := u.temps, mode := if coolant t then 1 else 0, warn := warn, warns := sat 16 (t.warns + b2n warn),
    hot := hottest u.temps,
    fast := !(nodesWith u.temps fun i x => decide (x ≥ 11776) || decide (rise s u i * 1000 > 192 * u.interval)).isEmpty }

/-- The step that an update without a critical node takes. -/
def stepped (s : State) (u : ThmIn) : State :=
  let t := s.updThm (readThm s u)
  let lim := nodesWith u.temps fun _ x => decide (x ≥ 12800)
  let rate := nodesWith u.temps fun i _ => atRate s u 384 i
  if !lim.isEmpty then stepDown t 0x3002 lim (perMs s u)
  else if !rate.isEmpty then stepDown t 0x3001 rate (perMs s u)
  else if t.thm.step > 0 ∧ settled t = true ∧ (nodesWith u.temps fun i x => decide (x > 11520) || atRate s u 64 i).isEmpty then
    let v := t.updThm fun t => { t with step := t.step - 1, lastStep := some s.dev.now }
    logEvent v 0x3004 2 (thmData v.thm.hot v.thm.step v.thm.mode (u.temps[v.thm.hot]?.getD 0) (perMs s u v.thm.hot))
  else t

/-- The nodes at 110 °C or more. -/
def critical (u : ThmIn) : List Nat := nodesWith u.temps fun _ x => decide (x ≥ 14080)

theorem thmUpdate_of_critical (hot : (critical u).isEmpty = false) : ∃ n temp rate,
    thmUpdate s u = thmCritical (pickNode (s.updThm (readThm s u)) (critical u)).2 n temp rate :=
  ⟨_, _, _, if_pos (by rw [Bool.not_eq_true']; exact hot)⟩

theorem thmUpdate_of_calm (calm : (critical u).isEmpty = true) :
    thmUpdate s u = (stepped s u).updThm fun t => { t with phi := paceOf t.phi (capW t) u.pFix u.pPace } :=
  if_neg (by rw [Bool.not_eq_true', Bool.not_eq_false]; exact calm)

theorem critical_isEmpty : (critical u).isEmpty = true ↔ ∀ x ∈ u.temps, x < 14080 := by
  rw [critical, nodesWith_value_isEmpty]
  simp

/-! ## What an update changes of the registers -/

/-- The registers with another step, at another time. -/
def Thm.at (t : Thm) (step down : Nat) (last : Option Nat) : Thm := { t with step := step, stepsDown := down, lastStep := last }

section
variable {code : Nat} {l : List Nat} {rate : Nat → Int}

theorem stepDown_thm : ∃ down last,
    (stepDown s code l rate).thm = s.thm.at (if 24 ≤ s.thm.step then s.thm.step else s.thm.step + 1) down last := by
  unfold stepDown
  split
  · exact ⟨s.thm.stepsDown, s.thm.lastStep, rfl⟩
  · dsimp only
    rw [logEvent_thm, State.updThm_thm, pickNode_frame (g := (·.thm)) (fun _ => rfl)]
    exact ⟨_, _, rfl⟩

theorem stepDown_frame {β : Type} {g : State → β} (drawn : ∀ s : State, g s.fresh.2 = g s) (thm : ∀ s f, g (State.updThm s f) = g s)
    (logs : ∀ s c d x, g (logEvent s c d x) = g s) : g (stepDown s code l rate) = g s := by
  unfold stepDown
  split
  · rfl
  · exact (logs ..).trans ((thm ..).trans (pickNode_frame drawn ..))
end

theorem stepped_frame {β : Type} {g : State → β} (drawn : ∀ s : State, g s.fresh.2 = g s) (thm : ∀ s f, g (State.updThm s f) = g s)
    (logs : ∀ s c d x, g (logEvent s c d x) = g s) : g (stepped s u) = g s := by
  unfold stepped
  dsimp only
  split
  · exact (stepDown_frame drawn thm logs).trans (thm ..)
  · split
    · exact (stepDown_frame drawn thm logs).trans (thm ..)
    · split
      · exact (logs ..).trans ((thm ..).trans (thm ..))
      · exact thm ..

/-- An update's step: one down where a node is too hot or rises too fast, and otherwise none, or one up. -/
theorem stepped_thm : ∃ step down last, (stepped s u).thm = (readThm s u s.thm).at step down last ∧
    (((∃ x ∈ u.temps, 12800 ≤ x) ∨ ∃ i < u.temps.length, atRate s u 384 i = true) → step = if 24 ≤ s.thm.step then s.thm.step else s.thm.step + 1) ∧
    ((∀ x ∈ u.temps, x < 12800) → (∀ i < u.temps.length, atRate s u 384 i = false) →
      step = s.thm.step ∨ 0 < s.thm.step ∧ step = s.thm.step - 1) := by
  have hot : (nodesWith u.temps fun _ x => decide (x ≥ 12800)).isEmpty = true ↔ ∀ x ∈ u.temps, x < 12800 := by
    rw [nodesWith_value_isEmpty]
    simp
  have fast : (nodesWith u.temps fun i _ => atRate s u 384 i).isEmpty = true ↔ ∀ i < u.temps.length, atRate s u 384 i = false :=
    nodesWith_isEmpty
  have read : (readThm s u s.thm).step = s.thm.step := rfl
  unfold stepped
  dsimp only
  split
  next some_ =>
    obtain ⟨down, last, same⟩ := stepDown_thm (s := s.updThm (readThm s u)) (code := 0x3002)
      (l := nodesWith u.temps fun _ x => decide (x ≥ 12800)) (rate := perMs s u)
    refine ⟨_, down, last, same, fun _ => rfl, fun cool _ => ?_⟩
    rw [hot.mpr cool] at some_
    exact absurd some_ Bool.false_ne_true
  next none_ =>
    have cool : ∀ x ∈ u.temps, x < 12800 := hot.mp (by simpa using none_)
    split
    next some_ =>
      obtain ⟨down, last, same⟩ := stepDown_thm (s := s.updThm (readThm s u)) (code := 0x3001)
        (l := nodesWith u.temps fun i _ => atRate s u 384 i) (rate := perMs s u)
      refine ⟨_, down, last, same, fun _ => rfl, fun _ slow => ?_⟩
      rw [fast.mpr slow] at some_
      exact absurd some_ Bool.false_ne_true
    next none_ =>
      have slow : ∀ i < u.temps.length, atRate s u 384 i = false := fast.mp (by simpa using none_)
      have neither : ¬((∃ x ∈ u.temps, 12800 ≤ x) ∨ ∃ i < u.temps.length, atRate s u 384 i = true) := by
        rintro (⟨x, mem, high⟩ | ⟨i, hi, rises⟩)
        · exact absurd (cool x mem) (not_lt.mpr high)
        · exact absurd ((slow i hi).symm.trans rises) Bool.false_ne_true
      split
      next up =>
        rw [logEvent_thm, State.updThm_thm, State.updThm_thm]
        exact ⟨_, _, _, rfl, fun some_ => absurd some_ neither, fun _ _ => .inr ⟨up.1, rfl⟩⟩
      next =>
        exact ⟨_, _, _, rfl, fun some_ => absurd some_ neither, fun _ _ => .inl rfl⟩

section
variable (calm : ∀ x ∈ u.temps, x < 14080)
include calm

theorem thmUpdate_thm : ∃ step down last, (thmUpdate s u).thm = { (readThm s u s.thm).at step down last with
      phi := paceOf s.thm.phi (capW (thmUpdate s u).thm) u.pFix u.pPace } ∧
    (((∃ x ∈ u.temps, 12800 ≤ x) ∨ ∃ i < u.temps.length, atRate s u 384 i = true) → step = if 24 ≤ s.thm.step then s.thm.step else s.thm.step + 1) ∧
    ((∀ x ∈ u.temps, x < 12800) → (∀ i < u.temps.length, atRate s u 384 i = false) →
      step = s.thm.step ∨ 0 < s.thm.step ∧ step = s.thm.step - 1) := by
  obtain ⟨step, down, last, same, hot, cool⟩ := stepped_thm (s := s) (u := u)
  refine ⟨step, down, last, ?_, hot, cool⟩
  rw [thmUpdate_of_calm (critical_isEmpty.mpr calm), State.updThm_thm, same]
  rfl

theorem thmUpdate_frame {β : Type} {g : State → β} (drawn : ∀ s : State, g s.fresh.2 = g s) (thm : ∀ s f, g (State.updThm s f) = g s)
    (logs : ∀ s c d x, g (logEvent s c d x) = g s) : g (thmUpdate s u) = g s := by
  rw [thmUpdate_of_calm (critical_isEmpty.mpr calm)]
  exact (thm ..).trans (stepped_frame drawn thm logs)
end

/-! ## The critical path -/

theorem enterFailed_latch (domain cause unit detail : Nat) : (enterFailed s domain cause unit detail).pwr.latch = s.pwr.latch := by
  unfold enterFailed
  split
  · rfl
  · simp [goState]

theorem enterFailed_thm (domain cause unit detail : Nat) : (enterFailed s domain cause unit detail).thm = s.thm := by
  unfold enterFailed
  split
  · rfl
  · simp

theorem beginDown_off : (beginDown s).dev.safe = true ∧ (beginDown s).rings = [] ∧ (beginDown s).cmds = [] ∧
    (beginDown s).pwr.latch = s.pwr.latch ∧ (beginDown s).thm = s.thm := ⟨rfl, rfl, rfl, rfl, rfl⟩

theorem thmCritical_off (n : Nat) (temp rate : Int) : (thmCritical s n temp rate).dev.safe = true ∧ (thmCritical s n temp rate).pwr.blocked = true ∧
    (thmCritical s n temp rate).rings = [] ∧ (thmCritical s n temp rate).cmds = [] ∧
    (thmCritical s n temp rate).pwr.latch = s.pwr.latch ∧ (thmCritical s n temp rate).thm = s.thm := by
  unfold thmCritical
  dsimp only
  obtain ⟨safe, rings, cmds, latch, thm⟩ := beginDown_off (s := flushLog (enterFailed (logEvent (forceSafe (s.updErr fun e =>
    { e with seen := e.seen ||| 4 })) 0x3003 2 (thmData n s.thm.step s.thm.mode temp rate)) 2 0x3003 0xFFFF 0))
  refine ⟨safe, rfl, rings, cmds, latch.trans ?_, thm.trans ?_⟩
  · rw [flushLog_pwr, enterFailed_latch, logEvent_pwr]
    rfl
  · rw [flushLog_thm, enterFailed_thm, logEvent_thm]
    rfl

theorem thmUpdate_of_hot (hot : ∃ x ∈ u.temps, 14080 ≤ x) : (thmUpdate s u).dev.safe = true ∧ (thmUpdate s u).pwr.blocked = true ∧
    (thmUpdate s u).rings = [] ∧ (thmUpdate s u).cmds = [] ∧ (thmUpdate s u).pwr.latch = s.pwr.latch ∧
    (thmUpdate s u).thm.step = s.thm.step := by
  have some_ : (critical u).isEmpty = false := by
    obtain ⟨x, mem, high⟩ := hot
    exact Bool.eq_false_iff.mpr fun none_ => absurd (critical_isEmpty.mp none_ x mem) (not_lt.mpr high)
  obtain ⟨n, temp, rate, same⟩ := thmUpdate_of_critical (s := s) some_
  obtain ⟨safe, blocked, rings, cmds, latch, thm⟩ := thmCritical_off (s := (pickNode (s.updThm (readThm s u)) (critical u)).2) n temp rate
  rw [same, latch, thm, pickNode_frame (g := (·.pwr)) (fun _ => rfl), pickNode_frame (g := (·.thm)) (fun _ => rfl)]
  exact ⟨safe, blocked, rings, cmds, rfl, rfl⟩

/-! ## Factors -/

theorem paceOf_bounds (phi : Rat) (cap pFix pPace : Nat) : 1 / 64 ≤ paceOf phi cap pFix pPace ∧ paceOf phi cap pFix pPace ≤ 1 := by
  unfold paceOf
  split
  · norm_num
  · exact ⟨le_max_left _ _, max_le (by norm_num) (min_le_left _ _)⟩

theorem exec_thmUpdate_of_due (clocks : clocked s = true) (notHold : s.dev.st ≠ .hold) (nodes : u.temps.length = 265)
    (due : u.interval = (if s.thm.fast then 125 else 1000)) : exec (.thmUpdate u) s = .next (rescaleAll (thmUpdate s u)) :=
  congrArg _ (if_neg (by simp [clocks, notHold, nodes, due]))

theorem exec_sensorInvalid_of_clocked {x : Sensor} (clocks : clocked s = true) (notHold : s.dev.st ≠ .hold) : exec (.sensorInvalid x) s =
    .next (s.updThm fun t => match x with
      | .ta => { t with taBad := true, ta := 7040 }
      | .tc => { t with tcBad := true }
      | .flow => { t with flowBad := true, flow := 0 }
      | .monitor g => { t with monBad := t.monBad.set g true }) :=
  congrArg _ (if_neg (by simp [clocks, notHold]))

theorem exec_coefficientAdjust_of_clocked {m : List (Option Nat)} {l : List Nat} (clocks : clocked s = true) (notHold : s.dev.st ≠ .hold) :
    exec (.coefficientAdjust m l) s = .next (s.updThm fun t => { t with
      monBad := (List.range 6).map fun i => t.monBad[i]?.getD false && ((m[i]?).getD none).isNone
      coef := (List.range 6).map fun i => adjustCoef (t.coef[i]?.getD 1) ((m[i]?).getD none) ((l[i]?).getD 0) }) :=
  congrArg _ (if_neg (by simp [clocks, notHold]))

/-- Settles O56: a step down is taken below 24 only. -/
theorem powerCap : Obligations.PowerCap := by
  refine ⟨fun t => rfl, fun s u low => ?_, by decide⟩
  by_cases calm : ∀ x ∈ u.temps, x < 14080
  · obtain ⟨step, down, last, same, moved, kept⟩ := thmUpdate_thm (s := s) calm
    rw [same]
    by_cases down : (∃ x ∈ u.temps, 12800 ≤ x) ∨ ∃ i < u.temps.length, atRate s u 384 i = true
    · have : step = if 24 ≤ s.thm.step then s.thm.step else s.thm.step + 1 := moved down
      change step ≤ 24
      split at this <;> omega
    · have still := kept (fun x mem => not_le.mp fun high => down (.inl ⟨x, mem, high⟩))
        (fun i hi => Bool.eq_false_iff.mpr fun rises => down (.inr ⟨i, hi, rises⟩))
      change step ≤ 24
      omega
  · have hot : ∃ x ∈ u.temps, 14080 ≤ x := by simpa using calm
    obtain ⟨-, -, -, -, -, same⟩ := thmUpdate_of_hot (s := s) hot
    rwa [same]

/-- Settles O57: an update reads its sensors, takes the first step whose condition holds, and sets the pace from the cap of that step. -/
theorem thermalUpdates : Obligations.ThermalUpdates := by
  refine ⟨fun s u => exec_thmUpdate_of_due, ?hot, ?calm, fun phi cap pFix pPace =>
    ⟨(paceOf_bounds phi cap pFix pPace).1, (paceOf_bounds phi cap pFix pPace).2, rfl⟩, ?adjust, fun c m n => ⟨rfl, fun some_ => if_neg some_⟩, ?sensor⟩
  case hot =>
    intro s u hot _
    obtain ⟨safe, blocked, rings, cmds, latch, -⟩ := thmUpdate_of_hot (s := s) hot
    exact ⟨_, rfl, safe, blocked, rings, cmds, latch⟩
  case calm =>
    intro s u calm
    obtain ⟨step, down, last, same, moved, kept⟩ := thmUpdate_thm (s := s) calm
    have hstep : (thmUpdate s u).thm.step = step := congrArg Thm.step same
    refine ⟨fun hot => ?_, fun cool slow => ?_, congrArg Thm.limitW same, congrArg Thm.ceilInput same, congrArg Thm.nodes same,
      congrArg Thm.phi same, thmUpdate_frame calm (g := (·.dev)) (fun _ => rfl) (fun _ _ => rfl) logEvent_dev,
      thmUpdate_frame calm (g := (·.tiles)) (fun _ => rfl) (fun _ _ => rfl) logEvent_tiles,
      thmUpdate_frame calm (g := (·.reqs)) (fun _ => rfl) (fun _ _ => rfl) logEvent_reqs⟩
    · have := moved (.inl hot)
      rw [hstep]
      split at this <;> omega
    · rw [hstep]
      refine kept cool fun i hi => decide_eq_false (not_le.mpr ?_)
      exact (slow i).resolve_right (Nat.not_le.mpr hi)
  case adjust =>
    exact fun s m l clocks notHold => ⟨_, exec_coefficientAdjust_of_clocked clocks notHold, rfl, rfl, rfl⟩
  case sensor =>
    exact fun s clocks notHold => ⟨exec_sensorInvalid_of_clocked clocks notHold, exec_sensorInvalid_of_clocked clocks notHold,
      exec_sensorInvalid_of_clocked clocks notHold, fun g => exec_sensorInvalid_of_clocked clocks notHold⟩

end Sys2Proof.Machine
end
section
/-! A step: the command at the front of the queue on the queue's rest, or one SCLK cycle (01_machine, 17_clocks R404). -/

namespace Sys2Proof.Machine

variable {s : State}

/-- Settles O1, by the recursion of `step` on the queue. -/
theorem stepRunsFront : Obligations.StepRunsFront := by
  intro c cs s waits
  unfold step
  rw [waits]

theorem step_of_idle (idle : s.pending = []) : step s = .next (tick s) := by
  unfold step
  rw [idle]

/-- Settles O2: device time counts modulo 2^64, and the full second counts in OP_SECONDS and starts the next one. -/
theorem idleStepIsOneCycle : Obligations.IdleStepIsOneCycle := by
  intro s idle
  rw [step_of_idle idle]
  refine ⟨fun still => ?still, fun clocked rest => ?cycle, fun clocked full => ?second⟩
  case still => rw [tick, still, if_neg Bool.false_ne_true]
  case cycle =>
    rw [tick, if_pos clocked]
    exact congrArg (fun d => Host.Outcome.next { s with dev := d }) (if_neg rest)
  case second =>
    rw [tick, if_pos clocked]
    exact congrArg (fun d => Host.Outcome.next { s with dev := d }) (if_pos full)

end Sys2Proof.Machine
end
section
/-! The state after reset (16_faults R390, 17_clocks R419, 20_mantel_log R449). -/

namespace Sys2Proof.Machine

theorem canon_reset : State.reset.Canon where
  hostMem := rfl
  cells := rfl
  gold := rfl
  fns := rfl
  rings := rfl
  ctxs := rfl
  tiles := rfl
  arrs := rfl
  flues := rfl
  reqs := rfl
  pages := rfl
  tileMem := tilesOk_nil

/-- Settles O4: no store of the reset state holds an entry but the primary function's, so every array, tile and engine reads as new. -/
theorem resetState : Obligations.ResetState :=
  ⟨canon_reset, ⟨rfl, rfl, rfl, rfl, rfl, rfl, rfl, rfl, rfl, rfl, rfl, rfl, rfl, rfl, rfl, rfl, rfl, rfl, rfl, rfl, rfl, rfl, rfl, rfl,
    rfl, rfl, fun _ => ⟨rfl, rfl⟩, fun _ => ⟨rfl, rfl⟩, fun _ => rfl⟩⟩

end Sys2Proof.Machine
end
section
/-! The end of a command (11_graec_rings R265, R266, R277, R282): what its final record holds, where it is written, and that nothing of
the machine moves but host memory, the rings, the outstanding commands and what the request keeps. -/

namespace Sys2Proof.Machine

variable {s t u : State} {c : Cmd} {q : Ring} {r : Rec} {ring : Nat} {final notify : Bool}

/-! ## What the end of a command may move -/

/-- `t` is `s` but for host memory, the rings, the outstanding commands and the requests. -/
def RecordsApart (s t : State) : Prop := ∃ m rs cs qs, t = { s with hostMem := m, rings := rs, cmds := cs, reqs := qs }

theorem RecordsApart.refl (s : State) : RecordsApart s s := ⟨_, _, _, _, rfl⟩

theorem RecordsApart.trans (one : RecordsApart s t) (two : RecordsApart t u) : RecordsApart s u := by
  obtain ⟨m, rs, cs, qs, rfl⟩ := one
  obtain ⟨m', rs', cs', qs', rfl⟩ := two
  exact ⟨m', rs', cs', qs', rfl⟩

theorem recordsApart_foldl {α : Type} {f : State → α → State} (each : ∀ s a, RecordsApart s (f s a)) (l : List α) (s : State) :
    RecordsApart s (l.foldl f s) := by
  induction l generalizing s with
  | nil => exact .refl s
  | cons a l ih => exact (each s a).trans (ih _)

theorem recordsApart_updRing (s : State) (ring : Nat) (f : Ring → Ring) : RecordsApart s (s.updRing ring f) := by
  unfold State.updRing
  split
  · exact .refl s
  · exact ⟨_, _, _, _, rfl⟩

theorem recordsApart_updReq (s : State) (slot : Nat) (f : Req → Req) : RecordsApart s (s.updReq slot f) := by
  unfold State.updReq
  split
  · exact .refl s
  · exact ⟨_, _, _, _, rfl⟩

theorem recordsApart_hostWrite (s : State) (addr : Nat) (bytes : List Byte) : RecordsApart s (s.hostWrite addr bytes) := ⟨_, _, _, _, rfl⟩

theorem recordsApart_setRing (s : State) (ring : Nat) (q : Option Ring) : RecordsApart s (s.setRing ring q) := ⟨_, _, _, _, rfl⟩

theorem recordsApart_postRec (s : State) (ring : Nat) (final notify : Bool) (r : Rec) :
    RecordsApart s (postRec s ring final notify r) := by
  cases h : look s.rings ring with
  | none => rw [postRec_of_no_ring h]; exact .refl s
  | some q => rw [postRec_of_look h]; exact (recordsApart_hostWrite ..).trans (recordsApart_setRing ..)

theorem recordsApart_postDups (s : State) (ring seq : Nat) (r : Rec) : RecordsApart s (postDups s ring seq r) := by
  have gone : RecordsApart s { s with cmds := s.cmds.filter fun c => !decide (c.phase = .dupOf ring seq) } := ⟨_, _, _, _, rfl⟩
  exact gone.trans (recordsApart_foldl (fun _ _ => recordsApart_postRec ..) _ _)

theorem recordsApart_dropRing (s : State) (ring : Nat) : RecordsApart s (dropRing s ring) := by
  unfold dropRing
  split
  · exact .refl s
  · split
    · exact recordsApart_setRing ..
    · exact .refl s

theorem recordsApart_startAdmin (s : State) (fn : Nat) : RecordsApart s (startAdmin s fn) := by
  unfold startAdmin
  dsimp only
  split
  · exact recordsApart_setRing ..
  · exact .refl s

theorem recordsApart_reap (s : State) (ring : Nat) : RecordsApart s (reap s ring) := by
  unfold reap
  split
  · exact .refl s
  · split
    · exact ((recordsApart_dropRing s ring).trans (recordsApart_dropRing ..)).trans (recordsApart_startAdmin ..)
    · exact .refl s

theorem finishW_of_replayed (replayed : c.replay = true) (s : State) (status result0 warn : Nat) :
    finishW s c status result0 warn = dropCmd s c := if_pos replayed

/-! ## The record of a command -/

/-- The final record of a command (R265, R277, R282). -/
def finalRec (c : Cmd) (status result0 warn : Nat) : Rec :=
  { seq := c.pkt.seq, status := if status = stOk ∧ warn % 32 ≠ 0 then stWarn else status, tag := c.pkt.tag, result0 := result0 % 2 ^ 64,
    result1 := warn,
    progress := if isLong c.pkt then (if status = stOk then 1000 else c.progress)
                else if c.pkt.opc = 0xE0 ∧ status = stOk then c.progress else 0xFFFF }

/-- The request of a step keeps its record. -/
def keepRec (s : State) (c : Cmd) (status : Nat) (r : Rec) : State :=
  if c.pkt.opc = 0x42 ∨ c.pkt.opc = 0x43 then
    s.updReq (reqSlot c.pkt.req) fun q => if status = stOk then { q with kept := ((field c.pkt.params 0 4, r) :: q.kept).take 8 } else q
  else s

theorem recordsApart_keepRec (s : State) (c : Cmd) (status : Nat) (r : Rec) : RecordsApart s (keepRec s c status r) := by
  unfold keepRec
  split
  · exact recordsApart_updReq ..
  · exact .refl s

@[simp] theorem keepRec_hostMem (s : State) (c : Cmd) (status : Nat) (r : Rec) : (keepRec s c status r).hostMem = s.hostMem := by
  unfold keepRec
  split <;> simp

@[simp] theorem keepRec_cmds (s : State) (c : Cmd) (status : Nat) (r : Rec) : (keepRec s c status r).cmds = s.cmds := by
  unfold keepRec
  split <;> simp

/-- The end of a command that the host sent, in its stages. -/
theorem finishW_of_sent (sent : c.replay = false) (s : State) (status result0 warn : Nat) :
    finishW s c status result0 warn =
      reap (postDups (keepRec ((postRec (dropCmd s c) c.ring true c.pkt.notify (finalRec c status result0 warn)).updRing c.ring
        (·.stored (finalRec c status result0 warn))) c status (finalRec c status result0 warn)) c.ring c.pkt.seq
        (finalRec c status result0 warn)) c.ring :=
  if_neg (by simp [sent])

theorem recordsApart_finishW (s : State) (c : Cmd) (status result0 warn : Nat) : RecordsApart s (finishW s c status result0 warn) := by
  have dropped : RecordsApart s (dropCmd s c) := ⟨_, _, _, _, rfl⟩
  cases sent : c.replay with
  | true => rwa [finishW_of_replayed sent]
  | false =>
    rw [finishW_of_sent sent]
    exact ((((dropped.trans (recordsApart_postRec ..)).trans (recordsApart_updRing ..)).trans (recordsApart_keepRec ..)).trans
      (recordsApart_postDups ..)).trans (recordsApart_reap ..)

section
variable (sent : c.replay = false) (alone : ∀ d ∈ s.cmds, d.phase ≠ .dupOf c.ring c.pkt.seq) (status result0 warn : Nat)
include sent alone

/-- Without a waiting duplicate the copies' stage does nothing. -/
theorem finishW_of_alone : finishW s c status result0 warn =
    reap (keepRec ((postRec (dropCmd s c) c.ring true c.pkt.notify (finalRec c status result0 warn)).updRing c.ring
      (·.stored (finalRec c status result0 warn))) c status (finalRec c status result0 warn)) c.ring := by
  rw [finishW_of_sent sent, postDups_of_none]
  simp only [keepRec_cmds, State.updRing_cmds, postRec_cmds]
  exact fun d mem => alone d (List.mem_of_mem_filter mem)

theorem finishW_cmds_of_alone : (finishW s c status result0 warn).cmds = (dropCmd s c).cmds := by
  rw [finishW_of_alone sent alone]
  simp

theorem finishW_hostMem_of_look (h : look s.rings c.ring = some q) : (finishW s c status result0 warn).hostMem =
    Mem.write s.hostMem (q.cq + 32 * q.cidx) (recBytes c.ring q.phase true (finalRec c status result0 warn)) := by
  rw [finishW_of_alone sent alone, reap_hostMem, keepRec_hostMem, State.updRing_hostMem, postRec_dropCmd_hostMem, postRec_hostMem_of_look h]
end

@[simp] theorem recBytes_length (ring : Nat) (phase final : Bool) (r : Rec) : (recBytes ring phase final r).length = 32 := by
  simp [recBytes]

/-- Settles O58: the stages of a command's end one by one; the record's 32 bytes are all that is written. -/
theorem finalRecords : Obligations.FinalRecords := by
  refine ⟨recordsApart_finishW, fun s c status r0 w q h sent alone => ?_,
    fun s c status r0 w replayed => finishW_of_replayed replayed s status r0 w, recBytes_length⟩
  have written := finishW_hostMem_of_look sent alone status r0 w h
  refine ⟨finalRec c status r0 w, rfl, rfl, rfl, rfl, rfl, fun long => ?_, fun short notProgress => ?_, ?_, fun a outside => ?_,
    finishW_cmds_of_alone sent alone status r0 w⟩
  · simp [finalRec, long]
  · simp [finalRec, short, notProgress]
  · have read := Mem.read_write_same s.hostMem (q.cq + 32 * q.cidx) (recBytes c.ring q.phase true (finalRec c status r0 w))
    rwa [recBytes_length, ← written] at read
  · rw [written]
    exact Mem.byte_write_other _ _ _ _ (by rwa [recBytes_length])

end Sys2Proof.Machine
end
section
/-! The queue of the commands that wait behind the one that runs (01_machine): no meaning touches it. The rules: what a choice, a fold and an
optional value do to it. One rule an operation follows, in the order of the model. -/

namespace Sys2Proof.Machine

variable {s : State}

/-- The answer is a next state, and the same commands wait in it. -/
def Answers (s : State) (o : Host.Outcome State Fault Refusal) : Prop := ∃ t, o = .next t ∧ t.pending = s.pending

theorem answers_next {t : State} (same : t.pending = s.pending) : Answers s (.next t) := ⟨t, rfl, same⟩

@[simp] theorem ite_pending (p : Prop) [Decidable p] (a b : State) : (if p then a else b).pending = if p then a.pending else b.pending :=
  apply_ite State.pending ..

@[simp] theorem elim_pending {α : Type} (o : Option α) (a : State) (f : α → State) :
    (o.elim a f).pending = o.elim a.pending fun x => (f x).pending := by
  cases o <;> rfl

@[simp] theorem elim_same {α β : Type} (o : Option α) (b : β) : (o.elim b fun _ => b) = b := by
  cases o <;> rfl

@[simp] theorem getD_pending (o : Option State) (a : State) : (o.getD a).pending = (o.map State.pending).getD a.pending := by
  cases o <;> rfl

@[simp] theorem foldl_pending {α : Type} {f : State → α → State} (each : ∀ s a, (f s a).pending = s.pending) (l : List α) (s : State) :
    (l.foldl f s).pending = s.pending := foldl_field State.pending each l s

@[simp] theorem foldl_fst_pending {α β : Type} {f : State × β → α → State × β} (each : ∀ x a, (f x a).1.pending = x.1.pending)
    (l : List α) (x : State × β) : (l.foldl f x).1.pending = x.1.pending := by
  induction l generalizing x with
  | nil => rfl
  | cons a l ih => rw [List.foldl_cons, ih, each]

@[simp] theorem foldl_mid_pending {α β γ : Type} {f : β × State × γ → α → β × State × γ}
    (each : ∀ x a, (f x a).2.1.pending = x.2.1.pending) (l : List α) (x : β × State × γ) : (l.foldl f x).2.1.pending = x.2.1.pending := by
  induction l generalizing x with
  | nil => rfl
  | cons a l ih => rw [List.foldl_cons, ih, each]

@[simp] theorem ite_snd_pending {α : Type} (p : Prop) [Decidable p] (a b : α × State) :
    (if p then a else b).2.pending = if p then a.2.pending else b.2.pending := apply_ite (fun x : α × State => x.2.pending) ..

theorem fst_pending_of_ite {α : Type} {p : Prop} [Decidable p] {a b : State × α} {q : List Instr} (yes : a.1.pending = q)
    (no : b.1.pending = q) : (if p then a else b).1.pending = q := by
  split <;> assumption

theorem pending_of_pair {α : Type} {x : α × State} {a : α} {t : State} {q : List Instr} (same : x.2.pending = q) (e : x = (a, t)) :
    t.pending = q := by
  rwa [e] at same

theorem pending_of_triple {α β : Type} {x : α × State × β} {a : α} {t : State} {b : β} {q : List Instr} (same : x.2.1.pending = q)
    (e : x = (a, t, b)) : t.pending = q := by
  rwa [e] at same

theorem pending_of_last {α β : Type} {x : α × β × State} {a : α} {b : β} {t : State} {q : List Instr} (same : x.2.2.pending = q)
    (e : x = (a, b, t)) : t.pending = q := by
  rwa [e] at same

/-- The queue after an instruction's effect; `q` where the effect has no state of its own. -/
def Eff.queue (q : List Instr) : Eff → List Instr
  | .hold t => t.pending
  | .ok t _ _ _ => t.pending
  | _ => q

@[simp] theorem Eff.queue_wait (q : List Instr) : Eff.wait.queue q = q := rfl
@[simp] theorem Eff.queue_stop (q : List Instr) (n : Nat) : (Eff.stop n).queue q = q := rfl
@[simp] theorem Eff.queue_hold (q : List Instr) (t : State) : (Eff.hold t).queue q = t.pending := rfl
@[simp] theorem Eff.queue_ok (q : List Instr) (t : State) (out : List Byte) (fin : Bool) (pcie : Nat) :
    (Eff.ok t out fin pcie).queue q = t.pending := rfl

@[simp] theorem Eff.queue_ite (q : List Instr) (p : Prop) [Decidable p] (a b : Eff) :
    (if p then a else b).queue q = if p then a.queue q else b.queue q := apply_ite (Eff.queue q) ..

/-! ## Shared operations -/

@[simp] theorem State.draw_pending : (State.draw s).2.pending = s.pending := by simp [State.draw]

@[simp] theorem sendIrq_pending (fn vector : Nat) : (sendIrq s fn vector).pending = s.pending := by simp [sendIrq]

@[simp] theorem raiseIrq_pending (ring : Nat) : (raiseIrq s ring).pending = s.pending := by
  unfold raiseIrq
  split <;> simp

@[simp] theorem raiseAll_pending : (raiseAll s).pending = s.pending := by simp [raiseAll]

@[simp] theorem onReady_pending {opc ring seq : Nat} {f : Cmd → State → State} (each : ∀ c, (f c s).pending = s.pending) :
    (onReady opc ring seq f s).pending = s.pending := by
  unfold onReady
  split
  · rfl
  · split
    · exact each _
    · rfl

/-! ## Arrays and digests -/

@[simp] theorem setRow_pending (array row v : Nat) : (setRow s array row v).pending = s.pending := by simp [setRow]

@[simp] theorem setGold_pending (array row v : Nat) : (setGold s array row v).pending = s.pending := by simp [setGold]

/-! ## Mesh -/

@[simp] theorem setDigest_pending (kind unit round v : Nat) : (setDigest s kind unit round v).pending = s.pending := by
  unfold setDigest
  split <;> simp

@[simp] theorem countRound_pending (kind unit : Nat) : (countRound s kind unit).pending = s.pending := by
  unfold countRound
  split <;> simp

@[simp] theorem restartRound_pending (kind unit round : Nat) : (restartRound s kind unit round).pending = s.pending := by
  unfold restartRound
  split <;> simp

/-! ## Faults -/

@[simp] theorem enterFailed_pending (domain cause unit detail : Nat) : (enterFailed s domain cause unit detail).pending = s.pending := by
  simp [enterFailed]

@[simp] theorem loseReq_pending (slot : Nat) : (loseReq s slot).pending = s.pending := by
  unfold loseReq
  split
  · rfl
  · dsimp only
    split
    · rfl
    · refine (foldl_pending (fun t c => ?_) ..).trans (State.updReq_pending ..)
      split
      · rfl
      · split <;> simp

@[simp] theorem loseReqs_pending (p : Nat → Req → Bool) : (loseReqs s p).pending = s.pending := by
  refine foldl_pending (fun t e => ?_) ..
  split
  · rfl
  · split <;> simp

@[simp] theorem freePage_pending (id : Nat) : (freePage s id).pending = s.pending := by
  unfold freePage
  split <;> simp

@[simp] theorem reapPages_pending : (reapPages s).pending = s.pending := by simp [reapPages]

@[simp] theorem haltCtx_pending (ctx cause ctile instr : Nat) : (haltCtx s ctx cause ctile instr).pending = s.pending := by
  unfold haltCtx
  split
  · rfl
  · dsimp only
    split
    · rfl
    · refine (foldl_pending (fun t d => ?_) ..).trans (by simp)
      split
      · rfl
      · split <;> simp

@[simp] theorem uncache_pending (p : Nat × Nat × Nat → Bool) : (uncache s p).pending = s.pending := by simp [uncache]

@[simp] theorem dropVariant_pending (ctx v : Nat) : (dropVariant s ctx v).pending = s.pending := by simp [dropVariant]

@[simp] theorem hbmAction_pending (site : HbmSite) : (hbmAction s site).pending = s.pending := by
  unfold hbmAction
  split <;> simp

@[simp] theorem runAct_pending (e : ErrIn) : (runAct s e).pending = s.pending := by
  unfold runAct
  split <;> simp

@[simp] theorem startHandler_pending (e : ErrIn) : (startHandler s e).pending = s.pending := by simp [startHandler]

@[simp] theorem nestedErr_pending (h' : Handler) (e : ErrIn) : (nestedErr s h' e).pending = s.pending := by simp [nestedErr]

@[simp] theorem raiseErr_pending (e : ErrIn) : (raiseErr s e).pending = s.pending := by
  unfold raiseErr
  dsimp only
  (repeat' split) <;> simp

@[simp] theorem endHandler_pending : (endHandler s).pending = s.pending := by
  unfold endHandler
  (repeat' split) <;> simp

theorem execErrorRaise_answers (e : ErrIn) : Answers s (execErrorRaise e s) := ⟨_, rfl, by simp⟩

theorem execHandlerTimeout_answers : Answers s (execHandlerTimeout s) := ⟨_, rfl, by (repeat' split) <;> simp⟩

theorem execHbmPatrol_answers (addr : Nat) (corrected : Bool) : Answers s (execHbmPatrol addr corrected s) := ⟨_, rfl, by simp⟩

theorem execHbmUncorrectable_answers (site : HbmSite) : Answers s (execHbmUncorrectable site s) := ⟨_, rfl, by simp⟩

theorem execHbmStackFail_answers (stack : Nat) : Answers s (execHbmStackFail stack s) := ⟨_, rfl, by simp⟩

theorem execTileParityError_answers (tile line : Nat) : Answers s (execTileParityError tile line s) :=
  ⟨_, rfl, by dsimp only; (repeat' split) <;> simp⟩

theorem execMeshParityError_answers (sent : MeshFlit) (link : MeshLink) (got : MeshFlit) : Answers s (execMeshParityError sent link got s) :=
  ⟨_, rfl, by dsimp only; (repeat' split) <;> simp⟩

@[simp] theorem logAer_pending (fn : Nat) : (logAer s fn).pending = s.pending := by simp [logAer]

theorem execHostReadFail_answers (read : HostRead) : Answers s (execHostReadFail read s) := ⟨_, rfl, by simp⟩

theorem execHostReadRetryResult_answers (ok : Bool) : Answers s (execHostReadRetryResult ok s) :=
  ⟨_, rfl, by dsimp only; (repeat' split) <;> simp⟩

/-! ## The mantel log -/

theorem execLogEvent_answers (code domain data : Nat) : Answers s (execLogEvent code domain data s) := ⟨_, rfl, by simp⟩

theorem execLogRecordTimeout_answers : Answers s (execLogRecordTimeout s) := ⟨_, rfl, by simp⟩

theorem execLogFlashWrite_answers : Answers s (execLogFlashWrite s) := ⟨_, rfl, by simp⟩

theorem execLogRecordsLost_answers : Answers s (execLogRecordsLost s) := ⟨_, rfl, by simp⟩

theorem execLogFreezeTimeout_answers : Answers s (execLogFreezeTimeout s) := ⟨_, rfl, by simp⟩

theorem execLogFreeze_answers (ring seq : Nat) : Answers s (execLogFreeze ring seq s) := ⟨_, rfl, by simp⟩

theorem execLogRead_answers (ring seq : Nat) : Answers s (execLogRead ring seq s) := ⟨_, rfl, by simp⟩

theorem execLogThaw_answers (ring seq : Nat) : Answers s (execLogThaw ring seq s) := ⟨_, rfl, by simp⟩

theorem execLogClear_answers (ring seq : Nat) : Answers s (execLogClear ring seq s) :=
  ⟨_, rfl, onReady_pending fun c => by (repeat' split) <;> simp⟩

theorem execLogDataRead_answers : Answers s (execLogDataRead s) := ⟨_, rfl, by simp⟩

/-! ## Power -/

@[simp] theorem goCold_pending : (goCold s).pending = s.pending := by simp [goCold]

@[simp] theorem applySsc_pending : (applySsc s).pending = s.pending := by simp [applySsc]

@[simp] theorem logLatch_pending : (logLatch s).pending = s.pending := by simp [logLatch]

@[simp] theorem bootState_pending : (bootState s).pending = s.pending := by
  unfold bootState
  split <;> simp

@[simp] theorem enterBoot_pending : (enterBoot s).pending = s.pending := by simp [enterBoot]

@[simp] theorem tryBoot_pending : (tryBoot s).pending = s.pending := by simp [tryBoot]

@[simp] theorem startUp_pending : (startUp s).pending = s.pending := by simp [startUp]

theorem execV12Rise_answers (tenMv : Nat) : Answers s (execV12Rise tenMv s) := ⟨_, rfl, by simp⟩

theorem execRailPowerGood_answers (rail : Nat) : Answers s (execRailPowerGood rail s) := ⟨_, rfl, by dsimp only; (repeat' split) <;> simp⟩

theorem execRailEnableTimeout_answers (rail : Nat) : Answers s (execRailEnableTimeout rail s) :=
  ⟨_, rfl, by dsimp only; (repeat' split) <;> simp⟩

theorem execRailReenable_answers (rail : Nat) : Answers s (execRailReenable rail s) := ⟨_, rfl, by dsimp only; (repeat' split) <;> simp⟩

@[simp] theorem beginDown_pending : (beginDown s).pending = s.pending := by simp [beginDown]

@[simp] theorem convReset_pending : (convReset s).pending = s.pending := by
  unfold convReset
  (repeat' split) <;> simp

theorem execPerstAssert_answers : Answers s (execPerstAssert s) := ⟨_, rfl, by simp⟩

theorem execPerstDeassert_answers : Answers s (execPerstDeassert s) := ⟨_, rfl, by dsimp only; (repeat' split) <;> simp⟩

theorem execHotReset_answers : Answers s (execHotReset s) := ⟨_, rfl, by simp⟩

@[simp] theorem endDown_pending : (endDown s).pending = s.pending := by simp [endDown]

theorem execRailFallen_answers (rail : Nat) : Answers s (execRailFallen rail s) := ⟨_, rfl, by dsimp only; (repeat' split) <;> simp⟩

@[simp] theorem failDown_pending (rail : Nat) : (failDown s rail).pending = s.pending := by simp [failDown]

theorem execRailFallTimeout_answers (rail : Nat) : Answers s (execRailFallTimeout rail s) := ⟨_, rfl, by dsimp only; (repeat' split) <;> simp⟩

theorem execRegulatorFaultDown_answers (rail : Nat) : Answers s (execRegulatorFaultDown rail s) := ⟨_, rfl, by (repeat' split) <;> simp⟩

@[simp] theorem dropAtOnce_pending (rail : Nat) : (dropAtOnce s rail).pending = s.pending := by simp [dropAtOnce]

theorem execRailFailRun_answers (rail tenMv : Nat) : Answers s (execRailFailRun rail tenMv s) := ⟨_, rfl, by simp⟩

@[simp] theorem inputLoss_pending : (inputLoss s).pending = s.pending := by
  unfold inputLoss
  split <;> simp

theorem execInputLoss_answers (tenMv : Nat) : Answers s (execInputLoss tenMv s) := ⟨_, rfl, by simp⟩

theorem execSenseChange_answers (ok : Bool) : Answers s (execSenseChange ok s) := ⟨_, rfl, by simp⟩

theorem execPwrInputLow_answers (tenMv : Nat) : Answers s (execPwrInputLow tenMv s) := ⟨_, rfl, by simp⟩

theorem execInputRecovered_answers : Answers s (execInputRecovered s) := ⟨_, rfl, by simp⟩

theorem execV3p3AuxChange_answers (present : Bool) : Answers s (execV3p3AuxChange present s) := ⟨_, rfl, by simp⟩

@[simp] theorem onCage_pending (i : Nat) (f : Cage → Cage) : (onCage s i f).pending = s.pending := by simp [onCage]

theorem execModulePresent_answers (cage : Nat) : Answers s (execModulePresent cage s) := ⟨_, rfl, by simp⟩

@[simp] theorem portDown_pending (port reason retx : Nat) : (portDown s port reason retx).pending = s.pending := by
  unfold portDown
  split <;> simp

theorem execModuleRemoved_answers (cage : Nat) : Answers s (execModuleRemoved cage s) := ⟨_, rfl, by simp⟩

theorem execCageOvercurrent_answers (cage : Nat) : Answers s (execCageOvercurrent cage s) := ⟨_, rfl, by dsimp only; (repeat' split) <;> simp⟩

/-! ## Clocks -/

@[simp] theorem applyLayout_pending : (applyLayout s).pending = s.pending := by simp [applyLayout]

@[simp] theorem toMaintenance_pending : (toMaintenance s).pending = s.pending := by simp [toMaintenance]

@[simp] theorem quiesce_pending : (quiesce s).pending = s.pending := by simp [quiesce]

@[simp] theorem enterHold_pending (cause : Nat) : (enterHold s cause).pending = s.pending := by simp [enterHold]

@[simp] theorem takeOver_pending (cause : Nat) : (takeOver s cause).pending = s.pending := by simp [takeOver]

@[simp] theorem tripRoot_pending (cause : Nat) : (tripRoot s cause).pending = s.pending := by simp [tripRoot]

@[simp] theorem tripPilot_pending (cause : Nat) : (tripPilot s cause).pending = s.pending := by simp [tripPilot]

theorem execMissingEdgeTrip_answers : Answers s (execMissingEdgeTrip s) := ⟨_, rfl, by simp⟩

theorem execLockLostTrip_answers (pll : PllId) : Answers s (execLockLostTrip pll s) := ⟨_, rfl, by (repeat' split) <;> simp⟩

theorem execLane0EnterL0_answers : Answers s (execLane0EnterL0 s) := ⟨_, rfl, by simp⟩

@[simp] theorem leaveL0_pending : (leaveL0 s).pending = s.pending := by simp [leaveL0]

theorem execLane0LeaveL0_answers : Answers s (execLane0LeaveL0 s) := ⟨_, rfl, by simp⟩

theorem execRootAttemptStart_answers : Answers s (execRootAttemptStart s) := ⟨_, rfl, by simp⟩

theorem execRootAttemptTimeout_answers : Answers s (execRootAttemptTimeout s) := ⟨_, rfl, by simp⟩

theorem execRootSeriesRetry_answers : Answers s (execRootSeriesRetry s) := ⟨_, rfl, by simp⟩

@[simp] theorem endHold_pending : (endHold s).pending = s.pending := by
  unfold endHold
  dsimp only
  (repeat' split) <;> simp

@[simp] theorem acceptRoot_pending : (acceptRoot s).pending = s.pending := by simp [acceptRoot]

theorem execMonitorWindow_answers (pll : PllId) (count : Nat) : Answers s (execMonitorWindow pll count s) :=
  ⟨_, rfl, by dsimp only; (repeat' split) <;> simp⟩

theorem execDividerStep_answers : Answers s (execDividerStep s) := ⟨_, rfl, by simp⟩

@[simp] theorem rebuildGold_pending : (rebuildGold s).pending = s.pending := by simp [rebuildGold]

@[simp] theorem freeCtx_pending (ctx : Nat) : (freeCtx s ctx).pending = s.pending := by simp [freeCtx]

@[simp] theorem leaveChimney_pending : (leaveChimney s).pending = s.pending := by
  refine foldl_pending (fun t e => ?_) ..
  split
  · rfl
  · split <;> simp

@[simp] theorem dropSessions_pending : (dropSessions s).pending = s.pending := by simp [dropSessions]

@[simp] theorem dropHbm_pending : (dropHbm s).pending = s.pending := by simp [dropHbm]

theorem execHbmRecovery_answers (badRow : Option Nat) : Answers s (execHbmRecovery badRow s) := ⟨_, rfl, by dsimp only; (repeat' split) <;> simp⟩

@[simp] theorem loadTrims_pending (t : TrimSet) : (loadTrims s t).pending = s.pending := by simp [loadTrims]

@[simp] theorem loadRecord_pending : (loadRecord s).pending = s.pending := by
  unfold loadRecord
  split <;> simp

@[simp] theorem logSigFail_pending (slot source : Nat) : (logSigFail s slot source).pending = s.pending := by simp [logSigFail]

@[simp] theorem bootWith_pending (slot ms : Nat) (fallback : Bool) : (bootWith s slot ms fallback).pending = s.pending := by
  unfold bootWith
  dsimp only
  (repeat' split) <;> simp

theorem execBootComplete_answers (ms : Nat) (failed : Option Nat) : Answers s (execBootComplete ms failed s) :=
  ⟨_, rfl, by dsimp only; (repeat' split) <;> simp⟩

/-! ## Thermal management -/

@[simp] theorem rescaleAll_pending : (rescaleAll s).pending = s.pending := by simp [rescaleAll]

@[simp] theorem pickNode_pending (l : List Nat) : (pickNode s l).2.pending = s.pending := by
  unfold pickNode
  split <;> simp

@[simp] theorem thmCritical_pending (node : Nat) (temp rate : Int) : (thmCritical s node temp rate).pending = s.pending := by simp [thmCritical]

@[simp] theorem stepDown_pending (code : Nat) (l : List Nat) (rate : Nat → Int) : (stepDown s code l rate).pending = s.pending := by
  simp [stepDown]

@[simp] theorem thmUpdate_pending (u : ThmIn) : (thmUpdate s u).pending = s.pending := by simp [thmUpdate]

theorem execThmUpdate_answers (u : ThmIn) : Answers s (execThmUpdate u s) := ⟨_, rfl, by simp⟩

theorem execCoefficientAdjust_answers (measured : List (Option Nat)) (modelled : List Nat) : Answers s (execCoefficientAdjust measured modelled s) :=
  ⟨_, rfl, by simp⟩

theorem execSensorInvalid_answers (x : Sensor) : Answers s (execSensorInvalid x s) := ⟨_, rfl, by simp⟩

theorem execPowerLimit_answers (ring seq : Nat) : Answers s (execPowerLimit ring seq s) := ⟨_, rfl, by simp⟩

/-! ## The image loader -/

@[simp] theorem loadCells_pending (b : List Byte) (i : Image) : (loadCells s b i).pending = s.pending := by simp [loadCells]

@[simp] theorem loadImage_pending (ctx : Nat) (b : List Byte) (origin : Nat) : (loadImage s ctx b origin).pending = s.pending := by
  simp [loadImage]

end Sys2Proof.Machine
end
section
/-! The queue of waiting commands along the operations of the model, continued: one rule an operation (01_machine). -/

namespace Sys2Proof.Machine

variable {s : State}

/-! ## Links -/

@[simp] theorem pickPort_pending (k : Nat) (plus : Bool) : (pickPort s k plus).2.pending = s.pending := by
  unfold pickPort
  split <;> simp

@[simp] theorem wayOut_pending (k : Nat) (plus : Bool) : (wayOut s k plus).2.pending = s.pending := wayOut_frame State.fresh_pending ..

@[simp] theorem route_pending (dst flags : Nat) (came : Option (Nat × Bool)) :
    (route s dst flags came).2.2.pending = s.pending := route_frame State.fresh_pending ..

@[simp] theorem setLnk_pending (l : LinkId) (x : Lnk) : (setLnk s l x).pending = s.pending := by simp [setLnk]

@[simp] theorem updPort_pending (p : Nat) (f : Port → Port) : (updPort s p f).pending = s.pending := by simp [updPort]

@[simp] theorem emit_pending (l : LinkId) (f : Frame) : (emit s l f).pending = s.pending := by simp [emit]

@[simp] theorem sendOn_pending (l : LinkId) (f : Frame) : (sendOn s l f).pending = s.pending := by simp [sendOn]

@[simp] theorem sendWaiting_pending (l : LinkId) : (sendWaiting s l).pending = s.pending := by simp [sendWaiting]

@[simp] theorem sendFrame_pending (ty dst step : Nat) (payload : List Byte) : (sendFrame s ty dst step payload).pending = s.pending := by
  have routed := route_pending (s := s) dst 0 none
  unfold sendFrame
  dsimp only
  split
  · rfl
  · split
    · split <;> simp
    · split
      next e => exact pending_of_last routed e
      next e => simpa using pending_of_last routed e

@[simp] theorem sendLong_pending (ty dst step : Nat) (head : List Nat) (bytes : List Byte) :
    (sendLong s ty dst step head bytes).pending = s.pending := by
  simp [sendLong]

@[simp] theorem takePiece_pending (f : Frame) : (takePiece s f).2.pending = s.pending := by
  unfold takePiece
  dsimp only
  (repeat' split) <;> simp

@[simp] theorem sendDown_pending (ty step : Nat) (payload : List Byte) : (sendDown s ty step payload).pending = s.pending := by simp [sendDown]

/-! ## KV pages -/

@[simp] theorem updEntry_pending (slot pair p : Nat) (f : Entry → Entry) : (updEntry s slot pair p f).pending = s.pending := by simp [updEntry]

@[simp] theorem takePage_pending (ctx pair p : Nat) : (takePage s ctx pair p).2.pending = s.pending := by simp [takePage]

@[simp] theorem sendMirrorFree_pending (handle layer head p ctx : Nat) (gone : Bool) :
    (sendMirrorFree s handle layer head p ctx gone).pending = s.pending := by
  simp [sendMirrorFree]

@[simp] theorem dropRef_pending (id : Nat) : (dropRef s id).pending = s.pending := by
  unfold dropRef
  split <;> simp

@[simp] theorem freeSpillSlot_pending (ctx : Nat) : (freeSpillSlot s ctx).2.pending = s.pending := by simp [freeSpillSlot]

theorem spillOne_pending {t : State} (h : spillOne s = some t) : t.pending = s.pending := by
  unfold spillOne at h
  dsimp only at h
  split at h
  · exact nomatch h
  · split at h
    · exact nomatch h
    · cases h
      simp only [State.updCtx_pending, State.updPage_pending]
      split <;> simp

@[simp] theorem unbindIf_pending (p : Bound → Bool) : (unbindIf s p).pending = s.pending := by simp [unbindIf]

@[simp] theorem unbind_pending (slot pair p : Nat) : (unbind s slot pair p).pending = s.pending := by simp [unbind]

@[simp] theorem toAsh_pending (slot pair p step : Nat) : (toAsh s slot pair p step).pending = s.pending := by
  unfold toAsh
  dsimp only
  (repeat' split) <;> simp

@[simp] theorem countEvict_pending (slot step : Nat) (quota : Bool) : (countEvict s slot step quota).pending = s.pending := by simp [countEvict]

@[simp] theorem quotaEvict_pending (slot pair cur step : Nat) : (quotaEvict s slot pair cur step).pending = s.pending := by
  unfold quotaEvict
  dsimp only
  (repeat' split) <;> simp

@[simp] theorem pressureVictim_pending : (pressureVictim s).2.pending = s.pending := by
  unfold pressureVictim
  dsimp only
  (repeat' split) <;> simp

@[simp] theorem bindPage_pending (b : Bound) : (bindPage s b).pending = s.pending := by
  unfold bindPage
  split <;> simp

@[simp] theorem makeRoom_pending (evict : Bool) (ctx n : Nat) {s : State} (bs : List Bound) :
    (makeRoom evict ctx n s bs).2.1.pending = s.pending := by
  induction n generalizing s bs with
  | zero => rfl
  | succ n ih =>
    unfold makeRoom
    split
    · rfl
    · have picked : (if evict then pressureVictim s else (none, s)).2.pending = s.pending := by
        split <;> simp
      split
      next e => rw [ih, bindPage_pending, pending_of_pair picked e]
      next e =>
        split
        · exact pending_of_pair picked e
        next spilled => rw [ih, spillOne_pending spilled, pending_of_pair picked e]

@[simp] theorem spillReturn_pending : (spillReturn s).pending = s.pending := by
  unfold spillReturn
  dsimp only
  (repeat' split) <;> simp

@[simp] theorem takeChunk_pending (slot pair p : Nat) : (takeChunk s slot pair p).2.pending = s.pending := by
  unfold takeChunk
  (repeat' split) <;> simp

@[simp] theorem takeAll_pending (evict : Bool) (slot : Nat) (l : List (Nat × Nat)) {s : State} (bs : List Bound) :
    (takeAll evict slot l s bs).2.1.pending = s.pending := by
  induction l generalizing s bs with
  | nil => rfl
  | cons n l ih =>
    unfold takeAll
    split
    · rfl
    · split
      · exact ih ..
      · have chunk := takeChunk_pending (s := s) slot n.1 n.2
        split
        next e => exact pending_of_pair chunk e
        next t e =>
          have kept : t.pending = s.pending := pending_of_pair chunk e
          split
          next room => exact (pending_of_triple (makeRoom_pending ..) room).trans kept
          next u _ room =>
            rw [ih, State.updReq_pending, takePage_pending, pending_of_triple (makeRoom_pending ..) room, kept]

@[simp] theorem giveBack_pending (slot : Nat) : (giveBack s slot).pending = s.pending := by
  unfold giveBack
  split <;> simp

@[simp] theorem untake_pending (before : State)  (slot : Nat) : (untake before s slot).pending = s.pending := by
  unfold untake
  split <;> simp

@[simp] theorem giveBackUnused_pending (slot : Nat) : (giveBackUnused s slot).pending = s.pending := by
  unfold giveBackUnused
  split <;> simp

@[simp] theorem popTaken_pending (slot pair p : Nat) : (popTaken s slot pair p).2.pending = s.pending := by
  unfold popTaken
  (repeat' split) <;> simp

@[simp] theorem openPage_pending (slot pair p step : Nat) : (openPage s slot pair p step).pending = s.pending := by
  have popped := popTaken_pending (s := s) slot pair p
  unfold openPage
  split
  next e => exact pending_of_pair popped e
  next e =>
    rw [← pending_of_pair popped e]
    (repeat' split) <;> simp

@[simp] theorem copyPage_pending (slot pair p dh : Nat) : (copyPage s slot pair p dh).pending = s.pending := by
  unfold copyPage
  split
  · rfl
  · split
    · rfl
    · have popped := popTaken_pending (s := s) slot pair p
      split
      next e => exact pending_of_pair popped e
      next e => simpa using pending_of_pair popped e

@[simp] theorem writeKv_pending (slot pair pos dh step : Nat) (key : List BF16) (val : List BF16) :
    (writeKv s slot pair pos dh step key val).pending = s.pending := by
  unfold writeKv
  dsimp only
  (repeat' split) <;> simp

@[simp] theorem appendKv_pending (slot pair pos dh step : Nat) (key : List BF16) (val : List BF16) :
    (appendKv s slot pair pos dh step key val).pending = s.pending := by
  unfold appendKv
  dsimp only
  (repeat' split) <;> simp

@[simp] theorem stageKv_pending (slot pair pos step who : Nat) (key : List BF16) (val : List BF16) :
    (stageKv s slot pair pos step who key val).pending = s.pending := by
  simp [stageKv]

@[simp] theorem flushStaging_pending (slot pair dh step : Nat) : (flushStaging s slot pair dh step).pending = s.pending := by
  unfold flushStaging
  split <;> simp

@[simp] theorem putKv_pending (slot pair pos dh step who : Nat) (key : List BF16) (val : List BF16) :
    (putKv s slot pair pos dh step who key val).pending = s.pending := by
  unfold putKv
  split <;> simp

@[simp] theorem savePair_pending (slot pair step : Nat) : (savePair s slot pair step).pending = s.pending := by
  unfold savePair
  dsimp only
  (repeat' split) <;> simp

@[simp] theorem restorePair_pending (v : PairSave) : (restorePair s v).pending = s.pending := by simp [restorePair]

@[simp] theorem releaseReq_pending (slot : Nat) : (releaseReq s slot).pending = s.pending := by
  unfold releaseReq
  dsimp only
  (repeat' split) <;> simp

/-! ## Captures -/

@[simp] theorem appendRec_pending (ctx kind phase ctile disp ord pos : Nat) (body : List Byte) :
    (appendRec s ctx kind phase ctile disp ord pos body).pending = s.pending := by
  unfold appendRec
  split <;> simp

@[simp] theorem captureCmd_pending (c : Cmd) : (captureCmd s c).pending = s.pending := by
  unfold captureCmd
  dsimp only
  (repeat' split) <;> simp

@[simp] theorem captureOpen_pending (c : Cmd) (ctx handle : Nat) : (captureOpen s c ctx handle).pending = s.pending := by
  unfold captureOpen
  dsimp only
  (repeat' split) <;> simp

@[simp] theorem done_pending (c : Cmd) (result0 : Nat) : (done s c result0).pending = s.pending := by simp [done]

@[simp] theorem replayExec_pending (ctx ctile : Nat) (x : Exec) : (replayExec s ctx ctile x).pending = s.pending := by simp [replayExec]

@[simp] theorem captureExec_pending (ctx ctile : Nat) (x : Exec) : (captureExec s ctx ctile x).pending = s.pending := by
  unfold captureExec
  split <;> simp

@[simp] theorem captureVout_pending (ctx ctile : Nat) (x : Exec) (pc count : Nat) (vals : List Byte) :
    (captureVout s ctx ctile x pc count vals).pending = s.pending := by
  unfold captureVout
  split <;> simp

/-! ## Serving -/

@[simp] theorem updVec_pending (ctx disp : Nat) (f : Vec → Vec) : (updVec s ctx disp f).pending = s.pending := by simp [updVec]

@[simp] theorem settle_pending (handle : Nat) : (settle s handle).pending = s.pending := by
  unfold settle
  split
  · rfl
  · dsimp only
    split
    · rfl
    · split
      · refine (foldl_pending (fun t c => ?_) ..).trans (by simp)
        split <;> simp
      · rfl

@[simp] theorem spendBound_pending (bs : List Bound) : (spendBound s bs).pending = s.pending := by simp [spendBound]

@[simp] theorem endReqCmd_pending (c : Cmd) (status result0 warn : Nat) : (endReqCmd s c status result0 warn).pending = s.pending := by
  unfold endReqCmd
  dsimp only
  (repeat' split) <;> simp

@[simp] theorem endReqBusy_pending (c : Cmd) (status result0 : Nat) : (endReqBusy s c status result0).pending = s.pending := by simp [endReqBusy]

@[simp] theorem endToken_pending (c : Cmd) (result0 : Nat) : (endToken s c result0).pending = s.pending := by
  unfold endToken
  split <;> simp

@[simp] theorem withdrawn_pending (c : Cmd) : (withdrawn s c).pending = s.pending := by simp [withdrawn]

@[simp] theorem advance_pending (v : Vec) : (advance s v).pending = s.pending := by
  unfold advance
  dsimp only
  (repeat' split) <;> simp

@[simp] theorem cancelReq_pending (handle before : Nat) : (cancelReq s handle before).pending = s.pending := by
  unfold cancelReq
  split
  · rfl
  · dsimp only
    rw [settle_pending, State.updReq_pending]
    refine foldl_pending (fun t c => ?_) ..
    split <;> simp

@[simp] theorem admitChunk_pending (c : Cmd) : (admitChunk s c).2.1.pending = s.pending := by
  unfold admitChunk
  dsimp only
  (repeat' split) <;> simp

@[simp] theorem enter_pending (ctx : Nat) (x : Ctx) (xr : ExecRec) (bags : List Bag) (ring seq : Nat) (bound : List Bound) (draft : Bool)
    (aborts : Nat) : (enter s ctx x xr bags ring seq bound draft aborts).pending = s.pending := by
  simp [enter]

@[simp] theorem dispatchCmd_pending (ctx : Nat) (x : Ctx) (c : Cmd) (bound : List Bound) : (dispatchCmd s ctx x c bound).pending = s.pending := by
  simp [dispatchCmd]

@[simp] theorem tryPicks_pending (ctx : Nat) (x : Ctx) (l : List Pick) {s : State} (g : Bool × Bool × Bool) :
    (tryPicks ctx x l s g).1.pending = s.pending := by
  induction l generalizing s g with
  | nil => rfl
  | cons p l ih =>
    unfold tryPicks
    split
    · dsimp only
      refine fst_pending_of_ite (ih g) (fst_pending_of_ite (ih _) ?_)
      have admitted := admitChunk_pending (s := s) p.cmd
      split
      next e => simpa using pending_of_triple admitted e
      next e =>
        rw [ih, ← pending_of_triple admitted e]
        split <;> simp
    · exact ih g

@[simp] theorem redoStep_pending (x : Ctx) (e : CStep) : (redoStep s x e).pending = s.pending := by simp [redoStep]

@[simp] theorem chooseVec_pending (ctx : Nat) (x : Ctx) : (chooseVec s ctx x).1.pending = s.pending := by
  unfold chooseVec
  dsimp only
  (repeat' split) <;> simp

@[simp] theorem countDefers_pending (g : Bool × Bool × Bool) : (countDefers s g).pending = s.pending := by simp [countDefers]

@[simp] theorem boundaryLocal_pending (ctx : Nat) (x : Ctx) : (boundaryLocal s ctx x).pending = s.pending := by simp [boundaryLocal]

@[simp] theorem chunkRetry_pending (c : Cmd) : (chunkRetry s c).pending = s.pending := by
  have admitted := admitChunk_pending (s := s) c
  unfold chunkRetry
  split <;> next e => simpa using pending_of_triple admitted e

/-! ## Request commands -/

@[simp] theorem onReq_pending {c : Cmd} {lostOk draftOk : Bool} {f : Req → State} (each : ∀ r, (f r).pending = s.pending) :
    (onReq s c lostOk draftOk f).pending = s.pending := by
  unfold onReq
  (repeat' split) <;> simp [each]

@[simp] theorem finishCopy_pending (c : Cmd) (r : Rec) : (finishCopy s c r).pending = s.pending := by simp [finishCopy]

@[simp] theorem onStep_pending {c : Cmd} {r : Req} {f : State} (same : f.pending = s.pending) : (onStep s c r f).pending = s.pending := by
  unfold onStep
  dsimp only
  (repeat' split) <;> simp [same]

@[simp] theorem beginReq_pending (c : Cmd) : (beginReq s c).pending = s.pending := by simp [beginReq]

@[simp] theorem tooLong_pending (c : Cmd) : (tooLong s c).pending = s.pending := by simp [tooLong]

@[simp] theorem openReq_pending (c : Cmd) (draft : Option Nat) (px : Option Prefix) : (openReq s c draft px).pending = s.pending := by
  unfold openReq
  dsimp only
  (repeat' split) <;> simp

theorem execReqOpen_answers (ring seq : Nat) : Answers s (execReqOpen ring seq s) :=
  ⟨_, rfl, onReady_pending fun c => by dsimp only; (repeat' split) <;> simp⟩

theorem execReqAppend_answers (ring seq : Nat) : Answers s (execReqAppend ring seq s) := ⟨_, rfl, onReady_pending fun c => by
  split
  · rfl
  · refine onReq_pending fun r => ?_
    (repeat' split) <;> simp⟩

theorem execReqStep_answers (ring seq : Nat) : Answers s (execReqStep ring seq s) := ⟨_, rfl, onReady_pending fun c => by simp⟩

theorem execReqVerify_answers (ring seq : Nat) : Answers s (execReqVerify ring seq s) := ⟨_, rfl, onReady_pending fun c => by
  split
  · rfl
  · refine onReq_pending fun r => onStep_pending ?_
    dsimp only
    (repeat' split) <;> simp⟩

theorem execReqClose_answers (ring seq : Nat) : Answers s (execReqClose ring seq s) := ⟨_, rfl, by simp⟩

theorem execReqCancel_answers (ring seq : Nat) : Answers s (execReqCancel ring seq s) := ⟨_, rfl, by simp⟩

theorem execReqQuery_answers (ring seq : Nat) : Answers s (execReqQuery ring seq s) := ⟨_, rfl, by simp⟩

@[simp] theorem pinPrefix_pending (c : Cmd) (r : Req) (n : Nat) : (pinPrefix s c r n).pending = s.pending := by simp [pinPrefix]

theorem execPrefixPin_answers (ring seq : Nat) : Answers s (execPrefixPin ring seq s) := ⟨_, rfl, by simp⟩

theorem execPrefixRelease_answers (ring seq : Nat) : Answers s (execPrefixRelease ring seq s) :=
  ⟨_, rfl, onReady_pending fun c => by dsimp only; (repeat' split) <;> simp⟩

theorem execSpillReturn_answers : Answers s (execSpillReturn s) := ⟨_, rfl, by simp⟩

theorem execAppendChunkRetry_answers (ring seq : Nat) : Answers s (execAppendChunkRetry ring seq s) := ⟨_, rfl, by (repeat' split) <;> simp⟩

theorem execAppendChunkTimeout_answers (ring seq : Nat) : Answers s (execAppendChunkTimeout ring seq s) := ⟨_, rfl, by (repeat' split) <;> simp⟩

theorem execFlueLoadWindow_answers : Answers s (execFlueLoadWindow s) := ⟨_, rfl, by simp⟩

/-! ## Context commands -/

@[simp] theorem onCtx_pending {c : Cmd} {f : Ctx → State} (each : ∀ x, (f x).pending = s.pending) : (onCtx s c f).pending = s.pending := by
  unfold onCtx
  (repeat' split) <;> simp [each]

theorem onLong_pending {opc ring seq : Nat} {start : Cmd → State → Option State} {fin : Cmd → State → State}
    (starts : ∀ c t, start c s = some t → t.pending = s.pending) (ends : ∀ c, (fin c s).pending = s.pending) :
    (onLong opc ring seq start fin s).pending = s.pending := by
  unfold onLong
  split
  · rfl
  · split
    · rfl
    · split
      · split
        · rfl
        · split
          next starts' => exact starts _ _ starts'
          next => exact acceptLong_pending ..
      · split
        · exact ends _
        · rfl

theorem execCtxCreate_answers (ring seq : Nat) : Answers s (execCtxCreate ring seq s) :=
  ⟨_, rfl, onReady_pending fun c => by dsimp only; (repeat' split) <;> simp⟩

@[simp] theorem settleCtx_pending (ctx : Nat) : (settleCtx s ctx).pending = s.pending := by
  unfold settleCtx
  split
  · rfl
  · dsimp only
    split
    · rfl
    · refine (foldl_pending (fun t c => ?_) ..).trans (by simp)
      split <;> simp

theorem execCtxDestroy_answers (ring seq : Nat) : Answers s (execCtxDestroy ring seq s) := ⟨_, rfl, onReady_pending fun c => by
  split
  · simp
  · split
    · simp
    · split
      · simp
      · dsimp only
        rw [settleCtx_pending, putCmd_pending, State.updCtx_pending]
        refine foldl_pending (fun t d => ?_) ..
        split <;> simp⟩

theorem execCtxLoad_answers (ring seq : Nat) (reads : List LineRead) : Answers s (execCtxLoad ring seq reads s) :=
  ⟨_, rfl, onLong_pending (fun c t h => by (repeat' split at h) <;> cases h <;> simp) fun c => onCtx_pending fun x => by
  split
  · simp
  · dsimp only
    (repeat' split) <;> simp⟩

theorem execVariantLoad_answers (ring seq : Nat) : Answers s (execVariantLoad ring seq s) :=
  ⟨_, rfl, onReady_pending fun c => onCtx_pending fun x => by
  split
  · simp
  · dsimp only
    (repeat' split) <;> simp⟩

theorem execVariantDrop_answers (ring seq : Nat) : Answers s (execVariantDrop ring seq s) := ⟨_, rfl, by simp⟩

theorem execTableLoad_answers (ring seq : Nat) : Answers s (execTableLoad ring seq s) :=
  ⟨_, rfl, onLong_pending (fun c t h => by (repeat' split at h) <;> cases h <;> simp) fun c => onCtx_pending fun x => by
  split
  · simp
  · dsimp only
    (repeat' split) <;> simp⟩

@[simp] theorem keepRow_pending (ctx stamp table row : Nat) (bytes : List Byte) : (keepRow s ctx stamp table row bytes).pending = s.pending := by
  simp [keepRow]

@[simp] theorem pruneOlder_pending (ctx : Nat) : (pruneOlder s ctx).pending = s.pending := by simp [pruneOlder]

@[simp] theorem applyUpd_pending (ctx stamp : Nat) (u : TUpd) : (applyUpd s ctx stamp u).pending = s.pending := by
  unfold applyUpd
  split <;> simp

@[simp] theorem applyUpdates_pending (ctx : Nat) : (applyUpdates s ctx).pending = s.pending := by
  unfold applyUpdates
  split <;> simp

theorem execTableUpdate_answers (ring seq : Nat) : Answers s (execTableUpdate ring seq s) :=
  ⟨_, rfl, onReady_pending fun c => onCtx_pending fun x => by
  split
  · simp
  · dsimp only
    (repeat' split) <;> simp⟩

theorem execTableUpdateApply_answers (ctx : Nat) : Answers s (execTableUpdateApply ctx s) := ⟨_, rfl, by (repeat' split) <;> simp⟩

@[simp] theorem onPanel_pending {c : Cmd} {f : Panel → Nat → State} (each : ∀ d t, (f d t).pending = s.pending) :
    (onPanel s c f).pending = s.pending :=
  onCtx_pending fun x => by (repeat' split) <;> simp [each]

theorem execPanelRead_answers (ring seq : Nat) : Answers s (execPanelRead ring seq s) := ⟨_, rfl, by simp⟩

theorem execPanelWrite_answers (ring seq : Nat) : Answers s (execPanelWrite ring seq s) :=
  ⟨_, rfl, onReady_pending fun c => onPanel_pending fun p t => by dsimp only; (repeat' split) <;> simp⟩

/-! ## Chimney steps -/

@[simp] theorem commitPath_pending (slot root step : Nat) (path : List Nat) : (commitPath s slot root step path).pending = s.pending := by
  unfold commitPath
  split
  · rfl
  · dsimp only
    rw [State.updReq_pending]
    refine foldl_pending (fun t pair => ?_) ..
    refine (foldl_pending (fun u e => ?_) ..).trans (by simp)
    split
    · simp
    · split <;> simp

@[simp] theorem updStep_pending (n : Nat) (f : CStep → CStep) : (updStep s n f).pending = s.pending := by simp [updStep]

@[simp] theorem dropStep_pending (n : Nat) : (dropStep s n).pending = s.pending := by simp [dropStep]

@[simp] theorem sendMirror_pending (handle slot pair p : Nat) : (sendMirror s handle slot pair p).pending = s.pending := by
  unfold sendMirror
  (repeat' split) <;> simp

@[simp] theorem commitLocal_pending (x : CStep) : (commitLocal s x).pending = s.pending := by
  unfold commitLocal
  dsimp only
  simp only [dropStep_pending, ite_pending, State.updReq_pending, State.updChim_pending, ite_self]
  rw [foldl_pending (fun _ _ => sendMirror_pending ..)]
  refine (foldl_pending (fun t id => ?_) ..).trans (by simp)
  rw [dropRef_pending]
  split
  · rfl
  · split <;> simp

@[simp] theorem commitReady_pending (n : Nat) {s : State} : (commitReady n s).pending = s.pending := by
  induction n generalizing s with
  | zero => rfl
  | succ n ih =>
    unfold commitReady
    split
    · rfl
    · rw [ih]
      simp

@[simp] theorem tryCommit_pending : (tryCommit s).pending = s.pending := by simp [tryCommit]

@[simp] theorem trySendDone_pending (n : Nat) : (trySendDone s n).pending = s.pending := by
  unfold trySendDone
  split <;> simp

@[simp] theorem stepEnded_pending (v : Vec) : (stepEnded s v).pending = s.pending := by simp [stepEnded]

@[simp] theorem vecLeave_pending (ctx : Nat) (v : Vec) : (vecLeave s ctx v).pending = s.pending := by simp [vecLeave]

end Sys2Proof.Machine
end
section
/-! The queue of waiting commands along the operations of the model, continued: one rule an operation (01_machine). -/

namespace Sys2Proof.Machine

variable {s : State}

/-! ## Executions -/

@[simp] theorem stopProg_pending (a : At) (cause : Nat) : (stopProg s a cause).pending = s.pending := by simp [stopProg]

@[simp] theorem rdP_queue {q : List Instr} {a : At} {p e n : Nat} {f : List Byte → Eff} (each : ∀ l, (f l).queue q = q) :
    (rdP s a p e n f).queue q = q := by
  unfold rdP
  split <;> simp [each]

@[simp] theorem wrP_queue {q : List Instr} {a : At} {p e : Nat} {l : List Byte} {f : State → Eff} (same : s.pending = q)
    (each : ∀ t, t.pending = q → (f t).queue q = q) : (wrP s a p e l f).queue q = q := by
  unfold wrP
  split
  · rfl
  · exact each _ (by simpa using same)

@[simp] theorem rdF_queue {q : List Instr} {a : At} {p e n : Nat} {f : List F32 → Eff} (each : ∀ l, (f l).queue q = q) :
    (rdF s a p e n f).queue q = q := by
  unfold rdF
  exact rdP_queue fun _ => each _

@[simp] theorem wrF_queue {q : List Instr} {a : At} {p e : Nat} {l : List F32} {f : State → Eff} (same : s.pending = q)
    (each : ∀ t, t.pending = q → (f t).queue q = q) : (wrF s a p e l f).queue q = q :=
  wrP_queue same each

@[simp] theorem rdA_queue {q : List Instr} {a : At} {p e n : Nat} {f : List Int → Eff} (each : ∀ l, (f l).queue q = q) :
    (rdA s a p e n f).queue q = q := by
  unfold rdA
  exact rdP_queue fun _ => each _

@[simp] theorem wrA_queue {q : List Instr} {a : At} {p e : Nat} {l : List Int} {f : State → Eff} (same : s.pending = q)
    (each : ∀ t, t.pending = q → (f t).queue q = q) : (wrA s a p e l f).queue q = q :=
  wrP_queue same each

@[simp] theorem updExec_pending (t : Nat) (f : Exec → Exec) : (updExec s t f).pending = s.pending := by simp [updExec]

@[simp] theorem issued_pending (a : At) (out : List Byte) (fin : Bool) (pcie : Nat) : (issued s a out fin pcie).pending = s.pending := by
  simp [issued]

@[simp] theorem onIssue_pending {opc t : Nat} {f : State → At → Eff} (each : ∀ a, (f s a).queue s.pending = s.pending) :
    (onIssue opc t f s).pending = s.pending := by
  unfold onIssue
  split
  next => rfl
  next a _ =>
    have kept := each a
    split
    · rfl
    · split <;> simp_all

@[simp] theorem markDone_pending (t n : Nat) : (markDone s t n).pending = s.pending := by simp [markDone]

@[simp] theorem duePairs_pending (slot disp : Nat) (pairs : List Nat) : (duePairs s slot disp pairs).pending = s.pending := by simp [duePairs]

@[simp] theorem tileEnded_pending (ctx disp tiles : Nat) : (tileEnded s ctx disp tiles).pending = s.pending := by
  unfold tileEnded
  split <;> simp

theorem execExecutionStart_answers (tile : Nat) : Answers s (execExecutionStart tile s) := ⟨_, rfl, by dsimp only; (repeat' split) <;> simp⟩

theorem execExecutionEnd_answers (tile : Nat) : Answers s (execExecutionEnd tile s) := ⟨_, rfl, by dsimp only; (repeat' split) <;> simp⟩

theorem execInstructionComplete_answers (tile issue : Nat) : Answers s (execInstructionComplete tile issue s) :=
  ⟨_, rfl, by (repeat' split) <;> simp⟩

theorem execExecLimitExpire_answers (tile : Nat) : Answers s (execExecLimitExpire tile s) := ⟨_, rfl, by dsimp only; (repeat' split) <;> simp⟩

theorem execWaitCtr_answers (tile : Nat) : Answers s (execWaitCtr tile s) := ⟨_, rfl, by simp⟩

theorem execSignal_answers (tile : Nat) : Answers s (execSignal tile s) := ⟨_, rfl, by simp⟩

theorem execSignalArrival_answers (tile : Nat) : Answers s (execSignalArrival tile s) := ⟨_, rfl, by dsimp only; (repeat' split) <;> simp⟩

theorem execLoopBody_answers (tile : Nat) : Answers s (execLoopBody tile s) := ⟨_, rfl, by simp⟩

theorem execBr_answers (tile : Nat) : Answers s (execBr tile s) := ⟨_, rfl, by (repeat' split) <;> simp⟩

theorem execEndExec_answers (tile : Nat) : Answers s (execEndExec tile s) := ⟨_, rfl, by simp⟩

theorem execNopInstr_answers (tile : Nat) : Answers s (execNopInstr tile s) := ⟨_, rfl, onIssue_pending fun a => by simp⟩

@[simp] theorem noVout_pending (a : At) : (noVout s a).pending = s.pending := by simp [noVout]

theorem execTimeread_answers (tile : Nat) : Answers s (execTimeread tile s) :=
  ⟨_, rfl, onIssue_pending fun a => by dsimp only; (repeat' split) <;> simp +contextual⟩

/-! ## The flue path -/

@[simp] theorem offerJob_pending (j : Job) : (offerJob s j).pending = s.pending := by simp [offerJob]

@[simp] theorem pumpJobs_pending (tile n : Nat) {s : State} : (pumpJobs tile n s).pending = s.pending := by
  exact pumpJobs_frame (g := State.pending) (fun _ _ _ => State.setFlue_pending ..) (fun _ _ => State.updTile_pending ..)
    (fun _ _ _ _ _ => State.updTile_pending ..) ..

@[simp] theorem sendJobs_pending (tile : Nat) (js : List Job) : (sendJobs s tile js).pending = s.pending := by simp [sendJobs]

@[simp] theorem runJob_pending {engine : Nat} {k : FlueKind} {f : State → Job → State} (each : ∀ t j, (f t j).pending = t.pending) :
    (runJob s engine k f).pending = s.pending := by
  unfold runJob
  (repeat' split) <;> simp [each]

@[simp] theorem sendFlit_pending (f : Flit) : (sendFlit s f).pending = s.pending := by simp [sendFlit]

@[simp] theorem releaseSet_pending (j : Job) (rows : List (Nat × Nat)) : (releaseSet s j rows).pending = s.pending := by simp [releaseSet]

@[simp] theorem hardFault_pending (array row source sets : Nat) : (hardFault s array row source sets).pending = s.pending := by simp [hardFault]

theorem execRecompute_answers (engine : Nat) (reads : List RowRead) : Answers s (execRecompute engine reads s) :=
  ⟨_, rfl, runJob_pending fun t j => by dsimp only; (repeat' split) <;> simp⟩

theorem execOutlier_answers (engine : Nat) : Answers s (execOutlier engine s) := ⟨_, rfl, by simp⟩

theorem execDelta_answers (engine : Nat) (parity : Bool) : Answers s (execDelta engine parity s) := ⟨_, rfl, by simp⟩

theorem execFlueResultArrival_answers (tile : Nat) : Answers s (execFlueResultArrival tile s) :=
  ⟨_, rfl, by dsimp only; (repeat' split) <;> simp⟩

theorem execFreeFlue_answers (engine : Nat) (kind : FlueKind) : Answers s (execFreeFlue engine kind s) :=
  ⟨_, rfl, by dsimp only; (repeat' split) <;> simp⟩

/-! ## Arrays -/

@[simp] theorem startFires_pending (t cls variant : Nat) (fs : List (Nat × Fire)) : (startFires s t cls variant fs).pending = s.pending := by
  simp [startFires]

@[simp] theorem fireEff_queue (v : Bool) (a : At) : (fireEff v s a).queue s.pending = s.pending := by simp [fireEff]

theorem execFire_answers (tile : Nat) : Answers s (execFire tile s) := ⟨_, rfl, by simp⟩

theorem execFirev_answers (tile : Nat) : Answers s (execFirev tile s) := ⟨_, rfl, by simp⟩

@[simp] theorem rateEvent_pending (array fails : Nat) : (rateEvent s array fails).pending = s.pending := by simp [rateEvent]

@[simp] theorem closeWindow_pending (array : Nat) : (closeWindow s array).pending = s.pending := by simp [closeWindow]

@[simp] theorem closeIfFull_pending (array : Nat) : (closeIfFull s array).pending = s.pending := by simp [closeIfFull]

theorem execWindowClose_answers (array : Nat) : Answers s (execWindowClose array s) := ⟨_, rfl, by simp⟩

@[simp] theorem slotArray_pending (st : State × SMap Int × List Job) (t : Nat) (f : Fire) (blank : Job) (a : Nat) (devs : List ConvDev) :
    (slotArray st t f blank a devs).1.pending = st.1.pending := by
  unfold slotArray
  dsimp only
  (repeat' split) <;> simp

theorem execFireSlot_answers (tile bank : Nat) (devs : List ConvDev) : Answers s (execFireSlot tile bank devs s) :=
  ⟨_, rfl, by dsimp only; (repeat' split) <;> simp⟩

theorem execStorageReport_answers (tile : Nat) : Answers s (execStorageReport tile s) := ⟨_, rfl, by dsimp only; (repeat' split) <;> simp⟩

@[simp] theorem repairRow_pending (array row source was : Nat) (back : Option Nat) :
    (repairRow s array row source was back).1.pending = s.pending := by
  unfold repairRow
  dsimp only
  (repeat' split) <;> simp

@[simp] theorem rewritten_pending (t arr : Nat) (rows : List Nat) : (rewritten s t arr rows).pending = s.pending := by simp [rewritten]

@[simp] theorem refire_pending (t : Nat) (r : Repair) : (refire s t r).pending = s.pending := by
  unfold refire
  split <;> simp

theorem execStorageRepair_answers (array : Nat) (reads : List RowRead) : Answers s (execStorageRepair array reads s) :=
  ⟨_, rfl, by dsimp only; (repeat' split) <;> simp⟩

theorem execScrubRow_answers (array : Nat) (reads : List RowRead) : Answers s (execScrubRow array reads s) := ⟨_, rfl, by simp⟩

/-! ## Moves, sums and transfers -/

@[simp] theorem setNonfinite_pending (a : At) (bad : Bool) : (setNonfinite s a bad).pending = s.pending := by simp [setNonfinite]

@[simp] theorem setZeroBlock_pending (a : At) (z : Bool) : (setZeroBlock s a z).pending = s.pending := by
  unfold setZeroBlock
  dsimp only
  (repeat' split) <;> simp

theorem execPreload_answers (tile : Nat) : Answers s (execPreload tile s) := ⟨_, rfl, onIssue_pending fun a => by
  dsimp only
  split
  · exact wrA_queue rfl fun t same => same
  · exact rdP_queue fun h => rdF_queue fun ys => wrA_queue (by simp) fun t same => same⟩

theorem execPromote_answers (tile : Nat) : Answers s (execPromote tile s) :=
  ⟨_, rfl, onIssue_pending fun a => by dsimp only; (repeat' split) <;> simp +contextual⟩

theorem execMove_answers (tile : Nat) : Answers s (execMove tile s) := ⟨_, rfl, onIssue_pending fun a => by simp +contextual⟩

theorem execQuant_answers (tile : Nat) : Answers s (execQuant tile s) := ⟨_, rfl, onIssue_pending fun a => by simp +contextual⟩

theorem execDeq_answers (tile : Nat) : Answers s (execDeq tile s) :=
  ⟨_, rfl, onIssue_pending fun a => rdP_queue fun h => rdA_queue fun vs => wrP_queue rfl fun t same => by simpa using same⟩

theorem deliver_pending {tile : Nat} {r : Recv} {line : Nat} {ls : List (List Byte)} {t : State}
    (h : deliver s tile r line ls = some t) : t.pending = s.pending := by
  unfold deliver at h
  split at h
  · exact nomatch h
  · split at h <;> (cases h; simp)

@[simp] theorem recvExcess_pending (tile : Nat) (r : Recv) : (recvExcess s tile r).pending = s.pending := by
  unfold recvExcess
  split <;> simp

@[simp] theorem deliverAll_pending (tile : Nat) (r : Recv) (ls : List (List Byte)) : (deliverAll s tile r ls).pending = s.pending := by
  unfold deliverAll
  split
  · exact recvExcess_pending ..
  next sent => exact deliver_pending sent

@[simp] theorem sendData_pending (role ctile chan step : Nat) (ls : List (List Byte)) : (sendData s role ctile chan step ls).pending = s.pending := by
  simp [sendData]

theorem execSend_answers (tile : Nat) : Answers s (execSend tile s) := ⟨_, rfl, onIssue_pending fun a => by
  refine rdP_queue fun bs => ?_
  dsimp only
  (repeat' split) <;> simp⟩

theorem execRecv_answers (tile : Nat) : Answers s (execRecv tile s) :=
  ⟨_, rfl, onIssue_pending fun a => by dsimp only; (repeat' split) <;> simp +contextual⟩

theorem execReduce_answers (tile : Nat) : Answers s (execReduce tile s) := ⟨_, rfl, onIssue_pending fun a => by
  dsimp only
  split
  · exact rdA_queue fun own => rdA_queue fun ps => wrA_queue rfl fun t same => same
  · exact rdF_queue fun ps => wrF_queue rfl fun t same => same⟩

/-! ## Vector functions, tables and sampling -/

@[simp] theorem rdB_queue {q : List Instr} {a : At} {p e n : Nat} {f : List F32 → Eff} (each : ∀ l, (f l).queue q = q) :
    (rdB s a p e n f).queue q = q := by
  unfold rdB
  exact rdP_queue fun _ => each _

theorem execNorm_answers (tile : Nat) : Answers s (execNorm tile s) := ⟨_, rfl, onIssue_pending fun a => by
  refine rdF_queue fun xs => ?_
  dsimp only
  split
  · exact rdF_queue fun v => rdP_queue fun eps => rdB_queue fun gamma => rdB_queue fun beta => wrF_queue rfl fun t same => by simpa using same
  · refine wrF_queue rfl fun t same => ?_
    split
    · exact same
    · exact rdP_queue fun eps => rdB_queue fun gamma => rdB_queue fun beta => wrF_queue same fun u same => by simpa using same⟩

theorem execAct_answers (tile : Nat) : Answers s (execAct tile s) := ⟨_, rfl, onIssue_pending fun a => by
  refine rdF_queue fun xs => ?_
  dsimp only
  split
  · exact rdF_queue fun ys => wrF_queue rfl fun t same => same
  · exact wrF_queue rfl fun t same => same⟩

theorem execRope_answers (tile : Nat) : Answers s (execRope tile s) :=
  ⟨_, rfl, onIssue_pending fun _ => rdF_queue fun _ => rdF_queue fun _ => wrF_queue rfl fun _ same => same⟩

@[simp] theorem hotRead_pending (k : Nat × Nat × Nat) (bytes : Nat) : (hotRead s k bytes).1.pending = s.pending := by
  unfold hotRead
  split <;> simp

@[simp] theorem askRows_pending (ctx table : Nat) (t : Table) (step : Nat) (rows : List Nat) :
    (askRows s ctx table t step rows).pending = s.pending := by
  simp [askRows]

@[simp] theorem tableRow_pending (x : Ctx) (ver ctx table : Nat) (t : Table) (row : Nat) :
    (tableRow s x ver ctx table t row).2.1.pending = s.pending := by
  unfold tableRow
  dsimp only
  (repeat' split) <;> simp

@[simp] theorem gatherLost_pending (a : At) (role : Nat) : (gatherLost s a role).pending = s.pending := by
  unfold gatherLost
  dsimp only
  (repeat' split) <;> simp

theorem execEmbg_answers (tile : Nat) : Answers s (execEmbg tile s) :=
  ⟨_, rfl, onIssue_pending fun a => by dsimp only; (repeat' split) <;> simp +contextual⟩

@[simp] theorem sampleEnd_queue (a : At) (r : Req) (ranked : List (Nat × F32)) : (sampleEnd s a r ranked).queue s.pending = s.pending := by
  unfold sampleEnd
  extract_lets out kept use go take first emit fresh ran
  have ends : ∀ t token, t.pending = s.pending → (go t token).queue s.pending = s.pending := fun t token same =>
    wrP_queue (by split <;> simpa using same) fun u same => same
  split
  · exact ends _ _ rfl
  · have runs : ∀ t, t.pending = s.pending → (ran t).queue s.pending = s.pending := by
      intro t same
      simp only [ran, emit, fresh]
      split <;> exact ends _ _ (by simpa using same)
    split
    · exact runs _ rfl
    · exact runs _ (noVout_pending a)
    · exact ends _ _ rfl

theorem execSample_answers (tile : Nat) : Answers s (execSample tile s) :=
  ⟨_, rfl, onIssue_pending fun a => by dsimp only; (repeat' split) <;> simp +contextual⟩

/-! ## KV instructions -/

@[simp] theorem rdH_queue {q : List Instr} {a : At} {p e n : Nat} {f : List BF16 → Eff} (each : ∀ l, (f l).queue q = q) :
    (rdH s a p e n f).queue q = q := by
  unfold rdH
  exact rdP_queue fun _ => each _

@[simp] theorem kvappHead_pending (a : At) (slot pair dh : Nat) (key : List BF16) (val : List BF16) :
    (kvappHead s a slot pair dh key val).pending = s.pending := by
  unfold kvappHead
  split <;> simp

theorem execKvapp_answers (tile : Nat) : Answers s (execKvapp tile s) := ⟨_, rfl, onIssue_pending fun a => by
  dsimp only
  split
  · rfl
  · refine rdH_queue fun ks => rdH_queue fun vs => ?_
    simp⟩

theorem execHobFlush_answers (slot layer head : Nat) : Answers s (execHobFlush slot layer head s) :=
  ⟨_, rfl, by dsimp only; (repeat' split) <;> simp⟩

@[simp] theorem noteReads_pending (a : At) (ids : List Nat) : (noteReads s a ids).pending = s.pending := by simp [noteReads]

theorem execKvidx_answers (tile : Nat) : Answers s (execKvidx tile s) := ⟨_, rfl, onIssue_pending fun a => by
  dsimp only
  split
  · rfl
  · refine rdF_queue fun q => ?_
    split
    · rfl
    · exact wrP_queue (by simp) fun t same => same⟩

theorem execKvgath_answers (tile : Nat) : Answers s (execKvgath tile s) := ⟨_, rfl, onIssue_pending fun a => by
  dsimp only
  split
  · rfl
  · refine rdP_queue fun h => rdP_queue fun l => ?_
    split
    · rfl
    · rw [Eff.queue_ok, reapPages_pending, State.updTile_pending, noteReads_pending, State.updReq_pending]
      refine foldl_pending (fun t p => ?_) ..
      split <;> simp⟩

@[simp] theorem creditPages_pending (a : At) (pair : Nat) (dens : List F32) : (creditPages s a pair dens).pending = s.pending := by
  simp [creditPages]

theorem execAttn_answers (tile : Nat) : Answers s (execAttn tile s) := ⟨_, rfl, onIssue_pending fun a => by
  dsimp only
  split
  · refine rdF_queue fun vs => rdF_queue fun dens => wrF_queue rfl fun t same => ?_
    split <;> simpa using same
  · split
    · rfl
    · refine rdF_queue fun q => ?_
      split
      · exact wrF_queue rfl fun t same => same
      · split
        · exact wrF_queue (by split <;> simp) fun t same => by simpa using same
        · exact rdF_queue fun mxs => wrF_queue (by split <;> simp) fun t same => wrF_queue same fun u same => same⟩

@[simp] theorem evictBound_pending (step : Nat) (b : Bound) : (evictBound s step b).pending = s.pending := by simp [evictBound]

theorem execKvevict_answers (tile : Nat) : Answers s (execKvevict tile s) :=
  ⟨_, rfl, onIssue_pending fun a => by dsimp only; (repeat' split) <;> simp +contextual⟩

theorem execVerify_answers (tile : Nat) : Answers s (execVerify tile s) := ⟨_, rfl, onIssue_pending fun a => by
  dsimp only
  split
  · rfl
  · refine rdP_queue fun bs => ?_
    (repeat' split) <;> simp⟩

end Sys2Proof.Machine
end
section
/-! The queue of waiting commands along the operations of the model, continued: one rule an operation (01_machine). -/

namespace Sys2Proof.Machine

variable {s : State}

/-! ## The chimney -/

@[simp] theorem endJoin_pending : (endJoin s).pending = s.pending := by
  unfold endJoin
  dsimp only
  (repeat' split) <;> simp

@[simp] theorem checkJoin_pending : (checkJoin s).pending = s.pending := by simp [checkJoin]

theorem execCascadeJoin_answers (ring seq : Nat) : Answers s (execCascadeJoin ring seq s) :=
  ⟨_, rfl, onReady_pending fun c => by dsimp only; (repeat' split) <;> simp⟩

theorem execJoinTimeout_answers (ring seq : Nat) : Answers s (execJoinTimeout ring seq s) := ⟨_, rfl, by (repeat' split) <;> simp⟩

theorem execCascadeLeave_answers (ring seq : Nat) : Answers s (execCascadeLeave ring seq s) := ⟨_, rfl, by simp⟩

theorem execCrownAssign_answers (ring seq : Nat) : Answers s (execCrownAssign ring seq s) := ⟨_, rfl, by simp⟩

theorem execMirrorConfig_answers (ring seq : Nat) : Answers s (execMirrorConfig ring seq s) := ⟨_, rfl, by simp⟩

@[simp] theorem sendTrain_pending (l : LinkId) : (sendTrain s l).pending = s.pending := by simp [sendTrain]

theorem execPortTrained_answers (port : Nat) : Answers s (execPortTrained port s) := ⟨_, rfl, by (repeat' split) <;> simp⟩

@[simp] theorem logPort_pending (code port reason peer ver retx : Nat) : (logPort s code port reason peer ver retx).pending = s.pending := by
  simp [logPort]

@[simp] theorem linkUp_pending (l : LinkId) (v : Nat) : (linkUp s l v).pending = s.pending := by simp [linkUp]

theorem execTrainFrame_answers (port : Nat) (t : TrainIn) : Answers s (execTrainFrame port t s) :=
  ⟨_, rfl, by dsimp only; (repeat' split) <;> simp⟩

theorem execPortRetrain_answers (port : Nat) : Answers s (execPortRetrain port s) := ⟨_, rfl, by (repeat' split) <;> simp⟩

theorem execLossOfSignal_answers (port : Nat) : Answers s (execLossOfSignal port s) := ⟨_, rfl, by simp⟩

@[simp] theorem ackTo_pending (l : LinkId) (lack : Nat) : (ackTo s l lack).pending = s.pending := by simp [ackTo]

@[simp] theorem resend_pending (l : LinkId) (counted : Bool) : (resend s l counted).pending = s.pending := by simp [resend]

@[simp] theorem sendLink_pending (l : LinkId) (flags : Nat) : (sendLink s l flags).pending = s.pending := by simp [sendLink]

@[simp] theorem rejectFrame_pending (l : LinkId) (p : Port) (flags : Nat) : (rejectFrame s l p flags).pending = s.pending := by
  simp [rejectFrame]

theorem execLinkFrame_answers (l : LinkId) (flags lack : Nat) : Answers s (execLinkFrame l flags lack s) :=
  ⟨_, rfl, by dsimp only; (repeat' split) <;> simp⟩

theorem execLackReport_answers (l : LinkId) : Answers s (execLackReport l s) := ⟨_, rfl, by (repeat' split) <;> simp⟩

theorem execRetransmitTimeout_answers (l : LinkId) : Answers s (execRetransmitTimeout l s) := ⟨_, rfl, by (repeat' split) <;> simp⟩

theorem execFullResend_answers (l : LinkId) : Answers s (execFullResend l s) := ⟨_, rfl, by (repeat' split) <;> simp⟩

@[simp] theorem linkDown_pending (l : LinkId) (p : Port) (retx : Nat) : (linkDown s l p retx).pending = s.pending := by simp [linkDown]

theorem execLnkRetryExhausted_answers (l : LinkId) : Answers s (execLnkRetryExhausted l s) := ⟨_, rfl, by (repeat' split) <;> simp⟩

theorem execFrameReceive_answers (l : LinkId) (bytes : List Byte) (room : Bool) : Answers s (execFrameReceive l bytes room s) :=
  ⟨_, rfl, by dsimp only; (repeat' split) <;> simp⟩

theorem execFrameForward_answers (port : Nat) (bytes : List Byte) : Answers s (execFrameForward port bytes s) := ⟨_, rfl, by
  dsimp only
  split
  · rfl
  · split
    · rfl
    · split
      · split <;> simp
      · split
        next e => simpa using pending_of_last (route_pending ..) e
        next e => simpa using pending_of_last (route_pending ..) e⟩

@[simp] theorem onFrame_pending {ty : Nat} {f : Frame → State → State} (each : ∀ x t, (f x t).pending = t.pending) :
    (onFrame ty f s).pending = s.pending := by
  unfold onFrame
  (repeat' split) <;> simp [each]

@[simp] theorem memberReq_pending (ctx gen variant cls len : Nat) : (memberReq s ctx gen variant cls len).2.pending = s.pending := by
  simp [memberReq]

@[simp] theorem prefixPage_pending (ctx slot len pair p : Nat) : (prefixPage s ctx slot len pair p).pending = s.pending := by
  unfold prefixPage
  dsimp only
  (repeat' split) <;> simp

@[simp] theorem prefixPages_pending (ctx slot len : Nat) : (prefixPages s ctx slot len).pending = s.pending := by simp [prefixPages]

@[simp] theorem makeReq_pending (ctx slot handle variant cls len : Nat) : (makeReq s ctx slot handle variant cls len).pending = s.pending := by
  simp [makeReq]

@[simp] theorem ensureReq_pending (ctx handle variant cls len : Nat) : (ensureReq s ctx handle variant cls len).pending = s.pending := by
  unfold ensureReq
  dsimp only
  (repeat' split) <;> simp

@[simp] theorem linkDone_pending (tile : Nat) : (linkDone s tile).pending = s.pending := by simp [linkDone]

@[simp] theorem endShards_pending (tile step : Nat) : (endShards s tile step).pending = s.pending := by
  unfold endShards
  rw [linkDone_pending, State.updTile_pending]
  refine foldl_pending (fun t r => ?_) ..
  split
  · rfl
  next took => exact deliver_pending took

@[simp] theorem discardStep_pending (ctx step : Nat) : (discardStep s ctx step).pending = s.pending := by simp [discardStep]

@[simp] theorem uncountEvict_pending (e : Nat × Bool) : (uncountEvict s e).pending = s.pending := by simp [uncountEvict]

@[simp] theorem abortLocal_pending (x : CStep) : (abortLocal s x).pending = s.pending := by simp [abortLocal]

@[simp] theorem abortHere_pending (n : Nat) : (abortHere s n).pending = s.pending := foldl_pending (fun _ _ => abortLocal_pending ..) ..

@[simp] theorem endAborted_pending (x : CStep) (c : Cmd) (status result0 : Nat) : (endAborted s x c status result0).pending = s.pending := by
  simp [endAborted]

@[simp] theorem settleStep_pending (x : CStep) : (settleStep s x).pending = s.pending := by
  unfold settleStep
  dsimp only
  (repeat' split) <;> simp

@[simp] theorem abortOver_pending (x : CStep) : (abortOver s x).pending = s.pending := by simp [abortOver]

@[simp] theorem sweepAborts_pending : (sweepAborts s).pending = s.pending := by simp [sweepAborts]

@[simp] theorem crownAbort_pending (n : Nat) (why : Option (Nat × Nat)) : (crownAbort s n why).pending = s.pending := by simp [crownAbort]

theorem execAbortFrame_answers : Answers s (execAbortFrame s) := ⟨_, rfl, onFrame_pending fun f t => by dsimp only; (repeat' split) <;> simp⟩

theorem execAbortAck_answers : Answers s (execAbortAck s) := ⟨_, rfl, by simp⟩

theorem execStepTimeout_answers (step : Nat) : Answers s (execStepTimeout step s) := ⟨_, rfl, by dsimp only; (repeat' split) <;> simp⟩

@[simp] theorem tellHalts_pending : (tellHalts s).pending = s.pending := by simp [tellHalts]

@[simp] theorem haltTold_pending (ctx : Nat) : (haltTold s ctx).pending = s.pending := by simp [haltTold]

theorem execStartFrame_answers : Answers s (execStartFrame s) := ⟨_, rfl, by simp⟩

@[simp] theorem warnStep_pending (x : CStep) : (warnStep s x).pending = s.pending := by simp [warnStep]

theorem execDoneFrame_answers : Answers s (execDoneFrame s) := ⟨_, rfl, onFrame_pending fun f t => by dsimp only; (repeat' split) <;> simp⟩

@[simp] theorem memberPath_pending (x : CStep) : (memberPath s x).2.pending = s.pending := by
  unfold memberPath
  split <;> simp

theorem execCommitFrame_answers : Answers s (execCommitFrame s) := ⟨_, rfl, onFrame_pending fun f t => by dsimp only; (repeat' split) <;> simp⟩

theorem execChimneyContextReady_answers (stepNs : List Nat) (caps : List Nat) : Answers s (execChimneyContextReady stepNs caps s) :=
  ⟨_, rfl, by dsimp only; (repeat' split) <;> simp⟩

theorem execDataFrame_answers : Answers s (execDataFrame s) := ⟨_, rfl, onFrame_pending fun f t => by
  split
  · rfl
  · dsimp only
    split
    · rfl
    · split
      · exact recvExcess_pending ..
      next took => rw [linkDone_pending, deliver_pending took]⟩

theorem execCreditFrame_answers : Answers s (execCreditFrame s) := ⟨_, rfl, onFrame_pending fun f t => by dsimp only; (repeat' split) <;> simp⟩

theorem execGatherReq_answers : Answers s (execGatherReq s) := ⟨_, rfl, onFrame_pending fun f t => by dsimp only; (repeat' split) <;> simp⟩

theorem execGatherRsp_answers : Answers s (execGatherRsp s) := ⟨_, rfl, onFrame_pending fun f t => by
  have taken := takePiece_pending (s := t) f
  split
  next e => exact pending_of_pair taken e
  next e => simpa using pending_of_pair taken e⟩

theorem execTupdateFrame_answers : Answers s (execTupdateFrame s) := ⟨_, rfl, onFrame_pending fun f t => by
  have taken := takePiece_pending (s := t) f
  split
  next e => exact pending_of_pair taken e
  next e =>
    rw [← pending_of_pair taken e]
    dsimp only
    split <;> simp⟩

@[simp] theorem mirrorReply_pending (dst : Nat) (m : MirrorCopy) (taken : Bool) : (mirrorReply s dst m taken).pending = s.pending := by
  simp [mirrorReply]

theorem execMirrorFrame_answers : Answers s (execMirrorFrame s) := ⟨_, rfl, onFrame_pending fun f t => by
  have taken := takePiece_pending (s := t) f
  split
  next e => exact pending_of_pair taken e
  next e =>
    have kept := pending_of_pair taken e
    extract_lets m rest
    split <;> simpa using kept⟩

@[simp] theorem tellOwners_pending : (tellOwners s).pending = s.pending := by simp [tellOwners]

theorem execHandlerEnd_answers : Answers s (execHandlerEnd s) := ⟨_, rfl, by simp⟩

theorem execMirrorAck_answers : Answers s (execMirrorAck s) := ⟨_, rfl, onFrame_pending fun f t => by dsimp only; (repeat' split) <;> simp⟩

theorem execMirrorFree_answers : Answers s (execMirrorFree s) := ⟨_, rfl, by simp⟩

@[simp] theorem remirror_pending : (remirror s).pending = s.pending := by
  refine foldl_pending (fun t e => ?_) ..
  split
  · rfl
  · split
    · rfl
    · refine foldl_pending (fun u p => foldl_pending (fun w k => ?_) ..) ..
      split <;> simp

theorem execHeartbeatSend_answers : Answers s (execHeartbeatSend s) := ⟨_, rfl, by simp⟩

theorem execHeartbeatFrame_answers : Answers s (execHeartbeatFrame s) := ⟨_, rfl, by simp⟩

@[simp] theorem fenceHere_pending (role by_ : Nat) : (fenceHere s role by_).pending = s.pending := by simp [fenceHere]

@[simp] theorem fenceAborts_pending (role : Nat) : (fenceAborts s role).pending = s.pending := by simp [fenceAborts]

@[simp] theorem fenceRedo_pending (role : Nat) : (fenceRedo s role).pending = s.pending := by simp [fenceRedo]

theorem execHeartbeatSilence_answers (role : Nat) : Answers s (execHeartbeatSilence role s) := ⟨_, rfl, by simp⟩

theorem execFenceFrame_answers : Answers s (execFenceFrame s) := ⟨_, rfl, by simp⟩

@[simp] theorem recoverReq_pending (ctx slot : Nat) (r : Req) : (recoverReq s ctx slot r).pending = s.pending := by simp [recoverReq]

@[simp] theorem recoverAll_pending : (recoverAll s).pending = s.pending := by
  unfold recoverAll
  split
  · rfl
  · refine foldl_pending (fun t slot => ?_) ..
    split
    · rfl
    · split <;> simp

@[simp] theorem dropCrownReqs_pending : (dropCrownReqs s).pending = s.pending := by
  unfold dropCrownReqs
  split <;> simp

@[simp] theorem adopted_pending (role : Nat) : (adopted s role).pending = s.pending := by simp [adopted]

theorem execAnnounceSend_answers (port : Nat) : Answers s (execAnnounceSend port s) := ⟨_, rfl, by (repeat' split) <;> simp⟩

theorem execAnnounceFrame_answers (port chimneyId role peerPort mac : Nat) : Answers s (execAnnounceFrame port chimneyId role peerPort mac s) :=
  ⟨_, rfl, by dsimp only; (repeat' split) <;> simp⟩

@[simp] theorem rebuild_pending (ctx : Nat) (cs : List MirrorCopy) : (rebuild s ctx cs).pending = s.pending := by
  unfold rebuild
  rw [foldl_pending]
  intro t m
  dsimp only
  rw [State.updReq_pending]
  split
  · simp
  · split <;> simp

@[simp] theorem finishAdopt_pending (c : Cmd) (a : Adopt) : (finishAdopt s c a).pending = s.pending := by
  unfold finishAdopt
  dsimp only
  (repeat' split) <;> simp

theorem execFailoverAdopt_answers (ring seq : Nat) : Answers s (execFailoverAdopt ring seq s) := ⟨_, rfl, onLong_pending (fun c t h => by
    split at h
    · cases h; simp
    · split at h
      · cases h; simp
      · split at h <;> cases h <;> simp)
  fun c => by split <;> simp⟩

theorem execXferFrame_answers : Answers s (execXferFrame s) := ⟨_, rfl, onFrame_pending fun f t => by
  have taken := takePiece_pending (s := t) f
  split
  next e => exact pending_of_pair taken e
  next e =>
    rw [← pending_of_pair taken e]
    dsimp only
    (repeat' split) <;> simp⟩

@[simp] theorem abortAdopt_pending : (abortAdopt s).pending = s.pending := by simp [abortAdopt]

end Sys2Proof.Machine
end
section
/-! The queue of waiting commands along the operations of the model, continued: one rule an operation (01_machine). -/

namespace Sys2Proof.Machine

variable {s : State}

/-! ## Calibration -/

@[simp] theorem refreshCal_pending : (refreshCal s).pending = s.pending := by
  unfold refreshCal
  (repeat' split) <;> simp

@[simp] theorem withRun_pending (f : CalRun → CalRun) : (withRun s f).pending = s.pending := by simp [withRun]

theorem execCalRun_answers (ring seq : Nat) : Answers s (execCalRun ring seq s) :=
  ⟨_, rfl, onReady_pending fun c => by dsimp only; (repeat' split) <;> simp⟩

@[simp] theorem calFail_pending (array conv reason die detail unit : Nat) : (calFail s array conv reason die detail unit).pending = s.pending := by
  simp [calFail]

theorem execCalReferenceCheck_answers (ppm : List Int) : Answers s (execCalReferenceCheck ppm s) :=
  ⟨_, rfl, by dsimp only; (repeat' split) <;> simp⟩

@[simp] theorem advanceSeq_pending (slots : Nat) : (advanceSeq s slots).pending = s.pending := by simp [advanceSeq]

@[simp] theorem measurePasses_pending : (measurePasses s).pending = s.pending := by simp [measurePasses]

theorem execCalAttemptEnd_answers (fits : List ConvMeas) : Answers s (execCalAttemptEnd fits s) :=
  ⟨_, rfl, by dsimp only; (repeat' split) <;> simp⟩

theorem execCalTrimLoad_answers : Answers s (execCalTrimLoad s) := ⟨_, rfl, by dsimp only; (repeat' split) <;> simp⟩

@[simp] theorem abortCal_pending : (abortCal s).pending = s.pending := by simp [abortCal]

theorem execCalStatus_answers (ring seq : Nat) : Answers s (execCalStatus ring seq s) := ⟨_, rfl, by simp⟩

@[simp] theorem setArea_pending (toB : Bool) (r : CalRec) : (setArea s toB r).pending = s.pending := by simp [setArea]

@[simp] theorem commitWrite_pending (c : Cmd) : (commitWrite s c).pending = s.pending := by
  unfold commitWrite
  split <;> simp

@[simp] theorem commitSeal_pending (c : Cmd) : (commitSeal s c).pending = s.pending := by
  unfold commitSeal
  dsimp only
  (repeat' split) <;> simp

theorem execCalCommit_answers (ring seq : Nat) : Answers s (execCalCommit ring seq s) := ⟨_, rfl, by (repeat' split) <;> simp⟩

@[simp] theorem dwellFit_pending (array conv : Nat) (t : Option (Int × Nat)) : (dwellFit s array conv t).pending = s.pending := by
  unfold dwellFit
  split <;> simp

theorem execBgCalDwell_answers (fits : List ConvMeas) : Answers s (execBgCalDwell fits s) := ⟨_, rfl, by simp⟩

theorem execRecalDwell_answers (array : Nat) (fits : List ConvMeas) : Answers s (execRecalDwell array fits s) :=
  ⟨_, rfl, by dsimp only; (repeat' split) <;> simp⟩

/-! ## Sweep and self-test -/

@[simp] theorem sweepSlot_pending (array round i : Nat) (devs : List ConvDev) : (sweepSlot s array round i devs).1.pending = s.pending := by
  simp [sweepSlot]

@[simp] theorem sweepSlots_pending (array round slots : Nat) (devs : List (Nat × ConvDev)) :
    (sweepSlots s array round slots devs).1.pending = s.pending := by
  simp [sweepSlots]

@[simp] theorem endRound_pending (kind unit digest : Nat) : (endRound s kind unit digest).pending = s.pending := by simp [endRound]

theorem execSweepRound_answers (kind unit slots : Nat) (devs : List (Nat × ConvDev)) (digest : Nat) :
    Answers s (execSweepRound kind unit slots devs digest s) :=
  ⟨_, rfl, by simp⟩

@[simp] theorem sweepFail_pending (kind unit round : Nat) : (sweepFail s kind unit round).pending = s.pending := by simp [sweepFail]

@[simp] theorem dropDigests_pending (kind unit round : Nat) : (dropDigests s kind unit round).pending = s.pending := by simp [dropDigests]

@[simp] theorem digestsDiffer_pending (kind unit round : Nat) (rerunsAgree : Bool) :
    (digestsDiffer s kind unit round rerunsAgree).pending = s.pending := by
  simp [digestsDiffer]

theorem execSweepDigest_answers (kind unit : Nat) (rerunsAgree : Bool) : Answers s (execSweepDigest kind unit rerunsAgree s) :=
  ⟨_, rfl, by dsimp only; (repeat' split) <;> simp⟩

theorem execSweepSubinterval_answers : Answers s (execSweepSubinterval s) := ⟨_, rfl, by simp⟩

theorem execSweepConfig_answers (ring seq : Nat) : Answers s (execSweepConfig ring seq s) :=
  ⟨_, rfl, onReady_pending fun c => by (repeat' split) <;> simp⟩

theorem execSelfTest_answers (ring seq : Nat) : Answers s (execSelfTest ring seq s) :=
  ⟨_, rfl, onReady_pending fun c => by dsimp only; (repeat' split) <;> simp⟩

@[simp] theorem marchArrays_pending : (marchArrays s).pending = s.pending := by simp [marchArrays]

@[simp] theorem goldCompare_pending (array : Nat) (found : TestFinding) : (goldCompare s array found).pending = s.pending := by
  simp [goldCompare]

@[simp] theorem testFault_pending (domain unit : Nat) : (testFault s domain unit).pending = s.pending := by simp [testFault]

@[simp] theorem phaseEffect_pending (phase unit : Nat) (found : TestFinding) : (phaseEffect s phase unit found).pending = s.pending := by
  unfold phaseEffect
  dsimp only
  (repeat' split) <;> simp

theorem execSelfTestPhaseEnd_answers (phase unit : Nat) (found : TestFinding) : Answers s (execSelfTestPhaseEnd phase unit found s) :=
  ⟨_, rfl, by dsimp only; (repeat' split) <;> simp⟩

@[simp] theorem abortTest_pending : (abortTest s).pending = s.pending := by simp [abortTest]

/-! ## Rings -/

theorem execMsixCoalesce_answers (ring : Nat) : Answers s (execMsixCoalesce ring s) := ⟨_, rfl, by (repeat' split) <;> simp⟩

@[simp] theorem markClosing_pending (c : Cmd) : (markClosing s c).pending = s.pending := by simp [markClosing]

@[simp] theorem evaluate_pending (c : Cmd) : (evaluate s c).pending = s.pending := by
  unfold evaluate
  split <;> simp

@[simp] theorem addCmd_pending (c : Cmd) : (addCmd s c).pending = s.pending := by simp [addCmd]

@[simp] theorem rejectSeq_pending (ring : Nat) (p : Packet) (status result0 : Nat) : (rejectSeq s ring p status result0).pending = s.pending := by
  simp [rejectSeq]

@[simp] theorem consumeNew_pending (ring : Nat) (q : Ring) (p : Packet) : (consumeNew s ring q p).pending = s.pending := by
  unfold consumeNew
  dsimp only
  (repeat' split) <;> simp

@[simp] theorem consumeDup_pending (ring : Nat) (q : Ring) (p : Packet) : (consumeDup s ring q p).pending = s.pending := by
  unfold consumeDup
  (repeat' split) <;> simp

@[simp] theorem consume_pending (ring : Nat) (q : Ring) : (consume s ring q).pending = s.pending := by simp [consume]

@[simp] theorem atLimit_pending : (atLimit s).pending = s.pending := by simp [atLimit]

theorem execPacketConsume_answers (ring : Nat) : Answers s (execPacketConsume ring s) := ⟨_, rfl, by (repeat' split) <;> simp⟩

theorem execConsumptionResume_answers : Answers s (execConsumptionResume s) := ⟨_, rfl, by dsimp only; (repeat' split) <;> simp⟩

@[simp] theorem releaseBehind_pending (ring : Nat) (l : List Cmd) {s : State} : (releaseBehind ring l s).pending = s.pending := by
  induction l generalizing s with
  | nil => rfl
  | cons c l ih =>
    unfold releaseBehind
    split
    · rfl
    · rw [ih, evaluate_pending]

theorem execFenceStart_answers (ring seq : Nat) : Answers s (execFenceStart ring seq s) := ⟨_, rfl, by dsimp only; (repeat' split) <;> simp⟩

@[simp] theorem reached_pending (c : Cmd) (progress position : Nat) : (reached s c progress position).pending = s.pending := by
  unfold reached
  split <;> simp

theorem execInProgressPost_answers (ring seq progress position : Nat) : Answers s (execInProgressPost ring seq progress position s) :=
  ⟨_, rfl, by dsimp only; (repeat' split) <;> simp⟩

theorem execHello_answers (ring seq : Nat) : Answers s (execHello ring seq s) := ⟨_, rfl, by simp⟩

@[simp] theorem endGoodbye_pending (c : Cmd) : (endGoodbye s c).pending = s.pending := by simp [endGoodbye]

theorem execGoodbye_answers (ring seq : Nat) : Answers s (execGoodbye ring seq s) := ⟨_, rfl, by simp⟩

theorem execRingCreate_answers (ring seq : Nat) : Answers s (execRingCreate ring seq s) := ⟨_, rfl, by simp⟩

@[simp] theorem destroyRing_pending (ring : Nat) : (destroyRing s ring).pending = s.pending := by simp [destroyRing]

@[simp] theorem endDestroy_pending (c : Cmd) : (endDestroy s c).pending = s.pending := by
  unfold endDestroy
  split <;> simp

theorem execRingDestroy_answers (ring seq : Nat) : Answers s (execRingDestroy ring seq s) :=
  ⟨_, rfl, onReady_pending fun c => by dsimp only; (repeat' split) <;> simp⟩

theorem execRingBind_answers (ring seq : Nat) : Answers s (execRingBind ring seq s) := ⟨_, rfl, by simp⟩

/-! ## The host interface -/

@[simp] theorem ignoreDb_pending (fn : Nat) : (ignoreDb s fn).pending = s.pending := by simp [ignoreDb]

@[simp] theorem ringTail_pending (fn ring index resv : Nat) : (ringTail s fn ring index resv).pending = s.pending := by
  unfold ringTail
  split <;> simp

@[simp] theorem ringHead_pending (fn ring index resv : Nat) : (ringHead s fn ring index resv).pending = s.pending := by
  unfold ringHead
  split <;> simp

@[simp] theorem hostWrites_pending (wr : List (Nat × List Byte)) : (hostWrites s wr).pending = s.pending := by simp [hostWrites]

theorem execDoorbellTail_answers (fn ring index resv : Nat) (wr : List (Nat × List Byte)) : Answers s (execDoorbellTail fn ring index resv wr s) :=
  ⟨_, rfl, by simp⟩

theorem execDoorbellHead_answers (fn ring index resv : Nat) : Answers s (execDoorbellHead fn ring index resv s) := ⟨_, rfl, by simp⟩

@[simp] theorem adminEnable_pending (fn v : Nat) : (adminEnable s fn v).pending = s.pending := by simp [adminEnable]

@[simp] theorem clearEnable_pending (fn : Nat) : (clearEnable s fn).pending = s.pending := by simp [clearEnable]

theorem execAdminEnable_answers (fn value : Nat) : Answers s (execAdminEnable fn value s) := ⟨_, rfl, by simp⟩

@[simp] theorem adminDisable_pending (fn v : Nat) : (adminDisable s fn v).pending = s.pending := by simp [adminDisable]

theorem execAdminDisable_answers (fn value : Nat) : Answers s (execAdminDisable fn value s) := ⟨_, rfl, by simp⟩

@[simp] theorem writeMsix_pending (fn word v : Nat) : (writeMsix s fn word v).pending = s.pending := by simp [writeMsix]

@[simp] theorem writeBar0_pending (fn o v : Nat) : (writeBar0 s fn o v).pending = s.pending := by simp [writeBar0]

@[simp] theorem writeBar2_pending (fn o v : Nat) : (writeBar2 s fn o v).pending = s.pending := by
  unfold writeBar2
  split <;> simp

@[simp] theorem writeSsc_pending (v : Nat) : (writeSsc s v).pending = s.pending := by simp [writeSsc]

@[simp] theorem writeClearCode_pending (code : Nat) : (writeClearCode s code).pending = s.pending := by simp [writeClearCode]

@[simp] theorem writeSmbus_pending (cmd v : Nat) : (writeSmbus s cmd v).pending = s.pending := by
  unfold writeSmbus
  split <;> simp

theorem execRegisterWrite_answers (t : RegTarget) (value : Nat) : Answers s (execRegisterWrite t value s) :=
  ⟨_, rfl, by (repeat' split) <;> simp⟩

theorem execSscCfgWrite_answers (value : Nat) : Answers s (execSscCfgWrite value s) := ⟨_, rfl, by simp⟩

theorem execClearCodeWrite_answers (code : Nat) : Answers s (execClearCodeWrite code s) := ⟨_, rfl, by simp⟩

theorem execLowHalfRead_answers (fn offset : Nat) : Answers s (execLowHalfRead fn offset s) := ⟨_, rfl, by simp⟩

theorem execHighHalfRead_answers (fn offset : Nat) : Answers s (execHighHalfRead fn offset s) :=
  ⟨_, rfl, by dsimp only; (repeat' split) <;> simp⟩

@[simp] theorem resetFn_pending (vf : Nat) : (resetFn s vf).pending = s.pending := by simp [resetFn]

theorem execFlr_answers (vf : Nat) : Answers s (execFlr vf s) := ⟨_, rfl, by simp⟩

@[simp] theorem setVfs_pending (n : Nat) : (setVfs s n).pending = s.pending := by simp [setVfs]

theorem execConfigRequest_answers (fn : Nat) (op : CfgOp) : Answers s (execConfigRequest fn op s) := ⟨_, rfl, by (repeat' split) <;> simp⟩

theorem execSmbusRefresh_answers : Answers s (execSmbusRefresh s) := ⟨_, rfl, by simp⟩

theorem execHostLinkRetrain_answers (rate width cause : Nat) : Answers s (execHostLinkRetrain rate width cause s) := ⟨_, rfl, by simp⟩

/-! ## Device commands -/

@[simp] theorem keepGib_pending (gib : Nat) : (keepGib s gib).pending = s.pending := by simp [keepGib]

@[simp] theorem endLeave_pending (c : Cmd) : (endLeave s c).pending = s.pending := by simp [endLeave]

@[simp] theorem stateSet_pending (c : Cmd) : (stateSet s c).pending = s.pending := by
  unfold stateSet
  dsimp only
  (repeat' split) <;> simp

theorem execStateSet_answers (ring seq : Nat) : Answers s (execStateSet ring seq s) := ⟨_, rfl, by simp⟩

theorem execWake_answers : Answers s (execWake s) := ⟨_, rfl, by simp⟩

@[simp] theorem endPower_pending (c : Cmd) : (endPower s c).pending = s.pending := by simp [endPower]

theorem execPowerDown_answers (ring seq : Nat) : Answers s (execPowerDown ring seq s) := ⟨_, rfl, by simp⟩

@[simp] theorem refreshed_pending (t : Cmd) : (refreshed s t).1.pending = s.pending := by simp [refreshed]

theorem execOpProgress_answers (ring seq : Nat) : Answers s (execOpProgress ring seq s) :=
  ⟨_, rfl, onReady_pending fun c => by dsimp only; (repeat' split) <;> simp⟩

@[simp] theorem abortOp_pending (t : Cmd) : (abortOp s t).pending = s.pending := by
  unfold abortOp
  dsimp only
  (repeat' split) <;> simp

@[simp] theorem endAbort_pending (c : Cmd) : (endAbort s c).pending = s.pending := by simp [endAbort]

theorem execOpAbort_answers (ring seq : Nat) : Answers s (execOpAbort ring seq s) :=
  ⟨_, rfl, onReady_pending fun c => by dsimp only; (repeat' split) <;> simp⟩

theorem execOutstandingDrained_answers (ring seq : Nat) : Answers s (execOutstandingDrained ring seq s) := ⟨_, rfl, by (repeat' split) <;> simp⟩

theorem execTraceStart_answers (ring seq : Nat) : Answers s (execTraceStart ring seq s) := ⟨_, rfl, by simp⟩

theorem execTraceStop_answers (ring seq : Nat) : Answers s (execTraceStop ring seq s) :=
  ⟨_, rfl, onReady_pending fun c => by dsimp only; (repeat' split) <;> simp⟩

theorem execRecordStart_answers (ring seq : Nat) : Answers s (execRecordStart ring seq s) := ⟨_, rfl, by simp⟩

theorem execRecordStop_answers (ring seq : Nat) : Answers s (execRecordStop ring seq s) :=
  ⟨_, rfl, onReady_pending fun c => onCtx_pending fun x => by
  dsimp only
  (repeat' split) <;> simp⟩

@[simp] theorem setSlot_pending (i : Nat) (f : FwSlot) : (setSlot s i f).pending = s.pending := by simp [setSlot]

theorem execFwStage_answers (ring seq : Nat) : Answers s (execFwStage ring seq s) :=
  ⟨_, rfl, onLong_pending (fun c t h => by split at h <;> cases h <;> simp) fun c => by dsimp only; split <;> simp⟩

@[simp] theorem restartFw_pending : (restartFw s).pending = s.pending := by simp [restartFw]

theorem execFwActivate_answers (ring seq : Nat) : Answers s (execFwActivate ring seq s) :=
  ⟨_, rfl, onReady_pending fun c => by dsimp only; (repeat' split) <;> simp⟩

/-! ## Replay and the dispatch -/

theorem execReplay_answers (ring seq : Nat) : Answers s (execReplay ring seq s) := ⟨_, rfl, onReady_pending fun c => onCtx_pending fun x => by
  dsimp only
  (repeat' split) <;> simp⟩

@[simp] theorem updReplay_pending (ctx : Nat) (f : Replay → Replay) : (updReplay s ctx f).pending = s.pending := by simp [updReplay]

@[simp] theorem endReplay_pending (ctx : Nat) (r : Replay) (o : List Byte × Nat) : (endReplay s ctx r o).pending = s.pending := by
  unfold endReplay
  dsimp only
  (repeat' split) <;> simp

theorem after_pending {o : Host.Outcome State Fault Refusal} (answers : Answers s o) : (after s o).pending = s.pending := by
  obtain ⟨t, rfl, same⟩ := answers
  exact same

@[simp] theorem runOpc_pending (opc ring seq : Nat) : (runOpc opc ring seq s).pending = s.pending := by
  unfold runOpc
  split
  · exact after_pending (execCtxLoad_answers ..)
  · exact after_pending (execVariantLoad_answers ..)
  · exact after_pending (execVariantDrop_answers ..)
  · exact after_pending (execTableLoad_answers ..)
  · exact after_pending (execTableUpdate_answers ..)
  · exact after_pending (execReqOpen_answers ..)
  · exact after_pending (execReqAppend_answers ..)
  · exact after_pending (execReqStep_answers ..)
  · exact after_pending (execReqVerify_answers ..)
  · exact after_pending (execReqClose_answers ..)
  · exact after_pending (execReqCancel_answers ..)
  · exact after_pending (execReqQuery_answers ..)
  · exact after_pending (execPrefixPin_answers ..)
  · exact after_pending (execPrefixRelease_answers ..)
  · exact after_pending (execPanelRead_answers ..)
  · exact after_pending (execPanelWrite_answers ..)
  · rfl

@[simp] theorem reissue_pending (ctx : Nat) (x : Ctx) (r : Replay) (e : Nat × RepRec) : (reissue s ctx x r e).pending = s.pending := by
  simp [reissue]

@[simp] theorem reissueDue_pending (ctx n : Nat) {s : State} : (reissueDue ctx n s).pending = s.pending := by
  induction n generalizing s with
  | zero => rfl
  | succ n ih =>
    unfold reissueDue
    split
    · dsimp only
      split
      · simp
      · rw [ih, runOpc_pending]
    · split
      · rfl
      · split
        · rfl
        · split
          · rfl
          · split
            · rw [ih, reissue_pending]
            · rfl

@[simp] theorem replayDispatch_pending (ctx : Nat) : (replayDispatch s ctx).pending = s.pending := by
  unfold replayDispatch
  dsimp only
  (repeat' split) <;> simp

@[simp] theorem replayBoundary_pending (ctx : Nat) (x : Ctx) (r : Replay) : (replayBoundary s ctx x r).pending = s.pending := by
  unfold replayBoundary
  split <;> simp

@[simp] theorem memberBoundary_pending (ctx : Nat) (x : Ctx) : (memberBoundary s ctx x).pending = s.pending := by
  unfold memberBoundary
  split
  · rfl
  · split
    · rfl
    · dsimp only
      split
      next e => simpa using pending_of_triple (takeAll_pending ..) e
      next e => simpa using pending_of_triple (takeAll_pending ..) e

@[simp] theorem ctxBoundary_pending (ctx : Nat) : (ctxBoundary s ctx).pending = s.pending := by
  unfold ctxBoundary
  dsimp only
  (repeat' split) <;> simp

theorem execDispatchBoundary_answers (ctx : Nat) : Answers s (execDispatchBoundary ctx s) := ⟨_, rfl, by simp⟩

end Sys2Proof.Machine
end
section
/-! The queue along every command (01_machine): one rule a meaning, and each gives a next state. -/

namespace Sys2Proof.Machine

variable {s t : State}

theorem Answers.pending {o : Host.Outcome State Fault Refusal} (answers : Answers s o) (run : o = .next t) : t.pending = s.pending := by
  obtain ⟨u, rfl, same⟩ := answers
  cases run
  exact same

/-- Every command answers a next state in which the same commands wait: one rule a meaning. -/
theorem exec_answers (c : Instr) (s : State) : Answers s (exec c s) := by
  cases c
  exacts [
    execPacketConsume_answers .., execFenceStart_answers .., execInProgressPost_answers .., execMsixCoalesce_answers ..,
    execConsumptionResume_answers .., execOutstandingDrained_answers .., execDoorbellTail_answers .., execDoorbellHead_answers ..,
    execAdminEnable_answers .., execAdminDisable_answers .., execRegisterWrite_answers .., execLowHalfRead_answers ..,
    execHighHalfRead_answers .., execConfigRequest_answers .., execFlr_answers .., execSscCfgWrite_answers .., execLogDataRead_answers ..,
    execClearCodeWrite_answers .., execHello_answers .., execGoodbye_answers .., execRingCreate_answers .., execRingDestroy_answers ..,
    execRingBind_answers .., execCtxCreate_answers .., execCtxDestroy_answers .., execCtxLoad_answers .., execVariantLoad_answers ..,
    execVariantDrop_answers .., execTableLoad_answers .., execTableUpdate_answers .., execReqOpen_answers .., execReqAppend_answers ..,
    execReqStep_answers .., execReqVerify_answers .., execReqClose_answers .., execReqCancel_answers .., execReqQuery_answers ..,
    execPrefixPin_answers .., execPrefixRelease_answers .., execPanelRead_answers .., execPanelWrite_answers .., execCalRun_answers ..,
    execCalStatus_answers .., execCalCommit_answers .., execSelfTest_answers .., execSweepConfig_answers .., execCascadeJoin_answers ..,
    execCascadeLeave_answers .., execCrownAssign_answers .., execMirrorConfig_answers .., execFailoverAdopt_answers ..,
    execLogFreeze_answers .., execLogRead_answers .., execLogThaw_answers .., execLogClear_answers .., execPowerLimit_answers ..,
    execStateSet_answers .., execPowerDown_answers .., execTraceStart_answers .., execTraceStop_answers .., execRecordStart_answers ..,
    execRecordStop_answers .., execReplay_answers .., execOpProgress_answers .., execOpAbort_answers .., execFwStage_answers ..,
    execFwActivate_answers .., execDispatchBoundary_answers .., execSpillReturn_answers .., execAppendChunkRetry_answers ..,
    execAppendChunkTimeout_answers .., execExecutionStart_answers .., execExecutionEnd_answers .., execInstructionComplete_answers ..,
    execExecLimitExpire_answers .., execFire_answers .., execFirev_answers .., execFireSlot_answers .., execPreload_answers ..,
    execPromote_answers .., execMove_answers .., execQuant_answers .., execDeq_answers .., execSend_answers .., execRecv_answers ..,
    execReduce_answers .., execKvapp_answers .., execHobFlush_answers .., execKvidx_answers .., execKvgath_answers .., execAttn_answers ..,
    execKvevict_answers .., execNorm_answers .., execAct_answers .., execRope_answers .., execEmbg_answers .., execSample_answers ..,
    execVerify_answers .., execWaitCtr_answers .., execSignal_answers .., execSignalArrival_answers .., execLoopBody_answers ..,
    execBr_answers .., execEndExec_answers .., execNopInstr_answers .., execTimeread_answers .., execRecompute_answers ..,
    execOutlier_answers .., execDelta_answers .., execFlueResultArrival_answers .., execFreeFlue_answers .., execStorageReport_answers ..,
    execStorageRepair_answers .., execScrubRow_answers .., execWindowClose_answers .., execBgCalDwell_answers ..,
    execRecalDwell_answers .., execCalReferenceCheck_answers .., execCalAttemptEnd_answers .., execCalTrimLoad_answers ..,
    execSelfTestPhaseEnd_answers .., execSweepRound_answers .., execSweepDigest_answers .., execSweepSubinterval_answers ..,
    execHbmPatrol_answers .., execHbmUncorrectable_answers .., execHbmStackFail_answers .., execTileParityError_answers ..,
    execMeshParityError_answers .., execHostReadFail_answers .., execHostReadRetryResult_answers .., execErrorRaise_answers ..,
    execHandlerEnd_answers .., execHandlerTimeout_answers .., execRootAttemptStart_answers .., execRootAttemptTimeout_answers ..,
    execRootSeriesRetry_answers .., execMonitorWindow_answers .., execMissingEdgeTrip_answers .., execLockLostTrip_answers ..,
    execLane0EnterL0_answers .., execLane0LeaveL0_answers .., execDividerStep_answers .., execHbmRecovery_answers ..,
    execV12Rise_answers .., execRailPowerGood_answers .., execRailEnableTimeout_answers .., execRailReenable_answers ..,
    execPerstAssert_answers .., execPerstDeassert_answers .., execHotReset_answers .., execBootComplete_answers ..,
    execRailFailRun_answers .., execPwrInputLow_answers .., execInputRecovered_answers .., execInputLoss_answers ..,
    execSenseChange_answers .., execRailFallen_answers .., execRailFallTimeout_answers .., execWake_answers ..,
    execHostLinkRetrain_answers .., execModulePresent_answers .., execModuleRemoved_answers .., execCageOvercurrent_answers ..,
    execThmUpdate_answers .., execCoefficientAdjust_answers .., execSensorInvalid_answers .., execFlueLoadWindow_answers ..,
    execTableUpdateApply_answers .., execLogEvent_answers .., execLogRecordTimeout_answers .., execLogFlashWrite_answers ..,
    execLogRecordsLost_answers .., execLogFreezeTimeout_answers .., execPortTrained_answers .., execTrainFrame_answers ..,
    execPortRetrain_answers .., execJoinTimeout_answers .., execAnnounceSend_answers .., execAnnounceFrame_answers ..,
    execLinkFrame_answers .., execLackReport_answers .., execFrameReceive_answers .., execFrameForward_answers ..,
    execRetransmitTimeout_answers .., execFullResend_answers .., execLnkRetryExhausted_answers .., execStartFrame_answers ..,
    execDoneFrame_answers .., execCommitFrame_answers .., execAbortFrame_answers .., execAbortAck_answers .., execStepTimeout_answers ..,
    execHeartbeatSend_answers .., execHeartbeatFrame_answers .., execHeartbeatSilence_answers .., execFenceFrame_answers ..,
    execDataFrame_answers .., execCreditFrame_answers .., execGatherReq_answers .., execGatherRsp_answers .., execTupdateFrame_answers ..,
    execMirrorFrame_answers .., execMirrorAck_answers .., execMirrorFree_answers .., execXferFrame_answers ..,
    execRegulatorFaultDown_answers .., execV3p3AuxChange_answers .., execLossOfSignal_answers .., execSmbusRefresh_answers ..,
    execChimneyContextReady_answers ..]

/-- Settles O3: each meaning gives a next state, and no operation that it calls touches the queue. -/
theorem commandsAnswerAndLeaveTheQueue : Obligations.CommandsAnswerAndLeaveTheQueue :=
  ⟨fun c s => (exec_answers c s).imp fun _ answer => answer.1, fun c s _ run => (exec_answers c s).pending run⟩

end Sys2Proof.Machine
end
